-- ==== Sys2Proof/Word.lean ====
section
/-! DEFINITION. Words, the operand types of the instructions, and sparse tables with a default value.

The names follow the manual: `F32` … `L16` are the formats of R120, C, L, X and S the sequencers of R47,
g, T, LQ, SQ the register codes of R79. -/

namespace Sys2Proof

/-- A general register's contents (R104). -/
abbrev Word := BitVec 64

/-- One byte of memory (R2). -/
abbrev Byte := BitVec 8

/-- An instruction word of a sequencer (R77). -/
abbrev Word80 := BitVec 80

/-- A general register number, g0 to g31 (R79). -/
abbrev GReg := Fin 32

/-- A tile register number, T0 to T47 (R79). -/
abbrev TReg := Fin 48

/-- A scoreboard tag, t0 to t7 (R88). -/
abbrev Tag := Fin 8

/-- The element formats of R120, in the order of their codes. -/
inductive Fmt where
  | f32 | bf16 | f16 | e4m3 | e5m2 | i32 | i8 | q4 | q4x | l16
  deriving DecidableEq, Repr

/-- The four sequencers of a core-task (R47), in the order of R375. -/
inductive SeqId where
  | c | l | x | s
  deriving DecidableEq, Repr

/-- The rounding modes of R82 and R125. -/
inductive Rnd where
  | rne | rtz | rdn | rup
  deriving DecidableEq, Repr

/-- The load sizes of R344. -/
inductive LoadSize where
  | b | bu | h | hu | w | wu | d
  deriving DecidableEq, Repr

/-- The store sizes of R369. -/
inductive StoreSize where
  | b | h | w | d
  deriving DecidableEq, Repr

/-- The scalar comparisons of R97 and R220. -/
inductive Cond where
  | eq | ne | lt | ge | ltu | geu
  deriving DecidableEq, Repr

/-- The tile comparisons of R387. -/
inductive VCond where
  | eq | ne | lt | le | gt | ge
  deriving DecidableEq, Repr

/-- The atomic operations of R206. -/
inductive AtomOp where
  | add | and | or | xor | min | max | swap
  deriving DecidableEq, Repr

/-- Element kinds of a tile accumulate or a link addition (R208, R219). -/
inductive AccFmt where
  | f32 | bf16 | i32
  deriving DecidableEq, Repr

/-- The scopes of R192. -/
inductive Scope where
  | core | gang | chip | sys
  deriving DecidableEq, Repr

/-- A tile source: a tile register, a load-queue head, or a ring depth minus 1 (R79, R85). -/
inductive VSrc where
  | tile (t : TReg)
  | lq (q : Fin 8)
  | ring (d : Fin 7)
  deriving DecidableEq, Repr

/-- A tile destination: a tile register, a store-queue tail, or the ring alone (R79, R84). -/
inductive VDst where
  | tile (t : TReg)
  | sq (q : Fin 4)
  | ring
  deriving DecidableEq, Repr

/-- The part of a vector word that every group shares (R380): tags, destination, whether RING = 01
writes the ring as well, source A with its strict bit, and MOD. -/
structure VWord where
  cons : BitVec 8
  alloc : Option Tag
  dst : VDst
  ring : Bool
  a : VSrc
  strictA : Bool
  rnd : Rnd
  sat : Bool
  deriving DecidableEq, Repr

/-- An operand pair of MXMUL or MXMULS (R141); `bs` marks the block-scaled forms. -/
structure MxPair where
  bs : Bool
  a : Fmt
  b : Fmt
  deriving DecidableEq, Repr

/-- The payload of MXMUL and MXMULS (R141); `mdq` and `spn` are used by MXMULS alone. -/
structure MxMul where
  wsem : BitVec 8
  ssem : BitVec 8
  pair : MxPair
  acc : Fin 16
  ta : BitVec 6
  tb : BitVec 6
  zero : Bool
  rsum : Bool
  rep : Fin 16
  cb : Fin 8
  mdq : Fin 2
  spn : Fin 8
  deriving DecidableEq, Repr

/-- The payload of MXRD and MXEPI (R146, R148): accumulator, tile, rows and columns. -/
structure MxWin where
  wsem : BitVec 8
  ssem : BitVec 8
  acc : Fin 16
  t : BitVec 6
  rows : BitVec 7
  cols : BitVec 7
  deriving DecidableEq, Repr

/-- The epilogues of R148. -/
inductive Epi where
  | s | sz | szb
  deriving DecidableEq, Repr

/-- The dimensions of a copy (R335). -/
inductive Dims where
  | d1 | d2 | d3
  deriving DecidableEq, Repr

/-- The payload of a copy (R332). -/
structure CopyOp where
  wsem : BitVec 8
  ssem : BitVec 8
  rd : GReg
  rs : GReg
  rl : GReg
  rg : GReg
  bar : Option (Fin 64)
  deriving DecidableEq, Repr

/-- A fence or register operand that is an immediate or a g register (R326, R361, R375). -/
inductive Operand (n : Nat) where
  | imm (v : BitVec n)
  | reg (g : GReg)
  deriving DecidableEq, Repr

/-- A delivery of the peer port (R348, R350): the sender's rank in its group and its peer-port base,
the opcode's element kind (`none` for LKSEND), the link word, its tick, the bytes, and whether a migration's source
relays it (R313). -/
structure LinkPacket where
  sender : Nat
  senderBase : Nat
  kind : Option AccFmt
  word : Word
  tick : Nat
  bytes : List Byte
  relayed : Bool
  deriving DecidableEq, Repr

/-- The faults of a delivery that go to its sender (R350). -/
inductive LinkFault where
  | linkMiss
  | barOverflow
  | semOverflow
  deriving DecidableEq, Repr

/-- What reaches the link receive unit (R349, R350): the next transfer that was turned round inside the device, a
delivery from a peer, or a peer's word that a delivery of core-task `rank` of a task ended in a fault. -/
inductive LinkArrival where
  | inside
  | packet (p : LinkPacket)
  | fault (id : BitVec 32) (rank : Nat) (waddr : BitVec 32) (f : LinkFault)
  deriving DecidableEq, Repr

/-- The packet of the fabric, or the access, that a hardware error meets (R289, R290): of the C-sequencer's word, a posted
store, the deferred access of a tag, a piece of an accumulate in flight, an operation that a home slice holds, a running
copy; or a packet that has no issuing agent: the wake of a WAITA or of a future's waiter, the acceptance of a piece, the
refusal of one. `fetch` is the fetch of a sequencer's next word from its image (R77). -/
inductive Packet where
  | word
  | fetch (q : SeqId)
  | store (idx : Nat)
  | tagged (t : Nat)
  | piece (idx : Nat)
  | queued (slice idx : Nat)
  | copy (n : Nat)
  | wake (slice idx : Nat)
  | futureWake (idx : Nat)
  | acceptance (idx : Nat)
  | refusal (idx : Nat)
  deriving DecidableEq, Repr

/-- A packet has no issuing agent (R290). -/
def Packet.unissued : Packet → Bool
  | .wake .. | .futureWake _ | .acceptance _ | .refusal _ => true
  | _ => false

/-- Where a hardware error is met (R288, R289): a core's SRAM by a sequencer (kind 0 to 3), the matrix engine (4) or the
copy of register n (5 + n) of its core-task, a home slice, or a line at a home slice or, with `gddr`, in the GDDR 7, met
by a read of an access or by none. -/
inductive ErrSite where
  | core (slot rank kind : Nat)
  | slice (n : Fin 64)
  | line (dpa : Nat) (gddr : Bool)
  | lineRead (dpa slot rank : Nat) (access : Packet) (gddr : Bool)
  deriving DecidableEq, Repr

/-- What the boot ROM finds in one firmware image (R315): whether its two signatures hold and the hashes of the keys that
made them, the security version,
whether the image is well formed, and its SHA-256. -/
structure BootImage where
  makerOk : Bool
  maker : BitVec 256
  ownerOk : Bool
  owner : BitVec 256
  version : Nat
  wellFormed : Bool
  hash : BitVec 256
  deriving DecidableEq, Repr

/-- A signature of a command (R317): whether it holds, and the hash of the key that made it. -/
structure Signature where
  holds : Bool
  signer : BitVec 256
  deriving DecidableEq, Repr

/-- An end marker (R313): the VF, and the peer whose direct deliveries it lets in. -/
structure Marker where
  vf : Fin 9
  peer : Nat
  deriving DecidableEq, Repr

/-- What the host grants when it enables the PRI of a function (R179, R180): the function, and its allocation of page
requests. -/
structure PriGrant where
  vf : Fin 9
  alloc : BitVec 32
  deriving DecidableEq, Repr

/-- An answer packet of a remote submission (R237). -/
inductive RemoteAnswer where
  | refused (code : Nat)
  | accepted (taskid : BitVec 32)
  | retired
  deriving DecidableEq, Repr

/-! ### Sparse tables with a default value

`Tab α` lists the keys whose value differs from the default, in strictly rising order, so that equal
tables are equal lists. Memory is `Tab Byte` with default 0. -/

/-- A sparse table: keys in strictly rising order, no entry equal to the default. -/
abbrev Tab (α : Type) := List (Nat × α)

namespace Tab

variable {α : Type}

/-- The value at key `k`; `d` is the default. -/
def get (d : α) : Tab α → Nat → α
  | [], _ => d
  | (k', v) :: t, k => if k' = k then v else get d t k

/-- Insert or replace the entry of `k`, whatever the value. -/
def put (k : Nat) (v : α) : Tab α → Tab α
  | [] => [(k, v)]
  | (k', v') :: t =>
    if k < k' then (k, v) :: (k', v') :: t
    else if k = k' then (k, v) :: t
    else (k', v') :: put k v t

/-- Remove the entry of `k`. -/
def del (k : Nat) : Tab α → Tab α
  | [] => []
  | (k', v') :: t => if k = k' then del k t else (k', v') :: del k t

/-- Write `v` at `k`; writing the default removes the entry. -/
def set [DecidableEq α] (d : α) (t : Tab α) (k : Nat) (v : α) : Tab α :=
  if v = d then del k t else put k v t

/-- Change the value at `k` by `f`. -/
def upd [DecidableEq α] (d : α) (t : Tab α) (k : Nat) (f : α → α) : Tab α :=
  set d t k (f (get d t k))

/-- The keys rise strictly, starting above `lo` when it is given, and no entry holds the default. -/
def wfFrom [DecidableEq α] (d : α) : Option Nat → Tab α → Bool
  | _, [] => true
  | lo, (k, v) :: t =>
    (match lo with
      | none => true
      | some l => decide (l < k)) && decide (v ≠ d) && wfFrom d (some k) t

/-- The canonical form. -/
def wf [DecidableEq α] (d : α) (t : Tab α) : Bool := wfFrom d none t

end Tab

end Sys2Proof
end

