-- ==== Sys2Proof/Syntax.lean ====
section
/-! DEFINITION. The steps of the device: one constructor for each row of the opcode table.

The first part holds the 80-bit words of the sequencers, then the four Xumak words of the service
complex; the rest are the device's own steps and the host's actions (95_what_each_step_holds). A
word's first argument `k` is its CONS field (R90); `t` is its tag when ALLOC is set (R88). An event's
arguments name what it acts on (`slot` and `rank` a core-task by task slot and gang rank) and carry what
comes from outside the device. -/

namespace Sys2Proof

/-- One step of the device (one constructor per row of the opcode table). -/
inductive Instr where
  -- class 0: scalar integer words
  | addReg (k : BitVec 8) (d a b : GReg)
  | addImm (k : BitVec 8) (d a : GReg) (imm : BitVec 40)
  | sub (k : BitVec 8) (d a b : GReg)
  | mulReg (k : BitVec 8) (d a b : GReg)
  | mulImm (k : BitVec 8) (d a : GReg) (imm : BitVec 40)
  | mulh (k : BitVec 8) (d a b : GReg)
  | mulhU (k : BitVec 8) (d a b : GReg)
  | divu (k : BitVec 8) (t : Option Tag) (d a b : GReg)
  | remu (k : BitVec 8) (t : Option Tag) (d a b : GReg)
  | andReg (k : BitVec 8) (d a b : GReg)
  | andImm (k : BitVec 8) (d a : GReg) (imm : BitVec 40)
  | orReg (k : BitVec 8) (d a b : GReg)
  | orImm (k : BitVec 8) (d a : GReg) (imm : BitVec 40)
  | xorReg (k : BitVec 8) (d a b : GReg)
  | xorImm (k : BitVec 8) (d a : GReg) (imm : BitVec 40)
  | shlReg (k : BitVec 8) (d a b : GReg)
  | shlImm (k : BitVec 8) (d a : GReg) (c : BitVec 6)
  | shrReg (k : BitVec 8) (d a b : GReg)
  | shrImm (k : BitVec 8) (d a : GReg) (c : BitVec 6)
  | sarReg (k : BitVec 8) (d a b : GReg)
  | sarImm (k : BitVec 8) (d a : GReg) (c : BitVec 6)
  | sltReg (k : BitVec 8) (d a b : GReg)
  | sltImm (k : BitVec 8) (d a : GReg) (imm : BitVec 40)
  | sltuReg (k : BitVec 8) (d a b : GReg)
  | sltuImm (k : BitVec 8) (d a : GReg) (imm : BitVec 40)
  | seqReg (k : BitVec 8) (d a b : GReg)
  | seqImm (k : BitVec 8) (d a : GReg) (imm : BitVec 40)
  | min (k : BitVec 8) (d a b : GReg)
  | minU (k : BitVec 8) (d a b : GReg)
  | max (k : BitVec 8) (d a b : GReg)
  | maxU (k : BitVec 8) (d a b : GReg)
  | mov (k : BitVec 8) (d a : GReg)
  | li (k : BitVec 8) (d : GReg) (imm : BitVec 40)
  | lih (k : BitVec 8) (d : GReg) (imm : BitVec 24)
  | sel (k : BitVec 8) (d a b c : GReg)
  | bfx (k : BitVec 8) (d a : GReg) (lsb : BitVec 6) (width : BitVec 7)
  | bfxS (k : BitVec 8) (d a : GReg) (lsb : BitVec 6) (width : BitVec 7)
  | bfi (k : BitVec 8) (d a : GReg) (lsb : BitVec 6) (width : BitVec 7)
  | clz (k : BitVec 8) (d a : GReg)
  | ctz (k : BitVec 8) (d a : GReg)
  | popc (k : BitVec 8) (d a : GReg)
  | madd (k : BitVec 8) (d a b c : GReg)
  -- class 1: control flow, tokens, sequencers
  | b (k : BitVec 8) (off : BitVec 40)
  | bcEq (k : BitVec 8) (a b : GReg) (off : BitVec 40)
  | bcNe (k : BitVec 8) (a b : GReg) (off : BitVec 40)
  | bcLt (k : BitVec 8) (a b : GReg) (off : BitVec 40)
  | bcGe (k : BitVec 8) (a b : GReg) (off : BitVec 40)
  | bcLtu (k : BitVec 8) (a b : GReg) (off : BitVec 40)
  | bcGeu (k : BitVec 8) (a b : GReg) (off : BitVec 40)
  | call (k : BitVec 8) (off : BitVec 40)
  | ret (k : BitVec 8)
  | jtbl (k : BitVec 8) (a : GReg) (n : Fin 4)
  | lpad (k : BitVec 8) (label : BitVec 16)
  | loopReg (k : BitVec 8) (a : GReg) (last : BitVec 20)
  | loopImm (k : BitVec 8) (count last : BitVec 20)
  | nop (k : BitVec 8)
  | fork (k : BitVec 8) (seq : SeqId) (target : BitVec 32)
  | rdv (k : BitVec 8) (mask : BitVec 4)
  | exit (k : BitVec 8)
  | tksig (k : BitVec 8) (seq : SeqId) (n : Operand 8)
  | tkwait (k : BitVec 8) (seq : SeqId) (n : Operand 8)
  | yield (k : BitVec 8)
  | grpend (k : BitVec 8)
  | trap (k : BitVec 8) (code : BitVec 16)
  -- class 2: loads, stores, address generators
  | ldg (k : BitVec 8) (t : Option Tag) (sz : LoadSize) (d a : GReg) (off : BitVec 40)
  | stg (k : BitVec 8) (sz : StoreSize) (v a : GReg) (off : BitVec 40)
  | ldl (k : BitVec 8) (t : Option Tag) (sz : LoadSize) (d a : GReg) (off : BitVec 40)
  | stl (k : BitVec 8) (sz : StoreSize) (v a : GReg) (off : BitVec 40)
  | agset (k : BitVec 8) (ag : Fin 16) (w : Fin 4) (a : GReg)
  | agget (k : BitVec 8) (d : GReg) (ag : Fin 16) (w : Fin 4)
  | sload (k : BitVec 8) (ag : Fin 16)
  | sstore (k : BitVec 8) (ag : Fin 16)
  | sadv (k : BitVec 8) (ag : Fin 16) (adv : Operand 36)
  | prefH (k : BitVec 8) (a b : GReg)
  | prefL (k : BitVec 8) (a b : GReg)
  -- class 3: element-wise tile words (`sb`, `sc` source B and C, `stB` the strict bit of B)
  | vaddF (w : VWord) (sb : VSrc) (stB : Bool)
  | vaddI (w : VWord) (sb : VSrc) (stB : Bool)
  | vsubF (w : VWord) (sb : VSrc) (stB : Bool)
  | vsubI (w : VWord) (sb : VSrc) (stB : Bool)
  | vmulF (w : VWord) (sb : VSrc) (stB : Bool)
  | vmulI (w : VWord) (sb : VSrc) (stB : Bool)
  | vminF (w : VWord) (sb : VSrc) (stB : Bool)
  | vminI (w : VWord) (sb : VSrc) (stB : Bool)
  | vmaxF (w : VWord) (sb : VSrc) (stB : Bool)
  | vmaxI (w : VWord) (sb : VSrc) (stB : Bool)
  | vabsF (w : VWord)
  | vabsI (w : VWord)
  | vnegF (w : VWord)
  | vnegI (w : VWord)
  | vclampF (w : VWord) (sb : VSrc) (stB : Bool) (sc : VSrc)
  | vclampI (w : VWord) (sb : VSrc) (stB : Bool) (sc : VSrc)
  | vcmpF (w : VWord) (cc : VCond) (sb : VSrc) (stB : Bool)
  | vcmpI (w : VWord) (cc : VCond) (sb : VSrc) (stB : Bool)
  | vfma (w : VWord) (lf : BitVec 2) (sb : VSrc) (stB : Bool) (sc : VSrc)
  | vfms (w : VWord) (lf : BitVec 2) (sb : VSrc) (stB : Bool) (sc : VSrc)
  | vfnma (w : VWord) (lf : BitVec 2) (sb : VSrc) (stB : Bool) (sc : VSrc)
  | vminnum (w : VWord) (sb : VSrc) (stB : Bool)
  | vmaxnum (w : VWord) (sb : VSrc) (stB : Bool)
  | vsel (w : VWord) (sb : VSrc) (stB : Bool) (sc : VSrc)
  | vand (w : VWord) (sb : VSrc) (stB : Bool)
  | vor (w : VWord) (sb : VSrc) (stB : Bool)
  | vxor (w : VWord) (sb : VSrc) (stB : Bool)
  | vshl (w : VWord) (sb : VSrc) (stB : Bool)
  | vshr (w : VWord) (sb : VSrc) (stB : Bool)
  | vsar (w : VWord) (sb : VSrc) (stB : Bool)
  | vmov (w : VWord)
  | vbcast (w : VWord) (row col : BitVec 6)
  | vfill (k : BitVec 8) (d : TReg) (ring : Bool) (g : GReg)
  | vscale (w : VWord) (sb : VSrc) (stB : Bool)
  | vrnd (w : VWord)
  | vaddFs (w : VWord) (g : GReg)
  | vsubFs (w : VWord) (g : GReg)
  | vmulFs (w : VWord) (g : GReg)
  | vminFs (w : VWord) (g : GReg)
  | vmaxFs (w : VWord) (g : GReg)
  | vfmaFs (w : VWord) (lf : BitVec 2) (g : GReg) (sc : VSrc)
  | vaddIs (w : VWord) (g : GReg)
  | vmulIs (w : VWord) (g : GReg)
  | vmaxIs (w : VWord) (g : GReg)
  | vminIs (w : VWord) (g : GReg)
  -- class 4: conversions, special functions, reductions, shapes
  | vcvt (w : VWord) (f : Fmt)
  | vqnt (w : VWord) (f : Fmt) (keep : Bool)
  | vdqnt (w : VWord) (f : Fmt)
  | vexp2 (w : VWord)
  | vlog2 (w : VWord)
  | vrcp (w : VWord)
  | vrsq (w : VWord)
  | vtanh (w : VWord)
  | vrmax (w : VWord) (int : Bool)
  | vrmin (w : VWord) (int : Bool)
  | vrsum (w : VWord) (int : Bool)
  | vcsum (w : VWord) (int : Bool)
  | vcmax (w : VWord) (int : Bool)
  | vtrn (w : VWord)
  | vlut (w : VWord) (f16 : Bool) (cb : Fin 8)
  | cbld (k : BitVec 8) (a : VSrc) (strictA : Bool) (cb : Fin 8)
  | tshape (k : BitVec 8) (d : TReg) (a : GReg)
  | tshget (k : BitVec 8) (d : GReg) (t : TReg) (strictA : Bool)
  | tagResultLands (slot rank : Nat) (seq : SeqId) (t : Tag)
  -- class 5: engine commands (pushes), and the engines' steps
  | mxmul (p : MxMul)
  | mxmuls (p : MxMul)
  | mxzero (wsem ssem : BitVec 8) (acc : Fin 16) (int : Bool)
  | mxwr (wsem ssem : BitVec 8) (acc : Fin 16) (t : BitVec 6)
  | mxrd (p : MxWin) (f : Fmt) (rnd : Rnd) (sat : Bool)
  | mxepi (p : MxWin) (v : Epi)
  | mxmulExec (slot rank : Nat)
  | mxmulsExec (slot rank : Nat)
  | mxzeroExec (slot rank : Nat)
  | mxwrExec (slot rank : Nat)
  | mxrdExec (slot rank : Nat)
  | mxepiExec (slot rank : Nat)
  | cpg2l (p : CopyOp) (n : Dims)
  | cpl2g (p : CopyOp) (n : Dims)
  | cpl2l (p : CopyOp) (n : Dims) (rank : Fin 16)
  | cpbc (p : CopyOp) (mask : BitVec 16)
  | cpfillL (p : CopyOp)
  | cpfillG (p : CopyOp)
  | cpmeta (p : CopyOp) (mdq : Fin 2) (count : BitVec 7)
  | copyStart (slot rank : Nat)
  | copyPiece (slot rank : Nat) (reg : Fin 8)
  | cpmetaEntry (slot rank : Nat) (reg : Fin 8)
  -- class 6: semaphores, barriers, atomics, accumulates, waits, fences, futures
  | semsigImm (k : BitVec 8) (sem : BitVec 8) (n : BitVec 16)
  | semsigReg (k : BitVec 8) (sem : BitVec 8) (a : GReg)
  | semwaitImm (k : BitVec 8) (sem : BitVec 8) (n : BitVec 16)
  | semwaitReg (k : BitVec 8) (sem : BitVec 8) (a : GReg)
  | semget (k : BitVec 8) (d : GReg) (sem : BitVec 8)
  | barexp (k : BitVec 8) (bar : Fin 64) (n : Operand 34)
  | barwait (k : BitVec 8) (bar : Fin 64) (p : Operand 1)
  | bartest (k : BitVec 8) (d : GReg) (bar : Fin 64) (p : Operand 1)
  | gbar (k : BitVec 8)
  | atom (k : BitVec 8) (t : Option Tag) (op : AtomOp) (dbl acq rel : Bool) (d a b : GReg)
  | atcas (k : BitVec 8) (t : Option Tag) (dbl acq rel : Bool) (d a b c : GReg)
  | atomicAtSlice (slice : Fin 64)
  | storeApply (slot rank idx : Nat)
  | acct (k : BitVec 8) (f : AccFmt) (acc : Fin 16) (a s : GReg) (rows cols : BitVec 7)
  | acctD (k : BitVec 8) (f : AccFmt) (acc : Fin 16) (a s : GReg) (rows cols : BitVec 7)
  | acctPieceArrival (slot rank idx : Nat)
  | acctPieceApply (slice : Fin 64)
  | returnToSender (slot rank idx : Nat)
  | residualAgeDelivery (slot rank : Nat) (rt : Fin 8)
  | flushresAll (k : BitVec 8)
  | flushresOne (k : BitVec 8) (a : GReg)
  | waita (k : BitVec 8) (cc : Cond) (acq : Bool) (d a m v tmo : GReg)
  | waitaTimeout (idx : Nat)
  | fenceAcq (k : BitVec 8) (sc : Scope)
  | fenceRel (k : BitVec 8) (sc : Scope)
  | fenceAr (k : BitVec 8) (sc : Scope)
  | futres (k : BitVec 8) (a v : GReg)
  | futwait (k : BitVec 8) (d a : GReg)
  -- class 7: submission, streams, power, link, CSR, TIME
  | tsubmit (k : BitVec 8) (d a : GReg)
  | tsubmitF (k : BitVec 8) (d a f : GReg)
  | dlset (k : BitVec 8) (d : Option GReg) (t w : GReg)
  | dlchk (k : BitVec 8) (d : GReg)
  | stepend (k : BitVec 8)
  | frput (k : BitVec 8) (d : GReg)
  | frpub (k : BitVec 8) (a : GReg)
  | frget (k : BitVec 8) (d : GReg)
  | frrel (k : BitVec 8) (a : GReg)
  | kvapp (k : BitVec 8) (d : GReg)
  | kvpin (k : BitVec 8) (a : GReg)
  | kvunpin (k : BitVec 8) (a : GReg)
  | eqpush (k : BitVec 8) (q : Fin 8) (src : VSrc) (strictA : Bool) (plane : Fin 4)
      (bx yb : BitVec 6) (fstart : Bool)
  | pwracqImm (k : BitVec 8) (level : Fin 8)
  | pwracqReg (k : BitVec 8) (a : GReg)
  | pwrrel (k : BitVec 8)
  | lksend (k : BitVec 8) (s w t : GReg)
  | lkred (k : BitVec 8) (f : AccFmt) (s w t : GReg)
  | csrr (k : BitVec 8) (d : GReg) (csr : BitVec 12)
  | csrw (k : BitVec 8) (csr : BitVec 12) (a : GReg)
  | csrs (k : BitVec 8) (csr : BitVec 12) (a : GReg)
  | csrc (k : BitVec 8) (csr : BitVec 12) (a : GReg)
  | time (k : BitVec 8) (d : GReg)
  -- Xumak words of the service complex
  | rfetch (d a b : Fin 32)
  | bfxt (d a b : Fin 32)
  | sigw (d a b : Fin 32)
  | dspt (d a b : Fin 32)
  -- the Sorting Office, faults and their handler
  | queuePushAdmit (slot rank : Nat) (seq : SeqId)
  | gangPlacement (part : Fin 8)
  | spinWindowExpiry (slot : Nat)
  | parkConditionMet (slot : Nat)
  | preemption (part : Fin 8)
  | headWaitExpiry (part : Fin 8) (level : Fin 64)
  | preload (slot : Nat)
  | budgetOver (slot : Nat)
  | faultStop (slot : Nat)
  | faultRecordWrite (job : Nat)
  | handlerResume (slot : Nat)
  | handlerRerun (slot : Nat)
  | handlerKill (slot : Nat)
  -- power, thermal, hardware errors
  | governorTick
  | energyOut (ctx : Fin 128)
  | opChangeComplete (island : Fin 32)
  | thermal95Crossing (island : Fin 32) (reading : BitVec 16)
  | thermalRearm (island : Fin 32) (reading : BitVec 16)
  | thermal105Crossing (island : Fin 32) (reading : BitVec 16)
  | thermalHoldRelease (island : Fin 32) (reading : BitVec 16)
  | currentClamp (island : Fin 32) (on : Bool)
  | modulePowerClamp (on : Bool)
  | sensor115Stop (island : Fin 32) (reading : BitVec 16)
  | gddrDerateChange (celsius : Int)
  | eccCorrectable (site : ErrSite)
  | eccUncorrectable (site : ErrSite)
  | fabricError (slot rank : Nat) (p : Packet)
  | watchdogExpiry (slot rank : Nat) (kind : Fin 6)
  | scrubPass
  -- page requests, invalidation, link, remote submission
  | pageResponseSuccess (idx : Nat)
  | pageResponseInvalid (idx : Nat) (code : BitVec 4)
  | pageResponseFailure (idx : Nat)
  | latePageResponse
  | atsInvalidation (base count : Nat)
  | linkTickDeparture
  | linkDelivery (x : LinkArrival)
  | remoteSubmitPacket (srcBase srcRank : Nat) (desc : List Byte) (req : Nat)
  | remoteAnswerPacket (req : Nat) (ans : RemoteAnswer)
  | letterboxTake (e : Fin 6)
  | frameCoded (e : Fin 6)
  -- the command front end and host registers
  | sqdbWrite (f : Fin 9) (q : Fin 16) (tail : BitVec 12)
  | sqdbReset (f : Fin 9) (q : Fin 16)
  | cqdbWrite (f : Fin 9) (q : Fin 16) (head : BitVec 12)
  | queueEnable (f : Fin 9) (q : Fin 16) (qcfg : Word)
  | queueDisable (f : Fin 9) (q : Fin 16)
  | commandFetch
  | multiSubmitRetry
  | multiSubmitTimeout
  | completionWrite (f : Fin 9) (q : Fin 16)
  | inv1Go (f : Fin 9)
  | inv2Go
  | invalidationComplete (second : Bool) (f : Fin 9)
  | frelGo
  | frameReleaseComplete
  | keyloadGo
  | keyloadComplete
  | eordxWrite (f : Fin 9) (e : Fin 6) (c : Fin 8) (v : Word)
  | ctxWrite (n : Fin 128) (w : Fin 6) (v : Word)
  | ctxpWrite (n : Fin 128) (v : Word)
  | tqWrite (n : Fin 9) (w : Fin 3) (v : Word)
  | shareWrite (p : Fin 8) (v : Word)
  | partcfgWrite (p : Fin 8) (v : Word)
  | vpsmapWrite (p : Fin 8) (v : Word)
  | pmaxWrite (p : Fin 8) (v : Word)
  | pmemWrite (p : Fin 8) (v : Word)
  | rscarveWrite (v : Word)
  | featacc0Write (high low : Option (BitVec 32))
  | featacc1Write (high low : Option (BitVec 32))
  | lateprqClear (v : Word)
  | deverrClear (v : Word)
  | registerWrite (f : Fin 9) (off : BitVec 22) (high low : Option (BitVec 32))
  -- live migration, reset, attestation, ownership
  | vfFreeze (n : Fin 9)
  | vfImportAck (n : Fin 9)
  | pgtUpdateConfirm (n : Fin 9) (peer : Nat)
  | endMarker (x : Marker)
  | deviceReset (images : List BootImage) (strap : Bool) (clusters : BitVec 32) (channels : BitVec 24)
  | getVersion
  | getCapabilities
  | negotiateAlgorithms
  | getDigests
  | getCertificate
  | challenge
  | getMeasurements
  | ownershipTransfer (sig : Signature) (owner : BitVec 256)
  | recoveryCommand (sig : Signature) (owner : BitVec 256)
  -- the remaining actions of the host and of the ports
  | portLinkTraining (peer : Bool) (link : Option (Nat × Nat))
  | inboundPcieWrite (dpa : Nat) (toHost : Bool) (bytes : List Byte)
  | signalLineRaise (line : BitVec 8) (payload : Word)
  | frankingQuotaAddition (ctx : Fin 128) (amount : Word)
  | priReenable (x : PriGrant)
  deriving DecidableEq, Repr

end Sys2Proof
end

