-- ==== Sys2Proof/WellFormed.lean ====
section
/-! DEFINITION. The field checks of R83 step 4 that the syntax itself does not rule out.

A word that breaks one of them raises ILLEGAL-FIELD at decode. Checks that depend on the issuing
sequencer or on the core-task's constants are made by the instruction's meaning. -/

namespace Sys2Proof

/-- How a vector group uses MOD (R82, R380): rounding and `:sat`, `:sat` only, or reserved. -/
inductive ModUse where
  | roundSat | satOnly | reserved
  deriving DecidableEq, Repr

/-- MOD obeys its group's use. -/
def ModUse.ok (m : ModUse) (w : VWord) : Bool :=
  match m with
  | .roundSat => true
  | .satOnly => decide (w.rnd = .rne)
  | .reserved => decide (w.rnd = .rne) && !w.sat

/-- ALLOC and RING obey R84 and R88: RING = 01 and RING = 10 are one choice, ALLOC needs a tag-eligible
word, a tile destination and no ring write. -/
def VWord.ok (w : VWord) (eligible : Bool) (m : ModUse) : Bool :=
  m.ok w &&
  (match w.dst with
    | .ring => !w.ring && w.alloc.isNone
    | .tile _ => w.alloc.isNone || (eligible && !w.ring)
    | .sq _ => w.alloc.isNone)

/-- Sources B and C name a tile or a queue head, never a ring depth (R85, R380). -/
def VSrc.direct : VSrc → Bool
  | .ring _ => false
  | _ => true

/-- The pairs of MXMUL in opcode order (R102). -/
def mxPairs : List MxPair :=
  [⟨false, .bf16, .bf16⟩, ⟨false, .f16, .f16⟩, ⟨false, .e4m3, .e4m3⟩, ⟨false, .e4m3, .e5m2⟩,
   ⟨false, .e5m2, .e4m3⟩, ⟨false, .e5m2, .e5m2⟩, ⟨false, .i8, .i8⟩, ⟨false, .i8, .q4⟩] ++
  [⟨false, .q4, .q4⟩, ⟨false, .e4m3, .q4⟩, ⟨false, .bf16, .q4⟩, ⟨false, .f16, .q4⟩,
   ⟨false, .e4m3, .q4x⟩, ⟨false, .bf16, .q4x⟩, ⟨false, .e4m3, .l16⟩, ⟨false, .bf16, .l16⟩] ++
  [⟨true, .e4m3, .e4m3⟩, ⟨true, .e5m2, .e5m2⟩, ⟨true, .e4m3, .e5m2⟩, ⟨true, .e4m3, .q4⟩,
   ⟨true, .bf16, .q4⟩, ⟨true, .e4m3, .q4x⟩, ⟨true, .bf16, .q4x⟩, ⟨true, .q4, .q4⟩]

/-- The pairs of MXMULS in opcode order (R102). -/
def mxsPairs : List MxPair :=
  [⟨false, .bf16, .bf16⟩, ⟨false, .f16, .f16⟩, ⟨false, .e4m3, .e4m3⟩, ⟨false, .e5m2, .e5m2⟩,
   ⟨false, .i8, .i8⟩, ⟨false, .e4m3, .q4⟩, ⟨false, .bf16, .q4⟩, ⟨false, .e4m3, .q4x⟩] ++
  [⟨false, .bf16, .q4x⟩, ⟨true, .e4m3, .e4m3⟩, ⟨true, .e4m3, .q4⟩, ⟨false, .bf16, .l16⟩]

/-- The reserved fields and tile ranges of a matrix multiply (R141). -/
def MxMul.ok (p : MxMul) (sparse : Bool) : Bool :=
  (if sparse then mxsPairs else mxPairs).contains p.pair &&
  decide (p.ta.toNat + p.rep.val ≤ 47) && decide (p.tb.toNat + p.rep.val ≤ 47) &&
  (decide (p.pair.b = .l16) || decide (p.cb = 0)) &&
  (sparse || (decide (p.mdq = 0) && decide (p.spn = 0)))

/-- Element size of a format in half bytes (R107). -/
def Fmt.nibbles : Fmt → Nat
  | .f32 | .i32 => 8
  | .bf16 | .f16 => 4
  | .e4m3 | .e5m2 | .i8 => 2
  | .q4 | .q4x | .l16 => 1

/-- Bytes of one row of `cols` elements, rounded up to a whole byte (R107). -/
def Fmt.rowBytes (f : Fmt) (cols : Nat) : Nat := (cols * f.nibbles + 1) / 2

/-- Rows and columns lie in 1 to 64 and the tile is a tile register (R146, R148). -/
def MxWin.ok (p : MxWin) : Bool :=
  decide (1 ≤ p.rows.toNat) && decide (p.rows.toNat ≤ 64) &&
  decide (1 ≤ p.cols.toNat) && decide (p.cols.toNat ≤ 64) && decide (p.t.toNat ≤ 47)

/-- The bytes that MXRD writes (R147). -/
def MxWin.bytes (p : MxWin) (f : Fmt) : Nat := p.rows.toNat * f.rowBytes p.cols.toNat

/-- The register block of a copy's geometry (R333): none in .1D, two or three registers from a
register other than g0 that end at g31 or before. -/
def CopyOp.ok (p : CopyOp) (n : Dims) : Bool :=
  match n with
  | .d1 => decide (p.rg = 0)
  | .d2 => decide (p.rg ≠ 0) && decide (p.rg.val + 1 ≤ 31)
  | .d3 => decide (p.rg ≠ 0) && decide (p.rg.val + 2 ≤ 31)

/-- The bit field lies inside the register (R329). -/
def fieldOk (lsb : BitVec 6) (width : BitVec 7) : Bool :=
  decide (1 ≤ width.toNat) && decide (width.toNat ≤ 64) && decide (lsb.toNat + width.toNat ≤ 64)

/-- Rows and columns of an accumulate lie in 1 to 64 (R208). -/
def acctOk (rows cols : BitVec 7) : Bool :=
  decide (1 ≤ rows.toNat) && decide (rows.toNat ≤ 64) && decide (1 ≤ cols.toNat) && decide (cols.toNat ≤ 64)

/-- An immediate operand that must not be 0 (R375). -/
def Operand.nonzero {n : Nat} : Operand n → Bool
  | .imm v => decide (v ≠ 0)
  | .reg _ => true

/-- The formats VCVT converts between (R391). -/
def Fmt.convertible : Fmt → Bool
  | .q4x | .l16 => false
  | _ => true

/-- The formats VQNT and VDQNT name (R392, R394). -/
def Fmt.quantised : Fmt → Bool
  | .q4 | .q4x | .e4m3 | .e5m2 => true
  | _ => false

/-- The formats MXRD converts to (R146). -/
def Fmt.readable : Fmt → Bool
  | .f32 | .bf16 | .f16 | .i32 => true
  | _ => false

/-- The word's fields obey R83 step 4. Events carry no fields and are always well formed. -/
def Instr.wf : Instr → Bool
  | .bfx _ _ _ lsb width | .bfxS _ _ _ lsb width | .bfi _ _ _ lsb width => fieldOk lsb width
  | .loopReg _ _ last => decide (last ≠ 0)
  | .loopImm _ _ last => decide (last ≠ 0)
  | .fork _ seq _ => decide (seq ≠ .c)
  | .rdv _ mask => decide (mask ≠ 0)
  | .tksig _ _ n | .tkwait _ _ n => n.nonzero
  | .agset _ _ w _ => decide (w.val < 3)
  | .agget _ _ _ w => decide (w.val < 3)
  | .sload _ ag => decide (ag.val < 8)
  | .sstore _ ag => decide (8 ≤ ag.val)
  | .vaddF w y _ | .vsubF w y _ | .vmulF w y _ | .vminF w y _ | .vmaxF w y _ => w.ok false .roundSat && y.direct
  | .vaddI w y _ | .vsubI w y _ | .vmulI w y _ | .vminI w y _ | .vmaxI w y _ => w.ok false .satOnly && y.direct
  | .vabsF w | .vnegF w | .vrnd w => w.ok false .roundSat
  | .vabsI w | .vnegI w => w.ok false .satOnly
  | .vclampF w y _ z => w.ok false .roundSat && y.direct && z.direct
  | .vclampI w y _ z => w.ok false .satOnly && y.direct && z.direct
  | .vcmpF w _ y _ | .vcmpI w _ y _ => w.ok false .reserved && y.direct
  | .vfma w _ y _ z | .vfms w _ y _ z | .vfnma w _ y _ z => w.ok false .roundSat && y.direct && z.direct
  | .vminnum w y _ | .vmaxnum w y _ | .vscale w y _ => w.ok false .roundSat && y.direct
  | .vsel w y _ z => w.ok false .reserved && y.direct && z.direct
  | .vand w y _ | .vor w y _ | .vxor w y _ | .vshl w y _ | .vshr w y _ | .vsar w y _ =>
      w.ok false .reserved && y.direct
  | .vmov w | .vbcast w _ _ => w.ok false .reserved
  | .vaddFs w _ | .vsubFs w _ | .vmulFs w _ | .vminFs w _ | .vmaxFs w _ => w.ok false .roundSat
  | .vfmaFs w _ _ z => w.ok false .roundSat && z.direct
  | .vaddIs w _ | .vmulIs w _ | .vmaxIs w _ | .vminIs w _ => w.ok false .satOnly
  | .vcvt w f => w.ok false .roundSat && f.convertible
  | .vqnt w f keep => w.ok false .roundSat && f.quantised && !w.ring && decide (w.dst ≠ .ring) &&
      (!keep || (match w.dst with | .tile _ => true | _ => false))
  | .vdqnt w f => w.ok false .roundSat && f.quantised
  | .vexp2 w | .vlog2 w | .vrcp w | .vrsq w | .vtanh w | .vtrn w => w.ok true .reserved
  | .vrmax w int | .vrmin w int | .vrsum w int | .vcsum w int | .vcmax w int =>
      w.ok true (if int then .reserved else .roundSat)
  | .vlut w _ _ => w.ok true .roundSat
  | .mxmul p => p.ok false
  | .mxmuls p => p.ok true
  | .mxwr _ _ _ t => decide (t.toNat ≤ 47)
  | .mxrd p f _ _ => p.ok && f.readable && (decide (p.bytes f ≤ 8192) || decide (p.t.toNat + 1 ≤ 47))
  | .mxepi p _ => p.ok
  | .cpg2l p n | .cpl2g p n | .cpl2l p n _ => p.ok n
  | .cpbc p mask => p.ok .d1 && decide (mask ≠ 0)
  | .cpfillL p | .cpfillG p => p.ok .d1
  | .cpmeta p _ count => decide (p.rd = 0) && decide (p.rl = 0) && decide (p.rg = 0) &&
      decide (1 ≤ count.toNat) && decide (count.toNat ≤ 64)
  | .semsigImm _ sem n | .semwaitImm _ sem n => decide (sem ≠ 0) && decide (n ≠ 0)
  | .semsigReg _ sem _ | .semwaitReg _ sem _ | .semget _ _ sem => decide (sem ≠ 0)
  | .acct _ _ _ _ _ rows cols | .acctD _ _ _ _ _ rows cols => acctOk rows cols
  | .eqpush _ q src _ plane _ _ _ => decide (q.val < 6) && decide (plane.val < 3) && src.direct
  | _ => true

end Sys2Proof
end

