-- ==== Sys2Proof/Decode.lean ====
section
/-! DEFINITION. The decoder and the encoder of the 80-bit words (R78 to R102) and of the Xumak words (R314).

A word is taken apart into the fields of R78; each class holds the list of its decoders in the order of
the opcode grid of R102, so an index past the list is unassigned. A word whose fields break R83 step 4
decodes to nothing. -/

namespace Sys2Proof

/-! ### Fields -/

/-- `n` bits of `x` from bit `lo`. -/
abbrev bits {w : Nat} (x : BitVec w) (lo n : Nat) : BitVec n := x.extractLsb' lo n

/-- The fields of R78; `lo` holds bits 39:0. -/
structure Fields where
  opc : BitVec 9
  pd : BitVec 3
  alloc : BitVec 4
  cons : BitVec 8
  dst : BitVec 8
  srca : BitVec 8
  lo : BitVec 40
  deriving DecidableEq, Repr

/-- Bits 39:0 of a format V word (R78). -/
structure VLow where
  srcb : BitVec 8
  strictA : BitVec 1
  strictB : BitVec 1
  mod : BitVec 4
  ring : BitVec 2
  imm : BitVec 24
  deriving DecidableEq, Repr

/-- The word that the fields make. -/
def Fields.pack (f : Fields) : Word80 := f.opc ++ f.pd ++ f.alloc ++ f.cons ++ f.dst ++ f.srca ++ f.lo

/-- The fields of a word. -/
def Fields.unpack (w : Word80) : Fields :=
  { opc := bits w 71 9, pd := bits w 68 3, alloc := bits w 64 4, cons := bits w 56 8,
    dst := bits w 48 8, srca := bits w 40 8, lo := bits w 0 40 }

/-- Bits 39:0 that the V fields make. -/
def VLow.pack (v : VLow) : BitVec 40 := v.srcb ++ v.strictA ++ v.strictB ++ v.mod ++ v.ring ++ v.imm

/-- The V fields of bits 39:0. -/
def VLow.unpack (x : BitVec 40) : VLow :=
  { srcb := bits x 32 8, strictA := bits x 31 1, strictB := bits x 30 1, mod := bits x 26 4,
    ring := bits x 24 2, imm := bits x 0 24 }

/-- A one-bit field as a truth value. -/
def bitOf (b : BitVec 1) : Bool := b = 1

/-- A truth value as a one-bit field. -/
def bitCode (b : Bool) : BitVec 1 := if b then 1 else 0

/-- The answer `x`, when the check `c` holds. -/
def check {α : Type} (c : Bool) (x : Option α) : Option α := if c then x else none

/-! ### Register codes (R79) -/

/-- The code of a g register. -/
def gCode (g : GReg) : BitVec 8 := BitVec.ofNat 8 (0x40 + g.val)

/-- The g register of a code. -/
def gOf (c : BitVec 8) : Option GReg :=
  if h : c.toNat - 0x40 < 32 then (if 0x40 ≤ c.toNat then some ⟨c.toNat - 0x40, h⟩ else none) else none

/-- The code of a tile register. -/
def tCode (t : TReg) : BitVec 8 := BitVec.ofNat 8 t.val

/-- The tile register of a code. -/
def tOf (c : BitVec 8) : Option TReg :=
  if h : c.toNat < 48 then some ⟨c.toNat, h⟩ else none

/-- The code of a source that is not a ring depth; a ring depth has SRCA 0x00 (R85). -/
def srcCode : VSrc → BitVec 8
  | .tile t => tCode t
  | .lq q => BitVec.ofNat 8 (0x30 + q.val)
  | .ring _ => 0

/-- PD of a source A (R85). -/
def pdCode : VSrc → BitVec 3
  | .ring d => BitVec.ofNat 3 (d.val + 1)
  | _ => 0

/-- The source of a code in position B or C. -/
def srcOf (c : BitVec 8) : Option VSrc :=
  if h : c.toNat < 48 then some (.tile ⟨c.toNat, h⟩)
  else if h : c.toNat - 0x30 < 8 then some (.lq ⟨c.toNat - 0x30, h⟩)
  else none

/-- Source A, under PD (R85). -/
def srcAOf (pd : BitVec 3) (c : BitVec 8) : Option VSrc :=
  if pd = 0 then srcOf c
  else if h : pd.toNat - 1 < 7 then (if c = 0 then some (.ring ⟨pd.toNat - 1, h⟩) else none)
  else none

/-- The code of a destination (R79, R84). -/
def dstCode : VDst → BitVec 8
  | .tile t => tCode t
  | .sq q => BitVec.ofNat 8 (0x38 + q.val)
  | .ring => 0

/-- The RING field (R84). -/
def ringCode (d : VDst) (ring : Bool) : BitVec 2 :=
  match d with
  | .ring => 2
  | _ => if ring then 1 else 0

/-- Destination and ring write of a DST and RING field (R84). -/
def dstOf (ring : BitVec 2) (c : BitVec 8) : Option (VDst × Bool) :=
  if ring = 2 then (if c = 0 then some (.ring, false) else none)
  else if ring = 3 then none
  else if h : c.toNat < 48 then some (.tile ⟨c.toNat, h⟩, decide (ring = 1))
  else if h : c.toNat - 0x38 < 4 then
    (if 0x38 ≤ c.toNat then some (.sq ⟨c.toNat - 0x38, h⟩, decide (ring = 1)) else none)
  else none

/-- ALLOC of a tag (R88). -/
def allocCode : Option Tag → BitVec 4
  | none => 0
  | some t => BitVec.ofNat 4 (8 + t.val)

/-- The tag of ALLOC; with bit 3 clear the other bits are reserved (R88). -/
def allocOf (a : BitVec 4) : Option (Option Tag) :=
  if a = 0 then some none
  else if h : a.toNat - 8 < 8 then (if 8 ≤ a.toNat then some (some ⟨a.toNat - 8, h⟩) else none)
  else none

/-- Bits 28:26 of MOD for a rounding mode (R82). -/
def rndCode : Rnd → BitVec 3
  | .rne => 0 | .rtz => 1 | .rdn => 2 | .rup => 3

/-- The rounding mode of bits 28:26 (R82). -/
def rndOf (b : BitVec 3) : Option Rnd :=
  match b.toNat with
  | 0 => some .rne | 1 => some .rtz | 2 => some .rdn | 3 => some .rup
  | _ => none

/-- The sequencer of a SEQ field (R375). -/
def seqOf (b : BitVec 2) : SeqId :=
  match b.toNat with
  | 0 => .c | 1 => .l | 2 => .x | _ => .s

/-- SEQ of a sequencer. -/
def seqCode : SeqId → BitVec 2
  | .c => 0 | .l => 1 | .x => 2 | .s => 3

/-! ### The forms of a word -/

/-- The tail of a word without IMM40 or IMM24 use: SRCB and 32 zero bits. -/
abbrev loB (b : BitVec 8) : BitVec 40 := b ++ (0 : BitVec 32)

/-- A register-form word with three registers (R321). -/
def decR3 (mk : BitVec 8 → GReg → GReg → GReg → Instr) (f : Fields) : Option Instr :=
  check (f.pd = 0 && f.alloc = 0 && bits f.lo 0 32 = 0) do
    pure (mk f.cons (← gOf f.dst) (← gOf f.srca) (← gOf (bits f.lo 32 8)))

/-- A tag-eligible register-form word (R340, R360). -/
def decR3T (mk : BitVec 8 → Option Tag → GReg → GReg → GReg → Instr) (f : Fields) : Option Instr :=
  check (f.pd = 0 && bits f.lo 0 32 = 0) do
    pure (mk f.cons (← allocOf f.alloc) (← gOf f.dst) (← gOf f.srca) (← gOf (bits f.lo 32 8)))

/-- A register-form word with two registers (R321). -/
def decR2 (mk : BitVec 8 → GReg → GReg → Instr) (f : Fields) : Option Instr :=
  check (f.pd = 0 && f.alloc = 0 && f.lo = 0) do
    pure (mk f.cons (← gOf f.dst) (← gOf f.srca))

/-- A register-form word with four registers; SRCC stands in IMM24 bits 23:16 (R352, R363). -/
def decR4 (mk : BitVec 8 → GReg → GReg → GReg → GReg → Instr) (f : Fields) : Option Instr :=
  check (f.pd = 0 && f.alloc = 0 && bits f.lo 24 8 = 0 && bits f.lo 0 16 = 0) do
    pure (mk f.cons (← gOf f.dst) (← gOf f.srca) (← gOf (bits f.lo 32 8)) (← gOf (bits f.lo 16 8)))

/-- An immediate-form word (R321). -/
def decI (mk : BitVec 8 → GReg → GReg → BitVec 40 → Instr) (f : Fields) : Option Instr :=
  check (f.pd = 0 && f.alloc = 0) do
    pure (mk f.cons (← gOf f.dst) (← gOf f.srca) f.lo)

/-- An immediate-form shift (R362). -/
def decSh (mk : BitVec 8 → GReg → GReg → BitVec 6 → Instr) (f : Fields) : Option Instr :=
  check (f.pd = 0 && f.alloc = 0 && bits f.lo 6 34 = 0) do
    pure (mk f.cons (← gOf f.dst) (← gOf f.srca) (bits f.lo 0 6))

/-- A bit-field word (R329). -/
def decBf (mk : BitVec 8 → GReg → GReg → BitVec 6 → BitVec 7 → Instr) (f : Fields) : Option Instr :=
  check (f.pd = 0 && f.alloc = 0 && bits f.lo 13 27 = 0) do
    pure (mk f.cons (← gOf f.dst) (← gOf f.srca) (bits f.lo 0 6) (bits f.lo 6 7))

/-- A word whose only field is CONS. -/
def decK (mk : BitVec 8 → Instr) (f : Fields) : Option Instr :=
  check (f.pd = 0 && f.alloc = 0 && f.dst = 0 && f.srca = 0 && f.lo = 0) (some (mk f.cons))

/-- A word with DST alone. -/
def decD (mk : BitVec 8 → GReg → Instr) (f : Fields) : Option Instr :=
  check (f.pd = 0 && f.alloc = 0 && f.srca = 0 && f.lo = 0) do pure (mk f.cons (← gOf f.dst))

/-- A word with SRCA alone. -/
def decA (mk : BitVec 8 → GReg → Instr) (f : Fields) : Option Instr :=
  check (f.pd = 0 && f.alloc = 0 && f.dst = 0 && f.lo = 0) do pure (mk f.cons (← gOf f.srca))

/-- A word with SRCA and SRCB alone. -/
def decAB (mk : BitVec 8 → GReg → GReg → Instr) (f : Fields) : Option Instr :=
  check (f.pd = 0 && f.alloc = 0 && f.dst = 0 && bits f.lo 0 32 = 0) do
    pure (mk f.cons (← gOf f.srca) (← gOf (bits f.lo 32 8)))

/-- A compare-and-branch word (R96). -/
def decBc (mk : BitVec 8 → GReg → GReg → BitVec 40 → Instr) (f : Fields) : Option Instr :=
  check (f.pd = 0 && f.alloc = 0) do pure (mk f.cons (← gOf f.dst) (← gOf f.srca) f.lo)

/-- A branch or call (R96). -/
def decBr (mk : BitVec 8 → BitVec 40 → Instr) (f : Fields) : Option Instr :=
  check (f.pd = 0 && f.alloc = 0 && f.dst = 0 && f.srca = 0) (some (mk f.cons f.lo))

/-- An operand that SRCA 0x00 takes from the word and any other SRCA from a register, whose immediate
bits are then reserved (R326, R361, R375). -/
def operandOf {n : Nat} (srca : BitVec 8) (imm : BitVec n) : Option (Operand n) :=
  if srca = 0 then some (.imm imm)
  else check (imm = 0) ((gOf srca).map .reg)

/-- SRCA of an operand. -/
def Operand.code {n : Nat} : Operand n → BitVec 8
  | .imm _ => 0
  | .reg g => gCode g

/-- The immediate bits of an operand. -/
def Operand.value {n : Nat} : Operand n → BitVec n
  | .imm v => v
  | .reg _ => 0

/-- A token word (R375). -/
def decTk (mk : BitVec 8 → SeqId → Operand 8 → Instr) (f : Fields) : Option Instr :=
  check (f.pd = 0 && f.alloc = 0 && f.dst = 0 && bits f.lo 10 30 = 0) do
    pure (mk f.cons (seqOf (bits f.lo 8 2)) (← operandOf f.srca (bits f.lo 0 8)))

/-- A load (R344). -/
def decLd (mk : BitVec 8 → Option Tag → LoadSize → GReg → GReg → BitVec 40 → Instr) (sz : LoadSize)
    (f : Fields) : Option Instr :=
  check (f.pd = 0) do
    pure (mk f.cons (← allocOf f.alloc) sz (← gOf f.dst) (← gOf f.srca) f.lo)

/-- A store; DST holds VAL (R369). -/
def decSt (mk : BitVec 8 → StoreSize → GReg → GReg → BitVec 40 → Instr) (sz : StoreSize)
    (f : Fields) : Option Instr :=
  check (f.pd = 0 && f.alloc = 0) do
    pure (mk f.cons sz (← gOf f.dst) (← gOf f.srca) f.lo)

/-- SLOAD and SSTORE (R367, R368). -/
def decAg (mk : BitVec 8 → Fin 16 → Instr) (f : Fields) : Option Instr :=
  check (f.pd = 0 && f.alloc = 0 && f.dst = 0 && f.srca = 0 && bits f.lo 4 36 = 0)
    (some (mk f.cons (bits f.lo 0 4).toFin))

/-- The shared part of a vector word (R380), with its V fields. -/
def decVWord (f : Fields) : Option (VWord × VLow) := do
  let v := VLow.unpack f.lo
  let (dst, ring) ← dstOf v.ring f.dst
  pure ({ cons := f.cons, alloc := (← allocOf f.alloc), dst := dst, ring := ring,
          a := (← srcAOf f.pd f.srca), strictA := bitOf v.strictA,
          rnd := (← rndOf (bits v.mod 0 3)), sat := bitOf (bits v.mod 3 1) }, v)

/-- A vector word of one source. -/
def decV1 (mk : VWord → Instr) (f : Fields) : Option Instr := do
  let (w, v) ← decVWord f
  check (v.srcb = 0 && v.strictB = 0 && v.imm = 0) (some (mk w))

/-- A vector word of two sources. -/
def decV2 (mk : VWord → VSrc → Bool → Instr) (f : Fields) : Option Instr := do
  let (w, v) ← decVWord f
  check (v.imm = 0) do pure (mk w (← srcOf v.srcb) (bitOf v.strictB))

/-- A vector word of three sources. -/
def decV3 (mk : VWord → VSrc → Bool → VSrc → Instr) (f : Fields) : Option Instr := do
  let (w, v) ← decVWord f
  check (bits v.imm 0 16 = 0) do
    pure (mk w (← srcOf v.srcb) (bitOf v.strictB) (← srcOf (bits v.imm 16 8)))

/-- A fused multiply-add, with LF in IMM24 bits 1:0 (R386). -/
def decVFma (mk : VWord → BitVec 2 → VSrc → Bool → VSrc → Instr) (f : Fields) : Option Instr := do
  let (w, v) ← decVWord f
  check (bits v.imm 2 14 = 0) do
    pure (mk w (bits v.imm 0 2) (← srcOf v.srcb) (bitOf v.strictB) (← srcOf (bits v.imm 16 8)))

/-- A scalar-operand form (R385). -/
def decVs (mk : VWord → GReg → Instr) (f : Fields) : Option Instr := do
  let (w, v) ← decVWord f
  check (v.strictB = 0 && v.imm = 0) do pure (mk w (← gOf v.srcb))

/-- VFMA.FS (R385, R386). -/
def decVFmaFs (f : Fields) : Option Instr := do
  let (w, v) ← decVWord f
  check (v.strictB = 0 && bits v.imm 2 14 = 0) do
    pure (.vfmaFs w (bits v.imm 0 2) (← gOf v.srcb) (← srcOf (bits v.imm 16 8)))

/-- VBCAST (R389). -/
def decVBcast (f : Fields) : Option Instr := do
  let (w, v) ← decVWord f
  check (v.srcb = 0 && v.strictB = 0 && bits v.imm 14 10 = 0 && bits v.imm 6 2 = 0)
    (some (.vbcast w (bits v.imm 8 6) (bits v.imm 0 6)))

/-- VFILL (R389): a tile destination and no source A. -/
def decVFill (f : Fields) : Option Instr :=
  let v := VLow.unpack f.lo
  check (f.pd = 0 && f.alloc = 0 && f.srca = 0 && v.strictA = 0 && v.strictB = 0 && v.mod = 0 &&
      (v.ring = 0 || v.ring = 1) && v.imm = 0) do
    pure (.vfill f.cons (← tOf f.dst) (decide (v.ring = 1)) (← gOf v.srcb))

/-- VQNT (R392). -/
def decVQnt (fm : Fmt) (f : Fields) : Option Instr := do
  let (w, v) ← decVWord f
  check (v.srcb = 0 && v.strictB = 0 && bits v.imm 1 23 = 0) (some (.vqnt w fm (bitOf (bits v.imm 0 1))))

/-- VLUT (R395). -/
def decVLut (f16 : Bool) (f : Fields) : Option Instr := do
  let (w, v) ← decVWord f
  check (v.srcb = 0 && v.strictB = 0 && bits v.imm 3 21 = 0) (some (.vlut w f16 (bits v.imm 0 3).toFin))

/-- CBLD (R330). -/
def decCbld (f : Fields) : Option Instr :=
  let v := VLow.unpack f.lo
  check (f.alloc = 0 && f.dst = 0 && v.srcb = 0 && v.strictB = 0 && v.mod = 0 && v.ring = 0 &&
      bits v.imm 3 21 = 0) do
    pure (.cbld f.cons (← srcAOf f.pd f.srca) (bitOf v.strictA) (bits v.imm 0 3).toFin)

/-- TSHAPE (R378). -/
def decTshape (f : Fields) : Option Instr :=
  check (f.pd = 0 && f.alloc = 0 && f.lo = 0) do pure (.tshape f.cons (← tOf f.dst) (← gOf f.srca))

/-- TSHGET (R379). -/
def decTshget (f : Fields) : Option Instr :=
  check (f.pd = 0 && f.alloc = 0 && bits f.lo 32 8 = 0 && bits f.lo 0 31 = 0) do
    pure (.tshget f.cons (← gOf f.dst) (← tOf f.srca) (bitOf (bits f.lo 31 1)))

/-- Bits 47:0 of a format E word. -/
def Fields.payload (f : Fields) : BitVec 48 := f.srca ++ f.lo

/-- PD and ALLOC are zero in format E (R78). -/
def Fields.engine (f : Fields) : Bool := f.pd = 0 && f.alloc = 0

/-- MXMUL and MXMULS (R141). -/
def decMx (mk : MxMul → Instr) (pair : MxPair) (f : Fields) : Option Instr :=
  let p := f.payload
  check (f.engine && bits p 0 19 = 0)
    (some (mk { wsem := f.cons, ssem := f.dst, pair := pair, acc := (bits p 44 4).toFin,
                ta := bits p 38 6, tb := bits p 32 6, zero := bitOf (bits p 31 1),
                rsum := bitOf (bits p 30 1), rep := (bits p 26 4).toFin, cb := (bits p 23 3).toFin,
                mdq := (bits p 22 1).toFin, spn := (bits p 19 3).toFin }))

/-- MXZERO (R146). -/
def decMxzero (f : Fields) : Option Instr :=
  let p := f.payload
  check (f.engine && bits p 0 43 = 0)
    (some (.mxzero f.cons f.dst (bits p 44 4).toFin (bitOf (bits p 43 1))))

/-- MXWR (R146). -/
def decMxwr (f : Fields) : Option Instr :=
  let p := f.payload
  check (f.engine && bits p 0 38 = 0) (some (.mxwr f.cons f.dst (bits p 44 4).toFin (bits p 38 6)))

/-- The window of MXRD and MXEPI. -/
def mxWinOf (f : Fields) : MxWin :=
  let p := f.payload
  { wsem := f.cons, ssem := f.dst, acc := (bits p 44 4).toFin, t := bits p 38 6,
    rows := bits p 31 7, cols := bits p 24 7 }

/-- MXRD (R146): RM takes two bits. -/
def decMxrd (fm : Fmt) (f : Fields) : Option Instr :=
  let p := f.payload
  check (f.engine && bits p 0 21 = 0) do
    pure (.mxrd (mxWinOf f) fm (← rndOf ((0 : BitVec 1) ++ bits p 22 2)) (bitOf (bits p 21 1)))

/-- MXEPI (R148). -/
def decMxepi (v : Epi) (f : Fields) : Option Instr :=
  check (f.engine && bits f.payload 0 24 = 0) (some (.mxepi (mxWinOf f) v))

/-- BE and BAR; BAR is reserved when BE is 0 (R332). -/
def barOf (be : BitVec 1) (b : BitVec 6) : Option (Option (Fin 64)) :=
  if be = 1 then some (some b.toFin) else check (b = 0) (some none)

/-- BE and BAR of a copy's barrier. -/
def barCode : Option (Fin 64) → BitVec 7
  | none => 0
  | some b => (1 : BitVec 1) ++ (BitVec.ofFin b : BitVec 6)

/-- The payload of a copy (R332). -/
def copyOf (f : Fields) : Option CopyOp :=
  let p := f.payload
  check f.engine do
    pure { wsem := f.cons, ssem := f.dst, rd := (bits p 43 5).toFin, rs := (bits p 38 5).toFin,
           rl := (bits p 33 5).toFin, rg := (bits p 28 5).toFin,
           bar := (← barOf (bits p 27 1) (bits p 21 6)) }

/-- A copy without further fields (R335). -/
def decCp (mk : CopyOp → Instr) (f : Fields) : Option Instr := do
  let c ← copyOf f
  check (bits f.payload 0 21 = 0) (some (mk c))

/-- CPL2L, with RANK (R332). -/
def decCpl2l (n : Dims) (f : Fields) : Option Instr := do
  let c ← copyOf f
  check (bits f.payload 0 17 = 0) (some (.cpl2l c n (bits f.payload 17 4).toFin))

/-- CPBC, with MASK (R332). -/
def decCpbc (f : Fields) : Option Instr := do
  let c ← copyOf f
  check (bits f.payload 17 4 = 0 && bits f.payload 0 1 = 0) (some (.cpbc c (bits f.payload 1 16)))

/-- CPMETA (R336). -/
def decCpmeta (f : Fields) : Option Instr := do
  let c ← copyOf f
  check (bits f.payload 0 13 = 0)
    (some (.cpmeta c (bits f.payload 20 1).toFin (bits f.payload 13 7)))

/-- A semaphore word with an immediate amount (R364). -/
def decSemI (mk : BitVec 8 → BitVec 8 → BitVec 16 → Instr) (f : Fields) : Option Instr :=
  check (f.pd = 0 && f.alloc = 0 && f.dst = 0 && f.srca = 0 && bits f.lo 16 16 = 0)
    (some (mk f.cons (bits f.lo 32 8) (bits f.lo 0 16)))

/-- A semaphore word with a register amount (R364). -/
def decSemR (mk : BitVec 8 → BitVec 8 → GReg → Instr) (f : Fields) : Option Instr :=
  check (f.pd = 0 && f.alloc = 0 && f.dst = 0 && bits f.lo 0 32 = 0) do
    pure (mk f.cons (bits f.lo 32 8) (← gOf f.srca))

/-- SEMGET (R364). -/
def decSemget (f : Fields) : Option Instr :=
  check (f.pd = 0 && f.alloc = 0 && f.srca = 0 && bits f.lo 0 32 = 0) do
    pure (.semget f.cons (← gOf f.dst) (bits f.lo 32 8))

/-- BAREXP (R326). -/
def decBarexp (f : Fields) : Option Instr :=
  check (f.pd = 0 && f.alloc = 0 && f.dst = 0) do
    pure (.barexp f.cons (bits f.lo 34 6).toFin (← operandOf f.srca (bits f.lo 0 34)))

/-- BARWAIT (R326). -/
def decBarwait (f : Fields) : Option Instr :=
  check (f.pd = 0 && f.alloc = 0 && f.dst = 0 && bits f.lo 1 33 = 0) do
    pure (.barwait f.cons (bits f.lo 34 6).toFin (← operandOf f.srca (bits f.lo 0 1)))

/-- BARTEST (R326). -/
def decBartest (f : Fields) : Option Instr :=
  check (f.pd = 0 && f.alloc = 0 && bits f.lo 1 33 = 0) do
    pure (.bartest f.cons (← gOf f.dst) (bits f.lo 34 6).toFin (← operandOf f.srca (bits f.lo 0 1)))

/-- ATOM (R206): MOD bit 27 is ACQ, bit 26 REL. -/
def decAtom (op : AtomOp) (dbl : Bool) (f : Fields) : Option Instr :=
  let v := VLow.unpack f.lo
  check (f.pd = 0 && v.strictA = 0 && v.strictB = 0 && bits v.mod 2 2 = 0 && v.ring = 0 && v.imm = 0) do
    pure (.atom f.cons (← allocOf f.alloc) op dbl (bitOf (bits v.mod 1 1)) (bitOf (bits v.mod 0 1))
      (← gOf f.dst) (← gOf f.srca) (← gOf v.srcb))

/-- ATCAS (R206). -/
def decAtcas (dbl : Bool) (f : Fields) : Option Instr :=
  let v := VLow.unpack f.lo
  check (f.pd = 0 && v.strictA = 0 && v.strictB = 0 && bits v.mod 2 2 = 0 && v.ring = 0 &&
      bits v.imm 0 16 = 0) do
    pure (.atcas f.cons (← allocOf f.alloc) dbl (bitOf (bits v.mod 1 1)) (bitOf (bits v.mod 0 1))
      (← gOf f.dst) (← gOf f.srca) (← gOf v.srcb) (← gOf (bits v.imm 16 8)))

/-- ACCT and ACCT.D (R208). -/
def decAcct (mk : BitVec 8 → AccFmt → Fin 16 → GReg → GReg → BitVec 7 → BitVec 7 → Instr) (fm : AccFmt)
    (f : Fields) : Option Instr :=
  let v := VLow.unpack f.lo
  check (f.pd = 0 && f.alloc = 0 && f.dst = 0 && v.strictA = 0 && v.strictB = 0 && v.mod = 0 &&
      v.ring = 0 && bits v.imm 0 6 = 0) do
    pure (mk f.cons fm (bits v.imm 20 4).toFin (← gOf f.srca) (← gOf v.srcb) (bits v.imm 13 7)
      (bits v.imm 6 7))

/-- FLUSHRES (R218): IMM24 bit 0 is ONE. -/
def decFlushres (f : Fields) : Option Instr :=
  check (f.pd = 0 && f.alloc = 0 && f.dst = 0 && bits f.lo 1 39 = 0)
    (if bits f.lo 0 1 = 1 then (gOf f.srca).map (.flushresOne f.cons)
     else check (f.srca = 0) (some (.flushresAll f.cons)))

/-- WAITA (R220): MOD bit 27 is ACQ. -/
def decWaita (cc : Cond) (f : Fields) : Option Instr :=
  let v := VLow.unpack f.lo
  check (f.pd = 0 && f.alloc = 0 && v.strictA = 0 && v.strictB = 0 && bits v.mod 0 1 = 0 &&
      bits v.mod 2 2 = 0 && v.ring = 0 && bits v.imm 0 8 = 0) do
    pure (.waita f.cons cc (bitOf (bits v.mod 1 1)) (← gOf f.dst) (← gOf f.srca) (← gOf v.srcb)
      (← gOf (bits v.imm 16 8)) (← gOf (bits v.imm 8 8)))

/-- DLSET: DST 0x00 names no register (R244). -/
def decDlset (f : Fields) : Option Instr :=
  check (f.pd = 0 && f.alloc = 0 && bits f.lo 0 32 = 0) do
    pure (.dlset f.cons (← if f.dst = 0 then some none else (gOf f.dst).map some) (← gOf f.srca)
      (← gOf (bits f.lo 32 8)))

/-- EQPUSH (R256). -/
def decEqpush (f : Fields) : Option Instr :=
  let v := VLow.unpack f.lo
  check (f.pd = 0 && f.alloc = 0 && f.dst = 0 && v.srcb = 0 && v.strictB = 0 && v.mod = 0 &&
      v.ring = 0 && bits v.imm 0 6 = 0) do
    pure (.eqpush f.cons (bits v.imm 21 3).toFin (← srcOf f.srca) (bitOf v.strictA)
      (bits v.imm 18 2).toFin (bits v.imm 6 6) (bits v.imm 12 6) (bitOf (bits v.imm 20 1)))

/-- LKSEND and LKRED (R348). -/
def decLk (mk : BitVec 8 → GReg → GReg → GReg → Instr) (f : Fields) : Option Instr :=
  check (f.pd = 0 && f.alloc = 0 && f.dst = 0 && bits f.lo 24 8 = 0 && bits f.lo 0 16 = 0) do
    pure (mk f.cons (← gOf f.srca) (← gOf (bits f.lo 32 8)) (← gOf (bits f.lo 16 8)))

/-- CSRR (R337). -/
def decCsrr (f : Fields) : Option Instr :=
  check (f.pd = 0 && f.alloc = 0 && f.srca = 0 && bits f.lo 12 28 = 0) do
    pure (.csrr f.cons (← gOf f.dst) (bits f.lo 0 12))

/-- CSRW, CSRS and CSRC (R337). -/
def decCsrw (mk : BitVec 8 → BitVec 12 → GReg → Instr) (f : Fields) : Option Instr :=
  check (f.pd = 0 && f.alloc = 0 && f.dst = 0 && bits f.lo 12 28 = 0) do
    pure (mk f.cons (bits f.lo 0 12) (← gOf f.srca))

/-! ### The opcode grid (R102) -/

/-- Class 0. -/
def class0 : List (Fields → Option Instr) :=
  [decR3 .addReg, decI .addImm, decR3 .sub, decR3 .mulReg, decI .mulImm, decR3 .mulh, decR3 .mulhU,
   decR3T .divu, decR3T .remu, decR3 .andReg, decI .andImm, decR3 .orReg, decI .orImm, decR3 .xorReg,
   decI .xorImm, decR3 .shlReg, decSh .shlImm, decR3 .shrReg, decSh .shrImm, decR3 .sarReg,
   decSh .sarImm] ++
  [decR3 .sltReg, decI .sltImm, decR3 .sltuReg, decI .sltuImm, decR3 .seqReg, decI .seqImm,
   decR3 .min, decR3 .minU, decR3 .max, decR3 .maxU, decR2 .mov,
   fun f => check (f.pd = 0 && f.alloc = 0 && f.srca = 0) do pure (.li f.cons (← gOf f.dst) f.lo),
   fun f => check (f.pd = 0 && f.alloc = 0 && f.srca = 0 && bits f.lo 24 16 = 0) do
     pure (.lih f.cons (← gOf f.dst) (bits f.lo 0 24)),
   decR4 .sel, decBf .bfx, decBf .bfxS, decBf .bfi, decR2 .clz, decR2 .ctz, decR2 .popc, decR4 .madd]

/-- Class 1. -/
def class1 : List (Fields → Option Instr) :=
  [decBr .b, decBc .bcEq, decBc .bcNe, decBc .bcLt, decBc .bcGe, decBc .bcLtu, decBc .bcGeu,
   decBr .call, decK .ret,
   fun f => check (f.pd = 0 && f.alloc = 0 && f.dst = 0 && bits f.lo 2 38 = 0) do
     pure (.jtbl f.cons (← gOf f.srca) (bits f.lo 0 2).toFin),
   fun f => check (f.pd = 0 && f.alloc = 0 && f.dst = 0 && f.srca = 0 && bits f.lo 16 24 = 0)
     (some (.lpad f.cons (bits f.lo 0 16))),
   fun f => check (f.pd = 0 && f.alloc = 0 && f.dst = 0 && bits f.lo 20 20 = 0) do
     pure (.loopReg f.cons (← gOf f.srca) (bits f.lo 0 20)),
   fun f => check (f.pd = 0 && f.alloc = 0 && f.dst = 0 && f.srca = 0)
     (some (.loopImm f.cons (bits f.lo 20 20) (bits f.lo 0 20))),
   decK .nop,
   fun f => check (f.pd = 0 && f.alloc = 0 && f.dst = 0 && f.srca = 0 && bits f.lo 34 6 = 0)
     (some (.fork f.cons (seqOf (bits f.lo 32 2)) (bits f.lo 0 32))),
   fun f => check (f.pd = 0 && f.alloc = 0 && f.dst = 0 && f.srca = 0 && bits f.lo 4 36 = 0)
     (some (.rdv f.cons (bits f.lo 0 4))),
   decK .exit, decTk .tksig, decTk .tkwait, decK .yield, decK .grpend,
   fun f => check (f.pd = 0 && f.alloc = 0 && f.dst = 0 && f.srca = 0 && bits f.lo 16 24 = 0)
     (some (.trap f.cons (bits f.lo 0 16)))]

/-- Class 2. -/
def class2 : List (Fields → Option Instr) :=
  [decLd .ldg .b, decLd .ldg .bu, decLd .ldg .h, decLd .ldg .hu, decLd .ldg .w, decLd .ldg .wu,
   decLd .ldg .d, decSt .stg .b, decSt .stg .h, decSt .stg .w, decSt .stg .d, decLd .ldl .b,
   decLd .ldl .bu, decLd .ldl .h, decLd .ldl .hu, decLd .ldl .w, decLd .ldl .wu, decLd .ldl .d,
   decSt .stl .b, decSt .stl .h, decSt .stl .w, decSt .stl .d,
   fun f => check (f.pd = 0 && f.alloc = 0 && f.dst = 0 && bits f.lo 6 34 = 0) do
     pure (.agset f.cons (bits f.lo 0 4).toFin (bits f.lo 4 2).toFin (← gOf f.srca)),
   fun f => check (f.pd = 0 && f.alloc = 0 && f.srca = 0 && bits f.lo 6 34 = 0) do
     pure (.agget f.cons (← gOf f.dst) (bits f.lo 0 4).toFin (bits f.lo 4 2).toFin),
   decAg .sload, decAg .sstore,
   fun f => check (f.pd = 0 && f.alloc = 0 && f.dst = 0) do
     pure (.sadv f.cons (bits f.lo 0 4).toFin (← operandOf f.srca (bits f.lo 4 36))),
   decAB .prefH, decAB .prefL]

/-- Class 3. -/
def class3 : List (Fields → Option Instr) :=
  [decV2 .vaddF, decV2 .vaddI, decV2 .vsubF, decV2 .vsubI, decV2 .vmulF, decV2 .vmulI, decV2 .vminF,
   decV2 .vminI, decV2 .vmaxF, decV2 .vmaxI, decV1 .vabsF, decV1 .vabsI, decV1 .vnegF, decV1 .vnegI,
   decV3 .vclampF, decV3 .vclampI] ++
  [decV2 (.vcmpF · .eq), decV2 (.vcmpF · .ne), decV2 (.vcmpF · .lt), decV2 (.vcmpF · .le),
   decV2 (.vcmpF · .gt), decV2 (.vcmpF · .ge), decV2 (.vcmpI · .eq), decV2 (.vcmpI · .ne),
   decV2 (.vcmpI · .lt), decV2 (.vcmpI · .le), decV2 (.vcmpI · .gt), decV2 (.vcmpI · .ge)] ++
  [decVFma .vfma, decVFma .vfms, decVFma .vfnma, decV2 .vminnum, decV2 .vmaxnum, decV3 .vsel,
   decV2 .vand, decV2 .vor, decV2 .vxor, decV2 .vshl, decV2 .vshr, decV2 .vsar, decV1 .vmov,
   decVBcast, decVFill, decV2 .vscale] ++
  [decVs .vaddFs, decVs .vsubFs, decVs .vmulFs, decVs .vminFs, decVs .vmaxFs, decVFmaFs,
   decVs .vaddIs, decVs .vmulIs, decVs .vmaxIs, decVs .vminIs, decV1 .vrnd]

/-- Class 4. -/
def class4 : List (Fields → Option Instr) :=
  [decV1 (.vcvt · .f32), decV1 (.vcvt · .bf16), decV1 (.vcvt · .f16), decV1 (.vcvt · .e4m3),
   decV1 (.vcvt · .e5m2), decV1 (.vcvt · .i32), decV1 (.vcvt · .i8), decV1 (.vcvt · .q4),
   decVQnt .q4, decVQnt .q4x, decVQnt .e4m3, decVQnt .e5m2,
   decV1 (.vdqnt · .q4), decV1 (.vdqnt · .q4x), decV1 (.vdqnt · .e4m3), decV1 (.vdqnt · .e5m2)] ++
  [decV1 .vexp2, decV1 .vlog2, decV1 .vrcp, decV1 .vrsq, decV1 .vtanh,
   decV1 (.vrmax · false), decV1 (.vrmax · true), decV1 (.vrmin · false), decV1 (.vrmin · true),
   decV1 (.vrsum · false), decV1 (.vrsum · true), decV1 (.vcsum · false), decV1 (.vcsum · true),
   decV1 (.vcmax · false), decV1 (.vcmax · true), decV1 .vtrn, decVLut false, decVLut true, decCbld,
   decTshape, decTshget]

/-- Class 5. -/
def class5 : List (Fields → Option Instr) :=
  mxPairs.map (decMx .mxmul) ++ mxsPairs.map (decMx .mxmuls) ++
  [decMxzero, decMxepi .s, decMxepi .sz, decMxepi .szb, decMxrd .f32, decMxrd .bf16, decMxrd .f16,
   decMxrd .i32, decMxwr, decCp (.cpg2l · .d1), decCp (.cpg2l · .d2), decCp (.cpg2l · .d3),
   decCp (.cpl2g · .d1), decCp (.cpl2g · .d2), decCp (.cpl2g · .d3), decCpl2l .d1, decCpl2l .d2,
   decCpl2l .d3, decCpmeta, decCpbc, decCp .cpfillL, decCp .cpfillG]

/-- Class 6. -/
def class6 : List (Fields → Option Instr) :=
  [decSemI .semsigImm, decSemR .semsigReg, decSemI .semwaitImm, decSemR .semwaitReg, decSemget,
   decBarexp, decBarwait, decBartest, decK .gbar, decAtom .add false, decAtom .add true,
   decAtom .and false, decAtom .and true, decAtom .or false, decAtom .or true, decAtom .xor false,
   decAtom .xor true, decAtom .min false, decAtom .min true, decAtom .max false, decAtom .max true,
   decAtom .swap false, decAtom .swap true, decAtcas false, decAtcas true] ++
  [decAcct .acct .f32, decAcct .acct .bf16, decAcct .acct .i32, decAcct .acctD .f32,
   decAcct .acctD .bf16, decAcct .acctD .i32, decFlushres, decWaita .eq, decWaita .ne, decWaita .lt,
   decWaita .ge, decWaita .ltu, decWaita .geu] ++
  [decK (.fenceAcq · .core), decK (.fenceAcq · .gang), decK (.fenceAcq · .chip),
   decK (.fenceAcq · .sys), decK (.fenceRel · .core), decK (.fenceRel · .gang),
   decK (.fenceRel · .chip), decK (.fenceRel · .sys), decK (.fenceAr · .core),
   decK (.fenceAr · .gang), decK (.fenceAr · .chip), decK (.fenceAr · .sys), decAB .futres, decR2 .futwait]

/-- Class 7. -/
def class7 : List (Fields → Option Instr) :=
  [decR2 .tsubmit, decR3 .tsubmitF, decDlset, decD .dlchk, decK .stepend, decD .frput, decA .frpub,
   decD .frget, decA .frrel, decD .kvapp, decA .kvpin, decA .kvunpin, decEqpush,
   fun f => check (f.pd = 0 && f.alloc = 0 && f.dst = 0 && f.srca = 0 && bits f.lo 3 37 = 0)
     (some (.pwracqImm f.cons (bits f.lo 0 3).toFin)),
   decA .pwracqReg, decK .pwrrel, decLk .lksend, decLk (.lkred · .f32), decLk (.lkred · .bf16),
   decLk (.lkred · .i32), decCsrr, decCsrw .csrw, decCsrw .csrs, decCsrw .csrc, decD .time]

/-- The decoders of a class, in index order. -/
def opcodeClass (c : BitVec 3) : List (Fields → Option Instr) :=
  match c.toNat with
  | 0 => class0 | 1 => class1 | 2 => class2 | 3 => class3
  | 4 => class4 | 5 => class5 | 6 => class6 | _ => class7

/-- The decoder of an opcode; none for an unassigned one (R102). -/
def opcodeDecoder (opc : BitVec 9) : Option (Fields → Option Instr) :=
  (opcodeClass (bits opc 6 3))[(bits opc 0 6).toNat]?

/-- The opcode is one of the 320 of R102. -/
def assigned (opc : BitVec 9) : Bool := (opcodeDecoder opc).isSome

/-- The instruction that the fields stand for; none raises ILLEGAL-OPCODE or ILLEGAL-FIELD (R83). -/
def decodeFields (f : Fields) : Option Instr := do
  let d ← opcodeDecoder f.opc
  let i ← d f
  check i.wf (some i)

/-- The instruction that an 80-bit word stands for. -/
def decodeWord (w : Word80) : Option Instr := decodeFields (Fields.unpack w)

/-- Ten bytes, lowest address first, as a word (R2, R77). -/
def wordOfBytes (b : List Byte) : Word80 :=
  BitVec.ofNat 80 (b.foldr (fun x acc => x.toNat + 256 * acc) 0)

/-- The instruction that ten bytes, lowest address first, stand for. -/
def decodeBytes (b : List Byte) : Option Instr := check (b.length = 10) (decodeWord (wordOfBytes b))

/-- The sequencers that may run an opcode (R101). -/
def permitted (opc : BitVec 9) (q : SeqId) : Bool :=
  let n := (bits opc 0 6).toNat
  match (bits opc 6 3).toNat with
  | 0 => true
  | 1 => if n = 0x09 ∨ n = 0x0A ∨ n = 0x0E ∨ n = 0x13 then decide (q = .c) else true
  | 2 =>
    if n ≤ 0x0A ∨ n = 0x1B ∨ n = 0x1C then decide (q = .c)
    else if n ≤ 0x15 then decide (q ≠ .x)
    else if n = 0x18 then decide (q = .l)
    else if n = 0x19 then decide (q = .s)
    else decide (q = .l ∨ q = .s)
  | 3 | 4 => decide (q = .x)
  | 5 => decide (q = .c)
  | 6 => if n ≤ 0x03 ∨ n = 0x06 ∨ n = 0x07 then true else decide (q = .c)
  | _ => if n = 0x0C then decide (q = .x) else if n = 0x14 ∨ n = 0x18 then true else decide (q = .c)

/-! ### The encoder -/

/-- Format V or I with every other field given. -/
def enc (opc : BitVec 9) (alloc : BitVec 4) (k : BitVec 8) (dst srca : BitVec 8) (lo : BitVec 40) : Fields :=
  { opc := opc, pd := 0, alloc := alloc, cons := k, dst := dst, srca := srca, lo := lo }

/-- A register-form word of three registers. -/
def encR3 (opc : BitVec 9) (k : BitVec 8) (d a b : GReg) : Fields :=
  enc opc 0 k (gCode d) (gCode a) (loB (gCode b))

/-- An immediate-form word. -/
def encI (opc : BitVec 9) (k : BitVec 8) (d a : GReg) (imm : BitVec 40) : Fields :=
  enc opc 0 k (gCode d) (gCode a) imm

/-- A register-form word of four registers. -/
def encR4 (opc : BitVec 9) (k : BitVec 8) (d a b c : GReg) : Fields :=
  enc opc 0 k (gCode d) (gCode a) (gCode b ++ (0 : BitVec 8) ++ gCode c ++ (0 : BitVec 16))

/-- A bit-field word. -/
def encBf (opc : BitVec 9) (k : BitVec 8) (d a : GReg) (lsb : BitVec 6) (width : BitVec 7) : Fields :=
  enc opc 0 k (gCode d) (gCode a) ((0 : BitVec 27) ++ width ++ lsb)

/-- A word whose only field is CONS. -/
def encK (opc : BitVec 9) (k : BitVec 8) : Fields := enc opc 0 k 0 0 0

/-- A token word. -/
def encTk (opc : BitVec 9) (k : BitVec 8) (q : SeqId) (n : Operand 8) : Fields :=
  enc opc 0 k 0 n.code ((0 : BitVec 30) ++ seqCode q ++ n.value)

/-- A vector word. -/
def encV (opc : BitVec 9) (w : VWord) (srcb : BitVec 8) (strictB : Bool) (imm : BitVec 24) : Fields :=
  { opc := opc, pd := pdCode w.a, alloc := allocCode w.alloc, cons := w.cons, dst := dstCode w.dst,
    srca := srcCode w.a,
    lo := VLow.pack { srcb := srcb, strictA := bitCode w.strictA, strictB := bitCode strictB,
                      mod := bitCode w.sat ++ rndCode w.rnd, ring := ringCode w.dst w.ring, imm := imm } }

/-- A vector word of two sources. -/
def encV2 (opc : BitVec 9) (w : VWord) (b : VSrc) (st : Bool) : Fields := encV opc w (srcCode b) st 0

/-- A vector word of three sources, with the low bits of IMM24. -/
def encV3 (opc : BitVec 9) (w : VWord) (b : VSrc) (st : Bool) (c : VSrc) (lf : BitVec 2) : Fields :=
  encV opc w (srcCode b) st (srcCode c ++ (0 : BitVec 14) ++ lf)

/-- A scalar-operand form. -/
def encVs (opc : BitVec 9) (w : VWord) (g : GReg) : Fields := encV opc w (gCode g) false 0

/-- A format E word. -/
def encE (opc : BitVec 9) (wsem ssem : BitVec 8) (p : BitVec 48) : Fields :=
  { opc := opc, pd := 0, alloc := 0, cons := wsem, dst := ssem, srca := bits p 40 8, lo := bits p 0 40 }

/-- A matrix multiply. -/
def encMx (opc : BitVec 9) (p : MxMul) : Fields :=
  encE opc p.wsem p.ssem ((BitVec.ofFin p.acc : BitVec 4) ++ p.ta ++ p.tb ++ bitCode p.zero ++ bitCode p.rsum ++
    (BitVec.ofFin p.rep : BitVec 4) ++ (BitVec.ofFin p.cb : BitVec 3) ++ (BitVec.ofFin p.mdq : BitVec 1) ++
    (BitVec.ofFin p.spn : BitVec 3) ++
    (0 : BitVec 19))

/-- MXRD and MXEPI, with the 24 low bits. -/
def encMxWin (opc : BitVec 9) (p : MxWin) (low : BitVec 24) : Fields :=
  encE opc p.wsem p.ssem ((BitVec.ofFin p.acc : BitVec 4) ++ p.t ++ p.rows ++ p.cols ++ low)

/-- A copy, with the 21 low bits. -/
def encCp (opc : BitVec 9) (p : CopyOp) (low : BitVec 21) : Fields :=
  encE opc p.wsem p.ssem ((BitVec.ofFin p.rd : BitVec 5) ++ (BitVec.ofFin p.rs : BitVec 5) ++
    (BitVec.ofFin p.rl : BitVec 5) ++ (BitVec.ofFin p.rg : BitVec 5) ++ barCode p.bar ++ low)

/-- The opcode of the `n`-th index past `base`. -/
abbrev op (base n : Nat) : BitVec 9 := BitVec.ofNat 9 (base + n)

/-- The index of a load size (R344). -/
def LoadSize.idx : LoadSize → Nat
  | .b => 0 | .bu => 1 | .h => 2 | .hu => 3 | .w => 4 | .wu => 5 | .d => 6

/-- The index of a store size (R369). -/
def StoreSize.idx : StoreSize → Nat
  | .b => 0 | .h => 1 | .w => 2 | .d => 3

/-- The index of a tile comparison (R387). -/
def VCond.idx : VCond → Nat
  | .eq => 0 | .ne => 1 | .lt => 2 | .le => 3 | .gt => 4 | .ge => 5

/-- The index of a scalar comparison (R220). -/
def Cond.idx : Cond → Nat
  | .eq => 0 | .ne => 1 | .lt => 2 | .ge => 3 | .ltu => 4 | .geu => 5

/-- The index of an atomic operation (R206). -/
def AtomOp.idx : AtomOp → Nat
  | .add => 0 | .and => 1 | .or => 2 | .xor => 3 | .min => 4 | .max => 5 | .swap => 6

/-- The index of an element kind (R208). -/
def AccFmt.idx : AccFmt → Nat
  | .f32 => 0 | .bf16 => 1 | .i32 => 2

/-- The index of a scope (R203). -/
def Scope.idx : Scope → Nat
  | .core => 0 | .gang => 1 | .chip => 2 | .sys => 3

/-- The index of a dimension. -/
def Dims.idx : Dims → Nat
  | .d1 => 0 | .d2 => 1 | .d3 => 2

/-- The index of an epilogue. -/
def Epi.idx : Epi → Nat
  | .s => 0 | .sz => 1 | .szb => 2

/-- The code of a format (R120), which is also the index of VCVT. -/
def Fmt.idx : Fmt → Nat
  | .f32 => 0 | .bf16 => 1 | .f16 => 2 | .e4m3 => 3 | .e5m2 => 4 | .i32 => 5 | .i8 => 6 | .q4 => 7
  | .q4x => 8 | .l16 => 9

/-- The index of a quantised format in VQNT and VDQNT. -/
def Fmt.qidx : Fmt → Nat
  | .q4 => 0 | .q4x => 1 | .e4m3 => 2 | _ => 3

/-- The index of a format in MXRD. -/
def Fmt.ridx : Fmt → Nat
  | .f32 => 0 | .bf16 => 1 | .f16 => 2 | _ => 3

/-- The index of a pair in a list of pairs. -/
def pairIdx (p : MxPair) (l : List MxPair) : Nat := l.findIdx (fun q => decide (q = p))

/-- The fields of a word; none for a step that is no 80-bit word. -/
def encodeFields : Instr → Option Fields
  | .addReg k d a b => some (encR3 0x000 k d a b)
  | .addImm k d a i => some (encI 0x001 k d a i)
  | .sub k d a b => some (encR3 0x002 k d a b)
  | .mulReg k d a b => some (encR3 0x003 k d a b)
  | .mulImm k d a i => some (encI 0x004 k d a i)
  | .mulh k d a b => some (encR3 0x005 k d a b)
  | .mulhU k d a b => some (encR3 0x006 k d a b)
  | .divu k t d a b => some (enc 0x007 (allocCode t) k (gCode d) (gCode a) (loB (gCode b)))
  | .remu k t d a b => some (enc 0x008 (allocCode t) k (gCode d) (gCode a) (loB (gCode b)))
  | .andReg k d a b => some (encR3 0x009 k d a b)
  | .andImm k d a i => some (encI 0x00A k d a i)
  | .orReg k d a b => some (encR3 0x00B k d a b)
  | .orImm k d a i => some (encI 0x00C k d a i)
  | .xorReg k d a b => some (encR3 0x00D k d a b)
  | .xorImm k d a i => some (encI 0x00E k d a i)
  | .shlReg k d a b => some (encR3 0x00F k d a b)
  | .shlImm k d a c => some (encI 0x010 k d a ((0 : BitVec 34) ++ c))
  | .shrReg k d a b => some (encR3 0x011 k d a b)
  | .shrImm k d a c => some (encI 0x012 k d a ((0 : BitVec 34) ++ c))
  | .sarReg k d a b => some (encR3 0x013 k d a b)
  | .sarImm k d a c => some (encI 0x014 k d a ((0 : BitVec 34) ++ c))
  | .sltReg k d a b => some (encR3 0x015 k d a b)
  | .sltImm k d a i => some (encI 0x016 k d a i)
  | .sltuReg k d a b => some (encR3 0x017 k d a b)
  | .sltuImm k d a i => some (encI 0x018 k d a i)
  | .seqReg k d a b => some (encR3 0x019 k d a b)
  | .seqImm k d a i => some (encI 0x01A k d a i)
  | .min k d a b => some (encR3 0x01B k d a b)
  | .minU k d a b => some (encR3 0x01C k d a b)
  | .max k d a b => some (encR3 0x01D k d a b)
  | .maxU k d a b => some (encR3 0x01E k d a b)
  | .mov k d a => some (enc 0x01F 0 k (gCode d) (gCode a) 0)
  | .li k d i => some (enc 0x020 0 k (gCode d) 0 i)
  | .lih k d i => some (enc 0x021 0 k (gCode d) 0 ((0 : BitVec 16) ++ i))
  | .sel k d a b c => some (encR4 0x022 k d a b c)
  | .bfx k d a l w => some (encBf 0x023 k d a l w)
  | .bfxS k d a l w => some (encBf 0x024 k d a l w)
  | .bfi k d a l w => some (encBf 0x025 k d a l w)
  | .clz k d a => some (enc 0x026 0 k (gCode d) (gCode a) 0)
  | .ctz k d a => some (enc 0x027 0 k (gCode d) (gCode a) 0)
  | .popc k d a => some (enc 0x028 0 k (gCode d) (gCode a) 0)
  | .madd k d a b c => some (encR4 0x029 k d a b c)
  | .b k o => some (enc 0x040 0 k 0 0 o)
  | .bcEq k a b o => some (encI 0x041 k a b o)
  | .bcNe k a b o => some (encI 0x042 k a b o)
  | .bcLt k a b o => some (encI 0x043 k a b o)
  | .bcGe k a b o => some (encI 0x044 k a b o)
  | .bcLtu k a b o => some (encI 0x045 k a b o)
  | .bcGeu k a b o => some (encI 0x046 k a b o)
  | .call k o => some (enc 0x047 0 k 0 0 o)
  | .ret k => some (encK 0x048 k)
  | .jtbl k a n => some (enc 0x049 0 k 0 (gCode a) ((0 : BitVec 38) ++ (BitVec.ofFin n : BitVec 2)))
  | .lpad k l => some (enc 0x04A 0 k 0 0 ((0 : BitVec 24) ++ l))
  | .loopReg k a e => some (enc 0x04B 0 k 0 (gCode a) ((0 : BitVec 20) ++ e))
  | .loopImm k c e => some (enc 0x04C 0 k 0 0 (c ++ e))
  | .nop k => some (encK 0x04D k)
  | .fork k q t => some (enc 0x04E 0 k 0 0 ((0 : BitVec 6) ++ seqCode q ++ t))
  | .rdv k m => some (enc 0x04F 0 k 0 0 ((0 : BitVec 36) ++ m))
  | .exit k => some (encK 0x050 k)
  | .tksig k q n => some (encTk 0x051 k q n)
  | .tkwait k q n => some (encTk 0x052 k q n)
  | .yield k => some (encK 0x053 k)
  | .grpend k => some (encK 0x054 k)
  | .trap k c => some (enc 0x055 0 k 0 0 ((0 : BitVec 24) ++ c))
  | .ldg k t sz d a o => some (enc (op 0x080 sz.idx) (allocCode t) k (gCode d) (gCode a) o)
  | .stg k sz v a o => some (enc (op 0x087 sz.idx) 0 k (gCode v) (gCode a) o)
  | .ldl k t sz d a o => some (enc (op 0x08B sz.idx) (allocCode t) k (gCode d) (gCode a) o)
  | .stl k sz v a o => some (enc (op 0x092 sz.idx) 0 k (gCode v) (gCode a) o)
  | .agset k g w a => some (enc 0x096 0 k 0 (gCode a)
      ((0 : BitVec 34) ++ (BitVec.ofFin w : BitVec 2) ++ (BitVec.ofFin g : BitVec 4)))
  | .agget k d g w => some (enc 0x097 0 k (gCode d) 0
      ((0 : BitVec 34) ++ (BitVec.ofFin w : BitVec 2) ++ (BitVec.ofFin g : BitVec 4)))
  | .sload k g => some (enc 0x098 0 k 0 0 ((0 : BitVec 36) ++ (BitVec.ofFin g : BitVec 4)))
  | .sstore k g => some (enc 0x099 0 k 0 0 ((0 : BitVec 36) ++ (BitVec.ofFin g : BitVec 4)))
  | .sadv k g n => some (enc 0x09A 0 k 0 n.code (n.value ++ (BitVec.ofFin g : BitVec 4)))
  | .prefH k a b => some (enc 0x09B 0 k 0 (gCode a) (loB (gCode b)))
  | .prefL k a b => some (enc 0x09C 0 k 0 (gCode a) (loB (gCode b)))
  | .vaddF w b s => some (encV2 0x0C0 w b s)
  | .vaddI w b s => some (encV2 0x0C1 w b s)
  | .vsubF w b s => some (encV2 0x0C2 w b s)
  | .vsubI w b s => some (encV2 0x0C3 w b s)
  | .vmulF w b s => some (encV2 0x0C4 w b s)
  | .vmulI w b s => some (encV2 0x0C5 w b s)
  | .vminF w b s => some (encV2 0x0C6 w b s)
  | .vminI w b s => some (encV2 0x0C7 w b s)
  | .vmaxF w b s => some (encV2 0x0C8 w b s)
  | .vmaxI w b s => some (encV2 0x0C9 w b s)
  | .vabsF w => some (encV 0x0CA w 0 false 0)
  | .vabsI w => some (encV 0x0CB w 0 false 0)
  | .vnegF w => some (encV 0x0CC w 0 false 0)
  | .vnegI w => some (encV 0x0CD w 0 false 0)
  | .vclampF w b s c => some (encV3 0x0CE w b s c 0)
  | .vclampI w b s c => some (encV3 0x0CF w b s c 0)
  | .vcmpF w cc b s => some (encV2 (op 0x0D0 cc.idx) w b s)
  | .vcmpI w cc b s => some (encV2 (op 0x0D6 cc.idx) w b s)
  | .vfma w lf b s c => some (encV3 0x0DC w b s c lf)
  | .vfms w lf b s c => some (encV3 0x0DD w b s c lf)
  | .vfnma w lf b s c => some (encV3 0x0DE w b s c lf)
  | .vminnum w b s => some (encV2 0x0DF w b s)
  | .vmaxnum w b s => some (encV2 0x0E0 w b s)
  | .vsel w b s c => some (encV3 0x0E1 w b s c 0)
  | .vand w b s => some (encV2 0x0E2 w b s)
  | .vor w b s => some (encV2 0x0E3 w b s)
  | .vxor w b s => some (encV2 0x0E4 w b s)
  | .vshl w b s => some (encV2 0x0E5 w b s)
  | .vshr w b s => some (encV2 0x0E6 w b s)
  | .vsar w b s => some (encV2 0x0E7 w b s)
  | .vmov w => some (encV 0x0E8 w 0 false 0)
  | .vbcast w row col => some (encV 0x0E9 w 0 false ((0 : BitVec 10) ++ row ++ (0 : BitVec 2) ++ col))
  | .vfill k d ring g => some
      { opc := 0x0EA, pd := 0, alloc := 0, cons := k, dst := tCode d, srca := 0,
        lo := VLow.pack { srcb := gCode g, strictA := 0, strictB := 0, mod := 0,
                          ring := if ring then 1 else 0, imm := 0 } }
  | .vscale w b s => some (encV2 0x0EB w b s)
  | .vrnd w => some (encV 0x0F6 w 0 false 0)
  | .vaddFs w g => some (encVs 0x0EC w g)
  | .vsubFs w g => some (encVs 0x0ED w g)
  | .vmulFs w g => some (encVs 0x0EE w g)
  | .vminFs w g => some (encVs 0x0EF w g)
  | .vmaxFs w g => some (encVs 0x0F0 w g)
  | .vfmaFs w lf g c => some (encV 0x0F1 w (gCode g) false (srcCode c ++ (0 : BitVec 14) ++ lf))
  | .vaddIs w g => some (encVs 0x0F2 w g)
  | .vmulIs w g => some (encVs 0x0F3 w g)
  | .vmaxIs w g => some (encVs 0x0F4 w g)
  | .vminIs w g => some (encVs 0x0F5 w g)
  | .vcvt w f => some (encV (op 0x100 f.idx) w 0 false 0)
  | .vqnt w f keep => some (encV (op 0x108 f.qidx) w 0 false ((0 : BitVec 23) ++ bitCode keep))
  | .vdqnt w f => some (encV (op 0x10C f.qidx) w 0 false 0)
  | .vexp2 w => some (encV 0x110 w 0 false 0)
  | .vlog2 w => some (encV 0x111 w 0 false 0)
  | .vrcp w => some (encV 0x112 w 0 false 0)
  | .vrsq w => some (encV 0x113 w 0 false 0)
  | .vtanh w => some (encV 0x114 w 0 false 0)
  | .vrmax w i => some (encV (if i then 0x116 else 0x115) w 0 false 0)
  | .vrmin w i => some (encV (if i then 0x118 else 0x117) w 0 false 0)
  | .vrsum w i => some (encV (if i then 0x11A else 0x119) w 0 false 0)
  | .vcsum w i => some (encV (if i then 0x11C else 0x11B) w 0 false 0)
  | .vcmax w i => some (encV (if i then 0x11E else 0x11D) w 0 false 0)
  | .vtrn w => some (encV 0x11F w 0 false 0)
  | .vlut w h cb => some (encV (if h then 0x121 else 0x120) w 0 false
      ((0 : BitVec 21) ++ (BitVec.ofFin cb : BitVec 3)))
  | .cbld k a sa cb => some
      { opc := 0x122, pd := pdCode a, alloc := 0, cons := k, dst := 0, srca := srcCode a,
        lo := VLow.pack { srcb := 0, strictA := bitCode sa, strictB := 0, mod := 0, ring := 0,
                          imm := (0 : BitVec 21) ++ (BitVec.ofFin cb : BitVec 3) } }
  | .tshape k d a => some (enc 0x123 0 k (tCode d) (gCode a) 0)
  | .tshget k d t sa => some (enc 0x124 0 k (gCode d) (tCode t)
      ((0 : BitVec 8) ++ bitCode sa ++ (0 : BitVec 31)))
  | .mxmul p => some (encMx (op 0x140 (pairIdx p.pair mxPairs)) p)
  | .mxmuls p => some (encMx (op 0x158 (pairIdx p.pair mxsPairs)) p)
  | .mxzero w s acc i => some (encE 0x164 w s
      ((BitVec.ofFin acc : BitVec 4) ++ bitCode i ++ (0 : BitVec 43)))
  | .mxwr w s acc t => some (encE 0x16C w s ((BitVec.ofFin acc : BitVec 4) ++ t ++ (0 : BitVec 38)))
  | .mxrd p f r sat => some (encMxWin (op 0x168 f.ridx) p
      (bits (rndCode r) 0 2 ++ bitCode sat ++ (0 : BitVec 21)))
  | .mxepi p v => some (encMxWin (op 0x165 v.idx) p 0)
  | .cpg2l p n => some (encCp (op 0x16D n.idx) p 0)
  | .cpl2g p n => some (encCp (op 0x170 n.idx) p 0)
  | .cpl2l p n r => some (encCp (op 0x173 n.idx) p ((BitVec.ofFin r : BitVec 4) ++ (0 : BitVec 17)))
  | .cpbc p m => some (encCp 0x177 p ((0 : BitVec 4) ++ m ++ (0 : BitVec 1)))
  | .cpfillL p => some (encCp 0x178 p 0)
  | .cpfillG p => some (encCp 0x179 p 0)
  | .cpmeta p m c => some (encCp 0x176 p ((BitVec.ofFin m : BitVec 1) ++ c ++ (0 : BitVec 13)))
  | .semsigImm k s n => some (enc 0x180 0 k 0 0 (s ++ (0 : BitVec 16) ++ n))
  | .semsigReg k s a => some (enc 0x181 0 k 0 (gCode a) (loB s))
  | .semwaitImm k s n => some (enc 0x182 0 k 0 0 (s ++ (0 : BitVec 16) ++ n))
  | .semwaitReg k s a => some (enc 0x183 0 k 0 (gCode a) (loB s))
  | .semget k d s => some (enc 0x184 0 k (gCode d) 0 (loB s))
  | .barexp k b n => some (enc 0x185 0 k 0 n.code ((BitVec.ofFin b : BitVec 6) ++ n.value))
  | .barwait k b p => some (enc 0x186 0 k 0 p.code
      ((BitVec.ofFin b : BitVec 6) ++ (0 : BitVec 33) ++ p.value))
  | .bartest k d b p => some (enc 0x187 0 k (gCode d) p.code
      ((BitVec.ofFin b : BitVec 6) ++ (0 : BitVec 33) ++ p.value))
  | .gbar k => some (encK 0x188 k)
  | .atom k t o dbl acq rel d a b => some (enc (op 0x189 (2 * o.idx + dbl.toNat)) (allocCode t) k (gCode d)
      (gCode a) (VLow.pack { srcb := gCode b, strictA := 0, strictB := 0,
                             mod := (0 : BitVec 2) ++ bitCode acq ++ bitCode rel, ring := 0, imm := 0 }))
  | .atcas k t dbl acq rel d a b c => some (enc (op 0x197 dbl.toNat) (allocCode t) k (gCode d) (gCode a)
      (VLow.pack { srcb := gCode b, strictA := 0, strictB := 0,
                   mod := (0 : BitVec 2) ++ bitCode acq ++ bitCode rel, ring := 0,
                   imm := gCode c ++ (0 : BitVec 16) }))
  | .acct k f acc a s r c => some (enc (op 0x199 f.idx) 0 k 0 (gCode a)
      (VLow.pack { srcb := gCode s, strictA := 0, strictB := 0, mod := 0, ring := 0,
                   imm := (BitVec.ofFin acc : BitVec 4) ++ r ++ c ++ (0 : BitVec 6) }))
  | .acctD k f acc a s r c => some (enc (op 0x19C f.idx) 0 k 0 (gCode a)
      (VLow.pack { srcb := gCode s, strictA := 0, strictB := 0, mod := 0, ring := 0,
                   imm := (BitVec.ofFin acc : BitVec 4) ++ r ++ c ++ (0 : BitVec 6) }))
  | .flushresAll k => some (encK 0x19F k)
  | .flushresOne k a => some (enc 0x19F 0 k 0 (gCode a) 1)
  | .waita k cc acq d a m v t => some (enc (op 0x1A0 cc.idx) 0 k (gCode d) (gCode a)
      (VLow.pack { srcb := gCode m, strictA := 0, strictB := 0,
                   mod := (0 : BitVec 2) ++ bitCode acq ++ (0 : BitVec 1), ring := 0,
                   imm := gCode v ++ gCode t ++ (0 : BitVec 8) }))
  | .fenceAcq k s => some (encK (op 0x1A6 s.idx) k)
  | .fenceRel k s => some (encK (op 0x1AA s.idx) k)
  | .fenceAr k s => some (encK (op 0x1AE s.idx) k)
  | .futres k a v => some (enc 0x1B2 0 k 0 (gCode a) (loB (gCode v)))
  | .futwait k d a => some (enc 0x1B3 0 k (gCode d) (gCode a) 0)
  | .tsubmit k d a => some (enc 0x1C0 0 k (gCode d) (gCode a) 0)
  | .tsubmitF k d a f => some (encR3 0x1C1 k d a f)
  | .dlset k d t w => some (enc 0x1C2 0 k (match d with | none => 0 | some g => gCode g) (gCode t)
      (loB (gCode w)))
  | .dlchk k d => some (enc 0x1C3 0 k (gCode d) 0 0)
  | .stepend k => some (encK 0x1C4 k)
  | .frput k d => some (enc 0x1C5 0 k (gCode d) 0 0)
  | .frpub k a => some (enc 0x1C6 0 k 0 (gCode a) 0)
  | .frget k d => some (enc 0x1C7 0 k (gCode d) 0 0)
  | .frrel k a => some (enc 0x1C8 0 k 0 (gCode a) 0)
  | .kvapp k d => some (enc 0x1C9 0 k (gCode d) 0 0)
  | .kvpin k a => some (enc 0x1CA 0 k 0 (gCode a) 0)
  | .kvunpin k a => some (enc 0x1CB 0 k 0 (gCode a) 0)
  | .eqpush k q src sa plane bx yb fs => some (enc 0x1CC 0 k 0 (srcCode src)
      (VLow.pack { srcb := 0, strictA := bitCode sa, strictB := 0, mod := 0, ring := 0,
                   imm := (BitVec.ofFin q : BitVec 3) ++ bitCode fs ++ (BitVec.ofFin plane : BitVec 2) ++
                     yb ++ bx ++ (0 : BitVec 6) }))
  | .pwracqImm k l => some (enc 0x1CD 0 k 0 0 ((0 : BitVec 37) ++ (BitVec.ofFin l : BitVec 3)))
  | .pwracqReg k a => some (enc 0x1CE 0 k 0 (gCode a) 0)
  | .pwrrel k => some (encK 0x1CF k)
  | .lksend k s w t => some (enc 0x1D0 0 k 0 (gCode s)
      (gCode w ++ (0 : BitVec 8) ++ gCode t ++ (0 : BitVec 16)))
  | .lkred k f s w t => some (enc (op 0x1D1 f.idx) 0 k 0 (gCode s)
      (gCode w ++ (0 : BitVec 8) ++ gCode t ++ (0 : BitVec 16)))
  | .csrr k d c => some (enc 0x1D4 0 k (gCode d) 0 ((0 : BitVec 28) ++ c))
  | .csrw k c a => some (enc 0x1D5 0 k 0 (gCode a) ((0 : BitVec 28) ++ c))
  | .csrs k c a => some (enc 0x1D6 0 k 0 (gCode a) ((0 : BitVec 28) ++ c))
  | .csrc k c a => some (enc 0x1D7 0 k 0 (gCode a) ((0 : BitVec 28) ++ c))
  | .time k d => some (enc 0x1D8 0 k (gCode d) 0 0)
  | _ => none

/-- The 80-bit word of an instruction; none for a step that is no such word. -/
def encode (i : Instr) : Option Word80 := (encodeFields i).map Fields.pack

/-- The opcode of an instruction; none for a step that is no 80-bit word. -/
def Instr.opc (i : Instr) : Option (BitVec 9) := (encodeFields i).map (·.opc)

/-! ### Xumak words (R314) -/

/-- The Xumak instruction of a 32-bit word: custom-0, funct7 0, funct3 0 to 3; none otherwise. -/
def decodeXumak (w : BitVec 32) : Option Instr :=
  let rd := (bits w 7 5).toFin
  let rs1 := (bits w 15 5).toFin
  let rs2 := (bits w 20 5).toFin
  check (bits w 0 7 = 0x0B && bits w 25 7 = 0)
    (match (bits w 12 3).toNat with
      | 0 => some (.rfetch rd rs1 rs2)
      | 1 => some (.bfxt rd rs1 rs2)
      | 2 => some (.sigw rd rs1 rs2)
      | 3 => some (.dspt rd rs1 rs2)
      | _ => none)

/-- A Xumak word of funct3 and its registers. -/
def xumakWord (f3 : BitVec 3) (d a b : Fin 32) : BitVec 32 :=
  (0 : BitVec 7) ++ (BitVec.ofFin b : BitVec 5) ++ (BitVec.ofFin a : BitVec 5) ++ f3 ++
    (BitVec.ofFin d : BitVec 5) ++ (0x0B : BitVec 7)

/-- The 32-bit word of a Xumak instruction. -/
def encodeXumak : Instr → Option (BitVec 32)
  | .rfetch d a b => some (xumakWord 0 d a b)
  | .bfxt d a b => some (xumakWord 1 d a b)
  | .sigw d a b => some (xumakWord 2 d a b)
  | .dspt d a b => some (xumakWord 3 d a b)
  | _ => none

/-- The instruction the decoder reads from a word numbered as the opcode table numbers it: a Xumak word
of up to 32 bits, a sequencer's word of up to 80 bits. -/
def decodeTableWord (nbits w : Nat) : Option Instr :=
  if nbits ≤ 32 then decodeXumak (BitVec.ofNat 32 w) else decodeWord (BitVec.ofNat 80 w)

end Sys2Proof
end

