-- ==== Sys2Proof/Config.lean ====
section
/-! DEFINITION. What an implementation fixes, and the free values.

Each opaque constant stands for a value or an order that the manual leaves open: nothing can evaluate it,
so a theorem holds whatever it is. The counter `tick` of the state makes each use fresh. -/

namespace Sys2Proof

namespace Config

/-- The F32 results of the special functions inside the bounds of R157 (log 7). -/
opaque exp2 : BitVec 32 → BitVec 32

/-- See `exp2`. -/
opaque log2 : BitVec 32 → BitVec 32

/-- See `exp2`. -/
opaque rcp : BitVec 32 → BitVec 32

/-- See `exp2`. -/
opaque rsq : BitVec 32 → BitVec 32

/-- See `exp2`. -/
opaque tanh : BitVec 32 → BitVec 32

/-- Energy of an island over the last 10 µs, in nJ (R268, log 11). -/
opaque islandEnergy : Nat → Nat → Nat

/-- The clock of an island from 32 to 35 in MHz, fixed at boot (R260, log 60). -/
opaque islandClock : Nat → Nat

/-- The GDDR 7 transfers of a context over the last 10 µs (R268, log 11). -/
opaque transfers : Nat → Nat → Nat

/-- Which of the contents that a granule had before block writes of other cores a read at a tick sees, counted back from
the present ones (0) (R199, R201, log 8). -/
opaque tornGranule : Nat → Nat → Nat

/-- Whether a signal of a semaphore shares its cycle with the next one (R365, log 1). -/
opaque sameCycle : Nat → Bool

/-- Word `i` of the device key, which boot firmware loads as key 0 (R175, log 56). -/
opaque deviceKey : Nat → Word

/-- The bitstream of a coded frame (R258, log 12). -/
opaque bitstream : Nat → List Byte

/-- The bytes of an SPDM reply (R316, log 13). -/
opaque spdmReply : Nat → List Byte

/-- Whether a fetch after a code write sees the old word (R77, log 10). -/
opaque staleCode : Nat → Bool

/-- Which first-stage translation an access at a tick uses for an address, among the walk in memory (0) and those that
cached entries give (R183, R184, log 9). -/
opaque staleFirst : Nat → Nat → Nat

/-- The same for the second stage (R183, R184, log 9). -/
opaque staleSecond : Nat → Nat → Nat

/-- Whether the host reports a host page as present when it is asked through ATS (R179, log 9). -/
opaque atsPresent : Nat → Nat → Bool

/-- What a read of host memory outside every DMA window returns (R318, log 6). -/
opaque droppedRead : Nat → Byte

/-- Whether PTM reports a clock error above 64 ns when a transfer reaches the peer port (R312, log 26). -/
opaque clockError : Nat → Bool

/-- The context in which a device takes a remote submission, by the sender's base and rank (R237, log 25). -/
opaque remoteCtx : Nat → Nat → Nat

/-- The fault queue of a remote submission's job (R237, log 25). -/
opaque remoteFaultQueue : Nat → Nat → BitVec 64

/-- What a service core reads at a tick from a byte of its memory that nothing has written (R314, log 5). -/
opaque serviceByte : Nat → Nat → Byte

/-- What a service core reads at a tick from a CSR whose value neither the manual nor RISC-V fixes (R314, log 5). -/
opaque serviceCsr : Nat → Nat → BitVec 64

/-- The features that the device offers (R319 gives no value; log 14). -/
def featOff0 : Word := 0xFF

/-- See `featOff0`. -/
def featOff1 : Word := 0

/-- The column that message `i` of a source names: R46 gives a message one and does not say which (log 48). -/
opaque diagColumn : List Byte → Nat → Nat

/-- The text of message `i` of a source (R46, log 48). -/
opaque diagText : List Byte → Nat → String

end Config

end Sys2Proof
end

