-- ==== Sys2Proof/Machine/State.lean ====
section
/-! DEFINITION. The state of the whole device, and the state after reset.

Every table is sparse (`Tab`): a key that is not listed holds the table's default. Durations are in ns;
cycle counts that a rule accumulates (DONE of R246, AGE of R211) are held in thousandths of a cycle, so
that ns × MHz is exact. -/

namespace Sys2Proof.Machine

/-! ### Outcomes that are no step of the manual -/

/-- Why the machine stops. -/
inductive Fault where
  /-- A service core fetches from service memory that nothing has written (`Step.lean`). Safe: the manual
  describes no such fetch. -/
  | serviceFetch (core : Nat) (pc : Word)
  deriving DecidableEq, Repr

/-- Why a step has no meaning. -/
inductive Refusal where
  /-- An arm of `Dispatch.lean` that has no meaning yet. Safe: nothing is claimed of it. -/
  | notModelled (mnemonic : String)
  deriving DecidableEq, Repr

/-! ### Memory and addresses -/

/-- Bytes by address; an address that is not listed reads 0. -/
abbrev Memory := Tab Byte

/-- The canonical form: addresses strictly rising, no entry equal to 0. -/
def Memory.wf (m : Memory) : Bool := Tab.wf 0 m

/-- A release stamp (R195). -/
abbrev Stamp := BitVec 32

/-- An agent identifier (R188). -/
abbrev AgentId := BitVec 24

/-- A final address (R165): device-physical or host. -/
structure FAddr where
  host : Bool
  a : Nat
  deriving DecidableEq, Repr

/-- One access that a granule's record keeps: who, at which stamp, whether atomic, and which of the
granule's 64 bytes (bit b for byte b). -/
structure Mark where
  agent : AgentId
  stamp : Stamp
  atomic : Bool
  bytes : BitVec 64
  deriving DecidableEq, Repr

/-- The record of a granule (R196): the last writer and the last plain reader of its bytes, and the
synchronisation stamp. No two writers' marks share a byte; all readers' marks are of one agent (log 8). -/
structure RaceRec where
  w : List Mark
  r : List Mark
  y : Stamp
  deriving DecidableEq, Repr

/-- A cleared record. -/
def RaceRec.clear : RaceRec := { w := [], r := [], y := 0 }

/-- What a leaf gives (R171). -/
structure Leaf where
  host : Bool
  key : BitVec 6
  addr : Nat
  size : Nat
  cp : Nat
  r : Bool
  w : Bool
  a : Bool
  deriving DecidableEq, Repr

/-! ### Faults that are taken -/

/-- The fault codes of R278. -/
inductive Code where
  | illegalOpcode | illegalField | seqClass | emptyRead | shape | overlap | jtblBound | lpadMismatch
  | rstack | loopDepth | align | trap | page | perm | keyMismatch | pageRefused | lsaRange | kvFull
  | race | semOverflow | barOverflow | futDouble | currentOver | energyOut | budgetOver | linkMiss
  | ibDepth | eccUncorrectable | fabricError
  deriving DecidableEq, Repr

/-- A fault noted for the stop of its core-task (R280): what its record holds (R284). `kind` is the
agent kind of R188. -/
structure FaultNote where
  code : Code
  kind : Nat
  deferred : Bool := false
  cause : BitVec 2 := 0
  waddr : BitVec 32
  addr : Word := 0
  opc : BitVec 9 := 0
  detail : BitVec 48 := 0
  oagent : AgentId := 0
  ostamp : Stamp := 0
  agent : AgentId := 0
  stamp : Stamp := 0
  time : Nat
  deriving DecidableEq, Repr

/-! ### Sequencers -/

/-- Whether a sequencer runs (R47, R58, R61, R279). -/
inductive SeqStatus where
  | idle | running | exited | faulted
  deriving DecidableEq, Repr

/-- An entry of the loop stack (R99). -/
structure LoopEntry where
  start : BitVec 32
  last : BitVec 32
  remaining : Nat
  deriving DecidableEq, Repr

/-- A block: a tile value with its shape and format, and its scale row (R112, R84). -/
structure Block where
  rows : Nat
  cols : Nat
  fmt : Fmt
  scales : Option (List Byte)
  bytes : List Byte
  deriving DecidableEq, Repr

/-- Where a deferred result goes (R88). -/
inductive TagDest where
  | g (r : GReg)
  | tile (t : TReg)
  deriving DecidableEq, Repr

/-- What an access has taken from its translation: final address, key, whether the line keeps records (R173). -/
structure Bound where
  f : FAddr
  key : BitVec 6
  keep : Bool
  deriving DecidableEq, Repr

/-- A deferred result, or the access that will give it (R89). A global load holds the translation of its issue
(R345), or none when it is issued again after a stop (R281). -/
inductive Deferred where
  | value (v : Word)
  | tile (b : Block)
  | ldg (va : Word) (sz : LoadSize) (waddr : BitVec 32) (st : Stamp) (at_ : Option Bound)
  | ldl (a : Nat) (sz : LoadSize) (waddr : BitVec 32) (st : Stamp)
  | atom
  deriving DecidableEq, Repr

/-- A busy tag (R89). -/
structure TagRec where
  dest : TagDest
  res : Deferred
  landed : Bool
  deriving DecidableEq, Repr

/-- What a word that parks past its spin window waits for (R67): a free or published slot of a stream's ring,
the close of a stream's step, room in a letterbox. -/
inductive Spin where
  | put (stream : Nat)
  | get (stream : Nat)
  | step (stream : Nat)
  | letter (engine : Nat)
  deriving DecidableEq, Repr

/-- What a blocked word waits for; the answers that come from elsewhere stand in it. -/
inductive WaitKind where
  /-- A condition that the word tests each time it issues. -/
  | plain
  /-- SEMWAIT, as a waiter for `amt` of semaphore `sem` (R365). -/
  | sem (sem amt : Nat) (served : Bool)
  /-- RDV (R60). -/
  | rdv (mask : BitVec 4)
  /-- GBAR, arrived (R341). -/
  | gbar
  /-- GRPEND (R343). -/
  | grpend
  /-- A push of `n` chunks into queue `q`, and whether it has been admitted (R112). -/
  | push (q n : Nat) (granted : Bool)
  /-- PWRACQ for a level (R266). -/
  | pwr (level : Nat)
  /-- FRPUT, FRGET, EQPUSH or DLSET, which park past their spin window (R67). -/
  | spin (k : Spin)
  /-- WAITA, registered as pigeonhole `id`; its status, and the stamp it acquires (R221). -/
  | waita (id : Nat) (result : Option Word) (y : Option Stamp)
  /-- An atomic sent to its slice, and the old value (R207). -/
  | atom (result : Option Word)
  /-- FUTWAIT, registered on the future at `addr` (R239). -/
  | future (addr : Nat)
  /-- A remote submission `req`, and its answer (R237). -/
  | remote (req : Nat) (answer : Option Word)
  /-- Held at a tenant's quota (R224). -/
  | quota
  /-- A TSUBMIT held at a quota or at a page of what its descriptor names: the sixteen words of the descriptor as it was
  read, and whether THROT counts a holding (R224, R229, R235). -/
  | submit (td : List Word) (counted : Bool)
  deriving DecidableEq, Repr

/-- A wait in progress: since when, and its arrival number. -/
structure Wait where
  kind : WaitKind
  since : Nat
  ord : Nat
  deriving DecidableEq, Repr

/-- The atomic before a FENCE.ACQ (R203): its tag when deferred, and the stamp of the release it read. -/
structure LastAtom where
  ord : Nat
  busy : Bool
  y : Option Stamp
  deriving DecidableEq, Repr

/-- A sequencer. -/
structure Seq where
  status : SeqStatus
  pc : BitVec 32
  g : Tab Word
  rets : List (BitVec 32)
  loops : List LoopEntry
  tags : Tab TagRec
  wait : Option Wait
  stamp : Stamp
  acqBusy : Bool
  relNext : Option Scope
  lastAtom : Option LastAtom
  deriving DecidableEq, Repr

/-- A sequencer that has not been started (R55). -/
def Seq.idle : Seq :=
  { status := .idle, pc := 0, g := [], rets := [], loops := [], tags := [], wait := none, stamp := 0,
    acqBusy := false, relNext := none, lastAtom := none }

/-! ### Core-tasks -/

/-- A count with a stamp: a token queue or a semaphore (R114, R115). -/
structure Obj where
  n : Nat
  st : Stamp
  deriving DecidableEq, Repr

/-- An object at 0. -/
def Obj.zero : Obj := { n := 0, st := 0 }

/-- A transfer barrier (R116); the stamps of the open phase and of the phase last closed (R202). -/
structure Bar where
  count : Int
  phase : Bool
  openSt : Option Stamp
  closedSt : Option Stamp
  deriving DecidableEq, Repr

/-- A barrier at core-task start. -/
def Bar.zero : Bar := { count := 0, phase := false, openSt := none, closedSt := none }

/-- A codebook (R117). -/
structure Codebook where
  entries : List (BitVec 16)
  f16 : Bool
  deriving DecidableEq, Repr

/-- A codebook at core-task start. -/
def Codebook.zero : Codebook := { entries := List.replicate 16 0, f16 := false }

/-- A residual slot in use (R211); `age` in thousandths of a cycle, `flying` while a send of it is in
flight, `held` when elements have been summed since its contents last left (R212), `due` when it is to be delivered again
after a stop (R281), `last` the send of the latest accumulate that has been summed into it (R204). -/
structure Resid where
  va : Word
  rows : Nat
  cols : Nat
  stride : Nat
  fmt : AccFmt
  words : Tab (BitVec 32)
  age : Nat
  flying : Bool
  held : Bool
  due : Bool
  last : Nat
  stamp : Stamp
  waddr : BitVec 32
  deriving DecidableEq, Repr

/-- A matrix command in its queue (R94). -/
structure MxCmd where
  i : Instr
  waddr : BitVec 32
  stamp : Stamp
  deriving DecidableEq, Repr

/-- A copy command with its captured operands (R333). -/
structure CopyCmd where
  i : Instr
  waddr : BitVec 32
  stamp : Stamp
  dst : Word
  src : Word
  len : Nat
  n1 : Nat
  n2 : Nat
  ss1 : Nat
  ds1 : Nat
  ss2 : Nat
  ds2 : Nat
  deriving DecidableEq, Repr

/-- A running copy in its progress register (R150, R334). -/
structure RunCopy where
  cmd : CopyCmd
  done : Nat
  deriving DecidableEq, Repr

/-- The wait of a queue's head for its WSEM (R95). -/
inductive HeadWait where
  | none
  | waiting (ord : Nat)
  | served
  deriving DecidableEq, Repr

/-- How a posted store stands (R281, R370): posted; refused at its slice by a deferred fault; to be posted again, under
a new translation, after a stop. -/
inductive PostStage where
  | posted | faulted | anew
  deriving DecidableEq, Repr

/-- A posted store (R370). -/
structure Posted where
  va : Word
  final : FAddr
  key : BitVec 6
  keep : Bool
  bytes : List Byte
  waddr : BitVec 32
  stamp : Stamp
  stage : PostStage
  deriving DecidableEq, Repr

/-- A piece of an accumulate (R209): position in the tile, final address and addend of each element; key and
record-keeping of each frame.
`rt` names the residual slot that a delivery empties; `direct` marks ACCT.D; `mute` marks a piece whose acceptance is a
packet that the fabric discards (R290). -/
structure Piece where
  slot : Nat
  rank : Nat
  ctx : Nat
  core : Nat
  send : Nat
  va : Word
  elems : List (Nat × Nat × BitVec 32)
  keys : List (Nat × BitVec 6 × Bool)
  fmt : AccFmt
  direct : Bool
  rt : Option (Fin 8)
  lane : Bool
  stamp : Stamp
  waddr : BitVec 32
  ready : Bool
  mute : Bool
  deriving DecidableEq, Repr

/-- An atomic at its slice (R207): `op` none is ATCAS with its new value `v2`. -/
structure AtomReq where
  slot : Nat
  rank : Nat
  ctx : Nat
  va : Word
  addr : Nat
  key : BitVec 6
  keep : Bool
  dbl : Bool
  op : Option AtomOp
  v : Word
  v2 : Word
  tag : Option Tag
  rel : Bool
  acq : Bool
  ord : Nat
  stamp : Stamp
  waddr : BitVec 32
  deriving DecidableEq, Repr

/-- An accumulate whose pieces are not all performed (R209): the residual slot it took along, the pieces
not yet accepted and not yet settled, and whether the C-sequencer waits for its acceptance (R217). -/
structure AcctSend where
  id : Nat
  va : Word
  rows : Nat
  cols : Nat
  stride : Nat
  fmt : AccFmt
  direct : Bool
  ride : Option (Fin 8)
  rt : Option (Fin 8)
  unaccepted : Nat
  left : Nat
  stall : Bool
  waddr : BitVec 32
  deriving DecidableEq, Repr

/-- The contents of a scratchpad granule before a block write, the core that wrote, the stamp of the write or of the
release that followed it, and whether that release is still to come (R199, R201). -/
structure Torn where
  old : List Byte
  core : Nat
  stamp : Stamp
  going : Bool
  deriving DecidableEq, Repr

/-- The stages of the C-sequencer's EXIT (R62). -/
inductive ExitStage where
  | none | draining | delivering | waiting | done
  deriving DecidableEq, Repr

/-- A core-task. `floor` is the stamp of a token queue or semaphore that no release has written (R195, log 54); `recorded`
says that a record of its stop has been posted (R280); `due` lists the semaphores whose waiters are still to be tested in this cycle (R365); `mxHalted` says that the head matrix
command was stopped part-way and has not gone on (R150). -/
structure CoreTask where
  core : Nat
  seqC : Seq
  seqL : Seq
  seqX : Seq
  seqS : Seq
  tiles : Memory
  tsd : Tab Word
  empty : Tab Bool
  pend : Tab Nat
  acc : Tab (BitVec 32)
  rsum : Tab (BitVec 32)
  accInt : Tab Bool
  resid : Tab Resid
  ag : Tab Word
  queues : Tab (List Block)
  tokens : Tab Obj
  sems : Tab Obj
  due : List Nat
  bars : Tab Bar
  books : Tab Codebook
  mdq : Tab (List (List Byte))
  jt : Tab Word
  scratch : Memory
  scratchRaces : Tab RaceRec
  torn : Tab (List Torn)
  bankMask : BitVec 32
  ring : List Block
  mxq : List MxCmd
  mxHead : HeadWait
  mxBlock : Option Nat
  mxBook : Codebook
  mxStopped : Bool
  mxHalted : Bool
  cpq : List CopyCmd
  cpHead : HeadWait
  copies : Tab RunCopy
  cpStopped : Bool
  mxStamp : Stamp
  cpStamp : Stamp
  lkStamp : Stamp
  floor : Stamp
  pwrlvl : Nat
  faultRec : Word
  recorded : Bool
  fmtErr : Bool
  migPend : Bool
  migCount : Nat
  persistent : Bool
  gbars : Nat
  gbarHere : Bool
  posted : List Posted
  again : List AtomReq
  sends : List AcctSend
  flight : List Piece
  returns : List Piece
  notes : List FaultNote
  exit : ExitStage
  deriving DecidableEq, Repr

/-- A core-task with every item at its start value of R104, on physical core `core`. -/
def CoreTask.fresh (core : Nat) : CoreTask :=
  { core := core, seqC := Seq.idle, seqL := Seq.idle, seqX := Seq.idle, seqS := Seq.idle, tiles := [],
    tsd := [], empty := [], pend := [], acc := [], rsum := [], accInt := [], resid := [], ag := [],
    queues := [], tokens := [], sems := [], due := [], bars := [], books := [], mdq := [],
    jt := [], scratch := [], scratchRaces := [], torn := [], bankMask := 0, ring := [], mxq := [], mxHead := .none,
    mxBlock := none, mxBook := Codebook.zero, mxStopped := false, mxHalted := false, cpq := [], cpHead := .none, copies := [], cpStopped := false,
    mxStamp := 0, cpStamp := 0, lkStamp := 0, floor := 0, pwrlvl := 1, faultRec := 0, recorded := false, fmtErr := false,
    migPend := false, migCount := 0, persistent := false, gbars := 0, gbarHere := false, posted := [], again := [],
    sends := [], flight := [], returns := [], notes := [], exit := .none }

/-! ### Tasks and jobs -/

/-- The task states of R50; RETIRED and KILLED tasks leave their slot. -/
inductive TaskState where
  | submitted | ready | running | parked | preempted
  deriving DecidableEq, Repr

/-- What an image snapshot holds (R44, R45): entry word, the four sections (first word, count), code words
by word address, data blocks (start, bytes), tiles (register, shape word, bytes), the code's offset. -/
structure Image where
  entry : BitVec 32
  sections : List (Nat × Nat)
  code : Tab Word80
  blocks : List (Nat × List Byte)
  tiles : List (Nat × Word × List Byte)
  codeOff : Nat
  deriving DecidableEq, Repr

/-- The image of a task whose image has not been read. -/
def Image.none : Image :=
  { entry := 0, sections := [], code := [], blocks := [], tiles := [], codeOff := 0 }

/-- A condition that a parked gang waits for (R67, R179, R279). -/
inductive ParkCond where
  | page (ctx page : Nat) (host : Bool) (rank kind : Nat) (va : Word) (waddr : BitVec 32)
  | future (rank : Nat)
  | waita (rank : Nat)
  | spin (rank : Nat) (q : SeqId)
  | action
  | freeze
  deriving DecidableEq, Repr

/-- A preload (R241): the gang on whose cores it stands (4096 once that gang has gone), those cores, and the data blocks
and tiles that have been read. -/
structure Preload where
  gang : Nat
  cores : List Nat
  image : Image
  deriving DecidableEq, Repr

/-- A task in flight (R229 to R234). `td` holds the sixteen descriptor words; `headSince` says by partition since when
the task has been the head of its level's list there (R73); `misses` counts the misses of its accesses (R180);
`finished` lists the sequencers (key rank × 4 + sequencer) that have completed their last word, and the engines (key
64 + rank × 16 + unit) that have reached a progress point, since the gang faulted (R279). -/
structure Task where
  id : BitVec 32
  td : List Word
  ctx : Nat
  part : Nat
  multi : Option (List (Nat × Nat))
  stream : Option Nat
  step : BitVec 32
  state : TaskState
  counter : Nat
  preds : List Nat
  job : Nat
  accepted : Nat
  place : Nat
  headSince : Tab Nat
  started : Nat
  budget : Nat
  conds : List ParkCond
  saved : Bool
  gbarSt : Stamp
  image : Image
  pgrank : Nat
  preload : Option Preload
  misses : Tab Nat
  finished : List Nat
  cts : Tab CoreTask
  deriving DecidableEq, Repr

/-- A fault record that waits for its place in the fault queue (R284): the task it governs, whether it is
primary, and its words. -/
structure WaitRec where
  slot : Nat
  id : BitVec 32
  primary : Bool
  words : List Word
  deriving DecidableEq, Repr

/-- A job (R236, R284); `queue` is its submitting hardware queue, `remote` the peer and request of a
remote submission. -/
structure Job where
  count : Nat
  queue : Option Nat
  remote : Option (Word × Nat)
  tag : BitVec 32
  ctx : Nat
  fq : Word
  htask : Bool
  written : Nat
  waiting : List WaitRec
  deriving DecidableEq, Repr

/-! ### Home slices -/

/-- An entry of a reduction unit's queue (R207, R210). -/
inductive SliceOp where
  | atom (r : AtomReq)
  | piece (p : Piece)
  deriving DecidableEq, Repr

/-- A pigeonhole (R221); `keep` says whether the line of its word keeps records (R173), `lost` when its wake is a packet that the fabric discards, so that it ends by its timeout alone
(R290). -/
structure Pigeon where
  id : Nat
  addr : Nat
  keep : Bool
  mask : Word
  cc : Cond
  e : Word
  slot : Nat
  rank : Nat
  deadline : Option Nat
  tenant : Nat
  lost : Bool
  deriving DecidableEq, Repr

/-- A home slice: queue, reserved lane, ACCT.D pieces that wait at it, held pieces, pigeonholes. -/
structure Slice where
  queue : List SliceOp
  lane : List Piece
  held : List Piece
  pigeons : List Pigeon
  deriving DecidableEq, Repr

/-- A slice with nothing in it. -/
def Slice.empty : Slice := { queue := [], lane := [], held := [], pigeons := [] }

/-- A future waiter entry (R239): a gang's rank, or a submitted task's counter. -/
structure FutWaiter where
  addr : Nat
  slot : Nat
  rank : Option Nat
  tenant : Nat
  deriving DecidableEq, Repr

/-- The ACTION word of a delivered primary record (R286): its address, the task slot it governs, whether RESUME
counts as KILL, and the value that decides with the stamp of a release. -/
structure ActionWord where
  f : FAddr
  slot : Nat
  noResume : Bool
  value : Option (Word × Option Stamp)
  deriving DecidableEq, Repr

/-- A cached leaf (R183): its owner, the 4 KiB page that it translates, and the guest pages of the tables through which
a first-stage walk read it, from which second-stage entries it so derives. -/
structure CachedLeaf where
  owner : Nat
  page : Nat
  leaf : Leaf
  via : List Nat
  deriving DecidableEq, Repr

/-- A cached pointer to a table (R183): its owner, the shift of the level that the table serves, the address above that
level, the table, and the guest pages through which it was read. -/
structure CachedTable where
  owner : Nat
  shift : Nat
  above : Nat
  table : Nat
  via : List Nat
  deriving DecidableEq, Repr

/-- The cached entries of a stage (R183). -/
structure Cached where
  leaves : List CachedLeaf
  tables : List CachedTable
  deriving DecidableEq, Repr

/-- Nothing is cached. -/
def Cached.empty : Cached := { leaves := [], tables := [] }

/-- The memory of the device and of the host, with what is kept beside it. `stream` lists the lines that home slices
hold under CP = STREAM (R173); `misses` counts the misses of an access outside every gang (R180), by who makes it and the
page. -/
structure MemState where
  dpa : Memory
  host : Memory
  keyTags : Tab (BitVec 6)
  races : Tab RaceRec
  h : Stamp
  slices : Tab Slice
  futures : List FutWaiter
  actions : List ActionWord
  first : Cached
  second : Cached
  hostX : List Nat
  stream : List Nat
  misses : Tab Nat
  deriving DecidableEq, Repr

/-! ### Contexts, partitions, host registers -/

/-- A page request (R179): context, 4 KiB page, whether a host translation was missing, what the access needs, whether
it has been sent, and whether its context has been destroyed since (R181). -/
structure PageReq where
  ctx : Nat
  page : Nat
  host : Bool
  need : Bool × Bool
  sent : Bool
  orphan : Bool
  deriving DecidableEq, Repr

/-- A GO/STAT command register with its operand registers; `run` holds their values for a command that runs (R304). -/
structure Cmd where
  busy : Bool
  done : Bool
  refused : Bool
  a : Word
  c : Word
  k : Word
  run : List Word
  deriving DecidableEq, Repr

/-- A command register after reset. -/
def Cmd.idle : Cmd := { busy := false, done := false, refused := false, a := 0, c := 0, k := 0, run := [] }

/-- Device-wide registers (R303) and per-function registers (R301). -/
structure Regs where
  ctx : Tab Word
  ctxp : Tab Word
  tq : Tab Word
  share : Tab Word
  partcfg : Tab Word
  vpsmap : Tab Word
  pmax : Tab Nat
  pmem : Tab Word
  qpriv : Tab Word
  vpsreq : Tab Nat
  rscarve : Nat
  featacc1 : Word
  featw0 : Word
  featFixed : Bool
  bootstat : Word
  lateprq : Nat
  deverr : Word
  inv1 : Tab Cmd
  inv2 : Cmd
  frel : Cmd
  kload : Cmd
  kldata : Tab Word
  qmin : Tab Nat
  qcap : Tab Nat
  prq : List PageReq
  prqHist : Nat
  priStop : Tab Bool
  deriving DecidableEq, Repr

/-- A completion (R307). -/
structure Completion where
  tag : BitVec 32
  code : Nat
  kind : Nat
  value : Word
  deriving DecidableEq, Repr

/-- A command entry that has been read and waits (R179, R224, R306): its words, the words of its descriptor once they have
been read (R229, R242; none yet: []), its address, its queue's context when it was read (R302), and whether THROT counts
its holding. -/
structure FetchedEntry where
  words : List Word
  desc : List Word
  va : Word
  ctx : Nat
  counted : Bool
  deriving DecidableEq, Repr

/-- A level of indirect buffers being fetched (R308), with the TAG of its INDIRECT entry. -/
structure Level where
  tag : BitVec 32
  va : Word
  next : Nat
  count : Nat
  deriving DecidableEq, Repr

/-- A submission queue with its completion ring (R302). -/
structure HostQueue where
  sqbase : Word
  cqbase : Word
  log2 : Nat
  ctx : Nat
  vec : Nat
  en : Bool
  halted : Bool
  refused : Bool
  head : Nat
  tail : Nat
  cqtail : Nat
  cqhead : Nat
  comps : List Completion
  levels : List Level
  cur : Option FetchedEntry
  deriving DecidableEq, Repr

/-- A queue after reset. -/
def HostQueue.off : HostQueue :=
  { sqbase := 0, cqbase := 0, log2 := 0, ctx := 0, vec := 0, en := false, halted := false,
    refused := false, head := 0, tail := 0, cqtail := 0, cqhead := 0, comps := [], levels := [],
    cur := none }

/-- What the device tells the host beside completions (R180, R183, R186, R249, R271, R284, R289, R304). -/
inductive HostIrq where
  | msix (f vec : Nat)
  | stream (n : Nat)
  | faultQueue (job : Nat)
  | migrationDone (slot rank : Nat)
  | derate (p df eff : Nat)
  | pageRequest (ctx page : Nat) (r w : Bool)
  | lineLost (dpa : Nat)
  | packetLost
  | jobKilled (job : Nat)
  | thermalMigrate (slot rank : Nat)
  | atsDone
  deriving DecidableEq, Repr

/-- A MULTI-SUBMIT that has not committed (R310), and whether THROT counts its holding (R224). -/
structure Multi where
  queue : Nat
  tag : BitVec 32
  va : Word
  fq : Word
  htask : Bool
  td : List Word
  parts : List (Nat × Nat)
  since : Nat
  counted : Bool
  deriving DecidableEq, Repr

/-! ### Streams and encoders -/

/-- A frame-ring slot (R250). -/
inductive SlotState where
  | free | claimed | published | taken
  deriving DecidableEq, Repr

/-- A slot with the stamp of its last release. -/
structure RingSlot where
  st : SlotState
  stamp : Option Stamp
  deriving DecidableEq, Repr

/-- A page slot of a key-value window (R253). -/
structure KvSlot where
  valid : Bool
  pinned : Bool
  seq : Nat
  deriving DecidableEq, Repr

/-- A stream (R242 to R253). `sd` holds the sixteen descriptor words. -/
structure Stream where
  sd : List Word
  part : Nat
  tenant : Nat
  ctx : Nat
  queue : Nat
  tag : BitVec 32
  isOpen : Bool
  closed : BitVec 32
  postmark : Word
  work : Nat
  done : Nat
  risk : Bool
  ended : Bool
  rung : Nat
  stepRung : Nat
  good : Nat
  events : Nat
  evs : List (Word × Word)
  slots : List RingSlot
  cl : Nat
  gt : Nat
  store : Memory
  kv : List KvSlot
  kvSeq : Nat
  deriving DecidableEq, Repr

/-- A 64 × 64 block in a letterbox, with the stamp of its release (R256). -/
structure LetterBlock where
  ectx : Nat
  plane : Nat
  bx : Nat
  yb : Nat
  fstart : Bool
  samples : List (BitVec 16)
  stamp : Stamp
  deriving DecidableEq, Repr

/-- A frame being collected (R257): blocks by plane × 4096 + by × 64 + bx, and when its FSTART was taken. -/
structure Frame where
  blocks : Tab (List (BitVec 16))
  start : Nat
  cfg : Word
  deriving DecidableEq, Repr

/-- An encode context (R255): written values and values in force, the frames in progress, a coded record that
waits for room, whether EOWR is still to be written to the output buffer (`owed`), and the context, queue and tag of
its stream. -/
structure EncCtx where
  stream : Option Nat
  ecfg : Word
  ecfgF : Word
  erate : Word
  erateF : Word
  eobase : Word
  eobaseF : Word
  eolen : Word
  eolenF : Word
  eowr : Nat
  eord : Nat
  frames : Nat
  miss : Nat
  drop : Nat
  cur : Option Frame
  toCode : Option Frame
  last : Tab (List (BitVec 16))
  lastTake : Option Nat
  count : Nat
  coded : Option (List Byte)
  owed : Bool
  vctx : Nat
  queue : Nat
  tag : BitVec 32
  deriving DecidableEq, Repr

/-- A context at binding. -/
def EncCtx.zero : EncCtx :=
  { stream := none, ecfg := 0, ecfgF := 0, erate := 0, erateF := 0, eobase := 0, eobaseF := 0, eolen := 0,
    eolenF := 0, eowr := 0, eord := 0, frames := 0, miss := 0, drop := 0, cur := none, toCode := none,
    last := [], lastTake := none, count := 0, coded := none, owed := false, vctx := 0, queue := 0, tag := 0 }

/-! ### Power and cores -/

/-- A cluster island (R259 to R273, R293). `change` is the point being taken and when it is reached,
`held` whether the clocks are held until then, `fired` whether the 95 °C action waits to be re-armed (R270). -/
structure Island where
  point : Nat
  change : Option (Nat × Nat)
  held : Bool
  lowTicks : Nat
  target : Nat
  sensor : BitVec 16
  therm : Word
  fired : Bool
  hold105 : Bool
  hold105r : Bool
  energy : Nat
  half : Bool
  stop115 : Bool
  deriving DecidableEq, Repr

/-- An island after reset (R261). -/
def Island.reset : Island :=
  { point := 0, change := none, held := false, lowTicks := 0, target := 0, sensor := 0, therm := 0,
    fired := false, hold105 := false, hold105r := false, energy := 0, half := false, stop115 := false }

/-- Power, thermal state and cores of the chip; `lastTick` and `lastScrub` are the times of the last
governor tick and scrub pass, `clock` the cycles of an island since the last tick, `held` how long since then a context (key core × 128 +
context) has held a core, in thousandths of a cycle of its island, `used` how many accesses of home slices (key the
context) and encoder blocks (key 128 + context) a context has made since then, `freeze` what is left of a core's freeze
(R288, key the core) or of a slice's (key 128 + slice), in thousandths of a cycle, `frames` the frames of poste restante
(R282). -/
structure Power where
  islands : Tab Island
  moduleClamp : Bool
  frank : Tab Int
  derate : Nat
  gddrTemp : Int
  freeze : Tab Nat
  logical : Tab Nat
  clustersOff : BitVec 32
  channelsOff : BitVec 24
  clusterErr : Tab (List Nat)
  channelErr : Tab (List Nat)
  clock : Tab Nat
  held : Tab Nat
  used : Tab Nat
  frames : Nat
  lastTick : Nat
  lastScrub : Nat
  deriving DecidableEq, Repr

/-! ### Ports and migration of a function -/

/-- A transfer handed to the peer port (R349): the identifier of the sender's task, its rank and word. -/
structure Transfer where
  tick : Nat
  id : BitVec 32
  rank : Nat
  waddr : BitVec 32
  word : Word
  link : Word
  kind : Option AccFmt
  pgrank : Nat
  bytes : List Byte
  deriving DecidableEq, Repr

/-- A delivery inside the device, with its sending task, rank and word when that is one of this device (R349). -/
structure Inside where
  src : Option (BitVec 32 × Nat × BitVec 32)
  p : LinkPacket
  deriving DecidableEq, Repr

/-- What leaves the peer port: link data, remote submissions and answers (R237), and what R313 and R350 send
back or on. -/
inductive PeerPacket where
  | data (link : Word) (p : LinkPacket)
  | submit (link : Word) (req : Nat) (desc : List Word)
  | answer (link : Word) (req : Nat) (ans : RemoteAnswer)
  | fault (p : LinkPacket) (code : Code)
  | relay (f : Nat) (p : LinkPacket)
  | endMarker (f : Nat) (peer : Nat)
  deriving DecidableEq, Repr

/-- The stages of a VF's migration (R313). -/
inductive VfStage where
  | idle | frozen | imported | released
  deriving DecidableEq, Repr

/-- A VF's migration on its source: deliveries held, peers that have confirmed and been marked, and whether the host has
taken its state. -/
structure VfMig where
  stage : VfStage
  held : List Inside
  confirmed : List Nat
  exported : Bool
  deriving DecidableEq, Repr

/-- No migration. -/
def VfMig.idle : VfMig := { stage := .idle, held := [], confirmed := [], exported := false }

/-- The state of a virtual function that the host moves from a migration's source to its destination (R313, log 32): the
partition's tasks with their jobs and streams, encode contexts and letterbox blocks, the function's queues, what the slices
and the Sorting Office keep for the tasks, the deliveries held for them (`arrived`), and the partition's memory with its key
tags by frame. Addresses of device memory stand relative to the partition's memory; `fresh` bounds the arrival numbers. -/
structure VfImage where
  fresh : Nat
  tasks : Tab Task
  jobs : Tab Job
  streams : Tab Stream
  encs : Tab EncCtx
  letters : Tab (List LetterBlock)
  queues : Tab HostQueue
  pigeons : List Pigeon
  futures : List FutWaiter
  actions : List ActionWord
  held : List Piece
  arrived : List (BitVec 32 × Inside)
  mem : Memory
  tags : Tab (BitVec 6)
  deriving DecidableEq, Repr

/-- The ports; `held` are the deliveries held for accepted tasks that have not started, by the task's identifier (R350);
`images` holds the exported states of virtual functions (R313); `link` is the width in lanes and the rate in GT/s to which a port has trained (R299; key 0 the host port),
`counted` the peers' submissions whose holding THROT counts, by base and request (R224). -/
structure Ports where
  host : Bool
  peer : Bool
  base : Word
  link : Tab (Nat × Nat)
  admitted : Tab Nat
  out : List Transfer
  inside : List Inside
  sent : List PeerPacket
  held : List (BitVec 32 × Inside)
  images : Tab VfImage
  reqs : Tab (Nat × Nat)
  counted : List (Nat × Nat)
  nextReq : Nat
  vf : Tab VfMig
  marker : Tab (List Inside)
  deriving DecidableEq, Repr

/-! ### Service complex and security -/

/-- A service core (R314, log 5). -/
structure RvCore where
  x : Tab Word
  pc : Word
  machine : Bool
  mepc : Word
  mcause : Word
  mtval : Word
  mtvec : Word
  mscratch : Word
  mstatus : Word
  mie : Word
  mip : Word
  /-- The granule of 8 bytes that LR reserved. -/
  res : Option Word
  /-- THROT counts the holding of the DSPT at which the core stands (R224). -/
  held : Bool
  /-- The descriptor that this DSPT has read, while it waits (R229); none: []. -/
  desc : List Word
  deriving DecidableEq, Repr

/-- A service core after reset (log 5). -/
def RvCore.reset : RvCore :=
  { x := [], pc := 0, machine := true, mepc := 0, mcause := 0, mtval := 0, mtvec := 0, mscratch := 0,
    mstatus := 0x200001800, mie := 0, mip := 0, res := none, held := false, desc := [] }

/-- The service complex and what the boot ROM and the service complex keep. -/
structure Service where
  cores : Tab RvCore
  mem : Tab (Option Byte)
  lines : Tab (Option Word)
  keys : Tab (List Word)
  log : List (BitVec 256)
  maker : BitVec 256
  owner : BitVec 256
  fused : Nat
  strap : Bool
  windows : List (Nat × Nat)
  spdm : List (List Byte)
  svcLog : Nat
  deriving DecidableEq, Repr

end Sys2Proof.Machine

namespace Sys2Proof

/-- One turn of the device (log 1): a sequencer issues its next word, a service core executes its next word, a device step
or host action happens, device time passes, a line leaves its home slice (R196), the host or a peer device reads device
memory (R196), interrupts of a service core become pending (R314), a guest sets its virtual performance state through its
virtual function (R264), a walker caches what it reads for an address of a context, in the second stage or the first
(R183, R184), or the host takes the exported state of a frozen virtual function, or moves one in (R313). -/
inductive Turn where
  | elapse (ns : Nat)
  | issue (slot rank : Nat) (q : SeqId)
  | service (core : Fin 4)
  | event (i : Instr)
  | evict (line : Nat)
  | hostRead (dpa n : Nat)
  | serviceIrq (core : Fin 4) (bits : Word)
  | guestVps (part n : Fin 8)
  | walk (ctx a : Nat) (second : Bool)
  | vfExport (vf : Fin 9)
  | vfImport (vf : Fin 9) (x : Machine.VfImage)
  deriving DecidableEq, Repr, Inhabited

/-- Which turn comes next when the agenda names none (R400, log 1). -/
opaque Config.schedule : Nat → Turn

end Sys2Proof

namespace Sys2Proof.Machine

/-! ### The device -/

/-- The agent whose word issues: task slot, gang rank, sequencer. -/
structure Agent where
  slot : Nat
  rank : Nat
  q : SeqId
  deriving DecidableEq, Repr

/-- The whole device. `agenda`, `tick`, `cur`, `fresh` and `svc` are the model's own (log 1): the turns to
take, the counter of free values, the agent that issues, the counter of arrivals, the service core that
executes. -/
structure State where
  agenda : List Turn
  tick : Nat
  cur : Agent
  fresh : Nat
  svc : Fin 4
  dtime : Nat
  tasks : Tab Task
  gens : Tab (BitVec 20)
  jobs : Tab Job
  turns : Tab Nat
  blocked : Tab Nat
  m : MemState
  r : Regs
  queues : Tab HostQueue
  rr : Nat
  multi : Option Multi
  streams : Tab Stream
  encs : Tab EncCtx
  letters : Tab (List LetterBlock)
  encTurn : Tab Nat
  pw : Power
  ports : Ports
  service : Service
  irqs : List HostIrq
  aer : Nat
  deriving DecidableEq, Repr

/-- The device right after reset. Values that the manual does not give are named in log 14. -/
def State.reset : State :=
  { agenda := [], tick := 0, cur := { slot := 0, rank := 0, q := .c }, fresh := 0, svc := 0, dtime := 0,
    tasks := [], gens := [], jobs := [], turns := [], blocked := [],
    m := { dpa := [], host := [], keyTags := [], races := [], h := 0, slices := [], futures := [], actions := [],
           first := Cached.empty, second := Cached.empty, hostX := [], stream := [], misses := [] },
    r := { ctx := [], ctxp := [], 
           tq := [(0, (16384#64 <<< 44) ||| (16384#64 <<< 29) ||| (8192#64 <<< 15) ||| 512#64),
                  (1, (4096#64 <<< 13) ||| (64#64 <<< 5) ||| 4#64), (5, 4), (9, 4), (13, 4), (17, 4), (21, 4),
                  (25, 4), (29, 4), (33, 4)],
           share := [], partcfg := [(0, 0xFFFFFFFF)], vpsmap := [], pmax := [],
           pmem := [(0, 98304#64 <<< 32)], qpriv := [], vpsreq := [], rscarve := 0, featacc1 := 0,
           featw0 := 0, featFixed := false, bootstat := 0, lateprq := 0, deverr := 0, inv1 := [],
           inv2 := Cmd.idle, frel := Cmd.idle, kload := Cmd.idle, kldata := [], qmin := [], qcap := [], prq := [], prqHist := 512,
           priStop := [] },
    queues := [], rr := 0, multi := none, streams := [], encs := [], letters := [], encTurn := [],
    pw := { islands := [], moduleClamp := false, frank := [], derate := 0, gddrTemp := 0, freeze := [],
            logical := [], clustersOff := 0, channelsOff := 0, clusterErr := [], channelErr := [],
            clock := [], held := [], used := [], frames := 65536, lastTick := 0, lastScrub := 0 },
    ports := { host := false, peer := false, base := 0, link := [], admitted := [], out := [],
               inside := [], sent := [], held := [], images := [], reqs := [], counted := [], nextReq := 0, vf := [], marker := [] },
    service := { cores := [], mem := [], lines := [], keys := [], log := [], maker := 0, owner := 0, fused := 0,
                 strap := false, windows := [(0, 2 ^ 52)], spdm := [], svcLog := 0 },
    irqs := [], aer := 0 }

end Sys2Proof.Machine
end

