-- ==== Sys2Proof/Machine/Ops.lean ====
section
/-! DEFINITION. The named operations over registers, memory, stamps and waits; taking a fault; issuing a word.

A sequencer word runs in two halves: `enter` makes the checks and commits that every word shares (R83, R89,
R90), then the word's body answers a `Res`, which `leaveLocal` or `leaveGlobal` turns into the next state.
The body of a local word sees the state but changes its own core-task alone. -/

namespace Sys2Proof.Machine

/-! ### Tables -/

/-- The entry of a key that is listed. -/
def find {α : Type} : Tab α → Nat → Option α
  | [], _ => none
  | (k', v) :: t, k => if k' = k then some v else find t k

/-- `n` entries from key `a`, in order. -/
def readN {α : Type} (d : α) (t : Tab α) (a n : Nat) : List α := (List.range n).map (fun i => Tab.get d t (a + i))

/-- The list `vs` as entries from key `a`, leaving out the default. -/
def entriesOf {α : Type} [DecidableEq α] (d : α) : Nat → List α → Tab α
  | _, [] => []
  | a, v :: vs => if v = d then entriesOf d (a + 1) vs else (a, v) :: entriesOf d (a + 1) vs

/-- The table with `vs` at the keys from `a` on. -/
def splice {α : Type} [DecidableEq α] (d : α) (t : Tab α) (a : Nat) (vs : List α) : Tab α :=
  t.filter (fun e => decide (e.1 < a)) ++ entriesOf d a vs ++
    t.filter (fun e => decide (a + vs.length ≤ e.1))

/-- `n` entries from the front of a table whose keys start at `a` or above. -/
def takeFrom {α : Type} (d : α) : Tab α → Nat → Nat → List α
  | _, _, 0 => []
  | [], a, n + 1 => d :: takeFrom d [] (a + 1) n
  | (k, v) :: t, a, n + 1 => if k = a then v :: takeFrom d t (a + 1) n else d :: takeFrom d ((k, v) :: t) (a + 1) n

/-- `n` entries from key `a` of a table in canonical form, in one pass. -/
def sliceN {α : Type} (d : α) (t : Tab α) (a n : Nat) : List α :=
  takeFrom d (t.dropWhile (fun e => decide (e.1 < a))) a n

/-- Little-endian bytes of a number (R2). -/
def leBytes : Nat → Nat → List Byte
  | 0, _ => []
  | n + 1, v => BitVec.ofNat 8 (v % 256) :: leBytes n (v / 256)

/-- The number that little-endian bytes stand for (R2). -/
def leNat : List Byte → Nat
  | [] => 0
  | b :: bs => b.toNat + 256 * leNat bs

/-- A word from bytes. -/
def leWord (bs : List Byte) : Word := BitVec.ofNat 64 (leNat bs)

/-- Cut a list into pieces of `n`, at most `k` of them. -/
def chunksOf {α : Type} (n : Nat) : Nat → List α → List (List α)
  | 0, _ => []
  | _ + 1, [] => []
  | k + 1, l => l.take n :: chunksOf n k (l.drop n)

/-- The number of a signed reading. -/
def signed16 (x : BitVec 16) : Int := x.toInt

/-- Insert into a sorted list, after its equals. -/
def insertBy {α : Type} (le : α → α → Bool) (x : α) : List α → List α
  | [] => [x]
  | y :: ys => if le y x then y :: insertBy le x ys else x :: y :: ys

/-- Sort by `le`; equals keep their order. -/
def sortBy {α : Type} (le : α → α → Bool) (l : List α) : List α := l.foldl (fun acc x => insertBy le x acc) []

/-- `⌈a / b⌉`. -/
def ceilDiv (a b : Nat) : Nat := (a + b - 1) / b

/-- The number of sequencer `q` in the order of R375. -/
def seqNum : SeqId → Nat
  | .c => 0 | .l => 1 | .x => 2 | .s => 3

/-- The four sequencers. -/
def allSeqs : List SeqId := [.c, .l, .x, .s]

/-- The numbers of the fault codes (R278). -/
def Code.num : Code → Nat
  | .illegalOpcode => 0x01 | .illegalField => 0x02 | .seqClass => 0x03 | .emptyRead => 0x04
  | .shape => 0x05 | .overlap => 0x06 | .jtblBound => 0x07 | .lpadMismatch => 0x08 | .rstack => 0x09
  | .loopDepth => 0x0A | .align => 0x0B | .trap => 0x0C | .page => 0x10 | .perm => 0x11
  | .keyMismatch => 0x12 | .pageRefused => 0x13 | .lsaRange => 0x14 | .kvFull => 0x15 | .race => 0x18
  | .semOverflow => 0x19 | .barOverflow => 0x1A | .futDouble => 0x1B | .currentOver => 0x20
  | .energyOut => 0x21 | .budgetOver => 0x22 | .linkMiss => 0x24 | .ibDepth => 0x25
  | .eccUncorrectable => 0x30 | .fabricError => 0x31

/-! ### Registers of a sequencer -/

/-- Read a general register; g0 reads 0 (R79). -/
def Seq.rd (q : Seq) (r : GReg) : Word := if r = 0 then 0 else Tab.get 0 q.g r.val

/-- Write a general register; a write to g0 is discarded (R79). -/
def Seq.wr (q : Seq) (r : GReg) (v : Word) : Seq := if r = 0 then q else { q with g := Tab.set 0 q.g r.val v }

/-- Where control goes from address `a` and the loop stack after it (R99). -/
def loopEnd : List LoopEntry → BitVec 32 → List LoopEntry × BitVec 32
  | [], a => ([], a + 1)
  | e :: es, a =>
    if a = e.last then
      if 1 < e.remaining then ({ e with remaining := e.remaining - 1 } :: es, e.start) else loopEnd es a
    else (e :: es, a + 1)

/-- The sequencer after its word completes with no taken branch (R99); its wait is over. -/
def Seq.advance (q : Seq) : Seq :=
  let (ls, pc) := loopEnd q.loops q.pc
  { q with loops := ls, pc := pc, wait := none }

/-- The sequencer `q` of a core-task. -/
def CoreTask.seq (c : CoreTask) : SeqId → Seq
  | .c => c.seqC | .l => c.seqL | .x => c.seqX | .s => c.seqS

/-- Replace a sequencer. -/
def CoreTask.setSeq (c : CoreTask) (q : SeqId) (v : Seq) : CoreTask :=
  match q with
  | .c => { c with seqC := v } | .l => { c with seqL := v }
  | .x => { c with seqX := v } | .s => { c with seqS := v }

/-- Change a sequencer. -/
def CoreTask.updSeq (c : CoreTask) (q : SeqId) (f : Seq → Seq) : CoreTask := c.setSeq q (f (c.seq q))

/-! ### Stamps and race records (R195 to R197) -/

/-- The comparison of R197. -/
def exceeds (x y : Stamp) : Bool := 1 ≤ (x - y).toNat && decide ((x - y).toNat ≤ 2 ^ 31 - 1)

/-- The later of two stamps. -/
def stMax (x y : Stamp) : Stamp := if exceeds y x then y else x

/-- What a release of an agent at stamp `a` leaves in an object at stamp `o` (R195). -/
def relStamp (a o : Stamp) : Stamp := stMax o (a + 1)

/-- The stamp of an agent at `a` after it acquires from an object at `o` (R195). -/
def acqStamp (a o : Stamp) : Stamp := stMax a (o + 1)

/-- Raise the sequencer's stamp by a release. -/
def Seq.release (q : Seq) : Seq := { q with stamp := q.stamp + 1 }

/-- Acquire from an object. -/
def Seq.acquire (q : Seq) (o : Stamp) : Seq := { q with stamp := acqStamp q.stamp o }

/-- An atomic access of another kind than ATOM, ATCAS and WAITA comes between a fence and its atomic (R189, R203). -/
def Seq.intervene (q : Seq) : Seq := { q with relNext := none, lastAtom := none }

/-- The identifier of an agent (R188). -/
def agentId (slot rank kind : Nat) : AgentId :=
  BitVec.ofNat 24 (slot % 4096 * 4096 + rank % 16 * 256 + kind % 16)

/-- The highest stamp that a core-task's agents hold. -/
def CoreTask.topStamp (c : CoreTask) (h : Stamp) : Stamp :=
  [c.seqC.stamp, c.seqL.stamp, c.seqX.stamp, c.seqS.stamp, c.mxStamp, c.cpStamp, c.lkStamp].foldl stMax h

/-- The marks without some bytes; a mark with none left goes. -/
def cutMarks (ms : List Mark) (b : BitVec 64) : List Mark :=
  (ms.map (fun m => { m with bytes := m.bytes &&& ~~~b })).filter (fun m => m.bytes ≠ 0)

/-- A mark conflicts with an access of agent `a` at stamp `st` to the bytes `b` (R189, R197): it shares a
byte, is another agent's, and is not ordered before the access. -/
def Mark.against (m : Mark) (b : BitVec 64) (a : AgentId) (st : Stamp) (atomic : Bool) : Bool :=
  decide (m.bytes &&& b ≠ 0) && decide (m.agent ≠ a) && !(atomic && m.atomic) && !exceeds st m.stamp

/-- A conflict that the record shows (R197): the recorded agent and stamp. -/
def RaceRec.conflict (r : RaceRec) (b : BitVec 64) (a : AgentId) (st : Stamp) (writes atomic : Bool) :
    Option (AgentId × Stamp) :=
  ((r.w.find? (·.against b a st atomic)).or
    (if writes then r.r.find? (·.against b a st atomic) else none)).map (fun m => (m.agent, m.stamp))

/-- The record after a plain read (R196): another agent's reads are displaced. -/
def RaceRec.afterRead (r : RaceRec) (b : BitVec 64) (a : AgentId) (st : Stamp) : RaceRec :=
  { r with r := cutMarks (r.r.filter (fun m => m.agent = a)) b ++
      [{ agent := a, stamp := st, atomic := false, bytes := b }] }

/-- The record after a write (R196). -/
def RaceRec.afterWrite (r : RaceRec) (b : BitVec 64) (a : AgentId) (st : Stamp) (atomic : Bool) : RaceRec :=
  { r with w := cutMarks r.w b ++ [{ agent := a, stamp := st, atomic := atomic, bytes := b }], r := [] }

/-- The bytes `lo` to `hi` − 1 of a granule as a mask. -/
def byteMask (lo hi : Nat) : BitVec 64 := BitVec.ofNat 64 (2 ^ hi - 2 ^ lo)

/-- The granules that `n` bytes from `a` touch (R196), each with the bytes touched. -/
def granules (a n : Nat) : List (Nat × BitVec 64) :=
  if n = 0 then []
  else (List.range ((a + n - 1) / 64 - a / 64 + 1)).map (fun i =>
    let g := a / 64 + i
    (g, byteMask (a - g * 64) (Nat.min (a + n - g * 64) 64)))

/-! ### Traps -/

/-- What a fault carries beside its place (R284). -/
structure Trap where
  code : Code
  cause : BitVec 2 := 0
  addr : Word := 0
  detail : BitVec 48 := 0
  oagent : AgentId := 0
  ostamp : Stamp := 0
  agent : AgentId := 0
  stamp : Stamp := 0
  deriving DecidableEq, Repr

/-- A fault with a code alone. -/
def trapOf (c : Code) : Trap := { code := c }

/-- A fault with an address. -/
def trapAt (c : Code) (a : Word) : Trap := { code := c, addr := a }

/-- Every granule passes the check of R197 in `get`, or the first conflict as a trap. -/
def raceTrap (on : Bool) (get : Nat → RaceRec) (gs : List (Nat × BitVec 64)) (a : AgentId) (st : Stamp)
    (writes atomic : Bool) : Option Trap :=
  if on then
    gs.foldl (fun acc g =>
      match acc with
      | some t => some t
      | none => ((get g.1).conflict g.2 a st writes atomic).map (fun p =>
          { code := .race, addr := BitVec.ofNat 64 (g.1 * 64), oagent := p.1, ostamp := p.2, agent := a,
            stamp := st })) none
  else none

/-- Change the records of the granules of an access. -/
def updRecs (gs : List (Nat × BitVec 64)) (f : RaceRec → BitVec 64 → RaceRec) (t : Tab RaceRec) : Tab RaceRec :=
  gs.foldl (fun r g => Tab.upd RaceRec.clear r g.1 (f · g.2)) t

/-! ### Tasks, core-tasks, agents -/

/-- The task in slot `slot`. -/
def State.task? (s : State) (slot : Nat) : Option Task := find s.tasks slot

/-- Replace a task. -/
def State.setTask (s : State) (slot : Nat) (t : Task) : State := { s with tasks := Tab.put slot t s.tasks }

/-- Change a task, if the slot holds one. -/
def State.updTask (s : State) (slot : Nat) (f : Task → Task) : State :=
  match s.task? slot with
  | some t => s.setTask slot (f t)
  | none => s

/-- The core-task of a gang rank. -/
def Task.ct? (t : Task) (rank : Nat) : Option CoreTask := find t.cts rank

/-- Replace a core-task. -/
def Task.setCt (t : Task) (rank : Nat) (c : CoreTask) : Task := { t with cts := Tab.put rank c t.cts }

/-- A core-task of the device. -/
def State.ct? (s : State) (slot rank : Nat) : Option CoreTask := (s.task? slot).bind (·.ct? rank)

/-- Replace a core-task; a stamp above H becomes the new H (R195). -/
def State.putCt (s : State) (slot rank : Nat) (c : CoreTask) : State :=
  match s.task? slot with
  | some t => { s with tasks := Tab.put slot (t.setCt rank c) s.tasks, m := { s.m with h := c.topStamp s.m.h } }
  | none => s

/-- Change a core-task, if there is one. -/
def State.updCt (s : State) (slot rank : Nat) (f : CoreTask → CoreTask) : State :=
  match s.ct? slot rank with
  | some c => s.putCt slot rank (f c)
  | none => s

/-- Change a sequencer of a core-task. -/
def State.updSeq (s : State) (a : Agent) (f : Seq → Seq) : State :=
  s.updCt a.slot a.rank (fun c => c.updSeq a.q f)

/-- Change the core-task of the agent that issues. -/
def State.updCur (s : State) (f : CoreTask → CoreTask) : State := s.updCt s.cur.slot s.cur.rank f

/-- Field `n` bits from `lo` of descriptor word `w` (R229, R242). -/
def wordField (td : List Word) (w lo n : Nat) : Nat := (((td.getD w 0) >>> lo) &&& (BitVec.ofNat 64 (2 ^ n - 1))).toNat

/-- GANG of a descriptor. -/
def Task.gang (t : Task) : Nat := wordField t.td 1 0 5

/-- PRIO of a descriptor. -/
def Task.prio (t : Task) : Nat := wordField t.td 1 8 6

/-- TENANT of a descriptor. -/
def Task.tenant (t : Task) : Nat := wordField t.td 1 16 4

/-- PRIV of a descriptor. -/
def Task.privileged (t : Task) : Bool := wordField t.td 1 23 1 = 1

/-- BUDGET of a descriptor, in ns. -/
def Task.fullBudget (t : Task) : Nat := wordField t.td 1 32 32 * 1000

/-! ### Islands -/

/-- The operating points of R259 in MHz. -/
def opMhz (p : Nat) : Nat := [300, 350, 400, 450, 500, 550, 600, 650, 700, 760, 820].getD p 820

/-- The ratio of a point: 0 L, 1 M, 2 H (R259). -/
def opRatio (p : Nat) : Nat := if p < 4 then 0 else if p < 8 then 1 else 2

/-- The island of a core. -/
def State.island (s : State) (core : Nat) : Island := Tab.get Island.reset s.pw.islands (core / 4)

/-- Change an island. -/
def State.updIsland (s : State) (i : Nat) (f : Island → Island) : State :=
  { s with pw := { s.pw with islands := Tab.upd Island.reset s.pw.islands i f } }

/-- The frequency at which the island's clocks run now; 0 while they are held (R260, R273). -/
def Island.mhz (i : Island) : Nat :=
  if i.held ∨ i.stop115 then 0
  else
    let f := match i.change with
      | some (p, _) => Nat.min (opMhz i.point) (opMhz p)
      | none => opMhz i.point
    if i.half then f / 2 else f

/-- The reading that the thermal actions use (R270, R272). -/
def Island.reading (i : Island) : Int :=
  if i.therm.getLsbD 31 then ((i.therm.setWidth 16 : BitVec 16)).toInt else i.sensor.toInt

/-- The core's clocks run and the core is not frozen (R260, R273, R288). -/
def State.clocked (s : State) (core : Nat) : Bool :=
  decide ((s.island core).mhz ≠ 0) && decide (Tab.get 0 s.pw.freeze core = 0)

/-! ### Waits -/

/-- Two waits of one word at the same stage. -/
def WaitKind.same : WaitKind → WaitKind → Bool
  | .plain, .plain | .gbar, .gbar | .grpend, .grpend | .quota, .quota => true
  | .sem .., .sem .. | .rdv .., .rdv .. | .push .., .push .. | .pwr .., .pwr .. => true
  | .submit .., .submit .. | .spin _, .spin _ | .waita .., .waita .. | .atom .., .atom .. | .future .., .future .. | .remote .., .remote .. => true
  | _, _ => false

/-- Note that the sequencer waits; a wait of the same stage keeps its start and its arrival number. -/
def Seq.await (q : Seq) (k : WaitKind) (now ord : Nat) : Seq :=
  match q.wait with
  | some w => if w.kind.same k then { q with wait := some { w with kind := k } }
              else { q with wait := some { kind := k, since := now, ord := ord } }
  | none => { q with wait := some { kind := k, since := now, ord := ord } }

/-! ### Faults -/

/-- The note of a fault of a sequencer at its own word. -/
def Trap.note (t : Trap) (kind : Nat) (waddr : BitVec 32) (time : Nat) : FaultNote :=
  { code := t.code, kind := kind, deferred := false, cause := t.cause, waddr := waddr, addr := t.addr,
    opc := 0, detail := t.detail, oagent := t.oagent, ostamp := t.ostamp, agent := t.agent,
    stamp := t.stamp, time := time }

/-- TAKING A FAULT at a sequencer's word (R8, R83, R279 step 1): the word has no effect, the sequencer stops
with its pc at the word, and the fault is noted for the stop of the core-task. FAULT_STOP then parks the
gang and FAULT_RECORD_WRITE hands the record to the job's handler. -/
def State.raise (s : State) (a : Agent) (t : Trap) : State :=
  s.updCt a.slot a.rank (fun c =>
    let q := c.seq a.q
    { c.setSeq a.q { q with status := .faulted } with
      notes := c.notes ++ [t.note (seqNum a.q) q.pc s.dtime] })

/-- The record of a fault of an earlier word counts it as deferred: R281 does so for every fault that meets an access on
its way, and R174 and R179 name no fault of its translation as deferred (log 64). -/
def Code.defers : Code → Bool
  | .page | .perm | .pageRefused => false
  | _ => true

/-- A fault of a sequencer's earlier word at `waddr` (R281): the sequencer stops at its next word boundary. -/
def State.raiseLater (s : State) (a : Agent) (t : Trap) (waddr : BitVec 32) : State :=
  s.updCt a.slot a.rank (fun c =>
    let q := c.seq a.q
    { c.setSeq a.q { q with status := if q.status = .running then .faulted else q.status } with
      notes := c.notes ++ [{ t.note (seqNum a.q) waddr s.dtime with deferred := t.code.defers }] })

/-- A deferred fault of the C-sequencer. -/
def State.raiseDeferred (s : State) (slot rank : Nat) (t : Trap) (waddr : BitVec 32) : State :=
  s.raiseLater { slot := slot, rank := rank, q := .c } t waddr

/-- A fault that goes to the C-sequencer of a core-task from elsewhere, with the word that pushed the command or
that waits (R115, R116, R284, R342). -/
def State.raiseAtC (s : State) (slot rank : Nat) (t : Trap) (waddr : BitVec 32) : State :=
  s.updCt slot rank (fun c =>
    { c.setSeq .c { c.seqC with status := if c.seqC.status = .running then .faulted else c.seqC.status } with
      notes := c.notes ++ [t.note 0 waddr s.dtime] })

/-- A fault of the matrix engine (kind 4) or the copy engine (kind 5) at a command (R151). -/
def State.raiseEngine (s : State) (slot rank kind : Nat) (t : Trap) (waddr : BitVec 32) (opc : BitVec 9)
    (detail : BitVec 48) : State :=
  s.updCt slot rank (fun c =>
    let c := { c with notes := c.notes ++ [{ t.note kind waddr s.dtime with opc := opc, detail := detail }] }
    if kind = 4 then { c with mxStopped := true } else { c with cpStopped := true })

/-! ### Tags (R88 to R91) -/

/-- The bytes of a tile register. -/
def tileBase (t : Nat) : Nat := t * 8192

/-- The tile register is empty or has pending engine reads (R92). -/
def CoreTask.tileBusy (c : CoreTask) (t : Nat) : Bool :=
  Tab.get false c.empty t || decide (Tab.get 0 c.pend t ≠ 0)

/-- Write a result block into a tile register from its first byte. -/
def CoreTask.writeTile (c : CoreTask) (t : Nat) (bytes : List Byte) : CoreTask :=
  { c with tiles := splice 0 c.tiles (tileBase t) bytes }

/-- Whether a landed tag may be committed now (R93); a result above 8 KiB fills a pair. -/
def CoreTask.canCommit (c : CoreTask) (r : TagRec) : Bool :=
  r.landed && (match r.dest, r.res with
    | .tile t, .tile b => !c.tileBusy t.val && (decide (b.bytes.length ≤ 8192) || !c.tileBusy (t.val + 1))
    | _, _ => true)

/-- Commit a landed result into its destination and free the tag (R89). -/
def CoreTask.commit (c : CoreTask) (q : SeqId) (t : Nat) (r : TagRec) : CoreTask :=
  let c1 := c.updSeq q (fun sq => { sq with tags := Tab.del t sq.tags })
  match r.dest, r.res with
  | .g d, .value v => c1.updSeq q (fun sq => sq.wr d v)
  | .tile d, .tile b => c1.writeTile d.val b.bytes
  | _, _ => c1

/-- Commit tag `t` if it is busy; false when it cannot be committed yet. -/
def CoreTask.settle (c : CoreTask) (q : SeqId) (t : Nat) : CoreTask × Bool :=
  match find (c.seq q).tags t with
  | none => (c, true)
  | some r => if c.canCommit r then (c.commit q t r, true) else (c, false)

/-- Commit every tag of a list. -/
def CoreTask.settleAll (c : CoreTask) (q : SeqId) : List Nat → CoreTask × Bool
  | [] => (c, true)
  | t :: ts =>
    let (c1, ok1) := c.settle q t
    let (c2, ok2) := c1.settleAll q ts
    (c2, ok1 && ok2)

/-- The tags that CONS names (R90). -/
def consTags (k : BitVec 8) : List Nat := (List.range 8).filter (fun t => k.getLsbD t)

/-- The busy tags of a sequencer whose destination is `d`. -/
def CoreTask.tagsOf (c : CoreTask) (q : SeqId) (d : TagDest) : List Nat :=
  (List.range 8).filter (fun t => match find (c.seq q).tags t with
    | some r => decide (r.dest = d)
    | none => false)

/-- The result of every tag in the list can be committed. -/
def CoreTask.landedAll (c : CoreTask) (q : SeqId) (ts : List Nat) : Bool :=
  ts.all (fun t => match find (c.seq q).tags t with
    | none => true
    | some r => c.canCommit r)

/-! ### Issuing a word -/

/-- What a word names that the shared checks use: who may run it (R101), whether its fields are legal for the sequencer
that runs it (R83 step 4), CONS, ALLOC, its destination, and whether it reads its destination (R329, R347). -/
structure WordUse where
  perm : List SeqId
  legal : Bool := true
  cons : BitVec 8
  alloc : Option Tag := none
  dst : Option TagDest := none
  readsDst : Bool := false

/-- What a word's body answers: it completes, perhaps with a register write; it sets pc itself; it waits; it
faults. -/
inductive Res (σ : Type) where
  | done (s : σ) (wr : Option (GReg × Word))
  | jump (s : σ)
  | wait (s : σ) (k : WaitKind)
  | trap (t : Trap)

/-- The answer of `enter`: the word does not run, or its body runs on this core-task. -/
inductive Entry where
  | stop (s : State)
  | go (c : CoreTask)

/-- The C-sequencer stands at a word boundary until a piece of it is accepted (R213, R217). -/
def CoreTask.cStalled (c : CoreTask) : Bool :=
  c.sends.any (fun x => x.stall && decide (x.unaccepted ≠ 0)) || c.flight.any (fun p => p.lane && p.rt.isNone)

/-- The gang has a fault that its stop has not yet taken (R279). -/
def Task.faulted (t : Task) : Bool := t.cts.any (fun e => !e.2.notes.isEmpty)

/-- A fault of an earlier cycle stops the gang's engines at the progress point at which they stand (R279 step 3). -/
def Task.overdue (t : Task) (now : Nat) : Bool := t.cts.any (fun e => e.2.notes.any (fun n => decide (n.time < now)))

/-- The key of a sequencer among those of its gang. -/
def seqKey (rank : Nat) (q : SeqId) : Nat := rank * 4 + seqNum q

/-- The key of the matrix engine (unit 4) or of the copy in progress register r (unit 5 + r) among those of its gang. -/
def engineKey (rank unit : Nat) : Nat := 64 + rank * 16 + unit

/-- A fault of the gang has stopped an engine: it goes on to its next progress point, in the fault's own cycle at the
latest, and no further (R279 step 3). -/
def Task.engineStops (t : Task) (now rank unit : Nat) : Bool :=
  t.overdue now || (t.faulted && t.finished.contains (engineKey rank unit))

/-- After a step of an engine whose gang had faulted already: it stands at its progress point (R279 step 3). -/
def State.engineRan (before : State) (slot rank unit : Nat) (s : State) : State :=
  if (before.task? slot).any Task.faulted then
    s.updTask slot (fun t => { t with finished := engineKey rank unit :: t.finished })
  else s

/-- The gang of the agent that issues has faulted. -/
def State.gangFaulted (s : State) : Bool := (s.task? s.cur.slot).any Task.faulted

/-- A sequencer of a gang that has faulted completes the word that it has issued, and no other; a word that waits is
left unexecuted (R279 step 2). -/
def Task.mayTake (t : Task) (rank : Nat) (q : SeqId) (c : CoreTask) : Bool :=
  !t.faulted || (!t.finished.contains (seqKey rank q) && (c.seq q).wait.isNone)

/-- The agent's task runs and its sequencer may issue: it runs, no acquiring atomic is in flight, the core's clocks run,
and no fault of the gang has stopped it (R207, R260, R279). -/
def State.canIssue (s : State) (a : Agent) : Option (Task × CoreTask) :=
  match s.task? a.slot with
  | some t =>
    match t.ct? a.rank with
    | some c =>
      if t.state = .running ∧ (c.seq a.q).status = .running ∧ (c.seq a.q).acqBusy = false ∧ s.clocked c.core ∧
          ¬(a.q = .c ∧ c.cStalled) ∧ t.mayTake a.rank a.q c
      then some (t, c) else none
    | none => none
  | none => none

/-- After a word of an agent whose gang had faulted already: it was the agent's last (R279 step 2). -/
def State.lastWord (before : State) (a : Agent) (s : State) : State :=
  match before.canIssue a with
  | some (t, _) => if t.faulted then s.updTask a.slot (fun t => { t with finished := seqKey a.rank a.q :: t.finished }) else s
  | none => s

/-- The agent waits with its tags committed so far. -/
def State.waitCt (s : State) (a : Agent) (c : CoreTask) (k : WaitKind) : State :=
  { s.putCt a.slot a.rank (c.updSeq a.q (fun q => q.await k s.dtime s.fresh)) with fresh := s.fresh + 1 }

/-- The shared first half of a word (R83 steps 3 to 5, R89, R90): the sequencer's class, the fields that depend on the
sequencer, the tags of CONS, the word's own tag, the landing of the destination's tag. -/
def enter (u : WordUse) (s : State) : Entry :=
  match s.canIssue s.cur with
  | none => .stop s
  | some (_, c) =>
    if !u.perm.contains s.cur.q then .stop (s.raise s.cur (trapOf .seqClass))
    else if !u.legal then .stop (s.raise s.cur (trapOf .illegalField))
    else
      let own := match u.alloc with
        | some t => [t.val]
        | none => []
      let (c1, ok) := c.settleAll s.cur.q (consTags u.cons ++ own)
      let late := match u.dst with
        | some d => c1.tagsOf s.cur.q d
        | none => []
      if ok && c1.landedAll s.cur.q late then .go (if u.readsDst then (c1.settleAll s.cur.q late).1 else c1)
      else .stop (s.waitCt s.cur c1 .plain)

/-- Commit the destination's tags, then write the result (R89). -/
def CoreTask.finish (c : CoreTask) (q : SeqId) (dst : Option TagDest) (wr : Option (GReg × Word)) : CoreTask :=
  let c1 := match dst with
    | some d => (c.settleAll q (c.tagsOf q d)).1
    | none => c
  match wr with
  | some (r, v) => c1.updSeq q (fun sq => sq.wr r v)
  | none => c1

/-- A word that changes its own core-task alone. -/
def runLocal (u : WordUse) (body : State → CoreTask → Res CoreTask) (s : State) :
    Host.Outcome State Fault Refusal :=
  match enter u s with
  | .stop s' => .next s'
  | .go c =>
    match body s c with
    | .done c' wr =>
      .next (s.putCt s.cur.slot s.cur.rank ((c'.finish s.cur.q u.dst wr).updSeq s.cur.q Seq.advance))
    | .jump c' => .next (s.putCt s.cur.slot s.cur.rank (c'.updSeq s.cur.q (fun q => { q with wait := none })))
    | .wait c' k => .next (s.waitCt s.cur c' k)
    | .trap t => .next ((s.putCt s.cur.slot s.cur.rank c).raise s.cur t)

/-- A word that changes the device: its body runs on the state with the tags of `enter` committed. -/
def runGlobal (u : WordUse) (body : State → CoreTask → Res State) (s : State) :
    Host.Outcome State Fault Refusal :=
  match enter u s with
  | .stop s' => .next s'
  | .go c =>
    let s1 := s.putCt s.cur.slot s.cur.rank c
    match body s1 c with
    | .done s' wr =>
      .next (s'.updCt s.cur.slot s.cur.rank (fun c' =>
        (c'.finish s.cur.q u.dst wr).updSeq s.cur.q Seq.advance))
    | .jump s' => .next s'
    | .wait s' k =>
      .next { s'.updCt s.cur.slot s.cur.rank (fun c' =>
        c'.updSeq s.cur.q (fun q => q.await k s.dtime s.fresh)) with fresh := s'.fresh + 1 }
    | .trap t => .next (s1.raise s.cur t)

/-- The wait that the issuing sequencer is in. -/
def CoreTask.waitOf (c : CoreTask) (q : SeqId) : Option WaitKind := (c.seq q).wait.map (·.kind)

/-- Allocate the word's tag to a pending result (R89). -/
def CoreTask.allocTag (c : CoreTask) (q : SeqId) (t : Tag) (r : TagRec) : CoreTask :=
  c.updSeq q (fun sq => { sq with tags := Tab.put t.val r sq.tags })

/-- Register the word may write: none for g0 does not differ, g0 discards (R79). -/
def gDst (d : GReg) : Option TagDest := some (.g d)

/-! ### Semaphores, tokens, barriers -/

/-- Semaphore `n`. -/
def CoreTask.sem (c : CoreTask) (n : Nat) : Obj := (find c.sems n).getD { n := 0, st := c.floor }

/-- Change semaphore `n`. -/
def CoreTask.setSem (c : CoreTask) (n : Nat) (o : Obj) : CoreTask := { c with sems := Tab.put n o c.sems }

/-- The token queue of a key. -/
def CoreTask.token (c : CoreTask) (k : Nat) : Obj := (find c.tokens k).getD { n := 0, st := c.floor }

/-- Change a token queue. -/
def CoreTask.setToken (c : CoreTask) (k : Nat) (o : Obj) : CoreTask := { c with tokens := Tab.put k o c.tokens }

/-- The token queue from `p` to `q` (R114). -/
def tokenKey (p q : SeqId) : Nat := seqNum p * 4 + seqNum q

/-- The waiters of semaphore `n` in order of arrival, with their amounts: sequencers 0 to 3, the matrix
queue 4, the copy queue 5 (R115). -/
def CoreTask.semWaiters (c : CoreTask) (n : Nat) (wsem : MxCmd → Nat) (cwsem : CopyCmd → Nat) :
    List (Nat × Nat × Nat) :=
  let seqs := allSeqs.filterMap (fun q =>
    match (c.seq q).wait with
    | some { kind := .sem m amt false, ord := o, .. } => if m = n then some (o, seqNum q, amt) else none
    | _ => none)
  let mx := match c.mxHead, c.mxq with
    | .waiting o, cmd :: _ => if wsem cmd = n then [(o, 4, 1)] else []
    | _, _ => []
  let cp := match c.cpHead, c.cpq with
    | .waiting o, cmd :: _ => if cwsem cmd = n then [(o, 5, 1)] else []
    | _, _ => []
  sortBy (fun a b => decide (a.1 ≤ b.1)) (seqs ++ mx ++ cp)

/-- WSEM and SSEM of an engine command (R95). -/
def engineSems : Instr → Nat × Nat
  | .mxmul p | .mxmuls p => (p.wsem.toNat, p.ssem.toNat)
  | .mxzero w s _ _ | .mxwr w s _ _ => (w.toNat, s.toNat)
  | .mxrd p _ _ _ | .mxepi p _ => (p.wsem.toNat, p.ssem.toNat)
  | .cpg2l p _ | .cpl2g p _ | .cpl2l p _ _ | .cpbc p _ | .cpfillL p | .cpfillG p | .cpmeta p _ _ =>
    (p.wsem.toNat, p.ssem.toNat)
  | _ => (0, 0)

/-- Serve waiter `who` of a semaphore at stamp `st` (R365, R95). -/
def CoreTask.serve (c : CoreTask) (who : Nat) (st : Stamp) : CoreTask :=
  if who = 4 then { c with mxHead := .served, mxStamp := acqStamp c.mxStamp st }
  else if who = 5 then { c with cpHead := .served, cpStamp := acqStamp c.cpStamp st }
  else
    match allSeqs[who]? with
    | some q => c.updSeq q (fun sq => match sq.wait with
        | some { kind := .sem m amt _, since := a, ord := o } =>
          { sq.acquire st with wait := some { kind := .sem m amt true, since := a, ord := o } }
        | _ => sq)
    | none => c

/-- Test the waiters of semaphore `n` in order and serve each whose amount is covered (R115). -/
def CoreTask.serveList (c : CoreTask) (n : Nat) : List (Nat × Nat × Nat) → CoreTask
  | [] => c
  | (_, who, amt) :: ws =>
    let o := c.sem n
    if amt ≤ o.n then (CoreTask.serve (c.setSem n { o with n := o.n - amt }) who o.st).serveList n ws
    else c.serveList n ws

/-- Test the waiters of semaphore `n`. -/
def CoreTask.serveSem (c : CoreTask) (n : Nat) : CoreTask :=
  { c.serveList n (c.semWaiters n (fun m => (engineSems m.i).1) (fun m => (engineSems m.i).1)) with
    due := c.due.filter (· ≠ n) }

/-- Test the waiters of every semaphore that was signalled in this cycle (R365). -/
def CoreTask.serveDue (c : CoreTask) : CoreTask := c.due.foldl CoreTask.serveSem c

/-- A signal of `amt` by an agent whose release stamp is `st`; none for SEM-OVERFLOW (R115). With `shared` a further signal
comes in the same cycle, and the waiters are tested after it (R365). -/
def CoreTask.signal (c : CoreTask) (n amt : Nat) (st : Stamp) (shared : Bool) : Option CoreTask :=
  let o := c.sem n
  if 65535 < o.n + amt then none
  else
    let c1 := c.setSem n { n := o.n + amt, st := stMax o.st st }
    some (if shared then { c1 with due := n :: c1.due.filter (· ≠ n) } else c1.serveSem n)

/-- The limit of a barrier's count (R116). -/
def barLimit : Int := 2 ^ 48 - 1

/-- Change the count of a barrier; none for BAR-OVERFLOW. A change from non-zero to 0 flips the phase, and
the stamps of the deliveries of the open phase become those of the closed one (R116, R202). -/
def Bar.change (b : Bar) (d : Int) (st : Option Stamp) : Option Bar :=
  let n := b.count + d
  if n < -barLimit ∨ barLimit < n then none
  else
    let o := match b.openSt, st with
      | some x, some y => some (stMax x y)
      | none, y => y
      | x, none => x
    if b.count ≠ 0 ∧ n = 0 then some { count := n, phase := !b.phase, openSt := none, closedSt := o }
    else some { b with count := n, openSt := o }

/-- Change barrier `n` of a core-task. -/
def CoreTask.changeBar (c : CoreTask) (n : Nat) (d : Int) (st : Option Stamp) : Option CoreTask :=
  ((Tab.get Bar.zero c.bars n).change d st).map (fun b => { c with bars := Tab.set Bar.zero c.bars n b })

/-! ### Scratchpad (R105) -/

/-- One past the last populated scratchpad address. -/
def scratchTop : Nat := 0x180000

/-- The banks that `n` bytes from `a` touch, as a mask (R105). -/
def banksOf (a n : Nat) : BitVec 32 :=
  if n = 0 then 0
  else (List.range ((a + n - 1) / 0xC000 - a / 0xC000 + 1)).foldl
    (fun m i => m ||| BitVec.ofNat 32 (2 ^ (a / 0xC000 + i))) 0

/-- Bytes of the scratchpad. -/
def CoreTask.readLocal (c : CoreTask) (a n : Nat) : List Byte := sliceN 0 c.scratch a n

/-- Write bytes of the scratchpad; the banks count as used (R283). -/
def CoreTask.writeLocal (c : CoreTask) (a : Nat) (bs : List Byte) : CoreTask :=
  { c with scratch := splice 0 c.scratch a bs, bankMask := c.bankMask ||| banksOf a bs.length,
           torn := c.torn.filter (fun e => decide (64 * e.1 + 64 ≤ a) || decide (a + bs.length ≤ 64 * e.1)) }

/-- A block write by an agent of `core` at stamp `st` has changed granules from what they were in `old` (R201). The
scratchpad's own core sees its own writes whole, and so nothing older; `going` says that a release of the agent is to
follow the write. -/
def CoreTask.tear (c old : CoreTask) (core : Nat) (st : Stamp) (going : Bool) (gs : List Nat) : CoreTask :=
  { c with torn := gs.foldl (fun t g =>
      let x : Torn := { old := old.readLocal (g * 64) 64, core := core, stamp := st, going := going }
      Tab.put g (x :: (if core = c.core then [] else Tab.get [] old.torn g)) t) c.torn }

/-- An agent of `core` makes a release at stamp `st`: its block writes are complete (R201, R202). -/
def CoreTask.untear (c : CoreTask) (core : Nat) (st : Stamp) : CoreTask :=
  { c with torn := c.torn.map (fun e => (e.1, e.2.map (fun t =>
      if t.core = core ∧ t.going then { t with going := false, stamp := st } else t))) }

/-- An agent of `core` at stamp `st` may see what a block write has replaced: the write is another core's, and it goes on
or is not ordered before the read (R199, R201). -/
def Torn.shows (t : Torn) (core : Nat) (st : Stamp) : Bool := decide (t.core ≠ core) && (t.going || !exceeds st t.stamp)

/-- What an agent of `core` at stamp `st` sees of the scratchpad in a block read: granule by granule the present contents,
or some of those that other cores' block writes have replaced (R199, R201). -/
def CoreTask.seen (c : CoreTask) (tick core : Nat) (st : Stamp) (a n : Nat) : List Byte :=
  let bs := c.readLocal a n
  if c.torn.isEmpty then bs
  else (List.range n).map (fun i =>
    let g := (a + i) / 64
    match Config.tornGranule tick g with
    | 0 => bs.getD i 0
    | k + 1 => (match ((Tab.get [] c.torn g).takeWhile (·.shows core st))[k]? with
      | some t => t.old.getD ((a + i) % 64) 0
      | none => bs.getD i 0))

/-- A plain read by an agent passes the race check, or the trap; then the records note it (R196, R197). -/
def CoreTask.localRead (c : CoreTask) (on : Bool) (a : AgentId) (st : Stamp)
    (gs : List (Nat × BitVec 64)) : Trap ⊕ CoreTask :=
  match raceTrap on (Tab.get RaceRec.clear c.scratchRaces) gs a st false false with
  | some t => .inl t
  | none => .inr { c with scratchRaces := updRecs gs (fun r b => r.afterRead b a st) c.scratchRaces }

/-- A write by an agent passes the race check, or the trap; then the records note it (R196, R197). -/
def CoreTask.localWrite (c : CoreTask) (on : Bool) (a : AgentId) (st : Stamp) (atomic : Bool) (gs : List (Nat × BitVec 64)) :
    Trap ⊕ CoreTask :=
  match raceTrap on (Tab.get RaceRec.clear c.scratchRaces) gs a st true atomic with
  | some t => .inl t
  | none => .inr { c with scratchRaces := updRecs gs (fun r b => r.afterWrite b a st atomic) c.scratchRaces }

/-! ### Feature bits (R319) -/

/-- FEATW0.RACE: accesses are checked under R197. -/
def State.raceOn (s : State) : Bool := s.r.featw0.getLsbD 2

/-- FEATW0.REFUSE: ACCT may be refused. -/
def State.refuseOn (s : State) : Bool := s.r.featw0.getLsbD 1

/-- FEATW0.SPARSE. -/
def State.sparseOn (s : State) : Bool := s.r.featw0.getLsbD 0

/-! ### Named events -/

/-- An event whose condition is not met leaves the device as it is (log 4). -/
def idle (s : State) : Host.Outcome State Fault Refusal := .next s

/-- An event that applies. -/
def ok (s : State) : Host.Outcome State Fault Refusal := .next s

end Sys2Proof.Machine
end

