-- ==== Sys2Proof/Machine/Flags.lean ====
section
/-! DEFINITION. Number formats, exact values, one rounding, comparisons (R120 to R138, R157). -/

namespace Sys2Proof

/-! ### Formats -/

/-- Exponent and mantissa bits of a float format (R120). -/
def Fmt.float : Fmt → Option (Nat × Nat)
  | .f32 => some (8, 23)
  | .bf16 => some (8, 7)
  | .f16 => some (5, 10)
  | .e4m3 => some (4, 3)
  | .e5m2 => some (5, 2)
  | _ => none

/-- Bits of an element. -/
def Fmt.bits (f : Fmt) : Nat := 4 * f.nibbles

/-- The canonical NaN (R121). -/
def Fmt.qnan : Fmt → Nat
  | .f32 => 0x7FC00000
  | .bf16 => 0x7FC0
  | .f16 => 0x7E00
  | .e4m3 => 0x7F
  | .e5m2 => 0x7E
  | _ => 0

/-- The pattern of the largest finite value, without sign (R121). -/
def Fmt.largest : Fmt → Nat
  | .f32 => 0x7F7FFFFF
  | .bf16 => 0x7F7F
  | .f16 => 0x7BFF
  | .e4m3 => 0x7E
  | .e5m2 => 0x7B
  | _ => 0

/-- The pattern of infinity, without sign. -/
def Fmt.infinity : Fmt → Nat
  | .f32 => 0x7F800000
  | .bf16 => 0x7F80
  | .f16 => 0x7C00
  | .e5m2 => 0x7C
  | _ => 0

end Sys2Proof

namespace Sys2Proof.Machine

/-! ### Comparisons of scalars (R97, R220) -/

/-- The condition holds between two words. -/
def condHolds (cc : Cond) (a b : Word) : Bool :=
  match cc with
  | .eq => a == b
  | .ne => a != b
  | .lt => a.slt b
  | .ge => !a.slt b
  | .ltu => a.ult b
  | .geu => !a.ult b

/-! ### Exact values -/

/-- An exact value: NaN, an infinity, or (−1)^neg × m × 2^e; zeros keep their sign. -/
inductive FVal where
  | nan
  | inf (neg : Bool)
  | fin (neg : Bool) (m : Nat) (e : Int)
  deriving DecidableEq, Repr

/-- Bias of an exponent of `eb` bits (R121). -/
def biasOf (eb : Nat) : Int := 2 ^ (eb - 1) - 1

/-- The value of a float pattern (R121). -/
def decodeFloat (f : Fmt) (eb mb x : Nat) : FVal :=
  let m := x % 2 ^ mb
  let e := x / 2 ^ mb % 2 ^ eb
  let s := decide (x / 2 ^ (mb + eb) % 2 = 1)
  if f = .e4m3 ∧ e = 15 ∧ m = 7 then .nan
  else if f ≠ .e4m3 ∧ e = 2 ^ eb - 1 then (if m = 0 then .inf s else .nan)
  else if e = 0 then .fin s m (1 - biasOf eb - mb)
  else .fin s (2 ^ mb + m) ((e : Int) - biasOf eb - mb)

/-- The integer of a two's complement pattern of `n` bits. -/
def signedOf (n x : Nat) : Int := (BitVec.ofNat n x).toInt

/-- The value of an element pattern: floats under R121, integers exactly. -/
def valOf (f : Fmt) (x : Nat) : FVal :=
  match f.float with
  | some (eb, mb) => decodeFloat f eb mb x
  | none =>
    let v := signedOf f.bits x
    .fin (decide (v < 0)) v.natAbs 0

/-- Round up in magnitude, for a magnitude `q + r` with `r` between 0 and 1 that is not 0; `half` orders `r` and 1/2. -/
def roundsUp (rm : Rnd) (neg : Bool) (q : Nat) (half : Ordering) : Bool :=
  match rm with
  | .rne => half == .gt || (half == .eq && q % 2 == 1)
  | .rtz => false
  | .rdn => neg
  | .rup => !neg

/-- Round `m × 2^(−d)` to an integer (R125). A magnitude far below 1/2 is not shifted bit by bit. -/
def roundShift (rm : Rnd) (neg : Bool) (m d : Nat) : Nat :=
  if Nat.log2 m + 1 < d then (if m ≠ 0 ∧ roundsUp rm neg 0 .lt then 1 else 0)
  else
    let q := m >>> d
    let r := m % 2 ^ d
    if r ≠ 0 ∧ roundsUp rm neg q (compare (2 * r) (2 ^ d)) then q + 1 else q

/-- The exponent of the last place of a magnitude in a format of `mb` mantissa bits (R125). -/
def lastPlace (eb mb m : Nat) (e : Int) : Int :=
  Max.max ((Nat.log2 m : Int) + e - mb) (1 - biasOf eb - mb)

/-- Round a magnitude: the significand and the exponent of its last place. -/
def roundMag (rm : Rnd) (neg : Bool) (eb mb m : Nat) (e : Int) : Nat × Int :=
  let q := lastPlace eb mb m e
  if q ≤ e then (m * 2 ^ (e - q).toNat, q) else (roundShift rm neg m (q - e).toNat, q)

/-- The pattern of a rounded magnitude without its sign, as if the exponent range were unbounded. -/
def magPattern (eb mb : Nat) (p : Nat × Int) : Nat :=
  if p.1 < 2 ^ mb then p.1
  else if p.1 < 2 ^ (mb + 1) then (p.2 + mb + biasOf eb).toNat * 2 ^ mb + (p.1 - 2 ^ mb)
  else (p.2 + 1 + mb + biasOf eb).toNat * 2 ^ mb

/-- A sign in front of a pattern. -/
def withSign (f : Fmt) (neg : Bool) (x : Nat) : Nat := if neg then 2 ^ (f.bits - 1) + x else x

/-- What an overflow gives (R126). -/
def overflowOf (f : Fmt) (rm : Rnd) (sat neg : Bool) : Nat :=
  if sat then withSign f neg f.largest
  else if f = .e4m3 ∨ f = .e5m2 then f.qnan
  else match rm with
    | .rne => withSign f neg f.infinity
    | .rtz => withSign f neg f.largest
    | .rdn => if neg then withSign f neg f.infinity else f.largest
    | .rup => if neg then withSign f neg f.largest else f.infinity

/-- What an infinite source gives in a float format (R126). -/
def infinityOf (f : Fmt) (sat neg : Bool) : Nat :=
  if f = .e4m3 then (if sat then withSign f neg f.largest else f.qnan)
  else if f = .e5m2 ∧ sat then withSign f neg f.largest
  else withSign f neg f.infinity

/-- A finite value rounded to an integer. -/
def roundInt (rm : Rnd) (neg : Bool) (m : Nat) (e : Int) : Int :=
  let a : Nat := if 0 ≤ e then m * 2 ^ e.toNat else roundShift rm neg m (-e).toNat
  if neg then -(a : Int) else a

/-- An integer as an `n`-bit pattern: wrapped, or clamped (R124, R126). -/
def intPattern (n : Nat) (sat : Bool) (v : Int) : Nat :=
  let lo : Int := -(2 ^ (n - 1))
  let hi : Int := 2 ^ (n - 1) - 1
  let v' := if sat then (if v < lo then lo else if hi < v then hi else v) else v
  (v' % (2 ^ n)).toNat

/-- One rounding of an exact value to a format (R125, R126). -/
def roundTo (f : Fmt) (rm : Rnd) (sat : Bool) (v : FVal) : Nat :=
  match f.float with
  | some (eb, mb) =>
    (match v with
      | .nan => f.qnan
      | .inf neg => infinityOf f sat neg
      | .fin neg m e =>
        if m = 0 then withSign f neg 0
        else
          let x := magPattern eb mb (roundMag rm neg eb mb m e)
          if f.largest < x then overflowOf f rm sat neg else withSign f neg x)
  | none =>
    (match v with
      | .nan => 0
      | .inf neg =>
        if sat then intPattern f.bits true (if neg then -(2 ^ f.bits) else 2 ^ f.bits) else 0
      | .fin neg m e => intPattern f.bits sat (roundInt rm neg m e))

/-- The F32 pattern of a value, rounded to nearest even. -/
def toF32 (v : FVal) : Nat := roundTo .f32 .rne false v

/-! ### Exact operations -/

/-- Negation. -/
def FVal.neg : FVal → FVal
  | .nan => .nan
  | .inf s => .inf !s
  | .fin s m e => .fin (!s) m e

/-- Absolute value. -/
def FVal.abs : FVal → FVal
  | .nan => .nan
  | .inf _ => .inf false
  | .fin _ m e => .fin false m e

/-- A finite value as an integer multiple of 2^e, for an `e` not above its own. -/
def scaledInt (neg : Bool) (m : Nat) (e0 e : Int) : Int :=
  let a : Int := (m * 2 ^ (e0 - e).toNat : Nat)
  if neg then -a else a

/-- Exact sum; a zero sum of opposite signs is +0, or −0 under RDN (R122, R125). -/
def FVal.add (rm : Rnd) : FVal → FVal → FVal
  | .nan, _ => .nan
  | _, .nan => .nan
  | .inf s, .inf t => if s = t then .inf s else .nan
  | .inf s, .fin .. => .inf s
  | .fin .., .inf t => .inf t
  | .fin s m e, .fin t n f =>
    let g := Min.min e f
    let v := scaledInt s m e g + scaledInt t n f g
    if v = 0 then .fin (if s = t then s else decide (rm = .rdn)) 0 0
    else .fin (decide (v < 0)) v.natAbs g

/-- Exact product (R123). -/
def FVal.mul : FVal → FVal → FVal
  | .nan, _ => .nan
  | _, .nan => .nan
  | .inf s, .inf t => .inf (s ^^ t)
  | .inf s, .fin t n _ => if n = 0 then .nan else .inf (s ^^ t)
  | .fin s m _, .inf t => if m = 0 then .nan else .inf (s ^^ t)
  | .fin s m e, .fin t n f => .fin (s ^^ t) (m * n) (e + f)

/-- Multiply by 2^k, exactly. -/
def FVal.scale (k : Int) : FVal → FVal
  | .fin s m e => .fin s m (e + k)
  | v => v

/-- The signed order of two values; none when one is NaN. Zeros of both signs are equal. -/
def FVal.cmp : FVal → FVal → Option Ordering
  | .nan, _ => none
  | _, .nan => none
  | .inf s, .inf t => some (compare (decide (s = false)).toNat (decide (t = false)).toNat)
  | .inf s, .fin .. => some (if s then .lt else .gt)
  | .fin .., .inf t => some (if t then .gt else .lt)
  | .fin s m e, .fin t n f =>
    let g := Min.min e f
    some (compare (scaledInt s m e g) (scaledInt t n f g))

/-- The sign of a value; NaN counts as positive. -/
def FVal.isNeg : FVal → Bool
  | .nan => false
  | .inf s => s
  | .fin s _ _ => s

/-- A zero of either sign. -/
def FVal.isZero : FVal → Bool
  | .fin _ 0 _ => true
  | _ => false

/-- The larger value; a NaN operand gives NaN, and +0 counts as greater than −0 (R137, R383). -/
def FVal.max (a b : FVal) : FVal :=
  match a.cmp b with
  | none => .nan
  | some .lt => b
  | some .gt => a
  | some .eq => if a.isNeg then b else a

/-- The smaller value; a NaN operand gives NaN. -/
def FVal.min (a b : FVal) : FVal :=
  match a.cmp b with
  | none => .nan
  | some .lt => a
  | some .gt => b
  | some .eq => if a.isNeg then a else b

/-- The exact sum of the terms of a chunk (R133): +0 when it is an exact zero. -/
def sumTerms (ts : List FVal) : FVal :=
  if ts.contains .nan || (ts.contains (.inf true) && ts.contains (.inf false)) then .nan
  else if ts.contains (.inf false) then .inf false
  else if ts.contains (.inf true) then .inf true
  else
    let g := ts.foldl (fun a t => match t with
      | .fin _ m e => if m = 0 then a else Min.min a e
      | _ => a) 0
    let v := ts.foldl (fun (a : Int) t => match t with
      | .fin s m e => if m = 0 then a else a + scaledInt s m e g
      | _ => a) 0
    if v = 0 then .fin false 0 0 else .fin (decide (v < 0)) v.natAbs g

/-- Add a chunk's sum to an accumulator word (R133). -/
def addF32 (acc : Nat) (v : FVal) : Nat := toF32 ((valOf .f32 acc).add .rne v)

/-- The addend rule of R210: FP32 with one rounding, or I32 modulo 2^32. -/
def accAdd (f : AccFmt) (t a : BitVec 32) : BitVec 32 :=
  match f with
  | .i32 => t + a
  | _ => BitVec.ofNat 32 (addF32 t.toNat (valOf .f32 a.toNat))

/-- The E8M0 scale of a byte (R130): none is NaN. -/
def e8m0 (b : Nat) : Option Int := if b = 255 then none else some ((b : Int) - 127)

/-- A value under a block scale (R130, R131). -/
def FVal.scaled (v : FVal) (sc : Option Int) : FVal :=
  match sc with
  | none => .nan
  | some k => v.scale k

/-! ### Special functions (R157) -/

/-- The value is an integer n. -/
def FVal.integer? : FVal → Option Int
  | .fin s m e =>
    if 0 ≤ e then some (if s then -((m * 2 ^ e.toNat : Nat) : Int) else (m * 2 ^ e.toNat : Nat))
    else if m % 2 ^ (-e).toNat = 0 then
      some (if s then -((m / 2 ^ (-e).toNat : Nat) : Int) else (m / 2 ^ (-e).toNat : Nat))
    else none
  | _ => none

/-- The value is ±2^n. -/
def FVal.power? : FVal → Option (Bool × Int)
  | .fin s m e => if m ≠ 0 ∧ m = 2 ^ Nat.log2 m then some (s, (Nat.log2 m : Int) + e) else none
  | _ => none

/-- An integer as a value. -/
def FVal.ofInt (v : Int) : FVal := .fin (decide (v < 0)) v.natAbs 0

/-- A free result of a special function for an input. -/
def freeOf (f : BitVec 32 → BitVec 32) (v : FVal) : FVal := valOf .f32 (f (BitVec.ofNat 32 (toF32 v))).toNat

/-- Σ t^k / k!, of a number with 128 bits behind the point, less than 1. -/
def expFix (t : Nat) : Nat :=
  ((List.range 45).foldl (fun (p : Nat × Nat) k => (p.1 + p.2, p.2 * t / 2 ^ 128 / (k + 1))) (0, 2 ^ 128)).1

/-- Σ z^(2k+1) / (2k + 1), of a number with 128 bits behind the point, at most 1/3. -/
def atanhFix (z : Nat) : Nat :=
  ((List.range 45).foldl (fun (p : Nat × Nat) k => (p.1 + p.2 / (2 * k + 1), p.2 * (z * z) / 2 ^ 256)) (0, z)).1

/-- ln 2 = 2 artanh (1/3), with 128 bits behind the point. -/
def ln2Fix : Nat := 2 * atanhFix (2 ^ 128 / 3)

/-- A magnitude with 128 bits behind the point, towards zero. -/
def toFix (m : Nat) (e : Int) : Nat := if -128 ≤ e then m * 2 ^ (e + 128).toNat else m / 2 ^ (-128 - e).toNat

/-- 2^x to more than 100 bits. -/
def exp2Near (s : Bool) (m : Nat) (e : Int) : FVal :=
  let x : Int := if s then -(toFix m e : Int) else toFix m e
  .fin false (expFix ((x % 2 ^ 128).toNat * ln2Fix / 2 ^ 128)) (x / 2 ^ 128 - 128)

/-- log2 x of a positive x to more than 60 bits: the exponent, and 2 artanh ((u − 1) / (u + 1)) / ln 2 of u in 1 to 2. -/
def log2Near (m : Nat) (e : Int) : FVal :=
  let p := 2 ^ Nat.log2 m
  let l : Int := ((Nat.log2 m : Int) + e) * 2 ^ 128 + (2 * atanhFix ((m - p) * 2 ^ 128 / (m + p)) * 2 ^ 128 / ln2Fix : Nat)
  .fin (decide (l < 0)) l.natAbs (-128)

/-- tanh x to more than 60 bits: x − x³/3 below 2^−20, else (E − 1) / (E + 1) of E = exp 2|x|. -/
def tanhNear (s : Bool) (m : Nat) (e : Int) : FVal :=
  if (Nat.log2 m : Int) + e < -20 then
    .fin s (m * (3 * 2 ^ (-2 * e).toNat - m * m) * 2 ^ 64 / 3) (3 * e - 64)
  else
    let a := toFix m (e + 1)
    let x := expFix (a % ln2Fix) * 2 ^ (a / ln2Fix)
    .fin s ((x - 2 ^ 128) * 2 ^ 128 / (x + 2 ^ 128)) (-128)

/-- `r` lies within `k` units in the last place of F32 of a value known to more than 60 bits. -/
def nearUlp (k : Nat) (r a : FVal) : Bool :=
  match r, a with
  | .fin s m e, .fin s' m' e' =>
    let u := lastPlace 8 23 m' e'
    let g := Min.min (Min.min e e') (u - 60)
    decide ((scaledInt s m e g - scaledInt s' m' e' g).natAbs ≤ k * 2 ^ (u - g).toNat + 2 ^ (u - 60 - g).toNat)
  | _, _ => false

/-- A free result that obeys a bound of `k` units around a value, else the F32 number nearest to the value. -/
def boundedFree (k : Nat) (r a : FVal) : FVal := if nearUlp k r a then r else valOf .f32 (toF32 a)

/-- 2^x (R157): the free result when it obeys the bound, which below −126 is one unit of 2^−149. -/
def exp2Val (v : FVal) : FVal :=
  match v with
  | .nan => .nan
  | .inf s => if s then .fin false 0 0 else .inf false
  | .fin s m e =>
    if v.cmp (FVal.ofInt (-150)) = some .lt then .fin false 0 0
    else if v.cmp (FVal.ofInt 128) ≠ some .lt then .inf false
    else
      let k := if v.cmp (FVal.ofInt (-126)) = some .lt then 1 else 2
      let r := boundedFree k (freeOf Config.exp2 v) (exp2Near s m e)
      match v.integer? with
      | some n => if -149 ≤ n then .fin false 1 n else r
      | none => r

/-- log2 x (R157): the free result when it obeys the bound. -/
def log2Val (v : FVal) : FVal :=
  match v with
  | .nan => .nan
  | .inf s => if s then .nan else .inf false
  | .fin s m e =>
    if m = 0 then .inf true
    else if s then .nan
    else match v.power? with
      | some (_, n) => FVal.ofInt n
      | none => boundedFree 2 (freeOf Config.log2 v) (log2Near m e)

/-- `r` lies within one unit in the last place of `n / d × 2^k` in F32, for a positive quotient. -/
def withinUlp (r : FVal) (n d : Nat) (k : Int) : Bool :=
  match r with
  | .fin false m e =>
    -- |m 2^e − n/d 2^k| ≤ 2^u, cleared of the denominator and of negative exponents
    let u := lastPlace 8 23 (n * 2 ^ 64 / d) (k - 64)
    let g := Min.min (Min.min e k) u
    let x : Int := (m * 2 ^ (e - g).toNat * d : Nat)
    let y : Int := (n * 2 ^ (k - g).toNat : Nat)
    decide ((x - y).natAbs ≤ 2 ^ (u - g).toNat * d)
  | _ => false

/-- 1/x (R157): the free result when it obeys the bound, else the nearest value. -/
def rcpVal (v : FVal) : FVal :=
  match v with
  | .nan => .nan
  | .inf s => .fin s 0 0
  | .fin s m e =>
    if m = 0 then .inf s
    else match v.power? with
      | some (_, n) => .fin s 1 (-n)
      | none =>
        let r := (freeOf Config.rcp v).abs
        let nearest := valOf .f32 (toF32 (.fin false (2 ^ 80 / m) (-e - 80)))
        let p := if withinUlp r 1 m (-e) then r else nearest
        if s then p.neg else p

/-- `1/√x` lies within one unit of `r`, by their squares. R157 does not say at which value a unit in the last place is
measured: here it is that of `r`, the value returned, and in `withinUlp` and `nearUlp` that of the exact value, which is the
model's choice (log 7). -/
def rsqOk (r : FVal) (m : Nat) (e : Int) : Bool :=
  match r with
  | .fin false a b =>
    -- (r − u)² x ≤ 1 ≤ (r + u)² x
    let u := lastPlace 8 23 a b
    let g := Min.min b u
    let hi := a * 2 ^ (b - g).toNat + 2 ^ (u - g).toNat
    let lo := a * 2 ^ (b - g).toNat - 2 ^ (u - g).toNat
    let t := 2 * g + e
    if 0 ≤ t then decide (lo * lo * m * 2 ^ t.toNat ≤ 1) && decide (1 ≤ hi * hi * m * 2 ^ t.toNat)
    else decide (lo * lo * m ≤ 2 ^ (-t).toNat) && decide (2 ^ (-t).toNat ≤ hi * hi * m)
  | _ => false

/-- 1/√x (R157): the free result when it obeys the bound, else the nearest below. -/
def rsqVal (v : FVal) : FVal :=
  match v with
  | .nan => .nan
  | .inf s => if s then .nan else .fin false 0 0
  | .fin s m e =>
    if m = 0 then .inf s
    else if s then .nan
    else
      let odd := decide (e % 2 ≠ 0)
      let m' := if odd then 2 * m else m
      let e' := if odd then e - 1 else e
      match v.power? with
      | some (_, n) => if n % 2 = 0 then .fin false 1 (-(n / 2)) else
          let r := freeOf Config.rsq v
          if rsqOk r m e then r else valOf .f32 (toF32 (.fin false (Nat.sqrt (2 ^ 160 / m')) (-(e' / 2) - 80)))
      | none =>
        let r := freeOf Config.rsq v
        if rsqOk r m e then r else valOf .f32 (toF32 (.fin false (Nat.sqrt (2 ^ 160 / m')) (-(e' / 2) - 80)))

/-- tanh x (R157): the free result when it obeys the bound. -/
def tanhVal (v : FVal) : FVal :=
  match v with
  | .nan => .nan
  | .inf s => .fin s 1 0
  | .fin s m e =>
    if m = 0 then v
    else if v.abs.cmp (FVal.ofInt 10) ≠ some .lt then .fin s 1 0
    else boundedFree 3 (freeOf Config.tanh v) (tanhNear s m e)

/-! ### Reduction tree (R136) -/

/-- One level of the tree: neighbours are joined in pairs. -/
def pairUp {α : Type} (op : α → α → α) : List α → List α
  | a :: b :: rest => op a b :: pairUp op rest
  | l => l

/-- The fixed tree over up to 64 values, padded with the identity. -/
def reduceTree {α : Type} (op : α → α → α) (identity : α) (xs : List α) : α :=
  let l := xs ++ List.replicate (64 - xs.length) identity
  let p := pairUp op
  (p (p (p (p (p (p l)))))).headD identity

end Sys2Proof.Machine
end

