-- ==== Sys2Proof/Machine/Xlate.lean ====
section
/-! DEFINITION. Translation of virtual addresses (R165 to R176) and the page requests of a miss (R179). -/

namespace Sys2Proof.Machine

/-! ### Addresses -/

/-- One past the last device-physical address (R165). -/
def dpaTop : Nat := 0x3000000000

/-- The home slice of a final address (R167). -/
def homeSlice (f : FAddr) : Nat :=
  let x : BitVec 52 := BitVec.ofNat 52 f.a
  let six (lo : Nat) : BitVec 6 := x.extractLsb' lo 6
  let h := six 12 ^^^ six 18 ^^^ six 24 ^^^ six 30 ^^^ six 36 ^^^ six 42
  (if f.host && x.getLsbD 51 then h ^^^ 1 else h).toNat

/-! ### Context blocks (R168) -/

/-- Word `w` of context block `n`. -/
def State.ctxWord (s : State) (n w : Nat) : Word := Tab.get 0 s.r.ctx (n * 8 + w)

/-- Bits of a word as a number. -/
def fieldOf (v : Word) (lo n : Nat) : Nat := ((v >>> lo) &&& BitVec.ofNat 64 (2 ^ n - 1)).toNat

/-- TENANT of a context. -/
def State.ctxTenant (s : State) (n : Nat) : Nat := fieldOf (s.ctxWord n 3) 32 4

/-- PRQEN of a context; no request is sent while the feature PRI is off (R319). -/
def State.prqEnabled (s : State) (n : Nat) : Bool := (s.ctxWord n 3).getLsbD 2 && s.r.featw0.getLsbD 3

/-- The partition of a context, when it is assigned (R303); context 0 belongs to none. -/
def State.ctxPart (s : State) (n : Nat) : Option Nat :=
  if n = 0 then none
  else
    let v := Tab.get 0 s.r.ctxp n
    if v.getLsbD 7 then some (fieldOf v 0 3) else none

/-- The function of a context: the PF, or the VF of its partition (R300). -/
def State.ctxFunc (s : State) (n : Nat) : Nat :=
  match s.ctxPart n with
  | some p => p + 1
  | none => 0

/-! ### Walks -/

/-- A page fault with its cause (R284). -/
def pageTrap (cause : BitVec 2) (va : Word) : Trap := { code := .page, cause := cause, addr := va }

/-- What a stage answers; a miss says whether a host translation is what is missing. -/
inductive WalkRes where
  | leaf (l : Leaf)
  | miss (host : Bool)
  | trap (c : Code) (cause : BitVec 2)
  deriving DecidableEq, Repr

/-- What the read of a table entry answers. -/
inductive EntryRes where
  | entry (v : Word)
  | miss (host : Bool)
  | trap (c : Code) (cause : BitVec 2)
  deriving DecidableEq, Repr

/-- The key tag of the frame of a DPA (R176). -/
def State.keyTag (s : State) (dpa : Nat) : BitVec 6 := Tab.get 0 s.m.keyTags (dpa / 4096)

/-- The read of a table entry at a DPA under a key (R170, R176). A table outside memory is a malformed
table (log 21). -/
def State.tableRead (s : State) (key : BitVec 6) (dpa : Nat) : EntryRes :=
  if dpaTop < dpa + 8 then .trap .page 2
  else if s.keyTag dpa = key then .entry (leWord (readN 0 s.m.dpa dpa 8))
  else .trap .keyMismatch 0

/-- The levels of a walk: shift, index width, size that a leaf maps (0: no leaf) (R170). -/
def levels (width0 : Nat) : List (Nat × Nat × Nat) :=
  [(39, width0, 0), (30, 9, 2 ^ 30), (21, 9, 2 ^ 21), (12, 9, 4096)]

/-- ADDR of an entry as an address (R171). -/
def entryAddr (e : Word) : Nat := fieldOf e 12 40 * 4096

/-- The 16 entries of a group match (R172): present leaves with S64, equal but for ADDR, which rises by 1
from an address aligned to 64 KiB. -/
def groupOk (es : List EntryRes) : Bool :=
  match es with
  | .entry e0 :: _ =>
    decide (entryAddr e0 % 65536 = 0) && (List.range 16).all (fun i => decide (es[i]? = some (.entry (e0 + BitVec.ofNat 64 (i * 4096)))))
  | _ => false

/-- The leaf of an entry under R172; `last` is the last enabled stage, `size` the page of its level. -/
def leafOf (e : Word) (last : Bool) (size : Nat) (group : List EntryRes) : WalkRes :=
  let host := e.getLsbD 58
  let s64 := e.getLsbD 7
  let sz := if s64 then 65536 else size
  let base := if s64 then entryAddr e / 65536 * 65536 else entryAddr e
  let reserved := decide (fieldOf e 59 5 ≠ 0) || decide (fieldOf e 8 4 ≠ 0) || decide (fieldOf e 5 2 = 3) ||
    (s64 && decide (size ≠ 4096)) || (host && !last)
  let place := decide (size = 0) || decide (entryAddr e % size ≠ 0) || (s64 && !groupOk group) ||
    (last && !host && decide (dpaTop < base + sz))
  if reserved || place then .trap .page 2
  else .leaf { host := host, key := BitVec.ofNat 6 (fieldOf e 52 6), addr := base, size := sz,
               cp := fieldOf e 5 2, r := e.getLsbD 2, w := e.getLsbD 3, a := e.getLsbD 4 }

/-- A walk from the table at `tab` (R170 to R172). -/
def walk (read : Nat → EntryRes) (last : Bool) (a : Nat) : List (Nat × Nat × Nat) → Nat → WalkRes
  | [], _ => .trap .page 2
  | (shift, width, size) :: rest, tab =>
    let idx := a / 2 ^ shift % 2 ^ width
    match read (tab + idx * 8) with
    | .miss h => .miss h
    | .trap c k => .trap c k
    | .entry e =>
      if e.getLsbD 0 = false then .miss false
      else if e.getLsbD 1 then
        leafOf e last size
          (if e.getLsbD 7 then (List.range 16).map (fun i => read (tab + (idx / 16 * 16 + i) * 8)) else [])
      else if fieldOf e 52 12 ≠ 0 ∨ fieldOf e 5 7 ≠ 0 ∨ rest = [] then .trap .page 2
      else walk read last a rest (entryAddr e)

/-- The pointers that a walk follows, with the pages of the entries that led to each. -/
def walkTables (read : Nat → EntryRes) (owner a : Nat) : List (Nat × Nat × Nat) → Nat → List Nat → List CachedTable
  | [], _, _ => []
  | (shift, width, _) :: rest, tab, via =>
    let at_ := tab + a / 2 ^ shift % 2 ^ width * 8
    match read at_, rest with
    | .entry e, (sh, _, _) :: _ =>
      if e.getLsbD 0 ∧ ¬e.getLsbD 1 then
        let via' := via ++ [at_ / 4096]
        { owner := owner, shift := sh, above := a / 2 ^ shift, table := entryAddr e, via := via' } ::
          walkTables read owner a rest (entryAddr e) via'
      else []
    | _, _ => []

/-- The addresses of the entries that a walk reads. -/
def walkReads (read : Nat → EntryRes) (a : Nat) : List (Nat × Nat × Nat) → Nat → List Nat
  | [], _ => []
  | (shift, width, _) :: rest, tab =>
    let at_ := tab + a / 2 ^ shift % 2 ^ width * 8
    at_ :: (match read at_ with
      | .entry e => if e.getLsbD 0 ∧ ¬e.getLsbD 1 then walkReads read a rest (entryAddr e) else []
      | _ => [])

/-- The translations that cached entries give for an address: leaves that map it, and walks from cached pointers (R183). -/
def Cached.walks (c : Cached) (read : Nat → EntryRes) (last : Bool) (owner a : Nat) (lv : List (Nat × Nat × Nat)) :
    List WalkRes :=
  c.leaves.filterMap (fun e =>
    if e.owner = owner ∧ e.page * 4096 / e.leaf.size = a / e.leaf.size then some (.leaf e.leaf) else none) ++
  c.tables.filterMap (fun e =>
    if e.owner = owner ∧ e.above = a / 2 ^ (e.shift + 9) then
      some (walk read last a (lv.filter (fun l => decide (l.1 ≤ e.shift))) e.table)
    else none)

/-- The choice among a stage's walk in memory and the cached translations that differ from it (R184). -/
def chooseWalk (choice : Nat) (fresh : WalkRes) (cached : List WalkRes) : WalkRes :=
  match cached.filter (fun l => decide (l ≠ fresh)) with
  | [] => fresh
  | ls => (fresh :: ls).getD choice fresh

/-- The owner of cached second-stage entries: the context in its partition, 8 for none (R183). -/
def State.owner2 (s : State) (ctx : Nat) : Nat := ctx + 128 * (s.ctxPart ctx).getD 8

/-- The read of a second-stage table. -/
def State.read2 (s : State) (ctx : Nat) : Nat → EntryRes := s.tableRead (BitVec.ofNat 6 (fieldOf (s.ctxWord ctx 3) 16 6))

/-- The root of the second stage. -/
def State.root2 (s : State) (ctx : Nat) : Nat := fieldOf (s.ctxWord ctx 5) 16 22 * 65536

/-- The second stage (R170). -/
def State.stage2 (s : State) (ctx gpa : Nat) : WalkRes :=
  chooseWalk (Config.staleSecond s.tick (gpa / 4096)) (walk (s.read2 ctx) true gpa (levels 13) (s.root2 ctx))
    (s.m.second.walks (s.read2 ctx) true (s.owner2 ctx) gpa (levels 13))

/-- A host access lies inside one DMA window (R318). -/
def State.hostOk (s : State) (a n : Nat) : Bool :=
  s.service.windows.any (fun w => decide (w.1 ≤ a) && decide (a + n ≤ w.1 + w.2))

/-- The bytes at a final address; a host read outside every window is dropped and its value is free (R318). -/
def State.readFinal (s : State) (f : FAddr) (n : Nat) : List Byte :=
  if f.host then
    if s.hostOk f.a n then readN 0 s.m.host f.a n
    else (List.range n).map (fun i => Config.droppedRead (s.tick * 65536 + i))
  else readN 0 s.m.dpa f.a n

/-- The host's translation of a host address stands in the cache, or the host reports it as present (R178, R179). -/
def State.hostPresent (s : State) (a : Nat) : Bool := s.m.hostX.contains (a / 4096) || Config.atsPresent s.tick (a / 4096)

/-- A first-stage table entry at a GPA, through the second stage, like any other access (R170, R178, R318). -/
def State.guestTableRead (s : State) (ctx gpa : Nat) : EntryRes :=
  match s.stage2 ctx gpa with
  | .miss h => .miss h
  | .trap c k => .trap c k
  | .leaf l =>
    let a := l.addr + gpa % l.size
    if l.host then (if s.hostPresent a then .entry (leWord (s.readFinal { host := true, a := a } 8)) else .miss true)
    else s.tableRead l.key a

/-- The read of a first-stage table. -/
def State.read1 (s : State) (ctx : Nat) : Nat → EntryRes :=
  if (s.ctxWord ctx 3).getLsbD 1 then s.guestTableRead ctx else s.read2 ctx

/-- The root of the first stage. -/
def State.root1 (s : State) (ctx : Nat) : Nat := fieldOf (s.ctxWord ctx 4) 21 31 * 2 ^ 21

/-- The first stage (R170). -/
def State.stage1 (s : State) (ctx va : Nat) : WalkRes :=
  let last := !(s.ctxWord ctx 3).getLsbD 1
  chooseWalk (Config.staleFirst s.tick (va / 4096)) (walk (s.read1 ctx) last va (levels 18) (s.root1 ctx))
    (s.m.first.walks (s.read1 ctx) last ctx va (levels 18))

/-! ### Translation of an access -/

/-- The permissions that an access needs (R174), and whether it needs a reduction unit (R205). -/
structure Need where
  r : Bool
  w : Bool
  a : Bool
  atomic : Bool := false
  deriving DecidableEq, Repr

/-- A read. -/
def Need.read : Need := { r := true, w := false, a := false }
/-- A write. -/
def Need.write : Need := { r := false, w := true, a := false }
/-- An access by a reduction unit. -/
def Need.rmw : Need := { r := true, w := true, a := true, atomic := true }
/-- The read of WAITA. -/
def Need.waita : Need := { r := true, w := false, a := false, atomic := true }

/-- A translated access: final address, key, whether the line keeps records (CP other than NOCACHE, R173),
the leaves to be cached. -/
structure Xl where
  f : FAddr
  key : BitVec 6
  keep : Bool
  page : Nat
  first : Option Leaf := none
  second : Option (Nat × Leaf) := none
  deriving DecidableEq, Repr

/-- What translation answers; a miss names the page and whether the host lacks the translation. -/
inductive XRes where
  | ok (x : Xl)
  | trap (t : Trap)
  | miss (page : Nat) (host : Bool)
  deriving DecidableEq, Repr

/-- The VA lies in the context's heap window (R169). -/
def State.inWindow (s : State) (ctx : Nat) (va : Word) : Bool :=
  let b := fieldOf (s.ctxWord ctx 0) 21 36
  let l := fieldOf (s.ctxWord ctx 1) 21 36
  decide (b * 2 ^ 21 ≤ va.toNat) && decide (va.toNat < (b + l) * 2 ^ 21)

/-- The DPA that the heap window gives (R169). -/
def State.windowDpa (s : State) (ctx : Nat) (va : Word) : Nat :=
  (va + ((s.ctxWord ctx 2) &&& (BitVec.ofNat 64 (2 ^ 64 - 2 ^ 21)))).toNat

/-- The effective page's permission, host and reduction-unit checks (R173, R174, R178, R205). -/
def State.useLeaf (s : State) (need : Need) (va : Word) (l : Leaf) (x : Xl) : XRes :=
  if l.host ∧ need.atomic then .trap (trapAt .perm va)
  else if (need.r ∧ ¬l.r) ∨ (need.w ∧ ¬l.w) ∨ (need.a ∧ ¬l.a) then .trap (trapAt .perm va)
  else if l.host ∧ ¬s.hostPresent x.f.a then .miss (va.toNat / 4096) true
  else .ok x

/-- Both stages of paging (R170 to R174). -/
def State.paged (s : State) (ctx : Nat) (need : Need) (va : Word) : XRes :=
  match s.stage1 ctx va.toNat with
  | .miss h => .miss (va.toNat / 4096) h
  | .trap c k => .trap { code := c, cause := k, addr := va }
  | .leaf l1 =>
    let a1 := l1.addr + va.toNat % l1.size
    if (s.ctxWord ctx 3).getLsbD 1 then
      match s.stage2 ctx a1 with
      | .miss h => .miss (va.toNat / 4096) h
      | .trap c k => .trap { code := c, cause := k, addr := va }
      | .leaf l2 =>
        let a2 := l2.addr + a1 % l2.size
        let l := { l2 with r := l1.r && l2.r, w := l1.w && l2.w, a := l1.a && l2.a, cp := Nat.max l1.cp l2.cp }
        s.useLeaf need va l
          { f := { host := l2.host, a := a2 }, key := l2.key, keep := decide (l.cp ≠ 2) && !l2.host,
            page := Nat.min l1.size l2.size, first := some l1, second := some (a1 / 4096, l2) }
    else
      s.useLeaf need va l1
        { f := { host := l1.host, a := a1 }, key := l1.key, keep := decide (l1.cp ≠ 2) && !l1.host,
          page := l1.size, first := some l1 }

/-- Translate an access of a context (R166, R168, R169, R173). -/
def State.translate (s : State) (ctx : Nat) (need : Need) (va : Word) : XRes :=
  if 2 ^ 57 ≤ va.toNat then .trap (pageTrap 1 va)
  else if s.inWindow ctx va then
    let d := s.windowDpa ctx va
    if d < dpaTop then
      .ok { f := { host := false, a := d }, key := BitVec.ofNat 6 (fieldOf (s.ctxWord ctx 3) 8 6), keep := true,
            page := 2 ^ 21 }
    else .trap (pageTrap 0 va)
  else if (s.ctxWord ctx 3).getLsbD 0 then s.paged ctx need va
  else .trap (pageTrap 0 va)

/-- One more entry of a list without repeats. -/
def addNew {α : Type} [DecidableEq α] (l : List α) (x : α) : List α := if l.contains x then l else l ++ [x]

/-- A leaf and the pointers of a walk stand in a cache; a leaf that stands there keeps the pages it was read through. -/
def Cached.add (c : Cached) (x : CachedLeaf) (tabs : List CachedTable) : Cached :=
  { leaves := if c.leaves.any (fun e => decide (e.owner = x.owner ∧ e.page = x.page ∧ e.leaf = x.leaf)) then c.leaves
      else c.leaves ++ [x],
    tables := tabs.foldl addNew c.tables }

/-- The first-stage cache after a walk for a VA that gave a leaf. -/
def State.addFirst (s : State) (ctx va : Nat) (l : Leaf) : Cached :=
  s.m.first.add { owner := ctx, page := va / 4096, leaf := l,
                  via := (walkReads (s.read1 ctx) va (levels 18) (s.root1 ctx)).map (· / 4096) }
    (walkTables (s.read1 ctx) ctx va (levels 18) (s.root1 ctx) [])

/-- The second-stage cache after a walk for a GPA that gave a leaf. -/
def State.addSecond (s : State) (ctx gpa : Nat) (l : Leaf) (c : Cached) : Cached :=
  c.add { owner := s.owner2 ctx, page := gpa / 4096, leaf := l, via := [] }
    (walkTables (s.read2 ctx) (s.owner2 ctx) gpa (levels 13) (s.root2 ctx) [])

/-- A host access that is dropped is logged (R318). -/
def State.logHost (s : State) (f : FAddr) (n : Nat) : State :=
  if f.host ∧ ¬s.hostOk f.a n then { s with service := { s.service with svcLog := s.service.svcLog + 1 } } else s

/-- The reads of guest table entries that lie in host memory outside every window are logged (R318). -/
def State.logTables (s : State) (ctx : Nat) (reads : List Nat) : State :=
  reads.foldl (fun t gpa => match s.stage2 ctx gpa with
    | .leaf l => t.logHost { host := l.host, a := l.addr + gpa % l.size } 8
    | _ => t) s

/-- The translations that an access has used stand in the caches (R183): its leaves and pointers in both stages, and the
second-stage leaves of the first-stage tables. -/
def State.cacheXl (s : State) (ctx : Nat) (va : Word) (x : Xl) : State :=
  match x.first with
  | none => s
  | some l1 =>
    let reads := walkReads (s.read1 ctx) va.toNat (levels 18) (s.root1 ctx)
    let second := match x.second with
      | some (p, l2) =>
        reads.foldl (fun c t => match s.stage2 ctx t with
            | .leaf l => s.addSecond ctx t l c
            | _ => c) (s.addSecond ctx (p * 4096) l2 s.m.second)
      | none => s.m.second
    let s1 := { s with m := { s.m with
      first := s.addFirst ctx va.toNat l1, second := second,
      hostX := if x.f.host then addNew s.m.hostX (x.f.a / 4096) else s.m.hostX } }
    if x.second.isSome then s1.logTables ctx reads else s1

/-- A walker reads the tables for an address of a context, and keeps what it finds, before any access asks for it (R183,
R184; log 9). -/
def State.walkAhead (s : State) (ctx a : Nat) (second : Bool) : State :=
  let c3 := s.ctxWord ctx 3
  if !c3.getLsbD 0 || decide (2 ^ 57 ≤ a) || (second && !c3.getLsbD 1) then s
  else if second then
    match walk (s.read2 ctx) true a (levels 13) (s.root2 ctx) with
    | .leaf l => { s with m := { s.m with second := s.addSecond ctx a l s.m.second } }
    | _ => s
  else
    match walk (s.read1 ctx) (!c3.getLsbD 1) a (levels 18) (s.root1 ctx) with
    | .leaf l => { s with m := { s.m with first := s.addFirst ctx a l } }
    | _ => s

/-- The cache policy of a translation: 0 ALLOC, 1 STREAM, 2 NOCACHE (R173). -/
def Xl.cp (x : Xl) : Nat :=
  Nat.max ((x.first.map (·.cp)).getD 0) ((x.second.map (·.2.cp)).getD 0)

/-- The lines of an access of `n` bytes under NOCACHE are not kept after it, nor are their records (R173, R196). -/
def State.dropLines (s : State) (f : FAddr) (n : Nat) : State :=
  let lines := (granules f.a n).map (·.1)
  if f.host then s
  else { s with m := { s.m with
    stream := s.m.stream.filter (fun l => !lines.contains l), races := s.m.races.filter (fun e => !lines.contains e.1) } }

/-- A context has accessed home slices for the lines of `n` bytes (R268). -/
def State.countLines (s : State) (ctx : Nat) (f : FAddr) (n : Nat) : State :=
  { s with pw := { s.pw with used := Tab.upd 0 s.pw.used ctx (· + (granules f.a n).length) } }

/-- The lines of an access of `n` bytes are held under its cache policy (R173), and the context has accessed its home
slices once for each (R268). -/
def State.noteLines (s : State) (ctx : Nat) (x : Xl) (n : Nat) : State :=
  let lines := (granules x.f.a n).map (·.1)
  let s1 := s.countLines ctx x.f n
  if x.f.host then s1
  else if x.cp = 2 then s1.dropLines x.f n
  else
    let rest := s.m.stream.filter (fun l => !lines.contains l)
    { s1 with m := { s1.m with stream := if x.cp = 1 then rest ++ lines else rest } }

/-- What an access of `n` bytes leaves beside its effect: cached translations, lines and counts. -/
def State.cache (s : State) (ctx : Nat) (va : Word) (x : Xl) (n : Nat) : State := (s.cacheXl ctx va x).noteLines ctx x n

/-- The access's key differs from the frame's tag (R176); host memory carries none (R178). -/
def State.keyBad (s : State) (f : FAddr) (key : BitVec 6) : Bool := !f.host && decide (s.keyTag f.a ≠ key)

/-- The trap of a key mismatch at a VA. -/
def keyTrap (va : Word) : Trap := trapAt .keyMismatch va

/-- The parts of a range that lie in one 4 KiB page each. -/
def pageParts : Nat → Nat → Nat → List (Nat × Nat)
  | 0, _, _ => []
  | _ + 1, _, 0 => []
  | k + 1, a, n =>
    let m := Nat.min n (4096 - a % 4096)
    (a, m) :: pageParts k (a + m) (n - m)

/-- The pages of a range. -/
def rangeParts (a n : Nat) : List (Nat × Nat) := pageParts (n / 4096 + 2) a n

/-- The final addresses to which ranges of VAs translate, part by part; a part that does not translate has none. -/
def State.finalParts (s : State) (ctx : Nat) (need : Need) (rs : List (Nat × Nat)) : List (FAddr × Nat) :=
  (rs.flatMap (fun r => rangeParts r.1 r.2)).filterMap (fun p =>
    match s.translate ctx need (BitVec.ofNat 64 p.1) with
    | .ok x => some (x.f, p.2)
    | _ => none)

/-! ### Misses (R179) -/

/-- Send page requests that wait while the host's allocation has room (R179); a function whose PRI is stopped sends none
(R180). -/
def State.sendRequests (s : State) : State :=
  let out := (s.r.prq.filter (·.sent)).length
  let room := Nat.min 512 s.r.prqHist - out
  let toSend := (s.r.prq.filter (fun q => !q.sent && !Tab.get false s.r.priStop (s.ctxFunc q.ctx))).take room
  { s with
    r := { s.r with prq := s.r.prq.map (fun q => if toSend.contains q then { q with sent := true } else q) },
    irqs := s.irqs ++ toSend.map (fun q => .pageRequest q.ctx q.page (q.need.1) (q.need.2)) }

/-- A request of a context for a page stands; that of a context which has been destroyed is nobody's (R179, R181). -/
def State.requested (s : State) (ctx page : Nat) : Bool :=
  s.r.prq.any (fun q => decide (q.ctx = ctx) && decide (q.page = page) && !q.orphan)

/-- A miss asks for its page unless a request for it is outstanding (R179). -/
def State.requestPage (s : State) (ctx page : Nat) (host : Bool) (need : Need) : State :=
  if s.requested ctx page then s
  else
    State.sendRequests { s with r := { s.r with
      prq := s.r.prq ++ [{ ctx := ctx, page := page, host := host, need := (need.r, need.w), sent := false, orphan := false }] } }

/-- The key of an access in its task's table of misses: the agent, the address and the issuing word (R180). -/
def missKey (rank kind : Nat) (va : Word) (waddr : BitVec 32) : Nat :=
  ((va.toNat * 2 ^ 32 + waddr.toNat) * 16 + rank) * 16 + kind

/-- What a miss of a gang's agent gives: a trap, or none when the gang parks (R179, R180). While the function's PRI is
stopped there is no response whose code DETAIL could hold; it is 0 (log 30). -/
def State.missTrap (s : State) (slot rank kind ctx : Nat) (va : Word) (waddr : BitVec 32) : Option Trap :=
  if s.prqEnabled ctx then
    if Tab.get false s.r.priStop (s.ctxFunc ctx) then some (trapAt .pageRefused va)
    else
      match s.task? slot with
      | some t => if 2 ≤ Tab.get 0 t.misses (missKey rank kind va waddr) then some (pageTrap 0 va) else none
      | none => none
  else some (pageTrap 0 va)

/-- The misses of an access are no longer counted once it has its translation (R180). -/
def State.clearMiss (s : State) (slot rank kind : Nat) (va : Word) (waddr : BitVec 32) : State :=
  match s.task? slot with
  | some t =>
    let k := missKey rank kind va waddr
    if Tab.get 0 t.misses k = 0 then s
    else s.setTask slot { t with misses := Tab.del k t.misses }
  | none => s

/-- No access of a word has misses counted any longer: it has made them all, or has failed (R180). -/
def State.clearWord (s : State) (slot rank kind : Nat) (waddr : BitVec 32) : State :=
  match s.task? slot with
  | some t =>
    let other (k : Nat) : Bool := decide (k % 2 ^ 40 ≠ missKey rank kind 0 waddr)
    if t.misses.all (fun e => other e.1) then s else s.setTask slot { t with misses := t.misses.filter (fun e => other e.1) }
  | none => s

end Sys2Proof.Machine
end

