-- ==== Sys2Proof/Machine/Mem.lean ====
section
/-! DEFINITION. Accesses at the home slices: reads, applied writes, race records, pigeonhole wakes; the
accumulate pieces and residual slots (R167, R176, R190, R193, R196, R197, R209 to R215, R221, R370). -/

namespace Sys2Proof.Machine

/-! ### Bytes at final addresses -/

/-- Write bytes at a final address; a host write outside every window is dropped and logged (R318). -/
def State.writeFinal (s : State) (f : FAddr) (bs : List Byte) : State :=
  if f.host then
    if s.hostOk f.a bs.length then { s with m := { s.m with host := splice 0 s.m.host f.a bs } }
    else { s with service := { s.service with svcLog := s.service.svcLog + 1 } }
  else { s with m := { s.m with dpa := splice 0 s.m.dpa f.a bs } }

/-! ### Race records (R196, R197) -/

/-- Change the records of the granules of an access. A record that begins takes H as its synchronisation stamp, which
exceeds every release that an earlier record of the line may have held (R195, R198, log 54). -/
def State.updRaces (s : State) (gs : List (Nat × BitVec 64)) (f : RaceRec → BitVec 64 → RaceRec) : State :=
  { s with m := { s.m with races := gs.foldl (fun t g =>
      Tab.put g.1 (f ((find t g.1).getD { RaceRec.clear with y := s.m.h }) g.2) t) s.m.races } }

/-- An access at a final address passes the check of R197, or the trap. -/
def State.raceAt (s : State) (f : FAddr) (n : Nat) (keep : Bool) (a : AgentId) (st : Stamp)
    (writes atomic : Bool) : Option Trap :=
  if f.host || !keep then none
  else raceTrap s.raceOn (Tab.get RaceRec.clear s.m.races) (granules f.a n) a st writes atomic

/-- Note a plain read (R196); a read of host memory that is dropped is logged, and a line under NOCACHE is not kept (R173). -/
def State.noteRead (s : State) (f : FAddr) (n : Nat) (keep : Bool) (a : AgentId) (st : Stamp) : State :=
  if f.host then s.logHost f n else if !keep then s.dropLines f n else s.updRaces (granules f.a n) (fun r b => r.afterRead b a st)

/-- The synchronisation stamp of a location; one that keeps no record, or whose record left with its line, gives H
(R195). -/
def State.syncAt (s : State) (f : FAddr) (keep : Bool) : Stamp :=
  if f.host || !keep then s.m.h
  else match find s.m.races (f.a / 64) with
    | some r => r.y
    | none => s.m.h

/-- Who writes: an agent with its stamp and whether the access is atomic, or none for an unchecked agent. -/
abbrev Writer := Option (AgentId × Stamp × Bool)

/-- Note a write, and the stamp that a release places in the granules (R195, R196); a line under NOCACHE is not kept
(R173). -/
def State.noteWrite (s : State) (f : FAddr) (n : Nat) (keep : Bool) (by_ : Writer) (rel : Option Stamp) : State :=
  if f.host then s
  else if !keep then s.dropLines f n
  else
    let s1 := match by_ with
      | some (a, st, at_) => s.updRaces (granules f.a n) (fun r b => r.afterWrite b a st at_)
      | none => s.updRaces (granules f.a n) (fun r _ => { r with w := [], r := [] })
    match rel with
    | some st => s1.updRaces (granules f.a n) (fun r _ => { r with y := stMax r.y st })
    | none => s1

/-! ### Pigeonholes (R221) -/

/-- Give a WAITA its status and the stamp it acquires; the gang's condition is met. -/
def State.wakeWaita (s : State) (p : Pigeon) (status : Word) (y : Option Stamp) : State :=
  let s1 := s.updSeq { slot := p.slot, rank := p.rank, q := .c } (fun q =>
    match q.wait with
    | some { kind := .waita id _ _, since := a, ord := o } =>
      if id = p.id then { q with wait := some { kind := .waita id (some status) y, since := a, ord := o } } else q
    | _ => q)
  s1.updTask p.slot (fun t => { t with conds := t.conds.filter (· ≠ .waita p.rank) })

/-- A slice's pipeline is held by the correction of an error (R288). -/
def State.sliceFrozen (s : State) (n : Nat) : Bool := decide (Tab.get 0 s.pw.freeze (128 + n) ≠ 0)

/-- The home slice of a final address is held: no access passes it (R288). -/
def State.heldAt (s : State) (f : FAddr) : Bool := s.sliceFrozen (homeSlice f)

/-- Replace a slice. -/
def State.setSlice (s : State) (n : Nat) (v : Slice) : State :=
  { s with m := { s.m with slices := Tab.set Slice.empty s.m.slices n v } }

/-- A slice. -/
def State.slice (s : State) (n : Nat) : Slice := Tab.get Slice.empty s.m.slices n

/-- The masked comparison of an entry holds for the memory as it stands. -/
def State.pigeonTrue (s : State) (p : Pigeon) : Bool := condHolds p.cc (leWord (readN 0 s.m.dpa p.addr 8) &&& p.mask) p.e

/-- After a write of `n` bytes at a DPA: entries of one slice whose bytes it touches and whose condition now
holds are removed and their waiters woken, with the granule's synchronisation stamp (R191, R195, R221). -/
def State.testSlice (s : State) (sl a n : Nat) : State :=
  let v := s.slice sl
  let hit (p : Pigeon) : Bool := !p.lost && decide (p.addr < a + n) && decide (a < p.addr + 8) && s.pigeonTrue p
  let hits := v.pigeons.filter hit
  if hits.isEmpty then s
  else
    hits.foldl (fun s p => s.wakeWaita p 0 (some (s.syncAt { host := false, a := p.addr } p.keep))) (s.setSlice sl { v with pigeons := v.pigeons.filter (fun p => !hit p) })

/-- Test the pigeonholes of every slice that a write touches. -/
def State.testPigeons (s : State) (f : FAddr) (n : Nat) : State :=
  if f.host then s else (s.m.slices.map (·.1)).foldl (fun s sl => s.testSlice sl f.a n) s

/-- The watch on an ACTION word (R286): after a write of `n` bytes at `f`, the first non-zero value decides. -/
def State.watchActions (s : State) (f : FAddr) (n : Nat) (rel : Option Stamp) : State :=
  { s with m := { s.m with actions := s.m.actions.map (fun w =>
      if w.value.isNone ∧ w.f.host = f.host ∧ w.f.a < f.a + n ∧ f.a < w.f.a + 8 then
        let v := leWord (readN 0 (if f.host then s.m.host else s.m.dpa) w.f.a 8)
        if v = 0 then w else { w with value := some (v, rel) }
      else w) } }

/-- An applied write: the bytes, the records, the pigeonholes, the watched words. -/
def State.applyWrite (s : State) (f : FAddr) (bs : List Byte) (keep : Bool) (by_ : Writer) (rel : Option Stamp) :
    State :=
  (((s.writeFinal f bs).noteWrite f bs.length keep by_ rel).testPigeons f bs.length).watchActions f bs.length rel

/-! ### Posted stores (R190, R370) -/

/-- Two byte ranges meet. -/
def rangesMeet (a n b m : Nat) : Bool := decide (a < b + m) && decide (b < a + n) && decide (0 < n) && decide (0 < m)

/-- Two ranges of final addresses meet. -/
def finalsMeet (f : FAddr) (n : Nat) (g : FAddr) (m : Nat) : Bool := decide (f.host = g.host) && rangesMeet f.a n g.a m

/-- A posted store touches the bytes; one that has no translation yet may touch any. -/
def Posted.touches (p : Posted) (f : FAddr) (n : Nat) : Bool :=
  decide (p.stage = .anew) || finalsMeet p.final p.bytes.length f n

/-- A posted store of the core-task touches the bytes. -/
def CoreTask.postedAt (c : CoreTask) (f : FAddr) (n : Nat) : Bool := c.posted.any (·.touches f n)

/-- A deferred global load of the C-sequencer that has not landed touches the bytes; one that has no translation yet may
touch any. -/
def CoreTask.pendingLoadAt (c : CoreTask) (f : FAddr) (n : Nat) : Bool :=
  c.seqC.tags.any (fun e => !e.2.landed && (match e.2.res with
    | .ldg _ _ _ _ (some b) => finalsMeet b.f 8 f n
    | .ldg _ _ _ _ none => true
    | _ => false))

/-- A deferred scratchpad load of a sequencer that has not landed touches the bytes. -/
def Seq.pendingLocalAt (q : Seq) (a n : Nat) : Bool :=
  q.tags.any (fun e => !e.2.landed && (match e.2.res with
    | .ldl v _ _ _ => rangesMeet v 8 a n
    | _ => false))

/-- What the translation of a store that is posted again gives. -/
inductive StoreRes where
  | done (s : State)
  | miss (va : Word) (page : Nat) (host : Bool) (waddr : BitVec 32)

/-- A store that a stop left to be posted again is translated anew (R183, R281, R370); any other is as it is. -/
def State.bindStore (s : State) (slot rank idx : Nat) : StoreRes :=
  match s.task? slot, s.ct? slot rank with
  | some t, some c =>
    (match c.posted[idx]? with
      | some p =>
        if p.stage ≠ .anew then .done s
        else match s.translate t.ctx Need.write p.va with
          | .trap tr =>
            .done ((s.putCt slot rank { c with posted := c.posted.set idx { p with stage := .faulted } }).raiseDeferred
              slot rank tr p.waddr)
          | .miss pg h => .miss p.va pg h p.waddr
          | .ok x =>
            let p1 := { p with final := x.f, key := x.key, keep := x.keep, stage := .posted }
            .done (((s.cache t.ctx p.va x p.bytes.length).clearMiss slot rank 0 p.va p.waddr).putCt slot rank
              { c with posted := c.posted.set idx p1 })
      | none => .done s)
  | _, _ => .done s

/-- Apply the posted store at index `idx` at its home slice; a mismatch or a race is deferred and the store
stays, to be posted again (R281, R370). A store is not applied before an earlier one that shares a byte. -/
def State.storeApply (s : State) (slot rank idx : Nat) : State :=
  match s.ct? slot rank with
  | none => s
  | some c =>
    match c.posted[idx]? with
    | none => s
    | some p =>
      if p.stage ≠ .posted ∨ (c.posted.take idx).any (·.touches p.final p.bytes.length) then s
      else
        let rest := c.posted.eraseIdx idx
        let held := c.posted.set idx { p with stage := .faulted }
        let id := agentId slot rank 0
        if s.keyBad p.final p.key then
          (s.putCt slot rank { c with posted := held }).raiseDeferred slot rank (keyTrap p.va) p.waddr
        else
          match s.raceAt p.final p.bytes.length p.keep id p.stamp true false with
          | some t => (s.putCt slot rank { c with posted := held }).raiseDeferred slot rank t p.waddr
          | none =>
            (s.putCt slot rank { c with posted := rest }).applyWrite p.final p.bytes p.keep
              (some (id, p.stamp, false)) none

/-! ### Accumulate pieces (R209 to R217) -/

/-- The core-task that a piece belongs to, while it still awaits it. -/
def State.sender (s : State) (p : Piece) : Option CoreTask :=
  (s.ct? p.slot p.rank).bind (fun c => if c.sends.any (fun x => decide (x.id = p.send)) then some c else none)

/-- The home slice of a piece. -/
def Piece.slice (p : Piece) : Nat :=
  match p.elems with
  | (_, a, _) :: _ => homeSlice { host := false, a := a }
  | [] => 0

/-- A piece touches the bytes. -/
def Piece.touches (p : Piece) (f : FAddr) (n : Nat) : Bool := !f.host && p.elems.any (fun e => rangesMeet e.2.1 4 f.a n)

/-- The pieces of a slice. -/
def Slice.pieces (v : Slice) : List Piece :=
  v.queue.filterMap (fun o => match o with
    | .piece p => some p
    | .atom _ => none) ++ v.lane ++ v.held

/-- A piece of the core-task that has not been performed touches the bytes. -/
def State.pieceAt (s : State) (slot rank : Nat) (c : CoreTask) (f : FAddr) (n : Nat) : Bool :=
  (c.flight ++ c.returns).any (·.touches f n) ||
    s.m.slices.any (fun v => v.2.pieces.any (fun p => decide (p.slot = slot ∧ p.rank = rank) && p.touches f n))

/-- Change a send of a core-task. -/
def CoreTask.updSend (c : CoreTask) (id : Nat) (f : AcctSend → AcctSend) : CoreTask :=
  { c with sends := c.sends.map (fun x => if x.id = id then f x else x) }

/-- A slot's words after elements have been summed into it (R210, R211). -/
def sumInto (f : AccFmt) (words : Tab (BitVec 32)) (es : List (Nat × Nat × BitVec 32)) : Tab (BitVec 32) :=
  es.foldl (fun w e => Tab.set 0 w e.1 (accAdd f (Tab.get 0 w e.1) e.2.2)) words

/-- A slot's words after a delivery that failed has left its elements there (R214). -/
def backInto (f : AccFmt) (words : Tab (BitVec 32)) (es : List (Nat × Nat × BitVec 32)) : Tab (BitVec 32) :=
  es.foldl (fun w e =>
    let v := Tab.get 0 w e.1
    Tab.set 0 w e.1 (if v = 0 then e.2.2 else accAdd f v e.2.2)) words

/-- A slot without outstanding sends: free unless elements have come back, else no longer in flight (R212). -/
def CoreTask.restSlot (c : CoreTask) (k : Fin 8) : CoreTask :=
  if c.sends.any (fun x => decide (x.ride = some k ∧ x.unaccepted ≠ 0) || decide (x.rt = some k)) then c
  else
    match find c.resid k.val with
    | some r => if r.held then { c with resid := Tab.put k.val { r with flying := false } c.resid }
                else { c with resid := Tab.del k.val c.resid }
    | none => c

/-- A piece has been accepted: when its whole send is, the slot that rode along is freed (R212). -/
def CoreTask.accepted (c : CoreTask) (p : Piece) : CoreTask :=
  let c1 := if p.mute then c else c.updSend p.send (fun x => { x with unaccepted := x.unaccepted - 1 })
  match c1.sends.find? (fun x => decide (x.id = p.send)) with
  | some x => (match x.ride with
      | some k => if x.unaccepted = 0 then c1.restSlot k else c1
      | none => c1)
  | none => c1

/-- A piece has been performed, or has gone back into its slot: the send ends with its last piece, once every acceptance has
come back (R210, R290). -/
def CoreTask.settled (c : CoreTask) (p : Piece) : CoreTask :=
  let c1 := c.updSend p.send (fun x => { x with left := x.left - 1 })
  match c1.sends.find? (fun x => decide (x.id = p.send)) with
  | some x =>
    if x.left = 0 ∧ x.unaccepted = 0 then
      let c2 := { c1 with sends := c1.sends.filter (fun y => decide (y.id ≠ p.send)) }
      (match x.rt with
        | some k => c2.restSlot k
        | none => c2)
    else c1
  | none => c1

/-- Pieces of a core that count against its acceptance quota at a slice (R210). -/
def Slice.quotaUse (v : Slice) (core : Nat) : Nat :=
  (v.queue.filter (fun o => match o with
    | .piece p => decide (p.core = core)
    | .atom _ => false)).length + (v.held.filter (fun p => decide (p.core = core))).length

/-- ACCQ of a tenant (R223). -/
def State.accq (s : State) (tenant : Nat) : Nat := fieldOf (Tab.get 0 s.r.tq (tenant * 4 + 1)) 0 5

/-- An ACCT piece is refused, or an ACCT.D piece waits (R210, R217). -/
def State.sliceFull (s : State) (sl core tenant : Nat) : Bool :=
  decide (48 < (s.slice sl).queue.length) || decide (s.accq tenant ≤ (s.slice sl).quotaUse core)

/-- A piece in flight arrives at its home slice (R210, R213, R217): accepted, refused and returning, or
waiting. Pieces of a core-task for one slice arrive in order. -/
def State.pieceArrive (s : State) (slot rank idx : Nat) : State :=
  match s.task? slot, s.ct? slot rank with
  | some t, some c =>
    (match c.flight[idx]? with
      | none => s
      | some p =>
        let sl := p.slice
        let v := s.slice sl
        let rest := c.flight.eraseIdx idx
        if (c.flight.take idx).any (fun x => decide (x.slice = sl) && decide (x.lane = p.lane)) then s
        else if p.lane then
          if v.lane.length < 8 then
            (s.setSlice sl { v with lane := v.lane ++ [p] }).putCt slot rank
              (CoreTask.accepted { c with flight := rest } p)
          else s
        else if s.sliceFull sl p.core t.tenant then
          if p.direct then
            s.putCt slot rank (c.updSend p.send (fun x => { x with stall := true }))
          else s.putCt slot rank { c with flight := rest, returns := c.returns ++ [p] }
        else
          (s.setSlice sl { v with queue := v.queue ++ [.piece p] }).putCt slot rank
            (CoreTask.accepted { c with flight := rest } p))
  | _, _ => s

/-- The key of a residual slot (R211). -/
def Resid.matches (r : Resid) (x : AcctSend) : Bool :=
  decide (r.va = x.va ∧ r.rows = x.rows ∧ r.cols = x.cols ∧ r.stride = x.stride ∧ r.fmt = x.fmt)

/-- The lowest free residual slot. -/
def CoreTask.freeSlot (c : CoreTask) : Option (Fin 8) :=
  (List.finRange 8).find? (fun k => (find c.resid k.val).isNone)

/-- The slot whose key a send matches. -/
def CoreTask.slotOf (c : CoreTask) (x : AcctSend) : Option (Fin 8) :=
  (List.finRange 8).find? (fun k => match find c.resid k.val with
    | some r => r.matches x
    | none => false)

/-- A refused piece is back at its core: summed into its slot or a new one, or re-sent through the reserved
lane when all eight hold other keys (R211 to R213). The slot carries the stamp of the latest accumulate summed into it,
in whatever order their pieces come back (R204). -/
def State.returnToSender (s : State) (slot rank idx : Nat) : State :=
  match s.ct? slot rank with
  | none => s
  | some c =>
    match c.returns[idx]? with
    | none => s
    | some p =>
      let c0 := { c with returns := c.returns.eraseIdx idx }
      match c0.sends.find? (fun x => decide (x.id = p.send)) with
      | none => s.putCt slot rank c0
      | some x =>
        let into (k : Fin 8) (r : Resid) : State :=
          let r1 := { r with words := sumInto r.fmt r.words p.elems, held := true }
          let r' := if r.last ≤ p.send then { r1 with last := p.send, stamp := p.stamp, waddr := p.waddr } else r1
          let c1 := CoreTask.accepted { c0 with resid := Tab.put k.val r' c0.resid } p
          s.putCt slot rank (c1.settled p)
        match c0.slotOf x with
        | some k => (match find c0.resid k.val with
            | some r => into k r
            | none => s)
        | none =>
          match c0.freeSlot with
          | some k => into k { va := x.va, rows := x.rows, cols := x.cols, stride := x.stride, fmt := x.fmt,
                               words := [], age := 0, flying := false, held := true, due := false, last := p.send,
                               stamp := p.stamp, waddr := p.waddr }
          | none => s.putCt slot rank { c0 with flight := c0.flight ++ [{ p with lane := true }] }

/-- The key tag of an element of a piece differs from its key. -/
def State.pieceKeyBad (s : State) (p : Piece) : Bool :=
  p.keys.any (fun k => decide (s.keyTag (k.1 * 4096) ≠ k.2.1))

/-- The line of an element keeps records. -/
def Piece.keeps (p : Piece) (a : Nat) : Bool :=
  match p.keys.find? (fun k => decide (k.1 = a / 4096)) with
  | some k => k.2.2
  | none => true

/-- The first race that a piece meets. -/
def State.pieceRace (s : State) (p : Piece) : Option Trap :=
  p.elems.foldl (fun acc e => match acc with
    | some t => some t
    | none => s.raceAt { host := false, a := e.2.1 } 4 (p.keeps e.2.1) (agentId p.slot p.rank 0) p.stamp true true)
    none

/-- The elements of a piece are added at its slice, one atomic access each (R189, R210). -/
def State.addElems (s : State) (p : Piece) : State :=
  p.elems.foldl (fun s e =>
    let f : FAddr := { host := false, a := e.2.1 }
    let old : BitVec 32 := BitVec.ofNat 32 (leNat (s.readFinal f 4))
    s.applyWrite f (leBytes 4 (accAdd p.fmt old e.2.2).toNat) (p.keeps e.2.1)
      (some (agentId p.slot p.rank 0, p.stamp, true)) none) s

/-- A piece that is not applied and faults (R197, R214, R281): a residual delivery goes back into its slot, another
piece is held at its slice. -/
def State.pieceFail (s : State) (sl : Nat) (p : Piece) (c : CoreTask) (t : Trap) : State :=
  match p.rt with
  | some k =>
    let c1 := match find c.resid k.val with
      | some r => { c with resid := Tab.put k.val { r with words := backInto r.fmt r.words p.elems, held := true } c.resid }
      | none => c
    (s.putCt p.slot p.rank (c1.settled p)).raiseDeferred p.slot p.rank t p.waddr
  | none =>
    let v := s.slice sl
    (s.setSlice sl { v with held := v.held ++ [{ p with ready := false }] }).raiseDeferred p.slot p.rank t p.waddr

/-- Apply a piece that its slice has taken (R210). A piece of a killed task that fails is dropped. -/
def State.pieceApply (s : State) (sl : Nat) (p : Piece) : State :=
  let bad : Option Trap := if s.pieceKeyBad p then some (keyTrap (p.va)) else s.pieceRace p
  match bad, s.sender p with
  | none, none => s.addElems p
  | none, some _ => (s.addElems p).updCt p.slot p.rank (·.settled p)
  | some _, none => s
  | some t, some c => s.pieceFail sl p c t

/-- The reduction unit takes its next piece: a held one that is to be applied again, then the reserved lane,
then the head of its queue (R210, R213). -/
def State.sliceApply (s : State) (sl : Nat) : State :=
  let v := s.slice sl
  match v.held.find? (·.ready) with
  | some p => (s.setSlice sl { v with held := v.held.filter (· ≠ p) }).pieceApply sl p
  | none =>
    match v.lane with
    | p :: rest => (s.setSlice sl { v with lane := rest }).pieceApply sl p
    | [] =>
      match v.queue with
      | .piece p :: rest => (s.setSlice sl { v with queue := rest }).pieceApply sl p
      | _ => s

/-! ### Building a send (R209, R214) -/

/-- A translation of every element of a target, in row-major order. -/
inductive TargetRes where
  | ok (es : List (Nat × Xl))
  | trap (t : Trap)
  | miss (va : Word) (page : Nat) (host : Bool)

/-- The VA of element (row, col). -/
def elemVa (va : Word) (stride cols pos : Nat) : Word :=
  va + BitVec.ofNat 64 (pos / cols * stride + 4 * (pos % cols))

/-- Translate the target of an accumulate; `pos` counts its elements row by row. -/
def State.target (s : State) (ctx : Nat) (va : Word) (rows cols stride : Nat) : TargetRes :=
  (List.range (rows * cols)).foldr (fun pos acc =>
    let a := elemVa va stride cols pos
    match s.translate ctx Need.rmw a with
    | .trap t => .trap t
    | .miss pg h => .miss a pg h
    | .ok x => (match acc with
        | .ok es => .ok ((pos, x) :: es)
        | r => r)) (.ok [])

/-- Position of element `pos` of a `cols`-wide tile in an accumulator tile. -/
def accPos (cols pos : Nat) : Nat := pos / cols * 64 + pos % cols

/-- The pieces of a send, one for each home slice that the target's elements map to (R209). -/
def makePieces (base : Piece) (cols : Nat) (es : List (Nat × Xl)) (val : Nat → BitVec 32) : List Piece :=
  let slices := (es.map (fun e => homeSlice e.2.f)).eraseDups
  slices.map (fun sl =>
    let mine := es.filter (fun e => decide (homeSlice e.2.f = sl))
    { base with
      elems := mine.map (fun e => (accPos cols e.1, e.2.f.a, val (accPos cols e.1))),
      keys := (mine.map (fun e => (e.2.f.a / 4096, e.2.key, e.2.keep))).eraseDups })

/-- Start a send: its pieces stand in flight (R209). -/
def CoreTask.send (c : CoreTask) (x : AcctSend) (ps : List Piece) : CoreTask :=
  { c with sends := c.sends ++ [{ x with unaccepted := ps.length, left := ps.length }], flight := c.flight ++ ps }

/-- What starting a residual delivery gives. -/
inductive DelRes where
  | ok (s : State)
  | trap (t : Trap)
  | miss (va : Word) (page : Nat) (host : Bool)

/-- The translations of a target's elements stand in the caches, its accesses are counted, its misses are over. -/
def State.cacheTarget (s : State) (slot rank ctx : Nat) (va : Word) (stride cols : Nat) (waddr : BitVec 32)
    (es : List (Nat × Xl)) : State :=
  es.foldl (fun s e =>
    let a := elemVa va stride cols e.1
    (s.cache ctx a e.2 4).clearMiss slot rank 0 a waddr) s

/-- Start the delivery of slot `k` through the reserved lane (R214): its contents move into pieces, and the
slot is in flight until they are performed. -/
def State.deliver (s : State) (slot rank : Nat) (k : Fin 8) : DelRes :=
  match s.task? slot, s.ct? slot rank with
  | some t, some c =>
    (match find c.resid k.val with
      | none => .ok s
      | some r =>
        if r.flying then .ok s
        else
          match s.target t.ctx r.va r.rows r.cols r.stride with
          | .trap tr => .trap tr
          | .miss a pg h => .miss a pg h
          | .ok es =>
            let base : Piece :=
              { slot := slot, rank := rank, ctx := t.ctx, core := c.core, send := s.fresh, va := r.va, elems := [], keys := [],
                fmt := r.fmt, direct := false, rt := some k, lane := true, stamp := r.stamp, waddr := r.waddr,
                ready := false, mute := false }
            let ps := makePieces base r.cols es (fun pos => Tab.get 0 r.words pos)
            let x : AcctSend :=
              { id := s.fresh, va := r.va, rows := r.rows, cols := r.cols, stride := r.stride, fmt := r.fmt,
                direct := false, ride := none, rt := some k, unaccepted := 0, left := 0, stall := false,
                waddr := r.waddr }
            let c1 := { c with resid := Tab.put k.val { r with words := [], flying := true, held := false, due := false } c.resid }
            let s1 := s.cacheTarget slot rank t.ctx r.va r.stride r.cols r.waddr es
            .ok ({ s1 with fresh := s.fresh + 1 }.putCt slot rank (c1.send x ps)))
  | _, _ => .ok s

/-- Start the delivery of every slot of a list. -/
def State.deliverAll (s : State) (slot rank : Nat) : List (Fin 8) → DelRes
  | [] => .ok s
  | k :: ks =>
    match s.deliver slot rank k with
    | .ok s' => s'.deliverAll slot rank ks
    | r => r

/-- The slots in use that satisfy a condition. -/
def CoreTask.slotsWhere (c : CoreTask) (f : Resid → Bool) : List (Fin 8) :=
  (List.finRange 8).filter (fun k => match find c.resid k.val with
    | some r => f r
    | none => false)

/-- The rows of a slot's target. -/
def Resid.ranges (r : Resid) : List (Nat × Nat) :=
  (List.range r.rows).map (fun i => (r.va.toNat + i * r.stride, 4 * r.cols))

/-- A slot's target meets a range of VAs. -/
def Resid.meets (r : Resid) (va n : Nat) : Bool := r.ranges.any (fun x => rangesMeet x.1 x.2 va n)

/-- A slot's target meets bytes, whether by their VAs or through other VAs of the same memory (R190, R204). -/
def State.slotMeets (s : State) (ctx : Nat) (r : Resid) (va : Nat) (f : FAddr) (n : Nat) : Bool :=
  r.meets va n || (s.finalParts ctx Need.rmw r.ranges).any (fun g => finalsMeet g.1 g.2 f n)

/-! ### Releases (R193, R204) -/

/-- Every earlier access of sequencer `q` that a release of scope `sc` covers has been performed: posted
stores, deferred loads and atomics, and accumulates, which only a CHIP or SYS release orders unless they
are ACCT.D. -/
def CoreTask.performed (c : CoreTask) (q : SeqId) (sc : Scope) (direct : AcctSend → Bool) : Bool :=
  (c.seq q).tags.all (fun e => e.2.landed || (match e.2.res with
    | .ldg .. | .ldl .. | .atom => false
    | _ => true)) &&
  (decide (q ≠ .c) ||
    (c.posted.isEmpty && (match sc with
      | .core | .gang => c.sends.all (fun x => !direct x || decide (x.left = 0))
      | .chip | .sys => c.sends.isEmpty && c.resid.isEmpty)))

/-- A release by the issuing sequencer: CHIP and SYS first start the delivery of every residual slot; then
the release waits until the earlier accesses are performed (R193). -/
inductive RelRes where
  | ready (s : State)
  | wait (s : State)
  | trap (t : Trap)
  | miss (va : Word) (page : Nat) (host : Bool)

/-- Test a release of scope `sc`. -/
def State.testRelease (s : State) (a : Agent) (sc : Scope) : RelRes :=
  match s.ct? a.slot a.rank with
  | none => .ready s
  | some c =>
    let start := match sc, a.q with
      | .chip, .c | .sys, .c => s.deliverAll a.slot a.rank (c.slotsWhere (fun r => !r.flying))
      | _, _ => .ok s
    match start with
    | .trap t => .trap t
    | .miss va pg h => .miss va pg h
    | .ok s' =>
      match s'.ct? a.slot a.rank with
      | none => .ready s'
      | some c' => if c'.performed a.q sc (fun x => x.direct) then .ready s' else .wait s'

end Sys2Proof.Machine
end

