-- ==== Sys2Proof/Machine/Flight.lean ====
section
/-! DEFINITION. What is in flight: the landing of deferred results (R89, R345, R346), atomics at their slices
(R207), the draining of a core-task before its context is saved (R68, R214), and accesses that the Sorting
Office, the front end and the services make in a context. -/

namespace Sys2Proof

/-- The bytes of a load (R344). -/
def LoadSize.bytes : LoadSize → Nat
  | .b | .bu => 1
  | .h | .hu => 2
  | .w | .wu => 4
  | .d => 8

/-- The load extends by sign (R344). -/
def LoadSize.signed : LoadSize → Bool
  | .b | .h | .w => true
  | _ => false

/-- The bytes of a store (R369). -/
def StoreSize.bytes : StoreSize → Nat
  | .b => 1 | .h => 2 | .w => 4 | .d => 8

/-- A loaded value extended to 64 bits (R344). -/
def LoadSize.extend (sz : LoadSize) (bs : List Byte) : Word :=
  if sz.signed then BitVec.ofInt 64 ((BitVec.ofNat (8 * sz.bytes) (leNat' bs)).toInt)
  else BitVec.ofNat 64 (leNat' bs)
where
  /-- The number that little-endian bytes stand for. -/
  leNat' : List Byte → Nat
    | [] => 0
    | x :: xs => x.toNat + 256 * leNat' xs

end Sys2Proof

namespace Sys2Proof.Machine

/-! ### Atomics at the home slice (R207) -/

/-- Old and operand of a signed comparison. -/
def atomLess (n a b : Nat) : Bool := decide (signedOf (8 * n) a < signedOf (8 * n) b)

/-- The value that an atomic writes; none where ATCAS writes nothing (R207). -/
def AtomReq.result (r : AtomReq) (n old : Nat) : Option Nat :=
  let v := r.v.toNat % 2 ^ (8 * n)
  match r.op with
  | none => if old = v then some (r.v2.toNat % 2 ^ (8 * n)) else none
  | some .add => some ((old + v) % 2 ^ (8 * n))
  | some .and => some (Nat.land old v)
  | some .or => some (Nat.lor old v)
  | some .xor => some (Nat.xor old v)
  | some .min => some (if atomLess n v old then v else old)
  | some .max => some (if atomLess n old v then v else old)
  | some .swap => some v

/-- The old value as the register receives it (R207). -/
def AtomReq.returned (n old : Nat) : Word := BitVec.ofInt 64 (signedOf (8 * n) old)

/-- The requesting C-sequencer after its atomic: the result, and the acquire (R207, R203). An atomic without a tag, which
may fault precisely, uses up a fence before it only here. -/
def AtomReq.finish (r : AtomReq) (v : Word) (y : Stamp) (q : Seq) : Seq :=
  let q1 := match r.tag with
    | some t => (match find q.tags t.val with
        | some rec => { q with tags := Tab.put t.val { rec with res := .value v, landed := true } q.tags }
        | none => q)
    | none => (match q.wait with
        | some { kind := .atom _, since := a, ord := o } =>
          { q with wait := some { kind := .atom (some v), since := a, ord := o }, relNext := none,
                   lastAtom := some { ord := r.ord, busy := false, y := some y } }
        | _ => q)
  let q2 := match q1.lastAtom with
    | some l => if l.ord = r.ord then { q1 with lastAtom := some { l with busy := false, y := some y } } else q1
    | none => q1
  if r.acq then { q2.acquire y with acqBusy := false } else q2

/-- Perform an atomic that its slice has taken. A mismatch or a race leaves memory as it is: precise when the
word waits for its result, deferred when it has a tag, and then the access is sent again on resume (R176,
R197, R281). -/
def State.atomApply (s : State) (r : AtomReq) : State :=
  let f : FAddr := { host := false, a := r.addr }
  let n := if r.dbl then 8 else 4
  let id := agentId r.slot r.rank 0
  let old := leNat (s.readFinal f n)
  let new := r.result n old
  let ag : Agent := { slot := r.slot, rank := r.rank, q := .c }
  let bad : Option Trap :=
    if s.keyBad f r.key then some (keyTrap r.va) else s.raceAt f n r.keep id r.stamp new.isSome true
  match bad with
  | some t =>
    (match r.tag with
      | none => (s.updSeq ag (fun q => { q with acqBusy := false })).raise ag t
      | some _ => (s.updCt r.slot r.rank (fun c => { c with again := c.again ++ [r] })).raiseLater ag t r.waddr)
  | none =>
    let y := s.syncAt f r.keep
    let s1 := match new with
      | some v => s.applyWrite f (leBytes n v) r.keep (some (id, r.stamp, true)) (if r.rel then some r.stamp else none)
      | none => s
    s1.updSeq ag (r.finish (AtomReq.returned n old) y)

/-- The next operation of a reduction unit (R207, R210, R213). -/
def State.sliceStep (s : State) (sl : Nat) : State :=
  let v := s.slice sl
  if v.held.any (·.ready) || !v.lane.isEmpty then s.sliceApply sl
  else
    match v.queue with
    | .atom r :: rest => (s.setSlice sl { v with queue := rest }).atomApply r
    | _ => s.sliceApply sl

/-! ### Landing of a deferred result (R89) -/

/-- What the landing of a tag gives: done, nothing yet, or a missing page. -/
inductive LandRes where
  | done (s : State)
  | no
  | miss (va : Word) (page : Nat) (host : Bool) (waddr : BitVec 32)

/-- A fault of the access of an earlier word has already been reported for this stop. -/
def CoreTask.reported (c : CoreTask) (q : SeqId) (waddr : BitVec 32) : Bool :=
  c.notes.any (fun n => decide (n.kind = seqNum q ∧ n.waddr = waddr))

/-- Record a landed result. -/
def CoreTask.land (c : CoreTask) (q : SeqId) (t : Nat) (r : TagRec) (res : Deferred) : CoreTask :=
  c.updSeq q (fun sq => { sq with tags := Tab.put t { r with res := res, landed := true } sq.tags })

/-- A deferred load is bound at its home slice, under the translation that it holds (R190, R345): key, race, value. -/
def State.bindLoad (s : State) (a : Agent) (c : CoreTask) (t : Nat) (r : TagRec) (va : Word) (sz : LoadSize)
    (w : BitVec 32) (st : Stamp) (b : Bound) : LandRes :=
  if c.postedAt b.f sz.bytes || s.heldAt b.f then .no
  else if s.keyBad b.f b.key then .done (s.raiseLater a (keyTrap va) w)
  else match s.raceAt b.f sz.bytes b.keep (agentId a.slot a.rank 0) st false false with
    | some tr => .done (s.raiseLater a tr w)
    | none =>
      let v := sz.extend (s.readFinal b.f sz.bytes)
      .done ((s.noteRead b.f sz.bytes b.keep (agentId a.slot a.rank 0) st).putCt a.slot a.rank (c.land a.q t r (.value v)))

/-- An atomic that a stop left to be issued again, if the tag is one's: translated anew, it goes to its slice (R183,
R281). Those that a stop has left are issued in program order (R190). -/
def State.resendAtom (s : State) (a : Agent) (tk : Task) (c : CoreTask) (t : Nat) : LandRes :=
  match c.again.find? (fun r => decide (r.tag.map (·.val) = some t)) with
  | none => .no
  | some r =>
    if c.reported a.q r.waddr || c.again.any (fun e => decide (e.ord < r.ord)) then .no
    else match s.translate tk.ctx Need.rmw r.va with
      | .trap tr => .done (s.raiseLater a tr r.waddr)
      | .miss pg h => .miss r.va pg h r.waddr
      | .ok x =>
        let sl := homeSlice x.f
        let v := s.slice sl
        if 64 ≤ v.queue.length then .no
        else
          let r1 := { r with addr := x.f.a, key := x.key, keep := x.keep }
          .done ((((s.setSlice sl { v with queue := v.queue ++ [.atom r1] }).cache tk.ctx r.va x
              (if r.dbl then 8 else 4)).clearMiss a.slot a.rank 0 r.va r.waddr).putCt a.slot a.rank
            { c with again := c.again.filter (fun x => decide (x ≠ r)) })

/-- The result of tag `t` lands; a deferred load is bound here (R345, R346), and an access that a stop left to be issued
again is issued (R281). -/
def State.landTag (s : State) (a : Agent) (t : Nat) : LandRes :=
  match s.task? a.slot, s.ct? a.slot a.rank with
  | some tk, some c =>
    (match find (c.seq a.q).tags t with
      | none => .no
      | some r =>
        if r.landed then .no
        else match r.res with
          | .atom => s.resendAtom a tk c t
          | .value v => .done (s.putCt a.slot a.rank (c.land a.q t r (.value v)))
          | .tile b => .done (s.putCt a.slot a.rank (c.land a.q t r (.tile b)))
          | .ldl ad sz w st =>
            if c.reported a.q w then .no
            else (match c.localRead s.raceOn (agentId a.slot a.rank (seqNum a.q)) st (granules ad sz.bytes) with
              | .inl tr => .done (s.raiseLater a tr w)
              | .inr c1 => .done (s.putCt a.slot a.rank (c1.land a.q t r (.value (sz.extend (c1.readLocal ad sz.bytes))))))
          | .ldg va sz w st at_ =>
            if c.reported a.q w then .no
            else (match at_ with
              | some b => s.bindLoad a c t r va sz w st b
              | none =>
                match s.translate tk.ctx Need.read va with
                | .trap tr => .done (s.raiseLater a tr w)
                | .miss pg h => .miss va pg h w
                | .ok x =>
                  ((s.cache tk.ctx va x sz.bytes).clearMiss a.slot a.rank 0 va w).bindLoad a c t r va sz w st
                    { f := x.f, key := x.key, keep := x.keep }))
  | _, _ => .no

/-! ### Draining a core-task (R68, R214) -/

/-- A page that a save found missing: page, whether the host lacks it, the agent, its need, the address and the word. -/
structure MissNote where
  page : Nat
  host : Bool
  kind : Nat
  need : Need
  va : Word
  waddr : BitVec 32
  deriving DecidableEq, Repr

/-- Apply every posted store of a core-task in order; one that faults stays, to be posted again. -/
def State.drainStores : Nat → Nat → Nat → Nat → State → State × List MissNote
  | 0, _, _, _, s => (s, [])
  | n + 1, idx, slot, rank, s =>
    match s.ct? slot rank with
    | none => (s, [])
    | some c =>
      if c.posted.length ≤ idx then (s, [])
      else
        let (s1, ms) : State × List MissNote := match s.bindStore slot rank idx with
          | .done s' => (s'.storeApply slot rank idx, [])
          | .miss va pg h w => (s, [{ page := pg, host := h, kind := 0, need := Need.write, va := va, waddr := w }])
        match s1.ct? slot rank with
        | none => (s1, ms)
        | some c1 =>
          let (s2, ms2) := drainStores n (if c1.posted.length < c.posted.length then idx else idx + 1) slot rank s1
          (s2, ms ++ ms2)

/-- Every send in flight is accepted or refused, and every refused piece is back in a slot. -/
def State.drainFlight : Nat → Nat → Nat → State → State
  | 0, _, _, s => s
  | n + 1, slot, rank, s =>
    match s.ct? slot rank with
    | none => s
    | some c =>
      match c.flight, c.returns with
      | [], [] => s
      | [], _ :: _ => drainFlight n slot rank (s.returnToSender slot rank 0)
      | p :: _, _ =>
        let s1 := s.pieceArrive slot rank 0
        let moved := match s1.ct? slot rank with
          | some c1 => decide (c1.flight.length < c.flight.length)
          | none => true
        drainFlight n slot rank (if moved then s1 else s1.sliceStep p.slice)

/-- The slices go on until none of them satisfies `f`. -/
def State.drainSlices (f : Slice → Bool) : Nat → State → State
  | 0, s => s
  | n + 1, s =>
    match s.m.slices.find? (fun e => f e.2) with
    | some e => drainSlices f n (s.sliceStep e.1)
    | none => s

/-- Entries that the slices hold. -/
def State.sliceLoad (s : State) : Nat :=
  (s.m.slices.map (fun e => e.2.queue.length + e.2.lane.length + e.2.held.length)).sum

/-- A bound for a drain. -/
def State.drainBound (s : State) (c : CoreTask) : Nat :=
  s.sliceLoad + 8 * (c.flight.length + c.returns.length) + 64 * 8 + 8

/-- Deliver each slot of a list before the save; a miss or a precise fault leaves the slot as it is (R214). -/
def State.saveSlots (slot rank : Nat) : List (Fin 8) → State → State × List MissNote
  | [], s => (s, [])
  | k :: ks, s =>
    let w := match (s.ct? slot rank).bind (fun c => find c.resid k.val) with
      | some r => r.waddr
      | none => 0
    let (s1, ms) := match s.deliver slot rank k with
      | .ok s' => (s', [])
      | .trap t => (s.raiseDeferred slot rank t w, [])
      | .miss va pg h => (s, [{ page := pg, host := h, kind := 0, need := Need.rmw, va := va, waddr := w }])
    let (s2, ms2) := saveSlots slot rank ks s1
    (s2, ms ++ ms2)

/-- Land what has not landed, as far as it can (R68). -/
def State.saveTags (a : Agent) : List Nat → State → State × List MissNote
  | [], s => (s, [])
  | t :: ts, s =>
    let (s1, ms) := match s.landTag a t with
      | .done s' => (s', [])
      | .no => (s, [])
      | .miss va pg h w => (s, [{ page := pg, host := h, kind := 0, need := Need.read, va := va, waddr := w }])
    let (s2, ms2) := saveTags a ts s1
    (s2, ms ++ ms2)

/-- The tags of every sequencer. -/
def State.saveAllTags (slot rank : Nat) : List SeqId → State → State × List MissNote
  | [], s => (s, [])
  | q :: qs, s =>
    let ts := match s.ct? slot rank with
      | some c => (c.seq q).tags.map (·.1)
      | none => []
    let (s1, ms) := saveTags { slot := slot, rank := rank, q := q } ts s
    let (s2, ms2) := saveAllTags slot rank qs s1
    (s2, ms ++ ms2)

/-- The atomics of a core-task are performed. -/
def State.finishAtoms (s : State) (slot rank : Nat) : State :=
  State.drainSlices (fun v => v.queue.any (fun o => match o with
    | .atom r => decide (r.slot = slot ∧ r.rank = rank)
    | .piece _ => false)) (s.sliceLoad + 1) s

/-- The reserved lanes hold no piece of a core-task. -/
def State.finishLanes (s : State) (slot rank : Nat) : State :=
  State.drainSlices (fun v => v.lane.any (fun p => decide (p.slot = slot ∧ p.rank = rank))) (s.sliceLoad + 1) s

/-- What a wait becomes when its sequencer stops: a word that has been served, an atomic that has been
performed, a registered WAITA, a remote submission and the place of a spinning word are kept (R67, R222, R237,
R251, R365); every other wait begins anew on resume. -/
def Wait.saved (w : Wait) : Option Wait :=
  match w.kind with
  | .sem _ _ true | .atom (some _) | .waita .. | .remote .. | .spin _ | .quota | .submit .. => some w
  | _ => none

/-- Drain a core-task: stores, sends, slots, atomics, deferred results (R68, R214). -/
def State.drainCt (s : State) (slot rank : Nat) (slots : Bool) : State × List MissNote :=
  match s.ct? slot rank with
  | none => (s, [])
  | some c =>
    let (s1, m0) := State.drainStores (2 * c.posted.length + 1) 0 slot rank s
    let s2 := State.drainFlight (s1.drainBound c) slot rank s1
    let (s3, m1) := if slots then
        (match s2.ct? slot rank with
          | some c2 => s2.saveSlots slot rank (c2.slotsWhere (fun r => !r.flying))
          | none => (s2, []))
      else (s2, [])
    let b3 := match s3.ct? slot rank with
      | some c3 => s3.drainBound c3
      | none => 0
    let s4 := (State.drainFlight b3 slot rank s3).finishLanes slot rank
    let s5 := s4.finishAtoms slot rank
    let (s6, m2) := s5.saveAllTags slot rank allSeqs
    (s6.finishAtoms slot rank, m0 ++ m1 ++ m2)

/-! ### Accesses in a context by an agent without a stamp -/

/-- What such an access gives. -/
inductive VaRes (α : Type) where
  | ok (x : α)
  | trap (t : Trap)
  | miss (va : Word) (page : Nat) (host : Bool)

/-- Translate every page of a range with its key checked. -/
def State.vaParts (s : State) (ctx : Nat) (need : Need) (ps : List (Nat × Nat)) : VaRes (List (Xl × Nat × Nat)) :=
  ps.foldr (fun p acc =>
    let va : Word := BitVec.ofNat 64 p.1
    match s.translate ctx need va with
    | .trap t => .trap t
    | .miss pg h => .miss va pg h
    | .ok x =>
      if s.keyBad x.f x.key then .trap (keyTrap va)
      else match acc with
        | .ok es => .ok ((x, p.1, p.2) :: es)
        | r => r) (.ok [])

/-- Read bytes in a context, under some permissions. -/
def State.readAs (s : State) (ctx : Nat) (need : Need) (va : Word) (n : Nat) : VaRes (List Byte) :=
  match s.vaParts ctx need (rangeParts va.toNat n) with
  | .trap t => .trap t
  | .miss a pg h => .miss a pg h
  | .ok es => .ok (es.flatMap (fun e => s.readFinal e.1.f e.2.2))

/-- Read bytes in a context. -/
def State.readVa (s : State) (ctx : Nat) (va : Word) (n : Nat) : VaRes (List Byte) := s.readAs ctx Need.read va n

/-- A read of bytes in a context leaves its translations in the caches, counts as accesses of home slices (R268), and is
logged where it is dropped (R318). -/
def State.noteVa (s : State) (ctx : Nat) (need : Need) (va : Word) (n : Nat) : State :=
  match s.vaParts ctx need (rangeParts va.toNat n) with
  | .ok es => es.foldl (fun s e => (s.cache ctx (BitVec.ofNat 64 e.2.1) e.1 e.2.2).logHost e.1.f e.2.2) s
  | _ => s

/-- Write bytes in a context by an agent without a stamp, as a release when `rel` (R195). -/
def State.writeVa (s : State) (ctx : Nat) (va : Word) (bs : List Byte) (rel : Bool) : VaRes State :=
  match s.vaParts ctx Need.write (rangeParts va.toNat bs.length) with
  | .trap t => .trap t
  | .miss a pg h => .miss a pg h
  | .ok es =>
    .ok (es.foldl (fun s e =>
      (s.applyWrite e.1.f ((bs.drop (e.2.1 - va.toNat)).take e.2.2) e.1.keep none
        (if rel then some s.m.h else none)).cache ctx (BitVec.ofNat 64 e.2.1) e.1 e.2.2) s)

/-- Read a word of an image or a table: four bytes as a number. -/
def nat4 (bs : List Byte) (off : Nat) : Nat := leNat ((bs.drop off).take 4)

/-- Eight bytes as a word. -/
def word8 (bs : List Byte) (off : Nat) : Word := leWord ((bs.drop off).take 8)

end Sys2Proof.Machine
end

