-- ==== Sys2Proof/Machine/StreamBase.lean ====
section
/-! DEFINITION. What streams share with the Sorting Office: slack, checkpoints, event records, the close of a
step (R245 to R249), and the completions of the front end (R307). -/

namespace Sys2Proof.Machine

/-! ### Completions (R307) -/

/-- A completion for a hardware queue waits for its ring slot. -/
def State.complete (s : State) (q : Nat) (c : Completion) : State :=
  { s with queues := Tab.upd HostQueue.off s.queues q (fun h => { h with comps := h.comps ++ [c] }) }

/-! ### Streams -/

/-- A stream. -/
def State.stream? (s : State) (n : Nat) : Option Stream := find s.streams n

/-- Change a stream. -/
def State.updStream (s : State) (n : Nat) (f : Stream → Stream) : State :=
  match s.stream? n with
  | some st => { s with streams := Tab.put n (f st) s.streams }
  | none => s

/-- The step that is open (R245). -/
def Stream.step (st : Stream) : BitVec 32 := st.closed + 1

/-- The word of a rung (R242). -/
def Stream.rungWord (st : Stream) (k : Nat) : Word := st.sd.getD (8 + k) 0

/-- The tasks in flight that belong to a step. -/
def State.stepTasks (s : State) (n : Nat) (b : BitVec 32) : List (Nat × Task) :=
  s.tasks.filter (fun e => decide (e.2.stream = some n ∧ e.2.step = b))

/-- The frequency of an island's point in force (R246, R260): a held or a stopped clock keeps its point. -/
def Island.rate (i : Island) : Nat := { i with held := false, stop115 := false }.mhz

/-- The lowest of some frequencies. -/
def lowest : List Nat → Option Nat
  | [] => none
  | x :: xs => some (xs.foldl Nat.min x)

/-- The islands on which a gang of the step runs. -/
def State.stepIslands (s : State) (n : Nat) (b : BitVec 32) : List Island :=
  (s.stepTasks n b).flatMap (fun e =>
    if e.2.state = .running then e.2.cts.map (fun c => s.island c.2.core) else [])

/-- The frequency by which a step's slack is computed (R246). -/
def State.stepRate (s : State) (n : Nat) (b : BitVec 32) : Nat :=
  (lowest ((s.stepIslands n b).map Island.rate)).getD 700

/-- The cycles that a step's estimate leaves (R246). -/
def Stream.rem (st : Stream) : Nat := st.work - st.done / 1000

/-- The slack of the open step in ns (R246). -/
def State.slackOf (s : State) (n : Nat) (st : Stream) : Int :=
  (st.postmark.toNat : Int) - (s.dtime : Int) - (ceilDiv (st.rem * 1000) (s.stepRate n st.step) : Int)

/-- The slack that tasks of no open step read (R246). -/
def maxSlack : Int := 2 ^ 63 - 1

/-- The slack of a task, when it has a step (R72, R246). -/
def State.taskSlack (s : State) (t : Task) : Option Int :=
  match t.stream with
  | none => none
  | some n =>
    match s.stream? n with
    | some st => if st.isOpen ∧ st.step = t.step then some (s.slackOf n st) else some maxSlack
    | none => some maxSlack

/-! ### Event records (R249) -/

/-- Who makes an access outside every gang: the front end for a hardware queue, for a stream's events, for an encode
context's records, the Sorting Office for a job's fault queue, for a remote submission, for the DSPT of a service core. -/
inductive Plain where
  | queue (n : Nat)
  | stream (n : Nat)
  | enc (key : Nat)
  | job (j : Nat)
  | remote (base req : Nat)
  | service (core : Nat)
  deriving DecidableEq, Repr

/-- The number of an access's maker. -/
def Plain.num : Plain → Nat
  | .queue n => 8 * n
  | .stream n => 8 * n + 1
  | .enc k => 8 * k + 2
  | .job j => 8 * j + 3
  | .remote b r => 8 * Nat.pair b r + 4
  | .service c => 8 * c + 5

/-- The key of an access in the table of misses outside the gangs. -/
def Plain.key (p : Plain) (page : Nat) : Nat := p.num * 2 ^ 45 + page

/-- A miss outside every gang: the trap, or none when it waits for its page request; the third of an access on a page
raises PAGE (R179, R180). -/
def State.plainMiss (s : State) (p : Plain) (ctx : Nat) (va : Word) : Option Trap :=
  if s.prqEnabled ctx then
    if Tab.get false s.r.priStop (s.ctxFunc ctx) then some (trapAt .pageRefused va)
    else if 2 ≤ Tab.get 0 s.m.misses (p.key (va.toNat / 4096)) then some (pageTrap 0 va) else none
  else some (pageTrap 0 va)

/-- The page for which an access outside the gangs waits: its request is outstanding. -/
def State.plainWaits (s : State) (p : Plain) (ctx : Nat) : Option Nat :=
  (s.m.misses.find? (fun e => decide (e.1 / 2 ^ 45 = p.num) && s.requested ctx (e.1 % 2 ^ 45))).map (·.1 % 2 ^ 45)

/-- An access outside the gangs begins to wait for its page. -/
def State.plainWait (s : State) (p : Plain) (ctx page : Nat) (host : Bool) (need : Need) : State :=
  let s1 := s.requestPage ctx page host need
  { s1 with m := { s1.m with misses := Tab.upd 0 s1.m.misses (p.key page) (· + 1) } }

/-- An access outside the gangs has been made, or has failed: its misses are over. -/
def State.plainDone (s : State) (p : Plain) : State :=
  { s with m := { s.m with misses := s.m.misses.filter (fun e => decide (e.1 / 2 ^ 45 ≠ p.num)) } }

/-- The address of the record that a stream writes next, and of its event queue (R249). -/
def Stream.evq (st : Stream) : Word := (st.sd.getD 1 0) &&& (BitVec.ofNat 64 (2 ^ 57 - 1))

/-- See `evq`. -/
def Stream.eventVa (st : Stream) : Word := st.evq + BitVec.ofNat 64 (64 + 16 * (st.events % 64))

/-- The first event of a stream that waits is lost: the host receives the fault, and the interrupt (R249). -/
def State.loseEvent (s : State) (n : Nat) (t : Trap) : State :=
  match s.stream? n with
  | none => s
  | some st =>
    let s1 := ((s.plainDone (.stream n)).updStream n (fun st => { st with evs := st.evs.drop 1 })).complete st.queue
      { tag := st.tag, code := t.code.num, kind := 2, value := t.addr }
    { s1 with irqs := s1.irqs ++ [.stream n] }

/-- Write the records of a stream that wait, in order, until one misses; one that waits for a page is not tried again before
its request is answered. -/
def State.flushStream : Nat → Nat → State → State
  | 0, _, s => s
  | k + 1, n, s =>
    match s.stream? n with
    | none => s
    | some st =>
      match st.evs with
      | [] => s
      | (a, b) :: rest =>
        let missing (s : State) (va : Word) (pg : Nat) (h : Bool) : State :=
          match s.plainMiss (.stream n) st.ctx va with
          | some t => flushStream k n (s.loseEvent n t)
          | none => s.plainWait (.stream n) st.ctx pg h Need.write
        if (s.plainWaits (.stream n) st.ctx).isSome then s
        else match s.writeVa st.ctx st.eventVa (leBytes 8 a.toNat ++ leBytes 8 b.toNat) false with
        | .trap t => flushStream k n (s.loseEvent n t)
        | .miss va pg h => missing s va pg h
        | .ok s1 =>
          match s1.writeVa st.ctx st.evq (leBytes 8 (st.events + 1)) true with
          | .trap t => flushStream k n (s1.loseEvent n t)
          | .miss va pg h => missing s1 va pg h
          | .ok s2 =>
            let s3 := (s2.plainDone (.stream n)).updStream n (fun st => { st with evs := rest, events := st.events + 1 })
            flushStream k n { s3 with irqs := s3.irqs ++ [.stream n] }

/-- The records of a context's streams that wait for a page are written again when its request is answered; one whose page
is refused is lost (R180, R249). `waiting` are the streams whose event waits for that page. -/
def State.eventsAnswered (s : State) (page : Nat) (refused : Bool) (waiting : List Nat) : State :=
  waiting.foldl (fun s n =>
    match s.stream? n with
    | none => s
    | some st =>
      let va := if st.eventVa.toNat / 4096 = page then st.eventVa else st.evq
      State.flushStream st.evs.length n (if refused then s.loseEvent n (trapAt .pageRefused va) else s)) s

/-- The streams of a context whose event waits for a page. -/
def State.eventsWaiting (s : State) (ctx page : Nat) : List Nat :=
  (s.streams.filter (fun e => decide (e.2.ctx = ctx) && !e.2.evs.isEmpty &&
    decide (s.plainWaits (.stream e.1) ctx = some page))).map (·.1)

/-- The first word of an event record. -/
def eventWord (kind old new n source : Nat) (b : BitVec 32) : Word :=
  BitVec.ofNat 64 (kind * 2 ^ 60 + old * 2 ^ 57 + new * 2 ^ 54 + n * 2 ^ 48 + source * 2 ^ 46 + b.toNat)

/-- An interrupt of a stream: its record, and the host's interrupt (R249). -/
def State.streamEvent (s : State) (n kind old new source : Nat) (slack : Int) : State :=
  match s.stream? n with
  | none => s
  | some st =>
    let rec_ := (eventWord kind old new n source st.step, BitVec.ofInt 64 slack)
    let s1 := s.updStream n (fun st => { st with evs := st.evs ++ [rec_] })
    State.flushStream (st.evs.length + 1) n s1

/-! ### Checkpoints and the close of a step (R247, R248) -/

/-- DEADLINE-RISK of an open step, once (R247). -/
def State.deadlineRisk (s : State) (n source : Nat) : State :=
  match s.stream? n with
  | none => s
  | some st =>
    if st.isOpen ∧ ¬st.risk then
      let s1 := s.updStream n (fun st => { st with risk := true })
      s1.streamEvent n 1 st.stepRung st.stepRung source (s.slackOf n st)
    else s

/-- A checkpoint (R247). -/
def State.checkpoint (s : State) (n source : Nat) : State :=
  match s.stream? n with
  | none => s
  | some st => if st.isOpen ∧ s.slackOf n st < 0 then s.deadlineRisk n source else s

/-- The rung and the count of good steps after a close (R248). -/
def Stream.nextRung (st : Stream) (closeSlack : Int) : Nat × Nat :=
  let nrung := wordField st.sd 0 3 3
  let period := wordField st.sd 0 32 32
  if st.risk then (if st.rung < nrung then st.rung + 1 else st.rung, 0)
  else if closeSlack > (period : Int) / 4 then
    if st.good + 1 = 16 then (st.rung - 1, 0) else (st.rung, st.good + 1)
  else (st.rung, 0)

/-- The step closes when it has ended and none of its tasks is in flight (R248). -/
def State.tryClose (s : State) (n : Nat) : State :=
  match s.stream? n with
  | none => s
  | some st =>
    if st.isOpen ∧ st.ended ∧ (s.stepTasks n st.step).isEmpty then
      let cs : Int := (st.postmark.toNat : Int) - (s.dtime : Int)
      let (rung, good) := st.nextRung cs
      let s1 := if rung = st.rung then s else s.streamEvent n 2 st.rung rung 0 cs
      s1.updStream n (fun x => { x with rung := rung, good := good, closed := st.step, isOpen := false, ended := false })
    else s

end Sys2Proof.Machine
end

