-- ==== Sys2Proof/Machine/Deliver.lean ====
section
/-! DEFINITION. A link delivery at its destination core-task (R219, R348, R350). -/

namespace Sys2Proof.Machine

/-! ### Fields of a link word (R348) -/

/-- PRANK. -/
def linkPrank (w : Word) : Nat := fieldOf w 57 4
/-- QRANK. -/
def linkQrank (w : Word) : Nat := fieldOf w 53 4
/-- SEM. -/
def linkSem (w : Word) : Nat := fieldOf w 45 8
/-- BAR when BE is set. -/
def linkBar (w : Word) : Option Nat := if w.getLsbD 44 then some (fieldOf w 38 6) else none
/-- LEN. -/
def linkLen (w : Word) : Nat := fieldOf w 21 17
/-- DADDR. -/
def linkDaddr (w : Word) : Nat := fieldOf w 0 21

/-! ### Applying a delivery -/

/-- The bytes that a delivery leaves (R219, R350). -/
def LinkPacket.result (kind : Option AccFmt) (old new : List Byte) : List Byte :=
  match kind with
  | none => new
  | some .bf16 =>
    ((chunksOf 2 old.length old).zip (chunksOf 2 new.length new)).flatMap (fun p =>
      leBytes 2 (roundTo .bf16 .rne false ((valOf .bf16 (leNat p.1)).add .rne (valOf .bf16 (leNat p.2)))))
  | some f =>
    ((chunksOf 4 old.length old).zip (chunksOf 4 new.length new)).flatMap (fun p =>
      leBytes 4 (accAdd f (BitVec.ofNat 32 (leNat p.1)) (BitVec.ofNat 32 (leNat p.2))).toNat)

/-- A fault of a link word or of the link receive unit (kind 6) at a core-task: its C-sequencer stops at its next
word boundary. -/
def State.raiseLink (s : State) (slot rank kind : Nat) (t : Trap) (waddr : BitVec 32) : State :=
  s.updCt slot rank (fun c =>
    { c.setSeq .c { c.seqC with status := if c.seqC.status = .running then .faulted else c.seqC.status } with
      notes := c.notes ++ [t.note kind waddr s.dtime] })

/-- Apply a delivery to a core-task as one unit: data, barrier, semaphore (R350); the code of a fault that
goes to the sender. -/
def State.applyPacket (s : State) (slot rank : Nat) (p : LinkPacket) : State × Option Code :=
  match s.ct? slot rank with
  | none => (s, none)
  | some c =>
    let st := s.m.h + 1
    let c0 := { c with lkStamp := st }
    let a := linkDaddr p.word
    match c0.localWrite s.raceOn (agentId slot rank 6) st p.kind.isSome (granules a p.bytes.length) with
    | .inl t => ((s.putCt slot rank c0).raiseLink slot rank 6 t c0.seqC.pc, none)
    | .inr c1 =>
      let c2 := c1.writeLocal a (LinkPacket.result p.kind (c1.readLocal a p.bytes.length) p.bytes)
      let (c3, e1) : CoreTask × Option Code := match linkBar p.word with
        | none => (c2, none)
        | some n =>
          let c2' := { c2 with lkStamp := c2.lkStamp + 1 }
          (match c2'.changeBar n (-(p.bytes.length : Int)) (some c2'.lkStamp) with
            | some c' => (c', none)
            | none => (c2', some .barOverflow))
      let (c4, e2) : CoreTask × Option Code :=
        if linkSem p.word = 0 then (c3, none)
        else
          let c3' := { c3 with lkStamp := c3.lkStamp + 1 }
          (match c3'.signal (linkSem p.word) 1 c3'.lkStamp (Config.sameCycle s.tick) with
            | some c' => (c', none)
            | none => (c3', some .semOverflow))
      (s.putCt slot rank c4, match e1 with
        | some e => some e
        | none => e2)

/-- The task that an identifier names, when it is in flight (R231). -/
def State.byId (s : State) (id : BitVec 32) : Option (Nat × Task) :=
  match s.task? (id.toNat % 4096) with
  | some t => if t.id = id then some (id.toNat % 4096, t) else none
  | none => none

/-- A packet leaves the peer port; a device whose peer port is not trained is a group of one (R19), and sends none. -/
def State.sendPeer (s : State) (x : PeerPacket) : State :=
  if s.ports.peer then { s with ports := { s.ports with sent := s.ports.sent ++ [x] } } else s

/-- Tell the sender of a delivery of a fault (R350): its core-task here, or its device. -/
def State.tellSender (s : State) (d : Inside) (code : Code) : State :=
  match d.src with
  | some (id, rank, w) =>
    (match s.byId id with
      | some (slot, _) => s.raiseLink slot rank 0 (trapOf code) w
      | none => s)
  | none => s.sendPeer (.fault d.p code)

/-- Apply a delivery and tell its sender of what is the sender's. -/
def State.applyInside (s : State) (slot rank : Nat) (d : Inside) : State :=
  match s.applyPacket slot rank d.p with
  | (s1, none) => s1
  | (s1, some e) => s1.tellSender d e

/-! ### Process-group tables (R311) -/

/-- What a process-group table gives: its size minus 1 and the links of its ranks. -/
structure Pgt where
  size : Nat
  links : List Word
  deriving DecidableEq, Repr

/-- Read a process-group table in a context. -/
def State.readPgt (s : State) (ctx : Nat) (va : Word) : VaRes Pgt :=
  match s.readVa ctx va 8 with
  | .trap t => .trap t
  | .miss a pg h => .miss a pg h
  | .ok b0 =>
    let size := fieldOf (leWord b0) 0 4
    match s.readVa ctx (va + 64) (16 * (size + 1)) with
    | .trap t => .trap t
    | .miss a pg h => .miss a pg h
    | .ok bs => .ok { size := size, links := (List.range (size + 1)).map (fun r => word8 bs (16 * r)) }

/-- The ranks of a table at which a base stands. -/
def Pgt.ranksOf (p : Pgt) (base : Word) : List Nat := (List.range p.links.length).filter (fun r => decide (p.links[r]? = some base))

/-- The device's own rank in a table, when exactly one entry is its own. -/
def Pgt.own (p : Pgt) (base : Word) : Option Nat :=
  match p.ranksOf base with
  | [r] => some r
  | _ => none

end Sys2Proof.Machine
end

