-- ==== Sys2Proof/Machine/Operands.lean ====
section
/-! DEFINITION. Tile operands: shapes, sources, the ring, the queue pool, and the order of a vector word
(R80, R84 to R87, R93, R106 to R109, R112, R127, R154 to R156, R381). -/

namespace Sys2Proof

/-! ### Formats by code -/

/-- The format of a code (R120). -/
def Fmt.ofCode : Nat → Option Fmt
  | 0 => some .f32 | 1 => some .bf16 | 2 => some .f16 | 3 => some .e4m3 | 4 => some .e5m2
  | 5 => some .i32 | 6 => some .i8 | 7 => some .q4 | 8 => some .q4x | 9 => some .l16 | _ => none

/-- F32, BF16 or F16 (R155). -/
def Fmt.isFloat (f : Fmt) : Bool := f = .f32 || f = .bf16 || f = .f16

/-- I32, I8 or Q4 (R155). -/
def Fmt.isInt (f : Fmt) : Bool := f = .i32 || f = .i8 || f = .q4

/-- A format that may carry block scales (R111, R131, R142). -/
def Fmt.scalable (f : Fmt) : Bool := f = .q4 || f = .q4x || f = .e4m3 || f = .e5m2

/-- The queue that a source pops. -/
def VSrc.lq? : VSrc → List Nat
  | .lq q => [q.val]
  | _ => []

/-- The tile register that a source names. -/
def VSrc.tile? : VSrc → Option Nat
  | .tile t => some t.val
  | _ => none

end Sys2Proof

namespace Sys2Proof.Machine

/-! ### Tile shapes (R106 to R108) -/

/-- A tile's shape: rows, columns, format, pair, scale register. -/
structure Shape where
  rows : Nat
  cols : Nat
  fmt : Fmt
  pair : Bool
  scale : Option Nat
  deriving DecidableEq, Repr

/-- The descriptor at core-task start: shape(64, 32, F32). -/
def startTsd : Word := 0xFF002040

/-- The size of a tile in bytes (R107). -/
def tileBytes (f : Fmt) (rows cols : Nat) : Nat := rows * f.rowBytes cols

/-- The shape that a word stands for, on a register number, under R107. -/
def shapeOf (t : Nat) (v : Word) : Option Shape :=
  let sc := fieldN v 24 8
  match Fmt.ofCode (fieldN v 16 4) with
  | none => none
  | some f =>
    let rows := fieldN v 0 7
    let cols := fieldN v 8 7
    let pair := v.getLsbD 20
    if fieldN v 32 32 = 0 ∧ fieldN v 21 3 = 0 ∧ v.getLsbD 15 = false ∧ v.getLsbD 7 = false ∧
        1 ≤ rows ∧ rows ≤ 64 ∧ 1 ≤ cols ∧ cols ≤ 64 ∧ (sc = 255 ∨ (sc < 48 ∧ sc ≠ t)) ∧
        (pair → t % 2 = 0) ∧ tileBytes f rows cols ≤ (if pair then 16384 else 8192)
    then some { rows := rows, cols := cols, fmt := f, pair := pair, scale := if sc = 255 then none else some sc }
    else none
where
  /-- Bits of a word as a number. -/
  fieldN (v : Word) (lo n : Nat) : Nat := ((v >>> lo) &&& BitVec.ofNat 64 (2 ^ n - 1)).toNat

/-- TSDn (R106). -/
def CoreTask.tsdOf (c : CoreTask) (t : Nat) : Word := Tab.get startTsd c.tsd t

/-- The shape of a tile register. -/
def CoreTask.shape (c : CoreTask) (t : Nat) : Shape :=
  (shapeOf t (c.tsdOf t)).getD { rows := 64, cols := 32, fmt := .f32, pair := false, scale := none }

/-- The register is the second of a standing pair (R108). -/
def CoreTask.second (c : CoreTask) (t : Nat) : Bool :=
  decide (t % 2 = 1) && (c.tsdOf t).getLsbD 20

/-- Write a valid descriptor, with the pair rules of R108. -/
def CoreTask.setTsd (c : CoreTask) (t : Nat) (v : Word) : CoreTask :=
  let was := (c.tsdOf t).getLsbD 20
  let tsd := Tab.set startTsd c.tsd t v
  { c with tsd :=
      if v.getLsbD 20 then Tab.set startTsd tsd (t + 1) v
      else if was then Tab.set startTsd tsd (t + 1) startTsd
      else tsd }

/-- The registers of a tile: itself, its second, and its scale register when `sc` asks for it (R156). -/
def CoreTask.regSet (c : CoreTask) (t : Nat) (sc : Bool) : List Nat :=
  let s := c.shape t
  t :: ((if s.pair then [t + 1] else []) ++ (match s.scale with
    | some k => if sc then [k] else []
    | none => []))

/-! ### Elements in bytes (R108) -/

/-- The elements of a row, from its bytes. -/
def rowElems (f : Fmt) (cols : Nat) (bs : List Byte) : List Nat :=
  match f.nibbles with
  | 1 => (bs.flatMap (fun b => [b.toNat % 16, b.toNat / 16])).take cols
  | 2 => bs.map (·.toNat)
  | n => (chunksOf (n / 2) cols bs).map leNat

/-- Pair up nibbles, low first; a missing high nibble is 0. -/
def nibblesToBytes : List Nat → List Byte
  | [] => []
  | [a] => [BitVec.ofNat 8 a]
  | a :: b :: rest => BitVec.ofNat 8 (a + 16 * b) :: nibblesToBytes rest

/-- The bytes of a row of elements. -/
def rowToBytes (f : Fmt) (es : List Nat) : List Byte :=
  match f.nibbles with
  | 1 => nibblesToBytes es
  | n => es.flatMap (leBytes (n / 2))

/-- The rows of elements of a tile value. -/
def unpackTile (f : Fmt) (rows cols : Nat) (bs : List Byte) : List (List Nat) :=
  (chunksOf (f.rowBytes cols) rows bs).map (rowElems f cols)

/-- The bytes of rows of elements. -/
def packTile (f : Fmt) (rows : List (List Nat)) : List Byte := rows.flatMap (rowToBytes f)

/-! ### Values of a source -/

/-- The values of a Q4X row and whether its last slot is an escape (R127); `nb` marks an escape's neighbour. -/
def q4xRow (nb : Bool) : List Nat → List FVal × Bool
  | [] => ([], false)
  | v :: rest =>
    if nb then
      let (vs, e) := q4xRow false rest
      (.fin false 0 0 :: vs, e)
    else if v = 8 then
      match rest with
      | [] => ([.fin false 0 0], true)
      | u :: _ =>
        let (vs, e) := q4xRow true rest
        (valOf .e4m3 (u * 16 + 8) :: vs, e)
    else
      let (vs, e) := q4xRow false rest
      (FVal.ofInt (signedOf 4 v) :: vs, e)

/-- A source tile: shape, format, pair, its scale bytes when it is scaled, and its rows of patterns. -/
structure Tile where
  rows : Nat
  cols : Nat
  fmt : Fmt
  pair : Bool
  scales : Option (List Byte)
  elems : List (List Nat)
  deriving DecidableEq, Repr

/-- The tile in a register. -/
def CoreTask.tile (c : CoreTask) (t : Nat) : Tile :=
  let s := c.shape t
  { rows := s.rows, cols := s.cols, fmt := s.fmt, pair := s.pair,
    scales := s.scale.map (fun k => sliceN 0 c.tiles (tileBase k) s.rows),
    elems := unpackTile s.fmt s.rows s.cols (sliceN 0 c.tiles (tileBase t) (tileBytes s.fmt s.rows s.cols)) }

/-- The tile in a block. -/
def Block.tile (b : Block) : Tile :=
  { rows := b.rows, cols := b.cols, fmt := b.fmt, pair := decide (8192 < b.bytes.length), scales := b.scales,
    elems := unpackTile b.fmt b.rows b.cols b.bytes }

/-- A zero tile (R87). -/
def Tile.zero (rows cols : Nat) (f : Fmt) : Tile :=
  { rows := rows, cols := cols, fmt := f, pair := false, scales := none,
    elems := List.replicate rows (List.replicate cols 0) }

/-- The exact values of a tile under its block scales (R127, R130, R131), and whether a Q4X escape error
was met (R128). -/
def Tile.values (t : Tile) : List (List FVal) × Bool :=
  let scs : List (Option Int) := match t.scales with
    | some bs => bs.map (fun b => e8m0 b.toNat)
    | none => List.replicate t.rows (some 0)
  let rows := t.elems.map (fun r => if t.fmt = .q4x then q4xRow false r else (r.map (valOf t.fmt), false))
  ((rows.zip scs).map (fun (r, sc) => r.1.map (·.scaled sc)), rows.any (·.2))

/-! ### Fitting (R109) -/

/-- Repeat a single element up to `n`. -/
def spread {α : Type} (n : Nat) (l : List α) : List α :=
  match l with
  | [a] => List.replicate n a
  | _ => l

/-- Rows of a source fitted to a shape. -/
def fitRows {α : Type} (rows cols : Nat) (l : List (List α)) : List (List α) := (spread rows l).map (spread cols)

/-- A source fits a shape. -/
def Tile.fits (t : Tile) (rows cols : Nat) : Bool :=
  (decide (t.rows = rows) || decide (t.rows = 1)) && (decide (t.cols = cols) || decide (t.cols = 1))

/-- Join two matrices of elements. -/
def zipRows {α β γ : Type} (f : α → β → γ) (a : List (List α)) (b : List (List β)) : List (List γ) :=
  (a.zip b).map (fun p => (p.1.zip p.2).map (fun q => f q.1 q.2))

/-! ### The queue pool (R112) -/

/-- Chunks of a block. -/
def Block.chunks (b : Block) : Nat := ceilDiv (b.bytes.length + (b.scales.getD []).length) 256

/-- Chunks of a granted push that has not executed yet. -/
def CoreTask.granted (c : CoreTask) (q : Nat) : Nat :=
  (allSeqs.map (fun sq => match (c.seq sq).wait with
    | some { kind := .push q' n true, .. } => if q' = q then n else 0
    | _ => 0)).sum

/-- Chunks that queue `q` holds. -/
def CoreTask.used (c : CoreTask) (q : Nat) : Nat :=
  ((Tab.get [] c.queues q).map (·.chunks)).sum + c.granted q

/-- The bounds of a core's queue pool: QMINq and QCAPq of each queue (R113). They belong to the core and stay when its
core-task changes (log 55). -/
structure Pool where
  core : Nat
  mins : Tab Nat
  caps : Tab Nat
  deriving DecidableEq, Repr

/-- The pool of a core. -/
def State.pool (s : State) (core : Nat) : Pool := { core := core, mins := s.r.qmin, caps := s.r.qcap }

/-- QMINq. -/
def Pool.qmin (k : Pool) (q : Nat) : Nat := Tab.get 16 k.mins (k.core * 16 + q)

/-- QCAPq. -/
def Pool.qcap (k : Pool) (q : Nat) : Nat := Tab.get 128 k.caps (k.core * 16 + q)

/-- F of R112; it is negative while queues hold shared chunks that a raised QMINq reserves. -/
def CoreTask.poolFree (c : CoreTask) (k : Pool) : Int :=
  512 - (((List.range 12).map (fun q => Nat.max (c.used q) (k.qmin q))).sum : Int)

/-- The first condition of a push. -/
def CoreTask.underCap (c : CoreTask) (k : Pool) (q n : Nat) : Bool := decide (c.used q + n ≤ k.qcap q)

/-- The push needs shared chunks. -/
def CoreTask.needsShared (c : CoreTask) (k : Pool) (q n : Nat) : Bool := decide (k.qmin q - c.used q < n)

/-- An earlier waiting push that needs shared chunks and meets its first condition. -/
def CoreTask.ahead (c : CoreTask) (k : Pool) (self : SeqId) (ord : Nat) : Bool :=
  allSeqs.any (fun sq => decide (sq ≠ self) && (match (c.seq sq).wait with
    | some { kind := .push q n false, ord := o, .. } => decide (o < ord) && c.underCap k q n && c.needsShared k q n
    | _ => false))

/-- A push is admitted (R112). -/
def CoreTask.admits (c : CoreTask) (k : Pool) (self : SeqId) (ord q n : Nat) : Bool :=
  c.underCap k q n && decide ((n : Int) ≤ ((k.qmin q - c.used q : Nat) : Int) + c.poolFree k) &&
    (!c.needsShared k q n || !c.ahead k self ord)

/-- What a push finds: room, or the wait it enters. -/
inductive PushRes where
  | room | wait | never
  deriving DecidableEq, Repr

/-- Test a push of `n` chunks by sequencer `sq`; `fresh` is the arrival number of a new wait. -/
def CoreTask.testPush (c : CoreTask) (k : Pool) (sq : SeqId) (fresh q n : Nat) : PushRes :=
  let unadmitted : PushRes := if k.qcap q < n then .never else .wait
  match (c.seq sq).wait with
  | some { kind := .push q' n' g, ord := _, .. } => if q' = q ∧ n' = n ∧ g then .room else unadmitted
  | _ => if k.qcap q < n then .never else if c.admits k sq fresh q n then .room else .wait

/-- Append a block to a queue. -/
def CoreTask.pushBlock (c : CoreTask) (q : Nat) (b : Block) : CoreTask :=
  { c with queues := Tab.upd [] c.queues q (· ++ [b]) }

/-- Drop the head of a queue. -/
def CoreTask.popBlock (c : CoreTask) (q : Nat) : CoreTask :=
  { c with queues := Tab.upd [] c.queues q (·.drop 1) }

/-! ### Sources (R80, R85, R93) -/

/-- What a source gives: a tile, an unwritten ring depth, a wait, or EMPTY-READ. -/
inductive SrcRes where
  | tile (t : Tile)
  | unwritten
  | wait
  | emptyRead

/-- A source in a position; `strict` blocks on an empty source, `taken` the blocks that earlier positions
take from each queue, `sc` whether the group reads a scale register. -/
def CoreTask.source (c : CoreTask) (v : VSrc) (strict sc : Bool) (taken : List Nat) : SrcRes :=
  let absent := if strict then SrcRes.wait else .emptyRead
  match v with
  | .tile t => if (c.regSet t.val sc).any (fun r => Tab.get false c.empty r) then absent else .tile (c.tile t.val)
  | .lq q =>
    (match (Tab.get [] c.queues q.val)[taken.count q.val]? with
      | some b => .tile b.tile
      | none => absent)
  | .ring d =>
    (match c.ring[d.val]? with
      | some b => .tile b.tile
      | none => .unwritten)

/-! ### The vector word (R381) -/

/-- What source B of a word is: none, a tile source, or a scalar from a g register (R385). -/
inductive BSrc where
  | none
  | src (v : VSrc) (strict : Bool)
  | scalar (t : Tile)

/-- What a vector group fixes (R154, R155): current class; formats of the sources; whether A may be scaled;
the format the opcode names for A; the format of a zero tile that nothing else fixes; whether the sources
are fitted; whether a tile destination must have the result's shape; the result's shape from A's, and A's from a tile destination's; the result format on a
queue or the ring; the check of the result format and the destination's scale; whether a destination's
scale register is written; and the element computation, which also gives scale bytes and Q4X errors. -/
structure VPlan where
  cls : Nat
  okA : Fmt → Bool
  okB : Fmt → Bool := fun _ => true
  okC : Fmt → Bool := fun _ => true
  scaledA : Bool := false
  nameA : Option Fmt := none
  zeroFmt : Fmt
  fit : Bool := true
  exact : Bool := false
  resShape : Nat × Nat → Nat × Nat := id
  srcShape : Nat × Nat → Nat × Nat := id
  resFmt : Fmt → Fmt := id
  okRes : (a b c res : Fmt) → Bool
  okDst : Shape → Bool := fun _ => true
  scaledDst : Bool := false
  okA2 : Tile → Bool := fun _ => true
  run : (a b c : Tile) → (res : Fmt) → (rows cols : Nat) → (keep : List Byte) →
    List (List Nat) × Option (List Byte) × Bool

/-- The format of the zero tile that stands for source A, when the result format would be `res` (R87). -/
def VPlan.zeroA (p : VPlan) (res : Fmt) : Fmt :=
  match p.nameA with
  | some f => f
  | none => if p.okA res then res else p.zeroFmt

/-- The values that a word computes on: A, B and C, where an absent one stands as A. -/
structure VSources where
  a : Tile
  b : Tile
  c : Tile

/-- Read the sources in order (R381); an unwritten A is answered as none. -/
def CoreTask.sources (c : CoreTask) (w : VWord) (b : BSrc) (sc : Option VSrc) (scaledA : Bool) :
    Option Tile × Option Tile × Option Tile × Option SrcRes :=
  let ra := c.source w.a w.strictA scaledA []
  match ra with
  | .wait => (none, none, none, some .wait)
  | .emptyRead => (none, none, none, some .emptyRead)
  | _ =>
    let ta := match ra with
      | .tile t => some t
      | _ => none
    let rb := match b with
      | .none => SrcRes.unwritten
      | .src v st => c.source v st false w.a.lq?
      | .scalar t => .tile t
    match rb with
    | .wait => (none, none, none, some .wait)
    | .emptyRead => (none, none, none, some .emptyRead)
    | _ =>
      let tb := match rb with
        | .tile t => some t
        | _ => none
      let lqb := match b with
        | .src v _ => v.lq?
        | _ => []
      match sc with
      | none => (ta, tb, none, none)
      | some v =>
        match c.source v true false (w.a.lq? ++ lqb) with
        | .tile t => (ta, tb, some t, none)
        | _ => (none, none, none, some .wait)

/-- The result shape, format and pair of a word (R154, R87); none raises SHAPE. A reduction of a pair tile whose reduced
shape is the source's own keeps the pair bit (DESIGN CHOICE, log 58). -/
def CoreTask.resultOf (c : CoreTask) (w : VWord) (p : VPlan) (ta : Option Tile) (base : Option Tile) :
    Option (Nat × Nat × Fmt × Bool) :=
  match w.dst with
  | .tile t =>
    let s := c.shape t.val
    if c.second t.val then none else some (s.rows, s.cols, s.fmt, s.pair)
  | _ =>
    match ta with
    | some a =>
      let (r, k) := p.resShape (a.rows, a.cols)
      some (r, k, p.resFmt a.fmt, a.pair && decide ((r, k) = (a.rows, a.cols) ∨ (r, k) = (a.cols, a.rows)))
    | none =>
      match base with
      | some b => some (b.rows, b.cols, p.resFmt (p.zeroA b.fmt), false)
      | none => none

/-- Source A, or the zero tile that stands for an unwritten depth (R87). -/
def zeroSource (w : VWord) (p : VPlan) (ta base : Option Tile) (rows cols : Nat) (res : Fmt) : Tile :=
  match ta with
  | some a => a
  | none =>
    let (r, k) := match w.dst with
      | .tile _ => p.srcShape (rows, cols)
      | _ => (rows, cols)
    let res' := match w.dst, base with
      | .tile _, _ => res
      | _, some b => b.fmt
      | _, none => res
    Tile.zero r k (p.zeroA res')

/-- The tile that a source register may not be: the second of a standing pair (R108). -/
def CoreTask.secondSrc (c : CoreTask) (v : VSrc) : Bool :=
  match v with
  | .tile t => c.second t.val
  | _ => false

/-- The source's set of registers and the destination's meet without being equal (R156). -/
def overlapping (src dst : List Nat) : Bool :=
  src.any (dst.contains ·) && !(src.all (dst.contains ·) && dst.all (src.contains ·))

/-- The sources that are tile or queue operands, in order. -/
def operandSrcs (w : VWord) (b : BSrc) (sc : Option VSrc) : List VSrc :=
  w.a :: ((match b with | .src v _ => [v] | _ => []) ++ (match sc with | some v => [v] | none => []))

/-- The number of the queue of a store-queue tail. -/
def sqIndex (q : Fin 4) : Nat := 8 + q.val

/-- Enter a result at depth 1 of the ring (R84). -/
def CoreTask.ringPush (c : CoreTask) (b : Block) : CoreTask := { c with ring := (b :: c.ring).take 7 }

/-- The busy tags of the X-sequencer whose destination is one of some tiles. -/
def CoreTask.tileTags (c : CoreTask) (ts : List Nat) : List Nat :=
  (c.seq .x).tags.filterMap (fun e => match e.2.dest with
    | .tile d => if ts.contains d.val then some e.1 else none
    | _ => none)

/-- Every check and wait of R381 between the sources and the pops. -/
def CoreTask.vectorCheck (c : CoreTask) (k : Pool) (fresh : Nat) (w : VWord) (p : VPlan) (b : BSrc) (sc : Option VSrc)
    (x : VSources) (rows cols : Nat) (res : Fmt) (pair : Bool) (cDst : List Nat) : Option (Option Trap × Option WaitKind) :=
  let ringW := w.ring || decide (w.dst = .ring)
  let bytes := tileBytes res rows cols
  let scaledSrc := (x.a.scales.isSome && !p.scaledA) || x.b.scales.isSome && (match b with | .none => false | _ => true)
    || x.c.scales.isSome && sc.isSome
  let shapeBad :=
    (operandSrcs w b sc).any c.secondSrc ||
    !(match w.dst with
      | .tile t => p.okDst (c.shape t.val) && (!p.exact || decide (p.resShape (x.a.rows, x.a.cols) = (rows, cols)))
      | _ => true) ||
    !p.okA2 x.a ||
    (ringW && (pair || decide (8192 < bytes))) ||
    (p.fit && !(x.a.fits rows cols && x.b.fits rows cols && x.c.fits rows cols)) ||
    scaledSrc || !(p.okA x.a.fmt) ||
    (match b with | .none => false | _ => !p.okB x.b.fmt) || (sc.isSome && !p.okC x.c.fmt) ||
    !(p.okRes x.a.fmt x.b.fmt x.c.fmt res)
  let srcSets := (w.a.tile?.toList.map (c.regSet · p.scaledA)) ++
    (((operandSrcs w b sc).drop 1).filterMap (·.tile?)).map (c.regSet · false)
  if shapeBad then some (some (trapOf .shape), none)
  else if srcSets.any (overlapping · cDst) then some (some (trapOf .overlap), none)
  else if cDst.any c.tileBusy then some (none, some .plain)
  else if !c.landedAll .x (c.tileTags cDst) then some (none, some .plain)
  else
    match w.dst with
    | .sq q =>
      let n := ceilDiv (bytes + (if p.scaledDst then rows else 0)) 256
      (match c.testPush k .x fresh (sqIndex q) n with
        | .never => some (some (trapOf .shape), none)
        | .wait => some (none, some (.push (sqIndex q) n false))
        | .room => none)
    | _ => none

/-- Write a result: the tile with its scale bytes, the store queue, the ring (R84, R381), or the pending
result of a tag (R382). -/
def CoreTask.writeVector (c : CoreTask) (w : VWord) (p : VPlan) (cDst : List Nat) (blk : Block) : CoreTask :=
  let c1 := (c.settleAll .x (c.tileTags cDst)).1
  match w.dst with
  | .tile t =>
    (match w.alloc with
      | some tag => c1.allocTag .x tag { dest := .tile t, res := .tile blk, landed := false }
      | none =>
        let c2 := c1.writeTile t.val blk.bytes
        let c3 := match (if p.scaledDst then (c.shape t.val).scale else none), blk.scales with
          | some k, some bs => c2.writeTile k bs
          | _, _ => c2
        if w.ring then c3.ringPush { blk with scales := none } else c3)
  | .sq q => let c2 := c1.pushBlock (sqIndex q) blk
             if w.ring then c2.ringPush { blk with scales := none } else c2
  | .ring => c1.ringPush { blk with scales := none }

/-- A vector word after its tags (R381). -/
def vectorBody (w : VWord) (p : VPlan) (b : BSrc) (sc : Option VSrc) (keep : Bool) (s : State) (c : CoreTask) :
    Res CoreTask :=
  if c.pwrlvl < p.cls then .trap (trapOf .currentOver)
  else
    match c.sources w b sc p.scaledA with
    | (_, _, _, some .emptyRead) => .trap (trapOf .emptyRead)
    | (_, _, _, some _) => .wait c .plain
    | (ta, tb, tc, none) =>
      let base := match b with
        | .src _ _ => tb
        | _ => none
      match c.resultOf w p ta base with
      | none => .trap (trapOf .shape)
      | some (rows, cols, res, pair) =>
        let a := zeroSource w p ta base rows cols res
        let x : VSources := { a := a, b := tb.getD a, c := tc.getD a }
        let cDst := match w.dst with
          | .tile t => c.regSet t.val p.scaledDst
          | _ => []
        match c.vectorCheck (s.pool c.core) s.fresh w p b sc x rows cols res pair cDst with
        | some (some t, _) => .trap t
        | some (none, k) => .wait c (k.getD .plain)
        | none =>
          let kept := match w.dst with
            | .tile t => (match (c.shape t.val).scale with
                | some k => if keep then sliceN 0 c.tiles (tileBase k) rows else []
                | none => [])
            | _ => []
          let (es, scs, err) := p.run x.a x.b x.c res rows cols kept
          let blk : Block := { rows := rows, cols := cols, fmt := res, scales := scs, bytes := packTile res es }
          let c1 := ((operandSrcs w b sc).flatMap (·.lq?)).foldl (fun c q => c.popBlock q) c
          let c2 := { c1 with fmtErr := c1.fmtErr || err }
          .done (c2.writeVector w p cDst blk) none

/-- A vector word. -/
def runVector (w : VWord) (p : VPlan) (b : BSrc) (sc : Option VSrc) (keep : Bool) (s : State) :
    Host.Outcome State Fault Refusal :=
  runLocal { perm := [.x], cons := w.cons, alloc := w.alloc } (vectorBody w p b sc keep) s

end Sys2Proof.Machine
end

