-- ==== Sys2Proof/Machine/Gang.lean ====
section
/-! DEFINITION. The Sorting Office: images, placement and start of gangs (R53 to R55, R72, R73), the stop and
save of a gang (R67, R68, R279, R280), futures (R239), retirement (R65), kills (R287), jobs (R236). -/

namespace Sys2Proof.Machine

/-! ### Cores, partitions, ready lists -/

/-- PARTCFGp. -/
def State.partCfg (s : State) (p : Nat) : Word := Tab.get 0 s.r.partcfg p

/-- The cluster is enabled. -/
def State.clusterOn (s : State) (i : Nat) : Bool := !s.pw.clustersOff.getLsbD i

/-- The enabled cores of a partition, by physical number. -/
def State.partCores (s : State) (p : Nat) : List Nat :=
  (List.range 128).filter (fun c => (s.partCfg p).getLsbD (c / 4) && s.clusterOn (c / 4))

/-- The logical identifier of a physical core (R11). -/
def State.logicalOf (s : State) (core : Nat) : Nat := (find s.pw.logical core).getD core

/-- The cores that a task holds (R53). -/
def Task.cores (t : Task) : List Nat :=
  if t.state = .running then t.cts.map (fun e => e.2.core) else []

/-- The cores that running gangs hold. -/
def State.heldCores (s : State) : List Nat := s.tasks.flatMap (fun e => e.2.cores)

/-- The free cores of a partition that the Sorting Office may use, by logical identifier; `extra` counts as
free (R53, R270). -/
def State.freeCores (s : State) (p : Nat) (extra : List Nat) : List Nat :=
  let held := s.heldCores
  sortBy (fun a b => decide (s.logicalOf a ≤ s.logicalOf b))
    ((s.partCores p).filter (fun c =>
      (!held.contains c || extra.contains c) && decide ((s.island c).reading < 95 * 16)))

/-- How many cores the clusters of a list give, at most `k` clusters beside those of `used`. -/
def bestCount (used : List Nat) (k : Nat) (cores : List Nat) : Nat :=
  let inUsed := (cores.filter (fun c => used.contains (c / 4))).length
  let others := ((cores.map (· / 4)).eraseDups.filter (fun i => !used.contains i)).map (fun i =>
    (cores.filter (fun c => decide (c / 4 = i))).length)
  inUsed + ((sortBy (fun a b => decide (b ≤ a)) others).take k).sum

/-- The least list of `n` cores on at most `k` more clusters, taken from cores in rising logical order (R53). -/
def pickCores : List Nat → Nat → List Nat → Nat → List Nat
  | _, 0, _, _ => []
  | [], _ + 1, _, _ => []
  | c :: cs, n + 1, used, k =>
    let inUse := used.contains (c / 4)
    if inUse ∨ 0 < k then
      let used' := if inUse then used else (c / 4) :: used
      let k' := if inUse then k else k - 1
      if n ≤ bestCount used' k' cs then c :: pickCores cs n used' k' else pickCores cs (n + 1) used k
    else pickCores cs (n + 1) used k

/-- The choice of R53: `n` cores on the fewest clusters, the least such list of logical identifiers. -/
def chooseCores (cores : List Nat) (n : Nat) : Option (List Nat) :=
  match (List.range 33).find? (fun k => decide (n ≤ bestCount [] k cores)) with
  | some k => some (pickCores cores n [] k)
  | none => none

/-- The cores that a task would receive, rank by rank; `extra` counts as free. -/
def State.coresFor (s : State) (t : Task) (extra : List Nat) : Option (List Nat) :=
  match t.multi with
  | none => chooseCores (s.freeCores t.part extra) t.gang
  | some parts => parts.foldl (fun acc p =>
      match acc, chooseCores (s.freeCores p.1 extra) p.2 with
      | some l, some m => some (l ++ m)
      | _, _ => none) (some [])

/-- The task runs on cores of the partition. -/
def Task.inPart (t : Task) (p : Nat) : Bool :=
  match t.multi with
  | none => decide (t.part = p)
  | some parts => parts.any (fun x => decide (x.1 = p))

/-- The remaining franking quota of a context, when franking is enabled (R268). -/
def State.frankLeft (s : State) (ctx : Nat) : Option Int := find s.pw.frank ctx

/-- The partitions on whose cores a task runs. -/
def Task.parts (t : Task) : List Nat :=
  match t.multi with
  | none => [t.part]
  | some ps => ps.map (·.1)

/-- The migration of the VF that owns a partition. -/
def State.vfMig (s : State) (p : Nat) : VfMig := Tab.get VfMig.idle s.ports.vf (p + 1)

/-- A VF that migrates away has its partition frozen (R313). -/
def State.partFrozen (s : State) (p : Nat) : Bool := decide ((s.vfMig p).stage ≠ .idle)

/-- The host has taken the state of the VF that owns a partition: what the device does for it goes on at the destination
(R313, log 32). -/
def State.partGone (s : State) (p : Nat) : Bool := (s.vfMig p).exported

/-- The task stands in a ready list and may be placed: its franking quota is not used up (R50, R269), and no partition
of its is frozen (R313). -/
def State.placeable (s : State) (t : Task) : Bool :=
  (decide (t.state = .ready) || decide (t.state = .preempted)) && t.conds.isEmpty &&
    !t.parts.any s.partFrozen &&
    (match s.frankLeft t.ctx with
      | some q => decide (0 < q)
      | none => true)

/-- The order of R72: level, then a place at the head (R241), tasks with a step by slack, a gang that gave way by YIELD
behind every equal, in the order in which they did (R399), the round-robin of streams, the place in the list. -/
def State.readyKey (s : State) (t : Task) : List Int :=
  let level : Int := 63 - (t.prio : Int)
  let front : Int := if t.place = 0 then 0 else 1
  match s.taskSlack t, t.stream with
  | some sl, some n =>
    let turn := Tab.get 0 s.turns t.prio
    if t.place = t.accepted ∨ t.place = 0 then
      [level, front, 0, sl, 0, (((n + 64 - turn) % 64 : Nat) : Int), (t.place : Int), (t.accepted : Int)]
    else [level, front, 0, sl, 1, (t.place : Int)]
  | _, _ => [level, front, 1, (t.place : Int), (t.accepted : Int)]

/-- Lexicographic order. -/
def lexLe : List Int → List Int → Bool
  | [], _ => true
  | _ :: _, [] => false
  | a :: as, b :: bs => if a < b then true else if b < a then false else lexLe as bs

/-- The ready lists of a partition in the order of R72. R72 does not say whether the highest level is sought over the whole
device or in one partition; cores belong to partitions, so the order is a partition's, the agenda says which partition
places next, and the turn of a level is one for the device (log 65). -/
def State.readyList (s : State) (p : Nat) : List (Nat × Task) :=
  sortBy (fun a b => lexLe (s.readyKey a.2) (s.readyKey b.2))
    (s.tasks.filter (fun e => s.placeable e.2 && e.2.inPart p))

/-- The head of a level's list in a partition (R73). -/
def State.headOf (s : State) (p level : Nat) : Option Nat :=
  ((s.readyList p).find? (fun e => decide (e.2.prio = level))).map (·.1)

/-- The key of a level of a partition. -/
def levelKey (p level : Nat) : Nat := p * 64 + level

/-- A head that has waited its 50 µs keeps this task from being placed in its partition (R73). -/
def State.heldBack (s : State) (p slot : Nat) (t : Task) : Bool :=
  s.blocked.any (fun e => decide (e.1 / 64 = p ∧ t.prio ≤ e.1 % 64 ∧ e.2 ≠ slot + 1))

/-- The level that a restored core-task needs fits its island (R265, R267). -/
def State.levelsFit (s : State) (t : Task) (cores : List Nat) (extra : List Nat) : Bool :=
  let wanted := (List.range cores.length).map (fun r => (cores.getD r 0, match t.ct? r with
    | some c => c.pwrlvl
    | none => 1))
  let running := (s.tasks.filter (fun e => decide (e.2.state = .running))).flatMap (fun e =>
    (e.2.cts.map (fun c => (c.2.core, c.2.pwrlvl))).filter (fun x => !extra.contains x.1))
  (cores.map (· / 4)).eraseDups.all (fun i =>
    let levels : List Nat := (List.range 4).map (fun j =>
      match (wanted ++ running).find? (fun x => decide (x.1 = 4 * i + j)) with
      | some x => Nat.max (x.2 + 1) 2
      | none => 2)
    decide (levels.sum ≤ 24))

/-- The free frames of poste restante: a gang that runs or stands saved keeps one for each core-task (R282). -/
def State.framesFree (s : State) : Nat := s.pw.frames - (s.tasks.map (fun e => e.2.cts.length)).sum

/-- The size of a context frame in KiB, and the largest sizes of its parts in bytes (R283). -/
def frameKiB : Nat := 2700

/-- See `frameKiB`: sequencer and other state, tiles, accumulators, operand ring, queue pool, metadata queues, landed tile
results, scratchpad, residual slots. -/
def frameParts : List Nat :=
  [8 * 1024, 384 * 1024, 260 * 1024, 56 * 1024, 128 * 1024, 64 * 1024, 128 * 1024, 1536 * 1024, 8 * 16448]

/-- The cores on which a task can be placed now: no head of any of its partitions holds it back (R73), and one that starts
needs a free frame for each core (R282). -/
def State.canPlace (s : State) (slot : Nat) (t : Task) (extra : List Nat) : Option (List Nat) :=
  if t.parts.any (fun p => s.heldBack p slot t) then none
  else match s.coresFor t extra with
    | some cs => if s.levelsFit t cs extra ∧ (t.saved ∨ cs.length ≤ s.framesFree) then some cs else none
    | none => none

/-- The task that R72 and R73 place next in a partition, and its cores. -/
def State.nextPlaced (s : State) (p : Nat) (extra : List Nat) : Option (Nat × Task × List Nat) :=
  (s.readyList p).findSome? (fun e => (s.canPlace e.1 e.2 extra).map (fun cs => (e.1, e.2, cs)))

/-- Islands whose cores hold no core-task run at OP0, gated (R261). -/
def State.gateIslands (s : State) : State :=
  let used := s.heldCores.map (· / 4)
  let gated := s.pw.islands.foldl (fun t e =>
      if used.contains e.1 then t
      else Tab.set Island.reset t e.1 { e.2 with point := 0, change := none, held := false, lowTicks := 0 }) s.pw.islands
  { s with pw := { s.pw with islands := gated } }

/-! ### Images (R44, R45, R54) -/

/-- What reading an image gives. -/
inductive ImageRes where
  | ok (i : Image) (gang : Nat) (modes : List Nat)
  | bad
  | miss (va : Word) (page : Nat) (host : Bool)

/-- `count` records of `size` bytes from offset `off` of an image. -/
def records (bs : List Byte) (off size count : Nat) : List (List Byte) :=
  (List.range count).map (fun i => (bs.drop (off + size * i)).take size)

/-- A record's bytes lie inside a region. -/
def inside (off len lo n : Nat) : Bool := decide (lo ≤ off) && decide (off + len ≤ lo + n)

/-- One past the furthest byte of the regions that a header names (R45). -/
def imageEnd (h : List Byte) : Nat :=
  [nat4 h 0x30 + nat4 h 0x34, nat4 h 0x38 + 16 * nat4 h 0x3C, nat4 h 0x40 + 24 * nat4 h 0x44,
   nat4 h 0x48 + 8 * nat4 h 0x4C, nat4 h 0x50 + 32 * nat4 h 0x54, nat4 h 0x58 + 16 * nat4 h 0x5C,
   nat4 h 0x60 + nat4 h 0x64, nat4 h 0x6C + nat4 h 0x70, 128].foldl Nat.max 0

/-- The sections of a header. -/
def headerSections (h : List Byte) : List (Nat × Nat) :=
  (List.range 4).map (fun k => (nat4 h (0x10 + 8 * k), nat4 h (0x14 + 8 * k)))

/-- The image that a header and the image's bytes describe; none when they break R44 or R45. A data block that passes the
end of the scratchpad, and a tile record with a register above 47 or a shape word that R107 calls invalid, could not be
loaded; neither rule names them, and the model refuses them with the rest (log 65). -/
def parseImage (h bs : List Byte) : Option (Image × Nat × List Nat) :=
  let secs := headerSections h
  let codeOff := nat4 h 0x30
  let codeSize := nat4 h 0x34
  let elo := nat4 h 0x6C
  let en := nat4 h 0x70
  let blocks := records bs (nat4 h 0x38) 16 (nat4 h 0x3C)
  let tiles := records bs (nat4 h 0x40) 24 (nat4 h 0x44)
  let ranges := records bs (nat4 h 0x48) 8 (nat4 h 0x4C)
  let words := (secs.map (·.2)).sum
  let okHead := decide (h.take 4 = [0x56, 0x4F, 0x49, 0x4D]) && decide (leNat ((h.drop 4).take 2) = 1)
  let okCode := decide (codeSize = 10 * words) &&
    secs.all (fun x => decide (x.1 + x.2 ≤ words) || decide (x.2 = 0))
  let okBlocks := blocks.all (fun r => inside (nat4 r 8) (nat4 r 4) elo en && decide (nat4 r 0 + nat4 r 4 ≤ scratchTop))
  let okTiles := tiles.all (fun r => inside (nat4 r 12) (nat4 r 16) elo en && decide ((r.headD 0).toNat < 48) &&
    (shapeOf (r.headD 0).toNat (word8 r 4)).isSome)
  let okRanges := decide (nat4 h 0x4C = (h.getD 9 0).toNat)
  let named := (records bs (nat4 h 0x50) 32 (nat4 h 0x54)).filter (fun r => decide ((r.headD 0).toNat ≠ 4))
  let strings := nat4 h 0x68 :: (ranges.map (fun r => nat4 r 0) ++ named.map (fun r => nat4 r 4) ++
    (records bs (nat4 h 0x58) 16 (nat4 h 0x5C)).map (fun r => nat4 r 0))
  let okStrings := strings.all (fun x => decide (x < imageEnd h))
  if okHead && okCode && okBlocks && okTiles && okRanges && okStrings then
    let bytesAt (off n : Nat) : List Byte := (bs.drop off).take n
    let code : Tab Word80 := (List.range words).map (fun w =>
      (w, BitVec.ofNat 80 (leNat (bytesAt (codeOff + 10 * w) 10))))
    some ({ entry := BitVec.ofNat 32 (nat4 h 0x0C), sections := secs, code := code,
            blocks := blocks.map (fun r => (nat4 r 0, bytesAt (nat4 r 8) (nat4 r 4))),
            tiles := tiles.map (fun r => ((r.headD 0).toNat, word8 r 4, bytesAt (nat4 r 12) (nat4 r 16))),
            codeOff := codeOff }, (h.getD 8 0).toNat, ranges.map (fun r => (r.getD 4 0).toNat))
  else none

/-- Read an image in a context (R54, R230). -/
def State.readImage (s : State) (ctx : Nat) (va : Word) : ImageRes :=
  match s.readVa ctx va 128 with
  | .trap _ => .bad
  | .miss a pg h => .miss a pg h
  | .ok hd =>
    if imageEnd hd ≤ 2 ^ 32 then
      match s.readVa ctx va (imageEnd hd) with
      | .trap _ => .bad
      | .miss a pg h => .miss a pg h
      | .ok bs =>
        match parseImage hd bs with
        | some (i, g, ms) => .ok i g ms
        | none => .bad
    else .bad

/-- The IMAGE address of a descriptor. -/
def Task.imageVa (t : Task) : Word := (t.td.getD 0 0) &&& BitVec.ofNat 64 (2 ^ 57 - 1)

/-- The image as it is loaded at the start on some cores: the data blocks and tiles that stand preloaded on these cores
(R241), or that stand in memory now (R54). R54 does not say what a start does when the image cannot be read then: it
loads the blocks and tiles of the submission's snapshot; entry and sections are the snapshot's always (log 65). -/
def State.loadedImage (s : State) (t : Task) (cores : List Nat) : Image :=
  match t.preload with
  | some p => if p.cores = cores then { t.image with blocks := p.image.blocks, tiles := p.image.tiles } else now
  | none => now
where
  /-- What memory gives. -/
  now : Image :=
    match s.readImage t.ctx t.imageVa with
    | .ok i _ _ => { t.image with blocks := i.blocks, tiles := i.tiles }
    | _ => t.image

/-- A read of an image is accesses of its context (R268, R318). -/
def State.noteImage (s : State) (ctx : Nat) (va : Word) : State :=
  match s.readVa ctx va 128 with
  | .ok hd => if imageEnd hd ≤ 2 ^ 32 then (s.noteVa ctx Need.read va 128).noteVa ctx Need.read va (imageEnd hd) else s.noteVa ctx Need.read va 128
  | _ => s

/-- A read of a process-group table is accesses of its context (R268, R318). -/
def State.notePgt (s : State) (ctx : Nat) (va : Word) : State :=
  if va = 0 then s
  else match s.readPgt ctx va with
    | .ok g => (s.noteVa ctx Need.read va 8).noteVa ctx Need.read (va + 64) (16 * (g.size + 1))
    | _ => s

/-! ### Fetch (R59, R77) -/

/-- The code word at a word address: the snapshot's or the one in memory now, either of the two (R77). Where memory cannot be
read now (a miss, PERM, a key that differs), it is the snapshot's (log 10). -/
def State.codeWord (s : State) (t : Task) (w : Nat) : Word80 :=
  let old := Tab.get 0 t.image.code w
  match s.readVa t.ctx (t.imageVa + BitVec.ofNat 64 (t.image.codeOff + 10 * w)) 10 with
  | .ok bs =>
    let new : Word80 := BitVec.ofNat 80 (leNat bs)
    if new = old then old else if Config.staleCode s.tick then old else new
  | _ => old

/-- The section of a sequencer holds a word address (R59). -/
def Image.holds (i : Image) (q : SeqId) (w : Nat) : Bool :=
  match i.sections[seqNum q]? with
  | some (first, n) => decide (first ≤ w) && decide (w < first + n)
  | _ => false

/-! ### Start of a gang (R54, R55, R195) -/

/-- BASE, LEN of range `i` of a descriptor. -/
def Task.range (t : Task) (i : Nat) : Option (Word × Word × Bool) :=
  if i < wordField t.td 1 20 3 then
    some ((t.td.getD (8 + 2 * i) 0) &&& BitVec.ofNat 64 (2 ^ 57 - 1),
      (t.td.getD (9 + 2 * i) 0) &&& BitVec.ofNat 64 (2 ^ 40 - 1), (t.td.getD (9 + 2 * i) 0).getLsbD 63)
  else none

/-- The C-sequencer's registers at the start (R55). -/
def Task.startRegs (t : Task) : Tab Word :=
  let base (i : Nat) : Word := ((t.range i).map (·.1)).getD 0
  let len (i : Nat) : Word := ((t.range i).map (·.2.1)).getD 0
  let vals := (List.range 4).map (fun i => (i + 1, base i)) ++ (List.range 4).map (fun i => (i + 5, len i)) ++
    [(9, (t.td.getD 4 0) &&& BitVec.ofNat 64 (2 ^ 57 - 1))]
  vals.foldl (fun g e => Tab.set 0 g e.1 e.2) []

/-- A core-task at its start on a core, at the gang's common stamp (R54, R55, R104, R195). -/
def Task.startCt (t : Task) (i : Image) (core : Nat) (st : Stamp) : CoreTask :=
  let idle : Seq := { Seq.idle with stamp := st }
  let c0 : CoreTask := { CoreTask.fresh core with
    seqC := { idle with status := .running, pc := i.entry, g := t.startRegs },
    seqL := idle, seqX := idle, seqS := idle, mxStamp := st, cpStamp := st, lkStamp := st, floor := st }
  let c1 := i.blocks.foldl (fun c b => c.writeLocal b.1 b.2) c0
  i.tiles.foldl (fun c x => (c.setTsd x.1 x.2.1).writeTile x.1 x.2.2) c1

/-- A sequencer restored with its stamp (R195). -/
def Seq.restored (q : Seq) (low : Stamp) (now : Nat) : Seq :=
  { q with stamp := stMax q.stamp low, wait := q.wait.map (fun w => { w with since := now }) }

/-- A core-task restored on a core (R69, R195). -/
def CoreTask.restored (c : CoreTask) (core : Nat) (h : Stamp) (now : Nat) : CoreTask :=
  let low := h - 0x40000000
  { c with core := core, recorded := false, seqC := c.seqC.restored low now, seqL := c.seqL.restored low now,
           seqX := c.seqX.restored low now, seqS := c.seqS.restored low now, mxStamp := stMax c.mxStamp low,
           cpStamp := stMax c.cpStamp low, lkStamp := stMax c.lkStamp low, floor := stMax c.floor low,
           flight := c.flight.map (fun p => { p with core := core }) }

/-- The deliveries held for a task that starts, each since it matched that task, are applied in arrival order (R350). -/
def State.applyHeld (s : State) (slot : Nat) (id : BitVec 32) : State :=
  let s1 := { s with ports := { s.ports with held := s.ports.held.filter (fun d => decide (d.1 ≠ id)) } }
  (s.ports.held.filter (fun d => decide (d.1 = id))).foldl (fun s d => s.applyInside slot (linkQrank d.2.p.word) d.2) s1

/-- The rank of a task's gang to which a delivery goes, when its process-group table matches (R350). -/
def State.routes (s : State) (t : Task) (p : LinkPacket) : Option Nat :=
  let va := (t.td.getD 4 0) &&& BitVec.ofNat 64 (2 ^ 57 - 1)
  if va = 0 then none
  else match s.readPgt t.ctx va with
    | .ok g =>
      if g.links[p.sender]? = some (BitVec.ofNat 64 p.senderBase) ∧ g.own s.ports.base = some (linkPrank p.word)
      then some (linkQrank p.word) else none
    | _ => none

/-- The turn of a level moves past the stream of a task that is placed (R72). -/
def State.turnAfter (s : State) (t : Task) : State :=
  match t.stream with
  | some n => { s with turns := Tab.set 0 s.turns t.prio ((n + 1) % 64) }
  | none => s

/-- The heads of the lists: partition, level, slot. -/
def State.heads (s : State) : List (Nat × Nat × Nat) :=
  let levels := ((s.tasks.filter (fun e => s.placeable e.2)).map (fun e => e.2.prio)).eraseDups
  (List.range 8).flatMap (fun p => levels.filterMap (fun l => (s.headOf p l).map (fun sl => (p, l, sl))))

/-- The partitions in whose list a task is the head, with the moments at which it became so. -/
def Task.headMarks (t : Task) (slot now : Nat) (heads : List (Nat × Nat × Nat)) : Tab Nat :=
  (heads.filter (fun h => decide (h.2.2 = slot))).map (fun h => (h.1, (find t.headSince h.1).getD now))

/-- Each head of a level's list in a partition counts its wait from the moment it became the head; a task that is no head
counts none. One that has waited its 50 µs holds its level and those below (R73). -/
def State.markHeads (s : State) : State :=
  let heads := s.heads
  let tasks := s.tasks.map (fun e => (e.1, { e.2 with headSince := e.2.headMarks e.1 s.dtime heads }))
  let waited (h : Nat × Nat × Nat) : Bool :=
    ((find tasks h.2.2).bind (fun t => find t.headSince h.1)).any (fun t => decide (t + 50000 ≤ s.dtime))
  { s with
    tasks := tasks,
    blocked := (heads.filter waited).foldl (fun b h => Tab.put (levelKey h.1 h.2.1) (h.2.2 + 1) b) s.blocked }

/-- Start or restore a task on cores, rank by rank (R53, R54, R69). A restore counts as a start where R71 asks which gang was
most recently started; the rule does not say (log 65). -/
def State.place (s : State) (slot : Nat) (t : Task) (cores : List Nat) : State :=
  let ranks := List.range cores.length
  let s0 := { (s.markHeads.turnAfter t) with blocked := s.blocked.filter (fun e => decide (e.2 ≠ slot + 1)) }
  if t.saved then
    let cts := t.cts.map (fun e => (e.1, e.2.restored (cores.getD e.1 0) s.m.h s.dtime))
    s0.setTask slot { t with state := .running, cts := cts, saved := false, started := s.fresh, headSince := [],
                             preload := none, place := t.accepted } |> fun s => { s with fresh := s.fresh + 1 }
  else
    let st := s.m.h + 1
    let img := s.loadedImage t cores
    let t1 := { t with state := .running, image := img, gbarSt := st, started := s.fresh, headSince := [], preload := none,
                       place := t.accepted, cts := ranks.map (fun r => (r, t.startCt img (cores.getD r 0) st)) }
    let s1 := { (s0.noteImage t.ctx t.imageVa).setTask slot t1 with fresh := s.fresh + 1 }
    { s1 with m := { s1.m with h := st } }.applyHeld slot t.id

/-! ### The end of a wait -/

/-- One decrement of a task's dependence counter (R234). -/
def State.decrement (s : State) (slot : Nat) : State :=
  s.updTask slot (fun t =>
    let n := t.counter - 1
    { t with counter := n, state := if n = 0 ∧ t.state = .submitted then .ready else t.state })

/-- A condition of a parked gang no longer stands. -/
def State.dropCond (s : State) (slot : Nat) (f : ParkCond → Bool) : State :=
  s.updTask slot (fun t => { t with conds := t.conds.filter (fun c => !f c) })

/-- A parked gang whose conditions are all met returns to READY (R69). -/
def State.unpark (s : State) (slot : Nat) : State :=
  s.updTask slot (fun t => if t.state = .parked ∧ t.conds.isEmpty then { t with state := .ready } else t)

/-! ### Futures (R238, R239) -/

/-- STATE of a state word. -/
def futState (w : Word) : Nat := fieldOf w 0 2

/-- The state word is malformed (R238). -/
def futBad (w : Word) : Bool :=
  decide (futState w = 3) || decide (fieldOf w 2 14 ≠ 0) || decide (fieldOf w 32 32 ≠ 0)

/-- WAITERS set to `n`, STATE to `st`. -/
def futWord (w : Word) (n st : Nat) : Word :=
  (w &&& ~~~(0xFFFF0003 : Word)) ||| BitVec.ofNat 64 (n * 65536 + st)

/-- WAITERS. -/
def futWaiters (w : Word) : Nat := fieldOf w 16 16

/-- The state word at a DPA. -/
def State.futAt (s : State) (a : Nat) : Word := leWord (s.readFinal { host := false, a := a } 8)

/-- Take a waiter entry (R239): an atomic access by a checked agent or by the Sorting Office. -/
def State.registerAt (s : State) (f : FAddr) (keep : Bool) (by_ : Writer) (w : FutWaiter) : State :=
  let v := s.futAt f.a
  let s1 := s.applyWrite f (leBytes 8 (futWord v (futWaiters v + 1) 1).toNat) keep by_ none
  { s1 with m := { s1.m with futures := s1.m.futures ++ [w] } }

/-- Resolve a future that is not RESOLVED, and wake its entries (R239). -/
def State.resolveAt (s : State) (f : FAddr) (keep : Bool) (by_ : Writer) (v : Word) (rel : Stamp) : State :=
  let w := s.futAt f.a
  let s1 := s.applyWrite f (leBytes 8 (futWord w 0 2).toNat ++ leBytes 8 v.toNat) keep by_ (some rel)
  let mine := s1.m.futures.filter (fun e => decide (e.addr = f.a))
  let s2 := { s1 with m := { s1.m with futures := s1.m.futures.filter (fun e => decide (e.addr ≠ f.a)) } }
  mine.foldl (fun s e => match e.rank with
    | some r => s.dropCond e.slot (fun c => decide (c = .future r))
    | none => s.decrement e.slot) s2

/-- Free the entries of a killed task or gang; each is one access of the future by no agent (R239). -/
def State.freeFutures (s : State) (f : FutWaiter → Bool) : State :=
  let gone := s.m.futures.filter f
  let s1 := { s with m := { s.m with futures := s.m.futures.filter (fun e => !f e) } }
  gone.foldl (fun s e =>
    let w := s.futAt e.addr
    let n := futWaiters w - 1
    let st := if futState w ≠ 2 ∧ n = 0 then 0 else futState w
    let fa : FAddr := { host := false, a := e.addr }
    let bs := leBytes 8 (futWord w n st).toNat
    (s.writeFinal fa bs).testPigeons fa 8) s1

/-! ### Jobs (R236) and fault records (R284) -/

/-- The number of an agent in the order of R280: C, L, X, S, matrix engine, copy engine. -/
def FaultNote.rankOf (n : FaultNote) : Nat :=
  if n.code = .energyOut ∨ n.code = .budgetOver then 16 else n.kind

/-- The primary fault of a stop (R280): the earliest, then by agent. -/
def primaryOf : List FaultNote → Option FaultNote
  | [] => none
  | n :: ns => some (ns.foldl (fun a b =>
      if b.time < a.time ∨ (b.time = a.time ∧ b.rankOf < a.rankOf) then b else a) n)

/-- The words of a fault record (R284). -/
def faultWords (id : BitVec 32) (rank : Nat) (primary : Bool) (n : FaultNote) : List Word :=
  [ BitVec.ofNat 64 (n.code.num * 2 ^ 56 + n.kind * 2 ^ 52 + rank * 2 ^ 48 + (if primary then 2 ^ 47 else 0) +
      (if n.deferred then 2 ^ 46 else 0) + n.cause.toNat * 2 ^ 44 + n.waddr.toNat),
    id.setWidth 64,
    n.addr,
    BitVec.ofNat 64 (n.opc.toNat * 2 ^ 55 + n.detail.toNat),
    BitVec.ofNat 64 (n.oagent.toNat * 2 ^ 32 + n.ostamp.toNat),
    BitVec.ofNat 64 (n.agent.toNat * 2 ^ 32 + n.stamp.toNat),
    BitVec.ofNat 64 n.time,
    0 ]

/-- FAULTREC after a record, its FMTERR bit apart (R285). -/
def faultRecOf (n : FaultNote) : Word :=
  let engine := decide (n.kind = 4 ∨ n.kind = 5)
  BitVec.ofNat 64 (n.code.num * 2 ^ 40 + (if engine then 2 ^ 37 else if n.kind < 4 then n.kind * 2 ^ 38 else 0) +
    (if n.deferred then 2 ^ 36 else 0) + n.cause.toNat * 2 ^ 32 + n.waddr.toNat)

/-- Change a job. -/
def State.updJob (s : State) (j : Nat) (f : Job → Job) : State :=
  match find s.jobs j with
  | some x => { s with jobs := Tab.put j (f x) s.jobs }
  | none => s

/-- A record of a job waits for its place (R284). -/
def State.postRecord (s : State) (j : Nat) (r : WaitRec) : State := s.updJob j (fun x => { x with waiting := x.waiting ++ [r] })

/-- A job leaves when it is complete, none of its records waits, and no task of it is in flight. -/
def State.dropJob (s : State) (j : Nat) : State :=
  match find s.jobs j with
  | some x =>
    if x.count = 0 ∧ x.waiting.isEmpty ∧ s.tasks.all (fun e => decide (e.2.job ≠ j)) then { s with jobs := Tab.del j s.jobs }
    else s
  | none => s

/-- One more outstanding in the job of a task that submits (R236). The job of a remote submission counts that one task
alone (R237). -/
def State.jobMore (s : State) (j : Nat) : State :=
  s.updJob j (fun x => if x.remote.isSome then x else { x with count := x.count + 1 })

/-- One less outstanding in a job (R236, R237, R307); `own` says that it is the task for which the job was made. -/
def State.jobLess (s : State) (j : Nat) (own : Bool) : State :=
  match find s.jobs j with
  | none => s
  | some x =>
    if x.remote.isSome ∧ ¬own then s.dropJob j
    else
    let s1 := s.updJob j (fun x => { x with count := x.count - 1 })
    if x.count = 1 then
      let s2 := match x.queue with
        | some q => s1.complete q { tag := x.tag, code := 0, kind := 1, value := BitVec.ofNat 64 j }
        | none => s1
      let s3 := match x.remote with
        | some (link, req) => s2.sendPeer (.answer link req .retired)
        | none => s2
      s3.dropJob j
    else s1

/-! ### The stop of a gang (R67, R68, R279) -/

/-- A sequencer after its stop: it runs again on resume; a word that stopped for TRAP counts as completed
when its record is delivered (R287, R377). -/
def Seq.stopped (q : Seq) (trapped : Bool) : Seq :=
  let q1 := { q with wait := q.wait.bind Wait.saved,
                     status := if q.status = .faulted then .running else q.status }
  if trapped then q1.advance else q1

/-- A deferred load that has not landed holds no translation after a stop (R183). -/
def Seq.unbound (q : Seq) : Seq :=
  { q with tags := q.tags.map (fun e => (e.1, match e.2.landed, e.2.res with
      | false, .ldg va sz w st _ => { e.2 with res := .ldg va sz w st none }
      | _, _ => e.2)) }

/-- A queue's head after its stop: a wait begins anew on resume, one that has been served is kept. -/
def HeadWait.saved : HeadWait → HeadWait
  | .waiting _ => .none
  | h => h

/-- A core-task after its stop (R279, R280, R285): FAULTREC, no notes, sequencers and engines ready to go on. What it left
undone holds no translation (R183), and a residual slot that it keeps is to be delivered again (R281). -/
def CoreTask.stopped (c : CoreTask) : CoreTask :=
  let p := primaryOf c.notes
  let trapped (q : SeqId) : Bool := match p with
    | some n => decide (n.code = .trap ∧ n.kind = seqNum q)
    | none => false
  { c with
    faultRec := match p with
      | some n => faultRecOf n
      | none => c.faultRec,
    recorded := p.isSome,
    seqC := (c.seqC.stopped (trapped .c)).unbound, seqL := c.seqL.stopped (trapped .l),
    seqX := c.seqX.stopped (trapped .x), seqS := c.seqS.stopped (trapped .s),
    posted := c.posted.map (fun p => { p with stage := .anew }),
    resid := c.resid.map (fun e => (e.1, { e.2 with due := true })),
    due := [], torn := [], mxHalted := c.mxBlock.isSome, notes := [], mxStopped := false, cpStopped := false, mxHead := c.mxHead.saved, cpHead := c.cpHead.saved }

/-- Drain every core-task of a gang; the misses by rank. -/
def State.drainGang (slots : Bool) (slot : Nat) : List Nat → State → State × List (Nat × MissNote)
  | [], s => (s, [])
  | r :: rs, s =>
    let (s1, ms) := s.drainCt slot r slots
    let (s2, ms2) := State.drainGang slots slot rs s1
    (s2, ms.map (fun m => (r, m)) ++ ms2)

/-- A miss is counted against its access (R180). -/
def Task.countMiss (t : Task) (rank kind : Nat) (va : Word) (waddr : BitVec 32) : Task :=
  { t with misses := Tab.upd 0 t.misses (missKey rank kind va waddr) (· + 1) }

/-- A miss of a stopped gang's agent: the fault it gives, or its page request and condition (R68, R179). The miss for
which the gang parks is counted once. -/
def State.addMiss (s : State) (slot rank : Nat) (m : MissNote) : State :=
  match s.task? slot with
  | none => s
  | some t =>
    let cond : ParkCond := .page t.ctx m.page m.host rank m.kind m.va m.waddr
    if t.conds.contains cond then s
    else match s.missTrap slot rank m.kind t.ctx m.va m.waddr with
    | some tr => s.raiseDeferred slot rank tr m.waddr
    | none =>
      (s.requestPage t.ctx m.page m.host m.need).updTask slot (fun t =>
        { t.countMiss rank m.kind m.va m.waddr with conds := t.conds ++ [cond] })

/-- The records of a stop, in rank order; the first governs the gang (R280). -/
def stopRecords (id : BitVec 32) (slot : Nat) (cts : List (Nat × CoreTask)) : List WaitRec :=
  let ns := cts.filterMap (fun e => (primaryOf e.2.notes).map (fun n => (e.1, n)))
  (ns.zip (List.range ns.length)).map (fun x =>
    let first := decide (x.2 = 0)
    { slot := slot, id := id, primary := first, words := faultWords id x.1.1 first x.1.2 })

/-- The preload that stands on the cores of a gang, by its slot (R241). -/
def State.preloadOn (s : State) (slot : Nat) : Option (Nat × Task × List Nat) :=
  s.tasks.findSome? (fun e => match e.2.preload with
    | some p => if p.gang = slot then some (e.1, e.2, p.cores) else none
    | none => none)

/-- Change the preloads of the tasks that satisfy `f`. -/
def State.updPreloads (s : State) (f : Task → Bool) (g : Option Preload → Option Preload) : State :=
  { s with tasks := s.tasks.map (fun e => if f e.2 then (e.1, { e.2 with preload := g e.2.preload }) else e) }

/-- Discard the preloads that stand on a gang's cores. -/
def State.dropPreloads (s : State) (slot : Nat) : State :=
  s.updPreloads (fun t => decide (t.preload.map (·.gang) = some slot)) (fun _ => none)

/-- The gang is gone: a preload on its cores stays there (R241). -/
def State.keepPreloads (s : State) (slot : Nat) : State :=
  s.updPreloads (fun t => decide (t.preload.map (·.gang) = some slot)) (fun p => p.map (fun x => { x with gang := 4096 }))

/-- The preloaded task starts at once on the freed cores, while it is still the next to place; the gang that left them
stands first in its list if its handler orders a rerun (R241). -/
def State.startPreloaded (s : State) (slot : Nat) : State :=
  match s.preloadOn slot with
  | none => s
  | some (sl, t, cs) =>
    match s.nextPlaced t.part [] with
    | some (n, _, free) =>
      if n = sl ∧ free = cs then (s.place sl t cs).updTask slot (fun g => { g with place := 0 }) else s.dropPreloads slot
    | none => s.dropPreloads slot

/-- STOP A GANG (R67, R68, R279 to R281): drain and save every core-task, free the cores, hand the records of its
faults to the job. It parks on `conds`, on misses met while stopping and on the action of a handler, or is
PREEMPTED when none of these stands. -/
def State.stopGang (s : State) (slot : Nat) (conds : List ParkCond) (preempt : Bool) : State :=
  match s.task? slot with
  | none => s
  | some t0 =>
    let ranks := t0.cts.map (·.1)
    let (s1, ms) := State.drainGang true slot ranks (s.updTask slot (fun t => { t with conds := t.conds ++ conds }))
    let s2 := ms.foldl (fun s m => s.addMiss slot m.1 m.2) s1
    match s2.task? slot with
    | none => s2
    | some t =>
      let recs := stopRecords t.id slot t.cts
      let faulted := !recs.isEmpty
      let budgetDone := t.cts.any (fun e => match primaryOf e.2.notes with
        | some n => decide (n.code = .budgetOver)
        | none => false)
      let conds' := if faulted then t.conds ++ [.action] else t.conds
      let paged := conds'.any (fun c => match c with
        | .page .. => true
        | _ => false)
      let t1 := { t with
        cts := t.cts.map (fun e => (e.1, e.2.stopped)), conds := conds', saved := true, finished := [],
        state := if conds'.isEmpty ∧ preempt then .preempted else .parked,
        budget := if budgetDone then t.fullBudget else t.budget }
      let s3 := recs.foldl (fun s r => s.postRecord t.job r) (s2.setTask slot t1)
      let s4 := s3.gateIslands
      if faulted || paged then s4.startPreloaded slot
      else if preempt then s4.dropPreloads slot
      else s4

/-- A miss of an agent's access: its fault, or the gang parks with the page as its condition (R67, R179). The
word is left unexecuted. -/
def State.missPark (s : State) (slot rank kind : Nat) (need : Need) (va : Word) (page : Nat) (host : Bool)
    (waddr : BitVec 32) : Trap ⊕ State :=
  match s.task? slot with
  | none => .inr s
  | some t =>
    match s.missTrap slot rank kind t.ctx va waddr with
    | some tr => .inl tr
    | none =>
      let s2 := (s.requestPage t.ctx page host need).updTask slot (·.countMiss rank kind va waddr)
      .inr (s2.stopGang slot [.page t.ctx page host rank kind va waddr] false)

/-- A miss of the issuing C-sequencer's word. -/
def missWord (s : State) (need : Need) (va : Word) (page : Nat) (host : Bool) : Res State :=
  let w := match s.ct? s.cur.slot s.cur.rank with
    | some c => c.seqC.pc
    | none => 0
  match s.missPark s.cur.slot s.cur.rank 0 need va page host w with
  | .inl t => .trap t
  | .inr s' => .jump s'

/-! ### The end of a gang -/

/-- A task leaves its slot; the slot's next task takes the next generation (R231). -/
def State.freeSlot (s : State) (slot : Nat) : State := { s with tasks := Tab.del slot s.tasks }

/-- The slices drop what is kept for a gang that ends: its pigeonholes, its held pieces, its watched word (R210, R222,
R286). -/
def State.freeSliceEntries (s : State) (slot : Nat) : State :=
  let slices := s.m.slices.foldl (fun t e => Tab.set Slice.empty t e.1 { e.2 with
    held := e.2.held.filter (fun p => decide (p.slot ≠ slot)),
    pigeons := e.2.pigeons.filter (fun p => decide (p.slot ≠ slot)) }) s.m.slices
  { s with m := { s.m with slices := slices, actions := s.m.actions.filter (fun w => decide (w.slot ≠ slot)) } }

/-- After a task has left: its step may close (R248). -/
def State.stepAfter (s : State) (t : Task) : State :=
  match t.stream with
  | some n => s.tryClose n
  | none => s

/-- The task that waits on a predecessor takes its decrement (R234). -/
def State.releaseDependents (s : State) (id : Nat) : State :=
  (s.tasks.filter (fun e => e.2.preds.contains id)).foldl (fun s e =>
    (s.updTask e.1 (fun t => { t with preds := t.preds.filter (· ≠ id) })).decrement e.1) s

/-- DISCARD A GANG as for KILL (R215, R222, R239, R287): posted stores and accepted pieces are still applied,
sends not yet accepted, residual slots and entries go. -/
def State.discardGang (s : State) (slot : Nat) : State :=
  match s.task? slot with
  | none => s
  | some t =>
    let (s1, _) := if t.saved then (s, []) else
      t.cts.foldl (fun (acc : State × List MissNote) e =>
        let s := acc.1
        let c := s.ct? slot e.1
        let n := match c with
          | some c => 2 * c.posted.length + 1
          | none => 0
        ((State.drainStores n 0 slot e.1 s).1.finishAtoms slot e.1, [])) (s, [])
    ((s1.updTask slot (fun t => { t with cts := [], conds := [], saved := false, finished := [], gbarSt := 0, misses := [] })).freeSliceEntries
      slot).freeFutures (fun e => decide (e.slot = slot))

/-- The deliveries held for a task that is killed before it starts are dropped, each with LINK-MISS to its sender (R350). -/
def State.dropHeld (s : State) (t : Task) : State :=
  if t.state = .running ∨ t.saved then s
  else
    (s.ports.held.filter (fun d => decide (d.1 = t.id))).foldl (fun s d => s.tellSender d.2 .linkMiss)
      { s with ports := { s.ports with held := s.ports.held.filter (fun d => decide (d.1 ≠ t.id)) } }

/-- KILL a task (R50, R287, R309): no future resolved, no counter decremented. -/
def State.killTask (s : State) (slot : Nat) : State :=
  match s.task? slot with
  | none => s
  | some t =>
    let s1 := (s.discardGang slot).dropPreloads slot
    let s2 := { ((s1.dropHeld t).freeSlot slot) with blocked := s1.blocked.filter (fun e => decide (e.2 ≠ slot + 1)) }
    ((s2.gateIslands).jobLess t.job (decide (t.job = t.id.toNat))).stepAfter t

/-- The record of a FUT-DOUBLE at retirement (R239). -/
def futDoubleNote (waddr : BitVec 32) (addr : Word) (time : Nat) : FaultNote :=
  { code := .futDouble, kind := 0, waddr := waddr, addr := addr, time := time }

/-- The highest stamp that an agent of the gang holds. -/
def Task.topStamp (t : Task) : Stamp :=
  match t.cts with
  | [] => 0
  | e :: es => es.foldl (fun h x => x.2.topStamp h) (e.2.topStamp e.2.seqC.stamp)

/-- The successor future of a task that retires is resolved with g1 of rank 0, as a release of every agent of the gang
(R65, R191, R239). -/
def State.resolveSuccessor (s : State) (slot : Nat) (t : Task) : State :=
  let va : Word := (t.td.getD 5 0) &&& BitVec.ofNat 64 (2 ^ 57 - 1)
  if va = 0 then s
  else
    match t.ct? 0, s.translate t.ctx Need.rmw va with
    | some c, .ok x =>
      if s.keyBad x.f x.key then s
      else if futState (s.futAt x.f.a) = 2 then
        let ws := faultWords t.id 0 false (futDoubleNote c.seqC.pc va s.dtime)
        s.postRecord t.job { slot := slot, id := t.id, primary := false, words := ws }
      else (s.cache t.ctx va x 16).resolveAt x.f x.keep (some (agentId slot 0 0, c.seqC.stamp + 1, true)) (c.seqC.rd 1)
        (t.topStamp + 1)
    | _, _ => s

/-- What the resolution of the successor future meets before the gang retires. -/
inductive SuccRes where
  | ok
  | trap (t : Trap)
  | miss (va : Word) (page : Nat) (host : Bool)
  deriving DecidableEq, Repr

/-- The access of the successor future when `rank` is the last to retire: translated, checked under R174, R176 and R197.
A fault of it is precise at the EXIT that would retire the gang, a miss parks the gang there (R179; log 22). -/
def State.successorCheck (s : State) (slot rank : Nat) : SuccRes :=
  match s.task? slot with
  | none => .ok
  | some t =>
    let va : Word := (t.td.getD 5 0) &&& BitVec.ofNat 64 (2 ^ 57 - 1)
    if va = 0 ∨ t.cts.any (fun e => decide (e.1 ≠ rank ∧ e.2.exit ≠ .done)) then .ok
    else match t.ct? 0, s.translate t.ctx Need.rmw va with
      | none, _ => .ok
      | _, .trap tr => .trap tr
      | _, .miss pg h => .miss va pg h
      | some c, .ok x =>
        if s.keyBad x.f x.key then .trap (keyTrap va)
        else if futState (s.futAt x.f.a) = 2 then .ok
        else match s.raceAt x.f 16 x.keep (agentId slot 0 0) (c.seqC.stamp + 1) true true with
          | some tr => .trap tr
          | none => .ok

/-- RETIREMENT of a gang (R65): release, successor future, dependents, job. -/
def State.retire (s : State) (slot : Nat) : State :=
  match s.task? slot with
  | none => s
  | some t =>
    let s0 := { s with m := { s.m with h := stMax s.m.h (t.topStamp + 1) } }
    let s1 := s0.resolveSuccessor slot t
    let s2 := ((s1.freeSlot slot).keepPreloads slot).releaseDependents t.id.toNat
    ((s2.gateIslands).jobLess t.job (decide (t.job = t.id.toNat))).stepAfter t

/-- Every core-task of the gang has retired (R65). -/
def Task.allRetired (t : Task) : Bool := t.cts.all (fun e => decide (e.2.exit = .done))

/-! ### GBAR and retirement (R342) -/

/-- When a rank retires, each GBAR that waits at a barrier it never reached raises ILLEGAL-FIELD. -/
def State.failGbars (s : State) (slot rank : Nat) : State :=
  match s.task? slot, s.ct? slot rank with
  | some t, some c =>
    t.cts.foldl (fun s e =>
      if e.1 ≠ rank ∧ e.2.gbarHere ∧ c.gbars ≤ e.2.gbars ∧ e.2.seqC.status = .running then
        s.raiseAtC slot e.1 (trapOf .illegalField) e.2.seqC.pc
      else s) s
  | _, _ => s

end Sys2Proof.Machine
end

