-- ==== Sys2Proof/Machine/Control.lean ====
section
/-! DEFINITION. Class 1: control flow, tokens, sequencers (R57 to R65, R96 to R100, R343, R357, R376, R377, R399),
and the migration of a core-task at a group boundary (R271). -/

namespace Sys2Proof.Machine

/-- A word of every sequencer. -/
def anySeq (k : BitVec 8) : WordUse := { perm := allSeqs, cons := k }

/-- A word of the C-sequencer. -/
def cOnly (k : BitVec 8) : WordUse := { perm := [.c], cons := k }

/-- An operand that is an immediate or a register, as a word. -/
def operandValue {n : Nat} (q : Seq) : Operand n → Word
  | .imm v => v.setWidth 64
  | .reg g => q.rd g

/-! ### Branches (R97 to R100) -/

/-- The loop stack after a taken branch to `t`: entries that do not hold the target are popped (R99). -/
def popLoops (t : BitVec 32) : List LoopEntry → List LoopEntry
  | [] => []
  | e :: es => if e.start.toNat ≤ t.toNat ∧ t.toNat ≤ e.last.toNat then e :: es else popLoops t es

/-- The sequencer after a taken branch (R97, R99). -/
def Seq.branch (q : Seq) (t : BitVec 32) : Seq := { q with loops := popLoops t q.loops, pc := t }

/-- The target of a branch: OFF40 words from the word itself (R77, R97). The pc is 32 bits wide and the offset 40: a target
outside 0 to 2^32 − 1 is kept modulo 2^32, which is the model's choice (log 65). -/
def branchTarget (pc : BitVec 32) (off : BitVec 40) : BitVec 32 := pc + (off.signExtend 64).setWidth 32

/-- B (R97). -/
def execB (k : BitVec 8) (off : BitVec 40) (s : State) : Host.Outcome State Fault Refusal :=
  runLocal (anySeq k) (fun s c => .jump (c.updSeq s.cur.q (fun q => q.branch (branchTarget q.pc off)))) s

/-- BC with a condition (R97). -/
def branchIf (cc : Cond) (k : BitVec 8) (a b : GReg) (off : BitVec 40) (s : State) :
    Host.Outcome State Fault Refusal :=
  runLocal (anySeq k) (fun s c =>
    let q := c.seq s.cur.q
    if condHolds cc (q.rd a) (q.rd b) then
      .jump (c.updSeq s.cur.q (fun q => q.branch (branchTarget q.pc off)))
    else .done c none) s

/-- BC.EQ (R97). -/
def execBcEq (k : BitVec 8) (a b : GReg) (off : BitVec 40) (s : State) : Host.Outcome State Fault Refusal :=
  branchIf .eq k a b off s

/-- BC.NE (R97). -/
def execBcNe (k : BitVec 8) (a b : GReg) (off : BitVec 40) (s : State) : Host.Outcome State Fault Refusal :=
  branchIf .ne k a b off s

/-- BC.LT (R97). -/
def execBcLt (k : BitVec 8) (a b : GReg) (off : BitVec 40) (s : State) : Host.Outcome State Fault Refusal :=
  branchIf .lt k a b off s

/-- BC.GE (R97). -/
def execBcGe (k : BitVec 8) (a b : GReg) (off : BitVec 40) (s : State) : Host.Outcome State Fault Refusal :=
  branchIf .ge k a b off s

/-- BC.LTU (R97). -/
def execBcLtu (k : BitVec 8) (a b : GReg) (off : BitVec 40) (s : State) : Host.Outcome State Fault Refusal :=
  branchIf .ltu k a b off s

/-- BC.GEU (R97). -/
def execBcGeu (k : BitVec 8) (a b : GReg) (off : BitVec 40) (s : State) : Host.Outcome State Fault Refusal :=
  branchIf .geu k a b off s

/-- CALL (R98). -/
def execCall (k : BitVec 8) (off : BitVec 40) (s : State) : Host.Outcome State Fault Refusal :=
  runLocal (anySeq k) (fun s c =>
    let q := c.seq s.cur.q
    if 16 ≤ q.rets.length then .trap (trapOf .rstack)
    else .jump (c.setSeq s.cur.q { q with rets := (q.pc + 1) :: q.rets, pc := branchTarget q.pc off })) s

/-- RET (R98). -/
def execRet (k : BitVec 8) (s : State) : Host.Outcome State Fault Refusal :=
  runLocal (anySeq k) (fun s c =>
    let q := c.seq s.cur.q
    match q.rets with
    | [] => .trap (trapOf .rstack)
    | t :: ts => .jump (c.setSeq s.cur.q { q with rets := ts, pc := t })) s

/-- The word is LPAD with this label (R100). A word with the opcode of LPAD and a reserved field that is not 0 is no legal
LPAD and counts as none (log 57). -/
def isLpad (w : Word80) (label : Nat) : Bool :=
  match decodeWord w with
  | some (.lpad _ l) => decide (l.toNat = label)
  | _ => false

/-- JTBL (R100). -/
def execJtbl (k : BitVec 8) (a : GReg) (n : Fin 4) (s : State) : Host.Outcome State Fault Refusal :=
  runLocal (cOnly k) (fun s c =>
    match s.task? s.cur.slot with
    | none => .wait c .plain
    | some t =>
      let jt := Tab.get 0 c.jt n.val
      let i := (c.seqC.rd a).toNat
      if fieldOf jt 32 16 ≤ i then .trap (trapOf .jtblBound)
      else
        let at_ := fieldOf jt 0 32 + i
        let e := s.codeWord t at_
        if !t.image.holds .c at_ || decide (e.toNat / 2 ^ 32 ≠ 0) then .trap (trapOf .illegalField)
        else
          let target := e.toNat
          if !t.image.holds .c target || !isLpad (s.codeWord t target) (fieldOf jt 48 16) then
            .trap (trapOf .lpadMismatch)
          else .jump (c.updSeq .c (fun q => q.branch (BitVec.ofNat 32 target)))) s

/-- LPAD: no effect (R100). -/
def execLpad (k : BitVec 8) (_label : BitVec 16) (s : State) : Host.Outcome State Fault Refusal :=
  runLocal (cOnly k) (fun _ c => .done c none) s

/-- LOOP with its count (R99). A LOOP of count 0 that stands at the LAST of the loop around it ends that
loop's pass, and skips its own body after the last pass (log 24). -/
def loopBody (q : Seq) (count : Nat) (last : BitVec 20) : Option Seq :=
  if 4 ≤ q.loops.length then none
  else if count = 0 then
    match q.loops with
    | e :: _ =>
      if q.pc = e.last then
        let (ls, pc) := loopEnd q.loops q.pc
        some { q with loops := ls, pc := if pc = q.pc + 1 then q.pc + last.setWidth 32 + 1 else pc }
      else some { q with pc := q.pc + last.setWidth 32 + 1 }
    | [] => some { q with pc := q.pc + last.setWidth 32 + 1 }
  else
    some { q with loops := { start := q.pc + 1, last := q.pc + last.setWidth 32, remaining := count } :: q.loops,
                  pc := q.pc + 1 }

/-- LOOP as a word. -/
def loopWord (k : BitVec 8) (count : Seq → Nat) (last : BitVec 20) (s : State) : Host.Outcome State Fault Refusal :=
  runLocal (anySeq k) (fun s c =>
    let q := c.seq s.cur.q
    match loopBody q (count q) last with
    | none => .trap (trapOf .loopDepth)
    | some q' => .jump (c.setSeq s.cur.q q')) s

/-- LOOP, register form (R99). -/
def execLoopReg (k : BitVec 8) (a : GReg) (last : BitVec 20) (s : State) : Host.Outcome State Fault Refusal :=
  loopWord k (fun q => (q.rd a).toNat) last s

/-- LOOP, immediate form (R99). -/
def execLoopImm (k : BitVec 8) (count last : BitVec 20) (s : State) : Host.Outcome State Fault Refusal :=
  loopWord k (fun _ => count.toNat) last s

/-- NOP (R357). -/
def execNop (k : BitVec 8) (s : State) : Host.Outcome State Fault Refusal :=
  runLocal (anySeq k) (fun _ c => .done c none) s

/-- TRAP (R377): the handler reads the code from the word. -/
def execTrap (k : BitVec 8) (_code : BitVec 16) (s : State) : Host.Outcome State Fault Refusal :=
  runLocal (anySeq k) (fun _ _ => .trap (trapOf .trap)) s

/-! ### Releases -/

/-- A release of scope `sc` by the issuing sequencer, then the rest of the word (R193). -/
def afterRelease (sc : Scope) (s : State) (go : State → CoreTask → Res State) : Res State :=
  match s.testRelease s.cur sc with
  | .trap t => .trap t
  | .miss va pg h => missWord s Need.rmw va pg h
  | .wait s' => .wait s' .plain
  | .ready s' =>
    match s'.ct? s.cur.slot s.cur.rank with
    | some c => go s' c
    | none => .wait s' .plain

/-- Put a core-task back and complete. -/
def doneCt (s : State) (c : CoreTask) : Res State := .done (s.putCt s.cur.slot s.cur.rank c) none

/-! ### FORK, RDV, EXIT (R58 to R65) -/

/-- FORK (R58): a release towards the started sequencer. -/
def execFork (k : BitVec 8) (seq : SeqId) (target : BitVec 32) (s : State) : Host.Outcome State Fault Refusal :=
  runGlobal (cOnly k) (fun s c =>
    match s.task? s.cur.slot with
    | none => .wait s .plain
    | some t =>
      if !t.image.holds seq target.toNat || decide ((c.seq seq).status ≠ .idle) then .trap (trapOf .illegalField)
      else afterRelease .core s (fun s c =>
        let c1 := c.updSeq .c Seq.release
        doneCt s (c1.updSeq seq (fun q => { q.acquire c1.seqC.stamp with status := .running, pc := target })))) s

/-- The sequencers that a mask names (R57). -/
def maskSeqs (m : BitVec 4) : List SeqId := allSeqs.filter (fun q => m.getLsbD (seqNum q))

/-- The mask for which a sequencer waits at RDV. -/
def CoreTask.rdvMask (c : CoreTask) (q : SeqId) : Option (BitVec 4) :=
  match (c.seq q).wait with
  | some { kind := .rdv m, .. } => some m
  | _ => none

/-- A check of R60 fails at the arrival of an RDV. A C-sequencer counts as having executed EXIT once its EXIT is
complete; one that stands in a stage of R62 keeps the RDV waiting (log 53). -/
def CoreTask.rdvBad (c : CoreTask) (self : SeqId) (m : BitVec 4) : Bool :=
  (maskSeqs m).any (fun q => decide ((c.seq q).status = .exited) ||
    (decide (self = .c) && decide ((c.seq q).status = .idle)) ||
    (decide (q ≠ self) && (match c.rdvMask q with
      | some m' => decide (m' ≠ m) && m'.getLsbD (seqNum self)
      | none => false)))

/-- The stamps of the participants after they have met (R195). -/
def CoreTask.meet (c : CoreTask) (qs : List SeqId) : CoreTask :=
  let o := qs.foldl (fun o q => stMax o ((c.seq q).stamp + 1)) ((c.seq (qs.headD .c)).stamp + 1)
  qs.foldl (fun c q => c.updSeq q (fun sq => { sq with stamp := stMax (sq.stamp + 1) (o + 1) })) c

/-- What the release of RDV and GBAR waits for: posted stores and ACCT.D, not deferred results (R60, R204, R341). -/
def CoreTask.gbarReady (c : CoreTask) : Bool :=
  c.posted.isEmpty && c.sends.all (fun x => !x.direct || decide (x.left = 0))

/-- RDV (R60): the one that completes the rendezvous advances every participant; once the gang has faulted the words that
wait stay unexecuted (R279). -/
def execRdv (k : BitVec 8) (mask : BitVec 4) (s : State) : Host.Outcome State Fault Refusal :=
  runLocal { anySeq k with legal := mask.getLsbD (seqNum s.cur.q) } (fun s c =>
    let self := s.cur.q
    let here := (c.rdvMask self).isSome
    if !here && c.rdvBad self mask then .trap (trapOf .illegalField)
    else if self = .c ∧ ¬c.gbarReady then .wait c .plain
    else
      let others := (maskSeqs mask).filter (· ≠ self)
      if others.all (fun q => decide (c.rdvMask q = some mask) && !s.gangFaulted) then
        let c1 := c.meet (maskSeqs mask)
        .done (others.foldl (fun c q => c.updSeq q Seq.advance) c1) none
      else .wait c (.rdv mask)) s

/-- What a core-task drops when it retires (R63). -/
def CoreTask.retired (c : CoreTask) : CoreTask :=
  { c with seqC := { c.seqC with status := .exited, wait := none }, exit := .done, queues := [], tokens := [], sems := [],
           due := [], bars := [] }

/-- Both engine queues are empty and nothing runs (R62 stage 2). -/
def CoreTask.drained (c : CoreTask) : Bool := c.mxq.isEmpty && c.cpq.isEmpty && c.copies.isEmpty

/-- L, X and S have exited or were never started (R62 stage 4). -/
def CoreTask.othersDone (c : CoreTask) : Bool :=
  [SeqId.l, SeqId.x, SeqId.s].all (fun q => decide ((c.seq q).status = .exited) || decide ((c.seq q).status = .idle))

/-- A core-task retires; the gang retires with its last rank (R63, R65, R342). -/
def State.retireCt (s : State) (slot rank : Nat) : State :=
  let s1 := (s.updCt slot rank CoreTask.retired).failGbars slot rank
  match s1.task? slot with
  | some t => if t.allRetired then s1.retire slot else s1
  | none => s1

/-- Note the stage that the C-sequencer's EXIT has reached. -/
def State.atStage (s : State) (x : ExitStage) : State := s.updCur (fun c => { c with exit := x })

/-- The stages of the C-sequencer's EXIT (R62). -/
def exitC (s : State) (c : CoreTask) : Res State :=
  let (c1, ok1) := c.settleAll .c (c.seqC.tags.map (·.1))
  let s1 := s.putCt s.cur.slot s.cur.rank c1
  if !ok1 then .wait s1 .plain
  else if !c1.drained then .wait (s1.atStage .draining) .plain
  else
    match (s1.atStage .delivering).testRelease s.cur .sys with
    | .trap t => .trap t
    | .miss va pg h => missWord (s1.atStage .delivering) Need.rmw va pg h
    | .wait s2 => .wait s2 .plain
    | .ready s2 =>
      if c1.othersDone then
        match s2.successorCheck s.cur.slot s.cur.rank with
        | .ok => .jump (s2.retireCt s.cur.slot s.cur.rank)
        | .trap t => .trap t
        | .miss va pg h => missWord s2 Need.rmw va pg h
      else .wait (s2.atStage .waiting) .plain

/-- EXIT (R61, R62). -/
def execExit (k : BitVec 8) (s : State) : Host.Outcome State Fault Refusal :=
  runGlobal (anySeq k) (fun s c =>
    match s.cur.q with
    | .c => exitC s c
    | q =>
      let (c1, ok1) := c.settleAll q ((c.seq q).tags.map (·.1))
      if ok1 then
        .jump (s.putCt s.cur.slot s.cur.rank (c1.updSeq q (fun sq => { sq with status := .exited, wait := none })))
      else .wait (s.putCt s.cur.slot s.cur.rank c1) .plain) s

/-! ### Tokens (R375, R376) -/

/-- The count of a token word is legal (R375). -/
def tokenOk (n : Word) : Bool := decide (n.toNat ≠ 0) && decide (n.toNat ≤ 255)

/-- TKSIG (R376). -/
def execTksig (k : BitVec 8) (seq : SeqId) (n : Operand 8) (s : State) : Host.Outcome State Fault Refusal :=
  runGlobal { anySeq k with legal := decide (s.cur.q ≠ seq) } (fun s c =>
    let n := operandValue (c.seq s.cur.q) n
    if !tokenOk n then .trap (trapOf .illegalField)
    else afterRelease .core s (fun s c =>
      let key := tokenKey s.cur.q seq
      let o := c.token key
      if 255 < o.n + n.toNat then .wait s .plain
      else
        let c1 := c.updSeq s.cur.q Seq.release
        let o1 : Obj := { n := o.n + n.toNat, st := stMax o.st (c1.seq s.cur.q).stamp }
        doneCt s (c1.setToken key o1))) s

/-- TKWAIT (R376). -/
def execTkwait (k : BitVec 8) (seq : SeqId) (n : Operand 8) (s : State) : Host.Outcome State Fault Refusal :=
  runLocal { anySeq k with legal := decide (s.cur.q ≠ seq) } (fun s c =>
    let n := operandValue (c.seq s.cur.q) n
    if !tokenOk n then .trap (trapOf .illegalField)
    else
      let key := tokenKey seq s.cur.q
      let o := c.token key
      if o.n < n.toNat then .wait c .plain
      else
        let c1 := c.setToken key { o with n := o.n - n.toNat }
        .done (c1.updSeq s.cur.q (fun q => q.acquire o.st)) none) s

/-! ### GRPEND and migration (R271, R343) -/

/-- The core to which a core-task migrates (R271 step 1). -/
def State.coolCore (s : State) (t : Task) (core : Nat) : Option Nat :=
  let p := match t.multi with
    | none => t.part
    | some parts => ((parts.find? (fun x => (s.partCores x.1).contains core)).map (·.1)).getD t.part
  let held := s.heldCores
  let free := (s.partCores p).filter (fun c =>
    !held.contains c && decide ((s.island c).reading < 85 * 16))
  (sortBy (fun a b => decide ((s.island a).reading < (s.island b).reading ∨
    ((s.island a).reading = (s.island b).reading ∧ a ≤ b))) free).head?

/-- The level of a core-task on `old` fits the island of a free core, once it has left the old one (R265, R267). -/
def State.levelFits (s : State) (old core level : Nat) : Bool :=
  let at_ (j : Nat) (c : CoreTask) : Bool := decide (c.core = 4 * (core / 4) + j ∧ c.core ≠ old)
  let i := core / 4
  let levels : List Nat := (List.range 4).map (fun j =>
    if 4 * i + j = core then Nat.max (level + 1) 2
    else match (s.tasks.filter (fun e => decide (e.2.state = .running))).findSome? (fun e =>
        (e.2.cts.find? (fun c => at_ j c.2)).map (fun c => c.2.pwrlvl)) with
      | some l => Nat.max (l + 1) 2
      | none => 2)
  decide (levels.sum ≤ 24)

/-- Swap the logical identifiers of two cores (R271 step 5). -/
def State.swapLogical (s : State) (a b : Nat) : State :=
  let la := s.logicalOf a
  let lb := s.logicalOf b
  { s with pw := { s.pw with logical := Tab.put a lb (Tab.put b la s.pw.logical) } }

/-- What a gang's scratchpads hold of the block writes of a core-task that moves is the new core's (R201, R294). -/
def Task.moveTorn (t : Task) (old new : Nat) : Task :=
  { t with cts := t.cts.map (fun e => (e.1, { e.2 with torn := e.2.torn.map (fun x =>
      (x.1, x.2.map (fun w => if w.core = old then { w with core := new } else w))) })) }

/-- The migration of a core-task whose residual slots and results are drained (R271 steps 3 to 6). -/
def State.moveCt (s : State) (slot rank old new : Nat) : State :=
  let s1 := (s.updTask slot (·.moveTorn old new)).updCt slot rank (fun c =>
    { c.restored new s.m.h s.dtime with migPend := false, migCount := (c.migCount + 1) % 256 })
  let s2 := (s1.swapLogical old new).gateIslands
  { s2 with irqs := s2.irqs ++ [.migrationDone slot rank] }

/-- The sequencers that a group boundary needs (R271); once the gang has faulted the words that wait stay unexecuted
(R279). -/
def CoreTask.boundary (c : CoreTask) (self : SeqId) (faulted : Bool) : Bool :=
  allSeqs.all (fun q => decide (q = self) || decide ((c.seq q).status = .idle) || decide ((c.seq q).status = .exited) ||
    (decide ((c.seq q).status = .running) && !faulted && (match (c.seq q).wait with
      | some { kind := .grpend, .. } => true
      | _ => false)))

/-- The other sequencers pass the boundary. -/
def CoreTask.passBoundary (c : CoreTask) (self : SeqId) : CoreTask :=
  allSeqs.foldl (fun c q => if q ≠ self ∧ (c.seq q).status = .running then c.updSeq q Seq.advance else c)
    { c with persistent := true }

/-- GRPEND at its boundary with a migration pending: the core-task moves before its sequencers go on; what
the drain meets parks the gang, and the migration stays pending (R271, R280). -/
def grpendMove (s : State) (t : Task) (c : CoreTask) : Res State :=
  let slot := s.cur.slot
  let rank := s.cur.rank
  match s.coolCore t c.core with
  | none => doneCt s (c.passBoundary s.cur.q)
  | some core =>
    if !s.levelFits c.core core c.pwrlvl then .wait s .grpend
    else
      let (s1, ms) := s.drainCt slot rank true
      let s2 := ms.foldl (fun s m => s.addMiss slot rank m) s1
      match s2.task? slot, s2.ct? slot rank with
      | some t2, some c2 =>
        if !c2.notes.isEmpty || !t2.conds.isEmpty then .jump (s2.stopGang slot [] false)
        else
          match (s2.moveCt slot rank c.core core).ct? slot rank with
          | some c3 => .done ((s2.moveCt slot rank c.core core).putCt slot rank (c3.passBoundary s.cur.q)) none
          | none => .jump s2
      | _, _ => .jump s2

/-- GRPEND (R343). -/
def execGrpend (k : BitVec 8) (s : State) : Host.Outcome State Fault Refusal :=
  runGlobal (anySeq k) (fun s c =>
    if !c.boundary s.cur.q s.gangFaulted then .wait s .grpend
    else
      match s.task? s.cur.slot with
      | some t =>
        if c.migPend then grpendMove (s.putCt s.cur.slot s.cur.rank { c with persistent := true }) t { c with persistent := true }
        else doneCt s (c.passBoundary s.cur.q)
      | none => .wait s .grpend) s

/-! ### YIELD (R399) -/

/-- The task for which YIELD gives way; it does nothing while the gang is already stopping. -/
def State.yieldsTo (s : State) (t : Task) : Bool :=
  match s.nextPlaced t.part t.cores with
  | some (_, u, _) => decide (t.prio ≤ u.prio)
  | none => false

/-- YIELD (R399). -/
def execYield (k : BitVec 8) (s : State) : Host.Outcome State Fault Refusal :=
  runGlobal (cOnly k) (fun s c =>
    match s.task? s.cur.slot with
    | none => .wait s .plain
    | some t =>
      if !t.faulted && s.yieldsTo t then
        let s1 := s.putCt s.cur.slot s.cur.rank (c.updSeq .c Seq.advance)
        let s2 := s1.updTask s.cur.slot (fun t => { t with place := s.fresh })
        .jump ({ s2 with fresh := s.fresh + 1 }.stopGang s.cur.slot [] true)
      else .done s none) s

end Sys2Proof.Machine
end

