-- ==== Sys2Proof/Machine/Scalar.lean ====
section
/-! DEFINITION. The scalar integer words of class 0 (R321, R322, R325, R329, R331, R340, R347, R352 to R355,
R358, R360, R362, R363, R366, R372). -/

namespace Sys2Proof.Machine

/-- A 40-bit immediate, sign-extended (R321). -/
def sext40 (i : BitVec 40) : Word := i.signExtend 64

/-- A word that writes `f` of the issuing sequencer's registers to `d` (R321). -/
def alu (k : BitVec 8) (d : GReg) (f : Seq → Word) (s : State) : Host.Outcome State Fault Refusal :=
  runLocal { perm := allSeqs, cons := k, dst := gDst d }
    (fun s c => .done c (some (d, f (c.seq s.cur.q)))) s

/-- The same for a word that reads its destination first (R329, R347). -/
def aluRmw (k : BitVec 8) (d : GReg) (f : Seq → Word) (s : State) : Host.Outcome State Fault Refusal :=
  runLocal { perm := allSeqs, cons := k, dst := gDst d, readsDst := true }
    (fun s c => .done c (some (d, f (c.seq s.cur.q)))) s

/-- A division, whose result may be deferred through a tag (R89, R340, R360). -/
def aluTag (k : BitVec 8) (t : Option Tag) (d : GReg) (f : Seq → Word) (s : State) :
    Host.Outcome State Fault Refusal :=
  runLocal { perm := allSeqs, cons := k, alloc := t, dst := gDst d }
    (fun s c =>
      let v := f (c.seq s.cur.q)
      match t with
      | none => .done c (some (d, v))
      | some t => .done ((c.settleAll s.cur.q (c.tagsOf s.cur.q (.g d))).1.allocTag s.cur.q t
          { dest := .g d, res := .value v, landed := false }) none) s

/-- The truth value of a comparison as a word (R366). -/
def boolWord (b : Bool) : Word := if b then 1 else 0

/-- The high word of the signed product (R355). -/
def mulHigh (a b : Word) : Word := BitVec.ofInt 64 (a.toInt * b.toInt / 2 ^ 64)

/-- The high word of the unsigned product (R355). -/
def mulHighU (a b : Word) : Word := BitVec.ofNat 64 (a.toNat * b.toNat / 2 ^ 64)

/-- Unsigned quotient; all ones for a zero divisor (R340). -/
def divWord (a b : Word) : Word := if b = 0 then BitVec.allOnes 64 else a / b

/-- Unsigned remainder; the dividend for a zero divisor (R360). -/
def remWord (a b : Word) : Word := if b = 0 then a else a % b

/-- The mask of a field's width (R329). -/
def maskBits (width : BitVec 7) : Word := BitVec.ofNat 64 (2 ^ width.toNat - 1)

/-- Extract a field, zero-extended (R329). -/
def extractBits (a : Word) (lsb : BitVec 6) (width : BitVec 7) : Word := (a >>> lsb.toNat) &&& maskBits width

/-- Extract a field, sign-extended (R329). -/
def extractSigned (a : Word) (lsb : BitVec 6) (width : BitVec 7) : Word :=
  (extractBits a lsb width <<< (64 - width.toNat)).sshiftRight (64 - width.toNat)

/-- Insert a field (R329). -/
def insertBits (d a : Word) (lsb : BitVec 6) (width : BitVec 7) : Word :=
  (d &&& ~~~(maskBits width <<< lsb.toNat)) ||| ((a &&& maskBits width) <<< lsb.toNat)

/-- Zero bits above the highest set bit (R331). -/
def leadingZeros (a : Word) : Word := if a = 0 then 64 else BitVec.ofNat 64 (63 - Nat.log2 a.toNat)

/-- Zero bits below the lowest set bit (R331). -/
def trailingZeros (a : Word) : Word :=
  BitVec.ofNat 64 (((List.range 64).takeWhile (fun i => !a.getLsbD i)).length)

/-- Set bits (R358). -/
def popCount (a : Word) : Word := BitVec.ofNat 64 (((List.range 64).filter (fun i => a.getLsbD i)).length)

/-- Bits 63:40 from an immediate, the rest kept (R347). -/
def setHigh (d : Word) (i : BitVec 24) : Word := i ++ (d.extractLsb' 0 40)

/-- ADD, register form (R322). -/
def execAddReg (k : BitVec 8) (d a b : GReg) (s : State) : Host.Outcome State Fault Refusal :=
  alu k d (fun q => q.rd a + q.rd b) s

/-- ADD, immediate form (R322). -/
def execAddImm (k : BitVec 8) (d a : GReg) (imm : BitVec 40) (s : State) : Host.Outcome State Fault Refusal :=
  alu k d (fun q => q.rd a + sext40 imm) s

/-- SUB (R372). -/
def execSub (k : BitVec 8) (d a b : GReg) (s : State) : Host.Outcome State Fault Refusal :=
  alu k d (fun q => q.rd a - q.rd b) s

/-- MUL, register form (R355). -/
def execMulReg (k : BitVec 8) (d a b : GReg) (s : State) : Host.Outcome State Fault Refusal :=
  alu k d (fun q => q.rd a * q.rd b) s

/-- MUL, immediate form (R355). -/
def execMulImm (k : BitVec 8) (d a : GReg) (imm : BitVec 40) (s : State) : Host.Outcome State Fault Refusal :=
  alu k d (fun q => q.rd a * sext40 imm) s

/-- MULH (R355). -/
def execMulh (k : BitVec 8) (d a b : GReg) (s : State) : Host.Outcome State Fault Refusal :=
  alu k d (fun q => mulHigh (q.rd a) (q.rd b)) s

/-- MULH.U (R355). -/
def execMulhU (k : BitVec 8) (d a b : GReg) (s : State) : Host.Outcome State Fault Refusal :=
  alu k d (fun q => mulHighU (q.rd a) (q.rd b)) s

/-- DIVU (R340). -/
def execDivu (k : BitVec 8) (t : Option Tag) (d a b : GReg) (s : State) : Host.Outcome State Fault Refusal :=
  aluTag k t d (fun q => divWord (q.rd a) (q.rd b)) s

/-- REMU (R360). -/
def execRemu (k : BitVec 8) (t : Option Tag) (d a b : GReg) (s : State) : Host.Outcome State Fault Refusal :=
  aluTag k t d (fun q => remWord (q.rd a) (q.rd b)) s

/-- AND, register form (R325). -/
def execAndReg (k : BitVec 8) (d a b : GReg) (s : State) : Host.Outcome State Fault Refusal :=
  alu k d (fun q => q.rd a &&& q.rd b) s

/-- AND, immediate form (R325). -/
def execAndImm (k : BitVec 8) (d a : GReg) (imm : BitVec 40) (s : State) : Host.Outcome State Fault Refusal :=
  alu k d (fun q => q.rd a &&& sext40 imm) s

/-- OR, register form (R325). -/
def execOrReg (k : BitVec 8) (d a b : GReg) (s : State) : Host.Outcome State Fault Refusal :=
  alu k d (fun q => q.rd a ||| q.rd b) s

/-- OR, immediate form (R325). -/
def execOrImm (k : BitVec 8) (d a : GReg) (imm : BitVec 40) (s : State) : Host.Outcome State Fault Refusal :=
  alu k d (fun q => q.rd a ||| sext40 imm) s

/-- XOR, register form (R325). -/
def execXorReg (k : BitVec 8) (d a b : GReg) (s : State) : Host.Outcome State Fault Refusal :=
  alu k d (fun q => q.rd a ^^^ q.rd b) s

/-- XOR, immediate form (R325). -/
def execXorImm (k : BitVec 8) (d a : GReg) (imm : BitVec 40) (s : State) : Host.Outcome State Fault Refusal :=
  alu k d (fun q => q.rd a ^^^ sext40 imm) s

/-- SHL, register form (R362). -/
def execShlReg (k : BitVec 8) (d a b : GReg) (s : State) : Host.Outcome State Fault Refusal :=
  alu k d (fun q => q.rd a <<< ((q.rd b).toNat % 64)) s

/-- SHL, immediate form (R362). -/
def execShlImm (k : BitVec 8) (d a : GReg) (c : BitVec 6) (s : State) : Host.Outcome State Fault Refusal :=
  alu k d (fun q => q.rd a <<< (c.toNat)) s

/-- SHR, register form (R362). -/
def execShrReg (k : BitVec 8) (d a b : GReg) (s : State) : Host.Outcome State Fault Refusal :=
  alu k d (fun q => q.rd a >>> ((q.rd b).toNat % 64)) s

/-- SHR, immediate form (R362). -/
def execShrImm (k : BitVec 8) (d a : GReg) (c : BitVec 6) (s : State) : Host.Outcome State Fault Refusal :=
  alu k d (fun q => q.rd a >>> (c.toNat)) s

/-- SAR, register form (R362). -/
def execSarReg (k : BitVec 8) (d a b : GReg) (s : State) : Host.Outcome State Fault Refusal :=
  alu k d (fun q => (q.rd a).sshiftRight ((q.rd b).toNat % 64)) s

/-- SAR, immediate form (R362). -/
def execSarImm (k : BitVec 8) (d a : GReg) (c : BitVec 6) (s : State) : Host.Outcome State Fault Refusal :=
  alu k d (fun q => (q.rd a).sshiftRight (c.toNat)) s

/-- SLT, register form (R366). -/
def execSltReg (k : BitVec 8) (d a b : GReg) (s : State) : Host.Outcome State Fault Refusal :=
  alu k d (fun q => boolWord ((q.rd a).slt (q.rd b))) s

/-- SLT, immediate form (R366). -/
def execSltImm (k : BitVec 8) (d a : GReg) (imm : BitVec 40) (s : State) : Host.Outcome State Fault Refusal :=
  alu k d (fun q => boolWord ((q.rd a).slt (sext40 imm))) s

/-- SLTU, register form (R366). -/
def execSltuReg (k : BitVec 8) (d a b : GReg) (s : State) : Host.Outcome State Fault Refusal :=
  alu k d (fun q => boolWord ((q.rd a).ult (q.rd b))) s

/-- SLTU, immediate form (R366). -/
def execSltuImm (k : BitVec 8) (d a : GReg) (imm : BitVec 40) (s : State) : Host.Outcome State Fault Refusal :=
  alu k d (fun q => boolWord ((q.rd a).ult (sext40 imm))) s

/-- SEQ, register form (R366). -/
def execSeqReg (k : BitVec 8) (d a b : GReg) (s : State) : Host.Outcome State Fault Refusal :=
  alu k d (fun q => boolWord (q.rd a == q.rd b)) s

/-- SEQ, immediate form (R366). -/
def execSeqImm (k : BitVec 8) (d a : GReg) (imm : BitVec 40) (s : State) : Host.Outcome State Fault Refusal :=
  alu k d (fun q => boolWord (q.rd a == sext40 imm)) s

/-- MIN (R353). -/
def execMin (k : BitVec 8) (d a b : GReg) (s : State) : Host.Outcome State Fault Refusal :=
  alu k d (fun q => if (q.rd a).slt (q.rd b) then q.rd a else q.rd b) s

/-- MIN.U (R353). -/
def execMinU (k : BitVec 8) (d a b : GReg) (s : State) : Host.Outcome State Fault Refusal :=
  alu k d (fun q => if (q.rd a).ult (q.rd b) then q.rd a else q.rd b) s

/-- MAX (R353). -/
def execMax (k : BitVec 8) (d a b : GReg) (s : State) : Host.Outcome State Fault Refusal :=
  alu k d (fun q => if (q.rd a).slt (q.rd b) then q.rd b else q.rd a) s

/-- MAX.U (R353). -/
def execMaxU (k : BitVec 8) (d a b : GReg) (s : State) : Host.Outcome State Fault Refusal :=
  alu k d (fun q => if (q.rd a).ult (q.rd b) then q.rd b else q.rd a) s

/-- MOV (R354). -/
def execMov (k : BitVec 8) (d a : GReg) (s : State) : Host.Outcome State Fault Refusal :=
  alu k d (fun q => q.rd a) s

/-- LI (R347). -/
def execLi (k : BitVec 8) (d : GReg) (imm : BitVec 40) (s : State) : Host.Outcome State Fault Refusal :=
  alu k d (fun _ => sext40 imm) s

/-- LIH (R347). -/
def execLih (k : BitVec 8) (d : GReg) (imm : BitVec 24) (s : State) : Host.Outcome State Fault Refusal :=
  aluRmw k d (fun q => setHigh (q.rd d) imm) s

/-- SEL (R363). -/
def execSel (k : BitVec 8) (d a b c : GReg) (s : State) : Host.Outcome State Fault Refusal :=
  alu k d (fun q => if q.rd c ≠ 0 then q.rd a else q.rd b) s

/-- BFX (R329). -/
def execBfx (k : BitVec 8) (d a : GReg) (lsb : BitVec 6) (width : BitVec 7) (s : State) : Host.Outcome State Fault Refusal :=
  alu k d (fun q => extractBits (q.rd a) lsb width) s

/-- BFX.S (R329). -/
def execBfxS (k : BitVec 8) (d a : GReg) (lsb : BitVec 6) (width : BitVec 7) (s : State) : Host.Outcome State Fault Refusal :=
  alu k d (fun q => extractSigned (q.rd a) lsb width) s

/-- What the issuing word reads from a register that is no source of its result's old value: its contents once the tags of
CONS are committed, and no others (R90). -/
def State.sourceOf (s : State) (k : BitVec 8) (a : GReg) : Word :=
  match s.ct? s.cur.slot s.cur.rank with
  | some c => ((c.settleAll s.cur.q (consTags k)).1.seq s.cur.q).rd a
  | none => 0

/-- BFI (R329): it merges into the landed result of DST; R90 applies to SRCA, be it the same register. -/
def execBfi (k : BitVec 8) (d a : GReg) (lsb : BitVec 6) (width : BitVec 7) (s : State) : Host.Outcome State Fault Refusal :=
  aluRmw k d (fun q => insertBits (q.rd d) (s.sourceOf k a) lsb width) s

/-- CLZ (R331). -/
def execClz (k : BitVec 8) (d a : GReg) (s : State) : Host.Outcome State Fault Refusal :=
  alu k d (fun q => leadingZeros (q.rd a)) s

/-- CTZ (R331). -/
def execCtz (k : BitVec 8) (d a : GReg) (s : State) : Host.Outcome State Fault Refusal :=
  alu k d (fun q => trailingZeros (q.rd a)) s

/-- POPC (R358). -/
def execPopc (k : BitVec 8) (d a : GReg) (s : State) : Host.Outcome State Fault Refusal :=
  alu k d (fun q => popCount (q.rd a)) s

/-- MADD (R352). -/
def execMadd (k : BitVec 8) (d a b c : GReg) (s : State) : Host.Outcome State Fault Refusal :=
  alu k d (fun q => q.rd a + q.rd b * q.rd c) s

end Sys2Proof.Machine
end

