-- ==== Sys2Proof/Machine/Access.lean ====
section
/-! DEFINITION. Class 2: loads, stores, address generators, block transfers, prefetch (R110, R111, R323, R324,
R344 to R346, R359, R361, R367 to R371). -/

namespace Sys2Proof.Machine

/-! ### Program order of the C-sequencer's accesses (R190, R204) -/

/-- An accumulate of the core-task that is not performed touches the bytes at `va`, whose final address is `f`: one on its
way, or one in a residual slot (R190, R204). -/
def State.accBusy (s : State) (ctx : Nat) (c : CoreTask) (va : Nat) (f : FAddr) (n : Nat) : Bool :=
  s.pieceAt s.cur.slot s.cur.rank c f n || !(c.slotsWhere (fun r => s.slotMeets ctx r va f n)).isEmpty

/-- A C-sequencer access of `n` bytes at `va`, with final address `f`, first delivers the residual slots that it overlaps,
and follows the core-task's earlier accumulates there (R190, R204). -/
def afterResid (ctx : Nat) (va : Word) (f : FAddr) (n : Nat) (s : State) (c : CoreTask)
    (go : State → CoreTask → Res State) : Res State :=
  if !s.accBusy ctx c va.toNat f n then go s c
  else
    match s.deliverAll s.cur.slot s.cur.rank (c.slotsWhere (fun r => !r.flying && s.slotMeets ctx r va.toNat f n)) with
    | .trap t => .trap t
    | .miss a pg h => missWord s Need.rmw a pg h
    | .ok s1 => .wait s1 .plain

/-- An atomic of the core-task that its slice has not performed touches the bytes; one that is to be issued again may
touch any. -/
def State.atomAt (s : State) (slot rank : Nat) (f : FAddr) (n : Nat) : Bool :=
  !f.host && (((s.ct? slot rank).any (fun c => !c.again.isEmpty)) ||
    s.m.slices.any (fun e => e.2.queue.any (fun o => match o with
      | .atom r => decide (r.slot = slot ∧ r.rank = rank) && rangesMeet r.addr (if r.dbl then 8 else 4) f.a n
      | .piece _ => false)))

/-! ### Loads and stores (R344 to R346, R369 to R371) -/

/-- The address of a load or store (R344). -/
def effAddr (q : Seq) (a : GReg) (off : BitVec 40) : Word := q.rd a + sext40 off

/-- A deferred load has its tag marked busy (R89). -/
def CoreTask.deferLoad (c : CoreTask) (q : SeqId) (t : Tag) (d : GReg) (res : Deferred) : CoreTask :=
  ((c.settleAll q (c.tagsOf q (.g d))).1).allocTag q t { dest := .g d, res := res, landed := false }

/-- LDG after its translation (R345). -/
def ldgAt (t : Option Tag) (sz : LoadSize) (d : GReg) (va : Word) (ctx : Nat) (x : Xl) (s : State) (c : CoreTask) :
    Res State :=
  let id := agentId s.cur.slot s.cur.rank 0
  if s.atomAt s.cur.slot s.cur.rank x.f sz.bytes then .wait s .plain
  else
    match t with
    | some t =>
      doneCt ((s.cache ctx va x sz.bytes).clearMiss s.cur.slot s.cur.rank 0 va c.seqC.pc)
        (c.deferLoad .c t d (.ldg va sz c.seqC.pc c.seqC.stamp (some { f := x.f, key := x.key, keep := x.keep })))
    | none =>
      if c.postedAt x.f sz.bytes || s.heldAt x.f then .wait s .plain
      else if s.keyBad x.f x.key then .trap (keyTrap va)
      else match s.raceAt x.f sz.bytes x.keep id c.seqC.stamp false false with
        | some tr => .trap tr
        | none =>
          let v := sz.extend (s.readFinal x.f sz.bytes)
          .done (((s.noteRead x.f sz.bytes x.keep id c.seqC.stamp).cache ctx va x sz.bytes).clearMiss
              s.cur.slot s.cur.rank 0 va c.seqC.pc) (some (d, v))

/-- LDG (R345). -/
def execLdg (k : BitVec 8) (t : Option Tag) (sz : LoadSize) (d a : GReg) (off : BitVec 40) (s : State) :
    Host.Outcome State Fault Refusal :=
  runGlobal { perm := [.c], cons := k, alloc := t, dst := gDst d } (fun s c =>
    let va := effAddr c.seqC a off
    match s.task? s.cur.slot with
    | none => .wait s .plain
    | some tk =>
      if va.toNat % sz.bytes ≠ 0 then .trap (trapAt .align va)
      else match s.translate tk.ctx Need.read va with
        | .trap tr => .trap tr
        | .miss pg h => missWord s Need.read va pg h
        | .ok x => afterResid tk.ctx va x.f sz.bytes s c (ldgAt t sz d va tk.ctx x)) s

/-- STG after its translation (R370): the store is posted. -/
def stgAt (n : Nat) (bytes : List Byte) (va : Word) (ctx : Nat) (x : Xl) (s : State) (c : CoreTask) : Res State :=
  if 32 ≤ c.posted.length ∨ c.pendingLoadAt x.f n ∨ s.atomAt s.cur.slot s.cur.rank x.f n then .wait s .plain
  else
    let p : Posted := { va := va, final := x.f, key := x.key, keep := x.keep, bytes := bytes, waddr := c.seqC.pc,
                        stamp := c.seqC.stamp, stage := .posted }
    doneCt ((s.cache ctx va x n).clearMiss s.cur.slot s.cur.rank 0 va c.seqC.pc) { c with posted := c.posted ++ [p] }

/-- STG (R370). -/
def execStg (k : BitVec 8) (sz : StoreSize) (v a : GReg) (off : BitVec 40) (s : State) :
    Host.Outcome State Fault Refusal :=
  runGlobal (cOnly k) (fun s c =>
    let va := effAddr c.seqC a off
    match s.task? s.cur.slot with
    | none => .wait s .plain
    | some tk =>
      if va.toNat % sz.bytes ≠ 0 then .trap (trapAt .align va)
      else match s.translate tk.ctx Need.write va with
        | .trap tr => .trap tr
        | .miss pg h => missWord s Need.write va pg h
        | .ok x => afterResid tk.ctx va x.f sz.bytes s c
            (stgAt sz.bytes (leBytes sz.bytes (c.seqC.rd v).toNat) va tk.ctx x)) s

/-- LDL (R346). -/
def execLdl (k : BitVec 8) (t : Option Tag) (sz : LoadSize) (d a : GReg) (off : BitVec 40) (s : State) :
    Host.Outcome State Fault Refusal :=
  runLocal { perm := [.c, .l, .s], cons := k, alloc := t, dst := gDst d } (fun s c =>
    let q := c.seq s.cur.q
    let ad := effAddr q a off
    if ad.toNat % sz.bytes ≠ 0 then .trap (trapAt .align ad)
    else if scratchTop ≤ ad.toNat then .trap (trapAt .lsaRange ad)
    else match t with
      | some t => .done (c.deferLoad s.cur.q t d (.ldl ad.toNat sz q.pc q.stamp)) none
      | none =>
        match c.localRead s.raceOn (agentId s.cur.slot s.cur.rank (seqNum s.cur.q)) q.stamp
            (granules ad.toNat sz.bytes) with
        | .inl tr => .trap tr
        | .inr c1 => .done c1 (some (d, sz.extend (c1.readLocal ad.toNat sz.bytes)))) s

/-- STL (R371). -/
def execStl (k : BitVec 8) (sz : StoreSize) (v a : GReg) (off : BitVec 40) (s : State) :
    Host.Outcome State Fault Refusal :=
  runLocal { perm := [.c, .l, .s], cons := k } (fun s c =>
    let q := c.seq s.cur.q
    let ad := effAddr q a off
    if ad.toNat % sz.bytes ≠ 0 then .trap (trapAt .align ad)
    else if scratchTop ≤ ad.toNat then .trap (trapAt .lsaRange ad)
    else if q.pendingLocalAt ad.toNat sz.bytes then .wait c .plain
    else match c.localWrite s.raceOn (agentId s.cur.slot s.cur.rank (seqNum s.cur.q)) q.stamp false
        (granules ad.toNat sz.bytes) with
      | .inl tr => .trap tr
      | .inr c1 => .done (c1.writeLocal ad.toNat (leBytes sz.bytes (q.rd v).toNat)) none) s

/-! ### Address generators (R110, R323, R324, R361) -/

/-- Word `w` of an address generator. -/
def CoreTask.agWord (c : CoreTask) (ag w : Nat) : Word := Tab.get 0 c.ag (ag * 4 + w)

/-- Write a word of an address generator. -/
def CoreTask.setAg (c : CoreTask) (ag w : Nat) (v : Word) : CoreTask := { c with ag := Tab.set 0 c.ag (ag * 4 + w) v }

/-- The sequencer owns the generator (R110). -/
def ownsAg (q : SeqId) (ag : Nat) : Bool :=
  match q with
  | .l => decide (ag < 8)
  | .s => decide (8 ≤ ag)
  | _ => false

/-- The reserved bits of a generator's word (R110). -/
def agReserved (ag w : Nat) : Word :=
  match w with
  | 0 => if 8 ≤ ag then 0xFFFF000000000000 else 0xFFFE000000000000
  | 1 => 0xFFFFFFE000008080
  | _ => 0xFFFFF80000000000

/-- PTR moved on by `d` (R111). -/
def CoreTask.movePtr (c : CoreTask) (ag : Nat) (d : Word) : CoreTask :=
  let w := c.agWord ag 0
  let p := (fieldOf w 21 21 + d.toNat) % 2 ^ 21
  c.setAg ag 0 ((w &&& ~~~(0x3FFFFE00000 : Word)) ||| BitVec.ofNat 64 (p * 2 ^ 21))

/-- AGSET (R324). -/
def execAgset (k : BitVec 8) (ag : Fin 16) (w : Fin 4) (a : GReg) (s : State) :
    Host.Outcome State Fault Refusal :=
  runLocal { perm := [.l, .s], legal := ownsAg s.cur.q ag.val && decide (w ≠ 3), cons := k } (fun s c =>
    let v := (c.seq s.cur.q).rd a
    if v &&& agReserved ag.val w.val ≠ 0 then .trap (trapOf .illegalField)
    else .done (c.setAg ag.val w.val v) none) s

/-- AGGET (R324). -/
def execAgget (k : BitVec 8) (d : GReg) (ag : Fin 16) (w : Fin 4) (s : State) :
    Host.Outcome State Fault Refusal :=
  runLocal { perm := [.l, .s], legal := ownsAg s.cur.q ag.val && decide (w ≠ 3), cons := k, dst := gDst d } (fun _ c =>
    .done c (some (d, c.agWord ag.val w.val))) s

/-- SADV (R361). -/
def execSadv (k : BitVec 8) (ag : Fin 16) (adv : Operand 36) (s : State) : Host.Outcome State Fault Refusal :=
  runLocal { perm := [.l, .s], legal := ownsAg s.cur.q ag.val, cons := k } (fun s c =>
    let d : Word := match adv with
      | .imm v => v.signExtend 64
      | .reg g => (c.seq s.cur.q).rd g
    .done (c.movePtr ag.val d) none) s

/-! ### Block transfers (R111, R367, R368) -/

/-- A block as a generator describes it. -/
structure AgBlock where
  queue : Nat
  fmt : Fmt
  ptr : Nat
  rows : Nat
  cols : Nat
  rb : Nat
  stride : Nat
  sstride : Nat
  adv : Word

/-- The block of a generator, when it passes the checks of R111. -/
def CoreTask.agBlock (c : CoreTask) (ag : Nat) : Option AgBlock :=
  let w0 := c.agWord ag 0
  let w1 := c.agWord ag 1
  let w2 := c.agWord ag 2
  let rows := fieldOf w1 0 7
  let cols := fieldOf w1 8 7
  let ss := fieldOf w2 22 21
  match Fmt.ofCode (fieldOf w0 42 4) with
  | none => none
  | some f =>
    if rows = 0 ∨ cols = 0 ∨ 64 < rows ∨ 64 < cols ∨ 8192 < tileBytes f rows cols ∨ (ss ≠ 0 ∧ ¬f.scalable) then none
    else some { queue := if 8 ≤ ag then fieldOf w0 46 2 else fieldOf w0 46 3, fmt := f, ptr := fieldOf w0 21 21,
                rows := rows, cols := cols, rb := f.rowBytes cols, stride := fieldOf w1 16 21, sstride := ss,
                adv := (w2.setWidth 22).signExtend 64 }

/-- The ranges that a block touches: rows, then scale bytes, row by row (R367). -/
def AgBlock.ranges (b : AgBlock) : List (Nat × Nat) :=
  (List.range b.rows).flatMap (fun r =>
    (b.ptr + r * b.stride, b.rb) :: (if b.sstride = 0 then [] else [(b.ptr + b.rb + r * b.sstride, 1)]))

/-- A byte of the block lies outside the scratchpad. -/
def AgBlock.outside (b : AgBlock) : Bool := b.ranges.any (fun x => decide (scratchTop < x.1 + x.2))

/-- The granules that a block touches. -/
def AgBlock.granules (b : AgBlock) : List (Nat × BitVec 64) :=
  b.ranges.flatMap (fun x => Sys2Proof.Machine.granules x.1 x.2)

/-- Scale bytes of a block. -/
def AgBlock.scaleBytes (b : AgBlock) : Nat := if b.sstride = 0 then 0 else b.rows

/-- The block as the L-sequencer sees it in the scratchpad (R201, R367). -/
def CoreTask.loadBlock (c : CoreTask) (tick : Nat) (b : AgBlock) : Block :=
  { rows := b.rows, cols := b.cols, fmt := b.fmt,
    scales := if b.sstride = 0 then none
      else some ((List.range b.rows).flatMap (fun r => c.seen tick c.core c.seqL.stamp (b.ptr + b.rb + r * b.sstride) 1)),
    bytes := (List.range b.rows).flatMap (fun r => c.seen tick c.core c.seqL.stamp (b.ptr + r * b.stride) b.rb) }

/-- SLOAD (R367). -/
def execSload (k : BitVec 8) (ag : Fin 16) (s : State) : Host.Outcome State Fault Refusal :=
  runLocal { perm := [.l], legal := decide (ag.val < 8), cons := k } (fun s c =>
    match c.agBlock ag.val with
      | none => .trap (trapOf .shape)
      | some b =>
        if b.outside then .trap (trapOf .lsaRange)
        else
          let n := ceilDiv (b.rows * b.rb + b.scaleBytes) 256
          match c.testPush (s.pool c.core) .l s.fresh b.queue n with
          | .never => .trap (trapOf .shape)
          | .wait => .wait c (.push b.queue n false)
          | .room =>
            match c.localRead s.raceOn (agentId s.cur.slot s.cur.rank 1) c.seqL.stamp b.granules with
            | .inl tr => .trap tr
            | .inr c1 => .done ((c1.pushBlock b.queue (c1.loadBlock s.tick b)).movePtr ag.val b.adv) none) s

/-- The rows and scale bytes of a block written in order (R368). -/
def CoreTask.storeBlock (c : CoreTask) (g : AgBlock) (b : Block) : CoreTask :=
  let c1 := (List.range g.rows).foldl (fun c r =>
    c.writeLocal (g.ptr + r * g.stride) ((b.bytes.drop (r * g.rb)).take g.rb)) c
  match b.scales with
  | none => c1
  | some bs => (List.range g.rows).foldl (fun c r =>
      c.writeLocal (g.ptr + g.rb + r * g.sstride) [bs.getD r 0]) c1

/-- SSTORE (R368). -/
def execSstore (k : BitVec 8) (ag : Fin 16) (s : State) : Host.Outcome State Fault Refusal :=
  runLocal { perm := [.s], legal := decide (8 ≤ ag.val), cons := k } (fun s c =>
    match c.agBlock ag.val with
      | none => .trap (trapOf .shape)
      | some g =>
        match (Tab.get [] c.queues (sqIndex (Fin.ofNat 4 g.queue))).head? with
        | none => .wait c .plain
        | some b =>
          if b.rows ≠ g.rows ∨ b.cols ≠ g.cols ∨ b.fmt ≠ g.fmt ∨ b.scales.isSome ≠ decide (g.sstride ≠ 0) then
            .trap (trapOf .shape)
          else if g.outside then .trap (trapOf .lsaRange)
          else if g.ranges.any (fun x => c.seqS.pendingLocalAt x.1 x.2) then .wait c .plain
          else match c.localWrite s.raceOn (agentId s.cur.slot s.cur.rank 3) c.seqS.stamp false g.granules with
            | .inl tr => .trap tr
            | .inr c1 =>
              .done (((((c1.storeBlock g b).tear c1 c1.core c1.seqS.stamp false (g.granules.map (·.1)))).popBlock
                (sqIndex (Fin.ofNat 4 g.queue))).movePtr ag.val g.adv) none) s

/-! ### Prefetch (R359) -/

/-- The translations of the pages of a range that can be read are kept; nothing else changes (R359). -/
def State.prefetch (s : State) (ctx : Nat) (a : Word) (len : Nat) : State :=
  (rangeParts a.toNat len).foldl (fun s p =>
    let va : Word := BitVec.ofNat 64 p.1
    if 2 ^ 57 ≤ p.1 then s
    else match s.translate ctx Need.read va with
      | .ok x => if s.keyBad x.f x.key then s else s.cacheXl ctx va x
      | _ => s) s

/-- PREF (R359). -/
def prefWord (k : BitVec 8) (a b : GReg) (s : State) : Host.Outcome State Fault Refusal :=
  runGlobal (cOnly k) (fun s c =>
    match s.task? s.cur.slot with
    | none => .wait s .plain
    | some t => .done (s.prefetch t.ctx (c.seqC.rd a) (Nat.min (c.seqC.rd b).toNat (2 ^ 21))) none) s

/-- PREF.H (R359). -/
def execPrefH (k : BitVec 8) (a b : GReg) (s : State) : Host.Outcome State Fault Refusal := prefWord k a b s

/-- PREF.L (R359). -/
def execPrefL (k : BitVec 8) (a b : GReg) (s : State) : Host.Outcome State Fault Refusal := prefWord k a b s

/-! ### TAG_RESULT_LANDS (R89) -/

/-- A busy tag's result lands; a deferred load that misses parks its gang (R68, R89). -/
def execTagResultLands (slot rank : Nat) (seq : SeqId) (t : Tag) (s : State) : Host.Outcome State Fault Refusal :=
  match s.task? slot with
  | none => idle s
  | some tk =>
    if tk.state ≠ .running then idle s
    else match s.landTag { slot := slot, rank := rank, q := seq } t.val with
      | .no => idle s
      | .done s' => ok s'
      | .miss va pg h w =>
        match s.missPark slot rank 0 Need.read va pg h w with
        | .inl tr => ok (s.raiseLater { slot := slot, rank := rank, q := seq } tr w)
        | .inr s' => ok s'

end Sys2Proof.Machine
end

