-- ==== Sys2Proof/Machine/Vector.lean ====
section
/-! DEFINITION. The element-wise tile words of class 3 (R383 to R390). -/

namespace Sys2Proof.Machine

/-! ### Groups -/

/-- Join three matrices of elements. -/
def zip3 {α β : Type} (f : α → α → α → β) (a b c : List (List α)) : List (List β) :=
  zipRows (fun (g : α → β) x => g x) (zipRows f a b) c

/-- The float values of a source fitted to a shape. -/
def Tile.floats (t : Tile) (rows cols : Nat) : List (List FVal) := fitRows rows cols t.values.1

/-- The integers of a source fitted to a shape. -/
def Tile.ints (t : Tile) (rows cols : Nat) : List (List Int) :=
  fitRows rows cols (t.elems.map (fun r => r.map (signedOf t.fmt.bits)))

/-- The patterns of a source fitted to a shape. -/
def Tile.patterns (t : Tile) (rows cols : Nat) : List (List Nat) := fitRows rows cols t.elems

/-- The float element-wise group (R383): an exact value, rounded once. -/
def floatPlan (w : VWord) (f : FVal → FVal → FVal → FVal) : VPlan :=
  { cls := 2, okA := Fmt.isFloat, okB := Fmt.isFloat, okC := Fmt.isFloat, zeroFmt := .f32,
    okRes := fun _ _ _ r => r.isFloat,
    run := fun a b c res rows cols _ =>
      (zip3 (fun x y z => roundTo res w.rnd w.sat (f x y z)) (a.floats rows cols) (b.floats rows cols)
        (c.floats rows cols), none, false) }

/-- The fused words (R386): the lane format, when given, is the result's. -/
def fusedPlan (w : VWord) (lf : BitVec 2) (f : FVal → FVal → FVal → FVal) : VPlan :=
  { floatPlan w f with okRes := fun _ _ _ r =>
      r.isFloat && (match lf.toNat with
        | 0 => true
        | 1 => decide (r = .f32)
        | 2 => decide (r = .bf16)
        | _ => decide (r = .f16)) }

/-- The integer element-wise group (R384). -/
def intPlan (w : VWord) (f : Int → Int → Int → Int) : VPlan :=
  { cls := 1, okA := Fmt.isInt, okB := Fmt.isInt, okC := Fmt.isInt, zeroFmt := .i32,
    okRes := fun _ _ _ r => r.isInt,
    run := fun a b c res rows cols _ =>
      (zip3 (fun x y z => intPattern res.bits w.sat (f x y z)) (a.ints rows cols) (b.ints rows cols)
        (c.ints rows cols), none, false) }

/-- The result format of a comparison on a queue or the ring (R387). -/
def cmpFmt (a : Fmt) : Fmt := if a.bits = 32 then .i32 else .i8

/-- All ones or 0 in a format. -/
def maskOf (res : Fmt) (b : Bool) : Nat := if b then 2 ^ res.bits - 1 else 0

/-- A tile comparison holds for an order; none is an unordered pair (R387). -/
def vcondHolds (cc : VCond) (o : Option Ordering) : Bool :=
  match cc, o with
  | .ne, none => true
  | _, none => false
  | .eq, some o => o == .eq
  | .ne, some o => o != .eq
  | .lt, some o => o == .lt
  | .le, some o => o != .gt
  | .gt, some o => o == .gt
  | .ge, some o => o != .lt

/-- The comparisons (R387). -/
def cmpPlan (cls : Nat) (okSrc : Fmt → Bool) (zero : Fmt)
    (run : Tile → Tile → Fmt → Nat → Nat → List (List Nat)) : VPlan :=
  { cls := cls, okA := okSrc, okB := okSrc, zeroFmt := zero, resFmt := cmpFmt,
    okRes := fun _ _ _ r => r = .i32 || r = .i8,
    run := fun a b _ res rows cols _ => (run a b res rows cols, none, false) }

/-- The bitwise words (R388): A, B and the result share one integer format. -/
def bitPlan (f : Nat → Nat → Nat) : VPlan :=
  { cls := 1, okA := Fmt.isInt, okB := Fmt.isInt, zeroFmt := .i32,
    okRes := fun a b _ r => a = r && b = r,
    run := fun a b _ _ rows cols _ => (zipRows f (a.patterns rows cols) (b.patterns rows cols), none, false) }

/-- The shifts (R388): the count is b modulo the width of A, b sign-extended from its own format (R155). -/
def shiftPlan (f : (n x c : Nat) → Nat) : VPlan :=
  { cls := 1, okA := Fmt.isInt, okB := Fmt.isInt, zeroFmt := .i32,
    okRes := fun a _ _ r => a = r,
    run := fun a b _ res rows cols _ =>
      (zipRows (fun x y => f res.bits x (signedOf b.fmt.bits y % (res.bits : Int)).toNat)
        (a.patterns rows cols) (b.patterns rows cols), none, false) }

/-- VMOV (R389): bits are copied. -/
def movPlan : VPlan :=
  { cls := 1, okA := fun _ => true, zeroFmt := .f32, okRes := fun a _ _ r => a = r,
    run := fun a _ _ _ rows cols _ => (a.patterns rows cols, none, false) }

/-- VBCAST (R389): one element of A everywhere; A is not fitted. -/
def bcastPlan (row col : Nat) : VPlan :=
  { cls := 1, okA := fun _ => true, zeroFmt := .f32, fit := false, okRes := fun a _ _ r => a = r,
    okA2 := fun a => decide (row < a.rows) && decide (col < a.cols),
    run := fun a _ _ _ rows cols _ =>
      (List.replicate rows (List.replicate cols ((a.elems.getD row []).getD col 0)), none, false) }

/-- VSEL (R389). -/
def selPlan : VPlan :=
  { cls := 1, okA := fun _ => true, okC := Fmt.isInt, zeroFmt := .f32,
    okRes := fun a b _ r => a = r && b = r,
    run := fun a b c _ rows cols _ =>
      (zip3 (fun x y z => if z ≠ 0 then x else y) (a.patterns rows cols) (b.patterns rows cols)
        (c.patterns rows cols), none, false) }

/-- VSCALE (R390). -/
def scalePlan (w : VWord) : VPlan :=
  { cls := 2, okA := Fmt.isFloat, okB := Fmt.isInt, zeroFmt := .f32,
    okRes := fun _ _ _ r => r.isFloat,
    run := fun a b _ res rows cols _ =>
      (zipRows (fun (x : FVal) (y : Int) => roundTo res w.rnd w.sat (x.scale y)) (a.floats rows cols)
        (b.ints rows cols), none, false) }

/-- The integral value of VRND (R390): a zero keeps its sign. -/
def rndVal (rm : Rnd) : FVal → FVal
  | .fin s m e => .fin s (roundInt rm s m e).natAbs 0
  | v => v

/-- The smaller, preferring a number over a NaN (R383). -/
def minNum (a b : FVal) : FVal := if a = .nan then b else if b = .nan then a else a.min b

/-- The larger, preferring a number over a NaN (R383). -/
def maxNum (a b : FVal) : FVal := if a = .nan then b else if b = .nan then a else a.max b

/-- A g register as a 1 × 1 source (R385). -/
def scalarTile (f : Fmt) (v : Word) : Tile :=
  { rows := 1, cols := 1, fmt := f, pair := false, scales := none, elems := [[v.toNat % 2 ^ 32]] }

/-- A word whose source B is a g register (R385). -/
def runScalar (w : VWord) (p : VPlan) (f : Fmt) (g : GReg) (sc : Option VSrc) (s : State) :
    Host.Outcome State Fault Refusal :=
  runLocal { perm := [.x], cons := w.cons, alloc := w.alloc }
    (fun s c => vectorBody w p (.scalar (scalarTile f (c.seqX.rd g))) sc false s c) s

/-- A word with sources A and B. -/
def run2 (w : VWord) (p : VPlan) (b : VSrc) (st : Bool) (s : State) : Host.Outcome State Fault Refusal :=
  runVector w p (.src b st) none false s

/-! ### The words -/

/-- VADD.F (R383). -/
def execVaddF (w : VWord) (b : VSrc) (st : Bool) (s : State) : Host.Outcome State Fault Refusal :=
  run2 w (floatPlan w (fun x y _ => x.add w.rnd y)) b st s

/-- VSUB.F (R383). -/
def execVsubF (w : VWord) (b : VSrc) (st : Bool) (s : State) : Host.Outcome State Fault Refusal :=
  run2 w (floatPlan w (fun x y _ => x.add w.rnd y.neg)) b st s

/-- VMUL.F (R383). -/
def execVmulF (w : VWord) (b : VSrc) (st : Bool) (s : State) : Host.Outcome State Fault Refusal :=
  run2 w (floatPlan w (fun x y _ => x.mul y)) b st s

/-- VMIN.F (R383). -/
def execVminF (w : VWord) (b : VSrc) (st : Bool) (s : State) : Host.Outcome State Fault Refusal :=
  run2 w (floatPlan w (fun x y _ => x.min y)) b st s

/-- VMAX.F (R383). -/
def execVmaxF (w : VWord) (b : VSrc) (st : Bool) (s : State) : Host.Outcome State Fault Refusal :=
  run2 w (floatPlan w (fun x y _ => x.max y)) b st s

/-- VMINNUM (R383). -/
def execVminnum (w : VWord) (b : VSrc) (st : Bool) (s : State) : Host.Outcome State Fault Refusal :=
  run2 w (floatPlan w (fun x y _ => minNum x y)) b st s

/-- VMAXNUM (R383). -/
def execVmaxnum (w : VWord) (b : VSrc) (st : Bool) (s : State) : Host.Outcome State Fault Refusal :=
  run2 w (floatPlan w (fun x y _ => maxNum x y)) b st s

/-- VADD.I (R384). -/
def execVaddI (w : VWord) (b : VSrc) (st : Bool) (s : State) : Host.Outcome State Fault Refusal :=
  run2 w (intPlan w (fun x y _ => x + y)) b st s

/-- VSUB.I (R384). -/
def execVsubI (w : VWord) (b : VSrc) (st : Bool) (s : State) : Host.Outcome State Fault Refusal :=
  run2 w (intPlan w (fun x y _ => x - y)) b st s

/-- VMUL.I (R384). -/
def execVmulI (w : VWord) (b : VSrc) (st : Bool) (s : State) : Host.Outcome State Fault Refusal :=
  run2 w (intPlan w (fun x y _ => x * y)) b st s

/-- VMIN.I (R384). -/
def execVminI (w : VWord) (b : VSrc) (st : Bool) (s : State) : Host.Outcome State Fault Refusal :=
  run2 w (intPlan w (fun x y _ => Min.min x y)) b st s

/-- VMAX.I (R384). -/
def execVmaxI (w : VWord) (b : VSrc) (st : Bool) (s : State) : Host.Outcome State Fault Refusal :=
  run2 w (intPlan w (fun x y _ => Max.max x y)) b st s

/-- VABS.F (R383). -/
def execVabsF (w : VWord) (s : State) : Host.Outcome State Fault Refusal :=
  runVector w (floatPlan w (fun x _ _ => x.abs)) .none none false s

/-- VABS.I (R384). -/
def execVabsI (w : VWord) (s : State) : Host.Outcome State Fault Refusal :=
  runVector w (intPlan w (fun x _ _ => (x.natAbs : Int))) .none none false s

/-- VNEG.F (R383). -/
def execVnegF (w : VWord) (s : State) : Host.Outcome State Fault Refusal :=
  runVector w (floatPlan w (fun x _ _ => x.neg)) .none none false s

/-- VNEG.I (R384). -/
def execVnegI (w : VWord) (s : State) : Host.Outcome State Fault Refusal :=
  runVector w (intPlan w (fun x _ _ => -x)) .none none false s

/-- VCLAMP.F (R383). -/
def execVclampF (w : VWord) (b : VSrc) (st : Bool) (c : VSrc) (s : State) : Host.Outcome State Fault Refusal :=
  runVector w (floatPlan w (fun x lo hi => (x.max lo).min hi)) (.src b st) (some c) false s

/-- VCLAMP.I (R384). -/
def execVclampI (w : VWord) (b : VSrc) (st : Bool) (c : VSrc) (s : State) : Host.Outcome State Fault Refusal :=
  runVector w (intPlan w (fun x lo hi => Min.min (Max.max x lo) hi)) (.src b st) (some c) false s

/-- VCMP.F.cc (R387). -/
def execVcmpF (w : VWord) (cc : VCond) (b : VSrc) (st : Bool) (s : State) : Host.Outcome State Fault Refusal :=
  run2 w (cmpPlan 2 Fmt.isFloat .f32 (fun x y res rows cols =>
    zipRows (fun u v => maskOf res (vcondHolds cc (FVal.cmp u v))) (x.floats rows cols) (y.floats rows cols))) b st s

/-- VCMP.I.cc (R387). -/
def execVcmpI (w : VWord) (cc : VCond) (b : VSrc) (st : Bool) (s : State) : Host.Outcome State Fault Refusal :=
  run2 w (cmpPlan 1 Fmt.isInt .i32 (fun x y res rows cols =>
    zipRows (fun u v => maskOf res (vcondHolds cc (some (compare u v)))) (x.ints rows cols) (y.ints rows cols))) b st s

/-- VFMA (R386). -/
def execVfma (w : VWord) (lf : BitVec 2) (b : VSrc) (st : Bool) (c : VSrc) (s : State) : Host.Outcome State Fault Refusal :=
  runVector w (fusedPlan w lf (fun x y z => x.add w.rnd (y.mul z))) (.src b st) (some c) false s

/-- VFMS (R386). -/
def execVfms (w : VWord) (lf : BitVec 2) (b : VSrc) (st : Bool) (c : VSrc) (s : State) : Host.Outcome State Fault Refusal :=
  runVector w (fusedPlan w lf (fun x y z => x.add w.rnd (y.mul z).neg)) (.src b st) (some c) false s

/-- VFNMA (R386). -/
def execVfnma (w : VWord) (lf : BitVec 2) (b : VSrc) (st : Bool) (c : VSrc) (s : State) : Host.Outcome State Fault Refusal :=
  runVector w (fusedPlan w lf (fun x y z => (x.add w.rnd (y.mul z)).neg)) (.src b st) (some c) false s

/-- VSEL (R389). -/
def execVsel (w : VWord) (b : VSrc) (st : Bool) (c : VSrc) (s : State) : Host.Outcome State Fault Refusal :=
  runVector w selPlan (.src b st) (some c) false s

/-- VAND (R388). -/
def execVand (w : VWord) (b : VSrc) (st : Bool) (s : State) : Host.Outcome State Fault Refusal :=
  run2 w (bitPlan (fun x y => x &&& y)) b st s

/-- VOR (R388). -/
def execVor (w : VWord) (b : VSrc) (st : Bool) (s : State) : Host.Outcome State Fault Refusal :=
  run2 w (bitPlan (fun x y => x ||| y)) b st s

/-- VXOR (R388). -/
def execVxor (w : VWord) (b : VSrc) (st : Bool) (s : State) : Host.Outcome State Fault Refusal :=
  run2 w (bitPlan (fun x y => x ^^^ y)) b st s

/-- VSHL (R388). -/
def execVshl (w : VWord) (b : VSrc) (st : Bool) (s : State) : Host.Outcome State Fault Refusal :=
  run2 w (shiftPlan (fun n x k => x * 2 ^ k % 2 ^ n)) b st s

/-- VSHR (R388). -/
def execVshr (w : VWord) (b : VSrc) (st : Bool) (s : State) : Host.Outcome State Fault Refusal :=
  run2 w (shiftPlan (fun _ x k => x / 2 ^ k)) b st s

/-- VSAR (R388). -/
def execVsar (w : VWord) (b : VSrc) (st : Bool) (s : State) : Host.Outcome State Fault Refusal :=
  run2 w (shiftPlan (fun n x k => ((BitVec.ofNat n x).sshiftRight k).toNat)) b st s

/-- VMOV (R389). -/
def execVmov (w : VWord) (s : State) : Host.Outcome State Fault Refusal :=
  runVector w movPlan .none none false s

/-- VBCAST (R389). -/
def execVbcast (w : VWord) (row col : BitVec 6) (s : State) : Host.Outcome State Fault Refusal :=
  runVector w (bcastPlan row.toNat col.toNat) .none none false s

/-- VSCALE (R390). -/
def execVscale (w : VWord) (b : VSrc) (st : Bool) (s : State) : Host.Outcome State Fault Refusal :=
  run2 w (scalePlan w) b st s

/-- VRND (R390). -/
def execVrnd (w : VWord) (s : State) : Host.Outcome State Fault Refusal :=
  runVector w (floatPlan w (fun x _ _ => rndVal w.rnd x)) .none none false s

/-- VADD.FS (R385). -/
def execVaddFs (w : VWord) (g : GReg) (s : State) : Host.Outcome State Fault Refusal :=
  runScalar w (floatPlan w (fun x y _ => x.add w.rnd y)) .f32 g none s

/-- VSUB.FS (R385). -/
def execVsubFs (w : VWord) (g : GReg) (s : State) : Host.Outcome State Fault Refusal :=
  runScalar w (floatPlan w (fun x y _ => x.add w.rnd y.neg)) .f32 g none s

/-- VMUL.FS (R385). -/
def execVmulFs (w : VWord) (g : GReg) (s : State) : Host.Outcome State Fault Refusal :=
  runScalar w (floatPlan w (fun x y _ => x.mul y)) .f32 g none s

/-- VMIN.FS (R385). -/
def execVminFs (w : VWord) (g : GReg) (s : State) : Host.Outcome State Fault Refusal :=
  runScalar w (floatPlan w (fun x y _ => x.min y)) .f32 g none s

/-- VMAX.FS (R385). -/
def execVmaxFs (w : VWord) (g : GReg) (s : State) : Host.Outcome State Fault Refusal :=
  runScalar w (floatPlan w (fun x y _ => x.max y)) .f32 g none s

/-- VFMA.FS (R385, R386). -/
def execVfmaFs (w : VWord) (lf : BitVec 2) (g : GReg) (c : VSrc) (s : State) : Host.Outcome State Fault Refusal :=
  runScalar w (fusedPlan w lf (fun x y z => x.add w.rnd (y.mul z))) .f32 g (some c) s

/-- VADD.IS (R385). -/
def execVaddIs (w : VWord) (g : GReg) (s : State) : Host.Outcome State Fault Refusal :=
  runScalar w (intPlan w (fun x y _ => x + y)) .i32 g none s

/-- VMUL.IS (R385). -/
def execVmulIs (w : VWord) (g : GReg) (s : State) : Host.Outcome State Fault Refusal :=
  runScalar w (intPlan w (fun x y _ => x * y)) .i32 g none s

/-- VMAX.IS (R385). -/
def execVmaxIs (w : VWord) (g : GReg) (s : State) : Host.Outcome State Fault Refusal :=
  runScalar w (intPlan w (fun x y _ => Max.max x y)) .i32 g none s

/-- VMIN.IS (R385). -/
def execVminIs (w : VWord) (g : GReg) (s : State) : Host.Outcome State Fault Refusal :=
  runScalar w (intPlan w (fun x y _ => Min.min x y)) .i32 g none s

/-- The body of VFILL (R389): the low bits of the register in every element. -/
def fillBody (d : TReg) (ring : Bool) (g : GReg) (_ : State) (c : CoreTask) : Res CoreTask :=
  let sh := c.shape d.val
  let dset := c.regSet d.val false
  if c.pwrlvl < 1 then .trap (trapOf .currentOver)
  else if c.second d.val || (ring && sh.pair) then .trap (trapOf .shape)
  else if dset.any c.tileBusy || !c.landedAll .x (c.tileTags dset) then .wait c .plain
  else
    let v := (c.seqX.rd g).toNat % 2 ^ sh.fmt.bits
    let blk : Block := { rows := sh.rows, cols := sh.cols, fmt := sh.fmt, scales := none,
                         bytes := packTile sh.fmt (List.replicate sh.rows (List.replicate sh.cols v)) }
    let c1 := ((c.settleAll .x (c.tileTags dset)).1).writeTile d.val blk.bytes
    .done (if ring then c1.ringPush blk else c1) none

/-- VFILL (R389). -/
def execVfill (k : BitVec 8) (d : TReg) (ring : Bool) (g : GReg) (s : State) : Host.Outcome State Fault Refusal :=
  runLocal { perm := [.x], cons := k } (fillBody d ring g) s

end Sys2Proof.Machine
end

