-- ==== Sys2Proof/Machine/Convert.lean ====
section
/-! DEFINITION. The tile words of class 4: conversion, quantisation, special functions, reductions,
transposition, codebooks, shapes, and the landing of deferred results (R89, R330, R378, R379, R391 to R397). -/

namespace Sys2Proof.Machine

/-! ### Conversion and quantisation -/

/-- VCVT (R391): equal formats copy the bits. -/
def cvtPlan (w : VWord) (f : Fmt) : VPlan :=
  { cls := 2, okA := Fmt.convertible, zeroFmt := .f32, resFmt := fun _ => f, okRes := fun _ _ _ r => r = f,
    okDst := fun d => d.scale.isNone,
    run := fun a _ _ res rows cols _ =>
      (if a.fmt = res then a.patterns rows cols
       else (a.floats rows cols).map (fun r => r.map (roundTo res w.rnd w.sat)), none, false) }

/-- LIM of R392. -/
def quantLimit : Fmt → Nat
  | .e4m3 => 448
  | .e5m2 => 57344
  | _ => 7

/-- The magnitude does not exceed LIM × 2^(e − 127). -/
def underLimit (lim : Nat) (m : FVal) (e : Nat) : Bool :=
  decide (m.cmp (.fin false lim ((e : Int) - 127)) ≠ some .gt)

/-- The scale byte of a row (R392). -/
def scaleByte (f : Fmt) (cols : Nat) (row : List FVal) : Nat :=
  let mags := sortBy (fun a b => decide (a.cmp b ≠ some .lt)) (row.filterMap (fun v => match v with
    | .fin _ m e => some (FVal.fin false m e)
    | _ => none))
  let k := if f = .q4x then cols / 8 + 1 else 1
  match mags[Nat.min k mags.length - 1]? with
  | none => 127
  | some m =>
    if m.isZero then 127
    else ((List.range 255).find? (underLimit (quantLimit f) m)).getD 254

/-- The exponent field of an escape (R393): the value 2^(2j − 6) nearest the magnitude, ties to the larger. -/
def escapeIndex (q : FVal) : Nat :=
  -- 2^(2j−6) and 2^(2j−4) lie equally far from 5 × 2^(2j−7)
  ((List.range 7).filter (fun j : Nat => decide (q.abs.cmp (.fin false 5 (2 * (j : Int) - 7)) ≠ some .lt))).length

/-- The slots of a Q4X row (R393); `nb` holds the nibble that an escape has put into this slot. -/
def q4xSlots (rm : Rnd) (nb : Option Nat) : List FVal → List Nat
  | [] => []
  | q :: rest =>
    match nb with
    | some n => n :: q4xSlots rm none rest
    | none =>
      let small := match q with
        | .fin s m e => if (roundInt rm s m e).natAbs ≤ 7 then some (roundInt rm s m e) else none
        | .nan => some 0
        | .inf _ => none
      match small, rest with
      | some v, _ => intPattern 4 false v :: q4xSlots rm none rest
      | none, [] => [intPattern 4 false (if q.isNeg then -7 else 7)]
      | none, _ :: _ => 8 :: q4xSlots rm (some ((if q.isNeg then 8 else 0) + escapeIndex q)) rest

/-- A row quantised under its scale byte (R392, R393). -/
def quantRow (f : Fmt) (rm : Rnd) (sat : Bool) (e : Nat) (row : List FVal) : List Nat :=
  let q := row.map (fun v => if e = 255 then .nan else v.scale (127 - (e : Int)))
  if f = .q4x then q4xSlots rm none q else q.map (roundTo f rm sat)

/-- VQNT (R392, R393). -/
def qntPlan (w : VWord) (f : Fmt) (keep : Bool) : VPlan :=
  { cls := 2, okA := Fmt.isFloat, zeroFmt := .f32, resFmt := fun _ => f, okRes := fun _ _ _ r => r = f,
    okDst := fun d => d.scale.isSome, scaledDst := true,
    run := fun a _ _ res rows cols kept =>
      let vs := a.floats rows cols
      let es := if keep then kept.map (·.toNat) else vs.map (scaleByte res cols)
      ((vs.zip es).map (fun p => quantRow res w.rnd w.sat p.2 p.1), some (es.map (BitVec.ofNat 8 ·)), false) }

/-- VDQNT (R394). -/
def dqntPlan (w : VWord) (f : Fmt) : VPlan :=
  { cls := 2, okA := fun a => a = f, scaledA := true, nameA := some f, zeroFmt := f, resFmt := fun _ => .f32,
    okRes := fun _ _ _ r => r.isFloat,
    run := fun a _ _ res rows cols _ =>
      let (vs, err) := a.values
      ((fitRows rows cols vs).map (fun r => r.map (roundTo res w.rnd w.sat)), none, err) }

/-- VCVT.fmt (R391). -/
def execVcvt (w : VWord) (f : Fmt) (s : State) : Host.Outcome State Fault Refusal :=
  runVector w (cvtPlan w f) .none none false s

/-- VQNT.fmt (R392). -/
def execVqnt (w : VWord) (f : Fmt) (keep : Bool) (s : State) : Host.Outcome State Fault Refusal :=
  runVector w (qntPlan w f keep) .none none keep s

/-- VDQNT.fmt (R394). -/
def execVdqnt (w : VWord) (f : Fmt) (s : State) : Host.Outcome State Fault Refusal :=
  runVector w (dqntPlan w f) .none none false s

/-! ### Special functions (R157, R396) -/

/-- A special function: its F32 value, then one more rounding for a narrower result. -/
def specialPlan (f : FVal → FVal) : VPlan :=
  { cls := 2, okA := Fmt.isFloat, zeroFmt := .f32, okRes := fun _ _ _ r => r.isFloat,
    run := fun a _ _ res rows cols _ =>
      ((a.floats rows cols).map (fun r => r.map (fun v => roundTo res .rne false (valOf .f32 (toF32 (f v))))),
        none, false) }

/-- VEXP2. -/
def execVexp2 (w : VWord) (s : State) : Host.Outcome State Fault Refusal :=
  runVector w (specialPlan exp2Val) .none none false s

/-- VLOG2. -/
def execVlog2 (w : VWord) (s : State) : Host.Outcome State Fault Refusal :=
  runVector w (specialPlan log2Val) .none none false s

/-- VRCP. -/
def execVrcp (w : VWord) (s : State) : Host.Outcome State Fault Refusal :=
  runVector w (specialPlan rcpVal) .none none false s

/-- VRSQ. -/
def execVrsq (w : VWord) (s : State) : Host.Outcome State Fault Refusal :=
  runVector w (specialPlan rsqVal) .none none false s

/-- VTANH. -/
def execVtanh (w : VWord) (s : State) : Host.Outcome State Fault Refusal :=
  runVector w (specialPlan tanhVal) .none none false s

/-! ### Reductions and transposition (R136, R137, R158, R397) -/

/-- The columns of rows of elements. -/
def columns {α : Type} (d : α) (cols : Nat) (rows : List (List α)) : List (List α) :=
  (List.range cols).map (fun j => rows.map (·.getD j d))

/-- A float Op of the tree, rounded to F32 (R136, R397). -/
def redOp (rm : Rnd) (f : FVal → FVal → FVal) (a b : FVal) : FVal := valOf .f32 (roundTo .f32 rm false (f a b))

/-- An I32 Op of the tree (R136). -/
def redOpI (f : Int → Int → Int) (a b : Int) : Int := signedOf 32 (intPattern 32 false (f a b))

/-- What a reduction does: over rows or columns, with float and integer operations and identities (R137). -/
structure RedOps where
  byRow : Bool
  f : Rnd → FVal → FVal → FVal
  idF : FVal
  g : Int → Int → Int
  idI : Int

/-- A reduction (R397): the float form widens to F32, the integer form wraps in I32. -/
def redPlan (w : VWord) (int : Bool) (o : RedOps) : VPlan :=
  { cls := 2, okA := if int then Fmt.isInt else Fmt.isFloat, zeroFmt := if int then .i32 else .f32,
    fit := false, exact := true,
    resShape := fun p => if o.byRow then (p.1, 1) else (1, p.2),
    okRes := fun _ _ _ r => if int then r.isInt else r.isFloat,
    run := fun a _ _ res _ _ _ =>
      let lines {α : Type} (d : α) (m : List (List α)) := if o.byRow then m else columns d a.cols m
      let vals :=
        if int then
          (lines 0 (a.ints a.rows a.cols)).map (fun l => intPattern res.bits false (reduceTree (redOpI o.g) o.idI l))
        else
          (lines .nan a.values.1).map (fun l =>
            roundTo res w.rnd w.sat (reduceTree (redOp w.rnd (o.f w.rnd)) o.idF l))
      (if o.byRow then vals.map (fun v => [v]) else [vals], none, false) }

/-- Maximum by rows or columns. -/
def maxOps (byRow : Bool) : RedOps :=
  { byRow := byRow, f := fun _ => FVal.max, idF := .inf true, g := Max.max, idI := -2147483648 }

/-- Minimum by rows. -/
def minOps : RedOps :=
  { byRow := true, f := fun _ => FVal.min, idF := .inf false, g := Min.min, idI := 2147483647 }

/-- Sum by rows or columns. -/
def sumOps (byRow : Bool) : RedOps :=
  { byRow := byRow, f := fun rm => FVal.add rm, idF := .fin true 0 0, g := (· + ·), idI := 0 }

/-- VRMAX.x. -/
def execVrmax (w : VWord) (int : Bool) (s : State) : Host.Outcome State Fault Refusal :=
  runVector w (redPlan w int (maxOps true)) .none none false s

/-- VRMIN.x. -/
def execVrmin (w : VWord) (int : Bool) (s : State) : Host.Outcome State Fault Refusal :=
  runVector w (redPlan w int minOps) .none none false s

/-- VRSUM.x. -/
def execVrsum (w : VWord) (int : Bool) (s : State) : Host.Outcome State Fault Refusal :=
  runVector w (redPlan w int (sumOps true)) .none none false s

/-- VCSUM.x. -/
def execVcsum (w : VWord) (int : Bool) (s : State) : Host.Outcome State Fault Refusal :=
  runVector w (redPlan w int (sumOps false)) .none none false s

/-- VCMAX.x. -/
def execVcmax (w : VWord) (int : Bool) (s : State) : Host.Outcome State Fault Refusal :=
  runVector w (redPlan w int (maxOps false)) .none none false s

/-- VTRN (R389). -/
def trnPlan : VPlan :=
  { cls := 1, okA := fun _ => true, zeroFmt := .f32, fit := false, exact := true,
    resShape := fun p => (p.2, p.1), srcShape := fun p => (p.2, p.1), okRes := fun a _ _ r => a = r,
    run := fun a _ _ _ _ _ _ => (columns 0 a.cols a.elems, none, false) }

/-- VTRN. -/
def execVtrn (w : VWord) (s : State) : Host.Outcome State Fault Refusal :=
  runVector w trnPlan .none none false s

/-! ### Codebooks (R117, R129, R330, R395) -/

/-- A codebook's format. -/
def Codebook.fmt (b : Codebook) : Fmt := if b.f16 then .f16 else .bf16

/-- The value of an index (R129). -/
def Codebook.value (b : Codebook) (i : Nat) : FVal := valOf b.fmt (b.entries.getD i 0).toNat

/-- VLUT (R395). -/
def lutPlan (w : VWord) (f16 : Bool) (b : Codebook) : VPlan :=
  { cls := 2, okA := fun a => a = .l16, nameA := some .l16, zeroFmt := .l16,
    resFmt := fun _ => if f16 then .f16 else .bf16, okRes := fun _ _ _ r => r.isFloat,
    okA2 := fun _ => decide (b.f16 = f16),
    run := fun a _ _ res rows cols _ =>
      ((a.patterns rows cols).map (fun r => r.map (fun i => roundTo res w.rnd w.sat (b.value i))), none, false) }

/-- VLUT.fmt. -/
def execVlut (w : VWord) (f16 : Bool) (cb : Fin 8) (s : State) : Host.Outcome State Fault Refusal :=
  runLocal { perm := [.x], cons := w.cons, alloc := w.alloc }
    (fun s c => vectorBody w (lutPlan w f16 (Tab.get Codebook.zero c.books cb.val)) .none none false s c) s

/-- The body of CBLD (R330); a depth never written is the zero tile of no shape that fits, hence SHAPE. -/
def cbldBody (a : VSrc) (strict : Bool) (cb : Fin 8) (_ : State) (c : CoreTask) : Res CoreTask :=
  if c.pwrlvl < 1 then .trap (trapOf .currentOver)
  else
    match c.source a strict false [] with
    | .wait => .wait c .plain
    | .emptyRead => .trap (trapOf .emptyRead)
    | .unwritten => .trap (trapOf .shape)
    | .tile t =>
      if c.secondSrc a || t.scales.isSome || !(t.fmt = .bf16 || t.fmt = .f16) || t.pair || t.rows * t.cols ≠ 16 then
        .trap (trapOf .shape)
      else
        let book : Codebook := { entries := t.elems.flatten.map (BitVec.ofNat 16 ·), f16 := decide (t.fmt = .f16) }
        let c1 := a.lq?.foldl (fun c q => c.popBlock q) c
        .done { c1 with books := Tab.set Codebook.zero c1.books cb.val book } none

/-- CBLD (R330). -/
def execCbld (k : BitVec 8) (a : VSrc) (strict : Bool) (cb : Fin 8) (s : State) : Host.Outcome State Fault Refusal :=
  runLocal { perm := [.x], cons := k } (cbldBody a strict cb) s

/-! ### Shapes (R378, R379) -/

/-- The body of TSHAPE (R378). -/
def tshapeBody (d : TReg) (a : GReg) (_ : State) (c : CoreTask) : Res CoreTask :=
  let v := c.seqX.rd a
  if c.pwrlvl < 1 then .trap (trapOf .currentOver)
  else if c.tileBusy d.val then .wait c .plain
  else if (shapeOf d.val v).isNone || c.second d.val || (v.getLsbD 20 && c.tileBusy (d.val + 1)) then
    .trap (trapOf .shape)
  else .done (c.setTsd d.val v) none

/-- TSHAPE (R378). -/
def execTshape (k : BitVec 8) (d : TReg) (a : GReg) (s : State) : Host.Outcome State Fault Refusal :=
  runLocal { perm := [.x], cons := k } (tshapeBody d a) s

/-- TSHGET (R379). -/
def execTshget (k : BitVec 8) (d : GReg) (t : TReg) (_st : Bool) (s : State) : Host.Outcome State Fault Refusal :=
  runLocal { perm := [.x], cons := k, dst := gDst d }
    (fun _ c => if c.pwrlvl < 1 then .trap (trapOf .currentOver) else .done c (some (d, c.tsdOf t.val))) s

end Sys2Proof.Machine
end

