-- ==== Sys2Proof/Machine/Matrix.lean ====
section
/-! DEFINITION. Matrix commands: the pushes of the C-sequencer and the steps of the matrix engine (R92, R94,
R95, R132 to R135, R138 to R152, R356). -/

namespace Sys2Proof

/-- The pair sums in I32 (R132). -/
def MxPair.int (p : MxPair) : Bool := !p.bs && p.a.isInt && p.b.isInt

/-- An operand of 16 bits, as which every L16 counts (R129). -/
def Fmt.wide (f : Fmt) : Bool := f = .bf16 || f = .f16 || f = .l16

/-- The chunk size of a pair (R132). -/
def MxPair.chunk (p : MxPair) : Nat := if p.a.wide || p.b.wide then 16 else 32

/-- The current class of a pair (R143). -/
def MxPair.cls (p : MxPair) : Nat :=
  if p.a.wide || p.b.wide then 5
  else if p.b = .q4 ∧ (p.a = .q4 ∨ p.a = .i8) then 7 else 6

/-- Present elements per 64 of a sparse command (R141). -/
def MxMul.nsp (p : MxMul) : Nat := 8 * (p.spn.val + 1)

/-- Rows of Te that an epilogue reads (R148). -/
def Epi.rows : Epi → Nat
  | .s => 1 | .sz => 2 | .szb => 3

end Sys2Proof

namespace Sys2Proof.Machine

/-! ### Pushes (R94, R95, R356) -/

/-- The tile registers that block `b` of a multiply names, scale tiles among them (R92, R131). -/
def CoreTask.blockTiles (c : CoreTask) (p : MxMul) (b : Nat) : List Nat :=
  [p.ta.toNat + b, p.tb.toNat + b].flatMap (fun t => t :: (c.shape t).scale.toList)

/-- The registers whose pending reads a push raises (R92). -/
def CoreTask.readTiles (c : CoreTask) : Instr → List Nat
  | .mxmul p | .mxmuls p => (List.range (p.rep.val + 1)).flatMap (c.blockTiles p)
  | .mxepi p _ => [p.t.toNat]
  | _ => []

/-- The registers that a push marks empty (R92, R147). -/
def CoreTask.emptyTiles (c : CoreTask) : Instr → List Nat
  | .mxwr _ _ _ t => c.regSet t.toNat false
  | .mxrd p f _ _ => if p.bytes f ≤ 8192 then [p.t.toNat] else [p.t.toNat, p.t.toNat + 1]
  | _ => []

/-- Raise the pending reads of registers. -/
def CoreTask.addPend (c : CoreTask) (ts : List Nat) : CoreTask :=
  { c with pend := ts.foldl (fun p t => Tab.upd 0 p t (· + 1)) c.pend }

/-- The engine has read registers (R92). -/
def CoreTask.dropPend (c : CoreTask) (ts : List Nat) : CoreTask :=
  { c with pend := ts.foldl (fun p t => Tab.upd 0 p t (· - 1)) c.pend }

/-- Mark registers empty or full. -/
def CoreTask.setEmpty (c : CoreTask) (ts : List Nat) (e : Bool) : CoreTask :=
  { c with empty := ts.foldl (fun m t => Tab.set false m t e) c.empty }

/-- A command enters the matrix queue with its marks, as a release at CORE scope (R92, R95). -/
def CoreTask.pushMx (c : CoreTask) (i : Instr) : CoreTask :=
  let c1 := c.updSeq .c Seq.release
  let c2 := (c1.addPend (c1.readTiles i)).setEmpty (c1.emptyTiles i) true
  { c2 with mxq := c2.mxq ++ [{ i := i, waddr := c.seqC.pc, stamp := c1.seqC.stamp }] }

/-- The push of a matrix command of a current class (R94, R152, R356). -/
def mxPush (i : Instr) (cls : Nat) (bad : Option Trap) (s : State) : Host.Outcome State Fault Refusal :=
  runGlobal (cOnly 0) (fun s c =>
    match bad with
    | some t => .trap t
    | none =>
      if c.pwrlvl < cls then .trap (trapOf .currentOver)
      else afterRelease .core s (fun s c => if 16 ≤ c.mxq.length then .wait s .plain else doneCt s (c.pushMx i))) s

/-- MXMUL (R141). -/
def execMxmul (p : MxMul) (s : State) : Host.Outcome State Fault Refusal := mxPush (.mxmul p) p.pair.cls none s

/-- MXMULS (R141). -/
def execMxmuls (p : MxMul) (s : State) : Host.Outcome State Fault Refusal := mxPush (.mxmuls p) p.pair.cls none s

/-- MXZERO (R146). -/
def execMxzero (wsem ssem : BitVec 8) (acc : Fin 16) (int : Bool) (s : State) : Host.Outcome State Fault Refusal :=
  mxPush (.mxzero wsem ssem acc int) 2 none s

/-- MXWR (R146). -/
def execMxwr (wsem ssem : BitVec 8) (acc : Fin 16) (t : BitVec 6) (s : State) : Host.Outcome State Fault Refusal :=
  mxPush (.mxwr wsem ssem acc t) 2 none s

/-- MXRD (R146, R147): a size that no tile or pair holds raises SHAPE at the push. -/
def execMxrd (p : MxWin) (f : Fmt) (rnd : Rnd) (sat : Bool) (s : State) : Host.Outcome State Fault Refusal :=
  let n := p.bytes f
  mxPush (.mxrd p f rnd sat) 2
    (if 16384 < n ∨ (8192 < n ∧ p.t.toNat % 2 = 1) then some (trapOf .shape) else none) s

/-- MXEPI (R148). -/
def execMxepi (p : MxWin) (v : Epi) (s : State) : Host.Outcome State Fault Refusal := mxPush (.mxepi p v) 2 none s

/-! ### Accumulators (R117, R140) -/

/-- The words of an accumulator tile, row-major. -/
def CoreTask.accWords (c : CoreTask) (n : Nat) : List (BitVec 32) := sliceN 0 c.acc (n * 4096) 4096

/-- The row sums of an accumulator tile. -/
def CoreTask.rsWords (c : CoreTask) (n : Nat) : List (BitVec 32) := sliceN 0 c.rsum (n * 64) 64

/-- Every word of an accumulator and its row sums is 0, under a reading (R142, R146). -/
def CoreTask.zeroAcc (c : CoreTask) (n : Nat) (int : Bool) : CoreTask :=
  { c with acc := splice 0 c.acc (n * 4096) (List.replicate 4096 0),
           rsum := splice 0 c.rsum (n * 64) (List.replicate 64 0), accInt := Tab.set false c.accInt n int }

/-- Change the words of rows 0 to `rows` − 1 and columns 0 to `cols` − 1. -/
def CoreTask.updAcc (c : CoreTask) (n rows cols : Nat) (f : Nat → Nat → BitVec 32 → BitVec 32) : CoreTask :=
  let ws := ((c.accWords n).zip (List.range 4096)).map (fun x =>
    if x.2 / 64 < rows ∧ x.2 % 64 < cols then f (x.2 / 64) (x.2 % 64) x.1 else x.1)
  { c with acc := splice 0 c.acc (n * 4096) ws }

/-- Change the row sums of rows 0 to `rows` − 1. -/
def CoreTask.updRs (c : CoreTask) (n rows : Nat) (f : Nat → BitVec 32 → BitVec 32) : CoreTask :=
  let ws := ((c.rsWords n).zip (List.range 64)).map (fun x => if x.2 < rows then f x.2 x.1 else x.1)
  { c with rsum := splice 0 c.rsum (n * 64) ws }

/-! ### The dot product (R132 to R135, R138) -/

/-- Chunks of terms onto an FP32 word (R133). -/
def sumChunks (ch : Nat) (acc : BitVec 32) (terms : List FVal) : BitVec 32 :=
  (chunksOf ch terms.length terms).foldl (fun a ts => BitVec.ofNat 32 (addF32 a.toNat (sumTerms ts))) acc

/-- The integer of an exact value. -/
def FVal.toInt (v : FVal) : Int := (v.integer?).getD 0

/-- Terms onto an I32 word (R134). -/
def sumInts (acc : BitVec 32) (terms : List FVal) : BitVec 32 :=
  acc + BitVec.ofInt 32 ((terms.map FVal.toInt).foldl (· + ·) 0)

/-- Terms onto a word of the pair's path. -/
def mxOnto (p : MxPair) (acc : BitVec 32) (terms : List FVal) : BitVec 32 :=
  if p.int then sumInts acc terms else sumChunks p.chunk acc terms

/-- An operand's rows of values, and whether a Q4X escape error was met; L16 reads the codebook (R129). -/
def operandRows (t : Tile) (book : Codebook) : List (List FVal) × Bool :=
  if t.fmt = .l16 then (t.elems.map (fun r => r.map book.value), false) else t.values

/-- The expanded row of a sparse operand: present elements at their positions, none elsewhere (R138). -/
def expand : List Bool → List FVal → List (Option FVal)
  | [], _ => []
  | true :: ms, v :: vs => some v :: expand ms vs
  | true :: ms, [] => none :: expand ms []
  | false :: ms, vs => none :: expand ms vs

/-- The terms of a row of A and a row of B: an absent position contributes nothing (R138). -/
def mxTerms (a : List FVal) (b : List (Option FVal)) : List FVal :=
  (a.zip b).map (fun x => match x.2 with
    | some v => x.1.mul v
    | none => .fin false 0 0)

/-- The 64-bit mask of row `r` of a metadata entry (R144). -/
def maskBitsOf (e : List Byte) (r : Nat) : List Bool :=
  let w := leWord ((e.drop (8 * r)).take 8)
  (List.range 64).map (fun k => w.getLsbD k)

/-- A block of a multiply (R142, R145): A, the expanded B, the row sums; its tiles count as read. -/
def CoreTask.mulBlock (c : CoreTask) (p : MxMul) (b : Nat) (meta? : Option (List Byte)) : CoreTask :=
  let a := c.tile (p.ta.toNat + b)
  let tb := c.tile (p.tb.toNat + b)
  let (as, e1) := operandRows a c.mxBook
  let (bs, e2) := operandRows tb c.mxBook
  let bx : List (List (Option FVal)) := (bs.zip (List.range bs.length)).map (fun x =>
    match meta? with
    | some e => expand (maskBitsOf e x.2) x.1
    | none => x.1.map some)
  let c1 := c.updAcc p.acc.val a.rows tb.rows (fun r k w => mxOnto p.pair w (mxTerms (as.getD r []) (bx.getD k [])))
  let c2 := if p.rsum then c1.updRs p.acc.val a.rows (fun r w => mxOnto p.pair w (as.getD r [])) else c1
  { c2.dropPend (c.blockTiles p b) with fmtErr := c.fmtErr || e1 || e2 }

/-- An operand of a multiply has its format, no pair, and the scale tile that the scale rule asks for (R142). -/
def CoreTask.mulOperand (c : CoreTask) (p : MxPair) (f : Fmt) (t : Nat) : Bool :=
  let s := c.shape t
  decide (s.fmt = f) && !s.pair && decide (s.scale.isSome = (p.bs && f.scalable))

/-- The checks at the start of a multiply (R142, R145). -/
def CoreTask.mulOk (c : CoreTask) (p : MxMul) (sparse : Bool) : Bool :=
  (List.range (p.rep.val + 1)).all (fun b =>
    let ta := p.ta.toNat + b
    let tb := p.tb.toNat + b
    c.mulOperand p.pair p.pair.a ta && c.mulOperand p.pair p.pair.b tb &&
      (if sparse then decide ((c.shape ta).cols = 64) && decide ((c.shape tb).cols = p.nsp)
       else decide ((c.shape ta).cols = (c.shape tb).cols)) &&
      decide ((c.shape ta).rows = (c.shape p.ta.toNat).rows) && decide ((c.shape tb).rows = (c.shape p.tb.toNat).rows)) &&
  (p.zero || decide (Tab.get false c.accInt p.acc.val = p.pair.int))

/-! ### The engine (R95, R139, R149, R151) -/

/-- What the head of the matrix queue finds: nothing to do, a wait that begins, or its turn. -/
inductive HeadRes where
  | no
  | wait (s : State)
  | run (c : CoreTask) (cmd : MxCmd)

/-- The head of the matrix queue, when it is a command of the asked kind and no fault has stopped the engine (R279): it
waits for its WSEM (R95). -/
def State.mxReady (s : State) (slot rank : Nat) (mine : Instr → Bool) : HeadRes :=
  match s.task? slot, s.ct? slot rank with
  | some t, some c =>
    if t.state = .running ∧ s.clocked c.core ∧ c.mxStopped = false ∧ t.engineStops s.dtime rank 4 = false then
      (match c.mxq with
        | [] => .no
        | cmd :: _ =>
          let w := (engineSems cmd.i).1
          if !mine cmd.i then .no
          else if w = 0 ∨ c.mxHead = .served then .run c cmd
          else if c.mxHead = .none then
            let c1 := CoreTask.serveSem { c with mxHead := .waiting s.fresh } w
            .wait ({ s with fresh := s.fresh + 1 }.putCt slot rank c1)
          else .no)
    else .no
  | _, _ => .no

/-- A command starts: it acquires from its push and reads its codebook (R95, R129). -/
def CoreTask.mxStart (c : CoreTask) (cmd : MxCmd) (cb : Nat) : CoreTask :=
  { c with mxStamp := acqStamp c.mxStamp cmd.stamp, mxBook := Tab.get Codebook.zero c.books cb, mxBlock := some 0 }

/-- The opcode of a command. -/
def opcOf (i : Instr) : BitVec 9 := i.opc.getD 0

/-- A fault of the engine at a command and its block (R151, R284). -/
def State.mxFault (s : State) (slot rank : Nat) (c : CoreTask) (cmd : MxCmd) : State :=
  (s.putCt slot rank c).raiseEngine slot rank 4 (trapOf .shape) cmd.waddr (opcOf cmd.i)
    (BitVec.ofNat 48 (c.mxBlock.getD 0))

/-- A command completes: its tiles are full, it leaves its queue, and SSEM signals (R92, R95). -/
def State.mxDone (s : State) (slot rank : Nat) (c : CoreTask) (cmd : MxCmd) : State :=
  let sem := (engineSems cmd.i).2
  let c1 := { c.setEmpty (c.emptyTiles cmd.i) false with mxq := c.mxq.drop 1, mxHead := .none, mxBlock := none, mxHalted := false }
  s.engineRan slot rank 4 <|
  if sem = 0 then s.putCt slot rank c1
  else
    let c2 := { c1 with mxStamp := c1.mxStamp + 1 }
    match c2.signal sem 1 c2.mxStamp (Config.sameCycle s.tick) with
    | some c3 => s.putCt slot rank c3
    | none => (s.putCt slot rank c2).raiseAtC slot rank (trapOf .semOverflow) cmd.waddr

/-- Block `b` of a multiply that has started (R142, R145); a sparse one waits for its metadata entry, which is a progress
point (R149). -/
def State.mulBlockStep (s : State) (slot rank : Nat) (c : CoreTask) (cmd : MxCmd) (p : MxMul) (sparse : Bool) (b : Nat) : State :=
  let go (c : CoreTask) (m : Option (List Byte)) : State :=
    let c1 := c.mulBlock p b m
    if b = p.rep.val then s.mxDone slot rank c1 cmd
    else s.engineRan slot rank 4 (s.putCt slot rank { c1 with mxBlock := some (b + 1), mxHalted := false })
  if sparse then
    match Tab.get [] c.mdq p.mdq.val with
    | [] => s.putCt slot rank c
    | e :: rest =>
      if (List.range (c.shape (p.tb.toNat + b)).rows).any (fun r => decide (((maskBitsOf e r).filter id).length ≠ p.nsp)) then
        s.mxFault slot rank c cmd
      else go { c with mdq := Tab.set [] c.mdq p.mdq.val rest } (some e)
  else go c none

/-- A multiply's core-task at its start: the codebook is read, and ZERO clears the accumulator (R142). -/
def CoreTask.mulBegin (c : CoreTask) (cmd : MxCmd) (p : MxMul) : CoreTask :=
  let c1 := c.mxStart cmd p.cb.val
  if p.zero then c1.zeroAcc p.acc.val p.pair.int else c1

/-- The next step of a multiply: its checks, its start and its first block together, then one block at a time (R142, R145,
R149). -/
def State.mulStep (s : State) (slot rank : Nat) (c : CoreTask) (cmd : MxCmd) (p : MxMul) (sparse : Bool) : State :=
  match c.mxBlock with
  | none =>
    if c.mulOk p sparse then s.mulBlockStep slot rank (c.mulBegin cmd p) cmd p sparse 0
    else s.mxFault slot rank c cmd
  | some b => s.mulBlockStep slot rank c cmd p sparse b

/-- MXMUL_EXEC (R142). -/
def execMxmulExec (slot rank : Nat) (s : State) : Host.Outcome State Fault Refusal :=
  match s.mxReady slot rank (fun i => match i with
    | .mxmul _ => true
    | _ => false) with
  | .run c cmd =>
    (match cmd.i with
      | .mxmul p => ok (s.mulStep slot rank c cmd p false)
      | _ => idle s)
  | .wait s' => ok s'
  | .no => idle s

/-- MXMULS_EXEC (R145). -/
def execMxmulsExec (slot rank : Nat) (s : State) : Host.Outcome State Fault Refusal :=
  match s.mxReady slot rank (fun i => match i with
    | .mxmuls _ => true
    | _ => false) with
  | .run c cmd =>
    (match cmd.i with
      | .mxmuls p => ok (s.mulStep slot rank c cmd p true)
      | _ => idle s)
  | .wait s' => ok s'
  | .no => idle s

/-- MXZERO_EXEC (R146). -/
def execMxzeroExec (slot rank : Nat) (s : State) : Host.Outcome State Fault Refusal :=
  match s.mxReady slot rank (fun i => match i with
    | .mxzero .. => true
    | _ => false) with
  | .run c cmd =>
    (match cmd.i with
      | .mxzero _ _ acc int => ok (s.mxDone slot rank ((c.mxStart cmd 0).zeroAcc acc.val int) cmd)
      | _ => idle s)
  | .wait s' => ok s'
  | .no => idle s

/-- A tile that a transfer reads: not the second of a pair, and unscaled (R108, R131). -/
def CoreTask.plainTile (c : CoreTask) (t : Nat) : Bool := !c.second t && (c.shape t).scale.isNone

/-- MXWR_EXEC (R146). -/
def execMxwrExec (slot rank : Nat) (s : State) : Host.Outcome State Fault Refusal :=
  match s.mxReady slot rank (fun i => match i with
    | .mxwr .. => true
    | _ => false) with
  | .run c cmd =>
    (match cmd.i with
      | .mxwr _ _ acc t =>
        let x := c.tile t.toNat
        if c.plainTile t.toNat && (x.fmt = .f32 || x.fmt = .i32) then
          let c1 := (c.mxStart cmd 0).updAcc acc.val x.rows x.cols (fun r k _ =>
            BitVec.ofNat 32 ((x.elems.getD r []).getD k 0))
          ok (s.mxDone slot rank { c1 with accInt := Tab.set false c1.accInt acc.val (decide (x.fmt = .i32)) } cmd)
        else ok (s.mxFault slot rank c cmd)
      | _ => idle s)
  | .wait s' => ok s'
  | .no => idle s

/-- An accumulator word in the format of MXRD: the same type copies the bits (R146). -/
def readOut (int : Bool) (f : Fmt) (rm : Rnd) (sat : Bool) (w : BitVec 32) : Nat :=
  if (int && decide (f = .i32)) || (!int && decide (f = .f32)) then w.toNat
  else roundTo f rm sat (valOf (if int then .i32 else .f32) w.toNat)

/-- MXRD_EXEC (R146, R147). -/
def execMxrdExec (slot rank : Nat) (s : State) : Host.Outcome State Fault Refusal :=
  match s.mxReady slot rank (fun i => match i with
    | .mxrd .. => true
    | _ => false) with
  | .run c cmd =>
    (match cmd.i with
      | .mxrd p f rm sat =>
        if c.second p.t.toNat then ok (s.mxFault slot rank c cmd)
        else
          let int := Tab.get false c.accInt p.acc.val
          let ws := c.accWords p.acc.val
          let rows := (chunksOf 64 64 ws).take p.rows.toNat
          let bytes := packTile f (rows.map (fun r => (r.take p.cols.toNat).map (readOut int f rm sat)))
          ok (s.mxDone slot rank ((c.mxStart cmd 0).writeTile p.t.toNat bytes) cmd)
      | _ => idle s)
  | .wait s' => ok s'
  | .no => idle s

/-- A value rounded to F32 under RNE. -/
def rneF32 (v : FVal) : FVal := valOf .f32 (toF32 v)

/-- An element of an epilogue (R148): its word, row sum, scale, zero point and bias. -/
def epiWord (v : Epi) (a rs sc zp bias : FVal) : FVal :=
  let a1 := match v with
    | .s => a
    | _ => rneF32 (a.add .rne (rneF32 (zp.mul rs)).neg)
  let a2 := rneF32 (a1.mul sc)
  match v with
  | .szb => rneF32 (a2.add .rne bias)
  | _ => a2

/-- An I32 accumulator read as FP32 (R148). -/
def CoreTask.floatAcc (c : CoreTask) (n : Nat) : CoreTask :=
  if Tab.get false c.accInt n then
    let f (w : BitVec 32) : BitVec 32 := BitVec.ofNat 32 (toF32 (valOf .i32 w.toNat))
    let c1 := (c.updAcc n 64 64 (fun _ _ w => f w)).updRs n 64 (fun _ w => f w)
    { c1 with accInt := Tab.set false c1.accInt n false }
  else c

/-- MXEPI_EXEC (R148). -/
def execMxepiExec (slot rank : Nat) (s : State) : Host.Outcome State Fault Refusal :=
  match s.mxReady slot rank (fun i => match i with
    | .mxepi .. => true
    | _ => false) with
  | .run c cmd =>
    (match cmd.i with
      | .mxepi p v =>
        let te := c.tile p.t.toNat
        if c.plainTile p.t.toNat && decide (te.fmt = .f32) && decide (p.cols.toNat ≤ te.cols) && decide (v.rows ≤ te.rows) then
          let c1 := (c.mxStart cmd 0).floatAcc p.acc.val
          let val (r k : Nat) : FVal := valOf .f32 ((te.elems.getD r []).getD k 0)
          let rs := c1.rsWords p.acc.val
          let c2 := c1.updAcc p.acc.val p.rows.toNat p.cols.toNat (fun r k w =>
            BitVec.ofNat 32 (toF32 (epiWord v (valOf .f32 w.toNat) (valOf .f32 (rs.getD r 0).toNat) (val 0 k) (val 1 k)
              (val 2 k))))
          ok (s.mxDone slot rank (c2.dropPend [p.t.toNat]) cmd)
        else ok (s.mxFault slot rank c cmd)
      | _ => idle s)
  | .wait s' => ok s'
  | .no => idle s

end Sys2Proof.Machine
end

