-- ==== Sys2Proof/Machine/Copy.lean ====
section
/-! DEFINITION. Copy commands: the pushes of the C-sequencer and the steps of the copy engine (R94, R95, R150,
R182, R190, R202, R204, R252, R332 to R336). -/

namespace Sys2Proof.Machine

/-! ### Captured operands (R332, R333, R336) -/

/-- A register of the C-sequencer as a number. -/
def CoreTask.cReg (c : CoreTask) (r : GReg) : Nat := (c.seqC.rd r).toNat

/-- Register `g[RG + i]` of the geometry block. -/
def CoreTask.geo (c : CoreTask) (p : CopyOp) (i : Nat) : Word := c.seqC.rd (Fin.ofNat 32 (p.rg.val + i))

/-- The operands of a copy, captured at the push (R333). -/
def CoreTask.capture (c : CoreTask) (i : Instr) (p : CopyOp) (n : Dims) : CopyCmd :=
  let multi := decide (n ≠ .d1)
  let three := decide (n = .d3)
  { i := i, waddr := c.seqC.pc, stamp := c.seqC.stamp, dst := c.seqC.rd p.rd, src := c.seqC.rd p.rs,
    len := c.cReg p.rl,
    n1 := if multi then fieldOf (c.geo p 0) 0 32 else 1, n2 := if three then fieldOf (c.geo p 0) 32 32 else 1,
    ss1 := if multi then fieldOf (c.geo p 1) 0 32 else 0, ds1 := if multi then fieldOf (c.geo p 1) 32 32 else 0,
    ss2 := if three then fieldOf (c.geo p 2) 0 32 else 0, ds2 := if three then fieldOf (c.geo p 2) 32 32 else 0 }

/-- The rows of one side: start, row stride, plane stride. -/
structure Rows where
  base : Nat
  s1 : Nat
  s2 : Nat
  deriving DecidableEq, Repr

/-- The source rows. -/
def CopyCmd.srcRows (k : CopyCmd) : Rows := { base := k.src.toNat, s1 := k.ss1, s2 := k.ss2 }

/-- The destination rows. -/
def CopyCmd.dstRows (k : CopyCmd) : Rows := { base := k.dst.toNat, s1 := k.ds1, s2 := k.ds2 }

/-- Bytes from the lowest to the highest byte of a side. -/
def CopyCmd.span (k : CopyCmd) (r : Rows) : Nat := (k.n2 - 1) * r.s2 + (k.n1 - 1) * r.s1 + k.len

/-- The starts of a side's rows; rows that a stride of 0 repeats stand once. -/
def CopyCmd.starts (k : CopyCmd) (r : Rows) : List Nat :=
  (List.range (if r.s2 = 0 then 1 else k.n2)).flatMap (fun p =>
    (List.range (if r.s1 = 0 then 1 else k.n1)).map (fun i => r.base + p * r.s2 + i * r.s1))

/-- The bytes of a copy. -/
def CopyCmd.total (k : CopyCmd) : Nat := k.len * k.n1 * k.n2

/-- The source stands in the issuing core's scratchpad. -/
def CopyCmd.srcLocal (k : CopyCmd) : Bool :=
  match k.i with
  | .cpl2g .. | .cpl2l .. | .cpbc .. | .cpmeta .. => true
  | _ => false

/-- The global side: its rows, and whether the copy writes it. -/
def CopyCmd.global? (k : CopyCmd) : Option (Rows × Bool) :=
  match k.i with
  | .cpg2l .. => some (k.srcRows, false)
  | .cpl2g .. | .cpfillG .. => some (k.dstRows, true)
  | _ => none

/-- The gang ranks in whose scratchpads the copy writes (R335). -/
def CopyCmd.dstRanks (k : CopyCmd) (own : Nat) : List Nat :=
  match k.i with
  | .cpg2l .. | .cpfillL .. => [own]
  | .cpl2l _ _ r => [r.val]
  | .cpbc _ m => (List.range 16).filter (fun r => m.getLsbD r)
  | _ => []

/-- The fill value of a fill. -/
def CopyCmd.fill? (k : CopyCmd) : Option Word :=
  match k.i with
  | .cpfillL .. | .cpfillG .. => some k.src
  | _ => none

/-- The barrier that the deliveries count against. -/
def CopyCmd.bar? (k : CopyCmd) : Option Nat :=
  match k.i with
  | .cpg2l p _ | .cpl2g p _ | .cpl2l p _ _ | .cpbc p _ | .cpfillL p | .cpfillG p | .cpmeta p _ _ => p.bar.map (·.val)
  | _ => none

/-- The ranks whose barrier a delivery counts against (R334). -/
def CopyCmd.barRanks (k : CopyCmd) (own : Nat) : List Nat :=
  match k.i with
  | .cpl2l .. | .cpbc .. => k.dstRanks own
  | _ => [own]

/-! ### Checks at the push (R333) -/

/-- A ring handle (R250, R335). -/
def isHandle (a : Nat) : Bool := decide (2 ^ 63 ≤ a)

/-- The ranks that a word names exist, and CPBC does not name its own (R333). -/
def CopyCmd.ranksOk (k : CopyCmd) (own size : Nat) : Bool :=
  match k.i with
  | .cpl2l _ _ r => decide (r.val < size)
  | .cpbc _ m => decide (m.toNat < 2 ^ size) && !m.getLsbD own
  | _ => true

/-- The first global byte with a bit of 63:57 set (R166). -/
def CopyCmd.nonCanon (k : CopyCmd) (r : Rows) : Option Word :=
  if isHandle r.base then none
  else if r.base + k.span r ≤ 2 ^ 57 then none
  else some (BitVec.ofNat 64 (Nat.max r.base (2 ^ 57)))

/-- In the issuing scratchpad a byte is both read and written. -/
def CopyCmd.selfOverlap (k : CopyCmd) (own : Nat) : Bool :=
  k.srcLocal && (k.dstRanks own).contains own &&
    (k.starts k.srcRows).any (fun a => (k.starts k.dstRows).any (fun b => rangesMeet a k.len b k.len))

/-- The first check of R333 that a copy fails. -/
def CopyCmd.bad (k : CopyCmd) (own size lvl : Nat) : Option Trap :=
  let isMeta := match k.i with
    | .cpmeta .. => true
    | _ => false
  let dims := [k.len, k.ss1, k.ds1, k.ss2, k.ds2]
  if k.total = 0 ∨ 2 ^ 40 < k.total ∨ ¬k.ranksOk own size then some (trapOf .illegalField)
  else if (isMeta && decide (k.src.toNat % 8 ≠ 0)) ||
      (!isMeta && (decide (k.dst.toNat % 4 ≠ 0) || (k.fill?.isNone && decide (k.src.toNat % 4 ≠ 0)) ||
        dims.any (fun x => decide (x % 4 ≠ 0)))) then some (trapOf .align)
  else if (k.srcLocal && decide (scratchTop < k.srcRows.base + k.span k.srcRows)) ||
      (!(k.dstRanks own).isEmpty && decide (scratchTop < k.dstRows.base + k.span k.dstRows)) then some (trapOf .lsaRange)
  else match k.global?.bind (fun g => k.nonCanon g.1) with
    | some va => some (pageTrap 1 va)
    | none =>
      if k.selfOverlap own then some (trapOf .overlap)
      else if lvl < 1 then some (trapOf .currentOver) else none

/-- A copy enters the copy queue, as a release at CORE scope (R94, R95). -/
def CoreTask.pushCopy (c : CoreTask) (k : CopyCmd) : CoreTask :=
  let c1 := c.updSeq .c Seq.release
  { c1 with cpq := c1.cpq ++ [{ k with stamp := c1.seqC.stamp }] }

/-- The push of a copy command. -/
def cpPush (capture : CoreTask → CopyCmd) (s : State) : Host.Outcome State Fault Refusal :=
  runGlobal (cOnly 0) (fun s c =>
    match s.task? s.cur.slot with
    | none => .wait s .plain
    | some t =>
      let k := capture c
      match k.bad s.cur.rank t.cts.length c.pwrlvl with
      | some tr => .trap tr
      | none => afterRelease .core s (fun s c =>
          if 32 ≤ c.cpq.length + c.copies.length then .wait s .plain else doneCt s (c.pushCopy k))) s

/-- CPG2L. -/
def execCpg2l (p : CopyOp) (n : Dims) (s : State) : Host.Outcome State Fault Refusal :=
  cpPush (fun c => c.capture (.cpg2l p n) p n) s

/-- CPL2G. -/
def execCpl2g (p : CopyOp) (n : Dims) (s : State) : Host.Outcome State Fault Refusal :=
  cpPush (fun c => c.capture (.cpl2g p n) p n) s

/-- CPL2L. -/
def execCpl2l (p : CopyOp) (n : Dims) (rank : Fin 16) (s : State) : Host.Outcome State Fault Refusal :=
  cpPush (fun c => c.capture (.cpl2l p n rank) p n) s

/-- CPBC. -/
def execCpbc (p : CopyOp) (mask : BitVec 16) (s : State) : Host.Outcome State Fault Refusal :=
  cpPush (fun c => c.capture (.cpbc p mask) p .d1) s

/-- CPFILL.L. -/
def execCpfillL (p : CopyOp) (s : State) : Host.Outcome State Fault Refusal :=
  cpPush (fun c => c.capture (.cpfillL p) p .d1) s

/-- CPFILL.G. -/
def execCpfillG (p : CopyOp) (s : State) : Host.Outcome State Fault Refusal :=
  cpPush (fun c => c.capture (.cpfillG p) p .d1) s

/-- CPMETA: `count` entries of 512 bytes (R336). -/
def execCpmeta (p : CopyOp) (mdq : Fin 2) (count : BitVec 7) (s : State) : Host.Outcome State Fault Refusal :=
  cpPush (fun c => { c.capture (.cpmeta p mdq count) p .d1 with dst := 0, len := 512 * count.toNat }) s

/-! ### Ring slots (R250, R252) -/

/-- STREAM of a handle. -/
def handleStream (a : Nat) : Nat := a / 2 ^ 51 % 64
/-- SLOT of a handle. -/
def handleSlot (a : Nat) : Nat := a / 2 ^ 47 % 16
/-- OFF of a handle. -/
def handleOff (a : Nat) : Nat := a % 2 ^ 20

/-- Where slot `n` of a ring begins in its stream's store. -/
def ringBase (n : Nat) : Nat := n * 2 ^ 20

/-- The checks of R252 at the start of a copy. -/
def State.handleOk (s : State) (t : Task) (k : CopyCmd) (r : Rows) (writes : Bool) : Bool :=
  match t.stream with
  | none => false
  | some n =>
    match s.stream? n with
    | none => false
    | some st =>
      let state := (st.slots[handleSlot r.base]?).map (·.st)
      decide (handleStream r.base = n) &&
        decide (handleOff r.base + k.span r ≤ wordField st.sd 2 16 9 * 4096) &&
        (decide (state = some .claimed) || (!writes && decide (state = some .taken)))

/-! ### Start (R190, R204, R334) -/

/-- Where a copy's bytes lie: 0 to 15 a rank's scratchpad, 16 global memory, 17 ring store; lowest byte and
span. -/
def CopyCmd.areas (k : CopyCmd) (own : Nat) : List (Nat × Nat × Nat × Bool) :=
  (if k.srcLocal then [(own, k.srcRows.base, k.span k.srcRows, false)] else []) ++
  (k.dstRanks own).map (fun r => (r, k.dstRows.base, k.span k.dstRows, true)) ++
  (match k.global? with
    | some (r, w) => [(if isHandle r.base then 17 else 16, if isHandle r.base then r.base % 2 ^ 51 else r.base, k.span r, w)]
    | none => [])

/-- A copy is held back by an earlier one that runs (R190). -/
def CopyCmd.after (k e : CopyCmd) (own : Nat) : Bool :=
  (k.areas own).any (fun a => (e.areas own).any (fun b =>
    decide (a.1 = b.1) && (a.2.2.2 || b.2.2.2) && rangesMeet a.2.1 a.2.2.1 b.2.1 b.2.2.1))

/-- A fault of the copy engine at a copy and its DONE (R151, R284, R334). -/
def State.copyFault (s : State) (slot rank : Nat) (k : CopyCmd) (done : Nat) (t : Trap) : State :=
  s.raiseEngine slot rank 5 t k.waddr (opcOf k.i) (BitVec.ofNat 48 done)

/-- A miss of the copy engine: the gang parks, or the fault that R179 and R180 give. -/
def State.copyMiss (s : State) (slot rank : Nat) (k : CopyCmd) (done : Nat) (need : Need) (va : Word) (page : Nat)
    (host : Bool) : State :=
  match s.missPark slot rank 5 need va page host k.waddr with
  | .inl t => s.copyFault slot rank k done t
  | .inr s' => s'

/-- The final addresses of a copy's global side. -/
def State.copyParts (s : State) (ctx : Nat) (k : CopyCmd) : List (FAddr × Nat) :=
  match k.global? with
  | some (r, w) => if isHandle r.base then [] else
      s.finalParts ctx (if w then Need.write else Need.read) ((k.starts r).map (fun a => (a, k.len)))
  | none => []

/-- A copy is held back by an earlier one that runs: their spans meet, or they share bytes through different VAs (R190). -/
def State.copyAfter (s : State) (ctx : Nat) (k e : CopyCmd) (own : Nat) : Bool :=
  k.after e own ||
    (((k.global?.any (·.2)) || (e.global?.any (·.2))) &&
      (s.copyParts ctx k).any (fun a => (s.copyParts ctx e).any (fun b => finalsMeet a.1 a.2 b.1 b.2)))

/-- The residual slots that a copy's global side meets (R204). -/
def State.copySlots (s : State) (ctx : Nat) (c : CoreTask) (k : CopyCmd) : List (Fin 8) :=
  match k.global? with
  | some (r, _) => if isHandle r.base then [] else
      c.slotsWhere (fun x => (k.starts r).any (fun a => x.meets a k.len) ||
        (s.copyParts ctx k).any (fun a => s.slotMeets ctx x (2 ^ 64) a.1 a.2))
  | none => []

/-- An accumulate that is on its way touches bytes of a copy's global side; the copy follows it (R204). -/
def State.copySends (s : State) (slot rank ctx : Nat) (c : CoreTask) (k : CopyCmd) : Bool :=
  !c.sends.isEmpty && (s.copyParts ctx k).any (fun a => s.pieceAt slot rank c a.1 a.2)

/-- A CPMETA that runs waits for room in its queue, and with it the commands behind it (R336). -/
def CoreTask.metaWaits (c : CoreTask) : Bool :=
  c.copies.any (fun e => match e.2.cmd.i with
    | .cpmeta _ m _ => decide (64 ≤ (Tab.get [] c.mdq m.val).length)
    | _ => false)

/-- The lowest free progress register. -/
def CoreTask.freeCopy (c : CoreTask) : Option Nat := (List.range 8).find? (fun r => (find c.copies r).isNone)

/-- Start the head of the copy queue, whose WSEM is met. -/
def State.copyBegin (s : State) (slot rank : Nat) (t : Task) (c : CoreTask) (k : CopyCmd) : State :=
  match c.freeCopy with
  | none => s
  | some reg =>
    if c.copies.any (fun e => s.copyAfter t.ctx k e.2.cmd rank) || s.copySends slot rank t.ctx c k || c.metaWaits then s
    else
      match s.copySlots t.ctx c k with
      | [] =>
        if (match k.global? with
            | some (r, w) => isHandle r.base && !s.handleOk t k r w
            | none => false) then s.copyFault slot rank k 0 (trapOf .perm)
        else s.putCt slot rank { c with
          cpq := c.cpq.drop 1, cpHead := .none, cpStamp := acqStamp c.cpStamp k.stamp,
          copies := Tab.put reg { cmd := k, done := 0 } c.copies }
      | ks =>
        match s.deliverAll slot rank ks with
        | .ok s' => s'
        | .trap tr => s.copyFault slot rank k 0 tr
        | .miss va pg h => s.copyMiss slot rank k 0 Need.rmw va pg h

/-- COPY_START (R95, R334). A queued copy stands at a progress point: none starts once the gang has faulted (R279). -/
def execCopyStart (slot rank : Nat) (s : State) : Host.Outcome State Fault Refusal :=
  match s.task? slot, s.ct? slot rank with
  | some t, some c =>
    if t.state = .running ∧ s.clocked c.core ∧ c.cpStopped = false ∧ t.faulted = false then
      (match c.cpq with
        | [] => idle s
        | k :: _ =>
          let w := (engineSems k.i).1
          if w = 0 ∨ c.cpHead = .served then ok (s.copyBegin slot rank t c k)
          else if c.cpHead = .none then
            let c1 := CoreTask.serveSem { c with cpHead := .waiting s.fresh } w
            ok ({ s with fresh := s.fresh + 1 }.putCt slot rank c1)
          else idle s)
    else idle s
  | _, _ => idle s

/-! ### Pieces (R334) -/

/-- A run of a piece's bytes inside one row: source, destination, length, index in the element order. -/
structure Seg where
  src : Nat
  dst : Nat
  n : Nat
  idx : Nat

/-- The runs from index `i` to index `e`. -/
def CopyCmd.segs (k : CopyCmd) (e : Nat) : Nat → Nat → List Seg
  | 0, _ => []
  | f + 1, i =>
    if e ≤ i then []
    else
      let b := i % k.len
      let r := i / k.len % k.n1
      let p := i / k.len / k.n1
      let n := Nat.min (k.len - b) (e - i)
      { src := k.src.toNat + p * k.ss2 + r * k.ss1 + b, dst := k.dst.toNat + p * k.ds2 + r * k.ds1 + b,
        n := n, idx := i } :: segs k e f (i + n)

/-- What a piece gives; `held` while a home slice that it needs is held (R288). -/
inductive PieceRes where
  | ok (s : State)
  | held
  | trap (t : Trap)
  | miss (need : Need) (va : Word) (page : Nat) (host : Bool)

/-- The first race that translated parts meet. -/
def State.partsRace (s : State) (es : List (Xl × Nat × Nat)) (a : AgentId) (st : Stamp) (writes : Bool) : Option Trap :=
  es.findSome? (fun e => s.raceAt e.1.f e.2.2 e.1.keep a st writes false)

/-- The translations of parts stand in the caches, and the copy engine's misses on their pages are over. -/
def State.partsDone (s : State) (slot rank ctx : Nat) (waddr : BitVec 32) (es : List (Xl × Nat × Nat)) : State :=
  es.foldl (fun s e =>
    let va : Word := BitVec.ofNat 64 e.2.1
    (s.cache ctx va e.1 e.2.2).clearMiss slot rank 5 va waddr) s

/-- The granules of a list of ranges. -/
def granulesOf (rs : List (Nat × Nat)) : List (Nat × BitVec 64) := rs.flatMap (fun x => granules x.1 x.2)

/-- The source bytes of a piece, and the state after its reads have been noted. -/
def State.pieceSource (s : State) (slot rank : Nat) (t : Task) (c : CoreTask) (k : CopyCmd) (segs : List Seg) :
    PieceRes × List Byte :=
  let id := agentId slot rank 5
  match k.fill? with
  | some v => (.ok s, segs.flatMap (fun g => (List.range g.n).map (fun j => (v >>> (8 * ((g.idx + j) % 8))).setWidth 8)))
  | none =>
    if k.srcLocal then
      match c.localRead s.raceOn id c.cpStamp (granulesOf (segs.map (fun g => (g.src, g.n)))) with
      | .inl tr => (.trap tr, [])
      | .inr c1 => (.ok (s.putCt slot rank c1), segs.flatMap (fun g => c.seen s.tick c.core c.cpStamp g.src g.n))
    else if isHandle k.src.toNat then
      match s.stream? (handleStream k.src.toNat) with
      | none => (.trap (trapOf .perm), [])
      | some st =>
        let base := ringBase (handleSlot k.src.toNat) + handleOff k.src.toNat
        (.ok s, segs.flatMap (fun g => sliceN 0 st.store (base + (g.src - k.src.toNat)) g.n))
    else
      match s.vaParts t.ctx Need.read (segs.flatMap (fun g => rangeParts g.src g.n)) with
      | .trap tr => (.trap tr, [])
      | .miss va pg h => (.miss Need.read va pg h, [])
      | .ok es =>
        if es.any (fun e => s.heldAt e.1.f) then (.held, [])
        else match s.partsRace es id c.cpStamp false with
        | some tr => (.trap tr, [])
        | none =>
          let s1 := es.foldl (fun s e => s.noteRead e.1.f e.2.2 e.1.keep id c.cpStamp) s
          (.ok (s1.partsDone slot rank t.ctx k.waddr es), es.flatMap (fun e => s.readFinal e.1.f e.2.2))

/-- Write runs of bytes into a scratchpad, in order. -/
def CoreTask.writeSegs (c : CoreTask) : List Seg → List Byte → CoreTask
  | [], _ => c
  | g :: gs, bs => (c.writeLocal g.dst (bs.take g.n)).writeSegs gs (bs.drop g.n)

/-- Write runs of bytes into a ring slot, in order. -/
def ringSegs (store : Memory) (base start : Nat) : List Seg → List Byte → Memory
  | [], _ => store
  | g :: gs, bs => ringSegs (splice 0 store (base + (g.dst - start)) (bs.take g.n)) base start gs (bs.drop g.n)

/-- Write translated parts, in order. -/
def State.writeParts (s : State) (a : AgentId) (st : Stamp) : List (Xl × Nat × Nat) → List Byte → State
  | [], _ => s
  | e :: es, bs =>
    (s.applyWrite e.1.f (bs.take e.2.2) e.1.keep (some (a, st, false)) none).writeParts a st es (bs.drop e.2.2)

/-- The bytes of a piece at its destinations. -/
def State.pieceDest (s : State) (slot rank : Nat) (t : Task) (st : Stamp) (k : CopyCmd) (segs : List Seg)
    (bs : List Byte) : PieceRes :=
  let id := agentId slot rank 5
  match k.dstRanks rank with
  | [] =>
    if isHandle k.dst.toNat then
      let base := ringBase (handleSlot k.dst.toNat) + handleOff k.dst.toNat
      .ok (s.updStream (handleStream k.dst.toNat) (fun x =>
        { x with store := ringSegs x.store base k.dst.toNat segs bs }))
    else
      match s.vaParts t.ctx Need.write (segs.flatMap (fun g => rangeParts g.dst g.n)) with
      | .trap tr => .trap tr
      | .miss va pg h => .miss Need.write va pg h
      | .ok es =>
        if es.any (fun e => s.heldAt e.1.f) then .held
        else match s.partsRace es id st true with
        | some tr => .trap tr
        | none => .ok ((s.writeParts id st es bs).partsDone slot rank t.ctx k.waddr es)
  | rs =>
    rs.foldl (fun acc r =>
      match acc with
      | .ok s =>
        (match s.ct? slot r with
          | none => .ok s
          | some c =>
            match c.localWrite s.raceOn id st false (granulesOf (segs.map (fun g => (g.dst, g.n)))) with
            | .inl tr => .trap tr
            | .inr c1 =>
              let gs := granulesOf (segs.map (fun g => (g.dst, g.n)))
              let from_ := ((s.ct? slot rank).map (·.core)).getD c1.core
              .ok (s.putCt slot r ((c1.writeSegs segs bs).tear c1 from_ st true (gs.map (·.1)))))
      | e => e) (.ok s)

/-- The copy engine of a core-task makes a release: what it has written is complete in every scratchpad of the gang (R201,
R202). -/
def State.cpRelease (s : State) (slot rank : Nat) : State :=
  match s.ct? slot rank with
  | none => s
  | some c =>
    let st := c.cpStamp + 1
    (s.updTask slot (fun t => { t with cts := t.cts.map (fun e => (e.1, e.2.untear c.core st)) })).updCt slot rank
      (fun c => { c with cpStamp := st })

/-- Count `n` delivered bytes against the barriers of a copy, each a release of the engine (R116, R202). -/
def State.countBars (s : State) (slot rank n bar : Nat) (waddr : BitVec 32) : List Nat → State
  | [] => s
  | r :: rs =>
    let s1 := s.cpRelease slot rank
    let st := match s1.ct? slot rank with
      | some c => c.cpStamp
      | none => 0
    let s2 := match s1.ct? slot r with
      | none => s1
      | some c =>
        match c.changeBar bar (-(n : Int)) (some st) with
        | some c1 => s1.putCt slot r c1
        | none => s1.raiseAtC slot rank (trapOf .barOverflow) waddr
    s2.countBars slot rank n bar waddr rs

/-- A copy completes: SSEM signals and its register is free (R95, R334). -/
def State.copyDone (s : State) (slot rank : Nat) (reg : Nat) (k : CopyCmd) : State :=
  let s1 := s.updCt slot rank (fun c => { c with copies := Tab.del reg c.copies })
  let sem := (engineSems k.i).2
  if sem = 0 then s1
  else
    let s2 := s1.cpRelease slot rank
    match s2.ct? slot rank with
    | none => s2
    | some c =>
      match c.signal sem 1 c.cpStamp (Config.sameCycle s.tick) with
      | some c2 => s2.putCt slot rank c2
      | none => s2.raiseAtC slot rank (trapOf .semOverflow) k.waddr

/-- A delivery of `n` bytes: barriers, DONE, completion (R334). -/
def State.copyCount (s : State) (slot rank reg : Nat) (x : RunCopy) (n : Nat) : State :=
  let s1 := match x.cmd.bar? with
    | some b => s.countBars slot rank n b x.cmd.waddr (x.cmd.barRanks rank)
    | none => s
  let done := x.done + n
  if done < x.cmd.total then s1.updCt slot rank (fun c => { c with copies := Tab.put reg { x with done := done } c.copies })
  else s1.copyDone slot rank reg x.cmd

/-- The running copy of a progress register, when the engine may go on (R279 step 3). -/
def State.runningCopy (s : State) (slot rank reg : Nat) : Option (Task × CoreTask × RunCopy) :=
  match s.task? slot, s.ct? slot rank with
  | some t, some c =>
    if t.state = .running ∧ s.clocked c.core ∧ c.cpStopped = false ∧ t.engineStops s.dtime rank (5 + reg) = false then
      (find c.copies reg).map (fun x => (t, c, x)) else none
  | _, _ => none

/-- COPY_PIECE: the next piece of a copy (R334). -/
def execCopyPiece (slot rank : Nat) (reg : Fin 8) (s : State) : Host.Outcome State Fault Refusal :=
  match s.runningCopy slot rank reg.val with
  | none => idle s
  | some (t, c, x) =>
    match x.cmd.i with
    | .cpmeta .. => idle s
    | _ =>
      let n := Nat.min 256 (x.cmd.total - x.done)
      let segs := x.cmd.segs (x.done + n) 256 x.done
      match s.pieceSource slot rank t c x.cmd segs with
      | (.held, _) => idle s
      | (.trap tr, _) => ok (s.copyFault slot rank x.cmd x.done tr)
      | (.miss need va pg h, _) => ok (s.copyMiss slot rank x.cmd x.done need va pg h)
      | (.ok s1, bs) =>
        match s1.pieceDest slot rank t c.cpStamp x.cmd segs bs with
        | .held => idle s
        | .trap tr => ok (s.copyFault slot rank x.cmd x.done tr)
        | .miss need va pg h => ok (s.copyMiss slot rank x.cmd x.done need va pg h)
        | .ok s2 => ok (s.engineRan slot rank (5 + reg.val) (s2.copyCount slot rank reg.val x n))

/-- CPMETA_ENTRY: the next metadata entry, as the core sees it in the scratchpad (R201, R336). -/
def execCpmetaEntry (slot rank : Nat) (reg : Fin 8) (s : State) : Host.Outcome State Fault Refusal :=
  match s.runningCopy slot rank reg.val with
  | none => idle s
  | some (_, c, x) =>
    match x.cmd.i with
    | .cpmeta _ m _ =>
      let q := Tab.get [] c.mdq m.val
      let a := x.cmd.src.toNat + x.done
      if 64 ≤ q.length then idle s
      else
        match c.localRead s.raceOn (agentId slot rank 5) c.cpStamp (granules a 512) with
        | .inl tr => ok (s.copyFault slot rank x.cmd x.done tr)
        | .inr c1 =>
          let c2 := { c1 with mdq := Tab.put m.val (q ++ [c1.seen s.tick c1.core c1.cpStamp a 512]) c1.mdq }
          ok (s.engineRan slot rank (5 + reg.val) ((s.putCt slot rank c2).copyCount slot rank reg.val x 512))
    | _ => idle s

end Sys2Proof.Machine
end

