-- ==== Sys2Proof/Machine/Sync.lean ====
section
/-! DEFINITION. Semaphores, transfer barriers, the gang barrier, fences (R115, R116, R202, R203, R326 to R328, R341,
R342, R364, R365). -/

namespace Sys2Proof.Machine

/-! ### Semaphores (R115, R365) -/

/-- The amount of a semaphore word is legal (R364). -/
def amountOk (n : Nat) : Bool := decide (1 ≤ n) && decide (n ≤ 65535)

/-- SEMSIG of an amount (R365); `field` says that an immediate amount is not 0 (R364). -/
def semSignal (k sem : BitVec 8) (field : Bool) (amt : Seq → Nat) (s : State) : Host.Outcome State Fault Refusal :=
  runGlobal { anySeq k with legal := decide (sem ≠ 0) && field } (fun s c =>
    let n := amt (c.seq s.cur.q)
    if ¬amountOk n then .trap (trapOf .illegalField)
    else afterRelease .core s (fun s c =>
      let c1 := c.updSeq s.cur.q Seq.release
      match c1.signal sem.toNat n (c1.seq s.cur.q).stamp (Config.sameCycle s.tick) with
      | some c2 => doneCt s c2
      | none => .trap (trapOf .semOverflow))) s

/-- SEMSIG, immediate form. -/
def execSemsigImm (k : BitVec 8) (sem : BitVec 8) (n : BitVec 16) (s : State) : Host.Outcome State Fault Refusal :=
  semSignal k sem (decide (n ≠ 0)) (fun _ => n.toNat) s

/-- SEMSIG, register form. -/
def execSemsigReg (k : BitVec 8) (sem : BitVec 8) (a : GReg) (s : State) : Host.Outcome State Fault Refusal :=
  semSignal k sem true (fun q => (q.rd a).toNat) s

/-- The sequencer stands served at a semaphore. -/
def CoreTask.semServed (c : CoreTask) (q : SeqId) : Bool :=
  match c.waitOf q with
  | some (.sem _ _ served) => served
  | _ => false

/-- The sequencer stands at a semaphore. -/
def CoreTask.semWaits (c : CoreTask) (q : SeqId) : Bool :=
  match c.waitOf q with
  | some (.sem ..) => true
  | _ => false

/-- SEMWAIT of an amount: arrive, then wait to be served (R365). -/
def semWait (k sem : BitVec 8) (field : Bool) (amt : Seq → Nat) (s : State) : Host.Outcome State Fault Refusal :=
  runLocal { anySeq k with legal := decide (sem ≠ 0) && field } (fun s c =>
    let q := s.cur.q
    let n := amt (c.seq q)
    if ¬amountOk n then .trap (trapOf .illegalField)
    else if c.semServed q then .done c none
    else if c.semWaits q then .wait c (.sem sem.toNat n false)
    else
      let c1 := (c.updSeq q (fun sq => sq.await (.sem sem.toNat n false) s.dtime s.fresh)).serveSem sem.toNat
      if c1.semServed q then .done c1 none else .wait c1 (.sem sem.toNat n false)) s

/-- SEMWAIT, immediate form. -/
def execSemwaitImm (k : BitVec 8) (sem : BitVec 8) (n : BitVec 16) (s : State) : Host.Outcome State Fault Refusal :=
  semWait k sem (decide (n ≠ 0)) (fun _ => n.toNat) s

/-- SEMWAIT, register form. -/
def execSemwaitReg (k : BitVec 8) (sem : BitVec 8) (a : GReg) (s : State) : Host.Outcome State Fault Refusal :=
  semWait k sem true (fun q => (q.rd a).toNat) s

/-- SEMGET (R365). -/
def execSemget (k : BitVec 8) (d : GReg) (sem : BitVec 8) (s : State) : Host.Outcome State Fault Refusal :=
  runLocal { perm := [.c], legal := decide (sem ≠ 0), cons := k, dst := gDst d } (fun _ c =>
    .done c (some (d, BitVec.ofNat 64 (c.sem sem.toNat).n))) s

/-! ### Transfer barriers (R116, R326 to R328) -/

/-- The expected bytes of BAREXP: COUNT, a 34-bit unsigned field, or a signed register. -/
def barAmount (q : Seq) : Operand 34 → Int
  | .imm v => (v.toNat : Int)
  | .reg g => (q.rd g).toInt

/-- BAREXP (R327). -/
def execBarexp (k : BitVec 8) (bar : Fin 64) (n : Operand 34) (s : State) : Host.Outcome State Fault Refusal :=
  runLocal (cOnly k) (fun _ c =>
    let n := barAmount c.seqC n
    if n < -barLimit ∨ barLimit < n then .trap (trapOf .illegalField)
    else match c.changeBar bar.val n none with
      | some c1 => .done c1 none
      | none => .trap (trapOf .barOverflow)) s

/-- The expected phase of a barrier word (R328). -/
def barPhase (q : Seq) : Operand 1 → Bool
  | .imm v => decide (v = 1)
  | .reg g => (q.rd g).getLsbD 0

/-- Acquire the deliveries of the phase that was closed last (R202). -/
def CoreTask.acquireBar (c : CoreTask) (q : SeqId) (bar : Nat) : CoreTask :=
  match (Tab.get Bar.zero c.bars bar).closedSt with
  | some st => c.updSeq q (fun sq => sq.acquire st)
  | none => c

/-- BARWAIT (R328). -/
def execBarwait (k : BitVec 8) (bar : Fin 64) (p : Operand 1) (s : State) : Host.Outcome State Fault Refusal :=
  runLocal (anySeq k) (fun s c =>
    if (Tab.get Bar.zero c.bars bar.val).phase = barPhase (c.seq s.cur.q) p then
      .done (c.acquireBar s.cur.q bar.val) none
    else .wait c .plain) s

/-- BARTEST (R328). -/
def execBartest (k : BitVec 8) (d : GReg) (bar : Fin 64) (p : Operand 1) (s : State) :
    Host.Outcome State Fault Refusal :=
  runLocal { perm := allSeqs, cons := k, dst := gDst d } (fun s c =>
    if (Tab.get Bar.zero c.bars bar.val).phase = barPhase (c.seq s.cur.q) p then
      .done (c.acquireBar s.cur.q bar.val) (some (d, 1))
    else .done c (some (d, 0))) s

/-! ### GBAR (R341, R342) -/

/-- The rank arrives: a release into the gang's object. -/
def State.gbarArrive (s : State) (slot rank : Nat) : State :=
  let s1 := s.updCt slot rank (fun c => { c.updSeq .c Seq.release with gbarHere := true })
  match s1.ct? slot rank with
  | some c => s1.updTask slot (fun t => { t with gbarSt := stMax t.gbarSt c.seqC.stamp })
  | none => s1

/-- Every rank stands at its next barrier. -/
def Task.gbarFull (t : Task) (k : Nat) : Bool := t.cts.all (fun e => e.2.gbarHere && decide (e.2.gbars = k))

/-- Every rank leaves the barrier with its acquire. -/
def State.gbarLeave (s : State) (slot : Nat) (t : Task) : State :=
  t.cts.foldl (fun s e => s.updCt slot e.1 (fun c =>
    { c.updSeq .c (fun q => (q.acquire t.gbarSt).advance) with gbarHere := false, gbars := c.gbars + 1 })) s

/-- GBAR (R341): the last arrival completes the barrier. Once the gang has faulted the words that wait are left
unexecuted; with every arrival saved, the barrier completes after the stop (R279, R342). -/
def execGbar (k : BitVec 8) (s : State) : Host.Outcome State Fault Refusal :=
  runGlobal (cOnly k) (fun s c =>
    if !c.gbarHere && !c.gbarReady then .wait s .plain
    else
      let s1 := if c.gbarHere then s else s.gbarArrive s.cur.slot s.cur.rank
      match s1.task? s.cur.slot with
      | some t => if t.gbarFull c.gbars && !t.faulted then .jump (s1.gbarLeave s.cur.slot t) else .wait s1 .gbar
      | none => .wait s1 .gbar) s

/-! ### FENCE (R203) -/

/-- The acquire half of a fence: the atomic before it has landed, and is an acquire. -/
def fenceAcquire (s : State) (c : CoreTask) (go : State → CoreTask → Res State) : Res State :=
  match c.seqC.lastAtom with
  | some { busy := true, .. } => .wait s .plain
  | some { y := some y, .. } => go s (c.updSeq .c (fun q => q.acquire y))
  | _ => go s c

/-- FENCE.ACQ. -/
def execFenceAcq (k : BitVec 8) (_sc : Scope) (s : State) : Host.Outcome State Fault Refusal :=
  runGlobal (cOnly k) (fun s c => fenceAcquire s c doneCt) s

/-- FENCE.REL: the next atomic is a release of its scope. -/
def execFenceRel (k : BitVec 8) (sc : Scope) (s : State) : Host.Outcome State Fault Refusal :=
  runGlobal (cOnly k) (fun s _ => afterRelease sc s (fun s c =>
    doneCt s (c.updSeq .c (fun q => { q with relNext := some sc })))) s

/-- FENCE.AR. -/
def execFenceAr (k : BitVec 8) (sc : Scope) (s : State) : Host.Outcome State Fault Refusal :=
  runGlobal (cOnly k) (fun s _ => afterRelease sc s (fun s c =>
    fenceAcquire s (c.updSeq .c (fun q => { q with relNext := some sc })) doneCt)) s

end Sys2Proof.Machine
end

