-- ==== Sys2Proof/Machine/Atomics.lean ====
section
/-! DEFINITION. Atomics, accumulates, residual slots, waits on addresses, futures, and the steps of the home
slices that serve them (R203 to R224, R238 to R240). -/

namespace Sys2Proof

/-- The wider of two scopes (R192). -/
def Scope.max (a b : Scope) : Scope :=
  match a, b with
  | .sys, _ | _, .sys => .sys
  | .chip, _ | _, .chip => .chip
  | .gang, _ | _, .gang => .gang
  | _, _ => .core

end Sys2Proof

namespace Sys2Proof.Machine

/-! ### Quotas (R223, R224) -/

/-- Word `w` of a tenant's quota block. -/
def State.tqWord (s : State) (tenant w : Nat) : Word := Tab.get 0 s.r.tq (tenant * 4 + w)

/-- THROT of a tenant counts one more, and saturates. -/
def State.addThrot (s : State) (tenant : Nat) : State :=
  let v := s.tqWord tenant 2
  { s with r := { s.r with tq := Tab.set 0 s.r.tq (tenant * 4 + 2) (if v.toNat < 2 ^ 32 - 1 then v + 1 else v) } }

/-- The issuing word is held at its tenant's quota; the first holding counts (R224). -/
def heldAtQuota (s : State) (c : CoreTask) (tenant : Nat) : Res State :=
  if c.waitOf s.cur.q = some .quota then .wait s .quota else .wait (s.addThrot tenant) .quota

/-! ### ATOM and ATCAS (R203, R206, R207) -/

/-- The scope in which an atomic releases: `:rel`, widened by a fence before it (R203). -/
def atomScope (rel : Bool) (next : Option Scope) : Option Scope :=
  if rel then some (match next with
    | some sc => sc.max .chip
    | none => .chip)
  else next

/-- The word's operands. -/
structure AtomWord where
  tag : Option Tag
  op : Option AtomOp
  dbl : Bool
  acq : Bool
  rel : Bool
  d : GReg
  v : Word
  v2 : Word

/-- Bytes of an atomic. -/
def AtomWord.bytes (w : AtomWord) : Nat := if w.dbl then 8 else 4

/-- The atomic goes to its home slice. One without a tag may still fault precisely there, with no effect: it uses up a fence
before it when it has been performed (R176, R197, R203). -/
def sendAtom (w : AtomWord) (rel : Bool) (va : Word) (ctx : Nat) (x : Xl) (s : State) (c : CoreTask) : Res State :=
  let sl := homeSlice x.f
  let v := s.slice sl
  if 64 ≤ v.queue.length then .wait s .plain
  else
    let c1 := if rel then c.updSeq .c Seq.release else c
    let r : AtomReq :=
      { slot := s.cur.slot, rank := s.cur.rank, ctx := ctx, va := va, addr := x.f.a, key := x.key, keep := x.keep, dbl := w.dbl,
        op := w.op, v := w.v, v2 := w.v2, tag := w.tag, rel := rel, acq := w.acq, ord := s.fresh,
        stamp := c1.seqC.stamp, waddr := c1.seqC.pc }
    let c2 := c1.updSeq .c (fun q => { q with acqBusy := w.acq })
    let s1 := ((s.setSlice sl { v with queue := v.queue ++ [.atom r] }).cache ctx va x w.bytes).clearMiss s.cur.slot
      s.cur.rank 0 va c.seqC.pc
    let s2 := { s1 with fresh := s.fresh + 1 }
    match w.tag with
    | some t =>
      let c2 := c2.updSeq .c (fun q => { q with relNext := none, lastAtom := some { ord := s.fresh, busy := true, y := none } })
      let c3 := (c2.settleAll .c (c2.tagsOf .c (.g w.d))).1
      doneCt s2 (c3.allocTag .c t { dest := .g w.d, res := .atom, landed := false })
    | none => .wait (s2.putCt s.cur.slot s.cur.rank c2) (.atom none)

/-- ATOM and ATCAS (R207). -/
def atomWord (k : BitVec 8) (w : Seq → AtomWord) (tag : Option Tag) (d a : GReg) (s : State) :
    Host.Outcome State Fault Refusal :=
  runGlobal { perm := [.c], cons := k, alloc := tag, dst := gDst d } (fun s c =>
    match c.waitOf .c with
    | some (.atom (some v)) => .done s (some (d, v))
    | some (.atom none) => .wait s (.atom none)
    | _ =>
      let w := w c.seqC
      let va := c.seqC.rd a
      match s.task? s.cur.slot with
      | none => .wait s .plain
      | some t =>
        if va.toNat % w.bytes ≠ 0 then .trap (trapAt .align va)
        else match s.translate t.ctx Need.rmw va with
          | .trap tr => .trap tr
          | .miss pg h => missWord s Need.rmw va pg h
          | .ok x => afterResid t.ctx va x.f w.bytes s c (fun s c =>
              if c.postedAt x.f w.bytes ∨ c.pendingLoadAt x.f w.bytes ∨ c.again ≠ [] then .wait s .plain
              else match atomScope w.rel c.seqC.relNext with
                | some sc => afterRelease sc s (sendAtom w true va t.ctx x)
                | none => sendAtom w false va t.ctx x s c)) s

/-- ATOM (R207). -/
def execAtom (k : BitVec 8) (t : Option Tag) (op : AtomOp) (dbl acq rel : Bool) (d a b : GReg) (s : State) :
    Host.Outcome State Fault Refusal :=
  atomWord k (fun q => { tag := t, op := some op, dbl := dbl, acq := acq, rel := rel, d := d, v := q.rd b, v2 := 0 })
    t d a s

/-- ATCAS (R207). -/
def execAtcas (k : BitVec 8) (t : Option Tag) (dbl acq rel : Bool) (d a b c : GReg) (s : State) :
    Host.Outcome State Fault Refusal :=
  atomWord k (fun q => { tag := t, op := none, dbl := dbl, acq := acq, rel := rel, d := d, v := q.rd b, v2 := q.rd c })
    t d a s

/-- ATOMIC_AT_SLICE: the reduction unit performs the atomic at the head of its queue (R207). -/
def execAtomicAtSlice (slice : Fin 64) (s : State) : Host.Outcome State Fault Refusal :=
  let v := s.slice slice.val
  if s.sliceFrozen slice.val || v.held.any (·.ready) || !v.lane.isEmpty then idle s
  else
    match v.queue with
    | .atom r :: rest => ok ((s.setSlice slice.val { v with queue := rest }).atomApply r)
    | _ => idle s

/-- A posted store that a stop left to be posted again misses: the gang parks, or the sequencer stops at its next word
boundary (R179, R281). -/
def State.storeMiss (s : State) (slot rank idx : Nat) (va : Word) (page : Nat) (host : Bool) (w : BitVec 32) : State :=
  match s.missPark slot rank 0 Need.write va page host w with
  | .inr s1 => s1
  | .inl t =>
    (s.updCt slot rank (fun c => { c with posted := c.posted.modify idx (fun p => { p with stage := .faulted }) })).raiseDeferred
      slot rank t w

/-- STORE_APPLY: a posted store of a running gang is applied at its home slice (R370). -/
def execStoreApply (slot rank idx : Nat) (s : State) : Host.Outcome State Fault Refusal :=
  match s.task? slot with
  | some t =>
    if t.state ≠ .running then idle s
    else match s.bindStore slot rank idx with
      | .done s1 =>
        if (((s1.ct? slot rank).bind (·.posted[idx]?)).any (fun p => s.heldAt p.final)) then ok s1
        else ok (s1.storeApply slot rank idx)
      | .miss va pg h w => ok (s.storeMiss slot rank idx va pg h w)
  | none => idle s

/-! ### ACCT and ACCT.D (R208 to R217) -/

/-- The matrix command names accumulator `n`. -/
def namesAcc (n : Nat) : Instr → Bool
  | .mxmul p | .mxmuls p => decide (p.acc.val = n)
  | .mxzero _ _ a _ | .mxwr _ _ a _ => decide (a.val = n)
  | .mxrd p _ _ _ | .mxepi p _ => decide (p.acc.val = n)
  | _ => false

/-- A slot's target meets the target of an accumulate, by its VAs or in memory (R204). -/
def State.meetsTarget (s : State) (ctx : Nat) (r : Resid) (x : AcctSend) (es : List (Nat × Xl)) : Bool :=
  (List.range x.rows).any (fun i => r.meets (x.va.toNat + i * x.stride) (4 * x.cols)) ||
    (let gs := s.finalParts ctx Need.rmw r.ranges
     es.any (fun e => gs.any (fun g => finalsMeet g.1 g.2 e.2.f 4)))

/-- Two accumulates have one key (R211). -/
def AcctSend.sameKey (x y : AcctSend) : Bool :=
  decide (x.va = y.va ∧ x.rows = y.rows ∧ x.cols = y.cols ∧ x.stride = y.stride ∧ x.fmt = y.fmt)

/-- A piece that no slice has accepted yet comes before this accumulate where the two share bytes: of an accumulate of
another key, and before ACCT.D of any that can be refused (R190, R204, R217). -/
def CoreTask.pieceAhead (c : CoreTask) (x : AcctSend) (p : Piece) : Bool :=
  if x.direct then !p.direct
  else !(c.sends.any (fun y => decide (y.id = p.send) && y.sameKey x))

/-- An earlier access of the C-sequencer to the target has not been performed: a posted store, a deferred load, an
atomic, or an accumulate that comes before this one (R190, R204, R217). -/
def State.acctBlocked (s : State) (c : CoreTask) (x : AcctSend) (es : List (Nat × Xl)) : Bool :=
  let ps := (c.flight ++ c.returns).filter (c.pieceAhead x)
  es.any (fun e => c.postedAt e.2.f 4 || c.pendingLoadAt e.2.f 4 || s.atomAt s.cur.slot s.cur.rank e.2.f 4 ||
    ps.any (·.touches e.2.f 4))

/-- The addend of a position: the accumulator's word, rounded for BF16, with what rides along (R209, R212). -/
def addendAt (f : AccFmt) (ws : List (BitVec 32)) (ride : Option Resid) (pos : Nat) : BitVec 32 :=
  let w := ws.getD pos 0
  let v : BitVec 32 := match f with
    | .bf16 => BitVec.ofNat 32 (toF32 (valOf .bf16 (roundTo .bf16 .rne false (valOf .f32 w.toNat))))
    | _ => w
  match ride with
  | some r => accAdd f v (Tab.get 0 r.words pos)
  | none => v

/-- Capture the addend and start the send. -/
def acctSend (acc : Nat) (ctx : Nat) (x : AcctSend) (es : List (Nat × Xl)) (s : State) (c : CoreTask) : Res State :=
  let ride := if x.direct then none else c.slotOf x
  let slot? := ride.bind (fun k => find c.resid k.val)
  let ws := c.accWords acc
  let base : Piece :=
    { slot := s.cur.slot, rank := s.cur.rank, ctx := ctx, core := c.core, send := s.fresh, va := x.va, elems := [], keys := [],
      fmt := x.fmt, direct := x.direct, rt := none, lane := false, stamp := c.seqC.stamp, waddr := c.seqC.pc,
      ready := false, mute := false }
  let ps := makePieces base x.cols es (addendAt x.fmt ws slot?)
  let c1 := match ride, slot? with
    | some k, some r => { c with resid := Tab.put k.val { r with words := [], flying := true, held := false, due := false } c.resid }
    | _, _ => c
  let c2 := c1.send { x with id := s.fresh, ride := ride } ps
  let s1 := s.cacheTarget s.cur.slot s.cur.rank ctx x.va x.stride x.cols c.seqC.pc es
  doneCt { s1 with fresh := s.fresh + 1 } (c2.updSeq .c Seq.intervene)

/-- The accumulates of a core-task whose pieces are not all accepted (R209). -/
def CoreTask.openSends (c : CoreTask) : Nat := (c.sends.filter (fun x => x.rt.isNone && decide (x.unaccepted ≠ 0))).length

/-- ACCT and ACCT.D (R209, R212, R217); ACCT waits as ACCT.D does while refusal is off (R319). -/
def acctWord (k : BitVec 8) (direct : Bool) (f : AccFmt) (acc : Fin 16) (a g : GReg) (rows cols : BitVec 7) (s : State) :
    Host.Outcome State Fault Refusal :=
  runGlobal (cOnly k) (fun s c =>
    let va := c.seqC.rd a
    let stride := (c.seqC.rd g).toNat
    let x : AcctSend :=
      { id := 0, va := va, rows := rows.toNat, cols := cols.toNat, stride := stride, fmt := f,
        direct := direct || !s.refuseOn, ride := none, rt := none, unaccepted := 0, left := 0, stall := false,
        waddr := c.seqC.pc }
    match s.task? s.cur.slot with
    | none => .wait s .plain
    | some t =>
      if !acctOk rows cols then .trap (trapOf .illegalField)
      else if va.toNat % 4 ≠ 0 then .trap (trapAt .align va)
      else if stride % 4 ≠ 0 ∨ stride < 4 * x.cols ∨ 2 ^ 24 < stride ∨ Tab.get false c.accInt acc.val ≠ decide (f = .i32) then
        .trap (trapOf .shape)
      else match s.target t.ctx va x.rows x.cols stride with
        | .trap tr => .trap tr
        | .miss av pg h => missWord s Need.rmw av pg h
        | .ok es =>
          if c.mxq.any (fun m => namesAcc acc.val m.i) ∨ 16 ≤ c.openSends ∨ s.acctBlocked c x es then .wait s .plain
          else
            match c.slotsWhere (fun r => s.meetsTarget t.ctx r x es && (x.direct || !r.matches x)) with
            | [] => acctSend acc.val t.ctx x es s c
            | ks =>
              match s.deliverAll s.cur.slot s.cur.rank ks with
              | .trap tr => .trap tr
              | .miss av pg h => missWord s Need.rmw av pg h
              | .ok s1 => .wait s1 .plain) s

/-- ACCT. -/
def execAcct (k : BitVec 8) (f : AccFmt) (acc : Fin 16) (a g : GReg) (rows cols : BitVec 7) (s : State) :
    Host.Outcome State Fault Refusal :=
  acctWord k false f acc a g rows cols s

/-- ACCT.D. -/
def execAcctD (k : BitVec 8) (f : AccFmt) (acc : Fin 16) (a g : GReg) (rows cols : BitVec 7) (s : State) :
    Host.Outcome State Fault Refusal :=
  acctWord k true f acc a g rows cols s

/-- ACCT_PIECE_ARRIVAL (R210, R213, R217); a slice that is held takes none (R288). -/
def execAcctPieceArrival (slot rank idx : Nat) (s : State) : Host.Outcome State Fault Refusal :=
  if ((s.ct? slot rank).bind (·.flight[idx]?)).any (fun p => s.sliceFrozen p.slice) then idle s
  else ok (s.pieceArrive slot rank idx)

/-- ACCT_PIECE_APPLY (R210). -/
def execAcctPieceApply (slice : Fin 64) (s : State) : Host.Outcome State Fault Refusal :=
  if s.sliceFrozen slice.val then idle s else ok (s.sliceApply slice.val)

/-- RETURN_TO_SENDER (R211 to R213). -/
def execReturnToSender (slot rank idx : Nat) (s : State) : Host.Outcome State Fault Refusal :=
  ok (s.returnToSender slot rank idx)

/-- RESIDUAL_AGE_DELIVERY (R214, R281): a slot whose AGE has reached 65,536 cycles, or that is delivered again after a
stop. -/
def execResidualAgeDelivery (slot rank : Nat) (rt : Fin 8) (s : State) : Host.Outcome State Fault Refusal :=
  match s.task? slot, (s.ct? slot rank).bind (fun c => find c.resid rt.val) with
  | some t, some r =>
    if t.state = .running ∧ r.flying = false ∧ (r.due ∨ 65536 * 1000 ≤ r.age) then
      match s.deliver slot rank rt with
      | .ok s' => ok s'
      | .trap tr => ok (s.raiseDeferred slot rank tr r.waddr)
      | .miss va pg h =>
        match s.missPark slot rank 0 Need.rmw va pg h r.waddr with
        | .inl tr => ok (s.raiseDeferred slot rank tr r.waddr)
        | .inr s' => ok s'
    else idle s
  | _, _ => idle s

/-! ### FLUSHRES (R218) -/

/-- FLUSHRES over the slots and sends that it covers. -/
def flushWord (k : BitVec 8) (slot : Seq → Resid → Bool) (send : Seq → AcctSend → Bool) (s : State) :
    Host.Outcome State Fault Refusal :=
  runGlobal (cOnly k) (fun s c =>
    match s.deliverAll s.cur.slot s.cur.rank (c.slotsWhere (fun r => !r.flying && slot c.seqC r)) with
    | .trap tr => .trap tr
    | .miss va pg h => missWord s Need.rmw va pg h
    | .ok s1 =>
      match s1.ct? s.cur.slot s.cur.rank with
      | none => .wait s1 .plain
      | some c1 =>
        if c1.sends.any (send c.seqC) || !(c1.slotsWhere (slot c.seqC)).isEmpty then .wait s1 .plain
        else .done s1 none) s

/-- FLUSHRES. -/
def execFlushresAll (k : BitVec 8) (s : State) : Host.Outcome State Fault Refusal :=
  flushWord k (fun _ _ => true) (fun _ _ => true) s

/-- FLUSHRES ga. -/
def execFlushresOne (k : BitVec 8) (a : GReg) (s : State) : Host.Outcome State Fault Refusal :=
  flushWord k (fun q r => decide (r.va = q.rd a)) (fun q x => decide (x.va = q.rd a)) s

/-! ### WAITA (R220 to R222) -/

/-- WAITA completes with its status; it acquires the release whose value it used. -/
def waitaDone (acq : Bool) (d : GReg) (status : Word) (y : Option Stamp) (s : State) (c : CoreTask) : Res State :=
  let c1 := c.updSeq .c (fun q =>
    { q with relNext := none, lastAtom := some { ord := s.fresh, busy := false, y := y } })
  let c2 := match acq, y with
    | true, some st => c1.updSeq .c (fun q => q.acquire st)
    | _, _ => c1
  .done (s.putCt s.cur.slot s.cur.rank c2) (some (d, status))

/-- The entries of a tenant in a slice. -/
def Slice.tenantPigeons (v : Slice) (tenant : Nat) : Nat := (v.pigeons.filter (fun p => decide (p.tenant = tenant))).length

/-- A tenant's entries in a slice reach its quota, or the slice is full (R222, R223). -/
def State.pigeonFull (s : State) (sl tenant : Nat) : Bool :=
  decide (fieldOf (s.tqWord tenant 0) 0 10 ≤ (s.slice sl).tenantPigeons tenant) ||
    decide (512 ≤ (s.slice sl).pigeons.length)

/-- WAITA at its home slice: the check, then the entry (R221); one that is held at its quota reads again when an
entry has been freed (R224). -/
def waitaAt (cc : Cond) (acq : Bool) (d : GReg) (va m e tmo : Word) (t : Task) (x : Xl) (s : State) (c : CoreTask) :
    Res State :=
  let id := agentId s.cur.slot s.cur.rank 0
  if c.postedAt x.f 8 ∨ c.pendingLoadAt x.f 8 ∨ s.atomAt s.cur.slot s.cur.rank x.f 8 ∨ s.heldAt x.f then .wait s .plain
  else if s.keyBad x.f x.key then .trap (keyTrap va)
  else if c.waitOf .c = some .quota ∧ s.pigeonFull (homeSlice x.f) t.tenant then .wait s .quota
  else match s.raceAt x.f 8 x.keep id c.seqC.stamp false true with
    | some tr => .trap tr
    | none =>
      let s1 := (s.cache t.ctx va x 8).clearMiss s.cur.slot s.cur.rank 0 va c.seqC.pc
      let v := leWord (s.readFinal x.f 8) &&& m
      if condHolds cc v e then waitaDone acq d 0 (some (s.syncAt x.f x.keep)) s1 c
      else
        let sl := homeSlice x.f
        let w := s1.slice sl
        if s.pigeonFull sl t.tenant then
          heldAtQuota s c t.tenant
        else
          let p : Pigeon :=
            { id := s.fresh, addr := x.f.a, keep := x.keep, mask := m, cc := cc, e := e, slot := s.cur.slot, rank := s.cur.rank,
              deadline := if tmo = 0 then none else some (s.dtime + tmo.toNat), tenant := t.tenant, lost := false }
          let s2 := s1.setSlice sl { w with pigeons := w.pigeons ++ [p] }
          .wait { s2 with fresh := s.fresh + 1 } (.waita s.fresh none none)

/-- WAITA (R221). -/
def execWaita (k : BitVec 8) (cc : Cond) (acq : Bool) (d a m v tmo : GReg) (s : State) :
    Host.Outcome State Fault Refusal :=
  runGlobal { perm := [.c], cons := k, dst := gDst d } (fun s c =>
    match c.waitOf .c with
    | some (.waita _ (some status) y) => waitaDone acq d status y s c
    | some (.waita id none y) => .wait s (.waita id none y)
    | _ =>
      let va := c.seqC.rd a
      let mask := c.seqC.rd m
      match s.task? s.cur.slot with
      | none => .wait s .plain
      | some t =>
        if va.toNat % 8 ≠ 0 then .trap (trapAt .align va)
        else match s.translate t.ctx Need.waita va with
          | .trap tr => .trap tr
          | .miss pg h => missWord s Need.waita va pg h
          | .ok x => afterResid t.ctx va x.f 8 s c (waitaAt cc acq d va mask (c.seqC.rd v &&& mask) (c.seqC.rd tmo) t x)) s

/-- WAITA_TIMEOUT: the entry `idx` whose deadline has passed (R221). -/
def execWaitaTimeout (idx : Nat) (s : State) : Host.Outcome State Fault Refusal :=
  match s.m.slices.findSome? (fun e => (e.2.pigeons.find? (fun p => decide (p.id = idx))).map (fun p => (e.1, p))) with
  | none => idle s
  | some (sl, p) =>
    match p.deadline with
    | none => idle s
    | some d =>
      if d ≤ s.dtime then
        let v := s.slice sl
        ok ((s.setSlice sl { v with pigeons := v.pigeons.filter (fun q => decide (q.id ≠ idx)) }).wakeWaita p 1 none)
      else idle s

/-! ### FUTRES and FUTWAIT (R238 to R240) -/

/-- The checks that both words share, then the word at the future. -/
def futWordOf (va : Word) (t : Task) (s : State) (c : CoreTask) (go : Xl → State → CoreTask → Res State) : Res State :=
  if va.toNat % 16 ≠ 0 then .trap (trapAt .align va)
  else match s.translate t.ctx Need.rmw va with
    | .trap tr => .trap tr
    | .miss pg h => missWord s Need.rmw va pg h
    | .ok x => afterResid t.ctx va x.f 16 s c (fun s c =>
        if c.postedAt x.f 16 ∨ c.pendingLoadAt x.f 16 ∨ s.atomAt s.cur.slot s.cur.rank x.f 16 ∨ s.heldAt x.f then
          .wait s .plain
        else if s.keyBad x.f x.key then .trap (keyTrap va)
        else if futBad (s.futAt x.f.a) then .trap (trapAt .illegalField va)
        else go x ((s.cache t.ctx va x 16).clearMiss s.cur.slot s.cur.rank 0 va c.seqC.pc) c)

/-- FUTRES (R240). -/
def execFutres (k : BitVec 8) (a v : GReg) (s : State) : Host.Outcome State Fault Refusal :=
  runGlobal (cOnly k) (fun s c =>
    match s.task? s.cur.slot with
    | none => .wait s .plain
    | some t =>
      let va := c.seqC.rd a
      futWordOf va t s c (fun x s _ =>
        afterRelease .chip s (fun s c =>
          let c1 := (c.updSeq .c Seq.release).updSeq .c Seq.intervene
          let id := agentId s.cur.slot s.cur.rank 0
          if futState (s.futAt x.f.a) = 2 then .trap (trapAt .futDouble va)
          else match s.raceAt x.f 16 x.keep id c1.seqC.stamp true true with
            | some tr => .trap tr
            | none =>
              let s1 := s.putCt s.cur.slot s.cur.rank c1
              .done (s1.resolveAt x.f x.keep (some (id, c1.seqC.stamp, true)) (c.seqC.rd v) c1.seqC.stamp) none))) s

/-- The waiter entries of a tenant. -/
def State.tenantFutures (s : State) (tenant : Nat) : Nat :=
  (s.m.futures.filter (fun f => decide (f.tenant = tenant))).length

/-- FUTWAIT (R240): RESOLVED gives the value; otherwise the gang parks with its entry. -/
def execFutwait (k : BitVec 8) (d a : GReg) (s : State) : Host.Outcome State Fault Refusal :=
  runGlobal { perm := [.c], cons := k, dst := gDst d } (fun s c =>
    match s.task? s.cur.slot with
    | none => .wait s .plain
    | some t =>
      let va := c.seqC.rd a
      futWordOf va t s c (fun x s c =>
        let id := agentId s.cur.slot s.cur.rank 0
        let resolved := decide (futState (s.futAt x.f.a) = 2)
        let full := decide (fieldOf (s.tqWord t.tenant 0) 15 14 ≤ s.tenantFutures t.tenant)
        if c.waitOf .c = some .quota ∧ full then .wait s .quota
        else match s.raceAt x.f 16 x.keep id c.seqC.stamp (!resolved && !full) true with
        | some tr => .trap tr
        | none =>
          if resolved then
            let v := leWord (s.readFinal { x.f with a := x.f.a + 8 } 8)
            .done (s.putCt s.cur.slot s.cur.rank (c.updSeq .c (fun q => (q.acquire (s.syncAt x.f x.keep)).intervene)))
              (some (d, v))
          else if full then heldAtQuota s c t.tenant
          else
            let w : FutWaiter := { addr := x.f.a, slot := s.cur.slot, rank := some s.cur.rank, tenant := t.tenant }
            let s1 := s.registerAt x.f x.keep (some (id, c.seqC.stamp, true)) w
            .jump (s1.stopGang s.cur.slot [.future s.cur.rank] false))) s

end Sys2Proof.Machine
end

