-- ==== Sys2Proof/Machine/Tasks.lean ====
section
/-! DEFINITION. Submissions: descriptors, refusals, acceptance, dependences, TSUBMIT (R229 to R237). -/

namespace Sys2Proof.Machine

/-! ### Descriptors (R229) -/

/-- The sixteen words of a descriptor's bytes. -/
def descWords (bs : List Byte) : List Word := (List.range 16).map (fun i => word8 bs (8 * i))

/-- Who submits: its context, whether it holds privilege, its stream and step, and the job of its task. -/
structure Submitter where
  ctx : Nat
  priv : Bool
  host : Bool
  stream : Option (Nat × BitVec 32)
  job : Option Nat
  multi : Option (List (Nat × Nat))
  deriving DecidableEq, Repr

/-- The address in a field of 57 bits. -/
def vaField (td : List Word) (w : Nat) : Word := (td.getD w 0) &&& BitVec.ofNat 64 (2 ^ 57 - 1)

/-- RCOUNT. -/
def tdRanges (td : List Word) : Nat := wordField td 1 20 3

/-- The bits of a word above bit `n` are 0. -/
def highClear (td : List Word) (w n : Nat) : Bool := decide (wordField td w n (64 - n) = 0)

/-- A range's words keep their reserved bits and its length its range; words past RCOUNT are reserved. -/
def tdRangeOk (td : List Word) (i : Nat) : Bool :=
  if i < tdRanges td then
    highClear td (8 + 2 * i) 57 && decide (wordField td (9 + 2 * i) 40 23 = 0) && decide (wordField td (9 + 2 * i) 0 40 ≠ 0)
  else decide (td.getD (8 + 2 * i) 0 = 0) && decide (td.getD (9 + 2 * i) 0 = 0)

/-- A descriptor has no refusal 1 (R230). -/
def tdOk (td : List Word) : Bool :=
  let gang := wordField td 1 0 5
  highClear td 0 57 && decide (wordField td 1 29 3 = 0) && decide (wordField td 1 14 2 = 0) &&
    decide (wordField td 1 5 3 = 0) && highClear td 2 40 && highClear td 3 32 &&
    [4, 5, 6, 7].all (fun w => highClear td w 57) &&
    (decide (wordField td 1 28 1 = 1) || decide (wordField td 1 24 4 = 0)) &&
    decide (1 ≤ gang) && decide (gang ≤ 16) && decide (tdRanges td ≤ 4) && decide (wordField td 1 16 4 ≤ 8) &&
    decide (1 ≤ wordField td 1 32 32) && (List.range 4).all (tdRangeOk td) &&
    decide (wordField td 0 0 6 = 0) && decide (wordField td 4 0 6 = 0) &&
    [5, 6, 7].all (fun w => decide (wordField td w 0 4 = 0))

/-- The stream and step that a descriptor names: its own, the submitter's, or none; an inner none is a
stream number that names nothing (R229, R235). -/
def tdStream (td : List Word) (sub : Submitter) : Option (Option (Nat × BitVec 32)) :=
  let n := wordField td 2 32 8
  if n = 0xFF then some none
  else if n = 0xFE then (if sub.host then none else some sub.stream)
  else if n < 64 then some (some (n, BitVec.ofNat 32 (wordField td 2 0 32)))
  else none

/-- Step `a` is earlier than step `b` or the same (R232). -/
def stepLe (a b : BitVec 32) : Bool := decide ((b - a).toNat < 2 ^ 31)

/-! ### Refusals (R230) -/

/-- The partition of a context's tasks: partition 0 for context 0 (R300). -/
def State.taskPart (s : State) (ctx : Nat) : Option Nat := if ctx = 0 then some 0 else s.ctxPart ctx

/-- A read that misses, with the refusal that a miss gives which is no page request (R230). -/
structure SubMiss where
  code : Nat
  value : Word
  need : Need
  va : Word
  page : Nat
  host : Bool
  deriving DecidableEq, Repr

/-- The check of a submission. -/
inductive SubRes where
  | ok (i : Image) (futs : List Xl)
  | refuse (code : Nat) (value : Word)
  | miss (m : SubMiss)

/-- The awaited futures: readable, not malformed (R230, R238). -/
def State.awaited (s : State) (ctx : Nat) : List Word → SubRes
  | [] => .ok Image.none []
  | va :: vas =>
    if va = 0 then s.awaited ctx vas
    else match s.translate ctx Need.rmw va with
      | .miss pg h => .miss { code := 1, value := va, need := Need.rmw, va := va, page := pg, host := h }
      | .trap _ => .refuse 1 va
      | .ok x =>
        if s.keyBad x.f x.key || futBad (s.futAt x.f.a) then .refuse 1 va
        else match s.awaited ctx vas with
          | .ok i xs => .ok i (x :: xs)
          | r => r

/-- The partitions whose cores a submission asks for (R52, R310). -/
def State.subParts (s : State) (sub : Submitter) : List Nat :=
  match sub.multi with
  | some ps => ps.map (·.1)
  | none => (s.taskPart sub.ctx).toList

/-- The stream check: owned by the partition, or by each of a MULTI-SUBMIT, the step not closed. -/
def State.streamOk (s : State) (parts : List Nat) (st : Option (Option (Nat × BitVec 32))) : Bool :=
  match st with
  | none => false
  | some none => true
  | some (some (n, b)) =>
    match s.stream? n with
    | some x => !parts.isEmpty && parts.all (fun p => decide (x.part = p)) && !stepLe b x.closed
    | none => false

/-- The process-group check, and the link of the rank RRANK (R75, R230). -/
inductive PgtRes where
  | ok (link : Word)
  | refuse
  | miss (va : Word) (page : Nat) (host : Bool)

/-- Check the process-group table of a descriptor; `own` on the device that receives the task, which the table must
list. A read of it that fails (R230 names only those of the image, of an awaited future and of the descriptor) finds the
device not listed (log 65). -/
def State.checkPgt (s : State) (td : List Word) (ctx : Nat) (own : Bool) : PgtRes :=
  let pgt := vaField td 4
  let remote := decide (wordField td 1 28 1 = 1)
  if pgt = 0 then (if remote then .refuse else .ok 0)
  else match s.readPgt ctx pgt with
    | .miss va pg h => .miss va pg h
    | .trap _ => .refuse
    | .ok g =>
      let rr := wordField td 1 24 4
      if (own ∧ (g.own s.ports.base).isNone) ∨ (remote ∧ g.links.length ≤ rr) then .refuse else .ok (g.links.getD rr 0)

/-- The first refusal of R230, or what acceptance needs; `va` is the descriptor's address. A MULTI-SUBMIT, which has no
one partition, is never refused for its GANG (DESIGN CHOICE, log 59): its cores are those that its entry names. -/
def State.checkSub (s : State) (td : List Word) (va : Word) (sub : Submitter) : SubRes :=
  if !tdOk td then .refuse 1 va
  else
    match s.awaited sub.ctx [vaField td 6, vaField td 7] with
    | .refuse c v => .refuse c v
    | .miss m => .miss m
    | .ok _ futs =>
      let cores := match sub.multi with
        | some _ => 16
        | none => ((s.subParts sub).map (fun p => (s.partCores p).length)).sum
      if cores < wordField td 1 0 5 then .refuse 2 va
      else
        match s.readImage sub.ctx (vaField td 0) with
        | .bad => .refuse 3 (vaField td 0)
        | .miss a pg h => .miss { code := 3, value := vaField td 0, need := Need.read, va := a, page := pg, host := h }
        | .ok img gang modes =>
          let mine := (List.range (tdRanges td)).map (fun i => wordField td (9 + 2 * i) 63 1)
          if gang ≠ wordField td 1 0 5 ∨ modes ≠ mine then .refuse 3 (vaField td 0)
          else if wordField td 1 16 4 ≠ s.ctxTenant sub.ctx ∨ (wordField td 1 23 1 = 1 ∧ ¬sub.priv) then .refuse 4 va
          else if !s.streamOk (s.subParts sub) (tdStream td sub) then .refuse 5 va
          else
            let value := if vaField td 4 = 0 then va else vaField td 4
            match s.checkPgt td sub.ctx true with
            | .miss a pg h => .miss { code := 6, value := value, need := Need.read, va := a, page := pg, host := h }
            | .refuse => .refuse 6 value
            | .ok _ => .ok img futs

/-- What the check of a submission has read counts as accesses of its context (R268, R318): the awaited futures, the image,
the process-group table. -/
def State.noteSub (s : State) (td : List Word) (ctx : Nat) : State :=
  let s1 := [vaField td 6, vaField td 7].foldl (fun s va =>
    if va = 0 then s else match s.translate ctx Need.rmw va with
      | .ok x => s.cache ctx va x 8
      | _ => s) s
  (s1.noteImage ctx (vaField td 0)).notePgt ctx (vaField td 4)

/-- A miss of a submission that no gang makes: the refusal and its value, or the state with its page request (R179, R230). -/
def State.subMiss (s : State) (p : Plain) (ctx : Nat) (m : SubMiss) : (Nat × Word) ⊕ State :=
  match s.plainMiss p ctx m.va with
  | some _ => .inl (m.code, m.value)
  | none => .inr (s.plainWait p ctx m.page m.host m.need)

/-! ### Quotas (R223, R224) -/

/-- The tasks in flight of a tenant. -/
def State.tenantTasks (s : State) (tenant : Nat) : List Task :=
  (s.tasks.map (·.2)).filter (fun t => decide (t.tenant = tenant))

/-- The tenant's TASKS, RANGE, DEPC and FUTW quotas admit a descriptor that registers `futs` entries. -/
def State.quotaOk (s : State) (tenant : Nat) (td : List Word) (futs : Nat) : Bool :=
  let ts := s.tenantTasks tenant
  let w0 := s.tqWord tenant 0
  decide (ts.length + 1 ≤ fieldOf (s.tqWord tenant 1) 13 13) &&
    decide ((ts.map (fun t => tdRanges t.td)).sum + tdRanges td ≤ fieldOf w0 44 15) &&
    decide ((ts.filter (fun t => decide (t.state = .submitted))).length + 1 ≤ fieldOf w0 29 15) &&
    decide (s.tenantFutures tenant + futs ≤ fieldOf w0 15 14) &&
    decide (s.tasks.length < 4096)

/-- The futures of a list that are not RESOLVED. -/
def State.unresolved (s : State) (futs : List Xl) : List Xl := futs.filter (fun x => decide (futState (s.futAt x.f.a) ≠ 2))

/-! ### Dependences (R232, R233) -/

/-- A range's bytes and mode. -/
def tdRange (td : List Word) (i : Nat) : Nat × Nat × Bool :=
  ((vaField td (8 + 2 * i)).toNat, wordField td (9 + 2 * i) 0 40, decide (wordField td (9 + 2 * i) 63 1 = 1))

/-- The ranges of a descriptor. -/
def tdRangeList (td : List Word) : List (Nat × Nat × Bool) := (List.range (tdRanges td)).map (tdRange td)

/-- Some ranges of two descriptors overlap, at least one of them a write (R232). -/
def rangesConflict (a b : List Word) : Bool :=
  (tdRangeList a).any (fun x => (tdRangeList b).any (fun y =>
    (x.2.2 || y.2.2) && rangesMeet x.1 x.2.1 y.1 y.2.1))

/-- An in-flight task is in the candidate set of a new one (R232). -/
def Task.candidate (u : Task) (ctx : Nat) (st : Option (Nat × BitVec 32)) : Bool :=
  match st with
  | some (n, b) => decide (u.stream = some n) && stepLe u.step b
  | none => decide (u.ctx = ctx) && u.stream.isNone

/-- The predecessors of a new task, by TASKID. -/
def State.predecessors (s : State) (td : List Word) (ctx : Nat) (st : Option (Nat × BitVec 32)) : List Nat :=
  (s.tasks.filter (fun e => e.2.candidate ctx st && rangesConflict e.2.td td)).map (fun e => e.2.id.toNat)

/-! ### Acceptance (R231 to R234) -/

/-- The lowest free task slot. -/
def State.freeTaskSlot (s : State) : Nat := ((List.range 4096).find? (fun n => (s.task? n).isNone)).getD 0

/-- Accept a task: slot, identifier, predecessors, futures, the removal of the hold. The job is that of the
submitter, or a new one keyed by the identifier. -/
def State.accept (s : State) (td : List Word) (sub : Submitter) (img : Image) (futs : List Xl) (job : Option Job) :
    State × BitVec 32 :=
  let slot := s.freeTaskSlot
  let g := Tab.get 0 s.gens slot
  let id : BitVec 32 := g ++ BitVec.ofNat 12 slot
  let st := (tdStream td sub).getD none
  let preds := s.predecessors td sub.ctx st
  let open_ := s.unresolved futs
  let n := preds.length + open_.length
  let part := match sub.multi with
    | some ((p, _) :: _) => p
    | _ => (s.taskPart sub.ctx).getD 0
  let jid := match sub.job with
    | some j => j
    | none => id.toNat
  let t : Task :=
    { id := id, td := td, ctx := sub.ctx, part := part, multi := sub.multi, stream := st.map (·.1),
      step := (st.map (·.2)).getD 0, state := if n = 0 then .ready else .submitted, counter := n, preds := preds,
      job := jid, accepted := s.fresh + 1, place := s.fresh + 1, headSince := [], started := 0,
      budget := wordField td 1 32 32 * 1000, conds := [], saved := false, gbarSt := 0, image := img,
      pgrank := match s.readPgt sub.ctx (vaField td 4) with
        | .ok g => (if vaField td 4 = 0 then 0 else (g.own s.ports.base).getD 0)
        | _ => 0,
      preload := none,
      misses := [], finished := [], cts := [] }
  let jobs := match job with
    | some j => Tab.put jid j s.jobs
    | none => s.jobs
  let tenant := s.ctxTenant sub.ctx
  let s1 := { s.setTask slot t with
    gens := Tab.set 0 s.gens slot (g + 1), fresh := s.fresh + 2, jobs := jobs }
  (open_.foldl (fun s x => s.registerAt x.f x.keep none { addr := x.f.a, slot := slot, rank := none, tenant := tenant }) s1,
   id)

/-! ### TSUBMIT (R235, R237) -/

/-- THROT counts the holding of a TSUBMIT that waits with its descriptor read (R224). -/
def CoreTask.submitCounted (c : CoreTask) : Bool :=
  match c.waitOf .c with
  | some (.submit _ n) => n
  | _ => false

/-- A miss of a read that TSUBMIT makes beyond its descriptor `td`, which is not read again (R229): the gang parks as for
any access (R179); where no page is to be had the submission is refused, and one that is refused its page faults (R180,
R230). -/
def missRefuse (td : List Word) (s : State) (c : CoreTask) (d : GReg) (m : SubMiss) : Res State :=
  let s0 := s.updSeq s.cur (fun q => q.await (.submit td c.submitCounted) s.dtime s.fresh)
  match s0.missPark s.cur.slot s.cur.rank 0 m.need m.va m.page m.host c.seqC.pc with
  | .inl t =>
    if t.code = .pageRefused then .trap t
    else .done ((s.clearWord s.cur.slot s.cur.rank 0 c.seqC.pc).putCt s.cur.slot s.cur.rank c)
      (some (d, -(BitVec.ofNat 64 m.code)))
  | .inr s' => .jump s'

/-- A TSUBMIT whose descriptor is REMOTE: the fields and the table are checked here, the rest at the
receiver. Without a trained peer port the device is a group of one (R19, log 33). -/
def submitRemote (td : List Word) (d : GReg) (t : Task) (sub : Submitter) (s : State) (c : CoreTask) : Res State :=
  let refuse (n : Nat) : Res State := .done (s.putCt s.cur.slot s.cur.rank c) (some (d, -(BitVec.ofNat 64 n)))
  if !s.r.featw0.getLsbD 4 || !s.ports.peer then .trap (trapOf .linkMiss)
  else if !tdOk td then refuse 1
  else match s.checkPgt td sub.ctx false with
    | .miss a pg h => missRefuse td s c d { code := 6, value := 0, need := Need.read, va := a, page := pg, host := h }
    | .refuse => refuse 6
    | .ok link =>
      let req := s.ports.nextReq
      let read := (s.notePgt sub.ctx (vaField td 4)).clearWord s.cur.slot s.cur.rank 0 c.seqC.pc
      let s1 := (read.putCt s.cur.slot s.cur.rank c).jobMore t.job
      let s2 := { s1 with ports := { s1.ports with
        nextReq := req + 1, reqs := Tab.put req (t.job, agentId s.cur.slot s.cur.rank 0 |>.toNat) s1.ports.reqs } }
      .wait (s2.sendPeer (.submit link req td)) (.remote req none)

/-- A TSUBMIT of this device: quotas, refusals, acceptance. -/
def submitHere (td : List Word) (va : Word) (d : GReg) (t : Task) (sub : Submitter) (s : State) (c : CoreTask) :
    Res State :=
  let check := s.checkSub td va sub
  let futs := match check with
    | .ok _ xs => (s.unresolved xs).length
    | _ => 0
  let tenant := s.ctxTenant sub.ctx
  let read : State := (s.noteSub td sub.ctx).clearWord s.cur.slot s.cur.rank 0 c.seqC.pc
  if !s.quotaOk tenant td futs then .wait (if c.submitCounted then s else s.addThrot tenant) (.submit td true)
  else match check with
    | .miss m => missRefuse td s c d m
    | .refuse n _ => .done (read.putCt s.cur.slot s.cur.rank c) (some (d, -(BitVec.ofNat 64 n)))
    | .ok img xs =>
      let s1 := (read.putCt s.cur.slot s.cur.rank c).jobMore t.job
      let (s2, id) := s1.accept td sub img xs none
      .done s2 (some (d, id.setWidth 64))

/-- The descriptor of a TSUBMIT: FUTR replaced by TSUBMIT.F, the submitter's stream written in (R235). -/
def patchDesc (td : List Word) (futr : Option Word) (stream : Option (Nat × BitVec 32)) : List Word :=
  let td1 := match futr with
    | some v => td.set 5 v
    | none => td
  if wordField td1 2 32 8 = 0xFE then
    let v : Nat := match stream with
      | some (n, b) => n * 2 ^ 32 + b.toNat
      | none => 0xFF * 2 ^ 32
    td1.set 2 (((td1.getD 2 0) &&& ~~~(0xFFFFFFFFFF : Word)) ||| BitVec.ofNat 64 v)
  else td1

/-- A TSUBMIT whose descriptor has been read (R235, R237). -/
def submitRead (td : List Word) (va : Word) (d : GReg) (t : Task) (s : State) (c : CoreTask) : Res State :=
  let sub : Submitter :=
    { ctx := t.ctx, priv := t.privileged, host := false, stream := t.stream.map (fun n => (n, t.step)), job := some t.job,
      multi := none }
  let c1 := c.updSeq .c Seq.release
  if wordField td 1 28 1 = 1 then submitRemote td d t sub s c1 else submitHere td va d t sub s c1

/-- TSUBMIT (R235); one that is held goes on with the descriptor that it has read (R229). -/
def submitWord (k : BitVec 8) (d a : GReg) (f : Option GReg) (s : State) : Host.Outcome State Fault Refusal :=
  runGlobal { perm := [.c], cons := k, dst := gDst d } (fun s c =>
    match c.waitOf .c with
    | some (.remote _ (some v)) => .done s (some (d, v))
    | some (.remote r none) => .wait s (.remote r none)
    | _ =>
      match s.task? s.cur.slot with
      | none => .wait s .plain
      | some t =>
        let va := c.seqC.rd a
        let futr := f.map (fun g => c.seqC.rd g)
        match c.waitOf .c with
        | some (.submit td _) => submitRead td va d t s c
        | _ =>
        if va.toNat % 64 ≠ 0 then .trap (trapAt .align va)
        else if futr.any (fun v => decide (v.toNat % 16 ≠ 0)) then .trap (trapAt .align (futr.getD 0))
        else match s.readAs t.ctx Need.waita va 128 with
          | .trap tr => .trap tr
          | .miss a pg h => missWord s Need.waita a pg h
          | .ok _ =>
            let s0 := (s.noteVa t.ctx Need.waita va 128).clearWord s.cur.slot s.cur.rank 0 c.seqC.pc
            afterRelease .sys s0 (fun s c =>
              match s.readAs t.ctx Need.waita va 128 with
              | .trap tr => .trap tr
              | .miss a pg h => missWord s Need.waita a pg h
              | .ok bs =>
                submitRead (patchDesc (descWords bs) futr (t.stream.map (fun n => (n, t.step)))) va d t s c)) s

/-- TSUBMIT. -/
def execTsubmit (k : BitVec 8) (d a : GReg) (s : State) : Host.Outcome State Fault Refusal := submitWord k d a none s

/-- TSUBMIT.F. -/
def execTsubmitF (k : BitVec 8) (d a f : GReg) (s : State) : Host.Outcome State Fault Refusal :=
  submitWord k d a (some f) s

end Sys2Proof.Machine
end

