-- ==== Sys2Proof/Machine/Streams.lean ====
section
/-! DEFINITION. Stream words, frame rings, key-value windows, letterboxes and encoders (R244 to R258). -/

namespace Sys2Proof.Machine

/-! ### The word of a stream (R244) -/

/-- A C-sequencer word of a task with a stream. -/
def streamWord (k : BitVec 8) (d : Option GReg) (go : State → CoreTask → Task → Nat → Stream → Res State) (s : State) :
    Host.Outcome State Fault Refusal :=
  runGlobal { perm := [.c], cons := k, dst := d.map .g } (fun s c =>
    match s.task? s.cur.slot with
    | none => .wait s .plain
    | some t =>
      match t.stream.bind (fun n => (s.stream? n).map (fun st => (n, st))) with
      | none => .trap (trapOf .illegalField)
      | some (n, st) => go s c t n st) s

/-! ### Steps (R245 to R248) -/

/-- The task's step is the open one. -/
def Stream.openFor (st : Stream) (t : Task) : Bool := st.isOpen && decide (st.step = t.step)

/-- The rung word that DLSET gives: RES, STEPS and INTERP with the rung index in bits 31:29 (R245). -/
def Stream.rungGiven (st : Stream) : Word := (st.rungWord st.stepRung) ||| BitVec.ofNat 64 (st.stepRung * 2 ^ 29)

/-- DLSET after its step is open. -/
def dlsetDone (d : Option GReg) (n : Nat) (s : State) : Res State :=
  match s.stream? n with
  | none => .done s none
  | some st => .done (s.checkpoint n 1) (d.map (fun g => (g, st.rungGiven)))

/-- DLSET (R245). -/
def execDlset (k : BitVec 8) (d : Option GReg) (g w : GReg) (s : State) : Host.Outcome State Fault Refusal :=
  streamWord k d (fun s c t n st =>
    let v := c.seqC.rd w
    if 2 ^ 32 ≤ v.toNat then .trap (trapOf .illegalField)
    else
      let work := if v = 0 then fieldOf (st.rungWord st.rung) 32 32 else v.toNat
      let post := c.seqC.rd g
      if st.openFor t then dlsetDone d n (s.updStream n (fun st => { st with postmark := post, work := work }))
      else if !st.isOpen && decide (t.step = st.step) then
        dlsetDone d n (s.updStream n (fun st =>
          { st with isOpen := true, postmark := post, work := work, done := 0, risk := false, ended := false,
                    stepRung := st.rung }))
      else if stepLe t.step st.closed then .trap (trapOf .illegalField)
      else .wait s (.spin (.step n))) s

/-- DLCHK (R247). -/
def execDlchk (k : BitVec 8) (d : GReg) (s : State) : Host.Outcome State Fault Refusal :=
  streamWord k (some d) (fun s _ t n st =>
    if st.openFor t then .done (s.checkpoint n 2) (some (d, BitVec.ofInt 64 (s.slackOf n st)))
    else .done s (some (d, BitVec.ofInt 64 maxSlack))) s

/-- STEPEND (R248); a second one of the step has no further effect. -/
def execStepend (k : BitVec 8) (s : State) : Host.Outcome State Fault Refusal :=
  streamWord k none (fun s _ t n st =>
    if st.openFor t then
      .done (if st.ended then s else (s.updStream n (fun st => { st with ended := true })).checkpoint n 3) none
    else .trap (trapOf .illegalField)) s

/-! ### Frame rings (R250, R251) -/

/-- The handle of a slot at offset 0. -/
def handleOf (n i : Nat) : Word := BitVec.ofNat 64 (2 ^ 63 + n * 2 ^ 51 + i * 2 ^ 47)

/-- The slot that a handle of stream `n` names, offset 0 (R250). -/
def slotOfHandle (n : Nat) (st : Stream) (h : Word) : Option Nat :=
  let i := handleSlot h.toNat
  if h = handleOf n i ∧ i < st.slots.length then some i else none

/-- The arrival number of the first C-sequencer that waits for a turn. -/
def State.firstSpin (s : State) (k : Spin) : Option Nat :=
  let ords := s.tasks.flatMap (fun e => e.2.cts.filterMap (fun x => match x.2.seqC.wait with
    | some { kind := .spin k', ord := o, .. } => if k' = k then some o else none
    | _ => none))
  (sortBy (fun a b => decide (a ≤ b)) ords).head?

/-- The issuing word is first in the order of a turn (R251). -/
def State.spinTurn (s : State) (c : CoreTask) (k : Spin) : Bool :=
  match s.firstSpin k with
  | none => true
  | some o => match c.seqC.wait with
    | some { kind := .spin k', ord := o', .. } => decide (k' = k ∧ o' = o)
    | _ => false

/-- A slot of a ring changes. -/
def Stream.setSlot (st : Stream) (i : Nat) (v : RingSlot) : Stream := { st with slots := st.slots.set i v }

/-- Acquire from a slot's last release. -/
def CoreTask.acquireSlot (c : CoreTask) (v : RingSlot) : CoreTask :=
  match v.stamp with
  | some y => c.updSeq .c (fun q => q.acquire y)
  | none => c

/-- FRPUT (R251). -/
def execFrput (k : BitVec 8) (d : GReg) (s : State) : Host.Outcome State Fault Refusal :=
  streamWord k (some d) (fun s c _ n st =>
    let i := st.cl % st.slots.length
    match st.slots[i]? with
    | none => .wait s (.spin (.put n))
    | some v =>
      if v.st = .free ∧ s.spinTurn c (.put n) then
        .done ((s.putCt s.cur.slot s.cur.rank (c.acquireSlot v)).updStream n (fun st =>
          { st.setSlot i { v with st := .claimed } with cl := st.cl + 1 })) (some (d, handleOf n i))
      else .wait s (.spin (.put n))) s

/-- FRGET (R251). -/
def execFrget (k : BitVec 8) (d : GReg) (s : State) : Host.Outcome State Fault Refusal :=
  streamWord k (some d) (fun s c _ n st =>
    let i := st.gt % st.slots.length
    match st.slots[i]? with
    | none => .wait s (.spin (.get n))
    | some v =>
      if v.st = .published ∧ s.spinTurn c (.get n) then
        .done ((s.putCt s.cur.slot s.cur.rank (c.acquireSlot v)).updStream n (fun st =>
          { st.setSlot i { v with st := .taken } with gt := st.gt + 1 })) (some (d, handleOf n i))
      else .wait s (.spin (.get n))) s

/-- A slot after a release into it: its stamp is the higher of its own and the releaser's (R195). -/
def RingSlot.release (v : RingSlot) (st : SlotState) (y : Stamp) : RingSlot :=
  { st := st, stamp := some ((v.stamp.map (stMax · y)).getD y) }

/-- FRPUB and FRREL: a release of CHIP scope moves a slot on (R251). -/
def frameRelease (k : BitVec 8) (a : GReg) (old new : SlotState) (s : State) : Host.Outcome State Fault Refusal :=
  streamWord k none (fun s c _ n st =>
    match slotOfHandle n st (c.seqC.rd a) with
    | none => .trap (trapOf .illegalField)
    | some i =>
      if (st.slots[i]?).map (·.st) ≠ some old then .trap (trapOf .illegalField)
      else afterRelease .chip s (fun s c =>
        let c1 := c.updSeq .c Seq.release
        doneCt (s.updStream n (fun st => { st with slots := st.slots.modify i (·.release new c1.seqC.stamp) })) c1)) s

/-- FRPUB. -/
def execFrpub (k : BitVec 8) (a : GReg) (s : State) : Host.Outcome State Fault Refusal :=
  frameRelease k a .claimed .published s

/-- FRREL. -/
def execFrrel (k : BitVec 8) (a : GReg) (s : State) : Host.Outcome State Fault Refusal :=
  frameRelease k a .taken .free s

/-! ### Key-value windows (R253) -/

/-- The VA of page slot `j`. -/
def Stream.kvVa (st : Stream) (j : Nat) : Word := vaField st.sd 3 + BitVec.ofNat 64 (j * 2 ^ wordField st.sd 4 8 5)

/-- The page slot that KVAPP takes. -/
def Stream.kvPick (st : Stream) : Option Nat :=
  let ixs := List.range st.kv.length
  match ixs.find? (fun j => (st.kv[j]?).any (fun v => !v.valid)) with
  | some j => some j
  | none =>
    let free := ixs.filter (fun j => (st.kv[j]?).any (fun v => !v.pinned))
    (sortBy (fun a b => decide (((st.kv[a]?).map (·.seq)).getD 0 ≤ ((st.kv[b]?).map (·.seq)).getD 0)) free).head?

/-- KVAPP (R253). -/
def execKvapp (k : BitVec 8) (d : GReg) (s : State) : Host.Outcome State Fault Refusal :=
  streamWord k (some d) (fun s _ _ n st =>
    match st.kvPick with
    | none => .trap (trapOf .kvFull)
    | some j =>
      .done (s.updStream n (fun st =>
        { st with kv := st.kv.set j { valid := true, pinned := false, seq := st.kvSeq }, kvSeq := st.kvSeq + 1 }))
        (some (d, st.kvVa j))) s

/-- KVPIN and KVUNPIN (R253). -/
def kvMark (k : BitVec 8) (a : GReg) (pin : Bool) (s : State) : Host.Outcome State Fault Refusal :=
  streamWord k none (fun s c _ n st =>
    let va := c.seqC.rd a
    match (List.range st.kv.length).find? (fun j => decide (st.kvVa j = va) && (st.kv[j]?).any (·.valid)) with
    | none => .trap (trapOf .illegalField)
    | some j =>
      .done (s.updStream n (fun st =>
        { st with kv := st.kv.modify j (fun v => { v with pinned := pin }) })) none) s

/-- KVPIN. -/
def execKvpin (k : BitVec 8) (a : GReg) (s : State) : Host.Outcome State Fault Refusal := kvMark k a true s

/-- KVUNPIN. -/
def execKvunpin (k : BitVec 8) (a : GReg) (s : State) : Host.Outcome State Fault Refusal := kvMark k a false s

/-! ### Encode contexts (R254 to R256) -/

/-- EN of an ECFG value. -/
def ecfgEn (v : Word) : Bool := v.getLsbD 0
/-- DEPTH. -/
def ecfgDeep (v : Word) : Bool := v.getLsbD 1
/-- PROFILE. -/
def ecfgProfile (v : Word) : Nat := fieldOf v 2 2
/-- WIDTH. -/
def ecfgWidth (v : Word) : Nat := fieldOf v 44 12
/-- HEIGHT. -/
def ecfgHeight (v : Word) : Nat := fieldOf v 32 12

/-- The key of context `c` of engine `e`. -/
def encKey (e c : Nat) : Nat := 8 * e + c

/-- The encode context bound to a stream. -/
def State.encOf (s : State) (n : Nat) : Option (Nat × EncCtx) := s.encs.find? (fun e => decide (e.2.stream = some n))

/-- Change an encode context. -/
def State.updEnc (s : State) (key : Nat) (f : EncCtx → EncCtx) : State :=
  match find s.encs key with
  | some x => { s with encs := Tab.put key (f x) s.encs }
  | none => s

/-- The size of a plane (R256). -/
def planeSize (cfg : Word) (plane : Nat) : Nat × Nat :=
  if plane = 0 then (ecfgWidth cfg, ecfgHeight cfg) else (ecfgWidth cfg / 2, ecfgHeight cfg / 2)

/-- The sample of an element (R256). -/
def sampleOf (f : Fmt) (x : Nat) : BitVec 16 :=
  if f = .i8 then BitVec.ofNat 16 (x % 256)
  else
    match valOf .f16 x with
    | .nan => 0
    | .inf neg => if neg then 0 else 1023
    | .fin neg m e =>
      let v := roundInt .rne neg m e
      if v < 0 then 0 else if 1023 < v then 1023 else BitVec.ofNat 16 v.toNat

/-- EQPUSH once its source is at hand. -/
def eqpushBlock (q plane bx yb : Nat) (fstart : Bool) (src : VSrc) (x : EncCtx) (ectx : Nat) (tl : Tile) (s : State)
    (c : CoreTask) : Res State :=
  let want : Fmt := if ecfgDeep x.ecfg then .f16 else .i8
  if c.secondSrc src || tl.scales.isSome || tl.rows ≠ 64 || tl.cols ≠ 64 || tl.fmt ≠ want then .trap (trapOf .shape)
  else if 8 ≤ (Tab.get [] s.letters q).length then .wait s (.spin (.letter q))
  else afterRelease .chip s (fun s c =>
    let c1 := src.lq?.foldl (fun c q => c.popBlock q) (c.updSeq .x Seq.release)
    let b : LetterBlock :=
      { ectx := ectx, plane := plane, bx := bx, yb := yb, fstart := fstart,
        samples := tl.elems.flatten.map (sampleOf tl.fmt), stamp := c1.seqX.stamp }
    doneCt { s with letters := Tab.upd [] s.letters q (· ++ [b]) } c1)

/-- EQPUSH (R256). -/
def execEqpush (k : BitVec 8) (q : Fin 8) (src : VSrc) (strictA : Bool) (plane : Fin 4) (bx yb : BitVec 6)
    (fstart : Bool) (s : State) : Host.Outcome State Fault Refusal :=
  runGlobal { perm := [.x], cons := k } (fun s c =>
    match (s.task? s.cur.slot).bind (·.stream) with
    | none => .trap (trapOf .illegalField)
    | some n =>
      match s.encOf n with
      | none => .trap (trapOf .perm)
      | some (key, x) =>
        let (wp, hp) := planeSize x.ecfg plane.val
        if !ecfgEn x.ecfg || decide (q.val ≠ key / 8) then .trap (trapOf .perm)
        else if ceilDiv wp 64 ≤ bx.toNat ∨ ceilDiv hp 64 ≤ yb.toNat then .trap (trapOf .illegalField)
        else match c.source src strictA false [] with
          | .wait => .wait s .plain
          | .emptyRead => .trap (trapOf .emptyRead)
          | .unwritten => .trap (trapOf .shape)
          | .tile tl => eqpushBlock q.val plane.val bx.toNat yb.toNat fstart src x (key % 8) tl s c) s

/-! ### The engines (R257, R258) -/

/-- The key of a block in a frame. -/
def blockKey (plane bx yb : Nat) : Nat := plane * 4096 + yb * 64 + bx

/-- The blocks of a frame's three planes. -/
def frameKeys (cfg : Word) : List Nat :=
  (List.range 3).flatMap (fun p =>
    let (w, h) := planeSize cfg p
    (List.range (ceilDiv h 64)).flatMap (fun y => (List.range (ceilDiv w 64)).map (fun x => blockKey p x y)))

/-- Every block of a frame is present. -/
def Frame.full (f : Frame) : Bool := (frameKeys f.cfg).all (fun k => (find f.blocks k).isSome)

/-- A count that saturates. -/
def satAdd (limit a b : Nat) : Nat := Nat.min limit (a + b)

/-- The context after its written values have come into force (R255). -/
def EncCtx.force (x : EncCtx) : EncCtx :=
  { x with ecfgF := x.ecfg, erateF := x.erate, eobaseF := x.eobase, eolenF := x.eolen }

/-- A complete frame moves on to be coded. -/
def EncCtx.complete (x : EncCtx) : EncCtx :=
  match x.cur with
  | some f => if f.full then { x with cur := none, toCode := some f } else x
  | none => x

/-- Place a block in its context's frame (R257); none while an earlier frame still waits to be coded. -/
def EncCtx.take (x : EncCtx) (b : LetterBlock) (now : Nat) : Option EncCtx :=
  let y := if b.fstart then x.force else x
  let drop : EncCtx := { y with drop := satAdd 65535 y.drop 1, lastTake := some now }
  if !ecfgEn y.ecfgF then some drop
  else
    let key := blockKey b.plane b.bx b.yb
    if b.fstart then
      if x.cur.isSome ∧ x.toCode.isSome then none
      else
        let f : Frame := { blocks := [(key, b.samples)], start := now, cfg := y.ecfgF }
        let z := { y with toCode := if x.cur.isSome then x.cur else x.toCode, cur := some f, lastTake := some now }
        if f.full ∧ z.toCode.isSome then some z else some z.complete
    else
      match x.cur with
      | none => some drop
      | some f =>
        let f' := { f with blocks := Tab.put key b.samples f.blocks }
        if f'.full ∧ x.toCode.isSome then none
        else some (EncCtx.complete { y with cur := some f', lastTake := some now })

/-- An encode context has left with its VF's state (R313). -/
def State.encGone (s : State) (x : EncCtx) : Bool :=
  (x.stream.bind s.stream?).any (fun st => s.partGone st.part)

/-- The engine stalls on a record that has no room (R258). -/
def State.engineStalled (s : State) (e : Nat) : Bool :=
  s.encs.any (fun x => decide (x.1 / 8 = e) && x.2.coded.isSome && !s.encGone x.2)

/-- LETTERBOX_TAKE: the engine takes the block at the head of its letterbox (R257). -/
def execLetterboxTake (e : Fin 6) (s : State) : Host.Outcome State Fault Refusal :=
  match Tab.get [] s.letters e.val with
  | [] => idle s
  | b :: rest =>
    let key := encKey e.val b.ectx
    let s1 := { s with letters := Tab.set [] s.letters e.val rest }
    match find s.encs key with
    | none => ok s1
    | some x =>
      let pace := fieldOf x.erateF 16 16
      let paced := match x.lastTake with
        | some t => decide (s.dtime < t + pace)
        | none => false
      if s.encGone x then ok s1
      else if s.engineStalled e.val || paced then idle s
      else match x.take b s.dtime with
        | none => idle s
        | some y => ok { s1 with encs := Tab.put key y s.encs }

/-- Mid-grey (R257). -/
def midGrey (cfg : Word) : List (BitVec 16) := List.replicate 4096 (if ecfgDeep cfg then 512 else 128)

/-- The record of a frame (R258). -/
def frameRecord (number start : Nat) (bits : List Byte) : List Byte :=
  let n := 16 + bits.length
  leBytes 4 bits.length ++ leBytes 4 number ++ leBytes 8 start ++ bits ++ List.replicate ((16 - n % 16) % 16) 0

/-- The context codes its frame: missing blocks are filled in, and the record waits to be written. -/
def EncCtx.code (x : EncCtx) (f : Frame) (bits : List Byte) : EncCtx :=
  let keys := frameKeys f.cfg
  let missing := (keys.filter (fun k => (find f.blocks k).isNone)).length
  let full : Tab (List (BitVec 16)) := keys.foldl (fun t k =>
    Tab.put k ((find f.blocks k).getD ((find x.last k).getD (midGrey f.cfg))) t) []
  { x with toCode := none, coded := some (frameRecord (x.count % 2 ^ 32) f.start bits), last := full,
           miss := satAdd 65535 x.miss missing, count := x.count + 1 }

/-- The parts of a record in the output buffer: address and bytes (R258). -/
def EncCtx.parts (x : EncCtx) (bs : List Byte) : List (Word × List Byte) :=
  let len := (x.eolenF.toNat)
  let at_ := x.eowr % len
  let n := Nat.min bs.length (len - at_)
  [(x.eobaseF + BitVec.ofNat 64 at_, bs.take n), (x.eobaseF, bs.drop n)].filter (fun p => !p.2.isEmpty)

/-- Write a list of parts, then a count as a release. -/
def State.writeOut (s : State) (ctx : Nat) : List (Word × List Byte) → VaRes State
  | [] => .ok s
  | p :: ps =>
    match s.writeVa ctx p.1 p.2 false with
    | .ok s1 => s1.writeOut ctx ps
    | r => r

/-- A context that has stopped: EN is 0, written and in force, and it codes and writes no frame it still had; a frame that has
begun stays begun (R257, R258; log 39). -/
def EncCtx.stop (x : EncCtx) : EncCtx :=
  let off (v : Word) : Word := v &&& ~~~(1 : Word)
  { x with ecfg := off x.ecfg, ecfgF := off x.ecfgF, toCode := none, coded := none, owed := false }

/-- A context whose output faults stops, and its host is told (R258). -/
def State.encFault (s : State) (key : Nat) (x : EncCtx) (t : Trap) : State :=
  ((s.updEnc key EncCtx.stop).plainDone (.enc key)).complete x.queue
    { tag := x.tag, code := t.code.num, kind := 2, value := t.addr }

/-- A context that a destroyed stream has left goes once its frame is coded (R243). -/
def State.dropEnc (s : State) (key : Nat) : State :=
  match find s.encs key with
  | some x => if x.stream.isNone ∧ x.toCode.isNone ∧ x.coded.isNone ∧ ¬x.owed then { s with encs := Tab.del key s.encs } else s
  | none => s

/-- What an access of an encoder gives: it goes on, it stops the context, or it waits for a page (R179, R258). After any
answer to its request, an Invalid Request too, it walks again at the engine's next turn; what an Invalid Request does to an
encoder is the model's choice (log 30). -/
def State.encAccess (s : State) (key : Nat) (x : EncCtx) (r : VaRes State) (go : State → State) : State :=
  match r with
  | .ok s1 => go (s1.plainDone (.enc key))
  | .trap t => (s.encFault key x t).dropEnc key
  | .miss va pg h =>
    match s.plainMiss (.enc key) x.vctx va with
    | some t => (s.encFault key x t).dropEnc key
    | none => s.plainWait (.enc key) x.vctx pg h Need.write

/-- EOWR as it stands goes to the output buffer, a release of SYS scope (R258). -/
def State.writeEowr (s : State) (key : Nat) : State :=
  match find s.encs key with
  | none => s
  | some x =>
    s.encAccess key x (s.writeVa x.vctx (x.eobaseF + x.eolenF) (leBytes 8 x.eowr) true) (fun s1 =>
      (s1.updEnc key (fun y => { y with owed := false })).dropEnc key)

/-- Write a context's record when it has room; then EOWR is raised, and written (R258). -/
def State.writeRecord (s : State) (key : Nat) (x : EncCtx) (bs : List Byte) : State :=
  if x.eolenF.toNat < x.eowr - x.eord + bs.length then s
  else
    s.encAccess key x (s.writeOut x.vctx (x.parts bs)) (fun s1 =>
      (s1.updEnc key (fun y => { y with
        coded := none, owed := true, eowr := x.eowr + bs.length,
        frames := satAdd (2 ^ 32 - 1) y.frames 1 })).writeEowr key)

/-- The context of an engine that codes next: one with a record in hand, else the next in turn. -/
def State.nextEnc (s : State) (e : Nat) : Option (Nat × EncCtx) :=
  let mine := s.encs.filter (fun x => decide (x.1 / 8 = e) && !s.encGone x.2)
  match mine.find? (fun x => x.2.coded.isSome || x.2.owed) with
  | some x => some x
  | none =>
    let turn := Tab.get 0 s.encTurn e
    (sortBy (fun a b => decide ((a.1 % 8 + 8 - turn) % 8 ≤ (b.1 % 8 + 8 - turn) % 8))
      (mine.filter (fun x => x.2.toCode.isSome))).head?

/-- FRAME_CODED: the engine codes its next frame, whose blocks count for franking, or goes on with a record that had no room
or a page to wait for (R257, R258, R268). -/
def execFrameCoded (e : Fin 6) (s : State) : Host.Outcome State Fault Refusal :=
  match s.nextEnc e.val with
  | none => idle s
  | some (key, x) =>
    if (s.plainWaits (.enc key) x.vctx).isSome then idle s
    else if x.owed then ok (s.writeEowr key)
    else match x.coded, x.toCode with
    | some bs, _ => ok (s.writeRecord key x bs)
    | none, some f =>
      let y := x.code f (Config.bitstream s.tick)
      let s1 := { s with
        pw := { s.pw with used := Tab.upd 0 s.pw.used (128 + x.vctx) (· + f.blocks.length) },
        encs := Tab.put key y s.encs, encTurn := Tab.set 0 s.encTurn e.val ((key + 1) % 8) }
      ok (s1.writeRecord key y (y.coded.getD []))
    | none, none => idle s

end Sys2Proof.Machine
end

