-- ==== Sys2Proof/Machine/PowerWords.lean ====
section
/-! DEFINITION. Power words: the current level of a core (R265, R266). -/

namespace Sys2Proof.Machine

/-- The units of a level (R265). -/
def pwrUnits (level : Nat) : Nat := Nat.max (level + 1) 2

/-- The level of the core-task that runs on a core; 0 with none (R265). -/
def State.levelOn (s : State) (core : Nat) : Nat :=
  ((s.tasks.filter (fun e => decide (e.2.state = .running))).findSome? (fun e =>
    (e.2.cts.find? (fun c => decide (c.2.core = core))).map (fun c => c.2.pwrlvl))).getD 0

/-- The island's sum under R265 with a core at a level. -/
def State.pwrSum (s : State) (core level : Nat) : Nat :=
  ((List.range 4).map (fun j =>
    let c := core / 4 * 4 + j
    pwrUnits (if c = core then level else s.levelOn c))).sum

/-- The current class of an engine command (R143, R152). -/
def engineClass : Instr → Nat
  | .mxmul p | .mxmuls p => p.pair.cls
  | .mxzero .. | .mxwr .. | .mxrd .. | .mxepi .. => 2
  | _ => 1

/-- An engine command of the core that is queued or running has a class above a level. -/
def CoreTask.engineAbove (c : CoreTask) (level : Nat) : Bool :=
  (c.mxq.map (·.i) ++ c.cpq.map (·.i) ++ c.copies.map (·.2.cmd.i)).any (fun i => decide (level < engineClass i))

/-- The requests of an island that wait: since when, and the logical core (R266). -/
def State.pwrWaiters (s : State) (island : Nat) : List (Nat × Nat) :=
  (s.tasks.filter (fun e => decide (e.2.state = .running))).flatMap (fun e =>
    e.2.cts.filterMap (fun x => match x.2.seqC.wait with
      | some { kind := .pwr _, since := t, .. } => if x.2.core / 4 = island then some (t, s.logicalOf x.2.core) else none
      | _ => none))

/-- No request of the island stands before one that began at `since` (R266). -/
def State.pwrFirst (s : State) (core since : Nat) : Bool :=
  (s.pwrWaiters (core / 4)).all (fun w =>
    decide (since < w.1 ∨ (since = w.1 ∧ s.logicalOf core ≤ w.2)))

/-- When the issuing request began to wait. -/
def CoreTask.pwrSince (c : CoreTask) (now : Nat) : Nat :=
  match c.seqC.wait with
  | some { kind := .pwr _, since := t, .. } => t
  | _ => now

/-- PWRACQ and PWRREL with their level (R266). -/
def pwrSet (level : Nat) (s : State) (c : CoreTask) : Res State :=
  if level < c.pwrlvl then
    if c.engineAbove level then .wait s .plain else doneCt s { c with pwrlvl := level }
  else if level = c.pwrlvl then .done s none
  else if s.pwrFirst c.core (c.pwrSince s.dtime) ∧ s.pwrSum c.core level ≤ 24 then
    doneCt s { c with pwrlvl := level }
  else .wait s (.pwr level)

/-- PWRACQ, immediate form. -/
def execPwracqImm (k : BitVec 8) (level : Fin 8) (s : State) : Host.Outcome State Fault Refusal :=
  runGlobal (cOnly k) (pwrSet level.val) s

/-- PWRACQ, register form. -/
def execPwracqReg (k : BitVec 8) (a : GReg) (s : State) : Host.Outcome State Fault Refusal :=
  runGlobal (cOnly k) (fun s c =>
    let v := (c.seqC.rd a).toNat
    if 7 < v then .trap (trapOf .illegalField) else pwrSet v s c) s

/-- PWRREL. -/
def execPwrrel (k : BitVec 8) (s : State) : Host.Outcome State Fault Refusal := runGlobal (cOnly k) (pwrSet 1) s

end Sys2Proof.Machine
end

