-- ==== Sys2Proof/Machine/Links.lean ====
section
/-! DEFINITION. Link words, link ticks, deliveries, remote submissions (R237, R312, R313, R348 to R350). -/

namespace Sys2Proof.Machine

/-! ### LKSEND, LKRED (R349) -/

/-- The link tick that DTIME stands in (R312). -/
def State.linkTick (s : State) : Nat := s.dtime / 256

/-- The fields of a link word keep R348. -/
def linkWordOk (w : Word) : Bool :=
  decide (fieldOf w 61 3 = 0) && decide (4 ≤ linkLen w) && decide (linkLen w ≤ 32768) && decide (linkLen w % 4 = 0)

/-- The peer port takes a transfer, or raises LINK-MISS and sends nothing (R349). -/
def State.handOver (s : State) (slot rank : Nat) (x : Transfer) : State :=
  let sum := Tab.get 0 s.ports.admitted x.tick + x.bytes.length
  if x.tick * 256 ≤ s.dtime ∨ 32768 < sum ∨ Config.clockError s.tick then
    s.raiseLink slot rank 0 (trapOf .linkMiss) x.waddr
  else
    { s with ports := { s.ports with
        admitted := Tab.set 0 s.ports.admitted x.tick sum, out := s.ports.out ++ [x] } }

/-- The link word after its checks and its wait: the release, the read of the source as the core sees it (R201), the
hand-over. -/
def linkSend (kind : Option AccFmt) (src : Nat) (w : Word) (n : Nat) (id : BitVec 32) (pgrank : Nat) (g : Pgt) (s : State) :
    Res State :=
  afterRelease .sys s (fun s c =>
    let c1 := c.updSeq .c Seq.release
    match c1.localRead s.raceOn (agentId s.cur.slot s.cur.rank 0) c1.seqC.stamp (granules src (linkLen w)) with
    | .inl t => .trap t
    | .inr c2 =>
      let x : Transfer :=
        { tick := n, id := id, rank := s.cur.rank, waddr := c.seqC.pc, word := w, link := g.links.getD (linkPrank w) 0,
          kind := kind, pgrank := pgrank, bytes := c2.seen s.tick c2.core c2.seqC.stamp src (linkLen w) }
      .done ((s.putCt s.cur.slot s.cur.rank c2).handOver s.cur.slot s.cur.rank x) none)

/-- A link word (R349). -/
def linkWord (k : BitVec 8) (kind : Option AccFmt) (gs gw gt : GReg) (s : State) : Host.Outcome State Fault Refusal :=
  runGlobal (cOnly k) (fun s c =>
    let src := (c.seqC.rd gs).toNat
    let w := c.seqC.rd gw
    let n := (c.seqC.rd gt).toNat
    match s.task? s.cur.slot with
    | none => .wait s .plain
    | some t =>
      if !linkWordOk w || decide (vaField t.td 4 = 0) then .trap (trapOf .illegalField)
      else match s.readPgt t.ctx (vaField t.td 4) with
        | .trap tr => .trap tr
        | .miss va pg h => missWord s Need.read va pg h
        | .ok g =>
          let read := (s.notePgt t.ctx (vaField t.td 4)).clearWord s.cur.slot s.cur.rank 0 c.seqC.pc
          if g.size < linkPrank w then .trap (trapOf .illegalField)
          else if src % 4 ≠ 0 ∨ linkDaddr w % 4 ≠ 0 then .trap (trapOf .align)
          else if scratchTop < src + linkLen w ∨ scratchTop < linkDaddr w + linkLen w then .trap (trapOf .lsaRange)
          else if !s.r.featw0.getLsbD 4 then .trap (trapOf .linkMiss)
          else if s.linkTick + 64 < n then .wait s .plain
          else linkSend kind src w n t.id t.pgrank g read) s

/-- LKSEND. -/
def execLksend (k : BitVec 8) (gs gw gt : GReg) (s : State) : Host.Outcome State Fault Refusal :=
  linkWord k none gs gw gt s

/-- LKRED. -/
def execLkred (k : BitVec 8) (f : AccFmt) (gs gw gt : GReg) (s : State) : Host.Outcome State Fault Refusal :=
  linkWord k (some f) gs gw gt s

/-! ### The start of a link tick (R312) -/

/-- The packet of a transfer. -/
def Transfer.packet (x : Transfer) (base : Word) : LinkPacket :=
  { sender := x.pgrank, senderBase := base.toNat, kind := x.kind, word := x.word, tick := x.tick, bytes := x.bytes,
    relayed := false }

/-- A transfer leaves, or is turned round inside the device (R349). Without a trained peer port the device is a group
of one (R19): nothing leaves, and the sender receives LINK-MISS (log 33). -/
def State.depart (s : State) (x : Transfer) : State :=
  let own : Inside := { src := some (x.id, x.rank, x.waddr), p := x.packet s.ports.base }
  if linkPrank x.word = x.pgrank then { s with ports := { s.ports with inside := s.ports.inside ++ [own] } }
  else if !s.ports.peer then s.tellSender own .linkMiss
  else s.sendPeer (.data x.link (x.packet s.ports.base))

/-- LINK_TICK_DEPARTURE: the transfers admitted for the earliest tick leave when it has begun, in issue order. -/
def execLinkTickDeparture (s : State) : Host.Outcome State Fault Refusal :=
  match (sortBy (fun a b => decide (a ≤ b)) (s.ports.out.map (·.tick))).head? with
  | none => idle s
  | some n =>
    if s.dtime < 256 * n then idle s
    else
      let mine := s.ports.out.filter (fun x => decide (x.tick = n))
      let s1 := { s with ports := { s.ports with
        out := s.ports.out.filter (fun x => decide (x.tick ≠ n)), admitted := Tab.set 0 s.ports.admitted n 0 } }
      ok (mine.foldl State.depart s1)

/-! ### Deliveries (R313, R350) -/

/-- The VF of a task's partition that migrates away, and its stage. -/
def State.migrating (s : State) (t : Task) : Option (Nat × VfStage) :=
  (t.parts.find? (fun p => decide ((s.vfMig p).stage ≠ .idle))).map (fun p => (p + 1, (s.vfMig p).stage))

/-- The key under which the deliveries of a peer for an imported partition are held (R313). -/
def markerKey (part peer : Nat) : Nat := peer * 16 + part

/-- A delivery that is dropped: its sender receives LINK-MISS. -/
def State.dropDelivery (s : State) (d : Inside) : State := s.tellSender d .linkMiss

/-- A delivery reaches the one task that matches it (R350). -/
def State.reach (s : State) (slot : Nat) (t : Task) (r : Nat) (d : Inside) : State :=
  if t.gang ≤ r then s.dropDelivery d
  else if (t.ct? r).isSome then s.applyInside slot r d
  else if s.ports.held.length < 64 then { s with ports := { s.ports with held := s.ports.held ++ [(t.id, d)] } }
  else s.dropDelivery d

/-- A delivery goes on to the destination of VF `n`; a group of one (R19) has none, and drops it (log 33). -/
def State.relay (s : State) (n : Nat) (d : Inside) : State :=
  if s.ports.peer then s.sendPeer (.relay n { d.p with relayed := true }) else s.dropDelivery d

/-- A delivery for a partition whose VF migrates: held, relayed, or dropped (R313). -/
def State.forward (s : State) (n : Nat) (stage : VfStage) (d : Inside) : State :=
  match stage with
  | .frozen =>
    { s with ports := { s.ports with vf := Tab.upd VfMig.idle s.ports.vf n (fun m => { m with held := m.held ++ [d] }) } }
  | .imported => s.relay n d
  | _ => s.dropDelivery d

/-- The task that a delivery matches, when exactly one does (R350). -/
def State.matching (s : State) (p : LinkPacket) : Option (Nat × Task × Nat) :=
  match s.tasks.filterMap (fun e => (s.routes e.2 p).map (fun r => (e.1, e.2, r))) with
  | [x] => some x
  | _ => none

/-- A delivery at the link receive unit; `late` when it has already waited for its peer's end marker. -/
def State.receive (s : State) (late : Bool) (d : Inside) : State :=
  match s.matching d.p with
  | none => s.dropDelivery d
  | some (slot, t, r) =>
    match s.migrating t with
    | some (n, stage) => s.forward n stage d
    | none =>
      match t.parts.find? (fun p => (find s.ports.marker (markerKey p d.p.senderBase)).isSome) with
      | some p =>
        if d.p.relayed ∨ late then s.reach slot t r d
        else { s with ports := { s.ports with
          marker := Tab.put (markerKey p d.p.senderBase)
            ((find s.ports.marker (markerKey p d.p.senderBase)).getD [] ++ [d]) s.ports.marker } }
      | none => s.reach slot t r d

/-- The code of a delivery's fault. -/
def linkCode : LinkFault → Code
  | .linkMiss => .linkMiss
  | .barOverflow => .barOverflow
  | .semOverflow => .semOverflow

/-- LINK_DELIVERY: one from a peer, the next that was turned round inside the device, or a peer's word of the fault of
one of our own (R349, R350); an untrained peer port brings nothing (R19). -/
def execLinkDelivery (x : LinkArrival) (s : State) : Host.Outcome State Fault Refusal :=
  match x, s.ports.inside with
  | .packet p, _ => if s.ports.peer then ok (s.receive false { src := none, p := p }) else idle s
  | .fault id rank w f, _ =>
    (match s.byId id with
      | some (slot, _) => if s.ports.peer then ok (s.raiseLink slot rank 0 (trapOf (linkCode f)) w) else idle s
      | none => idle s)
  | .inside, [] => idle s
  | .inside, d :: ds => ok (({ s with ports := { s.ports with inside := ds } }).receive false d)

/-! ### Remote submissions (R237) -/

/-- The check of a remote submission: its answer, or none when the packet waits; THROT counts a holding once (R224). A packet
that waits for a page is not tried before its request is answered (R179). -/
def State.takeRemote (s : State) (srcBase srcRank : Nat) (td : List Word) (req : Nat) : State × Option RemoteAnswer :=
  let ctx := Config.remoteCtx srcBase srcRank % 128
  let sub : Submitter := { ctx := ctx, priv := false, host := true, stream := none, job := none, multi := none }
  let who : Plain := .remote srcBase req
  let read : State := (s.plainDone who).noteSub td ctx
  if (s.plainWaits who ctx).isSome then (s, none)
  else match s.checkSub td 0 sub with
  | .refuse n _ => (read, some (.refused n))
  | .miss m =>
    (match s.subMiss who ctx m with
      | .inl (code, _) => (s.plainDone who, some (.refused code))
      | .inr s1 => (s1, none))
  | .ok img futs =>
    if s.quotaOk (s.ctxTenant ctx) td (s.unresolved futs).length then
      let job : Job := { count := 1, queue := none, remote := some (BitVec.ofNat 64 srcBase, req), tag := 0, ctx := ctx,
                         fq := Config.remoteFaultQueue srcBase srcRank, htask := false, written := 0, waiting := [] }
      let (s1, id) := read.accept td sub img futs (some job)
      (s1, some (.accepted id))
    else if s.ports.counted.contains (srcBase, req) then (s, none)
    else ({ s with ports := { s.ports with counted := s.ports.counted ++ [(srcBase, req)] } }.addThrot (s.ctxTenant ctx), none)

/-- REMOTE_SUBMIT_PACKET: the receiving device answers with one packet; the packet waits while the tenant is at its
quota or a page is missing (R179, R224, R237). Both ports are trained (R19). -/
def execRemoteSubmitPacket (srcBase srcRank : Nat) (desc : List Byte) (req : Nat) (s : State) :
    Host.Outcome State Fault Refusal :=
  if !s.ports.peer || !s.ports.host then idle s
  else match s.takeRemote srcBase srcRank (descWords desc) req with
    | (s1, none) => ok s1
    | (s1, some ans) =>
      ok { s1 with ports := { s1.ports with
        sent := s1.ports.sent ++ [.answer (BitVec.ofNat 64 srcBase) req ans],
        counted := s1.ports.counted.filter (fun x => decide (x ≠ (srcBase, req))) } }

/-- The answer of a remote submission reaches the word that waits for it. -/
def Seq.answered (q : Seq) (req : Nat) (v : Word) : Seq :=
  match q.wait with
  | some { kind := .remote r none, since := a, ord := o } =>
    if r = req then { q with wait := some { kind := .remote r (some v), since := a, ord := o } } else q
  | _ => q

/-- Give a result to the word that waits. -/
def State.answerTo (s : State) (agent req : Nat) (v : Word) : State :=
  s.updSeq { slot := agent / 4096, rank := agent / 256 % 16, q := .c } (·.answered req v)

/-- REMOTE_ANSWER_PACKET: refusal, acceptance or retirement at the sender (R237). -/
def execRemoteAnswerPacket (req : Nat) (ans : RemoteAnswer) (s : State) : Host.Outcome State Fault Refusal :=
  match (if s.ports.peer then find s.ports.reqs req else none) with
  | none => idle s
  | some (job, agent) =>
    let gone := { s with ports := { s.ports with reqs := Tab.del req s.ports.reqs } }
    match ans with
    | .refused code => ok ((gone.jobLess job false).answerTo agent req (-(BitVec.ofNat 64 code)))
    | .accepted id => ok (s.answerTo agent req (id.setWidth 64))
    | .retired => ok (gone.jobLess job false)

end Sys2Proof.Machine
end

