-- ==== Sys2Proof/Machine/Csr.lean ====
section
/-! DEFINITION. Control and status registers (R118, R119, R150, R255, R272, R338), TIME (R374), and the thermal actions
that a write of THERMSIM and the sensors share (R270). -/

namespace Sys2Proof.Machine

/-! ### Changes of an operating point (R260, R263) -/

/-- Start the change of an island to a point. A change in progress is replaced: the point in force stays the old one
until the new change is complete. -/
def Island.moveTo (i : Island) (p now : Nat) : Island :=
  if i.change = none ∧ p = i.point then i
  else if opRatio p = opRatio i.point ∧ ¬i.held then { i with change := some (p, now + 200), held := false }
  else { i with change := some (p, now + 2000), held := true }

/-! ### Thermal actions (R270, R272) -/

/-- A temperature in the unit of the sensors. -/
def celsius (n : Int) : Int := n * 16

/-- The flags of an island after its readings have changed (R270, R273). -/
def Island.thermFlags (i : Island) : Island :=
  let eff := i.reading
  let real := i.sensor.toInt
  { i with
    fired := if eff < celsius 90 then false else i.fired || decide (celsius 95 ≤ eff),
    hold105 := if eff < celsius 100 then false else i.hold105 || decide (celsius 105 ≤ eff),
    hold105r := if real < celsius 100 then false else i.hold105r || decide (celsius 105 ≤ real),
    stop115 := if real < celsius 105 then false else i.stop115 || decide (celsius 115 ≤ real) }

/-- The 105 °C hold is taken. -/
def Island.hot (i : Island) : Bool := i.hold105 || i.hold105r

/-- The persistent core-tasks that run on an island. -/
def State.persistentOn (s : State) (island : Nat) : List (Nat × Nat) :=
  (s.tasks.filter (fun e => decide (e.2.state = .running))).flatMap (fun e =>
    (e.2.cts.filter (fun c => decide (c.2.core / 4 = island) && c.2.persistent)).map (fun c => (e.1, c.1)))

/-- THERMAL-MIGRATE to a core-task (R271). -/
def State.thermalMigrate (s : State) (x : Nat × Nat) : State :=
  let s1 := s.updCt x.1 x.2 (fun c => { c with migPend := true })
  { s1 with irqs := s1.irqs ++ [.thermalMigrate x.1 x.2] }

/-- FEATW0.THMIG. -/
def State.thmigOn (s : State) : Bool := s.r.featw0.getLsbD 7

/-- Act on an island whose readings have become those of `i` (R270): THERMAL-MIGRATE once per crossing of 95 °C, the
hold at OP0 from a crossing of 105 °C. -/
def State.thermal (s : State) (n : Nat) (i : Island) : State :=
  let old := Tab.get Island.reset s.pw.islands n
  let j := i.thermFlags
  let j1 := if j.hot ∧ ¬old.hot then j.moveTo 0 s.dtime else j
  let s1 := s.updIsland n (fun _ => j1)
  if j.fired ∧ ¬old.fired ∧ s.thmigOn then (s1.persistentOn n).foldl State.thermalMigrate s1 else s1

/-! ### Reading a CSR -/

/-- OPPT of a core's island (R118). -/
def Island.oppt (i : Island) (n : Nat) : Word :=
  BitVec.ofNat 64 (i.rate * 2 ^ 16 + n * 2 ^ 8 + opRatio i.point * 2 ^ 4 + i.point)

/-- FRANK of a context (R268). -/
def State.frankReg (s : State) (ctx : Nat) : Word :=
  match s.frankLeft ctx with
  | none => -1
  | some q => if q ≤ 0 then 0 else BitVec.ofInt 64 (q / 1000)

/-- VPSREQ of a partition takes a state (R264): a privileged task writes the CSR, a guest writes through its virtual function
(log 61). -/
def State.setVps (s : State) (p n : Nat) : State := { s with r := { s.r with vpsreq := Tab.set 7 s.r.vpsreq p n } }

/-- MXPROG (R150): the head command while it has stopped part-way. -/
def CoreTask.mxprog (c : CoreTask) : Word :=
  match (if c.mxStopped ∨ c.mxHalted then c.mxBlock else none), c.mxq with
  | some b, cmd :: _ => BitVec.ofNat 64 (2 ^ 63 + (opcOf cmd.i).toNat * 2 ^ 54 + b % 16 * 2 ^ 50)
  | _, _ => 0

/-- CPPROGn (R150). -/
def CoreTask.cpprog (c : CoreTask) (n : Nat) : Word :=
  match find c.copies n with
  | some x => BitVec.ofNat 64 (2 ^ 63 + (opcOf x.cmd.i).toNat * 2 ^ 54 + x.done % 2 ^ 48)
  | none => 0

/-- KIND of a slot. -/
def accKind : AccFmt → Nat
  | .f32 => 0 | .bf16 => 1 | .i32 => 2

/-- RTSTAT (R117). -/
def CoreTask.rtstat (c : CoreTask) : Word :=
  BitVec.ofNat 64 ((List.range 8).map (fun k => match find c.resid k with
    | some r => (128 + accKind r.fmt * 32 + Nat.min 31 (r.age / 1000 / 2048)) * 256 ^ k
    | none => 0)).sum

/-- The size of a partition's memory in units of 2 MiB. -/
def State.pmemSize (s : State) (p : Nat) : Nat := fieldOf (Tab.get 0 s.r.pmem p) 32 17

/-- The partition that holds a core's island (R261). -/
def State.partOf (s : State) (core : Nat) : Nat :=
  ((List.range 8).find? (fun p => (s.partCfg p).getLsbD (core / 4))).getD 0

/-- CAPCORE. -/
def State.capcore (s : State) (core : Nat) : Word :=
  BitVec.ofNat 64 ((~~~s.pw.clustersOff).toNat + (s.partCores (s.partOf core)).length * 2 ^ 32)

/-- CAPMEM; a channel holds 8,192 MiB (R14). -/
def State.capmem (s : State) (t : Task) (core : Nat) : Word :=
  let mask := (~~~s.pw.channelsOff).toNat
  let mib := if t.ctx = 0 then 8192 * ((List.range 24).filter (fun i => !s.pw.channelsOff.getLsbD i)).length
    else 2 * s.pmemSize (s.partOf core)
  BitVec.ofNat 64 (mask + mib * 2 ^ 32)

/-- The encode context of a task's stream. -/
def State.taskEnc (s : State) (t : Task) : Option (Nat × EncCtx) := t.stream.bind s.encOf

/-- An encoder CSR (R255). -/
def EncCtx.csr (x : EncCtx) (n : Nat) : Word :=
  match n with
  | 0x100 => x.ecfg
  | 0x101 => x.erate
  | 0x102 => x.eobase
  | 0x103 => x.eolen
  | 0x104 => BitVec.ofNat 64 x.eowr
  | 0x105 => BitVec.ofNat 64 x.eord
  | _ => BitVec.ofNat 64 (x.frames * 2 ^ 32 + x.miss * 2 ^ 16 + x.drop)

/-- The value of a CSR as the core-task reads it, as one snapshot (R119); none for a number that is not laid down. -/
def State.csr (s : State) (n : Nat) (t : Task) (rank : Nat) (c : CoreTask) : Option Word :=
  let isl := s.island c.core
  if n = 0x000 then some (BitVec.ofNat 64 s.dtime)
  else if n = 0x001 then some (BitVec.ofNat 64 rank)
  else if n = 0x002 then some (BitVec.ofNat 64 t.gang)
  else if n = 0x003 then some (t.id.setWidth 64)
  else if n = 0x004 then some (if t.stream.isSome then t.step.setWidth 64 else 0xFFFFFFFF)
  else if n = 0x005 then some (match t.stream with
    | some m => BitVec.ofNat 64 m
    | none => 0xFFFFFFFF)
  else if n = 0x006 then some (BitVec.ofNat 64 t.tenant)
  else if n = 0x007 then some (BitVec.ofNat 64 t.pgrank)
  else if n = 0x010 then some (BitVec.ofInt 64 ((s.taskSlack t).getD maxSlack))
  else if n = 0x011 then some (isl.oppt (c.core / 4))
  else if n = 0x012 then some (s.frankReg t.ctx)
  else if n = 0x013 then some (BitVec.ofNat 64 c.pwrlvl)
  else if n = 0x020 then some c.mxprog
  else if 0x021 ≤ n ∧ n ≤ 0x028 then some (c.cpprog (n - 0x021))
  else if n = 0x030 then some c.rtstat
  else if 0x040 ≤ n ∧ n ≤ 0x043 then some (Tab.get 0 c.jt (n - 0x040))
  else if n = 0x050 then some (c.faultRec ||| (if c.fmtErr then BitVec.ofNat 64 (2 ^ 63) else 0))
  else if n = 0x060 then some s.r.featw0
  else if n = 0x061 then some 0
  else if n = 0x070 then some (s.capcore c.core)
  else if n = 0x071 then some (s.capmem t c.core)
  else if 0x080 ≤ n ∧ n ≤ 0x08B then some (BitVec.ofNat 64 ((s.pool c.core).qmin (n - 0x080)))
  else if 0x090 ≤ n ∧ n ≤ 0x09B then some (BitVec.ofNat 64 ((s.pool c.core).qcap (n - 0x090)))
  else if 0x100 ≤ n ∧ n ≤ 0x106 then some (match s.taskEnc t with
    | some (_, x) => x.csr n
    | none => 0)
  else if n = 0x200 then some (BitVec.ofNat 64 (Tab.get 7 s.r.vpsreq (s.partOf c.core)))
  else if n = 0x201 then some (((BitVec.ofInt 16 isl.reading : BitVec 16)).setWidth 64)
  else if n = 0x202 then some isl.therm
  else if n = 0x203 then some (BitVec.ofNat 64 (isl.energy % 2 ^ 32))
  else if n = 0x204 then some (BitVec.ofNat 64 (c.migCount * 256 + (if c.migPend then 1 else 0)))
  else none

/-- The CSR numbers that R118, R255 and R272 lay down (R338). -/
def csrKnown (n : Nat) : Bool :=
  [0x000, 0x001, 0x002, 0x003, 0x004, 0x005, 0x006, 0x007, 0x010, 0x011, 0x012, 0x013, 0x020, 0x030, 0x050, 0x060, 0x061,
   0x070, 0x071].contains n ||
  [(0x021, 0x028), (0x040, 0x043), (0x080, 0x08B), (0x090, 0x09B), (0x100, 0x106), (0x200, 0x204)].any
    (fun r => decide (r.1 ≤ n) && decide (n ≤ r.2))

/-! ### Writing a CSR -/

/-- A register that only a privileged task writes (R118, R272). -/
def csrPrivileged (n : Nat) : Bool :=
  (decide (0x080 ≤ n) && decide (n ≤ 0x08B)) || (decide (0x090 ≤ n) && decide (n ≤ 0x09B)) || decide (n = 0x200) ||
    decide (n = 0x202)

/-- What a write of a CSR gives. -/
inductive CsrRes where
  | ok (s : State) (c : CoreTask)
  | trap (t : Trap)

/-- The bounds of the queue pool hold (R113). -/
def Pool.ok (k : Pool) : Bool :=
  (List.range 12).all (fun q => decide (k.qmin q ≤ k.qcap q) && decide (1 ≤ k.qcap q) && decide (k.qcap q ≤ 512)) &&
    decide (((List.range 12).map k.qmin).sum ≤ 512)

/-- A write of QMINq or QCAPq (R113). -/
def csrPool (k : Pool) (c : CoreTask) (s : State) : CsrRes :=
  if k.ok then .ok { s with r := { s.r with qmin := k.mins, qcap := k.caps } } c else .trap (trapOf .illegalField)

/-- A value of ECFG is in its ranges (R255). -/
def ecfgOk (v erate : Word) : Bool :=
  decide (ecfgProfile v ≠ 3) && (decide (ecfgProfile v = 0) || decide (fieldOf erate 8 8 ≤ 51)) &&
    (!ecfgEn v ||
      (decide (16 ≤ ecfgWidth v) && decide (ecfgWidth v ≤ 3840) && decide (ecfgWidth v % 8 = 0) &&
       decide (16 ≤ ecfgHeight v) && decide (ecfgHeight v ≤ 2160) && decide (ecfgHeight v % 8 = 0) &&
       !(ecfgDeep v && decide (ecfgProfile v = 1))))

/-- A value of ERATE is in its ranges (R255). -/
def erateOk (v ecfg : Word) : Bool :=
  (!v.getLsbD 0 || decide (fieldOf v 32 32 ≠ 0)) && (decide (ecfgProfile ecfg = 0) || decide (fieldOf v 8 8 ≤ 51))

/-- A write of an encoder CSR; none when it breaks a range (R255, R258). -/
def EncCtx.write (x : EncCtx) (n : Nat) (v : Word) : Option EncCtx :=
  match n with
  | 0x100 => if ecfgOk v x.erate then some { x with ecfg := v &&& 0x00FFFFFF0000000F } else none
  | 0x101 => if erateOk v x.ecfg then some { x with erate := v &&& 0xFFFFFFFFFFFFFF01 } else none
  | 0x102 => some { x with eobase := v &&& 0x01FFFFFFFFFFF000 }
  | 0x103 =>
    if fieldOf v 0 32 % 4096 = 0 ∧ 65536 ≤ fieldOf v 0 32 then some { x with eolen := v &&& 0xFFFFFFFF } else none
  | 0x105 => if x.eord ≤ v.toNat ∧ v.toNat ≤ x.eowr then some { x with eord := v.toNat } else none
  | _ => some x

/-- A write of an encoder CSR by a task. -/
def csrEnc (n : Nat) (v : Word) (s : State) (t : Task) (c : CoreTask) : CsrRes :=
  match s.taskEnc t with
  | none => .trap (trapOf .perm)
  | some (key, x) =>
    match x.write n v with
    | some y => .ok (s.updEnc key (fun _ => y)) c
    | none => .trap (trapOf .illegalField)

/-- Write a CSR under its own rules (R338). Registers that are read only ignore the write (R6). -/
def State.csrWrite (s : State) (n : Nat) (v : Word) (t : Task) (c : CoreTask) : CsrRes :=
  if csrPrivileged n ∧ ¬t.privileged then .trap (trapOf .perm)
  else if 0x040 ≤ n ∧ n ≤ 0x043 then .ok s { c with jt := Tab.set 0 c.jt (n - 0x040) v }
  else if 0x080 ≤ n ∧ n ≤ 0x08B then 
    let k := s.pool c.core
    csrPool { k with mins := Tab.set 16 k.mins (c.core * 16 + (n - 0x080)) (fieldOf v 0 10) } c s
  else if 0x090 ≤ n ∧ n ≤ 0x09B then 
    let k := s.pool c.core
    csrPool { k with caps := Tab.set 128 k.caps (c.core * 16 + (n - 0x090)) (fieldOf v 0 10) } c s
  else if 0x100 ≤ n ∧ n ≤ 0x106 then csrEnc n v s t c
  else if n = 0x200 then .ok (s.setVps (s.partOf c.core) (fieldOf v 0 3)) c
  else if n = 0x202 then
    if (s.partCfg (s.partOf c.core)).getLsbD 32 then
      let s1 := s.putCt s.cur.slot s.cur.rank c
      let s2 := s1.thermal (c.core / 4) { (s1.island c.core) with therm := v &&& 0x8000FFFF }
      match s2.ct? s.cur.slot s.cur.rank with
      | some c2 => .ok s2 c2
      | none => .ok s2 c
    else .trap (trapOf .perm)
  else .ok s c

/-- CSRW, CSRS and CSRC: the value written from the CSR and the register (R338). -/
def csrWord (k : BitVec 8) (csr : BitVec 12) (a : GReg) (f : Word → Word → Word) (s : State) :
    Host.Outcome State Fault Refusal :=
  runGlobal { cOnly k with legal := csrKnown csr.toNat } (fun s c =>
    match s.task? s.cur.slot with
    | none => .wait s .plain
    | some t =>
      match s.csr csr.toNat t s.cur.rank c with
      | none => .trap (trapOf .illegalField)
      | some old =>
        match s.csrWrite csr.toNat (f old (c.seqC.rd a)) t c with
        | .trap tr => .trap tr
        | .ok s1 c1 => doneCt s1 c1) s

/-- CSRR (R338). -/
def execCsrr (k : BitVec 8) (d : GReg) (csr : BitVec 12) (s : State) : Host.Outcome State Fault Refusal :=
  runLocal { perm := allSeqs, legal := csrKnown csr.toNat, cons := k, dst := gDst d } (fun s c =>
    match s.task? s.cur.slot with
    | none => .wait c .plain
    | some t =>
      match s.csr csr.toNat t s.cur.rank c with
      | none => .trap (trapOf .illegalField)
      | some v => .done c (some (d, v))) s

/-- CSRW. -/
def execCsrw (k : BitVec 8) (csr : BitVec 12) (a : GReg) (s : State) : Host.Outcome State Fault Refusal :=
  csrWord k csr a (fun _ v => v) s

/-- CSRS. -/
def execCsrs (k : BitVec 8) (csr : BitVec 12) (a : GReg) (s : State) : Host.Outcome State Fault Refusal :=
  csrWord k csr a (fun old v => old ||| v) s

/-- CSRC. -/
def execCsrc (k : BitVec 8) (csr : BitVec 12) (a : GReg) (s : State) : Host.Outcome State Fault Refusal :=
  csrWord k csr a (fun old v => old &&& ~~~v) s

/-- TIME (R374). -/
def execTime (k : BitVec 8) (d : GReg) (s : State) : Host.Outcome State Fault Refusal :=
  runLocal { perm := allSeqs, cons := k, dst := gDst d } (fun s c => .done c (some (d, BitVec.ofNat 64 s.dtime))) s

end Sys2Proof.Machine
end

