-- ==== Sys2Proof/Machine/Office.lean ====
section
/-! DEFINITION. Steps of the Sorting Office: queue admission, placement, parking, pre-emption, preload, budgets
(R50 to R54, R67 to R73, R112, R241). -/

namespace Sys2Proof.Machine

/-! ### Queue pushes (R112) -/

/-- QUEUE_PUSH_ADMIT: a waiting push is admitted; its chunks are its own from now on. -/
def execQueuePushAdmit (slot rank : Nat) (q : SeqId) (s : State) : Host.Outcome State Fault Refusal :=
  match s.ct? slot rank with
  | none => idle s
  | some c =>
    match (c.seq q).wait with
    | some { kind := .push n k false, since := a, ord := o } =>
      if c.admits (s.pool c.core) q o n k then
        ok (s.putCt slot rank (c.updSeq q (fun sq =>
          { sq with wait := some { kind := .push n k true, since := a, ord := o } })))
      else idle s
    | _ => idle s

/-! ### Placement (R53, R54, R69) -/

/-- A preloaded task is still the next to place on the cores that it stands on (R241). -/
def State.preloadNext (s : State) (slot : Nat) (u : Task) : Bool :=
  match u.preload with
  | none => true
  | some p => (s.nextPlaced u.part (if p.gang < 4096 then p.cores else [])).any (fun n => decide (n.1 = slot))

/-- The preloads of tasks that are no longer the next to place are discarded (R241). -/
def State.prunePreloads (s : State) : State :=
  { s with tasks := s.tasks.map (fun e => if s.preloadNext e.1 e.2 then e else (e.1, { e.2 with preload := none })) }

/-- GANG_PLACEMENT: the task that R72 and R73 place next in a partition starts or is restored; no device runs tasks while
its host port is untrained (R19). -/
def execGangPlacement (part : Fin 8) (s : State) : Host.Outcome State Fault Refusal :=
  if s.partFrozen part.val || !s.ports.host then idle s
  else match s.nextPlaced part.val [] with
    | none => idle s
    | some (slot, t, cs) => ok (s.prunePreloads.place slot ((s.prunePreloads.task? slot).getD t) cs)

/-- HEAD_WAIT_EXPIRY: a head that has waited 50 µs holds its level and those below (R73). -/
def execHeadWaitExpiry (part : Fin 8) (level : Fin 64) (s : State) : Host.Outcome State Fault Refusal :=
  match s.headOf part.val level.val with
  | none => idle s
  | some slot =>
    if ((s.task? slot).bind (fun t => find t.headSince part.val)).any (fun t => decide (t + 50000 ≤ s.dtime)) then
      ok { s with blocked := Tab.put (levelKey part.val level.val) (slot + 1) s.blocked }
    else idle s

/-! ### Parking (R67, R69) -/

/-- The spin window (R67), in ns. -/
def spinWindow : Nat := 2000

/-- The conditions of the waits of a core-task that are past their spin window. -/
def CoreTask.expired (c : CoreTask) (rank now : Nat) : List ParkCond :=
  allSeqs.filterMap (fun q => match (c.seq q).wait with
    | some { kind := .spin _, since := t, .. } => if t + spinWindow ≤ now then some (.spin rank q) else none
    | some { kind := .waita _ none _, since := t, .. } => if t + spinWindow ≤ now then some (.waita rank) else none
    | _ => none)

/-- SPIN_WINDOW_EXPIRY: the gang parks on the waits that are past their window. -/
def execSpinWindowExpiry (slot : Nat) (s : State) : Host.Outcome State Fault Refusal :=
  match s.task? slot with
  | none => idle s
  | some t =>
    let conds := t.cts.flatMap (fun e => e.2.expired e.1 s.dtime)
    if t.state = .running ∧ conds ≠ [] then ok (s.stopGang slot conds false) else idle s

/-- What a word that parked past its spin window waits for stands now (R67, R251). -/
def State.spinMet (s : State) (t : Task) (c : CoreTask) (k : Spin) : Bool :=
  match k with
  | .put n => (s.stream? n).any (fun st => s.spinTurn c k &&
      (st.slots[st.cl % st.slots.length]?).any (fun v => decide (v.st = .free)))
  | .get n => (s.stream? n).any (fun st => s.spinTurn c k &&
      (st.slots[st.gt % st.slots.length]?).any (fun v => decide (v.st = .published)))
  | .step n => (s.stream? n).all (fun st => (decide (st.step = t.step)) || stepLe t.step st.closed)
  | .letter e => decide ((Tab.get [] s.letters e).length < 8)

/-- A condition of a parked gang is met. -/
def State.condMet (s : State) (t : Task) : ParkCond → Bool
  | .spin rank q => (t.ct? rank).any (fun c => match (c.seq q).wait with
      | some { kind := .spin k, .. } => s.spinMet t c k
      | _ => true)
  | _ => false

/-- Accesses that a stop left to be issued again take the stamp of the resumed sequencer (R281). They are issued, under new
translations, when they are next to be applied or to land. -/
def CoreTask.reissue (c : CoreTask) : CoreTask :=
  let st := c.seqC.stamp
  let tags (q : Seq) : Seq := { q with tags := q.tags.map (fun e => (e.1, match e.2.res with
    | .ldg va sz w _ b => { e.2 with res := .ldg va sz w q.stamp b }
    | .ldl a sz w _ => { e.2 with res := .ldl a sz w q.stamp }
    | _ => e.2)) }
  { c with posted := c.posted.map (fun p => if p.stage = .anew then { p with stamp := st } else p),
           again := c.again.map (fun r => { r with stamp := st }),
           seqC := tags c.seqC, seqL := tags c.seqL, seqX := tags c.seqX, seqS := tags c.seqS }

/-- The pieces that slices hold for a gang are applied again (R210). -/
def State.releaseHeld (s : State) (slot : Nat) (stampOf : Nat → Option Stamp) : State :=
  { s with m := { s.m with slices := s.m.slices.map (fun e => (e.1, { e.2 with held := e.2.held.map (fun p =>
      match (if p.slot = slot then stampOf p.rank else none) with
      | some st => { p with ready := true, stamp := st }
      | none => p) })) } }

/-- A parked gang whose conditions are all met returns to READY, with what it left to be done again (R69, R281). -/
def State.wakeGang (s : State) (slot : Nat) : State :=
  s.updTask slot (fun t =>
    if t.state = .parked ∧ t.conds.isEmpty then
      { t with state := .ready, place := t.accepted, cts := t.cts.map (fun e => (e.1, e.2.reissue)) }
    else t)

/-- PARK_CONDITION_MET: conditions that are met go, and with the last the gang returns to READY (R69). -/
def execParkConditionMet (slot : Nat) (s : State) : Host.Outcome State Fault Refusal :=
  match s.task? slot with
  | none => idle s
  | some t =>
    if t.state = .parked then ok ((s.dropCond slot (s.condMet t)).wakeGang slot) else idle s

/-! ### Pre-emption (R71) -/

/-- The slack of a running task as R71 reads it: none for a gang with no step, which counts as greatest. -/
def slackLe (a b : Option Int) : Bool :=
  match a, b with
  | _, none => true
  | none, some _ => false
  | some x, some y => decide (x ≤ y)

/-- Victim `a` is chosen before victim `b`. -/
def State.victimLe (s : State) (a b : Nat × Task) : Bool :=
  if a.2.prio ≠ b.2.prio then decide (a.2.prio < b.2.prio)
  else
    let sa := s.taskSlack a.2
    let sb := s.taskSlack b.2
    if sa ≠ sb then slackLe sb sa else decide (b.2.started ≤ a.2.started)

/-- The victims of a task in its partition, in order. -/
def State.victims (s : State) (p : Nat) (t : Task) : List (Nat × Task) :=
  sortBy s.victimLe (s.tasks.filter (fun e => decide (e.2.state = .running) && e.2.inPart p && decide (e.2.prio < t.prio)))

/-- The fewest victims, in order, with whose cores a task can be placed. -/
def State.victimSet (s : State) (p slot : Nat) (t : Task) : Option (List (Nat × Task)) :=
  let vs := s.victims p t
  ((List.range vs.length).map (fun n => vs.take (n + 1))).find? (fun l =>
    (s.canPlace slot t (l.flatMap (fun e => e.2.cores))).isSome)

/-- The first task of the ready lists that cannot be placed on free cores and can be placed by pre-emption. -/
def State.preempts (s : State) (p : Nat) : Option (List (Nat × Task)) :=
  (s.readyList p).findSome? (fun e =>
    if (s.canPlace e.1 e.2 []).isSome then none else s.victimSet p e.1 e.2)

/-- PREEMPTION: the victims stop and are saved. -/
def execPreemption (part : Fin 8) (s : State) : Host.Outcome State Fault Refusal :=
  if s.partFrozen part.val then idle s
  else match s.preempts part.val with
    | none => idle s
    | some vs => ok (vs.foldl (fun s e => s.stopGang e.1 [] true) s)

/-! ### Preload (R241) -/

/-- The same cores, whatever their order. -/
def sameCores (a b : List Nat) : Bool := decide (a.length = b.length) && a.all (fun c => b.contains c)

/-- PRELOAD: the blocks and tiles of the task that would be placed next on a running gang's cores go into the shadow banks
of these cores, and nowhere else; it is abandoned on any miss, PERM or KEY-MISMATCH (R241). -/
def execPreload (slot : Nat) (s : State) : Host.Outcome State Fault Refusal :=
  match s.task? slot with
  | none => idle s
  | some t =>
    if t.state ≠ .running ∨ (s.preloadOn slot).isSome then idle s
    else match s.nextPlaced t.part t.cores with
      | some (sl, u, cs) =>
        if sameCores cs t.cores ∧ ¬u.saved ∧ u.preload = none then
          (match s.readImage u.ctx u.imageVa with
            | .ok i _ _ =>
              ok ((s.noteImage u.ctx u.imageVa).setTask sl { u with preload := some { gang := slot, cores := cs, image := i } })
            | _ => idle s)
        else idle s
      | none => idle s

/-! ### Stops for a gang's own faults (R51, R279) -/

/-- The lowest-ranked core-task that has not retired. -/
def Task.lowestRank (t : Task) : Option (Nat × CoreTask) := t.cts.find? (fun e => decide (e.2.exit ≠ .done))

/-- A fault of the gang is noted at its lowest-ranked core-task that has not retired (R280). -/
def State.noteGang (s : State) (slot : Nat) (code : Code) : State :=
  match (s.task? slot).bind (·.lowestRank) with
  | some (r, c) => s.putCt slot r { c with notes := c.notes ++ [(trapOf code).note 0 c.seqC.pc s.dtime] }
  | none => s

/-- BUDGET_OVER (R51). -/
def execBudgetOver (slot : Nat) (s : State) : Host.Outcome State Fault Refusal :=
  match s.task? slot with
  | none => idle s
  | some t =>
    if t.state = .running ∧ t.budget = 0 then ok ((s.noteGang slot .budgetOver).stopGang slot [] false) else idle s

/-- FAULT_STOP: a core-task of the gang has faulted (R279). -/
def execFaultStop (slot : Nat) (s : State) : Host.Outcome State Fault Refusal :=
  match s.task? slot with
  | none => idle s
  | some t =>
    if t.state = .running ∧ t.cts.any (fun e => !e.2.notes.isEmpty) then ok (s.stopGang slot [] false) else idle s

end Sys2Proof.Machine
end

