-- ==== Sys2Proof/Machine/Faults.lean ====
section
/-! DEFINITION. Fault records and the actions of their handlers (R284 to R287). -/

namespace Sys2Proof.Machine

/-! ### FAULT_RECORD_WRITE (R284) -/

/-- The address of record `k` of a fault queue. -/
def recordVa (fq : Word) (k : Nat) : Word := fq + BitVec.ofNat 64 (64 + 64 * (k % 64))

/-- What an access to a fault queue gives. -/
inductive QueueRes (α : Type) where
  | ok (x : α)
  | later (s : State)
  | lost

/-- A failed access: the gangs are lost, or the Sorting Office waits for a page (R179). -/
def State.queueMiss (s : State) (key ctx : Nat) (need : Need) {α β : Type} (r : VaRes α) (go : α → QueueRes β) : QueueRes β :=
  match r with
  | .ok x => go x
  | .trap _ => .lost
  | .miss va pg h =>
    match s.plainMiss (.job key) ctx va with
    | some _ => .lost
    | none => .later (s.plainWait (.job key) ctx pg h need)

/-- Record `k` has its place: the ACTION word of record k − 64 is not 0. -/
def State.placeFree (s : State) (key : Nat) (j : Job) : QueueRes Bool :=
  if j.written < 64 then .ok true
  else s.queueMiss key j.ctx Need.read (s.readVa j.ctx (recordVa j.fq j.written + 56) 8) (fun bs => .ok (decide (leWord bs ≠ 0)))

/-- The watch on the ACTION word of a primary record. -/
def State.watchFor (s : State) (j : Job) (r : WaitRec) : State :=
  match s.translate j.ctx Need.write (recordVa j.fq j.written + 56) with
  | .ok x =>
    let f0 := r.words.getD 0 0
    let bad := decide (fieldOf f0 56 8 = 0x30) && decide (fieldOf f0 44 2 = 0)
    if r.primary then
      { s with m := { s.m with actions := s.m.actions ++ [{ f := x.f, slot := r.slot, noResume := bad, value := none }] } }
    else s
  | _ => s

/-- Write a record and raise the count. -/
def State.putFaultRecord (s : State) (key : Nat) (j : Job) (r : WaitRec) (rest : List WaitRec) : QueueRes State :=
  let bytes := r.words.flatMap (fun w => leBytes 8 w.toNat)
  s.queueMiss key j.ctx Need.write (s.writeVa j.ctx (recordVa j.fq j.written) bytes false) (fun s1 =>
    s.queueMiss key j.ctx Need.write (s1.writeVa j.ctx j.fq (leBytes 8 (j.written + 1)) true) (fun s2 =>
      let live := match s.byId r.id with
        | some _ => s2.watchFor j r
        | none => s2
      let s3 := (live.plainDone (.job key)).updJob key (fun x => { x with waiting := rest, written := x.written + 1 })
      let s4 := if j.htask then s3 else { s3 with irqs := s3.irqs ++ [.faultQueue key] }
      .ok (s4.dropJob key)))

/-- The gangs of a job are killed and the physical function is told (R284). -/
def State.loseJob (s : State) (key : Nat) : State :=
  let gangs := (s.tasks.filter (fun e => decide (e.2.job = key) && !e.2.cts.isEmpty)).map (·.1)
  let s1 := (s.plainDone (.job key)).updJob key (fun x => { x with waiting := [] })
  let s2 := gangs.foldl (fun s slot => s.killTask slot) s1
  { s2 with irqs := s2.irqs ++ [HostIrq.jobKilled key] }.dropJob key

/-- The read of an ACTION word counts as an access of the job's context (R268, R318). -/
def State.notePlace (s : State) (j : Job) : State :=
  if j.written < 64 then s else s.noteVa j.ctx Need.read (recordVa j.fq j.written + 56) 8

/-- FAULT_RECORD_WRITE: the job's first waiting record is written once its place is free; while the Sorting Office waits for a
page of the queue it tries nothing (R179). -/
def execFaultRecordWrite (job : Nat) (s : State) : Host.Outcome State Fault Refusal :=
  match find s.jobs job with
  | none => idle s
  | some j =>
    match j.waiting with
    | [] => idle s
    | r :: rest =>
      if (s.plainWaits (.job job) j.ctx).isSome || (s.ctxPart j.ctx).any s.partGone then idle s
      else match s.placeFree job j with
      | .lost => ok (s.loseJob job)
      | .later s1 => ok s1
      | .ok false => idle s
      | .ok true =>
        match (s.notePlace j).putFaultRecord job j r rest with
        | .lost => ok (s.loseJob job)
        | .later s1 => ok s1
        | .ok s1 => ok s1

/-! ### The handler's action (R286, R287) -/

/-- The decisions of R286. -/
inductive Action where
  | resume | rerun | kill
  deriving DecidableEq, Repr

/-- The decision that stands for a parked gang, with the stamp of a release. -/
def State.decision (s : State) (slot : Nat) : Option (Action × Option Stamp) :=
  match s.m.actions.find? (fun w => decide (w.slot = slot)) with
  | some { noResume := nr, value := some (v, rel), .. } =>
    some (if v = 1 ∧ ¬nr then .resume else if v = 2 then .rerun else .kill, rel)
  | _ => none

/-- The watch ends. -/
def State.endWatch (s : State) (slot : Nat) : State :=
  { s with m := { s.m with actions := s.m.actions.filter (fun w => decide (w.slot ≠ slot)) } }

/-- Every agent of a core-task acquires a stamp. -/
def CoreTask.acquireAll (c : CoreTask) (y : Stamp) : CoreTask :=
  { c with seqC := c.seqC.acquire y, seqL := c.seqL.acquire y, seqX := c.seqX.acquire y, seqS := c.seqS.acquire y,
           mxStamp := acqStamp c.mxStamp y, cpStamp := acqStamp c.cpStamp y, lkStamp := acqStamp c.lkStamp y }

/-- A parked gang that waits for its handler, and the decision. -/
def State.decided (s : State) (slot : Nat) (a : Action) : Option (Task × Option Stamp) :=
  match s.task? slot, s.decision slot with
  | some t, some (b, rel) => if a = b ∧ t.conds.contains .action then some (t, rel) else none
  | _, _ => none

/-- A gang that its handler resumes while nothing of its franking quota remains receives ENERGY-OUT again at once, and
stays parked on its handler's action (R269). -/
def State.energyAgain (s : State) (slot : Nat) : State :=
  let s1 := s.noteGang slot .energyOut
  match s1.task? slot with
  | none => s
  | some t =>
    let rs := stopRecords t.id slot t.cts
    let cts := t.cts.map (fun e => (e.1, match primaryOf e.2.notes with
      | some n => { e.2 with faultRec := faultRecOf n, recorded := true, notes := [] }
      | none => e.2))
    rs.foldl (fun s r => s.postRecord t.job r) (s1.setTask slot { t with cts := cts, conds := t.conds ++ [.action] })

/-- The agents of a gang acquire the stamp with which its handler released it; H keeps pace (R195). -/
def State.acquireGang (s : State) (slot : Nat) (rel : Option Stamp) : State :=
  match rel, s.task? slot with
  | some y, some t =>
    let t1 := { t with cts := t.cts.map (fun e => (e.1, e.2.acquireAll y)) }
    { s.setTask slot t1 with m := { s.m with h := stMax s.m.h t1.topStamp } }
  | _, _ => s

/-- HANDLER_RESUME (R287): the gang returns to READY once no other condition stands; the pieces that slices hold for it are
applied again (R210). -/
def execHandlerResume (slot : Nat) (s : State) : Host.Outcome State Fault Refusal :=
  match s.decided slot .resume with
  | none => idle s
  | some (t, rel) =>
    let s1 := ((s.endWatch slot).updTask slot (fun t => { t with conds := t.conds.filter (· ≠ .action) })).acquireGang slot rel
    if (s.frankLeft t.ctx).any (fun q => decide (q ≤ 0)) then ok (s1.energyAgain slot)
    else
      let s2 := s1.wakeGang slot
      ok (s2.releaseHeld slot (fun r => ((s2.task? slot).bind (·.ct? r)).map (fun c => c.seqC.stamp)))

/-- A task re-enters READY to start afresh. -/
def Task.rerun (t : Task) (front : Bool) : Task :=
  { t with state := .ready, budget := t.fullBudget, place := if front then 0 else t.place, headSince := [] }

/-- HANDLER_RERUN (R241, R287): the gang is discarded and its task is READY again. A preload that still stands on
its cores is discarded when the two tasks' ranges conflict. -/
def execHandlerRerun (slot : Nat) (s : State) : Host.Outcome State Fault Refusal :=
  match s.decided slot .rerun with
  | none => idle s
  | some (t, _) =>
    let front := decide (t.place = 0) || (s.preloadOn slot).isSome
    let clash := match s.preloadOn slot with
      | some (_, u, _) => rangesConflict u.td t.td
      | none => false
    let s1 := (s.endWatch slot).discardGang slot
    let s2 := if clash then s1.dropPreloads slot else s1
    ok (s2.updTask slot (·.rerun front))

/-- HANDLER_KILL (R287). -/
def execHandlerKill (slot : Nat) (s : State) : Host.Outcome State Fault Refusal :=
  match s.decided slot .kill with
  | none => idle s
  | some _ => ok ((s.endWatch slot).killTask slot)

end Sys2Proof.Machine
end

