-- ==== Sys2Proof/Machine/Governor.lean ====
section
/-! DEFINITION. The passage of device time, the deadline governor, franking, thermal and hardware limits (R51, R186, R211,
R246, R259 to R273). -/

namespace Sys2Proof.Machine

/-! ### Device time -/

/-- The governor's interval (R262), in ns. -/
def tickInterval : Nat := 10000

/-- The longest time between scrub passes (R200), in ns. -/
def scrubInterval : Nat := 2000000

/-- How far time may pass before a step that is due at a moment (log 2). -/
def untilDue (now due : Nat) : Nat := due - now

/-- The moments at which a step of the device is due: the governor's tick, the scrub pass, the start of a link
tick for which a transfer waits, the end of a change of point, the end of a running task's budget, the end of a
MULTI-SUBMIT's 1 ms (R310). -/
def State.dueIn (s : State) : List Nat :=
  untilDue s.dtime (s.pw.lastTick + tickInterval) :: untilDue s.dtime (s.pw.lastScrub + scrubInterval) ::
    (s.ports.out.map (fun x => untilDue s.dtime (256 * x.tick)) ++
     s.pw.islands.filterMap (fun e => e.2.change.map (fun c => untilDue s.dtime c.2)) ++
     (s.tasks.filter (fun e => decide (e.2.state = .running) && !e.2.faulted)).map (fun e => e.2.budget) ++
     s.multi.toList.map (fun m => untilDue s.dtime (m.since + 1000000)))

/-- The ages of residual slots after `n` ns at a frequency; AGE never passes 65,536 cycles (R117, R211). -/
def CoreTask.older (c : CoreTask) (n mhz : Nat) : CoreTask :=
  { c with resid := c.resid.map (fun e => (e.1, { e.2 with age := Nat.min 65536000 (e.2.age + n * mhz) })) }

/-- A running task after `n` ns (R51, R211): the waiters of semaphores signalled in the cycle that has ended are tested
(R365). A gang that has faulted spends no more of its budget (R279). -/
def State.taskAfter (s : State) (n : Nat) (t : Task) : Task :=
  if t.state = .running then
    { t with budget := if t.faulted then t.budget else t.budget - n,
             cts := t.cts.map (fun e => (e.1, e.2.serveDue.older n (s.island e.2.core).mhz)) }
  else t

/-- The clock by which the open step of a stream advances DONE, in MHz (R246): that of the slowest island that runs a
gang of the step. -/
def State.doneMhz (s : State) (n : Nat) (b : BitVec 32) : Nat :=
  let isl := s.stepIslands n b
  match lowest (isl.map Island.rate) with
  | none => 0
  | some r => (lowest ((isl.filter (fun i => decide (i.rate = r))).map Island.mhz)).getD 0

/-- A stream after `n` ns. -/
def State.streamAfter (s : State) (n key : Nat) (st : Stream) : Stream :=
  if st.isOpen then { st with done := st.done + n * s.doneMhz key st.step } else st

/-- The cycles for which contexts have held cores, after `n` ns, in thousandths. -/
def State.heldAfter (s : State) (n : Nat) : Tab Nat :=
  (s.tasks.filter (fun e => decide (e.2.state = .running))).foldl (fun h e =>
    e.2.cts.foldl (fun h c => Tab.upd 0 h (c.2.core * 128 + e.2.ctx) (· + n * (s.island c.2.core).mhz)) h) s.pw.held

/-- The cycles of the islands that hold core-tasks, after `n` ns, in thousandths. -/
def State.clockAfter (s : State) (n : Nat) : Tab Nat :=
  (s.heldCores.map (· / 4)).eraseDups.foldl (fun t i => Tab.upd 0 t i (· + n * (s.island (4 * i)).mhz)) s.pw.clock

/-- What is left of freezes after `n` ns: a core's runs by the clock of its island, a slice's by island 32 (R288). -/
def State.freezeAfter (s : State) (n : Nat) : Tab Nat :=
  s.pw.freeze.foldl (fun t e =>
    Tab.set 0 t e.1 (e.2 - n * (if e.1 < 128 then (s.island e.1).mhz else Config.islandClock 32))) []

/-- Device time passes: `ns`, or as much of it as no due step stands in the way of (log 2). -/
def State.elapse (s0 : State) (ns : Nat) : State :=
  let s := s0.markHeads.prunePreloads
  let n := s.dueIn.foldl Nat.min ns
  { s with
    dtime := s.dtime + n,
    tasks := s.tasks.map (fun e => (e.1, s.taskAfter n e.2)),
    streams := s.streams.map (fun e => (e.1, s.streamAfter n e.1 e.2)),
    pw := { s.pw with held := s.heldAfter n, clock := s.clockAfter n, freeze := s.freezeAfter n } }

/-! ### The governor's target (R262, R264) -/

/-- A step meets its guard at a frequency. -/
def Stream.meetsAt (st : Stream) (now mhz : Nat) : Bool :=
  let t : Int := (st.postmark.toNat : Int) - (now : Int)
  decide (0 < t) && decide (t / 20 < t - (ceilDiv (st.rem * 1000) mhz : Int))

/-- LO and HI of a partition's state (R264). -/
def State.vps (s : State) (p : Nat) : Nat × Nat :=
  let m := Tab.get 0 s.r.vpsmap p
  let n := Tab.get 7 s.r.vpsreq p
  (fieldOf m (8 * n) 4, fieldOf m (8 * n + 4) 4)

/-- The running gangs with a core on an island. -/
def State.gangsOn (s : State) (i : Nat) : List Task :=
  (s.tasks.map (·.2)).filter (fun t => decide (t.state = .running) && t.cts.any (fun c => decide (c.2.core / 4 = i)))

/-- The open steps with a gang running on an island. -/
def State.stepsOn (s : State) (i : Nat) : List (Nat × Stream) :=
  s.streams.filter (fun e => e.2.isOpen && (s.gangsOn i).any (fun t => decide (t.stream = some e.1 ∧ t.step = e.2.step)))

/-- The target of an island that holds a core-task, and the steps for which it gives a finding. An island that runs gangs
of steps of which none is open has no need to meet. -/
def State.target262 (s : State) (i : Nat) (isl : Island) : Nat × List Nat :=
  let p := s.partOf (4 * i)
  let (lo, hi) := s.vps p
  let top := if isl.hot then 0 else Tab.get 0 s.r.pmax p
  let steps := s.stepsOn i
  let noStep := (s.gangsOn i).any (fun t => t.stream.isNone)
  if (s.gangsOn i).all (fun t => t.stream.isNone) then (Nat.min hi (if isl.hot then 0 else 10), [])
  else match (List.range (top + 1)).find? (fun p => steps.all (fun e => e.2.meetsAt s.dtime (opMhz p))) with
    | none => (top, (steps.filter (fun e => !e.2.meetsAt s.dtime (opMhz top))).map (·.1))
    | some need =>
      let t := Nat.max (Nat.max need lo) (if noStep then hi else 0)
      (if isl.hot then 0 else t, [])

/-- The point towards which an island goes. -/
def Island.goal (i : Island) : Nat := (i.change.map (·.1)).getD i.point

/-- A target is applied at this tick under R263: at once, or on the third tick in a lower ratio. -/
def Island.takes (i : Island) (target : Nat) : Bool :=
  i.hot || decide (opRatio i.goal ≤ opRatio target) || decide (2 ≤ i.lowTicks)

/-- Apply a target under R263; `clamp` is the step of one point down of R273, whatever the target. -/
def Island.apply (i : Island) (target now : Nat) (clamp : Bool) : Island :=
  let cur := i.goal
  let goal := if i.takes target then target else cur
  let low := if clamp then Nat.min goal (cur - 1) else goal
  let j := { i with lowTicks := if i.takes target then 0 else i.lowTicks + 1, target := target }
  if low = cur then j else j.moveTo low now

/-- The governor at one island: its point, and the findings. -/
def State.governIsland (s : State) (i : Nat) : State :=
  if (s.gangsOn i).isEmpty then s
  else
    let isl := Tab.get Island.reset s.pw.islands i
    let (t, findings) := s.target262 i isl
    findings.foldl (fun s n => s.deadlineRisk n 0) (s.updIsland i (fun j => j.apply t s.dtime s.pw.moduleClamp))

/-- The re-check of R263: a step whose guard is not met at the point in force. -/
def State.recheck (s : State) (n : Nat) (st : Stream) : State :=
  match lowest ((s.stepIslands n st.step).map (fun i => opMhz i.point)) with
  | some f => if st.isOpen ∧ ¬st.meetsAt s.dtime f then s.deadlineRisk n 0 else s
  | none => s

/-! ### Franking (R268) -/

/-- The energy of an island over the last interval, in nJ. -/
def State.measured (s : State) (i : Nat) : Nat := Config.islandEnergy s.tick i

/-- What a context pays for the core shares of the cluster islands: a quarter of an island's energy for the cycles of the
interval, in proportion to those for which its core-tasks held the core. -/
def State.coreCharge (s : State) (ctx : Nat) : Nat :=
  (s.pw.held.map (fun e =>
    let i := e.1 / 128 / 4
    if e.1 % 128 = ctx then s.measured i * e.2 / (4 * Tab.get 0 s.pw.clock i) else 0)).sum

/-- What a context has used of islands 32 to 34 in the interval: accesses of home slices, encoder blocks, GDDR 7
transfers. -/
def State.uses (s : State) (i ctx : Nat) : Nat :=
  if i = 32 then Tab.get 0 s.pw.used ctx
  else if i = 33 then Tab.get 0 s.pw.used (128 + ctx)
  else Config.transfers s.tick ctx

/-- What a context pays for islands 32 to 34, in proportion to its use of each. -/
def State.uncoreCharge (s : State) (ctx : Nat) : Nat :=
  ([32, 33, 34].map (fun i => s.measured i * s.uses i ctx / ((List.range 128).map (s.uses i)).sum)).sum

/-- The shares of idle cores go to context 0. -/
def State.idleCharge (s : State) : Nat :=
  ((List.range 32).map s.measured).sum - ((List.range 128).map s.coreCharge).sum

/-- The quotas after the charges of an interval. -/
def State.charge (s : State) : Tab Int :=
  s.pw.frank.map (fun e =>
    let q := s.coreCharge e.1 + (if e.1 = 0 then s.idleCharge else 0) + s.uncoreCharge e.1
    (e.1, e.2 - (q : Int)))

/-- The measured energies stand in ISLPOWER, the contexts are charged, the interval begins anew. -/
def State.frankTick (s : State) : State :=
  let s1 := (List.range 32).foldl (fun t i => t.updIsland i (fun j => { j with energy := s.measured i })) s
  { s1 with pw := { s1.pw with frank := s.charge, held := [], clock := [], used := [] } }

/-- GOVERNOR_TICK (R262, R263, R268): every 10 µs of DTIME. -/
def execGovernorTick (s : State) : Host.Outcome State Fault Refusal :=
  if s.dtime < s.pw.lastTick + tickInterval then idle s
  else
    let s1 := (List.range 32).foldl State.governIsland s
    let s2 := s1.streams.foldl (fun t e => match t.stream? e.1 with
      | some st => t.recheck e.1 st
      | none => t) s1
    let s3 := s2.frankTick
    ok { s3 with pw := { s3.pw with lastTick := s.dtime / tickInterval * tickInterval } }

/-- ENERGY_OUT (R269): the running gangs of a context with nothing left stop. -/
def execEnergyOut (ctx : Fin 128) (s : State) : Host.Outcome State Fault Refusal :=
  match s.frankLeft ctx.val with
  | none => idle s
  | some q =>
    if 0 < q then idle s
    else
      let gangs := (s.tasks.filter (fun e => decide (e.2.state = .running ∧ e.2.ctx = ctx.val))).map (·.1)
      ok (gangs.foldl (fun s slot => (s.noteGang slot .energyOut).stopGang slot [] false) s)

/-- FRANKING_QUOTA_ADDITION (R268, R269): the physical function adds a quota in µJ; all ones disables franking for the
context. Nothing of the host reaches the device while the host port is not trained (R19). -/
def execFrankingQuotaAddition (ctx : Fin 128) (amount : Word) (s : State) : Host.Outcome State Fault Refusal :=
  if !s.ports.host then idle s
  else if amount = -1 then ok { s with pw := { s.pw with frank := Tab.del ctx.val s.pw.frank } }
  else
    let q := (s.frankLeft ctx.val).getD 0 + (amount.toNat : Int) * 1000
    ok { s with pw := { s.pw with frank := Tab.put ctx.val q s.pw.frank } }

/-! ### Operating points, thermal action, clamps (R260, R270, R273) -/

/-- OP_CHANGE_COMPLETE (R260). -/
def execOpChangeComplete (island : Fin 32) (s : State) : Host.Outcome State Fault Refusal :=
  match (Tab.get Island.reset s.pw.islands island.val).change with
  | none => idle s
  | some (p, due) =>
    if s.dtime < due then idle s
    else ok (s.updIsland island.val (fun i => { i with point := p, change := none, held := false }))

/-- The sensor of an island reads a value. -/
def State.sense (s : State) (island : Nat) (reading : BitVec 16) : State :=
  s.thermal island { (Tab.get Island.reset s.pw.islands island) with sensor := reading }

/-- A step in which a sensor reads a value that its row names. -/
def senseIf (f : Int → Bool) (island : Fin 32) (reading : BitVec 16) (s : State) : Host.Outcome State Fault Refusal :=
  if f reading.toInt then ok (s.sense island.val reading) else idle s

/-- THERMAL_95_CROSSING (R270). -/
def execThermal95Crossing (island : Fin 32) (reading : BitVec 16) (s : State) : Host.Outcome State Fault Refusal :=
  senseIf (fun r => decide (celsius 95 ≤ r)) island reading s

/-- THERMAL_REARM: the reading falls below 95 °C, where the bar lifts, and below 90 °C the action is armed again
(R270). -/
def execThermalRearm (island : Fin 32) (reading : BitVec 16) (s : State) : Host.Outcome State Fault Refusal :=
  senseIf (fun r => decide (r < celsius 95)) island reading s

/-- THERMAL_105_CROSSING (R270). -/
def execThermal105Crossing (island : Fin 32) (reading : BitVec 16) (s : State) : Host.Outcome State Fault Refusal :=
  senseIf (fun r => decide (celsius 105 ≤ r)) island reading s

/-- THERMAL_HOLD_RELEASE: the reading falls; below 100 °C the hold of R270 ends, below 105 °C the stop of R273. -/
def execThermalHoldRelease (island : Fin 32) (reading : BitVec 16) (s : State) : Host.Outcome State Fault Refusal :=
  senseIf (fun r => decide (r < celsius 105)) island reading s

/-- SENSOR_115_STOP (R273). -/
def execSensor115Stop (island : Fin 32) (reading : BitVec 16) (s : State) : Host.Outcome State Fault Refusal :=
  senseIf (fun r => decide (celsius 115 ≤ r)) island reading s

/-- CURRENT_CLAMP: the island runs at half its clock, or no longer (R273). -/
def execCurrentClamp (island : Fin 32) (on : Bool) (s : State) : Host.Outcome State Fault Refusal :=
  ok (s.updIsland island.val (fun i => { i with half := on }))

/-- MODULE_POWER_CLAMP: from now on each tick lowers every cluster island by one point, or no longer (R273). -/
def execModulePowerClamp (on : Bool) (s : State) : Host.Outcome State Fault Refusal :=
  ok { s with pw := { s.pw with moduleClamp := on } }

/-! ### Derating (R185, R186) -/

/-- DF of a derating state: 0 NORMAL, 1 HOT1, 2 HOT2. -/
def derateFactor (d : Nat) : Nat := [256, 224, 192].getD d 256

/-- The derating state that a temperature in °C leads to. -/
def nextDerate (d : Nat) (t : Int) : Nat :=
  if d = 0 then (if 85 ≤ t then 1 else 0)
  else if d = 1 then (if 95 ≤ t then 2 else if t < 80 then 0 else 1)
  else (if t < 90 then 1 else 2)

/-- DERATE for every partition with a share (R186). -/
def State.derates (s : State) (df : Nat) : List HostIrq :=
  (List.range 8).filterMap (fun p =>
    let sh := Tab.get 0 s.r.share p
    if sh = 0 then none else some (.derate p df (sh.toNat * df)))

/-- DERATE to every partition with a share (R186). -/
def State.tellDerate (s : State) : State := { s with irqs := s.irqs ++ s.derates (derateFactor s.pw.derate) }

/-- GDDR_DERATE_CHANGE: the hottest device has held a temperature for 1 ms (R186). -/
def execGddrDerateChange (celsius : Int) (s : State) : Host.Outcome State Fault Refusal :=
  let d := nextDerate s.pw.derate celsius
  let s1 := { s with pw := { s.pw with gddrTemp := celsius, derate := d } }
  if d = s.pw.derate then ok s1 else ok s1.tellDerate

end Sys2Proof.Machine
end

