-- ==== Sys2Proof/Machine/Errors.lean ====
section
/-! DEFINITION. Errors in the hardware, and scrubbing (R187, R200, R288 to R292). -/

namespace Sys2Proof.Machine

/-- The service complex logs an event. -/
def State.logService (s : State) : State := { s with service := { s.service with svcLog := s.service.svcLog + 1 } }

/-- An uncorrectable error or a watchdog stop of a cluster is counted with its time (R292). -/
def State.countCluster (s : State) (core : Nat) : State :=
  { s with pw := { s.pw with clusterErr := Tab.upd [] s.pw.clusterErr (core / 4) (fun l => l ++ [s.dtime]) } }

/-- The GDDR 7 channel of a DPA: its 4 KiB page modulo the enabled channels, in rising order (R167). -/
def State.channelOf (s : State) (dpa : Nat) : Nat :=
  let on := (List.range 24).filter (fun i => !s.pw.channelsOff.getLsbD i)
  on.getD (dpa / 4096 % on.length) 0

/-- An uncorrectable error of a GDDR 7 channel is counted with its time (R292). -/
def State.countChannel (s : State) (dpa : Nat) : State :=
  { s with pw := { s.pw with channelErr := Tab.upd [] s.pw.channelErr (s.channelOf dpa) (fun l => l ++ [s.dtime]) } }

/-- 64 cycles, in thousandths (R288). -/
def freezeCycles : Nat := 64000

/-- 64 cycles more of a unit's freeze. -/
def State.freeze (s : State) (key : Nat) : State :=
  { s with pw := { s.pw with freeze := Tab.upd 0 s.pw.freeze key (· + freezeCycles) } }

/-- ECC_CORRECTABLE (R288): a core freezes for 64 cycles of its island, from the end of a freeze that is on; a home slice
holds its pipeline for 64 cycles of island 32. Elsewhere it costs nothing. -/
def execEccCorrectable (site : ErrSite) (s : State) : Host.Outcome State Fault Refusal :=
  match site with
  | .core slot rank _ =>
    (match s.ct? slot rank with
      | none => idle s
      | some c => ok (s.freeze c.core).logService)
  | .slice n => ok (s.freeze (128 + n.val)).logService
  | _ => ok s.logService

/-! ### Who receives an uncorrectable error (R289, R290) -/

/-- A trap of a hardware error, with the VA of the access. -/
def hardTrap (code : Code) (cause : BitVec 2) (va : Word) : Trap := { code := code, cause := cause, addr := va }

/-- A fault of a sequencer at its word; one that does not run stays as it is. -/
def State.raiseSeq (s : State) (a : Agent) (t : Trap) : State :=
  s.updCt a.slot a.rank (fun c =>
    let q := c.seq a.q
    { c.setSeq a.q { q with status := if q.status = .running then .faulted else q.status } with
      notes := c.notes ++ [t.note (seqNum a.q) q.pc s.dtime] })

/-- A fault of one unit of a core-task: a sequencer at its word, the matrix engine at its command, a copy (R151, R289,
R290). -/
def State.raiseUnit (s : State) (slot rank kind : Nat) (t : Trap) : State :=
  match s.ct? slot rank with
  | none => s
  | some c =>
    if kind = 4 then
      match c.mxq with
      | cmd :: _ => s.raiseEngine slot rank 4 t cmd.waddr (opcOf cmd.i) (BitVec.ofNat 48 (c.mxBlock.getD 0))
      | [] => s.raiseEngine slot rank 4 t 0 0 0
    else if 5 ≤ kind then
      let first : Option RunCopy := c.copies.head?.map (fun e => e.2)
      match (find c.copies (kind - 5)).or first with
      | some x => s.copyFault slot rank x.cmd x.done t
      | none => s.raiseEngine slot rank 5 t 0 0 0
    else
      match allSeqs[kind]? with
      | some q => s.raiseSeq { slot := slot, rank := rank, q := q } t
      | none => s

/-- The VA that a word of the C-sequencer accesses (R344, R207, R221, R238, R208, R361). -/
def wordVa (q : Seq) : Instr → Word
  | .ldg _ _ _ _ a off | .stg _ _ _ a off => effAddr q a off
  | .atom _ _ _ _ _ _ _ a _ | .atcas _ _ _ _ _ _ a _ _ | .waita _ _ _ _ a _ _ _ | .futres _ a _ | .futwait _ _ a
  | .tsubmit _ _ a | .tsubmitF _ _ a _ | .acct _ _ _ a _ _ _ | .acctD _ _ _ a _ _ _ => q.rd a
  | _ => 0

/-- The VA that the C-sequencer's current word accesses. -/
def State.currentVa (s : State) (slot rank : Nat) : Word :=
  match s.task? slot, s.ct? slot rank with
  | some t, some c => (match decodeWord (s.codeWord t c.seqC.pc.toNat) with
      | some i => wordVa c.seqC i
      | none => 0)
  | _, _ => 0

/-- An atomic that a slice holds is taken out of its queue. -/
def State.takeAtoms (s : State) (f : AtomReq → Bool) : State × List AtomReq :=
  let mine (o : SliceOp) : Option AtomReq := match o with
    | .atom r => if f r then some r else none
    | .piece _ => none
  ({ s with m := { s.m with slices := s.m.slices.map (fun e =>
      (e.1, { e.2 with queue := e.2.queue.filter (fun o => (mine o).isNone) })) } },
   s.m.slices.flatMap (fun e => e.2.queue.filterMap mine))

/-- A precise fault of the C-sequencer's word: an atomic that it has sent is gone. -/
def State.failWord (s : State) (slot rank : Nat) (t : Word → Trap) : State :=
  let (s1, _) := s.takeAtoms (fun r => decide (r.slot = slot ∧ r.rank = rank) && r.tag.isNone)
  (s1.updSeq { slot := slot, rank := rank, q := .c } (fun q => { q with acqBusy := false })).raiseUnit slot rank 0
    (t (s.currentVa slot rank))

/-- A deferred fault of the access that holds a tag: it is issued again after the stop (R281). -/
def State.failTag (s : State) (slot rank : Nat) (c : CoreTask) (tag : Nat) (t : Word → Trap) : State :=
  match (find c.seqC.tags tag).filter (fun r => !r.landed) with
  | some { res := .ldg va _ w _ _, .. } => s.raiseDeferred slot rank (t va) w
  | some { res := .atom, .. } =>
    let (s1, rs) := s.takeAtoms (fun r => decide (r.slot = slot ∧ r.rank = rank ∧ r.tag.map (·.val) = some tag))
    rs.foldl (fun s r =>
      (s.updCt slot rank (fun c => { c with again := c.again ++ [r] })).raiseDeferred slot rank (t r.va) r.waddr) s1
  | _ => s

/-- A fault of an operation that a slice holds: of its queue, then of its reserved lane. -/
def State.failQueued (s : State) (slice idx : Nat) (t : Word → Trap) : State :=
  let v := s.slice slice
  match v.queue[idx]? with
  | some (.atom r) =>
    let s1 := s.setSlice slice { v with queue := v.queue.eraseIdx idx }
    (match r.tag with
      | none => s1.failWord r.slot r.rank t
      | some _ => (s1.updCt r.slot r.rank (fun c => { c with again := c.again ++ [r] })).raiseDeferred r.slot r.rank
          (t r.va) r.waddr)
  | some (.piece p) =>
    let s1 := s.setSlice slice { v with queue := v.queue.eraseIdx idx }
    (match s.sender p with
      | some c => s1.pieceFail slice p c (t p.va)
      | none => s1)
  | none =>
    match v.lane[idx - v.queue.length]? with
    | some p =>
      let s1 := s.setSlice slice { v with lane := v.lane.eraseIdx (idx - v.queue.length) }
      (match s.sender p with
        | some c => s1.pieceFail slice p c (t p.va)
        | none => s1)
    | none => s

/-- The VA that a running copy reads or writes next. -/
def CopyCmd.nextVa (k : CopyCmd) (done : Nat) : Word :=
  match k.segs (done + 1) 1 done with
  | g :: _ => BitVec.ofNat 64 (if k.srcLocal then g.dst else g.src)
  | [] => 0

/-- The VA of a sequencer's next code word in its image (R77). -/
def State.fetchVa (s : State) (slot : Nat) (q : Seq) : Word :=
  match s.task? slot with
  | some t => t.imageVa + BitVec.ofNat 64 (t.image.codeOff + 10 * q.pc.toNat)
  | none => 0

/-- The fetch of a running sequencer's next word fails: the fault is that sequencer's (R77, R289, R290). -/
def State.failFetch (s : State) (slot rank : Nat) (c : CoreTask) (q : SeqId) (t : Word → Trap) : State :=
  if (c.seq q).status = .running then s.raiseSeq { slot := slot, rank := rank, q := q } (t (s.fetchVa slot (c.seq q))) else s

/-- The issuer of an access receives a fault as R176 delivers KEY-MISMATCH: precise at its word, or deferred (R281). -/
def State.failAccess (s : State) (slot rank : Nat) (p : Packet) (t : Word → Trap) : State :=
  match s.ct? slot rank, p with
  | some _, .word => s.failWord slot rank t
  | some c, .fetch q => s.failFetch slot rank c q t
  | some c, .store idx =>
    (match c.posted[idx]? with
      | some x => (s.putCt slot rank { c with posted := c.posted.set idx { x with stage := .faulted } }).raiseDeferred
          slot rank (t x.va) x.waddr
      | none => s)
  | some c, .tagged n => s.failTag slot rank c n t
  | some c, .piece idx =>
    (match c.flight[idx]? with
      | some x =>
        let c1 := ({ c with flight := c.flight.eraseIdx idx }).accepted x
        (s.putCt slot rank c1).pieceFail x.slice x c1 (t x.va)
      | none => s)
  | some c, .copy n =>
    (match find c.copies n with
      | some x => s.copyFault slot rank x.cmd x.done (t (x.cmd.nextVa x.done))
      | none => s)
  | _, .queued sl idx => s.failQueued sl idx t
  | _, _ => s

/-- A line is rewritten with zeros under its frame's key tag (R289). -/
def State.zeroLine (s : State) (dpa : Nat) : State :=
  s.applyWrite { host := false, a := dpa / 64 * 64 } (List.replicate 64 0) true none none

/-- ECC_UNCORRECTABLE (R289): a core's reader stops with CAUSE 0; a line that a read meets faults its requester as
R176 says, with CAUSE 1 at a home slice and 2 in the GDDR 7, and is zeroed; any other line is zeroed and the physical
function receives its DPA. Only an error in the GDDR 7 counts for its channel (R292). -/
def execEccUncorrectable (site : ErrSite) (s : State) : Host.Outcome State Fault Refusal :=
  match site with
  | .core slot rank kind =>
    (match s.ct? slot rank with
      | none => idle s
      | some c => ok ((s.raiseUnit slot rank kind (hardTrap .eccUncorrectable 0 0)).countCluster c.core))
  | .slice _ => idle s
  | .line dpa gddr =>
    if dpaTop ≤ dpa then idle s
    else
      let s1 := if gddr then (s.zeroLine dpa).countChannel dpa else s.zeroLine dpa
      ok { s1 with irqs := s1.irqs ++ [.lineLost (dpa / 64 * 64)] }
  | .lineRead dpa slot rank p gddr =>
    if dpaTop ≤ dpa ∨ (s.ct? slot rank).isNone then idle s
    else
      let s2 := (s.failAccess slot rank p (hardTrap .eccUncorrectable (if gddr then 2 else 1))).zeroLine dpa
      ok (if gddr then s2.countChannel dpa else s2)

/-! ### Packets (R290) -/

/-- A packet without an issuing agent is lost: a wake never comes, an acceptance never counts, a refused piece never
returns. -/
def State.losePacket (s : State) (slot rank : Nat) : Packet → State
  | .wake sl idx =>
    let v := s.slice sl
    s.setSlice sl { v with pigeons := v.pigeons.modify idx (fun p => { p with lost := true }) }
  | .futureWake idx => { s with m := { s.m with futures := s.m.futures.eraseIdx idx } }
  | .acceptance idx => s.updCt slot rank (fun c => { c with flight := c.flight.modify idx (fun p => { p with mute := true }) })
  | .refusal idx => s.updCt slot rank (fun c => { c with returns := c.returns.eraseIdx idx })
  | _ => s

/-- FABRIC_ERROR (R290): the issuer of a discarded packet receives FABRIC-ERROR with CAUSE 0, precise at its word or
deferred; a packet of no agent is lost, which the physical function is told. -/
def execFabricError (slot rank : Nat) (p : Packet) (s : State) : Host.Outcome State Fault Refusal :=
  if p.unissued then
    let s1 := s.losePacket slot rank p
    ok { s1 with irqs := s1.irqs ++ [.packetLost] }
  else ok (s.failAccess slot rank p (hardTrap .fabricError 0))

/-- WATCHDOG_EXPIRY (R290): a sequencer or an engine stops its core-task with FABRIC-ERROR, CAUSE 1. -/
def execWatchdogExpiry (slot rank : Nat) (kind : Fin 6) (s : State) : Host.Outcome State Fault Refusal :=
  match s.ct? slot rank with
  | none => idle s
  | some c => ok (((s.raiseUnit slot rank kind.val (hardTrap .fabricError 1 0)).countCluster c.core).logService)

/-! ### Scrubbing (R200) -/

/-- A stamp that lies more than 2^30 below H. -/
def stale (h x : Stamp) : Bool := decide (2 ^ 30 < (h - x).toNat) && decide ((h - x).toNat < 2 ^ 31)

/-- A stamp raised to H − 2^30. -/
def lift (h x : Stamp) : Stamp := if stale h x then h - 0x40000000 else x

/-- A granule record after a scrub pass. -/
def RaceRec.scrub (h : Stamp) (r : RaceRec) : RaceRec :=
  { w := r.w.filter (fun m => !stale h m.stamp), r := r.r.filter (fun m => !stale h m.stamp), y := lift h r.y }

/-- The records of a table after a scrub pass. -/
def scrubRaces (h : Stamp) (t : Tab RaceRec) : Tab RaceRec := t.map (fun e => (e.1, e.2.scrub h))

/-- A wait's stamp after a scrub pass. -/
def Wait.scrub (h : Stamp) (w : Wait) : Wait :=
  match w.kind with
  | .waita id r y => { w with kind := .waita id r (y.map (lift h)) }
  | _ => w

/-- A sequencer's stamps after a scrub pass. -/
def Seq.scrub (h : Stamp) (q : Seq) : Seq :=
  { q with stamp := lift h q.stamp, wait := q.wait.map (Wait.scrub h), lastAtom := q.lastAtom.map (fun l => { l with y := l.y.map (lift h) }) }

/-- An object after a scrub pass. -/
def Obj.scrub (h : Stamp) (o : Obj) : Obj := { o with st := lift h o.st }

/-- A table of objects after a scrub pass. -/
def scrubObjs (h : Stamp) (t : Tab Obj) : Tab Obj := t.map (fun e => (e.1, e.2.scrub h))

/-- A core-task's stamps after a scrub pass: its agents, its objects, its commands. -/
def CoreTask.scrub (h : Stamp) (c : CoreTask) : CoreTask :=
  { c with
    seqC := c.seqC.scrub h, seqL := c.seqL.scrub h, seqX := c.seqX.scrub h, seqS := c.seqS.scrub h,
    mxStamp := lift h c.mxStamp, cpStamp := lift h c.cpStamp, lkStamp := lift h c.lkStamp,
    floor := lift h c.floor, tokens := scrubObjs h c.tokens, sems := scrubObjs h c.sems,
    bars := c.bars.map (fun e => (e.1, { e.2 with openSt := e.2.openSt.map (lift h), closedSt := e.2.closedSt.map (lift h) })),
    mxq := c.mxq.map (fun m => { m with stamp := lift h m.stamp }),
    cpq := c.cpq.map (fun m => { m with stamp := lift h m.stamp }),
    scratchRaces := scrubRaces h c.scratchRaces }

/-- SCRUB_PASS: the records and stamps of the device, against H as it stands (R200). -/
def execScrubPass (s : State) : Host.Outcome State Fault Refusal :=
  let h := s.m.h
  ok { s with
    tasks := s.tasks.map (fun e => (e.1, { e.2 with
      gbarSt := lift h e.2.gbarSt, cts := e.2.cts.map (fun c => (c.1, c.2.scrub h)) })),
    streams := s.streams.map (fun e => (e.1, { e.2 with
      slots := e.2.slots.map (fun v => { v with stamp := v.stamp.map (lift h) }) })),
    letters := s.letters.map (fun e => (e.1, e.2.map (fun b => { b with stamp := lift h b.stamp }))),
    m := { s.m with
      races := scrubRaces h s.m.races,
      actions := s.m.actions.map (fun w => { w with value := w.value.map (fun v => (v.1, v.2.map (lift h))) }) },
    pw := { s.pw with lastScrub := s.dtime } }

end Sys2Proof.Machine
end

