-- ==== Sys2Proof/Machine/Paging.lean ====
section
/-! DEFINITION. Page responses, invalidation, frame release and key loads (R175, R177, R179 to R184, R304). -/

namespace Sys2Proof.Machine

/-! ### Page responses (R180, R181) -/

/-- The count of late responses saturates at 32 bits (R181). -/
def State.lateResponse (s : State) : State := { s with r := { s.r with lateprq := Nat.min (2 ^ 32 - 1) (s.r.lateprq + 1) } }

/-- The request that a response answers: the `idx`-th of those outstanding. -/
def State.outstanding (s : State) (idx : Nat) : Option PageReq := (s.r.prq.filter (·.sent))[idx]?

/-- A request is answered; one that waited takes its place (R179). -/
def State.answered (s : State) (q : PageReq) : State :=
  State.sendRequests { s with r := { s.r with prq := s.r.prq.erase q } }

/-- A condition waits for a request. -/
def ParkCond.waitsFor (q : PageReq) : ParkCond → Bool
  | .page ctx pg _ _ _ _ _ => decide (ctx = q.ctx ∧ pg = q.page)
  | _ => false

/-- A function is presented by the host port: no VF is after a boot that failed (R315). -/
def State.presented (s : State) (f : Nat) : Bool := decide (f = 0) || !s.r.bootstat.getLsbD 8

/-- What the host does reaches a function while the host port is trained and presents it (R19, R315). -/
def fromHost (s : State) (f : Nat) (x : Host.Outcome State Fault Refusal) : Host.Outcome State Fault Refusal :=
  if s.ports.host && s.presented f then x else idle s

/-- Run a response: discarded and counted late when its context has been destroyed since the request (R181); else `start` comes
before the next request is sent, and `go` with the streams whose event waits for the page. -/
def respond (idx : Nat) (start : PageReq → State → State) (go : PageReq → List Nat → State → State) (s : State) :
    Host.Outcome State Fault Refusal :=
  match s.outstanding idx with
  | none => idle s
  | some q =>
    fromHost s 0 (if q.orphan then ok (s.answered q).lateResponse
      else ok (go q (s.eventsWaiting q.ctx q.page) ((start q s).answered q)))

/-- PAGE_RESPONSE_SUCCESS: the waiting gangs become runnable and walk again (R180). -/
def execPageResponseSuccess (idx : Nat) (s : State) : Host.Outcome State Fault Refusal :=
  respond idx (fun _ s => s) (fun q events s =>
    ((s.tasks.map (·.1)).foldl (fun s slot => (s.dropCond slot (ParkCond.waitsFor q)).wakeGang slot) s).eventsAnswered
      q.page false events) s

/-- The opcode of the copy of a core-task that a word pushed, while it runs or stands in the queue (R284). -/
def CoreTask.copyOpc (c : CoreTask) (waddr : BitVec 32) : BitVec 9 :=
  match (c.copies.map (fun e => e.2.cmd) ++ c.cpq).find? (fun k => decide (k.waddr = waddr)) with
  | some k => opcOf k.i
  | none => 0

/-- The record of PAGE-REFUSED that a condition gives; none for a core-task that already has its record of this stop
(R280). -/
def refusedNote (t : Task) (code : BitVec 4) (time : Nat) : ParkCond → Option (Nat × FaultNote)
  | .page _ _ _ rank kind va waddr =>
    match t.ct? rank with
    | some c =>
      if c.recorded then none
      else some (rank, { code := .pageRefused, kind := kind, waddr := waddr, addr := va,
                         opc := if kind = 5 then c.copyOpc waddr else 0, detail := code.setWidth 48, time := time })
    | none => none
  | _ => none

/-- One note for each rank, in rank order. -/
def firstPerRank (ns : List (Nat × FaultNote)) : List (Nat × FaultNote) :=
  (List.range 16).filterMap (fun r => ns.find? (fun x => decide (x.1 = r)))

/-- PAGE-REFUSED to a parked gang: its records, and its handler's action as its condition (R180, R280). -/
def State.refuseGang (s : State) (slot : Nat) (q : PageReq) (code : BitVec 4) : State :=
  match s.task? slot with
  | none => s
  | some t =>
    if !t.conds.any (ParkCond.waitsFor q) then s
    else
      let ns := firstPerRank ((t.conds.filter (ParkCond.waitsFor q)).filterMap (refusedNote t code s.dtime))
      let governed := t.conds.contains .action
      let recs := ns.map (fun x =>
        let first := decide (some x.1 = ns.head?.map (·.1)) && !governed
        { slot := slot, id := t.id, primary := first, words := faultWords t.id x.1 first x.2 : WaitRec })
      let conds := t.conds.filter (fun c => !ParkCond.waitsFor q c)
      let s1 := s.setTask slot { t with
        conds := if governed then conds else conds ++ [.action],
        cts := t.cts.map (fun e => (e.1, match ns.find? (fun x => decide (x.1 = e.1)) with
          | some x => { e.2 with faultRec := faultRecOf x.2, recorded := true }
          | none => e.2)) }
      recs.foldl (fun s r => s.postRecord t.job r) s1

/-- Every gang that waits for a request is refused, and the events that wait for it are lost. -/
def State.refuseAll (s : State) (q : PageReq) (code : BitVec 4) (events : List Nat) : State :=
  ((s.tasks.map (·.1)).foldl (fun s slot => s.refuseGang slot q code) s).eventsAnswered q.page true events

/-- PAGE_RESPONSE_INVALID: PAGE-REFUSED to each waiting gang's handler; the gangs stay parked (R180). -/
def execPageResponseInvalid (idx : Nat) (code : BitVec 4) (s : State) : Host.Outcome State Fault Refusal :=
  respond idx (fun _ s => s) (fun q events s => s.refuseAll q code events) s

/-- The response code of a Response Failure (PCIe PRI). -/
def failureCode : BitVec 4 := 0xF

/-- PAGE_RESPONSE_FAILURE: as Invalid Request, and the function sends no more requests (R180). -/
def execPageResponseFailure (idx : Nat) (s : State) : Host.Outcome State Fault Refusal :=
  respond idx
    (fun q s => { s with r := { s.r with priStop := Tab.set false s.r.priStop (s.ctxFunc q.ctx) true } })
    (fun q events s => s.refuseAll q failureCode events) s

/-- LATE_PAGE_RESPONSE (R181). -/
def execLatePageResponse (s : State) : Host.Outcome State Fault Refusal := fromHost s 0 (ok s.lateResponse)

/-- PRI_REENABLE: the host enables the PRI of a function again, with its allocation of page requests; those that wait are
sent (R179, R180). -/
def execPriReenable (x : PriGrant) (s : State) : Host.Outcome State Fault Refusal :=
  fromHost s 0 (ok { s with r := { s.r with
    priStop := Tab.set false s.r.priStop x.vf.val false, prqHist := x.alloc.toNat } }.sendRequests)

/-! ### Commands (R304) -/

/-- The pattern of a GO register: dropped while busy; refused; or started. -/
def Cmd.go (c : Cmd) (bad : Bool) : Cmd :=
  if c.busy then c
  else if bad then { c with done := false, refused := true }
  else { c with busy := true, done := false, refused := false, run := [c.a, c.c, c.k] }

/-- The command that runs, with the operands it started with. -/
def Cmd.running (c : Cmd) : Cmd := { c with a := c.run.getD 0 0, c := c.run.getD 1 0, k := c.run.getD 2 0 }

/-- A command completes. -/
def Cmd.finish (c : Cmd) : Cmd := { c with busy := false, done := true, run := [] }

/-- MSI-X vector 0 of a function. -/
def State.vector0 (s : State) (f : Nat) : State := { s with irqs := s.irqs ++ [.msix f 0] }

/-! ### Invalidation (R183, R184) -/

/-- A page range and whether every entry is meant. -/
structure InvRange where
  first : Nat
  count : Nat
  all : Bool
  deriving DecidableEq, Repr

/-- The range that an invalidation's registers name. -/
def Cmd.range (c : Cmd) (width : Nat) : InvRange :=
  { first := fieldOf c.a 12 (width - 12), count := fieldOf c.c 8 32, all := c.c.getLsbD 63 }

/-- A cached leaf was derived from an entry that maps a page of the range. -/
def InvRange.hits (r : InvRange) (page : Nat) (l : Leaf) : Bool :=
  let n := l.size / 4096
  r.all || (decide (page / n * n < r.first + r.count) && decide (r.first < page / n * n + n))

/-- A cached pointer was derived from an entry above a page of the range. -/
def InvRange.hitsTable (r : InvRange) (shift prefix_ : Nat) : Bool :=
  let n := 2 ^ (shift + 9) / 4096
  r.all || (decide (prefix_ * n < r.first + r.count) && decide (r.first < prefix_ * n + n))

/-- An access of a core-task has a translation and has not been performed: a posted store, a piece, a deferred load. -/
def CoreTask.bound (c : CoreTask) : Bool :=
  c.posted.any (fun p => decide (p.stage = .posted)) || !c.flight.isEmpty || !c.returns.isEmpty ||
    c.seqC.tags.any (fun e => !e.2.landed && (match e.2.res with
      | .ldg _ _ _ _ b => b.isSome
      | _ => false))

/-- An access of a context is on its way to its home slice, or stands there (R183); the pieces that slices hold for a
stopped gang are among them (log 9). -/
def State.inFlight (s : State) (ctx : Nat → Bool) : Bool :=
  s.tasks.any (fun e => ctx e.2.ctx && e.2.cts.any (fun c => c.2.bound)) ||
    s.m.slices.any (fun v => v.2.pieces.any (fun p => ctx p.ctx) || v.2.queue.any (fun o => match o with
      | .atom r => ctx r.ctx
      | .piece _ => false))

/-- INV1 of a function. -/
def State.inv1 (s : State) (f : Nat) : Cmd := Tab.get Cmd.idle s.r.inv1 f

/-- A context belongs to a function: to the partition of a VF, or, for the PF, context 0 and every assigned one. -/
def State.ctxOf (s : State) (f ctx : Nat) : Bool :=
  if f = 0 then decide (ctx = 0) || (s.ctxPart ctx).isSome
  else s.presented f && decide (s.ctxPart ctx = some (f - 1))

/-- The context of an INV1. -/
def Cmd.ctx (c : Cmd) : Nat := fieldOf c.c 0 7

/-- INV1_GO (R304). -/
def execInv1Go (f : Fin 9) (s : State) : Host.Outcome State Fault Refusal :=
  let c := s.inv1 f.val
  let r := c.range 57
  fromHost s f.val <| ok { s with r := { s.r with
    inv1 := Tab.set Cmd.idle s.r.inv1 f.val (c.go (!s.ctxOf f.val c.ctx || (decide (r.count = 0) && !r.all))) } }

/-- INV2_GO (R304). -/
def execInv2Go (s : State) : Host.Outcome State Fault Refusal :=
  let c := s.r.inv2
  let r := c.range 52
  fromHost s 0 <| ok { s with r := { s.r with inv2 := c.go (decide (r.count = 0) && !r.all) } }

/-- The cached translations of some owners that a range hits go. -/
def Cached.drop (c : Cached) (owner : Nat → Bool) (r : InvRange) : Cached :=
  { leaves := c.leaves.filter (fun e => !(owner e.owner && r.hits e.page e.leaf)),
    tables := c.tables.filter (fun e => !(owner e.owner && r.hitsTable e.shift e.above)) }

/-- A guest page lies in a range of guest pages. -/
def InvRange.names (r : InvRange) (page : Nat) : Bool := r.all || (decide (r.first ≤ page) && decide (page < r.first + r.count))

/-- The cached first-stage translations of some owners that were read through a guest page of a range go: they derive from
its second-stage entry (R183). -/
def Cached.dropVia (c : Cached) (owner : Nat → Bool) (r : InvRange) : Cached :=
  { leaves := c.leaves.filter (fun e => !(owner e.owner && e.via.any r.names)),
    tables := c.tables.filter (fun e => !(owner e.owner && e.via.any r.names)) }

/-- A piece that a killed gang has left on its way stands at a slice: its context may be another partition's by now. -/
def State.strayPiece (s : State) : Bool := s.m.slices.any (fun v => v.2.pieces.any (fun p => (s.sender p).isNone))

/-- The caches after the invalidation of a range of guest pages of a partition (R183): its second-stage entries go, and
what first-stage walks of its contexts read through them. -/
def State.dropSecond (s : State) (part : Nat) (r : InvRange) : State :=
  { s with m := { s.m with
      second := s.m.second.drop (fun o => decide (o / 128 = part)) r,
      first := s.m.first.dropVia (fun n => decide (s.ctxPart n = some part) || (decide (n ≠ 0) && (s.ctxPart n).isNone)) r } }

/-- INVALIDATION_COMPLETE: no cached translation and no access that used one is left (R183). -/
def execInvalidationComplete (second : Bool) (f : Fin 9) (s : State) : Host.Outcome State Fault Refusal :=
  if second then
    let c := s.r.inv2
    let part := fieldOf c.running.c 0 3
    let mine (n : Nat) : Bool := decide (s.ctxPart n = some part)
    if !c.busy || s.inFlight mine || s.strayPiece then idle s
    else
      let s1 := s.dropSecond part (c.running.range 52)
      ok ({ s1 with r := { s1.r with inv2 := c.finish } }.vector0 0)
  else
    let c := s.inv1 f.val
    let mine (n : Nat) : Bool := decide (n = c.running.ctx)
    if !c.busy || s.inFlight mine then idle s
    else ok (({ s with r := { s.r with inv1 := Tab.set Cmd.idle s.r.inv1 f.val c.finish },
                       m := { s.m with first := s.m.first.drop mine (c.running.range 57) } }).vector0 f.val)

/-- ATS_INVALIDATION: cached host translations of `count` host pages from page `base` go, once no access that used
them is on its way, and the host, which issued it, is told of its completion (R183). -/
def execAtsInvalidation (base count : Nat) (s : State) : Host.Outcome State Fault Refusal :=
  if s.inFlight (fun _ => true) || !s.ports.host then idle s
  else ok { s with
    m := { s.m with hostX := s.m.hostX.filter (fun p => !(decide (base ≤ p) && decide (p < base + count))) },
    irqs := s.irqs ++ [.atsDone] }

/-! ### Frame release (R177) -/

/-- The first frame and the count of the release registers. -/
def Cmd.frames (c : Cmd) : Nat × Nat := (fieldOf c.a 12 26, fieldOf c.c 0 26)

/-- FREL_GO (R304). -/
def execFrelGo (s : State) : Host.Outcome State Fault Refusal :=
  let (f, n) := s.r.frel.frames
  fromHost s 0 <| ok { s with r := { s.r with frel := s.r.frel.go (decide (n = 0) || decide (dpaTop < (f + n) * 4096)) } }

/-- Pigeonholes on a range of addresses end as at a timeout, with no acquire (R177). -/
def State.freePigeons (s : State) (lo hi : Nat) : State :=
  (s.m.slices.map (·.1)).foldl (fun s sl =>
    let v := s.slice sl
    let gone (p : Pigeon) : Bool := decide (lo < p.addr + 8) && decide (p.addr < hi)
    (v.pigeons.filter gone).foldl (fun s p => s.wakeWaita p 1 none)
      (s.setSlice sl { v with pigeons := v.pigeons.filter (fun p => !gone p) })) s

/-- Release `n` frames from frame `f` to a key: lines and their records go, every byte is 0, the tag is set. -/
def State.releaseFrames (s : State) (f n : Nat) (key : BitVec 6) : State :=
  let lo := f * 4096
  let hi := (f + n) * 4096
  let s1 := s.freePigeons lo hi
  { s1 with m := { s1.m with
      dpa := s1.m.dpa.filter (fun e => decide (e.1 < lo) || decide (hi ≤ e.1)),
      races := s1.m.races.filter (fun e => decide (e.1 * 64 < lo) || decide (hi ≤ e.1 * 64)),
      stream := s1.m.stream.filter (fun l => decide (l * 64 < lo) || decide (hi ≤ l * 64)),
      keyTags := if key = 0 then s1.m.keyTags.filter (fun e => decide (e.1 < f) || decide (f + n ≤ e.1))
        else splice 0 s1.m.keyTags f (List.replicate n key) } }

/-- FRAME_RELEASE_COMPLETE (R177). -/
def execFrameReleaseComplete (s : State) : Host.Outcome State Fault Refusal :=
  if !s.r.frel.busy then idle s
  else
    let (f, n) := s.r.frel.running.frames
    let s1 := s.releaseFrames f n (BitVec.ofNat 6 (fieldOf s.r.frel.running.k 0 6))
    ok (({ s1 with r := { s1.r with frel := s1.r.frel.finish } }).vector0 0)

/-! ### Key loads (R175) -/

/-- A frame carries a tag. -/
def State.tagUsed (s : State) (key : BitVec 6) : Bool := s.m.keyTags.any (fun e => decide (e.2 = key))

/-- KLID. -/
def Cmd.klid (c : Cmd) : BitVec 6 := BitVec.ofNat 6 (fieldOf c.k 0 6)

/-- KEYLOAD_GO: KLDATA is zeroed when the command starts, whether it is refused or not (R304). -/
def execKeyloadGo (s : State) : Host.Outcome State Fault Refusal :=
  let k := s.r.kload.go (decide (s.r.kload.klid = 0) || s.tagUsed s.r.kload.klid)
  let data := (List.range 8).map (fun i => Tab.get 0 s.r.kldata i)
  if s.r.kload.busy then idle s
  else fromHost s 0 (ok { s with r := { s.r with kload := { k with run := k.run ++ data }, kldata := [] } })

/-- KEYLOAD_COMPLETE: the identifier holds the 512-bit key (R175). -/
def execKeyloadComplete (s : State) : Host.Outcome State Fault Refusal :=
  if !s.r.kload.busy then idle s
  else ok (({ s with r := { s.r with kload := s.r.kload.finish },
                     service := { s.service with keys := Tab.set [] s.service.keys s.r.kload.running.klid.toNat (s.r.kload.run.drop 3) } }).vector0 0)

end Sys2Proof.Machine
end

