-- ==== Sys2Proof/Machine/FrontEnd.lean ====
section
/-! DEFINITION. The command front end: queues, entries, completions (R242, R243, R302, R306 to R310). -/

namespace Sys2Proof.Machine

/-! ### Queues (R302) -/

/-- The hardware number of queue `q` of function `f` (R306). -/
def queueNum (f q : Nat) : Nat := 16 * f + q

/-- A queue. -/
def State.queue (s : State) (n : Nat) : HostQueue := Tab.get HostQueue.off s.queues n

/-- Change a queue. -/
def State.updQueue (s : State) (n : Nat) (g : HostQueue → HostQueue) : State :=
  { s with queues := Tab.upd HostQueue.off s.queues n g }

/-- 2^k of a queue. -/
def HostQueue.size (h : HostQueue) : Nat := 2 ^ h.log2

/-- The completion ring has a free slot. -/
def HostQueue.hasSlot (h : HostQueue) : Bool := decide ((h.cqtail + 1) % h.size ≠ h.cqhead % h.size)

/-- SQDB_WRITE: the doorbell. -/
def execSqdbWrite (f : Fin 9) (q : Fin 16) (tail : BitVec 12) (s : State) : Host.Outcome State Fault Refusal :=
  fromHost s f.val (ok (s.updQueue (queueNum f.val q.val) (fun h => { h with tail := tail.toNat % h.size })))

/-- The completion of an entry. -/
def answer (tag : BitVec 32) (code : Nat) (value : Word) : Completion := { tag := tag, code := code, kind := 0, value := value }

/-- A reset queue: HEAD := TAIL, HALTED clear, an entry already fetched stays (R302); the INDIRECT entries whose buffers were being fetched are answered,
innermost first. -/
def HostQueue.resetRing (h : HostQueue) : HostQueue :=
  { h with head := h.tail, halted := false, levels := [], comps := h.comps ++ h.levels.map (fun l => answer l.tag 0 0) }

/-- A queue without an entry that it has fetched waits for no page. -/
def State.forgetBuffers (s : State) (n : Nat) : State := if (s.queue n).cur.isSome then s else s.plainDone (.queue n)

/-- The reset of a queue by its doorbell. -/
def State.resetQueue (s : State) (n : Nat) : State := (s.updQueue n HostQueue.resetRing).forgetBuffers n

/-- SQDB_RESET (R302, R308). -/
def execSqdbReset (f : Fin 9) (q : Fin 16) (s : State) : Host.Outcome State Fault Refusal :=
  fromHost s f.val (ok (s.resetQueue (queueNum f.val q.val)))

/-- CQDB_WRITE: the completion head. -/
def execCqdbWrite (f : Fin 9) (q : Fin 16) (head : BitVec 12) (s : State) : Host.Outcome State Fault Refusal :=
  fromHost s f.val (ok (s.updQueue (queueNum f.val q.val) (fun h => { h with cqhead := head.toNat % h.size })))

/-- The fields of QCFG. -/
def HostQueue.configure (h : HostQueue) (v : Word) : HostQueue :=
  { h with log2 := fieldOf v 0 4, ctx := fieldOf v 8 7, vec := fieldOf v 16 8 }

/-- A queue may be enabled (R302). -/
def State.queueOk (s : State) (f : Nat) (h : HostQueue) : Bool :=
  decide (4 ≤ h.log2) && decide (h.log2 ≤ 12) && s.hostOk h.sqbase.toNat (h.size * 64) &&
    s.hostOk h.cqbase.toNat (h.size * 16) && s.ctxOf f h.ctx

/-- A write of QCFG with EN set while EN is 0. -/
def State.enableQueue (s : State) (f q : Nat) (v : Word) : State :=
  let h := (s.queue (queueNum f q)).configure v
  if s.queueOk f h then
    (s.updQueue (queueNum f q) (fun _ =>
      { h.resetRing with en := true, refused := false, head := 0, tail := 0, cqtail := 0, cqhead := 0 })).forgetBuffers
        (queueNum f q)
  else s.updQueue (queueNum f q) (fun _ => { h with refused := true })

/-- QUEUE_ENABLE. -/
def execQueueEnable (f : Fin 9) (q : Fin 16) (qcfg : Word) (s : State) : Host.Outcome State Fault Refusal :=
  if (s.queue (queueNum f.val q.val)).en ∨ ¬qcfg.getLsbD 31 then idle s
  else fromHost s f.val (ok (s.enableQueue f.val q.val qcfg))

/-- QUEUE_DISABLE. -/
def execQueueDisable (f : Fin 9) (q : Fin 16) (s : State) : Host.Outcome State Fault Refusal :=
  fromHost s f.val (ok (s.updQueue (queueNum f.val q.val) (fun h => { h with en := false })))

/-! ### Entries (R306) -/

/-- What the front end does with an entry: it is answered, it halts its queue, or it waits, with the descriptor that has been
read and the tenant at whose quota it is held. -/
inductive Served where
  | done (s : State) (c : Option Completion)
  | halt (s : State) (c : Completion)
  | wait (s : State) (desc : List Word) (tenant : Option Nat)

/-- A field of an entry. -/
def entryField (e : List Word) (w lo n : Nat) : Nat := wordField e w lo n

/-- TAG. -/
def entryTag (e : List Word) : BitVec 32 := BitVec.ofNat 32 (entryField e 0 0 32)

/-- An answer with a code. -/
def served (s : State) (e : List Word) (code : Nat) (value : Word) : Served := .done s (some (answer (entryTag e) code value))

/-- The reserved fields of an entry are 0; `multi` for a MULTI-SUBMIT. -/
def entryOk (e : List Word) (multi : Bool) : Bool :=
  decide (entryField e 0 32 24 = 0) && decide (entryField e 3 9 55 = 0) && decide (entryField e 4 32 32 = 0) &&
    [5, 6, 7].all (fun w => decide (e.getD w 0 = 0)) &&
    (multi || (decide (entryField e 3 0 8 = 0) && decide (entryField e 4 0 32 = 0)))

/-- ADDR of an entry. -/
def FetchedEntry.addr (x : FetchedEntry) : Word := x.words.getD 1 0

/-- The sixteen words of the descriptor that an entry of queue `n` names, in the entry's context: read once, as one snapshot
(R229), and kept while the entry waits; a fault is CODE 9 with the failing address (R306). -/
def readDesc (s : State) (n : Nat) (x : FetchedEntry) (go : State → List Word → Served) : Served :=
  if x.desc ≠ [] then go s x.desc
  else match s.readVa x.ctx x.addr 128 with
  | .trap t => served (s.plainDone (.queue n)) x.words 9 t.addr
  | .miss a pg h =>
    (match s.plainMiss (.queue n) x.ctx a with
      | some t => served (s.plainDone (.queue n)) x.words 9 t.addr
      | none => .wait (s.plainWait (.queue n) x.ctx pg h Need.read) [] none)
  | .ok bs => go ((s.plainDone (.queue n)).noteVa x.ctx Need.read x.addr 128) (descWords bs)

/-- The check of a submission, with a refusal or a wait. -/
def checked (s : State) (n : Nat) (x : FetchedEntry) (td : List Word) (sub : Submitter) (go : State → Image → List Xl → Served) :
    Served :=
  let read : State := (s.plainDone (.queue n)).noteSub td sub.ctx
  match s.checkSub td x.addr sub with
  | .refuse code v => served read x.words code v
  | .miss m =>
    (match s.subMiss (.queue n) sub.ctx m with
      | .inl (code, v) => served (s.plainDone (.queue n)) x.words code v
      | .inr s1 => .wait s1 td none)
  | .ok img futs =>
    if s.quotaOk (s.ctxTenant sub.ctx) td (s.unresolved futs).length then go read img futs
    else .wait s td (some (s.ctxTenant sub.ctx))

/-- The job of a host submission (R236, R284). -/
def hostJob (e : List Word) (queue ctx : Nat) : Job :=
  { count := 1, queue := some queue, remote := none, tag := entryTag e, ctx := ctx, fq := e.getD 2 0,
    htask := decide (entryField e 3 8 1 = 1), written := 0, waiting := [] }

/-- The queue's PF privilege bit (R307). -/
def State.queuePriv (s : State) (n : Nat) : Bool := (Tab.get 0 s.r.qpriv (n / 16)).getLsbD (n % 16)

/-- The fault queue and the descriptor that a submission names are aligned, the queue not 0. -/
def submitOk (e : List Word) : Bool :=
  decide (e.getD 2 0 ≠ 0) && decide (entryField e 2 0 6 = 0) && decide (entryField e 1 0 6 = 0)

/-- SUBMIT. -/
def serveSubmit (s : State) (n : Nat) (x : FetchedEntry) : Served :=
  if !entryOk x.words false || !submitOk x.words then served s x.words 9 0
  else readDesc s n x (fun s td =>
    let sub : Submitter := { ctx := x.ctx, priv := s.queuePriv n, host := true, stream := none, job := none, multi := none }
    checked s n x td sub (fun s img futs =>
      let (s1, id) := s.accept td sub img futs (some (hostJob x.words n x.ctx))
      served s1 x.words 0 (id.setWidth 64)))

/-! ### MULTI-SUBMIT (R310) -/

/-- The partitions of a MULTI-SUBMIT with their cores. -/
def multiParts (e : List Word) : List (Nat × Nat) :=
  (List.range 8).filterMap (fun p =>
    if entryField e 3 p 1 = 1 then some (p, entryField e 4 (4 * p) 4 + 1) else none)

/-- The submitter of a MULTI-SUBMIT. -/
def State.multiSub (s : State) (queue : Nat) (parts : List (Nat × Nat)) : Submitter :=
  { ctx := 0, priv := s.queuePriv queue, host := true, stream := none, job := none, multi := some parts }

/-- Try to reserve and commit: the task is accepted and starts on every named partition at once, unless a head of R73
holds cores of one back. -/
def State.commitMulti (s : State) (m : Multi) : Option (State × Completion) :=
  let sub := s.multiSub m.queue m.parts
  match s.checkSub m.td m.va sub with
  | .ok img futs =>
    if !s.quotaOk (s.ctxTenant 0) m.td (s.unresolved futs).length then none
    else
      let job : Job := { count := 1, queue := some m.queue, remote := none, tag := m.tag, ctx := 0, fq := m.fq, htask := m.htask,
                         written := 0, waiting := [] }
      let (s1, id) := s.accept m.td sub img futs (some job)
      let done (s : State) : Option (State × Completion) := some ({ s with multi := none }, answer m.tag 0 (id.setWidth 64))
      match s1.byId id with
      | none => none
      | some (slot, t) =>
        if t.state ≠ .ready then done s1
        else if !s1.placeable t then none
        else match s1.canPlace slot t [] with
          | some cs => done (s1.place slot t cs)
          | none => none
  | _ => none

/-- MULTI-SUBMIT. -/
def serveMulti (s : State) (n : Nat) (x : FetchedEntry) : Served :=
  let e := x.words
  if 16 ≤ n ∨ !entryOk e true ∨ !submitOk e then served s e 9 0
  else if s.multi.isSome then .wait s x.desc none
  else readDesc s n x (fun s td =>
    let parts := multiParts e
    if (parts.map (·.2)).sum ≠ wordField td 1 0 5 then served s e 1 x.addr
    else
      checked s n x td (s.multiSub n parts) (fun s _ _ =>
        let m : Multi := { queue := n, tag := entryTag e, va := x.addr, fq := e.getD 2 0,
                           htask := decide (entryField e 3 8 1 = 1), td := td, parts := parts, since := s.dtime,
                           counted := x.counted }
        match s.commitMulti m with
        | some (s1, c) => .done s1 (some c)
        | none => .done { s with multi := some m } none))

/-- A MULTI-SUBMIT is held at a quota of its tenant. -/
def State.multiHeld (s : State) (m : Multi) : Bool :=
  match s.checkSub m.td m.va (s.multiSub m.queue m.parts) with
  | .ok _ futs => !s.quotaOk (s.ctxTenant 0) m.td (s.unresolved futs).length
  | _ => false

/-- The buffers of a queue that are used up. -/
def closeLevels : List Level → List Completion → List Level × List Completion
  | [], cs => ([], cs)
  | l :: ls, cs => if l.count ≤ l.next then closeLevels ls (cs ++ [answer l.tag 0 0]) else (l :: ls, cs)

/-- Close the buffers of a queue that are used up; their INDIRECT entries are answered. -/
def State.closeBuffers (s : State) (n : Nat) : State :=
  s.updQueue n (fun h =>
    let (ls, cs) := closeLevels h.levels []
    { h with levels := ls, comps := h.comps ++ cs })

/-- How long a MULTI-SUBMIT is tried (R310), in ns. -/
def multiWindow : Nat := 1000000

/-- MULTI_SUBMIT_RETRY: another attempt within 1 ms; a holding at a quota is counted once (R224). -/
def execMultiSubmitRetry (s : State) : Host.Outcome State Fault Refusal :=
  match s.multi with
  | none => idle s
  | some m =>
    if m.since + multiWindow ≤ s.dtime then idle s
    else match s.commitMulti m with
      | some (s1, c) => ok ((s1.complete m.queue c).closeBuffers m.queue)
      | none =>
        if s.multiHeld m ∧ ¬m.counted then ok ({ s with multi := some { m with counted := true } }.addThrot (s.ctxTenant 0))
        else idle s

/-- MULTI_SUBMIT_TIMEOUT: after 1 ms without a commit. -/
def execMultiSubmitTimeout (s : State) : Host.Outcome State Fault Refusal :=
  match s.multi with
  | none => idle s
  | some m =>
    if s.dtime < m.since + multiWindow then idle s
    else ok (({ s with multi := none }.complete m.queue (answer m.tag 10 m.va)).closeBuffers m.queue)

/-! ### Streams (R242, R243) -/

/-- The rung words of a stream descriptor keep R242. -/
def rungsOk (sd : List Word) : Bool :=
  (List.range 8).all (fun k =>
    let w := 8 + k
    if k ≤ wordField sd 0 3 3 then
      decide (1 ≤ wordField sd w 32 32) && decide (wordField sd w 24 8 = 0) && decide (1 ≤ wordField sd w 16 8) &&
        decide (wordField sd w 12 4 = 0) && decide (wordField sd w 2 6 = 0) && decide (wordField sd w 0 2 ≠ 3)
    else decide (sd.getD w 0 = 0))

/-- A stream descriptor keeps R242. -/
def sdOk (sd : List Word) : Bool :=
  decide (1 ≤ wordField sd 0 32 32) && decide (wordField sd 0 14 18 = 0) && decide (wordField sd 0 6 2 = 0) &&
    decide (wordField sd 0 0 3 ≤ wordField sd 0 3 3) &&
    highClear sd 1 57 && decide (wordField sd 1 0 6 = 0) &&
    highClear sd 2 25 && decide (wordField sd 2 4 12 = 0) && decide (1 ≤ wordField sd 2 16 9) &&
    decide (wordField sd 2 16 9 ≤ 256) && decide (1 ≤ wordField sd 2 0 4) &&
    highClear sd 3 57 && highClear sd 4 13 && decide (wordField sd 4 4 4 = 0) && decide (26 ≤ wordField sd 4 8 5) &&
    decide (wordField sd 4 8 5 ≤ 30) && decide (wordField sd 3 0 (wordField sd 4 8 5) = 0) &&
    highClear sd 5 8 && decide (wordField sd 5 3 1 = 0) && decide (wordField sd 5 4 3 ≤ 5) &&
    decide (sd.getD 6 0 = 0) && decide (sd.getD 7 0 = 0) && rungsOk sd

/-- The ring store that a descriptor asks for, in bytes. -/
def ringBytes (sd : List Word) : Nat := (wordField sd 2 0 4 + 1) * wordField sd 2 16 9 * 4096

/-- The ring store of the carve (R16), in bytes. -/
def State.carve (s : State) : Nat := s.r.rscarve * 16 * 2 ^ 20

/-- A stream can be created (R243). -/
def State.streamFits (s : State) (sd : List Word) (tenant : Nat) : Bool :=
  let used := (s.streams.map (fun e => ringBytes e.2.sd)).sum
  let rings := (s.streams.filter (fun e => decide (e.2.tenant = tenant))).length
  sdOk sd && decide (rings < fieldOf (s.tqWord tenant 1) 5 7) && decide (used + ringBytes sd ≤ s.carve) &&
    (decide (wordField sd 5 7 1 = 0) ||
      (s.r.featw0.getLsbD 5 && (find s.encs (encKey (wordField sd 5 4 3) (wordField sd 5 0 3))).isNone))

/-- A new stream. -/
def newStream (sd : List Word) (part tenant ctx queue : Nat) (tag : BitVec 32) : Stream :=
  { sd := sd, part := part, tenant := tenant, ctx := ctx, queue := queue, tag := tag, isOpen := false, closed := -1, postmark := 0,
    work := 0, done := 0, risk := false, ended := false, rung := wordField sd 0 0 3, stepRung := wordField sd 0 0 3,
    good := 0, events := 0, evs := [],
    slots := List.replicate (wordField sd 2 0 4 + 1) { st := .free, stamp := none }, cl := 0, gt := 0, store := [],
    kv := List.replicate (wordField sd 4 0 4 + 1) { valid := false, pinned := false, seq := 0 }, kvSeq := 0 }

/-- STREAM-CREATE. R224 does not say whether a creation refused at the RINGS quota is a holding that THROT counts: here it
is refused, not held, and THROT does not count it, which is the model's choice (log 65). -/
def serveCreate (s : State) (n : Nat) (x : FetchedEntry) : Served :=
  let e := x.words
  let va := x.addr
  let ctx := x.ctx
  if !entryOk e false || decide (va.toNat % 64 ≠ 0) then served s e 9 0
  else readDesc s n x (fun s sd =>
    let tenant := s.ctxTenant ctx
    match (List.range 64).find? (fun i => (s.stream? i).isNone), s.taskPart ctx with
    | some i, some part =>
      if s.streamFits sd tenant then
        let key := encKey (wordField sd 5 4 3) (wordField sd 5 0 3)
        let encs := if wordField sd 5 7 1 = 0 then s.encs
          else Tab.put key { EncCtx.zero with stream := some i, vctx := ctx, queue := n, tag := entryTag e } s.encs
        served { s with streams := Tab.put i (newStream sd part tenant ctx n (entryTag e)) s.streams, encs := encs } e 0
          (BitVec.ofNat 64 i)
      else served s e 7 va
    | _, _ => served s e 7 va)

/-- Unbind the encode context of a stream, after the frame in coding (R243). -/
def State.unbind (s : State) (i : Nat) : State :=
  match s.encOf i with
  | none => s
  | some (key, x) =>
    let s1 := { s with
      encs := Tab.put key { x with stream := none, cur := none } s.encs,
      letters := Tab.upd [] s.letters (key / 8) (fun l => l.filter (fun b => decide (b.ectx ≠ key % 8))) }
    s1.dropEnc key

/-- The effects of a destruction (R243). -/
def State.destroyStream (s : State) (i : Nat) : State :=
  let mine := (s.tasks.filter (fun e => decide (e.2.stream = some i))).map (·.1)
  let s1 := mine.foldl (fun s slot => s.killTask slot) s
  { (s1.unbind i).plainDone (.stream i) with streams := Tab.del i s1.streams }

/-- A partition belongs to a function; the PF reaches every one. -/
def mayReach (f part : Nat) : Bool := decide (f = 0) || decide (f = part + 1)

/-- STREAM-DESTROY. -/
def serveDestroy (s : State) (n : Nat) (e : List Word) : Served :=
  let v := e.getD 1 0
  if !entryOk e false then served s e 9 0
  else match s.stream? v.toNat with
    | some st => if mayReach (n / 16) st.part then served (s.destroyStream v.toNat) e 0 v else served s e 11 v
    | none => served s e 11 v

/-! ### KILL (R309) -/

/-- The DPA of a task's successor future. -/
def State.futrOf (s : State) (t : Task) : Option Nat :=
  let va := vaField t.td 5
  if va = 0 then none
  else match s.translate t.ctx Need.rmw va with
    | .ok x => if x.f.host then none else some x.f.a
    | _ => none

/-- A submitted task waits for one that is killed. -/
def State.dependsOn (s : State) (slot : Nat) (u : Task) (ids futs : List Nat) : Bool :=
  decide (u.state = .submitted) && (u.preds.any (fun i => ids.contains i) ||
    s.m.futures.any (fun w => decide (w.slot = slot) && w.rank.isNone && futs.contains w.addr))

/-- Kill the tasks that depend on those already killed, until none is left; the number killed. -/
def State.cascade : Nat → List Nat → List Nat → State → State × Nat
  | 0, _, _, s => (s, 0)
  | k + 1, ids, futs, s =>
    match s.tasks.find? (fun e => s.dependsOn e.1 e.2 ids futs) with
    | none => (s, 0)
    | some (slot, u) =>
      let futs' := match s.futrOf u with
        | some a => a :: futs
        | none => futs
      let (s1, m) := State.cascade k (u.id.toNat :: ids) futs' (s.killTask slot)
      (s1, m + 1)

/-- Kill a task by the host (R309). -/
def State.hostKill (s : State) (slot : Nat) (t : Task) (cascade release : Bool) : State × Nat :=
  let futs := (s.futrOf t).toList
  let s1 := s.killTask slot
  if cascade then
    let (s2, m) := State.cascade s1.tasks.length [t.id.toNat] futs s1
    (s2, m + 1)
  else if release then (s1.releaseDependents t.id.toNat, 1)
  else (s1, 1)

/-- A task's context is assigned to a function's partition; the PF names any. -/
def State.mayKill (s : State) (f : Nat) (t : Task) : Bool := decide (f = 0) || decide (s.ctxPart t.ctx = some (f - 1))

/-- KILL. -/
def serveKill (s : State) (n : Nat) (e : List Word) : Served :=
  let v := e.getD 1 0
  let cas := decide (entryField e 2 0 1 = 1)
  let rel := decide (entryField e 2 1 1 = 1)
  if !entryOk e false || decide (entryField e 2 2 62 ≠ 0) || (cas && rel) then served s e 9 0
  else match (if 2 ^ 32 ≤ v.toNat then none else s.byId (v.setWidth 32)) with
    | some (slot, t) =>
      if s.mayKill (n / 16) t then
        let (s1, m) := s.hostKill slot t cas rel
        served s1 e 0 (BitVec.ofNat 64 m)
      else served s e 11 v
    | none => served s e 11 v

/-! ### INDIRECT (R308) -/

/-- INDIRECT, met at a level; `va` is the entry's own address. -/
def serveIndirect (s : State) (n : Nat) (e : List Word) (va : Word) : Served :=
  let a := e.getD 1 0
  let count := (e.getD 2 0).toNat
  if !entryOk e false || decide (a.toNat % 64 ≠ 0) || decide (count < 1) || decide (4096 < count) then served s e 9 0
  else if 4 ≤ (s.queue n).levels.length then .halt s (answer (entryTag e) 8 va)
  else .done (s.updQueue n (fun h => { h with levels := { tag := entryTag e, va := a, next := 0, count := count } :: h.levels })) none

/-- Serve an entry (R306). -/
def serve (s : State) (n : Nat) (x : FetchedEntry) : Served :=
  let e := x.words
  match entryField e 0 56 8 with
  | 1 => serveSubmit s n x
  | 2 => serveIndirect s n e x.va
  | 3 => serveCreate s n x
  | 4 => serveDestroy s n e
  | 5 => serveMulti s n x
  | 6 => if entryOk e false then served s e 0 0 else served s e 9 0
  | 7 => serveKill s n e
  | _ => served s e 9 0

/-! ### COMMAND_FETCH (R306) -/

/-- The next entry of a queue. -/
inductive NextEntry where
  | none
  | entry (s : State) (x : FetchedEntry)
  | wait (s : State)
  | lost (s : State) (c : Completion)

/-- The words of an entry. -/
def entryWords (bs : List Byte) : List Word := (List.range 8).map (fun i => word8 bs (8 * i))

/-- An entry as it is read (R306). -/
def FetchedEntry.new (bs : List Byte) (va : Word) (ctx : Nat) : FetchedEntry :=
  { words := entryWords bs, desc := [], va := va, ctx := ctx, counted := false }

/-- Read the next entry of a queue: the one it holds, else of its innermost buffer, else of its ring. -/
def State.nextEntry (s : State) (n : Nat) : NextEntry :=
  let h := s.queue n
  match h.cur with
  | some x => .entry s x
  | none =>
    match h.levels with
    | l :: ls =>
      let va := l.va + BitVec.ofNat 64 (64 * l.next)
      (match s.readVa h.ctx va 64 with
        | .ok bs =>
          .entry (((s.plainDone (.queue n)).noteVa h.ctx Need.read va 64).updQueue n (fun h =>
            { h with levels := { l with next := l.next + 1 } :: ls })) (.new bs va h.ctx)
        | .trap t => .lost ((s.plainDone (.queue n)).updQueue n (fun h => { h with levels := ls })) (answer l.tag 9 t.addr)
        | .miss a pg hm =>
          (match s.plainMiss (.queue n) h.ctx a with
            | some t => .lost ((s.plainDone (.queue n)).updQueue n (fun h => { h with levels := ls })) (answer l.tag 9 t.addr)
            | none => .wait (s.plainWait (.queue n) h.ctx pg hm Need.read)))
    | [] =>
      if h.head = h.tail then .none
      else
        let a := h.sqbase.toNat + 64 * h.head
        .entry ((s.updQueue n (fun h => { h with head := (h.head + 1) % h.size })).logHost { host := true, a := a } 64)
          (.new (s.readFinal { host := true, a := a } 64) (BitVec.ofNat 64 a) h.ctx)

/-- A queue waits for the page of a read that its entry or its indirect buffer needs (R179); a MULTI-SUBMIT's are read in
context 0. -/
def State.queueWaits (s : State) (n : Nat) : Bool :=
  let h := s.queue n
  match h.cur with
  | some x => (s.plainWaits (.queue n) x.ctx).isSome ||
      (decide (entryField x.words 0 56 8 = 5) && (s.plainWaits (.queue n) 0).isSome)
  | none => (s.plainWaits (.queue n) h.ctx).isSome

/-- A queue may be served: enabled, not halted, with room for a completion, or holding an entry that it has read; not
frozen with its VF, and not waiting for a page or for its own MULTI-SUBMIT (R179, R302, R306, R310, R313). -/
def State.mayServe (s : State) (n : Nat) : Bool :=
  let h := s.queue n
  ((h.en && !h.halted && h.hasSlot) || h.cur.isSome) && (decide (n < 16) || !s.partFrozen (n / 16 - 1)) &&
    !s.queueWaits n &&
    (match s.multi with
      | some m => decide (m.queue ≠ n)
      | none => true)

/-- An entry waits: it stays with its queue, its context and its descriptor, and THROT of the tenant at whose quota it is held
counts the holding once (R224). -/
def State.holdEntry (s : State) (n : Nat) (x : FetchedEntry) (desc : List Word) (tenant : Option Nat) : State :=
  let s1 := s.updQueue n (fun h => { h with cur := some { x with desc := desc, counted := x.counted || tenant.isSome } })
  match tenant with
  | some t => if x.counted then s1 else s1.addThrot t
  | none => s1

/-- Serve one entry of a queue; false when the queue has nothing to fetch or waits. -/
def State.serveQueue (s : State) (n : Nat) : State × Bool :=
  match s.nextEntry n with
  | .none => (s, false)
  | .wait s1 => (s1, false)
  | .lost s1 c => ((s1.complete n c).closeBuffers n, true)
  | .entry s1 x =>
    let s2 := s1.updQueue n (fun h => { h with cur := none })
    match serve s2 n x with
    | .done s3 none => (s3, true)
    | .done s3 (some c) => ((s3.complete n c).closeBuffers n, true)
    | .halt s3 c => ((s3.complete n c).updQueue n (fun h => { h with halted := true }), true)
    | .wait s3 desc tenant => (({ s3 with queues := s1.queues }).holdEntry n x desc tenant, false)

/-- Serve the first of some queues that can be served. -/
def State.serveFirst : List Nat → State → State
  | [], s => s
  | n :: ns, s =>
    if s.mayServe n then
      match s.serveQueue n with
      | (s1, true) => { s1 with rr := (n + 1) % 144 }
      | (s1, false) => State.serveFirst ns s1
    else State.serveFirst ns s

/-- COMMAND_FETCH: one entry of the next queue in turn; no queue is fetched before the features are fixed or while
the host port is untrained (R19, R306, R319). -/
def execCommandFetch (s : State) : Host.Outcome State Fault Refusal :=
  if s.r.featFixed && s.ports.host then ok (State.serveFirst ((List.range 144).map (fun i => (s.rr + i) % 144)) s) else idle s

/-! ### Completions (R307) -/

/-- The 16 bytes of a completion. -/
def Completion.bytes (c : Completion) : List Byte :=
  leBytes 4 c.tag.toNat ++ leBytes 2 c.code ++ leBytes 1 c.kind ++ [0] ++ leBytes 8 c.value.toNat

/-- COMPLETION_WRITE: the queue's first completion goes to its ring, a release of SYS scope, and the interrupt is
raised. -/
def execCompletionWrite (f : Fin 9) (q : Fin 16) (s : State) : Host.Outcome State Fault Refusal :=
  let n := queueNum f.val q.val
  let h := s.queue n
  match h.comps with
  | [] => idle s
  | c :: cs =>
    if !h.hasSlot || !s.ports.host || (decide (f.val ≠ 0) && s.partGone (f.val - 1)) then idle s
    else
      let at_ : FAddr := { host := true, a := h.cqbase.toNat + 16 * h.cqtail }
      let s1 := s.applyWrite at_ c.bytes false none (some s.m.h)
      let s2 := s1.updQueue n (fun h => { h with comps := cs, cqtail := (h.cqtail + 1) % h.size })
      ok { s2 with irqs := s2.irqs ++ [.msix f.val h.vec] }

end Sys2Proof.Machine
end

