-- ==== Sys2Proof/Machine/HostRegs.lean ====
section
/-! DEFINITION. Host registers: the function block and the device block (R168, R169, R185, R223, R264, R301 to R305, R319).

`State.regWrite` is a host write of any register; a row of its own calls the part that its register has. -/

namespace Sys2Proof.Machine

/-! ### Refused and dropped writes -/

/-- A write that its register refuses: DEVERR records the offset (R303). -/
def State.refuseWrite (s : State) (off : Nat) : State :=
  { s with r := { s.r with deverr := BitVec.ofNat 64 (2 ^ 63 + off % 2 ^ 24) } }

/-- A dropped write: an unsupported request under AER (R301). -/
def State.dropWrite (s : State) : State := { s with aer := s.aer + 1 }

/-- Change the registers when `f` accepts the write. -/
def State.device (s : State) (off : Nat) (f : Regs → Option Regs) : State :=
  match f s.r with
  | some r => { s with r := r }
  | none => s.refuseWrite off

/-! ### Context blocks (R168, R169) -/

/-- The bits of a word of a context block that are not reserved. -/
def ctxMask (w : Nat) : Word :=
  [0x01FFFFFFFFE00000, 0x01FFFFFFFFE00000, 0xFFFFFFFFFFE00000, 0x0000000F003F3F07, 0x000FFFFFFFE00000,
   0x0000003FFFFF0000].getD w 0

/-- The DPA range of a partition (R303). -/
def pmemRange (v : Word) : Nat × Nat := (fieldOf v 0 17 * 2 ^ 21, (fieldOf v 0 17 + fieldOf v 32 17) * 2 ^ 21)

/-- The window of a context block lies inside a DPA range (R169). -/
def windowIn (ctx : Tab Word) (n : Nat) (r : Nat × Nat) : Bool :=
  let base := fieldOf (Tab.get 0 ctx (n * 8)) 21 36 * 2 ^ 21
  let len := fieldOf (Tab.get 0 ctx (n * 8 + 1)) 21 36 * 2 ^ 21
  let d := (BitVec.ofNat 64 base + Tab.get 0 ctx (n * 8 + 2)).toNat
  decide (len = 0) || (decide (r.1 ≤ d) && decide (d + len ≤ r.2))

/-- The range that bounds a context's window: its partition's, or the whole memory. -/
def Regs.ctxRange (r : Regs) (n : Nat) : Nat × Nat :=
  let v := Tab.get 0 r.ctxp n
  if n ≠ 0 ∧ v.getLsbD 7 then pmemRange (Tab.get 0 r.pmem (fieldOf v 0 3)) else (0, dpaTop)

/-- A write of word `w` of context block `n`; none when it is refused. -/
def Regs.writeCtx (r : Regs) (n w : Nat) (v : Word) : Option Regs :=
  let old := Tab.get 0 r.ctx (n * 8 + w)
  let v1 := v &&& ctxMask w
  let v2 := if w = 3 ∧ ¬r.featw0.getLsbD 3 then (v1 &&& ~~~(4 : Word)) ||| (old &&& 4) else v1
  let ctx := Tab.set 0 r.ctx (n * 8 + w) v2
  if w ≤ 3 ∧ ¬windowIn ctx n (r.ctxRange n) then none else some { r with ctx := ctx }

/-- The offset of a context register. -/
def ctxOffset (n w : Nat) : Nat := 0x10000 + 0x40 * n + 8 * w

/-- CTX_WRITE. -/
def execCtxWrite (n : Fin 128) (w : Fin 6) (v : Word) (s : State) : Host.Outcome State Fault Refusal :=
  fromHost s 0 (ok (s.device (ctxOffset n.val w.val) (·.writeCtx n.val w.val v)))

/-- The page requests of a context that is destroyed: those that have been sent will be answered late, the others are never
sent (R181). -/
def Regs.orphans (r : Regs) (n : Nat) : Regs :=
  { r with prq := (r.prq.filter (fun q => decide (q.ctx ≠ n) || q.sent)).map (fun q =>
      if q.ctx = n then { q with orphan := true } else q) }

/-- A write of CTXPn; `busy` when a task of the context is in flight. A context that is taken from its partition is
destroyed (R181). -/
def Regs.writeCtxp (r : Regs) (busy : Bool) (n : Nat) (v : Word) : Option Regs :=
  let old := Tab.get 0 r.ctxp n
  let r0 := if old.getLsbD 7 ∧ v &&& 0x87 ≠ old then r.orphans n else r
  let r1 := { r0 with ctxp := Tab.set 0 r.ctxp n (v &&& 0x87) }
  if n = 0 ∨ busy ∨ (v.getLsbD 7 ∧ ¬windowIn r.ctx n (r1.ctxRange n)) then none else some r1

/-- A task of a context is in flight. -/
def State.ctxBusy (s : State) (n : Nat) : Bool := s.tasks.any (fun e => decide (e.2.ctx = n))

/-- CTXP_WRITE. -/
def execCtxpWrite (n : Fin 128) (v : Word) (s : State) : Host.Outcome State Fault Refusal :=
  fromHost s 0 (ok (s.device (ctxOffset n.val 6) (·.writeCtxp (s.ctxBusy n.val) n.val v)))

/-! ### Quotas, shares (R185, R223) -/

/-- The bits of a quota word that are not reserved. -/
def tqMask (w : Nat) : Word := [0x07FFFFFFFFFF83FF, 0x0000000003FFEFFF, 0x00000000FFFFFFFF].getD w 0

/-- The quotas of a word: place, width, the device's count (R223). -/
def tqFields (w : Nat) : List (Nat × Nat × Nat) :=
  [[(44, 15, 16384), (29, 15, 16384), (15, 14, 8192), (0, 10, 512)], [(13, 13, 4096), (5, 7, 64)], []].getD w []

/-- The sums over the nine blocks keep the device's counts. -/
def tqSumsOk (tq : Tab Word) (w : Nat) : Bool :=
  (tqFields w).all (fun f =>
    decide (((List.range 9).map (fun n => fieldOf (Tab.get 0 tq (n * 4 + w)) f.1 f.2.1)).sum ≤ f.2.2))

/-- A write of word `w` of TQn. -/
def Regs.writeTq (r : Regs) (n w : Nat) (v : Word) : Option Regs :=
  let tq := Tab.set 0 r.tq (n * 4 + w) (v &&& tqMask w)
  let accq := fieldOf v 0 5
  if !tqSumsOk tq w ∨ (w = 1 ∧ (accq < 1 ∨ 16 < accq)) then none else some { r with tq := tq }

/-- TQ_WRITE. -/
def execTqWrite (n : Fin 9) (w : Fin 3) (v : Word) (s : State) : Host.Outcome State Fault Refusal :=
  fromHost s 0 (ok (s.device (0x12000 + 0x20 * n.val + 8 * w.val) (·.writeTq n.val w.val v)))

/-- A write of SHAREp. -/
def Regs.writeShare (r : Regs) (p : Nat) (v : Word) : Option Regs :=
  let share := Tab.set 0 r.share p (v &&& 0x1FF)
  if 256 < ((List.range 8).map (fun i => (Tab.get 0 share i).toNat)).sum then none else some { r with share := share }

/-- SHARE_WRITE. -/
def execShareWrite (p : Fin 8) (v : Word) (s : State) : Host.Outcome State Fault Refusal :=
  fromHost s 0 (ok (s.device (0x13000 + 8 * p.val) (·.writeShare p.val v)))

/-! ### Partitions (R261, R264, R303) -/

/-- The islands that hold a core-task. -/
def State.usedIslands (s : State) : List Nat := s.heldCores.map (· / 4)

/-- A write of PARTCFGp; `used` are the islands that hold a core-task. -/
def Regs.writePartcfg (r : Regs) (used : List Nat) (p : Nat) (v : Word) : Option Regs :=
  let v1 := v &&& 0x1FFFFFFFF
  let old := Tab.get 0 r.partcfg p
  let others := (List.range 8).any (fun i => decide (i ≠ p) &&
    decide (((Tab.get 0 r.partcfg i) &&& v1 &&& 0xFFFFFFFF) ≠ 0))
  let moved := used.any (fun i => (old ^^^ v1).getLsbD i)
  if others || moved then none else some { r with partcfg := Tab.set 0 r.partcfg p v1 }

/-- PARTCFG_WRITE. -/
def execPartcfgWrite (p : Fin 8) (v : Word) (s : State) : Host.Outcome State Fault Refusal :=
  fromHost s 0 (ok (s.device (0x13040 + 8 * p.val) (·.writePartcfg s.usedIslands p.val v)))

/-- LO and HI of a map for the eight states. -/
def vpsPairs (v : Word) : List (Nat × Nat) := (List.range 8).map (fun n => (fieldOf v (8 * n) 4, fieldOf v (8 * n + 4) 4))

/-- A write of VPSMAPp. -/
def Regs.writeVpsmap (r : Regs) (p : Nat) (v : Word) : Option Regs :=
  if (vpsPairs v).all (fun x => decide (x.1 ≤ x.2) && decide (x.2 ≤ Tab.get 0 r.pmax p)) then
    some { r with vpsmap := Tab.set 0 r.vpsmap p v }
  else none

/-- VPSMAP_WRITE. -/
def execVpsmapWrite (p : Fin 8) (v : Word) (s : State) : Host.Outcome State Fault Refusal :=
  fromHost s 0 (ok (s.device (0x13080 + 8 * p.val) (·.writeVpsmap p.val v)))

/-- A write of PMAXp. -/
def Regs.writePmax (r : Regs) (p : Nat) (v : Word) : Option Regs :=
  let m := fieldOf v 0 4
  if m ≤ 10 ∧ (vpsPairs (Tab.get 0 r.vpsmap p)).all (fun x => decide (x.2 ≤ m)) then
    some { r with pmax := Tab.set 0 r.pmax p m }
  else none

/-- PMAX_WRITE. -/
def execPmaxWrite (p : Fin 8) (v : Word) (s : State) : Host.Outcome State Fault Refusal :=
  fromHost s 0 (ok (s.device (0x130C0 + 8 * p.val) (·.writePmax p.val v)))

/-- The contexts assigned to a partition. -/
def Regs.ctxsOf (r : Regs) (p : Nat) : List Nat :=
  (List.range 128).filter (fun n =>
    let v := Tab.get 0 r.ctxp n
    decide (n ≠ 0) && v.getLsbD 7 && decide (fieldOf v 0 3 = p))

/-- A write of PMEMp. -/
def Regs.writePmem (r : Regs) (p : Nat) (v : Word) : Option Regs :=
  let v1 := v &&& 0x0001FFFF0001FFFF
  let me := pmemRange v1
  let meets := (List.range 8).any (fun i =>
    let o := pmemRange (Tab.get 0 r.pmem i)
    decide (i ≠ p) && decide (me.1 < o.2) && decide (o.1 < me.2) && decide (me.1 < me.2) && decide (o.1 < o.2))
  if dpaTop < me.2 ∨ meets ∨ ¬(r.ctxsOf p).all (fun n => windowIn r.ctx n me) then none
  else some { r with pmem := Tab.set 0 r.pmem p v1 }

/-- PMEM_WRITE. -/
def execPmemWrite (p : Fin 8) (v : Word) (s : State) : Host.Outcome State Fault Refusal :=
  fromHost s 0 (ok (s.device (0x13180 + 8 * p.val) (·.writePmem p.val v)))

/-- A write of RSCARVE; `streams` when a stream exists. -/
def Regs.writeRscarve (r : Regs) (streams : Bool) (v : Word) : Option Regs :=
  let n := fieldOf v 0 3
  if 5 ≤ n ∨ streams then none else some { r with rscarve := n }

/-- RSCARVE_WRITE. -/
def execRscarveWrite (v : Word) (s : State) : Host.Outcome State Fault Refusal :=
  fromHost s 0 (ok (s.device 0x13200 (·.writeRscarve (!s.streams.isEmpty) v)))

/-! ### Features (R319), counters -/

/-- The halves that a write reaches, over an old value. -/
def merge (old : Word) (high low : Option (BitVec 32)) : Word :=
  (high.getD (old.extractLsb' 32 32)) ++ (low.getD (old.extractLsb' 0 32))

/-- A write of FEATACC0 fixes the feature words once. -/
def Regs.writeFeat0 (r : Regs) (high low : Option (BitVec 32)) : Regs :=
  if r.featFixed ∨ (high = none ∧ low = none) then r
  else { r with featw0 := merge 0 high low &&& Config.featOff0, featFixed := true }

/-- FEATACC0_WRITE. -/
def execFeatacc0Write (high low : Option (BitVec 32)) (s : State) : Host.Outcome State Fault Refusal :=
  fromHost s 0 (ok { s with r := s.r.writeFeat0 high low })

/-- A write of FEATACC1 before the feature words are fixed. -/
def Regs.writeFeat1 (r : Regs) (high low : Option (BitVec 32)) : Regs :=
  if r.featFixed then r else { r with featacc1 := merge r.featacc1 high low &&& Config.featOff1 }

/-- FEATACC1_WRITE. -/
def execFeatacc1Write (high low : Option (BitVec 32)) (s : State) : Host.Outcome State Fault Refusal :=
  fromHost s 0 (ok { s with r := s.r.writeFeat1 high low })

/-- A write of LATEPRQ: 0 clears it. -/
def Regs.writeLateprq (r : Regs) (v : Word) : Regs := if v = 0 then { r with lateprq := 0 } else r

/-- LATEPRQ_CLEAR. -/
def execLateprqClear (v : Word) (s : State) : Host.Outcome State Fault Refusal :=
  fromHost s 0 (ok { s with r := s.r.writeLateprq v })

/-- A write of DEVERR: 1 to VALID clears it. -/
def Regs.writeDeverr (r : Regs) (v : Word) : Regs :=
  if v.getLsbD 63 then { r with deverr := r.deverr &&& ~~~(BitVec.ofNat 64 (2 ^ 63)) } else r

/-- DEVERR_CLEAR. -/
def execDeverrClear (v : Word) (s : State) : Host.Outcome State Fault Refusal :=
  fromHost s 0 (ok { s with r := s.r.writeDeverr v })

/-! ### Encoder registers (R305) -/

/-- The encode context that a function reaches at engine `e`, context `c`. -/
def State.encReach (s : State) (f e c : Nat) : Option EncCtx :=
  match find s.encs (encKey e c) with
  | none => none
  | some x =>
    match x.stream.bind s.stream? with
    | some st => if mayReach f st.part then some x else none
    | none => none

/-- A write of EORDX. -/
def State.writeEordx (s : State) (f e c : Nat) (v : Word) : State :=
  match s.encReach f e c with
  | none => s
  | some x => if x.eord ≤ v.toNat ∧ v.toNat ≤ x.eowr then s.updEnc (encKey e c) (fun y => { y with eord := v.toNat }) else s

/-- EORDX_WRITE. -/
def execEordxWrite (f : Fin 9) (e : Fin 6) (c : Fin 8) (v : Word) (s : State) : Host.Outcome State Fault Refusal :=
  fromHost s f.val (ok (s.writeEordx f.val e.val c.val v))

/-! ### Reads -/

/-- A bit as a number. -/
def bit (b : Bool) (n : Nat) : Nat := if b then 2 ^ n else 0

/-- STAT of a command. -/
def Cmd.stat (c : Cmd) : Word := BitVec.ofNat 64 (bit c.busy 0 + bit c.done 1 + bit c.refused 2)

/-- QCFG. -/
def HostQueue.qcfg (h : HostQueue) : Word := BitVec.ofNat 64 (h.log2 + h.ctx * 2 ^ 8 + h.vec * 2 ^ 16 + bit h.en 31)

/-- QSTAT. -/
def HostQueue.qstat (h : HostQueue) : Word :=
  BitVec.ofNat 64 (bit h.en 0 + bit h.halted 1 + bit h.refused 2 + h.head * 2 ^ 16 + h.cqtail * 2 ^ 32)

/-- FID and FSTAT. -/
def State.fid (f : Nat) : Word := BitVec.ofNat 64 (f + (if f = 0 then 0 else (f - 1) * 2 ^ 8) + f * 2 ^ 16)

/-- See `fid`. -/
def State.fstat (s : State) (f : Nat) : Word :=
  BitVec.ofNat 64 (bit s.r.featFixed 0 + bit (decide (f ≠ 0) && s.partFrozen (f - 1)) 1)

/-- A read of a queue register. -/
def HostQueue.read (h : HostQueue) (off : Nat) : Word :=
  match off with
  | 0x00 => h.sqbase
  | 0x08 => h.cqbase
  | 0x10 => h.qcfg
  | 0x18 => h.qstat
  | _ => 0

/-- A read of the function block (R301, R302, R305). -/
def State.readFunction (s : State) (f off : Nat) : Word :=
  if off = 0 then State.fid f
  else if off = 8 then s.fstat f
  else if 0x100 ≤ off ∧ off < 0x500 then (s.queue (queueNum f ((off - 0x100) / 0x40))).read ((off - 0x100) % 0x40)
  else if 0x800 ≤ off ∧ off < 0xB00 then
    match s.encReach f ((off - 0x800) / 0x80) ((off - 0x800) / 0x10 % 8) with
    | some x => BitVec.ofNat 64 (if off % 16 = 0 then x.eowr else x.eord)
    | none => 0
  else if off = 0xC00 then (s.inv1 f).a
  else if off = 0xC08 then (s.inv1 f).c
  else if off = 0xC18 then (s.inv1 f).stat
  else 0

/-- A read of the device block (R303). -/
def State.readDevice (s : State) (off : Nat) : Word :=
  let r := s.r
  if off < 0x12000 then
    let n := (off - 0x10000) / 0x40
    let w := (off - 0x10000) % 0x40 / 8
    if w < 6 then Tab.get 0 r.ctx (n * 8 + w) else if w = 6 then Tab.get 0 r.ctxp n else 0
  else if off < 0x12120 then
    if (off - 0x12000) % 0x20 / 8 < 3 then Tab.get 0 r.tq ((off - 0x12000) / 0x20 * 4 + (off - 0x12000) % 0x20 / 8) else 0
  else if 0x13000 ≤ off ∧ off < 0x13040 then Tab.get 0 r.share ((off - 0x13000) / 8)
  else if 0x13040 ≤ off ∧ off < 0x13080 then Tab.get 0 r.partcfg ((off - 0x13040) / 8)
  else if 0x13080 ≤ off ∧ off < 0x130C0 then Tab.get 0 r.vpsmap ((off - 0x13080) / 8)
  else if 0x130C0 ≤ off ∧ off < 0x13100 then BitVec.ofNat 64 (Tab.get 0 r.pmax ((off - 0x130C0) / 8))
  else if 0x13100 ≤ off ∧ off < 0x13148 then Tab.get 0 r.qpriv ((off - 0x13100) / 8)
  else if 0x13180 ≤ off ∧ off < 0x131C0 then Tab.get 0 r.pmem ((off - 0x13180) / 8)
  else match off with
    | 0x13200 => BitVec.ofNat 64 r.rscarve
    | 0x13300 => Config.featOff0
    | 0x13308 => Config.featOff1
    | 0x13400 => r.bootstat
    | 0x13408 => BitVec.ofNat 64 r.lateprq
    | 0x13410 => r.deverr
    | 0x13500 => r.frel.a
    | 0x13508 => r.frel.c
    | 0x13510 => r.frel.k
    | 0x13520 => r.frel.stat
    | 0x13600 => r.kload.k
    | 0x13650 => r.kload.stat
    | 0x13700 => r.inv2.a
    | 0x13708 => r.inv2.c
    | 0x13718 => r.inv2.stat
    | _ => 0

/-- What a host read of a register returns: 0 at an offset that no table lists (R301), and of a function that is not
presented (R315). -/
def State.regRead (s : State) (f off : Nat) : Word :=
  if !s.presented f then 0 else if off < 0x10000 then s.readFunction f off else if f = 0 then s.readDevice off else 0

/-- What a host read of 4 bytes returns: the half of a register that its offset reaches (R301). -/
def State.regReadHalf (s : State) (f off : Nat) : BitVec 32 :=
  (s.regRead f (off / 8 * 8)).extractLsb' (if off % 8 = 4 then 32 else 0) 32

/-! ### REGISTER_WRITE (R301) -/

/-- A command's GO register is written with 1. -/
def isGo (v : Word) : Bool := v.getLsbD 0

/-- The state of a step that always goes on. -/
def nextOf (s : State) (o : Host.Outcome State Fault Refusal) : State :=
  match o with
  | .next t => t
  | _ => s

/-- A write of a queue register (R302); `v` has the halves that are not reached as they read. -/
def State.writeQueue (s : State) (f q off : Nat) (v : Word) (high low : Option (BitVec 32)) : State :=
  let n := queueNum f q
  let h := s.queue n
  match off with
  | 0x00 => if h.en then s else s.updQueue n (fun h => { h with sqbase := v &&& 0xFFFFFFFFFFFFF000 })
  | 0x08 => if h.en then s else s.updQueue n (fun h => { h with cqbase := v &&& 0xFFFFFFFFFFFFF000 })
  | 0x10 =>
    if v.getLsbD 31 then (if h.en then s else s.enableQueue f q v)
    else if h.en then s.updQueue n (fun h => { h with en := false })
    else s.updQueue n (fun h => h.configure v)
  | 0x20 =>
    if (high.getD 0).getLsbD 31 then s.resetQueue n
    else (match low with
      | some t => s.updQueue n (fun h => { h with tail := t.toNat % 4096 % h.size })
      | none => s)
  | 0x28 => (match low with
      | some t => s.updQueue n (fun h => { h with cqhead := t.toNat % 4096 % h.size })
      | none => s)
  | _ => s

/-- A write in the function block. -/
def State.writeFunction (s : State) (f : Fin 9) (off : Nat) (v : Word) (high low : Option (BitVec 32)) : State :=
  let inv (g : Cmd → Cmd) : State := { s with r := { s.r with inv1 := Tab.upd Cmd.idle s.r.inv1 f.val g } }
  if off = 0 ∨ off = 8 ∨ off = 0xC18 then s
  else if 0x100 ≤ off ∧ off < 0x500 then
    (if (off - 0x100) % 0x40 ≤ 0x28 then s.writeQueue f.val ((off - 0x100) / 0x40) ((off - 0x100) % 0x40) v high low
     else s.dropWrite)
  else if 0x800 ≤ off ∧ off < 0xB00 then
    (if off % 16 = 8 then s.writeEordx f.val ((off - 0x800) / 0x80) ((off - 0x800) / 0x10 % 8) v else s)
  else if off = 0xC00 then inv (fun c => { c with a := v &&& 0x01FFFFFFFFFFF000 })
  else if off = 0xC08 then inv (fun c => { c with c := v &&& 0x800000FFFFFFFF7F })
  else if off = 0xC10 then (if isGo v then nextOf s (execInv1Go f s) else s)
  else s.dropWrite

/-- A write of the registers of the device block that lie one to a number. -/
def State.writeTables (s : State) (off : Nat) (v : Word) : State :=
  if off < 0x12000 then
    let n := (off - 0x10000) / 0x40
    let w := (off - 0x10000) % 0x40 / 8
    if w < 6 then s.device off (·.writeCtx n w v)
    else if w = 6 then s.device off (·.writeCtxp (s.ctxBusy n) n v) else s.dropWrite
  else if off < 0x12120 then
    let w := (off - 0x12000) % 0x20 / 8
    if w < 3 then s.device off (·.writeTq ((off - 0x12000) / 0x20) w v) else s.dropWrite
  else if off < 0x13000 then s.dropWrite
  else if off < 0x13040 then s.device off (·.writeShare ((off - 0x13000) / 8) v)
  else if off < 0x13080 then s.device off (·.writePartcfg s.usedIslands ((off - 0x13040) / 8) v)
  else if off < 0x130C0 then s.device off (·.writeVpsmap ((off - 0x13080) / 8) v)
  else if off < 0x13100 then s.device off (·.writePmax ((off - 0x130C0) / 8) v)
  else if off < 0x13148 then
    { s with r := { s.r with qpriv := Tab.set 0 s.r.qpriv ((off - 0x13100) / 8) (v &&& 0xFFFF) } }
  else if off < 0x13180 then s.dropWrite
  else s.device off (·.writePmem ((off - 0x13180) / 8) v)

/-- A write of the other registers of the device block. -/
def State.writeSingles (s : State) (off : Nat) (v : Word) (high low : Option (BitVec 32)) : State :=
  let r := s.r
  match off with
  | 0x13200 => s.device off (·.writeRscarve (!s.streams.isEmpty) v)
  | 0x13300 | 0x13308 | 0x13400 | 0x13520 | 0x13650 | 0x13718 => s
  | 0x13310 => { s with r := r.writeFeat0 high low }
  | 0x13318 => { s with r := r.writeFeat1 high low }
  | 0x13408 => { s with r := r.writeLateprq v }
  | 0x13410 => { s with r := r.writeDeverr (merge 0 high low) }
  | 0x13500 => { s with r := { r with frel := { r.frel with a := v &&& 0x0000003FFFFFF000 } } }
  | 0x13508 => { s with r := { r with frel := { r.frel with c := v &&& 0x3FFFFFF } } }
  | 0x13510 => { s with r := { r with frel := { r.frel with k := v &&& 0x3F } } }
  | 0x13518 => if isGo v then nextOf s (execFrelGo s) else s
  | 0x13600 => { s with r := { r with kload := { r.kload with k := v &&& 0x3F } } }
  | 0x13648 => if isGo v then nextOf s (execKeyloadGo s) else s
  | 0x13700 => { s with r := { r with inv2 := { r.inv2 with a := v &&& 0x000FFFFFFFFFF000 } } }
  | 0x13708 => { s with r := { r with inv2 := { r.inv2 with c := v &&& 0x800000FFFFFFFF07 } } }
  | 0x13710 => if isGo v then nextOf s (execInv2Go s) else s
  | _ =>
    if 0x13608 ≤ off ∧ off ≤ 0x13640 then
      let k := (off - 0x13608) / 8
      { s with r := { r with kldata := Tab.set 0 r.kldata k (merge (Tab.get 0 r.kldata k) high low) } }
    else s.dropWrite

/-- A host write of any register: 4 or 8 bytes, aligned; anything else is dropped (R301). A VF has no device
block (R300). -/
def State.regWrite (s : State) (f : Fin 9) (off : Nat) (high low : Option (BitVec 32)) : State :=
  let v := merge (s.regRead f.val off) high low
  if off % 8 ≠ 0 ∨ (0x10000 ≤ off ∧ f.val ≠ 0) ∨ !s.presented f.val then s.dropWrite
  else if off < 0x10000 then s.writeFunction f off v high low
  else if off < 0x131C0 then s.writeTables off v
  else s.writeSingles off v high low

/-- REGISTER_WRITE, while the host port is trained (R19). -/
def execRegisterWrite (f : Fin 9) (off : BitVec 22) (high low : Option (BitVec 32)) (s : State) :
    Host.Outcome State Fault Refusal :=
  if (high = none ∧ low = none) ∨ ¬s.ports.host then idle s else ok (s.regWrite f off.toNat high low)

end Sys2Proof.Machine
end

