-- ==== Sys2Proof/Machine/Migrate.lean ====
section
/-! DEFINITION. The migration of a virtual function (R313): the freeze, the export and the import of its state, the peers'
confirmations and the end markers. The exported state has no format in the manual; it is data here (log 32). -/

namespace Sys2Proof.Machine

/-- FEATW0.VFMIG. -/
def State.vfmigOn (s : State) : Bool := s.r.featw0.getLsbD 6

/-- Change the migration of VF `n`. -/
def State.updVf (s : State) (n : Nat) (f : VfMig → VfMig) : State :=
  { s with ports := { s.ports with vf := Tab.upd VfMig.idle s.ports.vf n f } }

/-- The tasks of a partition. -/
def State.tasksIn (s : State) (part : Nat) : List (Nat × Task) := s.tasks.filter (fun e => e.2.inPart part)

/-- A condition waits for a page. -/
def ParkCond.isPage : ParkCond → Bool
  | .page _ _ _ _ _ _ _ => true
  | _ => false

/-- A gang of a partition that freezes: a running one is parked, one that is stopped stays so; its page conditions
end, since its requests do. -/
def State.freezeGang (s : State) (slot : Nat) : State :=
  let s1 : State := match s.task? slot with
    | some t => if t.state = TaskState.running then s.stopGang slot [.freeze] false else s
    | none => s
  s1.updTask slot (fun t : Task =>
    if t.state = TaskState.parked ∨ t.state = TaskState.preempted then
      let conds : List ParkCond := t.conds.filter (fun c => !ParkCond.isPage c)
      { t with state := .parked, conds := if conds.contains .freeze then conds else conds ++ [.freeze] }
    else t)

/-- The page requests of a partition's contexts end: their answers come late (R181). -/
def State.dropRequests (s : State) (part : Nat) : State :=
  State.sendRequests { s with r := { s.r with
    prq := s.r.prq.filter (fun q => decide (s.ctxPart q.ctx ≠ some part)) } }

/-- VF_FREEZE: stages 1 and 2 of R313, by the physical function through the host port (R19). -/
def execVfFreeze (n : Fin 9) (s : State) : Host.Outcome State Fault Refusal :=
  if n.val = 0 ∨ !s.vfmigOn ∨ !s.ports.host ∨ (s.vfMig (n.val - 1)).stage ≠ .idle then idle s
  else
    let part := n.val - 1
    let s1 := s.updVf n.val (fun m => { m with stage := .frozen })
    let s2 := ((s1.tasksIn part).map (·.1)).foldl State.freezeGang s1
    ok (s2.dropRequests part)

/-- The peers of a partition: the LINKs of its tasks' process-group tables that are not this device. -/
def State.peersOf (s : State) (part : Nat) : List Nat :=
  ((s.tasksIn part).flatMap (fun e =>
    let va := vaField e.2.td 4
    if va = 0 then []
    else match s.readPgt e.2.ctx va with
      | .ok g => (g.links.filter (fun l => decide (l ≠ s.ports.base))).map BitVec.toNat
      | _ => [])).eraseDups

/-! ### The exported state -/

/-- The DPA range of a VF's partition. -/
def State.vfRange (s : State) (n : Nat) : Nat × Nat := pmemRange (Tab.get 0 s.r.pmem (n - 1))

/-- The image with its addresses of device memory moved. -/
def VfImage.shift (f : Nat → Nat) (x : VfImage) : VfImage :=
  let frame (k : Nat) : Nat := f (k * 4096) / 4096
  { x with
    pigeons := x.pigeons.map (fun p => { p with addr := f p.addr }),
    futures := x.futures.map (fun w => { w with addr := f w.addr }),
    actions := x.actions.map (fun w => if w.f.host then w else { w with f := { w.f with a := f w.f.a } }),
    held := x.held.map (fun p => { p with elems := p.elems.map (fun e => (e.1, f e.2.1, e.2.2)),
                                          keys := p.keys.map (fun k => (frame k.1, k.2)) }),
    mem := x.mem.map (fun e => (f e.1, e.2)),
    tags := x.tags.map (fun e => (frame e.1, e.2)) }

/-- The state of VF `n` as it stands on the device. -/
def State.vfState (s : State) (n : Nat) : VfImage :=
  let part := n - 1
  let (lo, hi) := s.vfRange n
  let tasks := s.tasksIn part
  let mine (slot : Nat) : Bool := (find tasks slot).isSome
  let streams := s.streams.filter (fun e => decide (e.2.part = part))
  let encs := s.encs.filter (fun e => (e.2.stream.bind (find streams)).isSome)
  { fresh := s.fresh, tasks := tasks,
    jobs := s.jobs.filter (fun j => decide (s.ctxPart j.2.ctx = some part) || tasks.any (fun e => decide (e.2.job = j.1))),
    streams := streams, encs := encs,
    letters := s.letters.map (fun e => (e.1, e.2.filter (fun b => (find encs (encKey e.1 b.ectx)).isSome))),
    queues := s.queues.filter (fun q => decide (q.1 / 16 = n)),
    pigeons := s.m.slices.flatMap (fun v => v.2.pigeons.filter (fun p => mine p.slot)),
    futures := s.m.futures.filter (fun w => mine w.slot),
    actions := s.m.actions.filter (fun w => mine w.slot),
    held := s.m.slices.flatMap (fun v => v.2.held.filter (fun p => mine p.slot)),
    arrived := s.ports.held.filter (fun d => tasks.any (fun e => decide (e.2.id = d.1))),
    mem := s.m.dpa.filter (fun e => decide (lo ≤ e.1) && decide (e.1 < hi)),
    tags := s.m.keyTags.filter (fun e => decide (lo ≤ e.1 * 4096) && decide (e.1 * 4096 < hi)) }

/-- The state of VF `n` as the host takes it. -/
def State.vfImage (s : State) (n : Nat) : VfImage := (s.vfState n).shift (· - (s.vfRange n).1)

/-- The host takes the state of a frozen VF (R313 step 3); from then on the device does nothing more for it. -/
def State.exportVf (s : State) (n : Nat) : State :=
  if n = 0 ∨ (s.vfMig (n - 1)).stage ≠ .frozen ∨ ¬s.ports.host then s
  else
    let s1 := s.updVf n (fun m => { m with exported := true })
    { s1 with ports := { s1.ports with images := Tab.put n (s.vfImage n) s1.ports.images } }

/-- An imported task: frozen until the import is acknowledged, its arrival numbers after those of this device. -/
def Task.imported (t : Task) (fresh : Nat) : Task :=
  { t with state := if t.state = .running then .parked else t.state,
           conds := if t.conds.contains .freeze then t.conds else t.conds ++ [.freeze],
           accepted := t.accepted + fresh, place := if t.place = 0 then 0 else t.place + fresh,
           headSince := [], preload := none }

/-- The slots, streams, jobs, encode contexts and memory of an image fit a device. -/
def State.vfFits (s : State) (n : Nat) (x : VfImage) : Bool :=
  let (lo, hi) := s.vfRange n
  x.tasks.all (fun e => (s.task? e.1).isNone && decide (e.1 < 4096)) && x.streams.all (fun e => (s.stream? e.1).isNone) &&
    x.jobs.all (fun e => (find s.jobs e.1).isNone) && x.encs.all (fun e => (find s.encs e.1).isNone) &&
    x.queues.all (fun e => decide (e.1 / 16 = n)) &&
    x.mem.all (fun e => decide (lo + e.1 < hi)) && x.tags.all (fun e => decide (lo + e.1 * 4096 < hi))

/-- Entries of one table put into another. -/
def Tab.putAll {α : Type} (new old : Tab α) : Tab α := new.foldl (fun t e => Tab.put e.1 e.2 t) old

/-- What slices keep for imported tasks stands at its slices. -/
def State.putSlices (s : State) (x : VfImage) : State :=
  let s1 := x.pigeons.foldl (fun s p =>
    let sl := homeSlice { host := false, a := p.addr }
    s.setSlice sl { s.slice sl with pigeons := (s.slice sl).pigeons ++ [p] }) s
  x.held.foldl (fun s p => s.setSlice p.slice { s.slice p.slice with held := (s.slice p.slice).held ++ [p] }) s1

/-- The partition's memory holds an image's bytes and key tags; its lines and their records go, as with a release of its
frames. -/
def State.putVfMemory (s : State) (n : Nat) (x : VfImage) : State :=
  let (lo, hi) := s.vfRange n
  let s1 := s.releaseFrames (lo / 4096) ((hi - lo) / 4096) 0
  { s1 with m := { s1.m with
      dpa := x.mem.foldl (fun m c => splice 0 m c.1 [c.2]) s1.m.dpa,
      keyTags := x.tags.foldl (fun t e => Tab.set 0 t e.1 e.2) s1.m.keyTags } }

/-- The host moves the state of a VF in (R313 step 3): every gang stands there frozen. -/
def State.importVf (s : State) (n : Nat) (image : VfImage) : State :=
  if n = 0 ∨ (s.vfMig (n - 1)).stage ≠ .idle ∨ ¬s.ports.host ∨ ¬s.vfmigOn ∨ ¬s.vfFits n image then s
  else
    let x := image.shift (· + (s.vfRange n).1)
    let s1 := (s.putVfMemory n x).putSlices x
    { s1 with
      fresh := s1.fresh + x.fresh,
      gens := x.tasks.foldl (fun g e => Tab.set 0 g e.1 (e.2.id.extractLsb' 12 20 + 1)) s1.gens,
      tasks := Tab.putAll (x.tasks.map (fun e => (e.1, e.2.imported s.fresh))) s1.tasks,
      jobs := Tab.putAll x.jobs s1.jobs, streams := Tab.putAll x.streams s1.streams, encs := Tab.putAll x.encs s1.encs,
      letters := x.letters.foldl (fun t e => Tab.upd [] t e.1 (· ++ e.2)) s1.letters,
      queues := Tab.putAll x.queues s1.queues,
      ports := { s1.ports with held := s1.ports.held ++ x.arrived },
      m := { s1.m with h := x.tasks.foldl (fun h e => stMax h e.2.topStamp) s1.m.h,
                       futures := s1.m.futures ++ x.futures, actions := s1.m.actions ++ x.actions } }

/-- The state of VF `n` leaves the source: its tasks with their jobs, streams and queues, and what the slices and the
Sorting Office keep for them (log 32). -/
def State.dropExported (s : State) (n : Nat) : State :=
  let x := s.vfState n
  let s1 := x.tasks.foldl (fun s e => ((s.freeSliceEntries e.1).freeSlot e.1).keepPreloads e.1) s
  let who := x.jobs.map (fun e => Plain.job e.1) ++ x.streams.map (fun e => Plain.stream e.1) ++
    x.encs.map (fun e => Plain.enc e.1) ++ x.queues.map (fun e => Plain.queue e.1)
  let s2 := who.foldl State.plainDone s1
  { s2 with
    jobs := s2.jobs.filter (fun e => (find x.jobs e.1).isNone),
    streams := s2.streams.filter (fun e => (find x.streams e.1).isNone),
    encs := s2.encs.filter (fun e => (find x.encs e.1).isNone),
    letters := s2.letters.map (fun e => (e.1, e.2.filter (fun b => (find x.encs (encKey e.1 b.ectx)).isNone))),
    queues := s2.queues.filter (fun e => (find x.queues e.1).isNone),
    ports := { s2.ports with held := s2.ports.held.filter (fun d => !x.arrived.contains d) },
    m := { s2.m with futures := s2.m.futures.filter (fun w => !x.futures.contains w) } }

/-! ### Import and release -/

/-- The entry is released once every peer's marker has been sent; the partition's tasks are the destination's from then
on. -/
def State.releaseEntry (s : State) (n : Nat) : State :=
  if (s.peersOf (n - 1)).all (fun x => (s.vfMig (n - 1)).confirmed.contains x) then
    (s.updVf n (fun m => { m with stage := .released })).dropExported n
  else s

/-- The held deliveries of a VF go to the destination, in arrival order. -/
def State.relayHeld (s : State) (n : Nat) : State :=
  let held := (s.vfMig (n - 1)).held
  let s1 := s.updVf n (fun m => { m with stage := .imported, held := [] })
  held.foldl (fun s d => s.relay n d) s1

/-- On the destination the direct deliveries of each peer are held until its marker (R313 step 4). -/
def State.awaitMarkers (s : State) (part : Nat) : State :=
  (s.peersOf part).foldl (fun s peer =>
    match find s.ports.marker (markerKey part peer) with
    | some _ => s
    | none => { s with ports := { s.ports with marker := Tab.put (markerKey part peer) [] s.ports.marker } }) s

/-- On the destination the imported gangs are frozen no longer: one whose conditions are met returns to READY; the event
records that wait are written again. -/
def State.thaw (s : State) (part : Nat) : State :=
  let s1 := ((s.tasksIn part).map (·.1)).foldl (fun s slot =>
    (s.dropCond slot (fun c => decide (c = .freeze))).wakeGang slot) s
  (s1.streams.filter (fun e => decide (e.2.part = part))).foldl (fun s e => State.flushStream e.2.evs.length e.1 s) s1

/-- VF_IMPORT_ACK: on the source stage 3 of R313; on the destination the hold of direct deliveries, and the gangs go on
(log 32). -/
def execVfImportAck (n : Fin 9) (s : State) : Host.Outcome State Fault Refusal :=
  if n.val = 0 ∨ !s.vfmigOn then idle s
  else match (s.vfMig (n.val - 1)).stage with
    | .frozen => ok ((s.relayHeld n.val).releaseEntry n.val)
    | .idle => ok ((s.awaitMarkers (n.val - 1)).thaw (n.val - 1))
    | _ => idle s

/-- PGT_UPDATE_CONFIRM: the peer's marker follows its last relay (R313 step 4); the confirmation and the marker pass the peer
port (R19). -/
def execPgtUpdateConfirm (n : Fin 9) (peer : Nat) (s : State) : Host.Outcome State Fault Refusal :=
  if n.val = 0 ∨ ¬s.ports.peer then idle s
  else
    let m := s.vfMig (n.val - 1)
    if m.stage ≠ .imported ∨ m.confirmed.contains peer then idle s
    else
      let s1 := s.updVf n.val (fun m => { m with confirmed := m.confirmed ++ [peer] })
      ok ((s1.sendPeer (.endMarker n.val peer)).releaseEntry n.val)

/-- END_MARKER: the direct deliveries of a peer for a VF that were held are applied, in arrival order. -/
def execEndMarker (x : Marker) (s : State) : Host.Outcome State Fault Refusal :=
  let key := markerKey (x.vf.val - 1) x.peer
  if x.vf.val = 0 ∨ ¬s.ports.peer then idle s
  else ok (((find s.ports.marker key).getD []).foldl (fun s d => s.receive true d)
    { s with ports := { s.ports with marker := Tab.del key s.ports.marker } })

end Sys2Proof.Machine
end

