-- ==== Sys2Proof/Machine/Boot.lean ====
section
/-! DEFINITION. Device reset and boot, attestation, ownership, the ports, and what the host does beside registers
(R19, R177, R292, R315 to R319). -/

namespace Sys2Proof.Machine

/-! ### Boot (R315, R316) -/

/-- The failing check of an image (the CHECK of BOOTSTAT); 0 when it passes: signed with the key whose hash is fused and with
the owner's, its version at least the fused counter. -/
def imageCheck (v : Service) (i : BootImage) : Nat :=
  if !i.makerOk ∨ i.maker ≠ v.maker then 1
  else if !i.ownerOk ∨ i.owner ≠ v.owner then 2
  else if i.version < v.fused then 3
  else if !i.wellFormed then 4
  else 0

/-- The boot chain from stage `n`: the last stage run, the failing check, the hashes in the log. -/
def bootChain (v : Service) : Nat → List BootImage → Nat × Nat × List (BitVec 256)
  | n, [] => (n, 0, [])
  | n, i :: is =>
    if imageCheck v i = 0 then
      let (stage, c, log) := bootChain v (n + 1) is
      (stage, c, i.hash :: log)
    else (n, imageCheck v i, [])

/-- BOOTSTAT. -/
def bootStat (stage check fused : Nat) : Word :=
  BitVec.ofNat 64 (stage % 16 + (if check = 0 then 0 else 2 ^ 8) + check % 16 * 2 ^ 12 + fused % 64 * 2 ^ 16)

/-- Four errors within 24 hours (R292), in a list of rising times in ns. -/
def fourInDay : List Nat → Bool
  | a :: b :: c :: d :: l => decide (d - a ≤ 86400000000000) || fourInDay (b :: c :: d :: l)
  | _ => false

/-- The units that the next reset disables. -/
def disabled (n : Nat) (old : BitVec n) (errs : Tab (List Nat)) : BitVec n :=
  (List.range n).foldl (fun m i => if fourInDay (Tab.get [] errs i) then m ||| BitVec.ofNat n (2 ^ i) else m) old

/-- DEVICE_RESET: every register at its reset value, every frame released to key 0 with zeros, the images verified in
order, key 0 loaded with the device key (R175). `clusters` and `channels` are the units that the physical function has
asked to disable (R292); a channel less is announced by DERATE to the partitions with a share (R186). What a reset leaves
alone: device time, host memory, the keys' hashes, the fused counter, the units disabled and the errors counted
(log 34). -/
def execDeviceReset (images : List BootImage) (strap : Bool) (clusters : BitVec 32) (channels : BitVec 24) (s : State) :
    Host.Outcome State Fault Refusal :=
  let (stage, check, log) := bootChain s.service 0 (images.take 7)
  let r := State.reset
  let off := disabled 24 (s.pw.channelsOff ||| channels) s.pw.channelErr
  ok { r with
    agenda := s.agenda, tick := s.tick, fresh := s.fresh, dtime := s.dtime,
    m := { r.m with host := s.m.host },
    r := { r.r with bootstat := bootStat stage check s.service.fused },
    pw := { r.pw with
      clustersOff := disabled 32 (s.pw.clustersOff ||| clusters) s.pw.clusterErr,
      channelsOff := off,
      clusterErr := s.pw.clusterErr, channelErr := s.pw.channelErr, lastTick := s.dtime / tickInterval * tickInterval, lastScrub := s.dtime },
    ports := { r.ports with base := s.ports.base },
    irqs := if off = s.pw.channelsOff then [] else s.derates 256,
    service := { r.service with
      keys := [(0, (List.range 8).map Config.deviceKey)], maker := s.service.maker,
      log := log, owner := s.service.owner, fused := s.service.fused, strap := strap, svcLog := s.service.svcLog } }

/-! ### SPDM (R316) -/

/-- An SPDM request is answered; the bytes of the reply are free (log 13). -/
def State.spdmAnswer (s : State) : State :=
  { s with service := { s.service with spdm := s.service.spdm ++ [Config.spdmReply s.tick] } }

/-- GET_VERSION. -/
def execGetVersion (s : State) : Host.Outcome State Fault Refusal := ok s.spdmAnswer

/-- GET_CAPABILITIES. -/
def execGetCapabilities (s : State) : Host.Outcome State Fault Refusal := ok s.spdmAnswer

/-- NEGOTIATE_ALGORITHMS. -/
def execNegotiateAlgorithms (s : State) : Host.Outcome State Fault Refusal := ok s.spdmAnswer

/-- GET_DIGESTS. -/
def execGetDigests (s : State) : Host.Outcome State Fault Refusal := ok s.spdmAnswer

/-- GET_CERTIFICATE. -/
def execGetCertificate (s : State) : Host.Outcome State Fault Refusal := ok s.spdmAnswer

/-- CHALLENGE. -/
def execChallenge (s : State) : Host.Outcome State Fault Refusal := ok s.spdmAnswer

/-- GET_MEASUREMENTS. -/
def execGetMeasurements (s : State) : Host.Outcome State Fault Refusal := ok s.spdmAnswer

/-! ### Ownership (R317) -/

/-- The four steps of an ownership change: the owner keys go, keys 1 to 63 are emptied, every frame is released to key
0, the new owner key is installed. -/
def State.newOwner (s : State) (owner : BitVec 256) : State :=
  let s1 := s.releaseFrames 0 (dpaTop / 4096) 0
  { s1 with service := { s1.service with owner := owner, keys := Tab.set [] [] 0 (Tab.get [] s1.service.keys 0) } }

/-- OWNERSHIP_TRANSFER: signed with the current owner's key. -/
def execOwnershipTransfer (sig : Signature) (owner : BitVec 256) (s : State) : Host.Outcome State Fault Refusal :=
  if sig.holds ∧ sig.signer = s.service.owner then ok (s.newOwner owner) else idle s

/-- RECOVERY_COMMAND: signed by the maker; it needs the strap held at reset. -/
def execRecoveryCommand (sig : Signature) (owner : BitVec 256) (s : State) : Host.Outcome State Fault Refusal :=
  if sig.holds ∧ sig.signer = s.service.maker ∧ s.service.strap then ok (s.newOwner owner) else idle s

/-! ### Ports and the host -/

/-- A width in lanes and a rate in GT/s to which a port can train: at most x16 at 128 GT/s (R299). -/
def linkFits (x : Nat × Nat) : Bool :=
  decide (1 ≤ x.1) && decide (x.1 ≤ 16) && decide (1 ≤ x.2) && decide (x.2 ≤ 128)

/-- PORT_LINK_TRAINING: a port trains to x16 at 128 GT/s, or down to a narrower link and a lower rate, which its link status
reports, or loses its link (R19, R299). -/
def execPortLinkTraining (peer : Bool) (link : Option (Nat × Nat)) (s : State) : Host.Outcome State Fault Refusal :=
  let key := if peer then 1 else 0
  if link.any (fun x => !linkFits x) then idle s
  else
  let links := match link with
    | some x => Tab.put key x s.ports.link
    | none => Tab.del key s.ports.link
  if peer then ok { s with ports := { s.ports with peer := link.isSome, link := links } }
  else ok { s with ports := { s.ports with host := link.isSome, link := links } }

/-- A write by the host to its own memory: no DMA window bounds it. -/
def State.hostWrites (s : State) (a : Nat) (bs : List Byte) (rel : Option Stamp) : State :=
  State.watchActions { s with m := { s.m with host := splice 0 s.m.host a bs } } { host := true, a := a } bs.length rel

/-- INBOUND_PCIE_WRITE: a release of SYS scope, unchecked; `toHost` is a write that stays in host memory (R191, R195,
R196). -/
def execInboundPcieWrite (dpa : Nat) (toHost : Bool) (bytes : List Byte) (s : State) :
    Host.Outcome State Fault Refusal :=
  if toHost then ok (s.hostWrites dpa bytes (some s.m.h))
  else if !s.ports.host then idle s
  else if dpaTop < dpa + bytes.length then idle s
  else ok (s.applyWrite { host := false, a := dpa } bytes true none (some s.m.h))

/-- SIGNAL_LINE_RAISE (R314). -/
def execSignalLineRaise (line : BitVec 8) (payload : Word) (s : State) : Host.Outcome State Fault Refusal :=
  ok { s with service := { s.service with lines := Tab.set none s.service.lines line.toNat (some payload) } }

end Sys2Proof.Machine
end

