-- ==== Sys2Proof/Machine/Xumak.lean ====
section
/-! DEFINITION. The service cores: the Xumak words (R314), the exceptions they take, and the fetch of a service core.

The manual gives the words, their mcause and mtval; the trap itself, the registers and the length of an instruction are
those of RISC-V (log 5). -/

namespace Sys2Proof.Machine

/-- A register of a service core; x0 reads 0. -/
def RvCore.rd (c : RvCore) (r : Fin 32) : Word := if r = 0 then 0 else Tab.get 0 c.x r.val

/-- Write a register; x0 discards. -/
def RvCore.wr (c : RvCore) (r : Fin 32) (v : Word) : RvCore := if r = 0 then c else { c with x := Tab.set 0 c.x r.val v }

/-- The service core that executes. -/
def State.svcCore (s : State) : RvCore := Tab.get RvCore.reset s.service.cores s.svc.val

/-- Change the service core that executes. -/
def State.updSvc (s : State) (f : RvCore → RvCore) : State :=
  { s with service := { s.service with cores := Tab.upd RvCore.reset s.service.cores s.svc.val f } }

/-- TAKE AN EXCEPTION on a service core: mepc, mcause, mtval; MPIE := MIE, MIE := 0, MPP := the mode; machine mode at
the base of mtvec. -/
def RvCore.trap (c : RvCore) (cause : Nat) (val : Word) : RvCore :=
  let mie := fieldOf c.mstatus 3 1
  let mpp := if c.machine then 3 else 0
  let kept := c.mstatus &&& ~~~(0x1888 : Word)
  { c with mepc := c.pc, mcause := BitVec.ofNat 64 cause, mtval := val,
           mstatus := kept ||| BitVec.ofNat 64 (mie * 2 ^ 7 + mpp * 2 ^ 11), machine := true,
           pc := c.mtvec &&& ~~~(3 : Word), held := false, desc := [] }

/-- The exception of the service core that executes. -/
def State.svcTrap (s : State) (cause : Nat) (val : Word) : State := s.updSvc (·.trap cause val)

/-- A Xumak word completes with a result. -/
def State.svcDone (s : State) (d : Fin 32) (v : Word) : State :=
  s.updSvc (fun c => { c.wr d v with pc := c.pc + 4, held := false, desc := [] })

/-- RFETCH: the address of the next unfetched entry, and the head moves on; 0 for a queue that is empty, halted or
not enabled. -/
def execRfetch (d a _b : Fin 32) (s : State) : Host.Outcome State Fault Refusal :=
  let n := s.svcCore.rd a
  if 143 < n.toNat then ok (s.svcTrap 24 n)
  else
    let h := s.queue n.toNat
    if h.head = h.tail ∨ h.halted ∨ !h.en then ok (s.svcDone d 0)
    else
      ok ((s.updQueue n.toNat (fun h => { h with head := (h.head + 1) % h.size })).svcDone d
        (h.sqbase + BitVec.ofNat 64 (64 * h.head)))

/-- BFXT. -/
def execBfxt (d a b : Fin 32) (s : State) : Host.Outcome State Fault Refusal :=
  let v := s.svcCore.rd b
  let lsb := fieldOf v 0 6
  let w := fieldOf v 6 6 + 1
  if 64 < lsb + w then ok (s.svcTrap 25 v)
  else ok (s.svcDone d ((s.svcCore.rd a >>> lsb) &&& BitVec.ofNat 64 (2 ^ w - 1)))

/-- SIGW: the word stays until its line is raised. -/
def execSigw (d a _b : Fin 32) (s : State) : Host.Outcome State Fault Refusal :=
  let n := s.svcCore.rd a
  if 255 < n.toNat then ok (s.svcTrap 26 n)
  else match Tab.get none s.service.lines n.toNat with
    | none => ok s
    | some v =>
      ok (({ s with service := { s.service with lines := Tab.set none s.service.lines n.toNat none } }).svcDone d v)

/-- A DSPT waits, with the descriptor that it has read. -/
def State.holdDspt (s : State) (td : List Word) (counted : Bool) : State :=
  s.updSvc (fun c => { c with held := c.held || counted, desc := td })

/-- The submission of DSPT: the R230 code, or 0 with the identifier; none while it waits at a quota, where THROT counts
the holding once, or for a page (R179, R224). The descriptor is read once (R229). -/
def State.dispatch (s : State) (dpa ctx : Nat) : State × Option Word :=
  let td := if s.svcCore.desc ≠ [] then s.svcCore.desc else descWords (s.readFinal { host := false, a := dpa } 128)
  let sub : Submitter := { ctx := ctx, priv := true, host := true, stream := none, job := none, multi := none }
  let who : Plain := .service s.svc.val
  let read : State := (s.plainDone who).noteSub td ctx
  if dpaTop < dpa + 128 then (s, some 1)
  else if (s.plainWaits who ctx).isSome then (s, none)
  else match s.checkSub td 0 sub with
    | .refuse n _ => (read, some (BitVec.ofNat 64 n))
    | .miss m =>
      (match s.subMiss who ctx m with
        | .inl (code, _) => (s.plainDone who, some (BitVec.ofNat 64 code))
        | .inr s1 => (s1.holdDspt td false, none))
    | .ok img futs =>
      if s.quotaOk (s.ctxTenant ctx) td (s.unresolved futs).length then
        let job : Job := { count := 1, queue := none, remote := none, tag := 0, ctx := ctx,
                           fq := Config.remoteFaultQueue s.tick 0, htask := false, written := 0, waiting := [] }
        let (s1, id) := read.accept td sub img futs (some job)
        (s1, some (id.setWidth 64 <<< 32))
      else if s.svcCore.held then (s.holdDspt td true, none)
      else ((s.holdDspt td true).addThrot (s.ctxTenant ctx), none)

/-- DSPT. -/
def execDspt (d a b : Fin 32) (s : State) : Host.Outcome State Fault Refusal :=
  let p := s.svcCore.rd a
  let c := s.svcCore.rd b
  if p.toNat % 64 ≠ 0 then ok (s.svcTrap 27 p)
  else if 127 < c.toNat then ok (s.svcTrap 27 c)
  else match s.dispatch p.toNat c.toNat with
    | (s1, some v) => ok (s1.svcDone d v)
    | (s1, none) => ok s1

/-! ### The fetch of a service core -/

/-- What a service core fetches: a Xumak word, an illegal word of custom-0, a word of the base set, or a byte that
nothing has written. -/
inductive SvcFetch where
  | xumak (i : Instr)
  | illegal (w : BitVec 32)
  | base (w : BitVec 32)
  | unwritten

/-- The bytes of service memory from an address. -/
def State.svcBytes (s : State) (pc : Word) (n : Nat) : Option (List Byte) :=
  (List.range n).mapM (fun i => Tab.get none s.service.mem (pc + BitVec.ofNat 64 i).toNat)

/-- The fetch at the program counter: 4 bytes, or 2 when the low two bits are not 11 (a compressed word). -/
def State.svcFetch (s : State) : SvcFetch :=
  match s.svcBytes s.svcCore.pc 2 with
  | none => .unwritten
  | some bs =>
    if leNat bs % 4 ≠ 3 then .base (BitVec.ofNat 32 (leNat bs))
    else match s.svcBytes s.svcCore.pc 4 with
      | none => .unwritten
      | some bs4 =>
        let w := BitVec.ofNat 32 (leNat bs4)
        match decodeXumak w with
        | some i => .xumak i
        | none => if (w &&& 0x7F) = 0x0B then .illegal w else .base w

/-! ### The fetch of a sequencer (R59, R77, R83) -/

/-- What a sequencer finds at its program counter. -/
inductive SeqFetch where
  /-- It issues nothing now. -/
  | none
  /-- A fault of the fetch or of the word. -/
  | fault (t : Trap)
  /-- A word. -/
  | word (i : Instr)

/-- The opcodes of MXMULS, which FEATW0.SPARSE gates (R319). -/
def sparseOpcode (opc : BitVec 9) : Bool := decide (0x158 ≤ opc.toNat) && decide (opc.toNat < 0x158 + mxsPairs.length)

/-- The checks of R83 on a word in their order: an assigned opcode, a sequencer that may run it, legal fields. -/
def checkWord (w : Word80) (sparse : Bool) (q : SeqId) : SeqFetch :=
  let opc : BitVec 9 := (Fields.unpack w).opc
  if !assigned opc || (sparseOpcode opc && !sparse) then .fault (trapOf .illegalOpcode)
  else if !permitted opc q then .fault (trapOf .seqClass)
  else match decodeWord w with
    | some i => .word i
    | none => .fault (trapOf .illegalField)

/-- The fetch of the agent that issues. -/
def State.seqFetch (s : State) : SeqFetch :=
  match s.canIssue s.cur with
  | none => .none
  | some (t, c) =>
    let pc := (c.seq s.cur.q).pc.toNat
    if t.image.holds s.cur.q pc then checkWord (s.codeWord t pc) s.sparseOn s.cur.q
    else .fault (trapOf .illegalOpcode)

/-! ### Turns -/

/-- The turn that comes next: the head of the agenda, or the scheduler's choice. -/
def State.nextTurn (s : State) : Turn :=
  match s.agenda with
  | t :: _ => t
  | [] => Config.schedule s.tick

/-- The state in which a turn is taken: the waits of the lists' heads count from the moment at which they became so (R73). -/
def State.begin (s : State) : State := State.markHeads { s with agenda := s.agenda.tail, tick := s.tick + 1 }

/-- The line that leaves a home slice when it makes room: one held under STREAM leaves before any other (R173). -/
def State.evicted (s : State) (line : Nat) : Nat :=
  let sl := homeSlice { host := false, a := line * 64 }
  let mine := s.m.stream.filter (fun l => decide (homeSlice { host := false, a := l * 64 } = sl))
  if mine.contains line then line else mine.headD line

/-- A line leaves its home slice: its records are cleared (R196). -/
def State.evictLine (s : State) (line : Nat) : State :=
  let l := s.evicted line
  { s with m := { s.m with races := Tab.del l s.m.races, stream := s.m.stream.filter (· ≠ l) } }

/-- The host or a peer device reads device memory, which clears the records of its granules (R196). -/
def State.hostRead (s : State) (dpa n : Nat) : State :=
  if (s.ports.host ∨ s.ports.peer) ∧ dpa + n ≤ dpaTop then
    s.updRaces (granules dpa n) (fun r _ => { r with w := [], r := [] })
  else s

/-- The step of a device or host action has no instruction word. -/
def isEvent (i : Instr) : Bool := (encodeFields i).isNone && (encodeXumak i).isNone

end Sys2Proof.Machine
end

