-- ==== Sys2Proof/Machine/Dispatch.lean ====
section
/-! DEFINITION. The meaning of each constructor of `Instr`, one arm each. -/

namespace Sys2Proof.Machine

def exec (i : Instr) (s : State) : Host.Outcome State Fault Refusal :=
  match i with
  | .addReg a0 a1 a2 a3 => Sys2Proof.Machine.execAddReg a0 a1 a2 a3 s
  | .addImm a0 a1 a2 a3 => Sys2Proof.Machine.execAddImm a0 a1 a2 a3 s
  | .sub a0 a1 a2 a3 => Sys2Proof.Machine.execSub a0 a1 a2 a3 s
  | .mulReg a0 a1 a2 a3 => Sys2Proof.Machine.execMulReg a0 a1 a2 a3 s
  | .mulImm a0 a1 a2 a3 => Sys2Proof.Machine.execMulImm a0 a1 a2 a3 s
  | .mulh a0 a1 a2 a3 => Sys2Proof.Machine.execMulh a0 a1 a2 a3 s
  | .mulhU a0 a1 a2 a3 => Sys2Proof.Machine.execMulhU a0 a1 a2 a3 s
  | .divu a0 a1 a2 a3 a4 => Sys2Proof.Machine.execDivu a0 a1 a2 a3 a4 s
  | .remu a0 a1 a2 a3 a4 => Sys2Proof.Machine.execRemu a0 a1 a2 a3 a4 s
  | .andReg a0 a1 a2 a3 => Sys2Proof.Machine.execAndReg a0 a1 a2 a3 s
  | .andImm a0 a1 a2 a3 => Sys2Proof.Machine.execAndImm a0 a1 a2 a3 s
  | .orReg a0 a1 a2 a3 => Sys2Proof.Machine.execOrReg a0 a1 a2 a3 s
  | .orImm a0 a1 a2 a3 => Sys2Proof.Machine.execOrImm a0 a1 a2 a3 s
  | .xorReg a0 a1 a2 a3 => Sys2Proof.Machine.execXorReg a0 a1 a2 a3 s
  | .xorImm a0 a1 a2 a3 => Sys2Proof.Machine.execXorImm a0 a1 a2 a3 s
  | .shlReg a0 a1 a2 a3 => Sys2Proof.Machine.execShlReg a0 a1 a2 a3 s
  | .shlImm a0 a1 a2 a3 => Sys2Proof.Machine.execShlImm a0 a1 a2 a3 s
  | .shrReg a0 a1 a2 a3 => Sys2Proof.Machine.execShrReg a0 a1 a2 a3 s
  | .shrImm a0 a1 a2 a3 => Sys2Proof.Machine.execShrImm a0 a1 a2 a3 s
  | .sarReg a0 a1 a2 a3 => Sys2Proof.Machine.execSarReg a0 a1 a2 a3 s
  | .sarImm a0 a1 a2 a3 => Sys2Proof.Machine.execSarImm a0 a1 a2 a3 s
  | .sltReg a0 a1 a2 a3 => Sys2Proof.Machine.execSltReg a0 a1 a2 a3 s
  | .sltImm a0 a1 a2 a3 => Sys2Proof.Machine.execSltImm a0 a1 a2 a3 s
  | .sltuReg a0 a1 a2 a3 => Sys2Proof.Machine.execSltuReg a0 a1 a2 a3 s
  | .sltuImm a0 a1 a2 a3 => Sys2Proof.Machine.execSltuImm a0 a1 a2 a3 s
  | .seqReg a0 a1 a2 a3 => Sys2Proof.Machine.execSeqReg a0 a1 a2 a3 s
  | .seqImm a0 a1 a2 a3 => Sys2Proof.Machine.execSeqImm a0 a1 a2 a3 s
  | .min a0 a1 a2 a3 => Sys2Proof.Machine.execMin a0 a1 a2 a3 s
  | .minU a0 a1 a2 a3 => Sys2Proof.Machine.execMinU a0 a1 a2 a3 s
  | .max a0 a1 a2 a3 => Sys2Proof.Machine.execMax a0 a1 a2 a3 s
  | .maxU a0 a1 a2 a3 => Sys2Proof.Machine.execMaxU a0 a1 a2 a3 s
  | .mov a0 a1 a2 => Sys2Proof.Machine.execMov a0 a1 a2 s
  | .li a0 a1 a2 => Sys2Proof.Machine.execLi a0 a1 a2 s
  | .lih a0 a1 a2 => Sys2Proof.Machine.execLih a0 a1 a2 s
  | .sel a0 a1 a2 a3 a4 => Sys2Proof.Machine.execSel a0 a1 a2 a3 a4 s
  | .bfx a0 a1 a2 a3 a4 => Sys2Proof.Machine.execBfx a0 a1 a2 a3 a4 s
  | .bfxS a0 a1 a2 a3 a4 => Sys2Proof.Machine.execBfxS a0 a1 a2 a3 a4 s
  | .bfi a0 a1 a2 a3 a4 => Sys2Proof.Machine.execBfi a0 a1 a2 a3 a4 s
  | .clz a0 a1 a2 => Sys2Proof.Machine.execClz a0 a1 a2 s
  | .ctz a0 a1 a2 => Sys2Proof.Machine.execCtz a0 a1 a2 s
  | .popc a0 a1 a2 => Sys2Proof.Machine.execPopc a0 a1 a2 s
  | .madd a0 a1 a2 a3 a4 => Sys2Proof.Machine.execMadd a0 a1 a2 a3 a4 s
  | .b a0 a1 => Sys2Proof.Machine.execB a0 a1 s
  | .bcEq a0 a1 a2 a3 => Sys2Proof.Machine.execBcEq a0 a1 a2 a3 s
  | .bcNe a0 a1 a2 a3 => Sys2Proof.Machine.execBcNe a0 a1 a2 a3 s
  | .bcLt a0 a1 a2 a3 => Sys2Proof.Machine.execBcLt a0 a1 a2 a3 s
  | .bcGe a0 a1 a2 a3 => Sys2Proof.Machine.execBcGe a0 a1 a2 a3 s
  | .bcLtu a0 a1 a2 a3 => Sys2Proof.Machine.execBcLtu a0 a1 a2 a3 s
  | .bcGeu a0 a1 a2 a3 => Sys2Proof.Machine.execBcGeu a0 a1 a2 a3 s
  | .call a0 a1 => Sys2Proof.Machine.execCall a0 a1 s
  | .ret a0 => Sys2Proof.Machine.execRet a0 s
  | .jtbl a0 a1 a2 => Sys2Proof.Machine.execJtbl a0 a1 a2 s
  | .lpad a0 a1 => Sys2Proof.Machine.execLpad a0 a1 s
  | .loopReg a0 a1 a2 => Sys2Proof.Machine.execLoopReg a0 a1 a2 s
  | .loopImm a0 a1 a2 => Sys2Proof.Machine.execLoopImm a0 a1 a2 s
  | .nop a0 => Sys2Proof.Machine.execNop a0 s
  | .fork a0 a1 a2 => Sys2Proof.Machine.execFork a0 a1 a2 s
  | .rdv a0 a1 => Sys2Proof.Machine.execRdv a0 a1 s
  | .exit a0 => Sys2Proof.Machine.execExit a0 s
  | .tksig a0 a1 a2 => Sys2Proof.Machine.execTksig a0 a1 a2 s
  | .tkwait a0 a1 a2 => Sys2Proof.Machine.execTkwait a0 a1 a2 s
  | .yield a0 => Sys2Proof.Machine.execYield a0 s
  | .grpend a0 => Sys2Proof.Machine.execGrpend a0 s
  | .trap a0 a1 => Sys2Proof.Machine.execTrap a0 a1 s
  | .ldg a0 a1 a2 a3 a4 a5 => Sys2Proof.Machine.execLdg a0 a1 a2 a3 a4 a5 s
  | .stg a0 a1 a2 a3 a4 => Sys2Proof.Machine.execStg a0 a1 a2 a3 a4 s
  | .ldl a0 a1 a2 a3 a4 a5 => Sys2Proof.Machine.execLdl a0 a1 a2 a3 a4 a5 s
  | .stl a0 a1 a2 a3 a4 => Sys2Proof.Machine.execStl a0 a1 a2 a3 a4 s
  | .agset a0 a1 a2 a3 => Sys2Proof.Machine.execAgset a0 a1 a2 a3 s
  | .agget a0 a1 a2 a3 => Sys2Proof.Machine.execAgget a0 a1 a2 a3 s
  | .sload a0 a1 => Sys2Proof.Machine.execSload a0 a1 s
  | .sstore a0 a1 => Sys2Proof.Machine.execSstore a0 a1 s
  | .sadv a0 a1 a2 => Sys2Proof.Machine.execSadv a0 a1 a2 s
  | .prefH a0 a1 a2 => Sys2Proof.Machine.execPrefH a0 a1 a2 s
  | .prefL a0 a1 a2 => Sys2Proof.Machine.execPrefL a0 a1 a2 s
  | .vaddF a0 a1 a2 => Sys2Proof.Machine.execVaddF a0 a1 a2 s
  | .vaddI a0 a1 a2 => Sys2Proof.Machine.execVaddI a0 a1 a2 s
  | .vsubF a0 a1 a2 => Sys2Proof.Machine.execVsubF a0 a1 a2 s
  | .vsubI a0 a1 a2 => Sys2Proof.Machine.execVsubI a0 a1 a2 s
  | .vmulF a0 a1 a2 => Sys2Proof.Machine.execVmulF a0 a1 a2 s
  | .vmulI a0 a1 a2 => Sys2Proof.Machine.execVmulI a0 a1 a2 s
  | .vminF a0 a1 a2 => Sys2Proof.Machine.execVminF a0 a1 a2 s
  | .vminI a0 a1 a2 => Sys2Proof.Machine.execVminI a0 a1 a2 s
  | .vmaxF a0 a1 a2 => Sys2Proof.Machine.execVmaxF a0 a1 a2 s
  | .vmaxI a0 a1 a2 => Sys2Proof.Machine.execVmaxI a0 a1 a2 s
  | .vabsF a0 => Sys2Proof.Machine.execVabsF a0 s
  | .vabsI a0 => Sys2Proof.Machine.execVabsI a0 s
  | .vnegF a0 => Sys2Proof.Machine.execVnegF a0 s
  | .vnegI a0 => Sys2Proof.Machine.execVnegI a0 s
  | .vclampF a0 a1 a2 a3 => Sys2Proof.Machine.execVclampF a0 a1 a2 a3 s
  | .vclampI a0 a1 a2 a3 => Sys2Proof.Machine.execVclampI a0 a1 a2 a3 s
  | .vcmpF a0 a1 a2 a3 => Sys2Proof.Machine.execVcmpF a0 a1 a2 a3 s
  | .vcmpI a0 a1 a2 a3 => Sys2Proof.Machine.execVcmpI a0 a1 a2 a3 s
  | .vfma a0 a1 a2 a3 a4 => Sys2Proof.Machine.execVfma a0 a1 a2 a3 a4 s
  | .vfms a0 a1 a2 a3 a4 => Sys2Proof.Machine.execVfms a0 a1 a2 a3 a4 s
  | .vfnma a0 a1 a2 a3 a4 => Sys2Proof.Machine.execVfnma a0 a1 a2 a3 a4 s
  | .vminnum a0 a1 a2 => Sys2Proof.Machine.execVminnum a0 a1 a2 s
  | .vmaxnum a0 a1 a2 => Sys2Proof.Machine.execVmaxnum a0 a1 a2 s
  | .vsel a0 a1 a2 a3 => Sys2Proof.Machine.execVsel a0 a1 a2 a3 s
  | .vand a0 a1 a2 => Sys2Proof.Machine.execVand a0 a1 a2 s
  | .vor a0 a1 a2 => Sys2Proof.Machine.execVor a0 a1 a2 s
  | .vxor a0 a1 a2 => Sys2Proof.Machine.execVxor a0 a1 a2 s
  | .vshl a0 a1 a2 => Sys2Proof.Machine.execVshl a0 a1 a2 s
  | .vshr a0 a1 a2 => Sys2Proof.Machine.execVshr a0 a1 a2 s
  | .vsar a0 a1 a2 => Sys2Proof.Machine.execVsar a0 a1 a2 s
  | .vmov a0 => Sys2Proof.Machine.execVmov a0 s
  | .vbcast a0 a1 a2 => Sys2Proof.Machine.execVbcast a0 a1 a2 s
  | .vfill a0 a1 a2 a3 => Sys2Proof.Machine.execVfill a0 a1 a2 a3 s
  | .vscale a0 a1 a2 => Sys2Proof.Machine.execVscale a0 a1 a2 s
  | .vrnd a0 => Sys2Proof.Machine.execVrnd a0 s
  | .vaddFs a0 a1 => Sys2Proof.Machine.execVaddFs a0 a1 s
  | .vsubFs a0 a1 => Sys2Proof.Machine.execVsubFs a0 a1 s
  | .vmulFs a0 a1 => Sys2Proof.Machine.execVmulFs a0 a1 s
  | .vminFs a0 a1 => Sys2Proof.Machine.execVminFs a0 a1 s
  | .vmaxFs a0 a1 => Sys2Proof.Machine.execVmaxFs a0 a1 s
  | .vfmaFs a0 a1 a2 a3 => Sys2Proof.Machine.execVfmaFs a0 a1 a2 a3 s
  | .vaddIs a0 a1 => Sys2Proof.Machine.execVaddIs a0 a1 s
  | .vmulIs a0 a1 => Sys2Proof.Machine.execVmulIs a0 a1 s
  | .vmaxIs a0 a1 => Sys2Proof.Machine.execVmaxIs a0 a1 s
  | .vminIs a0 a1 => Sys2Proof.Machine.execVminIs a0 a1 s
  | .vcvt a0 a1 => Sys2Proof.Machine.execVcvt a0 a1 s
  | .vqnt a0 a1 a2 => Sys2Proof.Machine.execVqnt a0 a1 a2 s
  | .vdqnt a0 a1 => Sys2Proof.Machine.execVdqnt a0 a1 s
  | .vexp2 a0 => Sys2Proof.Machine.execVexp2 a0 s
  | .vlog2 a0 => Sys2Proof.Machine.execVlog2 a0 s
  | .vrcp a0 => Sys2Proof.Machine.execVrcp a0 s
  | .vrsq a0 => Sys2Proof.Machine.execVrsq a0 s
  | .vtanh a0 => Sys2Proof.Machine.execVtanh a0 s
  | .vrmax a0 a1 => Sys2Proof.Machine.execVrmax a0 a1 s
  | .vrmin a0 a1 => Sys2Proof.Machine.execVrmin a0 a1 s
  | .vrsum a0 a1 => Sys2Proof.Machine.execVrsum a0 a1 s
  | .vcsum a0 a1 => Sys2Proof.Machine.execVcsum a0 a1 s
  | .vcmax a0 a1 => Sys2Proof.Machine.execVcmax a0 a1 s
  | .vtrn a0 => Sys2Proof.Machine.execVtrn a0 s
  | .vlut a0 a1 a2 => Sys2Proof.Machine.execVlut a0 a1 a2 s
  | .cbld a0 a1 a2 a3 => Sys2Proof.Machine.execCbld a0 a1 a2 a3 s
  | .tshape a0 a1 a2 => Sys2Proof.Machine.execTshape a0 a1 a2 s
  | .tshget a0 a1 a2 a3 => Sys2Proof.Machine.execTshget a0 a1 a2 a3 s
  | .tagResultLands a0 a1 a2 a3 => Sys2Proof.Machine.execTagResultLands a0 a1 a2 a3 s
  | .mxmul a0 => Sys2Proof.Machine.execMxmul a0 s
  | .mxmuls a0 => Sys2Proof.Machine.execMxmuls a0 s
  | .mxzero a0 a1 a2 a3 => Sys2Proof.Machine.execMxzero a0 a1 a2 a3 s
  | .mxwr a0 a1 a2 a3 => Sys2Proof.Machine.execMxwr a0 a1 a2 a3 s
  | .mxrd a0 a1 a2 a3 => Sys2Proof.Machine.execMxrd a0 a1 a2 a3 s
  | .mxepi a0 a1 => Sys2Proof.Machine.execMxepi a0 a1 s
  | .mxmulExec a0 a1 => Sys2Proof.Machine.execMxmulExec a0 a1 s
  | .mxmulsExec a0 a1 => Sys2Proof.Machine.execMxmulsExec a0 a1 s
  | .mxzeroExec a0 a1 => Sys2Proof.Machine.execMxzeroExec a0 a1 s
  | .mxwrExec a0 a1 => Sys2Proof.Machine.execMxwrExec a0 a1 s
  | .mxrdExec a0 a1 => Sys2Proof.Machine.execMxrdExec a0 a1 s
  | .mxepiExec a0 a1 => Sys2Proof.Machine.execMxepiExec a0 a1 s
  | .cpg2l a0 a1 => Sys2Proof.Machine.execCpg2l a0 a1 s
  | .cpl2g a0 a1 => Sys2Proof.Machine.execCpl2g a0 a1 s
  | .cpl2l a0 a1 a2 => Sys2Proof.Machine.execCpl2l a0 a1 a2 s
  | .cpbc a0 a1 => Sys2Proof.Machine.execCpbc a0 a1 s
  | .cpfillL a0 => Sys2Proof.Machine.execCpfillL a0 s
  | .cpfillG a0 => Sys2Proof.Machine.execCpfillG a0 s
  | .cpmeta a0 a1 a2 => Sys2Proof.Machine.execCpmeta a0 a1 a2 s
  | .copyStart a0 a1 => Sys2Proof.Machine.execCopyStart a0 a1 s
  | .copyPiece a0 a1 a2 => Sys2Proof.Machine.execCopyPiece a0 a1 a2 s
  | .cpmetaEntry a0 a1 a2 => Sys2Proof.Machine.execCpmetaEntry a0 a1 a2 s
  | .semsigImm a0 a1 a2 => Sys2Proof.Machine.execSemsigImm a0 a1 a2 s
  | .semsigReg a0 a1 a2 => Sys2Proof.Machine.execSemsigReg a0 a1 a2 s
  | .semwaitImm a0 a1 a2 => Sys2Proof.Machine.execSemwaitImm a0 a1 a2 s
  | .semwaitReg a0 a1 a2 => Sys2Proof.Machine.execSemwaitReg a0 a1 a2 s
  | .semget a0 a1 a2 => Sys2Proof.Machine.execSemget a0 a1 a2 s
  | .barexp a0 a1 a2 => Sys2Proof.Machine.execBarexp a0 a1 a2 s
  | .barwait a0 a1 a2 => Sys2Proof.Machine.execBarwait a0 a1 a2 s
  | .bartest a0 a1 a2 a3 => Sys2Proof.Machine.execBartest a0 a1 a2 a3 s
  | .gbar a0 => Sys2Proof.Machine.execGbar a0 s
  | .atom a0 a1 a2 a3 a4 a5 a6 a7 a8 => Sys2Proof.Machine.execAtom a0 a1 a2 a3 a4 a5 a6 a7 a8 s
  | .atcas a0 a1 a2 a3 a4 a5 a6 a7 a8 => Sys2Proof.Machine.execAtcas a0 a1 a2 a3 a4 a5 a6 a7 a8 s
  | .atomicAtSlice a0 => Sys2Proof.Machine.execAtomicAtSlice a0 s
  | .storeApply a0 a1 a2 => Sys2Proof.Machine.execStoreApply a0 a1 a2 s
  | .acct a0 a1 a2 a3 a4 a5 a6 => Sys2Proof.Machine.execAcct a0 a1 a2 a3 a4 a5 a6 s
  | .acctD a0 a1 a2 a3 a4 a5 a6 => Sys2Proof.Machine.execAcctD a0 a1 a2 a3 a4 a5 a6 s
  | .acctPieceArrival a0 a1 a2 => Sys2Proof.Machine.execAcctPieceArrival a0 a1 a2 s
  | .acctPieceApply a0 => Sys2Proof.Machine.execAcctPieceApply a0 s
  | .returnToSender a0 a1 a2 => Sys2Proof.Machine.execReturnToSender a0 a1 a2 s
  | .residualAgeDelivery a0 a1 a2 => Sys2Proof.Machine.execResidualAgeDelivery a0 a1 a2 s
  | .flushresAll a0 => Sys2Proof.Machine.execFlushresAll a0 s
  | .flushresOne a0 a1 => Sys2Proof.Machine.execFlushresOne a0 a1 s
  | .waita a0 a1 a2 a3 a4 a5 a6 a7 => Sys2Proof.Machine.execWaita a0 a1 a2 a3 a4 a5 a6 a7 s
  | .waitaTimeout a0 => Sys2Proof.Machine.execWaitaTimeout a0 s
  | .fenceAcq a0 a1 => Sys2Proof.Machine.execFenceAcq a0 a1 s
  | .fenceRel a0 a1 => Sys2Proof.Machine.execFenceRel a0 a1 s
  | .fenceAr a0 a1 => Sys2Proof.Machine.execFenceAr a0 a1 s
  | .futres a0 a1 a2 => Sys2Proof.Machine.execFutres a0 a1 a2 s
  | .futwait a0 a1 a2 => Sys2Proof.Machine.execFutwait a0 a1 a2 s
  | .tsubmit a0 a1 a2 => Sys2Proof.Machine.execTsubmit a0 a1 a2 s
  | .tsubmitF a0 a1 a2 a3 => Sys2Proof.Machine.execTsubmitF a0 a1 a2 a3 s
  | .dlset a0 a1 a2 a3 => Sys2Proof.Machine.execDlset a0 a1 a2 a3 s
  | .dlchk a0 a1 => Sys2Proof.Machine.execDlchk a0 a1 s
  | .stepend a0 => Sys2Proof.Machine.execStepend a0 s
  | .frput a0 a1 => Sys2Proof.Machine.execFrput a0 a1 s
  | .frpub a0 a1 => Sys2Proof.Machine.execFrpub a0 a1 s
  | .frget a0 a1 => Sys2Proof.Machine.execFrget a0 a1 s
  | .frrel a0 a1 => Sys2Proof.Machine.execFrrel a0 a1 s
  | .kvapp a0 a1 => Sys2Proof.Machine.execKvapp a0 a1 s
  | .kvpin a0 a1 => Sys2Proof.Machine.execKvpin a0 a1 s
  | .kvunpin a0 a1 => Sys2Proof.Machine.execKvunpin a0 a1 s
  | .eqpush a0 a1 a2 a3 a4 a5 a6 a7 => Sys2Proof.Machine.execEqpush a0 a1 a2 a3 a4 a5 a6 a7 s
  | .pwracqImm a0 a1 => Sys2Proof.Machine.execPwracqImm a0 a1 s
  | .pwracqReg a0 a1 => Sys2Proof.Machine.execPwracqReg a0 a1 s
  | .pwrrel a0 => Sys2Proof.Machine.execPwrrel a0 s
  | .lksend a0 a1 a2 a3 => Sys2Proof.Machine.execLksend a0 a1 a2 a3 s
  | .lkred a0 a1 a2 a3 a4 => Sys2Proof.Machine.execLkred a0 a1 a2 a3 a4 s
  | .csrr a0 a1 a2 => Sys2Proof.Machine.execCsrr a0 a1 a2 s
  | .csrw a0 a1 a2 => Sys2Proof.Machine.execCsrw a0 a1 a2 s
  | .csrs a0 a1 a2 => Sys2Proof.Machine.execCsrs a0 a1 a2 s
  | .csrc a0 a1 a2 => Sys2Proof.Machine.execCsrc a0 a1 a2 s
  | .time a0 a1 => Sys2Proof.Machine.execTime a0 a1 s
  | .rfetch a0 a1 a2 => Sys2Proof.Machine.execRfetch a0 a1 a2 s
  | .bfxt a0 a1 a2 => Sys2Proof.Machine.execBfxt a0 a1 a2 s
  | .sigw a0 a1 a2 => Sys2Proof.Machine.execSigw a0 a1 a2 s
  | .dspt a0 a1 a2 => Sys2Proof.Machine.execDspt a0 a1 a2 s
  | .queuePushAdmit a0 a1 a2 => Sys2Proof.Machine.execQueuePushAdmit a0 a1 a2 s
  | .gangPlacement a0 => Sys2Proof.Machine.execGangPlacement a0 s
  | .spinWindowExpiry a0 => Sys2Proof.Machine.execSpinWindowExpiry a0 s
  | .parkConditionMet a0 => Sys2Proof.Machine.execParkConditionMet a0 s
  | .preemption a0 => Sys2Proof.Machine.execPreemption a0 s
  | .headWaitExpiry a0 a1 => Sys2Proof.Machine.execHeadWaitExpiry a0 a1 s
  | .preload a0 => Sys2Proof.Machine.execPreload a0 s
  | .budgetOver a0 => Sys2Proof.Machine.execBudgetOver a0 s
  | .faultStop a0 => Sys2Proof.Machine.execFaultStop a0 s
  | .faultRecordWrite a0 => Sys2Proof.Machine.execFaultRecordWrite a0 s
  | .handlerResume a0 => Sys2Proof.Machine.execHandlerResume a0 s
  | .handlerRerun a0 => Sys2Proof.Machine.execHandlerRerun a0 s
  | .handlerKill a0 => Sys2Proof.Machine.execHandlerKill a0 s
  | .governorTick => Sys2Proof.Machine.execGovernorTick s
  | .energyOut a0 => Sys2Proof.Machine.execEnergyOut a0 s
  | .opChangeComplete a0 => Sys2Proof.Machine.execOpChangeComplete a0 s
  | .thermal95Crossing a0 a1 => Sys2Proof.Machine.execThermal95Crossing a0 a1 s
  | .thermalRearm a0 a1 => Sys2Proof.Machine.execThermalRearm a0 a1 s
  | .thermal105Crossing a0 a1 => Sys2Proof.Machine.execThermal105Crossing a0 a1 s
  | .thermalHoldRelease a0 a1 => Sys2Proof.Machine.execThermalHoldRelease a0 a1 s
  | .currentClamp a0 a1 => Sys2Proof.Machine.execCurrentClamp a0 a1 s
  | .modulePowerClamp a0 => Sys2Proof.Machine.execModulePowerClamp a0 s
  | .sensor115Stop a0 a1 => Sys2Proof.Machine.execSensor115Stop a0 a1 s
  | .gddrDerateChange a0 => Sys2Proof.Machine.execGddrDerateChange a0 s
  | .eccCorrectable a0 => Sys2Proof.Machine.execEccCorrectable a0 s
  | .eccUncorrectable a0 => Sys2Proof.Machine.execEccUncorrectable a0 s
  | .fabricError a0 a1 a2 => Sys2Proof.Machine.execFabricError a0 a1 a2 s
  | .watchdogExpiry a0 a1 a2 => Sys2Proof.Machine.execWatchdogExpiry a0 a1 a2 s
  | .scrubPass => Sys2Proof.Machine.execScrubPass s
  | .pageResponseSuccess a0 => Sys2Proof.Machine.execPageResponseSuccess a0 s
  | .pageResponseInvalid a0 a1 => Sys2Proof.Machine.execPageResponseInvalid a0 a1 s
  | .pageResponseFailure a0 => Sys2Proof.Machine.execPageResponseFailure a0 s
  | .latePageResponse => Sys2Proof.Machine.execLatePageResponse s
  | .atsInvalidation a0 a1 => Sys2Proof.Machine.execAtsInvalidation a0 a1 s
  | .linkTickDeparture => Sys2Proof.Machine.execLinkTickDeparture s
  | .linkDelivery a0 => Sys2Proof.Machine.execLinkDelivery a0 s
  | .remoteSubmitPacket a0 a1 a2 a3 => Sys2Proof.Machine.execRemoteSubmitPacket a0 a1 a2 a3 s
  | .remoteAnswerPacket a0 a1 => Sys2Proof.Machine.execRemoteAnswerPacket a0 a1 s
  | .letterboxTake a0 => Sys2Proof.Machine.execLetterboxTake a0 s
  | .frameCoded a0 => Sys2Proof.Machine.execFrameCoded a0 s
  | .sqdbWrite a0 a1 a2 => Sys2Proof.Machine.execSqdbWrite a0 a1 a2 s
  | .sqdbReset a0 a1 => Sys2Proof.Machine.execSqdbReset a0 a1 s
  | .cqdbWrite a0 a1 a2 => Sys2Proof.Machine.execCqdbWrite a0 a1 a2 s
  | .queueEnable a0 a1 a2 => Sys2Proof.Machine.execQueueEnable a0 a1 a2 s
  | .queueDisable a0 a1 => Sys2Proof.Machine.execQueueDisable a0 a1 s
  | .commandFetch => Sys2Proof.Machine.execCommandFetch s
  | .multiSubmitRetry => Sys2Proof.Machine.execMultiSubmitRetry s
  | .multiSubmitTimeout => Sys2Proof.Machine.execMultiSubmitTimeout s
  | .completionWrite a0 a1 => Sys2Proof.Machine.execCompletionWrite a0 a1 s
  | .inv1Go a0 => Sys2Proof.Machine.execInv1Go a0 s
  | .inv2Go => Sys2Proof.Machine.execInv2Go s
  | .invalidationComplete a0 a1 => Sys2Proof.Machine.execInvalidationComplete a0 a1 s
  | .frelGo => Sys2Proof.Machine.execFrelGo s
  | .frameReleaseComplete => Sys2Proof.Machine.execFrameReleaseComplete s
  | .keyloadGo => Sys2Proof.Machine.execKeyloadGo s
  | .keyloadComplete => Sys2Proof.Machine.execKeyloadComplete s
  | .eordxWrite a0 a1 a2 a3 => Sys2Proof.Machine.execEordxWrite a0 a1 a2 a3 s
  | .ctxWrite a0 a1 a2 => Sys2Proof.Machine.execCtxWrite a0 a1 a2 s
  | .ctxpWrite a0 a1 => Sys2Proof.Machine.execCtxpWrite a0 a1 s
  | .tqWrite a0 a1 a2 => Sys2Proof.Machine.execTqWrite a0 a1 a2 s
  | .shareWrite a0 a1 => Sys2Proof.Machine.execShareWrite a0 a1 s
  | .partcfgWrite a0 a1 => Sys2Proof.Machine.execPartcfgWrite a0 a1 s
  | .vpsmapWrite a0 a1 => Sys2Proof.Machine.execVpsmapWrite a0 a1 s
  | .pmaxWrite a0 a1 => Sys2Proof.Machine.execPmaxWrite a0 a1 s
  | .pmemWrite a0 a1 => Sys2Proof.Machine.execPmemWrite a0 a1 s
  | .rscarveWrite a0 => Sys2Proof.Machine.execRscarveWrite a0 s
  | .featacc0Write a0 a1 => Sys2Proof.Machine.execFeatacc0Write a0 a1 s
  | .featacc1Write a0 a1 => Sys2Proof.Machine.execFeatacc1Write a0 a1 s
  | .lateprqClear a0 => Sys2Proof.Machine.execLateprqClear a0 s
  | .deverrClear a0 => Sys2Proof.Machine.execDeverrClear a0 s
  | .registerWrite a0 a1 a2 a3 => Sys2Proof.Machine.execRegisterWrite a0 a1 a2 a3 s
  | .vfFreeze a0 => Sys2Proof.Machine.execVfFreeze a0 s
  | .vfImportAck a0 => Sys2Proof.Machine.execVfImportAck a0 s
  | .pgtUpdateConfirm a0 a1 => Sys2Proof.Machine.execPgtUpdateConfirm a0 a1 s
  | .endMarker a0 => Sys2Proof.Machine.execEndMarker a0 s
  | .deviceReset a0 a1 a2 a3 => Sys2Proof.Machine.execDeviceReset a0 a1 a2 a3 s
  | .getVersion => Sys2Proof.Machine.execGetVersion s
  | .getCapabilities => Sys2Proof.Machine.execGetCapabilities s
  | .negotiateAlgorithms => Sys2Proof.Machine.execNegotiateAlgorithms s
  | .getDigests => Sys2Proof.Machine.execGetDigests s
  | .getCertificate => Sys2Proof.Machine.execGetCertificate s
  | .challenge => Sys2Proof.Machine.execChallenge s
  | .getMeasurements => Sys2Proof.Machine.execGetMeasurements s
  | .ownershipTransfer a0 a1 => Sys2Proof.Machine.execOwnershipTransfer a0 a1 s
  | .recoveryCommand a0 a1 => Sys2Proof.Machine.execRecoveryCommand a0 a1 s
  | .portLinkTraining a0 a1 => Sys2Proof.Machine.execPortLinkTraining a0 a1 s
  | .inboundPcieWrite a0 a1 a2 => Sys2Proof.Machine.execInboundPcieWrite a0 a1 a2 s
  | .signalLineRaise a0 a1 => Sys2Proof.Machine.execSignalLineRaise a0 a1 s
  | .frankingQuotaAddition a0 a1 => Sys2Proof.Machine.execFrankingQuotaAddition a0 a1 s
  | .priReenable a0 => Sys2Proof.Machine.execPriReenable a0 s

end Sys2Proof.Machine
end

