-- ==== Sys2Proof/Machine/Rv.lean ====
section
/-! DEFINITION. The base words of the service cores. R314 gives the service cores the set RV64IMAC with machine and user
mode and describes none of its words: their encodings and effects here are those of RISC-V (log 5). -/

namespace Sys2Proof.Machine

/-! ### The words -/

/-- What the arithmetic words compute. -/
inductive RvAlu where
  | add | sub | sll | slt | sltu | xor | srl | sra | or | and
  | mul | mulh | mulhsu | mulhu | div | divu | rem | remu
  deriving DecidableEq, Repr

/-- The conditions of the branches. -/
inductive RvCond where
  | eq | ne | lt | ge | ltu | geu
  deriving DecidableEq, Repr

/-- What the atomic words put in memory. -/
inductive RvAmo where
  | swap | add | xor | and | or | min | max | minu | maxu
  deriving DecidableEq, Repr

/-- What the CSR words do with the old value. -/
inductive RvCsrOp where
  | write | set | clear
  deriving DecidableEq, Repr

/-- The source of a CSR word: a register, or the five bits of its place. -/
inductive RvCsrSrc where
  | reg (r : Fin 32)
  | imm (v : Fin 32)
  deriving DecidableEq, Repr

/-- A word of RV64IMAC. Sizes are in bytes; `narrow` marks the words of 32-bit operands. -/
inductive RvInstr where
  | lui (d : Fin 32) (imm : Word)
  | auipc (d : Fin 32) (imm : Word)
  | jal (d : Fin 32) (off : Word)
  | jalr (d a : Fin 32) (off : Word)
  | branch (c : RvCond) (a b : Fin 32) (off : Word)
  | load (size : Nat) (signed : Bool) (d a : Fin 32) (off : Word)
  | store (size : Nat) (a b : Fin 32) (off : Word)
  | aluImm (op : RvAlu) (narrow : Bool) (d a : Fin 32) (imm : Word)
  | alu (op : RvAlu) (narrow : Bool) (d a b : Fin 32)
  | loadReserved (size : Nat) (d a : Fin 32)
  | storeConditional (size : Nat) (d a b : Fin 32)
  | amo (op : RvAmo) (size : Nat) (d a b : Fin 32)
  | csr (op : RvCsrOp) (d : Fin 32) (src : RvCsrSrc) (n : Nat)
  | fence
  | wfi
  | ecall
  | ebreak
  | mret
  deriving DecidableEq, Repr

/-! ### Decoding -/

/-- Bits `lo` to `lo + n - 1` of a word. -/
def rvBits (w lo n : Nat) : Nat := w / 2 ^ lo % 2 ^ n

/-- A register number in bits `lo` to `lo + 4`. -/
def rvReg (w lo : Nat) : Fin 32 := Fin.ofNat 32 (rvBits w lo 5)

/-- One of x8 to x15, in three bits. -/
def rvRegC (w lo : Nat) : Fin 32 := Fin.ofNat 32 (8 + rvBits w lo 3)

/-- A number of `n` bits with its sign. -/
def rvSigned (n v : Nat) : Word := (BitVec.ofNat n v).signExtend 64

/-- The immediate of a branch. -/
def rvBranchOff (w : Nat) : Word :=
  rvSigned 13 (rvBits w 31 1 * 2 ^ 12 + rvBits w 7 1 * 2 ^ 11 + rvBits w 25 6 * 2 ^ 5 + rvBits w 8 4 * 2)

/-- The immediate of JAL. -/
def rvJumpOff (w : Nat) : Word :=
  rvSigned 21 (rvBits w 31 1 * 2 ^ 20 + rvBits w 12 8 * 2 ^ 12 + rvBits w 20 1 * 2 ^ 11 + rvBits w 21 10 * 2)

/-- The condition of a branch's funct3. -/
def rvCond : Nat → Option RvCond
  | 0 => some .eq
  | 1 => some .ne
  | 4 => some .lt
  | 5 => some .ge
  | 6 => some .ltu
  | 7 => some .geu
  | _ => none

/-- The base operation of a funct3. -/
def rvAluOp (f3 : Nat) : RvAlu := [.add, .sll, .slt, .sltu, .xor, .srl, .or, .and].getD f3 .add

/-- The operation of a register word, by funct7 and funct3. -/
def rvRegOp (narrow : Bool) (f7 f3 : Nat) : Option RvAlu :=
  if f7 = 0 then
    if narrow && !([0, 1, 5].contains f3) then none else some (rvAluOp f3)
  else if f7 = 0x20 then
    (if f3 = 0 then some .sub else if f3 = 5 then some .sra else none)
  else if f7 = 1 then
    if narrow && [1, 2, 3].contains f3 then none
    else [.mul, .mulh, .mulhsu, .mulhu, .div, .divu, .rem, .remu][f3]?
  else none

/-- An arithmetic word with an immediate. -/
def rvImmOp (narrow : Bool) (w : Nat) : Option RvInstr :=
  let f3 := rvBits w 12 3
  let d := rvReg w 7
  let a := rvReg w 15
  let lo := if narrow then 5 else 6
  let sh : Word := BitVec.ofNat 64 (rvBits w 20 lo)
  let top := rvBits w (20 + lo) (12 - lo)
  let arith := 2 ^ (10 - lo)
  if f3 = 1 then (if top = 0 then some (.aluImm .sll narrow d a sh) else none)
  else if f3 = 5 then
    if top = 0 then some (.aluImm .srl narrow d a sh)
    else if top = arith then some (.aluImm .sra narrow d a sh) else none
  else if narrow && f3 != 0 then none
  else some (.aluImm (rvAluOp f3) narrow d a (rvSigned 12 (rvBits w 20 12)))

/-- A word of the atomic opcode. -/
def rvAtomic (w : Nat) : Option RvInstr :=
  let f3 := rvBits w 12 3
  let d := rvReg w 7
  let a := rvReg w 15
  let b := rvReg w 20
  let size := if f3 = 2 then 4 else 8
  let amo (op : RvAmo) : Option RvInstr := some (.amo op size d a b)
  if f3 = 2 ∨ f3 = 3 then
    match rvBits w 27 5 with
    | 0 => amo .add
    | 1 => amo .swap
    | 2 => if b = 0 then some (.loadReserved size d a) else none
    | 3 => some (.storeConditional size d a b)
    | 4 => amo .xor
    | 8 => amo .or
    | 12 => amo .and
    | 16 => amo .min
    | 20 => amo .max
    | 24 => amo .minu
    | 28 => amo .maxu
    | _ => none
  else none

/-- A word of the system opcode. -/
def rvSystem (w : Nat) : Option RvInstr :=
  let f3 := rvBits w 12 3
  let d := rvReg w 7
  let a := rvReg w 15
  let n := rvBits w 20 12
  let op (k : Nat) : RvCsrOp := [.write, .set, .clear].getD (k - 1) .write
  if f3 = 0 then
    if d = 0 ∧ a = 0 then
      match n with
      | 0 => some .ecall
      | 1 => some .ebreak
      | 0x302 => some .mret
      | 0x105 => some .wfi
      | _ => none
    else none
  else if f3 = 4 then none
  else if f3 < 4 then some (.csr (op f3) d (.reg a) n)
  else some (.csr (op (f3 - 4)) d (.imm a) n)

/-- The instruction of a four-byte word; none for a word that RV64IMAC does not have. -/
def decodeRv (w : Nat) : Option RvInstr :=
  let f3 := rvBits w 12 3
  let d := rvReg w 7
  let a := rvReg w 15
  let b := rvReg w 20
  let upper := rvSigned 32 (rvBits w 12 20 * 2 ^ 12)
  let imm := rvSigned 12 (rvBits w 20 12)
  match rvBits w 0 7 with
  | 0x37 => some (.lui d upper)
  | 0x17 => some (.auipc d upper)
  | 0x6F => some (.jal d (rvJumpOff w))
  | 0x67 => if f3 = 0 then some (.jalr d a imm) else none
  | 0x63 => (rvCond f3).map (fun c => .branch c a b (rvBranchOff w))
  | 0x03 => if f3 = 7 then none else some (.load (2 ^ (f3 % 4)) (decide (f3 < 4)) d a imm)
  | 0x23 => if 3 < f3 then none
            else some (.store (2 ^ f3) a b (rvSigned 12 (rvBits w 25 7 * 2 ^ 5 + rvBits w 7 5)))
  | 0x13 => rvImmOp false w
  | 0x1B => rvImmOp true w
  | 0x33 => (rvRegOp false (rvBits w 25 7) f3).map (fun op => .alu op false d a b)
  | 0x3B => (rvRegOp true (rvBits w 25 7) f3).map (fun op => .alu op true d a b)
  | 0x0F => if f3 < 2 then some .fence else none
  | 0x2F => rvAtomic w
  | 0x73 => rvSystem w
  | _ => none

/-- The compressed words of quadrant 0. -/
def decodeC0 (w : Nat) : Option RvInstr :=
  let d := rvRegC w 2
  let a := rvRegC w 7
  let wordOff : Word := BitVec.ofNat 64 (rvBits w 5 1 * 2 ^ 6 + rvBits w 10 3 * 2 ^ 3 + rvBits w 6 1 * 2 ^ 2)
  let longOff : Word := BitVec.ofNat 64 (rvBits w 5 2 * 2 ^ 6 + rvBits w 10 3 * 2 ^ 3)
  let frame := rvBits w 7 4 * 2 ^ 6 + rvBits w 11 2 * 2 ^ 4 + rvBits w 5 1 * 2 ^ 3 + rvBits w 6 1 * 2 ^ 2
  match rvBits w 13 3 with
  | 0 => if frame = 0 then none else some (.aluImm .add false d 2 (BitVec.ofNat 64 frame))
  | 2 => some (.load 4 true d a wordOff)
  | 3 => some (.load 8 true d a longOff)
  | 6 => some (.store 4 a d wordOff)
  | 7 => some (.store 8 a d longOff)
  | _ => none

/-- The arithmetic words of quadrant 1 on x8 to x15. -/
def decodeC1Alu (w : Nat) : Option RvInstr :=
  let d := rvRegC w 7
  let b := rvRegC w 2
  let six := rvBits w 12 1 * 2 ^ 5 + rvBits w 2 5
  match rvBits w 10 2 with
  | 0 => some (.aluImm .srl false d d (BitVec.ofNat 64 six))
  | 1 => some (.aluImm .sra false d d (BitVec.ofNat 64 six))
  | 2 => some (.aluImm .and false d d (rvSigned 6 six))
  | _ =>
    match rvBits w 12 1, rvBits w 5 2 with
    | 0, 0 => some (.alu .sub false d d b)
    | 0, 1 => some (.alu .xor false d d b)
    | 0, 2 => some (.alu .or false d d b)
    | 0, _ => some (.alu .and false d d b)
    | _, 0 => some (.alu .sub true d d b)
    | _, 1 => some (.alu .add true d d b)
    | _, _ => none

/-- The compressed words of quadrant 1. -/
def decodeC1 (w : Nat) : Option RvInstr :=
  let d := rvReg w 7
  let six := rvBits w 12 1 * 2 ^ 5 + rvBits w 2 5
  let jump := rvSigned 12 (rvBits w 12 1 * 2 ^ 11 + rvBits w 8 1 * 2 ^ 10 + rvBits w 9 2 * 2 ^ 8 + rvBits w 6 1 * 2 ^ 7 +
    rvBits w 7 1 * 2 ^ 6 + rvBits w 2 1 * 2 ^ 5 + rvBits w 11 1 * 2 ^ 4 + rvBits w 3 3 * 2)
  let near := rvSigned 9 (rvBits w 12 1 * 2 ^ 8 + rvBits w 5 2 * 2 ^ 6 + rvBits w 2 1 * 2 ^ 5 + rvBits w 10 2 * 2 ^ 3 +
    rvBits w 3 2 * 2)
  let stack := rvBits w 12 1 * 2 ^ 9 + rvBits w 3 2 * 2 ^ 7 + rvBits w 5 1 * 2 ^ 6 + rvBits w 2 1 * 2 ^ 5 +
    rvBits w 6 1 * 2 ^ 4
  match rvBits w 13 3 with
  | 0 => some (.aluImm .add false d d (rvSigned 6 six))
  | 1 => if d = 0 then none else some (.aluImm .add true d d (rvSigned 6 six))
  | 2 => some (.aluImm .add false d 0 (rvSigned 6 six))
  | 3 =>
    if six = 0 then none
    else if d = 2 then some (.aluImm .add false 2 2 (rvSigned 10 stack))
    else some (.lui d (rvSigned 18 (six * 2 ^ 12)))
  | 4 => decodeC1Alu w
  | 5 => some (.jal 0 jump)
  | 6 => some (.branch .eq (rvRegC w 7) 0 near)
  | _ => some (.branch .ne (rvRegC w 7) 0 near)

/-- The compressed words of quadrant 2. -/
def decodeC2 (w : Nat) : Option RvInstr :=
  let d := rvReg w 7
  let b := rvReg w 2
  let six := rvBits w 12 1 * 2 ^ 5 + rvBits w 2 5
  let wordIn : Word := BitVec.ofNat 64 (rvBits w 2 2 * 2 ^ 6 + rvBits w 12 1 * 2 ^ 5 + rvBits w 4 3 * 2 ^ 2)
  let longIn : Word := BitVec.ofNat 64 (rvBits w 2 3 * 2 ^ 6 + rvBits w 12 1 * 2 ^ 5 + rvBits w 5 2 * 2 ^ 3)
  let wordOut : Word := BitVec.ofNat 64 (rvBits w 7 2 * 2 ^ 6 + rvBits w 9 4 * 2 ^ 2)
  let longOut : Word := BitVec.ofNat 64 (rvBits w 7 3 * 2 ^ 6 + rvBits w 10 3 * 2 ^ 3)
  match rvBits w 13 3 with
  | 0 => some (.aluImm .sll false d d (BitVec.ofNat 64 six))
  | 2 => if d = 0 then none else some (.load 4 true d 2 wordIn)
  | 3 => if d = 0 then none else some (.load 8 true d 2 longIn)
  | 4 =>
    if rvBits w 12 1 = 0 then
      if b = 0 then (if d = 0 then none else some (.jalr 0 d 0)) else some (.alu .add false d 0 b)
    else if b = 0 then (if d = 0 then some .ebreak else some (.jalr 1 d 0))
    else some (.alu .add false d d b)
  | 6 => some (.store 4 2 b wordOut)
  | 7 => some (.store 8 2 b longOut)
  | _ => none

/-- The instruction of a two-byte word; none for a word that RV64IMAC does not have. -/
def decodeRvc (w : Nat) : Option RvInstr :=
  match w % 4 with
  | 0 => decodeC0 w
  | 1 => decodeC1 w
  | 2 => decodeC2 w
  | _ => none

/-! ### Arithmetic -/

/-- The result of an arithmetic word on operands of `n` bits. A division by 0 gives all ones, a remainder by 0 the
dividend; shifts take the low bits of their amount. -/
def rvAlu {n : Nat} (op : RvAlu) (a b : BitVec n) : BitVec n :=
  match op with
  | .add => a + b
  | .sub => a - b
  | .sll => a <<< (b.toNat % n)
  | .slt => if a.slt b then 1 else 0
  | .sltu => if a.ult b then 1 else 0
  | .xor => a ^^^ b
  | .srl => a >>> (b.toNat % n)
  | .sra => a.sshiftRight (b.toNat % n)
  | .or => a ||| b
  | .and => a &&& b
  | .mul => a * b
  | .mulh => BitVec.ofInt n (a.toInt * b.toInt / 2 ^ n)
  | .mulhsu => BitVec.ofInt n (a.toInt * b.toNat / 2 ^ n)
  | .mulhu => BitVec.ofNat n (a.toNat * b.toNat / 2 ^ n)
  | .div => if b = 0 then BitVec.allOnes n else a.sdiv b
  | .divu => if b = 0 then BitVec.allOnes n else a / b
  | .rem => if b = 0 then a else a.srem b
  | .remu => if b = 0 then a else a % b

/-- The result of an arithmetic word: a narrow one works on the low 32 bits and gives its result's sign. -/
def rvAluWord (op : RvAlu) (narrow : Bool) (a b : Word) : Word :=
  if narrow then (rvAlu op (a.setWidth 32) (b.setWidth 32)).signExtend 64 else rvAlu op a b

/-- Whether a branch is taken. -/
def rvTaken (c : RvCond) (a b : Word) : Bool :=
  match c with
  | .eq => a == b
  | .ne => a != b
  | .lt => a.slt b
  | .ge => !a.slt b
  | .ltu => a.ult b
  | .geu => !a.ult b

/-- What an atomic word stores, from the old value and its operand. -/
def rvAmo {n : Nat} (op : RvAmo) (old b : BitVec n) : BitVec n :=
  match op with
  | .swap => b
  | .add => old + b
  | .xor => old ^^^ b
  | .and => old &&& b
  | .or => old ||| b
  | .min => if b.slt old then b else old
  | .max => if old.slt b then b else old
  | .minu => if b.ult old then b else old
  | .maxu => if old.ult b then b else old

/-! ### Service memory -/

/-- The address of byte `i` from an address. -/
def svcAddr (a : Word) (i : Nat) : Nat := (a + BitVec.ofNat 64 i).toNat

/-- A byte that a service core reads: a byte that nothing has written is a free value. -/
def State.svcByte (s : State) (a : Nat) : Byte := (Tab.get none s.service.mem a).getD (Config.serviceByte s.tick a)

/-- `n` bytes of service memory, the lowest first. -/
def State.svcRead (s : State) (a : Word) (n : Nat) : Nat :=
  leNat ((List.range n).map (fun i => s.svcByte (svcAddr a i)))

/-- A service core loses its reservation of the granules of 8 bytes from `lo` to `hi`. -/
def RvCore.breakRes (c : RvCore) (lo hi : Word) : RvCore :=
  if c.res = some lo ∨ c.res = some hi then { c with res := none } else c

/-- Write the low `n` bytes of `v` to service memory; the other service cores lose their reservations of them. -/
def State.svcWrite (s : State) (a : Word) (n v : Nat) : State :=
  let mem := (List.range n).foldl
    (fun m i => Tab.set none m (svcAddr a i) (some (BitVec.ofNat 8 (v / 2 ^ (8 * i))))) s.service.mem
  let others := [0, 1, 2, 3].filter (fun k => k != s.svc.val)
  let cores := others.foldl
    (fun t k => Tab.upd RvCore.reset t k (·.breakRes (a >>> 3) ((a + BitVec.ofNat 64 (n - 1)) >>> 3))) s.service.cores
  { s with service := { s.service with mem := mem, cores := cores } }

/-! ### Control and status registers -/

/-- The CSRs that the manual and RISC-V give no value: they read a free value, and a write leaves no trace. -/
def rvFreeCsr (n : Nat) : Bool :=
  [0x301, 0x306, 0x30A, 0x320, 0xF11, 0xF12, 0xF13, 0xF15].contains n ||
  (decide (0x323 ≤ n) && decide (n ≤ 0x33F)) || n == 0xB00 || (decide (0xB02 ≤ n) && decide (n ≤ 0xB1F))

/-- The value of a CSR; none for a CSR that the cores do not have. -/
def State.rvCsr (s : State) (n : Nat) : Option Word :=
  let c := s.svcCore
  match n with
  | 0x300 => some c.mstatus
  | 0x304 => some c.mie
  | 0x344 => some c.mip
  | 0x305 => some c.mtvec
  | 0x340 => some c.mscratch
  | 0x341 => some c.mepc
  | 0x342 => some c.mcause
  | 0x343 => some c.mtval
  | 0xF14 => some (BitVec.ofNat 64 s.svc.val)
  | _ => if rvFreeCsr n then some (Config.serviceCsr s.tick n) else none

/-- The bits of mstatus that a write changes: MIE, MPIE, MPP, MPRV and TW; MPP holds 0 or 3. -/
def rvStatus (old new : Word) : Word :=
  let rest : Word := 0x220088
  let mpp : Word := if fieldOf new 11 2 = 0 ∨ fieldOf new 11 2 = 3 then new &&& 0x1800 else old &&& 0x1800
  (old &&& ~~~(rest ||| 0x1800)) ||| (new &&& rest) ||| mpp

/-- The interrupts that the cores have: machine software, timer and external, and those of the platform (log 5). -/
def rvIrqMask : Word := 0xFFFFFFFFFFFF0888

/-- Write a CSR. The bits of mip follow what asks for the interrupts; a write leaves no trace there. -/
def RvCore.putCsr (c : RvCore) (n : Nat) (v : Word) : RvCore :=
  match n with
  | 0x300 => { c with mstatus := rvStatus c.mstatus v }
  | 0x304 => { c with mie := v &&& rvIrqMask }
  | 0x305 => { c with mtvec := v &&& ~~~(2 : Word) }
  | 0x340 => { c with mscratch := v }
  | 0x341 => { c with mepc := v &&& ~~~(1 : Word) }
  | 0x342 => { c with mcause := v }
  | 0x343 => { c with mtval := v }
  | _ => c

/-! ### Effects -/

/-- A register takes a value and the program counter a place. -/
def State.rvDone (s : State) (d : Fin 32) (v pc : Word) : State := s.updSvc (fun c => { c.wr d v with pc := pc })

/-- A value of `size` bytes as a register holds it. -/
def rvExtend (size : Nat) (signed : Bool) (v : Nat) : Word :=
  if signed then rvSigned (8 * size) v else BitVec.ofNat 64 v

/-- RETURN FROM AN EXCEPTION: the mode of MPP, MIE := MPIE, MPIE := 1, MPP := user, MPRV := 0 on a return to user mode,
and the program counter from mepc. -/
def RvCore.mret (c : RvCore) : RvCore :=
  let m := decide (fieldOf c.mstatus 11 2 = 3)
  let mie := fieldOf c.mstatus 7 1
  let drop : Word := if m then 0x1888 else 0x21888
  { c with machine := m, pc := c.mepc, mstatus := (c.mstatus &&& ~~~drop) ||| BitVec.ofNat 64 (mie * 2 ^ 3 + 2 ^ 7) }

/-- A CSR word. A register that the cores do not have, one of a higher mode, and a write of a read-only one are illegal;
set and clear from x0 or 0 write nothing. -/
def State.rvCsrWord (s : State) (op : RvCsrOp) (d : Fin 32) (src : RvCsrSrc) (n : Nat) (illegal : State)
    (next : Word) : State :=
  let c := s.svcCore
  let v := match src with
    | .reg r => c.rd r
    | .imm k => BitVec.ofNat 64 k.val
  let writes := decide (op = .write) || (match src with
    | .reg r => decide (r ≠ 0)
    | .imm k => decide (k ≠ 0))
  if (!c.machine && decide (rvBits n 8 2 ≠ 0)) || (writes && decide (rvBits n 10 2 = 3)) then illegal
  else match s.rvCsr n with
    | none => illegal
    | some old =>
      let new := match op with
        | .write => v
        | .set => old ||| v
        | .clear => old &&& ~~~v
      (if writes then s.updSvc (·.putCsr n new) else s).rvDone d old next

/-- An atomic word at an address of its size; a misaligned one takes its exception. -/
def State.rvAmoWord (s : State) (op : RvAmo) (size : Nat) (d : Fin 32) (a v next : Word) : State :=
  if a.toNat % size ≠ 0 then s.svcTrap 6 a
  else
    let old := s.svcRead a size
    let new := (rvAmo op (BitVec.ofNat (8 * size) old) (BitVec.ofNat (8 * size) v.toNat)).toNat
    (s.svcWrite a size new).rvDone d (rvExtend size true old) next

/-- The effect of a word of `len` bytes, whose bits are `w`, on the service core that executes. -/
def State.rvExec (s : State) (i : RvInstr) (len : Nat) (w : Word) : State :=
  let c := s.svcCore
  let next := c.pc + BitVec.ofNat 64 len
  match i with
  | .lui d imm => s.rvDone d imm next
  | .auipc d imm => s.rvDone d (c.pc + imm) next
  | .jal d off => s.rvDone d next (c.pc + off)
  | .jalr d a off => s.rvDone d next ((c.rd a + off) &&& ~~~(1 : Word))
  | .branch k a b off => s.rvDone 0 0 (if rvTaken k (c.rd a) (c.rd b) then c.pc + off else next)
  | .load size signed d a off => s.rvDone d (rvExtend size signed (s.svcRead (c.rd a + off) size)) next
  | .store size a b off => (s.svcWrite (c.rd a + off) size (c.rd b).toNat).rvDone 0 0 next
  | .aluImm op narrow d a imm => s.rvDone d (rvAluWord op narrow (c.rd a) imm) next
  | .alu op narrow d a b => s.rvDone d (rvAluWord op narrow (c.rd a) (c.rd b)) next
  | .loadReserved size d a =>
    if (c.rd a).toNat % size ≠ 0 then s.svcTrap 4 (c.rd a)
    else (s.updSvc (fun c => { c with res := some (c.rd a >>> 3) })).rvDone d
      (rvExtend size true (s.svcRead (c.rd a) size)) next
  | .storeConditional size d a b =>
    if (c.rd a).toNat % size ≠ 0 then s.svcTrap 6 (c.rd a)
    else
      let free := s.updSvc (fun c => { c with res := none })
      if c.res = some (c.rd a >>> 3) then (free.svcWrite (c.rd a) size (c.rd b).toNat).rvDone d 0 next
      else free.rvDone d 1 next
  | .amo op size d a b => s.rvAmoWord op size d (c.rd a) (c.rd b) next
  | .csr op d src n => s.rvCsrWord op d src n (s.svcTrap 2 w) next
  | .fence => s.rvDone 0 0 next
  | .wfi => if !c.machine && decide (fieldOf c.mstatus 21 1 = 1) then s.svcTrap 2 w else s.rvDone 0 0 next
  | .ecall => s.svcTrap (if c.machine then 11 else 8) 0
  | .ebreak => s.svcTrap 3 0
  | .mret => if c.machine then s.updSvc (·.mret) else s.svcTrap 2 w

/-- What a service core does at a word of the base set, and the illegal-instruction exception at any other. -/
def State.svcBase (s : State) (w : BitVec 32) : State :=
  let four := decide (w.toNat % 4 = 3)
  match if four then decodeRv w.toNat else decodeRvc (w.toNat % 2 ^ 16) with
  | some i => s.rvExec i (if four then 4 else 2) (w.setWidth 64)
  | none => s.svcTrap 2 (w.setWidth 64)

/-! ### Interrupts (R314, log 5) -/

/-- The interrupt that a core takes before its next word: pending and enabled, in user mode or with MIE set; external,
software, timer, then the platform's, the highest number first. -/
def RvCore.interrupt (c : RvCore) : Option Nat :=
  if c.machine ∧ fieldOf c.mstatus 3 1 = 0 then none
  else ([11, 3, 7] ++ (List.range 48).map (fun i => 63 - i)).find? (fun n => (c.mie &&& c.mip).getLsbD n)

/-- TAKE AN INTERRUPT: as an exception whose mcause has bit 63 set and whose mtval is 0; a vectored mtvec adds four bytes
for each number. -/
def RvCore.takeIrq (c : RvCore) (n : Nat) : RvCore :=
  let t := c.trap (2 ^ 63 + n) 0
  if c.mtvec.getLsbD 0 then { t with pc := t.pc + BitVec.ofNat 64 (4 * n) } else t

/-- Interrupts of a service core become pending, or no longer. -/
def State.serviceIrq (s : State) (core : Fin 4) (bits : Word) : State :=
  { s with service := { s.service with
      cores := Tab.upd RvCore.reset s.service.cores core.val (fun c => { c with mip := bits &&& rvIrqMask }) } }

end Sys2Proof.Machine
end

