-- ==== Sys2Proof/Machine/Step.lean ====
section
/-! DEFINITION. One step of the device (log 1), and the placing of a word where the next step fetches it (log 3). -/

namespace Sys2Proof.Machine

/-- A sequencer's turn: its fault, or the word that it fetches. -/
def takeIssue (s : State) : Host.Outcome State Fault Refusal :=
  match s.seqFetch with
  | .none => .next s
  | .fault t => .next (s.raise s.cur t)
  | .word i => exec i s

/-- A service core's turn: an interrupt that it takes, or its next word. -/
def takeService (s : State) : Host.Outcome State Fault Refusal :=
  match s.svcCore.interrupt with
  | some n => .next ((s.updSvc (·.takeIrq n)).plainDone (.service s.svc.val))
  | none =>
    match s.svcFetch with
    | .xumak i => exec i s
    | .illegal w => .next (s.svcTrap 2 (w.setWidth 64))
    | .base w => .next (s.svcBase w)
    | .unwritten => .fault (.serviceFetch s.svc.val s.svcCore.pc)

/-- Take a turn in the state that `State.begin` gives. -/
def takeTurn (t : Turn) (s : State) : Host.Outcome State Fault Refusal :=
  match t with
  | .elapse ns => .next (s.elapse ns)
  | .issue slot rank q =>
    let a : Agent := { slot := slot, rank := rank, q := q }
    (match takeIssue { s with cur := a } with
      | .next t => .next (State.lastWord s a t)
      | o => o)
  | .service c => takeService { s with svc := c }
  | .event i => if isEvent i then exec i s else .next s
  | .evict line => .next (s.evictLine line)
  | .hostRead dpa n => .next (s.hostRead dpa n)
  | .serviceIrq core bits => .next (s.serviceIrq core bits)
  | .guestVps p n => .next (if s.ports.host then s.setVps p.val n.val else s)
  | .walk ctx a second => .next (s.walkAhead ctx a second)
  | .vfExport n => .next (s.exportVf n.val)
  | .vfImport n x => .next (s.importVf n.val x)

/-- One step. -/
def step (s : State) : Host.Outcome State Fault Refusal := takeTurn s.nextTurn s.begin

/-- The first sequencer that may run an opcode. -/
def seqFor (opc : BitVec 9) : SeqId := (allSeqs.find? (permitted opc)).getD .c

/-- A sequencer at word 0. -/
def Seq.atZero (q : Seq) : Seq := { q with status := .running, pc := 0 }

/-- A one-core task that runs on core 0 with `w` at word 0 of the code of every sequencer. -/
def oneWordTask (w : Word80) : Task :=
  let c := CoreTask.fresh 0
  { id := 0, td := List.replicate 16 0, ctx := 0, part := 0, multi := none, stream := none, step := 0, state := .running,
    counter := 0, preds := [], job := 0, accepted := 0, place := 0, headSince := [], started := 0, budget := 0,
    conds := [], saved := false, gbarSt := 0,
    image := { entry := 0, sections := List.replicate 4 (0, 1), code := [(0, w)], blocks := [], tiles := [], codeOff := 0 },
    pgrank := 0, preload := none, misses := [], finished := [],
    cts := [(0, { c with seqC := c.seqC.atZero, seqL := c.seqL.atZero, seqX := c.seqX.atZero, seqS := c.seqS.atZero })] }

/-- A sequencer's word in slot 0, which the next step issues; MXMULS is accepted as a feature. -/
def State.withSeqWord (s : State) (w : Word80) : State :=
  let opc : BitVec 9 := (Fields.unpack w).opc
  let r := if sparseOpcode opc then { s.r with featw0 := s.r.featw0 ||| 1 } else s.r
  { s with agenda := [.issue 0 0 (seqFor opc)], r := r, tasks := Tab.put 0 (oneWordTask w) s.tasks }

/-- A service core's word at the program counter of core 0, which the next step executes. -/
def State.withSvcWord (s : State) (w : BitVec 32) : State :=
  let pc := (Tab.get RvCore.reset s.service.cores 0).pc
  let mem := (List.range 4).foldl (fun m i =>
    Tab.set none m (pc + BitVec.ofNat 64 i).toNat (some (BitVec.ofNat 8 (w.toNat >>> (8 * i))))) s.service.mem
  { s with agenda := [.service 0], service := { s.service with mem := mem } }

/-- The state with an instruction of the opcode table where the next step fetches it. -/
def State.withFetchWord (s : State) (nbits w : Nat) : State :=
  if nbits ≤ 32 then s.withSvcWord (BitVec.ofNat 32 w) else s.withSeqWord (BitVec.ofNat 80 w)

end Sys2Proof.Machine
end

