-- ==== Sys2Proof/Safety.lean ====
section
/-! DEFINITION. What counts as a safe run, and the vocabulary of the statements: how a word that runs leaves the
device, what a word may change, and when a table is in its canonical form. -/

namespace Sys2Proof.Machine

/-! ### Runs and the canonical form of memory -/

/-- Device and host memory have their canonical form. -/
def State.MemWf (s : State) : Prop := s.m.dpa.wf = true ∧ s.m.host.wf = true

/-- A step that answers a next state. -/
def State.Steps (s : State) (t : State) : Prop := step s = .next t

/-- A run: steps one after another. -/
inductive Reaches : State → State → Prop where
  | refl (s : State) : Reaches s s
  | step (s t u : State) (h : s.Steps t) (r : Reaches t u) : Reaches s u

/-! ### A word that runs -/

/-- The word of the issuing sequencer passes the checks that every word shares, and its body runs on `c`: the
sequencer may issue, its class may run the word, and the tags that the word names have landed (R89, R90, R101). -/
def State.Enters (s : State) (u : WordUse) (c : CoreTask) : Prop := enter u s = .go c

/-- Put a core-task in the place of the one that issues. -/
def State.withCur (s : State) (c : CoreTask) : State := s.putCt s.cur.slot s.cur.rank c

/-- The word completes: its result is written and the sequencer goes on behind it (R89, R99). -/
def State.passed (s : State) (u : WordUse) (c : CoreTask) (wr : Option (GReg × Word)) : State :=
  s.withCur ((c.finish s.cur.q u.dst wr).updSeq s.cur.q Seq.advance)

/-- A word that changed the device completes: the core-task that stands there now goes on behind the word. -/
def State.goesOn (s : State) (a : Agent) (u : WordUse) (wr : Option (GReg × Word)) : State :=
  s.updCt a.slot a.rank (fun c => (c.finish a.q u.dst wr).updSeq a.q Seq.advance)

/-- The word sets the program counter itself; its wait is over. -/
def State.jumped (s : State) (c : CoreTask) : State :=
  s.withCur (c.updSeq s.cur.q (fun q => { q with wait := none }))

/-- The word takes a fault on the core-task that entered. -/
def State.trapped (s : State) (c : CoreTask) (t : Trap) : State := (s.withCur c).raise s.cur t

/-- A word that has left the device as `s1` waits there; it keeps its program counter and is tried again (R83). -/
def State.waitsIn (s s1 : State) (k : WaitKind) : State :=
  { s1.updCt s.cur.slot s.cur.rank (fun c => c.updSeq s.cur.q (fun q => q.await k s.dtime s.fresh)) with
    fresh := s1.fresh + 1 }

/-- A field of the word is not one that the sequencer that issues it may name: the word faults at decode, before any wait,
and has no effect (R83 step 4). -/
def FieldFault (i : Instr) (s : State) : Prop := exec i s = .next (s.raise s.cur (trapOf .illegalField))

/-! ### Frames -/

/-- `t` differs from `s` in the issuing core-task alone (and in the highest stamp that stands beside memory, and in
the counter of arrivals): every other core-task, every task's other fields, all memory, every register of the device and
every queue are as they were. -/
structure State.OnlyCur (s t : State) : Prop where
  rest : t = { s with tasks := t.tasks, fresh := t.fresh, m := { s.m with h := t.m.h } }
  others : ∀ slot rank, ¬(slot = s.cur.slot ∧ rank = s.cur.rank) → t.ct? slot rank = s.ct? slot rank
  tasks : ∀ slot, (t.task? slot).map (fun k => { k with cts := [] }) = (s.task? slot).map (fun k => { k with cts := [] })

/-- `c'` differs from `c` in sequencer `q` alone. -/
def CoreTask.OnlySeq (c c' : CoreTask) (q : SeqId) : Prop := c'.setSeq q (c.seq q) = c

/-- The effect of a word that entered on `c`, writes `v` to `d` and goes on: register by register (g0 keeps reading
0), the loop stack and the program counter as R99 says, tags only freed, the sequencer's other state and the rest
of the device as they were. -/
structure State.Wrote (s t : State) (c : CoreTask) (d : GReg) (v : Word) : Prop where
  frame : s.OnlyCur t
  ct : ∃ c', t.ct? s.cur.slot s.cur.rank = some c' ∧ c.OnlySeq c' s.cur.q ∧
    (∀ r, (c'.seq s.cur.q).rd r = if r = d ∧ r ≠ 0 then v else (c.seq s.cur.q).rd r) ∧
    ((c'.seq s.cur.q).loops, (c'.seq s.cur.q).pc) = loopEnd (c.seq s.cur.q).loops (c.seq s.cur.q).pc ∧
    (c'.seq s.cur.q).wait = none ∧
    (∀ e, e ∈ (c'.seq s.cur.q).tags → e ∈ (c.seq s.cur.q).tags) ∧
    c'.seq s.cur.q = { c.seq s.cur.q with
      g := (c'.seq s.cur.q).g, loops := (c'.seq s.cur.q).loops, pc := (c'.seq s.cur.q).pc,
      wait := none, tags := (c'.seq s.cur.q).tags }

/-- The instruction, used as `u`, completes wherever it enters, and writes `v` of the registers to `d`. -/
def Writes (i : Instr) (u : WordUse) (d : GReg) (v : Seq → Word) : Prop :=
  ∀ (s : State) (c : CoreTask), s.Enters u c → ∃ t, exec i s = .next t ∧ s.Wrote t c d (v (c.seq s.cur.q))

/-- A word of every sequencer that writes `d`. -/
def useD (k : BitVec 8) (d : GReg) : WordUse := { perm := allSeqs, cons := k, dst := gDst d }

/-- The same for a word that reads `d` first. -/
def useRmw (k : BitVec 8) (d : GReg) : WordUse := { perm := allSeqs, cons := k, dst := gDst d, readsDst := true }

/-- A word of the C-sequencer that writes `d`. -/
def useC (k : BitVec 8) (d : GReg) : WordUse := { perm := [.c], cons := k, dst := gDst d }

/-- A word whose opcode's meaning touches nothing but its core-task: class 0, and of class 1 everything but FORK, EXIT,
TKSIG, YIELD and GRPEND; the scratchpad accesses, generators and block transfers; the tile words; SEMWAIT, SEMGET and
the barrier words; CSRR and TIME. -/
def localOpcode (n : Nat) : Bool :=
  decide (n < 0x40) ||
  (decide (0x40 ≤ n ∧ n < 0x56) && !([0x4E, 0x50, 0x51, 0x53, 0x54].contains n)) ||
  decide (0x8B ≤ n ∧ n ≤ 0x9A) || decide (0xC0 ≤ n ∧ n < 0x140) || decide (0x182 ≤ n ∧ n ≤ 0x187) ||
  decide (n = 0x1D4 ∨ n = 0x1D8)

/-! ### Releases and engines -/

/-- A releasing word enters on `c`, and the release of its scope is met in `s1`, where its core-task is `c1` (R191,
R192, R193). -/
structure State.Releases (s : State) (u : WordUse) (sc : Scope) (c : CoreTask) (s1 : State) (c1 : CoreTask) : Prop where
  enters : s.Enters u c
  met : (s.withCur c).testRelease s.cur sc = .ready s1
  here : s1.ct? s.cur.slot s.cur.rank = some c1

/-- A word that left its core-task as `c` completes on the device `s`. -/
def State.completes (s : State) (a : Agent) (u : WordUse) (c : CoreTask) : State := (s.putCt a.slot a.rank c).goesOn a u none

/-- The task in `slot` runs, and rank `rank` of its gang is `c`, whose core has its clocks. -/
structure State.Runs (s : State) (slot rank : Nat) (t : Task) (c : CoreTask) : Prop where
  task : s.task? slot = some t
  running : t.state = .running
  here : s.ct? slot rank = some c
  clocked : s.clocked c.core = true

/-- `cmd` is at the head of the matrix queue of a core-task that runs, and its semaphore is met (R95, R139). -/
structure State.MxHead (s : State) (slot rank : Nat) (c : CoreTask) (cmd : MxCmd) : Prop where
  runs : ∃ t, s.Runs slot rank t c ∧ t.engineStops s.dtime rank 4 = false
  goes : c.mxStopped = false
  head : c.mxq.head? = some cmd
  sem : (engineSems cmd.i).1 = 0 ∨ c.mxHead = .served

/-- `k` is at the head of the copy queue of a core-task that runs, and its semaphore is met (R95, R334). -/
structure State.CopyHead (s : State) (slot rank : Nat) (t : Task) (c : CoreTask) (k : CopyCmd) : Prop where
  runs : s.Runs slot rank t c
  free : t.faulted = false
  goes : c.cpStopped = false
  head : c.cpq.head? = some k
  sem : (engineSems k.i).1 = 0 ∨ c.cpHead = .served

/-- `x` runs in progress register `reg` of a core-task that runs (R150, R334). -/
structure State.CopyRuns (s : State) (slot rank reg : Nat) (t : Task) (c : CoreTask) (x : RunCopy) : Prop where
  runs : s.Runs slot rank t c
  free : t.engineStops s.dtime rank (5 + reg) = false
  goes : c.cpStopped = false
  runsIn : find c.copies reg = some x

/-- A word enters on a core-task of task `t`, which belongs to stream `n` (R244). -/
structure State.InStream (s : State) (u : WordUse) (c : CoreTask) (t : Task) (n : Nat) (st : Stream) : Prop where
  enters : s.Enters u c
  task : (s.withCur c).task? s.cur.slot = some t
  names : t.stream = some n
  stands : s.stream? n = some st

/-- The issuing sequencer stands where it stood in `t`: its program counter and its loop stack are those of `c`. -/
def State.Stays (t : State) (a : Agent) (c : CoreTask) : Prop :=
  ∃ c', t.ct? a.slot a.rank = some c' ∧ (c'.seq a.q).pc = (c.seq a.q).pc ∧ (c'.seq a.q).loops = (c.seq a.q).loops

/-- Every island that runs no gang stands at OP0, and no change of its point is on the way (R261). -/
def State.EmptyGated (s : State) : Prop :=
  ∀ i, (s.gangsOn i).isEmpty = true →
    (Tab.get Island.reset s.pw.islands i).point = 0 ∧ (Tab.get Island.reset s.pw.islands i).change = none

/-! ### Tile words -/

/-- How the X-sequencer uses a tile word. -/
def useV (w : VWord) : WordUse := { perm := [.x], cons := w.cons, alloc := w.alloc }

/-- What a tile word reads: source A or the zero tile that stands for a ring depth never written, with B and C, and the
shape and format of its result (R85, R87, R154). -/
structure VFacts where
  src : VSources
  rows : Nat
  cols : Nat
  res : Fmt
  pair : Bool

/-- The destination's set of registers (R156). -/
def CoreTask.dstSet (c : CoreTask) (w : VWord) (p : VPlan) : List Nat :=
  match w.dst with
  | .tile t => c.regSet t.val p.scaledDst
  | _ => []

/-- Nothing stands in the way of a tile word on core-task `c` (R381): its current class is held, its sources are
there, its shape is fixed, and its checks and waits pass. -/
def VReady (w : VWord) (p : VPlan) (b : BSrc) (sc : Option VSrc) (s : State) (c : CoreTask) (x : VFacts) : Prop :=
  p.cls ≤ c.pwrlvl ∧
  ∃ ta tb tc, c.sources w b sc p.scaledA = (ta, tb, tc, none) ∧
    let base := match b with
      | .src _ _ => tb
      | _ => none
    c.resultOf w p ta base = some (x.rows, x.cols, x.res, x.pair) ∧
    x.src.a = zeroSource w p ta base x.rows x.cols x.res ∧ x.src.b = tb.getD x.src.a ∧ x.src.c = tc.getD x.src.a ∧
    c.vectorCheck (s.pool c.core) s.fresh w p b sc x.src x.rows x.cols x.res x.pair (c.dstSet w p) = none

/-- The scale bytes that VQNT with KEEP reads before it writes (R392). -/
def CoreTask.keptScales (c : CoreTask) (w : VWord) (keep : Bool) (rows : Nat) : List Byte :=
  match w.dst with
  | .tile t =>
    (match (c.shape t.val).scale with
      | some k => if keep then sliceN 0 c.tiles (tileBase k) rows else []
      | none => [])
  | _ => []

/-- The core-task that a tile word leaves: its queue sources popped, a Q4X error noted, its block written. -/
def CoreTask.afterVector (c : CoreTask) (w : VWord) (p : VPlan) (b : BSrc) (sc : Option VSrc) (x : VFacts)
    (es : List (List Nat)) (scs : Option (List Byte)) (err : Bool) : CoreTask :=
  let c1 := ((operandSrcs w b sc).flatMap (·.lq?)).foldl (fun c q => c.popBlock q) c
  { c1 with fmtErr := c1.fmtErr || err }.writeVector w p (c.dstSet w p)
    { rows := x.rows, cols := x.cols, fmt := x.res, scales := scs, bytes := packTile x.res es }

/-- The instruction is a tile word with the plan `p c` of the core-task it enters on: too low a power level raises
CURRENT-OVER; where nothing stands in its way it completes, with the elements that `f` gives. -/
def RunsPlanOf (i : Instr) (w : VWord) (p : CoreTask → VPlan) (b : CoreTask → BSrc) (sc : Option VSrc) (keep : Bool)
    (f : CoreTask → VFacts → List (List Nat)) : Prop :=
  ∀ (s : State) (c : CoreTask), s.Enters (useV w) c →
    (c.pwrlvl < (p c).cls → exec i s = .next (s.trapped c (trapOf .currentOver))) ∧
    ∀ x : VFacts, VReady w (p c) (b c) sc s c x → ∃ scs err,
      (p c).run x.src.a x.src.b x.src.c x.res x.rows x.cols (c.keptScales w keep x.rows) = (f c x, scs, err) ∧
      exec i s = .next (s.passed (useV w) (c.afterVector w (p c) (b c) sc x (f c x) scs err) none)

/-- The same with one plan for every core-task. -/
def RunsPlan (i : Instr) (w : VWord) (p : VPlan) (b : CoreTask → BSrc) (sc : Option VSrc) (keep : Bool)
    (f : CoreTask → VFacts → List (List Nat)) : Prop :=
  RunsPlanOf i w (fun _ => p) b sc keep f

/-- The rational number that a finite value stands for; 0 for the others. -/
def FVal.rat : FVal → Rat
  | .fin s m e => (if s then -1 else 1) * (m : Rat) * (2 : Rat) ^ e
  | _ => 0

/-- 2^u is the unit in the last place of F32 at a number: that of its binade, and 2^−149 below the normal ones (R121). -/
def IsUlp (y : Rat) (u : Int) : Prop :=
  -149 ≤ u ∧ |y| < (2 : Rat) ^ (u + 24) ∧ (u = -149 ∨ (2 : Rat) ^ (u + 23) ≤ |y|)

end Sys2Proof.Machine
end

