-- ==== Sys2Proof/Certificates/Slice0/Obligations.lean ====
section
/-! DEFINITION. The statements for the provers, each from the numbered rules that its docstring names. A word of a
sequencer is said of every state in which it enters (`State.Enters`); what a statement does not name of the device is as it
was, since it gives the next state as an equation. -/

section

open Sys2Proof Sys2Proof.Machine

/-- R2, R77, R78, R102: the bytes that the manual writes out for a few words of every class, lowest address first,
decode to those words. -/
def Obligations.ManualWordsDecode : Prop :=
    decodeBytes [0xA0, 0x86, 0x01, 0x00, 0x00, 0x4A, 0x4A, 0x00, 0x80, 0x00] = some (.addImm 0 10 10 100000) ∧
    decodeBytes [0x08, 0x01, 0x00, 0x00, 0x00, 0x41, 0x42, 0x00, 0x00, 0x12] = some (.bfxS 0 2 1 8 4) ∧
    decodeBytes [0x00, 0x00, 0x00, 0x00, 0x47, 0x46, 0x45, 0x00, 0x8B, 0x03] = some (.divu 0 (some 3) 5 6 7) ∧
    decodeBytes [0xFD, 0xFF, 0xFF, 0xFF, 0xFF, 0x42, 0x41, 0x00, 0x80, 0x21] = some (.bcLt 0 1 2 0xFFFFFFFFFD) ∧
    decodeBytes [0x05, 0x00, 0x40, 0x06, 0x00, 0x00, 0x00, 0x00, 0x00, 0x26] = some (.loopImm 0 100 5) ∧
    decodeBytes [0x20, 0x01, 0x00, 0x00, 0x02, 0x00, 0x00, 0x00, 0x00, 0x27] = some (.fork 0 .x 0x120) ∧
    decodeBytes [0x10, 0x00, 0x00, 0x00, 0x00, 0x41, 0x44, 0x00, 0x0A, 0x43] = some (.ldg 0 (some 2) .d 4 1 16) ∧
    decodeBytes [0xFC, 0xFF, 0xFF, 0xFF, 0xFF, 0x41, 0x46, 0x00, 0x80, 0x44] = some (.stg 0 .w 6 1 0xFFFFFFFFFC) ∧
    decodeBytes [0x29, 0x00, 0x00, 0x00, 0x00, 0x00, 0x43, 0x00, 0x80, 0x4B] = some (.agget 0 3 9 2) ∧
    decodeBytes [0x00, 0xF0, 0xFF, 0xFF, 0xFF, 0x00, 0x00, 0x00, 0x00, 0x4D] = some (.sadv 0 0 (.imm 0xFFFFFFF00)) ∧
    decodeBytes [0x00, 0x00, 0x00, 0x82, 0x00, 0x31, 0x00, 0x00, 0x00, 0x74] = some (.vmov { cons := 0, alloc := none, dst := .ring, ring := false, a := .lq 1, strictA := true, rnd := .rne, sat := false }) ∧
    decodeBytes [0x01, 0x00, 0x30, 0x81, 0x02, 0x00, 0x06, 0x02, 0x10, 0x6E] = some (.vfma { cons := 2, alloc := none, dst := .tile 6, ring := true, a := .ring 0, strictA := true, rnd := .rne, sat := false } 1 (.tile 2) false (.lq 0)) ∧
    decodeBytes [0x00, 0x00, 0x00, 0x80, 0x00, 0x32, 0x01, 0x00, 0x09, 0x89] = some (.vrcp { cons := 0, alloc := some 1, dst := .tile 1, ring := false, a := .lq 2, strictA := true, rnd := .rne, sat := false }) ∧
    decodeBytes [0x03, 0x00, 0x00, 0x80, 0x00, 0x02, 0x06, 0x00, 0x0C, 0x90] = some (.vlut { cons := 0, alloc := some 4, dst := .tile 6, ring := false, a := .tile 2, strictA := true, rnd := .rne, sat := false } false 3) ∧
    decodeBytes [0x00, 0x00, 0x48, 0x0C, 0x10, 0x12, 0x00, 0x02, 0x00, 0xAD] = some (.mxmuls { wsem := 2, ssem := 0, pair := ⟨false, .e4m3, .e4m3⟩, acc := 1, ta := 8, tb := 16, zero := false, rsum := false, rep := 3, cb := 0, mdq := 1, spn := 1 }) ∧
    decodeBytes [0x00, 0x00, 0x20, 0x40, 0x20, 0x33, 0x00, 0x00, 0x80, 0xB4] = some (.mxrd { wsem := 0, ssem := 0, acc := 3, t := 12, rows := 64, cols := 64 } .bf16 .rne true) ∧
    decodeBytes [0x00, 0x00, 0x20, 0x68, 0x0A, 0x19, 0x02, 0x00, 0x00, 0xB7] = some (.cpg2l { wsem := 0, ssem := 2, rd := 3, rs := 4, rl := 5, rg := 6, bar := some 1 } .d2) ∧
    decodeBytes [0x00, 0x00, 0x00, 0x04, 0x42, 0x41, 0x43, 0x00, 0x0A, 0xC5] = some (.atom 0 (some 2) .add true false true 3 1 2) ∧
    decodeBytes [0x00, 0x10, 0x38, 0x00, 0x42, 0x41, 0x00, 0x00, 0x80, 0xCD] = some (.acct 0 .i32 3 1 2 64 64) ∧
    decodeBytes [0x00, 0x44, 0x43, 0x08, 0x42, 0x41, 0x49, 0x00, 0x80, 0xD0] = some (.waita 0 .ne true 9 1 2 3 4) ∧
    decodeBytes [0x00, 0x00, 0x00, 0x00, 0x00, 0x00, 0x00, 0x00, 0x00, 0xD6] = some (.fenceRel 0 .chip) ∧
    decodeBytes [0x00, 0x00, 0x00, 0x00, 0x00, 0x41, 0x44, 0x00, 0x80, 0xD9] = some (.futwait 0 4 1) ∧
    decodeBytes [0x00, 0x00, 0x00, 0x00, 0x42, 0x41, 0x45, 0x00, 0x80, 0xE0] = some (.tsubmitF 0 5 1 2) ∧
    decodeBytes [0x80, 0x10, 0x10, 0x80, 0x00, 0x04, 0x00, 0x00, 0x00, 0xE6] = some (.eqpush 0 0 (.tile 4) true 0 2 1 true) ∧
    decodeBytes [0x06, 0x00, 0x00, 0x00, 0x00, 0x00, 0x00, 0x00, 0x80, 0xE6] = some (.pwracqImm 0 6) ∧
    decodeBytes [0x00, 0x00, 0x43, 0x00, 0x44, 0x42, 0x00, 0x00, 0x00, 0xE8] = some (.lksend 0 2 4 3) ∧
    decodeBytes [0x02, 0x02, 0x00, 0x00, 0x00, 0x4D, 0x00, 0x00, 0x80, 0xEA] = some (.csrw 0 0x202 13) ∧
    decodeXumak 0x00C5950B = some (.bfxt 10 11 12)

/-- R78 to R102: every well-formed word that has an encoding decodes back to itself, with every operand at every
value. -/
def Obligations.DecodeInvertsEncode : Prop :=
  ∀ (i : Instr) (w : Word80), i.wf = true → encode i = some w → decodeWord w = some i

/-- R83: a word that decodes is well formed and is the one word of its instruction: no bit of it is ignored. R314: the
Xumak words and their instructions correspond one to one. -/
def Obligations.EveryWordHasOneMeaning : Prop :=
  (∀ (i : Instr) (w : Word80), decodeWord w = some i → i.wf = true ∧ encode i = some w) ∧
  ((∀ (i : Instr) (w : BitVec 32), encodeXumak i = some w → decodeXumak w = some i) ∧
    (∀ (i : Instr) (w : BitVec 32), decodeXumak w = some i → encodeXumak i = some w))

/-- R83, R102: an opcode is assigned exactly when its index lies below its class's count, 320 in all; a word is
checked for its opcode, then for its sequencer, then for its fields, and the first failed check names the fault. R101:
which sequencers may run a word, class by class. -/
def Obligations.WordsAreCheckedForTheirSequencer : Prop :=
  ((∀ (opc : BitVec 9), assigned opc = true ↔
      opc.toNat % 64 < [42, 22, 29, 55, 37, 58, 52, 25].getD (opc.toNat / 64) 0) ∧
    (∀ (w : Word80) (sparse : Bool) (q : SeqId),
      let opc : BitVec 9 := w.extractLsb' 71 9
      let gated := 0x158 ≤ opc.toNat ∧ opc.toNat ≤ 0x163 ∧ sparse = false
      (assigned opc = false ∨ gated → checkWord w sparse q = .fault (trapOf .illegalOpcode)) ∧
      (assigned opc = true → ¬gated → permitted opc q = false → checkWord w sparse q = .fault (trapOf .seqClass)) ∧
      (assigned opc = true → ¬gated → permitted opc q = true → decodeWord w = none →
        checkWord w sparse q = .fault (trapOf .illegalField)) ∧
      (∀ i, assigned opc = true → ¬gated → permitted opc q = true → decodeWord w = some i →
        checkWord w sparse q = .word i)) ∧
    (∀ (q : SeqId) (sparse : Bool), checkWord 0 sparse q = .fault (trapOf .illegalField))) ∧
  (∀ (opc : BitVec 9) (q : SeqId), assigned opc = true →
      let n := opc.toNat
      (n < 0x40 → permitted opc q = true) ∧
      (0x40 ≤ n → n < 0x80 → (permitted opc q = true ↔ q = .c ∨ (n ≠ 0x49 ∧ n ≠ 0x4A ∧ n ≠ 0x4E ∧ n ≠ 0x53))) ∧
      (0x80 ≤ n → n ≤ 0x8A ∨ n = 0x9B ∨ n = 0x9C → (permitted opc q = true ↔ q = .c)) ∧
      (0x8B ≤ n → n ≤ 0x95 → (permitted opc q = true ↔ q ≠ .x)) ∧
      (n = 0x96 ∨ n = 0x97 ∨ n = 0x9A → (permitted opc q = true ↔ q = .l ∨ q = .s)) ∧
      (n = 0x98 → (permitted opc q = true ↔ q = .l)) ∧
      (n = 0x99 → (permitted opc q = true ↔ q = .s)) ∧
      (0xC0 ≤ n → n < 0x140 → (permitted opc q = true ↔ q = .x)) ∧
      (0x140 ≤ n → n < 0x180 → (permitted opc q = true ↔ q = .c)) ∧
      (0x180 ≤ n → n < 0x1C0 →
        (permitted opc q = true ↔ q = .c ∨ n ≤ 0x183 ∨ n = 0x186 ∨ n = 0x187)) ∧
      (0x1C0 ≤ n → (permitted opc q = true ↔
        if n = 0x1CC then q = .x else q = .c ∨ n = 0x1D4 ∨ n = 0x1D8)))

/-- R83, R279 (log 1): a sequencer's turn runs the word at its program counter: when the sequencer may issue, its
section holds the address and the word decodes for it, the step is `exec` of the word in the state in which a turn
begins, and in a gang that has faulted the word counts as the sequencer's last. A failed check is a fault of the word;
a sequencer that may not issue does nothing. A service core's turn takes the interrupt that is pending and enabled,
and otherwise runs the Xumak word (R314) or the base word (log 5) at its program counter, takes exception 2 at another
custom-0 word, and faults at memory that nothing has written. A turn begins with the agenda and the step number moved
on, and with the heads of the lists marked (R73): each counts its wait in a partition from the moment at which it
became the head there, and nothing else has changed. R19, R173, R184, R196, R264, R313, R314 (log 1): a turn of a
device step or host action is `exec` of it, a turn of time lets time pass, a turn of eviction takes a line of the home
slice, one held under STREAM first, and clears its records, a read by the host or a peer clears the records of its
granules and changes no byte, interrupts become pending at a service core, a guest sets its partition's VPSREQ through
its VF while the host port is up, a walker reads the tables ahead of any access and keeps the leaf that it finds
(R184, log 9), the host takes or moves in the state of a VF (R313, log 32), and with an empty agenda the scheduler
names the turn. -/
def Obligations.AStepRunsItsTurn : Prop :=
  ((∀ s : State,
      let s0 : State := { s with agenda := s.agenda.tail, tick := s.tick + 1 }
      s.begin = { s0 with tasks := s.begin.tasks, blocked := s.begin.blocked } ∧
      (∀ slot, (s.begin.task? slot).map (fun k => { k with headSince := [] }) =
        (s.task? slot).map (fun k => { k with headSince := [] })) ∧
      ∀ slot t t', s.task? slot = some t → s.begin.task? slot = some t' → ∀ p < 8, ∀ x,
        find t'.headSince p = some x ↔ (∃ level, s0.headOf p level = some slot) ∧ x = (find t.headSince p).getD s.dtime) ∧
    (∀ (s : State) (slot rank : Nat) (q : SeqId) (rest : List Turn), s.agenda = .issue slot rank q :: rest →
      let s1 : State := { s.begin with cur := { slot := slot, rank := rank, q := q } }
      (s1.canIssue s1.cur = none → step s = .next s1) ∧
      ∀ t c, s1.canIssue s1.cur = some (t, c) →
        let last (x : State) : State :=
          if t.faulted then x.updTask slot (fun t => { t with finished := seqKey rank q :: t.finished }) else x
        let pc := (c.seq q).pc.toNat
        let w := s1.codeWord t pc
        let opc : BitVec 9 := w.extractLsb' 71 9
        let gated := 0x158 ≤ opc.toNat ∧ opc.toNat ≤ 0x163 ∧ s1.sparseOn = false
        (t.image.holds q pc = false → step s = .next (last (s1.raise s1.cur (trapOf .illegalOpcode)))) ∧
        (t.image.holds q pc = true →
          (assigned opc = false ∨ gated → step s = .next (last (s1.raise s1.cur (trapOf .illegalOpcode)))) ∧
          (assigned opc = true → ¬gated →
            (permitted opc q = false → step s = .next (last (s1.raise s1.cur (trapOf .seqClass)))) ∧
            (permitted opc q = true →
              (decodeWord w = none → step s = .next (last (s1.raise s1.cur (trapOf .illegalField)))) ∧
              ∀ i, decodeWord w = some i → ∃ x, exec i s1 = .next x ∧ step s = .next (last x))))) ∧
    (∀ (s : State) (core : Fin 4) (rest : List Turn), s.agenda = .service core :: rest →
      let s1 : State := { s.begin with svc := core }
      let pc := s1.svcCore.pc
      (∀ n, s1.svcCore.interrupt = some n → step s = .next ((s1.updSvc (·.takeIrq n)).plainDone (.service core.val))) ∧
      (s1.svcCore.interrupt = none →
        (Tab.get none s.service.mem pc.toNat = none → step s = .fault (.serviceFetch core.val pc)) ∧
        (∀ h : BitVec 16,
          (∀ k < 2, Tab.get none s.service.mem (pc + BitVec.ofNat 64 k).toNat = some (h.extractLsb' (8 * k) 8)) →
          h &&& 3 ≠ 3 → step s = .next (s1.svcBase (h.setWidth 32))) ∧
        ∀ w : BitVec 32,
          (∀ k < 4, Tab.get none s.service.mem (pc + BitVec.ofNat 64 k).toNat = some (w.extractLsb' (8 * k) 8)) →
          (∀ i, decodeXumak w = some i → step s = exec i s1) ∧
          (w &&& 0x7F = 0x0B → decodeXumak w = none → step s = .next (s1.svcTrap 2 (w.setWidth 64))) ∧
          (w &&& 3 = 3 → w &&& 0x7F ≠ 0x0B → step s = .next (s1.svcBase w))))) ∧
  (∀ (s : State) (rest : List Turn),
      let s1 := s.begin
      (∀ i, s.agenda = .event i :: rest → encodeFields i = none → encodeXumak i = none → step s = exec i s1) ∧
      (∀ i, s.agenda = .event i :: rest → encodeFields i ≠ none ∨ encodeXumak i ≠ none → step s = .next s1) ∧
      (∀ ns, s.agenda = .elapse ns :: rest → step s = .next (s1.elapse ns)) ∧
      (∀ line, s.agenda = .evict line :: rest → ∃ t l, step s = .next t ∧
        homeSlice { host := false, a := l * 64 } = homeSlice { host := false, a := line * 64 } ∧
        ((∃ k ∈ s.m.stream, homeSlice { host := false, a := k * 64 } = homeSlice { host := false, a := line * 64 }) →
          l ∈ s.m.stream) ∧
        ((∀ k ∈ s.m.stream, homeSlice { host := false, a := k * 64 } ≠ homeSlice { host := false, a := line * 64 }) →
          l = line) ∧
        find t.m.races l = none ∧ l ∉ t.m.stream ∧
        (∀ k, k ≠ l → find t.m.races k = find s.m.races k ∧ (k ∈ t.m.stream ↔ k ∈ s.m.stream)) ∧
        t.m.dpa = s.m.dpa) ∧
      (∀ dpa n, s.agenda = .hostRead dpa n :: rest → ∃ t, step s = .next t ∧ t.m.dpa = s.m.dpa ∧ t.m.host = s.m.host ∧
        (s.ports.host = true ∨ s.ports.peer = true → dpa + n ≤ dpaTop → ∀ g ∈ granules dpa n, ∃ r,
          find t.m.races g.1 = some r ∧ r.w = [] ∧ r.r = []) ∧
        ∀ k, (∀ g ∈ granules dpa n, k ≠ g.1) → find t.m.races k = find s.m.races k) ∧
      (∀ core bits, s.agenda = .serviceIrq core bits :: rest → step s = .next (s1.serviceIrq core bits)) ∧
      (∀ p n, s.agenda = .guestVps p n :: rest → ∃ t, step s = .next t ∧
        ∀ k, Tab.get 7 t.r.vpsreq k = if k = p.val ∧ s.ports.host = true then n.val else Tab.get 7 s.r.vpsreq k) ∧
      (∀ ctx a second, s.agenda = .walk ctx a second :: rest → ∃ t, step s = .next t ∧
        t = { s1 with m := { s1.m with first := t.m.first, second := t.m.second } } ∧
        (second = true → t.m.first = s.m.first ∧ ∀ e ∈ t.m.second.leaves, e ∈ s.m.second.leaves ∨
          walk (s.read2 ctx) true a (levels 13) (s.root2 ctx) = .leaf e.leaf) ∧
        (second = false → t.m.second = s.m.second ∧ ∀ e ∈ t.m.first.leaves, e ∈ s.m.first.leaves ∨
          walk (s1.read1 ctx) (!(s.ctxWord ctx 3).getLsbD 1) a (levels 18) (s.root1 ctx) = .leaf e.leaf)) ∧
      (∀ n, s.agenda = .vfExport n :: rest → step s = .next (s1.exportVf n.val)) ∧
      (∀ n x, s.agenda = .vfImport n x :: rest → step s = .next (s1.importVf n.val x)) ∧
      (s.agenda = [] → step s = step { s with agenda := [Config.schedule s.tick] }))

/-- R83, R101, R207, R260, R279: a word of a sequencer that may not issue changes nothing, and one that its sequencer
may not run raises SEQ-CLASS. R83, R89, R90: a word with a field that its sequencer may not name faults before it
waits for a tag or commits one; a word waits while a tag of its CONS has not landed; once it enters, each of those
tags is free; and a single tag whose result is a register's value is committed to that register alone. -/
def Obligations.WordsEnterAndCommitTags : Prop :=
  (∀ (i : Instr) (opc : BitVec 9) (s : State), i.opc = some opc →
      (s.canIssue s.cur = none → exec i s = .next s) ∧
      ∀ t c, s.canIssue s.cur = some (t, c) → permitted opc s.cur.q = false →
        exec i s = .next (s.raise s.cur (trapOf .seqClass))) ∧
  (∀ (u : WordUse) (s : State) (t : Task) (c : CoreTask), s.canIssue s.cur = some (t, c) → s.cur.q ∈ u.perm →
      (u.legal = false → enter u s = .stop (s.raise s.cur (trapOf .illegalField))) ∧
      (u.legal = true →
        (∀ k r, k < 8 → u.cons.getLsbD k = true → find (c.seq s.cur.q).tags k = some r → r.landed = false →
          ∃ c', enter u s = .stop (s.waitCt s.cur c' .plain)) ∧
        (∀ c', s.Enters u c' → ∀ k, k < 8 → u.cons.getLsbD k = true → find (c'.seq s.cur.q).tags k = none) ∧
        (∀ (k : Nat) (r : TagRec) (d : GReg) (v : Word), k < 8 → u.cons = BitVec.ofNat 8 (2 ^ k) → u.alloc = none →
          u.dst = none → find (c.seq s.cur.q).tags k = some r → r.landed = true → r.dest = .g d → r.res = .value v →
          ∃ c', s.Enters u c' ∧ c.OnlySeq c' s.cur.q ∧
            (∀ j, find (c'.seq s.cur.q).tags j = if j = k then none else find (c.seq s.cur.q).tags j) ∧
            (∀ x, (c'.seq s.cur.q).rd x = if x = d ∧ x ≠ 0 then v else (c.seq s.cur.q).rd x) ∧
            (c'.seq s.cur.q).pc = (c.seq s.cur.q).pc)))

/-- R2, R104: bytes written at a final address read back, every byte outside them reads as before, and the memory
keeps its canonical form, in which equal contents are equal data. Values are little-endian. -/
def Obligations.MemoryReadsBack : Prop :=
  (∀ (s : State) (f : FAddr) (bs : List Byte), (f.host = true → s.hostOk f.a bs.length = true) →
    (s.writeFinal f bs).readFinal f bs.length = bs ∧
    (∀ a, Tab.get 0 (if f.host then (s.writeFinal f bs).m.host else (s.writeFinal f bs).m.dpa) a =
      if f.a ≤ a ∧ a < f.a + bs.length then bs.getD (a - f.a) 0
      else Tab.get 0 (if f.host then s.m.host else s.m.dpa) a) ∧
    (f.host = true → (s.writeFinal f bs).m.dpa = s.m.dpa) ∧ (f.host = false → (s.writeFinal f bs).m.host = s.m.host) ∧
    (s.MemWf → (s.writeFinal f bs).MemWf)) ∧
  (∀ (s : State) (a : Nat) (bs : List Byte), s.hostOk a bs.length = false →
    (s.writeFinal { host := true, a := a } bs).m = s.m) ∧
  (∀ a b : Memory, a.wf = true → b.wf = true → (∀ k, Tab.get 0 a k = Tab.get 0 b k) → a = b) ∧
  (∀ n v : Nat, leNat (leBytes n v) = v % 256 ^ n ∧ (leBytes n v).length = n) ∧
  (∀ bs : List Byte, leNat bs < 256 ^ bs.length ∧ leBytes bs.length (leNat bs) = bs)

/-- R89, R90, R104: a word of a class-0 opcode, a control word other than FORK, EXIT, TKSIG, YIELD and GRPEND, a
scratchpad access, a generator or block word, a tile word, a wait on a semaphore or barrier, CSRR and TIME answer a
next state in which at most the issuing core-task has changed: every other core-task, every byte of memory, every
register of the device and every queue are as they were. -/
def Obligations.LocalWordsChangeOnlyTheirCoreTask : Prop :=
  ∀ (i : Instr) (opc : BitVec 9) (s : State), i.opc = some opc → localOpcode opc.toNat = true →
    ∃ t, exec i s = .next t ∧ s.OnlyCur t

/-- R8, R83: no word, no device step and no host action ever ends a run: each answers a next state, in every state. -/
def Obligations.EveryInstructionAnswers : Prop :=
  ∀ (i : Instr) (s : State), ∃ t, exec i s = .next t

/-- Every step keeps device and host memory in their canonical form. -/
def Obligations.StepsKeepMemoryCanonical : Prop :=
  ∀ s t : State, s.MemWf → step s = .next t → t.MemWf

/-- R319: until FEATACC0 is written the feature word reads 0, it never has a bit that the device does not offer, and
once written it stays as it is through every step but a device reset. -/
def Obligations.FeaturesAreFixedOnce : Prop :=
  (∀ s t : State, ((s.r.featFixed = false → s.r.featw0 = 0) ∧ s.r.featw0 &&& ~~~Config.featOff0 = 0) → step s = .next t →
    (t.r.featFixed = false → t.r.featw0 = 0) ∧ t.r.featw0 &&& ~~~Config.featOff0 = 0) ∧
  (∀ s t : State, s.r.featFixed = true → step s = .next t → (∀ im st cl ch, s.nextTurn ≠ .event (.deviceReset im st cl ch)) →
    t.r.featFixed = true ∧ t.r.featw0 = s.r.featw0)

/-- R3, R51, R200, R262, R279, R310 (log 2): device time moves only in a turn of time, never past the governor's tick,
a scrub pass, the departure of a transfer, the end of a change of point, the millisecond of a MULTI-SUBMIT or the end
of a budget; the budgets of running tasks run down by the time that passes, but not while a fault stops their gang,
and memory and the device's registers stay. -/
def Obligations.TimePasses : Prop :=
  (∀ (i : Instr) (s t : State), exec i s = .next t → t.dtime = s.dtime) ∧
  (∀ s t : State, step s = .next t → t.dtime ≠ s.dtime → ∃ ns, s.nextTurn = .elapse ns) ∧
  (∀ (ns : Nat) (s : State),
    let t := s.elapse ns
    s.dtime ≤ t.dtime ∧ t.dtime ≤ s.dtime + ns ∧
    (s.dtime ≤ s.pw.lastTick + 10000 → t.dtime ≤ s.pw.lastTick + 10000) ∧
    (s.dtime ≤ s.pw.lastScrub + 2000000 → t.dtime ≤ s.pw.lastScrub + 2000000) ∧
    (∀ x ∈ s.ports.out, s.dtime ≤ 256 * x.tick → t.dtime ≤ 256 * x.tick) ∧
    (∀ e ∈ s.pw.islands, ∀ p due, e.2.change = some (p, due) → s.dtime ≤ due → t.dtime ≤ due) ∧
    (∀ mu, s.multi = some mu → s.dtime ≤ mu.since + 1000000 → t.dtime ≤ mu.since + 1000000) ∧
    (∀ slot tk, s.task? slot = some tk → ∃ tk', t.task? slot = some tk' ∧ tk'.state = tk.state ∧
      (tk.state = .running → tk.faulted = false →
        t.dtime - s.dtime ≤ tk.budget ∧ tk'.budget = tk.budget - (t.dtime - s.dtime)) ∧
      (tk.state ≠ .running ∨ tk.faulted = true → tk'.budget = tk.budget)) ∧
    t.m = s.m ∧ t.r = s.r ∧ t.queues = s.queues ∧ t.jobs = s.jobs)

/-- R104, R185, R223, R261, R303, R319, with the reset values of log 14 where no rule gives one: after reset no task,
stream or queue stands, memory lists nothing and has its canonical form, the features are not fixed, every island runs
at OP0, partition 0 holds every island and all of memory, and a core-task starts with every item of R104 at its start
value. -/
def Obligations.ResetValues : Prop :=
  State.reset.MemWf ∧ (∀ a, Tab.get 0 State.reset.m.dpa a = 0) ∧ (∀ k, Tab.get 0 State.reset.m.keyTags k = 0) ∧
  State.reset.tasks = [] ∧ State.reset.streams = [] ∧ State.reset.dtime = 0 ∧
  (∀ n, (State.reset.queue n).en = false) ∧
  State.reset.r.featw0 = 0 ∧ State.reset.r.featFixed = false ∧ State.reset.r.rscarve = 0 ∧
  (∀ core, (State.reset.island core).point = 0 ∧ (State.reset.island core).change = none) ∧
  (∀ core < 128, State.reset.partOf core = 0) ∧
  pmemRange (Tab.get 0 State.reset.r.pmem 0) = (0, dpaTop) ∧
  (∀ n < 9, ∀ w < 3, tqSumsOk State.reset.r.tq w = true ∧ 1 ≤ fieldOf (Tab.get 0 State.reset.r.tq (4 * n + 1)) 0 5) ∧
  ∀ (core : Nat) (q : SeqId),
    let c := CoreTask.fresh core
    (∀ r, (c.seq q).rd r = 0) ∧ (c.seq q).loops = [] ∧ (c.seq q).rets = [] ∧ (c.seq q).tags = [] ∧
    (∀ t, t < 48 → c.tsdOf t = 0xFF002040 ∧ c.tileBusy t = false) ∧ (∀ a n, sliceN 0 c.tiles a n = List.replicate n 0) ∧
    (∀ a n, c.readLocal a n = List.replicate n 0) ∧ (∀ n, Tab.get 0 c.acc n = 0 ∧ Tab.get 0 c.ag n = 0 ∧ Tab.get 0 c.jt n = 0) ∧
    (∀ n, (c.sem n).n = 0 ∧ (c.token n).n = 0 ∧
      (Tab.get Bar.zero c.bars n).count = 0 ∧ (Tab.get Bar.zero c.bars n).phase = false) ∧
    c.ring = [] ∧ c.mxq = [] ∧ c.cpq = [] ∧ c.resid = [] ∧ c.mdq = [] ∧ c.queues = []

/-- R322, R352, R355, R372 with R321 and R79: sums, differences and products of 64-bit registers, and the high words
of the exact products; everything but `d`, the loop stack and the program counter is as it was. The bytes that R322
and R372 write out decode to their words, and the all-zero word raises ILLEGAL-FIELD. R325, R362: AND, OR and XOR bit
by bit, with the immediate sign-extended; shifts by a count modulo 64. -/
def Obligations.ScalarArithmeticAndLogic : Prop :=
  (∀ (k : BitVec 8) (d a b c : GReg) (imm : BitVec 40),
      Writes (.addReg k d a b) (useD k d) d (fun q => BitVec.ofNat 64 ((q.rd a).toNat + (q.rd b).toNat)) ∧
      Writes (.addImm k d a imm) (useD k d) d (fun q => BitVec.ofInt 64 ((q.rd a).toInt + imm.toInt)) ∧
      Writes (.sub k d a b) (useD k d) d (fun q => BitVec.ofInt 64 ((q.rd a).toInt - (q.rd b).toInt)) ∧
      Writes (.mulReg k d a b) (useD k d) d (fun q => BitVec.ofNat 64 ((q.rd a).toNat * (q.rd b).toNat)) ∧
      Writes (.mulImm k d a imm) (useD k d) d (fun q => BitVec.ofInt 64 ((q.rd a).toInt * imm.toInt)) ∧
      Writes (.mulh k d a b) (useD k d) d (fun q => BitVec.ofInt 64 ((q.rd a).toInt * (q.rd b).toInt / 2 ^ 64)) ∧
      Writes (.mulhU k d a b) (useD k d) d (fun q => BitVec.ofNat 64 ((q.rd a).toNat * (q.rd b).toNat / 2 ^ 64)) ∧
      Writes (.madd k d a b c) (useD k d) d
        (fun q => BitVec.ofNat 64 ((q.rd a).toNat + (q.rd b).toNat * (q.rd c).toNat)) ∧
      decodeBytes [0xA0, 0x86, 0x01, 0x00, 0x00, 0x4A, 0x4A, 0x00, 0x80, 0x00] = some (.addImm 0 10 10 100000) ∧
      decodeBytes [0x00, 0x00, 0x00, 0x00, 0x45, 0x44, 0x43, 0x00, 0x00, 0x01] = some (.sub 0 3 4 5) ∧
      ∀ (q : SeqId) (sparse : Bool), checkWord 0 sparse q = .fault (trapOf .illegalField)) ∧
  (∀ (k : BitVec 8) (d a b : GReg) (imm : BitVec 40) (n : BitVec 6),
      Writes (.andReg k d a b) (useD k d) d (fun q => q.rd a &&& q.rd b) ∧
      Writes (.andImm k d a imm) (useD k d) d (fun q => q.rd a &&& imm.signExtend 64) ∧
      Writes (.orReg k d a b) (useD k d) d (fun q => q.rd a ||| q.rd b) ∧
      Writes (.orImm k d a imm) (useD k d) d (fun q => q.rd a ||| imm.signExtend 64) ∧
      Writes (.xorReg k d a b) (useD k d) d (fun q => q.rd a ^^^ q.rd b) ∧
      Writes (.xorImm k d a imm) (useD k d) d (fun q => q.rd a ^^^ imm.signExtend 64) ∧
      Writes (.shlReg k d a b) (useD k d) d (fun q => BitVec.ofNat 64 ((q.rd a).toNat * 2 ^ ((q.rd b).toNat % 64))) ∧
      Writes (.shlImm k d a n) (useD k d) d (fun q => BitVec.ofNat 64 ((q.rd a).toNat * 2 ^ n.toNat)) ∧
      Writes (.shrReg k d a b) (useD k d) d (fun q => BitVec.ofNat 64 ((q.rd a).toNat / 2 ^ ((q.rd b).toNat % 64))) ∧
      Writes (.shrImm k d a n) (useD k d) d (fun q => BitVec.ofNat 64 ((q.rd a).toNat / 2 ^ n.toNat)) ∧
      Writes (.sarReg k d a b) (useD k d) d (fun q => BitVec.ofInt 64 ((q.rd a).toInt / 2 ^ ((q.rd b).toNat % 64))) ∧
      Writes (.sarImm k d a n) (useD k d) d (fun q => BitVec.ofInt 64 ((q.rd a).toInt / 2 ^ n.toNat)))

/-- R353, R354, R363, R366: comparisons write 1 or 0, signed or unsigned as the mnemonic says; minimum, maximum, move
and select. R329, R331, R347, R358: immediates, bit fields, and counts of bits. BFI reads its source before a landed
result of its destination is committed, and merges into that result (R90). A bit field word that decodes has its field
inside the register (`fieldOk`). R340, R360, R89: unsigned quotient and remainder, with all ones and the dividend for
a zero divisor. Without a tag the result is written at once; with a tag the tag is allocated, busy and not landed, and
holds the result, and every other register keeps its value. -/
def Obligations.ScalarComparesFieldsAndDivision : Prop :=
  (∀ (k : BitVec 8) (d a b c : GReg) (imm : BitVec 40),
      Writes (.sltReg k d a b) (useD k d) d (fun q => if (q.rd a).toInt < (q.rd b).toInt then 1 else 0) ∧
      Writes (.sltImm k d a imm) (useD k d) d (fun q => if (q.rd a).toInt < imm.toInt then 1 else 0) ∧
      Writes (.sltuReg k d a b) (useD k d) d (fun q => if (q.rd a).toNat < (q.rd b).toNat then 1 else 0) ∧
      Writes (.sltuImm k d a imm) (useD k d) d
        (fun q => if (q.rd a).toNat < (imm.signExtend 64).toNat then 1 else 0) ∧
      Writes (.seqReg k d a b) (useD k d) d (fun q => if q.rd a = q.rd b then 1 else 0) ∧
      Writes (.seqImm k d a imm) (useD k d) d (fun q => if q.rd a = imm.signExtend 64 then 1 else 0) ∧
      Writes (.min k d a b) (useD k d) d (fun q => BitVec.ofInt 64 (Min.min (q.rd a).toInt (q.rd b).toInt)) ∧
      Writes (.minU k d a b) (useD k d) d (fun q => BitVec.ofNat 64 (Min.min (q.rd a).toNat (q.rd b).toNat)) ∧
      Writes (.max k d a b) (useD k d) d (fun q => BitVec.ofInt 64 (Max.max (q.rd a).toInt (q.rd b).toInt)) ∧
      Writes (.maxU k d a b) (useD k d) d (fun q => BitVec.ofNat 64 (Max.max (q.rd a).toNat (q.rd b).toNat)) ∧
      Writes (.mov k d a) (useD k d) d (fun q => q.rd a) ∧
      Writes (.sel k d a b c) (useD k d) d (fun q => if q.rd c = 0 then q.rd b else q.rd a)) ∧
  ((∀ (k : BitVec 8) (d a : GReg) (lsb : BitVec 6) (width : BitVec 7) (imm : BitVec 40) (hi : BitVec 24),
      Writes (.li k d imm) (useD k d) d (fun _ => BitVec.ofInt 64 imm.toInt) ∧
      Writes (.lih k d hi) (useRmw k d) d
        (fun q => BitVec.ofNat 64 (hi.toNat * 2 ^ 40 + (q.rd d).toNat % 2 ^ 40)) ∧
      (fieldOk lsb width = true →
        Writes (.bfx k d a lsb width) (useD k d) d
          (fun q => BitVec.ofNat 64 ((q.rd a).toNat / 2 ^ lsb.toNat % 2 ^ width.toNat)) ∧
        Writes (.bfxS k d a lsb width) (useD k d) d
          (fun q => BitVec.ofInt 64 (Int.bmod ((q.rd a).toNat / 2 ^ lsb.toNat : Nat) (2 ^ width.toNat))) ∧
        (a ≠ d → Writes (.bfi k d a lsb width) (useRmw k d) d (fun q => insertBits (q.rd d) (q.rd a) lsb width)) ∧
        ∀ (s : State) (tk : Task) (c0 c : CoreTask), s.canIssue s.cur = some (tk, c0) → s.Enters (useRmw k d) c →
          ∃ t, exec (.bfi k d a lsb width) s = .next t ∧ s.Wrote t c d (insertBits ((c.seq s.cur.q).rd d)
            (((c0.settleAll s.cur.q (consTags k)).1.seq s.cur.q).rd a) lsb width)) ∧
      Writes (.clz k d a) (useD k d) d (fun q => leadingZeros (q.rd a)) ∧
      Writes (.ctz k d a) (useD k d) d (fun q => trailingZeros (q.rd a)) ∧
      Writes (.popc k d a) (useD k d) d
        (fun q => BitVec.ofNat 64 ((List.range 64).countP (fun i => (q.rd a).getLsbD i)))) ∧
    (∀ (x y : Word) (lsb : BitVec 6) (width : BitVec 7) (i : Nat), i < 64 → fieldOk lsb width = true →
      (insertBits x y lsb width).getLsbD i =
        if lsb.toNat ≤ i ∧ i < lsb.toNat + width.toNat then y.getLsbD (i - lsb.toNat) else x.getLsbD i) ∧
    leadingZeros 0 = 64 ∧ trailingZeros 0 = 64 ∧
    (∀ (x : Word), x ≠ 0 →
      x.getLsbD (63 - (leadingZeros x).toNat) = true ∧ (∀ i, 63 - (leadingZeros x).toNat < i → x.getLsbD i = false) ∧
      (leadingZeros x).toNat ≤ 63 ∧
      x.getLsbD (trailingZeros x).toNat = true ∧ (∀ i, i < (trailingZeros x).toNat → x.getLsbD i = false))) ∧
  (∀ (k : BitVec 8) (d a b : GReg),
      Writes (.divu k none d a b) (useD k d) d
        (fun q => if q.rd b = 0 then BitVec.allOnes 64 else BitVec.ofNat 64 ((q.rd a).toNat / (q.rd b).toNat)) ∧
      Writes (.remu k none d a b) (useD k d) d
        (fun q => if q.rd b = 0 then q.rd a else BitVec.ofNat 64 ((q.rd a).toNat % (q.rd b).toNat)) ∧
      (∀ (tg : Tag) (s : State) (c : CoreTask),
        s.Enters { perm := allSeqs, cons := k, alloc := some tg, dst := gDst d } c →
        ∀ (i : Instr) (v : Word),
          (i = .divu k (some tg) d a b ∧ v = divWord ((c.seq s.cur.q).rd a) ((c.seq s.cur.q).rd b)) ∨
          (i = .remu k (some tg) d a b ∧ v = remWord ((c.seq s.cur.q).rd a) ((c.seq s.cur.q).rd b)) →
          ∃ t, exec i s = .next t ∧ s.OnlyCur t ∧
            ∃ c', t.ct? s.cur.slot s.cur.rank = some c' ∧ c.OnlySeq c' s.cur.q ∧
              find (c'.seq s.cur.q).tags tg.val = some { dest := .g d, res := .value v, landed := false } ∧
              (∀ r, r ≠ d → (c'.seq s.cur.q).rd r = (c.seq s.cur.q).rd r) ∧
              ((c'.seq s.cur.q).loops, (c'.seq s.cur.q).pc) = loopEnd (c.seq s.cur.q).loops (c.seq s.cur.q).pc))

/-- R97, R99: a branch goes OFF40 words from its own address, when its condition holds, and drops the loops that do
not hold the target; otherwise the sequencer goes on. R98: CALL pushes the address behind it and jumps, RET pops and
jumps there; a seventeenth push and a pop of nothing raise RSTACK. Both leave the loop stack alone. R377: TRAP raises
TRAP at itself, whatever its code. -/
def Obligations.BranchesCallsAndTraps : Prop :=
  ((∀ (k : BitVec 8) (a b : GReg) (off : BitVec 40) (s : State) (c : CoreTask), s.Enters (anySeq k) c →
      let q := c.seq s.cur.q
      let t := BitVec.ofInt 32 (q.pc.toNat + off.toInt)
      let taken := s.jumped (c.setSeq s.cur.q { q with pc := t, loops := popLoops t q.loops })
      let on := s.passed (anySeq k) c none
      exec (.b k off) s = .next taken ∧
      exec (.bcEq k a b off) s = .next (if q.rd a = q.rd b then taken else on) ∧
      exec (.bcNe k a b off) s = .next (if q.rd a = q.rd b then on else taken) ∧
      exec (.bcLt k a b off) s = .next (if (q.rd a).toInt < (q.rd b).toInt then taken else on) ∧
      exec (.bcGe k a b off) s = .next (if (q.rd b).toInt ≤ (q.rd a).toInt then taken else on) ∧
      exec (.bcLtu k a b off) s = .next (if (q.rd a).toNat < (q.rd b).toNat then taken else on) ∧
      exec (.bcGeu k a b off) s = .next (if (q.rd b).toNat ≤ (q.rd a).toNat then taken else on)) ∧
    (∀ (t : BitVec 32) (e : LoopEntry) (es : List LoopEntry),
      (e.start.toNat ≤ t.toNat ∧ t.toNat ≤ e.last.toNat → popLoops t (e :: es) = e :: es) ∧
      (t.toNat < e.start.toNat ∨ e.last.toNat < t.toNat → popLoops t (e :: es) = popLoops t es)) ∧
    ∀ t, popLoops t [] = []) ∧
  (∀ (k : BitVec 8) (off : BitVec 40) (s : State) (c : CoreTask), s.Enters (anySeq k) c →
      let q := c.seq s.cur.q
      (q.rets.length < 16 → exec (.call k off) s = .next (s.jumped (c.setSeq s.cur.q
        { q with rets := (q.pc + 1) :: q.rets, pc := BitVec.ofInt 32 (q.pc.toNat + off.toInt) }))) ∧
      (16 ≤ q.rets.length → exec (.call k off) s = .next (s.trapped c (trapOf .rstack))) ∧
      (q.rets = [] → exec (.ret k) s = .next (s.trapped c (trapOf .rstack))) ∧
      (∀ t ts, q.rets = t :: ts →
        exec (.ret k) s = .next (s.jumped (c.setSeq s.cur.q { q with rets := ts, pc := t })))) ∧
  ((∀ (k : BitVec 8) (code : BitVec 16) (s : State) (c : CoreTask), s.Enters (anySeq k) c →
      exec (.trap k code) s = .next (s.trapped c (trapOf .trap))) ∧
    (∀ (s : State) (c : CoreTask) (t : Trap), s.ct? s.cur.slot s.cur.rank = some c →
      ∃ c', (s.raise s.cur t).ct? s.cur.slot s.cur.rank = some c' ∧ s.OnlyCur (s.raise s.cur t) ∧
        c'.seq s.cur.q = { c.seq s.cur.q with status := .faulted } ∧
        { c' with notes := c.notes }.setSeq s.cur.q (c.seq s.cur.q) = c ∧
        ∃ n : FaultNote, c'.notes = c.notes ++ [n] ∧ n.code = t.code ∧ n.waddr = (c.seq s.cur.q).pc ∧ n.time = s.dtime ∧
          n.kind = seqNum s.cur.q ∧ n.addr = t.addr ∧ n.cause = t.cause ∧ n.deferred = false))

/-- R79, R99, R357, R100: NOP and LPAD change nothing but the program counter and the loop stack; a word that stands
at the last word of the innermost loop goes back to its start while passes remain, and otherwise leaves the loop and
asks the loop around it; every other word goes on to the next. R99: LOOP opens a loop over the words behind it, at
most four deep; a count of 0 skips them. R100: JTBL reads entry `i` of its table and jumps to it, when `i` is below
the bound, the entry lies in the section and stands for a word address, and the target is an LPAD with the table's
label; each failed check has its fault. That a target with LPAD's opcode and a non-zero reserved field gives
LPAD-MISMATCH, which R100 and R83 leave open, is the model's choice (log 57). -/
def Obligations.LoopsAndJumpTables : Prop :=
  ((∀ (k : BitVec 8) (l : BitVec 16) (s : State) (c : CoreTask),
      (s.Enters (anySeq k) c → exec (.nop k) s = .next (s.passed (anySeq k) c none)) ∧
      (s.Enters (cOnly k) c → exec (.lpad k l) s = .next (s.passed (cOnly k) c none))) ∧
    (∀ (u : WordUse) (s : State) (c : CoreTask), s.Enters u c → u.dst = none →
      ∃ c', (s.passed u c none).ct? s.cur.slot s.cur.rank = some c' ∧ s.OnlyCur (s.passed u c none) ∧
        c.OnlySeq c' s.cur.q ∧
        ∀ (e : LoopEntry) (es : List LoopEntry),
          ((c.seq s.cur.q).loops = [] → c'.seq s.cur.q =
            { c.seq s.cur.q with pc := (c.seq s.cur.q).pc + 1, wait := none }) ∧
          ((c.seq s.cur.q).loops = e :: es → (c.seq s.cur.q).pc ≠ e.last → c'.seq s.cur.q =
            { c.seq s.cur.q with pc := (c.seq s.cur.q).pc + 1, wait := none }) ∧
          ((c.seq s.cur.q).loops = e :: es → (c.seq s.cur.q).pc = e.last → 1 < e.remaining → c'.seq s.cur.q =
            { c.seq s.cur.q with pc := e.start, loops := { e with remaining := e.remaining - 1 } :: es,
                                 wait := none }) ∧
          ((c.seq s.cur.q).loops = e :: es → (c.seq s.cur.q).pc = e.last → e.remaining ≤ 1 →
            ({ c.seq s.cur.q with loops := es }).advance = c'.seq s.cur.q))) ∧
  (∀ (k : BitVec 8) (a : GReg) (n last : BitVec 20) (s : State) (c : CoreTask), s.Enters (anySeq k) c →
      let q := c.seq s.cur.q
      ∀ (i : Instr) (count : Nat),
        (i = .loopReg k a last ∧ count = (q.rd a).toNat) ∨ (i = .loopImm k n last ∧ count = n.toNat) →
        (4 ≤ q.loops.length → exec i s = .next (s.trapped c (trapOf .loopDepth))) ∧
        (q.loops.length < 4 → 0 < count → exec i s = .next (s.jumped (c.setSeq s.cur.q { q with
          pc := q.pc + 1,
          loops := { start := q.pc + 1, last := q.pc + last.setWidth 32, remaining := count } :: q.loops }))) ∧
        (q.loops = [] → count = 0 →
          exec i s = .next (s.jumped (c.setSeq s.cur.q { q with pc := q.pc + last.setWidth 32 + 1 })))) ∧
  (∀ (k : BitVec 8) (a : GReg) (n : Fin 4) (s : State) (c : CoreTask) (t : Task), s.Enters (cOnly k) c →
      s.task? s.cur.slot = some t →
      let jt := Tab.get 0 c.jt n.val
      let i := (c.seqC.rd a).toNat
      let place := jt.toNat % 2 ^ 32 + i
      let bound := jt.toNat / 2 ^ 32 % 2 ^ 16
      let label := jt.toNat / 2 ^ 48
      let e := (s.codeWord t place).toNat
      (bound ≤ i → exec (.jtbl k a n) s = .next (s.trapped c (trapOf .jtblBound))) ∧
      (i < bound → t.image.holds .c place = false ∨ 2 ^ 32 ≤ e →
        exec (.jtbl k a n) s = .next (s.trapped c (trapOf .illegalField))) ∧
      (i < bound → t.image.holds .c place = true → e < 2 ^ 32 →
        t.image.holds .c e = false ∨ (∀ k' l, decodeWord (s.codeWord t e) = some (.lpad k' l) → l.toNat ≠ label) →
        exec (.jtbl k a n) s = .next (s.trapped c (trapOf .lpadMismatch))) ∧
      (∀ k' l, i < bound → t.image.holds .c place = true → e < 2 ^ 32 → t.image.holds .c e = true →
        decodeWord (s.codeWord t e) = some (.lpad k' l) → l.toNat = label →
        exec (.jtbl k a n) s = .next (s.jumped (c.setSeq .c (c.seqC.branch (BitVec.ofNat 32 e))))))

/-- R57, R58, R60, R61, R62, R63: FORK starts an idle sequencer at its target; an RDV whose mask leaves out its own
sequencer faults at decode; the last arrival at a rendezvous releases every participant, unless the gang has faulted;
EXIT ends L, X and S when their results have landed, and the core-task when its engines are idle, its writes are
delivered, the other sequencers have ended and nothing stands in the way of the successor future that the last rank's
retirement resolves (log 22). -/
def Obligations.SequencersStartMeetAndEnd : Prop :=
  (∀ (k : BitVec 8) (seq : SeqId) (target : BitVec 32) (s s1 : State) (c c1 : CoreTask) (t : Task),
    s.Enters (cOnly k) c → s.task? s.cur.slot = some t →
    (t.image.holds seq target.toNat = false ∨ (c.seq seq).status ≠ .idle →
      exec (.fork k seq target) s = .next (s.trapped c (trapOf .illegalField))) ∧
    (t.image.holds seq target.toNat = true → (c.seq seq).status = .idle → seq ≠ .c →
      ((s.withCur c).testRelease s.cur .core = .wait s1 →
        exec (.fork k seq target) s = .next (s.waitsIn s1 .plain)) ∧
      ((s.withCur c).testRelease s.cur .core = .ready s1 → s1.ct? s.cur.slot s.cur.rank = some c1 →
        exec (.fork k seq target) s = .next ((s1.putCt s.cur.slot s.cur.rank
          (({ c1 with seqC := c1.seqC.release }).setSeq seq
            { (c1.seq seq).acquire (c1.seqC.stamp + 1) with status := .running, pc := target })).goesOn s.cur
              (cOnly k) none)))) ∧
  (∀ (k : BitVec 8) (mask : BitVec 4) (s : State), mask.getLsbD (seqNum s.cur.q) = false →
    (s.canIssue s.cur).isSome = true → FieldFault (.rdv k mask) s) ∧
  (∀ (k : BitVec 8) (mask : BitVec 4) (s : State) (c : CoreTask),
    let u : WordUse := { anySeq k with legal := mask.getLsbD (seqNum s.cur.q) }
    s.Enters u c →
    let others := (maskSeqs mask).filter (· ≠ s.cur.q)
    (c.rdvMask s.cur.q = none → c.rdvBad s.cur.q mask = true →
      exec (.rdv k mask) s = .next (s.trapped c (trapOf .illegalField))) ∧
    ((c.rdvMask s.cur.q).isSome = true ∨ c.rdvBad s.cur.q mask = false →
      (s.cur.q = .c → c.gbarReady = false → exec (.rdv k mask) s = .next (s.waitCt s.cur c .plain)) ∧
      ((s.cur.q = .c → c.gbarReady = true) →
        ((∃ q ∈ others, c.rdvMask q ≠ some mask ∨ s.gangFaulted = true) →
          exec (.rdv k mask) s = .next (s.waitCt s.cur c (.rdv mask))) ∧
        ((∀ q ∈ others, c.rdvMask q = some mask ∧ s.gangFaulted = false) →
          exec (.rdv k mask) s = .next (s.passed u
            (others.foldl (fun c q => c.updSeq q Seq.advance) (c.meet (maskSeqs mask))) none))))) ∧
  (∀ (k : BitVec 8) (s s2 : State) (c c1 : CoreTask), s.Enters (anySeq k) c →
    (c.settleAll s.cur.q ((c.seq s.cur.q).tags.map (·.1)) = (c1, false) →
      exec (.exit k) s = .next (s.waitsIn ((s.withCur c).putCt s.cur.slot s.cur.rank c1) .plain)) ∧
    (c.settleAll s.cur.q ((c.seq s.cur.q).tags.map (·.1)) = (c1, true) →
      (s.cur.q ≠ .c → exec (.exit k) s = .next ((s.withCur c).putCt s.cur.slot s.cur.rank
        (c1.setSeq s.cur.q { c1.seq s.cur.q with status := .exited, wait := none }))) ∧
      (s.cur.q = .c → c1.drained = true →
        (((s.withCur c).withCur c1).atStage .delivering).testRelease s.cur .sys = .ready s2 →
        (c1.othersDone = false → exec (.exit k) s = .next (s.waitsIn (s2.atStage .waiting) .plain)) ∧
        (c1.othersDone = true → s2.successorCheck s.cur.slot s.cur.rank = .ok →
          exec (.exit k) s = .next (s2.retireCt s.cur.slot s.cur.rank)))))

/-- R114, R375, R376: a token word that names its own sequencer faults at decode, and a count of 0 or above 255 faults
at the word. TKSIG is a release that adds to the token queue towards its sequencer: it waits until the release is met,
and it waits while more than 255 tokens would stand in the queue. TKWAIT takes its tokens as an acquire, and waits for
them. R271, R343, R399: GRPEND waits until every sequencer of the core-task that has not ended stands at it, and
passes them all; with a migration pending the core-task first moves to the coolest free core of its partition, if one
is cool enough and carries its power level. YIELD goes on when no task of at least its priority could take its cores,
or when a fault is already stopping the gang, and otherwise preempts its gang. -/
def Obligations.TokensAndBoundaries : Prop :=
  ((∀ (k : BitVec 8) (n : Operand 8) (s : State), (s.canIssue s.cur).isSome = true →
      FieldFault (.tksig k s.cur.q n) s ∧ FieldFault (.tkwait k s.cur.q n) s) ∧
    (∀ (k : BitVec 8) (seq : SeqId) (n : Operand 8) (s s1 : State) (c c1 : CoreTask),
      let u : WordUse := { anySeq k with legal := decide (s.cur.q ≠ seq) }
      s.Enters u c →
      let v := operandValue (c.seq s.cur.q) n
      (v.toNat = 0 ∨ 255 < v.toNat →
        exec (.tksig k seq n) s = .next (s.trapped c (trapOf .illegalField)) ∧
        exec (.tkwait k seq n) s = .next (s.trapped c (trapOf .illegalField))) ∧
      (1 ≤ v.toNat → v.toNat ≤ 255 →
        ((s.withCur c).testRelease s.cur .core = .wait s1 →
          exec (.tksig k seq n) s = .next (s.waitsIn s1 .plain)) ∧
        ((s.withCur c).testRelease s.cur .core = .ready s1 → s1.ct? s.cur.slot s.cur.rank = some c1 →
          let o := c1.token (tokenKey s.cur.q seq)
          (255 < o.n + v.toNat → exec (.tksig k seq n) s = .next (s.waitsIn s1 .plain)) ∧
          (o.n + v.toNat ≤ 255 →
            exec (.tksig k seq n) s = .next ((s1.putCt s.cur.slot s.cur.rank
              ((c1.updSeq s.cur.q Seq.release).setToken (tokenKey s.cur.q seq)
                { n := o.n + v.toNat, st := stMax o.st ((c1.seq s.cur.q).stamp + 1) })).goesOn s.cur u none))) ∧
        let o := c.token (tokenKey seq s.cur.q)
        (o.n < v.toNat → exec (.tkwait k seq n) s = .next (s.waitCt s.cur c .plain)) ∧
        (v.toNat ≤ o.n → exec (.tkwait k seq n) s = .next (s.passed u
          ((c.setToken (tokenKey seq s.cur.q) { o with n := o.n - v.toNat }).updSeq s.cur.q (·.acquire o.st)) none)))) ∧
    (∀ (c : CoreTask) (k j : Nat) (o : Obj), (c.setToken k o).token j = if j = k then o else c.token j)) ∧
  ((∀ (k : BitVec 8) (s : State) (c : CoreTask) (t : Task), s.Enters (anySeq k) c →
      (s.withCur c).task? s.cur.slot = some t →
      let held := { c with persistent := true }
      let s1 := (s.withCur c).withCur held
      (c.boundary s.cur.q (s.withCur c).gangFaulted = false →
        exec (.grpend k) s = .next (s.waitsIn (s.withCur c) .grpend)) ∧
      (c.boundary s.cur.q (s.withCur c).gangFaulted = true →
        (c.migPend = false →
          exec (.grpend k) s = .next (((s.withCur c).withCur (c.passBoundary s.cur.q)).goesOn s.cur (anySeq k) none)) ∧
        (c.migPend = true → s1.coolCore t c.core = none →
          exec (.grpend k) s = .next ((s1.withCur (held.passBoundary s.cur.q)).goesOn s.cur (anySeq k) none)) ∧
        (∀ core, c.migPend = true → s1.coolCore t c.core = some core →
          (s1.levelFits c.core core c.pwrlvl = false → exec (.grpend k) s = .next (s.waitsIn s1 .grpend)) ∧
          (∀ s2 t2 c2 c3, s1.levelFits c.core core c.pwrlvl = true → s1.drainCt s.cur.slot s.cur.rank true = (s2, []) →
            s2.task? s.cur.slot = some t2 → s2.ct? s.cur.slot s.cur.rank = some c2 → c2.notes = [] → t2.conds = [] →
            (s2.moveCt s.cur.slot s.cur.rank c.core core).ct? s.cur.slot s.cur.rank = some c3 →
            exec (.grpend k) s = .next (((s2.moveCt s.cur.slot s.cur.rank c.core core).putCt s.cur.slot s.cur.rank
              (c3.passBoundary s.cur.q)).goesOn s.cur (anySeq k) none))))) ∧
    (∀ (c : CoreTask) (q : SeqId) (faulted : Bool), c.boundary q faulted = true ↔
      ∀ p, p ≠ q → (c.seq p).status = .idle ∨ (c.seq p).status = .exited ∨
        ((c.seq p).status = .running ∧ faulted = false ∧ (c.seq p).wait.map (·.kind) = some .grpend)) ∧
    (∀ (k : BitVec 8) (s : State) (c : CoreTask) (t : Task), s.Enters (cOnly k) c →
      (s.withCur c).task? s.cur.slot = some t →
      (t.faulted = true ∨ (s.withCur c).yieldsTo t = false →
        exec (.yield k) s = .next ((s.withCur c).goesOn s.cur (cOnly k) none)) ∧
      (t.faulted = false → (s.withCur c).yieldsTo t = true →
        let s1 := (s.withCur c).withCur (c.updSeq .c Seq.advance)
        exec (.yield k) s = .next ({ s1.updTask s.cur.slot (fun t => { t with place := s.fresh }) with
          fresh := s.fresh + 1 }.stopGang s.cur.slot [] true))))

/-- R190, R197, R288, R344, R345: a global load checks its alignment, translates its address, waits behind the
core-task's own accumulates, atomics and, without a tag, posted stores that touch its bytes and a home slice that is
held, and writes the extended bytes to `d`, or allocates its tag to the access under the translation that it has; a
misalignment, a failed translation, a key that differs and a race each have their fault. A granule races with an
access of another agent that shares a byte, is not an atomic beside an atomic, and is not ordered before. -/
def Obligations.GlobalLoads : Prop :=
  (∀ (k : BitVec 8) (t : Option Tag) (sz : LoadSize) (d a : GReg) (off : BitVec 40) (s : State) (c : CoreTask) (tk : Task)
      (x : Xl),
    let u : WordUse := { perm := [.c], cons := k, alloc := t, dst := gDst d }
    s.Enters u c → (s.withCur c).task? s.cur.slot = some tk →
    let va := c.seqC.rd a + BitVec.ofInt 64 off.toInt
    let s1 := s.withCur c
    let kept := (s1.cache tk.ctx va x sz.bytes).clearMiss s.cur.slot s.cur.rank 0 va c.seqC.pc
    let id := agentId s.cur.slot s.cur.rank 0
    (¬sz.bytes ∣ va.toNat → exec (.ldg k t sz d a off) s = .next (s.trapped c (trapAt .align va))) ∧
    (∀ tr, sz.bytes ∣ va.toNat → s1.translate tk.ctx Need.read va = .trap tr →
      exec (.ldg k t sz d a off) s = .next (s.trapped c tr)) ∧
    (sz.bytes ∣ va.toNat → s1.translate tk.ctx Need.read va = .ok x →
      (∀ s2, s1.accBusy tk.ctx c va.toNat x.f sz.bytes = true →
        s1.deliverAll s.cur.slot s.cur.rank
          (c.slotsWhere (fun r => !r.flying && s1.slotMeets tk.ctx r va.toNat x.f sz.bytes)) = .ok s2 →
        exec (.ldg k t sz d a off) s = .next (s.waitsIn s2 .plain)) ∧
      (s1.accBusy tk.ctx c va.toNat x.f sz.bytes = false →
        (s1.atomAt s.cur.slot s.cur.rank x.f sz.bytes = true →
          exec (.ldg k t sz d a off) s = .next (s.waitsIn s1 .plain)) ∧
        (s1.atomAt s.cur.slot s.cur.rank x.f sz.bytes = false →
          (∀ tg, t = some tg → exec (.ldg k t sz d a off) s = .next ((kept.putCt s.cur.slot s.cur.rank
            (c.deferLoad .c tg d (.ldg va sz c.seqC.pc c.seqC.stamp
              (some { f := x.f, key := x.key, keep := x.keep })))).goesOn s.cur u none)) ∧
          (t = none →
            (c.postedAt x.f sz.bytes = true ∨ s.heldAt x.f = true →
              exec (.ldg k t sz d a off) s = .next (s.waitsIn s1 .plain)) ∧
            (c.postedAt x.f sz.bytes = false → s.heldAt x.f = false →
              (s1.keyBad x.f x.key = true →
                exec (.ldg k t sz d a off) s = .next (s.trapped c (trapAt .keyMismatch va))) ∧
              (s1.keyBad x.f x.key = false →
                (∀ tr, s1.raceAt x.f sz.bytes x.keep id c.seqC.stamp false false = some tr →
                  tr.code = .race ∧ exec (.ldg k t sz d a off) s = .next (s.trapped c tr)) ∧
                (s1.raceAt x.f sz.bytes x.keep id c.seqC.stamp false false = none →
                  exec (.ldg k t sz d a off) s = .next ((((s1.noteRead x.f sz.bytes x.keep id
                    c.seqC.stamp).cache tk.ctx va x sz.bytes).clearMiss s.cur.slot s.cur.rank 0 va c.seqC.pc).goesOn s.cur u
                      (some (d, sz.extend (s1.readFinal x.f sz.bytes)))))))))))) ∧
  (∀ (sz : LoadSize) (bs : List Byte), bs.length = sz.bytes →
    sz.extend bs = if sz.signed then BitVec.ofInt 64 (Int.bmod (leNat bs) (2 ^ (8 * sz.bytes))) else
      BitVec.ofNat 64 (leNat bs)) ∧
  (∀ (s : State) (a n i : Nat), i < n →
    (s.readFinal { host := false, a := a } n)[i]? = some (Tab.get 0 s.m.dpa (a + i))) ∧
  (∀ (r : RaceRec) (b : BitVec 64) (a : AgentId) (st : Stamp) (writes atomic : Bool),
    r.conflict b a st writes atomic = none ↔ ∀ m ∈ r.w ++ (if writes then r.r else []),
      m.bytes &&& b = 0 ∨ m.agent = a ∨ (atomic = true ∧ m.atomic = true) ∨ exceeds st m.stamp = true)

/-- R190, R344, R369, R370: a global store checks and translates as a load does, waits behind the core-task's own
accumulates, atomics and deferred loads that touch its bytes, and is posted behind at most 31 others with the low
bytes of its register; no byte of memory changes until it is applied at its home slice. -/
def Obligations.GlobalStoresArePosted : Prop :=
  ∀ (k : BitVec 8) (sz : StoreSize) (v a : GReg) (off : BitVec 40) (s : State) (c : CoreTask) (tk : Task) (x : Xl),
    s.Enters (cOnly k) c → (s.withCur c).task? s.cur.slot = some tk →
    let va := c.seqC.rd a + BitVec.ofInt 64 off.toInt
    let s1 := s.withCur c
    (¬sz.bytes ∣ va.toNat → exec (.stg k sz v a off) s = .next (s.trapped c (trapAt .align va))) ∧
    (∀ tr, sz.bytes ∣ va.toNat → s1.translate tk.ctx Need.write va = .trap tr →
      exec (.stg k sz v a off) s = .next (s.trapped c tr)) ∧
    (sz.bytes ∣ va.toNat → s1.translate tk.ctx Need.write va = .ok x →
      (∀ s2, s1.accBusy tk.ctx c va.toNat x.f sz.bytes = true →
        s1.deliverAll s.cur.slot s.cur.rank
          (c.slotsWhere (fun r => !r.flying && s1.slotMeets tk.ctx r va.toNat x.f sz.bytes)) = .ok s2 →
        exec (.stg k sz v a off) s = .next (s.waitsIn s2 .plain)) ∧
      (s1.accBusy tk.ctx c va.toNat x.f sz.bytes = false →
        (32 ≤ c.posted.length ∨ c.pendingLoadAt x.f sz.bytes = true ∨
            s1.atomAt s.cur.slot s.cur.rank x.f sz.bytes = true →
          exec (.stg k sz v a off) s = .next (s.waitsIn s1 .plain)) ∧
        (c.posted.length < 32 → c.pendingLoadAt x.f sz.bytes = false →
          s1.atomAt s.cur.slot s.cur.rank x.f sz.bytes = false →
          let p : Posted := {
            va := va, final := x.f, key := x.key, keep := x.keep, waddr := c.seqC.pc, stamp := c.seqC.stamp, stage := .posted,
            bytes := (List.range sz.bytes).map (fun i => BitVec.ofNat 8 ((c.seqC.rd v).toNat / 256 ^ i)) }
          let t := (((s1.cache tk.ctx va x sz.bytes).clearMiss s.cur.slot s.cur.rank 0 va c.seqC.pc).putCt s.cur.slot s.cur.rank
            { c with posted := c.posted ++ [p] }).goesOn s.cur (cOnly k) none
          exec (.stg k sz v a off) s = .next t ∧ t.m.dpa = s.m.dpa ∧ t.m.host = s.m.host)))

/-- R105, R344, R346, R371: a scratchpad access is naturally aligned and lies below 0x180000; a load writes the
extended bytes to `d` or allocates its tag, a store writes the low bytes of its register, behind the sequencer's own
deferred loads of its bytes. Every scratchpad byte outside the stored ones, and all the rest of the device, are as
they were. -/
def Obligations.ScratchpadLoadsAndStores : Prop :=
  (∀ (k : BitVec 8) (t : Option Tag) (sz : LoadSize) (d a : GReg) (off : BitVec 40) (s : State) (c c1 : CoreTask),
    let u : WordUse := { perm := [.c, .l, .s], cons := k, alloc := t, dst := gDst d }
    s.Enters u c →
    let q := c.seq s.cur.q
    let ad := q.rd a + BitVec.ofInt 64 off.toInt
    let id := agentId s.cur.slot s.cur.rank (seqNum s.cur.q)
    (¬sz.bytes ∣ ad.toNat → exec (.ldl k t sz d a off) s = .next (s.trapped c (trapAt .align ad))) ∧
    (sz.bytes ∣ ad.toNat → 0x180000 ≤ ad.toNat →
      exec (.ldl k t sz d a off) s = .next (s.trapped c (trapAt .lsaRange ad))) ∧
    (sz.bytes ∣ ad.toNat → ad.toNat < 0x180000 →
      (∀ tg, t = some tg → exec (.ldl k t sz d a off) s = .next (s.passed u
        (c.deferLoad s.cur.q tg d (.ldl ad.toNat sz q.pc q.stamp)) none)) ∧
      (∀ tr, t = none → c.localRead s.raceOn id q.stamp (granules ad.toNat sz.bytes) = .inl tr →
        exec (.ldl k t sz d a off) s = .next (s.trapped c tr)) ∧
      (t = none → c.localRead s.raceOn id q.stamp (granules ad.toNat sz.bytes) = .inr c1 → Tab.wf 0 c.scratch = true →
        exec (.ldl k t sz d a off) s = .next (s.passed u c1 (some (d, sz.extend
          ((List.range sz.bytes).map (fun i => Tab.get 0 c.scratch (ad.toNat + i)))))) ∧
        { c1 with scratchRaces := c.scratchRaces } = c))) ∧
  (∀ (k : BitVec 8) (sz : StoreSize) (v a : GReg) (off : BitVec 40) (s : State) (c c1 : CoreTask),
    let u : WordUse := { perm := [.c, .l, .s], cons := k }
    s.Enters u c →
    let q := c.seq s.cur.q
    let ad := q.rd a + BitVec.ofInt 64 off.toInt
    let id := agentId s.cur.slot s.cur.rank (seqNum s.cur.q)
    (¬sz.bytes ∣ ad.toNat → exec (.stl k sz v a off) s = .next (s.trapped c (trapAt .align ad))) ∧
    (sz.bytes ∣ ad.toNat → 0x180000 ≤ ad.toNat →
      exec (.stl k sz v a off) s = .next (s.trapped c (trapAt .lsaRange ad))) ∧
    (sz.bytes ∣ ad.toNat → ad.toNat < 0x180000 →
      (q.pendingLocalAt ad.toNat sz.bytes = true → exec (.stl k sz v a off) s = .next (s.waitCt s.cur c .plain)) ∧
      (q.pendingLocalAt ad.toNat sz.bytes = false →
        (∀ tr, c.localWrite s.raceOn id q.stamp false (granules ad.toNat sz.bytes) = .inl tr →
          exec (.stl k sz v a off) s = .next (s.trapped c tr)) ∧
        (c.localWrite s.raceOn id q.stamp false (granules ad.toNat sz.bytes) = .inr c1 →
          ∃ t c', exec (.stl k sz v a off) s = .next t ∧ s.OnlyCur t ∧ t.ct? s.cur.slot s.cur.rank = some c' ∧
            (∀ b, Tab.get 0 c'.scratch b =
              if ad.toNat ≤ b ∧ b < ad.toNat + sz.bytes
              then BitVec.ofNat 8 ((q.rd v).toNat / 256 ^ (b - ad.toNat)) else Tab.get 0 c.scratch b) ∧
            c'.seq s.cur.q = q.advance ∧
            { c' with scratch := c.scratch, bankMask := c.bankMask, torn := c.torn,
                      scratchRaces := c.scratchRaces }.setSeq s.cur.q q = c))))

/-- R83, R110, R111, R324, R361: AGSET and AGGET write and read a word of an own address generator, SADV moves its
pointer, modulo 2^21; a generator of the other sequencer and word 3 fault at decode, reserved bits at the word. R83,
R111, R112, R201, R367, R368: SLOAD pushes the block that its generator describes, row by row from the scratchpad, and
moves the pointer on by ADV; SSTORE pops the head of its queue, writes its rows and then its scale bytes where the
generator says, and moves the pointer on by ADV. Bytes outside the block's ranges keep their values. A generator of
the other sequencer faults at decode; a bad description, a full queue, a range above the scratchpad, a shape that
differs and a race have their faults and waits. R318, R359: PREF keeps translations and changes nothing else: memory,
registers and every core-task but for the program counter are as they were. Only the service log may note that a read
of a table in host memory was dropped. -/
def Obligations.GeneratorsBlocksAndPrefetch : Prop :=
  ((∀ (k : BitVec 8) (ag : Fin 16) (w : Fin 4) (a d : GReg) (adv : Operand 36) (s : State),
      (s.canIssue s.cur).isSome = true → s.cur.q = .l ∨ s.cur.q = .s →
      (ownsAg s.cur.q ag.val = false ∨ w = 3 → FieldFault (.agset k ag w a) s ∧ FieldFault (.agget k d ag w) s) ∧
      (ownsAg s.cur.q ag.val = false → FieldFault (.sadv k ag adv) s)) ∧
    (∀ (q : SeqId) (n : Nat), n < 16 → (ownsAg q n = true ↔ (q = .l ∧ n < 8) ∨ (q = .s ∧ 8 ≤ n))) ∧
    (∀ (k : BitVec 8) (ag : Fin 16) (w : Fin 4) (a : GReg) (s : State) (c : CoreTask),
      let u : WordUse := { perm := [.l, .s], legal := ownsAg s.cur.q ag.val && decide (w ≠ 3), cons := k }
      s.Enters u c →
      let v := (c.seq s.cur.q).rd a
      (v &&& agReserved ag.val w.val ≠ 0 → exec (.agset k ag w a) s = .next (s.trapped c (trapOf .illegalField))) ∧
      (v &&& agReserved ag.val w.val = 0 →
        exec (.agset k ag w a) s = .next (s.passed u (c.setAg ag.val w.val v) none))) ∧
    (∀ (k : BitVec 8) (ag : Fin 16) (w : Fin 4) (d : GReg) (s : State) (c : CoreTask),
      s.Enters { perm := [.l, .s], legal := ownsAg s.cur.q ag.val && decide (w ≠ 3), cons := k, dst := gDst d } c →
      ∃ t, exec (.agget k d ag w) s = .next t ∧ s.Wrote t c d (c.agWord ag.val w.val)) ∧
    (∀ (k : BitVec 8) (ag : Fin 16) (adv : Operand 36) (s : State) (c : CoreTask),
      let u : WordUse := { perm := [.l, .s], legal := ownsAg s.cur.q ag.val, cons := k }
      s.Enters u c →
      let v : Int := match adv with
        | .imm v => v.toInt
        | .reg g => ((c.seq s.cur.q).rd g).toInt
      exec (.sadv k ag adv) s = .next (s.passed u (c.movePtr ag.val (BitVec.ofInt 64 v)) none)) ∧
    (∀ (c : CoreTask) (ag : Nat) (v : Int), ag < 16 →
      (fieldOf ((c.movePtr ag (BitVec.ofInt 64 v)).agWord ag 0) 21 21 : Int) =
        ((fieldOf (c.agWord ag 0) 21 21 : Int) + v) % 2 ^ 21) ∧
    (∀ (c : CoreTask) (ag w j x : Nat) (v : Word), ag < 16 → w < 4 → j < 16 → x < 4 →
      (c.setAg ag w v).agWord j x = if j = ag ∧ x = w then v else c.agWord j x)) ∧
  ((∀ (k : BitVec 8) (ag : Fin 16) (s : State), (s.canIssue s.cur).isSome = true →
      (s.cur.q = .l → 8 ≤ ag.val → FieldFault (.sload k ag) s) ∧
      (s.cur.q = .s → ag.val < 8 → FieldFault (.sstore k ag) s)) ∧
    (∀ (k : BitVec 8) (ag : Fin 16) (s : State) (c c1 : CoreTask) (b : AgBlock),
      let u : WordUse := { perm := [.l], legal := decide (ag.val < 8), cons := k }
      s.Enters u c →
      let n := ceilDiv (b.rows * b.rb + b.scaleBytes) 256
      (c.agBlock ag.val = none → exec (.sload k ag) s = .next (s.trapped c (trapOf .shape))) ∧
      (c.agBlock ag.val = some b → b.outside = true →
        exec (.sload k ag) s = .next (s.trapped c (trapOf .lsaRange))) ∧
      (c.agBlock ag.val = some b → b.outside = false →
        (c.testPush (s.pool c.core) .l s.fresh b.queue n = .never →
          exec (.sload k ag) s = .next (s.trapped c (trapOf .shape))) ∧
        (c.testPush (s.pool c.core) .l s.fresh b.queue n = .wait →
          exec (.sload k ag) s = .next (s.waitCt s.cur c (.push b.queue n false))) ∧
        (c.testPush (s.pool c.core) .l s.fresh b.queue n = .room →
          (∀ tr, c.localRead s.raceOn (agentId s.cur.slot s.cur.rank 1) c.seqL.stamp b.granules = .inl tr →
            exec (.sload k ag) s = .next (s.trapped c tr)) ∧
          (c.localRead s.raceOn (agentId s.cur.slot s.cur.rank 1) c.seqL.stamp b.granules = .inr c1 →
            exec (.sload k ag) s = .next (s.passed u
              ((c1.pushBlock b.queue (c1.loadBlock s.tick b)).movePtr ag.val b.adv) none))))) ∧
    (∀ (c : CoreTask) (tick : Nat) (b : AgBlock), c.torn = [] → Tab.wf 0 c.scratch = true →
      (c.loadBlock tick b).rows = b.rows ∧ (c.loadBlock tick b).cols = b.cols ∧ (c.loadBlock tick b).fmt = b.fmt ∧
      (c.loadBlock tick b).bytes = (List.range b.rows).flatMap (fun r =>
        (List.range b.rb).map (fun i => Tab.get 0 c.scratch (b.ptr + r * b.stride + i))) ∧
      (c.loadBlock tick b).scales = if b.sstride = 0 then none
        else some ((List.range b.rows).map (fun r => Tab.get 0 c.scratch (b.ptr + b.rb + r * b.sstride)))) ∧
    (∀ (k : BitVec 8) (ag : Fin 16) (s : State) (c c1 : CoreTask) (g : AgBlock) (b : Block) (bs : List Block),
      let u : WordUse := { perm := [.s], legal := decide (8 ≤ ag.val), cons := k }
      s.Enters u c →
      let qn := sqIndex (Fin.ofNat 4 g.queue)
      (c.agBlock ag.val = none → exec (.sstore k ag) s = .next (s.trapped c (trapOf .shape))) ∧
      (c.agBlock ag.val = some g →
        (Tab.get [] c.queues qn = [] → exec (.sstore k ag) s = .next (s.waitCt s.cur c .plain)) ∧
        (Tab.get [] c.queues qn = b :: bs →
          let fits := b.rows = g.rows ∧ b.cols = g.cols ∧ b.fmt = g.fmt ∧ b.scales.isSome = decide (g.sstride ≠ 0)
          (¬fits → exec (.sstore k ag) s = .next (s.trapped c (trapOf .shape))) ∧
          (fits → g.outside = true → exec (.sstore k ag) s = .next (s.trapped c (trapOf .lsaRange))) ∧
          (fits → g.outside = false → (∃ x ∈ g.ranges, c.seqS.pendingLocalAt x.1 x.2 = true) →
            exec (.sstore k ag) s = .next (s.waitCt s.cur c .plain)) ∧
          (fits → g.outside = false → (∀ x ∈ g.ranges, c.seqS.pendingLocalAt x.1 x.2 = false) →
            (∀ tr, c.localWrite s.raceOn (agentId s.cur.slot s.cur.rank 3) c.seqS.stamp false g.granules = .inl tr →
              exec (.sstore k ag) s = .next (s.trapped c tr)) ∧
            (c.localWrite s.raceOn (agentId s.cur.slot s.cur.rank 3) c.seqS.stamp false g.granules = .inr c1 →
              let writes : List (Nat × List Byte) :=
                (List.range g.rows).map (fun r => (g.ptr + r * g.stride, (b.bytes.drop (r * g.rb)).take g.rb)) ++
                (match b.scales with
                  | none => []
                  | some sc => (List.range g.rows).map (fun r => (g.ptr + g.rb + r * g.sstride, [sc.getD r 0])))
              ∃ t c', exec (.sstore k ag) s = .next t ∧ s.OnlyCur t ∧ t.ct? s.cur.slot s.cur.rank = some c' ∧
                Tab.get [] c'.queues qn = bs ∧ c'.seqS = c.seqS.advance ∧
                (∀ y, Tab.get 0 c'.scratch y = writes.foldl (fun old w =>
                  if w.1 ≤ y ∧ y < w.1 + w.2.length then w.2.getD (y - w.1) 0 else old) (Tab.get 0 c.scratch y)) ∧
                (∀ y, (∀ x ∈ g.ranges, y < x.1 ∨ x.1 + x.2 ≤ y) → Tab.get 0 c'.scratch y = Tab.get 0 c.scratch y) ∧
                c'.ag = (c.movePtr ag.val g.adv).ag))))) ∧
    (∀ (c : CoreTask) (ag : Nat) (b : AgBlock), c.agBlock ag = some b →
      b.adv = ((c.agWord ag 2).setWidth 22).signExtend 64 ∧ b.ptr = fieldOf (c.agWord ag 0) 21 21 ∧
      b.rb = (b.cols * b.fmt.nibbles + 1) / 2)) ∧
  (∀ (k : BitVec 8) (a b : GReg) (s : State) (c : CoreTask) (i : Instr), s.Enters (cOnly k) c →
      i = .prefH k a b ∨ i = .prefL k a b →
      ∃ t c', exec i s = .next t ∧ t.ct? s.cur.slot s.cur.rank = some c' ∧
        c' = { c with seqC := c.seqC.advance } ∧
        t = { s with tasks := t.tasks, m := { s.m with h := t.m.h, first := t.m.first, second := t.m.second,
                                                       hostX := t.m.hostX },
                     service := { s.service with svcLog := t.service.svcLog } } ∧
        ∀ slot rank, ¬(slot = s.cur.slot ∧ rank = s.cur.rank) → t.ct? slot rank = s.ct? slot rank)

/-- R89, R190, R288, R345, R346: a busy tag's result lands: the value stands in the tag, marked landed, and registers
and memory do not change until it is committed. A deferred scratchpad load is bound at its landing; a deferred global
load is bound at its landing under the translation that it was issued with, behind the core-task's own posted stores
of its bytes and while its slice is not held. A key that differs and a race are deferred faults of the load's word.
R84, R107, R382, R389: where a tile word's block goes: the bytes of its tile, in row order, and no other tile byte;
behind the blocks of its store queue; at depth 1 of the ring, which keeps seven; or into its tag, landed later. -/
def Obligations.DeferredResultsLand : Prop :=
  (∀ (slot rank : Nat) (seq : SeqId) (tg : Tag) (s : State) (tk : Task) (c : CoreTask) (r : TagRec),
      s.task? slot = some tk → tk.state = .running → s.ct? slot rank = some c →
      find (c.seq seq).tags tg.val = some r → r.landed = false →
      let ag : Agent := { slot := slot, rank := rank, q := seq }
      (∀ v, r.res = .value v → exec (.tagResultLands slot rank seq tg) s = .next (s.putCt slot rank
        (c.land seq tg.val r (.value v)))) ∧
      (∀ b, r.res = .tile b → exec (.tagResultLands slot rank seq tg) s = .next (s.putCt slot rank
        (c.land seq tg.val r (.tile b)))) ∧
      (∀ ad sz w st, r.res = .ldl ad sz w st → c.reported seq w = false →
        (∀ tr, c.localRead s.raceOn (agentId slot rank (seqNum seq)) st (granules ad sz.bytes) = .inl tr →
          exec (.tagResultLands slot rank seq tg) s = .next (s.raiseLater ag tr w)) ∧
        (∀ c1, c.localRead s.raceOn (agentId slot rank (seqNum seq)) st (granules ad sz.bytes) = .inr c1 →
          exec (.tagResultLands slot rank seq tg) s = .next (s.putCt slot rank (c1.land seq tg.val r
            (.value (sz.extend (c1.readLocal ad sz.bytes))))))) ∧
      (∀ va sz w st b, r.res = .ldg va sz w st (some b) → c.reported seq w = false →
        let race := s.raceAt b.f sz.bytes b.keep (agentId slot rank 0) st false false
        let clear := c.postedAt b.f sz.bytes = false ∧ s.heldAt b.f = false
        (¬clear → exec (.tagResultLands slot rank seq tg) s = .next s) ∧
        (clear → s.keyBad b.f b.key = true →
          exec (.tagResultLands slot rank seq tg) s = .next (s.raiseLater ag (trapAt .keyMismatch va) w)) ∧
        (∀ tr, clear → s.keyBad b.f b.key = false → race = some tr →
          exec (.tagResultLands slot rank seq tg) s = .next (s.raiseLater ag tr w)) ∧
        (clear → s.keyBad b.f b.key = false → race = none →
          exec (.tagResultLands slot rank seq tg) s = .next
            ((s.noteRead b.f sz.bytes b.keep (agentId slot rank 0) st).putCt slot rank
              (c.land seq tg.val r (.value (sz.extend (s.readFinal b.f sz.bytes))))))) ∧
      (∀ v, let c' := c.land seq tg.val r (.value v)
        (c'.seq seq).g = (c.seq seq).g ∧ find (c'.seq seq).tags tg.val = some { r with res := .value v, landed := true })) ∧
  (∀ (w : VWord) (p : VPlan) (b : BSrc) (sc : Option VSrc) (c : CoreTask) (x : VFacts) (es : List (List Nat))
        (scs : Option (List Byte)) (err : Bool),
      let blk : Block := { rows := x.rows, cols := x.cols, fmt := x.res, scales := scs, bytes := packTile x.res es }
      let c' := c.afterVector w p b sc x es scs err
      (c.seqX.tags = [] →
        (∀ t, w.dst = .tile t → w.alloc = none → p.scaledDst = false →
          (∀ y, Tab.get 0 c'.tiles y =
            if h : t.val * 8192 ≤ y ∧ y < t.val * 8192 + blk.bytes.length then blk.bytes[y - t.val * 8192]
            else Tab.get 0 c.tiles y) ∧
          c'.ring = if w.ring then ({ blk with scales := none } :: c.ring).take 7 else c.ring) ∧
        (∀ t tg, w.dst = .tile t → w.alloc = some tg → c'.tiles = c.tiles ∧ c'.ring = c.ring ∧
          find c'.seqX.tags tg.val = some { dest := .tile t, res := .tile blk, landed := false }) ∧
        (∀ q, w.dst = .sq q → c'.tiles = c.tiles ∧
          Tab.get [] c'.queues (8 + q.val) = Tab.get [] (((operandSrcs w b sc).flatMap (·.lq?)).foldl
            (fun c q => c.popBlock q) c).queues (8 + q.val) ++ [blk]) ∧
        (w.dst = .ring → c'.tiles = c.tiles ∧ c'.queues = (((operandSrcs w b sc).flatMap (·.lq?)).foldl
            (fun c q => c.popBlock q) c).queues ∧
          c'.ring = ({ blk with scales := none } :: c.ring).take 7) ∧
        c'.seqX.g = c.seqX.g) ∧
      c'.tsd = c.tsd ∧ c'.acc = c.acc ∧ c'.scratch = c.scratch ∧ c'.sems = c.sems ∧ c'.fmtErr = (c.fmtErr || err) ∧
      c'.seqC = c.seqC ∧ c'.seqL = c.seqL ∧ c'.seqS = c.seqS)

/-- R383, R385, R386, R390: the float words take the exact result of their sources element by element, rounded once to
the result's format under MOD; the scalar-operand forms read their register as an F32. -/
def Obligations.FloatTileWords : Prop :=
  ∀ (w : VWord) (sb cc : VSrc) (st : Bool) (lf : BitVec 2) (g : GReg),
    let el := fun (op : FVal → FVal → FVal → FVal) (_ : CoreTask) (x : VFacts) =>
      zip3 (fun u v y => roundTo x.res w.rnd w.sat (op u v y)) (x.src.a.floats x.rows x.cols)
        (x.src.b.floats x.rows x.cols) (x.src.c.floats x.rows x.cols)
    let one := fun (i : Instr) (op : FVal → FVal → FVal → FVal) =>
      RunsPlan i w (floatPlan w op) (fun _ => .none) none false (el op)
    let two := fun (i : Instr) (op : FVal → FVal → FVal → FVal) =>
      RunsPlan i w (floatPlan w op) (fun _ => .src sb st) none false (el op)
    let scal := fun (i : Instr) (op : FVal → FVal → FVal → FVal) =>
      RunsPlan i w (floatPlan w op) (fun c => .scalar (scalarTile .f32 (c.seqX.rd g))) none false (el op)
    let fused := fun (i : Instr) (op : FVal → FVal → FVal → FVal) =>
      RunsPlan i w (fusedPlan w lf op) (fun _ => .src sb st) (some cc) false (el op)
    two (.vaddF w sb st) (fun x y _ => x.add w.rnd y) ∧
    two (.vsubF w sb st) (fun x y _ => x.add w.rnd y.neg) ∧
    two (.vmulF w sb st) (fun x y _ => x.mul y) ∧
    two (.vminF w sb st) (fun x y _ => x.min y) ∧
    two (.vmaxF w sb st) (fun x y _ => x.max y) ∧
    two (.vminnum w sb st) (fun x y _ => if x = .nan then y else if y = .nan then x else x.min y) ∧
    two (.vmaxnum w sb st) (fun x y _ => if x = .nan then y else if y = .nan then x else x.max y) ∧
    one (.vabsF w) (fun x _ _ => x.abs) ∧
    one (.vnegF w) (fun x _ _ => x.neg) ∧
    one (.vrnd w) (fun x _ _ => rndVal w.rnd x) ∧
    RunsPlan (.vclampF w sb st cc) w (floatPlan w (fun x lo hi => (x.max lo).min hi)) (fun _ => .src sb st) (some cc) false
      (el (fun x lo hi => (x.max lo).min hi)) ∧
    fused (.vfma w lf sb st cc) (fun x y z => x.add w.rnd (y.mul z)) ∧
    fused (.vfms w lf sb st cc) (fun x y z => x.add w.rnd (y.mul z).neg) ∧
    fused (.vfnma w lf sb st cc) (fun x y z => (x.add w.rnd (y.mul z)).neg) ∧
    scal (.vaddFs w g) (fun x y _ => x.add w.rnd y) ∧
    scal (.vsubFs w g) (fun x y _ => x.add w.rnd y.neg) ∧
    scal (.vmulFs w g) (fun x y _ => x.mul y) ∧
    scal (.vminFs w g) (fun x y _ => x.min y) ∧
    scal (.vmaxFs w g) (fun x y _ => x.max y) ∧
    RunsPlan (.vfmaFs w lf g cc) w (fusedPlan w lf (fun x y z => x.add w.rnd (y.mul z)))
      (fun c => .scalar (scalarTile .f32 (c.seqX.rd g))) (some cc) false (el (fun x y z => x.add w.rnd (y.mul z))) ∧
    RunsPlan (.vscale w sb st) w (scalePlan w) (fun _ => .src sb st) none false (fun _ x =>
      zipRows (fun u k => roundTo x.res w.rnd w.sat (u.scale k)) (x.src.a.floats x.rows x.cols)
        (x.src.b.ints x.rows x.cols))

/-- R384, R385, R387, R388, R389: the integer words compute exactly and wrap or saturate once to the result's width;
comparisons give all ones or 0; the bitwise words and shifts, VMOV, VBCAST, VSEL and VTRN work on patterns, and a
shift's count is B, sign-extended from its own format (R155), modulo the width. -/
def Obligations.IntegerAndPatternTileWords : Prop :=
  ∀ (w : VWord) (sb cc : VSrc) (st : Bool) (g : GReg) (v : VCond) (row col : BitVec 6),
    let el := fun (op : Int → Int → Int → Int) (_ : CoreTask) (x : VFacts) =>
      zip3 (fun u v y => intPattern x.res.bits w.sat (op u v y)) (x.src.a.ints x.rows x.cols)
        (x.src.b.ints x.rows x.cols) (x.src.c.ints x.rows x.cols)
    let two := fun (i : Instr) (op : Int → Int → Int → Int) =>
      RunsPlan i w (intPlan w op) (fun _ => .src sb st) none false (el op)
    let scal := fun (i : Instr) (op : Int → Int → Int → Int) =>
      RunsPlan i w (intPlan w op) (fun c => .scalar (scalarTile .i32 (c.seqX.rd g))) none false (el op)
    let bitw := fun (i : Instr) (op : Nat → Nat → Nat) =>
      RunsPlan i w (bitPlan op) (fun _ => .src sb st) none false (fun _ x =>
        zipRows op (x.src.a.patterns x.rows x.cols) (x.src.b.patterns x.rows x.cols))
    let shf := fun (i : Instr) (op : Nat → Nat → Nat → Nat) =>
      RunsPlan i w (shiftPlan op) (fun _ => .src sb st) none false (fun _ x =>
        zipRows (fun u k => op x.res.bits u (signedOf x.src.b.fmt.bits k % (x.res.bits : Int)).toNat)
          (x.src.a.patterns x.rows x.cols) (x.src.b.patterns x.rows x.cols))
    two (.vaddI w sb st) (fun x y _ => x + y) ∧
    two (.vsubI w sb st) (fun x y _ => x - y) ∧
    two (.vmulI w sb st) (fun x y _ => x * y) ∧
    two (.vminI w sb st) (fun x y _ => Min.min x y) ∧
    two (.vmaxI w sb st) (fun x y _ => Max.max x y) ∧
    RunsPlan (.vabsI w) w (intPlan w (fun x _ _ => (x.natAbs : Int))) (fun _ => .none) none false
      (el (fun x _ _ => (x.natAbs : Int))) ∧
    RunsPlan (.vnegI w) w (intPlan w (fun x _ _ => -x)) (fun _ => .none) none false (el (fun x _ _ => -x)) ∧
    RunsPlan (.vclampI w sb st cc) w (intPlan w (fun x lo hi => Min.min (Max.max x lo) hi)) (fun _ => .src sb st)
      (some cc) false (el (fun x lo hi => Min.min (Max.max x lo) hi)) ∧
    scal (.vaddIs w g) (fun x y _ => x + y) ∧
    scal (.vmulIs w g) (fun x y _ => x * y) ∧
    scal (.vmaxIs w g) (fun x y _ => Max.max x y) ∧
    scal (.vminIs w g) (fun x y _ => Min.min x y) ∧
    bitw (.vand w sb st) (fun x y => x &&& y) ∧
    bitw (.vor w sb st) (fun x y => x ||| y) ∧
    bitw (.vxor w sb st) (fun x y => x ^^^ y) ∧
    shf (.vshl w sb st) (fun n x k => x * 2 ^ k % 2 ^ n) ∧
    shf (.vshr w sb st) (fun _ x k => x / 2 ^ k) ∧
    shf (.vsar w sb st) (fun n x k => ((BitVec.ofNat n x).sshiftRight k).toNat) ∧
    RunsPlan (.vcmpI w v sb st) w (cmpPlan 1 Fmt.isInt .i32 (fun a b res rows cols =>
        zipRows (fun u y => maskOf res (vcondHolds v (some (compare u y)))) (a.ints rows cols) (b.ints rows cols)))
      (fun _ => .src sb st) none false (fun _ x =>
        zipRows (fun u y => if vcondHolds v (some (compare u y)) then 2 ^ x.res.bits - 1 else 0)
          (x.src.a.ints x.rows x.cols) (x.src.b.ints x.rows x.cols)) ∧
    RunsPlan (.vcmpF w v sb st) w (cmpPlan 2 Fmt.isFloat .f32 (fun a b res rows cols =>
        zipRows (fun u y => maskOf res (vcondHolds v (u.cmp y))) (a.floats rows cols) (b.floats rows cols)))
      (fun _ => .src sb st) none false (fun _ x =>
        zipRows (fun u y => if vcondHolds v (u.cmp y) then 2 ^ x.res.bits - 1 else 0)
          (x.src.a.floats x.rows x.cols) (x.src.b.floats x.rows x.cols)) ∧
    RunsPlan (.vmov w) w movPlan (fun _ => .none) none false (fun _ x => x.src.a.patterns x.rows x.cols) ∧
    RunsPlan (.vbcast w row col) w (bcastPlan row.toNat col.toNat) (fun _ => .none) none false (fun _ x =>
      List.replicate x.rows (List.replicate x.cols ((x.src.a.elems.getD row.toNat []).getD col.toNat 0))) ∧
    RunsPlan (.vsel w sb st cc) w selPlan (fun _ => .src sb st) (some cc) false (fun _ x =>
      zip3 (fun u y z => if z = 0 then y else u) (x.src.a.patterns x.rows x.cols) (x.src.b.patterns x.rows x.cols)
        (x.src.c.patterns x.rows x.cols)) ∧
    RunsPlan (.vtrn w) w trnPlan (fun _ => .none) none false (fun _ x =>
      (List.range x.src.a.cols).map (fun j => x.src.a.elems.map (·.getD j 0)))

/-- R157, R391 to R397: conversions round once, or copy equal formats; quantisation chooses or keeps a scale byte a
row and rounds the scaled elements; the special functions round an F32 value; reductions fold rows or columns in the
tree of R136 and round once; VLUT looks its indices up. R157: the special functions on the values of the float
formats. NaN gives NaN; the results that the rule gives exactly, and the bounds on the others: VRCP and VRSQ within
one unit in the last place of F32, VEXP2, VLOG2 and VTANH within 2, 2 and 3 units, and one below 2^−126, of the
function's value as `exp2Near`, `log2Near` and `tanhNear` compute it to some 60 bits and more. Those three computed
values, the slack of 2^−60 units, and that VRSQ measures the unit at the value returned and the others at the exact
one, are the model's choice (log 7). -/
def Obligations.ConversionsAndReductions : Prop :=
  (∀ (w : VWord) (f : Fmt) (keep int f16 : Bool) (cb : Fin 8),
      let one := fun (i : Instr) (p : VPlan) (el : VFacts → List (List Nat)) =>
        RunsPlan i w p (fun _ => .none) none false (fun _ => el)
      let spec := fun (i : Instr) (op : FVal → FVal) => one i (specialPlan op) (fun x =>
        (x.src.a.floats x.rows x.cols).map (fun r => r.map (fun v =>
          roundTo x.res .rne false (valOf .f32 (toF32 (op v))))))
      let byRow := fun (i : Instr) (o : RedOps) => one i (redPlan w int o) (fun x =>
        if int then (x.src.a.ints x.src.a.rows x.src.a.cols).map (fun l =>
          [intPattern x.res.bits false (reduceTree (redOpI o.g) o.idI l)])
        else x.src.a.values.1.map (fun l => [roundTo x.res w.rnd w.sat (reduceTree (redOp w.rnd (o.f w.rnd)) o.idF l)]))
      let byCol := fun (i : Instr) (o : RedOps) => one i (redPlan w int o) (fun x =>
        [if int then (columns 0 x.src.a.cols (x.src.a.ints x.src.a.rows x.src.a.cols)).map (fun l =>
          intPattern x.res.bits false (reduceTree (redOpI o.g) o.idI l))
        else (columns .nan x.src.a.cols x.src.a.values.1).map (fun l =>
          roundTo x.res w.rnd w.sat (reduceTree (redOp w.rnd (o.f w.rnd)) o.idF l))])
      one (.vcvt w f) (cvtPlan w f) (fun x =>
        if x.src.a.fmt = x.res then x.src.a.patterns x.rows x.cols
        else (x.src.a.floats x.rows x.cols).map (fun r => r.map (roundTo x.res w.rnd w.sat))) ∧
      RunsPlan (.vqnt w f keep) w (qntPlan w f keep) (fun _ => .none) none keep (fun c x =>
        let vs := x.src.a.floats x.rows x.cols
        let es := if keep then (c.keptScales w keep x.rows).map (·.toNat) else vs.map (scaleByte x.res x.cols)
        (vs.zip es).map (fun p => quantRow x.res w.rnd w.sat p.2 p.1)) ∧
      one (.vdqnt w f) (dqntPlan w f) (fun x =>
        (fitRows x.rows x.cols x.src.a.values.1).map (fun r => r.map (roundTo x.res w.rnd w.sat))) ∧
      spec (.vexp2 w) exp2Val ∧ spec (.vlog2 w) log2Val ∧ spec (.vrcp w) rcpVal ∧ spec (.vrsq w) rsqVal ∧
      spec (.vtanh w) tanhVal ∧
      byRow (.vrmax w int) (maxOps true) ∧ byRow (.vrmin w int) minOps ∧ byRow (.vrsum w int) (sumOps true) ∧
      byCol (.vcsum w int) (sumOps false) ∧ byCol (.vcmax w int) (maxOps false) ∧
      RunsPlanOf (.vlut w f16 cb) w (fun c => lutPlan w f16 (Tab.get Codebook.zero c.books cb.val)) (fun _ => .none) none false
        (fun c x => (x.src.a.patterns x.rows x.cols).map (fun r => r.map (fun i =>
          roundTo x.res w.rnd w.sat ((Tab.get Codebook.zero c.books cb.val).value i))))) ∧
  ((∀ f ∈ [exp2Val, log2Val, rcpVal, rsqVal, tanhVal], f .nan = .nan) ∧
    exp2Val (.inf true) = .fin false 0 0 ∧ exp2Val (.inf false) = .inf false ∧
    log2Val (.inf true) = .nan ∧ log2Val (.inf false) = .inf false ∧ rsqVal (.inf true) = .nan ∧
    rsqVal (.inf false) = .fin false 0 0 ∧
    (∀ s, rcpVal (.inf s) = .fin s 0 0 ∧ tanhVal (.inf s) = .fin s 1 0) ∧
    (∀ (s : Bool) (e : Int), log2Val (.fin s 0 e) = .inf true ∧ rcpVal (.fin s 0 e) = .inf s ∧
      rsqVal (.fin s 0 e) = .inf s ∧ tanhVal (.fin s 0 e) = .fin s 0 e) ∧
    (∀ f ∈ [Fmt.f32, Fmt.bf16, Fmt.f16, Fmt.e4m3, Fmt.e5m2], ∀ (x m : Nat) (s : Bool) (e : Int),
      let v := FVal.fin s m e
      let pow (n : Int) : Rat := (2 : Rat) ^ n
      valOf f x = v → m ≠ 0 →
      (v.rat < -150 → exp2Val v = .fin false 0 0) ∧ (128 ≤ v.rat → exp2Val v = .inf false) ∧
      (∀ n : Int, -149 ≤ n → n ≤ 127 → v.rat = n → exp2Val v = .fin false 1 n) ∧
      ((¬∃ n : Int, -149 ≤ n ∧ v.rat = n) → -150 ≤ v.rat → v.rat < 128 → ∀ u, IsUlp (exp2Near s m e).rat u →
        |(exp2Val v).rat - (exp2Near s m e).rat| ≤ ((if v.rat < -126 then 1 else 2) + pow (-60)) * pow u) ∧
      (s = true → log2Val v = .nan ∧ rsqVal v = .nan) ∧
      (∀ n : Int, v.rat = pow n → log2Val v = FVal.ofInt n ∧ rcpVal v = .fin false 1 (-n) ∧
        (∀ k : Int, n = 2 * k → rsqVal v = .fin false 1 (-k))) ∧
      (∀ n : Int, v.rat = -pow n → rcpVal v = .fin true 1 (-n)) ∧
      (s = false → (¬∃ n : Int, v.rat = pow n) → ∀ u, IsUlp (log2Near m e).rat u →
        |(log2Val v).rat - (log2Near m e).rat| ≤ (2 + pow (-60)) * pow u) ∧
      ((¬∃ n : Int, |v.rat| = pow n) → pow (-128) < |v.rat| → ∀ u, IsUlp (1 / v.rat) u →
        |(rcpVal v).rat - 1 / v.rat| ≤ pow u) ∧
      (s = false → (¬∃ k : Int, v.rat = pow (2 * k)) → 0 < (rsqVal v).rat ∧ ∀ u, IsUlp (rsqVal v).rat u →
        ((rsqVal v).rat - pow u) ^ 2 * v.rat ≤ 1 ∧ 1 ≤ ((rsqVal v).rat + pow u) ^ 2 * v.rat) ∧
      (10 ≤ |v.rat| → tanhVal v = .fin s 1 0) ∧
      (|v.rat| < 10 → ∀ u, IsUlp (tanhNear s m e).rat u →
        |(tanhVal v).rat - (tanhNear s m e).rat| ≤ (3 + pow (-60)) * pow u)))

/-- R330, R378, R379, R389: VFILL fills its tile with the low bits of a register, CBLD loads a codebook from sixteen
elements, TSHAPE sets a shape word that is legal, TSHGET reads one; what they refuse raises SHAPE. -/
def Obligations.FillsCodebooksAndShapes : Prop :=
  (∀ (k : BitVec 8) (d : TReg) (ring : Bool) (g : GReg) (s : State) (c : CoreTask),
    s.Enters { perm := [.x], cons := k } c →
    let sh := c.shape d.val
    let v := (c.seqX.rd g).toNat % 2 ^ sh.fmt.bits
    let dset := c.regSet d.val false
    (c.pwrlvl < 1 → exec (.vfill k d ring g) s = .next (s.trapped c (trapOf .currentOver))) ∧
    (1 ≤ c.pwrlvl → c.second d.val = true ∨ (ring = true ∧ sh.pair = true) →
      exec (.vfill k d ring g) s = .next (s.trapped c (trapOf .shape))) ∧
    (1 ≤ c.pwrlvl → c.second d.val = false → ¬(ring = true ∧ sh.pair = true) →
      (∀ t ∈ dset, c.tileBusy t = false) → c.landedAll .x (c.tileTags dset) = true →
      let bytes := packTile sh.fmt (List.replicate sh.rows (List.replicate sh.cols v))
      let c1 := ((c.settleAll .x (c.tileTags dset)).1).writeTile d.val bytes
      exec (.vfill k d ring g) s = .next (s.passed { perm := [.x], cons := k }
        (if ring then c1.ringPush { rows := sh.rows, cols := sh.cols, fmt := sh.fmt, scales := none, bytes := bytes }
          else c1) none))) ∧
  (∀ (k : BitVec 8) (a : VSrc) (st : Bool) (cb : Fin 8) (s : State) (c : CoreTask) (t : Tile),
    s.Enters { perm := [.x], cons := k } c → 1 ≤ c.pwrlvl → c.source a st false [] = .tile t →
    let good := c.secondSrc a = false ∧ t.scales = none ∧ (t.fmt = .bf16 ∨ t.fmt = .f16) ∧ t.pair = false ∧
      t.rows * t.cols = 16
    (¬good → exec (.cbld k a st cb) s = .next (s.trapped c (trapOf .shape))) ∧
    (good → ∃ u c', exec (.cbld k a st cb) s = .next u ∧ s.OnlyCur u ∧ u.ct? s.cur.slot s.cur.rank = some c' ∧
      Tab.get Codebook.zero c'.books cb.val =
        { entries := t.elems.flatten.map (BitVec.ofNat 16 ·), f16 := decide (t.fmt = .f16) } ∧
      ∀ j, j ≠ cb.val → Tab.get Codebook.zero c'.books j = Tab.get Codebook.zero c.books j)) ∧
  (∀ (k : BitVec 8) (d : TReg) (a : GReg) (s : State) (c : CoreTask), s.Enters { perm := [.x], cons := k } c →
    1 ≤ c.pwrlvl → c.tileBusy d.val = false →
    let v := c.seqX.rd a
    let bad := shapeOf d.val v = none ∨ c.second d.val = true ∨ (v.getLsbD 20 = true ∧ c.tileBusy (d.val + 1) = true)
    (bad → exec (.tshape k d a) s = .next (s.trapped c (trapOf .shape))) ∧
    (¬bad → exec (.tshape k d a) s = .next (s.passed { perm := [.x], cons := k } (c.setTsd d.val v) none))) ∧
  (∀ (k : BitVec 8) (d : GReg) (t : TReg) (st : Bool) (s : State) (c : CoreTask),
    s.Enters { perm := [.x], cons := k, dst := gDst d } c → 1 ≤ c.pwrlvl →
    ∃ u, exec (.tshget k d t st) s = .next u ∧ s.Wrote u c d (c.tsdOf t.val))

/-- R121 to R123, R125, R383: sums and products of finite values are exact before the one rounding, a sum of a value
and an infinity or a NaN is that infinity or NaN, opposite infinities and 0 × ∞ give NaN; and a pattern of an 8-bit
float format that stands for a number rounds to itself in every rounding mode. -/
def Obligations.ArithmeticIsExactBeforeRounding : Prop :=
  (∀ (rm : Rnd) (s t : Bool) (m n : Nat) (e f : Int),
    ((FVal.fin s m e).add rm (.fin t n f)).rat = (FVal.fin s m e).rat + (FVal.fin t n f).rat ∧
    ((FVal.fin s m e).mul (.fin t n f)).rat = (FVal.fin s m e).rat * (FVal.fin t n f).rat ∧
    ((FVal.fin s m e).neg).rat = -(FVal.fin s m e).rat ∧
    (∃ u k g, (FVal.fin s m e).add rm (.fin t n f) = .fin u k g) ∧
    (∃ k g, (FVal.fin s m e).mul (.fin t n f) = .fin (xor s t) k g)) ∧
  (∀ (rm : Rnd) (s t : Bool) (m : Nat) (e : Int),
    (FVal.inf s).add rm (.fin t m e) = .inf s ∧ (FVal.inf s).add rm (.inf (!s)) = .nan ∧
    (FVal.inf s).add rm (.inf s) = .inf s ∧ (FVal.inf s).mul (.fin t 0 e) = .nan) ∧
  (∀ (v : FVal) (rm : Rnd), FVal.nan.add rm v = .nan ∧ v.add rm .nan = .nan ∧ FVal.nan.mul v = .nan ∧ v.mul .nan = .nan) ∧
  (∀ (rm : Rnd) (sat : Bool) (x : Fin 256), ∀ f ∈ [Fmt.e4m3, Fmt.e5m2], valOf f x.val ≠ .nan →
    (∀ s, valOf f x.val ≠ .inf s) → roundTo f rm sat (valOf f x.val) = x.val)

/-- R94, R95, R147, R152, R356: a matrix command of too high a current class raises CURRENT-OVER at its push and an
MXRD of a size that no tile or pair holds raises SHAPE; a full queue of 16 blocks; otherwise the command joins the end
of the queue, as a release of the C-sequencer, with its reads counted and its targets marked empty (R92). -/
def Obligations.MatrixCommandsArePushed : Prop :=
  (∀ (i : Instr) (cls : Nat) (s s1 : State) (c c1 : CoreTask),
    (∃ p, (i = .mxmul p ∨ i = .mxmuls p) ∧ cls = p.pair.cls) ∨
    (cls = 2 ∧ ((∃ w x a z, i = .mxzero w x a z) ∨ (∃ w x a t, i = .mxwr w x a t) ∨ (∃ p v, i = .mxepi p v) ∨
      ∃ p f r z, i = .mxrd p f r z ∧ p.bytes f ≤ 16384 ∧ (p.bytes f ≤ 8192 ∨ p.t.toNat % 2 = 0))) →
    s.Enters (cOnly 0) c →
    (c.pwrlvl < cls → exec i s = .next (s.trapped c (trapOf .currentOver))) ∧
    (cls ≤ c.pwrlvl → s.Releases (cOnly 0) .core c s1 c1 →
      (c1.mxq.length < 16 → exec i s = .next (s1.completes s.cur (cOnly 0) (c1.pushMx i))) ∧
      (16 ≤ c1.mxq.length → ∃ t, exec i s = .next t ∧ (t.ct? s.cur.slot s.cur.rank).map (·.mxq) = some c1.mxq))) ∧
  (∀ (p : MxWin) (f : Fmt) (r : Rnd) (z : Bool) (s : State) (c : CoreTask), s.Enters (cOnly 0) c →
    16384 < p.bytes f ∨ (8192 < p.bytes f ∧ p.t.toNat % 2 = 1) →
    exec (.mxrd p f r z) s = .next (s.trapped c (trapOf .shape))) ∧
  (∀ (c : CoreTask) (i : Instr),
    (c.pushMx i).mxq = c.mxq ++ [{ i := i, waddr := c.seqC.pc, stamp := c.seqC.stamp + 1 }] ∧
    (c.pushMx i).seqC = { c.seqC with stamp := c.seqC.stamp + 1 } ∧
    (∀ t, Tab.get 0 (c.pushMx i).pend t = Tab.get 0 c.pend t + (c.readTiles i).count t) ∧
    (∀ t, Tab.get false (c.pushMx i).empty t = (Tab.get false c.empty t || (c.emptyTiles i).contains t)) ∧
    { c.pushMx i with mxq := c.mxq, seqC := c.seqC, pend := c.pend, empty := c.empty } = c)

/-- R139, R142, R145, R149, R151: a multiply at the head checks every block before any effect; its start, which clears
the accumulator when ZERO asks for it, goes with its first block. It computes one block a step and completes after
block REP; a sparse one takes a metadata entry for each block, waits while there is none, and stops at an entry whose
masks do not fit, with the entry left in place. R146, R147, R148: MXZERO clears an accumulator and its row sums; MXWR
copies an unscaled F32 or I32 tile into it with its reading; MXRD converts rows and columns into its tile; MXEPI makes
the accumulator FP32 and runs its epilogue. A tile that does not fit raises SHAPE with no effect. -/
def Obligations.MatrixCommandsRun : Prop :=
  (∀ (s : State) (slot rank : Nat) (c : CoreTask) (cmd : MxCmd) (p : MxMul) (sparse : Bool) (i : Instr),
      s.MxHead slot rank c cmd →
      (sparse = false ∧ cmd.i = .mxmul p ∧ i = .mxmulExec slot rank) ∨
      (sparse = true ∧ cmd.i = .mxmuls p ∧ i = .mxmulsExec slot rank) →
      (c.mxBlock = none → c.mulOk p sparse = false → exec i s = .next (s.mxFault slot rank c cmd)) ∧
      ∀ (b : Nat) (c1 : CoreTask),
        (c.mxBlock = none ∧ c.mulOk p sparse = true ∧ b = 0 ∧ c1 =
          if p.zero then (c.mxStart cmd p.cb.val).zeroAcc p.acc.val p.pair.int else c.mxStart cmd p.cb.val) ∨
        (c.mxBlock = some b ∧ c1 = c) →
        let after (c : CoreTask) := if b = p.rep.val then s.mxDone slot rank c cmd
          else s.engineRan slot rank 4 (s.putCt slot rank { c with mxBlock := some (b + 1), mxHalted := false })
        (sparse = false → exec i s = .next (after (c1.mulBlock p b none))) ∧
        (sparse = true → Tab.get [] c.mdq p.mdq.val = [] → exec i s = .next (s.putCt slot rank c1)) ∧
        ∀ e rest, sparse = true → Tab.get [] c.mdq p.mdq.val = e :: rest →
          let fits := ∀ r < (c.shape (p.tb.toNat + b)).rows, ((maskBitsOf e r).count true) = p.nsp
          (¬fits → exec i s = .next (s.mxFault slot rank c1 cmd)) ∧
          (fits → exec i s = .next (after
            ({ c1 with mdq := Tab.set [] c.mdq p.mdq.val rest }.mulBlock p b (some e))))) ∧
  (∀ (s : State) (slot rank : Nat) (c : CoreTask) (cmd : MxCmd), s.MxHead slot rank c cmd →
      let c0 := c.mxStart cmd 0
      (∀ w x acc int, cmd.i = .mxzero w x acc int →
        exec (.mxzeroExec slot rank) s = .next (s.mxDone slot rank (c0.zeroAcc acc.val int) cmd) ∧
        (∀ j < 4096, Tab.get 0 (c0.zeroAcc acc.val int).acc (acc.val * 4096 + j) = 0) ∧
        (∀ j < 64, Tab.get 0 (c0.zeroAcc acc.val int).rsum (acc.val * 64 + j) = 0) ∧
        (∀ j, j < acc.val * 4096 ∨ acc.val * 4096 + 4096 ≤ j →
          Tab.get 0 (c0.zeroAcc acc.val int).acc j = Tab.get 0 c.acc j) ∧
        ∀ j, Tab.get false (c0.zeroAcc acc.val int).accInt j = if j = acc.val then int else Tab.get false c.accInt j) ∧
      (∀ w x acc t, cmd.i = .mxwr w x acc t →
        let src := c.tile t.toNat
        let good := c.second t.toNat = false ∧ (c.shape t.toNat).scale = none ∧ (src.fmt = .f32 ∨ src.fmt = .i32)
        (¬good → exec (.mxwrExec slot rank) s = .next (s.mxFault slot rank c cmd)) ∧
        (good →
          let c1 := c0.updAcc acc.val src.rows src.cols (fun r k _ =>
            BitVec.ofNat 32 ((src.elems.getD r []).getD k 0))
          exec (.mxwrExec slot rank) s = .next (s.mxDone slot rank
            { c1 with accInt := Tab.set false c.accInt acc.val (decide (src.fmt = .i32)) } cmd))) ∧
      (∀ p f rm sat, cmd.i = .mxrd p f rm sat →
        let int := Tab.get false c.accInt p.acc.val
        let word (r k : Nat) : BitVec 32 := Tab.get 0 c.acc (p.acc.val * 4096 + (r * 64 + k))
        let out (w : BitVec 32) : Nat :=
          if (int = true ∧ f = .i32) ∨ (int = false ∧ f = .f32) then w.toNat
          else roundTo f rm sat (valOf (if int then .i32 else .f32) w.toNat)
        (c.second p.t.toNat = true → exec (.mxrdExec slot rank) s = .next (s.mxFault slot rank c cmd)) ∧
        (c.second p.t.toNat = false → Tab.wf 0 c.acc = true → p.rows.toNat ≤ 64 → p.cols.toNat ≤ 64 →
          exec (.mxrdExec slot rank) s = .next (s.mxDone slot rank (c0.writeTile p.t.toNat (packTile f
            ((List.range p.rows.toNat).map (fun r => (List.range p.cols.toNat).map (fun k => out (word r k)))))) cmd))) ∧
      (∀ p v, cmd.i = .mxepi p v →
        let te := c.tile p.t.toNat
        let good := c.second p.t.toNat = false ∧ (c.shape p.t.toNat).scale = none ∧ te.fmt = .f32 ∧
          p.cols.toNat ≤ te.cols ∧ v.rows ≤ te.rows
        (¬good → exec (.mxepiExec slot rank) s = .next (s.mxFault slot rank c cmd)) ∧
        (good →
          let c1 := c0.floatAcc p.acc.val
          let at' (r k : Nat) : FVal := valOf .f32 ((te.elems.getD r []).getD k 0)
          exec (.mxepiExec slot rank) s = .next (s.mxDone slot rank ((c1.updAcc p.acc.val p.rows.toNat p.cols.toNat
            (fun r k w => BitVec.ofNat 32 (toF32 (epiWord v (valOf .f32 w.toNat)
              (valOf .f32 ((c1.rsWords p.acc.val).getD r 0).toNat) (at' 0 k) (at' 1 k) (at' 2 k))))).dropPend
                [p.t.toNat]) cmd))))

/-- R132, R133, R134, R138, R142: what a block adds. Word (r, k) of the accumulator takes the products of row r of A
with row k of B, in I32 as one exact sum modulo 2^32 and else in chunks of CH terms, each chunk an exact sum that is
then added to the FP32 word; row sums take the values of A's rows; every other word keeps its bits. A sparse row of B
gives its elements, in order, to the positions that its mask marks, and an absent position gives no term. -/
def Obligations.BlocksAccumulateDotProducts : Prop :=
  (∀ (c : CoreTask) (p : MxMul) (b n : Nat) (m : Option (List Byte)), Tab.wf 0 c.acc = true → Tab.wf 0 c.rsum = true →
    let a := c.tile (p.ta.toNat + b)
    let tb := c.tile (p.tb.toNat + b)
    let arow (r : Nat) : List FVal := (operandRows a c.mxBook).1.getD r []
    let brow (k : Nat) : List (Option FVal) := match m with
      | none => ((operandRows tb c.mxBook).1.map (fun x => x.map some)).getD k []
      | some e => ((operandRows tb c.mxBook).1.mapIdx (fun j x => expand (maskBitsOf e j) x)).getD k []
    let c' := c.mulBlock p b m
    (∀ r < 64, ∀ k < 64, Tab.get 0 c'.acc (n * 4096 + (r * 64 + k)) =
      if n = p.acc.val ∧ r < a.rows ∧ k < tb.rows
      then mxOnto p.pair (Tab.get 0 c.acc (n * 4096 + (r * 64 + k))) (mxTerms (arow r) (brow k))
      else Tab.get 0 c.acc (n * 4096 + (r * 64 + k))) ∧
    (∀ r < 64, Tab.get 0 c'.rsum (n * 64 + r) =
      if n = p.acc.val ∧ p.rsum = true ∧ r < a.rows
      then mxOnto p.pair (Tab.get 0 c.rsum (n * 64 + r)) (arow r) else Tab.get 0 c.rsum (n * 64 + r)) ∧
    { c' with acc := c.acc, rsum := c.rsum, pend := c.pend, fmtErr := c.fmtErr } = c) ∧
  (∀ (p : MxPair) (acc : BitVec 32) (ts : List FVal), p.int = true →
    mxOnto p acc ts = BitVec.ofInt 32 (acc.toInt + (ts.map FVal.toInt).sum)) ∧
  (∀ (p : MxPair) (acc : BitVec 32) (ts us : List FVal), p.int = false → ts.length = p.chunk →
    mxOnto p acc [] = acc ∧
    mxOnto p acc (ts ++ us) = mxOnto p (BitVec.ofNat 32 (addF32 acc.toNat (sumTerms ts))) us) ∧
  (∀ (m : List Bool) (vs : List FVal), vs.length = m.count true →
    (expand m vs).length = m.length ∧ (expand m vs).filterMap id = vs ∧
    ∀ (j : Nat), ((expand m vs)[j]?).map Option.isSome = m[j]?)

/-- R94, R95, R332, R333, R335, R336: a copy captures its registers at the push and is checked there, in this order:
ILLEGAL-FIELD for an empty or too large copy, a rank outside the gang, a mask that names its own rank or one outside;
ALIGN for an address, length or stride that is no multiple of 4, CPMETA's address of 8; LSA-RANGE for a scratchpad
byte from 0x180000 on; PAGE NONCANON for a global byte from 2^57 on; OVERLAP for a scratchpad byte both read and
written; CURRENT-OVER at power level 0. A copy that passes joins the copy queue as a release, or waits while 32
entries are held. -/
def Obligations.CopiesAreCheckedAndPushed : Prop :=
  ∀ (p : CopyOp) (n : Dims) (rk : Fin 16) (mask : BitVec 16) (q : Fin 2) (count : BitVec 7) (s s1 : State)
      (c c1 : CoreTask) (t : Task) (i : Instr) (kk : CoreTask → CopyCmd),
    (i = .cpg2l p n ∧ kk = fun c => c.capture i p n) ∨ (i = .cpl2g p n ∧ kk = fun c => c.capture i p n) ∨
    (i = .cpl2l p n rk ∧ kk = fun c => c.capture i p n) ∨ (i = .cpbc p mask ∧ kk = fun c => c.capture i p .d1) ∨
    (i = .cpfillL p ∧ kk = fun c => c.capture i p .d1) ∨ (i = .cpfillG p ∧ kk = fun c => c.capture i p .d1) ∨
    (i = .cpmeta p q count ∧
      kk = fun c => { c.capture i p .d1 with dst := 0, len := 512 * count.toNat }) →
    s.Enters (cOnly 0) c → (s.withCur c).task? s.cur.slot = some t →
    let k := kk c
    let own := s.cur.rank
    let size := t.cts.length
    let isMeta := i = .cpmeta p q count
    let inside (x y b : Nat) := y < k.n2 ∧ x < k.n1 ∧ b < k.len
    let src (x y b : Nat) := k.src.toNat + y * k.ss2 + x * k.ss1 + b
    let dst (x y b : Nat) := k.dst.toNat + y * k.ds2 + x * k.ds1 + b
    let illegal := k.len = 0 ∨ k.n1 = 0 ∨ k.n2 = 0 ∨ 2 ^ 40 < k.len * k.n1 * k.n2 ∨
      (i = .cpl2l p n rk ∧ size ≤ rk.val) ∨ (i = .cpbc p mask ∧ ∃ r, mask.getLsbD r = true ∧ (r = own ∨ size ≤ r))
    let misaligned := (isMeta ∧ ¬8 ∣ k.src.toNat) ∨ (¬isMeta ∧ ¬(4 ∣ k.dst.toNat ∧ (k.fill? = none → 4 ∣ k.src.toNat) ∧
      4 ∣ k.len ∧ 4 ∣ k.ss1 ∧ 4 ∣ k.ds1 ∧ 4 ∣ k.ss2 ∧ 4 ∣ k.ds2))
    let beyond := ∃ x y b, inside x y b ∧ ((k.srcLocal = true ∧ 0x180000 ≤ src x y b) ∨
      ((∃ r, r ∈ k.dstRanks own) ∧ 0x180000 ≤ dst x y b))
    let nonCanon := ∃ x y b, inside x y b ∧
      ((i = .cpg2l p n ∧ k.src.toNat < 2 ^ 63 ∧ 2 ^ 57 ≤ src x y b) ∨
        ((i = .cpl2g p n ∨ i = .cpfillG p) ∧ k.dst.toNat < 2 ^ 63 ∧ 2 ^ 57 ≤ dst x y b))
    let overlap := k.srcLocal = true ∧ own ∈ k.dstRanks own ∧
      ∃ x y b x' y' b', inside x y b ∧ inside x' y' b' ∧ src x y b = dst x' y' b'
    (illegal → exec i s = .next (s.trapped c (trapOf .illegalField))) ∧
    (¬illegal → misaligned → exec i s = .next (s.trapped c (trapOf .align))) ∧
    (¬illegal → ¬misaligned → beyond → exec i s = .next (s.trapped c (trapOf .lsaRange))) ∧
    (¬illegal → ¬misaligned → ¬beyond → nonCanon →
      ∃ va : Word, 2 ^ 57 ≤ va.toNat ∧ exec i s = .next (s.trapped c (pageTrap 1 va))) ∧
    (¬illegal → ¬misaligned → ¬beyond → ¬nonCanon → overlap → exec i s = .next (s.trapped c (trapOf .overlap))) ∧
    (¬illegal → ¬misaligned → ¬beyond → ¬nonCanon → ¬overlap →
      (c.pwrlvl = 0 → exec i s = .next (s.trapped c (trapOf .currentOver))) ∧
      (0 < c.pwrlvl → (s.withCur c).testRelease s.cur .core = .wait s1 → exec i s = .next (s.waitsIn s1 .plain)) ∧
      (0 < c.pwrlvl → s.Releases (cOnly 0) .core c s1 c1 →
        (32 ≤ c1.cpq.length + c1.copies.length → exec i s = .next (s.waitsIn s1 .plain)) ∧
        (c1.cpq.length + c1.copies.length < 32 →
          exec i s = .next (s1.completes s.cur (cOnly 0) ((c1.updSeq .c Seq.release) |> fun c2 =>
            { c2 with cpq := c1.cpq ++ [{ k with stamp := c1.seqC.stamp + 1 }] })))))

/-- R95, R190, R204, R334, R336: the head of the copy queue takes the lowest free progress register and leaves the
queue, acquiring from its push, when no running copy or accumulate on its way meets it, no CPMETA waits, and no
residual has to be delivered first; while it has to follow another it stays, and valid slots on its global side are
delivered before it. R201, R334, R335: the bytes of a piece. Byte i of the element order stands in row i / LEN mod N1
of plane i / (LEN N1) on either side. A scratchpad source gives the bytes there (none partly written by another core);
a fill gives byte i mod 8 of its value; a ring slot and global memory give the bytes at the addresses that the piece
translates to, in order. In the scratchpad of every destination rank, and in a ring slot, every byte of the piece gets
its value, the later byte of the order where two meet; in a scratchpad all else stays. R116, R201, R202, R334: `n`
delivered bytes are taken from barrier BAR of every rank the copy counts at, the issuing one or, for CPL2L and CPBC,
each destination, each a release of the engine with a stamp of its own, after which what the engine has written is
complete in every scratchpad of the gang; a count out of range is BAR-OVERFLOW at the issuing C-sequencer. Then DONE
advances; with the last byte the progress register is free and SSEM signals 1. The fields of the BAR-OVERFLOW and
SEM-OVERFLOW records are the model's choice (log 37). R150, R201, R202, R279, R288, R334, R336: a piece moves the next
256 bytes of its copy at most, reads before it writes, and then counts them; once the gang has faulted it is the
copy's last. It waits while a home slice that it needs is held; what it meets stops the copy at DONE with nothing
moved. CPMETA moves one entry of 512 bytes into its queue, which holds 64, and counts 512. That a piece of CPBC is
written and counted at every destination rank in one step, and is left whole by a miss or a fault, is the model's
choice (log 36). -/
def Obligations.CopiesRun : Prop :=
  (∀ (s : State) (slot rank reg : Nat) (t : Task) (c : CoreTask) (k : CopyCmd), s.CopyHead slot rank t c k →
      let held := (∃ e ∈ c.copies, s.copyAfter t.ctx k e.2.cmd rank = true) ∨ s.copySends slot rank t.ctx c k = true ∨
        c.metaWaits = true
      ((∀ r < 8, (find c.copies r).isSome) → exec (.copyStart slot rank) s = .next s) ∧
      (reg < 8 → find c.copies reg = none → (∀ r < reg, (find c.copies r).isSome) →
        (held → exec (.copyStart slot rank) s = .next s) ∧
        (∀ s1, ¬held → s.copySlots t.ctx c k ≠ [] → s.deliverAll slot rank (s.copySlots t.ctx c k) = .ok s1 →
          exec (.copyStart slot rank) s = .next s1) ∧
        (¬held → s.copySlots t.ctx c k = [] →
          (∀ r w, k.global? = some (r, w) → isHandle r.base = true → s.handleOk t k r w = true) →
          exec (.copyStart slot rank) s = .next (s.putCt slot rank { c with
            cpq := c.cpq.drop 1, cpHead := .none, cpStamp := acqStamp c.cpStamp k.stamp,
            copies := Tab.put reg { cmd := k, done := 0 } c.copies })) ∧
        (∀ r w, ¬held → s.copySlots t.ctx c k = [] → k.global? = some (r, w) → isHandle r.base = true →
          s.handleOk t k r w = false →
          exec (.copyStart slot rank) s = .next (s.copyFault slot rank k 0 (trapOf .perm))))) ∧
  (∀ (s : State) (slot rank done n : Nat) (t : Task) (c : CoreTask) (k : CopyCmd), 0 < k.len → n ≤ 256 →
      let plane (i : Nat) := i / k.len / k.n1
      let row (i : Nat) := i / k.len % k.n1
      let src (j : Nat) := k.src.toNat + plane (done + j) * k.ss2 + row (done + j) * k.ss1 + (done + j) % k.len
      let dst (j : Nat) := k.dst.toNat + plane (done + j) * k.ds2 + row (done + j) * k.ds1 + (done + j) % k.len
      let segs := k.segs (done + n) 256 done
      (∀ v, k.fill? = some v → s.pieceSource slot rank t c k segs =
        (.ok s, (List.range n).map (fun j => BitVec.ofNat 8 (v.toNat / 256 ^ ((done + j) % 8))))) ∧
      (k.fill? = none → k.srcLocal = true → c.torn = [] → Tab.wf 0 c.scratch = true → ∀ c1,
        c.localRead s.raceOn (agentId slot rank 5) c.cpStamp (granulesOf (segs.map (fun g => (g.src, g.n)))) = .inr c1 →
        s.pieceSource slot rank t c k segs =
          (.ok (s.putCt slot rank c1), (List.range n).map (fun j => Tab.get 0 c.scratch (src j)))) ∧
      (∀ st, k.fill? = none → k.srcLocal = false → 2 ^ 63 ≤ k.src.toNat → Tab.wf 0 st.store = true →
        s.stream? (handleStream k.src.toNat) = some st → s.pieceSource slot rank t c k segs =
          (.ok s, (List.range n).map (fun j => Tab.get 0 st.store
            (handleSlot k.src.toNat * 2 ^ 20 + handleOff k.src.toNat + (src j - k.src.toNat))))) ∧
      (∀ s1 bs, k.fill? = none → k.srcLocal = false → k.src.toNat < 2 ^ 63 →
        s.pieceSource slot rank t c k segs = (.ok s1, bs) → ∃ es : List (Xl × Nat × Nat),
          (∀ e ∈ es, s.translate t.ctx Need.read (BitVec.ofNat 64 e.2.1) = .ok e.1 ∧ s.keyBad e.1.f e.1.key = false) ∧
          es.flatMap (fun e => (List.range e.2.2).map (e.2.1 + ·)) = (List.range n).map src ∧
          bs = es.flatMap (fun e => s.readFinal e.1.f e.2.2)) ∧
      (∀ s2 bs r c1 c2, bs.length = n → r ∈ k.dstRanks rank → s.ct? slot r = some c1 →
        s.pieceDest slot rank t c.cpStamp k segs bs = .ok s2 → s2.ct? slot r = some c2 →
        (∀ j < n, (∀ m, j < m → m < n → dst m ≠ dst j) → Tab.get 0 c2.scratch (dst j) = bs.getD j 0) ∧
        ∀ a, (∀ j < n, dst j ≠ a) → Tab.get 0 c2.scratch a = Tab.get 0 c1.scratch a) ∧
      (∀ s2 bs st st2, bs.length = n → k.dstRanks rank = [] → 2 ^ 63 ≤ k.dst.toNat →
        s.stream? (handleStream k.dst.toNat) = some st → s.pieceDest slot rank t c.cpStamp k segs bs = .ok s2 →
        s2.stream? (handleStream k.dst.toNat) = some st2 →
        s2 = { s with streams := s2.streams } ∧ ∀ j < n, (∀ m, j < m → m < n → dst m ≠ dst j) → Tab.get 0 st2.store
          (handleSlot k.dst.toNat * 2 ^ 20 + handleOff k.dst.toNat + (dst j - k.dst.toNat)) = bs.getD j 0) ∧
      (∀ s2 bs, k.dstRanks rank = [] → k.dst.toNat < 2 ^ 63 → s.pieceDest slot rank t c.cpStamp k segs bs = .ok s2 →
        ∃ es : List (Xl × Nat × Nat),
          (∀ e ∈ es, s.translate t.ctx Need.write (BitVec.ofNat 64 e.2.1) = .ok e.1 ∧ s.keyBad e.1.f e.1.key = false) ∧
          es.flatMap (fun e => (List.range e.2.2).map (e.2.1 + ·)) = (List.range n).map dst ∧
          s2 = (s.writeParts (agentId slot rank 5) c.cpStamp es bs).partsDone slot rank t.ctx k.waddr es)) ∧
  ((∀ (s : State) (slot rank n bar : Nat) (w : BitVec 32), s.countBars slot rank n bar w [] = s) ∧
    (∀ (s : State) (slot rank r : Nat) (c x : CoreTask), s.ct? slot rank = some c → s.ct? slot r = some x →
      (s.cpRelease slot rank).ct? slot r =
        some { x.untear c.core (c.cpStamp + 1) with cpStamp := if r = rank then c.cpStamp + 1 else x.cpStamp }) ∧
    (∀ (s : State) (slot rank n bar r : Nat) (w : BitVec 32) (rs : List Nat) (c cr : CoreTask),
      s.ct? slot rank = some c →
      let s1 := s.cpRelease slot rank
      s1.ct? slot r = some cr →
      let b := (Tab.get Bar.zero cr.bars bar).change (-(n : Int)) (some (c.cpStamp + 1))
      (∀ b', b = some b' → s.countBars slot rank n bar w (r :: rs) =
        (s1.putCt slot r { cr with bars := Tab.set Bar.zero cr.bars bar b' }).countBars slot rank n bar w rs) ∧
      (b = none → s.countBars slot rank n bar w (r :: rs) =
        (s1.raiseAtC slot rank (trapOf .barOverflow) w).countBars slot rank n bar w rs)) ∧
    (∀ (k : CopyCmd) (own : Nat), k.barRanks own = match k.i with
      | .cpl2l _ _ r => [r.val]
      | .cpbc _ m => (List.range 16).filter (fun r => m.getLsbD r)
      | _ => [own]) ∧
    (∀ (s s1 : State) (slot rank reg n : Nat) (x : RunCopy) (c : CoreTask),
      (x.cmd.bar? = none ∧ s1 = s) ∨
        (∃ b, x.cmd.bar? = some b ∧ s1 = s.countBars slot rank n b x.cmd.waddr (x.cmd.barRanks rank)) →
      s1.ct? slot rank = some c →
      let sem := (engineSems x.cmd.i).2
      let freed := s1.putCt slot rank { c with copies := Tab.del reg c.copies }
      (x.done + n < x.cmd.total → s.copyCount slot rank reg x n =
        s1.putCt slot rank { c with copies := Tab.put reg { x with done := x.done + n } c.copies }) ∧
      (x.cmd.total ≤ x.done + n → sem = 0 → s.copyCount slot rank reg x n = freed) ∧
      ∀ c1, (freed.cpRelease slot rank).ct? slot rank = some c1 →
        (∀ c2, x.cmd.total ≤ x.done + n → sem ≠ 0 → c1.signal sem 1 c1.cpStamp (Config.sameCycle s1.tick) = some c2 →
          s.copyCount slot rank reg x n = (freed.cpRelease slot rank).putCt slot rank c2) ∧
        (x.cmd.total ≤ x.done + n → sem ≠ 0 → c1.signal sem 1 c1.cpStamp (Config.sameCycle s1.tick) = none →
          s.copyCount slot rank reg x n =
            (freed.cpRelease slot rank).raiseAtC slot rank (trapOf .semOverflow) x.cmd.waddr))) ∧
  ((∀ (s : State) (slot rank : Nat) (reg : Fin 8) (t : Task) (c : CoreTask) (x : RunCopy),
      s.CopyRuns slot rank reg.val t c x → (∀ p m n, x.cmd.i ≠ .cpmeta p m n) →
      let n := Min.min 256 (x.cmd.total - x.done)
      let segs := x.cmd.segs (x.done + n) 256 x.done
      (∀ bs, s.pieceSource slot rank t c x.cmd segs = (.held, bs) → exec (.copyPiece slot rank reg) s = .next s) ∧
      (∀ tr bs, s.pieceSource slot rank t c x.cmd segs = (.trap tr, bs) →
        exec (.copyPiece slot rank reg) s = .next (s.copyFault slot rank x.cmd x.done tr)) ∧
      ∀ s1 bs, s.pieceSource slot rank t c x.cmd segs = (.ok s1, bs) →
        (s1.pieceDest slot rank t c.cpStamp x.cmd segs bs = .held → exec (.copyPiece slot rank reg) s = .next s) ∧
        (∀ tr, s1.pieceDest slot rank t c.cpStamp x.cmd segs bs = .trap tr →
          exec (.copyPiece slot rank reg) s = .next (s.copyFault slot rank x.cmd x.done tr)) ∧
        ∀ s2, s1.pieceDest slot rank t c.cpStamp x.cmd segs bs = .ok s2 →
          exec (.copyPiece slot rank reg) s = .next (s.engineRan slot rank (5 + reg.val) (s2.copyCount slot rank reg.val x n))) ∧
    (∀ (s : State) (slot rank : Nat) (reg : Fin 8) (t : Task) (c c1 : CoreTask) (x : RunCopy) (p : CopyOp) (m : Fin 2)
        (n : BitVec 7), s.CopyRuns slot rank reg.val t c x → x.cmd.i = .cpmeta p m n →
      let q := Tab.get [] c.mdq m.val
      let a := x.cmd.src.toNat + x.done
      (64 ≤ q.length → exec (.cpmetaEntry slot rank reg) s = .next s) ∧
      (∀ tr, q.length < 64 → c.localRead s.raceOn (agentId slot rank 5) c.cpStamp (granules a 512) = .inl tr →
        exec (.cpmetaEntry slot rank reg) s = .next (s.copyFault slot rank x.cmd x.done tr)) ∧
      (q.length < 64 → c.localRead s.raceOn (agentId slot rank 5) c.cpStamp (granules a 512) = .inr c1 →
        exec (.cpmetaEntry slot rank reg) s = .next (s.engineRan slot rank (5 + reg.val) ((s.putCt slot rank
          { c1 with mdq := Tab.put m.val (q ++ [c.seen s.tick c.core c.cpStamp a 512]) c.mdq }).copyCount slot rank
            reg.val x 512)))) ∧
    (∀ (c : CoreTask) (tick core : Nat) (st : Stamp) (a n : Nat), c.torn = [] → Tab.wf 0 c.scratch = true →
      c.seen tick core st a n = (List.range n).map (fun i => Tab.get 0 c.scratch (a + i))) ∧
    ∀ (s t : State) (slot rank unit : Nat) (k : Task), s.task? slot = some k →
      (k.faulted = false → s.engineRan slot rank unit t = t) ∧
      (k.faulted = true → ∀ u now, (s.engineRan slot rank unit t).task? slot = some u →
        u.faulted = true → u.engineStops now rank unit = true))

/-- R115, R364, R365: a semaphore number of 0 and an immediate amount of 0 fault at decode, an amount of a register
outside 1 to 65,535 at the word. SEMSIG waits until its release is met and adds its amount; above 65,535 it raises
SEM-OVERFLOW. Waiters are tested in the order of their arrival once every signal of the cycle has been applied, and
each that the count covers takes its amount. SEMWAIT takes its amount as an acquire when it is there, and else waits
for it; SEMGET reads the count. R116, R202, R326, R327, R328: BAREXP adds its signed or immediate count to its
barrier, and a change from non-zero to 0 flips the phase; outside ±(2^48 − 1) it faults. BARWAIT waits for the phase
and BARTEST reports it; both acquire the deliveries of the phase closed last. -/
def Obligations.SemaphoresAndTransferBarriers : Prop :=
  ((∀ (k sem : BitVec 8) (n : BitVec 16) (a d : GReg) (s : State), (s.canIssue s.cur).isSome = true →
      (sem = 0 ∨ n = 0 → FieldFault (.semsigImm k sem n) s ∧ FieldFault (.semwaitImm k sem n) s) ∧
      (sem = 0 → FieldFault (.semsigReg k sem a) s ∧ FieldFault (.semwaitReg k sem a) s) ∧
      (sem = 0 → s.cur.q = .c → FieldFault (.semget k d sem) s)) ∧
    (∀ (k sem : BitVec 8) (n : BitVec 16) (a : GReg) (s s1 : State) (c c1 : CoreTask) (sig wt : Instr) (v : Nat),
      s.Enters (anySeq k) c → sem ≠ 0 →
      (sig = .semsigImm k sem n ∧ wt = .semwaitImm k sem n ∧ v = n.toNat ∧ n ≠ 0) ∨
      (sig = .semsigReg k sem a ∧ wt = .semwaitReg k sem a ∧ v = ((c.seq s.cur.q).rd a).toNat) →
      let legal := 1 ≤ v ∧ v ≤ 65535
      let shared := Config.sameCycle s1.tick
      (¬legal → exec sig s = .next (s.trapped c (trapOf .illegalField)) ∧
        exec wt s = .next (s.trapped c (trapOf .illegalField))) ∧
      (legal → (s.withCur c).testRelease s.cur .core = .wait s1 → exec sig s = .next (s.waitsIn s1 .plain)) ∧
      (legal → s.Releases (anySeq k) .core c s1 c1 →
        ((c1.updSeq s.cur.q Seq.release).signal sem.toNat v ((c1.seq s.cur.q).stamp + 1) shared = none →
          exec sig s = .next (s.trapped c (trapOf .semOverflow))) ∧
        ∀ c2, (c1.updSeq s.cur.q Seq.release).signal sem.toNat v ((c1.seq s.cur.q).stamp + 1) shared = some c2 →
          exec sig s = .next (s1.completes s.cur (anySeq k) c2)) ∧
      (legal →
        let o := c.sem sem.toNat
        let c0 := { c with due := c.due.filter (· ≠ sem.toNat) }
        (c.semServed s.cur.q = true → exec wt s = .next (s.passed (anySeq k) c none)) ∧
        (c.semWaits s.cur.q = true → c.semServed s.cur.q = false →
          exec wt s = .next (s.waitCt s.cur c (.sem sem.toNat v false))) ∧
        (c.semWaits s.cur.q = false →
          c.semWaiters sem.toNat (fun m => (engineSems m.i).1) (fun m => (engineSems m.i).1) = [] →
          (o.n < v → exec wt s = .next (s.waitCt s.cur c0 (.sem sem.toNat v false))) ∧
          (v ≤ o.n → exec wt s = .next (s.passed (anySeq k)
            ((c0.setSem sem.toNat { o with n := o.n - v }).updSeq s.cur.q (·.acquire o.st)) none))))) ∧
    (∀ (c : CoreTask) (n v : Nat) (st : Stamp) (shared : Bool),
      let o := c.sem n
      let c1 := c.setSem n { n := o.n + v, st := stMax o.st st }
      (c.signal n v st shared = none ↔ 65535 < o.n + v) ∧
      (o.n + v ≤ 65535 → c.signal n v st true = some { c1 with due := n :: c.due.filter (· ≠ n) } ∧
        c.signal n v st false = some { c1.serveList n
          (c.semWaiters n (fun m => (engineSems m.i).1) (fun m => (engineSems m.i).1)) with
            due := c.due.filter (· ≠ n) })) ∧
    (∀ (c : CoreTask) (n ord who v : Nat) (ws : List (Nat × Nat × Nat)),
      c.serveList n [] = c ∧
      ((c.sem n).n < v → c.serveList n ((ord, who, v) :: ws) = c.serveList n ws) ∧
      (v ≤ (c.sem n).n → c.serveList n ((ord, who, v) :: ws) =
        (CoreTask.serve (c.setSem n { c.sem n with n := (c.sem n).n - v }) who (c.sem n).st).serveList n ws)) ∧
    (∀ (k : BitVec 8) (d : GReg) (sem : BitVec 8) (s : State) (c : CoreTask), sem ≠ 0 →
      s.Enters { perm := [.c], cons := k, dst := gDst d } c → ∃ t, exec (.semget k d sem) s = .next t ∧
        s.Wrote t c d (BitVec.ofNat 64 (c.sem sem.toNat).n))) ∧
  ((∀ (k : BitVec 8) (bar : Fin 64) (n : Operand 34) (s : State) (c : CoreTask), s.Enters (cOnly k) c →
      let v : Int := match n with
        | .imm v => v.toNat
        | .reg g => (c.seqC.rd g).toInt
      let b := Tab.get Bar.zero c.bars bar.val
      let lim : Int := 2 ^ 48 - 1
      (v < -lim ∨ lim < v → exec (.barexp k bar n) s = .next (s.trapped c (trapOf .illegalField))) ∧
      (-lim ≤ v → v ≤ lim → b.count + v < -lim ∨ lim < b.count + v →
        exec (.barexp k bar n) s = .next (s.trapped c (trapOf .barOverflow))) ∧
      (-lim ≤ v → v ≤ lim → -lim ≤ b.count + v → b.count + v ≤ lim →
        let b1 : Bar := if b.count ≠ 0 ∧ b.count + v = 0
          then { count := 0, phase := !b.phase, openSt := none, closedSt := b.openSt }
          else { b with count := b.count + v }
        exec (.barexp k bar n) s = .next (s.passed (cOnly k) { c with bars := Tab.set Bar.zero c.bars bar.val b1 } none))) ∧
    (∀ (k : BitVec 8) (d : GReg) (bar : Fin 64) (p : Operand 1) (s : State) (c : CoreTask),
      let b := Tab.get Bar.zero c.bars bar.val
      let asked : Bool := match p with
        | .imm v => v.getLsbD 0
        | .reg g => ((c.seq s.cur.q).rd g).getLsbD 0
      let got := match b.closedSt with
        | some st => c.updSeq s.cur.q (fun q => { q with stamp := acqStamp q.stamp st })
        | none => c
      (s.Enters (anySeq k) c →
        (b.phase ≠ asked → exec (.barwait k bar p) s = .next (s.waitCt s.cur c .plain)) ∧
        (b.phase = asked → exec (.barwait k bar p) s = .next (s.passed (anySeq k) got none))) ∧
      (s.Enters (useD k d) c →
        (b.phase ≠ asked → exec (.bartest k d bar p) s = .next (s.passed (useD k d) c (some (d, 0)))) ∧
        (b.phase = asked → exec (.bartest k d bar p) s = .next (s.passed (useD k d) got (some (d, 1)))))))

/-- R193, R203, R279, R341, R342: GBAR waits for its core-task's stores and direct accumulates, arrives as a release
of the gang, and the last arrival lets every rank go on as an acquire, unless the gang has faulted. A FENCE that
acquires waits for the atomic before it while that is busy, and acquires from it once it has landed; one that releases
waits until the release of its scope is met and marks the next atomic. -/
def Obligations.GangBarrierAndFences : Prop :=
  (∀ (k : BitVec 8) (s : State) (c : CoreTask), s.Enters (cOnly k) c →
    let s1 := if c.gbarHere then s.withCur c else (s.withCur c).gbarArrive s.cur.slot s.cur.rank
    let ready := c.posted = [] ∧ ∀ x ∈ c.sends, x.direct = true → x.left = 0
    (c.gbarHere = false → ¬ready → exec (.gbar k) s = .next (s.waitsIn (s.withCur c) .plain)) ∧
    (c.gbarHere = true ∨ ready → ∀ t, s1.task? s.cur.slot = some t →
      (t.faulted = true ∨ (∃ e ∈ t.cts, e.2.gbarHere = false ∨ e.2.gbars ≠ c.gbars) →
        exec (.gbar k) s = .next (s.waitsIn s1 .gbar)) ∧
      (t.faulted = false → (∀ e ∈ t.cts, e.2.gbarHere = true ∧ e.2.gbars = c.gbars) →
        exec (.gbar k) s = .next (t.cts.foldl (fun s e => s.updCt s.cur.slot e.1 (fun c =>
          { c.updSeq .c (fun q => (q.acquire t.gbarSt).advance) with
            gbarHere := false, gbars := c.gbars + 1 })) s1)))) ∧
  (∀ (s : State) (slot rank : Nat) (c : CoreTask) (t : Task), s.task? slot = some t → s.ct? slot rank = some c →
    ∃ t1 c1, (s.gbarArrive slot rank).task? slot = some t1 ∧ (s.gbarArrive slot rank).ct? slot rank = some c1 ∧
      t1.gbarSt = stMax t.gbarSt (c.seqC.stamp + 1) ∧
      c1 = { c with seqC := { c.seqC with stamp := c.seqC.stamp + 1 }, gbarHere := true }) ∧
  (∀ (k : BitVec 8) (sc : Scope) (s s1 : State) (c c1 : CoreTask), s.Enters (cOnly k) c →
    (∀ l, c.seqC.lastAtom = some l → l.busy = true → exec (.fenceAcq k sc) s = .next (s.waitsIn (s.withCur c) .plain)) ∧
    (∀ l y, c.seqC.lastAtom = some l → l.busy = false → l.y = some y → exec (.fenceAcq k sc) s =
      .next ((s.withCur c).completes s.cur (cOnly k) (c.updSeq .c (·.acquire y)))) ∧
    ((∀ l, c.seqC.lastAtom = some l → l.busy = false ∧ l.y = none) → exec (.fenceAcq k sc) s = .next ((s.withCur c).completes s.cur (cOnly k) c)) ∧
    ((s.withCur c).testRelease s.cur sc = .wait s1 → exec (.fenceRel k sc) s = .next (s.waitsIn s1 .plain) ∧
      exec (.fenceAr k sc) s = .next (s.waitsIn s1 .plain)) ∧
    (s.Releases (cOnly k) sc c s1 c1 →
      let c2 := c1.updSeq .c (fun q => { q with relNext := some sc })
      exec (.fenceRel k sc) s = .next (s1.completes s.cur (cOnly k) c2) ∧
      ((∀ l, c1.seqC.lastAtom = some l → l.busy = false ∧ l.y = none) → exec (.fenceAr k sc) s = .next (s1.completes s.cur (cOnly k) c2)) ∧
      (∀ l, c1.seqC.lastAtom = some l → l.busy = true → exec (.fenceAr k sc) s = .next (s.waitsIn s1 .plain)) ∧
      ∀ l y, c1.seqC.lastAtom = some l → l.busy = false → l.y = some y → exec (.fenceAr k sc) s =
        .next (s1.completes s.cur (cOnly k) (c2.updSeq .c (·.acquire y)))))

/-- R176, R197, R203, R206, R207, R281: an atomic on an aligned, translated address joins the queue of its home slice,
which holds 64, with its operands; the word waits for the old value and writes it, or lets its tag stand for it. One
with `:rel`, or behind a releasing fence, first meets the release of its scope, the wider of CHIP and the fence's for
`:rel`, and carries the stamp that the release gives it. At the slice it combines the old value with the operand, or
compares and swaps, and the register takes the old value, sign-extended. A key mismatch or a race there is precise and
without effect for a word that waits, and deferred for one with a tag, whose access is issued again. -/
def Obligations.AtomicsRunAtTheirSlice : Prop :=
  (∀ (k : BitVec 8) (tg : Option Tag) (op : AtomOp) (dbl acq rel : Bool) (d a b e : GReg) (s : State)
      (c : CoreTask) (tk : Task) (x : Xl) (i : Instr) (o : Option AtomOp) (v2 : Word),
    let u : WordUse := { perm := [.c], cons := k, alloc := tg, dst := gDst d }
    s.Enters u c → (s.withCur c).task? s.cur.slot = some tk →
    (i = .atom k tg op dbl acq rel d a b ∧ o = some op ∧ v2 = 0) ∨
    (i = .atcas k tg dbl acq rel d a b e ∧ o = none ∧ v2 = c.seqC.rd e) →
    let s1 := s.withCur c
    let va := c.seqC.rd a
    let n := if dbl then 8 else 4
    let sl := homeSlice x.f
    (∀ v, c.waitOf .c = some (.atom (some v)) → exec i s = .next (s1.goesOn s.cur u (some (d, v)))) ∧
    (c.waitOf .c = none → ¬n ∣ va.toNat → exec i s = .next (s.trapped c (trapAt .align va))) ∧
    (∀ tr, c.waitOf .c = none → n ∣ va.toNat → s1.translate tk.ctx Need.rmw va = .trap tr →
      exec i s = .next (s.trapped c tr)) ∧
    (c.waitOf .c = none → n ∣ va.toNat → s1.translate tk.ctx Need.rmw va = .ok x →
      s1.accBusy tk.ctx c va.toNat x.f n = false →
      c.postedAt x.f n = false → c.pendingLoadAt x.f n = false → c.again = [] →
      let scope (sc : Scope) := (rel = true ∧ sc = if c.seqC.relNext = some .sys then .sys else .chip) ∨
        (rel = false ∧ c.seqC.relNext = some sc)
      (∀ sc s2, scope sc → s1.testRelease s.cur sc = .wait s2 → exec i s = .next (s.waitsIn s2 .plain)) ∧
      ∀ (s2 : State) (c2 : CoreTask) (releases : Bool) (st : Stamp),
        (rel = false ∧ c.seqC.relNext = none ∧ s2 = s1 ∧ c2 = c ∧ releases = false ∧ st = c.seqC.stamp) ∨
        (∃ sc, scope sc ∧ s1.testRelease s.cur sc = .ready s2 ∧ s2.ct? s.cur.slot s.cur.rank = some c2 ∧
          releases = true ∧ st = c2.seqC.stamp + 1) →
        (s2.slice sl).queue.length < 64 →
        ∃ t, exec i s = .next t ∧ t.m.dpa = s.m.dpa ∧ t.m.host = s.m.host ∧
          (t.slice sl).queue = (s2.slice sl).queue ++ [.atom {
            slot := s.cur.slot, rank := s.cur.rank, ctx := tk.ctx, va := va, addr := x.f.a, key := x.key, keep := x.keep,
            dbl := dbl, op := o, v := c.seqC.rd b, v2 := v2, tag := tg, rel := releases, acq := acq, ord := s2.fresh,
            stamp := st, waddr := c2.seqC.pc }] ∧
          ∃ c', t.ct? s.cur.slot s.cur.rank = some c' ∧ c'.seqC.acqBusy = acq ∧ c'.seqC.stamp = st ∧
            (tg = none → c'.seqC.pc = c2.seqC.pc ∧ c'.waitOf .c = some (.atom none)) ∧
            ∀ g, tg = some g → c'.seqC.pc = c2.seqC.advance.pc ∧ c'.seqC.relNext = none ∧
              find c'.seqC.tags g.val = some { dest := .g d, res := .atom, landed := false })) ∧
  (∀ (sl : Fin 64) (s : State) (r : AtomReq) (rest : List SliceOp),
    (∀ p ∈ (s.slice sl.val).held, p.ready = false) → (s.slice sl.val).lane = [] →
    (s.slice sl.val).queue = .atom r :: rest → s.sliceFrozen sl.val = false →
    let s1 := s.setSlice sl.val { s.slice sl.val with queue := rest }
    let f : FAddr := { host := false, a := r.addr }
    let n := if r.dbl then 8 else 4
    let old := leNat (readN 0 s.m.dpa r.addr n)
    let w := r.result n old
    let done (s : State) : State := s.updSeq { slot := r.slot, rank := r.rank, q := .c }
      (r.finish (BitVec.ofInt 64 (Int.bmod old (2 ^ (8 * n)))) (s1.syncAt f r.keep))
    let race := s1.raceAt f n r.keep (agentId r.slot r.rank 0) r.stamp w.isSome true
    (∀ t, (s1.keyBad f r.key = true ∧ t = trapAt .keyMismatch r.va) ∨ (s1.keyBad f r.key = false ∧ race = some t) →
      (r.tag = none → exec (.atomicAtSlice sl) s = .next ((s1.updSeq { slot := r.slot, rank := r.rank, q := .c }
        (fun q => { q with acqBusy := false })).raise { slot := r.slot, rank := r.rank, q := .c } t)) ∧
      (r.tag.isSome → exec (.atomicAtSlice sl) s = .next ((s1.updCt r.slot r.rank (fun c =>
        { c with again := c.again ++ [r] })).raiseLater { slot := r.slot, rank := r.rank, q := .c } t r.waddr))) ∧
    (s1.keyBad f r.key = false → race = none → w = none → exec (.atomicAtSlice sl) s = .next (done s1)) ∧
    ∀ v, s1.keyBad f r.key = false → race = none → w = some v → exec (.atomicAtSlice sl) s = .next (done (s1.applyWrite f (leBytes n v) r.keep
      (some (agentId r.slot r.rank 0, r.stamp, true)) (if r.rel then some r.stamp else none)))) ∧
  (∀ (r : AtomReq) (n old : Nat), n = 4 ∨ n = 8 → old < 2 ^ (8 * n) →
    let m := 2 ^ (8 * n)
    let v := r.v.toNat % m
    (r.op = none → r.result n old = if old = v then some (r.v2.toNat % m) else none) ∧
    (r.op = some .add → r.result n old = some ((old + v) % m)) ∧
    (r.op = some .and → r.result n old = some (old &&& v)) ∧ (r.op = some .or → r.result n old = some (old ||| v)) ∧
    (r.op = some .xor → r.result n old = some (old ^^^ v)) ∧ (r.op = some .swap → r.result n old = some v) ∧
    (r.op = some .min → r.result n old = some (if Int.bmod v m < Int.bmod old m then v else old)) ∧
    (r.op = some .max → r.result n old = some (if Int.bmod old m < Int.bmod v m then v else old)))

/-- R176, R183, R197, R281, R288, R370: a posted store is applied at its home slice after the earlier ones of its
core-task that share a byte, unless the slice is held, and then leaves: exactly its bytes change. A key mismatch or a
race raises a deferred fault and the store stays to be posted again; after a stop it is translated anew first. -/
def Obligations.PostedStoresAreApplied : Prop :=
  ∀ (s : State) (slot rank idx : Nat) (tk : Task) (c : CoreTask) (p : Posted), s.task? slot = some tk →
    tk.state = .running → s.ct? slot rank = some c → c.posted[idx]? = some p →
    let first := ∀ q ∈ c.posted.take idx, q.stage ≠ .anew ∧
      (q.final.host ≠ p.final.host ∨ rangesMeet q.final.a q.bytes.length p.final.a p.bytes.length = false)
    let race := s.raceAt p.final p.bytes.length p.keep (agentId slot rank 0) p.stamp true false
    let held := s.putCt slot rank { c with posted := c.posted.set idx { p with stage := .faulted } }
    let again (x : Xl) := ((s.cache tk.ctx p.va x p.bytes.length).clearMiss slot rank 0 p.va p.waddr).putCt slot rank
      { c with posted := c.posted.set idx { p with final := x.f, key := x.key, keep := x.keep, stage := .posted } }
    (p.stage = .faulted ∨ (p.stage = .posted ∧ (¬first ∨ s.heldAt p.final = true)) → exec (.storeApply slot rank idx) s = .next s) ∧
    (∀ x, p.stage = .anew → s.translate tk.ctx Need.write p.va = .ok x → exec (.storeApply slot rank idx) s =
      .next (if s.heldAt x.f then again x else (again x).storeApply slot rank idx)) ∧
    (∀ tr, p.stage = .anew → s.translate tk.ctx Need.write p.va = .trap tr → exec (.storeApply slot rank idx) s =
      .next (held.raiseDeferred slot rank tr p.waddr)) ∧
    (p.stage = .posted → first → s.heldAt p.final = false →
      (s.keyBad p.final p.key = true → exec (.storeApply slot rank idx) s =
        .next (held.raiseDeferred slot rank (trapAt .keyMismatch p.va) p.waddr)) ∧
      (∀ t, s.keyBad p.final p.key = false → race = some t → exec (.storeApply slot rank idx) s =
        .next (held.raiseDeferred slot rank t p.waddr)) ∧
      (s.keyBad p.final p.key = false → race = none →
        ∃ t, exec (.storeApply slot rank idx) s = .next t ∧
          (∃ c', t.ct? slot rank = some c' ∧ c'.posted = c.posted.eraseIdx idx) ∧
          (p.final.host = false → t.m.host = s.m.host ∧ ∀ b, Tab.get 0 t.m.dpa b =
            if p.final.a ≤ b ∧ b < p.final.a + p.bytes.length then p.bytes.getD (b - p.final.a) 0
            else Tab.get 0 s.m.dpa b) ∧
          (p.final.host = true → t.m.dpa = s.m.dpa ∧
            (s.hostOk p.final.a p.bytes.length = false → t.m.host = s.m.host) ∧
            (s.hostOk p.final.a p.bytes.length = true → ∀ b, Tab.get 0 t.m.host b =
              if p.final.a ≤ b ∧ b < p.final.a + p.bytes.length then p.bytes.getD (b - p.final.a) 0
              else Tab.get 0 s.m.host b))))

/-- R208, R209, R212, R217: an accumulate of a bad shape, alignment or stride, or of an accumulator of the other
reading, faults; otherwise it captures its addends and sends one piece to each home slice of its target, and memory
does not change. FLUSHRES starts the delivery of every slot that it covers and waits until no residual and no send of
them is left; with an address it covers the accumulates of that address alone (R218). -/
def Obligations.AccumulatesAreSent : Prop :=
  (∀ (k : BitVec 8) (f : AccFmt) (acc : Fin 16) (a g : GReg) (rows cols : BitVec 7) (direct : Bool) (s : State)
      (c : CoreTask) (t : Task) (es : List (Nat × Xl)) (i : Instr),
    s.Enters (cOnly k) c → (s.withCur c).task? s.cur.slot = some t →
    (i = .acct k f acc a g rows cols ∧ direct = !s.refuseOn) ∨ (i = .acctD k f acc a g rows cols ∧ direct = true) →
    let va := c.seqC.rd a
    let stride := (c.seqC.rd g).toNat
    let s1 := s.withCur c
    let good := 4 ∣ stride ∧ 4 * cols.toNat ≤ stride ∧ stride ≤ 2 ^ 24 ∧
      Tab.get false c.accInt acc.val = decide (f = .i32)
    let x : AcctSend := {
      id := 0, va := va, rows := rows.toNat, cols := cols.toNat, stride := stride, fmt := f, direct := direct,
      ride := none, rt := none, unaccepted := 0, left := 0, stall := false, waddr := c.seqC.pc }
    (acctOk rows cols = false → exec i s = .next (s.trapped c (trapOf .illegalField))) ∧
    (acctOk rows cols = true → ¬4 ∣ va.toNat → exec i s = .next (s.trapped c (trapAt .align va))) ∧
    (acctOk rows cols = true → 4 ∣ va.toNat → ¬good → exec i s = .next (s.trapped c (trapOf .shape))) ∧
    (∀ tr, acctOk rows cols = true → 4 ∣ va.toNat → good → s1.target t.ctx va rows.toNat cols.toNat stride = .trap tr →
      exec i s = .next (s.trapped c tr)) ∧
    (acctOk rows cols = true → 4 ∣ va.toNat → good → s1.target t.ctx va rows.toNat cols.toNat stride = .ok es →
      (∀ m ∈ c.mxq, namesAcc acc.val m.i = false) → c.openSends < 16 → s1.acctBlocked c x es = false → c.resid = [] →
      (∀ e ∈ es, e.2.f.host = false) →
      ∃ u c' ps, exec i s = .next u ∧ u.ct? s.cur.slot s.cur.rank = some c' ∧ u.m.dpa = s.m.dpa ∧
        u.m.host = s.m.host ∧ c'.flight = c.flight ++ ps ∧
        c'.sends = c.sends ++ [{ x with id := s.fresh, unaccepted := ps.length, left := ps.length }] ∧
        ps.Pairwise (fun p q => p.slice ≠ q.slice) ∧
        (∀ p ∈ ps, p.send = s.fresh ∧ p.fmt = f ∧ p.direct = direct ∧ p.elems ≠ [] ∧
          ∀ e ∈ p.elems, homeSlice { host := false, a := e.2.1 } = p.slice) ∧
        (∀ pos, pos < rows.toNat * cols.toNat → ∀ y, (pos, y) ∈ es →
          ∃ p ∈ ps, (pos / cols.toNat * 64 + pos % cols.toNat, y.f.a,
            addendAt f (c.accWords acc.val) none (pos / cols.toNat * 64 + pos % cols.toNat)) ∈ p.elems))) ∧
  (∀ (k : BitVec 8) (a : GReg) (s s1 : State) (c c1 : CoreTask) (i : Instr) (covers : Word → Bool),
    s.Enters (cOnly k) c →
    (i = .flushresAll k ∧ covers = fun _ => true) ∨ (i = .flushresOne k a ∧ covers = fun va => decide (va = c.seqC.rd a)) →
    (s.withCur c).deliverAll s.cur.slot s.cur.rank (c.slotsWhere (fun r => !r.flying && covers r.va)) = .ok s1 →
    s1.ct? s.cur.slot s.cur.rank = some c1 →
    let left := (∃ x ∈ c1.sends, covers x.va = true) ∨ ∃ j < 8, ∃ r, find c1.resid j = some r ∧ covers r.va = true
    (left → exec i s = .next (s.waitsIn s1 .plain)) ∧
    (¬left → exec i s = .next (s1.goesOn s.cur (cOnly k) none)))

/-- R204, R210, R211, R212, R213, R214, R288: a piece that its slice has no room for goes back to its core, or waits
where it is when it is ACCT.D's; an accepted one joins the slice's queue. The slice adds the elements of its next
piece to memory, each word alone. A slice that is held takes no piece. A refused piece is summed into the residual
slot of its target, which takes the stamp of the latest accumulate summed into it, or into a free one. A residual
whose age has reached 65,536 cycles, or whose delivery a stop cut short, is delivered. -/
def Obligations.PiecesArriveAndAreAdded : Prop :=
  (∀ (s : State) (slot rank idx : Nat) (t : Task) (c : CoreTask) (p : Piece), s.task? slot = some t →
    s.ct? slot rank = some c → c.flight[idx]? = some p →
    (∀ x ∈ c.flight.take idx, x.slice = p.slice → x.lane ≠ p.lane) →
    let v := s.slice p.slice
    let full := s.sliceFull p.slice p.core t.tenant
    let c1 := { c with flight := c.flight.eraseIdx idx }
    (s.sliceFrozen p.slice = true → exec (.acctPieceArrival slot rank idx) s = .next s) ∧
    (s.sliceFrozen p.slice = false →
    (p.lane = true → v.lane.length < 8 → exec (.acctPieceArrival slot rank idx) s = .next ((s.setSlice p.slice
      { v with lane := v.lane ++ [p] }).putCt slot rank (c1.accepted p))) ∧
    (p.lane = true → 8 ≤ v.lane.length → exec (.acctPieceArrival slot rank idx) s = .next s) ∧
    (p.lane = false → full = false → exec (.acctPieceArrival slot rank idx) s = .next ((s.setSlice p.slice
      { v with queue := v.queue ++ [.piece p] }).putCt slot rank (c1.accepted p))) ∧
    (p.lane = false → full = true → p.direct = false → exec (.acctPieceArrival slot rank idx) s =
      .next (s.putCt slot rank { c1 with returns := c.returns ++ [p] })) ∧
    (p.lane = false → full = true → p.direct = true → exec (.acctPieceArrival slot rank idx) s =
      .next (s.putCt slot rank (c.updSend p.send (fun x => { x with stall := true })))))) ∧
  (∀ (s : State) (sl : Fin 64) (p : Piece) (rest : List SliceOp),
    (∀ p ∈ (s.slice sl.val).held, p.ready = false) → (s.slice sl.val).lane = [] →
    (s.slice sl.val).queue = .piece p :: rest → s.sliceFrozen sl.val = false →
    let s1 := s.setSlice sl.val { s.slice sl.val with queue := rest }
    s1.pieceKeyBad p = false → s1.pieceRace p = none →
    ∃ t, exec (.acctPieceApply sl) s = .next t ∧ t.m.host = s.m.host ∧
      (∀ b, (∀ e ∈ p.elems, b < e.2.1 ∨ e.2.1 + 4 ≤ b) → Tab.get 0 t.m.dpa b = Tab.get 0 s.m.dpa b) ∧
      (p.elems.Pairwise (fun e x => e.2.1 + 4 ≤ x.2.1 ∨ x.2.1 + 4 ≤ e.2.1) → ∀ e ∈ p.elems,
        leNat (readN 0 t.m.dpa e.2.1 4) =
          (accAdd p.fmt (BitVec.ofNat 32 (leNat (readN 0 s.m.dpa e.2.1 4))) e.2.2).toNat)) ∧
  (∀ (s : State) (slot rank idx : Nat) (c : CoreTask) (p : Piece) (x : AcctSend), s.ct? slot rank = some c →
    c.returns[idx]? = some p → c.sends.find? (fun y => decide (y.id = p.send)) = some x →
    (∀ k r, c.slotOf x = some k → find c.resid k.val = some r →
      exec (.returnToSender slot rank idx) s = .next (s.putCt slot rank ((({ c with
        returns := c.returns.eraseIdx idx,
        resid := Tab.put k.val (if r.last ≤ p.send
          then { r with words := sumInto r.fmt r.words p.elems, held := true, last := p.send, stamp := p.stamp, waddr := p.waddr }
          else { r with words := sumInto r.fmt r.words p.elems, held := true }) c.resid
        }).accepted p).settled p))) ∧
    (∀ k, c.slotOf x = none → c.freeSlot = some k →
      exec (.returnToSender slot rank idx) s = .next (s.putCt slot rank ((({ c with
        returns := c.returns.eraseIdx idx,
        resid := Tab.put k.val {
          va := x.va, rows := x.rows, cols := x.cols, stride := x.stride, fmt := x.fmt, age := 0, flying := false, due := false,
          words := sumInto x.fmt [] p.elems, held := true, last := p.send, stamp := p.stamp, waddr := p.waddr } c.resid
        }).accepted p).settled p))) ∧
    (c.slotOf x = none → c.freeSlot = none →
      exec (.returnToSender slot rank idx) s = .next (s.putCt slot rank { c with
        returns := c.returns.eraseIdx idx, flight := c.flight ++ [{ p with lane := true }] }))) ∧
  (∀ (s s1 : State) (slot rank : Nat) (rt : Fin 8) (t : Task) (c : CoreTask) (r : Resid), s.task? slot = some t →
    t.state = .running → s.ct? slot rank = some c → find c.resid rt.val = some r → r.flying = false →
    (r.age < 65536 * 1000 → r.due = false → exec (.residualAgeDelivery slot rank rt) s = .next s) ∧
    (65536 * 1000 ≤ r.age ∨ r.due = true → s.deliver slot rank rt = .ok s1 → exec (.residualAgeDelivery slot rank rt) s = .next s1))

/-- R191, R195, R220, R221, R222: WAITA goes on with status 0 when the masked word at its address meets its condition,
and otherwise leaves an entry at the home slice and waits for a write that meets it, which wakes it with the
location's synchronisation stamp, or for its deadline, which gives status 1 and takes its entry away. With `:acq` it
acquires the stamp. R238, R239, R240: FUTRES makes a future RESOLVED with its value and no waiters, and no other byte
changes; every gang that waits for it drops that condition, every task whose entry it is has one dependence less. A
second time it raises FUT-DOUBLE. FUTWAIT reads the value of a resolved future, and otherwise registers its rank, one
waiter more, and parks the gang; at its tenant's quota it waits and THROT counts it. -/
def Obligations.WaitsOnAddressesAndFutures : Prop :=
  ((∀ (k : BitVec 8) (cc : Cond) (acq : Bool) (d a m v tmo : GReg) (s : State) (c : CoreTask) (t : Task) (x : Xl),
      let u : WordUse := { perm := [.c], cons := k, dst := gDst d }
      s.Enters u c → (s.withCur c).task? s.cur.slot = some t →
      let va := c.seqC.rd a
      let s1 := s.withCur c
      let i : Instr := .waita k cc acq d a m v tmo
      let sl := homeSlice x.f
      (∀ id st y, c.waitOf .c = some (.waita id (some st) y) →
        ∃ w c', exec i s = .next w ∧ w.ct? s.cur.slot s.cur.rank = some c' ∧
          c'.seqC.rd d = (if d = 0 then 0 else st) ∧ c'.seqC.pc = c.seqC.advance.pc ∧
          c'.seqC.stamp = (match acq, y with
            | true, some z => acqStamp c.seqC.stamp z
            | _, _ => c.seqC.stamp)) ∧
      (c.waitOf .c = none →
        (¬8 ∣ va.toNat → exec i s = .next (s.trapped c (trapAt .align va))) ∧
        (8 ∣ va.toNat → s1.translate t.ctx Need.waita va = .ok x → s1.accBusy t.ctx c va.toNat x.f 8 = false →
          c.postedAt x.f 8 = false → c.pendingLoadAt x.f 8 = false →
          s1.atomAt s.cur.slot s.cur.rank x.f 8 = false → s.heldAt x.f = false → s1.keyBad x.f x.key = false →
          s1.raceAt x.f 8 x.keep (agentId s.cur.slot s.cur.rank 0) c.seqC.stamp false true = none →
          let word := leWord (s1.readFinal x.f 8) &&& c.seqC.rd m
          (condHolds cc word (c.seqC.rd v &&& c.seqC.rd m) = true →
            ∃ w c', exec i s = .next w ∧ w.ct? s.cur.slot s.cur.rank = some c' ∧ w.m.dpa = s.m.dpa ∧
              c'.seqC.rd d = 0 ∧ c'.seqC.pc = c.seqC.advance.pc) ∧
          (condHolds cc word (c.seqC.rd v &&& c.seqC.rd m) = false → s1.pigeonFull sl t.tenant = false →
            ∃ w, exec i s = .next w ∧ w.m.dpa = s.m.dpa ∧
              (w.slice sl).pigeons = (s.slice sl).pigeons ++ [{
                id := s.fresh, addr := x.f.a, keep := x.keep, mask := c.seqC.rd m, cc := cc, e := c.seqC.rd v &&& c.seqC.rd m,
                slot := s.cur.slot, rank := s.cur.rank, tenant := t.tenant, lost := false,
                deadline := if c.seqC.rd tmo = 0 then none else some (s.dtime + (c.seqC.rd tmo).toNat) }] ∧
              (w.ct? s.cur.slot s.cur.rank).map (·.waitOf .c) = some (some (.waita s.fresh none none)))))) ∧
    (∀ (s : State) (sl : Nat) (v : Slice) (p : Pigeon), find s.m.slices sl = some v → p ∈ v.pigeons →
      (∀ e ∈ s.m.slices, ∀ q ∈ e.2.pigeons, q.id = p.id → e.1 = sl ∧ q = p) →
      (p.deadline = none → exec (.waitaTimeout p.id) s = .next s) ∧
      ∀ when_, p.deadline = some when_ →
        (s.dtime < when_ → exec (.waitaTimeout p.id) s = .next s) ∧
        (when_ ≤ s.dtime → exec (.waitaTimeout p.id) s = .next ((s.setSlice sl
          { v with pigeons := v.pigeons.filter (fun q => decide (q.id ≠ p.id)) }).wakeWaita p 1 none))) ∧
    (∀ (s : State) (n : Nat), (∀ e ∈ s.m.slices, ∀ q ∈ e.2.pigeons, q.id ≠ n) → exec (.waitaTimeout n) s = .next s) ∧
    (∀ (s : State) (sl a n : Nat) (p : Pigeon) (c : CoreTask) (w : Wait) (z : Option Stamp), p ∈ (s.slice sl).pigeons →
      (∀ q ∈ (s.slice sl).pigeons, q.id = p.id → q = p) → p.lost = false → p.addr < a + n → a < p.addr + 8 →
      condHolds p.cc (leWord (readN 0 s.m.dpa p.addr 8) &&& p.mask) p.e = true →
      s.ct? p.slot p.rank = some c → c.seqC.wait = some w → w.kind = .waita p.id none z →
      p ∉ ((s.testSlice sl a n).slice sl).pigeons ∧
      ((s.testSlice sl a n).ct? p.slot p.rank).map (·.waitOf .c) =
        some (some (.waita p.id (some 0) (some (s.syncAt { host := false, a := p.addr } p.keep))))) ∧
    (∀ (s : State) (p : Pigeon) (status : Word) (y : Option Stamp) (c : CoreTask) (w : Wait) (r : Option Word)
        (z : Option Stamp), s.ct? p.slot p.rank = some c → c.seqC.wait = some w → w.kind = .waita p.id r z →
      ((s.wakeWaita p status y).ct? p.slot p.rank).map (·.waitOf .c) = some (some (.waita p.id (some status) y)))) ∧
  (∀ (k : BitVec 8) (d a v : GReg) (s : State) (c : CoreTask) (t : Task) (x : Xl),
      (s.withCur c).task? s.cur.slot = some t →
      let va := c.seqC.rd a
      let s1 := s.withCur c
      let s2 := (s1.cache t.ctx va x 16).clearMiss s.cur.slot s.cur.rank 0 va c.seqC.pc
      let id := agentId s.cur.slot s.cur.rank 0
      let ready := 16 ∣ va.toNat ∧ s1.translate t.ctx Need.rmw va = .ok x ∧ x.f.host = false ∧
        s1.accBusy t.ctx c va.toNat x.f 16 = false ∧ c.postedAt x.f 16 = false ∧ c.pendingLoadAt x.f 16 = false ∧
        s1.atomAt s.cur.slot s.cur.rank x.f 16 = false ∧ s.heldAt x.f = false ∧
        s1.keyBad x.f x.key = false ∧ futBad (s1.futAt x.f.a) = false
      (s.Enters (cOnly k) c →
        (¬16 ∣ va.toNat → exec (.futres k a v) s = .next (s.trapped c (trapAt .align va))) ∧
        ∀ s3 c3, ready → s2.testRelease s.cur .chip = .ready s3 → s3.ct? s.cur.slot s.cur.rank = some c3 →
          (futState (s3.futAt x.f.a) = 2 → exec (.futres k a v) s = .next (s.trapped c (trapAt .futDouble va))) ∧
          (futState (s3.futAt x.f.a) ≠ 2 → s3.raceAt x.f 16 x.keep id (c3.seqC.stamp + 1) true true = none →
            let mine := s3.m.futures.filter (fun e => decide (e.addr = x.f.a))
            ∃ u c', exec (.futres k a v) s = .next u ∧ u.ct? s.cur.slot s.cur.rank = some c' ∧
              c'.seqC.pc = c3.seqC.advance.pc ∧ c'.seqC.stamp = c3.seqC.stamp + 1 ∧
              futState (u.futAt x.f.a) = 2 ∧ futWaiters (u.futAt x.f.a) = 0 ∧
              leWord (u.readFinal { x.f with a := x.f.a + 8 } 8) = c3.seqC.rd v ∧
              (∀ b, b < x.f.a ∨ x.f.a + 16 ≤ b → Tab.get 0 u.m.dpa b = Tab.get 0 s3.m.dpa b) ∧
              u.m.futures = s3.m.futures.filter (fun e => decide (e.addr ≠ x.f.a)) ∧
              (∀ e ∈ mine, ∀ r, e.rank = some r → ∀ tk, u.task? e.slot = some tk → .future r ∉ tk.conds) ∧
              ∀ slot tk, s3.task? slot = some tk → ∃ tk', u.task? slot = some tk' ∧
                tk'.counter = tk.counter - (mine.filter (fun e => decide (e.rank = none ∧ e.slot = slot))).length)) ∧
      (s.Enters { perm := [.c], cons := k, dst := gDst d } c → ready → c.waitOf .c = none →
        (futState (s1.futAt x.f.a) = 2 → s2.raceAt x.f 16 x.keep id c.seqC.stamp false true = none →
          ∃ w c', exec (.futwait k d a) s = .next w ∧ w.ct? s.cur.slot s.cur.rank = some c' ∧
            c'.seqC.rd d = (if d = 0 then 0 else leWord (s1.readFinal { x.f with a := x.f.a + 8 } 8)) ∧
            c'.seqC.pc = c.seqC.advance.pc ∧ w.m.dpa = s.m.dpa) ∧
        (futState (s1.futAt x.f.a) ≠ 2 → s2.tenantFutures t.tenant < fieldOf (s2.tqWord t.tenant 0) 15 14 →
          s2.raceAt x.f 16 x.keep id c.seqC.stamp true true = none →
          let w : FutWaiter := { addr := x.f.a, slot := s.cur.slot, rank := some s.cur.rank, tenant := t.tenant }
          let s3 := s2.registerAt x.f x.keep (some (id, c.seqC.stamp, true)) w
          exec (.futwait k d a) s = .next (s3.stopGang s.cur.slot [.future s.cur.rank] false) ∧
          futState (s3.futAt x.f.a) = 1 ∧ s3.m.futures = s2.m.futures ++ [w] ∧
          (futWaiters (s1.futAt x.f.a) < 65535 → futWaiters (s3.futAt x.f.a) = futWaiters (s1.futAt x.f.a) + 1)) ∧
        (futState (s1.futAt x.f.a) ≠ 2 → fieldOf (s2.tqWord t.tenant 0) 15 14 ≤ s2.tenantFutures t.tenant →
          s2.raceAt x.f 16 x.keep id c.seqC.stamp false true = none →
          exec (.futwait k d a) s = .next (s.waitsIn (s2.addThrot t.tenant) .quota))))

/-- R75, R180, R224, R229, R230, R231, R235, R236, R237: TSUBMIT reads its descriptor once, which must not be host
memory, with TSUBMIT.F's successor future in it; a descriptor that is not REMOTE gets the negated code of the first
refusal, or the task is accepted and its identifier written; at its tenant's quota it waits with the descriptor it has
read, and THROT counts it once; an address out of alignment raises ALIGN. A REMOTE descriptor raises LINK-MISS where
no peer link can be used, is refused here for its fields and its process-group table alone, and else goes to the peer
with the submitter's job one more; the word waits for the answer and writes it. A miss for which no page can be asked
is the refusal of what it reads. R230, R52, R75: the refusals of a submission, in their order: 1 for a reserved or
illegal field of the descriptor or an awaited future that cannot be used, 2 for a gang larger than the partition's
cores, 3 for its image, 4 for another tenant or privilege that the submitter lacks, 5 for a stream of another
partition or a closed step, 6 for the process-group table; else it is accepted. R231, R232, R233, R234: acceptance
takes the lowest free slot; the identifier is the slot's generation over the slot number; the new task is READY when
it has no predecessor and no open future and else SUBMITTED, with their number as its counter. The candidates are the
tasks in flight of its stream whose step is not later, or, without a stream, those of its context without one; the
predecessors are the candidates with a range that shares a byte with one of its own, one of the two a write. -/
def Obligations.TasksAreSubmittedAndAccepted : Prop :=
  (∀ (k : BitVec 8) (d a f : GReg) (i : Instr) (fut : Option Word) (s : State) (c : CoreTask) (t : Task) (b0 : List Byte),
      let u : WordUse := { perm := [.c], cons := k, dst := gDst d }
      s.Enters u c → (s.withCur c).task? s.cur.slot = some t →
      (i = .tsubmit k d a ∧ fut = none) ∨ (i = .tsubmitF k d a f ∧ fut = some (c.seqC.rd f)) →
      let va := c.seqC.rd a
      let s0 := ((s.withCur c).noteVa t.ctx Need.waita va 128).clearWord s.cur.slot s.cur.rank 0 c.seqC.pc
      let stream := t.stream.map (fun n => (n, t.step))
      let fresh := (∀ r v, c.waitOf .c ≠ some (.remote r v)) ∧ ∀ td n, c.waitOf .c ≠ some (.submit td n)
      let first := fresh ∧ 64 ∣ va.toNat ∧ ∀ v, fut = some v → 16 ∣ v.toNat
      (fresh → ¬64 ∣ va.toNat → exec i s = .next (s.trapped c (trapAt .align va))) ∧
      (∀ v, fresh → 64 ∣ va.toNat → fut = some v → ¬16 ∣ v.toNat →
        exec i s = .next (s.trapped c (trapAt .align v))) ∧
      (∀ tr, first → (s.withCur c).readAs t.ctx Need.waita va 128 = .trap tr → exec i s = .next (s.trapped c tr)) ∧
      (∀ s1, first → (s.withCur c).readAs t.ctx Need.waita va 128 = .ok b0 → s0.testRelease s.cur .sys = .wait s1 →
        exec i s = .next (s.waitsIn s1 .plain)) ∧
      (∀ r, c.waitOf .c = some (.remote r none) → exec i s = .next (s.waitsIn (s.withCur c) (.remote r none))) ∧
      (∀ r v, c.waitOf .c = some (.remote r (some v)) → exec i s = .next ((s.withCur c).goesOn s.cur u (some (d, v)))) ∧
      ∀ (td : List Word) (s1 : State) (c1 : CoreTask),
        (first ∧ (s.withCur c).readAs t.ctx Need.waita va 128 = .ok b0 ∧ s0.testRelease s.cur .sys = .ready s1 ∧
          s1.ct? s.cur.slot s.cur.rank = some c1 ∧
          ∃ bs, s1.readAs t.ctx Need.waita va 128 = .ok bs ∧ td = patchDesc (descWords bs) fut stream) ∨
        ((∃ n, c.waitOf .c = some (.submit td n)) ∧ s1 = s.withCur c ∧ c1 = c) →
        let sub : Submitter := {
          ctx := t.ctx, priv := t.privileged, host := false, stream := stream, job := some t.job, multi := none }
        let c2 := c1.updSeq .c Seq.release
        let out (s2 : State) (v : Word) := (s2.putCt s.cur.slot s.cur.rank c2).goesOn s.cur u (some (d, v))
        let read := (s1.noteSub td t.ctx).clearWord s.cur.slot s.cur.rank 0 c1.seqC.pc
        let tenant := s1.ctxTenant t.ctx
        let link := s1.r.featw0.getLsbD 4 = true ∧ s1.ports.peer = true
        (wordField td 1 28 1 = 0 →
          (∀ n x, s1.checkSub td va sub = .refuse n x → s1.quotaOk tenant td 0 = true →
            exec i s = .next (out read (-(BitVec.ofNat 64 n)))) ∧
          (∀ m t1, s1.checkSub td va sub = .miss m → s1.quotaOk tenant td 0 = true →
            s1.task? s.cur.slot = some t1 → s1.prqEnabled t1.ctx = false →
            exec i s = .next (out (s1.clearWord s.cur.slot s.cur.rank 0 c1.seqC.pc) (-(BitVec.ofNat 64 m.code)))) ∧
          (∀ img xs, s1.checkSub td va sub = .ok img xs →
            (s1.quotaOk tenant td (s1.unresolved xs).length = false → exec i s = .next (s.waitsIn
              (if c1.submitCounted then s1 else s1.addThrot tenant) (.submit td true))) ∧
            (s1.quotaOk tenant td (s1.unresolved xs).length = true →
              let s3 := ((read.putCt s.cur.slot s.cur.rank c2).jobMore t.job).accept td sub img xs none
              exec i s = .next (s3.1.goesOn s.cur u (some (d, s3.2.setWidth 64)))))) ∧
        (wordField td 1 28 1 = 1 →
          (¬link → exec i s = .next (s.trapped c (trapOf .linkMiss))) ∧
          (link → tdOk td = false → exec i s = .next (out s1 (-1))) ∧
          (link → tdOk td = true → s1.checkPgt td t.ctx false = .refuse → exec i s = .next (out s1 (-6))) ∧
          (∀ l, link → tdOk td = true → s1.checkPgt td t.ctx false = .ok l →
            let noted := (s1.notePgt t.ctx (vaField td 4)).clearWord s.cur.slot s.cur.rank 0 c1.seqC.pc
            let s2 := (noted.putCt s.cur.slot s.cur.rank c2).jobMore t.job
            exec i s = .next (s.waitsIn { s2 with ports := { s2.ports with
              nextReq := s1.ports.nextReq + 1,
              reqs := Tab.put s1.ports.nextReq (t.job, (agentId s.cur.slot s.cur.rank 0).toNat) s2.ports.reqs,
              sent := s2.ports.sent ++ [.submit l s1.ports.nextReq td] } } (.remote s1.ports.nextReq none))))) ∧
  (∀ (s : State) (td : List Word) (va : Word) (sub : Submitter),
      let waited := s.awaited sub.ctx [vaField td 6, vaField td 7]
      let image := s.readImage sub.ctx (vaField td 0)
      let cores := match s.taskPart sub.ctx with
        | some p => (s.partCores p).length
        | none => 0
      let modes := (List.range (wordField td 1 20 3)).map (fun i => wordField td (9 + 2 * i) 63 1)
      let gang := wordField td 1 0 5
      (tdOk td = false → s.checkSub td va sub = .refuse 1 va) ∧
      (tdOk td = true → (∀ n v, waited = .refuse n v → s.checkSub td va sub = .refuse n v ∧ n = 1) ∧
        ∀ im xs, waited = .ok im xs → sub.multi = none →
          (cores < gang → s.checkSub td va sub = .refuse 2 va) ∧
          (gang ≤ cores →
            (image = .bad → s.checkSub td va sub = .refuse 3 (vaField td 0)) ∧
            ∀ img g ms, image = .ok img g ms →
              (g ≠ gang ∨ ms ≠ modes → s.checkSub td va sub = .refuse 3 (vaField td 0)) ∧
              (g = gang → ms = modes →
                let tenantOk := wordField td 1 16 4 = s.ctxTenant sub.ctx ∧ (wordField td 1 23 1 = 1 → sub.priv = true)
                let streamOk := tdStream td sub = some none ∨ ∃ n b x p, tdStream td sub = some (some (n, b)) ∧
                  s.stream? n = some x ∧ s.taskPart sub.ctx = some p ∧ x.part = p ∧ 2 ^ 31 ≤ (x.closed - b).toNat
                (¬tenantOk → s.checkSub td va sub = .refuse 4 va) ∧
                (tenantOk → ¬streamOk → s.checkSub td va sub = .refuse 5 va) ∧
                (tenantOk → streamOk →
                  (s.checkPgt td sub.ctx true = .refuse → ∃ v, s.checkSub td va sub = .refuse 6 v) ∧
                  (∀ l, s.checkPgt td sub.ctx true = .ok l → s.checkSub td va sub = .ok img xs)))))) ∧
  ((∀ (s : State) (td : List Word) (sub : Submitter) (img : Image) (futs : List Xl) (job : Option Job) (n : Nat),
      n < 4096 → s.task? n = none → (∀ m < n, (s.task? m).isSome) →
      let r := s.accept td sub img futs job
      let preds := s.predecessors td sub.ctx ((tdStream td sub).getD none)
      let open_ := futs.filter (fun x => decide (futState (s.futAt x.f.a) ≠ 2))
      r.2.toNat = (Tab.get 0 s.gens n).toNat * 4096 + n ∧
      (∃ t, r.1.task? n = some t ∧ t.id = r.2 ∧ t.td = td ∧ t.ctx = sub.ctx ∧ t.preds = preds ∧
        t.counter = preds.length + open_.length ∧
        t.state = (if preds.length + open_.length = 0 then .ready else .submitted) ∧ t.cts = []) ∧
      Tab.get 0 r.1.gens n = Tab.get 0 s.gens n + 1 ∧
      ∀ m, m ≠ n → (r.1.task? m).map (·.id) = (s.task? m).map (·.id) ∧ Tab.get 0 r.1.gens m = Tab.get 0 s.gens m) ∧
    (∀ (s : State) (td : List Word) (ctx p : Nat) (st : Option (Nat × BitVec 32)),
      let start (x : List Word) (i : Nat) := (x.getD (8 + 2 * i) 0).toNat % 2 ^ 57
      let holds (x : List Word) (i b : Nat) := i < wordField x 1 20 3 ∧ start x i ≤ b ∧
        b < start x i + wordField x (9 + 2 * i) 0 40
      let writes (x : List Word) (i : Nat) := wordField x (9 + 2 * i) 63 1 = 1
      (p ∈ s.predecessors td ctx st ↔ ∃ e ∈ s.tasks, p = e.2.id.toNat ∧
        (match st with
          | some (n, b) => e.2.stream = some n ∧ (b - e.2.step).toNat < 2 ^ 31
          | none => e.2.ctx = ctx ∧ e.2.stream = none) ∧
        ∃ i j b, holds e.2.td i b ∧ holds td j b ∧ (writes e.2.td i ∨ writes td j))))

/-- R244, R245, R246, R247, R248: a word of a task without a stream raises ILLEGAL-FIELD. DLSET opens the next step
with its postmark and work and writes the rung, or changes the open one; DLCHK writes the slack, and is a checkpoint;
STEPEND ends the open step, a second one of which has no further effect. -/
def Obligations.StreamSteps : Prop :=
  (∀ (k : BitVec 8) (d : Option GReg) (e g w : GReg) (i : Instr) (s : State) (c : CoreTask) (t : Task),
    (i = .dlset k d g w ∧ s.Enters { perm := [.c], cons := k, dst := d.map .g } c) ∨
    ((i = .dlchk k e ∨ i = .frput k e ∨ i = .frget k e ∨ i = .kvapp k e) ∧
      s.Enters { perm := [.c], cons := k, dst := gDst e } c) ∨
    ((i = .stepend k ∨ i = .frpub k g ∨ i = .frrel k g ∨ i = .kvpin k g ∨ i = .kvunpin k g) ∧
      s.Enters (cOnly k) c) →
    (s.withCur c).task? s.cur.slot = some t → t.stream = none →
    exec i s = .next (s.trapped c (trapOf .illegalField))) ∧
  (∀ (k : BitVec 8) (d : Option GReg) (g w : GReg) (s : State) (c : CoreTask) (t : Task) (n : Nat) (st : Stream),
    let u : WordUse := { perm := [.c], cons := k, dst := d.map .g }
    s.InStream u c t n st →
    let v := c.seqC.rd w
    let work := if v = 0 then fieldOf (st.rungWord st.rung) 32 32 else v.toNat
    let i : Instr := .dlset k d g w
    let done (st' : Stream) : State := (((s.withCur c).updStream n (fun _ => st')).checkpoint n 1).goesOn s.cur u
      (d.map (fun e => (e, (st'.rungWord st'.stepRung) ||| BitVec.ofNat 64 (st'.stepRung * 2 ^ 29))))
    (2 ^ 32 ≤ v.toNat → exec i s = .next (s.trapped c (trapOf .illegalField))) ∧
    (v.toNat < 2 ^ 32 → t.step = st.step →
      (st.isOpen = true → exec i s = .next (done { st with postmark := c.seqC.rd g, work := work })) ∧
      (st.isOpen = false → exec i s = .next (done { st with
        isOpen := true, postmark := c.seqC.rd g, work := work, done := 0, risk := false, ended := false,
        stepRung := st.rung }))) ∧
    (v.toNat < 2 ^ 32 → t.step ≠ st.step →
      (stepLe t.step st.closed = true → exec i s = .next (s.trapped c (trapOf .illegalField))) ∧
      (stepLe t.step st.closed = false → exec i s = .next (s.waitsIn (s.withCur c) (.spin (.step n)))))) ∧
  (∀ (k : BitVec 8) (d : GReg) (s : State) (c : CoreTask) (t : Task) (n : Nat) (st : Stream),
    (s.InStream { perm := [.c], cons := k, dst := gDst d } c t n st →
      let u : WordUse := { perm := [.c], cons := k, dst := gDst d }
      let mhz := (s.withCur c).stepRate n st.step
      let slack : Int := st.postmark.toNat - s.dtime - (((st.work - st.done / 1000) * 1000 + mhz - 1) / mhz : Nat)
      (st.openFor t = true → exec (.dlchk k d) s =
        .next (((s.withCur c).checkpoint n 2).goesOn s.cur u (some (d, BitVec.ofInt 64 slack)))) ∧
      (st.openFor t = false → exec (.dlchk k d) s =
        .next ((s.withCur c).goesOn s.cur u (some (d, BitVec.ofInt 64 (2 ^ 63 - 1)))))) ∧
    (s.InStream (cOnly k) c t n st →
      (st.openFor t = true → st.ended = true → exec (.stepend k) s = .next ((s.withCur c).goesOn s.cur (cOnly k) none)) ∧
      (st.openFor t = true → st.ended = false → exec (.stepend k) s =
        .next ((((s.withCur c).updStream n (fun st => { st with ended := true })).checkpoint n 3).goesOn s.cur (cOnly k)
          none)) ∧
      (st.openFor t = false → exec (.stepend k) s = .next (s.trapped c (trapOf .illegalField)))))

/-- R195, R250, R251: FRPUT claims the slot at the claim count when it is free and FRGET takes the slot at the take
count when it is published, each in its turn, with an acquire and the slot's handle as the result; FRPUB publishes a
claimed slot and FRREL frees a taken one, each a release that raises the slot's stamp. R253: KVAPP takes the lowest
page slot that is not valid, else the oldest unpinned one, else raises KV-FULL, and writes the address of its page;
KVPIN and KVUNPIN mark the valid slot at their address. -/
def Obligations.FrameRingsAndKeyValueWindows : Prop :=
  ((∀ (k : BitVec 8) (d : GReg) (s : State) (c : CoreTask) (t : Task) (n : Nat) (st : Stream) (v : RingSlot),
      let u : WordUse := { perm := [.c], cons := k, dst := gDst d }
      s.InStream u c t n st →
      let handle (i : Nat) : Word := BitVec.ofNat 64 (2 ^ 63 + n * 2 ^ 51 + i * 2 ^ 47)
      let i := st.cl % st.slots.length
      let j := st.gt % st.slots.length
      let got := match v.stamp with
        | some y => c.updSeq .c (fun q => { q with stamp := acqStamp q.stamp y })
        | none => c
      let s1 := (s.withCur c).putCt s.cur.slot s.cur.rank got
      (st.slots[i]? = some v →
        (v.st = .free → (s.withCur c).spinTurn c (.put n) = true → exec (.frput k d) s = .next ((s1.updStream n (fun st =>
          { st with slots := st.slots.set i { v with st := .claimed }, cl := st.cl + 1 })).goesOn s.cur u
            (some (d, handle i)))) ∧
        (v.st ≠ .free ∨ (s.withCur c).spinTurn c (.put n) = false →
          exec (.frput k d) s = .next (s.waitsIn (s.withCur c) (.spin (.put n))))) ∧
      (st.slots[j]? = some v →
        (v.st = .published → (s.withCur c).spinTurn c (.get n) = true →
          exec (.frget k d) s = .next ((s1.updStream n (fun st =>
            { st with slots := st.slots.set j { v with st := .taken }, gt := st.gt + 1 })).goesOn s.cur u
              (some (d, handle j)))) ∧
        (v.st ≠ .published ∨ (s.withCur c).spinTurn c (.get n) = false →
          exec (.frget k d) s = .next (s.waitsIn (s.withCur c) (.spin (.get n)))))) ∧
    (∀ (k : BitVec 8) (a : GReg) (s s1 : State) (c c1 : CoreTask) (t : Task) (n : Nat) (st : Stream) (i : Instr)
        (old new : SlotState), s.InStream (cOnly k) c t n st →
      (i = .frpub k a ∧ old = .claimed ∧ new = .published) ∨ (i = .frrel k a ∧ old = .taken ∧ new = .free) →
      (slotOfHandle n st (c.seqC.rd a) = none → exec i s = .next (s.trapped c (trapOf .illegalField))) ∧
      ∀ j v, slotOfHandle n st (c.seqC.rd a) = some j → st.slots[j]? = some v →
        (v.st ≠ old → exec i s = .next (s.trapped c (trapOf .illegalField))) ∧
        (v.st = old → s.Releases (cOnly k) .chip c s1 c1 →
          exec i s = .next ((s1.updStream n (fun st => { st with slots := st.slots.modify j (fun v => {
            st := new, stamp := some (match v.stamp with
              | some y => stMax y (c1.seqC.stamp + 1)
              | none => c1.seqC.stamp + 1) }) })).completes s.cur (cOnly k) (c1.updSeq .c Seq.release)))) ∧
    (∀ (n : Nat) (st : Stream) (h : Word) (j : Nat), n < 64 → st.slots.length ≤ 16 →
      (slotOfHandle n st h = some j ↔ j < st.slots.length ∧ h.toNat = 2 ^ 63 + n * 2 ^ 51 + j * 2 ^ 47))) ∧
  ((∀ (k : BitVec 8) (d : GReg) (s : State) (c : CoreTask) (t : Task) (n : Nat) (st : Stream),
      let u : WordUse := { perm := [.c], cons := k, dst := gDst d }
      s.InStream u c t n st →
      let page (j : Nat) : Word := vaField st.sd 3 + BitVec.ofNat 64 (j * 2 ^ wordField st.sd 4 8 5)
      let took (j : Nat) : State := (s.withCur c).updStream n (fun st => { st with
        kv := st.kv.set j { valid := true, pinned := false, seq := st.kvSeq }, kvSeq := st.kvSeq + 1 })
      ((∀ v ∈ st.kv, v.valid = true ∧ v.pinned = true) → exec (.kvapp k d) s = .next (s.trapped c (trapOf .kvFull))) ∧
      (∀ j v, st.kv[j]? = some v → v.valid = false → (∀ i < j, ∀ w, st.kv[i]? = some w → w.valid = true) →
        exec (.kvapp k d) s = .next ((took j).goesOn s.cur u (some (d, page j)))) ∧
      (∀ j v, st.kv[j]? = some v → v.pinned = false → (∀ w ∈ st.kv, w.valid = true) →
        (∀ i w, st.kv[i]? = some w → w.pinned = false → i ≠ j → v.seq < w.seq) →
        exec (.kvapp k d) s = .next ((took j).goesOn s.cur u (some (d, page j))))) ∧
    (∀ (k : BitVec 8) (a : GReg) (s : State) (c : CoreTask) (t : Task) (n : Nat) (st : Stream) (i : Instr) (pin : Bool),
      s.InStream (cOnly k) c t n st → (i = .kvpin k a ∧ pin = true) ∨ (i = .kvunpin k a ∧ pin = false) →
      ((∀ j v, st.kv[j]? = some v → v.valid = true → st.kvVa j ≠ c.seqC.rd a) →
        exec i s = .next (s.trapped c (trapOf .illegalField))) ∧
      ∀ j v, st.kv[j]? = some v → v.valid = true → st.kvVa j = c.seqC.rd a →
        (∀ l < j, ∀ w, st.kv[l]? = some w → w.valid = true → st.kvVa l ≠ c.seqC.rd a) →
        exec i s = .next (((s.withCur c).updStream n (fun st =>
          { st with kv := st.kv.modify j (fun v => { v with pinned := pin }) })).goesOn s.cur (cOnly k) none)))

/-- R255, R256: EQPUSH puts the samples of a 64 × 64 block into the letterbox of its stream's engine, which holds 8,
as a release; an engine of another context, a block outside its plane and a block of another shape or format fault.
R255, R257, R258: the engine takes the block at the head of its letterbox, at its pace and while no record of its own
waits for room, into its context's frame: an FSTART block opens a frame with the values in force and sends one that
stands open on to be coded; another is placed in the open frame, where the later of two at one place counts, and DROP
counts one that has no frame, or comes while EN is 0. A frame with all its blocks goes to be coded. A letterbox block
of no context, or of one that has left with its VF (R313), is discarded. R257 drops only a block without FSTART that
has no frame: DROP counting a block that comes while EN is 0, and the discarding of a block of no context, are the
model's choice (log 39). R179, R180, R257, R258, R268: a frame is coded with the block of the frame before, or
mid-grey, where one is missing, which MISS counts, into a record of its length, its number, the DTIME of its start and
its bits, padded to 16 bytes. The record waits until the output buffer has room, is written there, wraps at its end,
and raises EOWR, which is then written behind the buffer as a release; a write that misses waits for its page. A write
that faults stops the context, with the frames and the record it still had. -/
def Obligations.Encoders : Prop :=
  ((∀ (k : BitVec 8) (q : Fin 8) (src : VSrc) (strict : Bool) (plane : Fin 4) (bx yb : BitVec 6) (fstart : Bool)
        (s s1 : State) (c c1 : CoreTask) (tk : Task) (n key : Nat) (st : Stream) (x : EncCtx) (tl : Tile),
      let u : WordUse := { perm := [.x], cons := k }
      let i : Instr := .eqpush k q src strict plane bx yb fstart
      s.InStream u c tk n st →
      let size := planeSize x.ecfg plane.val
      (s.encOf n = none → exec i s = .next (s.trapped c (trapOf .perm))) ∧
      (s.encOf n = some (key, x) →
        (ecfgEn x.ecfg = false ∨ q.val ≠ key / 8 → exec i s = .next (s.trapped c (trapOf .perm))) ∧
        (ecfgEn x.ecfg = true → q.val = key / 8 →
          ceilDiv size.1 64 ≤ bx.toNat ∨ ceilDiv size.2 64 ≤ yb.toNat →
          exec i s = .next (s.trapped c (trapOf .illegalField))) ∧
        (ecfgEn x.ecfg = true → q.val = key / 8 → bx.toNat < ceilDiv size.1 64 → yb.toNat < ceilDiv size.2 64 →
          c.source src strict false [] = .tile tl →
          let good := c.secondSrc src = false ∧ tl.scales = none ∧ tl.rows = 64 ∧ tl.cols = 64 ∧
            tl.fmt = (if ecfgDeep x.ecfg then .f16 else .i8)
          (¬good → exec i s = .next (s.trapped c (trapOf .shape))) ∧
          (good → (Tab.get [] s.letters q.val).length < 8 → s.Releases u .chip c s1 c1 →
            let b : LetterBlock := {
              ectx := key % 8, plane := plane.val, bx := bx.toNat, yb := yb.toNat, fstart := fstart,
              samples := tl.elems.flatten.map (sampleOf tl.fmt), stamp := c1.seqX.stamp + 1 }
            exec i s = .next ({ s1 with letters := Tab.upd [] s1.letters q.val (· ++ [b]) }.completes s.cur u
              (src.lq?.foldl (fun c q => c.popBlock q) (c1.updSeq .x Seq.release)))) ∧
          (good → 8 ≤ (Tab.get [] s.letters q.val).length → exec i s = .next (s.waitsIn (s.withCur c) (.spin (.letter q.val)))))))) ∧
  ((∀ (e : Fin 6) (s : State) (b : LetterBlock) (rest : List LetterBlock),
      (Tab.get [] s.letters e.val = [] → exec (.letterboxTake e) s = .next s) ∧
      (Tab.get [] s.letters e.val = b :: rest →
        let key := 8 * e.val + b.ectx
        let s1 := { s with letters := Tab.set [] s.letters e.val rest }
        (find s.encs key = none → exec (.letterboxTake e) s = .next s1) ∧
        ∀ x, find s.encs key = some x →
          let early := ∃ w, x.lastTake = some w ∧ s.dtime < w + fieldOf x.erateF 16 16
          let stalled := ∃ y ∈ s.encs, y.1 / 8 = e.val ∧ y.2.coded ≠ none ∧ s.encGone y.2 = false
          (s.encGone x = true → exec (.letterboxTake e) s = .next s1) ∧
          (s.encGone x = false → early ∨ stalled → exec (.letterboxTake e) s = .next s) ∧
          (s.encGone x = false → ¬early → ¬stalled → (x.take b s.dtime = none → exec (.letterboxTake e) s = .next s) ∧
            ∀ y, x.take b s.dtime = some y → exec (.letterboxTake e) s = .next { s1 with encs := Tab.put key y s.encs }))) ∧
    (∀ (x : EncCtx) (b : LetterBlock) (now : Nat),
      let y := if b.fstart then
        { x with ecfgF := x.ecfg, erateF := x.erate, eobaseF := x.eobase, eolenF := x.eolen } else x
      let at_ := b.plane * 4096 + b.yb * 64 + b.bx
      let dropped : EncCtx := { y with drop := Min.min 65535 (y.drop + 1), lastTake := some now }
      let opened : Frame := { blocks := [(at_, b.samples)], start := now, cfg := y.ecfgF }
      (y.ecfgF.getLsbD 0 = false → x.take b now = some dropped) ∧
      (y.ecfgF.getLsbD 0 = true → b.fstart = false → x.cur = none → x.take b now = some dropped) ∧
      (y.ecfgF.getLsbD 0 = true → b.fstart = true →
        (x.cur ≠ none → x.toCode ≠ none → x.take b now = none) ∧
        (x.cur = none → opened.full = false → x.take b now = some { y with cur := some opened, lastTake := some now }) ∧
        (∀ f, x.cur = some f → x.toCode = none → opened.full = false →
          x.take b now = some { y with toCode := some f, cur := some opened, lastTake := some now }) ∧
        (x.cur = none → x.toCode = none → opened.full = true →
          x.take b now = some { y with toCode := some opened, cur := none, lastTake := some now })) ∧
      (∀ f, y.ecfgF.getLsbD 0 = true → b.fstart = false → x.cur = some f →
        let f' : Frame := { f with blocks := Tab.put at_ b.samples f.blocks }
        (f'.full = false → x.take b now = some { x with cur := some f', lastTake := some now }) ∧
        (f'.full = true → x.toCode = none →
          x.take b now = some { x with cur := none, toCode := some f', lastTake := some now }) ∧
        (f'.full = true → x.toCode ≠ none → x.take b now = none))) ∧
    (∀ f : Frame, f.full = true ↔ ∀ p < 3, ∀ bx yb,
      64 * bx < (if p = 0 then fieldOf f.cfg 44 12 else fieldOf f.cfg 44 12 / 2) →
      64 * yb < (if p = 0 then fieldOf f.cfg 32 12 else fieldOf f.cfg 32 12 / 2) →
      (find f.blocks (p * 4096 + yb * 64 + bx)).isSome = true)) ∧
  ((∀ (e : Fin 6) (s : State),
      (s.nextEnc e.val = none → exec (.frameCoded e) s = .next s) ∧
      ∀ key x, s.nextEnc e.val = some (key, x) →
        ((s.plainWaits (.enc key) x.vctx).isSome = true → exec (.frameCoded e) s = .next s) ∧
        (s.plainWaits (.enc key) x.vctx = none →
          (x.owed = true → exec (.frameCoded e) s = .next (s.writeEowr key)) ∧
          (∀ bs, x.owed = false → x.coded = some bs → exec (.frameCoded e) s = .next (s.writeRecord key x bs)) ∧
          ∀ f, x.owed = false → x.coded = none → x.toCode = some f →
            let y := x.code f (Config.bitstream s.tick)
            exec (.frameCoded e) s = .next ({ s with
              pw := { s.pw with used := Tab.upd 0 s.pw.used (128 + x.vctx) (· + f.blocks.length) },
              encs := Tab.put key y s.encs, encTurn := Tab.set 0 s.encTurn e.val ((key + 1) % 8)
              }.writeRecord key y (y.coded.getD [])))) ∧
    (∀ (x : EncCtx) (f : Frame) (bits : List Byte), let y := x.code f bits
      let missing := (frameKeys f.cfg).filter (fun k => (find f.blocks k).isNone)
      let pad := (16 - (16 + bits.length) % 16) % 16
      y.coded = some (leBytes 4 bits.length ++ leBytes 4 (x.count % 2 ^ 32) ++ leBytes 8 f.start ++ bits ++
        List.replicate pad 0) ∧
      y.miss = Min.min 65535 (x.miss + missing.length) ∧ y.count = x.count + 1 ∧ y.toCode = none ∧
      (∀ k ∈ frameKeys f.cfg, find y.last k = some (match find f.blocks k, find x.last k with
        | some b, _ => b
        | none, some b => b
        | none, none => List.replicate 4096 (if ecfgDeep f.cfg then 512 else 128))) ∧
      y = { x with toCode := none, coded := y.coded, last := y.last, miss := y.miss, count := y.count }) ∧
    (∀ (s : State) (key : Nat) (x : EncCtx) (bs : List Byte), find s.encs key = some x →
      let len := x.eolenF.toNat
      let off := x.eowr % len
      (len < x.eowr - x.eord + bs.length → s.writeRecord key x bs = s) ∧
      (x.eowr - x.eord + bs.length ≤ len → 0 < bs.length →
        x.parts bs = [(x.eobaseF + BitVec.ofNat 64 off, bs.take (len - off))] ++
          (if bs.length ≤ len - off then [] else [(x.eobaseF, bs.drop (len - off))]) ∧
        ∀ s1, s.writeOut x.vctx (x.parts bs) = .ok s1 → s.writeRecord key x bs =
          ((s1.plainDone (.enc key)).updEnc key (fun y => { y with
            coded := none, owed := true, eowr := x.eowr + bs.length, frames := Min.min (2 ^ 32 - 1) (y.frames + 1) })).writeEowr
              key) ∧
      (∀ s1, s.writeVa x.vctx (x.eobaseF + x.eolenF) (leBytes 8 x.eowr) true = .ok s1 → s.writeEowr key =
        ((s1.plainDone (.enc key)).updEnc key (fun y => { y with owed := false })).dropEnc key) ∧
      (∀ t, s.writeVa x.vctx (x.eobaseF + x.eolenF) (leBytes 8 x.eowr) true = .trap t →
        s.writeEowr key = (s.encFault key x t).dropEnc key) ∧
      (∀ va pg h, s.writeVa x.vctx (x.eobaseF + x.eolenF) (leBytes 8 x.eowr) true = .miss va pg h →
        s.writeEowr key = match s.plainMiss (.enc key) x.vctx va with
          | some t => (s.encFault key x t).dropEnc key
          | none => s.plainWait (.enc key) x.vctx pg h Need.write) ∧
      ∀ t, (find (s.encFault key x t).encs key).map (fun y => (y.ecfg.getLsbD 0, y.ecfgF.getLsbD 0, y.toCode, y.coded, y.owed)) =
        some (false, false, none, none, false)))

/-- R265, R266: PWRACQ raises its core's level when no earlier request of its island waits and the island's four cores
stay within 24 units, and lowers it once no queued or running engine command has a higher class; PWRREL asks for level
1; a register above 7 raises ILLEGAL-FIELD. R6, R83, R118, R119, R338, R374: a CSR number that is not laid down faults
at decode. CSRR writes the value of a register, and CSRW, CSRS and CSRC write it whole, with bits set or with bits
cleared. A jump-table register keeps what is written, a register that is read only ignores it, and a write that needs
privilege raises PERM without it. TIME writes DTIME. -/
def Obligations.PowerLevelsAndControlRegisters : Prop :=
  (∀ (k : BitVec 8) (a : GReg) (l : Fin 8) (i : Instr) (n : Nat) (s : State) (c : CoreTask), s.Enters (cOnly k) c →
      (7 < (c.seqC.rd a).toNat → exec (.pwracqReg k a) s = .next (s.trapped c (trapOf .illegalField))) ∧
      ((i = .pwracqImm k l ∧ n = l.val) ∨ (i = .pwracqReg k a ∧ n = (c.seqC.rd a).toNat ∧ n ≤ 7) ∨
        (i = .pwrrel k ∧ n = 1) →
        let s1 := s.withCur c
        let set := s1.completes s.cur (cOnly k) { c with pwrlvl := n }
        let room := s1.pwrFirst c.core (c.pwrSince s.dtime) = true ∧
          ((List.range 4).map (fun j => let o := c.core / 4 * 4 + j
            Max.max ((if o = c.core then n else s1.levelOn o) + 1) 2)).sum ≤ 24
        (n = c.pwrlvl → exec i s = .next (s1.goesOn s.cur (cOnly k) none)) ∧
        (c.pwrlvl < n → room → exec i s = .next set) ∧
        (c.pwrlvl < n → ¬room → ∃ t c', exec i s = .next t ∧ t.ct? s.cur.slot s.cur.rank = some c' ∧
          c'.pwrlvl = c.pwrlvl ∧ c'.seqC.pc = c.seqC.pc ∧ c'.waitOf .c = some (.pwr n)) ∧
        (n < c.pwrlvl → c.engineAbove n = false → exec i s = .next set) ∧
        (n < c.pwrlvl → c.engineAbove n = true → ∃ t, exec i s = .next t ∧ t.Stays s.cur c))) ∧
  ((∀ (k : BitVec 8) (d a : GReg) (n : BitVec 12) (s : State), (s.canIssue s.cur).isSome = true → csrKnown n.toNat = false →
      FieldFault (.csrr k d n) s ∧
      (s.cur.q = .c → FieldFault (.csrw k n a) s ∧ FieldFault (.csrs k n a) s ∧ FieldFault (.csrc k n a) s)) ∧
    (∀ n : Nat, csrKnown n = true ↔ n ≤ 7 ∨ (0x10 ≤ n ∧ n ≤ 0x13) ∨ (0x20 ≤ n ∧ n ≤ 0x28) ∨ n = 0x30 ∨
      (0x40 ≤ n ∧ n ≤ 0x43) ∨ n = 0x50 ∨ n = 0x60 ∨ n = 0x61 ∨ n = 0x70 ∨ n = 0x71 ∨ (0x80 ≤ n ∧ n ≤ 0x8B) ∨
      (0x90 ≤ n ∧ n ≤ 0x9B) ∨ (0x100 ≤ n ∧ n ≤ 0x106) ∨ (0x200 ≤ n ∧ n ≤ 0x204)) ∧
    (∀ (k : BitVec 8) (d a : GReg) (n : BitVec 12) (s : State) (c : CoreTask) (t : Task), csrKnown n.toNat = true →
      (s.Enters (useD k d) c → s.task? s.cur.slot = some t → ∃ v, s.csr n.toNat t s.cur.rank c = some v ∧
        exec (.csrr k d n) s = .next (s.passed (useD k d) c (some (d, v)))) ∧
      (s.Enters (cOnly k) c → (s.withCur c).task? s.cur.slot = some t → ∀ (i : Instr) (f : Word → Word → Word),
        (i = .csrw k n a ∧ f = fun _ v => v) ∨ (i = .csrs k n a ∧ f = fun old v => old ||| v) ∨
        (i = .csrc k n a ∧ f = fun old v => old &&& ~~~v) →
        let s1 := s.withCur c
        ∃ old, s1.csr n.toNat t s.cur.rank c = some old ∧
          let v := f old (c.seqC.rd a)
          (0x040 ≤ n.toNat → n.toNat ≤ 0x043 → exec i s = .next (s1.completes s.cur (cOnly k)
            { c with jt := Tab.set 0 c.jt (n.toNat - 0x040) v })) ∧
          (n.toNat < 0x040 ∨ n.toNat = 0x050 ∨ (0x060 ≤ n.toNat ∧ n.toNat ≤ 0x071) ∨ n.toNat = 0x201 ∨
            n.toNat = 0x203 ∨ n.toNat = 0x204 → exec i s = .next (s1.completes s.cur (cOnly k) c)) ∧
          (csrPrivileged n.toNat = true → t.privileged = false → exec i s = .next (s.trapped c (trapOf .perm))) ∧
          (∀ tr, s1.csrWrite n.toNat v t c = .trap tr → exec i s = .next (s.trapped c tr)) ∧
          (∀ s2 c2, s1.csrWrite n.toNat v t c = .ok s2 c2 → exec i s = .next (s2.completes s.cur (cOnly k) c2)))) ∧
    (∀ (k : BitVec 8) (d : GReg) (s : State) (c : CoreTask), s.Enters (useD k d) c →
      exec (.time k d) s = .next (s.passed (useD k d) c (some (d, BitVec.ofNat 64 s.dtime)))) ∧
    (∀ (s : State) (t : Task) (rank : Nat) (c : CoreTask),
      s.csr 0 t rank c = some (BitVec.ofNat 64 s.dtime) ∧ s.csr 1 t rank c = some (BitVec.ofNat 64 rank) ∧
      s.csr 2 t rank c = some (BitVec.ofNat 64 t.gang) ∧ s.csr 3 t rank c = some (BitVec.ofNat 64 t.id.toNat) ∧
      s.csr 6 t rank c = some (BitVec.ofNat 64 t.tenant) ∧ s.csr 0x13 t rank c = some (BitVec.ofNat 64 c.pwrlvl) ∧
      s.csr 0x60 t rank c = some s.r.featw0 ∧ s.csr 0x61 t rank c = some 0 ∧
      (∀ n < 4, s.csr (0x40 + n) t rank c = some (Tab.get 0 c.jt n)) ∧
      (∀ n < 12, s.csr (0x80 + n) t rank c = some (BitVec.ofNat 64 (Tab.get 16 s.r.qmin (c.core * 16 + n))) ∧
        s.csr (0x90 + n) t rank c = some (BitVec.ofNat 64 (Tab.get 128 s.r.qcap (c.core * 16 + n))))))

/-- R348, R349: a link word with a bad field, rank, alignment or range faults; while its tick is more than 64 ahead it
waits; otherwise it reads its bytes as a release and hands them to the peer port, which takes them for a tick that has
not begun and has room for 32 KiB, and else raises LINK-MISS and sends nothing; so does a clock error above 64 ns,
which is reported at a hand-over by the model's choice (log 26). R19, R219, R312, R349, R350: the transfers of the
earliest tick leave in their order when it has begun, one to the device's own rank turns round inside; a delivery
reaches the one core-task that its routes give, writes its bytes there or adds them element by element, takes their
number from its barrier and signals its semaphore, and one that matches no task is dropped with LINK-MISS at its
sender; a peer's word of such a fault stops the C-sequencer that sent. KIND and WADDR of the record of such a fault,
and the packet that carries a peer's word of it, are the model's choice (log 31), as is what a port that is down does
(log 33). R19, R179, R224, R229, R230, R237: a remote submission is answered with its refusal or its acceptance, or
waits for a page that its check misses, or at its tenant's quota, which THROT counts once; its answer reaches the word
that waits for it, and a refusal and a retirement end its part of the job. On the device that runs the task its job
counts that task alone, and its end is the packet of its retirement. R237 does not say in which context and with which
privilege and fault queue it runs there: free values and no privilege are the model's choice (log 25). -/
def Obligations.PeerLinks : Prop :=
  ((∀ (k : BitVec 8) (f : AccFmt) (gs gw gt : GReg) (i : Instr) (kind : Option AccFmt) (s s1 : State) (c c1 c2 : CoreTask)
        (t : Task) (g : Pgt),
      s.Enters (cOnly k) c → (s.withCur c).task? s.cur.slot = some t →
      (i = .lksend k gs gw gt ∧ kind = none) ∨ (i = .lkred k f gs gw gt ∧ kind = some f) →
      let w := c.seqC.rd gw
      let src := (c.seqC.rd gs).toNat
      let len := fieldOf w 21 17
      let da := fieldOf w 0 21
      let legal := fieldOf w 61 3 = 0 ∧ 4 ≤ len ∧ len ≤ 32768 ∧ 4 ∣ len ∧ vaField t.td 4 ≠ 0
      (¬legal → exec i s = .next (s.trapped c (trapOf .illegalField))) ∧
      (legal → (s.withCur c).readPgt t.ctx (vaField t.td 4) = .ok g →
        (g.size < fieldOf w 57 4 → exec i s = .next (s.trapped c (trapOf .illegalField))) ∧
        (fieldOf w 57 4 ≤ g.size →
          (¬(4 ∣ src ∧ 4 ∣ da) → exec i s = .next (s.trapped c (trapOf .align))) ∧
          (4 ∣ src → 4 ∣ da →
            (0x180000 < src + len ∨ 0x180000 < da + len → exec i s = .next (s.trapped c (trapOf .lsaRange))) ∧
            (src + len ≤ 0x180000 → da + len ≤ 0x180000 → s.r.featw0.getLsbD 4 = false →
              exec i s = .next (s.trapped c (trapOf .linkMiss))) ∧
            (src + len ≤ 0x180000 → da + len ≤ 0x180000 → s.r.featw0.getLsbD 4 = true →
              let read := ((s.withCur c).notePgt t.ctx (vaField t.td 4)).clearWord s.cur.slot s.cur.rank 0 c.seqC.pc
              (s.dtime / 256 + 64 < (c.seqC.rd gt).toNat → exec i s = .next (s.waitsIn (s.withCur c) .plain)) ∧
              ((c.seqC.rd gt).toNat ≤ s.dtime / 256 + 64 → read.testRelease s.cur .sys = .ready s1 →
                s1.ct? s.cur.slot s.cur.rank = some c1 → (c1.updSeq .c Seq.release).localRead s1.raceOn (agentId s.cur.slot s.cur.rank 0) (c1.seqC.stamp + 1)
                  (granules src len) = .inr c2 →
                let x : Transfer := {
                  tick := (c.seqC.rd gt).toNat, id := t.id, rank := s.cur.rank, waddr := c1.seqC.pc, word := w,
                  link := g.links.getD (fieldOf w 57 4) 0, kind := kind, pgrank := t.pgrank,
                  bytes := c2.seen s1.tick c2.core c2.seqC.stamp src len }
                exec i s = .next (((s1.putCt s.cur.slot s.cur.rank c2).handOver s.cur.slot s.cur.rank x).goesOn s.cur
                  (cOnly k) none))))))) ∧
    (∀ (s : State) (slot rank : Nat) (x : Transfer),
      let sum := Tab.get 0 s.ports.admitted x.tick + x.bytes.length
      let missed := s.raiseLink slot rank 0 (trapOf .linkMiss) x.waddr
      (s.dtime < x.tick * 256 → sum ≤ 32768 → s.handOver slot rank x = if Config.clockError s.tick then missed else
        { s with ports := { s.ports with
            admitted := Tab.set 0 s.ports.admitted x.tick sum, out := s.ports.out ++ [x] } }) ∧
      (x.tick * 256 ≤ s.dtime ∨ 32768 < sum → s.handOver slot rank x = missed))) ∧
  ((∀ (s : State) (x : Transfer) (xs : List Transfer), s.ports.out = x :: xs → (∀ y ∈ xs, y.tick = x.tick) →
      (s.dtime < 256 * x.tick → exec .linkTickDeparture s = .next s) ∧
      (256 * x.tick ≤ s.dtime → ∃ t, exec .linkTickDeparture s = .next t ∧ t.ports.out = [] ∧
        (s.ports.peer = true → (∀ y ∈ x :: xs, fieldOf y.word 57 4 ≠ y.pgrank) →
          t.ports.sent = s.ports.sent ++ (x :: xs).map (fun y => .data y.link (y.packet s.ports.base)) ∧
          t.tasks = s.tasks) ∧
        ((∀ y ∈ x :: xs, fieldOf y.word 57 4 = y.pgrank) → t.ports.sent = s.ports.sent ∧
          t.ports.inside = s.ports.inside ++ (x :: xs).map (fun y =>
            { src := some (y.id, y.rank, y.waddr), p := y.packet s.ports.base })))) ∧
    (∀ (s : State) (p : LinkPacket), s.ports.peer = true →
      (s.matching p = none → exec (.linkDelivery (.packet p)) s = .next { s with
        ports := { s.ports with sent := s.ports.sent ++ [.fault p .linkMiss] } }) ∧
      (∀ slot t r c, s.matching p = some (slot, t, r) → s.migrating t = none → s.ports.marker = [] → r < t.gang →
        t.ct? r = some c → s.ct? slot r = some c → s.raceOn = false → 4 ∣ p.bytes.length → Tab.wf 0 c.scratch = true →
        let a := fieldOf p.word 0 21
        let n := p.bytes.length
        let new (i j : Nat) := leNat ((p.bytes.drop i).take j)
        let old (i j : Nat) := leNat (c.readLocal (a + i) j)
        let bar := fieldOf p.word 38 6
        let after := (Tab.get Bar.zero c.bars bar).change (-(n : Int)) (some (s.m.h + 2))
        let sem := fieldOf p.word 45 8
        ∃ u c3 c', exec (.linkDelivery (.packet p)) s = .next u ∧ u.ct? slot r = some c' ∧ c3.sems = c.sems ∧
          (∀ b, b < a ∨ a + n ≤ b → Tab.get 0 c3.scratch b = Tab.get 0 c.scratch b) ∧
          (p.kind = none → ∀ i < n, Tab.get 0 c3.scratch (a + i) = p.bytes.getD i 0) ∧
          (p.kind = some .bf16 → ∀ i, 2 * i + 2 ≤ n → leNat (c3.readLocal (a + 2 * i) 2) =
            roundTo .bf16 .rne false ((valOf .bf16 (old (2 * i) 2)).add .rne (valOf .bf16 (new (2 * i) 2))) % 2 ^ 16) ∧
          (∀ f, p.kind = some f → f ≠ .bf16 → ∀ i, 4 * i + 4 ≤ n → leNat (c3.readLocal (a + 4 * i) 4) =
            (accAdd f (BitVec.ofNat 32 (old (4 * i) 4)) (BitVec.ofNat 32 (new (4 * i) 4))).toNat) ∧
          (p.word.getLsbD 44 = false → c3.bars = c.bars) ∧
          (∀ b, p.word.getLsbD 44 = true → after = some b → c3.bars = Tab.set Bar.zero c.bars bar b) ∧
          (p.word.getLsbD 44 = true → after = none → c3.bars = c.bars ∧
            u.ports.sent = s.ports.sent ++ [.fault p .barOverflow]) ∧
          (sem = 0 → c' = c3) ∧
          (∀ c4, sem ≠ 0 → CoreTask.signal { c3 with lkStamp := c3.lkStamp + 1 } sem 1 (c3.lkStamp + 1)
            (Config.sameCycle s.tick) = some c4 → c' = c4)) ∧
      (∀ d ds, s.ports.inside = d :: ds → exec (.linkDelivery .inside) s =
        .next ({ s with ports := { s.ports with inside := ds } }.receive false d)) ∧
      (∀ id rank w f slot t, s.byId id = some (slot, t) →
        exec (.linkDelivery (.fault id rank w f)) s = .next (s.raiseLink slot rank 0 (trapOf (linkCode f)) w)))) ∧
  ((∀ (s : State) (base rank req : Nat) (desc : List Byte), s.ports.peer = true → s.ports.host = true →
      let ctx := Config.remoteCtx base rank % 128
      let td := descWords desc
      let who : Plain := .remote base req
      let sub : Submitter := { ctx := ctx, priv := false, host := true, stream := none, job := none, multi := none }
      let read := (s.plainDone who).noteSub td ctx
      let answered (s : State) (a : RemoteAnswer) : State := { s with ports := { s.ports with
        sent := s.ports.sent ++ [.answer (BitVec.ofNat 64 base) req a],
        counted := s.ports.counted.filter (fun x => decide (x ≠ (base, req))) } }
      ((s.plainWaits who ctx).isSome = true → exec (.remoteSubmitPacket base rank desc req) s = .next s) ∧
      (s.plainWaits who ctx = none →
        (∀ n x, s.checkSub td 0 sub = .refuse n x →
          exec (.remoteSubmitPacket base rank desc req) s = .next (answered read (.refused n))) ∧
        (∀ m code v, s.checkSub td 0 sub = .miss m → s.subMiss who ctx m = .inl (code, v) →
          exec (.remoteSubmitPacket base rank desc req) s = .next (answered (s.plainDone who) (.refused code))) ∧
        (∀ m s1, s.checkSub td 0 sub = .miss m → s.subMiss who ctx m = .inr s1 →
          exec (.remoteSubmitPacket base rank desc req) s = .next s1) ∧
        (∀ img futs, s.checkSub td 0 sub = .ok img futs →
          s.quotaOk (s.ctxTenant ctx) td (s.unresolved futs).length = false →
          exec (.remoteSubmitPacket base rank desc req) s = .next (if (base, req) ∈ s.ports.counted then s else { s with
            ports := { s.ports with counted := s.ports.counted ++ [(base, req)] } }.addThrot (s.ctxTenant ctx))) ∧
        (∀ img futs, s.checkSub td 0 sub = .ok img futs →
          s.quotaOk (s.ctxTenant ctx) td (s.unresolved futs).length = true →
          let job : Job := {
            count := 1, queue := none, remote := some (BitVec.ofNat 64 base, req), tag := 0, ctx := ctx,
            fq := Config.remoteFaultQueue base rank, htask := false, written := 0, waiting := [] }
          let r := read.accept td sub img futs (some job)
          exec (.remoteSubmitPacket base rank desc req) s = .next (answered r.1 (.accepted r.2))))) ∧
    (∀ (s : State) (req job agent : Nat), s.ports.peer = true →
      (find s.ports.reqs req = none → ∀ a, exec (.remoteAnswerPacket req a) s = .next s) ∧
      (find s.ports.reqs req = some (job, agent) →
        let gone := { s with ports := { s.ports with reqs := Tab.del req s.ports.reqs } }
        (∀ n, exec (.remoteAnswerPacket req (.refused n)) s =
          .next ((gone.jobLess job false).answerTo agent req (-(BitVec.ofNat 64 n)))) ∧
        (∀ id, exec (.remoteAnswerPacket req (.accepted id)) s = .next (s.answerTo agent req (id.setWidth 64))) ∧
        exec (.remoteAnswerPacket req .retired) s = .next (gone.jobLess job false))) ∧
    (∀ (s : State) (j req : Nat) (link : Word) (x : Job), find s.jobs j = some x → x.remote = some (link, req) →
      x.queue = none → x.count = 1 → s.ports.peer = true →
      (s.jobLess j true).ports = { s.ports with sent := s.ports.sent ++ [.answer link req .retired] } ∧
      (s.jobLess j false).ports = s.ports ∧ find (s.jobMore j).jobs j = some x))

/-- R314: the Xumak words. RFETCH gives the address of the next entry of a queue and moves its head, BFXT a bit field,
SIGW waits for its line and takes its value, DSPT submits a task with code 0 and its identifier or with a refusal, and
waits at a quota or for a page with the descriptor that it has read; each has its trap cause for an operand out of
range, and x0 stays 0. That DSPT submits as a privileged submitter with a free fault queue is the model's choice (log
25), and so is that RFETCH of a queue that is disabled gives 0 (log 40). The words of the base set RV64IMAC, which
R314 names and RISC-V gives (log 5): a word changes only the cores and the memory of the service complex, and of
memory only the bytes that it stores to; a store reads back; a word of no instruction takes exception 2; a quotient
and a remainder make up the dividend; LR reserves and SC stores and answers 0 while the reservation is held, and 1
otherwise; and MRET after an exception restores the place, the mode and MIE. -/
def Obligations.ServiceWords : Prop :=
  ((∀ (d a b : Fin 32) (s : State), let c := s.svcCore
      let done (s : State) (v : Word) : State :=
        s.updSvc (fun c => { c.wr d v with pc := c.pc + 4, held := false, desc := [] })
      let n := (c.rd a).toNat
      (143 < n → exec (.rfetch d a b) s = .next (s.svcTrap 24 (c.rd a))) ∧
      (n ≤ 143 → let h := s.queue n
        (h.head = h.tail ∨ h.halted = true ∨ h.en = false → exec (.rfetch d a b) s = .next (done s 0)) ∧
        (h.head ≠ h.tail → h.halted = false → h.en = true → exec (.rfetch d a b) s = .next (done
          (s.updQueue n (fun h => { h with head := (h.head + 1) % 2 ^ h.log2 }))
          (h.sqbase + BitVec.ofNat 64 (64 * h.head))))) ∧
      (let lsb := (c.rd b).toNat % 64
       let w := (c.rd b).toNat / 64 % 64 + 1
       (64 < lsb + w → exec (.bfxt d a b) s = .next (s.svcTrap 25 (c.rd b))) ∧
       (lsb + w ≤ 64 → exec (.bfxt d a b) s = .next (done s (BitVec.ofNat 64 (n / 2 ^ lsb % 2 ^ w))))) ∧
      (255 < n → exec (.sigw d a b) s = .next (s.svcTrap 26 (c.rd a))) ∧
      (n ≤ 255 → (Tab.get none s.service.lines n = none → exec (.sigw d a b) s = .next s) ∧
        ∀ v, Tab.get none s.service.lines n = some v → exec (.sigw d a b) s = .next (done
          { s with service := { s.service with lines := Tab.set none s.service.lines n none } } v)) ∧
      (¬64 ∣ n → exec (.dspt d a b) s = .next (s.svcTrap 27 (c.rd a))) ∧
      (64 ∣ n → 127 < (c.rd b).toNat → exec (.dspt d a b) s = .next (s.svcTrap 27 (c.rd b))) ∧
      (64 ∣ n → (c.rd b).toNat ≤ 127 →
        let ctx := (c.rd b).toNat
        let td := if c.desc = [] then descWords (s.readFinal { host := false, a := n } 128) else c.desc
        let who : Plain := .service s.svc.val
        let sub : Submitter := { ctx := ctx, priv := true, host := true, stream := none, job := none, multi := none }
        let read := (s.plainDone who).noteSub td ctx
        let keeps (s : State) (counted : Bool) : State := s.updSvc (fun c => { c with held := c.held || counted, desc := td })
        (dpaTop < n + 128 → exec (.dspt d a b) s = .next (done s 1)) ∧
        (n + 128 ≤ dpaTop → (s.plainWaits who ctx).isSome = true → exec (.dspt d a b) s = .next s) ∧
        (n + 128 ≤ dpaTop → s.plainWaits who ctx = none →
          (∀ code v, s.checkSub td 0 sub = .refuse code v →
            exec (.dspt d a b) s = .next (done read (BitVec.ofNat 64 code))) ∧
          (∀ m code v, s.checkSub td 0 sub = .miss m → s.subMiss who ctx m = .inl (code, v) →
            exec (.dspt d a b) s = .next (done (s.plainDone who) (BitVec.ofNat 64 code))) ∧
          (∀ m s1, s.checkSub td 0 sub = .miss m → s.subMiss who ctx m = .inr s1 →
            exec (.dspt d a b) s = .next (keeps s1 false)) ∧
          ∀ img futs, s.checkSub td 0 sub = .ok img futs →
            let room := s.quotaOk (s.ctxTenant ctx) td (s.unresolved futs).length
            (room = true → ∃ job : Job, job.count = 1 ∧ job.queue = none ∧ job.remote = none ∧ job.ctx = ctx ∧
              let r := read.accept td sub img futs (some job)
              exec (.dspt d a b) s = .next (done r.1 (BitVec.ofNat 64 (r.2.toNat * 2 ^ 32)))) ∧
            (room = false → exec (.dspt d a b) s =
              .next (if c.held then keeps s true else (keeps s true).addThrot (s.ctxTenant ctx)))))) ∧
    (∀ (s : State) (cause : Nat) (v : Word), let c := s.svcCore
      let c' := (s.svcTrap cause v).svcCore
      c'.mepc = c.pc ∧ c'.mcause = BitVec.ofNat 64 cause ∧ c'.mtval = v ∧ c'.pc = c.mtvec &&& ~~~(3 : Word) ∧
        c'.x = c.x ∧ c'.machine = true) ∧
    (∀ (c : RvCore) (d r : Fin 32) (v : Word), (c.wr d v).rd r = if r = d ∧ r ≠ 0 then v else c.rd r)) ∧
  ((∀ (s : State) (i : RvInstr) (len : Nat) (w : Word), let t := s.rvExec i len w
      let c := s.svcCore
      let stored : Option (Word × Nat) := match i with
        | .store size a _ off => some (c.rd a + off, size)
        | .storeConditional size _ a _ => some (c.rd a, size)
        | .amo _ size _ a _ => some (c.rd a, size)
        | _ => none
      t = { s with service := { s.service with mem := t.service.mem, cores := t.service.cores } } ∧
      ∀ a : Nat, (∀ b n, stored = some (b, n) → ∀ k < n, (b + BitVec.ofNat 64 k).toNat ≠ a) →
        Tab.get none t.service.mem a = Tab.get none s.service.mem a) ∧
    (∀ (s : State) (a : Word) (n v : Nat), n ≤ 8 → (s.svcWrite a n v).svcRead a n = v % 2 ^ (8 * n)) ∧
    (∀ (s : State) (w : BitVec 32), (w &&& 3 = 3 → decodeRv w.toNat = none → s.svcBase w = s.svcTrap 2 (w.setWidth 64)) ∧
      (w &&& 3 = 3 → ∀ i, decodeRv w.toNat = some i → s.svcBase w = s.rvExec i 4 (w.setWidth 64)) ∧
      (w &&& 3 ≠ 3 → w &&& 0xFFFF = w → ∀ i, decodeRvc w.toNat = some i → s.svcBase w = s.rvExec i 2 (w.setWidth 64))) ∧
    (∀ (a b : Word), rvAluWord .div false a b * b + rvAluWord .rem false a b = a ∧
      rvAluWord .divu false a b * b + rvAluWord .remu false a b = a ∧
      (b ≠ 0 → rvAluWord .remu false a b < b)) ∧
    (∀ (s : State) (d a b : Fin 32) (w : Word), let c := s.svcCore
      8 ∣ (c.rd a).toNat →
        ((s.rvExec (.loadReserved 8 d a) 4 w).svcCore.res = some (c.rd a >>> 3)) ∧
        (c.res = some (c.rd a >>> 3) → let t := s.rvExec (.storeConditional 8 d a b) 4 w
          t.svcRead (c.rd a) 8 = (c.rd b).toNat ∧ (d ≠ 0 → t.svcCore.rd d = 0) ∧ t.svcCore.res = none) ∧
        (c.res ≠ some (c.rd a >>> 3) → let t := s.rvExec (.storeConditional 8 d a b) 4 w
          t.service.mem = s.service.mem ∧ (d ≠ 0 → t.svcCore.rd d = 1) ∧ t.svcCore.res = none)) ∧
    (∀ (c : RvCore) (cause : Nat) (v : Word), let r := (c.trap cause v).mret
      r.pc = c.pc ∧ r.machine = c.machine ∧ r.mstatus.getLsbD 3 = c.mstatus.getLsbD 3 ∧ r.x = c.x))

/-- R19, R53, R72, R73, R112, R241, R282: what is placed next in a partition starts or is restored, on free cores and
with a free frame for each core that it starts on, and a preload that is no longer next is discarded; nothing is
placed while the partition is frozen or the host port is untrained; a waiting push is admitted when its queue has room
for it; a head that has waited 50 µs holds its level; the victims that pre-emption names stop; a preload loads the
blocks and tiles of the task that comes next. R19 says only that a device whose host port is untrained does not leave
boot: that nothing is placed at any time while it is down is the model's choice (log 33). R47, R54, R55, R104, R195: a
gang that starts has one core-task for each core, rank by rank, whose C-sequencer runs at the entry with the first
ranges' bases in g1 to g4, their lengths in g5 to g8 and the process-group table in g9, all other registers 0, and
whose other sequencers are idle; all start at the common stamp H + 1. -/
def Obligations.GangsArePlacedAndStarted : Prop :=
  ((∀ (p : Fin 8) (s : State),
      (s.partFrozen p.val = true → exec (.gangPlacement p) s = .next s ∧ exec (.preemption p) s = .next s) ∧
      (s.ports.host = false → exec (.gangPlacement p) s = .next s) ∧
      (s.partFrozen p.val = false →
        (s.nextPlaced p.val [] = none → exec (.gangPlacement p) s = .next s) ∧
        (∀ slot t t' cs, s.ports.host = true → s.nextPlaced p.val [] = some (slot, t, cs) →
          s.prunePreloads.task? slot = some t' →
          exec (.gangPlacement p) s = .next (s.prunePreloads.place slot t' cs) ∧
          (slot, t) ∈ s.readyList p.val ∧ s.placeable t = true ∧ s.coresFor t [] = some cs ∧
          (∀ n ∈ t.parts, s.heldBack n slot t = false) ∧
          (t.saved = true ∨ cs.length ≤ s.framesFree)) ∧
        (∀ slot u, s.task? slot = some u → s.prunePreloads.task? slot =
          some (if s.preloadNext slot u = true then u else { u with preload := none })) ∧
        (s.preempts p.val = none → exec (.preemption p) s = .next s) ∧
        (∀ vs, s.preempts p.val = some vs →
          exec (.preemption p) s = .next (vs.foldl (fun s e => s.stopGang e.1 [] true) s) ∧
          ∃ slot t, (slot, t) ∈ s.readyList p.val ∧ ∀ v ∈ vs, v.2.state = .running ∧ v.2.prio < t.prio))) ∧
    (∀ (slot rank : Nat) (q : SeqId) (s : State) (c : CoreTask) (w : Wait) (n k : Nat), s.ct? slot rank = some c →
      (c.seq q).wait = some w → w.kind = .push n k false →
      (c.admits (s.pool c.core) q w.ord n k = false → exec (.queuePushAdmit slot rank q) s = .next s) ∧
      (c.admits (s.pool c.core) q w.ord n k = true → exec (.queuePushAdmit slot rank q) s = .next (s.putCt slot rank
        (c.setSeq q { c.seq q with wait := some { w with kind := .push n k true } })))) ∧
    (∀ (p : Fin 8) (level : Fin 64) (s : State) (slot since : Nat) (t : Task), s.headOf p.val level.val = some slot →
      s.task? slot = some t → find t.headSince p.val = some since →
      (s.dtime < since + 50000 → exec (.headWaitExpiry p level) s = .next s) ∧
      (since + 50000 ≤ s.dtime → exec (.headWaitExpiry p level) s = .next { s with
        blocked := Tab.put (p.val * 64 + level.val) (slot + 1) s.blocked })) ∧
    (∀ (slot sl g : Nat) (s : State) (t u : Task) (cs ms : List Nat) (i : Image), s.task? slot = some t →
      t.state = .running → s.preloadOn slot = none → s.nextPlaced t.part t.cores = some (sl, u, cs) →
      sameCores cs t.cores = true → u.saved = false → u.preload = none → s.readImage u.ctx u.imageVa = .ok i g ms →
      exec (.preload slot) s = .next ((s.noteImage u.ctx u.imageVa).setTask sl { u with
        preload := some { gang := slot, cores := cs, image := i } }))) ∧
  ((∀ (t : Task) (i : Image) (core : Nat) (st : Stamp),
      let c := t.startCt i core st
      let va (k : Nat) : Word := (t.td.getD k 0) &&& BitVec.ofNat 64 (2 ^ 57 - 1)
      let given (k : Nat) : Bool := decide (k < wordField t.td 1 20 3)
      c.core = core ∧ c.seqC.pc = i.entry ∧ c.seqC.status = .running ∧ c.seqC.stamp = st ∧
      c.seqL = { Seq.idle with stamp := st } ∧ c.seqX = { Seq.idle with stamp := st } ∧
      c.seqS = { Seq.idle with stamp := st } ∧ c.pwrlvl = 1 ∧ c.floor = st ∧ c.tokens = [] ∧ c.sems = [] ∧ c.acc = [] ∧ c.queues = [] ∧
      ∀ r : GReg, c.seqC.rd r =
        if 1 ≤ r.val ∧ r.val ≤ 4 then (if given (r.val - 1) then va (8 + 2 * (r.val - 1)) else 0)
        else if 5 ≤ r.val ∧ r.val ≤ 8 then
          (if given (r.val - 5) then (t.td.getD (9 + 2 * (r.val - 5)) 0) &&& BitVec.ofNat 64 (2 ^ 40 - 1) else 0)
        else if r.val = 9 then va 4 else 0) ∧
    (∀ (s : State) (slot : Nat) (t : Task) (cs : List Nat), t.saved = false →
      (∀ d ∈ s.ports.held, d.1 ≠ t.id) →
      ∃ t', (s.place slot t cs).task? slot = some t' ∧ t'.state = .running ∧ t'.id = t.id ∧ t'.td = t.td ∧
        (s.place slot t cs).m.h = s.m.h + 1 ∧
        t'.cts = (List.range cs.length).map (fun r => (r, t.startCt t'.image (cs.getD r 0) (s.m.h + 1))) ∧
        ∀ m, m ≠ slot → ((s.place slot t cs).task? m).map (fun u => { u with headSince := [] }) =
          (s.task? m).map (fun u => { u with headSince := [] })))

/-- R51, R67, R69: a wait past its spin window of 2 µs parks its gang; a parked gang whose conditions are all met
returns to READY; a gang without budget stops with BUDGET-OVER; a gang with a fault stops. -/
def Obligations.GangsParkAndReturn : Prop :=
  (∀ (slot : Nat) (s : State) (t : Task), s.task? slot = some t →
    let conds := t.cts.flatMap (fun e => e.2.expired e.1 s.dtime)
    (t.state ≠ .running ∨ conds = [] → exec (.spinWindowExpiry slot) s = .next s) ∧
    (t.state = .running → conds ≠ [] → exec (.spinWindowExpiry slot) s = .next (s.stopGang slot conds false)) ∧
    (t.state ≠ .parked → exec (.parkConditionMet slot) s = .next s) ∧
    (t.state = .parked → exec (.parkConditionMet slot) s = .next ((s.dropCond slot (s.condMet t)).wakeGang slot) ∧
      ((∀ k ∈ t.conds, s.condMet t k = true) →
        (((s.dropCond slot (s.condMet t)).wakeGang slot).task? slot).map (·.state) = some .ready)) ∧
    (t.state ≠ .running ∨ t.budget ≠ 0 → exec (.budgetOver slot) s = .next s) ∧
    (t.state = .running → t.budget = 0 → exec (.budgetOver slot) s =
      .next ((s.noteGang slot .budgetOver).stopGang slot [] false)) ∧
    (t.state ≠ .running ∨ (∀ e ∈ t.cts, e.2.notes = []) → exec (.faultStop slot) s = .next s) ∧
    (t.state = .running → (∃ e ∈ t.cts, e.2.notes ≠ []) → exec (.faultStop slot) s = .next (s.stopGang slot [] false))) ∧
  (∀ (c : CoreTask) (rank now : Nat) (q : SeqId),
    ParkCond.spin rank q ∈ c.expired rank now ↔
      ∃ w k, (c.seq q).wait = some w ∧ w.kind = .spin k ∧ w.since + 2000 ≤ now)

/-- R279, R280, R284, R285, R377: taking a fault. When a core-task with nothing in flight faults, the stop parks its
gang for the handler's action, puts the fault into FAULTREC, makes every sequencer ready to go on at its word (behind
it for TRAP) and hands one primary record to the job; memory and every other task are as they were. -/
def Obligations.FaultsStopTheirGang : Prop :=
  ∀ (slot : Nat) (s : State) (t : Task) (c : CoreTask) (n : FaultNote) (j : Job), s.task? slot = some t →
    t.state = .running → t.cts = [(0, c)] → c.notes = [n] → find s.jobs t.job = some j → t.conds = [] →
    c.posted = [] → c.flight = [] → c.returns = [] → c.resid = [] → s.m.slices = [] →
    (∀ q, (c.seq q).tags = []) → (∀ e ∈ s.tasks, e.2.preload = none) →
    n.code ≠ .budgetOver →
    ∃ u c', exec (.faultStop slot) s = .next u ∧ u.task? slot = some { t with
        cts := [(0, c')], conds := [.action], saved := true, finished := [], state := .parked } ∧
      c'.notes = [] ∧ c'.faultRec = faultRecOf n ∧ c'.mxStopped = false ∧ c'.cpStopped = false ∧
      (∀ q, (c.seq q).status = .faulted → (c'.seq q).status = .running ∧ (c'.seq q).g = (c.seq q).g ∧
        (n.code ≠ .trap ∨ n.kind ≠ seqNum q → (c'.seq q).pc = (c.seq q).pc) ∧
        (n.code = .trap → n.kind = seqNum q → (c'.seq q).pc = (loopEnd (c.seq q).loops (c.seq q).pc).2)) ∧
      find u.jobs t.job = some { j with
        waiting := j.waiting ++ [{ slot := slot, id := t.id, primary := true, words := faultWords t.id 0 true n }] } ∧
      u.m = s.m ∧ ∀ m, m ≠ slot → u.task? m = s.task? m

/-- R210, R269, R284, R286, R287: a job's next record is written at its place in the fault queue, the count is raised
as a release and the physical function is told unless a task handles the job; with no place free it waits. The value
that the handler stores as the action decides: 1 resumes, with the handler's release acquired and the pieces held at
slices applied again, or stops the gang again with ENERGY-OUT while nothing of its quota is left; 2 reruns the task
from its start, any other kills it, and an error that lost data never resumes. -/
def Obligations.FaultRecordsAndActions : Prop :=
  (∀ (job : Nat) (s s1 s2 : State) (j : Job) (r : WaitRec) (rest : List WaitRec), find s.jobs job = some j →
    j.waiting = r :: rest →
    (j.written < 64 → s.plainWaits (.job job) j.ctx = none → (s.ctxPart j.ctx).any s.partGone = false →
      s.writeVa j.ctx (j.fq + BitVec.ofNat 64 (64 + 64 * (j.written % 64)))
        (r.words.flatMap (fun w => leBytes 8 w.toNat)) false = .ok s1 →
      s1.writeVa j.ctx j.fq (leBytes 8 (j.written + 1)) true = .ok s2 → find s2.jobs job = some j →
      ∃ t, exec (.faultRecordWrite job) s = .next t ∧ t.m.dpa = s2.m.dpa ∧ t.m.host = s2.m.host ∧
        find t.jobs job = (if j.count = 0 ∧ rest = [] ∧ ∀ e ∈ s2.tasks, e.2.job ≠ job then none
          else some { j with waiting := rest, written := j.written + 1 }) ∧
        t.irqs = s2.irqs ++ (if j.htask then [] else [.faultQueue job])) ∧
    (64 ≤ j.written → s.readVa j.ctx (j.fq + BitVec.ofNat 64 (64 + 64 * (j.written % 64)) + 56) 8 = .ok (List.replicate 8 0) →
      exec (.faultRecordWrite job) s = .next s)) ∧
  (∀ (slot : Nat) (s : State) (t : Task) (w : ActionWord) (v : Word) (rel : Option Stamp), s.task? slot = some t →
    .action ∈ t.conds → s.m.actions.find? (fun w => decide (w.slot = slot)) = some w → w.value = some (v, rel) →
    let s1 : State := { s with m := { s.m with actions := s.m.actions.filter (fun w => decide (w.slot ≠ slot)) } }
    (v = 1 → w.noResume = false →
      exec (.handlerRerun slot) s = .next s ∧ exec (.handlerKill slot) s = .next s ∧
      (∀ q, s.frankLeft t.ctx = some q → q ≤ 0 → ∃ u t', exec (.handlerResume slot) s = .next u ∧
        u.task? slot = some t' ∧ t'.state = t.state ∧ .action ∈ t'.conds) ∧
      ((∀ q, s.frankLeft t.ctx = some q → 0 < q) → ∃ u t', exec (.handlerResume slot) s = .next u ∧
        u.task? slot = some t' ∧ t'.conds = t.conds.filter (· ≠ .action) ∧
        (t.state = .parked → (∀ k ∈ t.conds, k = .action) → t'.state = .ready) ∧
        (∀ r c, t.ct? r = some c → ∃ c', t'.ct? r = some c' ∧ ∀ q, (c'.seq q).pc = (c.seq q).pc ∧
          (c'.seq q).g = (c.seq q).g ∧ (c'.seq q).stamp = (match rel with
            | some y => acqStamp (c.seq q).stamp y
            | none => (c.seq q).stamp)) ∧
        ∀ n, ∀ p ∈ (u.slice n).held, p.slot = slot → ∀ c, t'.ct? p.rank = some c →
          p.ready = true ∧ p.stamp = c.seqC.stamp)) ∧
    (v = 2 → exec (.handlerResume slot) s = .next s ∧ exec (.handlerKill slot) s = .next s ∧
      ∃ u t', exec (.handlerRerun slot) s = .next u ∧ u.task? slot = some t' ∧ t'.id = t.id ∧ t'.state = .ready ∧
        t'.cts = [] ∧ t'.budget = t.fullBudget) ∧
    (v ≠ 2 → v ≠ 1 ∨ w.noResume = true → exec (.handlerResume slot) s = .next s ∧
      exec (.handlerRerun slot) s = .next s ∧ exec (.handlerKill slot) s = .next (s1.killTask slot)))

/-- R246, R260, R261, R262, R263, R268, R269, R273: the governor acts at each multiple of 10 µs: quotas are charged,
and the interval begins anew; an island without a gang stays at OP0, where the end of its last gang has put it. A
target of a lower voltage ratio is taken at its third tick, and the clamp of the module lowers the point by one at
each tick. A quota that is spent stops the gangs of its context, and a change of point that is due takes effect. R186,
R270, R271, R273: a reading stands in its island's sensor; at 95 °C the migration of persistent core-tasks is asked
for once, at 105 °C the island is held at its lowest point until it falls below 100, at 115 °C its clocks stop until
it falls below 105. The clamps halve an island's clock and bind the governor; the memory's derating follows its
thresholds, and a change is told to every partition with a share. -/
def Obligations.TheGovernorAndThermalLimits : Prop :=
  ((∀ (s : State), (s.dtime < s.pw.lastTick + 10000 → exec .governorTick s = .next s) ∧
      (s.pw.lastTick + 10000 ≤ s.dtime → s.EmptyGated → ∃ t, exec .governorTick s = .next t ∧
        t.pw.lastTick = s.dtime / 10000 * 10000 ∧
        t.dtime = s.dtime ∧ t.pw.held = [] ∧ t.pw.clock = [] ∧ t.pw.used = [] ∧ t.pw.frank = s.charge ∧
        ∀ i < 32, (s.gangsOn i).isEmpty = true → let j := Tab.get Island.reset t.pw.islands i
          j.point = 0 ∧ j.change = none ∧ j.energy = Config.islandEnergy s.tick i)) ∧
    State.reset.EmptyGated ∧ (∀ s : State, s.gateIslands.EmptyGated) ∧
    (∀ (i : Island) (target now : Nat), i.hot = false → i.change = none → target < i.point →
      (opRatio target < opRatio i.point → i.lowTicks < 2 →
        i.apply target now false = { i with lowTicks := i.lowTicks + 1, target := target }) ∧
      (opRatio target < opRatio i.point → 2 ≤ i.lowTicks → i.held = false →
        i.apply target now false = { i with
          lowTicks := 0, target := target, change := some (target, now + 2000), held := true }) ∧
      (opRatio target = opRatio i.point → i.held = false →
        i.apply target now false = { i with lowTicks := 0, target := target, change := some (target, now + 200) }) ∧
      ((i.apply target now true).change.map (·.1) =
        some (if opRatio target < opRatio i.point ∧ i.lowTicks < 2 then i.point - 1 else Min.min target (i.point - 1)))) ∧
    (∀ (ctx : Fin 128) (s : State) (amount : Word) (q : Int),
      (s.ports.host = false → exec (.frankingQuotaAddition ctx amount) s = .next s) ∧
      (s.ports.host = true → amount = -1 → ∃ t, exec (.frankingQuotaAddition ctx amount) s = .next t ∧ t.frankLeft ctx.val = none) ∧
      (s.ports.host = true → amount ≠ -1 → ∃ t, exec (.frankingQuotaAddition ctx amount) s = .next t ∧
        t.frankLeft ctx.val = some ((s.frankLeft ctx.val).getD 0 + amount.toNat * 1000) ∧
        t = { s with pw := { s.pw with frank := t.pw.frank } }) ∧
      (s.frankLeft ctx.val = none → exec (.energyOut ctx) s = .next s) ∧
      (s.frankLeft ctx.val = some q → 0 < q → exec (.energyOut ctx) s = .next s) ∧
      (s.frankLeft ctx.val = some q → q ≤ 0 → exec (.energyOut ctx) s = .next
        (((s.tasks.filter (fun e => decide (e.2.state = .running ∧ e.2.ctx = ctx.val))).map (·.1)).foldl
          (fun s slot => (s.noteGang slot .energyOut).stopGang slot [] false) s))) ∧
    (∀ (n : Fin 32) (s : State) (p due : Nat), (Tab.get Island.reset s.pw.islands n.val).change = some (p, due) →
      (s.dtime < due → exec (.opChangeComplete n) s = .next s) ∧
      (due ≤ s.dtime → ∃ t, exec (.opChangeComplete n) s = .next t ∧
        t = { s with pw := { s.pw with islands := t.pw.islands } } ∧
        ∀ k, Tab.get Island.reset t.pw.islands k = if k = n.val
          then { Tab.get Island.reset s.pw.islands k with point := p, change := none, held := false }
          else Tab.get Island.reset s.pw.islands k))) ∧
  ((∀ (n : Fin 32) (r : BitVec 16) (i : Instr) (s : State),
      let old := Tab.get Island.reset s.pw.islands n.val
      let x := r.toInt
      (i = .thermal95Crossing n r ∧ 95 * 16 ≤ x) ∨ (i = .thermalRearm n r ∧ x < 95 * 16) ∨
      (i = .thermal105Crossing n r ∧ 105 * 16 ≤ x) ∨ (i = .thermalHoldRelease n r ∧ x < 105 * 16) ∨
      (i = .sensor115Stop n r ∧ 115 * 16 ≤ x) →
      old.therm.getLsbD 31 = false →
      ∃ t, exec i s = .next t ∧
        let j := Tab.get Island.reset t.pw.islands n.val
        j.sensor = r ∧ (90 * 16 ≤ x → j.fired = (old.fired || decide (95 * 16 ≤ x))) ∧ (x < 90 * 16 → j.fired = false) ∧
        (100 * 16 ≤ x → j.hold105r = (old.hold105r || decide (105 * 16 ≤ x))) ∧ (x < 100 * 16 → j.hot = false) ∧
        (105 * 16 ≤ x → j.stop115 = (old.stop115 || decide (115 * 16 ≤ x))) ∧ (x < 105 * 16 → j.stop115 = false) ∧
        (115 * 16 ≤ x → j.mhz = 0) ∧
        (105 * 16 ≤ x → old.hot = false → old.change = none → old.point ≠ 0 → (j.change.map (·.1)) = some 0) ∧
        (∀ k, k ≠ n.val → Tab.get Island.reset t.pw.islands k = Tab.get Island.reset s.pw.islands k) ∧
        (∀ slot rank c, s.ct? slot rank = some c → 95 * 16 ≤ x → old.fired = false → s.r.featw0.getLsbD 7 = true →
          (slot, rank) ∈ s.persistentOn n.val → (t.ct? slot rank).map (·.migPend) = some true)) ∧
    (∀ (n : Fin 32) (on : Bool) (s : State),
      (∃ t, exec (.currentClamp n on) s = .next t ∧ t = { s with pw := { s.pw with islands := t.pw.islands } } ∧
        ∀ k, Tab.get Island.reset t.pw.islands k = if k = n.val
          then { Tab.get Island.reset s.pw.islands k with half := on } else Tab.get Island.reset s.pw.islands k) ∧
      exec (.modulePowerClamp on) s = .next { s with pw := { s.pw with moduleClamp := on } }) ∧
    (∀ (x : Int) (s : State),
      let d := s.pw.derate
      let d' := if d = 0 ∧ 85 ≤ x then 1 else if d = 1 ∧ 95 ≤ x then 2 else if d = 1 ∧ x < 80 then 0
        else if d = 2 ∧ x < 90 then 1 else d
      d ≤ 2 → ∃ t, exec (.gddrDerateChange x) s = .next t ∧ t.pw = { s.pw with gddrTemp := x, derate := d' } ∧
        t = { s with pw := t.pw, irqs := t.irqs } ∧ (d' = d → t.irqs = s.irqs) ∧
        (d' ≠ d → ∀ p < 8, Tab.get 0 s.r.share p ≠ 0 →
          .derate p (256 - 32 * d') ((Tab.get 0 s.r.share p).toNat * (256 - 32 * d')) ∈ t.irqs)))

/-- R187, R288, R289, R290, R292: a corrected error freezes its core, or the pipeline of its slice, for 64 cycles; an
uncorrectable one stops its unit with cause 0, faults the access that meets it as its own and zeroes the line, or
zeroes the line and tells the physical function; a watchdog stops its unit, and the loss of a packet faults the access
that sent it, precise at its word or deferred. What no access sent is lost, which the physical function is told; an
error in the fetch of a sequencer's word is that sequencer's. That errors at one slice add up, that the watchdog of a
sequencer that does not run leaves it as it is, and what the loss of an acceptance, of a refusal or of a wake does are
the model's choice (log 43). R200: a scrub pass drops the records and raises the stamps that lie more than 2^30 below
H, and changes no memory. -/
def Obligations.HardwareErrors : Prop :=
  ((∀ (slot rank kind : Nat) (n : Fin 64) (s : State) (c : CoreTask), s.ct? slot rank = some c →
      (∀ site key, (site = .core slot rank kind ∧ key = c.core) ∨ (site = .slice n ∧ key = 128 + n.val) →
        ∃ t, exec (.eccCorrectable site) s = .next t ∧ Tab.get 0 t.pw.freeze key = Tab.get 0 s.pw.freeze key + 64 * 1000 ∧
          (∀ k, k ≠ key → Tab.get 0 t.pw.freeze k = Tab.get 0 s.pw.freeze k) ∧
          t = { s with pw := { s.pw with freeze := t.pw.freeze },
                       service := { s.service with svcLog := s.service.svcLog + 1 } })) ∧
    (∀ (slot rank : Nat) (q : SeqId) (k : Fin 6) (s : State) (c : CoreTask) (i : Instr) (code : Code) (cause : BitVec 2),
      s.ct? slot rank = some c → k.val = seqNum q →
      (i = .eccUncorrectable (.core slot rank (seqNum q)) ∧ code = .eccUncorrectable ∧ cause = 0) ∨
      (i = .watchdogExpiry slot rank k ∧ code = .fabricError ∧ cause = 1) →
      let tr : Trap := { code := code, cause := cause, addr := 0 }
      ∃ t, exec i s = .next t ∧
        t.ct? slot rank = some { c.setSeq q { c.seq q with
            status := if (c.seq q).status = .running then .faulted else (c.seq q).status } with
          notes := c.notes ++ [tr.note (seqNum q) (c.seq q).pc s.dtime] } ∧
        Tab.get [] t.pw.clusterErr (c.core / 4) = Tab.get [] s.pw.clusterErr (c.core / 4) ++ [s.dtime]) ∧
    (∀ (slot rank dpa : Nat) (gddr : Bool) (s : State) (c : CoreTask) (i : Instr) (code : Code) (cause : BitVec 2),
      s.ct? slot rank = some c → s.m.slices = [] → dpa < dpaTop →
      (i = .fabricError slot rank .word ∧ code = .fabricError ∧ cause = 0) ∨
      (i = .eccUncorrectable (.lineRead dpa slot rank .word gddr) ∧ code = .eccUncorrectable ∧
        cause = if gddr then 2 else 1) →
      let tr : Trap := { code := code, cause := cause, addr := s.currentVa slot rank }
      ∃ t c', exec i s = .next t ∧ t.ct? slot rank = some c' ∧ (c.seqC.status = .running → c'.seqC.status = .faulted) ∧
        c'.seqC.pc = c.seqC.pc ∧ c'.notes = c.notes ++ [tr.note 0 c.seqC.pc s.dtime] ∧
        ∀ b, Tab.get 0 t.m.dpa b =
          if i ≠ .fabricError slot rank .word ∧ b / 64 = dpa / 64 then 0 else Tab.get 0 s.m.dpa b) ∧
    (∀ (slot rank idx : Nat) (s : State) (c : CoreTask) (x : Posted), s.ct? slot rank = some c → c.posted[idx]? = some x →
      exec (.fabricError slot rank (.store idx)) s = .next ((s.putCt slot rank
        { c with posted := c.posted.set idx { x with stage := .faulted } }).raiseDeferred slot rank
          { code := .fabricError, cause := 0, addr := x.va } x.waddr)) ∧
    (∀ (slot rank : Nat) (p : Packet) (s : State), p.unissued = true → ∃ t, exec (.fabricError slot rank p) s = .next t ∧
      t.irqs = s.irqs ++ [.packetLost] ∧ t.m.dpa = s.m.dpa ∧ t.m.host = s.m.host ∧
      ∀ c, s.ct? slot rank = some c → ∃ c', t.ct? slot rank = some c' ∧
        (∀ n, p = .refusal n → c' = { c with returns := c.returns.eraseIdx n }) ∧
        (∀ n, p = .acceptance n → c' = { c with flight := c.flight.modify n (fun x => { x with mute := true }) }) ∧
        (∀ sl n, p = .wake sl n → c' = c ∧
          (t.slice sl).pigeons = (s.slice sl).pigeons.modify n (fun x => { x with lost := true }))) ∧
    (∀ (slot rank : Nat) (q : SeqId) (s : State) (c : CoreTask), s.ct? slot rank = some c → (c.seq q).status = .running →
      let tr : Trap := { code := .fabricError, cause := 0, addr := s.fetchVa slot (c.seq q) }
      exec (.fabricError slot rank (.fetch q)) s = .next (s.putCt slot rank
        { c.setSeq q { c.seq q with status := .faulted } with
          notes := c.notes ++ [tr.note (seqNum q) (c.seq q).pc s.dtime] })) ∧
    (∀ (dpa : Nat) (gddr : Bool) (s : State), dpa < dpaTop → ∃ t, exec (.eccUncorrectable (.line dpa gddr)) s = .next t ∧
      (gddr = false → t.pw.channelErr = s.pw.channelErr) ∧
      t.irqs = s.irqs ++ [.lineLost (dpa / 64 * 64)] ∧ t.m.host = s.m.host ∧
      ∀ b, Tab.get 0 t.m.dpa b = if b / 64 = dpa / 64 then 0 else Tab.get 0 s.m.dpa b)) ∧
  (∀ s : State, ∃ t, exec .scrubPass s = .next t ∧ t.m.dpa = s.m.dpa ∧ t.m.host = s.m.host ∧ t.m.h = s.m.h ∧
      t.pw = { s.pw with lastScrub := s.dtime } ∧
      (∀ g r, find s.m.races g = some r → ∃ r', find t.m.races g = some r' ∧
        r'.y = (if stale s.m.h r.y then s.m.h - 0x40000000 else r.y) ∧
        (∀ x, x ∈ r'.w ↔ x ∈ r.w ∧ stale s.m.h x.stamp = false) ∧ (∀ x, x ∈ r'.r ↔ x ∈ r.r ∧ stale s.m.h x.stamp = false)) ∧
      (∀ slot rank c, s.ct? slot rank = some c → ∃ c', t.ct? slot rank = some c' ∧
        (∀ n, (c'.sem n).st = (if stale s.m.h (c.sem n).st then s.m.h - 0x40000000 else (c.sem n).st) ∧
          (c'.sem n).n = (c.sem n).n) ∧
        ∀ q, (c'.seq q).stamp = (if stale s.m.h (c.seq q).stamp then s.m.h - 0x40000000 else (c.seq q).stamp) ∧
          (c'.seq q).g = (c.seq q).g ∧ (c'.seq q).pc = (c.seq q).pc) ∧
      ∀ h x : Stamp, stale h x = true ↔ 2 ^ 30 < (h - x).toNat ∧ (h - x).toNat < 2 ^ 31)

/-- R166, R169 to R174, R178, R205: the translation of a virtual address. Bits above 56 give PAGE with cause NONCANON.
The heap window comes first: DPA = VA + HWO modulo 2^64, key HWK, every access permitted; a result outside memory is
PAGE with cause NOMAP, which is the model's choice (log 21). Outside it a context without paging gives PAGE NOMAP. A
walk reads one entry a level: not present is a miss, a malformed one PAGE with cause TABLE, a leaf gives its page. Of
two stages the permissions are the logical AND, the policy the later one, the key and HOST those of the second leaf,
the page the smaller. An access that lacks a permission, or an atomic one of a host page, raises PERM; a host page
that the host does not report as present is a miss. R179: a miss asks for its 4 KiB page once, with the access's
needs, while fewer than 512 requests and than the host's allocation are outstanding; one more waits its turn. What a
miss gives a gang's agent: PAGE NOMAP without PRQEN and at the third miss of the same access, PAGE-REFUSED while the
function's requests are stopped, else it parks (R180); an access outside the gangs counts its misses in the same way.
That an access is told apart by its agent, its address and its word, and that DETAIL is 0 while the requests are
stopped, are the model's choice (log 30). R180, R181: the answer to a page request. Success lets the gangs that wait
for nothing else walk again; Invalid Request hands PAGE-REFUSED to the handler of each waiting gang, which stays
parked, with one record for a core-task that has none of this stop (R280); Response Failure does the same and stops
the function's requests before another is sent; an answer whose context has been destroyed since is discarded and
counts as late. The host's re-enabling sends those that wait. The code 0xF that a Response Failure hands on is the
model's (log 30). -/
def Obligations.TranslationAndPageResponses : Prop :=
  ((∀ (s : State) (ctx : Nat) (need : Need) (va : Word),
      let base := fieldOf (s.ctxWord ctx 0) 21 36 * 2 ^ 21
      let len := fieldOf (s.ctxWord ctx 1) 21 36 * 2 ^ 21
      let hwo := fieldOf (s.ctxWord ctx 2) 21 43 * 2 ^ 21
      let d := (va.toNat + hwo) % 2 ^ 64
      let inside := base ≤ va.toNat ∧ va.toNat < base + len
      (2 ^ 57 ≤ va.toNat → s.translate ctx need va = .trap { code := .page, cause := 1, addr := va }) ∧
      (va.toNat < 2 ^ 57 → inside → d < dpaTop → ∃ x, s.translate ctx need va = .ok x ∧
        x.f = { host := false, a := d } ∧ x.key.toNat = fieldOf (s.ctxWord ctx 3) 8 6 ∧ x.cp = 0) ∧
      (va.toNat < 2 ^ 57 → inside → dpaTop ≤ d →
        s.translate ctx need va = .trap { code := .page, cause := 0, addr := va }) ∧
      (va.toNat < 2 ^ 57 → ¬inside → (s.ctxWord ctx 3).getLsbD 0 = false →
        s.translate ctx need va = .trap { code := .page, cause := 0, addr := va })) ∧
    (∀ (read : Nat → EntryRes) (last : Bool) (a shift width size tab : Nat) (rest : List (Nat × Nat × Nat)) (e : Word),
      read (tab + a / 2 ^ shift % 2 ^ width * 8) = .entry e →
      let res := walk read last a ((shift, width, size) :: rest) tab
      let group := (List.range 16).map (fun i => read (tab + (a / 2 ^ shift % 2 ^ width / 16 * 16 + i) * 8))
      (e.getLsbD 0 = false → res = .miss false) ∧
      (e.getLsbD 0 = true → e.getLsbD 1 = false →
        (fieldOf e 52 12 ≠ 0 ∨ fieldOf e 5 7 ≠ 0 ∨ rest = [] → res = .trap .page 2) ∧
        (fieldOf e 52 12 = 0 → fieldOf e 5 7 = 0 → rest ≠ [] → res = walk read last a rest (entryAddr e))) ∧
      (e.getLsbD 0 = true → e.getLsbD 1 = true →
        res = leafOf e last size (if e.getLsbD 7 then group else []))) ∧
    (∀ (e : Word) (last : Bool) (size : Nat) (group : List EntryRes),
      let s64 := e.getLsbD 7
      let host := e.getLsbD 58
      let page := if s64 then 65536 else size
      let at_ := if s64 then entryAddr e / 65536 * 65536 else entryAddr e
      let matched := ∃ e0, group.head? = some (.entry e0) ∧ entryAddr e0 % 65536 = 0 ∧
        ∀ i < 16, group[i]? = some (.entry (e0 + BitVec.ofNat 64 (4096 * i)))
      let bad := fieldOf e 59 5 ≠ 0 ∨ fieldOf e 8 4 ≠ 0 ∨ fieldOf e 5 2 = 3 ∨ (s64 = true ∧ size ≠ 4096) ∨
        (host = true ∧ last = false) ∨ size = 0 ∨ entryAddr e % size ≠ 0 ∨ (s64 = true ∧ ¬matched) ∨
        (last = true ∧ host = false ∧ dpaTop < at_ + page)
      (bad → leafOf e last size group = .trap .page 2) ∧
      (¬bad → leafOf e last size group = .leaf {
        host := host, key := BitVec.ofNat 6 (fieldOf e 52 6), addr := at_, size := page, cp := fieldOf e 5 2, r := e.getLsbD 2, w := e.getLsbD 3, a := e.getLsbD 4 })) ∧
    (∀ (s : State) (ctx : Nat) (need : Need) (va : Word) (l1 l2 : Leaf), s.stage1 ctx va.toNat = .leaf l1 →
      (s.ctxWord ctx 3).getLsbD 1 = true →
      let a1 := l1.addr + va.toNat % l1.size
      s.stage2 ctx a1 = .leaf l2 →
      let a2 := l2.addr + a1 % l2.size
      let lacks := (need.atomic = true ∧ l2.host = true) ∨ (need.r = true ∧ (l1.r && l2.r) = false) ∨
        (need.w = true ∧ (l1.w && l2.w) = false) ∨ (need.a = true ∧ (l1.a && l2.a) = false)
      (lacks → s.paged ctx need va = .trap { code := .perm, addr := va }) ∧
      (¬lacks → ∃ x, x.f = { host := l2.host, a := a2 } ∧ x.key = l2.key ∧ x.cp = Nat.max l1.cp l2.cp ∧
        x.page = Nat.min l1.size l2.size ∧
        s.paged ctx need va = if l2.host = true ∧ s.hostPresent a2 = false then .miss (va.toNat / 4096) true else .ok x)) ∧
    (∀ (s : State) (ctx : Nat) (need : Need) (va : Word) (c : Code) (k : BitVec 2),
      (∀ h, s.stage1 ctx va.toNat = .miss h → s.paged ctx need va = .miss (va.toNat / 4096) h) ∧
      (s.stage1 ctx va.toNat = .trap c k → s.paged ctx need va = .trap { code := c, cause := k, addr := va }) ∧
      ∀ l1 : Leaf, s.stage1 ctx va.toNat = .leaf l1 → (s.ctxWord ctx 3).getLsbD 1 = true →
        let two := s.stage2 ctx (l1.addr + va.toNat % l1.size)
        (∀ h, two = .miss h → s.paged ctx need va = .miss (va.toNat / 4096) h) ∧
        (two = .trap c k → s.paged ctx need va = .trap { code := c, cause := k, addr := va }))) ∧
  ((∀ (s : State) (ctx page : Nat) (host : Bool) (need : Need),
      let q : PageReq := { ctx := ctx, page := page, host := host, need := (need.r, need.w), sent := false, orphan := false }
      let out := (s.r.prq.filter (·.sent)).length
      ((∃ x ∈ s.r.prq, x.ctx = ctx ∧ x.page = page ∧ x.orphan = false) → s.requestPage ctx page host need = s) ∧
      ((∀ x ∈ s.r.prq, ¬(x.ctx = ctx ∧ x.page = page ∧ x.orphan = false)) → (∀ x ∈ s.r.prq, x.sent = true) →
        (out < Nat.min 512 s.r.prqHist → Tab.get false s.r.priStop (s.ctxFunc ctx) = false →
          s.requestPage ctx page host need = { s with
            r := { s.r with prq := s.r.prq ++ [{ q with sent := true }] },
            irqs := s.irqs ++ [.pageRequest ctx page need.r need.w] }) ∧
        (Nat.min 512 s.r.prqHist ≤ out ∨ Tab.get false s.r.priStop (s.ctxFunc ctx) = true →
          s.requestPage ctx page host need = { s with r := { s.r with prq := s.r.prq ++ [q] } }))) ∧
    (∀ (s : State) (slot rank kind ctx : Nat) (va : Word) (waddr : BitVec 32) (t : Task), s.task? slot = some t →
      let on := (s.ctxWord ctx 3).getLsbD 2 && s.r.featw0.getLsbD 3
      let stop := Tab.get false s.r.priStop (s.ctxFunc ctx)
      let n := Tab.get 0 t.misses (missKey rank kind va waddr)
      (on = false ∨ (stop = false ∧ 2 ≤ n) → s.missTrap slot rank kind ctx va waddr =
        some { code := .page, cause := 0, addr := va }) ∧
      (on = true → stop = true → s.missTrap slot rank kind ctx va waddr = some { code := .pageRefused, addr := va }) ∧
      (on = true → stop = false → n < 2 → s.missTrap slot rank kind ctx va waddr = none)) ∧
    (∀ (s : State) (who : Plain) (ctx : Nat) (va : Word),
      let on := (s.ctxWord ctx 3).getLsbD 2 && s.r.featw0.getLsbD 3
      let stop := Tab.get false s.r.priStop (s.ctxFunc ctx)
      let n := Tab.get 0 s.m.misses (who.key (va.toNat / 4096))
      (on = false ∨ (stop = false ∧ 2 ≤ n) → s.plainMiss who ctx va = some { code := .page, cause := 0, addr := va }) ∧
      (on = true → stop = true → s.plainMiss who ctx va = some { code := .pageRefused, addr := va }) ∧
      (on = true → stop = false → n < 2 → s.plainMiss who ctx va = none))) ∧
  ((∀ (idx : Nat) (code : BitVec 4) (s : State) (q : PageReq), s.ports.host = true →
      (s.r.prq.filter (·.sent))[idx]? = some q →
      let s1 := s.answered q
      let events := s.eventsWaiting q.ctx q.page
      let stopped : State := { s with r := { s.r with priStop := Tab.set false s.r.priStop (s.ctxFunc q.ctx) true } }
      let s2 := stopped.answered q
      (q.orphan = true → exec (.pageResponseSuccess idx) s = .next s1.lateResponse ∧
        exec (.pageResponseInvalid idx code) s = .next s1.lateResponse ∧
        exec (.pageResponseFailure idx) s = .next s1.lateResponse) ∧
      (q.orphan = false →
        (∃ t, exec (.pageResponseSuccess idx) s = .next t ∧ ((∀ e ∈ s.streams, e.2.ctx = q.ctx → e.2.evs = []) →
          t.m.dpa = s.m.dpa ∧ ∀ slot tk, s.task? slot = some tk → tk.state = .parked →
            (∀ k ∈ tk.conds, ParkCond.waitsFor q k = true) → (t.task? slot).map (·.state) = some .ready)) ∧
        exec (.pageResponseInvalid idx code) s = .next (s1.refuseAll q code events) ∧
        exec (.pageResponseFailure idx) s = .next (s2.refuseAll q 0xF events)) ∧
      (∀ x ∈ s2.r.prq, x.sent = true → s.ctxFunc x.ctx = s.ctxFunc q.ctx → x ∈ s.r.prq)) ∧
    (∀ (s : State) (slot rank kind : Nat) (t : Task) (c : CoreTask) (q : PageReq) (host : Bool) (va : Word)
        (waddr : BitVec 32) (code : BitVec 4) (j : Job), s.task? slot = some t → rank < 16 →
      t.conds = [.page q.ctx q.page host rank kind va waddr] → t.ct? rank = some c → find s.jobs t.job = some j →
      let n : FaultNote := {
        code := .pageRefused, kind := kind, waddr := waddr, addr := va, opc := if kind = 5 then c.copyOpc waddr else 0,
        detail := code.setWidth 48, time := s.dtime }
      ∃ t', (s.refuseGang slot q code).task? slot = some t' ∧ t'.conds = [.action] ∧ t'.state = t.state ∧
        find (s.refuseGang slot q code).jobs t.job = some { j with
          waiting := j.waiting ++ (if c.recorded then []
            else [{ slot := slot, id := t.id, primary := true, words := faultWords t.id rank true n }]) }) ∧
    (∀ (s : State) (f : Fin 9) (n : BitVec 32), s.ports.host = true →
      exec .latePageResponse s = .next { s with r := { s.r with lateprq := Min.min (2 ^ 32 - 1) (s.r.lateprq + 1) } } ∧
      (s.presented f.val = true → ∃ t, exec (.priReenable ⟨f, n⟩) s = .next t ∧ Tab.get false t.r.priStop f.val = false ∧
        t.r.prqHist = n.toNat ∧ t = { s with r := t.r, irqs := t.irqs } ∧
        ((∀ x ∈ s.r.prq, x.sent = true) → t.irqs = s.irqs))))

/-- R175, R177, R183, R184, R304: a GO register starts its command with the operands as they stand, drops the write
while one runs, and refuses operands out of range. An invalidation completes once no access of its contexts is on its
way, and no cached translation that it hits is left, nor, of a range of guest pages, any first-stage one that was read
through it; the host is told of its own invalidation; a release zeroes exactly its frames and gives them their key; a
key load gives its identifier the key that stood in KLDATA. Each completion raises vector 0. That a completion waits
for every access of the contexts, not only for those that used an invalidated translation, is the model's choice (log
42). -/
def Obligations.HostCommandsRunAndComplete : Prop :=
  (∀ (c : Cmd) (bad : Bool), (c.busy = true → c.go bad = c) ∧
    (c.busy = false → bad = true → c.go bad = { c with done := false, refused := true }) ∧
    (c.busy = false → bad = false → c.go bad =
      { c with busy := true, done := false, refused := false, run := [c.a, c.c, c.k] }) ∧
    (c.finish).busy = false ∧ (c.finish).done = true) ∧
  (∀ (f : Fin 9) (s : State), s.ports.host = true →
    let c := s.inv1 f.val
    let i := s.r.inv2
    let none1 := fieldOf c.c 8 32 = 0 ∧ c.c.getLsbD 63 = false
    let none2 := fieldOf i.c 8 32 = 0 ∧ i.c.getLsbD 63 = false
    let c' := c.go (!s.ctxOf f.val (fieldOf c.c 0 7) || decide none1)
    let x := s.r.frel
    let f' := x.go (decide (fieldOf x.c 0 26 = 0) || decide (dpaTop < (fieldOf x.a 12 26 + fieldOf x.c 0 26) * 4096))
    (s.presented f.val = true →
      exec (.inv1Go f) s = .next { s with r := { s.r with inv1 := Tab.set Cmd.idle s.r.inv1 f.val c' } }) ∧
    exec .inv2Go s = .next { s with r := { s.r with inv2 := i.go (decide none2) } } ∧
    exec .frelGo s = .next { s with r := { s.r with frel := f' } } ∧
    (s.r.kload.busy = true → exec .keyloadGo s = .next s) ∧
    (s.r.kload.busy = false → ∃ k, exec .keyloadGo s = .next { s with r := { s.r with kload := k, kldata := [] } } ∧
      (s.r.kload.klid = 0 ∨ s.tagUsed s.r.kload.klid = true → k.busy = false ∧ k.refused = true) ∧
      (s.r.kload.klid ≠ 0 → s.tagUsed s.r.kload.klid = false → k.busy = true ∧ k.refused = false ∧
        k.running.klid = s.r.kload.klid ∧ k.run.drop 3 = (List.range 8).map (fun i => Tab.get 0 s.r.kldata i)))) ∧
  (∀ (f : Fin 9) (s : State),
    let c := s.inv1 f.val
    let ctx := c.running.ctx
    let part := fieldOf s.r.inv2.running.c 0 3
    let r1 := c.running.range 57
    let r2 := s.r.inv2.running.range 52
    let mine (n : Nat) : Bool := decide (s.ctxPart n = some part)
    (c.busy = false ∨ s.inFlight (fun n => decide (n = ctx)) = true →
      exec (.invalidationComplete false f) s = .next s) ∧
    (c.busy = true → s.inFlight (fun n => decide (n = ctx)) = false →
      ∃ t, exec (.invalidationComplete false f) s = .next t ∧ (t.inv1 f.val).busy = false ∧
        (t.inv1 f.val).done = true ∧ t.irqs = s.irqs ++ [.msix f.val 0] ∧ t.m.second = s.m.second ∧
        (∀ e, e ∈ t.m.first.leaves ↔ e ∈ s.m.first.leaves ∧ ¬(e.owner = ctx ∧ r1.hits e.page e.leaf = true)) ∧
        (∀ e, e ∈ t.m.first.tables ↔ e ∈ s.m.first.tables ∧ ¬(e.owner = ctx ∧ r1.hitsTable e.shift e.above = true)) ∧
        t.m.dpa = s.m.dpa) ∧
    (s.r.inv2.busy = false ∨ s.inFlight mine = true ∨ s.strayPiece = true → exec (.invalidationComplete true f) s = .next s) ∧
    (s.r.inv2.busy = true → s.inFlight mine = false → s.strayPiece = false →
      let gone (n : Nat) : Prop := s.ctxPart n = some part ∨ (n ≠ 0 ∧ s.ctxPart n = none)
      let named (via : List Nat) : Prop := ∃ p ∈ via, r2.all = true ∨ (r2.first ≤ p ∧ p < r2.first + r2.count)
      ∃ t, exec (.invalidationComplete true f) s = .next t ∧ t.r.inv2.busy = false ∧
        t.irqs = s.irqs ++ [.msix 0 0] ∧
        (∀ e, e ∈ t.m.first.leaves ↔ e ∈ s.m.first.leaves ∧ ¬(gone e.owner ∧ named e.via)) ∧
        (∀ e, e ∈ t.m.first.tables ↔ e ∈ s.m.first.tables ∧ ¬(gone e.owner ∧ named e.via)) ∧
        (∀ e, e ∈ t.m.second.leaves ↔ e ∈ s.m.second.leaves ∧ ¬(e.owner / 128 = part ∧ r2.hits e.page e.leaf = true)) ∧
        ∀ e, e ∈ t.m.second.tables ↔
          e ∈ s.m.second.tables ∧ ¬(e.owner / 128 = part ∧ r2.hitsTable e.shift e.above = true))) ∧
  (∀ (base count : Nat) (s : State),
    (s.inFlight (fun _ => true) = true ∨ s.ports.host = false → exec (.atsInvalidation base count) s = .next s) ∧
    (s.inFlight (fun _ => true) = false → s.ports.host = true → ∃ t, exec (.atsInvalidation base count) s = .next t ∧
      t = { s with m := { s.m with hostX := t.m.hostX }, irqs := s.irqs ++ [.atsDone] } ∧
      ∀ p, p ∈ t.m.hostX ↔ p ∈ s.m.hostX ∧ ¬(base ≤ p ∧ p < base + count))) ∧
  (∀ (s : State),
    (s.r.frel.busy = false → exec .frameReleaseComplete s = .next s) ∧
    (s.r.frel.busy = true →
      let f := fieldOf s.r.frel.running.a 12 26
      let n := fieldOf s.r.frel.running.c 0 26
      let key := BitVec.ofNat 6 (fieldOf s.r.frel.running.k 0 6)
      ∃ t, exec .frameReleaseComplete s = .next t ∧ t.r.frel.busy = false ∧ t.r.frel.done = true ∧
        t.irqs = s.irqs ++ [.msix 0 0] ∧ t.m.host = s.m.host ∧
        (∀ b, Tab.get 0 t.m.dpa b = if f ≤ b / 4096 ∧ b / 4096 < f + n then 0 else Tab.get 0 s.m.dpa b) ∧
        ∀ k, Tab.get 0 t.m.keyTags k = if f ≤ k ∧ k < f + n then key else Tab.get 0 s.m.keyTags k)) ∧
  (∀ (s : State),
    (s.r.kload.busy = false → exec .keyloadComplete s = .next s) ∧
    (s.r.kload.busy = true → ∃ t, exec .keyloadComplete s = .next t ∧ t.r.kload.busy = false ∧ t.r.kload.done = true ∧
      t.irqs = s.irqs ++ [.msix 0 0] ∧ ∀ k, Tab.get [] t.service.keys k =
        if k = s.r.kload.running.klid.toNat then s.r.kload.run.drop 3 else Tab.get [] s.service.keys k))

/-- R302, R306, R307, R308, R310: doorbells move a queue's tail and its completion head, a reset drops what is not
fetched, enabling needs legal fields and starts the queue empty, and disabling stops it; the entry that a queue has
read stays. A completion is written to its ring slot as 16 bytes and raises the queue's vector. The front end serves
the queues in turn once the features are fixed and the host port is up, one entry a step: a NOP is answered with code
0, an unknown code with 9. An entry that waits keeps its descriptor, and THROT counts its holding once. A MULTI-SUBMIT
is tried for 1 ms and then answered with 10; its answer closes the buffers that are used up. The answers with code 0
to the INDIRECT entries that a reset or an enabling drops, the fields that a refused enabling leaves and VALUE 0 of a
malformed entry's answer are the model's choice (log 40), as is that nothing of the host reaches the device while its
port is down (log 33). -/
def Obligations.QueuesAndCompletions : Prop :=
  (∀ (f : Fin 9) (q : Fin 16) (x : BitVec 12) (cfg : Word) (s : State), s.ports.host = true → s.presented f.val = true →
    let n := 16 * f.val + q.val
    let h := s.queue n
    let forgot : List (Nat × Nat) :=
      if h.cur.isSome then s.m.misses else s.m.misses.filter (fun e => decide (e.1 / 2 ^ 45 ≠ 8 * n))
    let became (i : Instr) (h' : HostQueue) (misses : List (Nat × Nat)) : Prop := ∃ t, exec i s = .next t ∧ t.queue n = h' ∧
      t = { s with queues := t.queues, m := { s.m with misses := misses } } ∧ ∀ m, m ≠ n → t.queue m = s.queue m
    let h1 : HostQueue := { h with log2 := fieldOf cfg 0 4, ctx := fieldOf cfg 8 7, vec := fieldOf cfg 16 8 }
    became (.sqdbWrite f q x) { h with tail := x.toNat % 2 ^ h.log2 } s.m.misses ∧
    became (.cqdbWrite f q x) { h with cqhead := x.toNat % 2 ^ h.log2 } s.m.misses ∧
    became (.queueDisable f q) { h with en := false } s.m.misses ∧
    became (.sqdbReset f q) { h with
      head := h.tail, halted := false, levels := [],
      comps := h.comps ++ h.levels.map (fun l => { tag := l.tag, code := 0, kind := 0, value := 0 }) } forgot ∧
    (h.en = true ∨ cfg.getLsbD 31 = false → exec (.queueEnable f q cfg) s = .next s) ∧
    (h.en = false → cfg.getLsbD 31 = true → s.queueOk f.val h1 = false →
      became (.queueEnable f q cfg) { h1 with refused := true } s.m.misses) ∧
    (h.en = false → cfg.getLsbD 31 = true → s.queueOk f.val h1 = true →
      became (.queueEnable f q cfg) { h1 with
        en := true, refused := false, halted := false, head := 0, tail := 0, cqtail := 0, cqhead := 0, levels := [],
        comps := h.comps ++ h.levels.map (fun l => { tag := l.tag, code := 0, kind := 0, value := 0 }) } forgot)) ∧
  (∀ (s : State) (f : Nat) (h : HostQueue), s.queueOk f h = true ↔ 4 ≤ h.log2 ∧ h.log2 ≤ 12 ∧
    s.hostOk h.sqbase.toNat (2 ^ h.log2 * 64) = true ∧ s.hostOk h.cqbase.toNat (2 ^ h.log2 * 16) = true ∧
    (if f = 0 then h.ctx = 0 ∨ (s.ctxPart h.ctx).isSome = true
     else s.r.bootstat.getLsbD 8 = false ∧ s.ctxPart h.ctx = some (f - 1))) ∧
  (∀ (f : Fin 9) (q : Fin 16) (s : State) (c : Completion) (cs : List Completion),
    let n := 16 * f.val + q.val
    let h := s.queue n
    let full := (h.cqtail + 1) % 2 ^ h.log2 = h.cqhead % 2 ^ h.log2
    (h.comps = [] ∨ full ∨ s.ports.host = false ∨ (f.val ≠ 0 ∧ s.partGone (f.val - 1) = true) →
      exec (.completionWrite f q) s = .next s) ∧
    (h.comps = c :: cs → ¬full → s.ports.host = true → (f.val ≠ 0 → s.partGone (f.val - 1) = false) →
      ∃ t, exec (.completionWrite f q) s = .next t ∧
        t.queue n = { h with comps := cs, cqtail := (h.cqtail + 1) % 2 ^ h.log2 } ∧
        t.irqs = s.irqs ++ [.msix f.val h.vec] ∧ t.m.dpa = s.m.dpa ∧
        (s.hostOk (h.cqbase.toNat + 16 * h.cqtail) 16 = true → ∀ b, Tab.get 0 t.m.host b =
          if h.cqbase.toNat + 16 * h.cqtail ≤ b ∧ b < h.cqbase.toNat + 16 * h.cqtail + 16
          then c.bytes.getD (b - (h.cqbase.toNat + 16 * h.cqtail)) 0 else Tab.get 0 s.m.host b))) ∧
  (∀ (c : Completion), c.bytes.length = 16 ∧
    ∀ i < 16, (c.bytes.getD i 0).toNat = (c.tag.toNat + c.code % 65536 * 2 ^ 32 + c.kind % 256 * 2 ^ 48 +
      c.value.toNat * 2 ^ 64) / 2 ^ (8 * i) % 256) ∧
  (∀ (s : State),
    (s.r.featFixed = false ∨ s.ports.host = false → exec .commandFetch s = .next s) ∧
    (s.r.featFixed = true → s.ports.host = true → exec .commandFetch s =
      .next (State.serveFirst ((List.range 144).map (fun i => (s.rr + i) % 144)) s))) ∧
  (∀ (s : State) (n : Nat) (ns : List Nat),
    let h := s.queue n
    let full := (h.cqtail + 1) % 2 ^ h.log2 = h.cqhead % 2 ^ h.log2
    ((h.en = false ∨ h.halted = true ∨ full) → h.cur = none → s.mayServe n = false) ∧
    (s.mayServe n = false → State.serveFirst (n :: ns) s = State.serveFirst ns s) ∧
    (s.mayServe n = true → ∀ s1, s.serveQueue n = (s1, true) →
      State.serveFirst (n :: ns) s = { s1 with rr := (n + 1) % 144 }) ∧
    (h.cur = none → h.levels = [] → h.head = h.tail → s.serveQueue n = (s, false)) ∧
    (s.queueWaits n = true → s.mayServe n = false) ∧
    (∀ x, h.cur = some x → s.nextEntry n = .entry s x)) ∧
  (∀ (s : State) (n : Nat) (x : FetchedEntry) (desc : List Word) (tenant : Option Nat) (go : State → List Word → Served),
    let t := s.holdEntry n x desc tenant
    (t.queue n).cur = some { x with desc := desc, counted := x.counted || tenant.isSome } ∧
    (x.counted = true ∨ tenant = none → t.r = s.r) ∧ (x.desc ≠ [] → readDesc s n x go = go s x.desc)) ∧
  (∀ (s : State) (n : Nat) (x : FetchedEntry),
    let e := x.words
    (entryField e 0 56 8 = 6 → entryOk e false = true → serve s n x =
      .done s (some { tag := BitVec.ofNat 32 (entryField e 0 0 32), code := 0, kind := 0, value := 0 })) ∧
    (entryField e 0 56 8 = 0 ∨ 8 ≤ entryField e 0 56 8 → serve s n x =
      .done s (some { tag := BitVec.ofNat 32 (entryField e 0 0 32), code := 9, kind := 0, value := 0 }))) ∧
  (∀ (s : State) (m : Multi),
    (s.multi = none → exec .multiSubmitRetry s = .next s ∧ exec .multiSubmitTimeout s = .next s) ∧
    (s.multi = some m →
      (s.dtime < m.since + 1000000 → exec .multiSubmitTimeout s = .next s ∧
        (∀ s1 c, s.commitMulti m = some (s1, c) →
          exec .multiSubmitRetry s = .next ((s1.complete m.queue c).closeBuffers m.queue)) ∧
        (s.commitMulti m = none → ∃ t, exec .multiSubmitRetry s = .next t ∧
          t = { s with r := t.r, multi := some { m with counted := m.counted || s.multiHeld m } })) ∧
      (m.since + 1000000 ≤ s.dtime → exec .multiSubmitRetry s = .next s ∧
        exec .multiSubmitTimeout s = .next (({ s with multi := none }.complete m.queue
          { tag := m.tag, code := 10, kind := 0, value := m.va }).closeBuffers m.queue))))

/-- R168, R169, R185, R223, R261, R264, R301, R303, R305, R319: a write of a device register takes effect when its
value keeps the register's rule, and otherwise changes nothing but DEVERR, which records the offset. The features are
fixed by the first write. REGISTER_WRITE of a doorbell, of a table or of a single register does what that register's
own step does, and one that is misaligned or not the function's is dropped. R169, R223, R303: what a write of a
context block, of a context's partition, of a quota block, of a partition's islands and of a partition's memory needs,
and what it leaves. A context's window stays inside the memory of its partition (the whole memory without one); a
context that is taken from its partition leaves its page requests behind; the quotas of the nine tenants add up to no
more than the device has, and an acceptance quota lies from 1 to 16; no island belongs to two partitions, and none
that holds a core-task moves; the memories of partitions do not meet. -/
def Obligations.DeviceRegisters : Prop :=
  ((∀ (s : State) (v : Word) (i : Instr) (off : Nat) (f : Regs → Option Regs), s.ports.host = true →
      (∃ (n : Fin 128) (w : Fin 6), i = .ctxWrite n w v ∧ off = 0x10000 + 0x40 * n.val + 8 * w.val ∧
        f = fun r => r.writeCtx n.val w.val v) ∨
      (∃ n : Fin 128, i = .ctxpWrite n v ∧ off = 0x10030 + 0x40 * n.val ∧ f = fun r =>
        r.writeCtxp (s.tasks.any (fun e => decide (e.2.ctx = n.val))) n.val v) ∨
      (∃ (n : Fin 9) (w : Fin 3), i = .tqWrite n w v ∧ off = 0x12000 + 0x20 * n.val + 8 * w.val ∧
        f = fun r => r.writeTq n.val w.val v) ∨
      (∃ p : Fin 8, i = .shareWrite p v ∧ off = 0x13000 + 8 * p.val ∧ f = fun r => r.writeShare p.val v) ∨
      (∃ p : Fin 8, i = .partcfgWrite p v ∧ off = 0x13040 + 8 * p.val ∧
        f = fun r => r.writePartcfg s.usedIslands p.val v) ∨
      (∃ p : Fin 8, i = .vpsmapWrite p v ∧ off = 0x13080 + 8 * p.val ∧ f = fun r => r.writeVpsmap p.val v) ∨
      (∃ p : Fin 8, i = .pmaxWrite p v ∧ off = 0x130C0 + 8 * p.val ∧ f = fun r => r.writePmax p.val v) ∨
      (∃ p : Fin 8, i = .pmemWrite p v ∧ off = 0x13180 + 8 * p.val ∧ f = fun r => r.writePmem p.val v) ∨
      (i = .rscarveWrite v ∧ off = 0x13200 ∧ f = fun r => r.writeRscarve (!s.streams.isEmpty) v) →
      (f s.r = none → exec i s = .next { s with r := { s.r with deverr := BitVec.ofNat 64 (2 ^ 63 + off) } }) ∧
      (∀ r, f s.r = some r → exec i s = .next { s with r := r })) ∧
    (∀ (r : Regs) (p : Nat) (v : Word),
      ((r.writeShare p v).isSome ↔
        ((List.range 8).map (fun i => (Tab.get 0 (Tab.set 0 r.share p (v &&& 0x1FF)) i).toNat)).sum ≤ 256) ∧
      (∀ r', r.writeShare p v = some r' → Tab.get 0 r'.share p = v &&& 0x1FF) ∧
      ((r.writePmax p v).isSome ↔ fieldOf v 0 4 ≤ 10 ∧ ∀ n < 8, fieldOf (Tab.get 0 r.vpsmap p) (8 * n + 4) 4 ≤ fieldOf v 0 4) ∧
      ((r.writeVpsmap p v).isSome ↔ ∀ n < 8, fieldOf v (8 * n) 4 ≤ fieldOf v (8 * n + 4) 4 ∧
        fieldOf v (8 * n + 4) 4 ≤ Tab.get 0 r.pmax p) ∧
      (∀ b, (r.writeRscarve b v).isSome ↔ fieldOf v 0 3 < 5 ∧ b = false)) ∧
    (∀ (h l : Option (BitVec 32)) (v : Word) (s : State), s.ports.host = true →
      let w : Word := (h.getD 0) ++ (l.getD 0)
      (s.r.featFixed = true → exec (.featacc0Write h l) s = .next s ∧ exec (.featacc1Write h l) s = .next s) ∧
      (s.r.featFixed = false → h ≠ none ∨ l ≠ none →
        exec (.featacc0Write h l) s = .next { s with r := { s.r with
          featw0 := w &&& Config.featOff0, featFixed := true } }) ∧
      (s.r.featFixed = false → ∃ t, exec (.featacc1Write h l) s = .next t ∧
        t.r.featacc1 = ((h.getD (s.r.featacc1.extractLsb' 32 32)) ++ (l.getD (s.r.featacc1.extractLsb' 0 32))) &&& Config.featOff1 ∧
        t = { s with r := { s.r with featacc1 := t.r.featacc1 } }) ∧
      exec (.lateprqClear v) s = .next { s with r := { s.r with lateprq := if v = 0 then 0 else s.r.lateprq } } ∧
      ∃ t, exec (.deverrClear v) s = .next t ∧ t = { s with r := { s.r with deverr := t.r.deverr } } ∧
        ∀ b < 64, t.r.deverr.getLsbD b = (s.r.deverr.getLsbD b && !(decide (b = 63) && v.getLsbD 63))) ∧
    (∀ (f : Fin 9) (e : Fin 6) (c : Fin 8) (v : Word) (s : State) (x : EncCtx), s.ports.host = true →
      s.presented f.val = true → s.encReach f.val e.val c.val = some x →
      (x.eord ≤ v.toNat → v.toNat ≤ x.eowr → ∃ t, exec (.eordxWrite f e c v) s = .next t ∧
        (find t.encs (8 * e.val + c.val)).map (·.eord) = some v.toNat) ∧
      (v.toNat < x.eord ∨ x.eowr < v.toNat → exec (.eordxWrite f e c v) s = .next s)) ∧
    (∀ (f : Fin 9) (off : BitVec 22) (h l : Option (BitVec 32)) (s : State), s.ports.host = true → h ≠ none ∨ l ≠ none →
      (¬8 ∣ off.toNat ∨ (0x10000 ≤ off.toNat ∧ f ≠ 0) ∨ s.presented f.val = false →
        exec (.registerWrite f off h l) s = .next { s with aer := s.aer + 1 }) ∧
      s.regReadHalf f.val off.toNat =
        (s.regRead f.val (off.toNat / 8 * 8)).extractLsb' (if off.toNat % 8 = 4 then 32 else 0) 32 ∧
      (∀ hi lo : BitVec 32,
        (∀ p : Fin 8, exec (.registerWrite 0 (BitVec.ofNat 22 (0x13000 + 8 * p.val)) (some hi) (some lo)) s =
          exec (.shareWrite p (hi ++ lo)) s) ∧
        exec (.registerWrite 0 0x13310 (some hi) (some lo)) s = exec (.featacc0Write (some hi) (some lo)) s ∧
        (∀ q : Fin 16, exec (.registerWrite 0 (BitVec.ofNat 22 (0x128 + 0x40 * q.val)) none (some lo)) s =
          exec (.cqdbWrite 0 q (lo.setWidth 12)) s)))) ∧
  ((∀ (ctx : Tab Word) (n lo hi : Nat),
      let base := fieldOf (Tab.get 0 ctx (n * 8)) 21 36 * 2 ^ 21
      let len := fieldOf (Tab.get 0 ctx (n * 8 + 1)) 21 36 * 2 ^ 21
      let d := (base + (Tab.get 0 ctx (n * 8 + 2)).toNat) % 2 ^ 64
      windowIn ctx n (lo, hi) = true ↔ len = 0 ∨ (lo ≤ d ∧ d + len ≤ hi)) ∧
    (∀ (r : Regs) (n w : Nat) (v : Word), w < 6 →
      let p := Tab.get 0 r.ctxp n
      let old := Tab.get 0 r.ctx (n * 8 + w)
      let kept := w = 3 ∧ r.featw0.getLsbD 3 = false
      let new : Word := if kept then ((v &&& ctxMask 3) &&& ~~~4#64) ||| (old &&& 4#64) else v &&& ctxMask w
      let m := Tab.get 0 r.pmem (fieldOf p 0 3)
      let range : Nat × Nat := if n ≠ 0 ∧ p.getLsbD 7 = true
        then (fieldOf m 0 17 * 2 ^ 21, (fieldOf m 0 17 + fieldOf m 32 17) * 2 ^ 21) else (0, 0x3000000000)
      (w ≤ 3 → windowIn (Tab.set 0 r.ctx (n * 8 + w) new) n range = false → r.writeCtx n w v = none) ∧
      (3 < w ∨ windowIn (Tab.set 0 r.ctx (n * 8 + w) new) n range = true →
        r.writeCtx n w v = some { r with ctx := Tab.set 0 r.ctx (n * 8 + w) new })) ∧
    (∀ (r : Regs) (busy : Bool) (n : Nat) (v : Word),
      let m := Tab.get 0 r.pmem (fieldOf (v &&& 0x87) 0 3)
      let range : Nat × Nat := (fieldOf m 0 17 * 2 ^ 21, (fieldOf m 0 17 + fieldOf m 32 17) * 2 ^ 21)
      let bad := n = 0 ∨ busy = true ∨ (v.getLsbD 7 = true ∧ windowIn r.ctx n range = false)
      (bad → r.writeCtxp busy n v = none) ∧
      let old := Tab.get 0 r.ctxp n
      let r0 := if old.getLsbD 7 = true ∧ v &&& 0x87 ≠ old then r.orphans n else r
      (¬bad → r.writeCtxp busy n v = some { r0 with ctxp := Tab.set 0 r.ctxp n (v &&& 0x87) }) ∧
      r.orphans n = { r with prq := (r.orphans n).prq } ∧
      (∀ q ∈ (r.orphans n).prq, q.ctx = n → q.sent = true ∧ q.orphan = true) ∧
      ∀ q, q.ctx ≠ n → (q ∈ (r.orphans n).prq ↔ q ∈ r.prq)) ∧
    (∀ (r : Regs) (n : Fin 9) (v : Word),
      let sum (w lo k : Nat) : Nat := ((List.range 9).map (fun m =>
        fieldOf (if m = n.val then v else Tab.get 0 r.tq (m * 4 + w)) lo k)).sum
      ((r.writeTq n.val 0 v).isSome ↔
        sum 0 44 15 ≤ 16384 ∧ sum 0 29 15 ≤ 16384 ∧ sum 0 15 14 ≤ 8192 ∧ sum 0 0 10 ≤ 512) ∧
      ((r.writeTq n.val 1 v).isSome ↔ sum 1 13 13 ≤ 4096 ∧ sum 1 5 7 ≤ 64 ∧ 1 ≤ fieldOf v 0 5 ∧ fieldOf v 0 5 ≤ 16) ∧
      (r.writeTq n.val 2 v).isSome ∧
      ∀ w < 3, ∀ r', r.writeTq n.val w v = some r' →
        let mask : Word := [0x07FFFFFFFFFF83FF, 0x0000000003FFEFFF, 0x00000000FFFFFFFF].getD w 0
        r' = { r with tq := Tab.set 0 r.tq (n.val * 4 + w) (v &&& mask) }) ∧
    (∀ (r : Regs) (used : List Nat) (p : Nat) (v : Word),
      let good := (∀ i < 8, i ≠ p → ∀ b < 32, ¬((Tab.get 0 r.partcfg i).getLsbD b = true ∧ v.getLsbD b = true)) ∧
        ∀ i ∈ used, (Tab.get 0 r.partcfg p).getLsbD i = v.getLsbD i
      (∀ i ∈ used, i < 32) →
      (¬good → r.writePartcfg used p v = none) ∧
      (good → r.writePartcfg used p v = some { r with partcfg := Tab.set 0 r.partcfg p (v &&& 0x1FFFFFFFF) })) ∧
    (∀ (r : Regs) (p : Nat) (v : Word),
      let lo (x : Word) : Nat := fieldOf x 0 17 * 2 ^ 21
      let hi (x : Word) : Nat := (fieldOf x 0 17 + fieldOf x 32 17) * 2 ^ 21
      let good := hi v ≤ 0x3000000000 ∧
        (∀ i < 8, i ≠ p → let o := Tab.get 0 r.pmem i
          hi v ≤ lo o ∨ hi o ≤ lo v ∨ lo v = hi v ∨ lo o = hi o) ∧
        ∀ n < 128, n ≠ 0 → (Tab.get 0 r.ctxp n).getLsbD 7 = true → fieldOf (Tab.get 0 r.ctxp n) 0 3 = p →
          windowIn r.ctx n (lo v, hi v) = true
      (¬good → r.writePmem p v = none) ∧
      (good → r.writePmem p v = some { r with pmem := Tab.set 0 r.pmem p (v &&& 0x0001FFFF0001FFFF) })))

/-- R313: freezing a VF ends its page requests; while it is frozen the front end serves none of its queues, and no
gang of its partition is placed. The acknowledged import relays the held deliveries in their order; each peer's
confirmation is followed by its end marker; at the destination, where the partition's gangs are frozen no longer, each
peer's direct deliveries are held until its marker lets them in. The host takes the state of a frozen VF and moves it
in at the destination, where every gang stands frozen; the exported state has no format in the manual, and the two
turns are the model's (log 32), as is that nothing passes a port that is down (log 33). R19, R191, R195, R196, R299,
R314: a port's training sets whether it is up, and its width and rate; while the host port is down no act of the host
reaches the device, at any time after boot too, which is the model's choice (log 33). A write that comes in over PCIe
changes exactly its bytes; a signal line holds the value it was last raised with. -/
def Obligations.FunctionsMigrateAndPortsCarry : Prop :=
  ((∀ (n : Fin 9) (s : State),
      let part := n.val - 1
      (n.val ≠ 0 → (s.vfMig part).stage ≠ .idle →
        (∀ q : Fin 16, s.mayServe (16 * n.val + q.val) = false) ∧
        (∀ p : Fin 8, p.val = part → exec (.gangPlacement p) s = .next s) ∧
        ∀ t : Task, part ∈ t.parts → s.placeable t = false) ∧
      (n.val = 0 ∨ s.r.featw0.getLsbD 6 = false ∨ s.ports.host = false ∨ (s.vfMig part).stage ≠ .idle →
        exec (.vfFreeze n) s = .next s) ∧
      (n.val ≠ 0 → s.r.featw0.getLsbD 6 = true → s.ports.host = true → (s.vfMig part).stage = .idle →
        (∀ e ∈ s.tasks, e.2.inPart part = false) →
        ∃ t, exec (.vfFreeze n) s = .next t ∧ (t.vfMig part).stage = .frozen ∧ t.tasks = s.tasks ∧
          ∀ q ∈ t.r.prq, s.ctxPart q.ctx ≠ some part) ∧
      (n.val ≠ 0 → s.r.featw0.getLsbD 6 = true → (s.vfMig part).stage = .frozen → s.ports.peer = true →
        ∃ t, exec (.vfImportAck n) s = .next t ∧ t.m.dpa = s.m.dpa ∧ t.m.host = s.m.host ∧
          ((t.vfMig part).stage = .imported ∨ (t.vfMig part).stage = .released) ∧ (t.vfMig part).held = [] ∧
          ((t.vfMig part).stage = .imported → t.tasks = s.tasks) ∧
          t.ports.sent = s.ports.sent ++ (s.vfMig part).held.map (fun d => .relay n.val { d.p with relayed := true })) ∧
      (∀ peer, s.ports.peer = false → exec (.pgtUpdateConfirm n peer) s = .next s) ∧
      (∀ peer, n.val ≠ 0 → s.ports.peer = true → (s.vfMig part).stage = .imported →
        (peer ∈ (s.vfMig part).confirmed → exec (.pgtUpdateConfirm n peer) s = .next s) ∧
        (peer ∉ (s.vfMig part).confirmed → ∃ t, exec (.pgtUpdateConfirm n peer) s = .next t ∧
          t.ports.sent = s.ports.sent ++ [.endMarker n.val peer] ∧
          (t.vfMig part).confirmed = (s.vfMig part).confirmed ++ [peer])) ∧
      (n.val ≠ 0 → s.r.featw0.getLsbD 6 = true → (s.vfMig part).stage = .idle →
        (∀ e ∈ s.streams, e.2.part = part → e.2.evs = []) → ∃ t, exec (.vfImportAck n) s = .next t ∧ t.m.dpa = s.m.dpa ∧
          ∀ slot tk, s.task? slot = some tk → tk.inPart part = true → tk.state = .parked →
            (∀ k ∈ tk.conds, k = .freeze) → (t.task? slot).map (·.state) = some .ready)) ∧
    (∀ (n : Nat) (s : State), n ≠ 0 → s.ports.host = true →
      ((s.vfMig (n - 1)).stage = .frozen → ((s.exportVf n).vfMig (n - 1)).exported = true ∧
        find (s.exportVf n).ports.images n = some (s.vfImage n) ∧ (s.exportVf n).tasks = s.tasks ∧ (s.exportVf n).m = s.m) ∧
      ∀ x : VfImage, (s.vfMig (n - 1)).stage = .idle → s.r.featw0.getLsbD 6 = true → s.vfFits n x = true →
        (x.tasks.map (·.1)).Nodup →
        (∀ slot u, (slot, u) ∈ x.tasks → ∃ v, (s.importVf n x).task? slot = some v ∧ v.id = u.id ∧ v.cts = u.cts ∧
          .freeze ∈ v.conds ∧ v.state ≠ .running) ∧
        (∀ b, b < (s.vfRange n).1 ∨ (s.vfRange n).2 ≤ b →
          Tab.get 0 (s.importVf n x).m.dpa b = Tab.get 0 s.m.dpa b) ∧ (s.importVf n x).m.host = s.m.host) ∧
    (∀ (n : Fin 9) (peer : Nat) (s : State),
      let key := peer * 16 + (n.val - 1)
      (n.val = 0 ∨ s.ports.peer = false → exec (.endMarker ⟨n, peer⟩) s = .next s) ∧
      (n.val ≠ 0 → s.ports.peer = true → exec (.endMarker ⟨n, peer⟩) s =
        .next (((find s.ports.marker key).getD []).foldl (fun s d => s.receive true d)
          { s with ports := { s.ports with marker := Tab.del key s.ports.marker } })))) ∧
  ((∀ (link : Option (Nat × Nat)) (s : State),
      let fits := ∀ x ∈ link, 1 ≤ x.1 ∧ x.1 ≤ 16 ∧ 1 ≤ x.2 ∧ x.2 ≤ 128
      (¬fits → ∀ peer, exec (.portLinkTraining peer link) s = .next s) ∧
      (fits → ∃ t, exec (.portLinkTraining true link) s = .next t ∧ t.ports.peer = link.isSome ∧
        find t.ports.link 1 = link ∧ find t.ports.link 0 = find s.ports.link 0 ∧
        t = { s with ports := { s.ports with peer := link.isSome, link := t.ports.link } }) ∧
      (fits → ∃ t, exec (.portLinkTraining false link) s = .next t ∧ t.ports.host = link.isSome ∧
        find t.ports.link 0 = link ∧ find t.ports.link 1 = find s.ports.link 1 ∧
        t = { s with ports := { s.ports with host := link.isSome, link := t.ports.link } })) ∧
    (∀ (a : Nat) (bs : List Byte) (s : State),
      (dpaTop < a + bs.length → exec (.inboundPcieWrite a false bs) s = .next s) ∧
      (s.ports.host = true → a + bs.length ≤ dpaTop → ∃ t, exec (.inboundPcieWrite a false bs) s = .next t ∧
        t.m.host = s.m.host ∧
        ∀ b, Tab.get 0 t.m.dpa b = if a ≤ b ∧ b < a + bs.length then bs.getD (b - a) 0 else Tab.get 0 s.m.dpa b) ∧
      ∃ t, exec (.inboundPcieWrite a true bs) s = .next t ∧ t.m.dpa = s.m.dpa ∧
        ∀ b, Tab.get 0 t.m.host b = if a ≤ b ∧ b < a + bs.length then bs.getD (b - a) 0 else Tab.get 0 s.m.host b) ∧
    (∀ (line : BitVec 8) (v : Word) (s : State), ∃ t, exec (.signalLineRaise line v) s = .next t ∧
      t = { s with service := { s.service with lines := t.service.lines } } ∧
      ∀ k, Tab.get none t.service.lines k = if k = line.toNat then some v else Tab.get none s.service.lines k) ∧
    (∀ (s : State) (f : Fin 9) (q : Fin 16) (p : Fin 8) (n : Fin 128) (w6 : Fin 6) (t9 : Fin 9) (w3 : Fin 3) (e : Fin 6)
        (c : Fin 8) (idx a : Nat) (code : BitVec 4) (x : BitVec 12) (al : BitVec 32) (v : Word) (off : BitVec 22)
        (h l : Option (BitVec 32)) (bs : List Byte) (i : Instr), s.ports.host = false →
      i ∈ [.pageResponseSuccess idx, .pageResponseInvalid idx code, .pageResponseFailure idx, .latePageResponse,
        .priReenable ⟨f, al⟩, .inv1Go f, .inv2Go, .frelGo, .keyloadGo, .atsInvalidation idx a, .sqdbWrite f q x, .sqdbReset f q,
        .cqdbWrite f q x, .queueEnable f q v, .queueDisable f q, .ctxWrite n w6 v, .ctxpWrite n v, .tqWrite t9 w3 v,
        .shareWrite p v, .partcfgWrite p v, .vpsmapWrite p v, .pmaxWrite p v, .pmemWrite p v, .rscarveWrite v,
        .featacc0Write h l, .featacc1Write h l, .lateprqClear v, .deverrClear v, .eordxWrite f e c v,
        .registerWrite f off h l, .commandFetch, .completionWrite f q, .inboundPcieWrite a false bs,
        .frankingQuotaAddition n v, .vfFreeze f] →
      exec i s = .next s))

/-- R175, R177, R186, R292, R315, R316, R317: a device reset puts the machine into its reset state but for device
time, host memory, the keys' hashes, the fused counter, the error counts and the units that four errors in a day or
the physical function's request disable, of which a channel less is announced by DERATE; key 0 holds the device's key.
BOOTSTAT tells the last stage run and the failed check. Every SPDM request is answered. A change of ownership that is
signed by the current owner zeroes every frame, releases it to key 0, empties the keys 1 to 63 and installs the owner;
recovery is signed by the maker and needs the strap. What a reset leaves alone beside what the rules name is the
model's choice (log 34). -/
def Obligations.ResetBootAndOwnership : Prop :=
  (∀ (images : List BootImage) (strap : Bool) (cl : BitVec 32) (ch : BitVec 24) (s : State),
    ∃ t, exec (.deviceReset images strap cl ch) s = .next t ∧
    t.dtime = s.dtime ∧ t.m = { State.reset.m with host := s.m.host } ∧ t.tasks = [] ∧ t.jobs = [] ∧ t.streams = [] ∧
    t.queues = [] ∧ t.r = { State.reset.r with bootstat := t.r.bootstat } ∧ t.service.owner = s.service.owner ∧
    t.service.maker = s.service.maker ∧ t.service.fused = s.service.fused ∧
    (∀ k, Tab.get [] t.service.keys k = if k = 0 then (List.range 8).map Config.deviceKey else []) ∧
    t.service.strap = strap ∧ t.ports.host = false ∧ t.ports.peer = false ∧
    (∀ i < 32, t.pw.clustersOff.getLsbD i =
      (s.pw.clustersOff.getLsbD i || cl.getLsbD i || fourInDay (Tab.get [] s.pw.clusterErr i))) ∧
    (∀ i < 24, t.pw.channelsOff.getLsbD i =
      (s.pw.channelsOff.getLsbD i || ch.getLsbD i || fourInDay (Tab.get [] s.pw.channelErr i))) ∧
    (t.pw.channelsOff = s.pw.channelsOff → t.irqs = []) ∧
    (t.pw.channelsOff ≠ s.pw.channelsOff → ∀ p < 8, Tab.get 0 s.r.share p ≠ 0 →
      .derate p 256 ((Tab.get 0 s.r.share p).toNat * 256) ∈ t.irqs) ∧
    (∀ (pre post : List BootImage) (x : BootImage), images.take 7 = pre ++ x :: post →
      (∀ y ∈ pre, imageCheck s.service y = 0) → imageCheck s.service x ≠ 0 →
      fieldOf t.r.bootstat 0 4 = pre.length ∧ t.r.bootstat.getLsbD 8 = true ∧
      fieldOf t.r.bootstat 12 4 = imageCheck s.service x ∧ t.service.log = pre.map (·.hash)) ∧
    ((∀ x ∈ images.take 7, imageCheck s.service x = 0) →
      fieldOf t.r.bootstat 0 4 = (images.take 7).length ∧ t.r.bootstat.getLsbD 8 = false ∧
      fieldOf t.r.bootstat 12 4 = 0 ∧ t.service.log = (images.take 7).map (·.hash)) ∧
    fieldOf t.r.bootstat 16 6 = s.service.fused % 64) ∧
  (∀ (x : BootImage) (v : Service),
    let maker := x.makerOk = true ∧ x.maker = v.maker
    let owner := x.ownerOk = true ∧ x.owner = v.owner
    (¬maker → imageCheck v x = 1) ∧ (maker → ¬owner → imageCheck v x = 2) ∧
    (maker → owner → x.version < v.fused → imageCheck v x = 3) ∧
    (maker → owner → v.fused ≤ x.version → imageCheck v x = if x.wellFormed then 0 else 4)) ∧
  (∀ (i : Instr) (s : State), i = .getVersion ∨ i = .getCapabilities ∨ i = .negotiateAlgorithms ∨ i = .getDigests ∨
    i = .getCertificate ∨ i = .challenge ∨ i = .getMeasurements →
    exec i s = .next { s with service := { s.service with spdm := s.service.spdm ++ [Config.spdmReply s.tick] } }) ∧
  (∀ (signer owner : BitVec 256) (i : Instr) (s : State),
    (i = .ownershipTransfer ⟨true, signer⟩ owner ∧ signer = s.service.owner) ∨
    (i = .recoveryCommand ⟨true, signer⟩ owner ∧ signer = s.service.maker ∧ s.service.strap = true) →
    ∃ t, exec i s = .next t ∧ t.service.owner = owner ∧ t.m.host = s.m.host ∧
      (∀ b < dpaTop, Tab.get 0 t.m.dpa b = 0) ∧ (∀ k < dpaTop / 4096, Tab.get 0 t.m.keyTags k = 0) ∧
      Tab.get [] t.service.keys 0 = Tab.get [] s.service.keys 0 ∧ ∀ k, 0 < k → Tab.get [] t.service.keys k = []) ∧
  (∀ (signed : Bool) (signer owner : BitVec 256) (s : State),
    (signed = false ∨ signer ≠ s.service.owner → exec (.ownershipTransfer ⟨signed, signer⟩ owner) s = .next s) ∧
    (signed = false ∨ signer ≠ s.service.maker ∨ s.service.strap = false →
      exec (.recoveryCommand ⟨signed, signer⟩ owner) s = .next s))

end
end

