-- ==== Sys2Proof/Laws/Coding.lean ====
section
/-! SUPPORT. What the decoder reads from the fields that the encoder writes: one lemma per field of a word, and one
per form of a word. -/

namespace Sys2Proof.Laws

/-! SRCB alone (R321) -/

theorem loB_32_8 (b : BitVec 8) :
    bits (b ++ 0#32 : BitVec 40) 32 8 = b :=
  BitVec.extractLsb'_append_eq_left

theorem loB_0_32 (b : BitVec 8) :
    bits (b ++ 0#32 : BitVec 40) 0 32 = 0#32 :=
  BitVec.extractLsb'_append_eq_right

/-! SRCB and SRCC (R352) -/

theorem lo4_32_8 (b : BitVec 8) (c : BitVec 8) :
    bits (b ++ 0#8 ++ c ++ 0#16 : BitVec 40) 32 8 = b :=
  (BitVec.extractLsb'_append_eq_of_le (by decide)).trans ((BitVec.extractLsb'_append_eq_of_le (by decide)).trans BitVec.extractLsb'_append_eq_left)

theorem lo4_24_8 (b : BitVec 8) (c : BitVec 8) :
    bits (b ++ 0#8 ++ c ++ 0#16 : BitVec 40) 24 8 = 0#8 :=
  (BitVec.extractLsb'_append_eq_of_le (by decide)).trans ((BitVec.extractLsb'_append_eq_of_le (by decide)).trans BitVec.extractLsb'_append_eq_right)

theorem lo4_16_8 (b : BitVec 8) (c : BitVec 8) :
    bits (b ++ 0#8 ++ c ++ 0#16 : BitVec 40) 16 8 = c :=
  (BitVec.extractLsb'_append_eq_of_le (by decide)).trans BitVec.extractLsb'_append_eq_right

theorem lo4_0_16 (b : BitVec 8) (c : BitVec 8) :
    bits (b ++ 0#8 ++ c ++ 0#16 : BitVec 40) 0 16 = 0#16 :=
  BitVec.extractLsb'_append_eq_right

/-! A shift count (R362) -/

theorem loShift_6_34 (c : BitVec 6) :
    bits (0#34 ++ c : BitVec 40) 6 34 = 0#34 :=
  BitVec.extractLsb'_append_eq_left

theorem loShift_0_6 (c : BitVec 6) :
    bits (0#34 ++ c : BitVec 40) 0 6 = c :=
  BitVec.extractLsb'_append_eq_right

/-! A 24-bit immediate -/

theorem loLih_24_16 (i : BitVec 24) :
    bits (0#16 ++ i : BitVec 40) 24 16 = 0#16 :=
  BitVec.extractLsb'_append_eq_left

theorem loLih_0_24 (i : BitVec 24) :
    bits (0#16 ++ i : BitVec 40) 0 24 = i :=
  BitVec.extractLsb'_append_eq_right

/-! A bit field (R329) -/

theorem loBf_13_27 (width : BitVec 7) (lsb : BitVec 6) :
    bits (0#27 ++ width ++ lsb : BitVec 40) 13 27 = 0#27 :=
  (BitVec.extractLsb'_append_eq_of_le (by decide)).trans BitVec.extractLsb'_append_eq_left

theorem loBf_6_7 (width : BitVec 7) (lsb : BitVec 6) :
    bits (0#27 ++ width ++ lsb : BitVec 40) 6 7 = width :=
  (BitVec.extractLsb'_append_eq_of_le (by decide)).trans BitVec.extractLsb'_append_eq_right

theorem loBf_0_6 (width : BitVec 7) (lsb : BitVec 6) :
    bits (0#27 ++ width ++ lsb : BitVec 40) 0 6 = lsb :=
  BitVec.extractLsb'_append_eq_right

/-! A token word (R375) -/

theorem loTk_10_30 (q : BitVec 2) (n : BitVec 8) :
    bits (0#30 ++ q ++ n : BitVec 40) 10 30 = 0#30 :=
  (BitVec.extractLsb'_append_eq_of_le (by decide)).trans BitVec.extractLsb'_append_eq_left

theorem loTk_8_2 (q : BitVec 2) (n : BitVec 8) :
    bits (0#30 ++ q ++ n : BitVec 40) 8 2 = q :=
  (BitVec.extractLsb'_append_eq_of_le (by decide)).trans BitVec.extractLsb'_append_eq_right

theorem loTk_0_8 (q : BitVec 2) (n : BitVec 8) :
    bits (0#30 ++ q ++ n : BitVec 40) 0 8 = n :=
  BitVec.extractLsb'_append_eq_right

/-! JTBL -/

theorem loJtbl_2_38 (n : BitVec 2) :
    bits (0#38 ++ n : BitVec 40) 2 38 = 0#38 :=
  BitVec.extractLsb'_append_eq_left

theorem loJtbl_0_2 (n : BitVec 2) :
    bits (0#38 ++ n : BitVec 40) 0 2 = n :=
  BitVec.extractLsb'_append_eq_right

/-! A 16-bit constant -/

theorem lo16_16_24 (l : BitVec 16) :
    bits (0#24 ++ l : BitVec 40) 16 24 = 0#24 :=
  BitVec.extractLsb'_append_eq_left

theorem lo16_0_16 (l : BitVec 16) :
    bits (0#24 ++ l : BitVec 40) 0 16 = l :=
  BitVec.extractLsb'_append_eq_right

/-! LOOP with a register -/

theorem loLoopReg_20_20 (e : BitVec 20) :
    bits (0#20 ++ e : BitVec 40) 20 20 = 0#20 :=
  BitVec.extractLsb'_append_eq_left

theorem loLoopReg_0_20 (e : BitVec 20) :
    bits (0#20 ++ e : BitVec 40) 0 20 = e :=
  BitVec.extractLsb'_append_eq_right

/-! LOOP with a constant -/

theorem loLoopImm_20_20 (c : BitVec 20) (e : BitVec 20) :
    bits (c ++ e : BitVec 40) 20 20 = c :=
  BitVec.extractLsb'_append_eq_left

theorem loLoopImm_0_20 (c : BitVec 20) (e : BitVec 20) :
    bits (c ++ e : BitVec 40) 0 20 = e :=
  BitVec.extractLsb'_append_eq_right

/-! FORK -/

theorem loFork_34_6 (q : BitVec 2) (t : BitVec 32) :
    bits (0#6 ++ q ++ t : BitVec 40) 34 6 = 0#6 :=
  (BitVec.extractLsb'_append_eq_of_le (by decide)).trans BitVec.extractLsb'_append_eq_left

theorem loFork_32_2 (q : BitVec 2) (t : BitVec 32) :
    bits (0#6 ++ q ++ t : BitVec 40) 32 2 = q :=
  (BitVec.extractLsb'_append_eq_of_le (by decide)).trans BitVec.extractLsb'_append_eq_right

theorem loFork_0_32 (q : BitVec 2) (t : BitVec 32) :
    bits (0#6 ++ q ++ t : BitVec 40) 0 32 = t :=
  BitVec.extractLsb'_append_eq_right

/-! RDV, SLOAD and SSTORE -/

theorem loRdv_4_36 (m : BitVec 4) :
    bits (0#36 ++ m : BitVec 40) 4 36 = 0#36 :=
  BitVec.extractLsb'_append_eq_left

theorem loRdv_0_4 (m : BitVec 4) :
    bits (0#36 ++ m : BitVec 40) 0 4 = m :=
  BitVec.extractLsb'_append_eq_right

/-! AGSET and AGGET -/

theorem loAg_6_34 (w : BitVec 2) (g : BitVec 4) :
    bits (0#34 ++ w ++ g : BitVec 40) 6 34 = 0#34 :=
  (BitVec.extractLsb'_append_eq_of_le (by decide)).trans BitVec.extractLsb'_append_eq_left

theorem loAg_4_2 (w : BitVec 2) (g : BitVec 4) :
    bits (0#34 ++ w ++ g : BitVec 40) 4 2 = w :=
  (BitVec.extractLsb'_append_eq_of_le (by decide)).trans BitVec.extractLsb'_append_eq_right

theorem loAg_0_4 (w : BitVec 2) (g : BitVec 4) :
    bits (0#34 ++ w ++ g : BitVec 40) 0 4 = g :=
  BitVec.extractLsb'_append_eq_right

/-! SADV -/

theorem loSadv_4_36 (n : BitVec 36) (g : BitVec 4) :
    bits (n ++ g : BitVec 40) 4 36 = n :=
  BitVec.extractLsb'_append_eq_left

theorem loSadv_0_4 (n : BitVec 36) (g : BitVec 4) :
    bits (n ++ g : BitVec 40) 0 4 = g :=
  BitVec.extractLsb'_append_eq_right

/-! Format V (R78) -/

theorem loV_32_8 (srcb : BitVec 8) (sa : BitVec 1) (sb : BitVec 1) (mod : BitVec 4) (ring : BitVec 2) (imm : BitVec 24) :
    bits (srcb ++ sa ++ sb ++ mod ++ ring ++ imm : BitVec 40) 32 8 = srcb :=
  (BitVec.extractLsb'_append_eq_of_le (by decide)).trans ((BitVec.extractLsb'_append_eq_of_le (by decide)).trans ((BitVec.extractLsb'_append_eq_of_le (by decide)).trans ((BitVec.extractLsb'_append_eq_of_le (by decide)).trans BitVec.extractLsb'_append_eq_left)))

theorem loV_31_1 (srcb : BitVec 8) (sa : BitVec 1) (sb : BitVec 1) (mod : BitVec 4) (ring : BitVec 2) (imm : BitVec 24) :
    bits (srcb ++ sa ++ sb ++ mod ++ ring ++ imm : BitVec 40) 31 1 = sa :=
  (BitVec.extractLsb'_append_eq_of_le (by decide)).trans ((BitVec.extractLsb'_append_eq_of_le (by decide)).trans ((BitVec.extractLsb'_append_eq_of_le (by decide)).trans ((BitVec.extractLsb'_append_eq_of_le (by decide)).trans BitVec.extractLsb'_append_eq_right)))

theorem loV_30_1 (srcb : BitVec 8) (sa : BitVec 1) (sb : BitVec 1) (mod : BitVec 4) (ring : BitVec 2) (imm : BitVec 24) :
    bits (srcb ++ sa ++ sb ++ mod ++ ring ++ imm : BitVec 40) 30 1 = sb :=
  (BitVec.extractLsb'_append_eq_of_le (by decide)).trans ((BitVec.extractLsb'_append_eq_of_le (by decide)).trans ((BitVec.extractLsb'_append_eq_of_le (by decide)).trans BitVec.extractLsb'_append_eq_right))

theorem loV_26_4 (srcb : BitVec 8) (sa : BitVec 1) (sb : BitVec 1) (mod : BitVec 4) (ring : BitVec 2) (imm : BitVec 24) :
    bits (srcb ++ sa ++ sb ++ mod ++ ring ++ imm : BitVec 40) 26 4 = mod :=
  (BitVec.extractLsb'_append_eq_of_le (by decide)).trans ((BitVec.extractLsb'_append_eq_of_le (by decide)).trans BitVec.extractLsb'_append_eq_right)

theorem loV_24_2 (srcb : BitVec 8) (sa : BitVec 1) (sb : BitVec 1) (mod : BitVec 4) (ring : BitVec 2) (imm : BitVec 24) :
    bits (srcb ++ sa ++ sb ++ mod ++ ring ++ imm : BitVec 40) 24 2 = ring :=
  (BitVec.extractLsb'_append_eq_of_le (by decide)).trans BitVec.extractLsb'_append_eq_right

theorem loV_0_24 (srcb : BitVec 8) (sa : BitVec 1) (sb : BitVec 1) (mod : BitVec 4) (ring : BitVec 2) (imm : BitVec 24) :
    bits (srcb ++ sa ++ sb ++ mod ++ ring ++ imm : BitVec 40) 0 24 = imm :=
  BitVec.extractLsb'_append_eq_right

/-! TSHGET -/

theorem loTshget_32_8 (s : BitVec 1) :
    bits (0#8 ++ s ++ 0#31 : BitVec 40) 32 8 = 0#8 :=
  (BitVec.extractLsb'_append_eq_of_le (by decide)).trans BitVec.extractLsb'_append_eq_left

theorem loTshget_31_1 (s : BitVec 1) :
    bits (0#8 ++ s ++ 0#31 : BitVec 40) 31 1 = s :=
  (BitVec.extractLsb'_append_eq_of_le (by decide)).trans BitVec.extractLsb'_append_eq_right

theorem loTshget_0_31 (s : BitVec 1) :
    bits (0#8 ++ s ++ 0#31 : BitVec 40) 0 31 = 0#31 :=
  BitVec.extractLsb'_append_eq_right

/-! A semaphore word (R364) -/

theorem loSem_32_8 (s : BitVec 8) (n : BitVec 16) :
    bits (s ++ 0#16 ++ n : BitVec 40) 32 8 = s :=
  (BitVec.extractLsb'_append_eq_of_le (by decide)).trans BitVec.extractLsb'_append_eq_left

theorem loSem_16_16 (s : BitVec 8) (n : BitVec 16) :
    bits (s ++ 0#16 ++ n : BitVec 40) 16 16 = 0#16 :=
  (BitVec.extractLsb'_append_eq_of_le (by decide)).trans BitVec.extractLsb'_append_eq_right

theorem loSem_0_16 (s : BitVec 8) (n : BitVec 16) :
    bits (s ++ 0#16 ++ n : BitVec 40) 0 16 = n :=
  BitVec.extractLsb'_append_eq_right

/-! BAREXP (R326) -/

theorem loBar_34_6 (b : BitVec 6) (n : BitVec 34) :
    bits (b ++ n : BitVec 40) 34 6 = b :=
  BitVec.extractLsb'_append_eq_left

theorem loBar_0_34 (b : BitVec 6) (n : BitVec 34) :
    bits (b ++ n : BitVec 40) 0 34 = n :=
  BitVec.extractLsb'_append_eq_right

/-! BARWAIT and BARTEST (R326) -/

theorem loBarP_34_6 (b : BitVec 6) (p : BitVec 1) :
    bits (b ++ 0#33 ++ p : BitVec 40) 34 6 = b :=
  (BitVec.extractLsb'_append_eq_of_le (by decide)).trans BitVec.extractLsb'_append_eq_left

theorem loBarP_1_33 (b : BitVec 6) (p : BitVec 1) :
    bits (b ++ 0#33 ++ p : BitVec 40) 1 33 = 0#33 :=
  (BitVec.extractLsb'_append_eq_of_le (by decide)).trans BitVec.extractLsb'_append_eq_right

theorem loBarP_0_1 (b : BitVec 6) (p : BitVec 1) :
    bits (b ++ 0#33 ++ p : BitVec 40) 0 1 = p :=
  BitVec.extractLsb'_append_eq_right

/-! A special register (R337) -/

theorem loCsr_12_28 (c : BitVec 12) :
    bits (0#28 ++ c : BitVec 40) 12 28 = 0#28 :=
  BitVec.extractLsb'_append_eq_left

theorem loCsr_0_12 (c : BitVec 12) :
    bits (0#28 ++ c : BitVec 40) 0 12 = c :=
  BitVec.extractLsb'_append_eq_right

/-! PWRACQ -/

theorem loPwr_3_37 (l : BitVec 3) :
    bits (0#37 ++ l : BitVec 40) 3 37 = 0#37 :=
  BitVec.extractLsb'_append_eq_left

theorem loPwr_0_3 (l : BitVec 3) :
    bits (0#37 ++ l : BitVec 40) 0 3 = l :=
  BitVec.extractLsb'_append_eq_right

/-! IMM24 of three sources -/

theorem imm3_16_8 (c : BitVec 8) (lf : BitVec 2) :
    bits (c ++ 0#14 ++ lf : BitVec 24) 16 8 = c :=
  (BitVec.extractLsb'_append_eq_of_le (by decide)).trans BitVec.extractLsb'_append_eq_left

theorem imm3_2_14 (c : BitVec 8) (lf : BitVec 2) :
    bits (c ++ 0#14 ++ lf : BitVec 24) 2 14 = 0#14 :=
  (BitVec.extractLsb'_append_eq_of_le (by decide)).trans BitVec.extractLsb'_append_eq_right

theorem imm3_0_2 (c : BitVec 8) (lf : BitVec 2) :
    bits (c ++ 0#14 ++ lf : BitVec 24) 0 2 = lf :=
  BitVec.extractLsb'_append_eq_right

/-! IMM24 of VBCAST -/

theorem immBcast_14_10 (row : BitVec 6) (col : BitVec 6) :
    bits (0#10 ++ row ++ 0#2 ++ col : BitVec 24) 14 10 = 0#10 :=
  (BitVec.extractLsb'_append_eq_of_le (by decide)).trans ((BitVec.extractLsb'_append_eq_of_le (by decide)).trans BitVec.extractLsb'_append_eq_left)

theorem immBcast_8_6 (row : BitVec 6) (col : BitVec 6) :
    bits (0#10 ++ row ++ 0#2 ++ col : BitVec 24) 8 6 = row :=
  (BitVec.extractLsb'_append_eq_of_le (by decide)).trans ((BitVec.extractLsb'_append_eq_of_le (by decide)).trans BitVec.extractLsb'_append_eq_right)

theorem immBcast_6_2 (row : BitVec 6) (col : BitVec 6) :
    bits (0#10 ++ row ++ 0#2 ++ col : BitVec 24) 6 2 = 0#2 :=
  (BitVec.extractLsb'_append_eq_of_le (by decide)).trans BitVec.extractLsb'_append_eq_right

theorem immBcast_0_6 (row : BitVec 6) (col : BitVec 6) :
    bits (0#10 ++ row ++ 0#2 ++ col : BitVec 24) 0 6 = col :=
  BitVec.extractLsb'_append_eq_right

/-! IMM24 of VQNT -/

theorem immQnt_1_23 (k : BitVec 1) :
    bits (0#23 ++ k : BitVec 24) 1 23 = 0#23 :=
  BitVec.extractLsb'_append_eq_left

theorem immQnt_0_1 (k : BitVec 1) :
    bits (0#23 ++ k : BitVec 24) 0 1 = k :=
  BitVec.extractLsb'_append_eq_right

/-! IMM24 of VLUT and CBLD -/

theorem immCb_3_21 (cb : BitVec 3) :
    bits (0#21 ++ cb : BitVec 24) 3 21 = 0#21 :=
  BitVec.extractLsb'_append_eq_left

theorem immCb_0_3 (cb : BitVec 3) :
    bits (0#21 ++ cb : BitVec 24) 0 3 = cb :=
  BitVec.extractLsb'_append_eq_right

/-! IMM24 of ATCAS -/

theorem immCas_16_8 (c : BitVec 8) :
    bits (c ++ 0#16 : BitVec 24) 16 8 = c :=
  BitVec.extractLsb'_append_eq_left

theorem immCas_0_16 (c : BitVec 8) :
    bits (c ++ 0#16 : BitVec 24) 0 16 = 0#16 :=
  BitVec.extractLsb'_append_eq_right

/-! IMM24 of ACCT -/

theorem immAcct_20_4 (a : BitVec 4) (r : BitVec 7) (c : BitVec 7) :
    bits (a ++ r ++ c ++ 0#6 : BitVec 24) 20 4 = a :=
  (BitVec.extractLsb'_append_eq_of_le (by decide)).trans ((BitVec.extractLsb'_append_eq_of_le (by decide)).trans BitVec.extractLsb'_append_eq_left)

theorem immAcct_13_7 (a : BitVec 4) (r : BitVec 7) (c : BitVec 7) :
    bits (a ++ r ++ c ++ 0#6 : BitVec 24) 13 7 = r :=
  (BitVec.extractLsb'_append_eq_of_le (by decide)).trans ((BitVec.extractLsb'_append_eq_of_le (by decide)).trans BitVec.extractLsb'_append_eq_right)

theorem immAcct_6_7 (a : BitVec 4) (r : BitVec 7) (c : BitVec 7) :
    bits (a ++ r ++ c ++ 0#6 : BitVec 24) 6 7 = c :=
  (BitVec.extractLsb'_append_eq_of_le (by decide)).trans BitVec.extractLsb'_append_eq_right

theorem immAcct_0_6 (a : BitVec 4) (r : BitVec 7) (c : BitVec 7) :
    bits (a ++ r ++ c ++ 0#6 : BitVec 24) 0 6 = 0#6 :=
  BitVec.extractLsb'_append_eq_right

/-! IMM24 of WAITA -/

theorem immWaita_16_8 (v : BitVec 8) (t : BitVec 8) :
    bits (v ++ t ++ 0#8 : BitVec 24) 16 8 = v :=
  (BitVec.extractLsb'_append_eq_of_le (by decide)).trans BitVec.extractLsb'_append_eq_left

theorem immWaita_8_8 (v : BitVec 8) (t : BitVec 8) :
    bits (v ++ t ++ 0#8 : BitVec 24) 8 8 = t :=
  (BitVec.extractLsb'_append_eq_of_le (by decide)).trans BitVec.extractLsb'_append_eq_right

theorem immWaita_0_8 (v : BitVec 8) (t : BitVec 8) :
    bits (v ++ t ++ 0#8 : BitVec 24) 0 8 = 0#8 :=
  BitVec.extractLsb'_append_eq_right

/-! IMM24 of EQPUSH -/

theorem immEq_21_3 (q : BitVec 3) (fs : BitVec 1) (pl : BitVec 2) (yb : BitVec 6) (bx : BitVec 6) :
    bits (q ++ fs ++ pl ++ yb ++ bx ++ 0#6 : BitVec 24) 21 3 = q :=
  (BitVec.extractLsb'_append_eq_of_le (by decide)).trans ((BitVec.extractLsb'_append_eq_of_le (by decide)).trans ((BitVec.extractLsb'_append_eq_of_le (by decide)).trans ((BitVec.extractLsb'_append_eq_of_le (by decide)).trans BitVec.extractLsb'_append_eq_left)))

theorem immEq_20_1 (q : BitVec 3) (fs : BitVec 1) (pl : BitVec 2) (yb : BitVec 6) (bx : BitVec 6) :
    bits (q ++ fs ++ pl ++ yb ++ bx ++ 0#6 : BitVec 24) 20 1 = fs :=
  (BitVec.extractLsb'_append_eq_of_le (by decide)).trans ((BitVec.extractLsb'_append_eq_of_le (by decide)).trans ((BitVec.extractLsb'_append_eq_of_le (by decide)).trans ((BitVec.extractLsb'_append_eq_of_le (by decide)).trans BitVec.extractLsb'_append_eq_right)))

theorem immEq_18_2 (q : BitVec 3) (fs : BitVec 1) (pl : BitVec 2) (yb : BitVec 6) (bx : BitVec 6) :
    bits (q ++ fs ++ pl ++ yb ++ bx ++ 0#6 : BitVec 24) 18 2 = pl :=
  (BitVec.extractLsb'_append_eq_of_le (by decide)).trans ((BitVec.extractLsb'_append_eq_of_le (by decide)).trans ((BitVec.extractLsb'_append_eq_of_le (by decide)).trans BitVec.extractLsb'_append_eq_right))

theorem immEq_12_6 (q : BitVec 3) (fs : BitVec 1) (pl : BitVec 2) (yb : BitVec 6) (bx : BitVec 6) :
    bits (q ++ fs ++ pl ++ yb ++ bx ++ 0#6 : BitVec 24) 12 6 = yb :=
  (BitVec.extractLsb'_append_eq_of_le (by decide)).trans ((BitVec.extractLsb'_append_eq_of_le (by decide)).trans BitVec.extractLsb'_append_eq_right)

theorem immEq_6_6 (q : BitVec 3) (fs : BitVec 1) (pl : BitVec 2) (yb : BitVec 6) (bx : BitVec 6) :
    bits (q ++ fs ++ pl ++ yb ++ bx ++ 0#6 : BitVec 24) 6 6 = bx :=
  (BitVec.extractLsb'_append_eq_of_le (by decide)).trans BitVec.extractLsb'_append_eq_right

theorem immEq_0_6 (q : BitVec 3) (fs : BitVec 1) (pl : BitVec 2) (yb : BitVec 6) (bx : BitVec 6) :
    bits (q ++ fs ++ pl ++ yb ++ bx ++ 0#6 : BitVec 24) 0 6 = 0#6 :=
  BitVec.extractLsb'_append_eq_right

/-! MOD of a vector word (R82) -/

theorem modV_3_1 (s : BitVec 1) (r : BitVec 3) :
    bits (s ++ r : BitVec 4) 3 1 = s :=
  BitVec.extractLsb'_append_eq_left

theorem modV_0_3 (s : BitVec 1) (r : BitVec 3) :
    bits (s ++ r : BitVec 4) 0 3 = r :=
  BitVec.extractLsb'_append_eq_right

/-! MOD of an atomic word (R206) -/

theorem modAtom_2_2 (acq : BitVec 1) (rel : BitVec 1) :
    bits (0#2 ++ acq ++ rel : BitVec 4) 2 2 = 0#2 :=
  (BitVec.extractLsb'_append_eq_of_le (by decide)).trans BitVec.extractLsb'_append_eq_left

theorem modAtom_1_1 (acq : BitVec 1) (rel : BitVec 1) :
    bits (0#2 ++ acq ++ rel : BitVec 4) 1 1 = acq :=
  (BitVec.extractLsb'_append_eq_of_le (by decide)).trans BitVec.extractLsb'_append_eq_right

theorem modAtom_0_1 (acq : BitVec 1) (rel : BitVec 1) :
    bits (0#2 ++ acq ++ rel : BitVec 4) 0 1 = rel :=
  BitVec.extractLsb'_append_eq_right

/-! MOD of WAITA (R220) -/

theorem modWaita_2_2 (acq : BitVec 1) :
    bits (0#2 ++ acq ++ 0#1 : BitVec 4) 2 2 = 0#2 :=
  (BitVec.extractLsb'_append_eq_of_le (by decide)).trans BitVec.extractLsb'_append_eq_left

theorem modWaita_1_1 (acq : BitVec 1) :
    bits (0#2 ++ acq ++ 0#1 : BitVec 4) 1 1 = acq :=
  (BitVec.extractLsb'_append_eq_of_le (by decide)).trans BitVec.extractLsb'_append_eq_right

theorem modWaita_0_1 (acq : BitVec 1) :
    bits (0#2 ++ acq ++ 0#1 : BitVec 4) 0 1 = 0#1 :=
  BitVec.extractLsb'_append_eq_right

/-! A matrix multiply (R141) -/

theorem plMx_44_4 (acc : BitVec 4) (ta : BitVec 6) (tb : BitVec 6) (z : BitVec 1) (rs : BitVec 1) (rep : BitVec 4) (cb : BitVec 3) (mdq : BitVec 1) (spn : BitVec 3) :
    bits (acc ++ ta ++ tb ++ z ++ rs ++ rep ++ cb ++ mdq ++ spn ++ 0#19 : BitVec 48) 44 4 = acc :=
  (BitVec.extractLsb'_append_eq_of_le (by decide)).trans ((BitVec.extractLsb'_append_eq_of_le (by decide)).trans ((BitVec.extractLsb'_append_eq_of_le (by decide)).trans ((BitVec.extractLsb'_append_eq_of_le (by decide)).trans ((BitVec.extractLsb'_append_eq_of_le (by decide)).trans ((BitVec.extractLsb'_append_eq_of_le (by decide)).trans ((BitVec.extractLsb'_append_eq_of_le (by decide)).trans ((BitVec.extractLsb'_append_eq_of_le (by decide)).trans BitVec.extractLsb'_append_eq_left)))))))

theorem plMx_38_6 (acc : BitVec 4) (ta : BitVec 6) (tb : BitVec 6) (z : BitVec 1) (rs : BitVec 1) (rep : BitVec 4) (cb : BitVec 3) (mdq : BitVec 1) (spn : BitVec 3) :
    bits (acc ++ ta ++ tb ++ z ++ rs ++ rep ++ cb ++ mdq ++ spn ++ 0#19 : BitVec 48) 38 6 = ta :=
  (BitVec.extractLsb'_append_eq_of_le (by decide)).trans ((BitVec.extractLsb'_append_eq_of_le (by decide)).trans ((BitVec.extractLsb'_append_eq_of_le (by decide)).trans ((BitVec.extractLsb'_append_eq_of_le (by decide)).trans ((BitVec.extractLsb'_append_eq_of_le (by decide)).trans ((BitVec.extractLsb'_append_eq_of_le (by decide)).trans ((BitVec.extractLsb'_append_eq_of_le (by decide)).trans ((BitVec.extractLsb'_append_eq_of_le (by decide)).trans BitVec.extractLsb'_append_eq_right)))))))

theorem plMx_32_6 (acc : BitVec 4) (ta : BitVec 6) (tb : BitVec 6) (z : BitVec 1) (rs : BitVec 1) (rep : BitVec 4) (cb : BitVec 3) (mdq : BitVec 1) (spn : BitVec 3) :
    bits (acc ++ ta ++ tb ++ z ++ rs ++ rep ++ cb ++ mdq ++ spn ++ 0#19 : BitVec 48) 32 6 = tb :=
  (BitVec.extractLsb'_append_eq_of_le (by decide)).trans ((BitVec.extractLsb'_append_eq_of_le (by decide)).trans ((BitVec.extractLsb'_append_eq_of_le (by decide)).trans ((BitVec.extractLsb'_append_eq_of_le (by decide)).trans ((BitVec.extractLsb'_append_eq_of_le (by decide)).trans ((BitVec.extractLsb'_append_eq_of_le (by decide)).trans ((BitVec.extractLsb'_append_eq_of_le (by decide)).trans BitVec.extractLsb'_append_eq_right))))))

theorem plMx_31_1 (acc : BitVec 4) (ta : BitVec 6) (tb : BitVec 6) (z : BitVec 1) (rs : BitVec 1) (rep : BitVec 4) (cb : BitVec 3) (mdq : BitVec 1) (spn : BitVec 3) :
    bits (acc ++ ta ++ tb ++ z ++ rs ++ rep ++ cb ++ mdq ++ spn ++ 0#19 : BitVec 48) 31 1 = z :=
  (BitVec.extractLsb'_append_eq_of_le (by decide)).trans ((BitVec.extractLsb'_append_eq_of_le (by decide)).trans ((BitVec.extractLsb'_append_eq_of_le (by decide)).trans ((BitVec.extractLsb'_append_eq_of_le (by decide)).trans ((BitVec.extractLsb'_append_eq_of_le (by decide)).trans ((BitVec.extractLsb'_append_eq_of_le (by decide)).trans BitVec.extractLsb'_append_eq_right)))))

theorem plMx_30_1 (acc : BitVec 4) (ta : BitVec 6) (tb : BitVec 6) (z : BitVec 1) (rs : BitVec 1) (rep : BitVec 4) (cb : BitVec 3) (mdq : BitVec 1) (spn : BitVec 3) :
    bits (acc ++ ta ++ tb ++ z ++ rs ++ rep ++ cb ++ mdq ++ spn ++ 0#19 : BitVec 48) 30 1 = rs :=
  (BitVec.extractLsb'_append_eq_of_le (by decide)).trans ((BitVec.extractLsb'_append_eq_of_le (by decide)).trans ((BitVec.extractLsb'_append_eq_of_le (by decide)).trans ((BitVec.extractLsb'_append_eq_of_le (by decide)).trans ((BitVec.extractLsb'_append_eq_of_le (by decide)).trans BitVec.extractLsb'_append_eq_right))))

theorem plMx_26_4 (acc : BitVec 4) (ta : BitVec 6) (tb : BitVec 6) (z : BitVec 1) (rs : BitVec 1) (rep : BitVec 4) (cb : BitVec 3) (mdq : BitVec 1) (spn : BitVec 3) :
    bits (acc ++ ta ++ tb ++ z ++ rs ++ rep ++ cb ++ mdq ++ spn ++ 0#19 : BitVec 48) 26 4 = rep :=
  (BitVec.extractLsb'_append_eq_of_le (by decide)).trans ((BitVec.extractLsb'_append_eq_of_le (by decide)).trans ((BitVec.extractLsb'_append_eq_of_le (by decide)).trans ((BitVec.extractLsb'_append_eq_of_le (by decide)).trans BitVec.extractLsb'_append_eq_right)))

theorem plMx_23_3 (acc : BitVec 4) (ta : BitVec 6) (tb : BitVec 6) (z : BitVec 1) (rs : BitVec 1) (rep : BitVec 4) (cb : BitVec 3) (mdq : BitVec 1) (spn : BitVec 3) :
    bits (acc ++ ta ++ tb ++ z ++ rs ++ rep ++ cb ++ mdq ++ spn ++ 0#19 : BitVec 48) 23 3 = cb :=
  (BitVec.extractLsb'_append_eq_of_le (by decide)).trans ((BitVec.extractLsb'_append_eq_of_le (by decide)).trans ((BitVec.extractLsb'_append_eq_of_le (by decide)).trans BitVec.extractLsb'_append_eq_right))

theorem plMx_22_1 (acc : BitVec 4) (ta : BitVec 6) (tb : BitVec 6) (z : BitVec 1) (rs : BitVec 1) (rep : BitVec 4) (cb : BitVec 3) (mdq : BitVec 1) (spn : BitVec 3) :
    bits (acc ++ ta ++ tb ++ z ++ rs ++ rep ++ cb ++ mdq ++ spn ++ 0#19 : BitVec 48) 22 1 = mdq :=
  (BitVec.extractLsb'_append_eq_of_le (by decide)).trans ((BitVec.extractLsb'_append_eq_of_le (by decide)).trans BitVec.extractLsb'_append_eq_right)

theorem plMx_19_3 (acc : BitVec 4) (ta : BitVec 6) (tb : BitVec 6) (z : BitVec 1) (rs : BitVec 1) (rep : BitVec 4) (cb : BitVec 3) (mdq : BitVec 1) (spn : BitVec 3) :
    bits (acc ++ ta ++ tb ++ z ++ rs ++ rep ++ cb ++ mdq ++ spn ++ 0#19 : BitVec 48) 19 3 = spn :=
  (BitVec.extractLsb'_append_eq_of_le (by decide)).trans BitVec.extractLsb'_append_eq_right

theorem plMx_0_19 (acc : BitVec 4) (ta : BitVec 6) (tb : BitVec 6) (z : BitVec 1) (rs : BitVec 1) (rep : BitVec 4) (cb : BitVec 3) (mdq : BitVec 1) (spn : BitVec 3) :
    bits (acc ++ ta ++ tb ++ z ++ rs ++ rep ++ cb ++ mdq ++ spn ++ 0#19 : BitVec 48) 0 19 = 0#19 :=
  BitVec.extractLsb'_append_eq_right

/-! MXZERO -/

theorem plZero_44_4 (acc : BitVec 4) (i : BitVec 1) :
    bits (acc ++ i ++ 0#43 : BitVec 48) 44 4 = acc :=
  (BitVec.extractLsb'_append_eq_of_le (by decide)).trans BitVec.extractLsb'_append_eq_left

theorem plZero_43_1 (acc : BitVec 4) (i : BitVec 1) :
    bits (acc ++ i ++ 0#43 : BitVec 48) 43 1 = i :=
  (BitVec.extractLsb'_append_eq_of_le (by decide)).trans BitVec.extractLsb'_append_eq_right

theorem plZero_0_43 (acc : BitVec 4) (i : BitVec 1) :
    bits (acc ++ i ++ 0#43 : BitVec 48) 0 43 = 0#43 :=
  BitVec.extractLsb'_append_eq_right

/-! MXWR -/

theorem plWr_44_4 (acc : BitVec 4) (t : BitVec 6) :
    bits (acc ++ t ++ 0#38 : BitVec 48) 44 4 = acc :=
  (BitVec.extractLsb'_append_eq_of_le (by decide)).trans BitVec.extractLsb'_append_eq_left

theorem plWr_38_6 (acc : BitVec 4) (t : BitVec 6) :
    bits (acc ++ t ++ 0#38 : BitVec 48) 38 6 = t :=
  (BitVec.extractLsb'_append_eq_of_le (by decide)).trans BitVec.extractLsb'_append_eq_right

theorem plWr_0_38 (acc : BitVec 4) (t : BitVec 6) :
    bits (acc ++ t ++ 0#38 : BitVec 48) 0 38 = 0#38 :=
  BitVec.extractLsb'_append_eq_right

/-! MXRD and MXEPI -/

theorem plWin_44_4 (acc : BitVec 4) (t : BitVec 6) (rows : BitVec 7) (cols : BitVec 7) (low : BitVec 24) :
    bits (acc ++ t ++ rows ++ cols ++ low : BitVec 48) 44 4 = acc :=
  (BitVec.extractLsb'_append_eq_of_le (by decide)).trans ((BitVec.extractLsb'_append_eq_of_le (by decide)).trans ((BitVec.extractLsb'_append_eq_of_le (by decide)).trans BitVec.extractLsb'_append_eq_left))

theorem plWin_38_6 (acc : BitVec 4) (t : BitVec 6) (rows : BitVec 7) (cols : BitVec 7) (low : BitVec 24) :
    bits (acc ++ t ++ rows ++ cols ++ low : BitVec 48) 38 6 = t :=
  (BitVec.extractLsb'_append_eq_of_le (by decide)).trans ((BitVec.extractLsb'_append_eq_of_le (by decide)).trans ((BitVec.extractLsb'_append_eq_of_le (by decide)).trans BitVec.extractLsb'_append_eq_right))

theorem plWin_31_7 (acc : BitVec 4) (t : BitVec 6) (rows : BitVec 7) (cols : BitVec 7) (low : BitVec 24) :
    bits (acc ++ t ++ rows ++ cols ++ low : BitVec 48) 31 7 = rows :=
  (BitVec.extractLsb'_append_eq_of_le (by decide)).trans ((BitVec.extractLsb'_append_eq_of_le (by decide)).trans BitVec.extractLsb'_append_eq_right)

theorem plWin_24_7 (acc : BitVec 4) (t : BitVec 6) (rows : BitVec 7) (cols : BitVec 7) (low : BitVec 24) :
    bits (acc ++ t ++ rows ++ cols ++ low : BitVec 48) 24 7 = cols :=
  (BitVec.extractLsb'_append_eq_of_le (by decide)).trans BitVec.extractLsb'_append_eq_right

theorem plWin_0_24 (acc : BitVec 4) (t : BitVec 6) (rows : BitVec 7) (cols : BitVec 7) (low : BitVec 24) :
    bits (acc ++ t ++ rows ++ cols ++ low : BitVec 48) 0 24 = low :=
  BitVec.extractLsb'_append_eq_right

theorem plWin_0_21 (acc : BitVec 4) (t : BitVec 6) (rows : BitVec 7) (cols : BitVec 7) (low : BitVec 24) :
    bits (acc ++ t ++ rows ++ cols ++ low : BitVec 48) 0 21 = bits low 0 21 :=
  BitVec.extractLsb'_append_eq_of_add_le (by decide)

theorem plWin_22_2 (acc : BitVec 4) (t : BitVec 6) (rows : BitVec 7) (cols : BitVec 7) (low : BitVec 24) :
    bits (acc ++ t ++ rows ++ cols ++ low : BitVec 48) 22 2 = bits low 22 2 :=
  BitVec.extractLsb'_append_eq_of_add_le (by decide)

theorem plWin_21_1 (acc : BitVec 4) (t : BitVec 6) (rows : BitVec 7) (cols : BitVec 7) (low : BitVec 24) :
    bits (acc ++ t ++ rows ++ cols ++ low : BitVec 48) 21 1 = bits low 21 1 :=
  BitVec.extractLsb'_append_eq_of_add_le (by decide)

/-! The low bits of MXRD -/

theorem lowRd_22_2 (r : BitVec 2) (s : BitVec 1) :
    bits (r ++ s ++ 0#21 : BitVec 24) 22 2 = r :=
  (BitVec.extractLsb'_append_eq_of_le (by decide)).trans BitVec.extractLsb'_append_eq_left

theorem lowRd_21_1 (r : BitVec 2) (s : BitVec 1) :
    bits (r ++ s ++ 0#21 : BitVec 24) 21 1 = s :=
  (BitVec.extractLsb'_append_eq_of_le (by decide)).trans BitVec.extractLsb'_append_eq_right

theorem lowRd_0_21 (r : BitVec 2) (s : BitVec 1) :
    bits (r ++ s ++ 0#21 : BitVec 24) 0 21 = 0#21 :=
  BitVec.extractLsb'_append_eq_right

/-! A copy (R332) -/

theorem plCp_43_5 (rd : BitVec 5) (rs : BitVec 5) (rl : BitVec 5) (rg : BitVec 5) (bar : BitVec 7) (low : BitVec 21) :
    bits (rd ++ rs ++ rl ++ rg ++ bar ++ low : BitVec 48) 43 5 = rd :=
  (BitVec.extractLsb'_append_eq_of_le (by decide)).trans ((BitVec.extractLsb'_append_eq_of_le (by decide)).trans ((BitVec.extractLsb'_append_eq_of_le (by decide)).trans ((BitVec.extractLsb'_append_eq_of_le (by decide)).trans BitVec.extractLsb'_append_eq_left)))

theorem plCp_38_5 (rd : BitVec 5) (rs : BitVec 5) (rl : BitVec 5) (rg : BitVec 5) (bar : BitVec 7) (low : BitVec 21) :
    bits (rd ++ rs ++ rl ++ rg ++ bar ++ low : BitVec 48) 38 5 = rs :=
  (BitVec.extractLsb'_append_eq_of_le (by decide)).trans ((BitVec.extractLsb'_append_eq_of_le (by decide)).trans ((BitVec.extractLsb'_append_eq_of_le (by decide)).trans ((BitVec.extractLsb'_append_eq_of_le (by decide)).trans BitVec.extractLsb'_append_eq_right)))

theorem plCp_33_5 (rd : BitVec 5) (rs : BitVec 5) (rl : BitVec 5) (rg : BitVec 5) (bar : BitVec 7) (low : BitVec 21) :
    bits (rd ++ rs ++ rl ++ rg ++ bar ++ low : BitVec 48) 33 5 = rl :=
  (BitVec.extractLsb'_append_eq_of_le (by decide)).trans ((BitVec.extractLsb'_append_eq_of_le (by decide)).trans ((BitVec.extractLsb'_append_eq_of_le (by decide)).trans BitVec.extractLsb'_append_eq_right))

theorem plCp_28_5 (rd : BitVec 5) (rs : BitVec 5) (rl : BitVec 5) (rg : BitVec 5) (bar : BitVec 7) (low : BitVec 21) :
    bits (rd ++ rs ++ rl ++ rg ++ bar ++ low : BitVec 48) 28 5 = rg :=
  (BitVec.extractLsb'_append_eq_of_le (by decide)).trans ((BitVec.extractLsb'_append_eq_of_le (by decide)).trans BitVec.extractLsb'_append_eq_right)

theorem plCp_21_7 (rd : BitVec 5) (rs : BitVec 5) (rl : BitVec 5) (rg : BitVec 5) (bar : BitVec 7) (low : BitVec 21) :
    bits (rd ++ rs ++ rl ++ rg ++ bar ++ low : BitVec 48) 21 7 = bar :=
  (BitVec.extractLsb'_append_eq_of_le (by decide)).trans BitVec.extractLsb'_append_eq_right

theorem plCp_0_21 (rd : BitVec 5) (rs : BitVec 5) (rl : BitVec 5) (rg : BitVec 5) (bar : BitVec 7) (low : BitVec 21) :
    bits (rd ++ rs ++ rl ++ rg ++ bar ++ low : BitVec 48) 0 21 = low :=
  BitVec.extractLsb'_append_eq_right

theorem plCp_27_1 (rd : BitVec 5) (rs : BitVec 5) (rl : BitVec 5) (rg : BitVec 5) (bar : BitVec 7) (low : BitVec 21) :
    bits (rd ++ rs ++ rl ++ rg ++ bar ++ low : BitVec 48) 27 1 = bits bar 6 1 :=
  (BitVec.extractLsb'_append_eq_of_le (by decide)).trans (BitVec.extractLsb'_append_eq_of_add_le (by decide))

theorem plCp_21_6 (rd : BitVec 5) (rs : BitVec 5) (rl : BitVec 5) (rg : BitVec 5) (bar : BitVec 7) (low : BitVec 21) :
    bits (rd ++ rs ++ rl ++ rg ++ bar ++ low : BitVec 48) 21 6 = bits bar 0 6 :=
  (BitVec.extractLsb'_append_eq_of_le (by decide)).trans (BitVec.extractLsb'_append_eq_of_add_le (by decide))

theorem plCp_0_17 (rd : BitVec 5) (rs : BitVec 5) (rl : BitVec 5) (rg : BitVec 5) (bar : BitVec 7) (low : BitVec 21) :
    bits (rd ++ rs ++ rl ++ rg ++ bar ++ low : BitVec 48) 0 17 = bits low 0 17 :=
  BitVec.extractLsb'_append_eq_of_add_le (by decide)

theorem plCp_17_4 (rd : BitVec 5) (rs : BitVec 5) (rl : BitVec 5) (rg : BitVec 5) (bar : BitVec 7) (low : BitVec 21) :
    bits (rd ++ rs ++ rl ++ rg ++ bar ++ low : BitVec 48) 17 4 = bits low 17 4 :=
  BitVec.extractLsb'_append_eq_of_add_le (by decide)

theorem plCp_0_1 (rd : BitVec 5) (rs : BitVec 5) (rl : BitVec 5) (rg : BitVec 5) (bar : BitVec 7) (low : BitVec 21) :
    bits (rd ++ rs ++ rl ++ rg ++ bar ++ low : BitVec 48) 0 1 = bits low 0 1 :=
  BitVec.extractLsb'_append_eq_of_add_le (by decide)

theorem plCp_1_16 (rd : BitVec 5) (rs : BitVec 5) (rl : BitVec 5) (rg : BitVec 5) (bar : BitVec 7) (low : BitVec 21) :
    bits (rd ++ rs ++ rl ++ rg ++ bar ++ low : BitVec 48) 1 16 = bits low 1 16 :=
  BitVec.extractLsb'_append_eq_of_add_le (by decide)

theorem plCp_0_13 (rd : BitVec 5) (rs : BitVec 5) (rl : BitVec 5) (rg : BitVec 5) (bar : BitVec 7) (low : BitVec 21) :
    bits (rd ++ rs ++ rl ++ rg ++ bar ++ low : BitVec 48) 0 13 = bits low 0 13 :=
  BitVec.extractLsb'_append_eq_of_add_le (by decide)

theorem plCp_20_1 (rd : BitVec 5) (rs : BitVec 5) (rl : BitVec 5) (rg : BitVec 5) (bar : BitVec 7) (low : BitVec 21) :
    bits (rd ++ rs ++ rl ++ rg ++ bar ++ low : BitVec 48) 20 1 = bits low 20 1 :=
  BitVec.extractLsb'_append_eq_of_add_le (by decide)

theorem plCp_13_7 (rd : BitVec 5) (rs : BitVec 5) (rl : BitVec 5) (rg : BitVec 5) (bar : BitVec 7) (low : BitVec 21) :
    bits (rd ++ rs ++ rl ++ rg ++ bar ++ low : BitVec 48) 13 7 = bits low 13 7 :=
  BitVec.extractLsb'_append_eq_of_add_le (by decide)

/-! The low bits of CPL2L -/

theorem lowL2l_17_4 (r : BitVec 4) :
    bits (r ++ 0#17 : BitVec 21) 17 4 = r :=
  BitVec.extractLsb'_append_eq_left

theorem lowL2l_0_17 (r : BitVec 4) :
    bits (r ++ 0#17 : BitVec 21) 0 17 = 0#17 :=
  BitVec.extractLsb'_append_eq_right

/-! The low bits of CPBC -/

theorem lowBc_17_4 (m : BitVec 16) :
    bits (0#4 ++ m ++ 0#1 : BitVec 21) 17 4 = 0#4 :=
  (BitVec.extractLsb'_append_eq_of_le (by decide)).trans BitVec.extractLsb'_append_eq_left

theorem lowBc_1_16 (m : BitVec 16) :
    bits (0#4 ++ m ++ 0#1 : BitVec 21) 1 16 = m :=
  (BitVec.extractLsb'_append_eq_of_le (by decide)).trans BitVec.extractLsb'_append_eq_right

theorem lowBc_0_1 (m : BitVec 16) :
    bits (0#4 ++ m ++ 0#1 : BitVec 21) 0 1 = 0#1 :=
  BitVec.extractLsb'_append_eq_right

/-! The low bits of CPMETA -/

theorem lowMeta_20_1 (m : BitVec 1) (c : BitVec 7) :
    bits (m ++ c ++ 0#13 : BitVec 21) 20 1 = m :=
  (BitVec.extractLsb'_append_eq_of_le (by decide)).trans BitVec.extractLsb'_append_eq_left

theorem lowMeta_13_7 (m : BitVec 1) (c : BitVec 7) :
    bits (m ++ c ++ 0#13 : BitVec 21) 13 7 = c :=
  (BitVec.extractLsb'_append_eq_of_le (by decide)).trans BitVec.extractLsb'_append_eq_right

theorem lowMeta_0_13 (m : BitVec 1) (c : BitVec 7) :
    bits (m ++ c ++ 0#13 : BitVec 21) 0 13 = 0#13 :=
  BitVec.extractLsb'_append_eq_right

/-! BE and BAR -/

theorem barSome_6_1 (be : BitVec 1) (b : BitVec 6) :
    bits (be ++ b : BitVec 7) 6 1 = be :=
  BitVec.extractLsb'_append_eq_left

theorem barSome_0_6 (be : BitVec 1) (b : BitVec 6) :
    bits (be ++ b : BitVec 7) 0 6 = b :=
  BitVec.extractLsb'_append_eq_right

/-! A Xumak word (R314) -/

theorem xumak_25_7 (b : BitVec 5) (a : BitVec 5) (f : BitVec 3) (d : BitVec 5) (o : BitVec 7) :
    bits (0#7 ++ b ++ a ++ f ++ d ++ o : BitVec 32) 25 7 = 0#7 :=
  (BitVec.extractLsb'_append_eq_of_le (by decide)).trans ((BitVec.extractLsb'_append_eq_of_le (by decide)).trans ((BitVec.extractLsb'_append_eq_of_le (by decide)).trans ((BitVec.extractLsb'_append_eq_of_le (by decide)).trans BitVec.extractLsb'_append_eq_left)))

theorem xumak_20_5 (b : BitVec 5) (a : BitVec 5) (f : BitVec 3) (d : BitVec 5) (o : BitVec 7) :
    bits (0#7 ++ b ++ a ++ f ++ d ++ o : BitVec 32) 20 5 = b :=
  (BitVec.extractLsb'_append_eq_of_le (by decide)).trans ((BitVec.extractLsb'_append_eq_of_le (by decide)).trans ((BitVec.extractLsb'_append_eq_of_le (by decide)).trans ((BitVec.extractLsb'_append_eq_of_le (by decide)).trans BitVec.extractLsb'_append_eq_right)))

theorem xumak_15_5 (b : BitVec 5) (a : BitVec 5) (f : BitVec 3) (d : BitVec 5) (o : BitVec 7) :
    bits (0#7 ++ b ++ a ++ f ++ d ++ o : BitVec 32) 15 5 = a :=
  (BitVec.extractLsb'_append_eq_of_le (by decide)).trans ((BitVec.extractLsb'_append_eq_of_le (by decide)).trans ((BitVec.extractLsb'_append_eq_of_le (by decide)).trans BitVec.extractLsb'_append_eq_right))

theorem xumak_12_3 (b : BitVec 5) (a : BitVec 5) (f : BitVec 3) (d : BitVec 5) (o : BitVec 7) :
    bits (0#7 ++ b ++ a ++ f ++ d ++ o : BitVec 32) 12 3 = f :=
  (BitVec.extractLsb'_append_eq_of_le (by decide)).trans ((BitVec.extractLsb'_append_eq_of_le (by decide)).trans BitVec.extractLsb'_append_eq_right)

theorem xumak_7_5 (b : BitVec 5) (a : BitVec 5) (f : BitVec 3) (d : BitVec 5) (o : BitVec 7) :
    bits (0#7 ++ b ++ a ++ f ++ d ++ o : BitVec 32) 7 5 = d :=
  (BitVec.extractLsb'_append_eq_of_le (by decide)).trans BitVec.extractLsb'_append_eq_right

theorem xumak_0_7 (b : BitVec 5) (a : BitVec 5) (f : BitVec 3) (d : BitVec 5) (o : BitVec 7) :
    bits (0#7 ++ b ++ a ++ f ++ d ++ o : BitVec 32) 0 7 = o :=
  BitVec.extractLsb'_append_eq_right

/-! A whole word (R78) -/

theorem wordFields_71_9 (opc : BitVec 9) (pd : BitVec 3) (al : BitVec 4) (k : BitVec 8) (d : BitVec 8) (a : BitVec 8) (lo : BitVec 40) :
    bits (opc ++ pd ++ al ++ k ++ d ++ a ++ lo : BitVec 80) 71 9 = opc :=
  (BitVec.extractLsb'_append_eq_of_le (by decide)).trans ((BitVec.extractLsb'_append_eq_of_le (by decide)).trans ((BitVec.extractLsb'_append_eq_of_le (by decide)).trans ((BitVec.extractLsb'_append_eq_of_le (by decide)).trans ((BitVec.extractLsb'_append_eq_of_le (by decide)).trans BitVec.extractLsb'_append_eq_left))))

theorem wordFields_68_3 (opc : BitVec 9) (pd : BitVec 3) (al : BitVec 4) (k : BitVec 8) (d : BitVec 8) (a : BitVec 8) (lo : BitVec 40) :
    bits (opc ++ pd ++ al ++ k ++ d ++ a ++ lo : BitVec 80) 68 3 = pd :=
  (BitVec.extractLsb'_append_eq_of_le (by decide)).trans ((BitVec.extractLsb'_append_eq_of_le (by decide)).trans ((BitVec.extractLsb'_append_eq_of_le (by decide)).trans ((BitVec.extractLsb'_append_eq_of_le (by decide)).trans ((BitVec.extractLsb'_append_eq_of_le (by decide)).trans BitVec.extractLsb'_append_eq_right))))

theorem wordFields_64_4 (opc : BitVec 9) (pd : BitVec 3) (al : BitVec 4) (k : BitVec 8) (d : BitVec 8) (a : BitVec 8) (lo : BitVec 40) :
    bits (opc ++ pd ++ al ++ k ++ d ++ a ++ lo : BitVec 80) 64 4 = al :=
  (BitVec.extractLsb'_append_eq_of_le (by decide)).trans ((BitVec.extractLsb'_append_eq_of_le (by decide)).trans ((BitVec.extractLsb'_append_eq_of_le (by decide)).trans ((BitVec.extractLsb'_append_eq_of_le (by decide)).trans BitVec.extractLsb'_append_eq_right)))

theorem wordFields_56_8 (opc : BitVec 9) (pd : BitVec 3) (al : BitVec 4) (k : BitVec 8) (d : BitVec 8) (a : BitVec 8) (lo : BitVec 40) :
    bits (opc ++ pd ++ al ++ k ++ d ++ a ++ lo : BitVec 80) 56 8 = k :=
  (BitVec.extractLsb'_append_eq_of_le (by decide)).trans ((BitVec.extractLsb'_append_eq_of_le (by decide)).trans ((BitVec.extractLsb'_append_eq_of_le (by decide)).trans BitVec.extractLsb'_append_eq_right))

theorem wordFields_48_8 (opc : BitVec 9) (pd : BitVec 3) (al : BitVec 4) (k : BitVec 8) (d : BitVec 8) (a : BitVec 8) (lo : BitVec 40) :
    bits (opc ++ pd ++ al ++ k ++ d ++ a ++ lo : BitVec 80) 48 8 = d :=
  (BitVec.extractLsb'_append_eq_of_le (by decide)).trans ((BitVec.extractLsb'_append_eq_of_le (by decide)).trans BitVec.extractLsb'_append_eq_right)

theorem wordFields_40_8 (opc : BitVec 9) (pd : BitVec 3) (al : BitVec 4) (k : BitVec 8) (d : BitVec 8) (a : BitVec 8) (lo : BitVec 40) :
    bits (opc ++ pd ++ al ++ k ++ d ++ a ++ lo : BitVec 80) 40 8 = a :=
  (BitVec.extractLsb'_append_eq_of_le (by decide)).trans BitVec.extractLsb'_append_eq_right

theorem wordFields_0_40 (opc : BitVec 9) (pd : BitVec 3) (al : BitVec 4) (k : BitVec 8) (d : BitVec 8) (a : BitVec 8) (lo : BitVec 40) :
    bits (opc ++ pd ++ al ++ k ++ d ++ a ++ lo : BitVec 80) 0 40 = lo :=
  BitVec.extractLsb'_append_eq_right

/-! ### Fields -/

theorem Fields_unpack_pack (f : Fields) : Fields.unpack f.pack = f := by
  simp only [Fields.unpack, Fields.pack, wordFields_71_9, wordFields_68_3, wordFields_64_4, wordFields_56_8,
    wordFields_48_8, wordFields_40_8, wordFields_0_40]

theorem VLow_unpack_pack (v : VLow) : VLow.unpack v.pack = v := by
  simp only [VLow.unpack, VLow.pack, loV_32_8, loV_31_1, loV_30_1, loV_26_4, loV_24_2, loV_0_24]

theorem payload_encE (opc : BitVec 9) (k s : BitVec 8) (p : BitVec 48) : (encE opc k s p).payload = p := by
  simp only [Fields.payload, encE]
  exact BitVec.extractLsb'_append_extractLsb'_eq_extractLsb' (by decide) |>.trans BitVec.extractLsb'_eq_self

theorem bitCode_false : bitCode false = 0#1 := rfl

theorem bitOf_bitCode (b : Bool) : bitOf (bitCode b) = b := by cases b <;> rfl

theorem gOf_gCode (g : GReg) : gOf (gCode g) = some g := by revert g; decide

theorem gCode_ne_zero (g : GReg) : gCode g ≠ 0#8 := by revert g; decide

theorem tOf_tCode (t : TReg) : tOf (tCode t) = some t := by revert t; decide

theorem srcOf_tCode (t : TReg) : srcOf (tCode t) = some (.tile t) := by revert t; decide

theorem srcOf_lq (q : Fin 8) : srcOf (BitVec.ofNat 8 (0x30 + q.val)) = some (.lq q) := by revert q; decide

theorem srcAOf_ring (d : Fin 7) : srcAOf (BitVec.ofNat 3 (d.val + 1)) 0 = some (.ring d) := by revert d; decide

theorem srcOf_srcCode {y : VSrc} (h : y.direct = true) : srcOf (srcCode y) = some y := by
  cases y with
  | tile t => exact srcOf_tCode t
  | lq q => exact srcOf_lq q
  | ring d => cases h

theorem srcAOf_code (y : VSrc) : srcAOf (pdCode y) (srcCode y) = some y := by
  cases y with
  | tile t => exact srcOf_tCode t
  | lq q => exact srcOf_lq q
  | ring d => exact srcAOf_ring d

theorem dstOf_tile (t : TReg) (r : Bool) : dstOf (if r then 1 else 0) (tCode t) = some (.tile t, r) := by
  revert t; cases r <;> decide

theorem dstOf_sq (q : Fin 4) (r : Bool) :
    dstOf (if r then 1 else 0) (BitVec.ofNat 8 (0x38 + q.val)) = some (.sq q, r) := by
  revert q; cases r <;> decide

theorem dstOf_code {w : VWord} {e : Bool} {m : ModUse} (h : w.ok e m = true) :
    dstOf (ringCode w.dst w.ring) (dstCode w.dst) = some (w.dst, w.ring) := by
  obtain ⟨k, al, dst, r, a, sa, rnd, sat⟩ := w
  cases dst with
  | tile t => exact dstOf_tile t r
  | sq q => exact dstOf_sq q r
  | ring => simp [VWord.ok] at h; simp [ringCode, dstCode, dstOf, h]

theorem allocOf_allocCode (t : Option Tag) : allocOf (allocCode t) = some t := by
  revert t; decide

theorem rndOf_rndCode (r : Rnd) : rndOf (rndCode r) = some r := by cases r <;> rfl

theorem rndOf_low (r : Rnd) : rndOf (0#1 ++ bits (rndCode r) 0 2) = some r := by cases r <;> rfl

theorem seqOf_seqCode (q : SeqId) : seqOf (seqCode q) = q := by cases q <;> rfl

theorem operandOf_code {n : Nat} (o : Operand n) : operandOf o.code o.value = some o := by
  cases o with
  | imm v => simp [operandOf, Operand.code, Operand.value]
  | reg g => simp [operandOf, Operand.code, Operand.value, gCode_ne_zero, check, gOf_gCode]

theorem barOf_barCode (b : Option (Fin 64)) : barOf (bits (barCode b) 6 1) (bits (barCode b) 0 6) = some b := by
  cases b with
  | none => decide
  | some b => simp only [barCode, barSome_6_1, barSome_0_6, barOf]; simp

/-! ### The forms of a word -/

/-- What the decoder of an opcode answers for a well-formed instruction is the decoding. -/
theorem decodeFields_of {f : Fields} {i : Instr} (opc : BitVec 9) (d : Fields → Option Instr)
    (h : opcodeDecoder opc = some d) (e : d f = some i) (w : i.wf = true) (o : f.opc = opc := by rfl) :
    decodeFields f = some i := by
  simp [decodeFields, o, h, e, check, w]

theorem r3_form (mk : BitVec 8 → GReg → GReg → GReg → Instr) (opc k d a b) :
    decR3 mk (encR3 opc k d a b) = some (mk k d a b) := by
  simp [decR3, encR3, loB, enc, check, loB_0_32, loB_32_8, gOf_gCode]

theorem r3t_form (mk : BitVec 8 → Option Tag → GReg → GReg → GReg → Instr) (opc k t d a b) :
    decR3T mk (enc opc (allocCode t) k (gCode d) (gCode a) (loB (gCode b))) = some (mk k t d a b) := by
  simp [decR3T, loB, enc, check, loB_0_32, loB_32_8, gOf_gCode, allocOf_allocCode]

theorem r2_form (mk : BitVec 8 → GReg → GReg → Instr) (opc k d a) :
    decR2 mk (enc opc 0 k (gCode d) (gCode a) 0) = some (mk k d a) := by
  simp [decR2, enc, check, gOf_gCode]

theorem r4_form (mk : BitVec 8 → GReg → GReg → GReg → GReg → Instr) (opc k d a b c) :
    decR4 mk (encR4 opc k d a b c) = some (mk k d a b c) := by
  simp [decR4, encR4, enc, check, lo4_0_16, lo4_24_8, lo4_16_8, lo4_32_8, gOf_gCode]

theorem imm_form (mk : BitVec 8 → GReg → GReg → BitVec 40 → Instr) (opc k d a i) :
    decI mk (encI opc k d a i) = some (mk k d a i) := by
  simp [decI, encI, enc, check, gOf_gCode]

theorem bc_form (mk : BitVec 8 → GReg → GReg → BitVec 40 → Instr) (opc k a b o) :
    decBc mk (encI opc k a b o) = some (mk k a b o) := by
  simp [decBc, encI, enc, check, gOf_gCode]

theorem br_form (mk : BitVec 8 → BitVec 40 → Instr) (opc k o) :
    decBr mk (enc opc 0 k 0 0 o) = some (mk k o) := by
  simp [decBr, enc, check]

theorem shift_form (mk : BitVec 8 → GReg → GReg → BitVec 6 → Instr) (opc k d a c) :
    decSh mk (encI opc k d a ((0 : BitVec 34) ++ c)) = some (mk k d a c) := by
  simp [decSh, encI, enc, check, loShift_0_6, loShift_6_34, gOf_gCode]

theorem bf_form (mk : BitVec 8 → GReg → GReg → BitVec 6 → BitVec 7 → Instr) (opc k d a l w) :
    decBf mk (encBf opc k d a l w) = some (mk k d a l w) := by
  simp [decBf, encBf, enc, check, loBf_0_6, loBf_6_7, loBf_13_27, gOf_gCode]

theorem k_form (mk : BitVec 8 → Instr) (opc k) : decK mk (encK opc k) = some (mk k) := by
  simp [decK, encK, enc, check]

theorem d_form (mk : BitVec 8 → GReg → Instr) (opc k d) :
    decD mk (enc opc 0 k (gCode d) 0 0) = some (mk k d) := by
  simp [decD, enc, check, gOf_gCode]

theorem a_form (mk : BitVec 8 → GReg → Instr) (opc k a) :
    decA mk (enc opc 0 k 0 (gCode a) 0) = some (mk k a) := by
  simp [decA, enc, check, gOf_gCode]

theorem ab_form (mk : BitVec 8 → GReg → GReg → Instr) (opc k a b) :
    decAB mk (enc opc 0 k 0 (gCode a) (loB (gCode b))) = some (mk k a b) := by
  simp [decAB, loB, enc, check, loB_0_32, loB_32_8, gOf_gCode]

theorem tk_form (mk : BitVec 8 → SeqId → Operand 8 → Instr) (opc k q n) :
    decTk mk (encTk opc k q n) = some (mk k q n) := by
  simp [decTk, encTk, enc, check, loTk_10_30, loTk_8_2, loTk_0_8, seqOf_seqCode, operandOf_code]

theorem ld_form (mk : BitVec 8 → Option Tag → LoadSize → GReg → GReg → BitVec 40 → Instr) (opc k t sz d a o) :
    decLd mk sz (enc opc (allocCode t) k (gCode d) (gCode a) o) = some (mk k t sz d a o) := by
  simp [decLd, enc, check, gOf_gCode, allocOf_allocCode]

theorem st_form (mk : BitVec 8 → StoreSize → GReg → GReg → BitVec 40 → Instr) (opc k sz v a o) :
    decSt mk sz (enc opc 0 k (gCode v) (gCode a) o) = some (mk k sz v a o) := by
  simp [decSt, enc, check, gOf_gCode]

theorem ag_form (mk : BitVec 8 → Fin 16 → Instr) (opc k g) :
    decAg mk (enc opc 0 k 0 0 ((0 : BitVec 36) ++ (BitVec.ofFin g : BitVec 4))) = some (mk k g) := by
  simp [decAg, enc, check, loRdv_0_4, loRdv_4_36]

theorem v_form (opc) {w : VWord} {e : Bool} {m : ModUse} (h : w.ok e m = true) (srcb st imm) :
    decVWord (encV opc w srcb st imm) = some (w,
      ⟨srcb, bitCode w.strictA, bitCode st, bitCode w.sat ++ rndCode w.rnd, ringCode w.dst w.ring, imm⟩) := by
  simp [decVWord, encV, VLow_unpack_pack, dstOf_code h, allocOf_allocCode, srcAOf_code, bitOf_bitCode, modV_0_3,
    modV_3_1, rndOf_rndCode]

theorem v1_form (mk : VWord → Instr) (opc) {w : VWord} {e : Bool} {m : ModUse} (h : w.ok e m = true) :
    decV1 mk (encV opc w 0 false 0) = some (mk w) := by
  simp [decV1, v_form opc h, check, bitCode]

theorem v2_form (mk : VWord → VSrc → Bool → Instr) (opc) {w : VWord} {b : VSrc} {e : Bool} {m : ModUse}
    (h : (w.ok e m && b.direct) = true) (st) : decV2 mk (encV2 opc w b st) = some (mk w b st) := by
  simp only [Bool.and_eq_true] at h
  simp [decV2, encV2, v_form opc h.1, check, bitOf_bitCode, srcOf_srcCode h.2]

theorem v3_form (mk : VWord → VSrc → Bool → VSrc → Instr) (opc) {w : VWord} {b c : VSrc} {e : Bool} {m : ModUse}
    (h : (w.ok e m && b.direct && c.direct) = true) (st) : decV3 mk (encV3 opc w b st c 0) = some (mk w b st c) := by
  simp only [Bool.and_eq_true] at h
  have z : bits (srcCode c ++ 0#14 ++ 0#2 : BitVec 24) 0 16 = 0#16 := by
    rw [BitVec.append_assoc]; exact BitVec.extractLsb'_append_eq_right
  simp [decV3, encV3, v_form opc h.1.1, check, bitOf_bitCode, srcOf_srcCode h.1.2, srcOf_srcCode h.2, imm3_16_8, z]

theorem vfma_form (mk : VWord → BitVec 2 → VSrc → Bool → VSrc → Instr) (opc) {w : VWord} {b c : VSrc} {e : Bool}
    {m : ModUse} (h : (w.ok e m && b.direct && c.direct) = true) (st lf) :
    decVFma mk (encV3 opc w b st c lf) = some (mk w lf b st c) := by
  simp only [Bool.and_eq_true] at h
  simp [decVFma, encV3, v_form opc h.1.1, check, bitOf_bitCode, srcOf_srcCode h.1.2, srcOf_srcCode h.2, imm3_16_8,
    imm3_2_14, imm3_0_2]

theorem vs_form (mk : VWord → GReg → Instr) (opc) {w : VWord} {e : Bool} {m : ModUse} (h : w.ok e m = true) (g) :
    decVs mk (encVs opc w g) = some (mk w g) := by
  simp [decVs, encVs, v_form opc h, check, gOf_gCode, bitCode]

theorem vfmaFs_form (opc) {w : VWord} {c : VSrc} {e : Bool} {m : ModUse} (h : (w.ok e m && c.direct) = true) (lf g) :
    decVFmaFs (encV opc w (gCode g) false (srcCode c ++ (0 : BitVec 14) ++ lf)) = some (.vfmaFs w lf g c) := by
  simp only [Bool.and_eq_true] at h
  simp [decVFmaFs, v_form opc h.1, check, gOf_gCode, bitCode, srcOf_srcCode h.2, imm3_16_8, imm3_2_14, imm3_0_2]

theorem vbcast_form (opc) {w : VWord} {e : Bool} {m : ModUse} (h : w.ok e m = true) (row col) :
    decVBcast (encV opc w 0 false ((0 : BitVec 10) ++ row ++ (0 : BitVec 2) ++ col)) = some (.vbcast w row col) := by
  simp [decVBcast, v_form opc h, check, bitCode, immBcast_14_10, immBcast_8_6, immBcast_6_2, immBcast_0_6]

theorem vfill_form (opc k d ring g) :
    decVFill { opc := opc, pd := 0, alloc := 0, cons := k, dst := tCode d, srca := 0,
               lo := VLow.pack { srcb := gCode g, strictA := 0, strictB := 0, mod := 0,
                                 ring := if ring then 1 else 0, imm := 0 } } = some (.vfill k d ring g) := by
  simp [decVFill, VLow_unpack_pack, check, gOf_gCode, tOf_tCode]

theorem vqnt_form (fm opc) {w : VWord} {e : Bool} {m : ModUse} (h : w.ok e m = true) (keep) :
    decVQnt fm (encV opc w 0 false ((0 : BitVec 23) ++ bitCode keep)) = some (.vqnt w fm keep) := by
  simp [decVQnt, v_form opc h, check, immQnt_1_23, immQnt_0_1, bitOf_bitCode, bitCode_false]

theorem vlut_form (f16 opc) {w : VWord} {e : Bool} {m : ModUse} (h : w.ok e m = true) (cb : Fin 8) :
    decVLut f16 (encV opc w 0 false ((0 : BitVec 21) ++ (BitVec.ofFin cb : BitVec 3))) = some (.vlut w f16 cb) := by
  simp only [decVLut, v_form opc h, Option.bind_eq_bind, Option.bind_some]
  simp [check, immCb_3_21, immCb_0_3, bitCode]

theorem cbld_form (opc k a sa) (cb : Fin 8) :
    decCbld { opc := opc, pd := pdCode a, alloc := 0, cons := k, dst := 0, srca := srcCode a,
              lo := VLow.pack { srcb := 0, strictA := bitCode sa, strictB := 0, mod := 0, ring := 0,
                                imm := (0 : BitVec 21) ++ (BitVec.ofFin cb : BitVec 3) } } = some (.cbld k a sa cb) := by
  simp [decCbld, VLow_unpack_pack, check, immCb_3_21, immCb_0_3, srcAOf_code, bitOf_bitCode]

theorem tshape_form (opc k d a) : decTshape (enc opc 0 k (tCode d) (gCode a) 0) = some (.tshape k d a) := by
  simp [decTshape, enc, check, gOf_gCode, tOf_tCode]

theorem tshget_form (opc k d t sa) :
    decTshget (enc opc 0 k (gCode d) (tCode t) ((0 : BitVec 8) ++ bitCode sa ++ (0 : BitVec 31))) =
      some (.tshget k d t sa) := by
  simp [decTshget, enc, check, gOf_gCode, tOf_tCode, loTshget_32_8, loTshget_31_1, loTshget_0_31, bitOf_bitCode]

theorem engine_encE (opc : BitVec 9) (k s : BitVec 8) (p : BitVec 48) : (encE opc k s p).engine = true := rfl

theorem mx_form (mk : MxMul → Instr) (opc p) : decMx mk p.pair (encMx opc p) = some (mk p) := by
  simp [decMx, encMx, payload_encE, engine_encE, check, plMx_44_4, plMx_38_6, plMx_32_6, plMx_31_1, plMx_30_1,
    plMx_26_4, plMx_23_3, plMx_22_1, plMx_19_3, plMx_0_19, bitOf_bitCode]
  rfl

theorem mxzero_form (opc k s) (acc : Fin 16) (i) :
    decMxzero (encE opc k s ((BitVec.ofFin acc : BitVec 4) ++ bitCode i ++ (0 : BitVec 43))) =
      some (.mxzero k s acc i) := by
  simp [decMxzero, payload_encE, engine_encE, check, plZero_44_4, plZero_43_1, plZero_0_43, bitOf_bitCode]
  exact ⟨rfl, rfl⟩

theorem mxwr_form (opc k s) (acc : Fin 16) (t) :
    decMxwr (encE opc k s ((BitVec.ofFin acc : BitVec 4) ++ t ++ (0 : BitVec 38))) = some (.mxwr k s acc t) := by
  simp [decMxwr, payload_encE, engine_encE, check, plWr_44_4, plWr_38_6, plWr_0_38]
  exact ⟨rfl, rfl⟩

theorem mxWin_form (opc p low) : mxWinOf (encMxWin opc p low) = p := by
  simp [mxWinOf, encMxWin, payload_encE, plWin_44_4, plWin_38_6, plWin_31_7, plWin_24_7]
  rfl

theorem mxrd_form (fm opc p r sat) :
    decMxrd fm (encMxWin opc p (bits (rndCode r) 0 2 ++ bitCode sat ++ (0 : BitVec 21))) = some (.mxrd p fm r sat) := by
  simp only [decMxrd, mxWin_form]
  simp [encMxWin, payload_encE, engine_encE, check, plWin_0_21, plWin_22_2, plWin_21_1, lowRd_0_21,
    lowRd_22_2, lowRd_21_1, rndOf_low, bitOf_bitCode]

theorem mxepi_form (v opc p) : decMxepi v (encMxWin opc p 0) = some (.mxepi p v) := by
  simp only [decMxepi, mxWin_form]
  simp [encMxWin, payload_encE, engine_encE, check, plWin_0_24]

theorem copy_form (opc p low) : copyOf (encCp opc p low) = some p := by
  simp [copyOf, encCp, payload_encE, engine_encE, check, plCp_43_5, plCp_38_5, plCp_33_5, plCp_28_5, plCp_27_1,
    plCp_21_6, barOf_barCode]
  rfl

theorem cp_form (mk : CopyOp → Instr) (opc p) : decCp mk (encCp opc p 0) = some (mk p) := by
  simp only [decCp, copy_form]
  simp [encCp, payload_encE, check, plCp_0_21]

theorem cpl2l_form (n opc p) (r : Fin 16) :
    decCpl2l n (encCp opc p ((BitVec.ofFin r : BitVec 4) ++ (0 : BitVec 17))) = some (.cpl2l p n r) := by
  simp only [decCpl2l, copy_form]
  simp [encCp, payload_encE, check, plCp_0_17, plCp_17_4, lowL2l_17_4, lowL2l_0_17]

theorem cpbc_form (opc p m) :
    decCpbc (encCp opc p ((0 : BitVec 4) ++ m ++ (0 : BitVec 1))) = some (.cpbc p m) := by
  simp only [decCpbc, copy_form]
  simp [encCp, payload_encE, check, plCp_17_4, plCp_0_1, plCp_1_16, lowBc_17_4, lowBc_1_16, lowBc_0_1]

theorem cpmeta_form (opc p) (m : Fin 2) (c) :
    decCpmeta (encCp opc p ((BitVec.ofFin m : BitVec 1) ++ c ++ (0 : BitVec 13))) = some (.cpmeta p m c) := by
  simp only [decCpmeta, copy_form]
  simp [encCp, payload_encE, check, plCp_0_13, plCp_20_1, plCp_13_7, lowMeta_20_1, lowMeta_13_7, lowMeta_0_13]

theorem semI_form (mk : BitVec 8 → BitVec 8 → BitVec 16 → Instr) (opc k s n) :
    decSemI mk (enc opc 0 k 0 0 (s ++ (0 : BitVec 16) ++ n)) = some (mk k s n) := by
  simp [decSemI, enc, check, loSem_32_8, loSem_16_16, loSem_0_16]

theorem semR_form (mk : BitVec 8 → BitVec 8 → GReg → Instr) (opc k s a) :
    decSemR mk (enc opc 0 k 0 (gCode a) (loB s)) = some (mk k s a) := by
  simp [decSemR, loB, enc, check, loB_32_8, loB_0_32, gOf_gCode]

theorem semget_form (opc k d s) : decSemget (enc opc 0 k (gCode d) 0 (loB s)) = some (.semget k d s) := by
  simp [decSemget, loB, enc, check, loB_32_8, loB_0_32, gOf_gCode]

theorem barexp_form (opc k) (b : Fin 64) (n : Operand 34) :
    decBarexp (enc opc 0 k 0 n.code ((BitVec.ofFin b : BitVec 6) ++ n.value)) = some (.barexp k b n) := by
  simp [decBarexp, enc, check, loBar_34_6, loBar_0_34, operandOf_code]

theorem barwait_form (opc k) (b : Fin 64) (p : Operand 1) :
    decBarwait (enc opc 0 k 0 p.code ((BitVec.ofFin b : BitVec 6) ++ (0 : BitVec 33) ++ p.value)) =
      some (.barwait k b p) := by
  simp [decBarwait, enc, check, loBarP_34_6, loBarP_1_33, loBarP_0_1, operandOf_code]

theorem bartest_form (opc k d) (b : Fin 64) (p : Operand 1) :
    decBartest (enc opc 0 k (gCode d) p.code ((BitVec.ofFin b : BitVec 6) ++ (0 : BitVec 33) ++ p.value)) =
      some (.bartest k d b p) := by
  simp [decBartest, enc, check, loBarP_34_6, loBarP_1_33, loBarP_0_1, operandOf_code, gOf_gCode]

theorem atom_form (o dbl opc k t acq rel d a b) :
    decAtom o dbl (enc opc (allocCode t) k (gCode d) (gCode a)
      (VLow.pack { srcb := gCode b, strictA := 0, strictB := 0,
                   mod := (0 : BitVec 2) ++ bitCode acq ++ bitCode rel, ring := 0, imm := 0 })) =
      some (.atom k t o dbl acq rel d a b) := by
  simp [decAtom, enc, VLow_unpack_pack, check, gOf_gCode, allocOf_allocCode, modAtom_2_2, modAtom_1_1, modAtom_0_1,
    bitOf_bitCode]

theorem atcas_form (dbl opc k t acq rel d a b c) :
    decAtcas dbl (enc opc (allocCode t) k (gCode d) (gCode a)
      (VLow.pack { srcb := gCode b, strictA := 0, strictB := 0,
                   mod := (0 : BitVec 2) ++ bitCode acq ++ bitCode rel, ring := 0,
                   imm := gCode c ++ (0 : BitVec 16) })) = some (.atcas k t dbl acq rel d a b c) := by
  simp [decAtcas, enc, VLow_unpack_pack, check, gOf_gCode, allocOf_allocCode, modAtom_2_2, modAtom_1_1, modAtom_0_1,
    bitOf_bitCode, immCas_16_8, immCas_0_16]

theorem acct_form (mk : BitVec 8 → AccFmt → Fin 16 → GReg → GReg → BitVec 7 → BitVec 7 → Instr) (fm opc k)
    (acc : Fin 16) (a s r c) :
    decAcct mk fm (enc opc 0 k 0 (gCode a)
      (VLow.pack { srcb := gCode s, strictA := 0, strictB := 0, mod := 0, ring := 0,
                   imm := (BitVec.ofFin acc : BitVec 4) ++ r ++ c ++ (0 : BitVec 6) })) = some (mk k fm acc a s r c) := by
  simp [decAcct, enc, VLow_unpack_pack, check, gOf_gCode, immAcct_20_4, immAcct_13_7, immAcct_6_7, immAcct_0_6]

theorem flushAll_form (k) : decFlushres (encK 0x19F k) = some (.flushresAll k) := by
  simp [decFlushres, encK, enc, check, bits]

theorem flushOne_form (k a) : decFlushres (enc 0x19F 0 k 0 (gCode a) 1) = some (.flushresOne k a) := by
  simp [decFlushres, enc, check, gOf_gCode, show bits 1#40 1 39 = 0#39 by decide,
    show bits 1#40 0 1 = 1#1 by decide]

theorem waita_form (cc opc k acq d a m v t) :
    decWaita cc (enc opc 0 k (gCode d) (gCode a)
      (VLow.pack { srcb := gCode m, strictA := 0, strictB := 0,
                   mod := (0 : BitVec 2) ++ bitCode acq ++ (0 : BitVec 1), ring := 0,
                   imm := gCode v ++ gCode t ++ (0 : BitVec 8) })) = some (.waita k cc acq d a m v t) := by
  simp [decWaita, enc, VLow_unpack_pack, check, gOf_gCode, modWaita_2_2, modWaita_1_1, modWaita_0_1,
    bitOf_bitCode, immWaita_16_8, immWaita_8_8, immWaita_0_8]

theorem dlset_form (opc k d t w) :
    decDlset (enc opc 0 k (match d with | none => 0 | some g => gCode g) (gCode t) (loB (gCode w))) =
      some (.dlset k d t w) := by
  cases d with
  | none => simp [decDlset, loB, enc, check, gOf_gCode, loB_0_32, loB_32_8]
  | some g => simp [decDlset, loB, enc, check, gOf_gCode, loB_0_32, loB_32_8, gCode_ne_zero]

theorem eqpush_form (opc k) (q : Fin 8) {src : VSrc} (h : src.direct = true) (sa) (plane : Fin 4) (bx yb fs) :
    decEqpush (enc opc 0 k 0 (srcCode src)
      (VLow.pack { srcb := 0, strictA := bitCode sa, strictB := 0, mod := 0, ring := 0,
                   imm := (BitVec.ofFin q : BitVec 3) ++ bitCode fs ++ (BitVec.ofFin plane : BitVec 2) ++
                     yb ++ bx ++ (0 : BitVec 6) })) = some (.eqpush k q src sa plane bx yb fs) := by
  simp [decEqpush, enc, VLow_unpack_pack, check, srcOf_srcCode h, bitOf_bitCode, immEq_21_3, immEq_20_1, immEq_18_2,
    immEq_12_6, immEq_6_6, immEq_0_6]

theorem lk_form (mk : BitVec 8 → GReg → GReg → GReg → Instr) (opc k s w t) :
    decLk mk (enc opc 0 k 0 (gCode s) (gCode w ++ (0 : BitVec 8) ++ gCode t ++ (0 : BitVec 16))) =
      some (mk k s w t) := by
  simp [decLk, enc, check, gOf_gCode, lo4_32_8, lo4_24_8, lo4_16_8, lo4_0_16]

theorem csrr_form (opc k d c) :
    decCsrr (enc opc 0 k (gCode d) 0 ((0 : BitVec 28) ++ c)) = some (.csrr k d c) := by
  simp [decCsrr, enc, check, gOf_gCode, loCsr_12_28, loCsr_0_12]

theorem csrw_form (mk : BitVec 8 → BitVec 12 → GReg → Instr) (opc k c a) :
    decCsrw mk (enc opc 0 k 0 (gCode a) ((0 : BitVec 28) ++ c)) = some (mk k c a) := by
  simp [decCsrw, enc, check, gOf_gCode, loCsr_12_28, loCsr_0_12]

theorem xumak_form (f3 : BitVec 3) (d a b : Fin 32) :
    decodeXumak (xumakWord f3 d a b) = match f3.toNat with
      | 0 => some (.rfetch d a b)
      | 1 => some (.bfxt d a b)
      | 2 => some (.sigw d a b)
      | 3 => some (.dspt d a b)
      | _ => none := by
  simp [decodeXumak, check, xumakWord, xumak_0_7, xumak_25_7, xumak_7_5, xumak_15_5, xumak_20_5, xumak_12_3] <;>
    rfl

/-! ### What the opcode of a family names -/

/-- The first conjunct of a Boolean conjunction. -/
theorem left_of {a b : Bool} (h : (a && b) = true) : a = true := (Bool.and_eq_true_iff.mp h).1

/-- The last conjunct of a Boolean conjunction. -/
theorem and_right {a b : Bool} (h : (a && b) = true) : b = true := (Bool.and_eq_true_iff.mp h).2

theorem fields_of {f : Fields} {i : Instr} {d : Fields → Option Instr} (opc : BitVec 9) (h : opcodeDecoder opc = some d)
    (e : d f = some i) (w : i.wf = true) (o : f.opc = opc := by rfl) : decodeFields f = some i :=
  decodeFields_of opc d h e w o

theorem vcvt_op {w : VWord} {m : Fmt} (h : (Instr.vcvt w m).wf = true) :
    opcodeDecoder (op 0x100 m.idx) = some (decV1 (.vcvt · m)) := by
  have h' := and_right h
  cases m <;> first | rfl | cases h'

theorem vdqnt_op {w : VWord} {m : Fmt} (h : (Instr.vdqnt w m).wf = true) :
    opcodeDecoder (op 0x10C m.qidx) = some (decV1 (.vdqnt · m)) := by
  have h' := and_right h
  cases m <;> first | rfl | cases h'

theorem vqnt_op {w : VWord} {m : Fmt} {keep : Bool} (h : (Instr.vqnt w m keep).wf = true) :
    opcodeDecoder (op 0x108 m.qidx) = some (decVQnt m) := by
  have h' := and_right (left_of (left_of (left_of h)))
  cases m <;> first | rfl | cases h'

theorem vqnt_ok {w : VWord} {m : Fmt} {keep : Bool} (h : (Instr.vqnt w m keep).wf = true) :
    w.ok false .roundSat = true := left_of (left_of (left_of (left_of h)))

theorem mxrd_op {p : MxWin} {m : Fmt} {r : Rnd} {sat : Bool} (h : (Instr.mxrd p m r sat).wf = true) :
    opcodeDecoder (op 0x168 m.ridx) = some (decMxrd m) := by
  have h' := and_right (left_of h)
  cases m <;> first | rfl | cases h'

theorem mxPairs_op : ∀ p ∈ mxPairs, opcodeDecoder (op 0x140 (pairIdx p mxPairs)) = some (decMx .mxmul p) := by
  simp only [mxPairs, List.cons_append, List.nil_append, List.forall_mem_cons]
  exact ⟨rfl, rfl, rfl, rfl, rfl, rfl, rfl, rfl, rfl, rfl, rfl, rfl, rfl, rfl, rfl, rfl, rfl, rfl, rfl, rfl, rfl, rfl,
    rfl, rfl, by simp⟩

theorem mxsPairs_op : ∀ p ∈ mxsPairs, opcodeDecoder (op 0x158 (pairIdx p mxsPairs)) = some (decMx .mxmuls p) := by
  simp only [mxsPairs, List.cons_append, List.nil_append, List.forall_mem_cons]
  exact ⟨rfl, rfl, rfl, rfl, rfl, rfl, rfl, rfl, rfl, rfl, rfl, rfl, by simp⟩

theorem mxmul_op {p : MxMul} (h : (Instr.mxmul p).wf = true) :
    opcodeDecoder (op 0x140 (pairIdx p.pair mxPairs)) = some (decMx .mxmul p.pair) :=
  mxPairs_op _ (List.contains_iff_mem.mp (left_of (left_of (left_of (left_of h)))))

theorem mxmuls_op {p : MxMul} (h : (Instr.mxmuls p).wf = true) :
    opcodeDecoder (op 0x158 (pairIdx p.pair mxsPairs)) = some (decMx .mxmuls p.pair) :=
  mxsPairs_op _ (List.contains_iff_mem.mp (left_of (left_of (left_of (left_of h)))))

end Sys2Proof.Laws
end

