-- ==== Sys2Proof/Laws/Dispatch.lean ====
section
/-! SUPPORT. The arm of each constructor, as an equation. -/

namespace Sys2Proof.Machine

theorem exec_addReg (a0 : BitVec 8) (a1 : GReg) (a2 : GReg) (a3 : GReg) (s : State) : exec (.addReg a0 a1 a2 a3) s = execAddReg a0 a1 a2 a3 s := rfl
theorem exec_addImm (a0 : BitVec 8) (a1 : GReg) (a2 : GReg) (a3 : BitVec 40) (s : State) : exec (.addImm a0 a1 a2 a3) s = execAddImm a0 a1 a2 a3 s := rfl
theorem exec_sub (a0 : BitVec 8) (a1 : GReg) (a2 : GReg) (a3 : GReg) (s : State) : exec (.sub a0 a1 a2 a3) s = execSub a0 a1 a2 a3 s := rfl
theorem exec_mulReg (a0 : BitVec 8) (a1 : GReg) (a2 : GReg) (a3 : GReg) (s : State) : exec (.mulReg a0 a1 a2 a3) s = execMulReg a0 a1 a2 a3 s := rfl
theorem exec_mulImm (a0 : BitVec 8) (a1 : GReg) (a2 : GReg) (a3 : BitVec 40) (s : State) : exec (.mulImm a0 a1 a2 a3) s = execMulImm a0 a1 a2 a3 s := rfl
theorem exec_mulh (a0 : BitVec 8) (a1 : GReg) (a2 : GReg) (a3 : GReg) (s : State) : exec (.mulh a0 a1 a2 a3) s = execMulh a0 a1 a2 a3 s := rfl
theorem exec_mulhU (a0 : BitVec 8) (a1 : GReg) (a2 : GReg) (a3 : GReg) (s : State) : exec (.mulhU a0 a1 a2 a3) s = execMulhU a0 a1 a2 a3 s := rfl
theorem exec_divu (a0 : BitVec 8) (a1 : Option Tag) (a2 : GReg) (a3 : GReg) (a4 : GReg) (s : State) : exec (.divu a0 a1 a2 a3 a4) s = execDivu a0 a1 a2 a3 a4 s := rfl
theorem exec_remu (a0 : BitVec 8) (a1 : Option Tag) (a2 : GReg) (a3 : GReg) (a4 : GReg) (s : State) : exec (.remu a0 a1 a2 a3 a4) s = execRemu a0 a1 a2 a3 a4 s := rfl
theorem exec_andReg (a0 : BitVec 8) (a1 : GReg) (a2 : GReg) (a3 : GReg) (s : State) : exec (.andReg a0 a1 a2 a3) s = execAndReg a0 a1 a2 a3 s := rfl
theorem exec_andImm (a0 : BitVec 8) (a1 : GReg) (a2 : GReg) (a3 : BitVec 40) (s : State) : exec (.andImm a0 a1 a2 a3) s = execAndImm a0 a1 a2 a3 s := rfl
theorem exec_orReg (a0 : BitVec 8) (a1 : GReg) (a2 : GReg) (a3 : GReg) (s : State) : exec (.orReg a0 a1 a2 a3) s = execOrReg a0 a1 a2 a3 s := rfl
theorem exec_orImm (a0 : BitVec 8) (a1 : GReg) (a2 : GReg) (a3 : BitVec 40) (s : State) : exec (.orImm a0 a1 a2 a3) s = execOrImm a0 a1 a2 a3 s := rfl
theorem exec_xorReg (a0 : BitVec 8) (a1 : GReg) (a2 : GReg) (a3 : GReg) (s : State) : exec (.xorReg a0 a1 a2 a3) s = execXorReg a0 a1 a2 a3 s := rfl
theorem exec_xorImm (a0 : BitVec 8) (a1 : GReg) (a2 : GReg) (a3 : BitVec 40) (s : State) : exec (.xorImm a0 a1 a2 a3) s = execXorImm a0 a1 a2 a3 s := rfl
theorem exec_shlReg (a0 : BitVec 8) (a1 : GReg) (a2 : GReg) (a3 : GReg) (s : State) : exec (.shlReg a0 a1 a2 a3) s = execShlReg a0 a1 a2 a3 s := rfl
theorem exec_shlImm (a0 : BitVec 8) (a1 : GReg) (a2 : GReg) (a3 : BitVec 6) (s : State) : exec (.shlImm a0 a1 a2 a3) s = execShlImm a0 a1 a2 a3 s := rfl
theorem exec_shrReg (a0 : BitVec 8) (a1 : GReg) (a2 : GReg) (a3 : GReg) (s : State) : exec (.shrReg a0 a1 a2 a3) s = execShrReg a0 a1 a2 a3 s := rfl
theorem exec_shrImm (a0 : BitVec 8) (a1 : GReg) (a2 : GReg) (a3 : BitVec 6) (s : State) : exec (.shrImm a0 a1 a2 a3) s = execShrImm a0 a1 a2 a3 s := rfl
theorem exec_sarReg (a0 : BitVec 8) (a1 : GReg) (a2 : GReg) (a3 : GReg) (s : State) : exec (.sarReg a0 a1 a2 a3) s = execSarReg a0 a1 a2 a3 s := rfl
theorem exec_sarImm (a0 : BitVec 8) (a1 : GReg) (a2 : GReg) (a3 : BitVec 6) (s : State) : exec (.sarImm a0 a1 a2 a3) s = execSarImm a0 a1 a2 a3 s := rfl
theorem exec_sltReg (a0 : BitVec 8) (a1 : GReg) (a2 : GReg) (a3 : GReg) (s : State) : exec (.sltReg a0 a1 a2 a3) s = execSltReg a0 a1 a2 a3 s := rfl
theorem exec_sltImm (a0 : BitVec 8) (a1 : GReg) (a2 : GReg) (a3 : BitVec 40) (s : State) : exec (.sltImm a0 a1 a2 a3) s = execSltImm a0 a1 a2 a3 s := rfl
theorem exec_sltuReg (a0 : BitVec 8) (a1 : GReg) (a2 : GReg) (a3 : GReg) (s : State) : exec (.sltuReg a0 a1 a2 a3) s = execSltuReg a0 a1 a2 a3 s := rfl
theorem exec_sltuImm (a0 : BitVec 8) (a1 : GReg) (a2 : GReg) (a3 : BitVec 40) (s : State) : exec (.sltuImm a0 a1 a2 a3) s = execSltuImm a0 a1 a2 a3 s := rfl
theorem exec_seqReg (a0 : BitVec 8) (a1 : GReg) (a2 : GReg) (a3 : GReg) (s : State) : exec (.seqReg a0 a1 a2 a3) s = execSeqReg a0 a1 a2 a3 s := rfl
theorem exec_seqImm (a0 : BitVec 8) (a1 : GReg) (a2 : GReg) (a3 : BitVec 40) (s : State) : exec (.seqImm a0 a1 a2 a3) s = execSeqImm a0 a1 a2 a3 s := rfl
theorem exec_min (a0 : BitVec 8) (a1 : GReg) (a2 : GReg) (a3 : GReg) (s : State) : exec (.min a0 a1 a2 a3) s = execMin a0 a1 a2 a3 s := rfl
theorem exec_minU (a0 : BitVec 8) (a1 : GReg) (a2 : GReg) (a3 : GReg) (s : State) : exec (.minU a0 a1 a2 a3) s = execMinU a0 a1 a2 a3 s := rfl
theorem exec_max (a0 : BitVec 8) (a1 : GReg) (a2 : GReg) (a3 : GReg) (s : State) : exec (.max a0 a1 a2 a3) s = execMax a0 a1 a2 a3 s := rfl
theorem exec_maxU (a0 : BitVec 8) (a1 : GReg) (a2 : GReg) (a3 : GReg) (s : State) : exec (.maxU a0 a1 a2 a3) s = execMaxU a0 a1 a2 a3 s := rfl
theorem exec_mov (a0 : BitVec 8) (a1 : GReg) (a2 : GReg) (s : State) : exec (.mov a0 a1 a2) s = execMov a0 a1 a2 s := rfl
theorem exec_li (a0 : BitVec 8) (a1 : GReg) (a2 : BitVec 40) (s : State) : exec (.li a0 a1 a2) s = execLi a0 a1 a2 s := rfl
theorem exec_lih (a0 : BitVec 8) (a1 : GReg) (a2 : BitVec 24) (s : State) : exec (.lih a0 a1 a2) s = execLih a0 a1 a2 s := rfl
theorem exec_sel (a0 : BitVec 8) (a1 : GReg) (a2 : GReg) (a3 : GReg) (a4 : GReg) (s : State) : exec (.sel a0 a1 a2 a3 a4) s = execSel a0 a1 a2 a3 a4 s := rfl
theorem exec_bfx (a0 : BitVec 8) (a1 : GReg) (a2 : GReg) (a3 : BitVec 6) (a4 : BitVec 7) (s : State) : exec (.bfx a0 a1 a2 a3 a4) s = execBfx a0 a1 a2 a3 a4 s := rfl
theorem exec_bfxS (a0 : BitVec 8) (a1 : GReg) (a2 : GReg) (a3 : BitVec 6) (a4 : BitVec 7) (s : State) : exec (.bfxS a0 a1 a2 a3 a4) s = execBfxS a0 a1 a2 a3 a4 s := rfl
theorem exec_bfi (a0 : BitVec 8) (a1 : GReg) (a2 : GReg) (a3 : BitVec 6) (a4 : BitVec 7) (s : State) : exec (.bfi a0 a1 a2 a3 a4) s = execBfi a0 a1 a2 a3 a4 s := rfl
theorem exec_clz (a0 : BitVec 8) (a1 : GReg) (a2 : GReg) (s : State) : exec (.clz a0 a1 a2) s = execClz a0 a1 a2 s := rfl
theorem exec_ctz (a0 : BitVec 8) (a1 : GReg) (a2 : GReg) (s : State) : exec (.ctz a0 a1 a2) s = execCtz a0 a1 a2 s := rfl
theorem exec_popc (a0 : BitVec 8) (a1 : GReg) (a2 : GReg) (s : State) : exec (.popc a0 a1 a2) s = execPopc a0 a1 a2 s := rfl
theorem exec_madd (a0 : BitVec 8) (a1 : GReg) (a2 : GReg) (a3 : GReg) (a4 : GReg) (s : State) : exec (.madd a0 a1 a2 a3 a4) s = execMadd a0 a1 a2 a3 a4 s := rfl
theorem exec_b (a0 : BitVec 8) (a1 : BitVec 40) (s : State) : exec (.b a0 a1) s = execB a0 a1 s := rfl
theorem exec_bcEq (a0 : BitVec 8) (a1 : GReg) (a2 : GReg) (a3 : BitVec 40) (s : State) : exec (.bcEq a0 a1 a2 a3) s = execBcEq a0 a1 a2 a3 s := rfl
theorem exec_bcNe (a0 : BitVec 8) (a1 : GReg) (a2 : GReg) (a3 : BitVec 40) (s : State) : exec (.bcNe a0 a1 a2 a3) s = execBcNe a0 a1 a2 a3 s := rfl
theorem exec_bcLt (a0 : BitVec 8) (a1 : GReg) (a2 : GReg) (a3 : BitVec 40) (s : State) : exec (.bcLt a0 a1 a2 a3) s = execBcLt a0 a1 a2 a3 s := rfl
theorem exec_bcGe (a0 : BitVec 8) (a1 : GReg) (a2 : GReg) (a3 : BitVec 40) (s : State) : exec (.bcGe a0 a1 a2 a3) s = execBcGe a0 a1 a2 a3 s := rfl
theorem exec_bcLtu (a0 : BitVec 8) (a1 : GReg) (a2 : GReg) (a3 : BitVec 40) (s : State) : exec (.bcLtu a0 a1 a2 a3) s = execBcLtu a0 a1 a2 a3 s := rfl
theorem exec_bcGeu (a0 : BitVec 8) (a1 : GReg) (a2 : GReg) (a3 : BitVec 40) (s : State) : exec (.bcGeu a0 a1 a2 a3) s = execBcGeu a0 a1 a2 a3 s := rfl
theorem exec_call (a0 : BitVec 8) (a1 : BitVec 40) (s : State) : exec (.call a0 a1) s = execCall a0 a1 s := rfl
theorem exec_ret (a0 : BitVec 8) (s : State) : exec (.ret a0) s = execRet a0 s := rfl
theorem exec_jtbl (a0 : BitVec 8) (a1 : GReg) (a2 : Fin 4) (s : State) : exec (.jtbl a0 a1 a2) s = execJtbl a0 a1 a2 s := rfl
theorem exec_lpad (a0 : BitVec 8) (a1 : BitVec 16) (s : State) : exec (.lpad a0 a1) s = execLpad a0 a1 s := rfl
theorem exec_loopReg (a0 : BitVec 8) (a1 : GReg) (a2 : BitVec 20) (s : State) : exec (.loopReg a0 a1 a2) s = execLoopReg a0 a1 a2 s := rfl
theorem exec_loopImm (a0 : BitVec 8) (a1 : BitVec 20) (a2 : BitVec 20) (s : State) : exec (.loopImm a0 a1 a2) s = execLoopImm a0 a1 a2 s := rfl
theorem exec_nop (a0 : BitVec 8) (s : State) : exec (.nop a0) s = execNop a0 s := rfl
theorem exec_fork (a0 : BitVec 8) (a1 : SeqId) (a2 : BitVec 32) (s : State) : exec (.fork a0 a1 a2) s = execFork a0 a1 a2 s := rfl
theorem exec_rdv (a0 : BitVec 8) (a1 : BitVec 4) (s : State) : exec (.rdv a0 a1) s = execRdv a0 a1 s := rfl
theorem exec_exit (a0 : BitVec 8) (s : State) : exec (.exit a0) s = execExit a0 s := rfl
theorem exec_tksig (a0 : BitVec 8) (a1 : SeqId) (a2 : Operand 8) (s : State) : exec (.tksig a0 a1 a2) s = execTksig a0 a1 a2 s := rfl
theorem exec_tkwait (a0 : BitVec 8) (a1 : SeqId) (a2 : Operand 8) (s : State) : exec (.tkwait a0 a1 a2) s = execTkwait a0 a1 a2 s := rfl
theorem exec_yield (a0 : BitVec 8) (s : State) : exec (.yield a0) s = execYield a0 s := rfl
theorem exec_grpend (a0 : BitVec 8) (s : State) : exec (.grpend a0) s = execGrpend a0 s := rfl
theorem exec_trap (a0 : BitVec 8) (a1 : BitVec 16) (s : State) : exec (.trap a0 a1) s = execTrap a0 a1 s := rfl
theorem exec_ldg (a0 : BitVec 8) (a1 : Option Tag) (a2 : LoadSize) (a3 : GReg) (a4 : GReg) (a5 : BitVec 40) (s : State) : exec (.ldg a0 a1 a2 a3 a4 a5) s = execLdg a0 a1 a2 a3 a4 a5 s := rfl
theorem exec_stg (a0 : BitVec 8) (a1 : StoreSize) (a2 : GReg) (a3 : GReg) (a4 : BitVec 40) (s : State) : exec (.stg a0 a1 a2 a3 a4) s = execStg a0 a1 a2 a3 a4 s := rfl
theorem exec_ldl (a0 : BitVec 8) (a1 : Option Tag) (a2 : LoadSize) (a3 : GReg) (a4 : GReg) (a5 : BitVec 40) (s : State) : exec (.ldl a0 a1 a2 a3 a4 a5) s = execLdl a0 a1 a2 a3 a4 a5 s := rfl
theorem exec_stl (a0 : BitVec 8) (a1 : StoreSize) (a2 : GReg) (a3 : GReg) (a4 : BitVec 40) (s : State) : exec (.stl a0 a1 a2 a3 a4) s = execStl a0 a1 a2 a3 a4 s := rfl
theorem exec_agset (a0 : BitVec 8) (a1 : Fin 16) (a2 : Fin 4) (a3 : GReg) (s : State) : exec (.agset a0 a1 a2 a3) s = execAgset a0 a1 a2 a3 s := rfl
theorem exec_agget (a0 : BitVec 8) (a1 : GReg) (a2 : Fin 16) (a3 : Fin 4) (s : State) : exec (.agget a0 a1 a2 a3) s = execAgget a0 a1 a2 a3 s := rfl
theorem exec_sload (a0 : BitVec 8) (a1 : Fin 16) (s : State) : exec (.sload a0 a1) s = execSload a0 a1 s := rfl
theorem exec_sstore (a0 : BitVec 8) (a1 : Fin 16) (s : State) : exec (.sstore a0 a1) s = execSstore a0 a1 s := rfl
theorem exec_sadv (a0 : BitVec 8) (a1 : Fin 16) (a2 : Operand 36) (s : State) : exec (.sadv a0 a1 a2) s = execSadv a0 a1 a2 s := rfl
theorem exec_prefH (a0 : BitVec 8) (a1 : GReg) (a2 : GReg) (s : State) : exec (.prefH a0 a1 a2) s = execPrefH a0 a1 a2 s := rfl
theorem exec_prefL (a0 : BitVec 8) (a1 : GReg) (a2 : GReg) (s : State) : exec (.prefL a0 a1 a2) s = execPrefL a0 a1 a2 s := rfl
theorem exec_vaddF (a0 : VWord) (a1 : VSrc) (a2 : Bool) (s : State) : exec (.vaddF a0 a1 a2) s = execVaddF a0 a1 a2 s := rfl
theorem exec_vaddI (a0 : VWord) (a1 : VSrc) (a2 : Bool) (s : State) : exec (.vaddI a0 a1 a2) s = execVaddI a0 a1 a2 s := rfl
theorem exec_vsubF (a0 : VWord) (a1 : VSrc) (a2 : Bool) (s : State) : exec (.vsubF a0 a1 a2) s = execVsubF a0 a1 a2 s := rfl
theorem exec_vsubI (a0 : VWord) (a1 : VSrc) (a2 : Bool) (s : State) : exec (.vsubI a0 a1 a2) s = execVsubI a0 a1 a2 s := rfl
theorem exec_vmulF (a0 : VWord) (a1 : VSrc) (a2 : Bool) (s : State) : exec (.vmulF a0 a1 a2) s = execVmulF a0 a1 a2 s := rfl
theorem exec_vmulI (a0 : VWord) (a1 : VSrc) (a2 : Bool) (s : State) : exec (.vmulI a0 a1 a2) s = execVmulI a0 a1 a2 s := rfl
theorem exec_vminF (a0 : VWord) (a1 : VSrc) (a2 : Bool) (s : State) : exec (.vminF a0 a1 a2) s = execVminF a0 a1 a2 s := rfl
theorem exec_vminI (a0 : VWord) (a1 : VSrc) (a2 : Bool) (s : State) : exec (.vminI a0 a1 a2) s = execVminI a0 a1 a2 s := rfl
theorem exec_vmaxF (a0 : VWord) (a1 : VSrc) (a2 : Bool) (s : State) : exec (.vmaxF a0 a1 a2) s = execVmaxF a0 a1 a2 s := rfl
theorem exec_vmaxI (a0 : VWord) (a1 : VSrc) (a2 : Bool) (s : State) : exec (.vmaxI a0 a1 a2) s = execVmaxI a0 a1 a2 s := rfl
theorem exec_vabsF (a0 : VWord) (s : State) : exec (.vabsF a0) s = execVabsF a0 s := rfl
theorem exec_vabsI (a0 : VWord) (s : State) : exec (.vabsI a0) s = execVabsI a0 s := rfl
theorem exec_vnegF (a0 : VWord) (s : State) : exec (.vnegF a0) s = execVnegF a0 s := rfl
theorem exec_vnegI (a0 : VWord) (s : State) : exec (.vnegI a0) s = execVnegI a0 s := rfl
theorem exec_vclampF (a0 : VWord) (a1 : VSrc) (a2 : Bool) (a3 : VSrc) (s : State) : exec (.vclampF a0 a1 a2 a3) s = execVclampF a0 a1 a2 a3 s := rfl
theorem exec_vclampI (a0 : VWord) (a1 : VSrc) (a2 : Bool) (a3 : VSrc) (s : State) : exec (.vclampI a0 a1 a2 a3) s = execVclampI a0 a1 a2 a3 s := rfl
theorem exec_vcmpF (a0 : VWord) (a1 : VCond) (a2 : VSrc) (a3 : Bool) (s : State) : exec (.vcmpF a0 a1 a2 a3) s = execVcmpF a0 a1 a2 a3 s := rfl
theorem exec_vcmpI (a0 : VWord) (a1 : VCond) (a2 : VSrc) (a3 : Bool) (s : State) : exec (.vcmpI a0 a1 a2 a3) s = execVcmpI a0 a1 a2 a3 s := rfl
theorem exec_vfma (a0 : VWord) (a1 : BitVec 2) (a2 : VSrc) (a3 : Bool) (a4 : VSrc) (s : State) : exec (.vfma a0 a1 a2 a3 a4) s = execVfma a0 a1 a2 a3 a4 s := rfl
theorem exec_vfms (a0 : VWord) (a1 : BitVec 2) (a2 : VSrc) (a3 : Bool) (a4 : VSrc) (s : State) : exec (.vfms a0 a1 a2 a3 a4) s = execVfms a0 a1 a2 a3 a4 s := rfl
theorem exec_vfnma (a0 : VWord) (a1 : BitVec 2) (a2 : VSrc) (a3 : Bool) (a4 : VSrc) (s : State) : exec (.vfnma a0 a1 a2 a3 a4) s = execVfnma a0 a1 a2 a3 a4 s := rfl
theorem exec_vminnum (a0 : VWord) (a1 : VSrc) (a2 : Bool) (s : State) : exec (.vminnum a0 a1 a2) s = execVminnum a0 a1 a2 s := rfl
theorem exec_vmaxnum (a0 : VWord) (a1 : VSrc) (a2 : Bool) (s : State) : exec (.vmaxnum a0 a1 a2) s = execVmaxnum a0 a1 a2 s := rfl
theorem exec_vsel (a0 : VWord) (a1 : VSrc) (a2 : Bool) (a3 : VSrc) (s : State) : exec (.vsel a0 a1 a2 a3) s = execVsel a0 a1 a2 a3 s := rfl
theorem exec_vand (a0 : VWord) (a1 : VSrc) (a2 : Bool) (s : State) : exec (.vand a0 a1 a2) s = execVand a0 a1 a2 s := rfl
theorem exec_vor (a0 : VWord) (a1 : VSrc) (a2 : Bool) (s : State) : exec (.vor a0 a1 a2) s = execVor a0 a1 a2 s := rfl
theorem exec_vxor (a0 : VWord) (a1 : VSrc) (a2 : Bool) (s : State) : exec (.vxor a0 a1 a2) s = execVxor a0 a1 a2 s := rfl
theorem exec_vshl (a0 : VWord) (a1 : VSrc) (a2 : Bool) (s : State) : exec (.vshl a0 a1 a2) s = execVshl a0 a1 a2 s := rfl
theorem exec_vshr (a0 : VWord) (a1 : VSrc) (a2 : Bool) (s : State) : exec (.vshr a0 a1 a2) s = execVshr a0 a1 a2 s := rfl
theorem exec_vsar (a0 : VWord) (a1 : VSrc) (a2 : Bool) (s : State) : exec (.vsar a0 a1 a2) s = execVsar a0 a1 a2 s := rfl
theorem exec_vmov (a0 : VWord) (s : State) : exec (.vmov a0) s = execVmov a0 s := rfl
theorem exec_vbcast (a0 : VWord) (a1 : BitVec 6) (a2 : BitVec 6) (s : State) : exec (.vbcast a0 a1 a2) s = execVbcast a0 a1 a2 s := rfl
theorem exec_vfill (a0 : BitVec 8) (a1 : TReg) (a2 : Bool) (a3 : GReg) (s : State) : exec (.vfill a0 a1 a2 a3) s = execVfill a0 a1 a2 a3 s := rfl
theorem exec_vscale (a0 : VWord) (a1 : VSrc) (a2 : Bool) (s : State) : exec (.vscale a0 a1 a2) s = execVscale a0 a1 a2 s := rfl
theorem exec_vrnd (a0 : VWord) (s : State) : exec (.vrnd a0) s = execVrnd a0 s := rfl
theorem exec_vaddFs (a0 : VWord) (a1 : GReg) (s : State) : exec (.vaddFs a0 a1) s = execVaddFs a0 a1 s := rfl
theorem exec_vsubFs (a0 : VWord) (a1 : GReg) (s : State) : exec (.vsubFs a0 a1) s = execVsubFs a0 a1 s := rfl
theorem exec_vmulFs (a0 : VWord) (a1 : GReg) (s : State) : exec (.vmulFs a0 a1) s = execVmulFs a0 a1 s := rfl
theorem exec_vminFs (a0 : VWord) (a1 : GReg) (s : State) : exec (.vminFs a0 a1) s = execVminFs a0 a1 s := rfl
theorem exec_vmaxFs (a0 : VWord) (a1 : GReg) (s : State) : exec (.vmaxFs a0 a1) s = execVmaxFs a0 a1 s := rfl
theorem exec_vfmaFs (a0 : VWord) (a1 : BitVec 2) (a2 : GReg) (a3 : VSrc) (s : State) : exec (.vfmaFs a0 a1 a2 a3) s = execVfmaFs a0 a1 a2 a3 s := rfl
theorem exec_vaddIs (a0 : VWord) (a1 : GReg) (s : State) : exec (.vaddIs a0 a1) s = execVaddIs a0 a1 s := rfl
theorem exec_vmulIs (a0 : VWord) (a1 : GReg) (s : State) : exec (.vmulIs a0 a1) s = execVmulIs a0 a1 s := rfl
theorem exec_vmaxIs (a0 : VWord) (a1 : GReg) (s : State) : exec (.vmaxIs a0 a1) s = execVmaxIs a0 a1 s := rfl
theorem exec_vminIs (a0 : VWord) (a1 : GReg) (s : State) : exec (.vminIs a0 a1) s = execVminIs a0 a1 s := rfl
theorem exec_vcvt (a0 : VWord) (a1 : Fmt) (s : State) : exec (.vcvt a0 a1) s = execVcvt a0 a1 s := rfl
theorem exec_vqnt (a0 : VWord) (a1 : Fmt) (a2 : Bool) (s : State) : exec (.vqnt a0 a1 a2) s = execVqnt a0 a1 a2 s := rfl
theorem exec_vdqnt (a0 : VWord) (a1 : Fmt) (s : State) : exec (.vdqnt a0 a1) s = execVdqnt a0 a1 s := rfl
theorem exec_vexp2 (a0 : VWord) (s : State) : exec (.vexp2 a0) s = execVexp2 a0 s := rfl
theorem exec_vlog2 (a0 : VWord) (s : State) : exec (.vlog2 a0) s = execVlog2 a0 s := rfl
theorem exec_vrcp (a0 : VWord) (s : State) : exec (.vrcp a0) s = execVrcp a0 s := rfl
theorem exec_vrsq (a0 : VWord) (s : State) : exec (.vrsq a0) s = execVrsq a0 s := rfl
theorem exec_vtanh (a0 : VWord) (s : State) : exec (.vtanh a0) s = execVtanh a0 s := rfl
theorem exec_vrmax (a0 : VWord) (a1 : Bool) (s : State) : exec (.vrmax a0 a1) s = execVrmax a0 a1 s := rfl
theorem exec_vrmin (a0 : VWord) (a1 : Bool) (s : State) : exec (.vrmin a0 a1) s = execVrmin a0 a1 s := rfl
theorem exec_vrsum (a0 : VWord) (a1 : Bool) (s : State) : exec (.vrsum a0 a1) s = execVrsum a0 a1 s := rfl
theorem exec_vcsum (a0 : VWord) (a1 : Bool) (s : State) : exec (.vcsum a0 a1) s = execVcsum a0 a1 s := rfl
theorem exec_vcmax (a0 : VWord) (a1 : Bool) (s : State) : exec (.vcmax a0 a1) s = execVcmax a0 a1 s := rfl
theorem exec_vtrn (a0 : VWord) (s : State) : exec (.vtrn a0) s = execVtrn a0 s := rfl
theorem exec_vlut (a0 : VWord) (a1 : Bool) (a2 : Fin 8) (s : State) : exec (.vlut a0 a1 a2) s = execVlut a0 a1 a2 s := rfl
theorem exec_cbld (a0 : BitVec 8) (a1 : VSrc) (a2 : Bool) (a3 : Fin 8) (s : State) : exec (.cbld a0 a1 a2 a3) s = execCbld a0 a1 a2 a3 s := rfl
theorem exec_tshape (a0 : BitVec 8) (a1 : TReg) (a2 : GReg) (s : State) : exec (.tshape a0 a1 a2) s = execTshape a0 a1 a2 s := rfl
theorem exec_tshget (a0 : BitVec 8) (a1 : GReg) (a2 : TReg) (a3 : Bool) (s : State) : exec (.tshget a0 a1 a2 a3) s = execTshget a0 a1 a2 a3 s := rfl
theorem exec_tagResultLands (a0 : Nat) (a1 : Nat) (a2 : SeqId) (a3 : Tag) (s : State) : exec (.tagResultLands a0 a1 a2 a3) s = execTagResultLands a0 a1 a2 a3 s := rfl
theorem exec_mxmul (a0 : MxMul) (s : State) : exec (.mxmul a0) s = execMxmul a0 s := rfl
theorem exec_mxmuls (a0 : MxMul) (s : State) : exec (.mxmuls a0) s = execMxmuls a0 s := rfl
theorem exec_mxzero (a0 : BitVec 8) (a1 : BitVec 8) (a2 : Fin 16) (a3 : Bool) (s : State) : exec (.mxzero a0 a1 a2 a3) s = execMxzero a0 a1 a2 a3 s := rfl
theorem exec_mxwr (a0 : BitVec 8) (a1 : BitVec 8) (a2 : Fin 16) (a3 : BitVec 6) (s : State) : exec (.mxwr a0 a1 a2 a3) s = execMxwr a0 a1 a2 a3 s := rfl
theorem exec_mxrd (a0 : MxWin) (a1 : Fmt) (a2 : Rnd) (a3 : Bool) (s : State) : exec (.mxrd a0 a1 a2 a3) s = execMxrd a0 a1 a2 a3 s := rfl
theorem exec_mxepi (a0 : MxWin) (a1 : Epi) (s : State) : exec (.mxepi a0 a1) s = execMxepi a0 a1 s := rfl
theorem exec_mxmulExec (a0 : Nat) (a1 : Nat) (s : State) : exec (.mxmulExec a0 a1) s = execMxmulExec a0 a1 s := rfl
theorem exec_mxmulsExec (a0 : Nat) (a1 : Nat) (s : State) : exec (.mxmulsExec a0 a1) s = execMxmulsExec a0 a1 s := rfl
theorem exec_mxzeroExec (a0 : Nat) (a1 : Nat) (s : State) : exec (.mxzeroExec a0 a1) s = execMxzeroExec a0 a1 s := rfl
theorem exec_mxwrExec (a0 : Nat) (a1 : Nat) (s : State) : exec (.mxwrExec a0 a1) s = execMxwrExec a0 a1 s := rfl
theorem exec_mxrdExec (a0 : Nat) (a1 : Nat) (s : State) : exec (.mxrdExec a0 a1) s = execMxrdExec a0 a1 s := rfl
theorem exec_mxepiExec (a0 : Nat) (a1 : Nat) (s : State) : exec (.mxepiExec a0 a1) s = execMxepiExec a0 a1 s := rfl
theorem exec_cpg2l (a0 : CopyOp) (a1 : Dims) (s : State) : exec (.cpg2l a0 a1) s = execCpg2l a0 a1 s := rfl
theorem exec_cpl2g (a0 : CopyOp) (a1 : Dims) (s : State) : exec (.cpl2g a0 a1) s = execCpl2g a0 a1 s := rfl
theorem exec_cpl2l (a0 : CopyOp) (a1 : Dims) (a2 : Fin 16) (s : State) : exec (.cpl2l a0 a1 a2) s = execCpl2l a0 a1 a2 s := rfl
theorem exec_cpbc (a0 : CopyOp) (a1 : BitVec 16) (s : State) : exec (.cpbc a0 a1) s = execCpbc a0 a1 s := rfl
theorem exec_cpfillL (a0 : CopyOp) (s : State) : exec (.cpfillL a0) s = execCpfillL a0 s := rfl
theorem exec_cpfillG (a0 : CopyOp) (s : State) : exec (.cpfillG a0) s = execCpfillG a0 s := rfl
theorem exec_cpmeta (a0 : CopyOp) (a1 : Fin 2) (a2 : BitVec 7) (s : State) : exec (.cpmeta a0 a1 a2) s = execCpmeta a0 a1 a2 s := rfl
theorem exec_copyStart (a0 : Nat) (a1 : Nat) (s : State) : exec (.copyStart a0 a1) s = execCopyStart a0 a1 s := rfl
theorem exec_copyPiece (a0 : Nat) (a1 : Nat) (a2 : Fin 8) (s : State) : exec (.copyPiece a0 a1 a2) s = execCopyPiece a0 a1 a2 s := rfl
theorem exec_cpmetaEntry (a0 : Nat) (a1 : Nat) (a2 : Fin 8) (s : State) : exec (.cpmetaEntry a0 a1 a2) s = execCpmetaEntry a0 a1 a2 s := rfl
theorem exec_semsigImm (a0 : BitVec 8) (a1 : BitVec 8) (a2 : BitVec 16) (s : State) : exec (.semsigImm a0 a1 a2) s = execSemsigImm a0 a1 a2 s := rfl
theorem exec_semsigReg (a0 : BitVec 8) (a1 : BitVec 8) (a2 : GReg) (s : State) : exec (.semsigReg a0 a1 a2) s = execSemsigReg a0 a1 a2 s := rfl
theorem exec_semwaitImm (a0 : BitVec 8) (a1 : BitVec 8) (a2 : BitVec 16) (s : State) : exec (.semwaitImm a0 a1 a2) s = execSemwaitImm a0 a1 a2 s := rfl
theorem exec_semwaitReg (a0 : BitVec 8) (a1 : BitVec 8) (a2 : GReg) (s : State) : exec (.semwaitReg a0 a1 a2) s = execSemwaitReg a0 a1 a2 s := rfl
theorem exec_semget (a0 : BitVec 8) (a1 : GReg) (a2 : BitVec 8) (s : State) : exec (.semget a0 a1 a2) s = execSemget a0 a1 a2 s := rfl
theorem exec_barexp (a0 : BitVec 8) (a1 : Fin 64) (a2 : Operand 34) (s : State) : exec (.barexp a0 a1 a2) s = execBarexp a0 a1 a2 s := rfl
theorem exec_barwait (a0 : BitVec 8) (a1 : Fin 64) (a2 : Operand 1) (s : State) : exec (.barwait a0 a1 a2) s = execBarwait a0 a1 a2 s := rfl
theorem exec_bartest (a0 : BitVec 8) (a1 : GReg) (a2 : Fin 64) (a3 : Operand 1) (s : State) : exec (.bartest a0 a1 a2 a3) s = execBartest a0 a1 a2 a3 s := rfl
theorem exec_gbar (a0 : BitVec 8) (s : State) : exec (.gbar a0) s = execGbar a0 s := rfl
theorem exec_atom (a0 : BitVec 8) (a1 : Option Tag) (a2 : AtomOp) (a3 : Bool) (a4 : Bool) (a5 : Bool) (a6 : GReg) (a7 : GReg) (a8 : GReg) (s : State) : exec (.atom a0 a1 a2 a3 a4 a5 a6 a7 a8) s = execAtom a0 a1 a2 a3 a4 a5 a6 a7 a8 s := rfl
theorem exec_atcas (a0 : BitVec 8) (a1 : Option Tag) (a2 : Bool) (a3 : Bool) (a4 : Bool) (a5 : GReg) (a6 : GReg) (a7 : GReg) (a8 : GReg) (s : State) : exec (.atcas a0 a1 a2 a3 a4 a5 a6 a7 a8) s = execAtcas a0 a1 a2 a3 a4 a5 a6 a7 a8 s := rfl
theorem exec_atomicAtSlice (a0 : Fin 64) (s : State) : exec (.atomicAtSlice a0) s = execAtomicAtSlice a0 s := rfl
theorem exec_storeApply (a0 : Nat) (a1 : Nat) (a2 : Nat) (s : State) : exec (.storeApply a0 a1 a2) s = execStoreApply a0 a1 a2 s := rfl
theorem exec_acct (a0 : BitVec 8) (a1 : AccFmt) (a2 : Fin 16) (a3 : GReg) (a4 : GReg) (a5 : BitVec 7) (a6 : BitVec 7) (s : State) : exec (.acct a0 a1 a2 a3 a4 a5 a6) s = execAcct a0 a1 a2 a3 a4 a5 a6 s := rfl
theorem exec_acctD (a0 : BitVec 8) (a1 : AccFmt) (a2 : Fin 16) (a3 : GReg) (a4 : GReg) (a5 : BitVec 7) (a6 : BitVec 7) (s : State) : exec (.acctD a0 a1 a2 a3 a4 a5 a6) s = execAcctD a0 a1 a2 a3 a4 a5 a6 s := rfl
theorem exec_acctPieceArrival (a0 : Nat) (a1 : Nat) (a2 : Nat) (s : State) : exec (.acctPieceArrival a0 a1 a2) s = execAcctPieceArrival a0 a1 a2 s := rfl
theorem exec_acctPieceApply (a0 : Fin 64) (s : State) : exec (.acctPieceApply a0) s = execAcctPieceApply a0 s := rfl
theorem exec_returnToSender (a0 : Nat) (a1 : Nat) (a2 : Nat) (s : State) : exec (.returnToSender a0 a1 a2) s = execReturnToSender a0 a1 a2 s := rfl
theorem exec_residualAgeDelivery (a0 : Nat) (a1 : Nat) (a2 : Fin 8) (s : State) : exec (.residualAgeDelivery a0 a1 a2) s = execResidualAgeDelivery a0 a1 a2 s := rfl
theorem exec_flushresAll (a0 : BitVec 8) (s : State) : exec (.flushresAll a0) s = execFlushresAll a0 s := rfl
theorem exec_flushresOne (a0 : BitVec 8) (a1 : GReg) (s : State) : exec (.flushresOne a0 a1) s = execFlushresOne a0 a1 s := rfl
theorem exec_waita (a0 : BitVec 8) (a1 : Cond) (a2 : Bool) (a3 : GReg) (a4 : GReg) (a5 : GReg) (a6 : GReg) (a7 : GReg) (s : State) : exec (.waita a0 a1 a2 a3 a4 a5 a6 a7) s = execWaita a0 a1 a2 a3 a4 a5 a6 a7 s := rfl
theorem exec_waitaTimeout (a0 : Nat) (s : State) : exec (.waitaTimeout a0) s = execWaitaTimeout a0 s := rfl
theorem exec_fenceAcq (a0 : BitVec 8) (a1 : Scope) (s : State) : exec (.fenceAcq a0 a1) s = execFenceAcq a0 a1 s := rfl
theorem exec_fenceRel (a0 : BitVec 8) (a1 : Scope) (s : State) : exec (.fenceRel a0 a1) s = execFenceRel a0 a1 s := rfl
theorem exec_fenceAr (a0 : BitVec 8) (a1 : Scope) (s : State) : exec (.fenceAr a0 a1) s = execFenceAr a0 a1 s := rfl
theorem exec_futres (a0 : BitVec 8) (a1 : GReg) (a2 : GReg) (s : State) : exec (.futres a0 a1 a2) s = execFutres a0 a1 a2 s := rfl
theorem exec_futwait (a0 : BitVec 8) (a1 : GReg) (a2 : GReg) (s : State) : exec (.futwait a0 a1 a2) s = execFutwait a0 a1 a2 s := rfl
theorem exec_tsubmit (a0 : BitVec 8) (a1 : GReg) (a2 : GReg) (s : State) : exec (.tsubmit a0 a1 a2) s = execTsubmit a0 a1 a2 s := rfl
theorem exec_tsubmitF (a0 : BitVec 8) (a1 : GReg) (a2 : GReg) (a3 : GReg) (s : State) : exec (.tsubmitF a0 a1 a2 a3) s = execTsubmitF a0 a1 a2 a3 s := rfl
theorem exec_dlset (a0 : BitVec 8) (a1 : Option GReg) (a2 : GReg) (a3 : GReg) (s : State) : exec (.dlset a0 a1 a2 a3) s = execDlset a0 a1 a2 a3 s := rfl
theorem exec_dlchk (a0 : BitVec 8) (a1 : GReg) (s : State) : exec (.dlchk a0 a1) s = execDlchk a0 a1 s := rfl
theorem exec_stepend (a0 : BitVec 8) (s : State) : exec (.stepend a0) s = execStepend a0 s := rfl
theorem exec_frput (a0 : BitVec 8) (a1 : GReg) (s : State) : exec (.frput a0 a1) s = execFrput a0 a1 s := rfl
theorem exec_frpub (a0 : BitVec 8) (a1 : GReg) (s : State) : exec (.frpub a0 a1) s = execFrpub a0 a1 s := rfl
theorem exec_frget (a0 : BitVec 8) (a1 : GReg) (s : State) : exec (.frget a0 a1) s = execFrget a0 a1 s := rfl
theorem exec_frrel (a0 : BitVec 8) (a1 : GReg) (s : State) : exec (.frrel a0 a1) s = execFrrel a0 a1 s := rfl
theorem exec_kvapp (a0 : BitVec 8) (a1 : GReg) (s : State) : exec (.kvapp a0 a1) s = execKvapp a0 a1 s := rfl
theorem exec_kvpin (a0 : BitVec 8) (a1 : GReg) (s : State) : exec (.kvpin a0 a1) s = execKvpin a0 a1 s := rfl
theorem exec_kvunpin (a0 : BitVec 8) (a1 : GReg) (s : State) : exec (.kvunpin a0 a1) s = execKvunpin a0 a1 s := rfl
theorem exec_eqpush (a0 : BitVec 8) (a1 : Fin 8) (a2 : VSrc) (a3 : Bool) (a4 : Fin 4) (a5 : BitVec 6) (a6 : BitVec 6) (a7 : Bool) (s : State) : exec (.eqpush a0 a1 a2 a3 a4 a5 a6 a7) s = execEqpush a0 a1 a2 a3 a4 a5 a6 a7 s := rfl
theorem exec_pwracqImm (a0 : BitVec 8) (a1 : Fin 8) (s : State) : exec (.pwracqImm a0 a1) s = execPwracqImm a0 a1 s := rfl
theorem exec_pwracqReg (a0 : BitVec 8) (a1 : GReg) (s : State) : exec (.pwracqReg a0 a1) s = execPwracqReg a0 a1 s := rfl
theorem exec_pwrrel (a0 : BitVec 8) (s : State) : exec (.pwrrel a0) s = execPwrrel a0 s := rfl
theorem exec_lksend (a0 : BitVec 8) (a1 : GReg) (a2 : GReg) (a3 : GReg) (s : State) : exec (.lksend a0 a1 a2 a3) s = execLksend a0 a1 a2 a3 s := rfl
theorem exec_lkred (a0 : BitVec 8) (a1 : AccFmt) (a2 : GReg) (a3 : GReg) (a4 : GReg) (s : State) : exec (.lkred a0 a1 a2 a3 a4) s = execLkred a0 a1 a2 a3 a4 s := rfl
theorem exec_csrr (a0 : BitVec 8) (a1 : GReg) (a2 : BitVec 12) (s : State) : exec (.csrr a0 a1 a2) s = execCsrr a0 a1 a2 s := rfl
theorem exec_csrw (a0 : BitVec 8) (a1 : BitVec 12) (a2 : GReg) (s : State) : exec (.csrw a0 a1 a2) s = execCsrw a0 a1 a2 s := rfl
theorem exec_csrs (a0 : BitVec 8) (a1 : BitVec 12) (a2 : GReg) (s : State) : exec (.csrs a0 a1 a2) s = execCsrs a0 a1 a2 s := rfl
theorem exec_csrc (a0 : BitVec 8) (a1 : BitVec 12) (a2 : GReg) (s : State) : exec (.csrc a0 a1 a2) s = execCsrc a0 a1 a2 s := rfl
theorem exec_time (a0 : BitVec 8) (a1 : GReg) (s : State) : exec (.time a0 a1) s = execTime a0 a1 s := rfl
theorem exec_rfetch (a0 : Fin 32) (a1 : Fin 32) (a2 : Fin 32) (s : State) : exec (.rfetch a0 a1 a2) s = execRfetch a0 a1 a2 s := rfl
theorem exec_bfxt (a0 : Fin 32) (a1 : Fin 32) (a2 : Fin 32) (s : State) : exec (.bfxt a0 a1 a2) s = execBfxt a0 a1 a2 s := rfl
theorem exec_sigw (a0 : Fin 32) (a1 : Fin 32) (a2 : Fin 32) (s : State) : exec (.sigw a0 a1 a2) s = execSigw a0 a1 a2 s := rfl
theorem exec_dspt (a0 : Fin 32) (a1 : Fin 32) (a2 : Fin 32) (s : State) : exec (.dspt a0 a1 a2) s = execDspt a0 a1 a2 s := rfl
theorem exec_queuePushAdmit (a0 : Nat) (a1 : Nat) (a2 : SeqId) (s : State) : exec (.queuePushAdmit a0 a1 a2) s = execQueuePushAdmit a0 a1 a2 s := rfl
theorem exec_gangPlacement (a0 : Fin 8) (s : State) : exec (.gangPlacement a0) s = execGangPlacement a0 s := rfl
theorem exec_spinWindowExpiry (a0 : Nat) (s : State) : exec (.spinWindowExpiry a0) s = execSpinWindowExpiry a0 s := rfl
theorem exec_parkConditionMet (a0 : Nat) (s : State) : exec (.parkConditionMet a0) s = execParkConditionMet a0 s := rfl
theorem exec_preemption (a0 : Fin 8) (s : State) : exec (.preemption a0) s = execPreemption a0 s := rfl
theorem exec_headWaitExpiry (a0 : Fin 8) (a1 : Fin 64) (s : State) : exec (.headWaitExpiry a0 a1) s = execHeadWaitExpiry a0 a1 s := rfl
theorem exec_preload (a0 : Nat) (s : State) : exec (.preload a0) s = execPreload a0 s := rfl
theorem exec_budgetOver (a0 : Nat) (s : State) : exec (.budgetOver a0) s = execBudgetOver a0 s := rfl
theorem exec_faultStop (a0 : Nat) (s : State) : exec (.faultStop a0) s = execFaultStop a0 s := rfl
theorem exec_faultRecordWrite (a0 : Nat) (s : State) : exec (.faultRecordWrite a0) s = execFaultRecordWrite a0 s := rfl
theorem exec_handlerResume (a0 : Nat) (s : State) : exec (.handlerResume a0) s = execHandlerResume a0 s := rfl
theorem exec_handlerRerun (a0 : Nat) (s : State) : exec (.handlerRerun a0) s = execHandlerRerun a0 s := rfl
theorem exec_handlerKill (a0 : Nat) (s : State) : exec (.handlerKill a0) s = execHandlerKill a0 s := rfl
theorem exec_governorTick (s : State) : exec .governorTick s = execGovernorTick s := rfl
theorem exec_energyOut (a0 : Fin 128) (s : State) : exec (.energyOut a0) s = execEnergyOut a0 s := rfl
theorem exec_opChangeComplete (a0 : Fin 32) (s : State) : exec (.opChangeComplete a0) s = execOpChangeComplete a0 s := rfl
theorem exec_thermal95Crossing (a0 : Fin 32) (a1 : BitVec 16) (s : State) : exec (.thermal95Crossing a0 a1) s = execThermal95Crossing a0 a1 s := rfl
theorem exec_thermalRearm (a0 : Fin 32) (a1 : BitVec 16) (s : State) : exec (.thermalRearm a0 a1) s = execThermalRearm a0 a1 s := rfl
theorem exec_thermal105Crossing (a0 : Fin 32) (a1 : BitVec 16) (s : State) : exec (.thermal105Crossing a0 a1) s = execThermal105Crossing a0 a1 s := rfl
theorem exec_thermalHoldRelease (a0 : Fin 32) (a1 : BitVec 16) (s : State) : exec (.thermalHoldRelease a0 a1) s = execThermalHoldRelease a0 a1 s := rfl
theorem exec_currentClamp (a0 : Fin 32) (a1 : Bool) (s : State) : exec (.currentClamp a0 a1) s = execCurrentClamp a0 a1 s := rfl
theorem exec_modulePowerClamp (a0 : Bool) (s : State) : exec (.modulePowerClamp a0) s = execModulePowerClamp a0 s := rfl
theorem exec_sensor115Stop (a0 : Fin 32) (a1 : BitVec 16) (s : State) : exec (.sensor115Stop a0 a1) s = execSensor115Stop a0 a1 s := rfl
theorem exec_gddrDerateChange (a0 : Int) (s : State) : exec (.gddrDerateChange a0) s = execGddrDerateChange a0 s := rfl
theorem exec_eccCorrectable (a0 : ErrSite) (s : State) : exec (.eccCorrectable a0) s = execEccCorrectable a0 s := rfl
theorem exec_eccUncorrectable (a0 : ErrSite) (s : State) : exec (.eccUncorrectable a0) s = execEccUncorrectable a0 s := rfl
theorem exec_fabricError (a0 : Nat) (a1 : Nat) (a2 : Packet) (s : State) : exec (.fabricError a0 a1 a2) s = execFabricError a0 a1 a2 s := rfl
theorem exec_watchdogExpiry (a0 : Nat) (a1 : Nat) (a2 : Fin 6) (s : State) : exec (.watchdogExpiry a0 a1 a2) s = execWatchdogExpiry a0 a1 a2 s := rfl
theorem exec_scrubPass (s : State) : exec .scrubPass s = execScrubPass s := rfl
theorem exec_pageResponseSuccess (a0 : Nat) (s : State) : exec (.pageResponseSuccess a0) s = execPageResponseSuccess a0 s := rfl
theorem exec_pageResponseInvalid (a0 : Nat) (a1 : BitVec 4) (s : State) : exec (.pageResponseInvalid a0 a1) s = execPageResponseInvalid a0 a1 s := rfl
theorem exec_pageResponseFailure (a0 : Nat) (s : State) : exec (.pageResponseFailure a0) s = execPageResponseFailure a0 s := rfl
theorem exec_latePageResponse (s : State) : exec .latePageResponse s = execLatePageResponse s := rfl
theorem exec_atsInvalidation (a0 : Nat) (a1 : Nat) (s : State) : exec (.atsInvalidation a0 a1) s = execAtsInvalidation a0 a1 s := rfl
theorem exec_linkTickDeparture (s : State) : exec .linkTickDeparture s = execLinkTickDeparture s := rfl
theorem exec_linkDelivery (a0 : LinkArrival) (s : State) : exec (.linkDelivery a0) s = execLinkDelivery a0 s := rfl
theorem exec_remoteSubmitPacket (a0 : Nat) (a1 : Nat) (a2 : List Byte) (a3 : Nat) (s : State) : exec (.remoteSubmitPacket a0 a1 a2 a3) s = execRemoteSubmitPacket a0 a1 a2 a3 s := rfl
theorem exec_remoteAnswerPacket (a0 : Nat) (a1 : RemoteAnswer) (s : State) : exec (.remoteAnswerPacket a0 a1) s = execRemoteAnswerPacket a0 a1 s := rfl
theorem exec_letterboxTake (a0 : Fin 6) (s : State) : exec (.letterboxTake a0) s = execLetterboxTake a0 s := rfl
theorem exec_frameCoded (a0 : Fin 6) (s : State) : exec (.frameCoded a0) s = execFrameCoded a0 s := rfl
theorem exec_sqdbWrite (a0 : Fin 9) (a1 : Fin 16) (a2 : BitVec 12) (s : State) : exec (.sqdbWrite a0 a1 a2) s = execSqdbWrite a0 a1 a2 s := rfl
theorem exec_sqdbReset (a0 : Fin 9) (a1 : Fin 16) (s : State) : exec (.sqdbReset a0 a1) s = execSqdbReset a0 a1 s := rfl
theorem exec_cqdbWrite (a0 : Fin 9) (a1 : Fin 16) (a2 : BitVec 12) (s : State) : exec (.cqdbWrite a0 a1 a2) s = execCqdbWrite a0 a1 a2 s := rfl
theorem exec_queueEnable (a0 : Fin 9) (a1 : Fin 16) (a2 : Word) (s : State) : exec (.queueEnable a0 a1 a2) s = execQueueEnable a0 a1 a2 s := rfl
theorem exec_queueDisable (a0 : Fin 9) (a1 : Fin 16) (s : State) : exec (.queueDisable a0 a1) s = execQueueDisable a0 a1 s := rfl
theorem exec_commandFetch (s : State) : exec .commandFetch s = execCommandFetch s := rfl
theorem exec_multiSubmitRetry (s : State) : exec .multiSubmitRetry s = execMultiSubmitRetry s := rfl
theorem exec_multiSubmitTimeout (s : State) : exec .multiSubmitTimeout s = execMultiSubmitTimeout s := rfl
theorem exec_completionWrite (a0 : Fin 9) (a1 : Fin 16) (s : State) : exec (.completionWrite a0 a1) s = execCompletionWrite a0 a1 s := rfl
theorem exec_inv1Go (a0 : Fin 9) (s : State) : exec (.inv1Go a0) s = execInv1Go a0 s := rfl
theorem exec_inv2Go (s : State) : exec .inv2Go s = execInv2Go s := rfl
theorem exec_invalidationComplete (a0 : Bool) (a1 : Fin 9) (s : State) : exec (.invalidationComplete a0 a1) s = execInvalidationComplete a0 a1 s := rfl
theorem exec_frelGo (s : State) : exec .frelGo s = execFrelGo s := rfl
theorem exec_frameReleaseComplete (s : State) : exec .frameReleaseComplete s = execFrameReleaseComplete s := rfl
theorem exec_keyloadGo (s : State) : exec .keyloadGo s = execKeyloadGo s := rfl
theorem exec_keyloadComplete (s : State) : exec .keyloadComplete s = execKeyloadComplete s := rfl
theorem exec_eordxWrite (a0 : Fin 9) (a1 : Fin 6) (a2 : Fin 8) (a3 : Word) (s : State) : exec (.eordxWrite a0 a1 a2 a3) s = execEordxWrite a0 a1 a2 a3 s := rfl
theorem exec_ctxWrite (a0 : Fin 128) (a1 : Fin 6) (a2 : Word) (s : State) : exec (.ctxWrite a0 a1 a2) s = execCtxWrite a0 a1 a2 s := rfl
theorem exec_ctxpWrite (a0 : Fin 128) (a1 : Word) (s : State) : exec (.ctxpWrite a0 a1) s = execCtxpWrite a0 a1 s := rfl
theorem exec_tqWrite (a0 : Fin 9) (a1 : Fin 3) (a2 : Word) (s : State) : exec (.tqWrite a0 a1 a2) s = execTqWrite a0 a1 a2 s := rfl
theorem exec_shareWrite (a0 : Fin 8) (a1 : Word) (s : State) : exec (.shareWrite a0 a1) s = execShareWrite a0 a1 s := rfl
theorem exec_partcfgWrite (a0 : Fin 8) (a1 : Word) (s : State) : exec (.partcfgWrite a0 a1) s = execPartcfgWrite a0 a1 s := rfl
theorem exec_vpsmapWrite (a0 : Fin 8) (a1 : Word) (s : State) : exec (.vpsmapWrite a0 a1) s = execVpsmapWrite a0 a1 s := rfl
theorem exec_pmaxWrite (a0 : Fin 8) (a1 : Word) (s : State) : exec (.pmaxWrite a0 a1) s = execPmaxWrite a0 a1 s := rfl
theorem exec_pmemWrite (a0 : Fin 8) (a1 : Word) (s : State) : exec (.pmemWrite a0 a1) s = execPmemWrite a0 a1 s := rfl
theorem exec_rscarveWrite (a0 : Word) (s : State) : exec (.rscarveWrite a0) s = execRscarveWrite a0 s := rfl
theorem exec_featacc0Write (a0 : Option (BitVec 32)) (a1 : Option (BitVec 32)) (s : State) : exec (.featacc0Write a0 a1) s = execFeatacc0Write a0 a1 s := rfl
theorem exec_featacc1Write (a0 : Option (BitVec 32)) (a1 : Option (BitVec 32)) (s : State) : exec (.featacc1Write a0 a1) s = execFeatacc1Write a0 a1 s := rfl
theorem exec_lateprqClear (a0 : Word) (s : State) : exec (.lateprqClear a0) s = execLateprqClear a0 s := rfl
theorem exec_deverrClear (a0 : Word) (s : State) : exec (.deverrClear a0) s = execDeverrClear a0 s := rfl
theorem exec_registerWrite (a0 : Fin 9) (a1 : BitVec 22) (a2 : Option (BitVec 32)) (a3 : Option (BitVec 32)) (s : State) : exec (.registerWrite a0 a1 a2 a3) s = execRegisterWrite a0 a1 a2 a3 s := rfl
theorem exec_vfFreeze (a0 : Fin 9) (s : State) : exec (.vfFreeze a0) s = execVfFreeze a0 s := rfl
theorem exec_vfImportAck (a0 : Fin 9) (s : State) : exec (.vfImportAck a0) s = execVfImportAck a0 s := rfl
theorem exec_pgtUpdateConfirm (a0 : Fin 9) (a1 : Nat) (s : State) : exec (.pgtUpdateConfirm a0 a1) s = execPgtUpdateConfirm a0 a1 s := rfl
theorem exec_endMarker (a0 : Marker) (s : State) : exec (.endMarker a0) s = execEndMarker a0 s := rfl
theorem exec_deviceReset (a0 : List BootImage) (a1 : Bool) (a2 : BitVec 32) (a3 : BitVec 24) (s : State) : exec (.deviceReset a0 a1 a2 a3) s = execDeviceReset a0 a1 a2 a3 s := rfl
theorem exec_getVersion (s : State) : exec .getVersion s = execGetVersion s := rfl
theorem exec_getCapabilities (s : State) : exec .getCapabilities s = execGetCapabilities s := rfl
theorem exec_negotiateAlgorithms (s : State) : exec .negotiateAlgorithms s = execNegotiateAlgorithms s := rfl
theorem exec_getDigests (s : State) : exec .getDigests s = execGetDigests s := rfl
theorem exec_getCertificate (s : State) : exec .getCertificate s = execGetCertificate s := rfl
theorem exec_challenge (s : State) : exec .challenge s = execChallenge s := rfl
theorem exec_getMeasurements (s : State) : exec .getMeasurements s = execGetMeasurements s := rfl
theorem exec_ownershipTransfer (a0 : Signature) (a1 : BitVec 256) (s : State) : exec (.ownershipTransfer a0 a1) s = execOwnershipTransfer a0 a1 s := rfl
theorem exec_recoveryCommand (a0 : Signature) (a1 : BitVec 256) (s : State) : exec (.recoveryCommand a0 a1) s = execRecoveryCommand a0 a1 s := rfl
theorem exec_portLinkTraining (a0 : Bool) (a1 : Option (Nat × Nat)) (s : State) : exec (.portLinkTraining a0 a1) s = execPortLinkTraining a0 a1 s := rfl
theorem exec_inboundPcieWrite (a0 : Nat) (a1 : Bool) (a2 : List Byte) (s : State) : exec (.inboundPcieWrite a0 a1 a2) s = execInboundPcieWrite a0 a1 a2 s := rfl
theorem exec_signalLineRaise (a0 : BitVec 8) (a1 : Word) (s : State) : exec (.signalLineRaise a0 a1) s = execSignalLineRaise a0 a1 s := rfl
theorem exec_frankingQuotaAddition (a0 : Fin 128) (a1 : Word) (s : State) : exec (.frankingQuotaAddition a0 a1) s = execFrankingQuotaAddition a0 a1 s := rfl
theorem exec_priReenable (a0 : PriGrant) (s : State) : exec (.priReenable a0) s = execPriReenable a0 s := rfl

end Sys2Proof.Machine
end

