-- ==== Sys2Proof/Laws/Tab.lean ====
section
/-! SUPPORT. Laws of the sparse tables: read after write, and that every operation keeps the canonical form. -/

namespace Sys2Proof

open Machine

variable {α : Type}

/-! ### Read after write -/

@[simp] theorem Tab.get_nil (d : α) (k : Nat) : Tab.get d [] k = d := rfl

@[simp] theorem find_nil (k : Nat) : find ([] : Tab α) k = none := rfl

theorem Tab.get_eq_find (d : α) (t : Tab α) (k : Nat) : Tab.get d t k = (find t k).getD d := by
  induction t with
  | nil => rfl
  | cons e t ih =>
    simp only [Tab.get, find]
    split <;> first | rfl | exact ih

theorem find_put (t : Tab α) (k j : Nat) (v : α) :
    find (Tab.put k v t) j = if j = k then some v else find t j := by
  induction t with
  | nil => simp [Tab.put, find, eq_comm]
  | cons e t ih =>
    obtain ⟨k', v'⟩ := e
    simp only [Tab.put]
    split
    · simp only [find, eq_comm]
    · split
      · subst_vars
        simp only [find, eq_comm]
        split <;> simp_all
      · simp only [find, ih]
        split
        · subst_vars
          rw [if_neg (by omega)]
        · rfl

@[simp] theorem find_put_self (t : Tab α) (k : Nat) (v : α) : find (Tab.put k v t) k = some v := by
  simp [find_put]

theorem find_put_ne (t : Tab α) {k j : Nat} (v : α) (h : j ≠ k) : find (Tab.put k v t) j = find t j := by
  simp [find_put, h]

theorem find_del (t : Tab α) (k j : Nat) : find (Tab.del k t) j = if j = k then none else find t j := by
  induction t with
  | nil => simp [Tab.del]
  | cons e t ih =>
    obtain ⟨k', v'⟩ := e
    simp only [Tab.del]
    split
    · subst_vars
      simp only [ih, find]
      split
      · rfl
      · rw [if_neg (by omega)]
    · simp only [find, ih]
      split
      · subst_vars
        rw [if_neg (by omega)]
      · rfl

theorem Tab.get_set [DecidableEq α] (d : α) (t : Tab α) (k j : Nat) (v : α) :
    Tab.get d (Tab.set d t k v) j = if j = k then v else Tab.get d t j := by
  simp only [Tab.get_eq_find, Tab.set]
  split
  · rw [find_del]
    split <;> simp_all
  · rw [find_put]
    split <;> simp_all

@[simp] theorem Tab.get_set_self [DecidableEq α] (d : α) (t : Tab α) (k : Nat) (v : α) :
    Tab.get d (Tab.set d t k v) k = v := by
  simp [Tab.get_set]

theorem Tab.get_set_ne [DecidableEq α] (d : α) (t : Tab α) {k j : Nat} (v : α) (h : j ≠ k) :
    Tab.get d (Tab.set d t k v) j = Tab.get d t j := by
  simp [Tab.get_set, h]

theorem Tab.get_upd [DecidableEq α] (d : α) (t : Tab α) (k j : Nat) (f : α → α) :
    Tab.get d (Tab.upd d t k f) j = if j = k then f (Tab.get d t k) else Tab.get d t j := Tab.get_set ..

/-! ### The canonical form -/

/-- A bound below every key. -/
def Below (lo : Option Nat) (k : Nat) : Prop := ∀ l, lo = some l → l < k

theorem Tab.wfFrom_cons [DecidableEq α] (d : α) (lo : Option Nat) (k : Nat) (v : α) (t : Tab α) :
    Tab.wfFrom d lo ((k, v) :: t) = true ↔ Below lo k ∧ v ≠ d ∧ Tab.wfFrom d (some k) t = true := by
  cases lo <;> simp [Tab.wfFrom, Below, and_assoc]

theorem Tab.wfFrom_mono [DecidableEq α] (d : α) {lo lo' : Option Nat} {t : Tab α}
    (h : Tab.wfFrom d lo t = true) (hl : ∀ k, Below lo k → Below lo' k) : Tab.wfFrom d lo' t = true := by
  cases t with
  | nil => rfl
  | cons e t =>
    rw [Tab.wfFrom_cons] at h ⊢
    exact ⟨hl _ h.1, h.2⟩

theorem Tab.wfFrom_put [DecidableEq α] (d : α) (k : Nat) (v : α) (hv : v ≠ d) (lo : Option Nat) (t : Tab α)
    (hk : Below lo k) (h : Tab.wfFrom d lo t = true) : Tab.wfFrom d lo (Tab.put k v t) = true := by
  induction t generalizing lo with
  | nil => exact (Tab.wfFrom_cons ..).mpr ⟨hk, hv, rfl⟩
  | cons e t ih =>
    obtain ⟨k', v'⟩ := e
    rw [Tab.wfFrom_cons] at h
    simp only [Tab.put]
    split
    · rw [Tab.wfFrom_cons, Tab.wfFrom_cons]
      exact ⟨hk, hv, fun l e => by cases e; assumption, h.2⟩
    · split
      · subst_vars
        rw [Tab.wfFrom_cons]
        exact ⟨hk, hv, h.2.2⟩
      · rw [Tab.wfFrom_cons]
        exact ⟨h.1, h.2.1, ih _ (fun l e => by cases e; omega) h.2.2⟩

theorem Tab.wfFrom_filter [DecidableEq α] (d : α) (p : Nat × α → Bool) (lo : Option Nat) (t : Tab α)
    (h : Tab.wfFrom d lo t = true) : Tab.wfFrom d lo (t.filter p) = true := by
  induction t generalizing lo with
  | nil => rfl
  | cons e t ih =>
    obtain ⟨k, v⟩ := e
    rw [Tab.wfFrom_cons] at h
    rw [List.filter_cons]
    split
    · rw [Tab.wfFrom_cons]
      exact ⟨h.1, h.2.1, ih _ h.2.2⟩
    · exact Tab.wfFrom_mono d (ih _ h.2.2) (fun j hj l hl => by
        have := h.1 l hl
        have := hj k rfl
        omega)

theorem Tab.del_eq_filter (k : Nat) (t : Tab α) : Tab.del k t = t.filter (fun e => decide (k ≠ e.1)) := by
  induction t with
  | nil => rfl
  | cons e t ih =>
    obtain ⟨k', v⟩ := e
    simp only [Tab.del, List.filter_cons, ih]
    split <;> simp_all

theorem Tab.wf_put [DecidableEq α] (d : α) (k : Nat) (v : α) (t : Tab α) (hv : v ≠ d) (h : Tab.wf d t = true) :
    Tab.wf d (Tab.put k v t) = true := Tab.wfFrom_put d k v hv none t (fun _ e => by cases e) h

theorem Tab.wf_del [DecidableEq α] (d : α) (k : Nat) (t : Tab α) (h : Tab.wf d t = true) :
    Tab.wf d (Tab.del k t) = true := by
  rw [Tab.del_eq_filter]
  exact Tab.wfFrom_filter d _ none t h

theorem Tab.wf_set [DecidableEq α] (d : α) (k : Nat) (v : α) (t : Tab α) (h : Tab.wf d t = true) :
    Tab.wf d (Tab.set d t k v) = true := by
  unfold Tab.set
  split
  · exact Tab.wf_del d k t h
  · exact Tab.wf_put d k v t ‹_› h

theorem Tab.wf_upd [DecidableEq α] (d : α) (k : Nat) (f : α → α) (t : Tab α) (h : Tab.wf d t = true) :
    Tab.wf d (Tab.upd d t k f) = true := Tab.wf_set d k _ t h

theorem Tab.wf_filter [DecidableEq α] (d : α) (p : Nat × α → Bool) (t : Tab α) (h : Tab.wf d t = true) :
    Tab.wf d (t.filter p) = true := Tab.wfFrom_filter d p none t h

/-- Every key of the table is below `b`. -/
def KeysBelow (b : Nat) (t : Tab α) : Prop := ∀ e ∈ t, e.1 < b

theorem Tab.wfFrom_append [DecidableEq α] (d : α) (b : Nat) (lo : Option Nat) (t u : Tab α)
    (ht : Tab.wfFrom d lo t = true) (hb : KeysBelow b t) (hu : Tab.wfFrom d lo u = true)
    (hub : ∀ e ∈ u, b ≤ e.1) : Tab.wfFrom d lo (t ++ u) = true := by
  induction t generalizing lo with
  | nil => simpa using hu
  | cons e t ih =>
    obtain ⟨k, v⟩ := e
    rw [Tab.wfFrom_cons] at ht
    rw [List.cons_append, Tab.wfFrom_cons]
    refine ⟨ht.1, ht.2.1, ih _ ht.2.2 (fun e he => hb e (by simp [he])) ?_⟩
    have hk : k < b := hb (k, v) (by simp)
    cases u with
    | nil => rfl
    | cons e' u =>
      obtain ⟨k', v'⟩ := e'
      rw [Tab.wfFrom_cons] at hu ⊢
      refine ⟨fun l hl => ?_, hu.2⟩
      cases hl
      have := hub (k', v') (by simp)
      simp only at this
      omega

theorem entriesOf_keys [DecidableEq α] (d : α) (a : Nat) (vs : List α) :
    ∀ e ∈ entriesOf d a vs, a ≤ e.1 ∧ e.1 < a + vs.length := by
  induction vs generalizing a with
  | nil => simp [entriesOf]
  | cons v vs ih =>
    intro e he
    simp only [entriesOf] at he
    have key : e ∈ entriesOf d (a + 1) vs → a ≤ e.1 ∧ e.1 < a + (v :: vs).length := fun h => by
      have := ih _ e h
      simp only [List.length_cons]
      omega
    split at he
    · exact key he
    · rcases List.mem_cons.mp he with rfl | h
      · simp
      · exact key h

theorem entriesOf_wf [DecidableEq α] (d : α) (a : Nat) (vs : List α) (lo : Option Nat) (hlo : Below lo a) :
    Tab.wfFrom d lo (entriesOf d a vs) = true := by
  induction vs generalizing a lo with
  | nil => rfl
  | cons v vs ih =>
    simp only [entriesOf]
    split
    · exact ih _ _ (fun l e => by have := hlo l e; omega)
    · rw [Tab.wfFrom_cons]
      exact ⟨hlo, ‹_›, ih _ _ (fun l e => by cases e; omega)⟩

theorem splice_wf [DecidableEq α] (d : α) (t : Tab α) (a : Nat) (vs : List α) (h : Tab.wf d t = true) :
    Tab.wf d (splice d t a vs) = true := by
  unfold splice
  refine Tab.wfFrom_append d (a + vs.length) none _ _ (Tab.wfFrom_append d a none _ _ (Tab.wf_filter d _ t h)
    (fun e he => by simpa using (List.mem_filter.mp he).2) (entriesOf_wf d a vs none (fun _ e => by cases e))
    (fun e he => (entriesOf_keys d a vs e he).1)) ?_ (Tab.wf_filter d _ t h)
    (fun e he => by simpa using (List.mem_filter.mp he).2)
  intro e he
  rcases List.mem_append.mp he with he | he
  · have : e.1 < a := by simpa using (List.mem_filter.mp he).2
    omega
  · exact (entriesOf_keys d a vs e he).2

theorem find_filter_keep (p : Nat × α → Bool) (t : Tab α) (k : Nat) (hp : ∀ v, p (k, v) = true) :
    find (t.filter p) k = find t k := by
  induction t with
  | nil => rfl
  | cons e t ih =>
    obtain ⟨k', v⟩ := e
    rw [List.filter_cons]
    by_cases hk : k' = k
    · subst hk
      simp [hp, find]
    · split <;> simp [find, hk, ih]

theorem find_filter_drop (p : Nat × α → Bool) (t : Tab α) (k : Nat) (hp : ∀ v, p (k, v) = false) :
    find (t.filter p) k = none := by
  induction t with
  | nil => rfl
  | cons e t ih =>
    obtain ⟨k', v⟩ := e
    rw [List.filter_cons]
    by_cases hk : k' = k
    · subst hk
      simp [hp, ih]
    · split <;> simp [find, hk, ih]

theorem find_entriesOf_out [DecidableEq α] (d : α) (a : Nat) (vs : List α) (k : Nat)
    (h : k < a ∨ a + vs.length ≤ k) : find (entriesOf d a vs) k = none := by
  induction vs generalizing a with
  | nil => rfl
  | cons v vs ih =>
    simp only [List.length_cons] at h
    simp only [entriesOf]
    split
    · exact ih _ (by omega)
    · rw [find, if_neg (by omega)]
      exact ih _ (by omega)

theorem get_entriesOf [DecidableEq α] (d : α) (a : Nat) (vs : List α) (i : Nat) (h : i < vs.length) :
    Tab.get d (entriesOf d a vs) (a + i) = vs[i] := by
  induction vs generalizing a i with
  | nil => simp at h
  | cons v vs ih =>
    simp only [entriesOf]
    cases i with
    | zero =>
      split
      · subst_vars
        simp [Tab.get_eq_find, find_entriesOf_out]
      · simp [Tab.get]
    | succ i =>
      have hi : i < vs.length := by simpa using h
      have := ih (a + 1) i hi
      rw [show a + 1 + i = a + (i + 1) by omega] at this
      split
      · simpa using this
      · rw [Tab.get, if_neg (by omega)]
        simpa using this

theorem find_splice [DecidableEq α] (d : α) (t : Tab α) (a : Nat) (vs : List α) (k : Nat) :
    find (splice d t a vs) k = if a ≤ k ∧ k < a + vs.length then find (entriesOf d a vs) k else find t k := by
  have happ : ∀ (u w : Tab α), find (u ++ w) k = (find u k).or (find w k) := by
    intro u w
    induction u with
    | nil => simp
    | cons e u ih =>
      simp only [List.cons_append, find, ih]
      split <;> simp
  unfold splice
  rw [happ, happ]
  by_cases hlt : k < a
  · rw [find_filter_keep _ _ _ (by simp [hlt]), find_entriesOf_out _ _ _ _ (Or.inl hlt),
      find_filter_drop _ _ _ (by simp; omega), if_neg (by omega)]
    simp
  · rw [find_filter_drop _ _ _ (by simp; omega)]
    by_cases hge : a + vs.length ≤ k
    · rw [find_entriesOf_out _ _ _ _ (Or.inr hge), find_filter_keep _ _ _ (by simp [hge]), if_neg (by omega)]
      simp
    · rw [find_filter_drop _ _ _ (by simp; omega), if_pos (by omega)]
      simp

/-- What a written range reads as. -/
theorem get_splice [DecidableEq α] (d : α) (t : Tab α) (a : Nat) (vs : List α) (k : Nat) :
    Tab.get d (splice d t a vs) k = if h : a ≤ k ∧ k < a + vs.length then vs[k - a] else Tab.get d t k := by
  rw [Tab.get_eq_find, find_splice]
  split
  · next h =>
    have := get_entriesOf d a vs (k - a) (by omega)
    rw [show a + (k - a) = k by omega] at this
    rw [← Tab.get_eq_find, this]
  · rw [Tab.get_eq_find]

end Sys2Proof
end

