-- ==== Sys2Proof/Laws/State.lean ====
section
/-! SUPPORT. What each shared update of the state leaves as it was, one lemma a field, and the reads of the parts it
changes. -/

namespace Sys2Proof.Machine

/-! ### Sequencers of a core-task -/

@[simp] theorem CoreTask.seq_setSeq (c : CoreTask) (q : SeqId) (v : Seq) : (c.setSeq q v).seq q = v := by
  cases q <;> rfl

theorem CoreTask.seq_setSeq_ne (c : CoreTask) {q p : SeqId} (v : Seq) (h : p ≠ q) : (c.setSeq q v).seq p = c.seq p := by
  cases q <;> cases p <;> first | rfl | exact absurd rfl h

@[simp] theorem CoreTask.setSeq_setSeq (c : CoreTask) (q : SeqId) (v w : Seq) :
    (c.setSeq q v).setSeq q w = c.setSeq q w := by
  cases q <;> rfl

@[simp] theorem CoreTask.setSeq_seq (c : CoreTask) (q : SeqId) : c.setSeq q (c.seq q) = c := by
  cases q <;> rfl

@[simp] theorem CoreTask.seq_updSeq (c : CoreTask) (q : SeqId) (f : Seq → Seq) :
    (c.updSeq q f).seq q = f (c.seq q) := CoreTask.seq_setSeq ..

theorem CoreTask.seq_updSeq_ne (c : CoreTask) {q p : SeqId} (f : Seq → Seq) (h : p ≠ q) :
    (c.updSeq q f).seq p = c.seq p := CoreTask.seq_setSeq_ne _ _ h

@[simp] theorem CoreTask.updSeq_updSeq (c : CoreTask) (q : SeqId) (f g : Seq → Seq) :
    (c.updSeq q f).updSeq q g = c.updSeq q (fun s => g (f s)) := by
  simp [CoreTask.updSeq]

/-! ### Registers of a sequencer (R79) -/

@[simp] theorem Seq.rd_zero (q : Seq) : q.rd 0 = 0 := rfl

@[simp] theorem Seq.wr_zero (q : Seq) (v : Word) : q.wr 0 v = q := rfl

theorem Seq.rd_wr (q : Seq) (d r : GReg) (v : Word) : (q.wr d v).rd r = if r = d ∧ r ≠ 0 then v else q.rd r := by
  unfold Seq.wr Seq.rd
  by_cases hd : d = 0
  · by_cases hr : r = 0 <;> simp_all
  · by_cases hr : r = 0
    · simp [hr]
    · simp only [hd, hr, if_false, Tab.get_set, Fin.val_inj, ne_eq, not_false_eq_true, and_true]

/-! ### Fields that an update of a task, a core-task or an island leaves -/

@[simp] theorem State.setTask_agenda (s : State) (a : Nat) (t : Task) : (s.setTask a t).agenda = s.agenda := rfl
@[simp] theorem State.setTask_tick (s : State) (a : Nat) (t : Task) : (s.setTask a t).tick = s.tick := rfl
@[simp] theorem State.setTask_cur (s : State) (a : Nat) (t : Task) : (s.setTask a t).cur = s.cur := rfl
@[simp] theorem State.setTask_fresh (s : State) (a : Nat) (t : Task) : (s.setTask a t).fresh = s.fresh := rfl
@[simp] theorem State.setTask_svc (s : State) (a : Nat) (t : Task) : (s.setTask a t).svc = s.svc := rfl
@[simp] theorem State.setTask_dtime (s : State) (a : Nat) (t : Task) : (s.setTask a t).dtime = s.dtime := rfl
@[simp] theorem State.setTask_gens (s : State) (a : Nat) (t : Task) : (s.setTask a t).gens = s.gens := rfl
@[simp] theorem State.setTask_jobs (s : State) (a : Nat) (t : Task) : (s.setTask a t).jobs = s.jobs := rfl
@[simp] theorem State.setTask_turns (s : State) (a : Nat) (t : Task) : (s.setTask a t).turns = s.turns := rfl
@[simp] theorem State.setTask_blocked (s : State) (a : Nat) (t : Task) : (s.setTask a t).blocked = s.blocked := rfl
@[simp] theorem State.setTask_r (s : State) (a : Nat) (t : Task) : (s.setTask a t).r = s.r := rfl
@[simp] theorem State.setTask_queues (s : State) (a : Nat) (t : Task) : (s.setTask a t).queues = s.queues := rfl
@[simp] theorem State.setTask_rr (s : State) (a : Nat) (t : Task) : (s.setTask a t).rr = s.rr := rfl
@[simp] theorem State.setTask_multi (s : State) (a : Nat) (t : Task) : (s.setTask a t).multi = s.multi := rfl
@[simp] theorem State.setTask_streams (s : State) (a : Nat) (t : Task) : (s.setTask a t).streams = s.streams := rfl
@[simp] theorem State.setTask_encs (s : State) (a : Nat) (t : Task) : (s.setTask a t).encs = s.encs := rfl
@[simp] theorem State.setTask_letters (s : State) (a : Nat) (t : Task) : (s.setTask a t).letters = s.letters := rfl
@[simp] theorem State.setTask_encTurn (s : State) (a : Nat) (t : Task) : (s.setTask a t).encTurn = s.encTurn := rfl
@[simp] theorem State.setTask_pw (s : State) (a : Nat) (t : Task) : (s.setTask a t).pw = s.pw := rfl
@[simp] theorem State.setTask_ports (s : State) (a : Nat) (t : Task) : (s.setTask a t).ports = s.ports := rfl
@[simp] theorem State.setTask_service (s : State) (a : Nat) (t : Task) : (s.setTask a t).service = s.service := rfl
@[simp] theorem State.setTask_irqs (s : State) (a : Nat) (t : Task) : (s.setTask a t).irqs = s.irqs := rfl
@[simp] theorem State.setTask_aer (s : State) (a : Nat) (t : Task) : (s.setTask a t).aer = s.aer := rfl
@[simp] theorem State.setTask_m_dpa (s : State) (a : Nat) (t : Task) : (s.setTask a t).m.dpa = s.m.dpa := rfl
@[simp] theorem State.setTask_m_host (s : State) (a : Nat) (t : Task) : (s.setTask a t).m.host = s.m.host := rfl
@[simp] theorem State.setTask_m_keyTags (s : State) (a : Nat) (t : Task) : (s.setTask a t).m.keyTags = s.m.keyTags := rfl
@[simp] theorem State.setTask_m_races (s : State) (a : Nat) (t : Task) : (s.setTask a t).m.races = s.m.races := rfl
@[simp] theorem State.setTask_m_slices (s : State) (a : Nat) (t : Task) : (s.setTask a t).m.slices = s.m.slices := rfl
@[simp] theorem State.setTask_m_futures (s : State) (a : Nat) (t : Task) : (s.setTask a t).m.futures = s.m.futures := rfl
@[simp] theorem State.setTask_m_actions (s : State) (a : Nat) (t : Task) : (s.setTask a t).m.actions = s.m.actions := rfl
@[simp] theorem State.setTask_m_first (s : State) (a : Nat) (t : Task) : (s.setTask a t).m.first = s.m.first := rfl
@[simp] theorem State.setTask_m_second (s : State) (a : Nat) (t : Task) : (s.setTask a t).m.second = s.m.second := rfl
@[simp] theorem State.setTask_m_hostX (s : State) (a : Nat) (t : Task) : (s.setTask a t).m.hostX = s.m.hostX := rfl
@[simp] theorem State.setTask_m_stream (s : State) (a : Nat) (t : Task) : (s.setTask a t).m.stream = s.m.stream := rfl
@[simp] theorem State.setTask_m_misses (s : State) (a : Nat) (t : Task) : (s.setTask a t).m.misses = s.m.misses := rfl

@[simp] theorem State.updTask_agenda (s : State) (a : Nat) (f : Task → Task) : (s.updTask a f).agenda = s.agenda := by
  unfold State.updTask; split <;> rfl
@[simp] theorem State.updTask_tick (s : State) (a : Nat) (f : Task → Task) : (s.updTask a f).tick = s.tick := by
  unfold State.updTask; split <;> rfl
@[simp] theorem State.updTask_cur (s : State) (a : Nat) (f : Task → Task) : (s.updTask a f).cur = s.cur := by
  unfold State.updTask; split <;> rfl
@[simp] theorem State.updTask_fresh (s : State) (a : Nat) (f : Task → Task) : (s.updTask a f).fresh = s.fresh := by
  unfold State.updTask; split <;> rfl
@[simp] theorem State.updTask_svc (s : State) (a : Nat) (f : Task → Task) : (s.updTask a f).svc = s.svc := by
  unfold State.updTask; split <;> rfl
@[simp] theorem State.updTask_dtime (s : State) (a : Nat) (f : Task → Task) : (s.updTask a f).dtime = s.dtime := by
  unfold State.updTask; split <;> rfl
@[simp] theorem State.updTask_gens (s : State) (a : Nat) (f : Task → Task) : (s.updTask a f).gens = s.gens := by
  unfold State.updTask; split <;> rfl
@[simp] theorem State.updTask_jobs (s : State) (a : Nat) (f : Task → Task) : (s.updTask a f).jobs = s.jobs := by
  unfold State.updTask; split <;> rfl
@[simp] theorem State.updTask_turns (s : State) (a : Nat) (f : Task → Task) : (s.updTask a f).turns = s.turns := by
  unfold State.updTask; split <;> rfl
@[simp] theorem State.updTask_blocked (s : State) (a : Nat) (f : Task → Task) : (s.updTask a f).blocked = s.blocked := by
  unfold State.updTask; split <;> rfl
@[simp] theorem State.updTask_r (s : State) (a : Nat) (f : Task → Task) : (s.updTask a f).r = s.r := by
  unfold State.updTask; split <;> rfl
@[simp] theorem State.updTask_queues (s : State) (a : Nat) (f : Task → Task) : (s.updTask a f).queues = s.queues := by
  unfold State.updTask; split <;> rfl
@[simp] theorem State.updTask_rr (s : State) (a : Nat) (f : Task → Task) : (s.updTask a f).rr = s.rr := by
  unfold State.updTask; split <;> rfl
@[simp] theorem State.updTask_multi (s : State) (a : Nat) (f : Task → Task) : (s.updTask a f).multi = s.multi := by
  unfold State.updTask; split <;> rfl
@[simp] theorem State.updTask_streams (s : State) (a : Nat) (f : Task → Task) : (s.updTask a f).streams = s.streams := by
  unfold State.updTask; split <;> rfl
@[simp] theorem State.updTask_encs (s : State) (a : Nat) (f : Task → Task) : (s.updTask a f).encs = s.encs := by
  unfold State.updTask; split <;> rfl
@[simp] theorem State.updTask_letters (s : State) (a : Nat) (f : Task → Task) : (s.updTask a f).letters = s.letters := by
  unfold State.updTask; split <;> rfl
@[simp] theorem State.updTask_encTurn (s : State) (a : Nat) (f : Task → Task) : (s.updTask a f).encTurn = s.encTurn := by
  unfold State.updTask; split <;> rfl
@[simp] theorem State.updTask_pw (s : State) (a : Nat) (f : Task → Task) : (s.updTask a f).pw = s.pw := by
  unfold State.updTask; split <;> rfl
@[simp] theorem State.updTask_ports (s : State) (a : Nat) (f : Task → Task) : (s.updTask a f).ports = s.ports := by
  unfold State.updTask; split <;> rfl
@[simp] theorem State.updTask_service (s : State) (a : Nat) (f : Task → Task) : (s.updTask a f).service = s.service := by
  unfold State.updTask; split <;> rfl
@[simp] theorem State.updTask_irqs (s : State) (a : Nat) (f : Task → Task) : (s.updTask a f).irqs = s.irqs := by
  unfold State.updTask; split <;> rfl
@[simp] theorem State.updTask_aer (s : State) (a : Nat) (f : Task → Task) : (s.updTask a f).aer = s.aer := by
  unfold State.updTask; split <;> rfl
@[simp] theorem State.updTask_m_dpa (s : State) (a : Nat) (f : Task → Task) : (s.updTask a f).m.dpa = s.m.dpa := by
  unfold State.updTask; split <;> rfl
@[simp] theorem State.updTask_m_host (s : State) (a : Nat) (f : Task → Task) : (s.updTask a f).m.host = s.m.host := by
  unfold State.updTask; split <;> rfl
@[simp] theorem State.updTask_m_keyTags (s : State) (a : Nat) (f : Task → Task) : (s.updTask a f).m.keyTags = s.m.keyTags := by
  unfold State.updTask; split <;> rfl
@[simp] theorem State.updTask_m_races (s : State) (a : Nat) (f : Task → Task) : (s.updTask a f).m.races = s.m.races := by
  unfold State.updTask; split <;> rfl
@[simp] theorem State.updTask_m_slices (s : State) (a : Nat) (f : Task → Task) : (s.updTask a f).m.slices = s.m.slices := by
  unfold State.updTask; split <;> rfl
@[simp] theorem State.updTask_m_futures (s : State) (a : Nat) (f : Task → Task) : (s.updTask a f).m.futures = s.m.futures := by
  unfold State.updTask; split <;> rfl
@[simp] theorem State.updTask_m_actions (s : State) (a : Nat) (f : Task → Task) : (s.updTask a f).m.actions = s.m.actions := by
  unfold State.updTask; split <;> rfl
@[simp] theorem State.updTask_m_first (s : State) (a : Nat) (f : Task → Task) : (s.updTask a f).m.first = s.m.first := by
  unfold State.updTask; split <;> rfl
@[simp] theorem State.updTask_m_second (s : State) (a : Nat) (f : Task → Task) : (s.updTask a f).m.second = s.m.second := by
  unfold State.updTask; split <;> rfl
@[simp] theorem State.updTask_m_hostX (s : State) (a : Nat) (f : Task → Task) : (s.updTask a f).m.hostX = s.m.hostX := by
  unfold State.updTask; split <;> rfl
@[simp] theorem State.updTask_m_stream (s : State) (a : Nat) (f : Task → Task) : (s.updTask a f).m.stream = s.m.stream := by
  unfold State.updTask; split <;> rfl
@[simp] theorem State.updTask_m_misses (s : State) (a : Nat) (f : Task → Task) : (s.updTask a f).m.misses = s.m.misses := by
  unfold State.updTask; split <;> rfl

@[simp] theorem State.putCt_agenda (s : State) (a b : Nat) (c : CoreTask) : (s.putCt a b c).agenda = s.agenda := by
  unfold State.putCt; split <;> rfl
@[simp] theorem State.putCt_tick (s : State) (a b : Nat) (c : CoreTask) : (s.putCt a b c).tick = s.tick := by
  unfold State.putCt; split <;> rfl
@[simp] theorem State.putCt_cur (s : State) (a b : Nat) (c : CoreTask) : (s.putCt a b c).cur = s.cur := by
  unfold State.putCt; split <;> rfl
@[simp] theorem State.putCt_fresh (s : State) (a b : Nat) (c : CoreTask) : (s.putCt a b c).fresh = s.fresh := by
  unfold State.putCt; split <;> rfl
@[simp] theorem State.putCt_svc (s : State) (a b : Nat) (c : CoreTask) : (s.putCt a b c).svc = s.svc := by
  unfold State.putCt; split <;> rfl
@[simp] theorem State.putCt_dtime (s : State) (a b : Nat) (c : CoreTask) : (s.putCt a b c).dtime = s.dtime := by
  unfold State.putCt; split <;> rfl
@[simp] theorem State.putCt_gens (s : State) (a b : Nat) (c : CoreTask) : (s.putCt a b c).gens = s.gens := by
  unfold State.putCt; split <;> rfl
@[simp] theorem State.putCt_jobs (s : State) (a b : Nat) (c : CoreTask) : (s.putCt a b c).jobs = s.jobs := by
  unfold State.putCt; split <;> rfl
@[simp] theorem State.putCt_turns (s : State) (a b : Nat) (c : CoreTask) : (s.putCt a b c).turns = s.turns := by
  unfold State.putCt; split <;> rfl
@[simp] theorem State.putCt_blocked (s : State) (a b : Nat) (c : CoreTask) : (s.putCt a b c).blocked = s.blocked := by
  unfold State.putCt; split <;> rfl
@[simp] theorem State.putCt_r (s : State) (a b : Nat) (c : CoreTask) : (s.putCt a b c).r = s.r := by
  unfold State.putCt; split <;> rfl
@[simp] theorem State.putCt_queues (s : State) (a b : Nat) (c : CoreTask) : (s.putCt a b c).queues = s.queues := by
  unfold State.putCt; split <;> rfl
@[simp] theorem State.putCt_rr (s : State) (a b : Nat) (c : CoreTask) : (s.putCt a b c).rr = s.rr := by
  unfold State.putCt; split <;> rfl
@[simp] theorem State.putCt_multi (s : State) (a b : Nat) (c : CoreTask) : (s.putCt a b c).multi = s.multi := by
  unfold State.putCt; split <;> rfl
@[simp] theorem State.putCt_streams (s : State) (a b : Nat) (c : CoreTask) : (s.putCt a b c).streams = s.streams := by
  unfold State.putCt; split <;> rfl
@[simp] theorem State.putCt_encs (s : State) (a b : Nat) (c : CoreTask) : (s.putCt a b c).encs = s.encs := by
  unfold State.putCt; split <;> rfl
@[simp] theorem State.putCt_letters (s : State) (a b : Nat) (c : CoreTask) : (s.putCt a b c).letters = s.letters := by
  unfold State.putCt; split <;> rfl
@[simp] theorem State.putCt_encTurn (s : State) (a b : Nat) (c : CoreTask) : (s.putCt a b c).encTurn = s.encTurn := by
  unfold State.putCt; split <;> rfl
@[simp] theorem State.putCt_pw (s : State) (a b : Nat) (c : CoreTask) : (s.putCt a b c).pw = s.pw := by
  unfold State.putCt; split <;> rfl
@[simp] theorem State.putCt_ports (s : State) (a b : Nat) (c : CoreTask) : (s.putCt a b c).ports = s.ports := by
  unfold State.putCt; split <;> rfl
@[simp] theorem State.putCt_service (s : State) (a b : Nat) (c : CoreTask) : (s.putCt a b c).service = s.service := by
  unfold State.putCt; split <;> rfl
@[simp] theorem State.putCt_irqs (s : State) (a b : Nat) (c : CoreTask) : (s.putCt a b c).irqs = s.irqs := by
  unfold State.putCt; split <;> rfl
@[simp] theorem State.putCt_aer (s : State) (a b : Nat) (c : CoreTask) : (s.putCt a b c).aer = s.aer := by
  unfold State.putCt; split <;> rfl
@[simp] theorem State.putCt_m_dpa (s : State) (a b : Nat) (c : CoreTask) : (s.putCt a b c).m.dpa = s.m.dpa := by
  unfold State.putCt; split <;> rfl
@[simp] theorem State.putCt_m_host (s : State) (a b : Nat) (c : CoreTask) : (s.putCt a b c).m.host = s.m.host := by
  unfold State.putCt; split <;> rfl
@[simp] theorem State.putCt_m_keyTags (s : State) (a b : Nat) (c : CoreTask) : (s.putCt a b c).m.keyTags = s.m.keyTags := by
  unfold State.putCt; split <;> rfl
@[simp] theorem State.putCt_m_races (s : State) (a b : Nat) (c : CoreTask) : (s.putCt a b c).m.races = s.m.races := by
  unfold State.putCt; split <;> rfl
@[simp] theorem State.putCt_m_slices (s : State) (a b : Nat) (c : CoreTask) : (s.putCt a b c).m.slices = s.m.slices := by
  unfold State.putCt; split <;> rfl
@[simp] theorem State.putCt_m_futures (s : State) (a b : Nat) (c : CoreTask) : (s.putCt a b c).m.futures = s.m.futures := by
  unfold State.putCt; split <;> rfl
@[simp] theorem State.putCt_m_actions (s : State) (a b : Nat) (c : CoreTask) : (s.putCt a b c).m.actions = s.m.actions := by
  unfold State.putCt; split <;> rfl
@[simp] theorem State.putCt_m_first (s : State) (a b : Nat) (c : CoreTask) : (s.putCt a b c).m.first = s.m.first := by
  unfold State.putCt; split <;> rfl
@[simp] theorem State.putCt_m_second (s : State) (a b : Nat) (c : CoreTask) : (s.putCt a b c).m.second = s.m.second := by
  unfold State.putCt; split <;> rfl
@[simp] theorem State.putCt_m_hostX (s : State) (a b : Nat) (c : CoreTask) : (s.putCt a b c).m.hostX = s.m.hostX := by
  unfold State.putCt; split <;> rfl
@[simp] theorem State.putCt_m_stream (s : State) (a b : Nat) (c : CoreTask) : (s.putCt a b c).m.stream = s.m.stream := by
  unfold State.putCt; split <;> rfl
@[simp] theorem State.putCt_m_misses (s : State) (a b : Nat) (c : CoreTask) : (s.putCt a b c).m.misses = s.m.misses := by
  unfold State.putCt; split <;> rfl

@[simp] theorem State.updCt_agenda (s : State) (a b : Nat) (f : CoreTask → CoreTask) : (s.updCt a b f).agenda = s.agenda := by
  unfold State.updCt; split <;> simp
@[simp] theorem State.updCt_tick (s : State) (a b : Nat) (f : CoreTask → CoreTask) : (s.updCt a b f).tick = s.tick := by
  unfold State.updCt; split <;> simp
@[simp] theorem State.updCt_cur (s : State) (a b : Nat) (f : CoreTask → CoreTask) : (s.updCt a b f).cur = s.cur := by
  unfold State.updCt; split <;> simp
@[simp] theorem State.updCt_fresh (s : State) (a b : Nat) (f : CoreTask → CoreTask) : (s.updCt a b f).fresh = s.fresh := by
  unfold State.updCt; split <;> simp
@[simp] theorem State.updCt_svc (s : State) (a b : Nat) (f : CoreTask → CoreTask) : (s.updCt a b f).svc = s.svc := by
  unfold State.updCt; split <;> simp
@[simp] theorem State.updCt_dtime (s : State) (a b : Nat) (f : CoreTask → CoreTask) : (s.updCt a b f).dtime = s.dtime := by
  unfold State.updCt; split <;> simp
@[simp] theorem State.updCt_gens (s : State) (a b : Nat) (f : CoreTask → CoreTask) : (s.updCt a b f).gens = s.gens := by
  unfold State.updCt; split <;> simp
@[simp] theorem State.updCt_jobs (s : State) (a b : Nat) (f : CoreTask → CoreTask) : (s.updCt a b f).jobs = s.jobs := by
  unfold State.updCt; split <;> simp
@[simp] theorem State.updCt_turns (s : State) (a b : Nat) (f : CoreTask → CoreTask) : (s.updCt a b f).turns = s.turns := by
  unfold State.updCt; split <;> simp
@[simp] theorem State.updCt_blocked (s : State) (a b : Nat) (f : CoreTask → CoreTask) : (s.updCt a b f).blocked = s.blocked := by
  unfold State.updCt; split <;> simp
@[simp] theorem State.updCt_r (s : State) (a b : Nat) (f : CoreTask → CoreTask) : (s.updCt a b f).r = s.r := by
  unfold State.updCt; split <;> simp
@[simp] theorem State.updCt_queues (s : State) (a b : Nat) (f : CoreTask → CoreTask) : (s.updCt a b f).queues = s.queues := by
  unfold State.updCt; split <;> simp
@[simp] theorem State.updCt_rr (s : State) (a b : Nat) (f : CoreTask → CoreTask) : (s.updCt a b f).rr = s.rr := by
  unfold State.updCt; split <;> simp
@[simp] theorem State.updCt_multi (s : State) (a b : Nat) (f : CoreTask → CoreTask) : (s.updCt a b f).multi = s.multi := by
  unfold State.updCt; split <;> simp
@[simp] theorem State.updCt_streams (s : State) (a b : Nat) (f : CoreTask → CoreTask) : (s.updCt a b f).streams = s.streams := by
  unfold State.updCt; split <;> simp
@[simp] theorem State.updCt_encs (s : State) (a b : Nat) (f : CoreTask → CoreTask) : (s.updCt a b f).encs = s.encs := by
  unfold State.updCt; split <;> simp
@[simp] theorem State.updCt_letters (s : State) (a b : Nat) (f : CoreTask → CoreTask) : (s.updCt a b f).letters = s.letters := by
  unfold State.updCt; split <;> simp
@[simp] theorem State.updCt_encTurn (s : State) (a b : Nat) (f : CoreTask → CoreTask) : (s.updCt a b f).encTurn = s.encTurn := by
  unfold State.updCt; split <;> simp
@[simp] theorem State.updCt_pw (s : State) (a b : Nat) (f : CoreTask → CoreTask) : (s.updCt a b f).pw = s.pw := by
  unfold State.updCt; split <;> simp
@[simp] theorem State.updCt_ports (s : State) (a b : Nat) (f : CoreTask → CoreTask) : (s.updCt a b f).ports = s.ports := by
  unfold State.updCt; split <;> simp
@[simp] theorem State.updCt_service (s : State) (a b : Nat) (f : CoreTask → CoreTask) : (s.updCt a b f).service = s.service := by
  unfold State.updCt; split <;> simp
@[simp] theorem State.updCt_irqs (s : State) (a b : Nat) (f : CoreTask → CoreTask) : (s.updCt a b f).irqs = s.irqs := by
  unfold State.updCt; split <;> simp
@[simp] theorem State.updCt_aer (s : State) (a b : Nat) (f : CoreTask → CoreTask) : (s.updCt a b f).aer = s.aer := by
  unfold State.updCt; split <;> simp
@[simp] theorem State.updCt_m_dpa (s : State) (a b : Nat) (f : CoreTask → CoreTask) : (s.updCt a b f).m.dpa = s.m.dpa := by
  unfold State.updCt; split <;> simp
@[simp] theorem State.updCt_m_host (s : State) (a b : Nat) (f : CoreTask → CoreTask) : (s.updCt a b f).m.host = s.m.host := by
  unfold State.updCt; split <;> simp
@[simp] theorem State.updCt_m_keyTags (s : State) (a b : Nat) (f : CoreTask → CoreTask) : (s.updCt a b f).m.keyTags = s.m.keyTags := by
  unfold State.updCt; split <;> simp
@[simp] theorem State.updCt_m_races (s : State) (a b : Nat) (f : CoreTask → CoreTask) : (s.updCt a b f).m.races = s.m.races := by
  unfold State.updCt; split <;> simp
@[simp] theorem State.updCt_m_slices (s : State) (a b : Nat) (f : CoreTask → CoreTask) : (s.updCt a b f).m.slices = s.m.slices := by
  unfold State.updCt; split <;> simp
@[simp] theorem State.updCt_m_futures (s : State) (a b : Nat) (f : CoreTask → CoreTask) : (s.updCt a b f).m.futures = s.m.futures := by
  unfold State.updCt; split <;> simp
@[simp] theorem State.updCt_m_actions (s : State) (a b : Nat) (f : CoreTask → CoreTask) : (s.updCt a b f).m.actions = s.m.actions := by
  unfold State.updCt; split <;> simp
@[simp] theorem State.updCt_m_first (s : State) (a b : Nat) (f : CoreTask → CoreTask) : (s.updCt a b f).m.first = s.m.first := by
  unfold State.updCt; split <;> simp
@[simp] theorem State.updCt_m_second (s : State) (a b : Nat) (f : CoreTask → CoreTask) : (s.updCt a b f).m.second = s.m.second := by
  unfold State.updCt; split <;> simp
@[simp] theorem State.updCt_m_hostX (s : State) (a b : Nat) (f : CoreTask → CoreTask) : (s.updCt a b f).m.hostX = s.m.hostX := by
  unfold State.updCt; split <;> simp
@[simp] theorem State.updCt_m_stream (s : State) (a b : Nat) (f : CoreTask → CoreTask) : (s.updCt a b f).m.stream = s.m.stream := by
  unfold State.updCt; split <;> simp
@[simp] theorem State.updCt_m_misses (s : State) (a b : Nat) (f : CoreTask → CoreTask) : (s.updCt a b f).m.misses = s.m.misses := by
  unfold State.updCt; split <;> simp

@[simp] theorem State.updSeq_agenda (s : State) (a : Agent) (f : Seq → Seq) : (s.updSeq a f).agenda = s.agenda := by
  simp [State.updSeq]
@[simp] theorem State.updSeq_tick (s : State) (a : Agent) (f : Seq → Seq) : (s.updSeq a f).tick = s.tick := by
  simp [State.updSeq]
@[simp] theorem State.updSeq_cur (s : State) (a : Agent) (f : Seq → Seq) : (s.updSeq a f).cur = s.cur := by
  simp [State.updSeq]
@[simp] theorem State.updSeq_fresh (s : State) (a : Agent) (f : Seq → Seq) : (s.updSeq a f).fresh = s.fresh := by
  simp [State.updSeq]
@[simp] theorem State.updSeq_svc (s : State) (a : Agent) (f : Seq → Seq) : (s.updSeq a f).svc = s.svc := by
  simp [State.updSeq]
@[simp] theorem State.updSeq_dtime (s : State) (a : Agent) (f : Seq → Seq) : (s.updSeq a f).dtime = s.dtime := by
  simp [State.updSeq]
@[simp] theorem State.updSeq_gens (s : State) (a : Agent) (f : Seq → Seq) : (s.updSeq a f).gens = s.gens := by
  simp [State.updSeq]
@[simp] theorem State.updSeq_jobs (s : State) (a : Agent) (f : Seq → Seq) : (s.updSeq a f).jobs = s.jobs := by
  simp [State.updSeq]
@[simp] theorem State.updSeq_turns (s : State) (a : Agent) (f : Seq → Seq) : (s.updSeq a f).turns = s.turns := by
  simp [State.updSeq]
@[simp] theorem State.updSeq_blocked (s : State) (a : Agent) (f : Seq → Seq) : (s.updSeq a f).blocked = s.blocked := by
  simp [State.updSeq]
@[simp] theorem State.updSeq_r (s : State) (a : Agent) (f : Seq → Seq) : (s.updSeq a f).r = s.r := by
  simp [State.updSeq]
@[simp] theorem State.updSeq_queues (s : State) (a : Agent) (f : Seq → Seq) : (s.updSeq a f).queues = s.queues := by
  simp [State.updSeq]
@[simp] theorem State.updSeq_rr (s : State) (a : Agent) (f : Seq → Seq) : (s.updSeq a f).rr = s.rr := by
  simp [State.updSeq]
@[simp] theorem State.updSeq_multi (s : State) (a : Agent) (f : Seq → Seq) : (s.updSeq a f).multi = s.multi := by
  simp [State.updSeq]
@[simp] theorem State.updSeq_streams (s : State) (a : Agent) (f : Seq → Seq) : (s.updSeq a f).streams = s.streams := by
  simp [State.updSeq]
@[simp] theorem State.updSeq_encs (s : State) (a : Agent) (f : Seq → Seq) : (s.updSeq a f).encs = s.encs := by
  simp [State.updSeq]
@[simp] theorem State.updSeq_letters (s : State) (a : Agent) (f : Seq → Seq) : (s.updSeq a f).letters = s.letters := by
  simp [State.updSeq]
@[simp] theorem State.updSeq_encTurn (s : State) (a : Agent) (f : Seq → Seq) : (s.updSeq a f).encTurn = s.encTurn := by
  simp [State.updSeq]
@[simp] theorem State.updSeq_pw (s : State) (a : Agent) (f : Seq → Seq) : (s.updSeq a f).pw = s.pw := by
  simp [State.updSeq]
@[simp] theorem State.updSeq_ports (s : State) (a : Agent) (f : Seq → Seq) : (s.updSeq a f).ports = s.ports := by
  simp [State.updSeq]
@[simp] theorem State.updSeq_service (s : State) (a : Agent) (f : Seq → Seq) : (s.updSeq a f).service = s.service := by
  simp [State.updSeq]
@[simp] theorem State.updSeq_irqs (s : State) (a : Agent) (f : Seq → Seq) : (s.updSeq a f).irqs = s.irqs := by
  simp [State.updSeq]
@[simp] theorem State.updSeq_aer (s : State) (a : Agent) (f : Seq → Seq) : (s.updSeq a f).aer = s.aer := by
  simp [State.updSeq]
@[simp] theorem State.updSeq_m_dpa (s : State) (a : Agent) (f : Seq → Seq) : (s.updSeq a f).m.dpa = s.m.dpa := by
  simp [State.updSeq]
@[simp] theorem State.updSeq_m_host (s : State) (a : Agent) (f : Seq → Seq) : (s.updSeq a f).m.host = s.m.host := by
  simp [State.updSeq]
@[simp] theorem State.updSeq_m_keyTags (s : State) (a : Agent) (f : Seq → Seq) : (s.updSeq a f).m.keyTags = s.m.keyTags := by
  simp [State.updSeq]
@[simp] theorem State.updSeq_m_races (s : State) (a : Agent) (f : Seq → Seq) : (s.updSeq a f).m.races = s.m.races := by
  simp [State.updSeq]
@[simp] theorem State.updSeq_m_slices (s : State) (a : Agent) (f : Seq → Seq) : (s.updSeq a f).m.slices = s.m.slices := by
  simp [State.updSeq]
@[simp] theorem State.updSeq_m_futures (s : State) (a : Agent) (f : Seq → Seq) : (s.updSeq a f).m.futures = s.m.futures := by
  simp [State.updSeq]
@[simp] theorem State.updSeq_m_actions (s : State) (a : Agent) (f : Seq → Seq) : (s.updSeq a f).m.actions = s.m.actions := by
  simp [State.updSeq]
@[simp] theorem State.updSeq_m_first (s : State) (a : Agent) (f : Seq → Seq) : (s.updSeq a f).m.first = s.m.first := by
  simp [State.updSeq]
@[simp] theorem State.updSeq_m_second (s : State) (a : Agent) (f : Seq → Seq) : (s.updSeq a f).m.second = s.m.second := by
  simp [State.updSeq]
@[simp] theorem State.updSeq_m_hostX (s : State) (a : Agent) (f : Seq → Seq) : (s.updSeq a f).m.hostX = s.m.hostX := by
  simp [State.updSeq]
@[simp] theorem State.updSeq_m_stream (s : State) (a : Agent) (f : Seq → Seq) : (s.updSeq a f).m.stream = s.m.stream := by
  simp [State.updSeq]
@[simp] theorem State.updSeq_m_misses (s : State) (a : Agent) (f : Seq → Seq) : (s.updSeq a f).m.misses = s.m.misses := by
  simp [State.updSeq]

@[simp] theorem State.raise_agenda (s : State) (a : Agent) (t : Trap) : (s.raise a t).agenda = s.agenda := by
  simp [State.raise]
@[simp] theorem State.raise_tick (s : State) (a : Agent) (t : Trap) : (s.raise a t).tick = s.tick := by
  simp [State.raise]
@[simp] theorem State.raise_cur (s : State) (a : Agent) (t : Trap) : (s.raise a t).cur = s.cur := by
  simp [State.raise]
@[simp] theorem State.raise_fresh (s : State) (a : Agent) (t : Trap) : (s.raise a t).fresh = s.fresh := by
  simp [State.raise]
@[simp] theorem State.raise_svc (s : State) (a : Agent) (t : Trap) : (s.raise a t).svc = s.svc := by
  simp [State.raise]
@[simp] theorem State.raise_dtime (s : State) (a : Agent) (t : Trap) : (s.raise a t).dtime = s.dtime := by
  simp [State.raise]
@[simp] theorem State.raise_gens (s : State) (a : Agent) (t : Trap) : (s.raise a t).gens = s.gens := by
  simp [State.raise]
@[simp] theorem State.raise_jobs (s : State) (a : Agent) (t : Trap) : (s.raise a t).jobs = s.jobs := by
  simp [State.raise]
@[simp] theorem State.raise_turns (s : State) (a : Agent) (t : Trap) : (s.raise a t).turns = s.turns := by
  simp [State.raise]
@[simp] theorem State.raise_blocked (s : State) (a : Agent) (t : Trap) : (s.raise a t).blocked = s.blocked := by
  simp [State.raise]
@[simp] theorem State.raise_r (s : State) (a : Agent) (t : Trap) : (s.raise a t).r = s.r := by
  simp [State.raise]
@[simp] theorem State.raise_queues (s : State) (a : Agent) (t : Trap) : (s.raise a t).queues = s.queues := by
  simp [State.raise]
@[simp] theorem State.raise_rr (s : State) (a : Agent) (t : Trap) : (s.raise a t).rr = s.rr := by
  simp [State.raise]
@[simp] theorem State.raise_multi (s : State) (a : Agent) (t : Trap) : (s.raise a t).multi = s.multi := by
  simp [State.raise]
@[simp] theorem State.raise_streams (s : State) (a : Agent) (t : Trap) : (s.raise a t).streams = s.streams := by
  simp [State.raise]
@[simp] theorem State.raise_encs (s : State) (a : Agent) (t : Trap) : (s.raise a t).encs = s.encs := by
  simp [State.raise]
@[simp] theorem State.raise_letters (s : State) (a : Agent) (t : Trap) : (s.raise a t).letters = s.letters := by
  simp [State.raise]
@[simp] theorem State.raise_encTurn (s : State) (a : Agent) (t : Trap) : (s.raise a t).encTurn = s.encTurn := by
  simp [State.raise]
@[simp] theorem State.raise_pw (s : State) (a : Agent) (t : Trap) : (s.raise a t).pw = s.pw := by
  simp [State.raise]
@[simp] theorem State.raise_ports (s : State) (a : Agent) (t : Trap) : (s.raise a t).ports = s.ports := by
  simp [State.raise]
@[simp] theorem State.raise_service (s : State) (a : Agent) (t : Trap) : (s.raise a t).service = s.service := by
  simp [State.raise]
@[simp] theorem State.raise_irqs (s : State) (a : Agent) (t : Trap) : (s.raise a t).irqs = s.irqs := by
  simp [State.raise]
@[simp] theorem State.raise_aer (s : State) (a : Agent) (t : Trap) : (s.raise a t).aer = s.aer := by
  simp [State.raise]
@[simp] theorem State.raise_m_dpa (s : State) (a : Agent) (t : Trap) : (s.raise a t).m.dpa = s.m.dpa := by
  simp [State.raise]
@[simp] theorem State.raise_m_host (s : State) (a : Agent) (t : Trap) : (s.raise a t).m.host = s.m.host := by
  simp [State.raise]
@[simp] theorem State.raise_m_keyTags (s : State) (a : Agent) (t : Trap) : (s.raise a t).m.keyTags = s.m.keyTags := by
  simp [State.raise]
@[simp] theorem State.raise_m_races (s : State) (a : Agent) (t : Trap) : (s.raise a t).m.races = s.m.races := by
  simp [State.raise]
@[simp] theorem State.raise_m_slices (s : State) (a : Agent) (t : Trap) : (s.raise a t).m.slices = s.m.slices := by
  simp [State.raise]
@[simp] theorem State.raise_m_futures (s : State) (a : Agent) (t : Trap) : (s.raise a t).m.futures = s.m.futures := by
  simp [State.raise]
@[simp] theorem State.raise_m_actions (s : State) (a : Agent) (t : Trap) : (s.raise a t).m.actions = s.m.actions := by
  simp [State.raise]
@[simp] theorem State.raise_m_first (s : State) (a : Agent) (t : Trap) : (s.raise a t).m.first = s.m.first := by
  simp [State.raise]
@[simp] theorem State.raise_m_second (s : State) (a : Agent) (t : Trap) : (s.raise a t).m.second = s.m.second := by
  simp [State.raise]
@[simp] theorem State.raise_m_hostX (s : State) (a : Agent) (t : Trap) : (s.raise a t).m.hostX = s.m.hostX := by
  simp [State.raise]
@[simp] theorem State.raise_m_stream (s : State) (a : Agent) (t : Trap) : (s.raise a t).m.stream = s.m.stream := by
  simp [State.raise]
@[simp] theorem State.raise_m_misses (s : State) (a : Agent) (t : Trap) : (s.raise a t).m.misses = s.m.misses := by
  simp [State.raise]

@[simp] theorem State.raiseLater_agenda (s : State) (a : Agent) (t : Trap) (w : BitVec 32) : (s.raiseLater a t w).agenda = s.agenda := by
  simp [State.raiseLater]
@[simp] theorem State.raiseLater_tick (s : State) (a : Agent) (t : Trap) (w : BitVec 32) : (s.raiseLater a t w).tick = s.tick := by
  simp [State.raiseLater]
@[simp] theorem State.raiseLater_cur (s : State) (a : Agent) (t : Trap) (w : BitVec 32) : (s.raiseLater a t w).cur = s.cur := by
  simp [State.raiseLater]
@[simp] theorem State.raiseLater_fresh (s : State) (a : Agent) (t : Trap) (w : BitVec 32) : (s.raiseLater a t w).fresh = s.fresh := by
  simp [State.raiseLater]
@[simp] theorem State.raiseLater_svc (s : State) (a : Agent) (t : Trap) (w : BitVec 32) : (s.raiseLater a t w).svc = s.svc := by
  simp [State.raiseLater]
@[simp] theorem State.raiseLater_dtime (s : State) (a : Agent) (t : Trap) (w : BitVec 32) : (s.raiseLater a t w).dtime = s.dtime := by
  simp [State.raiseLater]
@[simp] theorem State.raiseLater_gens (s : State) (a : Agent) (t : Trap) (w : BitVec 32) : (s.raiseLater a t w).gens = s.gens := by
  simp [State.raiseLater]
@[simp] theorem State.raiseLater_jobs (s : State) (a : Agent) (t : Trap) (w : BitVec 32) : (s.raiseLater a t w).jobs = s.jobs := by
  simp [State.raiseLater]
@[simp] theorem State.raiseLater_turns (s : State) (a : Agent) (t : Trap) (w : BitVec 32) : (s.raiseLater a t w).turns = s.turns := by
  simp [State.raiseLater]
@[simp] theorem State.raiseLater_blocked (s : State) (a : Agent) (t : Trap) (w : BitVec 32) : (s.raiseLater a t w).blocked = s.blocked := by
  simp [State.raiseLater]
@[simp] theorem State.raiseLater_r (s : State) (a : Agent) (t : Trap) (w : BitVec 32) : (s.raiseLater a t w).r = s.r := by
  simp [State.raiseLater]
@[simp] theorem State.raiseLater_queues (s : State) (a : Agent) (t : Trap) (w : BitVec 32) : (s.raiseLater a t w).queues = s.queues := by
  simp [State.raiseLater]
@[simp] theorem State.raiseLater_rr (s : State) (a : Agent) (t : Trap) (w : BitVec 32) : (s.raiseLater a t w).rr = s.rr := by
  simp [State.raiseLater]
@[simp] theorem State.raiseLater_multi (s : State) (a : Agent) (t : Trap) (w : BitVec 32) : (s.raiseLater a t w).multi = s.multi := by
  simp [State.raiseLater]
@[simp] theorem State.raiseLater_streams (s : State) (a : Agent) (t : Trap) (w : BitVec 32) : (s.raiseLater a t w).streams = s.streams := by
  simp [State.raiseLater]
@[simp] theorem State.raiseLater_encs (s : State) (a : Agent) (t : Trap) (w : BitVec 32) : (s.raiseLater a t w).encs = s.encs := by
  simp [State.raiseLater]
@[simp] theorem State.raiseLater_letters (s : State) (a : Agent) (t : Trap) (w : BitVec 32) : (s.raiseLater a t w).letters = s.letters := by
  simp [State.raiseLater]
@[simp] theorem State.raiseLater_encTurn (s : State) (a : Agent) (t : Trap) (w : BitVec 32) : (s.raiseLater a t w).encTurn = s.encTurn := by
  simp [State.raiseLater]
@[simp] theorem State.raiseLater_pw (s : State) (a : Agent) (t : Trap) (w : BitVec 32) : (s.raiseLater a t w).pw = s.pw := by
  simp [State.raiseLater]
@[simp] theorem State.raiseLater_ports (s : State) (a : Agent) (t : Trap) (w : BitVec 32) : (s.raiseLater a t w).ports = s.ports := by
  simp [State.raiseLater]
@[simp] theorem State.raiseLater_service (s : State) (a : Agent) (t : Trap) (w : BitVec 32) : (s.raiseLater a t w).service = s.service := by
  simp [State.raiseLater]
@[simp] theorem State.raiseLater_irqs (s : State) (a : Agent) (t : Trap) (w : BitVec 32) : (s.raiseLater a t w).irqs = s.irqs := by
  simp [State.raiseLater]
@[simp] theorem State.raiseLater_aer (s : State) (a : Agent) (t : Trap) (w : BitVec 32) : (s.raiseLater a t w).aer = s.aer := by
  simp [State.raiseLater]
@[simp] theorem State.raiseLater_m_dpa (s : State) (a : Agent) (t : Trap) (w : BitVec 32) : (s.raiseLater a t w).m.dpa = s.m.dpa := by
  simp [State.raiseLater]
@[simp] theorem State.raiseLater_m_host (s : State) (a : Agent) (t : Trap) (w : BitVec 32) : (s.raiseLater a t w).m.host = s.m.host := by
  simp [State.raiseLater]
@[simp] theorem State.raiseLater_m_keyTags (s : State) (a : Agent) (t : Trap) (w : BitVec 32) : (s.raiseLater a t w).m.keyTags = s.m.keyTags := by
  simp [State.raiseLater]
@[simp] theorem State.raiseLater_m_races (s : State) (a : Agent) (t : Trap) (w : BitVec 32) : (s.raiseLater a t w).m.races = s.m.races := by
  simp [State.raiseLater]
@[simp] theorem State.raiseLater_m_slices (s : State) (a : Agent) (t : Trap) (w : BitVec 32) : (s.raiseLater a t w).m.slices = s.m.slices := by
  simp [State.raiseLater]
@[simp] theorem State.raiseLater_m_futures (s : State) (a : Agent) (t : Trap) (w : BitVec 32) : (s.raiseLater a t w).m.futures = s.m.futures := by
  simp [State.raiseLater]
@[simp] theorem State.raiseLater_m_actions (s : State) (a : Agent) (t : Trap) (w : BitVec 32) : (s.raiseLater a t w).m.actions = s.m.actions := by
  simp [State.raiseLater]
@[simp] theorem State.raiseLater_m_first (s : State) (a : Agent) (t : Trap) (w : BitVec 32) : (s.raiseLater a t w).m.first = s.m.first := by
  simp [State.raiseLater]
@[simp] theorem State.raiseLater_m_second (s : State) (a : Agent) (t : Trap) (w : BitVec 32) : (s.raiseLater a t w).m.second = s.m.second := by
  simp [State.raiseLater]
@[simp] theorem State.raiseLater_m_hostX (s : State) (a : Agent) (t : Trap) (w : BitVec 32) : (s.raiseLater a t w).m.hostX = s.m.hostX := by
  simp [State.raiseLater]
@[simp] theorem State.raiseLater_m_stream (s : State) (a : Agent) (t : Trap) (w : BitVec 32) : (s.raiseLater a t w).m.stream = s.m.stream := by
  simp [State.raiseLater]
@[simp] theorem State.raiseLater_m_misses (s : State) (a : Agent) (t : Trap) (w : BitVec 32) : (s.raiseLater a t w).m.misses = s.m.misses := by
  simp [State.raiseLater]

@[simp] theorem State.raiseAtC_agenda (s : State) (a b : Nat) (t : Trap) (w : BitVec 32) : (s.raiseAtC a b t w).agenda = s.agenda := by
  simp [State.raiseAtC]
@[simp] theorem State.raiseAtC_tick (s : State) (a b : Nat) (t : Trap) (w : BitVec 32) : (s.raiseAtC a b t w).tick = s.tick := by
  simp [State.raiseAtC]
@[simp] theorem State.raiseAtC_cur (s : State) (a b : Nat) (t : Trap) (w : BitVec 32) : (s.raiseAtC a b t w).cur = s.cur := by
  simp [State.raiseAtC]
@[simp] theorem State.raiseAtC_fresh (s : State) (a b : Nat) (t : Trap) (w : BitVec 32) : (s.raiseAtC a b t w).fresh = s.fresh := by
  simp [State.raiseAtC]
@[simp] theorem State.raiseAtC_svc (s : State) (a b : Nat) (t : Trap) (w : BitVec 32) : (s.raiseAtC a b t w).svc = s.svc := by
  simp [State.raiseAtC]
@[simp] theorem State.raiseAtC_dtime (s : State) (a b : Nat) (t : Trap) (w : BitVec 32) : (s.raiseAtC a b t w).dtime = s.dtime := by
  simp [State.raiseAtC]
@[simp] theorem State.raiseAtC_gens (s : State) (a b : Nat) (t : Trap) (w : BitVec 32) : (s.raiseAtC a b t w).gens = s.gens := by
  simp [State.raiseAtC]
@[simp] theorem State.raiseAtC_jobs (s : State) (a b : Nat) (t : Trap) (w : BitVec 32) : (s.raiseAtC a b t w).jobs = s.jobs := by
  simp [State.raiseAtC]
@[simp] theorem State.raiseAtC_turns (s : State) (a b : Nat) (t : Trap) (w : BitVec 32) : (s.raiseAtC a b t w).turns = s.turns := by
  simp [State.raiseAtC]
@[simp] theorem State.raiseAtC_blocked (s : State) (a b : Nat) (t : Trap) (w : BitVec 32) : (s.raiseAtC a b t w).blocked = s.blocked := by
  simp [State.raiseAtC]
@[simp] theorem State.raiseAtC_r (s : State) (a b : Nat) (t : Trap) (w : BitVec 32) : (s.raiseAtC a b t w).r = s.r := by
  simp [State.raiseAtC]
@[simp] theorem State.raiseAtC_queues (s : State) (a b : Nat) (t : Trap) (w : BitVec 32) : (s.raiseAtC a b t w).queues = s.queues := by
  simp [State.raiseAtC]
@[simp] theorem State.raiseAtC_rr (s : State) (a b : Nat) (t : Trap) (w : BitVec 32) : (s.raiseAtC a b t w).rr = s.rr := by
  simp [State.raiseAtC]
@[simp] theorem State.raiseAtC_multi (s : State) (a b : Nat) (t : Trap) (w : BitVec 32) : (s.raiseAtC a b t w).multi = s.multi := by
  simp [State.raiseAtC]
@[simp] theorem State.raiseAtC_streams (s : State) (a b : Nat) (t : Trap) (w : BitVec 32) : (s.raiseAtC a b t w).streams = s.streams := by
  simp [State.raiseAtC]
@[simp] theorem State.raiseAtC_encs (s : State) (a b : Nat) (t : Trap) (w : BitVec 32) : (s.raiseAtC a b t w).encs = s.encs := by
  simp [State.raiseAtC]
@[simp] theorem State.raiseAtC_letters (s : State) (a b : Nat) (t : Trap) (w : BitVec 32) : (s.raiseAtC a b t w).letters = s.letters := by
  simp [State.raiseAtC]
@[simp] theorem State.raiseAtC_encTurn (s : State) (a b : Nat) (t : Trap) (w : BitVec 32) : (s.raiseAtC a b t w).encTurn = s.encTurn := by
  simp [State.raiseAtC]
@[simp] theorem State.raiseAtC_pw (s : State) (a b : Nat) (t : Trap) (w : BitVec 32) : (s.raiseAtC a b t w).pw = s.pw := by
  simp [State.raiseAtC]
@[simp] theorem State.raiseAtC_ports (s : State) (a b : Nat) (t : Trap) (w : BitVec 32) : (s.raiseAtC a b t w).ports = s.ports := by
  simp [State.raiseAtC]
@[simp] theorem State.raiseAtC_service (s : State) (a b : Nat) (t : Trap) (w : BitVec 32) : (s.raiseAtC a b t w).service = s.service := by
  simp [State.raiseAtC]
@[simp] theorem State.raiseAtC_irqs (s : State) (a b : Nat) (t : Trap) (w : BitVec 32) : (s.raiseAtC a b t w).irqs = s.irqs := by
  simp [State.raiseAtC]
@[simp] theorem State.raiseAtC_aer (s : State) (a b : Nat) (t : Trap) (w : BitVec 32) : (s.raiseAtC a b t w).aer = s.aer := by
  simp [State.raiseAtC]
@[simp] theorem State.raiseAtC_m_dpa (s : State) (a b : Nat) (t : Trap) (w : BitVec 32) : (s.raiseAtC a b t w).m.dpa = s.m.dpa := by
  simp [State.raiseAtC]
@[simp] theorem State.raiseAtC_m_host (s : State) (a b : Nat) (t : Trap) (w : BitVec 32) : (s.raiseAtC a b t w).m.host = s.m.host := by
  simp [State.raiseAtC]
@[simp] theorem State.raiseAtC_m_keyTags (s : State) (a b : Nat) (t : Trap) (w : BitVec 32) : (s.raiseAtC a b t w).m.keyTags = s.m.keyTags := by
  simp [State.raiseAtC]
@[simp] theorem State.raiseAtC_m_races (s : State) (a b : Nat) (t : Trap) (w : BitVec 32) : (s.raiseAtC a b t w).m.races = s.m.races := by
  simp [State.raiseAtC]
@[simp] theorem State.raiseAtC_m_slices (s : State) (a b : Nat) (t : Trap) (w : BitVec 32) : (s.raiseAtC a b t w).m.slices = s.m.slices := by
  simp [State.raiseAtC]
@[simp] theorem State.raiseAtC_m_futures (s : State) (a b : Nat) (t : Trap) (w : BitVec 32) : (s.raiseAtC a b t w).m.futures = s.m.futures := by
  simp [State.raiseAtC]
@[simp] theorem State.raiseAtC_m_actions (s : State) (a b : Nat) (t : Trap) (w : BitVec 32) : (s.raiseAtC a b t w).m.actions = s.m.actions := by
  simp [State.raiseAtC]
@[simp] theorem State.raiseAtC_m_first (s : State) (a b : Nat) (t : Trap) (w : BitVec 32) : (s.raiseAtC a b t w).m.first = s.m.first := by
  simp [State.raiseAtC]
@[simp] theorem State.raiseAtC_m_second (s : State) (a b : Nat) (t : Trap) (w : BitVec 32) : (s.raiseAtC a b t w).m.second = s.m.second := by
  simp [State.raiseAtC]
@[simp] theorem State.raiseAtC_m_hostX (s : State) (a b : Nat) (t : Trap) (w : BitVec 32) : (s.raiseAtC a b t w).m.hostX = s.m.hostX := by
  simp [State.raiseAtC]
@[simp] theorem State.raiseAtC_m_stream (s : State) (a b : Nat) (t : Trap) (w : BitVec 32) : (s.raiseAtC a b t w).m.stream = s.m.stream := by
  simp [State.raiseAtC]
@[simp] theorem State.raiseAtC_m_misses (s : State) (a b : Nat) (t : Trap) (w : BitVec 32) : (s.raiseAtC a b t w).m.misses = s.m.misses := by
  simp [State.raiseAtC]

@[simp] theorem State.raiseEngine_agenda (s : State) (a b k : Nat) (t : Trap) (w : BitVec 32) (o : BitVec 9) (d : BitVec 48) : (s.raiseEngine a b k t w o d).agenda = s.agenda := by
  simp [State.raiseEngine]
@[simp] theorem State.raiseEngine_tick (s : State) (a b k : Nat) (t : Trap) (w : BitVec 32) (o : BitVec 9) (d : BitVec 48) : (s.raiseEngine a b k t w o d).tick = s.tick := by
  simp [State.raiseEngine]
@[simp] theorem State.raiseEngine_cur (s : State) (a b k : Nat) (t : Trap) (w : BitVec 32) (o : BitVec 9) (d : BitVec 48) : (s.raiseEngine a b k t w o d).cur = s.cur := by
  simp [State.raiseEngine]
@[simp] theorem State.raiseEngine_fresh (s : State) (a b k : Nat) (t : Trap) (w : BitVec 32) (o : BitVec 9) (d : BitVec 48) : (s.raiseEngine a b k t w o d).fresh = s.fresh := by
  simp [State.raiseEngine]
@[simp] theorem State.raiseEngine_svc (s : State) (a b k : Nat) (t : Trap) (w : BitVec 32) (o : BitVec 9) (d : BitVec 48) : (s.raiseEngine a b k t w o d).svc = s.svc := by
  simp [State.raiseEngine]
@[simp] theorem State.raiseEngine_dtime (s : State) (a b k : Nat) (t : Trap) (w : BitVec 32) (o : BitVec 9) (d : BitVec 48) : (s.raiseEngine a b k t w o d).dtime = s.dtime := by
  simp [State.raiseEngine]
@[simp] theorem State.raiseEngine_gens (s : State) (a b k : Nat) (t : Trap) (w : BitVec 32) (o : BitVec 9) (d : BitVec 48) : (s.raiseEngine a b k t w o d).gens = s.gens := by
  simp [State.raiseEngine]
@[simp] theorem State.raiseEngine_jobs (s : State) (a b k : Nat) (t : Trap) (w : BitVec 32) (o : BitVec 9) (d : BitVec 48) : (s.raiseEngine a b k t w o d).jobs = s.jobs := by
  simp [State.raiseEngine]
@[simp] theorem State.raiseEngine_turns (s : State) (a b k : Nat) (t : Trap) (w : BitVec 32) (o : BitVec 9) (d : BitVec 48) : (s.raiseEngine a b k t w o d).turns = s.turns := by
  simp [State.raiseEngine]
@[simp] theorem State.raiseEngine_blocked (s : State) (a b k : Nat) (t : Trap) (w : BitVec 32) (o : BitVec 9) (d : BitVec 48) : (s.raiseEngine a b k t w o d).blocked = s.blocked := by
  simp [State.raiseEngine]
@[simp] theorem State.raiseEngine_r (s : State) (a b k : Nat) (t : Trap) (w : BitVec 32) (o : BitVec 9) (d : BitVec 48) : (s.raiseEngine a b k t w o d).r = s.r := by
  simp [State.raiseEngine]
@[simp] theorem State.raiseEngine_queues (s : State) (a b k : Nat) (t : Trap) (w : BitVec 32) (o : BitVec 9) (d : BitVec 48) : (s.raiseEngine a b k t w o d).queues = s.queues := by
  simp [State.raiseEngine]
@[simp] theorem State.raiseEngine_rr (s : State) (a b k : Nat) (t : Trap) (w : BitVec 32) (o : BitVec 9) (d : BitVec 48) : (s.raiseEngine a b k t w o d).rr = s.rr := by
  simp [State.raiseEngine]
@[simp] theorem State.raiseEngine_multi (s : State) (a b k : Nat) (t : Trap) (w : BitVec 32) (o : BitVec 9) (d : BitVec 48) : (s.raiseEngine a b k t w o d).multi = s.multi := by
  simp [State.raiseEngine]
@[simp] theorem State.raiseEngine_streams (s : State) (a b k : Nat) (t : Trap) (w : BitVec 32) (o : BitVec 9) (d : BitVec 48) : (s.raiseEngine a b k t w o d).streams = s.streams := by
  simp [State.raiseEngine]
@[simp] theorem State.raiseEngine_encs (s : State) (a b k : Nat) (t : Trap) (w : BitVec 32) (o : BitVec 9) (d : BitVec 48) : (s.raiseEngine a b k t w o d).encs = s.encs := by
  simp [State.raiseEngine]
@[simp] theorem State.raiseEngine_letters (s : State) (a b k : Nat) (t : Trap) (w : BitVec 32) (o : BitVec 9) (d : BitVec 48) : (s.raiseEngine a b k t w o d).letters = s.letters := by
  simp [State.raiseEngine]
@[simp] theorem State.raiseEngine_encTurn (s : State) (a b k : Nat) (t : Trap) (w : BitVec 32) (o : BitVec 9) (d : BitVec 48) : (s.raiseEngine a b k t w o d).encTurn = s.encTurn := by
  simp [State.raiseEngine]
@[simp] theorem State.raiseEngine_pw (s : State) (a b k : Nat) (t : Trap) (w : BitVec 32) (o : BitVec 9) (d : BitVec 48) : (s.raiseEngine a b k t w o d).pw = s.pw := by
  simp [State.raiseEngine]
@[simp] theorem State.raiseEngine_ports (s : State) (a b k : Nat) (t : Trap) (w : BitVec 32) (o : BitVec 9) (d : BitVec 48) : (s.raiseEngine a b k t w o d).ports = s.ports := by
  simp [State.raiseEngine]
@[simp] theorem State.raiseEngine_service (s : State) (a b k : Nat) (t : Trap) (w : BitVec 32) (o : BitVec 9) (d : BitVec 48) : (s.raiseEngine a b k t w o d).service = s.service := by
  simp [State.raiseEngine]
@[simp] theorem State.raiseEngine_irqs (s : State) (a b k : Nat) (t : Trap) (w : BitVec 32) (o : BitVec 9) (d : BitVec 48) : (s.raiseEngine a b k t w o d).irqs = s.irqs := by
  simp [State.raiseEngine]
@[simp] theorem State.raiseEngine_aer (s : State) (a b k : Nat) (t : Trap) (w : BitVec 32) (o : BitVec 9) (d : BitVec 48) : (s.raiseEngine a b k t w o d).aer = s.aer := by
  simp [State.raiseEngine]
@[simp] theorem State.raiseEngine_m_dpa (s : State) (a b k : Nat) (t : Trap) (w : BitVec 32) (o : BitVec 9) (d : BitVec 48) : (s.raiseEngine a b k t w o d).m.dpa = s.m.dpa := by
  simp [State.raiseEngine]
@[simp] theorem State.raiseEngine_m_host (s : State) (a b k : Nat) (t : Trap) (w : BitVec 32) (o : BitVec 9) (d : BitVec 48) : (s.raiseEngine a b k t w o d).m.host = s.m.host := by
  simp [State.raiseEngine]
@[simp] theorem State.raiseEngine_m_keyTags (s : State) (a b k : Nat) (t : Trap) (w : BitVec 32) (o : BitVec 9) (d : BitVec 48) : (s.raiseEngine a b k t w o d).m.keyTags = s.m.keyTags := by
  simp [State.raiseEngine]
@[simp] theorem State.raiseEngine_m_races (s : State) (a b k : Nat) (t : Trap) (w : BitVec 32) (o : BitVec 9) (d : BitVec 48) : (s.raiseEngine a b k t w o d).m.races = s.m.races := by
  simp [State.raiseEngine]
@[simp] theorem State.raiseEngine_m_slices (s : State) (a b k : Nat) (t : Trap) (w : BitVec 32) (o : BitVec 9) (d : BitVec 48) : (s.raiseEngine a b k t w o d).m.slices = s.m.slices := by
  simp [State.raiseEngine]
@[simp] theorem State.raiseEngine_m_futures (s : State) (a b k : Nat) (t : Trap) (w : BitVec 32) (o : BitVec 9) (d : BitVec 48) : (s.raiseEngine a b k t w o d).m.futures = s.m.futures := by
  simp [State.raiseEngine]
@[simp] theorem State.raiseEngine_m_actions (s : State) (a b k : Nat) (t : Trap) (w : BitVec 32) (o : BitVec 9) (d : BitVec 48) : (s.raiseEngine a b k t w o d).m.actions = s.m.actions := by
  simp [State.raiseEngine]
@[simp] theorem State.raiseEngine_m_first (s : State) (a b k : Nat) (t : Trap) (w : BitVec 32) (o : BitVec 9) (d : BitVec 48) : (s.raiseEngine a b k t w o d).m.first = s.m.first := by
  simp [State.raiseEngine]
@[simp] theorem State.raiseEngine_m_second (s : State) (a b k : Nat) (t : Trap) (w : BitVec 32) (o : BitVec 9) (d : BitVec 48) : (s.raiseEngine a b k t w o d).m.second = s.m.second := by
  simp [State.raiseEngine]
@[simp] theorem State.raiseEngine_m_hostX (s : State) (a b k : Nat) (t : Trap) (w : BitVec 32) (o : BitVec 9) (d : BitVec 48) : (s.raiseEngine a b k t w o d).m.hostX = s.m.hostX := by
  simp [State.raiseEngine]
@[simp] theorem State.raiseEngine_m_stream (s : State) (a b k : Nat) (t : Trap) (w : BitVec 32) (o : BitVec 9) (d : BitVec 48) : (s.raiseEngine a b k t w o d).m.stream = s.m.stream := by
  simp [State.raiseEngine]
@[simp] theorem State.raiseEngine_m_misses (s : State) (a b k : Nat) (t : Trap) (w : BitVec 32) (o : BitVec 9) (d : BitVec 48) : (s.raiseEngine a b k t w o d).m.misses = s.m.misses := by
  simp [State.raiseEngine]

@[simp] theorem State.waitCt_agenda (s : State) (a : Agent) (c : CoreTask) (k : WaitKind) : (s.waitCt a c k).agenda = s.agenda := by
  simp [State.waitCt]
@[simp] theorem State.waitCt_tick (s : State) (a : Agent) (c : CoreTask) (k : WaitKind) : (s.waitCt a c k).tick = s.tick := by
  simp [State.waitCt]
@[simp] theorem State.waitCt_cur (s : State) (a : Agent) (c : CoreTask) (k : WaitKind) : (s.waitCt a c k).cur = s.cur := by
  simp [State.waitCt]
@[simp] theorem State.waitCt_svc (s : State) (a : Agent) (c : CoreTask) (k : WaitKind) : (s.waitCt a c k).svc = s.svc := by
  simp [State.waitCt]
@[simp] theorem State.waitCt_dtime (s : State) (a : Agent) (c : CoreTask) (k : WaitKind) : (s.waitCt a c k).dtime = s.dtime := by
  simp [State.waitCt]
@[simp] theorem State.waitCt_gens (s : State) (a : Agent) (c : CoreTask) (k : WaitKind) : (s.waitCt a c k).gens = s.gens := by
  simp [State.waitCt]
@[simp] theorem State.waitCt_jobs (s : State) (a : Agent) (c : CoreTask) (k : WaitKind) : (s.waitCt a c k).jobs = s.jobs := by
  simp [State.waitCt]
@[simp] theorem State.waitCt_turns (s : State) (a : Agent) (c : CoreTask) (k : WaitKind) : (s.waitCt a c k).turns = s.turns := by
  simp [State.waitCt]
@[simp] theorem State.waitCt_blocked (s : State) (a : Agent) (c : CoreTask) (k : WaitKind) : (s.waitCt a c k).blocked = s.blocked := by
  simp [State.waitCt]
@[simp] theorem State.waitCt_r (s : State) (a : Agent) (c : CoreTask) (k : WaitKind) : (s.waitCt a c k).r = s.r := by
  simp [State.waitCt]
@[simp] theorem State.waitCt_queues (s : State) (a : Agent) (c : CoreTask) (k : WaitKind) : (s.waitCt a c k).queues = s.queues := by
  simp [State.waitCt]
@[simp] theorem State.waitCt_rr (s : State) (a : Agent) (c : CoreTask) (k : WaitKind) : (s.waitCt a c k).rr = s.rr := by
  simp [State.waitCt]
@[simp] theorem State.waitCt_multi (s : State) (a : Agent) (c : CoreTask) (k : WaitKind) : (s.waitCt a c k).multi = s.multi := by
  simp [State.waitCt]
@[simp] theorem State.waitCt_streams (s : State) (a : Agent) (c : CoreTask) (k : WaitKind) : (s.waitCt a c k).streams = s.streams := by
  simp [State.waitCt]
@[simp] theorem State.waitCt_encs (s : State) (a : Agent) (c : CoreTask) (k : WaitKind) : (s.waitCt a c k).encs = s.encs := by
  simp [State.waitCt]
@[simp] theorem State.waitCt_letters (s : State) (a : Agent) (c : CoreTask) (k : WaitKind) : (s.waitCt a c k).letters = s.letters := by
  simp [State.waitCt]
@[simp] theorem State.waitCt_encTurn (s : State) (a : Agent) (c : CoreTask) (k : WaitKind) : (s.waitCt a c k).encTurn = s.encTurn := by
  simp [State.waitCt]
@[simp] theorem State.waitCt_pw (s : State) (a : Agent) (c : CoreTask) (k : WaitKind) : (s.waitCt a c k).pw = s.pw := by
  simp [State.waitCt]
@[simp] theorem State.waitCt_ports (s : State) (a : Agent) (c : CoreTask) (k : WaitKind) : (s.waitCt a c k).ports = s.ports := by
  simp [State.waitCt]
@[simp] theorem State.waitCt_service (s : State) (a : Agent) (c : CoreTask) (k : WaitKind) : (s.waitCt a c k).service = s.service := by
  simp [State.waitCt]
@[simp] theorem State.waitCt_irqs (s : State) (a : Agent) (c : CoreTask) (k : WaitKind) : (s.waitCt a c k).irqs = s.irqs := by
  simp [State.waitCt]
@[simp] theorem State.waitCt_aer (s : State) (a : Agent) (c : CoreTask) (k : WaitKind) : (s.waitCt a c k).aer = s.aer := by
  simp [State.waitCt]
@[simp] theorem State.waitCt_m_dpa (s : State) (a : Agent) (c : CoreTask) (k : WaitKind) : (s.waitCt a c k).m.dpa = s.m.dpa := by
  simp [State.waitCt]
@[simp] theorem State.waitCt_m_host (s : State) (a : Agent) (c : CoreTask) (k : WaitKind) : (s.waitCt a c k).m.host = s.m.host := by
  simp [State.waitCt]
@[simp] theorem State.waitCt_m_keyTags (s : State) (a : Agent) (c : CoreTask) (k : WaitKind) : (s.waitCt a c k).m.keyTags = s.m.keyTags := by
  simp [State.waitCt]
@[simp] theorem State.waitCt_m_races (s : State) (a : Agent) (c : CoreTask) (k : WaitKind) : (s.waitCt a c k).m.races = s.m.races := by
  simp [State.waitCt]
@[simp] theorem State.waitCt_m_slices (s : State) (a : Agent) (c : CoreTask) (k : WaitKind) : (s.waitCt a c k).m.slices = s.m.slices := by
  simp [State.waitCt]
@[simp] theorem State.waitCt_m_futures (s : State) (a : Agent) (c : CoreTask) (k : WaitKind) : (s.waitCt a c k).m.futures = s.m.futures := by
  simp [State.waitCt]
@[simp] theorem State.waitCt_m_actions (s : State) (a : Agent) (c : CoreTask) (k : WaitKind) : (s.waitCt a c k).m.actions = s.m.actions := by
  simp [State.waitCt]
@[simp] theorem State.waitCt_m_first (s : State) (a : Agent) (c : CoreTask) (k : WaitKind) : (s.waitCt a c k).m.first = s.m.first := by
  simp [State.waitCt]
@[simp] theorem State.waitCt_m_second (s : State) (a : Agent) (c : CoreTask) (k : WaitKind) : (s.waitCt a c k).m.second = s.m.second := by
  simp [State.waitCt]
@[simp] theorem State.waitCt_m_hostX (s : State) (a : Agent) (c : CoreTask) (k : WaitKind) : (s.waitCt a c k).m.hostX = s.m.hostX := by
  simp [State.waitCt]
@[simp] theorem State.waitCt_m_stream (s : State) (a : Agent) (c : CoreTask) (k : WaitKind) : (s.waitCt a c k).m.stream = s.m.stream := by
  simp [State.waitCt]
@[simp] theorem State.waitCt_m_misses (s : State) (a : Agent) (c : CoreTask) (k : WaitKind) : (s.waitCt a c k).m.misses = s.m.misses := by
  simp [State.waitCt]

@[simp] theorem State.updIsland_agenda (s : State) (i : Nat) (f : Island → Island) : (s.updIsland i f).agenda = s.agenda := rfl
@[simp] theorem State.updIsland_tick (s : State) (i : Nat) (f : Island → Island) : (s.updIsland i f).tick = s.tick := rfl
@[simp] theorem State.updIsland_cur (s : State) (i : Nat) (f : Island → Island) : (s.updIsland i f).cur = s.cur := rfl
@[simp] theorem State.updIsland_fresh (s : State) (i : Nat) (f : Island → Island) : (s.updIsland i f).fresh = s.fresh := rfl
@[simp] theorem State.updIsland_svc (s : State) (i : Nat) (f : Island → Island) : (s.updIsland i f).svc = s.svc := rfl
@[simp] theorem State.updIsland_dtime (s : State) (i : Nat) (f : Island → Island) : (s.updIsland i f).dtime = s.dtime := rfl
@[simp] theorem State.updIsland_gens (s : State) (i : Nat) (f : Island → Island) : (s.updIsland i f).gens = s.gens := rfl
@[simp] theorem State.updIsland_jobs (s : State) (i : Nat) (f : Island → Island) : (s.updIsland i f).jobs = s.jobs := rfl
@[simp] theorem State.updIsland_turns (s : State) (i : Nat) (f : Island → Island) : (s.updIsland i f).turns = s.turns := rfl
@[simp] theorem State.updIsland_blocked (s : State) (i : Nat) (f : Island → Island) : (s.updIsland i f).blocked = s.blocked := rfl
@[simp] theorem State.updIsland_r (s : State) (i : Nat) (f : Island → Island) : (s.updIsland i f).r = s.r := rfl
@[simp] theorem State.updIsland_queues (s : State) (i : Nat) (f : Island → Island) : (s.updIsland i f).queues = s.queues := rfl
@[simp] theorem State.updIsland_rr (s : State) (i : Nat) (f : Island → Island) : (s.updIsland i f).rr = s.rr := rfl
@[simp] theorem State.updIsland_multi (s : State) (i : Nat) (f : Island → Island) : (s.updIsland i f).multi = s.multi := rfl
@[simp] theorem State.updIsland_streams (s : State) (i : Nat) (f : Island → Island) : (s.updIsland i f).streams = s.streams := rfl
@[simp] theorem State.updIsland_encs (s : State) (i : Nat) (f : Island → Island) : (s.updIsland i f).encs = s.encs := rfl
@[simp] theorem State.updIsland_letters (s : State) (i : Nat) (f : Island → Island) : (s.updIsland i f).letters = s.letters := rfl
@[simp] theorem State.updIsland_encTurn (s : State) (i : Nat) (f : Island → Island) : (s.updIsland i f).encTurn = s.encTurn := rfl
@[simp] theorem State.updIsland_ports (s : State) (i : Nat) (f : Island → Island) : (s.updIsland i f).ports = s.ports := rfl
@[simp] theorem State.updIsland_service (s : State) (i : Nat) (f : Island → Island) : (s.updIsland i f).service = s.service := rfl
@[simp] theorem State.updIsland_irqs (s : State) (i : Nat) (f : Island → Island) : (s.updIsland i f).irqs = s.irqs := rfl
@[simp] theorem State.updIsland_aer (s : State) (i : Nat) (f : Island → Island) : (s.updIsland i f).aer = s.aer := rfl
@[simp] theorem State.updIsland_m_dpa (s : State) (i : Nat) (f : Island → Island) : (s.updIsland i f).m.dpa = s.m.dpa := rfl
@[simp] theorem State.updIsland_m_host (s : State) (i : Nat) (f : Island → Island) : (s.updIsland i f).m.host = s.m.host := rfl
@[simp] theorem State.updIsland_m_keyTags (s : State) (i : Nat) (f : Island → Island) : (s.updIsland i f).m.keyTags = s.m.keyTags := rfl
@[simp] theorem State.updIsland_m_races (s : State) (i : Nat) (f : Island → Island) : (s.updIsland i f).m.races = s.m.races := rfl
@[simp] theorem State.updIsland_m_slices (s : State) (i : Nat) (f : Island → Island) : (s.updIsland i f).m.slices = s.m.slices := rfl
@[simp] theorem State.updIsland_m_futures (s : State) (i : Nat) (f : Island → Island) : (s.updIsland i f).m.futures = s.m.futures := rfl
@[simp] theorem State.updIsland_m_actions (s : State) (i : Nat) (f : Island → Island) : (s.updIsland i f).m.actions = s.m.actions := rfl
@[simp] theorem State.updIsland_m_first (s : State) (i : Nat) (f : Island → Island) : (s.updIsland i f).m.first = s.m.first := rfl
@[simp] theorem State.updIsland_m_second (s : State) (i : Nat) (f : Island → Island) : (s.updIsland i f).m.second = s.m.second := rfl
@[simp] theorem State.updIsland_m_hostX (s : State) (i : Nat) (f : Island → Island) : (s.updIsland i f).m.hostX = s.m.hostX := rfl
@[simp] theorem State.updIsland_m_stream (s : State) (i : Nat) (f : Island → Island) : (s.updIsland i f).m.stream = s.m.stream := rfl
@[simp] theorem State.updIsland_m_misses (s : State) (i : Nat) (f : Island → Island) : (s.updIsland i f).m.misses = s.m.misses := rfl

@[simp] theorem State.updIsland_tasks (s : State) (i : Nat) (f : Island → Island) : (s.updIsland i f).tasks = s.tasks := rfl

@[simp] theorem State.waitCt_fresh (s : State) (a : Agent) (c : CoreTask) (k : WaitKind) :
    (s.waitCt a c k).fresh = s.fresh + 1 := rfl

/-! ### Tasks and core-tasks after an update -/

theorem State.task_setTask (s : State) (a b : Nat) (t : Task) :
    (s.setTask a t).task? b = if b = a then some t else s.task? b := find_put ..

theorem Task.ct_setCt (t : Task) (a b : Nat) (c : CoreTask) :
    (t.setCt a c).ct? b = if b = a then some c else t.ct? b := find_put ..

theorem State.task_putCt (s : State) (a b j : Nat) (c : CoreTask) :
    (s.putCt a b c).task? j = if j = a then (s.task? a).map (·.setCt b c) else s.task? j := by
  unfold State.putCt
  split
  · next t h =>
    rw [h]
    exact find_put ..
  · next h =>
    split
    · subst_vars
      rw [h]
      rfl
    · rfl

theorem State.ct_putCt (s : State) (a b j k : Nat) (c : CoreTask) :
    (s.putCt a b c).ct? j k =
      if j = a ∧ k = b then (s.task? a).map (fun _ => c) else s.ct? j k := by
  unfold State.ct?
  rw [State.task_putCt]
  by_cases hj : j = a
  · subst hj
    cases h : s.task? j with
    | none => simp
    | some t =>
      simp only [if_true, Option.map_some, Option.bind_some, Task.ct_setCt, true_and]
  · simp [hj]

theorem State.ct_updCt (s : State) (a b j k : Nat) (f : CoreTask → CoreTask) :
    (s.updCt a b f).ct? j k = if j = a ∧ k = b then (s.ct? a b).map f else s.ct? j k := by
  unfold State.updCt
  split
  · next c h =>
    rw [State.ct_putCt]
    have : (s.task? a).isSome := by
      unfold State.ct? at h
      cases ht : s.task? a <;> simp_all
    obtain ⟨t, ht⟩ := Option.isSome_iff_exists.mp this
    simp [ht, h]
  · next h =>
    split
    · next e => obtain ⟨rfl, rfl⟩ := e; simp [h]
    · rfl

/-- The next highest stamp is the later of the one before and the core-task's (R195). -/
theorem State.putCt_h (s : State) (a b : Nat) (c : CoreTask) (t : Task) (h : s.task? a = some t) :
    (s.putCt a b c).m.h = c.topStamp s.m.h := by
  unfold State.putCt
  rw [h]

end Sys2Proof.Machine
end

