-- ==== Sys2Proof/Laws/Mem.lean ====
section
/-! SUPPORT. Laws of device and host memory: what each operation that writes memory leaves, and that every one of them
keeps the canonical form; laws of the scratchpad and of reads in one pass. -/

namespace Sys2Proof

open Machine

/-! ### Reads of a table in one pass -/

variable {α : Type}

theorem Tab.get_of_below [DecidableEq α] (d : α) (lo k : Nat) (t : Tab α) (h : Tab.wfFrom d (some lo) t = true)
    (hk : k ≤ lo) : Tab.get d t k = d := by
  induction t generalizing lo with
  | nil => rfl
  | cons e t ih =>
    obtain ⟨k', v⟩ := e
    rw [Tab.wfFrom_cons] at h
    have := h.1 lo rfl
    rw [Tab.get, if_neg (by omega)]
    exact ih k' h.2.2 (by omega)

theorem Tab.get_dropWhile [DecidableEq α] (d : α) (lo : Option Nat) (t : Tab α) (a k : Nat)
    (h : Tab.wfFrom d lo t = true) (hk : a ≤ k) :
    Tab.get d (t.dropWhile (fun e => decide (e.1 < a))) k = Tab.get d t k := by
  induction t generalizing lo with
  | nil => rfl
  | cons e t ih =>
    obtain ⟨k', v⟩ := e
    rw [Tab.wfFrom_cons] at h
    rw [List.dropWhile_cons]
    split
    · next hlt =>
      rw [ih _ h.2.2, Tab.get, if_neg]
      simp only [decide_eq_true_eq] at hlt
      omega
    · rfl

theorem Tab.wfFrom_tail [DecidableEq α] (d : α) (lo : Option Nat) (e : Nat × α) (t : Tab α)
    (h : Tab.wfFrom d lo (e :: t) = true) : Tab.wfFrom d none t = true :=
  Tab.wfFrom_mono d ((Tab.wfFrom_cons d lo e.1 e.2 t).mp h).2.2 (fun _ _ _ e => by cases e)

theorem takeFrom_eq [DecidableEq α] (d : α) (n a : Nat) (t : Tab α) (h : Tab.wf d t = true)
    (hb : ∀ e ∈ t, a ≤ e.1) : takeFrom d t a n = (List.range n).map (fun i => Tab.get d t (a + i)) := by
  induction n generalizing a t with
  | zero => cases t <;> rfl
  | succ n ih =>
    have shift : ∀ f : Nat → α, (List.range (n + 1)).map f = f 0 :: (List.range n).map (fun i => f (i + 1)) := by
      intro f
      rw [List.range_succ_eq_map, List.map_cons, List.map_map]
      rfl
    rw [shift]
    cases t with
    | nil =>
      rw [takeFrom, ih _ _ h (by simp)]
      rfl
    | cons e t =>
      obtain ⟨k, v⟩ := e
      rw [takeFrom]
      have hk := hb (k, v) (by simp)
      have hw := (Tab.wfFrom_cons d none k v t).mp h
      have above : ∀ (lo : Nat) (u : Tab α), Tab.wfFrom d (some lo) u = true → ∀ e ∈ u, lo < e.1 := by
        intro lo u
        induction u generalizing lo with
        | nil => simp
        | cons e u ihu =>
          intro hu e' he'
          have hc := (Tab.wfFrom_cons d (some lo) e.1 e.2 u).mp hu
          have h1 := hc.1 lo rfl
          rcases List.mem_cons.mp he' with rfl | he'
          · exact h1
          · have := ihu _ hc.2.2 e' he'
            omega
      split
      · next hka =>
        subst hka
        have hb' : ∀ e ∈ t, k + 1 ≤ e.1 := fun e he => above k t hw.2.2 e he
        rw [ih _ _ (Tab.wfFrom_tail d none _ t h) hb']
        congr 1
        · simp [Tab.get]
        · apply List.map_congr_left
          intro i _
          rw [Tab.get, if_neg (by omega)]
          congr 1
          omega
      · next hka =>
        have hlt : a < k := by omega
        have hb' : ∀ e ∈ (k, v) :: t, a + 1 ≤ e.1 := by
          intro e he
          rcases List.mem_cons.mp he with rfl | he
          · exact hlt
          · have := above k t hw.2.2 e he
            omega
        rw [ih _ _ h hb']
        congr 1
        · rw [Tab.get, if_neg (by omega)]
          exact (Tab.get_of_below d k (a + 0) t hw.2.2 (by omega)).symm
        · apply List.map_congr_left
          intro i _
          congr 1
          omega

/-- A read in one pass is the read of each key, in a table in canonical form. -/
theorem sliceN_eq_readN [DecidableEq α] (d : α) (t : Tab α) (a n : Nat) (h : Tab.wf d t = true) :
    sliceN d t a n = readN d t a n := by
  unfold sliceN readN
  have hd : ∀ (lo : Option Nat) (u : Tab α), Tab.wfFrom d lo u = true →
      Tab.wfFrom d none (u.dropWhile (fun e => decide (e.1 < a))) = true ∧
        ∀ e ∈ u.dropWhile (fun e => decide (e.1 < a)), a ≤ e.1 := by
    intro lo u
    induction u generalizing lo with
    | nil => simp [Tab.wfFrom]
    | cons e u ih =>
      intro hu
      rw [List.dropWhile_cons]
      have hc := (Tab.wfFrom_cons d lo e.1 e.2 u).mp hu
      split
      · exact ih _ hc.2.2
      · next hge =>
        simp only [decide_eq_true_eq, not_lt] at hge
        refine ⟨Tab.wfFrom_mono d hu (fun _ _ _ e => by cases e), ?_⟩
        intro e' he'
        rcases List.mem_cons.mp he' with rfl | he'
        · exact hge
        · have above : ∀ (lo : Nat) (w : Tab α), Tab.wfFrom d (some lo) w = true → ∀ e ∈ w, lo < e.1 := by
            intro lo w
            induction w generalizing lo with
            | nil => simp
            | cons x w ihw =>
              intro hw y hy
              have hx := (Tab.wfFrom_cons d (some lo) x.1 x.2 w).mp hw
              have h1 := hx.1 lo rfl
              rcases List.mem_cons.mp hy with rfl | hy
              · exact h1
              · have := ihw _ hx.2.2 y hy
                omega
          have := above e.1 u hc.2.2 e' he'
          omega
  obtain ⟨hw, hb⟩ := hd none t h
  rw [takeFrom_eq d n a _ hw hb]
  apply List.map_congr_left
  intro i _
  exact Tab.get_dropWhile d none t a (a + i) h (by omega)

@[simp] theorem readN_length (d : α) (t : Tab α) (a n : Nat) : (readN d t a n).length = n := by simp [readN]

theorem readN_congr (d : α) {t u : Tab α} {a n : Nat} (h : ∀ i < n, Tab.get d t (a + i) = Tab.get d u (a + i)) :
    readN d t a n = readN d u a n := by
  unfold readN
  apply List.map_congr_left
  intro i hi
  exact h i (List.mem_range.mp hi)

namespace Machine

/-! ### What each operation leaves of memory -/

/-- Device and host memory are the same. -/
def State.SameMem (s t : State) : Prop := t.m.dpa = s.m.dpa ∧ t.m.host = s.m.host

theorem State.SameMem.refl (s : State) : s.SameMem s := ⟨rfl, rfl⟩

theorem State.SameMem.trans {a b c : State} (h : a.SameMem b) (k : b.SameMem c) : a.SameMem c :=
  ⟨k.1.trans h.1, k.2.trans h.2⟩

theorem State.SameMem.wf {s t : State} (h : s.SameMem t) (w : s.MemWf) : t.MemWf := by
  unfold State.MemWf
  rw [h.1, h.2]
  exact w

theorem foldl_sameMem {β : Type} (f : State → β → State) (hf : ∀ (s : State) b, s.SameMem (f s b)) (l : List β) (s : State) :
    s.SameMem (l.foldl f s) := by
  induction l generalizing s with
  | nil => exact .refl s
  | cons b l ih => exact (hf s b).trans (ih _)

theorem updSeq_sameMem (s : State) (a : Agent) (f : Seq → Seq) : s.SameMem (s.updSeq a f) :=
  ⟨State.updSeq_m_dpa .., State.updSeq_m_host ..⟩

theorem updTask_sameMem (s : State) (slot : Nat) (f : Task → Task) : s.SameMem (s.updTask slot f) :=
  ⟨by simp, by simp⟩

theorem dropLines_sameMem (s : State) (f : FAddr) (n : Nat) : s.SameMem (s.dropLines f n) := by
  unfold State.dropLines
  simp only
  split
  · exact .refl s
  · exact ⟨rfl, rfl⟩

theorem noteWrite_sameMem (s : State) (f : FAddr) (n : Nat) (keep : Bool) (by_ : Writer) (rel : Option Stamp) :
    s.SameMem (s.noteWrite f n keep by_ rel) := by
  unfold State.noteWrite
  split
  · exact .refl s
  split
  · exact dropLines_sameMem ..
  · have h1 : ∀ (t : State) (gs : List (Nat × BitVec 64)) (g : RaceRec → BitVec 64 → RaceRec),
        t.SameMem (t.updRaces gs g) := fun _ _ _ => ⟨rfl, rfl⟩
    cases by_ with
    | none => cases rel <;> first | exact .trans (h1 ..) (h1 ..) | exact h1 ..
    | some w => cases rel <;> first | exact .trans (h1 ..) (h1 ..) | exact h1 ..

theorem wakeWaita_sameMem (s : State) (p : Pigeon) (v : Word) (y : Option Stamp) : s.SameMem (s.wakeWaita p v y) :=
  (updSeq_sameMem ..).trans (updTask_sameMem ..)

theorem testSlice_sameMem (s : State) (sl a n : Nat) : s.SameMem (s.testSlice sl a n) := by
  unfold State.testSlice
  simp only
  split
  · exact .refl s
  · exact State.SameMem.trans ⟨rfl, rfl⟩ (foldl_sameMem _ (fun _ _ => wakeWaita_sameMem ..) _ _)

theorem testPigeons_sameMem (s : State) (f : FAddr) (n : Nat) : s.SameMem (s.testPigeons f n) := by
  unfold State.testPigeons
  split
  · exact .refl s
  · exact foldl_sameMem _ (fun _ _ => testSlice_sameMem ..) _ _

theorem watchActions_sameMem (s : State) (f : FAddr) (n : Nat) (rel : Option Stamp) :
    s.SameMem (s.watchActions f n rel) := ⟨rfl, rfl⟩

/-- An applied write leaves the memory that the write of its bytes leaves. -/
theorem applyWrite_sameMem (s : State) (f : FAddr) (bs : List Byte) (keep : Bool) (by_ : Writer) (rel : Option Stamp) :
    (s.writeFinal f bs).SameMem (s.applyWrite f bs keep by_ rel) :=
  ((noteWrite_sameMem ..).trans (testPigeons_sameMem ..)).trans (watchActions_sameMem ..)

theorem freePigeons_sameMem (s : State) (lo hi : Nat) : s.SameMem (s.freePigeons lo hi) := by
  unfold State.freePigeons
  refine foldl_sameMem _ (fun t sl => ?_) _ _
  exact State.SameMem.trans (b := t.setSlice sl _) ⟨rfl, rfl⟩ (foldl_sameMem _ (fun _ _ => wakeWaita_sameMem ..) _ _)

/-! ### The canonical form -/

theorem reset_memWf : State.reset.MemWf := ⟨rfl, rfl⟩

theorem writeFinal_memWf {s : State} (f : FAddr) (bs : List Byte) (h : s.MemWf) : (s.writeFinal f bs).MemWf := by
  unfold State.writeFinal
  split
  · split
    · exact ⟨h.1, splice_wf 0 _ _ _ h.2⟩
    · exact h
  · exact ⟨splice_wf 0 _ _ _ h.1, h.2⟩

theorem applyWrite_memWf {s : State} (f : FAddr) (bs : List Byte) (keep : Bool) (by_ : Writer) (rel : Option Stamp)
    (h : s.MemWf) : (s.applyWrite f bs keep by_ rel).MemWf :=
  (applyWrite_sameMem s f bs keep by_ rel).wf (writeFinal_memWf f bs h)

theorem hostWrites_memWf {s : State} (a : Nat) (bs : List Byte) (rel : Option Stamp) (h : s.MemWf) :
    (s.hostWrites a bs rel).MemWf := ⟨h.1, splice_wf 0 _ _ _ h.2⟩

theorem releaseFrames_memWf {s : State} (f n : Nat) (key : BitVec 6) (h : s.MemWf) : (s.releaseFrames f n key).MemWf := by
  have h1 := (freePigeons_sameMem s (f * 4096) ((f + n) * 4096)).wf h
  exact ⟨Tab.wf_filter 0 _ _ h1.1, h1.2⟩

/-! ### The scratchpad -/

theorem writeLocal_wf {c : CoreTask} (a : Nat) (bs : List Byte) (h : Tab.wf 0 c.scratch = true) :
    Tab.wf 0 (c.writeLocal a bs).scratch = true := splice_wf 0 _ _ _ h

/-- What the scratchpad holds after a write: the bytes written, and every other byte as before. -/
theorem get_writeLocal (c : CoreTask) (a : Nat) (bs : List Byte) (k : Nat) :
    Tab.get 0 (c.writeLocal a bs).scratch k =
      if h : a ≤ k ∧ k < a + bs.length then bs[k - a] else Tab.get 0 c.scratch k := get_splice ..

end Machine

end Sys2Proof
end

