-- ==== Sys2Proof/Laws/Words.lean ====
section
/-! SUPPORT. What the two halves of a word can do: the checks that every word shares, and how a word's body leaves the
device. -/

namespace Sys2Proof.Machine

/-! ### Tags -/

/-- Committing a tag changes nothing of the other sequencers. -/
theorem CoreTask.seq_commit_ne (c : CoreTask) {q p : SeqId} (t : Nat) (r : TagRec) (h : p ≠ q) :
    (c.commit q t r).seq p = c.seq p := by
  unfold CoreTask.commit
  simp only
  split
  · rw [CoreTask.seq_updSeq_ne _ _ h, CoreTask.seq_updSeq_ne _ _ h]
  · show (c.updSeq q _).seq p = _
    rw [CoreTask.seq_updSeq_ne _ _ h]
  · rw [CoreTask.seq_updSeq_ne _ _ h]

/-- A register's value in a register table (R79). -/
def rdIn (g : Tab Word) (r : GReg) : Word := if r = 0 then 0 else Tab.get 0 g r.val

theorem Seq.rd_eq (q : Seq) (r : GReg) : q.rd r = rdIn q.g r := rfl

/-- What committing a tag whose destination is a g register can do. -/
theorem CoreTask.commit_g (c : CoreTask) (q : SeqId) (t : Nat) (r : TagRec) (d : GReg) (hd : r.dest = .g d) :
    ∃ g, c.commit q t r = c.updSeq q (fun sq => { sq with g := g, tags := Tab.del t sq.tags }) ∧
      ∀ x, x ≠ d → rdIn g x = rdIn (c.seq q).g x := by
  unfold CoreTask.commit
  rw [hd]
  cases hr : r.res with
  | value v =>
    refine ⟨((c.seq q).wr d v).g, ?_, ?_⟩
    · simp only [CoreTask.updSeq_updSeq]
      unfold CoreTask.updSeq Seq.wr
      split <;> rfl
    · intro x hx
      have h := Seq.rd_wr (c.seq q) d x v
      rwa [if_neg (by simp [hx])] at h
  | _ => exact ⟨(c.seq q).g, rfl, fun _ _ => rfl⟩

/-- Entries of a table with one key removed were entries before. -/
theorem mem_del {α : Type} {k : Nat} {t : Tab α} {e : Nat × α} (h : e ∈ Tab.del k t) : e ∈ t := by
  rw [Tab.del_eq_filter] at h
  exact (List.mem_filter.mp h).1

/-- `c'` differs from `c` in the register values and tags of sequencer `q` alone, with tags only freed and register
`d` alone changed. -/
def CoreTask.Settled (c c' : CoreTask) (q : SeqId) (d : GReg) : Prop :=
  ∃ g tags, c' = c.updSeq q (fun sq => { sq with g := g, tags := tags }) ∧
    (∀ x, x ≠ d → rdIn g x = rdIn (c.seq q).g x) ∧ ∀ e, e ∈ tags → e ∈ (c.seq q).tags

theorem CoreTask.Settled.refl (c : CoreTask) (q : SeqId) (d : GReg) : c.Settled c q d :=
  ⟨(c.seq q).g, (c.seq q).tags, by cases q <;> rfl, fun _ _ => rfl, fun _ h => h⟩

theorem CoreTask.Settled.trans {a b c : CoreTask} {q : SeqId} {d : GReg} (h : a.Settled b q d) (k : b.Settled c q d) :
    a.Settled c q d := by
  obtain ⟨g, tg, rfl, hg, ht⟩ := h
  obtain ⟨g', tg', rfl, hg', ht'⟩ := k
  refine ⟨g', tg', by simp, fun x hx => ?_, fun e he => ht e ?_⟩
  · have := hg' x hx
    simp only [CoreTask.seq_updSeq] at this
    exact this.trans (hg x hx)
  · simpa using ht' e he

/-- Settling tags all of whose records have destination `d`. -/
theorem CoreTask.settleAll_settled (q : SeqId) (d : GReg) (ts : List Nat) (c : CoreTask)
    (hd : ∀ t r, t ∈ ts → find (c.seq q).tags t = some r → r.dest = .g d) : c.Settled (c.settleAll q ts).1 q d := by
  induction ts generalizing c with
  | nil => exact CoreTask.Settled.refl ..
  | cons t ts ih =>
    have h1 : c.Settled (c.settle q t).1 q d := by
      unfold CoreTask.settle
      split
      · exact CoreTask.Settled.refl ..
      · next r hr =>
        split
        · obtain ⟨g, he, hg⟩ := CoreTask.commit_g c q t r d (hd t r (by simp) hr)
          exact ⟨g, Tab.del t (c.seq q).tags, by rw [he]; cases q <;> rfl, hg, fun e he => mem_del he⟩
        · exact CoreTask.Settled.refl ..
    show c.Settled ((c.settle q t).1.settleAll q ts).1 q d
    refine h1.trans (ih _ fun j r hj hr => ?_)
    unfold CoreTask.settle at hr
    split at hr
    · exact hd j r (by simp [hj]) hr
    · next r' hr' =>
      split at hr
      · obtain ⟨g, he, -⟩ := CoreTask.commit_g c q t r' d (hd t r' (by simp) hr')
        rw [he, CoreTask.seq_updSeq] at hr
        simp only [find_del] at hr
        split at hr
        · cases hr
        · exact hd j r (by simp [hj]) hr
      · exact hd j r (by simp [hj]) hr

/-- The tags of a destination name records of that destination. -/
theorem CoreTask.mem_tagsOf {c : CoreTask} {q : SeqId} {d : TagDest} {t : Nat} {r : TagRec} (ht : t ∈ c.tagsOf q d)
    (hr : find (c.seq q).tags t = some r) : r.dest = d := by
  unfold CoreTask.tagsOf at ht
  have := (List.mem_filter.mp ht).2
  rw [hr] at this
  simpa using this

/-- The commit of a destination's own tags. -/
theorem CoreTask.settle_dst (c : CoreTask) (q : SeqId) (d : GReg) :
    c.Settled (c.settleAll q (c.tagsOf q (.g d))).1 q d :=
  CoreTask.settleAll_settled q d _ c (fun _ _ ht hr => CoreTask.mem_tagsOf ht hr)

/-! ### The first half of a word -/

/-- The tags that a word waits for before all else: those of CONS and the one that it allocates (R89). -/
def WordUse.firstTags (u : WordUse) : List Nat := consTags u.cons ++ (match u.alloc with | some t => [t.val] | none => [])

/-- The busy tags of a word's destination. -/
def WordUse.lateTags (u : WordUse) (c : CoreTask) (q : SeqId) : List Nat :=
  match u.dst with
  | some d => c.tagsOf q d
  | none => []

/-- What the shared first half of a word answers, check by check. -/
theorem enter_eq (u : WordUse) (s : State) : enter u s = match s.canIssue s.cur with
    | none => .stop s
    | some (_, c) =>
      if !u.perm.contains s.cur.q then .stop (s.raise s.cur (trapOf .seqClass))
      else if !u.legal then .stop (s.raise s.cur (trapOf .illegalField))
      else
        let r := c.settleAll s.cur.q u.firstTags
        if r.2 && r.1.landedAll s.cur.q (u.lateTags r.1 s.cur.q) then
          .go (if u.readsDst then (r.1.settleAll s.cur.q (u.lateTags r.1 s.cur.q)).1 else r.1)
        else .stop (s.waitCt s.cur r.1 .plain) := rfl

/-- A word that enters belongs to a task and a core-task that are there, may run on its sequencer with its fields, and has
its tags committed. -/
theorem enter_go {u : WordUse} {s : State} {c : CoreTask} (h : enter u s = .go c) :
    ∃ t c0, s.canIssue s.cur = some (t, c0) ∧ u.perm.contains s.cur.q = true ∧ u.legal = true ∧
      c = if u.readsDst then
          ((c0.settleAll s.cur.q u.firstTags).1.settleAll s.cur.q
            (u.lateTags (c0.settleAll s.cur.q u.firstTags).1 s.cur.q)).1
        else (c0.settleAll s.cur.q u.firstTags).1 := by
  rw [enter_eq] at h
  split at h
  · cases h
  · next t c0 h0 =>
    split at h
    · cases h
    · next hp =>
      split at h
      · cases h
      · next hl =>
        dsimp only at h
        split at h
        · exact ⟨t, c0, h0, by simpa using hp, by simpa using hl, (Entry.go.inj h).symm⟩
        · cases h

theorem canIssue_some {s : State} {a : Agent} {t : Task} {c : CoreTask} (h : s.canIssue a = some (t, c)) :
    s.task? a.slot = some t ∧ t.ct? a.rank = some c ∧ t.state = .running ∧ (c.seq a.q).status = .running := by
  unfold State.canIssue at h
  split at h
  · next t' ht =>
    split at h
    · next c' hc =>
      split at h
      · next hh =>
        cases h
        exact ⟨ht, hc, hh.1, hh.2.1⟩
      · cases h
    · cases h
  · cases h

theorem enter_task {u : WordUse} {s : State} {c : CoreTask} (h : enter u s = .go c) :
    ∃ t, s.task? s.cur.slot = some t ∧ t.state = .running := by
  obtain ⟨t, c0, hc, -⟩ := enter_go h
  exact ⟨t, (canIssue_some hc).1, (canIssue_some hc).2.2.1⟩

theorem enter_perm {u : WordUse} {s : State} {c : CoreTask} (h : enter u s = .go c) :
    u.perm.contains s.cur.q = true := by
  obtain ⟨t, c0, -, hp, -⟩ := enter_go h
  exact hp

/-- A word of the C-sequencer alone enters on the C-sequencer. -/
theorem enter_c {u : WordUse} {s : State} {c : CoreTask} (h : enter u s = .go c) (hu : u.perm = [.c]) :
    s.cur.q = .c := by
  have := enter_perm h
  rw [hu] at this
  simpa using this

/-! ### Putting a core-task in the issuing one's place -/

theorem State.onlyCur_refl (s : State) : s.OnlyCur s := ⟨rfl, fun _ _ _ => rfl, fun _ => rfl⟩

theorem State.onlyCur_putCt (s : State) (c : CoreTask) : s.OnlyCur (s.putCt s.cur.slot s.cur.rank c) := by
  constructor
  · unfold State.putCt
    split <;> rfl
  · intro slot rank h
    rw [State.ct_putCt, if_neg h]
  · intro slot
    rw [State.task_putCt]
    split
    · next h =>
      rw [h]
      cases s.task? s.cur.slot <;> rfl
    · rfl

theorem State.ct_withCur {u : WordUse} {s : State} {c : CoreTask} (h : enter u s = .go c) (c' : CoreTask) :
    (s.withCur c').ct? s.cur.slot s.cur.rank = some c' := by
  obtain ⟨t, ht, -⟩ := enter_task h
  unfold State.withCur
  rw [State.ct_putCt, if_pos ⟨rfl, rfl⟩, ht]
  rfl

@[simp] theorem State.withCur_cur (s : State) (c : CoreTask) : (s.withCur c).cur = s.cur := State.putCt_cur ..

theorem State.OnlyCur.cur {s t : State} (h : s.OnlyCur t) : t.cur = s.cur := by rw [h.rest]

theorem State.OnlyCur.trans {s t u : State} (h : s.OnlyCur t) (k : t.OnlyCur u) : s.OnlyCur u := by
  have hc := h.cur
  constructor
  · have h1 := h.rest
    have h2 := k.rest
    rw [h2, h1]
  · intro slot rank hn
    rw [k.others slot rank (by rw [hc]; exact hn), h.others slot rank hn]
  · intro slot
    rw [k.tasks, h.tasks]

/-! ### The second half of a word -/

/-- A word's body that changes its core-task alone, run where it enters. -/
theorem runLocal_go {u : WordUse} {body : State → CoreTask → Res CoreTask} {s : State} {c : CoreTask}
    (h : enter u s = .go c) : runLocal u body s = match body s c with
      | .done c' wr => .next (s.passed u c' wr)
      | .jump c' => .next (s.jumped c')
      | .wait c' k => .next (s.waitCt s.cur c' k)
      | .trap t => .next (s.trapped c t) := by
  unfold runLocal
  rw [h]
  rfl

/-- A word's body that changes the device, run where it enters. -/
theorem runGlobal_go {u : WordUse} {body : State → CoreTask → Res State} {s : State} {c : CoreTask}
    (h : enter u s = .go c) : runGlobal u body s = match body (s.withCur c) c with
      | .done s' wr => .next (s'.goesOn s.cur u wr)
      | .jump s' => .next s'
      | .wait s' k => .next { s'.updCt s.cur.slot s.cur.rank (fun c' =>
          c'.updSeq s.cur.q (fun q => q.await k s.dtime s.fresh)) with fresh := s'.fresh + 1 }
      | .trap t => .next (s.trapped c t) := by
  unfold runGlobal
  rw [h]
  rfl

/-- The effect of a word that writes a register and goes on. -/
theorem passed_wrote {u : WordUse} {s : State} {c : CoreTask} {d : GReg} (v : Word) (h : enter u s = .go c)
    (hu : u.dst = gDst d) : s.Wrote (s.passed u c (some (d, v))) c d v := by
  refine ⟨State.onlyCur_putCt .., _, State.ct_withCur h _, ?_⟩
  obtain ⟨g, tags, hs, hg, ht⟩ := CoreTask.settle_dst c s.cur.q d
  have hf : c.finish s.cur.q u.dst (some (d, v)) =
      c.updSeq s.cur.q (fun sq => ({ sq with g := g, tags := tags }).wr d v) := by
    unfold CoreTask.finish
    rw [hu]
    simp only [gDst]
    rw [hs]
    simp
  rw [hf]
  simp only [CoreTask.updSeq_updSeq]
  have hadv : ∀ q : Seq, q.advance = { q with loops := (loopEnd q.loops q.pc).1, pc := (loopEnd q.loops q.pc).2, wait := none } :=
    fun q => rfl
  refine ⟨by simp [CoreTask.OnlySeq, CoreTask.updSeq], ?_, ?_, ?_, ?_, ?_⟩
  · intro r
    rw [CoreTask.seq_updSeq, hadv]
    have h1 := Seq.rd_wr ({ c.seq s.cur.q with g := g, tags := tags }) d r v
    rw [Seq.rd_eq] at h1 ⊢
    refine h1.trans ?_
    split
    · rfl
    · next hn =>
      by_cases hr : r = d
      · subst hr
        have : r = 0 := by simpa using hn
        subst this
        rfl
      · exact hg r hr
  · rw [CoreTask.seq_updSeq, hadv]
    have : ∀ q : Seq, (q.wr d v).loops = q.loops ∧ (q.wr d v).pc = q.pc := fun q => by
      unfold Seq.wr
      split <;> exact ⟨rfl, rfl⟩
    simp only [(this _).1, (this _).2]
  · rw [CoreTask.seq_updSeq, hadv]
  · rw [CoreTask.seq_updSeq, hadv]
    have : ∀ q : Seq, (q.wr d v).tags = q.tags := fun q => by
      unfold Seq.wr
      split <;> rfl
    simp only [this]
    exact ht
  · rw [CoreTask.seq_updSeq, hadv]
    unfold Seq.wr
    split <;> rfl

/-- A scalar word that writes a value of the registers. -/
theorem writes_alu (i : Instr) (k : BitVec 8) (d : GReg) (f : Seq → Word) (h : ∀ s, exec i s = alu k d f s) :
    Writes i (useD k d) d f := fun s c he => by
  refine ⟨_, ?_, passed_wrote _ he rfl⟩
  rw [h]
  exact runLocal_go he

/-- The same for a word that reads its destination. -/
theorem writes_aluRmw (i : Instr) (k : BitVec 8) (d : GReg) (f : Seq → Word) (h : ∀ s, exec i s = aluRmw k d f s) :
    Writes i (useRmw k d) d f := fun s c he => by
  refine ⟨_, ?_, passed_wrote _ he rfl⟩
  rw [h]
  exact runLocal_go he

/-- Equal values of the registers are written alike. -/
theorem Writes.congr {i : Instr} {u : WordUse} {d : GReg} {f g : Seq → Word} (h : Writes i u d f)
    (hfg : ∀ q, f q = g q) : Writes i u d g := by
  rwa [← funext hfg]

end Sys2Proof.Machine
end

