-- ==== Sys2Proof/Laws/Ops.lean ====
section
/-! SUPPORT. What the shared operations can do: taking a fault, going on behind a word, semaphores and barriers, the race
check, and the two ways a word's body runs. -/

namespace Sys2Proof.Machine

/-! ### Taking a fault (R8, R83, R279, R281) -/

/-- The core-task that a fault stops: its sequencer is faulted at its word and the fault is noted. -/
theorem State.ct_raise (s : State) (a : Agent) (t : Trap) (j k : Nat) :
    (s.raise a t).ct? j k = if j = a.slot ∧ k = a.rank then
      (s.ct? a.slot a.rank).map (fun c => { c.setSeq a.q { c.seq a.q with status := .faulted } with
        notes := c.notes ++ [t.note (seqNum a.q) (c.seq a.q).pc s.dtime] }) else s.ct? j k := State.ct_updCt ..

/-- The core-task that a deferred fault reaches. -/
theorem State.ct_raiseLater (s : State) (a : Agent) (t : Trap) (w : BitVec 32) (j k : Nat) :
    (s.raiseLater a t w).ct? j k = if j = a.slot ∧ k = a.rank then
      (s.ct? a.slot a.rank).map (fun c =>
        { c.setSeq a.q { c.seq a.q with status := if (c.seq a.q).status = .running then .faulted else (c.seq a.q).status } with
          notes := c.notes ++ [{ t.note (seqNum a.q) w s.dtime with deferred := t.code.defers }] }) else s.ct? j k :=
  State.ct_updCt ..

/-- The core-task that an engine's fault reaches: the engine stops. -/
theorem State.ct_raiseEngine (s : State) (slot rank kind : Nat) (t : Trap) (w : BitVec 32) (opc : BitVec 9)
    (detail : BitVec 48) (j k : Nat) :
    (s.raiseEngine slot rank kind t w opc detail).ct? j k = if j = slot ∧ k = rank then
      (s.ct? slot rank).map (fun c =>
        let c := { c with notes := c.notes ++ [{ t.note kind w s.dtime with opc := opc, detail := detail }] }
        if kind = 4 then { c with mxStopped := true } else { c with cpStopped := true }) else s.ct? j k := State.ct_updCt ..

/-- The core-task of an agent that waits. -/
theorem State.ct_waitCt (s : State) (a : Agent) (c : CoreTask) (w : WaitKind) (j k : Nat) :
    (s.waitCt a c w).ct? j k = if j = a.slot ∧ k = a.rank then
      (s.task? a.slot).map (fun _ => c.updSeq a.q (fun q => q.await w s.dtime s.fresh)) else s.ct? j k :=
  State.ct_putCt ..

/-! ### Behind a word (R99) -/

@[simp] theorem loopEnd_nil (a : BitVec 32) : loopEnd [] a = ([], a + 1) := rfl

/-- Not the last word of the innermost loop. -/
theorem loopEnd_inside (e : LoopEntry) (es : List LoopEntry) (a : BitVec 32) (h : a ≠ e.last) :
    loopEnd (e :: es) a = (e :: es, a + 1) := by simp [loopEnd, h]

/-- The last word of the innermost loop with iterations left: back to its start. -/
theorem loopEnd_again (e : LoopEntry) (es : List LoopEntry) (h : 1 < e.remaining) :
    loopEnd (e :: es) e.last = ({ e with remaining := e.remaining - 1 } :: es, e.start) := by simp [loopEnd, h]

/-- The last word of the innermost loop's last iteration: the loop is left, and the next one tested. -/
theorem loopEnd_leave (e : LoopEntry) (es : List LoopEntry) (h : ¬1 < e.remaining) :
    loopEnd (e :: es) e.last = loopEnd es e.last := by simp [loopEnd, h]

/-- Outside every loop's last word, control goes to the next word and the loops stay. -/
theorem loopEnd_next (es : List LoopEntry) (a : BitVec 32) (h : ∀ e ∈ es, a ≠ e.last) : loopEnd es a = (es, a + 1) := by
  cases es with
  | nil => rfl
  | cons e es => exact loopEnd_inside e es a (h e (by simp))

/-! ### Semaphores and barriers (R115, R116, R202) -/

/-- A signal is refused exactly past 65535; else the count grows, and the waiters are tested unless a further signal comes
in the same cycle. -/
theorem CoreTask.signal_eq (c : CoreTask) (n amt : Nat) (st : Stamp) (shared : Bool) :
    c.signal n amt st shared = if 65535 < (c.sem n).n + amt then none
      else
        let c1 := c.setSem n ⟨(c.sem n).n + amt, stMax (c.sem n).st st⟩
        some (if shared then { c1 with due := n :: c1.due.filter (· ≠ n) } else c1.serveSem n) := rfl

/-- Without a waiter nothing is served. -/
theorem CoreTask.serveSem_none (c : CoreTask) (n : Nat)
    (h : c.semWaiters n (fun m => (engineSems m.i).1) (fun m => (engineSems m.i).1) = []) :
    c.serveSem n = { c with due := c.due.filter (· ≠ n) } := by
  unfold CoreTask.serveSem
  rw [h]
  rfl

@[simp] theorem CoreTask.sem_setSem (c : CoreTask) (n m : Nat) (o : Obj) :
    (c.setSem n o).sem m = if m = n then o else c.sem m := by
  unfold CoreTask.sem CoreTask.setSem
  dsimp only
  rw [find_put]
  split <;> rfl

@[simp] theorem CoreTask.token_setToken (c : CoreTask) (k j : Nat) (o : Obj) :
    (c.setToken k o).token j = if j = k then o else c.token j := by
  unfold CoreTask.token CoreTask.setToken
  dsimp only
  rw [find_put]
  split <;> rfl

/-- What a change of a barrier can do: the count moves inside its limit, and the phase flips exactly when the count
comes to 0. -/
theorem Bar.change_some {b b' : Bar} {d : Int} {st : Option Stamp} (h : b.change d st = some b') :
    -barLimit ≤ b.count + d ∧ b.count + d ≤ barLimit ∧ b'.count = b.count + d ∧
      b'.phase = (if b.count ≠ 0 ∧ b.count + d = 0 then !b.phase else b.phase) := by
  unfold Bar.change at h
  simp only at h
  split at h
  · cases h
  · next hn =>
    simp only [not_or, not_lt] at hn
    split at h
    · next h0 =>
      cases h
      exact ⟨hn.1, hn.2, rfl, (if_pos h0).symm⟩
    · next h0 =>
      cases h
      exact ⟨hn.1, hn.2, rfl, (if_neg h0).symm⟩

/-- A barrier overflows exactly outside its limit. -/
theorem Bar.change_none (b : Bar) (d : Int) (st : Option Stamp) :
    b.change d st = none ↔ b.count + d < -barLimit ∨ barLimit < b.count + d := by
  unfold Bar.change
  simp only
  split
  · next h => exact ⟨fun _ => h, fun _ => rfl⟩
  · next h => split <;> exact ⟨fun e => (nomatch e), fun e => absurd e h⟩

/-! ### The race check (R196, R197) -/

/-- With FEATW0.RACE clear no access is checked. -/
@[simp] theorem raceTrap_off (get : Nat → RaceRec) (gs : List (Nat × BitVec 64)) (a : AgentId) (st : Stamp)
    (writes atomic : Bool) : raceTrap false get gs a st writes atomic = none := rfl

/-- A scratchpad read that passes changes the records alone. -/
theorem CoreTask.localRead_inr {c c' : CoreTask} {on : Bool} {a : AgentId} {st : Stamp} {gs : List (Nat × BitVec 64)}
    (h : c.localRead on a st gs = .inr c') :
    raceTrap on (Tab.get RaceRec.clear c.scratchRaces) gs a st false false = none ∧
      c' = { c with scratchRaces := updRecs gs (fun r b => r.afterRead b a st) c.scratchRaces } := by
  unfold CoreTask.localRead at h
  split at h
  · cases h
  · exact ⟨‹_›, (Sum.inr.inj h).symm⟩

/-- A scratchpad write that passes changes the records alone. -/
theorem CoreTask.localWrite_inr {c c' : CoreTask} {on : Bool} {a : AgentId} {st : Stamp} {at_ : Bool}
    {gs : List (Nat × BitVec 64)} (h : c.localWrite on a st at_ gs = .inr c') :
    raceTrap on (Tab.get RaceRec.clear c.scratchRaces) gs a st true at_ = none ∧
      c' = { c with scratchRaces := updRecs gs (fun r b => r.afterWrite b a st at_) c.scratchRaces } := by
  unfold CoreTask.localWrite at h
  split at h
  · cases h
  · exact ⟨‹_›, (Sum.inr.inj h).symm⟩

/-! ### How a word's body runs -/

theorem State.onlyCur_raise (s : State) (t : Trap) : s.OnlyCur (s.raise s.cur t) := by
  unfold State.raise State.updCt
  split
  · exact State.onlyCur_putCt ..
  · exact State.onlyCur_refl s

theorem State.onlyCur_fresh {s t : State} (h : s.OnlyCur t) : s.OnlyCur { t with fresh := s.fresh + 1 } := by
  obtain ⟨h1, h2, h3⟩ := h
  exact ⟨by rw [h1], h2, h3⟩

theorem State.onlyCur_waitCt (s : State) (c : CoreTask) (k : WaitKind) : s.OnlyCur (s.waitCt s.cur c k) :=
  State.onlyCur_fresh (State.onlyCur_putCt s _)

/-- A word that is stopped before its body changes its core-task alone. -/
theorem enter_stop {u : WordUse} {s t : State} (h : enter u s = .stop t) : s.OnlyCur t := by
  rw [enter_eq] at h
  split at h
  · cases h
    exact State.onlyCur_refl s
  · split at h
    · rw [← Entry.stop.inj h]
      exact State.onlyCur_raise ..
    · split at h
      · rw [← Entry.stop.inj h]
        exact State.onlyCur_raise ..
      · dsimp only at h
        split at h
        · cases h
        · rw [← Entry.stop.inj h]
          exact State.onlyCur_waitCt ..

/-- A word whose body sees its core-task alone answers a next state in which that core-task alone has changed. -/
theorem runLocal_onlyCur (u : WordUse) (body : State → CoreTask → Res CoreTask) (s : State) :
    ∃ t, runLocal u body s = .next t ∧ s.OnlyCur t := by
  cases h : enter u s with
  | stop t => exact ⟨t, by unfold runLocal; rw [h], enter_stop h⟩
  | go c =>
    rw [runLocal_go h]
    cases hb : body s c with
    | done c' wr => exact ⟨_, rfl, State.onlyCur_putCt ..⟩
    | jump c' => exact ⟨_, rfl, State.onlyCur_putCt ..⟩
    | wait c' k => exact ⟨_, rfl, State.onlyCur_waitCt ..⟩
    | trap t =>
      refine ⟨_, rfl, (State.onlyCur_putCt s c).trans ?_⟩
      have := State.onlyCur_raise (s.putCt s.cur.slot s.cur.rank c) t
      rwa [State.putCt_cur] at this

/-- A word whose body changes the device answers a next state. -/
theorem runGlobal_next (u : WordUse) (body : State → CoreTask → Res State) (s : State) :
    ∃ t, runGlobal u body s = .next t := by
  unfold runGlobal
  split
  · exact ⟨_, rfl⟩
  · simp only
    split <;> exact ⟨_, rfl⟩

/-! ### Control registers (R338) -/

/-- A chain of tests whose every branch gives a value gives none exactly where none of the tests holds. -/
theorem ite_some_eq_none {α : Type} {p : Prop} [Decidable p] (a : α) (x : Option α) :
    (if p then some a else x) = none ↔ ¬p ∧ x = none := by
  split <;> simp_all

/-- Every register that R118, R255 and R272 lay down reads as a value. -/
theorem State.csr_known (s : State) (n : Nat) (t : Task) (rank : Nat) (c : CoreTask) (h : csrKnown n = true) :
    (s.csr n t rank c).isSome = true := by
  have hk : n ≤ 7 ∨ (0x10 ≤ n ∧ n ≤ 0x13) ∨ (0x20 ≤ n ∧ n ≤ 0x28) ∨ n = 0x30 ∨ (0x40 ≤ n ∧ n ≤ 0x43) ∨ n = 0x50 ∨ n = 0x60 ∨
      n = 0x61 ∨ n = 0x70 ∨ n = 0x71 ∨ (0x80 ≤ n ∧ n ≤ 0x8B) ∨ (0x90 ≤ n ∧ n ≤ 0x9B) ∨ (0x100 ≤ n ∧ n ≤ 0x106) ∨
      (0x200 ≤ n ∧ n ≤ 0x204) := by
    simp only [csrKnown, List.contains_cons, List.contains_nil, List.any_cons, List.any_nil, Bool.or_eq_true, beq_iff_eq,
      Bool.and_eq_true, decide_eq_true_eq, Bool.or_false] at h
    omega
  rw [Option.isSome_iff_ne_none]
  intro hn
  simp only [State.csr, ite_some_eq_none, and_true] at hn
  omega
/-! ### What the host does (R19, R315) -/

/-- An act of the host reaches a function that a trained port presents. -/
theorem fromHost_on (s : State) (f : Nat) (x : Host.Outcome State Fault Refusal) (h : s.ports.host = true)
    (p : s.presented f = true) : fromHost s f x = x := by
  simp [fromHost, h, p]

/-- While the port is down, or the function is not presented, nothing happens. -/
theorem fromHost_off (s : State) (f : Nat) (x : Host.Outcome State Fault Refusal)
    (h : s.ports.host = false ∨ s.presented f = false) : fromHost s f x = .next s := by
  rcases h with h | h <;> simp [fromHost, h, idle]

/-- The physical function is always presented. -/
@[simp] theorem State.presented_zero (s : State) : s.presented 0 = true := rfl

end Sys2Proof.Machine
end

