-- ==== Sys2Proof/Laws/Peers.lean ====
section
/-! SUPPORT. What the shared operations of misses outside the gangs and of packets to a peer can do. -/

namespace Sys2Proof.Machine

/-! ### Packets to a peer (R19) -/

/-- A packet leaves a trained peer port and changes nothing else; an untrained one sends none. -/
theorem State.sendPeer_cases (s : State) (x : PeerPacket) :
    (s.ports.peer = true ∧ s.sendPeer x = { s with ports := { s.ports with sent := s.ports.sent ++ [x] } }) ∨
    (s.ports.peer = false ∧ s.sendPeer x = s) := by
  cases h : s.ports.peer <;> simp [State.sendPeer, h]

@[simp] theorem State.sendPeer_tasks (s : State) (x : PeerPacket) : (s.sendPeer x).tasks = s.tasks := by
  unfold State.sendPeer; split <;> rfl

@[simp] theorem State.sendPeer_m (s : State) (x : PeerPacket) : (s.sendPeer x).m = s.m := by
  unfold State.sendPeer; split <;> rfl

@[simp] theorem State.sendPeer_r (s : State) (x : PeerPacket) : (s.sendPeer x).r = s.r := by
  unfold State.sendPeer; split <;> rfl

@[simp] theorem State.sendPeer_peer (s : State) (x : PeerPacket) : (s.sendPeer x).ports.peer = s.ports.peer := by
  unfold State.sendPeer; split <;> rfl

/-- A relayed delivery is marked as one, and leaves only through a trained port (R313). -/
theorem State.relay_trained {s : State} (h : s.ports.peer = true) (n : Nat) (d : Inside) :
    s.relay n d = { s with ports := { s.ports with
      sent := s.ports.sent ++ [.relay n { d.p with relayed := true }] } } := by
  simp [State.relay, State.sendPeer, h]

/-! ### Misses outside the gangs (R179, R180) -/

/-- While page requests are enabled and not stopped, an access faults exactly at its third miss on the page. -/
theorem State.plainMiss_third {s : State} {p : Plain} {ctx : Nat} {va : Word} (he : s.prqEnabled ctx = true)
    (hs : Tab.get false s.r.priStop (s.ctxFunc ctx) = false) :
    s.plainMiss p ctx va =
      if 2 ≤ Tab.get 0 s.m.misses (p.key (va.toNat / 4096)) then some (pageTrap 0 va) else none := by
  simp [State.plainMiss, he, hs]

/-- An access that has been made has no miss counted, and another's misses stay. -/
theorem State.plainDone_misses (s : State) (p : Plain) :
    (s.plainDone p).m.misses = s.m.misses.filter (fun e => decide (e.1 / 2 ^ 45 ≠ p.num)) := rfl

@[simp] theorem State.plainDone_tasks (s : State) (p : Plain) : (s.plainDone p).tasks = s.tasks := rfl

@[simp] theorem State.plainDone_r (s : State) (p : Plain) : (s.plainDone p).r = s.r := rfl

@[simp] theorem State.plainDone_dpa (s : State) (p : Plain) : (s.plainDone p).m.dpa = s.m.dpa := rfl

/-- Once its access has been made, a maker waits for no page. -/
theorem State.plainDone_waits (s : State) (p : Plain) (ctx : Nat) : (s.plainDone p).plainWaits p ctx = none := by
  simp [State.plainWaits, State.plainDone, List.find?_eq_none]
  intro k n _ h h2
  exact absurd h2 h

end Sys2Proof.Machine
end

