-- ==== Sys2Proof/Laws/PerInstr.lean ====
section
/-! SUPPORT. The statements made per instruction: decoding gives back what the encoder wrote. -/

namespace Sys2Proof.Laws.Coding

set_option Elab.async false

/-- A well-formed instruction's fields decode to it, and so does a Xumak instruction's word. -/
def Statement (i : Instr) : Prop :=
  (∀ f, i.wf = true → encodeFields i = some f → decodeFields f = some i) ∧
  (∀ w, encodeXumak i = some w → decodeXumak w = some i)

theorem of_word {i : Instr} {f : Fields} (e : encodeFields i = some f) (x : encodeXumak i = none)
    (h : i.wf = true → decodeFields f = some i) : Statement i :=
  ⟨fun g w eg => by rw [e] at eg; exact Option.some.inj eg ▸ h w, fun g eg => by rw [x] at eg; cases eg⟩

theorem of_xumak {i : Instr} {w : BitVec 32} (e : encodeFields i = none) (x : encodeXumak i = some w)
    (h : decodeXumak w = some i) : Statement i :=
  ⟨fun g _ eg => (by rw [e] at eg; cases eg), fun g eg => by rw [x] at eg; exact Option.some.inj eg ▸ h⟩

/-- A step that is no word has no encoding. -/
theorem of_step {i : Instr} (e : encodeFields i = none) (x : encodeXumak i = none) : Statement i :=
  ⟨fun g _ eg => (by rw [e] at eg; cases eg), fun g eg => by rw [x] at eg; cases eg⟩

theorem addReg (k d a b) : Statement (.addReg k d a b) :=
  of_word rfl rfl fun hw => decodeFields_of 0x000 (decR3 .addReg) rfl (r3_form ..) hw

theorem addImm (k d a i) : Statement (.addImm k d a i) :=
  of_word rfl rfl fun hw => decodeFields_of 0x001 (decI .addImm) rfl (imm_form ..) hw

theorem sub (k d a b) : Statement (.sub k d a b) :=
  of_word rfl rfl fun hw => decodeFields_of 0x002 (decR3 .sub) rfl (r3_form ..) hw

theorem mulReg (k d a b) : Statement (.mulReg k d a b) :=
  of_word rfl rfl fun hw => decodeFields_of 0x003 (decR3 .mulReg) rfl (r3_form ..) hw

theorem mulImm (k d a i) : Statement (.mulImm k d a i) :=
  of_word rfl rfl fun hw => decodeFields_of 0x004 (decI .mulImm) rfl (imm_form ..) hw

theorem mulh (k d a b) : Statement (.mulh k d a b) :=
  of_word rfl rfl fun hw => decodeFields_of 0x005 (decR3 .mulh) rfl (r3_form ..) hw

theorem mulhU (k d a b) : Statement (.mulhU k d a b) :=
  of_word rfl rfl fun hw => decodeFields_of 0x006 (decR3 .mulhU) rfl (r3_form ..) hw

theorem divu (k t d a b) : Statement (.divu k t d a b) :=
  of_word rfl rfl fun hw => decodeFields_of 0x007 (decR3T .divu) rfl (r3t_form ..) hw

theorem remu (k t d a b) : Statement (.remu k t d a b) :=
  of_word rfl rfl fun hw => decodeFields_of 0x008 (decR3T .remu) rfl (r3t_form ..) hw

theorem andReg (k d a b) : Statement (.andReg k d a b) :=
  of_word rfl rfl fun hw => decodeFields_of 0x009 (decR3 .andReg) rfl (r3_form ..) hw

theorem andImm (k d a i) : Statement (.andImm k d a i) :=
  of_word rfl rfl fun hw => decodeFields_of 0x00A (decI .andImm) rfl (imm_form ..) hw

theorem orReg (k d a b) : Statement (.orReg k d a b) :=
  of_word rfl rfl fun hw => decodeFields_of 0x00B (decR3 .orReg) rfl (r3_form ..) hw

theorem orImm (k d a i) : Statement (.orImm k d a i) :=
  of_word rfl rfl fun hw => decodeFields_of 0x00C (decI .orImm) rfl (imm_form ..) hw

theorem xorReg (k d a b) : Statement (.xorReg k d a b) :=
  of_word rfl rfl fun hw => decodeFields_of 0x00D (decR3 .xorReg) rfl (r3_form ..) hw

theorem xorImm (k d a i) : Statement (.xorImm k d a i) :=
  of_word rfl rfl fun hw => decodeFields_of 0x00E (decI .xorImm) rfl (imm_form ..) hw

theorem shlReg (k d a b) : Statement (.shlReg k d a b) :=
  of_word rfl rfl fun hw => decodeFields_of 0x00F (decR3 .shlReg) rfl (r3_form ..) hw

theorem shlImm (k d a c) : Statement (.shlImm k d a c) :=
  of_word rfl rfl fun hw => decodeFields_of 0x010 (decSh .shlImm) rfl (shift_form ..) hw

theorem shrReg (k d a b) : Statement (.shrReg k d a b) :=
  of_word rfl rfl fun hw => decodeFields_of 0x011 (decR3 .shrReg) rfl (r3_form ..) hw

theorem shrImm (k d a c) : Statement (.shrImm k d a c) :=
  of_word rfl rfl fun hw => decodeFields_of 0x012 (decSh .shrImm) rfl (shift_form ..) hw

theorem sarReg (k d a b) : Statement (.sarReg k d a b) :=
  of_word rfl rfl fun hw => decodeFields_of 0x013 (decR3 .sarReg) rfl (r3_form ..) hw

theorem sarImm (k d a c) : Statement (.sarImm k d a c) :=
  of_word rfl rfl fun hw => decodeFields_of 0x014 (decSh .sarImm) rfl (shift_form ..) hw

theorem sltReg (k d a b) : Statement (.sltReg k d a b) :=
  of_word rfl rfl fun hw => decodeFields_of 0x015 (decR3 .sltReg) rfl (r3_form ..) hw

theorem sltImm (k d a i) : Statement (.sltImm k d a i) :=
  of_word rfl rfl fun hw => decodeFields_of 0x016 (decI .sltImm) rfl (imm_form ..) hw

theorem sltuReg (k d a b) : Statement (.sltuReg k d a b) :=
  of_word rfl rfl fun hw => decodeFields_of 0x017 (decR3 .sltuReg) rfl (r3_form ..) hw

theorem sltuImm (k d a i) : Statement (.sltuImm k d a i) :=
  of_word rfl rfl fun hw => decodeFields_of 0x018 (decI .sltuImm) rfl (imm_form ..) hw

theorem seqReg (k d a b) : Statement (.seqReg k d a b) :=
  of_word rfl rfl fun hw => decodeFields_of 0x019 (decR3 .seqReg) rfl (r3_form ..) hw

theorem seqImm (k d a i) : Statement (.seqImm k d a i) :=
  of_word rfl rfl fun hw => decodeFields_of 0x01A (decI .seqImm) rfl (imm_form ..) hw

theorem min (k d a b) : Statement (.min k d a b) :=
  of_word rfl rfl fun hw => decodeFields_of 0x01B (decR3 .min) rfl (r3_form ..) hw

theorem minU (k d a b) : Statement (.minU k d a b) :=
  of_word rfl rfl fun hw => decodeFields_of 0x01C (decR3 .minU) rfl (r3_form ..) hw

theorem max (k d a b) : Statement (.max k d a b) :=
  of_word rfl rfl fun hw => decodeFields_of 0x01D (decR3 .max) rfl (r3_form ..) hw

theorem maxU (k d a b) : Statement (.maxU k d a b) :=
  of_word rfl rfl fun hw => decodeFields_of 0x01E (decR3 .maxU) rfl (r3_form ..) hw

theorem mov (k d a) : Statement (.mov k d a) :=
  of_word rfl rfl fun hw => decodeFields_of 0x01F (decR2 .mov) rfl (r2_form ..) hw

theorem li (k d i) : Statement (.li k d i) :=
  of_word rfl rfl fun hw => fields_of 0x020 rfl (by simp [enc, check, gOf_gCode]) hw

theorem lih (k d i) : Statement (.lih k d i) :=
  of_word rfl rfl fun hw => fields_of 0x021 rfl (by simp [enc, check, gOf_gCode, loLih_0_24, loLih_24_16]) hw

theorem sel (k d a b c) : Statement (.sel k d a b c) :=
  of_word rfl rfl fun hw => decodeFields_of 0x022 (decR4 .sel) rfl (r4_form ..) hw

theorem bfx (k d a l w) : Statement (.bfx k d a l w) :=
  of_word rfl rfl fun hw => decodeFields_of 0x023 (decBf .bfx) rfl (bf_form ..) hw

theorem bfxS (k d a l w) : Statement (.bfxS k d a l w) :=
  of_word rfl rfl fun hw => decodeFields_of 0x024 (decBf .bfxS) rfl (bf_form ..) hw

theorem bfi (k d a l w) : Statement (.bfi k d a l w) :=
  of_word rfl rfl fun hw => decodeFields_of 0x025 (decBf .bfi) rfl (bf_form ..) hw

theorem clz (k d a) : Statement (.clz k d a) :=
  of_word rfl rfl fun hw => decodeFields_of 0x026 (decR2 .clz) rfl (r2_form ..) hw

theorem ctz (k d a) : Statement (.ctz k d a) :=
  of_word rfl rfl fun hw => decodeFields_of 0x027 (decR2 .ctz) rfl (r2_form ..) hw

theorem popc (k d a) : Statement (.popc k d a) :=
  of_word rfl rfl fun hw => decodeFields_of 0x028 (decR2 .popc) rfl (r2_form ..) hw

theorem madd (k d a b c) : Statement (.madd k d a b c) :=
  of_word rfl rfl fun hw => decodeFields_of 0x029 (decR4 .madd) rfl (r4_form ..) hw

theorem b (k o) : Statement (.b k o) :=
  of_word rfl rfl fun hw => decodeFields_of 0x040 (decBr .b) rfl (br_form ..) hw

theorem bcEq (k a b o) : Statement (.bcEq k a b o) :=
  of_word rfl rfl fun hw => decodeFields_of 0x041 (decBc .bcEq) rfl (bc_form ..) hw

theorem bcNe (k a b o) : Statement (.bcNe k a b o) :=
  of_word rfl rfl fun hw => decodeFields_of 0x042 (decBc .bcNe) rfl (bc_form ..) hw

theorem bcLt (k a b o) : Statement (.bcLt k a b o) :=
  of_word rfl rfl fun hw => decodeFields_of 0x043 (decBc .bcLt) rfl (bc_form ..) hw

theorem bcGe (k a b o) : Statement (.bcGe k a b o) :=
  of_word rfl rfl fun hw => decodeFields_of 0x044 (decBc .bcGe) rfl (bc_form ..) hw

theorem bcLtu (k a b o) : Statement (.bcLtu k a b o) :=
  of_word rfl rfl fun hw => decodeFields_of 0x045 (decBc .bcLtu) rfl (bc_form ..) hw

theorem bcGeu (k a b o) : Statement (.bcGeu k a b o) :=
  of_word rfl rfl fun hw => decodeFields_of 0x046 (decBc .bcGeu) rfl (bc_form ..) hw

theorem call (k o) : Statement (.call k o) :=
  of_word rfl rfl fun hw => decodeFields_of 0x047 (decBr .call) rfl (br_form ..) hw

theorem ret (k) : Statement (.ret k) :=
  of_word rfl rfl fun hw => decodeFields_of 0x048 (decK .ret) rfl (k_form ..) hw

theorem jtbl (k a n) : Statement (.jtbl k a n) :=
  of_word rfl rfl fun hw => fields_of 0x049 rfl (by simp [enc, check, gOf_gCode, loJtbl_0_2, loJtbl_2_38]) hw

theorem lpad (k l) : Statement (.lpad k l) :=
  of_word rfl rfl fun hw => fields_of 0x04A rfl (by simp [enc, check, lo16_0_16, lo16_16_24]) hw

theorem loopReg (k a e) : Statement (.loopReg k a e) :=
  of_word rfl rfl fun hw => fields_of 0x04B rfl (by simp [enc, check, gOf_gCode, loLoopReg_0_20, loLoopReg_20_20]) hw

theorem loopImm (k c e) : Statement (.loopImm k c e) :=
  of_word rfl rfl fun hw => fields_of 0x04C rfl (by simp [enc, check, loLoopImm_0_20, loLoopImm_20_20]) hw

theorem nop (k) : Statement (.nop k) :=
  of_word rfl rfl fun hw => decodeFields_of 0x04D (decK .nop) rfl (k_form ..) hw

theorem fork (k q t) : Statement (.fork k q t) :=
  of_word rfl rfl fun hw => fields_of 0x04E rfl (by simp [enc, check, loFork_0_32, loFork_32_2, loFork_34_6, seqOf_seqCode]) hw

theorem rdv (k m) : Statement (.rdv k m) :=
  of_word rfl rfl fun hw => fields_of 0x04F rfl (by simp [enc, check, loRdv_0_4, loRdv_4_36]) hw

theorem exit (k) : Statement (.exit k) :=
  of_word rfl rfl fun hw => decodeFields_of 0x050 (decK .exit) rfl (k_form ..) hw

theorem tksig (k q n) : Statement (.tksig k q n) :=
  of_word rfl rfl fun hw => decodeFields_of 0x051 (decTk .tksig) rfl (tk_form ..) hw

theorem tkwait (k q n) : Statement (.tkwait k q n) :=
  of_word rfl rfl fun hw => decodeFields_of 0x052 (decTk .tkwait) rfl (tk_form ..) hw

theorem yield (k) : Statement (.yield k) :=
  of_word rfl rfl fun hw => decodeFields_of 0x053 (decK .yield) rfl (k_form ..) hw

theorem grpend (k) : Statement (.grpend k) :=
  of_word rfl rfl fun hw => decodeFields_of 0x054 (decK .grpend) rfl (k_form ..) hw

theorem trap (k c) : Statement (.trap k c) :=
  of_word rfl rfl fun hw => fields_of 0x055 rfl (by simp [enc, check, lo16_0_16, lo16_16_24]) hw

theorem ldg (k t sz d a o) : Statement (.ldg k t sz d a o) :=
  of_word rfl rfl fun hw => decodeFields_of (op 0x080 sz.idx) (decLd .ldg sz) (by cases sz <;> rfl) (ld_form ..) hw

theorem stg (k sz v a o) : Statement (.stg k sz v a o) :=
  of_word rfl rfl fun hw => decodeFields_of (op 0x087 sz.idx) (decSt .stg sz) (by cases sz <;> rfl) (st_form ..) hw

theorem ldl (k t sz d a o) : Statement (.ldl k t sz d a o) :=
  of_word rfl rfl fun hw => decodeFields_of (op 0x08B sz.idx) (decLd .ldl sz) (by cases sz <;> rfl) (ld_form ..) hw

theorem stl (k sz v a o) : Statement (.stl k sz v a o) :=
  of_word rfl rfl fun hw => decodeFields_of (op 0x092 sz.idx) (decSt .stl sz) (by cases sz <;> rfl) (st_form ..) hw

theorem agset (k g w a) : Statement (.agset k g w a) :=
  of_word rfl rfl fun hw => fields_of 0x096 rfl (by simp [enc, check, gOf_gCode, loAg_0_4, loAg_4_2, loAg_6_34]) hw

theorem agget (k d g w) : Statement (.agget k d g w) :=
  of_word rfl rfl fun hw => fields_of 0x097 rfl (by simp [enc, check, gOf_gCode, loAg_0_4, loAg_4_2, loAg_6_34]) hw

theorem sload (k g) : Statement (.sload k g) :=
  of_word rfl rfl fun hw => decodeFields_of 0x098 (decAg .sload) rfl (ag_form ..) hw

theorem sstore (k g) : Statement (.sstore k g) :=
  of_word rfl rfl fun hw => decodeFields_of 0x099 (decAg .sstore) rfl (ag_form ..) hw

theorem sadv (k g n) : Statement (.sadv k g n) :=
  of_word rfl rfl fun hw => fields_of 0x09A rfl (by simp [enc, check, loSadv_0_4, loSadv_4_36, operandOf_code]) hw

theorem prefH (k a b) : Statement (.prefH k a b) :=
  of_word rfl rfl fun hw => decodeFields_of 0x09B (decAB .prefH) rfl (ab_form ..) hw

theorem prefL (k a b) : Statement (.prefL k a b) :=
  of_word rfl rfl fun hw => decodeFields_of 0x09C (decAB .prefL) rfl (ab_form ..) hw

theorem vaddF (w b s) : Statement (.vaddF w b s) :=
  of_word rfl rfl fun hw => decodeFields_of 0x0C0 (decV2 .vaddF) rfl (v2_form _ _ hw _) hw

theorem vaddI (w b s) : Statement (.vaddI w b s) :=
  of_word rfl rfl fun hw => decodeFields_of 0x0C1 (decV2 .vaddI) rfl (v2_form _ _ hw _) hw

theorem vsubF (w b s) : Statement (.vsubF w b s) :=
  of_word rfl rfl fun hw => decodeFields_of 0x0C2 (decV2 .vsubF) rfl (v2_form _ _ hw _) hw

theorem vsubI (w b s) : Statement (.vsubI w b s) :=
  of_word rfl rfl fun hw => decodeFields_of 0x0C3 (decV2 .vsubI) rfl (v2_form _ _ hw _) hw

theorem vmulF (w b s) : Statement (.vmulF w b s) :=
  of_word rfl rfl fun hw => decodeFields_of 0x0C4 (decV2 .vmulF) rfl (v2_form _ _ hw _) hw

theorem vmulI (w b s) : Statement (.vmulI w b s) :=
  of_word rfl rfl fun hw => decodeFields_of 0x0C5 (decV2 .vmulI) rfl (v2_form _ _ hw _) hw

theorem vminF (w b s) : Statement (.vminF w b s) :=
  of_word rfl rfl fun hw => decodeFields_of 0x0C6 (decV2 .vminF) rfl (v2_form _ _ hw _) hw

theorem vminI (w b s) : Statement (.vminI w b s) :=
  of_word rfl rfl fun hw => decodeFields_of 0x0C7 (decV2 .vminI) rfl (v2_form _ _ hw _) hw

theorem vmaxF (w b s) : Statement (.vmaxF w b s) :=
  of_word rfl rfl fun hw => decodeFields_of 0x0C8 (decV2 .vmaxF) rfl (v2_form _ _ hw _) hw

theorem vmaxI (w b s) : Statement (.vmaxI w b s) :=
  of_word rfl rfl fun hw => decodeFields_of 0x0C9 (decV2 .vmaxI) rfl (v2_form _ _ hw _) hw

theorem vabsF (w) : Statement (.vabsF w) :=
  of_word rfl rfl fun hw => decodeFields_of 0x0CA (decV1 .vabsF) rfl (v1_form _ _ hw) hw

theorem vabsI (w) : Statement (.vabsI w) :=
  of_word rfl rfl fun hw => decodeFields_of 0x0CB (decV1 .vabsI) rfl (v1_form _ _ hw) hw

theorem vnegF (w) : Statement (.vnegF w) :=
  of_word rfl rfl fun hw => decodeFields_of 0x0CC (decV1 .vnegF) rfl (v1_form _ _ hw) hw

theorem vnegI (w) : Statement (.vnegI w) :=
  of_word rfl rfl fun hw => decodeFields_of 0x0CD (decV1 .vnegI) rfl (v1_form _ _ hw) hw

theorem vclampF (w b s c) : Statement (.vclampF w b s c) :=
  of_word rfl rfl fun hw => decodeFields_of 0x0CE (decV3 .vclampF) rfl (v3_form _ _ hw _) hw

theorem vclampI (w b s c) : Statement (.vclampI w b s c) :=
  of_word rfl rfl fun hw => decodeFields_of 0x0CF (decV3 .vclampI) rfl (v3_form _ _ hw _) hw

theorem vcmpF (w cc b s) : Statement (.vcmpF w cc b s) :=
  of_word rfl rfl fun hw => decodeFields_of (op 0x0D0 cc.idx) (decV2 (.vcmpF · cc)) (by cases cc <;> rfl) (v2_form (.vcmpF · cc) _ hw _) hw

theorem vcmpI (w cc b s) : Statement (.vcmpI w cc b s) :=
  of_word rfl rfl fun hw => decodeFields_of (op 0x0D6 cc.idx) (decV2 (.vcmpI · cc)) (by cases cc <;> rfl) (v2_form (.vcmpI · cc) _ hw _) hw

theorem vfma (w lf b s c) : Statement (.vfma w lf b s c) :=
  of_word rfl rfl fun hw => decodeFields_of 0x0DC (decVFma .vfma) rfl (vfma_form _ _ hw ..) hw

theorem vfms (w lf b s c) : Statement (.vfms w lf b s c) :=
  of_word rfl rfl fun hw => decodeFields_of 0x0DD (decVFma .vfms) rfl (vfma_form _ _ hw ..) hw

theorem vfnma (w lf b s c) : Statement (.vfnma w lf b s c) :=
  of_word rfl rfl fun hw => decodeFields_of 0x0DE (decVFma .vfnma) rfl (vfma_form _ _ hw ..) hw

theorem vminnum (w b s) : Statement (.vminnum w b s) :=
  of_word rfl rfl fun hw => decodeFields_of 0x0DF (decV2 .vminnum) rfl (v2_form _ _ hw _) hw

theorem vmaxnum (w b s) : Statement (.vmaxnum w b s) :=
  of_word rfl rfl fun hw => decodeFields_of 0x0E0 (decV2 .vmaxnum) rfl (v2_form _ _ hw _) hw

theorem vsel (w b s c) : Statement (.vsel w b s c) :=
  of_word rfl rfl fun hw => decodeFields_of 0x0E1 (decV3 .vsel) rfl (v3_form _ _ hw _) hw

theorem vand (w b s) : Statement (.vand w b s) :=
  of_word rfl rfl fun hw => decodeFields_of 0x0E2 (decV2 .vand) rfl (v2_form _ _ hw _) hw

theorem vor (w b s) : Statement (.vor w b s) :=
  of_word rfl rfl fun hw => decodeFields_of 0x0E3 (decV2 .vor) rfl (v2_form _ _ hw _) hw

theorem vxor (w b s) : Statement (.vxor w b s) :=
  of_word rfl rfl fun hw => decodeFields_of 0x0E4 (decV2 .vxor) rfl (v2_form _ _ hw _) hw

theorem vshl (w b s) : Statement (.vshl w b s) :=
  of_word rfl rfl fun hw => decodeFields_of 0x0E5 (decV2 .vshl) rfl (v2_form _ _ hw _) hw

theorem vshr (w b s) : Statement (.vshr w b s) :=
  of_word rfl rfl fun hw => decodeFields_of 0x0E6 (decV2 .vshr) rfl (v2_form _ _ hw _) hw

theorem vsar (w b s) : Statement (.vsar w b s) :=
  of_word rfl rfl fun hw => decodeFields_of 0x0E7 (decV2 .vsar) rfl (v2_form _ _ hw _) hw

theorem vmov (w) : Statement (.vmov w) :=
  of_word rfl rfl fun hw => decodeFields_of 0x0E8 (decV1 .vmov) rfl (v1_form _ _ hw) hw

theorem vbcast (w row col) : Statement (.vbcast w row col) :=
  of_word rfl rfl fun hw => decodeFields_of 0x0E9 decVBcast rfl (vbcast_form _ hw ..) hw

theorem vfill (k d ring g) : Statement (.vfill k d ring g) :=
  of_word rfl rfl fun hw => decodeFields_of 0x0EA decVFill rfl (vfill_form ..) hw

theorem vscale (w b s) : Statement (.vscale w b s) :=
  of_word rfl rfl fun hw => decodeFields_of 0x0EB (decV2 .vscale) rfl (v2_form _ _ hw _) hw

theorem vrnd (w) : Statement (.vrnd w) :=
  of_word rfl rfl fun hw => decodeFields_of 0x0F6 (decV1 .vrnd) rfl (v1_form _ _ hw) hw

theorem vaddFs (w g) : Statement (.vaddFs w g) :=
  of_word rfl rfl fun hw => decodeFields_of 0x0EC (decVs .vaddFs) rfl (vs_form _ _ hw _) hw

theorem vsubFs (w g) : Statement (.vsubFs w g) :=
  of_word rfl rfl fun hw => decodeFields_of 0x0ED (decVs .vsubFs) rfl (vs_form _ _ hw _) hw

theorem vmulFs (w g) : Statement (.vmulFs w g) :=
  of_word rfl rfl fun hw => decodeFields_of 0x0EE (decVs .vmulFs) rfl (vs_form _ _ hw _) hw

theorem vminFs (w g) : Statement (.vminFs w g) :=
  of_word rfl rfl fun hw => decodeFields_of 0x0EF (decVs .vminFs) rfl (vs_form _ _ hw _) hw

theorem vmaxFs (w g) : Statement (.vmaxFs w g) :=
  of_word rfl rfl fun hw => decodeFields_of 0x0F0 (decVs .vmaxFs) rfl (vs_form _ _ hw _) hw

theorem vfmaFs (w lf g c) : Statement (.vfmaFs w lf g c) :=
  of_word rfl rfl fun hw => decodeFields_of 0x0F1 decVFmaFs rfl (vfmaFs_form _ hw ..) hw

theorem vaddIs (w g) : Statement (.vaddIs w g) :=
  of_word rfl rfl fun hw => decodeFields_of 0x0F2 (decVs .vaddIs) rfl (vs_form _ _ hw _) hw

theorem vmulIs (w g) : Statement (.vmulIs w g) :=
  of_word rfl rfl fun hw => decodeFields_of 0x0F3 (decVs .vmulIs) rfl (vs_form _ _ hw _) hw

theorem vmaxIs (w g) : Statement (.vmaxIs w g) :=
  of_word rfl rfl fun hw => decodeFields_of 0x0F4 (decVs .vmaxIs) rfl (vs_form _ _ hw _) hw

theorem vminIs (w g) : Statement (.vminIs w g) :=
  of_word rfl rfl fun hw => decodeFields_of 0x0F5 (decVs .vminIs) rfl (vs_form _ _ hw _) hw

theorem vcvt (w f) : Statement (.vcvt w f) :=
  of_word rfl rfl fun hw => decodeFields_of (op 0x100 f.idx) (decV1 (.vcvt · f)) (vcvt_op hw) (v1_form (.vcvt · f) _ (left_of hw)) hw

theorem vqnt (w f keep) : Statement (.vqnt w f keep) :=
  of_word rfl rfl fun hw => decodeFields_of (op 0x108 f.qidx) (decVQnt f) (vqnt_op hw) (vqnt_form _ _ (vqnt_ok hw) _) hw

theorem vdqnt (w f) : Statement (.vdqnt w f) :=
  of_word rfl rfl fun hw => decodeFields_of (op 0x10C f.qidx) (decV1 (.vdqnt · f)) (vdqnt_op hw) (v1_form (.vdqnt · f) _ (left_of hw)) hw

theorem vexp2 (w) : Statement (.vexp2 w) :=
  of_word rfl rfl fun hw => decodeFields_of 0x110 (decV1 .vexp2) rfl (v1_form _ _ hw) hw

theorem vlog2 (w) : Statement (.vlog2 w) :=
  of_word rfl rfl fun hw => decodeFields_of 0x111 (decV1 .vlog2) rfl (v1_form _ _ hw) hw

theorem vrcp (w) : Statement (.vrcp w) :=
  of_word rfl rfl fun hw => decodeFields_of 0x112 (decV1 .vrcp) rfl (v1_form _ _ hw) hw

theorem vrsq (w) : Statement (.vrsq w) :=
  of_word rfl rfl fun hw => decodeFields_of 0x113 (decV1 .vrsq) rfl (v1_form _ _ hw) hw

theorem vtanh (w) : Statement (.vtanh w) :=
  of_word rfl rfl fun hw => decodeFields_of 0x114 (decV1 .vtanh) rfl (v1_form _ _ hw) hw

theorem vrmax (w i) : Statement (.vrmax w i) :=
  of_word rfl rfl fun hw => decodeFields_of (if i then 0x116 else 0x115) (decV1 (.vrmax · i)) (by cases i <;> rfl) (v1_form (.vrmax · i) _ hw) hw

theorem vrmin (w i) : Statement (.vrmin w i) :=
  of_word rfl rfl fun hw => decodeFields_of (if i then 0x118 else 0x117) (decV1 (.vrmin · i)) (by cases i <;> rfl) (v1_form (.vrmin · i) _ hw) hw

theorem vrsum (w i) : Statement (.vrsum w i) :=
  of_word rfl rfl fun hw => decodeFields_of (if i then 0x11A else 0x119) (decV1 (.vrsum · i)) (by cases i <;> rfl) (v1_form (.vrsum · i) _ hw) hw

theorem vcsum (w i) : Statement (.vcsum w i) :=
  of_word rfl rfl fun hw => decodeFields_of (if i then 0x11C else 0x11B) (decV1 (.vcsum · i)) (by cases i <;> rfl) (v1_form (.vcsum · i) _ hw) hw

theorem vcmax (w i) : Statement (.vcmax w i) :=
  of_word rfl rfl fun hw => decodeFields_of (if i then 0x11E else 0x11D) (decV1 (.vcmax · i)) (by cases i <;> rfl) (v1_form (.vcmax · i) _ hw) hw

theorem vtrn (w) : Statement (.vtrn w) :=
  of_word rfl rfl fun hw => decodeFields_of 0x11F (decV1 .vtrn) rfl (v1_form _ _ hw) hw

theorem vlut (w h cb) : Statement (.vlut w h cb) :=
  of_word rfl rfl fun hw => decodeFields_of (if h then 0x121 else 0x120) (decVLut h) (by cases h <;> rfl) (vlut_form _ _ hw _) hw

theorem cbld (k a sa cb) : Statement (.cbld k a sa cb) :=
  of_word rfl rfl fun hw => decodeFields_of 0x122 decCbld rfl (cbld_form ..) hw

theorem tshape (k d a) : Statement (.tshape k d a) :=
  of_word rfl rfl fun hw => decodeFields_of 0x123 decTshape rfl (tshape_form ..) hw

theorem tshget (k d t sa) : Statement (.tshget k d t sa) :=
  of_word rfl rfl fun hw => decodeFields_of 0x124 decTshget rfl (tshget_form ..) hw

theorem tagResultLands (x0 x1 x2 x3) : Statement (.tagResultLands x0 x1 x2 x3) := of_step rfl rfl

theorem mxmul (p) : Statement (.mxmul p) :=
  of_word rfl rfl fun hw => decodeFields_of (op 0x140 (pairIdx p.pair mxPairs)) (decMx .mxmul p.pair) (mxmul_op hw) (mx_form ..) hw

theorem mxmuls (p) : Statement (.mxmuls p) :=
  of_word rfl rfl fun hw => decodeFields_of (op 0x158 (pairIdx p.pair mxsPairs)) (decMx .mxmuls p.pair) (mxmuls_op hw) (mx_form ..) hw

theorem mxzero (w s acc i) : Statement (.mxzero w s acc i) :=
  of_word rfl rfl fun hw => decodeFields_of 0x164 decMxzero rfl (mxzero_form ..) hw

theorem mxwr (w s acc t) : Statement (.mxwr w s acc t) :=
  of_word rfl rfl fun hw => decodeFields_of 0x16C decMxwr rfl (mxwr_form ..) hw

theorem mxrd (p f r sat) : Statement (.mxrd p f r sat) :=
  of_word rfl rfl fun hw => decodeFields_of (op 0x168 f.ridx) (decMxrd f) (mxrd_op hw) (mxrd_form ..) hw

theorem mxepi (p v) : Statement (.mxepi p v) :=
  of_word rfl rfl fun hw => decodeFields_of (op 0x165 v.idx) (decMxepi v) (by cases v <;> rfl) (mxepi_form ..) hw

theorem mxmulExec (x0 x1) : Statement (.mxmulExec x0 x1) := of_step rfl rfl

theorem mxmulsExec (x0 x1) : Statement (.mxmulsExec x0 x1) := of_step rfl rfl

theorem mxzeroExec (x0 x1) : Statement (.mxzeroExec x0 x1) := of_step rfl rfl

theorem mxwrExec (x0 x1) : Statement (.mxwrExec x0 x1) := of_step rfl rfl

theorem mxrdExec (x0 x1) : Statement (.mxrdExec x0 x1) := of_step rfl rfl

theorem mxepiExec (x0 x1) : Statement (.mxepiExec x0 x1) := of_step rfl rfl

theorem cpg2l (p n) : Statement (.cpg2l p n) :=
  of_word rfl rfl fun hw => decodeFields_of (op 0x16D n.idx) (decCp (.cpg2l · n)) (by cases n <;> rfl) (cp_form (.cpg2l · n) ..) hw

theorem cpl2g (p n) : Statement (.cpl2g p n) :=
  of_word rfl rfl fun hw => decodeFields_of (op 0x170 n.idx) (decCp (.cpl2g · n)) (by cases n <;> rfl) (cp_form (.cpl2g · n) ..) hw

theorem cpl2l (p n r) : Statement (.cpl2l p n r) :=
  of_word rfl rfl fun hw => decodeFields_of (op 0x173 n.idx) (decCpl2l n) (by cases n <;> rfl) (cpl2l_form ..) hw

theorem cpbc (p m) : Statement (.cpbc p m) :=
  of_word rfl rfl fun hw => decodeFields_of 0x177 decCpbc rfl (cpbc_form ..) hw

theorem cpfillL (p) : Statement (.cpfillL p) :=
  of_word rfl rfl fun hw => decodeFields_of 0x178 (decCp .cpfillL) rfl (cp_form ..) hw

theorem cpfillG (p) : Statement (.cpfillG p) :=
  of_word rfl rfl fun hw => decodeFields_of 0x179 (decCp .cpfillG) rfl (cp_form ..) hw

theorem cpmeta (p m c) : Statement (.cpmeta p m c) :=
  of_word rfl rfl fun hw => decodeFields_of 0x176 decCpmeta rfl (cpmeta_form ..) hw

theorem copyStart (x0 x1) : Statement (.copyStart x0 x1) := of_step rfl rfl

theorem copyPiece (x0 x1 x2) : Statement (.copyPiece x0 x1 x2) := of_step rfl rfl

theorem cpmetaEntry (x0 x1 x2) : Statement (.cpmetaEntry x0 x1 x2) := of_step rfl rfl

theorem semsigImm (k s n) : Statement (.semsigImm k s n) :=
  of_word rfl rfl fun hw => decodeFields_of 0x180 (decSemI .semsigImm) rfl (semI_form ..) hw

theorem semsigReg (k s a) : Statement (.semsigReg k s a) :=
  of_word rfl rfl fun hw => decodeFields_of 0x181 (decSemR .semsigReg) rfl (semR_form ..) hw

theorem semwaitImm (k s n) : Statement (.semwaitImm k s n) :=
  of_word rfl rfl fun hw => decodeFields_of 0x182 (decSemI .semwaitImm) rfl (semI_form ..) hw

theorem semwaitReg (k s a) : Statement (.semwaitReg k s a) :=
  of_word rfl rfl fun hw => decodeFields_of 0x183 (decSemR .semwaitReg) rfl (semR_form ..) hw

theorem semget (k d s) : Statement (.semget k d s) :=
  of_word rfl rfl fun hw => decodeFields_of 0x184 decSemget rfl (semget_form ..) hw

theorem barexp (k b n) : Statement (.barexp k b n) :=
  of_word rfl rfl fun hw => decodeFields_of 0x185 decBarexp rfl (barexp_form ..) hw

theorem barwait (k b p) : Statement (.barwait k b p) :=
  of_word rfl rfl fun hw => decodeFields_of 0x186 decBarwait rfl (barwait_form ..) hw

theorem bartest (k d b p) : Statement (.bartest k d b p) :=
  of_word rfl rfl fun hw => decodeFields_of 0x187 decBartest rfl (bartest_form ..) hw

theorem gbar (k) : Statement (.gbar k) :=
  of_word rfl rfl fun hw => decodeFields_of 0x188 (decK .gbar) rfl (k_form ..) hw

theorem atom (k t o dbl acq rel d a b) : Statement (.atom k t o dbl acq rel d a b) :=
  of_word rfl rfl fun hw => decodeFields_of (op 0x189 (2 * o.idx + dbl.toNat)) (decAtom o dbl) (by cases o <;> cases dbl <;> rfl) (atom_form ..) hw

theorem atcas (k t dbl acq rel d a b c) : Statement (.atcas k t dbl acq rel d a b c) :=
  of_word rfl rfl fun hw => decodeFields_of (op 0x197 dbl.toNat) (decAtcas dbl) (by cases dbl <;> rfl) (atcas_form ..) hw

theorem atomicAtSlice (x0) : Statement (.atomicAtSlice x0) := of_step rfl rfl

theorem storeApply (x0 x1 x2) : Statement (.storeApply x0 x1 x2) := of_step rfl rfl

theorem acct (k f acc a s r c) : Statement (.acct k f acc a s r c) :=
  of_word rfl rfl fun hw => decodeFields_of (op 0x199 f.idx) (decAcct .acct f) (by cases f <;> rfl) (acct_form ..) hw

theorem acctD (k f acc a s r c) : Statement (.acctD k f acc a s r c) :=
  of_word rfl rfl fun hw => decodeFields_of (op 0x19C f.idx) (decAcct .acctD f) (by cases f <;> rfl) (acct_form ..) hw

theorem acctPieceArrival (x0 x1 x2) : Statement (.acctPieceArrival x0 x1 x2) := of_step rfl rfl

theorem acctPieceApply (x0) : Statement (.acctPieceApply x0) := of_step rfl rfl

theorem returnToSender (x0 x1 x2) : Statement (.returnToSender x0 x1 x2) := of_step rfl rfl

theorem residualAgeDelivery (x0 x1 x2) : Statement (.residualAgeDelivery x0 x1 x2) := of_step rfl rfl

theorem flushresAll (k) : Statement (.flushresAll k) :=
  of_word rfl rfl fun hw => decodeFields_of 0x19F decFlushres rfl (flushAll_form _) hw

theorem flushresOne (k a) : Statement (.flushresOne k a) :=
  of_word rfl rfl fun hw => decodeFields_of 0x19F decFlushres rfl (flushOne_form ..) hw

theorem waita (k cc acq d a m v t) : Statement (.waita k cc acq d a m v t) :=
  of_word rfl rfl fun hw => decodeFields_of (op 0x1A0 cc.idx) (decWaita cc) (by cases cc <;> rfl) (waita_form ..) hw

theorem waitaTimeout (x0) : Statement (.waitaTimeout x0) := of_step rfl rfl

theorem fenceAcq (k s) : Statement (.fenceAcq k s) :=
  of_word rfl rfl fun hw => decodeFields_of (op 0x1A6 s.idx) (decK (.fenceAcq · s)) (by cases s <;> rfl) (k_form (.fenceAcq · s) ..) hw

theorem fenceRel (k s) : Statement (.fenceRel k s) :=
  of_word rfl rfl fun hw => decodeFields_of (op 0x1AA s.idx) (decK (.fenceRel · s)) (by cases s <;> rfl) (k_form (.fenceRel · s) ..) hw

theorem fenceAr (k s) : Statement (.fenceAr k s) :=
  of_word rfl rfl fun hw => decodeFields_of (op 0x1AE s.idx) (decK (.fenceAr · s)) (by cases s <;> rfl) (k_form (.fenceAr · s) ..) hw

theorem futres (k a v) : Statement (.futres k a v) :=
  of_word rfl rfl fun hw => decodeFields_of 0x1B2 (decAB .futres) rfl (ab_form ..) hw

theorem futwait (k d a) : Statement (.futwait k d a) :=
  of_word rfl rfl fun hw => decodeFields_of 0x1B3 (decR2 .futwait) rfl (r2_form ..) hw

theorem tsubmit (k d a) : Statement (.tsubmit k d a) :=
  of_word rfl rfl fun hw => decodeFields_of 0x1C0 (decR2 .tsubmit) rfl (r2_form ..) hw

theorem tsubmitF (k d a f) : Statement (.tsubmitF k d a f) :=
  of_word rfl rfl fun hw => decodeFields_of 0x1C1 (decR3 .tsubmitF) rfl (r3_form ..) hw

theorem dlset (k d t w) : Statement (.dlset k d t w) :=
  of_word rfl rfl fun hw => decodeFields_of 0x1C2 decDlset rfl (dlset_form ..) hw

theorem dlchk (k d) : Statement (.dlchk k d) :=
  of_word rfl rfl fun hw => decodeFields_of 0x1C3 (decD .dlchk) rfl (d_form ..) hw

theorem stepend (k) : Statement (.stepend k) :=
  of_word rfl rfl fun hw => decodeFields_of 0x1C4 (decK .stepend) rfl (k_form ..) hw

theorem frput (k d) : Statement (.frput k d) :=
  of_word rfl rfl fun hw => decodeFields_of 0x1C5 (decD .frput) rfl (d_form ..) hw

theorem frpub (k a) : Statement (.frpub k a) :=
  of_word rfl rfl fun hw => decodeFields_of 0x1C6 (decA .frpub) rfl (a_form ..) hw

theorem frget (k d) : Statement (.frget k d) :=
  of_word rfl rfl fun hw => decodeFields_of 0x1C7 (decD .frget) rfl (d_form ..) hw

theorem frrel (k a) : Statement (.frrel k a) :=
  of_word rfl rfl fun hw => decodeFields_of 0x1C8 (decA .frrel) rfl (a_form ..) hw

theorem kvapp (k d) : Statement (.kvapp k d) :=
  of_word rfl rfl fun hw => decodeFields_of 0x1C9 (decD .kvapp) rfl (d_form ..) hw

theorem kvpin (k a) : Statement (.kvpin k a) :=
  of_word rfl rfl fun hw => decodeFields_of 0x1CA (decA .kvpin) rfl (a_form ..) hw

theorem kvunpin (k a) : Statement (.kvunpin k a) :=
  of_word rfl rfl fun hw => decodeFields_of 0x1CB (decA .kvunpin) rfl (a_form ..) hw

theorem eqpush (k q src sa plane bx yb fs) : Statement (.eqpush k q src sa plane bx yb fs) :=
  of_word rfl rfl fun hw => decodeFields_of 0x1CC decEqpush rfl (eqpush_form _ _ _ (and_right hw) ..) hw

theorem pwracqImm (k l) : Statement (.pwracqImm k l) :=
  of_word rfl rfl fun hw => fields_of 0x1CD rfl (by simp [enc, check, loPwr_0_3, loPwr_3_37]) hw

theorem pwracqReg (k a) : Statement (.pwracqReg k a) :=
  of_word rfl rfl fun hw => decodeFields_of 0x1CE (decA .pwracqReg) rfl (a_form ..) hw

theorem pwrrel (k) : Statement (.pwrrel k) :=
  of_word rfl rfl fun hw => decodeFields_of 0x1CF (decK .pwrrel) rfl (k_form ..) hw

theorem lksend (k s w t) : Statement (.lksend k s w t) :=
  of_word rfl rfl fun hw => decodeFields_of 0x1D0 (decLk .lksend) rfl (lk_form ..) hw

theorem lkred (k f s w t) : Statement (.lkred k f s w t) :=
  of_word rfl rfl fun hw => decodeFields_of (op 0x1D1 f.idx) (decLk (.lkred · f)) (by cases f <;> rfl) (lk_form (.lkred · f) ..) hw

theorem csrr (k d c) : Statement (.csrr k d c) :=
  of_word rfl rfl fun hw => decodeFields_of 0x1D4 decCsrr rfl (csrr_form ..) hw

theorem csrw (k c a) : Statement (.csrw k c a) :=
  of_word rfl rfl fun hw => decodeFields_of 0x1D5 (decCsrw .csrw) rfl (csrw_form ..) hw

theorem csrs (k c a) : Statement (.csrs k c a) :=
  of_word rfl rfl fun hw => decodeFields_of 0x1D6 (decCsrw .csrs) rfl (csrw_form ..) hw

theorem csrc (k c a) : Statement (.csrc k c a) :=
  of_word rfl rfl fun hw => decodeFields_of 0x1D7 (decCsrw .csrc) rfl (csrw_form ..) hw

theorem time (k d) : Statement (.time k d) :=
  of_word rfl rfl fun hw => decodeFields_of 0x1D8 (decD .time) rfl (d_form ..) hw

theorem rfetch (d a b) : Statement (.rfetch d a b) :=
  of_xumak rfl rfl (xumak_form 0 d a b)

theorem bfxt (d a b) : Statement (.bfxt d a b) :=
  of_xumak rfl rfl (xumak_form 1 d a b)

theorem sigw (d a b) : Statement (.sigw d a b) :=
  of_xumak rfl rfl (xumak_form 2 d a b)

theorem dspt (d a b) : Statement (.dspt d a b) :=
  of_xumak rfl rfl (xumak_form 3 d a b)

theorem queuePushAdmit (x0 x1 x2) : Statement (.queuePushAdmit x0 x1 x2) := of_step rfl rfl

theorem gangPlacement (x0) : Statement (.gangPlacement x0) := of_step rfl rfl

theorem spinWindowExpiry (x0) : Statement (.spinWindowExpiry x0) := of_step rfl rfl

theorem parkConditionMet (x0) : Statement (.parkConditionMet x0) := of_step rfl rfl

theorem preemption (x0) : Statement (.preemption x0) := of_step rfl rfl

theorem headWaitExpiry (x0 x1) : Statement (.headWaitExpiry x0 x1) := of_step rfl rfl

theorem preload (x0) : Statement (.preload x0) := of_step rfl rfl

theorem budgetOver (x0) : Statement (.budgetOver x0) := of_step rfl rfl

theorem faultStop (x0) : Statement (.faultStop x0) := of_step rfl rfl

theorem faultRecordWrite (x0) : Statement (.faultRecordWrite x0) := of_step rfl rfl

theorem handlerResume (x0) : Statement (.handlerResume x0) := of_step rfl rfl

theorem handlerRerun (x0) : Statement (.handlerRerun x0) := of_step rfl rfl

theorem handlerKill (x0) : Statement (.handlerKill x0) := of_step rfl rfl

theorem governorTick : Statement .governorTick := of_step rfl rfl

theorem energyOut (x0) : Statement (.energyOut x0) := of_step rfl rfl

theorem opChangeComplete (x0) : Statement (.opChangeComplete x0) := of_step rfl rfl

theorem thermal95Crossing (x0 x1) : Statement (.thermal95Crossing x0 x1) := of_step rfl rfl

theorem thermalRearm (x0 x1) : Statement (.thermalRearm x0 x1) := of_step rfl rfl

theorem thermal105Crossing (x0 x1) : Statement (.thermal105Crossing x0 x1) := of_step rfl rfl

theorem thermalHoldRelease (x0 x1) : Statement (.thermalHoldRelease x0 x1) := of_step rfl rfl

theorem currentClamp (x0 x1) : Statement (.currentClamp x0 x1) := of_step rfl rfl

theorem modulePowerClamp (x0) : Statement (.modulePowerClamp x0) := of_step rfl rfl

theorem sensor115Stop (x0 x1) : Statement (.sensor115Stop x0 x1) := of_step rfl rfl

theorem gddrDerateChange (x0) : Statement (.gddrDerateChange x0) := of_step rfl rfl

theorem eccCorrectable (x0) : Statement (.eccCorrectable x0) := of_step rfl rfl

theorem eccUncorrectable (x0) : Statement (.eccUncorrectable x0) := of_step rfl rfl

theorem fabricError (x0 x1 x2) : Statement (.fabricError x0 x1 x2) := of_step rfl rfl

theorem watchdogExpiry (x0 x1 x2) : Statement (.watchdogExpiry x0 x1 x2) := of_step rfl rfl

theorem scrubPass : Statement .scrubPass := of_step rfl rfl

theorem pageResponseSuccess (x0) : Statement (.pageResponseSuccess x0) := of_step rfl rfl

theorem pageResponseInvalid (x0 x1) : Statement (.pageResponseInvalid x0 x1) := of_step rfl rfl

theorem pageResponseFailure (x0) : Statement (.pageResponseFailure x0) := of_step rfl rfl

theorem latePageResponse : Statement .latePageResponse := of_step rfl rfl

theorem atsInvalidation (x0 x1) : Statement (.atsInvalidation x0 x1) := of_step rfl rfl

theorem linkTickDeparture : Statement .linkTickDeparture := of_step rfl rfl

theorem linkDelivery (x0) : Statement (.linkDelivery x0) := of_step rfl rfl

theorem remoteSubmitPacket (x0 x1 x2 x3) : Statement (.remoteSubmitPacket x0 x1 x2 x3) := of_step rfl rfl

theorem remoteAnswerPacket (x0 x1) : Statement (.remoteAnswerPacket x0 x1) := of_step rfl rfl

theorem letterboxTake (x0) : Statement (.letterboxTake x0) := of_step rfl rfl

theorem frameCoded (x0) : Statement (.frameCoded x0) := of_step rfl rfl

theorem sqdbWrite (x0 x1 x2) : Statement (.sqdbWrite x0 x1 x2) := of_step rfl rfl

theorem sqdbReset (x0 x1) : Statement (.sqdbReset x0 x1) := of_step rfl rfl

theorem cqdbWrite (x0 x1 x2) : Statement (.cqdbWrite x0 x1 x2) := of_step rfl rfl

theorem queueEnable (x0 x1 x2) : Statement (.queueEnable x0 x1 x2) := of_step rfl rfl

theorem queueDisable (x0 x1) : Statement (.queueDisable x0 x1) := of_step rfl rfl

theorem commandFetch : Statement .commandFetch := of_step rfl rfl

theorem multiSubmitRetry : Statement .multiSubmitRetry := of_step rfl rfl

theorem multiSubmitTimeout : Statement .multiSubmitTimeout := of_step rfl rfl

theorem completionWrite (x0 x1) : Statement (.completionWrite x0 x1) := of_step rfl rfl

theorem inv1Go (x0) : Statement (.inv1Go x0) := of_step rfl rfl

theorem inv2Go : Statement .inv2Go := of_step rfl rfl

theorem invalidationComplete (x0 x1) : Statement (.invalidationComplete x0 x1) := of_step rfl rfl

theorem frelGo : Statement .frelGo := of_step rfl rfl

theorem frameReleaseComplete : Statement .frameReleaseComplete := of_step rfl rfl

theorem keyloadGo : Statement .keyloadGo := of_step rfl rfl

theorem keyloadComplete : Statement .keyloadComplete := of_step rfl rfl

theorem eordxWrite (x0 x1 x2 x3) : Statement (.eordxWrite x0 x1 x2 x3) := of_step rfl rfl

theorem ctxWrite (x0 x1 x2) : Statement (.ctxWrite x0 x1 x2) := of_step rfl rfl

theorem ctxpWrite (x0 x1) : Statement (.ctxpWrite x0 x1) := of_step rfl rfl

theorem tqWrite (x0 x1 x2) : Statement (.tqWrite x0 x1 x2) := of_step rfl rfl

theorem shareWrite (x0 x1) : Statement (.shareWrite x0 x1) := of_step rfl rfl

theorem partcfgWrite (x0 x1) : Statement (.partcfgWrite x0 x1) := of_step rfl rfl

theorem vpsmapWrite (x0 x1) : Statement (.vpsmapWrite x0 x1) := of_step rfl rfl

theorem pmaxWrite (x0 x1) : Statement (.pmaxWrite x0 x1) := of_step rfl rfl

theorem pmemWrite (x0 x1) : Statement (.pmemWrite x0 x1) := of_step rfl rfl

theorem rscarveWrite (x0) : Statement (.rscarveWrite x0) := of_step rfl rfl

theorem featacc0Write (x0 x1) : Statement (.featacc0Write x0 x1) := of_step rfl rfl

theorem featacc1Write (x0 x1) : Statement (.featacc1Write x0 x1) := of_step rfl rfl

theorem lateprqClear (x0) : Statement (.lateprqClear x0) := of_step rfl rfl

theorem deverrClear (x0) : Statement (.deverrClear x0) := of_step rfl rfl

theorem registerWrite (x0 x1 x2 x3) : Statement (.registerWrite x0 x1 x2 x3) := of_step rfl rfl

theorem vfFreeze (x0) : Statement (.vfFreeze x0) := of_step rfl rfl

theorem vfImportAck (x0) : Statement (.vfImportAck x0) := of_step rfl rfl

theorem pgtUpdateConfirm (x0 x1) : Statement (.pgtUpdateConfirm x0 x1) := of_step rfl rfl

theorem endMarker (x0) : Statement (.endMarker x0) := of_step rfl rfl

theorem deviceReset (x0 x1 x2 x3) : Statement (.deviceReset x0 x1 x2 x3) := of_step rfl rfl

theorem getVersion : Statement .getVersion := of_step rfl rfl

theorem getCapabilities : Statement .getCapabilities := of_step rfl rfl

theorem negotiateAlgorithms : Statement .negotiateAlgorithms := of_step rfl rfl

theorem getDigests : Statement .getDigests := of_step rfl rfl

theorem getCertificate : Statement .getCertificate := of_step rfl rfl

theorem challenge : Statement .challenge := of_step rfl rfl

theorem getMeasurements : Statement .getMeasurements := of_step rfl rfl

theorem ownershipTransfer (x0 x1) : Statement (.ownershipTransfer x0 x1) := of_step rfl rfl

theorem recoveryCommand (x0 x1) : Statement (.recoveryCommand x0 x1) := of_step rfl rfl

theorem portLinkTraining (x0 x1) : Statement (.portLinkTraining x0 x1) := of_step rfl rfl

theorem inboundPcieWrite (x0 x1 x2) : Statement (.inboundPcieWrite x0 x1 x2) := of_step rfl rfl

theorem signalLineRaise (x0 x1) : Statement (.signalLineRaise x0 x1) := of_step rfl rfl

theorem frankingQuotaAddition (x0 x1) : Statement (.frankingQuotaAddition x0 x1) := of_step rfl rfl

theorem priReenable (x0) : Statement (.priReenable x0) := of_step rfl rfl

end Sys2Proof.Laws.Coding
end

