-- ==== Sys2Proof/Machine/VoasText.lean ====
section
/-! DEFINITION. The text of a voas source: characters, tokens, lines, expressions and statements (R20 to R26, R42).

A source is a list of bytes. Every function is total: what the grammar does not match answers with the
diagnostic of R46 that the rule names. -/

namespace Sys2Proof.Voas

/-- The diagnostics of R46. -/
inductive Code where
  | e01 | e02 | e03 | e04 | e05 | e06 | e07 | e08 | e09 | e10 | e11 | e12 | e13 | e14 | e15 | e16 | e17
  | e20 | e21 | e22 | e23 | e24 | e25 | e26 | e27
  | w01 | w02 | w03
  deriving DecidableEq, Repr

/-- The message does not suppress the image (R46). -/
def Code.warning : Code → Bool
  | .w01 | .w02 | .w03 => true
  | _ => false

/-- The code as a message gives it. -/
def Code.text : Code → String
  | .e01 => "E01" | .e02 => "E02" | .e03 => "E03" | .e04 => "E04" | .e05 => "E05" | .e06 => "E06" | .e07 => "E07"
  | .e08 => "E08" | .e09 => "E09" | .e10 => "E10" | .e11 => "E11" | .e12 => "E12" | .e13 => "E13" | .e14 => "E14"
  | .e15 => "E15" | .e16 => "E16" | .e17 => "E17" | .e20 => "E20" | .e21 => "E21" | .e22 => "E22" | .e23 => "E23"
  | .e24 => "E24" | .e25 => "E25" | .e26 => "E26" | .e27 => "E27" | .w01 => "W01" | .w02 => "W02" | .w03 => "W03"

/-- What a message reports: its line, counted from 1, and its code; `messages` gives the whole text. -/
structure Diag where
  line : Nat
  code : Code
  deriving DecidableEq, Repr

/-- A float literal without its sign (R24): `digits` × 10^`exp`, or a word. -/
inductive FloatLit where
  | dec (digits : Nat) (exp : Int)
  | inf
  | nan
  deriving DecidableEq, Repr

/-- A token (R22 to R24). -/
inductive Tok where
  | word (s : String)
  | qual (sec : SeqId) (s : String)
  | dotted (s : String)
  | dir (s : String)
  | int (v : Word)
  | flt (x : FloatLit)
  | sym (s : String)
  deriving DecidableEq, Repr

/-! ### Characters and lines (R20, R22) -/

/-- The character of a byte. -/
def charOf (b : Byte) : Char := Char.ofNat b.toNat

/-- The lines of a source, and the characters that follow its last LF. -/
def splitLines : List Byte → List (List Char) × List Char
  | [] => ([], [])
  | b :: bs =>
    let (ls, rest) := splitLines bs
    if b = 10 then ([] :: ls, rest)
    else
      match ls with
      | [] => ([], charOf b :: rest)
      | l :: more => ((charOf b :: l) :: more, rest)

/-- A line without the CR that stands directly before its LF. -/
def dropCr (l : List Char) : List Char := if l.getLast? = some '\r' then l.dropLast else l

/-- The part of a line before its comment. -/
def beforeComment : List Char → List Char
  | [] => []
  | ';' :: _ => []
  | '/' :: '/' :: _ => []
  | c :: cs => c :: beforeComment cs

/-- Printable ASCII, space or horizontal tab. -/
def plain (c : Char) : Bool := c = '\t' || (decide (0x20 ≤ c.toNat) && decide (c.toNat ≤ 0x7E))

/-- A letter or `_`. -/
def idStart (c : Char) : Bool := c.isAlpha || c = '_'

/-- A letter, a digit or `_`. -/
def idChar (c : Char) : Bool := idStart c || c.isDigit

/-! ### Literals (R23, R24) -/

/-- The value of a digit in a base. -/
def digitOf (base : Nat) (c : Char) : Option Nat :=
  let v :=
    if c.isDigit then c.toNat - 0x30
    else if 'a' ≤ c ∧ c ≤ 'f' then c.toNat - 0x61 + 10
    else if 'A' ≤ c ∧ c ≤ 'F' then c.toNat - 0x41 + 10
    else 16
  if v < base then some v else none

/-- Digits with single `_` between two of them; `after` says that a digit came just before. -/
def digits (base : Nat) (after : Bool) (acc : Nat) : List Char → Option Nat
  | [] => if after then some acc else none
  | '_' :: cs => if after then digits base false acc cs else none
  | c :: cs =>
    match digitOf base c with
    | some d => digits base true (acc * base + d) cs
    | none => none

/-- An integer literal of digits in a base. -/
def intLit (base : Nat) (cs : List Char) : Except Code Tok :=
  match digits base false 0 cs with
  | some v => if v < 2 ^ 64 then .ok (.int (BitVec.ofNat 64 v)) else .error .e04
  | none => .error .e04

/-- Decimal digits as a number. -/
def decimal (cs : List Char) : Nat := (digits 10 false 0 cs).getD 0

/-- An exponent at the head of the text: its value and the rest. -/
def exponent (cs : List Char) : Option (Int × List Char) :=
  let signed (neg : Bool) (ds : List Char) : Option (Int × List Char) :=
    let run := ds.takeWhile Char.isDigit
    if run = [] then none
    else some (if neg then -(decimal run : Int) else (decimal run : Int), ds.dropWhile Char.isDigit)
  match cs with
  | c :: rest =>
    if c = 'e' || c = 'E' then
      (match rest with
        | '-' :: ds => signed true ds
        | '+' :: ds => signed false ds
        | ds => signed false ds)
    else none
  | [] => none

/-- A float literal ends where no identifier character follows. -/
def endFloat (digs : Nat) (e : Int) (rest : List Char) : Except Code (Tok × List Char) :=
  match rest with
  | c :: _ => if idChar c then .error .e01 else .ok (.flt (.dec digs e), rest)
  | [] => .ok (.flt (.dec digs e), rest)

/-- The number at the head of the text. -/
def number (cs : List Char) : Except Code (Tok × List Char) :=
  let run := cs.takeWhile idChar
  let after := cs.dropWhile idChar
  let whole := cs.takeWhile Char.isDigit
  let rest := cs.dropWhile Char.isDigit
  let integer (base : Nat) (ds : List Char) : Except Code (Tok × List Char) :=
    match intLit base ds with
    | .ok t => .ok (t, after)
    | .error c => .error c
  match run with
  | '0' :: 'x' :: ds => integer 16 ds
  | '0' :: 'b' :: ds => integer 2 ds
  | _ =>
    match rest with
    | '.' :: d :: _ =>
      if d.isDigit then
        let frac := (rest.drop 1).takeWhile Char.isDigit
        let tail := (rest.drop 1).dropWhile Char.isDigit
        let digs := decimal (whole ++ frac)
        match exponent tail with
        | some (e, tail') => endFloat digs (e - frac.length) tail'
        | none => endFloat digs (-(frac.length : Int)) tail
      else integer 10 run
    | _ =>
      match exponent rest with
      | some (e, tail) => endFloat (decimal whole) e tail
      | none => integer 10 run

/-! ### Tokens -/

/-- The pieces of a name at the head of the text, separated by periods, and the rest; a piece after the first
may begin with a digit, as in `CPG2L.1D`. -/
def pieces : Nat → List Char → List (List Char) × List Char
  | 0, cs => ([], cs)
  | n + 1, cs =>
    let piece := cs.takeWhile idChar
    let rest := cs.dropWhile idChar
    match rest with
    | '.' :: c :: _ =>
      if idChar c then
        let (more, rest') := pieces n (rest.drop 1)
        (piece :: more, rest')
      else ([piece], rest)
    | _ => ([piece], rest)

/-- The sequencer of a section word (R22, R31). -/
def sectionWord (s : String) : Option SeqId :=
  if s = "ctl" then some .c else if s = "ld" then some .l else if s = "cmp" then some .x
  else if s = "st" then some .s else none

/-- The token of a name in pieces (R22, R24). -/
def nameTok (ps : List (List Char)) : Tok :=
  match ps with
  | [a] =>
    let s := String.ofList a
    if s = "inf" then .flt .inf else if s = "nan" then .flt .nan else .word s
  | [a, b] =>
    (match sectionWord (String.ofList a), b with
      | some q, c :: _ => if idStart c then .qual q (String.ofList b) else .dotted (String.ofList (a ++ '.' :: b))
      | _, _ => .dotted (String.ofList (a ++ '.' :: b)))
  | _ => .dotted (String.ofList (List.intercalate ['.'] ps))

/-- The operators of two characters. -/
def twoChars : List String := ["==", "!=", "<=", ">=", "<<", ">>"]

/-- The operators and marks of one character. -/
def oneChar : List Char := ['<', '>', '|', '^', '&', '+', '-', '*', '/', '%', '~', '!', '(', ')', ',', ':']

/-- The tokens of a line's text; `fuel` is at least the text's length. -/
def tokens : Nat → List Char → Except Code (List Tok)
  | 0, _ => .ok []
  | _ + 1, [] => .ok []
  | fuel + 1, c :: cs =>
    let cons (t : Tok) (rest : List Char) : Except Code (List Tok) := do pure (t :: (← tokens fuel rest))
    if c = ' ' || c = '\t' then tokens fuel cs
    else if c.isDigit then do
      let (t, rest) ← number (c :: cs)
      cons t rest
    else if idStart c then
      let (ps, rest) := pieces fuel (c :: cs)
      if ps.any (fun p => decide (63 < p.length)) then .error .e03 else cons (nameTok ps) rest
    else
      match cs with
      | d :: more =>
        if c = '.' && idStart d then
          let nm := cs.takeWhile idChar
          if 63 < nm.length then .error .e03 else cons (.dir (String.ofList nm)) (cs.dropWhile idChar)
        else if twoChars.contains (String.ofList [c, d]) then cons (.sym (String.ofList [c, d])) more
        else if oneChar.contains c then cons (.sym (String.ofList [c])) cs
        else .error .e01
      | [] => if oneChar.contains c then cons (.sym (String.ofList [c])) [] else .error .e01

/-- The tokens of a line (R20, R22). -/
def lineTokens (raw : List Char) : Except Code (List Tok) :=
  let l := dropCr raw
  let text := beforeComment l
  if 4095 < l.length || !text.all plain then .error .e02 else tokens (text.length + 1) text

/-! ### Expressions (R26, R42, R43) -/

/-- The unary operators. -/
inductive UnOp where
  | neg | inv | not
  deriving DecidableEq, Repr

/-- The binary operators. -/
inductive BinOp where
  | or | xor | and | eq | ne | lt | le | gt | ge | shl | shr | add | sub | mul | div | mod
  deriving DecidableEq, Repr

/-- The built-in functions of one argument (R43). -/
inductive Fn where
  | lo40 | hi24 | words | lsa
  deriving DecidableEq, Repr

/-- An expression (R26). -/
inductive Expr where
  | lit (v : Word)
  | name (sec : Option SeqId) (s : String)
  | un (op : UnOp) (e : Expr)
  | bin (op : BinOp) (a b : Expr)
  | fn (f : Fn) (e : Expr)
  | shape (rows cols : Expr) (f : Fmt) (pair : Expr)
  deriving DecidableEq, Repr

/-- The names of the operand ring (R26). -/
def ringName (s : String) : Bool := ["ring", "ring1", "ring2", "ring3", "ring4", "ring5", "ring6", "ring7"].contains s

/-- An expression names the operand ring. -/
def Expr.usesRing : Expr → Bool
  | .lit _ => false
  | .name q s => q.isNone && ringName s
  | .un _ e => e.usesRing
  | .bin _ a b => a.usesRing || b.usesRing
  | .fn _ e => e.usesRing
  | .shape r c _ p => r.usesRing || c.usesRing || p.usesRing

/-- The operators of a level, loosest first (R42). -/
def levelOps (level : Nat) : List (String × BinOp) :=
  match level with
  | 0 => [("|", .or)]
  | 1 => [("^", .xor)]
  | 2 => [("&", .and)]
  | 3 => [("==", .eq), ("!=", .ne)]
  | 4 => [("<", .lt), ("<=", .le), (">", .gt), (">=", .ge)]
  | 5 => [("<<", .shl), (">>", .shr)]
  | 6 => [("+", .add), ("-", .sub)]
  | _ => [("*", .mul), ("/", .div), ("%", .mod)]

/-- The operator of a level at the head of the tokens. -/
def opAt (level : Nat) : List Tok → Option (BinOp × List Tok)
  | .sym s :: ts => ((levelOps level).find? (fun p => decide (p.1 = s))).map (fun p => (p.2, ts))
  | _ => none

/-- The unary operator of a mark. -/
def unOp (s : String) : Option UnOp :=
  if s = "-" then some .neg else if s = "~" then some .inv else if s = "!" then some .not else none

/-- The function of a name. -/
def fnOf (s : String) : Option Fn :=
  if s = "lo40" then some .lo40 else if s = "hi24" then some .hi24
  else if s = "words" then some .words else if s = "lsa" then some .lsa else none

/-- The format of a name (R25). -/
def fmtOf (s : String) : Option Fmt :=
  if s = "F32" then some .f32 else if s = "BF16" then some .bf16 else if s = "F16" then some .f16
  else if s = "E4M3" then some .e4m3 else if s = "E5M2" then some .e5m2 else if s = "I32" then some .i32
  else if s = "I8" then some .i8 else if s = "Q4" then some .q4 else if s = "Q4X" then some .q4x
  else if s = "L16" then some .l16 else none

/-- What is to be read next: an expression of a level (8 is a unary one), or the operators that follow `lhs`. -/
inductive Want where
  | expr (level : Nat)
  | more (level : Nat) (lhs : Expr)

/-- The rest after a mark. -/
def expect (s : String) : List Tok → Except Code (List Tok)
  | .sym t :: ts => if t = s then .ok ts else .error .e01
  | .flt _ :: _ => .error .e05
  | _ => .error .e01

/-- Read an expression; operators of one level associate left to right. The third argument of `shape()` is an expression in
R26 and a format name in R43: a ring name in it draws E12 (R28); another expression that is no format name draws E01, which
is the model's choice (log 62). -/
def parse : Nat → Want → List Tok → Except Code (Expr × List Tok)
  | 0, _, _ => .error .e01
  | fuel + 1, .more level lhs, ts =>
    (match opAt level ts with
      | some (op, ts1) => do
        let (rhs, ts2) ← parse fuel (.expr (level + 1)) ts1
        parse fuel (.more level (.bin op lhs rhs)) ts2
      | none => .ok (lhs, ts))
  | fuel + 1, .expr level, ts =>
    if level < 8 then do
      let (lhs, ts1) ← parse fuel (.expr (level + 1)) ts
      parse fuel (.more level lhs) ts1
    else
      match ts with
      | .int v :: rest => .ok (.lit v, rest)
      | .qual q s :: rest => .ok (.name (some q) s, rest)
      | .flt _ :: _ => .error .e05
      | .word s :: .sym p :: rest =>
        if p = "(" then
          (match fnOf s with
            | some f => do
              let (a, ts1) ← parse fuel (.expr 0) rest
              pure (.fn f a, ← expect ")" ts1)
            | none =>
              if s = "shape" then do
                let (r, ts1) ← parse fuel (.expr 0) rest
                let (c, ts2) ← parse fuel (.expr 0) (← expect "," ts1)
                let (third, ts3) ← parse fuel (.expr 0) (← expect "," ts2)
                match third with
                | .name none f =>
                  (match fmtOf f with
                    | some fm =>
                      (match expect ")" ts3 with
                        | .ok ts4 => pure (.shape r c fm (.lit 0), ts4)
                        | .error _ => do
                          let (p, ts4) ← parse fuel (.expr 0) (← expect "," ts3)
                          pure (.shape r c fm p, ← expect ")" ts4))
                    | none => .error (if ringName f then .e12 else .e01))
                | e => .error (if e.usesRing then .e12 else .e01)
              else .error .e01)
        else .ok (.name none s, .sym p :: rest)
      | .word s :: rest => .ok (.name none s, rest)
      | .sym p :: rest =>
        if p = "(" then do
          let (e, ts1) ← parse fuel (.expr 0) rest
          pure (e, ← expect ")" ts1)
        else
          (match unOp p with
            | some op => do
              let (e, ts1) ← parse fuel (.expr 8) rest
              pure (.un op e, ts1)
            | none => .error .e01)
      | _ => .error .e01

/-- The expression that the tokens are, whole. -/
def wholeExpr (ts : List Tok) : Except Code Expr := do
  let (e, rest) ← parse (16 * (ts.length + 2)) (.expr 0) ts
  match rest with
  | [] => pure e
  | .flt _ :: _ => .error .e05
  | _ => .error .e01

/-! ### Values (R42, R43) -/

/-- Why a value is not there: it waits for a symbol that is not resolved yet, it draws a diagnostic, or it rests on
one that has drawn its own. -/
inductive Stop where
  | wait
  | err (c : Code)
  | quiet
  deriving DecidableEq, Repr

/-- A value or why it is not there. -/
abbrev Ev (α : Type) := Except Stop α

/-- A truth value as 0 or 1. -/
def truth (b : Bool) : Word := if b then 1 else 0

/-- A binary operator on two values (R42). -/
def BinOp.eval (op : BinOp) (a b : Word) : Ev Word :=
  match op with
  | .or => .ok (a ||| b)
  | .xor => .ok (a ^^^ b)
  | .and => .ok (a &&& b)
  | .eq => .ok (truth (decide (a = b)))
  | .ne => .ok (truth (decide (a ≠ b)))
  | .lt => .ok (truth (decide (a.toInt < b.toInt)))
  | .le => .ok (truth (decide (a.toInt ≤ b.toInt)))
  | .gt => .ok (truth (decide (b.toInt < a.toInt)))
  | .ge => .ok (truth (decide (b.toInt ≤ a.toInt)))
  | .shl => if b.toNat < 64 then .ok (a <<< b.toNat) else .error (.err .e27)
  | .shr => if b.toNat < 64 then .ok (a.sshiftRight b.toNat) else .error (.err .e27)
  | .add => .ok (a + b)
  | .sub => .ok (a - b)
  | .mul => .ok (a * b)
  | .div => if b = 0 then .error (.err .e27) else .ok (BitVec.ofInt 64 (a.toInt.tdiv b.toInt))
  | .mod => if b = 0 then .error (.err .e27) else .ok (BitVec.ofInt 64 (a.toInt.tmod b.toInt))

/-- A function of one argument (R43). -/
def Fn.eval (f : Fn) (x : Word) : Ev Word :=
  match f with
  | .lo40 => .ok (x &&& 0xFFFFFFFFFF)
  | .hi24 => .ok ((x >>> 40) &&& 0xFFFFFF)
  | .words => if x.toInt < 0 then .error (.err .e27) else .ok (BitVec.ofNat 64 ((x.toNat + 9) / 10))
  | .lsa => if x.toNat ≤ 0x17FFFF then .ok x else .error (.err .e22)

/-- `shape()` (R43, R106): SCALE is 0xFF. -/
def shapeWord (rows cols : Word) (f : Fmt) (pair : Word) : Ev Word :=
  let r := rows.toNat
  let c := cols.toNat
  if 1 ≤ r ∧ r ≤ 64 ∧ 1 ≤ c ∧ c ≤ 64 ∧ pair.toNat ≤ 1 then
    if (r * c * f.nibbles + 1) / 2 ≤ 8192 * (1 + pair.toNat) then
      .ok (BitVec.ofNat 64 (0xFF000000 + pair.toNat * 2 ^ 20 + f.idx * 2 ^ 16 + c * 2 ^ 8 + r))
    else .error (.err .e25)
  else .error (.err .e11)

/-- The value of an expression, where `look` gives the names theirs. -/
def Expr.eval (look : Option SeqId → String → Ev Word) : Expr → Ev Word
  | .lit v => .ok v
  | .name q s => look q s
  | .un op e => do
    let v ← e.eval look
    pure (match op with | .neg => -v | .inv => ~~~v | .not => truth (decide (v = 0)))
  | .bin op a b => do op.eval (← a.eval look) (← b.eval look)
  | .fn f e => do f.eval (← e.eval look)
  | .shape r c f p => do shapeWord (← r.eval look) (← c.eval look) f (← p.eval look)

/-- The names that an expression uses. -/
def Expr.names : Expr → List (Option SeqId × String)
  | .lit _ => []
  | .name q s => [(q, s)]
  | .un _ e => e.names
  | .bin _ a b => a.names ++ b.names
  | .fn _ e => e.names
  | .shape r c _ p => r.names ++ c.names ++ p.names

/-! ### Statements (R26) -/

/-- An operand or argument: an expression, a float literal, or a pair of identifiers. -/
inductive Arg where
  | ex (e : Expr)
  | flt (neg : Bool) (x : FloatLit)
  | two (a b : String)
  deriving DecidableEq, Repr

/-- An operand or argument that is a float literal. -/
def Arg.isFloat : Arg → Bool
  | .flt _ _ => true
  | _ => false

/-- One operand or argument. -/
def parseArg (ts : List Tok) : Except Code Arg :=
  match ts with
  | [.flt x] => .ok (.flt false x)
  | [.sym "-", .flt x] => .ok (.flt true x)
  | [.word a, .word b] => .ok (.two a b)
  | _ => do pure (.ex (← wholeExpr ts))

/-- Split at the commas outside parentheses. -/
def splitArgs : Nat → List Tok → List (List Tok)
  | _, [] => [[]]
  | depth, t :: ts =>
    if depth = 0 ∧ t = .sym "," then [] :: splitArgs 0 ts
    else
      let depth' := if t = .sym "(" then depth + 1 else if t = .sym ")" then depth - 1 else depth
      match splitArgs depth' ts with
      | [] => [[t]]
      | a :: more => (t :: a) :: more

/-- The arguments of a list that may be empty. -/
def parseArgs (ts : List Tok) : Except Code (List Arg) :=
  if ts = [] then .ok [] else (splitArgs 0 ts).mapM parseArg

/-- Split at the colons. -/
def splitColons : List Tok → List (List Tok)
  | [] => [[]]
  | t :: ts =>
    if t = .sym ":" then [] :: splitColons ts
    else
      match splitColons ts with
      | [] => [[t]]
      | a :: more => (t :: a) :: more

/-- An option: its word and its arguments. -/
structure Opt where
  word : String
  args : List Arg
  deriving DecidableEq, Repr

/-- One option, after its colon. -/
def parseOpt (ts : List Tok) : Except Code Opt :=
  match ts with
  | .word w :: rest => do pure { word := w, args := ← parseArgs rest }
  | .flt _ :: _ => .error .e05
  | _ => .error .e01

/-- A statement: nothing, an instruction, a directive, or what draws a diagnostic. -/
inductive Stmt where
  | none
  | instr (mnemonic : String) (args : List Arg) (opts : List Opt)
  | dir (name : String) (args : List Arg)
  | bad (c : Code)
  deriving DecidableEq, Repr

/-- An instruction from the tokens after its mnemonic. -/
def parseInstr (m : String) (ts : List Tok) : Except Code Stmt :=
  match splitColons ts with
  | ops :: opts => do pure (.instr m (← parseArgs ops) (← opts.mapM parseOpt))
  | [] => .error .e01

/-- A line: its label and its statement. `mnemonic` tells a whole mnemonic, after which a colon with a word that is
none begins an option. A float literal (R24) or a ring name, which `ring` tells (R28), begins no statement. -/
def parseLine (mnemonic ring : String → Bool) (ts : List Tok) : Option String × Stmt :=
  let guard (x : Except Code Stmt) : Stmt := match x with | .ok s => s | .error c => .bad c
  let stmt (ts : List Tok) : Stmt :=
    match ts with
    | [] => .none
    | .dir d :: rest => guard do pure (.dir d (← parseArgs rest))
    | .word m :: rest =>
      if mnemonic m then guard (parseInstr m rest) else .bad (if ring m then .e12 else .e01)
    | .dotted m :: rest => if mnemonic m then guard (parseInstr m rest) else .bad .e01
    | .flt _ :: _ | .sym "-" :: .flt _ :: _ => .bad .e05
    | _ => .bad .e01
  match ts with
  | .word l :: .sym p :: rest =>
    let option : Bool :=
      mnemonic l && (match rest with | .word w :: _ => !mnemonic w | _ => false)
    if p = ":" && !option then (some l, stmt rest) else (Option.none, stmt ts)
  | _ => (Option.none, stmt ts)

end Sys2Proof.Voas
end

