-- ==== Sys2Proof/Machine/VoasWords.lean ====
section
/-! DEFINITION. The instructions of voas: register names, the assembly forms of the reference entries, operands and
option words, and the 80-bit word they make (R25, R27 to R30, R102, R103).

A form lists where each operand goes in the word (bit positions of R78). The forms of each class stand in the
order of the opcode grid of R102. -/

namespace Sys2Proof.Voas

/-! ### Register names (R25) -/

/-- The kinds of names with a number; `ring` is number 0 of its kind. -/
inductive RegKind where
  | t | lq | sq | g | tag | sem | tb | ag | acc | rt | cb | mdq | eq | jt | ring
  deriving DecidableEq, Repr

/-- A register name. -/
structure Reg where
  kind : RegKind
  n : Nat
  deriving DecidableEq, Repr

/-- The prefixes of R25, with the first and the last number. -/
def regPrefixes : List (String × RegKind × Nat × Nat) :=
  [("T", .t, 0, 47), ("LQ", .lq, 0, 7), ("SQ", .sq, 0, 3), ("g", .g, 0, 31), ("t", .tag, 0, 7),
   ("sem", .sem, 1, 255), ("tb", .tb, 0, 63), ("AG", .ag, 0, 15), ("ACC", .acc, 0, 15), ("RT", .rt, 0, 7),
   ("CB", .cb, 0, 7), ("MDQ", .mdq, 0, 1), ("EQ", .eq, 0, 5), ("JT", .jt, 0, 3), ("ring", .ring, 1, 7)]

/-- A decimal number without a leading zero. -/
def plainNumber (cs : List Char) : Option Nat :=
  match cs with
  | [] => none
  | [c] => if c.isDigit then some (decimal [c]) else none
  | c :: _ => if cs.all Char.isDigit && c != '0' then some (decimal cs) else none

/-- The text after the leading name. -/
def afterPrefix : List Char → List Char → Option (List Char)
  | [], cs => some cs
  | p :: ps, c :: cs => if p = c then afterPrefix ps cs else none
  | _ :: _, [] => none

/-- The register that a name spells. -/
def regOf (s : String) : Option Reg :=
  if s = "ring" then some ⟨.ring, 0⟩
  else regPrefixes.findSome? (fun (p, k, lo, hi) => do
    let n ← plainNumber (← afterPrefix p.toList s.toList)
    if lo ≤ n ∧ n ≤ hi then some ⟨k, n⟩ else none)

/-- `ring` or `ringd`. -/
def isRing (s : String) : Bool :=
  match regOf s with
  | some r => decide (r.kind = .ring)
  | none => false

/-- An operand or argument that is `ring` or `ringd`. -/
def Arg.isRing : Arg → Bool
  | .ex (.name none s) => Voas.isRing s
  | _ => false

/-- The diagnostic of a name that nothing defines: E12 for `ring` and `ringd` (R28), else E08 (R33). -/
def missing (q : Option SeqId) (n : String) : Code := if q = none && isRing n then .e12 else .e08

/-- Names of consecutive CSRs: the leading letters, the count and the first number. -/
def csrRows : List (String × Nat × Nat) :=
  [("CPPROG", 8, 0x021), ("JT", 4, 0x040), ("FEATW", 2, 0x060), ("QMIN", 12, 0x080), ("QCAP", 12, 0x090)]

/-- The CSRs that stand alone (R118, R255, R272). -/
def csrNames : List (String × Nat) :=
  [("DTIME", 0x000), ("GRANK", 0x001), ("GSIZE", 0x002), ("TASKID", 0x003), ("STEPID", 0x004),
   ("STREAMID", 0x005), ("TTAG", 0x006), ("PGRANK", 0x007), ("SLACK", 0x010), ("OPPT", 0x011),
   ("FRANK", 0x012), ("PWRLVL", 0x013), ("MXPROG", 0x020), ("RTSTAT", 0x030), ("FAULTREC", 0x050)] ++
  [("CAPCORE", 0x070), ("CAPMEM", 0x071), ("ECFG", 0x100), ("ERATE", 0x101), ("EOBASE", 0x102),
   ("EOLEN", 0x103), ("EOWR", 0x104), ("EORD", 0x105), ("ESTAT", 0x106), ("VPSREQ", 0x200),
   ("ISLTEMP", 0x201), ("THERMSIM", 0x202), ("ISLPOWER", 0x203), ("MIGSTAT", 0x204)]

/-- The number of a CSR name. -/
def csrOf (s : String) : Option Nat :=
  match csrNames.find? (fun p => decide (p.1 = s)) with
  | some p => some p.2
  | none => csrRows.findSome? (fun (p, count, base) => do
      let n ← plainNumber (← afterPrefix p.toList s.toList)
      if n < count then some (base + n) else none)

/-! ### Forms -/

/-- What an operand may be, and the bits it fills.

`reg`: a register of a kind, numbers `lo` to `hi`, stored as `base` plus the number. `dst`, `srcA` and `src`: the tile
operands of a vector word. `num`: an expression from `lo` to `hi`. `nsp`: present elements per 64 (R141). `target`: a
branch or loop target. `csr`: a CSR. `flag`: a fixed word that sets a bit. -/
inductive Slot where
  | reg (k : RegKind) (pos width base lo hi : Nat)
  | dst
  | srcA
  | src (pos : Nat)
  | num (pos width : Nat) (lo hi : Int)
  | nsp
  | target (width : Nat) (lo hi : Int)
  | csr
  | flag (word : String) (pos : Nat)
  deriving DecidableEq, Repr

/-- The fields that options fill (R30, R82, R141, R206, R256, R332, R392); `round` and `sat` name their position. -/
inductive OptField where
  | wait | alloc | ring | strictA | strictB
  | round (pos : Nat)
  | sat (pos : Nat)
  | acq | rel | bar | wsem | ssem | zero | rsum | cb | fstart | keep
  deriving DecidableEq, Repr

/-- An assembly form: the mnemonic, its operands, the fields its options may fill, and further set bits as position
and value. -/
structure Form where
  name : String
  slots : List Slot
  opts : List OptField
  fixed : List (Nat × Nat) := []
  deriving DecidableEq, Repr

/-- A g register in an 8-bit field. -/
abbrev gAt (pos : Nat) : Slot := .reg .g pos 8 0x40 0 31

/-- A tile register in an 8-bit field. -/
abbrev tAt (pos : Nat) : Slot := .reg .t pos 8 0 0 47

/-- An accumulator in an engine payload. -/
abbrev accE : Slot := .reg .acc 44 4 0 0 15

/-- An unsigned field. -/
abbrev uns (pos width : Nat) : Slot := .num pos width 0 (2 ^ width - 1)

/-- A field of R27 for a signed value. -/
abbrev sgn (pos width : Nat) : Slot := .num pos width (-(2 ^ (width - 1))) (2 ^ width - 1)

/-- The operands of a scalar word, with `:wait`. -/
def plainForm (name : String) (slots : List Slot) : Form := { name := name, slots := slots, opts := [.wait] }

/-- Three registers. -/
def fR3 (name : String) : Form := plainForm name [gAt 48, gAt 40, gAt 32]

/-- Two registers and a 40-bit immediate. -/
def fImm (name : String) : Form := plainForm name [gAt 48, gAt 40, sgn 0 40]

/-- Two registers. -/
def fR2 (name : String) : Form := plainForm name [gAt 48, gAt 40]

/-- A shift by a count. -/
def fSh (name : String) : Form := plainForm name [gAt 48, gAt 40, uns 0 6]

/-- A bit field. -/
def fBf (name : String) : Form := plainForm name [gAt 48, gAt 40, uns 0 6, .num 6 7 1 64]

/-- Class 0. -/
def forms0 : List (List Form) :=
  [[fR3 "ADD"], [fImm "ADD"], [fR3 "SUB"], [fR3 "MUL"], [fImm "MUL"], [fR3 "MULH"], [fR3 "MULH.U"],
   [{ fR3 "DIVU" with opts := [.wait, .alloc] }], [{ fR3 "REMU" with opts := [.wait, .alloc] }],
   [fR3 "AND"], [fImm "AND"], [fR3 "OR"], [fImm "OR"], [fR3 "XOR"], [fImm "XOR"], [fR3 "SHL"], [fSh "SHL"],
   [fR3 "SHR"], [fSh "SHR"], [fR3 "SAR"], [fSh "SAR"]] ++
  [[fR3 "SLT"], [fImm "SLT"], [fR3 "SLTU"], [fImm "SLTU"], [fR3 "SEQ"], [fImm "SEQ"], [fR3 "MIN"],
   [fR3 "MIN.U"], [fR3 "MAX"], [fR3 "MAX.U"], [fR2 "MOV"], [plainForm "LI" [gAt 48, sgn 0 40]],
   [plainForm "LIH" [gAt 48, uns 0 24]], [plainForm "SEL" [gAt 48, gAt 40, gAt 32, gAt 16]], [fBf "BFX"],
   [fBf "BFX.S"], [fBf "BFI"], [fR2 "CLZ"], [fR2 "CTZ"], [fR2 "POPC"],
   [plainForm "MADD" [gAt 48, gAt 40, gAt 32, gAt 16]]]

/-- A branch target. -/
abbrev off40 : Slot := .target 40 (-(2 ^ 39)) (2 ^ 39 - 1)

/-- The end of a loop. -/
abbrev loopEnd : Slot := .target 20 1 1048575

/-- Class 1. -/
def forms1 : List (List Form) :=
  [[plainForm "B" [off40]]] ++
  ["BC.EQ", "BC.NE", "BC.LT", "BC.GE", "BC.LTU", "BC.GEU"].map (fun n => [plainForm n [gAt 48, gAt 40, off40]]) ++
  [[plainForm "CALL" [off40]], [plainForm "RET" []], [plainForm "JTBL" [gAt 40, .reg .jt 0 2 0 0 3]],
   [plainForm "LPAD" [uns 0 16]], [plainForm "LOOP" [gAt 40, loopEnd]], [plainForm "LOOP" [uns 20 20, loopEnd]],
   [plainForm "NOP" []], [plainForm "FORK" [.num 32 2 1 3, uns 0 32]], [plainForm "RDV" [.num 0 4 1 15]],
   [plainForm "EXIT" []]] ++
  ["TKSIG", "TKWAIT"].map (fun n =>
    [plainForm n [.num 8 2 0 3, .num 0 8 1 255], plainForm n [.num 8 2 0 3, gAt 40]]) ++
  [[plainForm "YIELD" []], [plainForm "GRPEND" []], [plainForm "TRAP" [uns 0 16]]]

/-- A load: the offset may be left out (R344). -/
def fLoad (name : String) : List Form :=
  [{ name := name, slots := [gAt 48, gAt 40], opts := [.wait, .alloc] },
   { name := name, slots := [gAt 48, gAt 40, sgn 0 40], opts := [.wait, .alloc] }]

/-- A store: the address register comes first (R369). -/
def fStore (name : String) : List Form :=
  [plainForm name [gAt 40, gAt 48], plainForm name [gAt 40, gAt 48, sgn 0 40]]

/-- An address generator. -/
abbrev agAt (lo hi : Nat) : Slot := .reg .ag 0 4 0 lo hi

/-- Class 2. -/
def forms2 : List (List Form) :=
  ["LDG.B", "LDG.BU", "LDG.H", "LDG.HU", "LDG.W", "LDG.WU", "LDG.D"].map fLoad ++
  ["STG.B", "STG.H", "STG.W", "STG.D"].map fStore ++
  ["LDL.B", "LDL.BU", "LDL.H", "LDL.HU", "LDL.W", "LDL.WU", "LDL.D"].map fLoad ++
  ["STL.B", "STL.H", "STL.W", "STL.D"].map fStore ++
  [[plainForm "AGSET" [agAt 0 15, .num 4 2 0 2, gAt 40]], [plainForm "AGGET" [gAt 48, agAt 0 15, .num 4 2 0 2]],
   [plainForm "SLOAD" [agAt 0 7]], [plainForm "SSTORE" [agAt 8 15]],
   [plainForm "SADV" [agAt 0 15, .num 4 36 (-(2 ^ 35)) (2 ^ 35 - 1)], plainForm "SADV" [agAt 0 15, gAt 40]],
   [plainForm "PREF.H" [gAt 40, gAt 32]], [plainForm "PREF.L" [gAt 40, gAt 32]]]

/-- The options of MOD with rounding and saturation (R82). -/
abbrev modRS : List OptField := [.round 26, .sat 29]

/-- The options of MOD with saturation alone. -/
abbrev modS : List OptField := [.sat 29]

/-- A vector word of one source (R380). -/
def fV1 (name : String) (m : List OptField) : Form :=
  { name := name, slots := [.dst, .srcA], opts := [.wait, .ring, .strictA] ++ m }

/-- A vector word of two sources. -/
def fV2 (name : String) (m : List OptField) : Form :=
  { name := name, slots := [.dst, .srcA, .src 32], opts := [.wait, .ring, .strictA, .strictB] ++ m }

/-- A vector word of three sources. -/
def fV3 (name : String) (m : List OptField) : Form :=
  { name := name, slots := [.dst, .srcA, .src 32, .src 16], opts := [.wait, .ring, .strictA, .strictB] ++ m }

/-- A scalar-operand form (R385). -/
def fVs (name : String) (m : List OptField) : Form :=
  { name := name, slots := [.dst, .srcA, gAt 32], opts := [.wait, .ring, .strictA] ++ m }

/-- The lane suffixes and LF (R386). -/
def lanes : List (String × Nat) := [("", 0), (".F32", 1), (".BF16", 2), (".F16", 3)]

/-- A fused multiply-add with each lane suffix. -/
def withLanes (f : Form) : List Form := lanes.map (fun (s, lf) => { f with name := f.name ++ s, fixed := [(0, lf)] })

/-- The comparisons of R387. -/
def conditions : List String := ["EQ", "NE", "LT", "LE", "GT", "GE"]

/-- Class 3. -/
def forms3 : List (List Form) :=
  ["VADD", "VSUB", "VMUL", "VMIN", "VMAX"].flatMap (fun n => [[fV2 (n ++ ".F") modRS], [fV2 (n ++ ".I") modS]]) ++
  ["VABS", "VNEG"].flatMap (fun n => [[fV1 (n ++ ".F") modRS], [fV1 (n ++ ".I") modS]]) ++
  [[fV3 "VCLAMP.F" modRS], [fV3 "VCLAMP.I" modS]] ++
  conditions.map (fun c => [fV2 ("VCMP.F." ++ c) []]) ++ conditions.map (fun c => [fV2 ("VCMP.I." ++ c) []]) ++
  ["VFMA", "VFMS", "VFNMA"].map (fun n => withLanes (fV3 n modRS)) ++
  [[fV2 "VMINNUM" modRS], [fV2 "VMAXNUM" modRS], [fV3 "VSEL" []]] ++
  ["VAND", "VOR", "VXOR", "VSHL", "VSHR", "VSAR"].map (fun n => [fV2 n []]) ++
  [[fV1 "VMOV" []],
   [{ name := "VBCAST", slots := [.dst, .srcA, uns 8 6, uns 0 6], opts := [.wait, .ring, .strictA] }],
   [{ name := "VFILL", slots := [.dst, gAt 32], opts := [.wait, .ring] }],
   [fV2 "VSCALE" modRS]] ++
  ["VADD.FS", "VSUB.FS", "VMUL.FS", "VMIN.FS", "VMAX.FS"].map (fun n => [fVs n modRS]) ++
  [withLanes { name := "VFMA.FS", slots := [.dst, .srcA, gAt 32, .src 16], opts := [.wait, .ring, .strictA] ++ modRS }] ++
  ["VADD.IS", "VMUL.IS", "VMAX.IS", "VMIN.IS"].map (fun n => [fVs n modS]) ++
  [[fV1 "VRND" modRS]]

/-- A tag-eligible word of one source (R88). -/
def fTag (name : String) (m : List OptField) : Form :=
  { name := name, slots := [.dst, .srcA], opts := [.wait, .alloc, .ring, .strictA] ++ m }

/-- Class 4. -/
def forms4 : List (List Form) :=
  ["F32", "BF16", "F16", "E4M3", "E5M2", "I32", "I8", "Q4"].map (fun f => [fV1 ("VCVT." ++ f) modRS]) ++
  ["Q4", "Q4X", "E4M3", "E5M2"].map (fun f =>
    [{ name := "VQNT." ++ f, slots := [.dst, .srcA], opts := [.wait, .strictA, .keep] ++ modRS }]) ++
  ["Q4", "Q4X", "E4M3", "E5M2"].map (fun f => [fV1 ("VDQNT." ++ f) modRS]) ++
  ["VEXP2", "VLOG2", "VRCP", "VRSQ", "VTANH"].map (fun n => [fTag n []]) ++
  ["VRMAX", "VRMIN", "VRSUM", "VCSUM", "VCMAX"].flatMap (fun n => [[fTag (n ++ ".F") modRS], [fTag (n ++ ".I") []]]) ++
  [[fTag "VTRN" []]] ++
  ["VLUT.BF16", "VLUT.F16"].map (fun n =>
    [{ name := n, slots := [.dst, .srcA, .reg .cb 0 3 0 0 7],
       opts := [.wait, .alloc, .ring, .strictA] ++ modRS }]) ++
  [[{ name := "CBLD", slots := [.reg .cb 0 3 0 0 7, .srcA], opts := [.wait, .strictA] }],
   [plainForm "TSHAPE" [tAt 48, gAt 40]],
   [{ name := "TSHGET", slots := [gAt 48, tAt 40], opts := [.wait, .strictA] }]]

/-- The name of a format in a mnemonic (R25). -/
def fmtName (f : Fmt) : String :=
  match f with
  | .f32 => "F32" | .bf16 => "BF16" | .f16 => "F16" | .e4m3 => "E4M3" | .e5m2 => "E5M2"
  | .i32 => "I32" | .i8 => "I8" | .q4 => "Q4" | .q4x => "Q4X" | .l16 => "L16"

/-- The suffix of an operand pair (R141). -/
def pairName (p : MxPair) : String := (if p.bs then ".BS." else ".") ++ fmtName p.a ++ "." ++ fmtName p.b

/-- The semaphore options of an engine command (R95). -/
abbrev semOpts : List OptField := [.wsem, .ssem]

/-- A tile register in an engine payload. -/
abbrev tE (pos : Nat) : Slot := .reg .t pos 6 0 0 47

/-- A matrix multiply, with or without REP; `:cb` belongs to the L16 pairs (R141). -/
def fMx (stem : String) (mid : List Slot) (p : MxPair) : List Form :=
  let opts := semOpts ++ [.zero, .rsum] ++ (if p.b = .l16 then [.cb] else [])
  let slots := [accE, tE 38, tE 32] ++ mid
  [{ name := stem ++ pairName p, slots := slots, opts := opts },
   { name := stem ++ pairName p, slots := slots ++ [uns 26 4], opts := opts }]

/-- A general register number in a copy payload (R332). -/
abbrev gC (pos : Nat) : Slot := .reg .g pos 5 0 0 31

/-- The options of a copy. -/
abbrev copyOpts : List OptField := semOpts ++ [.bar]

/-- A copy in one, two and three dimensions, with further first operands (R335); the geometry registers end at g31. -/
def fCopy (stem : String) (first : List Slot) : List (List Form) :=
  let slots := first ++ [gC 43, gC 38, gC 33]
  [[{ name := stem ++ ".1D", slots := slots, opts := copyOpts }],
   [{ name := stem ++ ".2D", slots := slots ++ [.reg .g 28 5 0 1 30], opts := copyOpts }],
   [{ name := stem ++ ".3D", slots := slots ++ [.reg .g 28 5 0 1 29], opts := copyOpts }]]

/-- Class 5. -/
def forms5 : List (List Form) :=
  mxPairs.map (fMx "MXMUL" []) ++ mxsPairs.map (fMx "MXMULS" [.nsp, .reg .mdq 22 1 0 0 1]) ++
  [[{ name := "MXZERO", slots := [accE], opts := semOpts },
    { name := "MXZERO", slots := [accE, .flag "i32" 43], opts := semOpts }]] ++
  ["MXEPI.S", "MXEPI.SZ", "MXEPI.SZB"].map (fun n =>
    [{ name := n, slots := [accE, tE 38, .num 31 7 1 64, .num 24 7 1 64], opts := semOpts }]) ++
  ["MXRD.F32", "MXRD.BF16", "MXRD.F16", "MXRD.I32"].map (fun n =>
    [{ name := n, slots := [tE 38, accE, .num 31 7 1 64, .num 24 7 1 64],
       opts := semOpts ++ [.round 22, .sat 21] }]) ++
  [[{ name := "MXWR", slots := [accE, tE 38], opts := semOpts }]] ++
  fCopy "CPG2L" [] ++ fCopy "CPL2G" [] ++ fCopy "CPL2L" [uns 17 4] ++
  [[{ name := "CPMETA", slots := [.reg .mdq 20 1 0 0 1, gC 38, .num 13 7 1 64], opts := copyOpts }],
   [{ name := "CPBC", slots := [.num 1 16 1 65535, gC 43, gC 38, gC 33], opts := copyOpts }],
   [{ name := "CPFILL.L", slots := [gC 43, gC 38, gC 33], opts := copyOpts }],
   [{ name := "CPFILL.G", slots := [gC 43, gC 38, gC 33], opts := copyOpts }]]

/-- A semaphore of an IMM40 word (R364). -/
abbrev semI : Slot := .reg .sem 32 8 0 1 255

/-- A barrier of an IMM40 word (R326). -/
abbrev tbI : Slot := .reg .tb 34 6 0 0 63

/-- Class 6. -/
def forms6 : List (List Form) :=
  ["SEMSIG", "SEMWAIT"].flatMap (fun n => [[plainForm n [semI, .num 0 16 1 65535]], [plainForm n [semI, gAt 40]]]) ++
  [[plainForm "SEMGET" [gAt 48, semI]],
   [plainForm "BAREXP" [tbI, uns 0 34], plainForm "BAREXP" [tbI, gAt 40]],
   [plainForm "BARWAIT" [tbI, uns 0 1], plainForm "BARWAIT" [tbI, gAt 40]],
   [plainForm "BARTEST" [gAt 48, tbI, uns 0 1], plainForm "BARTEST" [gAt 48, tbI, gAt 40]],
   [plainForm "GBAR" []]] ++
  ["ADD", "AND", "OR", "XOR", "MIN", "MAX", "SWAP"].flatMap (fun o => [".W", ".D"].map (fun z =>
    [{ name := "ATOM." ++ o ++ z, slots := [gAt 48, gAt 40, gAt 32], opts := [.wait, .alloc, .acq, .rel] }])) ++
  ["ATCAS.W", "ATCAS.D"].map (fun n =>
    [{ name := n, slots := [gAt 48, gAt 40, gAt 32, gAt 16], opts := [.wait, .alloc, .acq, .rel] }]) ++
  ["ACCT.F32", "ACCT.BF16", "ACCT.I32", "ACCT.D.F32", "ACCT.D.BF16", "ACCT.D.I32"].map (fun n =>
    [plainForm n [gAt 40, gAt 32, .reg .acc 20 4 0 0 15, .num 13 7 1 64, .num 6 7 1 64]]) ++
  [[plainForm "FLUSHRES" [], { plainForm "FLUSHRES" [gAt 40] with fixed := [(0, 1)] }]] ++
  ["EQ", "NE", "LT", "GE", "LTU", "GEU"].map (fun c =>
    [{ name := "WAITA." ++ c, slots := [gAt 48, gAt 40, gAt 32, gAt 16], opts := [.wait, .acq],
       fixed := [(8, 0x40)] },
     { name := "WAITA." ++ c, slots := [gAt 48, gAt 40, gAt 32, gAt 16, gAt 8], opts := [.wait, .acq] }]) ++
  ["ACQ", "REL", "AR"].flatMap (fun k => ["CORE", "GANG", "CHIP", "SYS"].map (fun z =>
    [plainForm ("FENCE." ++ k ++ "." ++ z) []])) ++
  [[plainForm "FUTRES" [gAt 40, gAt 32]], [plainForm "FUTWAIT" [gAt 48, gAt 40]]]

/-- The block source of EQPUSH: a tile register or a load-queue head, no ring depth (R85). -/
abbrev blockSrc : Slot := .src 40

/-- Class 7. -/
def forms7 : List (List Form) :=
  [[plainForm "TSUBMIT" [gAt 48, gAt 40]], [plainForm "TSUBMIT.F" [gAt 48, gAt 40, gAt 32]],
   [plainForm "DLSET" [gAt 40, gAt 32], plainForm "DLSET" [gAt 48, gAt 40, gAt 32]],
   [plainForm "DLCHK" [gAt 48]], [plainForm "STEPEND" []], [plainForm "FRPUT" [gAt 48]],
   [plainForm "FRPUB" [gAt 40]], [plainForm "FRGET" [gAt 48]], [plainForm "FRREL" [gAt 40]],
   [plainForm "KVAPP" [gAt 48]], [plainForm "KVPIN" [gAt 40]], [plainForm "KVUNPIN" [gAt 40]],
   [{ name := "EQPUSH", slots := [.reg .eq 21 3 0 0 5, blockSrc, .num 18 2 0 2, uns 6 6, uns 12 6],
      opts := [.wait, .strictA, .fstart] }]] ++
  [[plainForm "PWRACQ" [uns 0 3]], [plainForm "PWRACQ" [gAt 40]], [plainForm "PWRREL" []]] ++
  ["LKSEND", "LKRED.F32", "LKRED.BF16", "LKRED.I32"].map (fun n => [plainForm n [gAt 40, gAt 32, gAt 16]]) ++
  [[plainForm "CSRR" [gAt 48, .csr]], [plainForm "CSRW" [.csr, gAt 40]], [plainForm "CSRS" [.csr, gAt 40]],
   [plainForm "CSRC" [.csr, gAt 40]], [plainForm "TIME" [gAt 48]]]

/-- The forms of a class with their opcodes. -/
def classForms (c : Nat) (l : List (List Form)) : List (Nat × Form) :=
  (l.zipIdx).flatMap (fun (fs, i) => fs.map (fun f => (0x40 * c + i, f)))

/-- Every form with its opcode (R102). -/
def allForms : List (Nat × Form) :=
  classForms 0 forms0 ++ classForms 1 forms1 ++ classForms 2 forms2 ++ classForms 3 forms3 ++
  classForms 4 forms4 ++ classForms 5 forms5 ++ classForms 6 forms6 ++ classForms 7 forms7

/-- The forms of a mnemonic. -/
def formsOf (m : String) : List (Nat × Form) := allForms.filter (fun p => decide (p.2.name = m))

/-- A whole mnemonic. -/
def isMnemonic (m : String) : Bool := allForms.any (fun p => decide (p.2.name = m))

/-- The word before the first period. -/
def stem (m : String) : String := String.ofList (m.toList.takeWhile (fun c => c != '.'))

/-- A reserved name (R25): a register or other numbered name, a format, a section word, `row` and `col`, a mnemonic, a
CSR. -/
def reserved (s : String) : Bool :=
  (regOf s).isSome || (fmtOf s).isSome || (sectionWord s).isSome || s = "row" || s = "col" || (csrOf s).isSome ||
  allForms.any (fun p => decide (stem p.2.name = s))

/-! ### Operands (R27 to R29) -/

/-- Where a word stands: its section, its word address, and the values and the branch targets of names. -/
structure Site where
  sec : SeqId
  here : Nat
  look : Option SeqId → String → Ev Word
  target : Option SeqId → String → Ev (SeqId × Nat)
  range : SeqId → Nat × Nat

/-- The register that an operand names. -/
def argReg : Arg → Option Reg
  | .ex (.name none s) => regOf s
  | _ => none

/-- An operand is of the kind that a slot takes; E12 for `ring` or `ringd` in a place of another, else E10. -/
def Slot.fits (z : Slot) (a : Arg) : Except Code Unit :=
  let ok (b : Bool) : Except Code Unit := if b then .ok () else .error .e10
  match a with
  | .flt _ _ => .error .e05
  | .two _ _ => .error .e01
  | .ex e =>
    match argReg a with
    | some r =>
      if r.kind = .ring then
        (match z with
          | .dst => if r.n = 0 then .ok () else .error .e12
          | .srcA => if r.n = 0 then .error .e12 else .ok ()
          | _ => .error .e12)
      else
        (match z with
          | .reg k _ _ _ _ _ => ok (decide (r.kind = k))
          | .dst => ok (decide (r.kind = .t ∨ r.kind = .sq))
          | .srcA | .src _ => ok (decide (r.kind = .t ∨ r.kind = .lq))
          | .csr => ok (decide (r.kind = .jt))
          | _ => .error .e10)
    | none =>
      (match z with
        | .num _ _ _ _ | .nsp | .csr => .ok ()
        | .target _ _ _ => (match e with | .name _ _ => .ok () | _ => .error .e01)
        | .flag w _ => ok (decide (e = .name none w))
        | _ => .error .e10)

/-- Every operand fits its slot. -/
def Form.fits (f : Form) (args : List Arg) : Except Code Unit :=
  (f.slots.zip args).forM (fun (z, a) => z.fits a)

/-- The forms with the right number of operands. -/
def sized (fs : List (Nat × Form)) (args : List Arg) : List (Nat × Form) :=
  fs.filter (fun p => decide (p.2.slots.length = args.length))

/-- The form that the operands choose (R102): the first that they fit, else the diagnostic of the last tried. -/
def chooseForm (fs : List (Nat × Form)) (args : List Arg) : Except Code (Nat × Form) :=
  match fs with
  | [] => .error .e01
  | [p] =>
    (match p.2.fits args with
      | .ok _ => .ok p
      | .error c => .error c)
  | p :: more =>
    match p.2.fits args with
    | .ok _ => .ok p
    | .error _ => chooseForm more args

/-- A set of bits of the word: position, width and value. -/
abbrev Bits := Nat × Nat × Nat

/-- The low bits of a value. -/
def lowBits (width : Nat) (v : Int) : Nat := (v % (2 ^ width)).toNat

/-- A value in a range, as the bits of a field (R27). -/
def ranged (pos width : Nat) (lo hi : Int) (v : Int) : Ev (List Bits) :=
  if lo ≤ v ∧ v ≤ hi then .ok [(pos, width, lowBits width v)] else .error (.err .e11)

/-- The value of an operand that is an expression. -/
def Site.value (x : Site) (a : Arg) : Ev Word :=
  match a with
  | .ex e => e.eval x.look
  | _ => .error (.err .e05)

/-- The bits that an operand fills. -/
def Slot.fill (x : Site) (z : Slot) (a : Arg) : Ev (List Bits) :=
  match z, argReg a with
  | .reg _ pos width base lo hi, some r =>
    if lo ≤ r.n ∧ r.n ≤ hi then .ok [(pos, width, base + r.n)] else .error (.err .e10)
  | .dst, some r =>
    (match r.kind with
      | .sq => .ok [(48, 8, 0x38 + r.n)]
      | .ring => .ok []
      | _ => .ok [(48, 8, r.n)])
  | .srcA, some r =>
    (match r.kind with
      | .lq => .ok [(40, 8, 0x30 + r.n)]
      | .ring => .ok [(68, 3, r.n)]
      | _ => .ok [(40, 8, r.n)])
  | .src pos, some r => .ok [(pos, 8, if r.kind = .lq then 0x30 + r.n else r.n)]
  | .csr, _ =>
    (match a with
      | .ex (.name none s) =>
        (match csrOf s with
          | some n => .ok [(0, 12, n)]
          | none => do ranged 0 12 0 0xFFF (← x.value a).toInt)
      | _ => do ranged 0 12 0 0xFFF (← x.value a).toInt)
  | .num pos width lo hi, none => do ranged pos width lo hi (← x.value a).toInt
  | .nsp, none => do
    let v ← x.value a
    if v.toNat % 8 = 0 then ranged 19 3 0 7 ((v.toNat / 8 : Nat) - 1 : Int) else .error (.err .e11)
  | .target width lo hi, none =>
    (match a with
      | .ex (.name q s) => do
        let (sec, addr) ← x.target q s
        if sec = x.sec then ranged 0 width lo hi ((addr : Int) - x.here) else .error (.err .e13)
      | _ => .error (.err .e01))
  | .flag _ pos, none => .ok [(pos, 1, 1)]
  | _, _ => .error (.err .e10)

/-! ### Options (R26, R30) -/

/-- The scoreboard tag that an option's argument names. -/
def argTag (a : Arg) : Except Code Nat :=
  match argReg a with
  | some ⟨.tag, n⟩ => .ok n
  | _ => .error .e14

/-- The expression that an option's argument is. -/
def argExpr (a : Arg) : Except Code Expr :=
  match a, argReg a with
  | .ex e, none => .ok e
  | _, _ => .error .e14

/-- The field that an option fills, of those that the form's options may fill, and its bits. -/
def Opt.fill (x : Site) (fs : List OptField) (o : Opt) : Ev (OptField × List Bits) :=
  let plain (f : OptField) (b : List Bits) : Ev (OptField × List Bits) :=
    if o.args = [] ∧ fs.contains f then .ok (f, b) else .error (.err .e14)
  let strict (v : Nat) : Ev (OptField × List Bits) :=
    match o.args with
    | [.ex (.name none s)] =>
      if s = "a" ∧ fs.contains .strictA then .ok (.strictA, [(31, 1, v)])
      else if s = "b" ∧ fs.contains .strictB then .ok (.strictB, [(30, 1, v)])
      else .error (.err .e14)
    | _ => .error (.err .e14)
  let valued (f : OptField) (pos width : Nat) (lo hi : Int) : Ev (OptField × List Bits) :=
    match o.args with
    | [a] =>
      if fs.contains f then
        match argExpr a with
        | .ok e => do pure (f, ← ranged pos width lo hi (← e.eval x.look).toInt)
        | .error c => .error (.err c)
      else .error (.err .e14)
    | _ => .error (.err .e14)
  let rounding (v : Nat) : Ev (OptField × List Bits) :=
    match fs.findSome? (fun f => match f with | .round p => some p | _ => none) with
    | some p => plain (.round p) [(p, 3, v)]
    | none => .error (.err .e14)
  match o.word with
  | "wait" =>
    if fs.contains .wait ∧ 1 ≤ o.args.length ∧ o.args.length ≤ 8 then
      match o.args.mapM argTag with
      | .ok ts => .ok (.wait, [(56, 8, (ts.foldl (fun (m : BitVec 8) t => m ||| (1 <<< t)) 0).toNat)])
      | .error c => .error (.err c)
    else .error (.err .e14)
  | "alloc" =>
    (match o.args with
      | [a] =>
        if fs.contains .alloc then
          match argTag a with
          | .ok n => .ok (.alloc, [(64, 4, 8 + n)])
          | .error c => .error (.err c)
        else .error (.err .e14)
      | _ => .error (.err .e14))
  | "bar" =>
    (match o.args with
      | [a] =>
        (match argReg a with
          | some ⟨.tb, n⟩ =>
            if fs.contains .bar then .ok (.bar, [(27, 1, 1), (21, 6, n)]) else .error (.err .e14)
          | _ => .error (.err .e14))
      | _ => .error (.err .e14))
  | "ring" => plain .ring [(24, 2, 1)]
  | "ringonly" => plain .ring [(24, 2, 2)]
  | "block" => strict 1
  | "trap" => strict 0
  | "rtz" => rounding 1
  | "rdn" => rounding 2
  | "rup" => rounding 3
  | "sat" =>
    (match fs.findSome? (fun f => match f with | .sat p => some p | _ => none) with
      | some p => plain (.sat p) [(p, 1, 1)]
      | none => .error (.err .e14))
  | "acq" => plain .acq [(27, 1, 1)]
  | "rel" => plain .rel [(26, 1, 1)]
  | "wsem" => valued .wsem 56 8 1 255
  | "ssem" => valued .ssem 48 8 1 255
  | "cb" => valued .cb 23 3 0 7
  | "zero" => plain .zero [(31, 1, 1)]
  | "rsum" => plain .rsum [(30, 1, 1)]
  | "fstart" => plain .fstart [(20, 1, 1)]
  | "keep" => plain .keep [(0, 1, 1)]
  | _ => .error (.err .e14)

/-- No field is filled twice (R30). `:block a` and `:block b` fill two fields, so both may stand: the model takes them for
two options (DESIGN CHOICE, log 62). -/
def distinct : List OptField → Bool
  | [] => true
  | f :: fs => !fs.contains f && distinct fs

/-- The destination that the operands name. -/
def destOf (f : Form) (args : List Arg) : Option Reg :=
  match f.slots, args with
  | .dst :: _, a :: _ => argReg a
  | _, _ => none

/-- The rules that bind options to the destination: `:alloc` takes no ring write (E15) and needs a g or T register,
`ring` stands exactly with `:ringonly` or its code 0x00 (R28, R84), and `:keep` and VFILL need a tile register
(R389, R392). -/
def optRules (f : Form) (opts : List (OptField × List Bits)) (dst : Option Reg) : Option Code :=
  let has (x : OptField) : Bool := opts.any (fun p => decide (p.1 = x))
  let only : Bool := opts.any (fun p => decide (p = (.ring, [(24, 2, 2)])))
  if has .alloc && has .ring then some .e15
  else
    match dst with
    | none => none
    | some r =>
      if f.name = "VFILL" && only then some .e14
      else if r.kind = .ring then (if only then none else some .e12)
      else if only && decide (r ≠ ⟨.t, 0⟩) then some .e10
      else if f.name = "VFILL" && decide (r.kind = .sq) then some .e10
      else if r.kind = .sq && (has .alloc || has .keep) then some .e14
      else none

/-! ### The word -/

/-- The word of an opcode and sets of bits. -/
def wordOf (opc : Nat) (bs : List Bits) : Word80 :=
  bs.foldl (fun w (pos, width, v) => w ||| BitVec.ofNat 80 ((v % 2 ^ width) * 2 ^ pos)) (BitVec.ofNat 80 (opc * 2 ^ 71))

/-- The limits that depend on the section (R57, R110, R375): FORK's target lies in the section of its sequencer, RDV
names its own sequencer, a token word names another, an address generator belongs to its sequencer. -/
def siteRules (x : Site) (i : Instr) : Option Code :=
  let agOk (a : Fin 16) : Bool := match x.sec with | .l => decide (a.val < 8) | _ => decide (8 ≤ a.val)
  match i with
  | .fork _ q t =>
    let (first, count) := x.range q
    if first ≤ t.toNat ∧ t.toNat < first + count then none else some .e13
  | .rdv _ m => if (m >>> (seqCode x.sec).toNat).getLsbD 0 then none else some .e11
  | .tksig _ q _ | .tkwait _ q _ => if q = x.sec then some .e11 else none
  | .agset _ a _ _ | .agget _ _ a _ | .sadv _ a _ => if agOk a then none else some .e10
  | _ => none

/-- The word of an instruction at its place (R27 to R30). A float literal stands nowhere in it (R24), and a ring name in
no option (R28). A word that would raise ILLEGAL-FIELD draws E11. -/
def assembleWord (x : Site) (m : String) (args : List Arg) (opts : List Opt) : Ev Word80 :=
  if (args ++ opts.flatMap (·.args)).any Arg.isFloat then .error (.err .e05)
  else if (opts.flatMap (·.args)).any Arg.isRing then .error (.err .e12)
  else
  match chooseForm (sized (formsOf m) args) args with
  | .error c => .error (.err c)
  | .ok (opc, f) =>
    if !permitted (BitVec.ofNat 9 opc) x.sec then .error (.err .e17)
    else do
      let ops ← (f.slots.zip args).mapM (fun (z, a) => z.fill x a)
      let os ← opts.mapM (fun o => o.fill x f.opts)
      if !distinct (os.map (·.1)) then .error (.err .e14)
      else
        match optRules f os (destOf f args) with
        | some c => .error (.err c)
        | none =>
          let strict : List Bits :=
            if f.opts.contains .strictA && !(os.any (fun o => decide (o.1 = .strictA))) then [(31, 1, 1)] else []
          let w := wordOf opc (f.fixed.map (fun (p, v) => (p, 80, v)) ++ ops.flatten ++ os.flatMap (·.2) ++ strict)
          match decodeWord w with
          | none => .error (.err .e11)
          | some i =>
            match siteRules x i with
            | some c => .error (.err c)
            | none => .ok w

end Sys2Proof.Voas
end

