-- ==== Sys2Proof/Machine/Voas.lean ====
section
/-! DEFINITION. The voas assembler: sections and symbols (R31 to R34), directives (R35 to R40), the image (R44, R45), the
diagnostics (R46) and the loader of streams (R41).

`assemble` takes the bytes of a source file to its messages and, when none is an error, the bytes of its image. -/

namespace Sys2Proof.Voas

open Sys2Proof.Machine

/-! ### Directives (R35 to R40) -/

/-- The data directives with one value an operand (R37). -/
inductive DataKind where
  | byte | half | word | dword | fp32 | bf16 | fp8e4
  deriving DecidableEq, Repr

/-- A directive. -/
inductive Dir where
  | sect (q : SeqId)
  | task (name : String) (gang : Expr) (ranges : List (String × Bool))
  | entry (q : Option SeqId) (name : String)
  | equ (name : String) (e : Expr)
  | set (name : String) (e : Expr)
  | align (e : Expr)
  | table (name : String) (label : Expr) (targets : List (Option SeqId × String))
  | data (e : Expr)
  | values (k : DataKind) (args : List Arg)
  | q4 (args : List Expr)
  | space (n fill : Expr)
  | tile (n : Nat) (shape : Expr) (fill : Arg)
  | ring (name : String) (slots bytes : Expr)
  | kvwin (name : String) (pages bytes : Expr)
  | stream (name : String) (period prio : Expr) (ring kvwin : String)
  | rung (steps res interp work : Expr)
  deriving DecidableEq, Repr

/-- An identifier argument. -/
def argName : Arg → Except Code String
  | .ex (.name none s) => .ok s
  | _ => .error .e01

/-- A label argument, bare or qualified. -/
def argLabel : Arg → Except Code (Option SeqId × String)
  | .ex (.name q s) => .ok (q, s)
  | _ => .error .e01

/-- An expression argument. -/
def argEx : Arg → Except Code Expr
  | .ex e => .ok e
  | .flt _ _ => .error .e05
  | .two _ _ => .error .e01

/-- A range operand of `.task`. A ring name in it draws E12 (R28). The grammar takes any pair of identifiers here, and R35 gives
no code to one whose second word is neither `read` nor `write`: it draws E01, which is the model's choice (log 62). -/
def argRange : Arg → Except Code (String × Bool)
  | .two s m =>
    if m = "read" then .ok (s, false) else if m = "write" then .ok (s, true) else .error (if isRing m then .e12 else .e01)
  | .ex e => .error (if e.usesRing then .e12 else .e01)
  | .flt _ _ => .error .e01

/-- An operand of a data directive. -/
def argValue : Arg → Except Code Arg
  | .two _ _ => .error .e01
  | a => .ok a

/-- The kind of a data directive. -/
def dataKind (s : String) : Option DataKind :=
  if s = "byte" then some .byte else if s = "half" then some .half else if s = "word" then some .word
  else if s = "dword" then some .dword else if s = "fp32" then some .fp32 else if s = "bf16" then some .bf16
  else if s = "fp8e4" then some .fp8e4 else none

/-- A directive from its name and arguments; a wrong number of arguments or an unknown name draws E01. -/
def dirOf (name : String) (args : List Arg) : Except Code Dir :=
  match sectionWord name, dataKind name with
  | some q, _ => if args = [] then .ok (.sect q) else .error .e01
  | none, some k => if args = [] then .error .e01 else do pure (.values k (← args.mapM argValue))
  | none, none =>
    match name, args with
    | "task", n :: g :: rs => do pure (.task (← argName n) (← argEx g) (← rs.mapM argRange))
    | "entry", [l] => do
      let (q, s) ← argLabel l
      pure (.entry q s)
    | "equ", [n, e] => do pure (.equ (← argName n) (← argEx e))
    | "set", [n, e] => do pure (.set (← argName n) (← argEx e))
    | "align", [e] => do pure (.align (← argEx e))
    | "table", n :: l :: t :: ts => do pure (.table (← argName n) (← argEx l) (← (t :: ts).mapM argLabel))
    | "data", [e] => do pure (.data (← argEx e))
    | "q4", a :: as => do pure (.q4 (← (a :: as).mapM argEx))
    | "space", [n] => do pure (.space (← argEx n) (.lit 0))
    | "space", [n, f] => do pure (.space (← argEx n) (← argEx f))
    | "tile", [t, e, f] =>
      (match argReg t with
        | some ⟨.t, n⟩ => do pure (.tile n (← argEx e) (← argValue f))
        | some ⟨.ring, _⟩ => .error .e12
        | some _ => .error .e10
        | none => .error (if t.isFloat then .e05 else .e10))
    | "ring", [n, a, b] => do pure (.ring (← argName n) (← argEx a) (← argEx b))
    | "kvwin", [n, a, b] => do pure (.kvwin (← argName n) (← argEx a) (← argEx b))
    | "stream", [n, p, q, r, w] => do
      pure (.stream (← argName n) (← argEx p) (← argEx q) (← argName r) (← argName w))
    | "rung", [a, b, c, d] => do pure (.rung (← argEx a) (← argEx b) (← argEx c) (← argEx d))
    | _, _ => .error .e01

/-- A directive, where a float literal stands only in a float operand (R24), and a ring name is no name of a task (R28). -/
def parseDir (name : String) (args : List Arg) : Except Code Dir :=
  let floats : Bool := name = "tile" || ((dataKind name).isSome && args ≠ [])
  if args.any Arg.isFloat && !floats then .error .e05
  else if name = "task" && (args.take 1).any Arg.isRing then .error .e12
  else dirOf name args

/-! ### Lines in their places (R31, R37) -/

/-- Where a line stands: in no section, in a section, or in a data block. -/
inductive Place where
  | nowhere
  | code (q : SeqId)
  | block (k : Nat)
  deriving DecidableEq, Repr

/-- What a line holds; `bad` names its directive, if it is one that cannot be read. -/
inductive Node where
  | none
  | instr (mnemonic : String) (args : List Arg) (opts : List Opt)
  | dir (d : Dir)
  | bad (dir : String) (c : Code)
  deriving DecidableEq, Repr

/-- A line: its number, place, label and contents. -/
structure Item where
  line : Nat
  place : Place
  label : Option String
  node : Node
  deriving DecidableEq, Repr

/-- Read one line. -/
def readLine (raw : List Char) : Option String × Node :=
  match lineTokens raw with
  | .error c => (none, .bad "" c)
  | .ok ts =>
    let (l, s) := parseLine isMnemonic isRing ts
    match s with
    | .none => (l, .none)
    | .instr m as os => (l, .instr m as os)
    | .bad c => (l, .bad (match ts with | .dir d :: _ => d | _ => "") c)
    | .dir n as =>
      (match parseDir n as with
        | .ok d => (l, .dir d)
        | .error c => (l, .bad n c))

/-- The lines in their places; `blocks` counts the data blocks opened so far. A label on the line of a section directive or
of `.data` stands before the directive and belongs to the place before it (DESIGN CHOICE, log 62). -/
def locate : Nat → Nat → Place → List (Option String × Node) → List Item
  | _, _, _, [] => []
  | line, blocks, p, (l, n) :: rest =>
    let it : Item := { line := line, place := p, label := l, node := n }
    match n with
    | .dir (.sect q) => it :: locate (line + 1) blocks (.code q) rest
    | .dir (.data _) => it :: locate (line + 1) (blocks + 1) (.block blocks) rest
    | _ => it :: locate (line + 1) blocks p rest

/-- A line that no LF ends does not match the grammar. -/
def items (src : List Byte) : List Item :=
  let (ls, rest) := splitLines src
  locate 1 0 .nowhere (ls.map readLine ++ (if rest = [] then [] else [(none, .bad "" .e01)]))

/-! ### Symbols (R33, R34) -/

/-- The kinds of symbols, in the order of their codes (R45). -/
inductive SymKind where
  | const | codeLabel | dataLabel | range | table | ring | window | stream
  deriving DecidableEq, Repr

/-- The code of a kind. -/
def SymKind.code : SymKind → Nat
  | .const => 0 | .codeLabel => 1 | .dataLabel => 2 | .range => 3 | .table => 4 | .ring => 5 | .window => 6
  | .stream => 7

/-- Where a symbol's value comes from: the address of its line, an expression, or a fixed number. -/
inductive Source where
  | addr
  | expr (e : Expr)
  | num (n : Nat)
  deriving DecidableEq, Repr

/-- A symbol; `scope` is the section of a code label, and `set` marks a `.set` name. -/
structure Sym where
  name : String
  scope : Option SeqId
  kind : SymKind
  set : Bool
  item : Item
  source : Source
  val : Ev Word

/-- The symbol that a name stands for at a line: a `.set` name is the latest above it. -/
def findSym (syms : List Sym) (it : Item) (q : Option SeqId) (n : String) : Option Sym :=
  let inSection (s : SeqId) : Option Sym := syms.find? (fun y => decide (y.scope = some s ∧ y.name = n))
  match q with
  | some s => inSection s
  | none =>
    match (match it.place with | .code s => inSection s | _ => none) with
    | some y => some y
    | none => (syms.filter (fun y => decide (y.scope = none ∧ y.name = n) && (!y.set || decide (y.item.line < it.line)))).getLast?

/-- The value of a name at a line. -/
def lookAt (syms : List Sym) (it : Item) (q : Option SeqId) (n : String) : Ev Word :=
  match findSym syms it q n with
  | none => .error (.err (missing q n))
  | some y =>
    match y.val with
    | .ok v => .ok v
    | .error .wait => .error .wait
    | .error _ => .error .quiet

/-- The value of an expression at a line. -/
def evalAt (syms : List Sym) (it : Item) (e : Expr) : Ev Word := e.eval (lookAt syms it)

/-! ### Layout (R31, R32, R35, R37) -/

/-- `n` is a power of two from 1 to `top`. -/
def powerUpTo (top n : Nat) : Bool := (List.range 13).any (fun k => decide (2 ^ k = n)) && decide (n ≤ top)

/-- The next multiple of `n`. -/
def roundUp (n a : Nat) : Nat := if n = 0 then a else (a + n - 1) / n * n

/-- The position after padding; a bad `.align` pads nothing and draws its diagnostic elsewhere. -/
def padded (top a : Nat) (n : Ev Word) : Ev Nat :=
  match n with
  | .ok v => if powerUpTo top v.toNat then .ok (roundUp v.toNat a) else .ok a
  | .error .wait => .error .wait
  | .error _ => .ok a

/-- The word address after a line of a code section. -/
def afterCode (syms : List Sym) (it : Item) (a : Nat) : Ev Nat :=
  match it.node with
  | .instr _ _ _ => .ok (a + 1)
  | .dir (.table _ _ ts) => .ok (a + ts.length)
  | .dir (.align e) => padded 64 a (evalAt syms it e)
  | _ => .ok a

/-- The bytes of one value (R37). -/
def DataKind.size : DataKind → Nat
  | .byte | .fp8e4 => 1
  | .half | .bf16 => 2
  | .word | .fp32 => 4
  | .dword => 8

/-- The address after a line of a data block. -/
def afterData (syms : List Sym) (it : Item) (a : Nat) : Ev Nat :=
  match it.node with
  | .dir (.values k as) => .ok (a + k.size * as.length)
  | .dir (.q4 as) => .ok (a + (as.length + 1) / 2)
  | .dir (.space n _) =>
    (match evalAt syms it n with
      | .ok v => .ok (if v.toNat ≤ 0x180000 then a + v.toNat else a)
      | .error .wait => .error .wait
      | .error _ => .ok a)
  | .dir (.align e) => padded 4096 a (evalAt syms it e)
  | _ => .ok a

/-- The addresses of the lines of one section from its first word, and the address after it. -/
def walkCode (syms : List Sym) (q : SeqId) : Ev Nat → List Item → List (Nat × Ev Nat) × Ev Nat
  | a, [] => ([], a)
  | a, it :: rest =>
    if it.place = .code q then
      let (l, e) := walkCode syms q (a.bind (afterCode syms it)) rest
      ((it.line, a) :: l, e)
    else walkCode syms q a rest

/-- The addresses of the lines of the data blocks; a block starts at the value of its `.data`. -/
def walkData (syms : List Sym) : Ev Nat → List Item → List (Nat × Ev Nat)
  | _, [] => []
  | a, it :: rest =>
    match it.node, it.place with
    | .dir (.data e), _ =>
      let start : Ev Nat := (evalAt syms it e).map (·.toNat)
      (match it.place with | .block _ => [(it.line, a)] | _ => []) ++ walkData syms start rest
    | _, .block _ => (it.line, a) :: walkData syms (a.bind (afterData syms it)) rest
    | _, _ => walkData syms a rest

/-- The addresses of the lines, and the first word and the end of each section in the order of R32. -/
structure Layout where
  addrs : List (Nat × Ev Nat)
  bounds : List (Ev Nat × Ev Nat)

/-- Lay out the four sections with no gap, and the data blocks. -/
def layout (syms : List Sym) (its : List Item) : Layout :=
  let (a0, e0) := walkCode syms .c (.ok 0) its
  let (a1, e1) := walkCode syms .l e0 its
  let (a2, e2) := walkCode syms .x e1 its
  let (a3, e3) := walkCode syms .s e2 its
  { addrs := a0 ++ a1 ++ a2 ++ a3 ++ walkData syms (.error .quiet) its,
    bounds := [(.ok 0, e0), (e0, e1), (e1, e2), (e2, e3)] }

/-- The address of a line. -/
def Layout.addr (l : Layout) (line : Nat) : Ev Nat :=
  match l.addrs.find? (fun p => decide (p.1 = line)) with
  | some p => p.2
  | none => .error .quiet

/-! ### Definitions -/

/-- A stream-table directive makes one record. -/
def isRecord : Node → Bool
  | .dir (.ring _ _ _) | .dir (.kvwin _ _ _) | .dir (.stream _ _ _ _ _) | .dir (.rung _ _ _ _) => true
  | _ => false

/-- The symbols that a line defines; `records` counts the stream-table records before it. -/
def defines (records : Nat) (it : Item) : List Sym :=
  let image (n : String) (k : SymKind) (s : Source) (st : Bool) : Sym :=
    { name := n, scope := none, kind := k, set := st, item := it, source := s, val := .error .wait }
  let label : List Sym :=
    match it.label, it.place with
    | some n, .code q =>
      [{ name := n, scope := some q, kind := .codeLabel, set := false, item := it, source := .addr, val := .error .wait }]
    | some n, .block _ => [image n .dataLabel .addr false]
    | _, _ => []
  label ++
  (match it.node with
    | .dir (.equ n e) => [image n .const (.expr e) false]
    | .dir (.set n e) => [image n .const (.expr e) true]
    | .dir (.table n _ _) => [image n .table .addr false]
    | .dir (.task _ _ rs) => rs.zipIdx.map (fun (r, i) => image r.1 .range (.num i) false)
    | .dir (.ring n _ _) => [image n .ring (.num records) false]
    | .dir (.kvwin n _ _) => [image n .window (.num records) false]
    | .dir (.stream n _ _ _ _) => [image n .stream (.num records) false]
    | _ => [])

/-- The symbols of all lines, in order. -/
def definitions : Nat → List Item → List Sym
  | _, [] => []
  | records, it :: rest => defines records it ++ definitions (if isRecord it.node then records + 1 else records) rest

/-- One round: every symbol takes the value that the symbols of the round before give it. -/
def round (its : List Item) (syms : List Sym) : List Sym :=
  let l := layout syms its
  syms.map (fun y =>
    match y.val with
    | .error .wait =>
      { y with val :=
          match y.source with
          | .addr => (l.addr y.item.line).map (BitVec.ofNat 64)
          | .expr e => evalAt syms y.item e
          | .num n => .ok (BitVec.ofNat 64 n) }
    | _ => y)

/-- The symbols that still wait. -/
def waiting (syms : List Sym) : Nat :=
  (syms.filter (fun y => match y.val with | .error .wait => true | _ => false)).length

/-- Rounds until none changes: a symbol that still waits depends on itself (E09). -/
def resolve (its : List Item) : Nat → List Sym → List Sym
  | 0, syms => syms
  | n + 1, syms =>
    let next := round its syms
    if waiting next = waiting syms then next else resolve its n next

/-! ### Diagnostics of symbols (R25, R33, R34) -/

/-- Two symbols may not stand together (R33). -/
def clash (a b : Sym) : Bool :=
  decide (a.name = b.name) && !(a.set && b.set) && (decide (a.scope = b.scope) || a.scope.isNone || b.scope.isNone)

/-- E06 and E07 of the symbols, each against those before it. -/
def symbolDiags : List Sym → List Sym → List Diag
  | _, [] => []
  | before, y :: rest =>
    (if reserved y.name then [⟨y.item.line, .e06⟩] else []) ++
    (if before.any (clash y) then [⟨y.item.line, .e07⟩] else []) ++ symbolDiags (before ++ [y]) rest

/-- The diagnostic of a value that is not there. -/
def Stop.codes : Stop → List Code
  | .err c => [c]
  | .wait => [.e09]
  | .quiet => []

/-- What evaluation gives, with its diagnostics. -/
def outcome {α : Type} (d : α) (x : Ev α) : α × List Code :=
  match x with
  | .ok a => (a, [])
  | .error s => (d, s.codes)

/-- The names that a line uses; the letter of `:block` or `:trap` and the word of a flag are none. -/
def Node.names : Node → List (Option SeqId × String)
  | .none | .bad _ _ => []
  | .instr m as os =>
    let flag (p : Option SeqId × String) : Bool := (formsOf m).any (fun f => f.2.slots.any (fun z =>
      match z with | .flag w _ => decide (p = (Option.none, w)) | _ => false))
    ((as.flatMap argNames).filter (fun p => !flag p)) ++
    (os.filter (fun o => o.word != "block" && o.word != "trap")).flatMap (fun o => o.args.flatMap argNames)
  | .dir d =>
    match d with
    | .sect _ => []
    | .task _ g _ => g.names
    | .entry q s => [(q.or (some .c), s)]
    | .equ _ e | .set _ e | .align e | .data e => e.names
    | .table _ l ts => l.names ++ ts
    | .values _ as => as.flatMap argNames
    | .q4 es => es.flatMap Expr.names
    | .space n f => n.names ++ f.names
    | .tile _ e f => e.names ++ argNames f
    | .ring _ a b | .kvwin _ a b => a.names ++ b.names
    | .stream _ p q r w => p.names ++ q.names ++ [(Option.none, r), (Option.none, w)]
    | .rung a b c d => a.names ++ b.names ++ c.names ++ d.names
where
  /-- The names in an argument. -/
  argNames : Arg → List (Option SeqId × String)
    | .ex e => e.names
    | _ => []

/-- W01: the labels that no line uses. -/
def unusedDiags (its : List Item) (syms : List Sym) : List Diag :=
  let used : List (Nat × String) :=
    its.flatMap (fun it => it.node.names.filterMap (fun (q, n) =>
      (findSym syms it q n).map (fun y => (y.item.line, y.name))))
  syms.filterMap (fun y =>
    if (decide (y.kind = .codeLabel) || decide (y.kind = .dataLabel)) && !used.contains (y.item.line, y.name)
    then some ⟨y.item.line, .w01⟩ else none)

/-! ### Code (R27 to R36) -/

/-- A branch target: a code label and its section (R29). -/
def targetAt (syms : List Sym) (it : Item) (q : Option SeqId) (n : String) : Ev (SeqId × Nat) :=
  match findSym syms it q n with
  | none => .error (.err (missing q n))
  | some y =>
    match y.scope, y.val with
    | some s, .ok v => .ok (s, v.toNat)
    | some _, .error .wait => .error .wait
    | some _, .error _ => .error .quiet
    | none, _ => .error (.err .e13)

/-- The bounds of a section as its first word and count. -/
def Layout.range (l : Layout) (q : SeqId) : Nat × Nat :=
  match l.bounds.getD (seqNum q) (.error .quiet, .error .quiet) with
  | (.ok a, .ok e) => (a, e - a)
  | _ => (0, 0)

/-- The NOP word, the pad of `.align`. -/
def nopWord : Word80 := wordOf 0x04D []

/-- The word of an instruction on its line. -/
def instrAt (syms : List Sym) (l : Layout) (it : Item) (q : SeqId) (m : String) (as : List Arg) (os : List Opt) :
    Ev Word80 := do
  let here ← l.addr it.line
  assembleWord { sec := q, here := here, look := lookAt syms it, target := targetAt syms it, range := l.range } m as os

/-- A ctl line at a word address holds LPAD with a label. -/
def landing (its : List Item) (syms : List Sym) (l : Layout) (addr : Nat) (label : Nat) : Bool :=
  its.any (fun it =>
    match it.node with
    | .instr m as os =>
      decide (it.place = .code .c) && (match l.addr it.line with | .ok a => decide (a = addr) | _ => false) &&
      (match instrAt syms l it .c m as os with
        | .ok w => (match decodeWord w with | some (.lpad _ x) => decide (x.toNat = label) | _ => false)
        | _ => false)
    | _ => false)

/-- The words of a `.table` (R35, R36). -/
def tableWords (its : List Item) (syms : List Sym) (l : Layout) (it : Item) (label : Expr)
    (ts : List (Option SeqId × String)) : List Word80 × List Code :=
  let (lab, c0) := outcome 0 (evalAt syms it label)
  let c1 := if c0 = [] ∧ 0xFFFF < lab.toNat then [.e11] else []
  let c2 : List Code := if 4096 < ts.length then [.e11] else []
  let entry (t : Option SeqId × String) : Word80 × List Code :=
    match findSym syms it t.1 t.2 with
    | none => (0, [missing t.1 t.2])
    | some y =>
      match y.scope, y.val with
      | some .c, .ok v =>
        (BitVec.ofNat 80 v.toNat, if landing its syms l v.toNat lab.toNat then [] else [.e21])
      | _, .ok _ => (0, [.e21])
      | _, .error s => (0, match s with | .wait => [.e09] | _ => [])
  let es := ts.map entry
  (es.map (·.1), c0 ++ c1 ++ c2 ++ es.flatMap (·.2))

/-- The words of a line and its diagnostics. -/
def codeOf (its : List Item) (syms : List Sym) (l : Layout) (it : Item) : List Word80 × List Code :=
  match it.node with
  | .instr m as os =>
    (match it.place with
      | .code q =>
        let (w, cs) := outcome 0 (instrAt syms l it q m as os)
        ([w], cs)
      | _ => ([], [.e16]))
  | .dir (.table _ lab ts) =>
    if it.place = .code .c then tableWords its syms l it lab ts else ([], [.e16])
  | .dir (.align e) =>
    (match it.place with
      | .code _ =>
        (match evalAt syms it e, l.addr it.line with
          | .ok v, .ok a =>
            if powerUpTo 64 v.toNat then (List.replicate (roundUp v.toNat a - a) nopWord, []) else ([], [.e11])
          | .error s, _ => ([], s.codes)
          | _, .error s => ([], s.codes))
      | .block _ => ([], [])
      | .nowhere => ([], [.e16]))
  | _ => ([], [])

/-! ### Data (R37, R38) -/

/-- A decimal value as an exact value, or one that lies on the same side of every rounding boundary of the formats:
the low bit of its magnitude stands for the part that is cut off. -/
def decimalValue (neg : Bool) (n : Nat) (e : Int) : FVal :=
  if 0 ≤ e then .fin neg (n * 10 ^ e.toNat) 0
  else
    let d := 10 ^ (-e).toNat
    let s := Nat.log2 d + 200
    let q := n * 2 ^ s / d
    .fin neg (2 * q + (if n * 2 ^ s % d = 0 then 0 else 1)) (-(s : Int) - 1)

/-- The pattern of a finite value rounded to nearest even; none beyond the largest finite value (E24). -/
def finitePattern (f : Fmt) (v : FVal) : Option Nat :=
  match f.float, v with
  | some (eb, mb), .fin neg m e =>
    if m = 0 then some (withSign f neg 0)
    else
      let x := magPattern eb mb (roundMag .rne neg eb mb m e)
      if f.largest < x then none else some (withSign f neg x)
  | _, _ => none

/-- The pattern of a float literal (R38). R38 gives `nan` the canonical NaN; `-nan` gives the same (DESIGN CHOICE, log 62). -/
def floatPattern (f : Fmt) (neg : Bool) (x : FloatLit) : Ev Nat :=
  match x with
  | .nan => .ok f.qnan
  | .inf => if f = .e4m3 then .error (.err .e24) else .ok (withSign f neg f.infinity)
  | .dec n e =>
    match finitePattern f (decimalValue neg n e) with
    | some p => .ok p
    | none => .error (.err .e24)

/-- The format of the float literals of a directive. -/
def DataKind.fmt : DataKind → Option Fmt
  | .fp32 => some .f32
  | .bf16 => some .bf16
  | .fp8e4 => some .e4m3
  | _ => none

/-- The bytes of one value (R37). -/
def valueBytes (syms : List Sym) (it : Item) (k : DataKind) (a : Arg) : Ev (List Byte) :=
  let n := k.size
  match a with
  | .flt neg x =>
    (match k.fmt with
      | some f => do pure (leBytes n (← floatPattern f neg x))
      | none => .error (.err .e05))
  | .two _ _ => .error (.err .e01)
  | .ex e => do
    let v ← evalAt syms it e
    if k = .dword ∨ (-(2 ^ (8 * n - 1) : Int) ≤ v.toInt ∧ v.toInt < 2 ^ (8 * n)) then pure (leBytes n v.toNat)
    else .error (.err .e11)

/-- The values of a directive with W02 for each that is not aligned. -/
def valuesBytes (syms : List Sym) (it : Item) (k : DataKind) : Nat → List Arg → List Byte × List Code
  | _, [] => ([], [])
  | a, x :: xs =>
    let (b, cs) := outcome (List.replicate k.size 0) (valueBytes syms it k x)
    let (bs, more) := valuesBytes syms it k (a + k.size) xs
    (b ++ bs, (if a % k.size = 0 then [] else [.w02]) ++ cs ++ more)

/-- A nibble of `.q4`. -/
def nibbleOf (syms : List Sym) (it : Item) (e : Expr) : Ev Nat := do
  let v ← evalAt syms it e
  if -8 ≤ v.toInt ∧ v.toInt ≤ 7 then pure (lowBits 4 v.toInt) else .error (.err .e11)

/-- The bytes of a line in a data block, from its address. -/
def bytesAt (syms : List Sym) (it : Item) (a : Nat) (d : Dir) : List Byte × List Code :=
  match d with
  | .values k as => valuesBytes syms it k a as
  | .q4 es =>
    let ns := es.map (fun e => outcome 0 (nibbleOf syms it e))
    (nibblesToBytes (ns.map (·.1)), ns.flatMap (·.2))
  | .space n f =>
    let (nv, c0) := outcome 0 (evalAt syms it n)
    let (fb, c1) := outcome [0] (valueBytes syms it .byte (.ex f))
    if nv.toNat ≤ 0x180000 then ((List.replicate nv.toNat fb).flatten, c0 ++ c1) else ([], .e11 :: c0 ++ c1)
  | .align e =>
    (match evalAt syms it e with
      | .ok v => if powerUpTo 4096 v.toNat then (List.replicate (roundUp v.toNat a - a) 0, []) else ([], [.e11])
      | .error s => ([], s.codes))
  | _ => ([], [])

/-- A directive that appends bytes to the current block. -/
def Dir.appends : Dir → Bool
  | .values _ _ | .q4 _ | .space _ _ => true
  | _ => false

/-- The bytes of a line and its diagnostics. -/
def dataOf (syms : List Sym) (l : Layout) (it : Item) : List Byte × List Code :=
  match it.node, it.place with
  | .dir d, .block _ =>
    (match l.addr it.line with
      | .ok a => bytesAt syms it a d
      | .error s => ([], if d.appends then s.codes else []))
  | .dir d, _ => ([], if d.appends then [.e16] else [])
  | _, _ => ([], [])

/-- A data block: the line of its `.data`, its start and its bytes. -/
structure DataBlock where
  line : Nat
  start : Ev Nat
  bytes : List Byte

/-- The data blocks in order. -/
def dataBlocks (syms : List Sym) (l : Layout) : Option DataBlock → List Item → List DataBlock
  | cur, [] => cur.toList
  | cur, it :: rest =>
    match it.node with
    | .dir (.data e) =>
      cur.toList ++
        dataBlocks syms l (some { line := it.line, start := (evalAt syms it e).map (·.toNat), bytes := [] }) rest
    | _ =>
      match it.place, cur with
      | .block _, some b => dataBlocks syms l (some { b with bytes := b.bytes ++ (dataOf syms l it).1 }) rest
      | _, _ => dataBlocks syms l cur rest

/-- The diagnostics of the blocks: outside the scratchpad (E22), or sharing a byte with an earlier one (E23). -/
def blockDiags : List (Nat × Nat) → List DataBlock → List Diag
  | _, [] => []
  | seen, b :: rest =>
    match b.start with
    | .error s => s.codes.map (fun c => ⟨b.line, c⟩) ++ blockDiags seen rest
    | .ok a =>
      let e := a + b.bytes.length
      (if 0x17FFFF < a ∨ 0x180000 < e then [⟨b.line, .e22⟩] else []) ++
      (if seen.any (fun p => decide (p.1 < e) && decide (a < p.2) && decide (p.1 < p.2) && decide (a < e))
        then [⟨b.line, .e23⟩] else []) ++
      blockDiags ((a, e) :: seen) rest

/-! ### Tiles (R39) -/

/-- The checks of a shape word for a register: E11, or E25 by its size or a pair on an odd register. -/
def shapeCheck (n : Nat) (v : Word) : Option Code :=
  let sc := (v >>> 24).toNat % 256
  let rows := v.toNat % 128
  let cols := (v >>> 8).toNat % 128
  let pair := v.getLsbD 20
  let fits : Bool :=
    match Fmt.ofCode ((v >>> 16).toNat % 16) with
    | some f => decide (tileBytes f rows cols ≤ (if pair then 16384 else 8192))
    | none => true
  if v.toNat / 2 ^ 32 ≠ 0 ∨ (v >>> 21).toNat % 8 ≠ 0 ∨ v.getLsbD 15 ∨ v.getLsbD 7 ∨ rows = 0 ∨ 64 < rows ∨ cols = 0 ∨
      64 < cols ∨ (Fmt.ofCode ((v >>> 16).toNat % 16)).isNone ∨ sc = n ∨ (48 ≤ sc ∧ sc ≠ 255) then some .e11
  else if (pair && decide (n % 2 = 1)) || !fits then some .e25
  else none

/-- The range of an integer fill (R39). -/
def fillRange (f : Fmt) : Int × Int :=
  match f with
  | .q4x => (-7, 7)
  | .l16 => (0, 15)
  | _ => (-(2 ^ (f.bits - 1)), 2 ^ (f.bits - 1) - 1)

/-- One element of a tile's fill. -/
def fillElem (syms : List Sym) (it : Item) (f : Fmt) (fill : Arg) (row col : Nat) : Ev Nat :=
  match fill with
  | .flt neg x => if f.float.isSome then floatPattern f neg x else .error (.err .e05)
  | .two _ _ => .error (.err .e01)
  | .ex e => do
    let look (q : Option SeqId) (s : String) : Ev Word :=
      if q = none ∧ s = "row" then .ok (BitVec.ofNat 64 row)
      else if q = none ∧ s = "col" then .ok (BitVec.ofNat 64 col)
      else lookAt syms it q s
    let v ← e.eval look
    match f.float with
    | some _ =>
      (match finitePattern f (.ofInt v.toInt) with
        | some p => pure p
        | none => .error (.err .e24))
    | none =>
      let (lo, hi) := fillRange f
      if lo ≤ v.toInt ∧ v.toInt ≤ hi then pure (lowBits f.bits v.toInt) else .error (.err .e11)

/-- A tile: its register, shape word and element bytes. -/
def tileOf (syms : List Sym) (it : Item) (n : Nat) (shape : Expr) (fill : Arg) : Ev (Nat × Word × List Byte) := do
  let v ← evalAt syms it shape
  match shapeCheck n v with
  | some c => .error (.err c)
  | none =>
    match shapeOf n v with
    | none => .error (.err .e11)
    | some sh =>
      let rows ← (List.range sh.rows).mapM (fun r =>
        (List.range sh.cols).mapM (fun c => fillElem syms it sh.fmt fill r c))
      pure (n, v, packTile sh.fmt rows)

/-- The registers that a tile sets. -/
def tileRegs (t : Nat × Word × List Byte) : List Nat := if t.2.1.getLsbD 20 then [t.1, t.1 + 1] else [t.1]

/-- The tiles in order, with their diagnostics; a register given twice draws E07. -/
def tilesOf (syms : List Sym) : List Nat → List Item → List (Nat × Word × List Byte) × List Diag
  | _, [] => ([], [])
  | seen, it :: rest =>
    match it.node with
    | .dir (.tile n e f) =>
      (match tileOf syms it n e f with
        | .ok t =>
          let (ts, ds) := tilesOf syms (tileRegs t ++ seen) rest
          (t :: ts, (if (tileRegs t).any (fun r => seen.contains r) then [⟨it.line, .e07⟩] else []) ++ ds)
        | .error s =>
          let (ts, ds) := tilesOf syms (n :: seen) rest
          (ts, s.codes.map (fun c => ⟨it.line, c⟩) ++ ds))
    | _ => tilesOf syms seen rest

/-! ### Streams (R40) -/

/-- A stream-table record: its kind, its name, which a rung has not, and its further operands (R45). -/
structure Record where
  kind : Nat
  name : Option String
  ops : List Nat
  deriving DecidableEq, Repr

/-- A number in a range. -/
def limited (syms : List Sym) (it : Item) (lo hi : Nat) (e : Expr) : Ev Nat := do
  let v ← evalAt syms it e
  if lo ≤ v.toNat ∧ v.toNat ≤ hi then pure v.toNat else .error (.err .e11)

/-- The record index of a named ring or window. -/
def recordNamed (syms : List Sym) (it : Item) (k : SymKind) (n : String) : Ev Nat :=
  match findSym syms it none n with
  | none => .error (.err (missing none n))
  | some y => if y.kind = k then (y.val.map (·.toNat)) else .error (.err .e11)

/-- The record of a stream-table directive. -/
def recordOf (syms : List Sym) (it : Item) (d : Dir) : Ev Record :=
  match d with
  | .ring n a b => do
    let s ← limited syms it 2 16 a
    let z ← limited syms it 4096 1048576 b
    if z % 4096 = 0 then pure ⟨1, some n, [s, z]⟩ else .error (.err .e11)
  | .kvwin n a b => do
    let p ← limited syms it 1 16 a
    let z ← limited syms it (2 ^ 26) (2 ^ 30) b
    if 2 ^ Nat.log2 z = z then pure ⟨2, some n, [p, z]⟩ else .error (.err .e11)
  | .stream n p q r w => do
    let period ← limited syms it 1 (2 ^ 32 - 1) p
    let prio ← limited syms it 0 63 q
    pure ⟨3, some n, [period, prio, ← recordNamed syms it .ring r, ← recordNamed syms it .window w]⟩
  | .rung a b c d => do
    let steps ← limited syms it 1 255 a
    let res ← limited syms it 0 15 b
    let interp ← limited syms it 1 4 c
    let work ← limited syms it 1 (2 ^ 32 - 1) d
    if interp = 3 then .error (.err .e11) else pure ⟨4, none, [steps, res, interp, work]⟩
  | _ => .error .quiet

/-- The records in order with their diagnostics. `cur` is the line of the latest `.stream` and its rungs so far. -/
def recordsOf (syms : List Sym) : Option (Nat × Nat) → List Item → List Record × List Diag
  | cur, [] =>
    ([], match cur with | some (line, 0) => [⟨line, .e26⟩] | _ => [])
  | cur, it :: rest =>
    match it.node with
    | .dir d =>
      if isRecord it.node then
        let (r, cs) := outcome ⟨0, none, []⟩ (recordOf syms it d)
        let (cur', extra) : Option (Nat × Nat) × List Diag :=
          match d with
          | .stream _ _ _ _ _ =>
            (some (it.line, 0), match cur with | some (line, 0) => [⟨line, .e26⟩] | _ => [])
          | .rung _ _ _ _ =>
            (match cur with
              | some (line, k) => (some (line, k + 1), if 8 ≤ k then [⟨it.line, .e26⟩] else [])
              | none => (none, [⟨it.line, .e26⟩]))
          | _ => (cur, [])
        let (rs, ds) := recordsOf syms cur' rest
        (r :: rs, cs.map (fun c => ⟨it.line, c⟩) ++ extra ++ ds)
      else recordsOf syms cur rest
    | .bad n _ => recordsOf syms (if n = "stream" then some (it.line, 1) else cur) rest
    | _ => recordsOf syms cur rest

/-! ### `.task` and `.entry` (R35) -/

/-- The `.task` directives: the line, the name, the gang size, the ranges, and whether it stands before every section. -/
def tasksOf : Bool → List Item → List (Item × String × Expr × List (String × Bool) × Bool)
  | _, [] => []
  | late, it :: rest =>
    match it.node with
    | .dir (.task n g rs) => (it, n, g, rs, late) :: tasksOf late rest
    | .dir (.sect _) => tasksOf true rest
    | _ => tasksOf late rest

/-- The task's name, gang size and ranges, with the diagnostics E20 and E11; a missing `.task` is reported on line 1. -/
def taskOf (syms : List Sym) (its : List Item) : (String × Nat × List (String × Bool) × Nat) × List Diag :=
  match tasksOf false its with
  | [] =>
    let unread : Bool := its.any (fun it => match it.node with | .bad n _ => decide (n = "task") | _ => false)
    (("", 1, [], 1), if unread then [] else [⟨1, .e20⟩])
  | (it, n, g, rs, late) :: more =>
    let (v, cs) := outcome 1 (limited syms it 1 16 g)
    ((n, v, rs, it.line),
      (if late then [⟨it.line, .e20⟩] else []) ++ cs.map (fun c => ⟨it.line, c⟩) ++
      (if 4 < rs.length then [⟨it.line, .e11⟩] else []) ++ more.map (fun p => ⟨p.1.line, .e20⟩))

/-- The entry word address with E20 (R35). -/
def entryOf (syms : List Sym) (its : List Item) : Nat × List Diag :=
  let es := its.filterMap (fun it => match it.node with | .dir (.entry q n) => some (it, q, n) | _ => none)
  match es with
  | [] => (0, [])
  | (it, q, n) :: more =>
    let dup : List Diag := more.map (fun p => ⟨p.1.line, .e20⟩)
    match (if q.getD .c = .c then findSym syms it (some .c) n else none) with
    | some y =>
      (match y.val with
        | .ok v => (v.toNat, dup)
        | .error .wait => (0, ⟨it.line, .e09⟩ :: dup)
        | .error _ => (0, dup))
    | none => (0, ⟨it.line, if q = none && isRing n then .e12 else .e20⟩ :: dup)

/-! ### The image (R44, R45) -/

/-- What an image holds. -/
structure Parts where
  name : String
  gang : Nat
  entry : Nat
  sections : List (List Word80)
  blocks : List (Nat × List Byte)
  tiles : List (Nat × Word × List Byte)
  ranges : List (String × Bool)
  records : List Record
  symbols : List (String × Nat × Nat × Word)

/-- A zero-terminated string. -/
def stringBytes (s : String) : List Byte := s.toList.map (fun c => BitVec.ofNat 8 c.toNat) ++ [0]

/-- The offset of a string among strings that stand one after another. -/
def stringAt (l : List String) (s : String) : Nat :=
  match l with
  | [] => 0
  | t :: ts => if t = s then 0 else t.length + 1 + stringAt ts s

/-- Records with the offset of each one's element bytes, which stand one after another from `off`. -/
def placed {α : Type} (len : α → Nat) : Nat → List α → List (Nat × α)
  | _, [] => []
  | off, x :: xs => (off, x) :: placed len (off + len x) xs

/-- The section table of a header, from the sizes of the sections (R32). -/
def sectionTable : Nat → List Nat → List Byte
  | _, [] => []
  | first, n :: ns => leBytes 4 first ++ leBytes 4 n ++ sectionTable (first + n) ns

/-- The bytes of an image: the header, the code, the tables in the order of the header, the strings and the element
region. Every offset counts from the image start, those of strings too (R44). The operands of a stream-table record stand
in the order of R40, the name first, as the offset of its string (R45; DEDUCED, log 63). -/
def Parts.bytes (p : Parts) : List Byte :=
  let words := p.sections.flatten
  let code := words.flatMap (fun w => leBytes 10 w.toNat)
  let strings := p.name :: p.symbols.map (·.1)
  let str (off : Nat) (n : String) : List Byte := leBytes 4 (off + stringAt strings n)
  let strs := strings.flatMap stringBytes
  let codeOff := 128
  let dataOff := codeOff + code.length
  let tileOff := dataOff + 16 * p.blocks.length
  let rangeOff := tileOff + 24 * p.tiles.length
  let recOff := rangeOff + 8 * p.ranges.length
  let symOff := recOff + 32 * p.records.length
  let strOff := symOff + 16 * p.symbols.length
  let elemOff := strOff + strs.length
  let elems := p.blocks.flatMap (·.2) ++ p.tiles.flatMap (·.2.2)
  let blocks := placed (fun b : Nat × List Byte => b.2.length) elemOff p.blocks
  let tiles := placed (fun t : Nat × Word × List Byte => t.2.2.length) (elemOff + (p.blocks.flatMap (·.2)).length) p.tiles
  let pair (a b : Nat) : List Byte := leBytes 4 a ++ leBytes 4 b
  let header :=
    [0x56, 0x4F, 0x49, 0x4D] ++ leBytes 2 1 ++ leBytes 2 0 ++ leBytes 1 p.gang ++ leBytes 1 p.ranges.length ++
    leBytes 2 0 ++ leBytes 4 p.entry ++ sectionTable 0 (p.sections.map List.length) ++ pair codeOff code.length ++
    pair dataOff p.blocks.length ++ pair tileOff p.tiles.length ++ pair rangeOff p.ranges.length ++
    pair recOff p.records.length ++ pair symOff p.symbols.length ++ pair strOff strs.length ++ str strOff p.name ++
    pair elemOff elems.length ++ leBytes 12 0
  header ++ code ++
  blocks.flatMap (fun (o, a, b) => leBytes 4 a ++ leBytes 4 b.length ++ leBytes 4 o ++ leBytes 4 0) ++
  tiles.flatMap (fun (o, n, v, b) =>
    leBytes 1 n ++ leBytes 3 0 ++ leBytes 8 v.toNat ++ leBytes 4 o ++ leBytes 4 b.length ++ leBytes 4 0) ++
  p.ranges.flatMap (fun (n, w) => str strOff n ++ leBytes 1 (if w then 1 else 0) ++ leBytes 3 0) ++
  p.records.flatMap (fun r =>
    let ops := (r.name.map (str strOff)).toList ++ r.ops.map (leBytes 4)
    leBytes 1 r.kind ++ leBytes 3 0 ++ ops.flatten ++ leBytes (4 * (7 - ops.length)) 0) ++
  p.symbols.flatMap (fun (n, k, q, v) =>
    str strOff n ++ leBytes 1 k ++ leBytes 1 q ++ leBytes 2 0 ++ leBytes 8 v.toNat) ++
  strs ++ elems

/-- The symbol records: a `.set` name has one, with its last value. -/
def symbolRecords : List Sym → List (String × Nat × Nat × Word)
  | [] => []
  | y :: rest =>
    if y.set && rest.any (fun z => decide (z.name = y.name ∧ z.set = true)) then symbolRecords rest
    else
      (y.name, y.kind.code, (match y.scope with | some q => seqNum q | none => 255),
        (match y.val with | .ok v => v | .error _ => 0)) :: symbolRecords rest

/-! ### The assembler -/

/-- Insert a message behind those of its line and of the lines before. -/
def insertDiag (d : Diag) : List Diag → List Diag
  | [] => [d]
  | e :: es => if d.line < e.line then d :: e :: es else e :: insertDiag d es

/-- The messages in the order of their lines. -/
def sortDiags (ds : List Diag) : List Diag := ds.foldl (fun acc d => insertDiag d acc) []

/-- The diagnostics of the values of `.equ` and `.set`. -/
def constDiags (syms : List Sym) : List Diag :=
  syms.flatMap (fun y =>
    match y.source, y.val with
    | .expr _, .error s => s.codes.map (fun c => ⟨y.item.line, c⟩)
    | _, _ => [])

/-- A label that stands in no section and no data block draws E16, and a line that cannot be read its own code. -/
def lineDiags (it : Item) : List Diag :=
  (match it.node with | .bad _ c => [⟨it.line, c⟩] | _ => []) ++
  (if it.label.isSome && decide (it.place = .nowhere) then [⟨it.line, .e16⟩] else [])

/-- The messages of a source and what its image holds. -/
def analyse (src : List Byte) : List Diag × Parts :=
  let its := items src
  let defs := definitions 0 its
  let syms := resolve its (defs.length + 2) defs
  let l := layout syms its
  let codes := its.map (fun it => (it, codeOf its syms l it))
  let section_ (q : SeqId) : List Word80 :=
    codes.flatMap (fun (it, ws, _) => if it.place = .code q then ws else [])
  let blocks := dataBlocks syms l none its
  let (tiles, tileDiags) := tilesOf syms [] its
  let (records, recDiags) := recordsOf syms none its
  let ((name, gang, ranges, taskLine), taskDiags) := taskOf syms its
  let (entry, entryDiags) := entryOf syms its
  let sections := [section_ .c, section_ .l, section_ .x, section_ .s]
  let empty : List Diag :=
    if (sections.headD []).length = 0 ∧ ranges ≠ [] then [⟨taskLine, .w03⟩] else []
  let ds :=
    its.flatMap lineDiags ++ symbolDiags [] syms ++ constDiags syms ++
    codes.flatMap (fun (it, _, cs) => cs.map (fun c => ⟨it.line, c⟩)) ++
    its.flatMap (fun it => (dataOf syms l it).2.map (fun c => ⟨it.line, c⟩)) ++
    blockDiags [] blocks ++ tileDiags ++ recDiags ++ taskDiags ++ entryDiags ++ unusedDiags its syms ++ empty
  (sortDiags ds,
    { name := name, gang := gang, entry := entry, sections := sections,
      blocks := blocks.map (fun b => ((outcome 0 b.start).1, b.bytes)), tiles := tiles, ranges := ranges,
      records := records, symbols := symbolRecords syms })

/-- `voas` (R44, R46): the messages of a source file, and its image when none of them is an error. -/
def assemble (src : List Byte) : List Diag × Option (List Byte) :=
  let (ds, p) := analyse src
  (ds, if ds.all (fun d => d.code.warning) then some p.bytes else none)

/-- A message as it reads, `file:line:column: code: text` (R46); `i` is its place among the messages of the source. -/
def Diag.message (file : String) (src : List Byte) (d : Diag) (i : Nat) : String :=
  file ++ ":" ++ toString d.line ++ ":" ++ toString (Config.diagColumn src i) ++ ": " ++ d.code.text ++ ": " ++
    Config.diagText src i

/-- The messages of a source file (R46). -/
def messages (file : String) (src : List Byte) : List String :=
  (assemble src).1.zipIdx.map (fun p => p.1.message file src p.2)

/-- The exit status of `voas` (R46). -/
def status (src : List Byte) : Nat := if (assemble src).2.isSome then 0 else 1

/-! ### The loader (R41, R45) -/

/-- The loader takes an image: its header agrees with its tables, every offset and length lies inside it, and nothing
follows its furthest region. -/
def loaderAccepts (img : List Byte) : Bool :=
  (parseImage (img.take 128) img).isSome && decide (imageEnd (img.take 128) = img.length)

/-- What the host program that creates a stream gives the loader (R41); EVQ and KVBASE have no default. -/
structure StreamHost where
  evq : Option Word
  kvbase : Option Word
  enc : Option (Fin 6 × Fin 8) := none
  rung : Fin 8 := 0

/-- The stream-table records of an image: their kinds and their operands without the name. -/
def imageRecords (img : List Byte) : List (Nat × List Nat) :=
  (records img (nat4 img 0x50) 32 (nat4 img 0x54)).map (fun r =>
    let kind := (r.headD 0).toNat
    (kind, (List.range 4).map (fun k => nat4 r (4 + 4 * (if kind = 4 then k else k + 1)))))

/-- The rung records that follow a stream's record. -/
def rungsAfter (rs : List (Nat × List Nat)) : List (Nat × List Nat) :=
  (rs.takeWhile (fun r => decide (r.1 ≠ 3))).filter (fun r => decide (r.1 = 4))

/-- The SD word of a rung (R242). -/
def rungWord (r : Nat × List Nat) : Word :=
  let interp := if r.2.getD 2 0 = 4 then 2 else if r.2.getD 2 0 = 2 then 1 else 0
  BitVec.ofNat 64 (r.2.getD 3 0 * 2 ^ 32 + r.2.getD 0 0 * 2 ^ 16 + r.2.getD 1 0 * 2 ^ 8 + interp)

/-- The stream descriptor that the loader writes for the stream of a record (R41, R242); none without EVQ and KVBASE, when
it writes no SD and issues no STREAM-CREATE. An initial RUNG above NRUNG goes into the SD, where R243 refuses it. -/
def streamDescriptor (img : List Byte) (index : Nat) (h : StreamHost) : Option (List Word) :=
  let rs := imageRecords img
  match rs[index]?, h.evq, h.kvbase with
  | some (3, os), some evq, some kvbase =>
    let ring := (rs.getD (os.getD 2 0) (0, [])).2
    let win := (rs.getD (os.getD 3 0) (0, [])).2
    let rungs := rungsAfter (rs.drop (index + 1))
    let s0 := os.getD 0 0 * 2 ^ 32 + os.getD 1 0 * 2 ^ 8 + (rungs.length - 1) * 2 ^ 3 + h.rung.val
    let s2 := (ring.getD 1 0 / 4096) * 2 ^ 16 + (ring.getD 0 0 - 1)
    let s4 := Nat.log2 (win.getD 1 0) * 2 ^ 8 + (win.getD 0 0 - 1)
    let s5 := match h.enc with | some (e, c) => 0x80 + e.val * 16 + c.val | none => 0
    some ([BitVec.ofNat 64 s0, evq, BitVec.ofNat 64 s2, kvbase, BitVec.ofNat 64 s4, BitVec.ofNat 64 s5, 0, 0] ++
      ((rungs.map rungWord) ++ List.replicate (8 - rungs.length) 0).take 8)
  | _, _, _ => none

/-- Where the loader puts a stream's SD, and where it issues the command: the SD's address in host memory and its VA in the
queue's context, the queue, the host address of the entry's slot, the TAIL after it, and the entry's TAG. -/
structure LoaderPlace where
  sd : Nat
  sdVa : Word
  f : Fin 9
  q : Fin 16
  slot : Nat
  tail : BitVec 12
  tag : BitVec 32

/-- The 64 bytes of a STREAM-CREATE entry (R306). -/
def streamCreate (sdVa : Word) (tag : BitVec 32) : List Byte :=
  leBytes 8 (3 * 2 ^ 56 + tag.toNat) ++ leBytes 8 sdVa.toNat ++ List.replicate 48 0

/-- What the loader does for the stream of a record of an image that it accepts: it writes the SD, writes the STREAM-CREATE entry
into its queue and rings the doorbell (R41, R45, R302, R306). None is the omission that it reports to its caller. -/
def loadStream (img : List Byte) (index : Nat) (h : StreamHost) (at_ : LoaderPlace) (s : State) : Option State :=
  (if loaderAccepts img then streamDescriptor img index h else none).map (fun sd =>
    let s1 := s.hostWrites at_.sd (sd.flatMap (fun w => leBytes 8 w.toNat)) (some s.m.h)
    let s2 := s1.hostWrites at_.slot (streamCreate at_.sdVa at_.tag) (some s1.m.h)
    nextOf s2 (execSqdbWrite at_.f at_.q at_.tail s2))

end Sys2Proof.Voas
end

