-- ==== Sys2Proof/Laws/Voas.lean ====
section
/-! SUPPORT. What the assembler's parts can answer: an assembled word decodes and may run on its section's sequencer,
and an image exists exactly when every message is a warning. -/

namespace Sys2Proof.Voas

/-- A word that `voas` writes for an instruction decodes (R26, R83). -/
theorem assembleWord_decodes (x : Site) (m : String) (args : List Arg) (opts : List Opt) {w : Word80}
    (h : assembleWord x m args opts = .ok w) : ∃ i, decodeWord w = some i ∧ siteRules x i = none := by
  unfold assembleWord at h
  split at h
  · cases h
  split at h
  · cases h
  split at h
  · cases h
  · split at h
    · cases h
    · simp only [bind, Except.bind] at h
      split at h
      · cases h
      · split at h
        · cases h
        · split at h
          · cases h
          · split at h
            · cases h
            · split at h
              · cases h
              · rename_i i hi
                split at h
                · cases h
                · rename_i hs
                  cases h
                  exact ⟨i, hi, hs⟩

/-- The mnemonic of an assembled word has a form whose opcode its section's sequencer may run (R31, R101). -/
theorem assembleWord_permitted (x : Site) (m : String) (args : List Arg) (opts : List Opt) {w : Word80}
    (h : assembleWord x m args opts = .ok w) :
    ∃ p, chooseForm (sized (formsOf m) args) args = .ok p ∧ permitted (BitVec.ofNat 9 p.1) x.sec = true := by
  unfold assembleWord at h
  split at h
  · cases h
  split at h
  · cases h
  split at h
  · cases h
  · rename_i opc f hf
    refine ⟨(opc, f), hf, ?_⟩
    split at h
    · cases h
    · rename_i hp
      simpa using hp

/-- There is an image exactly when no message is an error (R44, R46). -/
theorem assemble_isSome (src : List Byte) :
    (assemble src).2.isSome = (assemble src).1.all (fun d => d.code.warning) := by
  unfold assemble
  cases h : (analyse src).1.all (fun d => d.code.warning) <;> simp [h]

end Sys2Proof.Voas
end

