-- ==== Sys2Proof/Tests/Slice0.lean ====
section
/-! SUPPORT. Tests: words of the manual, ill-formed terms that are refused, and for every statement with hypotheses a
state and operands that meet them. -/

namespace Sys2Proof.Tests

set_option Elab.async false

open Sys2Proof Sys2Proof.Machine

/-! ### States to test on -/

/-- A core-task on core 0 whose four sequencers run at word 0. -/
def ct0 : CoreTask :=
  let c := CoreTask.fresh 0
  { c with seqC := Seq.idle.atZero, seqL := Seq.idle.atZero, seqX := Seq.idle.atZero, seqS := Seq.idle.atZero }

/-- A running task of one core-task in context 0. -/
def task0 (c : CoreTask) : Task := { oneWordTask 0 with cts := [(0, c)], budget := 1000 }

/-- The device with that task in slot 0, whose sequencer `q` issues; context 0 sees the low 2 GiB through its heap
window. -/
def dev (q : SeqId) (c : CoreTask) : State :=
  { State.reset with
    cur := { slot := 0, rank := 0, q := q }, tasks := [(0, task0 c)],
    r := { State.reset.r with ctx := [(1, 1024#64 <<< 21)] } }

theorem settleAll_noTags {c : CoreTask} {q : SeqId} (h : (c.seq q).tags = []) (ts : List Nat) :
    c.settleAll q ts = (c, true) := by
  induction ts with
  | nil => rfl
  | cons t ts ih =>
    have h1 : c.settle q t = (c, true) := by
      unfold CoreTask.settle
      rw [h]
      rfl
    simp only [CoreTask.settleAll, h1, ih]
    rfl

theorem landedAll_noTags {c : CoreTask} {q : SeqId} (h : (c.seq q).tags = []) (ts : List Nat) :
    c.landedAll q ts = true := by
  unfold CoreTask.landedAll
  rw [h]
  simp

/-- A sequencer without busy tags that may issue, and whose class may run the word, enters. -/
theorem enters_of {s : State} {t : Task} {c : CoreTask} (u : WordUse) (h : s.canIssue s.cur = some (t, c))
    (ht : (c.seq s.cur.q).tags = []) (hp : u.perm.contains s.cur.q = true) (hl : u.legal = true := by rfl) :
    s.Enters u c := by
  unfold State.Enters enter
  rw [h]
  simp only [hp, hl, Bool.not_true, Bool.false_eq_true, if_false, settleAll_noTags ht]
  rw [if_pos]
  · simp
  · cases u.dst <;> simp [landedAll_noTags ht]

/-- The test device's sequencer enters with every word that its class may run. -/
theorem dev_enters (u : WordUse) (q : SeqId) (hp : u.perm.contains q = true) (hl : u.legal = true := by rfl) :
    (dev q ct0).Enters u ct0 :=
  enters_of u (t := task0 ct0) (by cases q <;> rfl) (by cases q <;> rfl) hp hl

/-! ### States that meet the hypotheses: words, steps, memory, reset -/

theorem witness_DecodeInvertsEncode :
    ∃ i w, i.wf = true ∧ encode i = some w ∧ i = .addImm 0 10 10 100000 ∧ w = 0x0080004A4A00000186A0 :=
  ⟨_, _, by decide, by decide, rfl, rfl⟩

theorem witness_EveryWordHasOneMeaning :
    (∃ i w, decodeWord w = some i ∧ i = .addImm 0 10 10 100000) ∧
    (∃ i w, encodeXumak i = some w ∧ i = .bfxt 10 11 12) ∧ ∃ i, decodeXumak 0x00C5950B = some i :=
  ⟨⟨_, 0x0080004A4A00000186A0, by decide, rfl⟩, ⟨_, _, rfl, rfl⟩, ⟨.bfxt 10 11 12, by decide⟩⟩

theorem witness_WordsAreCheckedForTheirSequencer :
    assigned 0x1FF = false ∧ assigned 0x0FF = false ∧ assigned 0x029 = true ∧ assigned 0x02A = false ∧
    assigned 0x1D8 = true ∧ assigned 0x1D9 = false ∧
    (assigned 0x158 = true ∧ permitted 0x158 .c = true) ∧
    (assigned 0x0C0 = true ∧ permitted 0x0C0 .c = false) ∧
    (assigned (bits (0x0080004A4A00000186A0 : Word80) 71 9) = true ∧ permitted 0x001 .s = true ∧
      decodeWord 0x0080004A4A00000186A0 = some (.addImm 0 10 10 100000)) ∧
    (assigned (bits (0 : Word80) 71 9) = true ∧ permitted 0 .l = true ∧ decodeWord 0 = none) := by decide

/-- Where the clauses of R101 meet: the numbers at their ends are assigned, each under one clause. -/
theorem witness_WordsAreCheckedForTheirSequencer_classes :
    [0x000, 0x029, 0x040, 0x049, 0x04A, 0x04E, 0x053, 0x055, 0x080, 0x08A, 0x08B, 0x095, 0x096, 0x097, 0x098, 0x099,
      0x09A, 0x09B, 0x09C, 0x0C0, 0x0F6, 0x100, 0x124, 0x140, 0x179, 0x180, 0x183, 0x184, 0x186, 0x187, 0x188, 0x1B3,
      0x1C0, 0x1CC, 0x1D4, 0x1D8].all (fun n => assigned (BitVec.ofNat 9 n)) = true := by decide

theorem witness_AStepRunsItsTurn_issue :
    let s := State.reset.withSeqWord 0x0080004A4A00000186A0
    let s1 : State := { s.begin with cur := { slot := 0, rank := 0, q := .c } }
    s.agenda = [.issue 0 0 .c] ∧ ∃ t c, s1.canIssue s1.cur = some (t, c) ∧ t.image.holds .c (c.seq .c).pc.toNat = true ∧
      s1.codeWord t 0 = 0x0080004A4A00000186A0 :=
  ⟨rfl, _, _, rfl, rfl, rfl⟩

theorem witness_AStepRunsItsTurn_stops :
    let s := State.reset.withSeqWord 0x0080004A4A00000186A0
    State.reset.canIssue State.reset.cur = none ∧ (∃ t, s.canIssue s.cur = some (t, ct0) ∧ t.image.holds .c 1 = false) ∧
    permitted 0x0C0 .c = false ∧ decodeWord 0x7F0000000000000001 = none :=
  ⟨rfl, ⟨_, rfl, rfl⟩, rfl, by decide⟩

theorem witness_AStepRunsItsTurn_service :
    let s := State.reset.withSvcWord 0x00C5950B
    s.agenda = [.service 0] ∧ Tab.get none State.reset.service.mem 0 = none ∧
    (∀ k < 4, Tab.get none s.service.mem (s.svcCore.pc + BitVec.ofNat 64 k).toNat =
      some ((0x00C5950B : BitVec 32).extractLsb' (8 * k) 8)) ∧
    decodeXumak 0x00C5950B = some (.bfxt 10 11 12) ∧ ((0x0200000B : BitVec 32) &&& 0x7F = 0x0B) ∧
    decodeXumak 0x0200000B = none ∧ ((0x00000013 : BitVec 32) &&& 3 = 3) ∧ ((0x00000013 : BitVec 32) &&& 0x7F ≠ 0x0B) ∧
    ((0x4501 : BitVec 16) &&& 3 ≠ 3) ∧ (∀ k < 2, Tab.get none (State.reset.withSvcWord 0x4501).service.mem
      ((State.reset.withSvcWord 0x4501).svcCore.pc + BitVec.ofNat 64 k).toNat =
        some ((0x4501 : BitVec 16).extractLsb' (8 * k) 8)) := by
  decide

theorem witness_AStepRunsItsTurn_device :
    (({ State.reset with agenda := [.event .governorTick] } : State).agenda = [.event .governorTick] ∧
      encodeFields .governorTick = none ∧ encodeXumak .governorTick = none) ∧
    encodeFields (.nop 0) ≠ none ∧ encodeXumak (.bfxt 1 2 3) ≠ none ∧ State.reset.agenda = [] := by decide

/-- The reset device with a turn named. -/
def devTurn (x : Turn) : State := { State.reset with agenda := [x] }

/-- Each other turn may be named; an interrupt that is pending and enabled; a task that becomes the head of its level, and one
that does not. -/
theorem witness_AStepRunsItsTurn_turns (x : VfImage) :
    (devTurn (.elapse 5)).agenda = [.elapse 5] ∧ (devTurn (.evict 7)).agenda = [.evict 7] ∧
    (devTurn (.hostRead 0 8)).agenda = [.hostRead 0 8] ∧ (devTurn (.serviceIrq 0 8)).agenda = [.serviceIrq 0 8] ∧
    (devTurn (.guestVps 3 4)).agenda = [.guestVps 3 4] ∧ (devTurn (.walk 1 0 true)).agenda = [.walk 1 0 true] ∧
    (devTurn (.walk 1 0 false)).agenda = [.walk 1 0 false] ∧ (devTurn (.vfExport 3)).agenda = [.vfExport 3] ∧
    (devTurn (.vfImport 3 x)).agenda = [.vfImport 3 x] ∧
    (∃ c : RvCore, ∃ n, c.interrupt = some n) ∧ RvCore.reset.interrupt = none ∧
    ∃ s : State, ∃ t t' : Task, s.task? 0 = some t ∧ s.begin.task? 0 = some t' ∧ find t'.headSince 0 = some 0 ∧
      find t'.headSince 1 = none :=
  ⟨rfl, rfl, rfl, rfl, rfl, rfl, rfl, rfl, rfl,
    ⟨{ RvCore.reset with mstatus := 8, mie := 8, mip := 8 }, _, rfl⟩, rfl,
    { dev .c ct0 with
      tasks := [(0, { task0 ct0 with state := .ready, cts := [], td := [0, 1] })] }, _, _, rfl, rfl, by decide, by decide⟩

/-- A tag of the C-sequencer whose value has landed, or not. -/
def ctTag (landed : Bool) : CoreTask :=
  { ct0 with seqC := { ct0.seqC with tags := [(2, { dest := .g 5, res := .value 9, landed := landed })] } }

theorem witness_WordsEnterAndCommitTags :
    (∃ opc, (Instr.nop 0).opc = some opc) ∧ State.reset.canIssue State.reset.cur = none ∧
    ((dev .c ct0).canIssue (dev .c ct0).cur = some (task0 ct0, ct0) ∧ permitted 0x0C0 .c = false) ∧
    ((dev .c (ctTag false)).canIssue (dev .c (ctTag false)).cur = some (task0 (ctTag false), ctTag false) ∧
      (4 : BitVec 8).getLsbD 2 = true ∧ find ((ctTag false).seq .c).tags 2 =
        some { dest := .g 5, res := .value 9, landed := false }) ∧
    ((dev .c (ctTag true)).canIssue (dev .c (ctTag true)).cur = some (task0 (ctTag true), ctTag true) ∧
      (4 : BitVec 8) = BitVec.ofNat 8 (2 ^ 2) ∧ find ((ctTag true).seq .c).tags 2 =
        some { dest := .g 5, res := .value 9, landed := true }) :=
  ⟨⟨_, rfl⟩, rfl, ⟨rfl, rfl⟩, ⟨rfl, rfl, rfl⟩, ⟨rfl, rfl, rfl⟩⟩

theorem witness_WordsEnterAndCommitTags_enters : (dev .c ct0).Enters (anySeq 4) ct0 := dev_enters _ _ rfl

theorem witness_MemoryReadsBack :
    State.reset.hostOk 100 3 = true ∧
    ({ State.reset with service := { State.reset.service with windows := [] } } : State).hostOk 100 3 = false ∧
    State.reset.MemWf ∧ Memory.wf [(1, 5), (7, 9)] = true := ⟨rfl, rfl, ⟨rfl, rfl⟩, rfl⟩

theorem witness_LocalWordsChangeOnlyTheirCoreTask :
    ∃ opc, (Instr.addImm 0 1 2 3).opc = some opc ∧ localOpcode opc.toNat = true := ⟨_, rfl, rfl⟩

theorem witness_StepsKeepMemoryCanonical :
    ∃ s t : State, s.MemWf ∧ step s = .next t ∧ s.agenda = [.event (.inboundPcieWrite 8 false [1, 2])] :=
  ⟨{ State.reset with agenda := [.event (.inboundPcieWrite 8 false [1, 2])] }, _, ⟨rfl, rfl⟩, rfl, rfl⟩

theorem witness_FeaturesAreFixedOnce :
    (∃ s t : State, ((s.r.featFixed = false → s.r.featw0 = 0) ∧ s.r.featw0 &&& ~~~Config.featOff0 = 0) ∧ step s = .next t) ∧
    ∃ s t : State, s.r.featFixed = true ∧ step s = .next t ∧ ∀ im st cl ch, s.nextTurn ≠ .event (.deviceReset im st cl ch) :=
  ⟨⟨{ State.reset with agenda := [.elapse 1] }, _, ⟨fun _ => rfl, rfl⟩, rfl⟩,
    ⟨{ State.reset with agenda := [.elapse 1], r := { State.reset.r with featFixed := true, featw0 := 5 } }, _, rfl, rfl,
      fun _ _ _ _ h => by cases h⟩⟩

theorem witness_TimePasses :
    (∃ s t : State, step s = .next t ∧ t.dtime ≠ s.dtime) ∧ State.reset.dtime ≤ State.reset.pw.lastTick + 10000 ∧
    (∃ (s : State) (x : Transfer), x ∈ s.ports.out ∧ s.dtime ≤ 256 * x.tick) ∧
    (∃ s : State, ∃ e ∈ s.pw.islands, ∃ p due, e.2.change = some (p, due) ∧ s.dtime ≤ due) ∧
    ((dev .c ct0).task? 0 = some (task0 ct0) ∧ (task0 ct0).state = .running) :=
  ⟨⟨{ State.reset with agenda := [.elapse 1] }, _, rfl, by decide⟩, by decide,
    ⟨{ State.reset with ports := { State.reset.ports with out := [⟨5, 0, 0, 0, 0, 0, none, 0, []⟩] } }, _,
      List.mem_singleton_self _, by decide⟩,
    ⟨{ State.reset with pw := { State.reset.pw with islands := [(0, { Island.reset with change := some (3, 200) })] } }, _,
      List.mem_singleton_self _, 3, 200, rfl, by decide⟩, rfl, rfl⟩

theorem witness_ResetValues : (5 : Nat) < 128 ∧ tqSumsOk State.reset.r.tq 2 = true ∧ (47 : Nat) < 48 := by decide

/-! ### Scalar words, control flow, loads and stores -/

/-- Core-task `ct0` with registers of sequencer `q` set. -/
def ctRegs (q : SeqId) (g : Tab Word) : CoreTask := ct0.updSeq q (fun x => { x with g := g })

theorem witness_ScalarArithmeticAndLogic : (dev .l ct0).Enters (useD 0 5) ct0 ∧ (dev .l ct0).Enters (useRmw 0 5) ct0 ∧
    (dev .c ct0).Enters { perm := allSeqs, cons := 0, alloc := some 3, dst := gDst 5 } ct0 :=
  ⟨dev_enters _ _ rfl, dev_enters _ _ rfl, dev_enters _ _ rfl⟩

theorem witness_ScalarComparesFieldsAndDivision : fieldOk 0 64 = true ∧ fieldOk 63 1 = true ∧ fieldOk 63 2 = false ∧
    (0 : Nat) < 64 ∧ (1 : Word) ≠ 0 := by decide

theorem witness_BranchesCallsAndTraps :
    (dev .c ct0).Enters (anySeq 0) ct0 ∧ ct0.seqC.rets.length < 16 ∧ ct0.seqC.rets = [] ∧
    (∃ c, (dev .x c).Enters (anySeq 0) c ∧ 16 ≤ (c.seq .x).rets.length ∧ ∃ t ts, (c.seq .x).rets = t :: ts) ∧
    (dev .c ct0).ct? (dev .c ct0).cur.slot (dev .c ct0).cur.rank = some ct0 ∧
    ∃ (t : BitVec 32) (e : LoopEntry), t = e.last ∧ e.start.toNat ≤ t.toNat ∧ t.toNat ≤ e.last.toNat ∧
      (e.last.toNat < (t + 1).toNat) :=
  ⟨dev_enters _ _ rfl, by decide, rfl,
    ⟨ct0.updSeq .x (fun q => { q with rets := List.replicate 16 7 }),
      enters_of _ (t := task0 _) rfl rfl rfl, by decide, _, _, rfl⟩,
    rfl, 9, ⟨3, 9, 1⟩, rfl, by decide, by decide, by decide⟩

/-- A core-task inside a loop of `k` passes whose last word is `last`. -/
def ctLoop (last : BitVec 32) (k : Nat) : CoreTask :=
  ct0.updSeq .c (fun q => { q with loops := [{ start := 0, last := last, remaining := k }] })

/-- A core-task whose JT0 has its table at word 1, with bound 1 and label 5. -/
def ctJump : CoreTask := { ct0 with jt := [(0, 0x0005000100000001)] }

/-- The device with three words of code: the word 0, the table's entry `e`, and `w`. -/
def devJump (e w : Word80) : State :=
  { dev .c ctJump with tasks := [(0, { task0 ctJump with
      image := { Image.none with sections := [(0, 3), (0, 0), (0, 0), (0, 0)], code := [(1, e), (2, w)] } })] }

theorem witness_LoopsAndJumpTables :
    ((dev .s ct0).Enters (anySeq 0) ct0 ∧ (dev .c ct0).Enters (cOnly 0) ct0) ∧
    ((dev .c (ctLoop 5 2)).Enters (anySeq 0) (ctLoop 5 2) ∧ (ctLoop 5 2).seqC.pc ≠ 5) ∧
    ((dev .c (ctLoop 0 2)).Enters (anySeq 0) (ctLoop 0 2) ∧ (ctLoop 0 2).seqC.pc = 0) ∧
    (dev .c (ctLoop 0 1)).Enters (anySeq 0) (ctLoop 0 1) ∧
    ∃ c, (dev .c c).Enters (anySeq 0) c ∧ 4 ≤ c.seqC.loops.length :=
  ⟨⟨dev_enters _ _ rfl, dev_enters _ _ rfl⟩, ⟨enters_of _ (t := task0 _) rfl rfl rfl, by decide⟩,
    ⟨enters_of _ (t := task0 _) rfl rfl rfl, by decide⟩, enters_of _ (t := task0 _) rfl rfl rfl,
    ct0.updSeq .c (fun q => { q with loops := List.replicate 4 ⟨0, 9, 2⟩ }), enters_of _ (t := task0 _) rfl rfl rfl,
    by decide⟩

theorem witness_LoopsAndJumpTables_jtbl :
    (∃ t, (devJump 2 0).Enters (cOnly 0) ctJump ∧ (devJump 2 0).task? 0 = some t ∧ t.image.holds .c 1 = true ∧
      t.image.holds .c 2 = true ∧ t.image.holds .c 3 = false) ∧
    (ctJump.seqC.rd 0).toNat < (Tab.get 0 ctJump.jt 0).toNat / 2 ^ 32 % 2 ^ 16 ∧
    (Tab.get 0 ct0.jt 0).toNat / 2 ^ 32 % 2 ^ 16 ≤ (ct0.seqC.rd 0).toNat ∧
    2 ^ 32 ≤ (0x100000000 : Word80).toNat ∧ ((2 : Word80).toNat < 2 ^ 32) ∧
    (∃ w, encode (.lpad 0 5) = some w ∧ decodeWord w = some (.lpad 0 5) ∧ (5 : BitVec 16).toNat = 5) ∧
    decodeWord (0 : Word80) = none := by
  refine ⟨⟨_, enters_of _ (t := _) rfl rfl rfl, rfl, rfl, rfl, rfl⟩, by decide, by decide, by decide, by decide,
    ⟨_, rfl, by decide, rfl⟩, by decide⟩

/-- The device whose context 0 sees the low 2 GiB, running `c`, with image words for every sequencer. -/
def devFork (c : CoreTask) : State :=
  { dev .c c with tasks := [(0, { task0 c with
      image := { Image.none with sections := [(0, 4), (0, 4), (0, 4), (0, 4)], code := [] } })] }

/-- `ct0` with its L-sequencer not started. -/
def ctIdleL : CoreTask := { ct0 with seqL := Seq.idle }

theorem witness_SequencersStartMeetAndEnd :
    (∃ t s1 c1, (devFork ctIdleL).Enters (cOnly 0) ctIdleL ∧ (devFork ctIdleL).task? 0 = some t ∧
      t.image.holds .l 3 = true ∧ t.image.holds .l 4 = false ∧ (ctIdleL.seq .l).status = .idle ∧
      ((devFork ctIdleL).withCur ctIdleL).testRelease (devFork ctIdleL).cur .core = .ready s1 ∧ s1.ct? 0 0 = some c1) ∧
    (ct0.seq .l).status ≠ .idle :=
  ⟨⟨_, _, _, enters_of _ (t := _) rfl rfl rfl, rfl, rfl, rfl, rfl, rfl, rfl⟩, by decide⟩

/-- `ct0` with its L-sequencer at a rendezvous with C. -/
def ctMeet : CoreTask := ct0.updSeq .l (fun q => q.await (.rdv 3) 0 0)

/-- `ct0` with only the C-sequencer left. -/
def ctLast : CoreTask :=
  { ct0 with seqL := Seq.idle, seqX := Seq.idle, seqS := Seq.idle }

theorem witness_SequencersStartMeetAndEnd_meet :
    ((2 : BitVec 4).getLsbD (seqNum .c) = false ∧ ((dev .c ct0).canIssue (dev .c ct0).cur).isSome = true) ∧
    ((dev .c ct0).Enters { anySeq 0 with legal := (3 : BitVec 4).getLsbD (seqNum .c) } ct0 ∧ ct0.rdvMask .c = none ∧
      ctIdleL.rdvBad .c 3 = true ∧ ct0.rdvBad .c 3 = false ∧ ct0.gbarReady = true ∧
      ∃ q ∈ (maskSeqs 3).filter (· ≠ SeqId.c), ct0.rdvMask q ≠ some 3) ∧
    ((dev .c ctMeet).Enters { anySeq 0 with legal := (3 : BitVec 4).getLsbD (seqNum .c) } ctMeet ∧
      (dev .c ctMeet).gangFaulted = false ∧ ctMeet.rdvBad .c 3 = false ∧
      ∀ q ∈ (maskSeqs 3).filter (· ≠ SeqId.c), ctMeet.rdvMask q = some 3) ∧
    (dev .l ct0).Enters (anySeq 0) ct0 ∧ ct0.settleAll .l ((ct0.seq .l).tags.map (·.1)) = (ct0, true) ∧
    ∃ s2, (dev .c ctLast).Enters (anySeq 0) ctLast ∧ ctLast.settleAll .c (ctLast.seqC.tags.map (·.1)) = (ctLast, true) ∧
      ctLast.othersDone = true ∧
      ((((dev .c ctLast).withCur ctLast).withCur ctLast).atStage .delivering).testRelease (dev .c ctLast).cur .sys =
        .ready s2 ∧ s2.successorCheck (dev .c ctLast).cur.slot (dev .c ctLast).cur.rank = .ok :=
  ⟨⟨rfl, rfl⟩, ⟨dev_enters _ _ rfl, by decide, by decide, by decide, by decide, by decide⟩,
    ⟨enters_of _ (t := task0 _) rfl rfl rfl, by decide, by decide, by decide⟩, dev_enters _ _ rfl, rfl,
    _, enters_of _ (t := task0 _) rfl rfl rfl, rfl, by decide, rfl, rfl⟩

/-- `ct0` with 255 tokens on the way from C to L. -/
def ctTokens : CoreTask := { ct0 with tokens := [(tokenKey .c .l, { n := 255, st := 0 })] }

theorem witness_TokensAndBoundaries :
    ((dev .c ct0).canIssue (dev .c ct0).cur).isSome = true ∧
    (∃ s1 c1, (dev .c ct0).Enters { anySeq 0 with legal := decide (SeqId.c ≠ .l) } ct0 ∧ operandValue ct0.seqC (.imm (1 : BitVec 8)) = (1 : Word) ∧
      operandValue ct0.seqC (.imm (255 : BitVec 8)) = (255 : Word) ∧ operandValue ct0.seqC (.reg 0 : Operand 8) = (0 : Word) ∧
      ((dev .c ct0).withCur ct0).testRelease (dev .c ct0).cur .core = .ready s1 ∧ s1.ct? 0 0 = some c1 ∧
      (Tab.get Obj.zero c1.tokens (tokenKey .c .l)).n + 255 ≤ 255) ∧
    (dev .l ctTokens).Enters (anySeq 0) ctTokens ∧ 255 ≤ (Tab.get Obj.zero ctTokens.tokens (tokenKey .c .l)).n ∧
    (Tab.get Obj.zero ct0.tokens (tokenKey .c .l)).n < 1 :=
  ⟨rfl, ⟨_, _, dev_enters _ _ rfl, by decide, by decide, by decide, rfl, rfl, by decide⟩,
    enters_of _ (t := task0 _) rfl rfl rfl, by decide, by decide⟩

/-- `ctLast` whose only running sequencer is C: GRPEND passes at once. -/
theorem witness_TokensAndBoundaries_boundary :
    ct0.boundary .c false = false ∧ (ctLast.boundary .c false = true ∧ ((dev .c ctLast).withCur ctLast).gangFaulted = false ∧ ctLast.migPend = false ∧ (dev .c ctLast).Enters (anySeq 0) ctLast) ∧
    ((dev .c ct0).withCur ct0).task? 0 = some (task0 ct0) ∧ ((dev .c ct0).withCur ct0).yieldsTo (task0 ct0) = false :=
  ⟨by decide, ⟨by decide, rfl, rfl, enters_of _ (t := task0 _) rfl rfl rfl⟩, rfl, by decide⟩

/-- The device with a second task that is ready and could take the first one's cores. -/
def devYield : State := { dev .c ct0 with tasks := [(0, task0 ct0), (1, { task0 ct0 with state := .ready, cts := [] })] }

theorem witness_TokensAndBoundaries_yields :
    devYield.Enters (cOnly 0) ct0 ∧ (devYield.withCur ct0).task? 0 = some (task0 ct0) ∧
      (task0 ct0).faulted = false ∧ (devYield.withCur ct0).yieldsTo (task0 ct0) = true :=
  ⟨enters_of _ (t := task0 ct0) rfl rfl rfl, rfl, rfl, by decide⟩

/-! ### Memory accesses -/

/-- What a low address of the test device translates to. -/
def xlAt (n : Nat) : Xl := { f := { host := false, a := n }, key := 0, keep := true, page := 2 ^ 21 }

theorem xl_of {s : State} (need : Need) (hr : s.r.ctx = (dev .c ct0).r.ctx) (v : Word) (h : v.toNat < 2 ^ 31) :
    s.translate 0 need v = .ok (xlAt v.toNat) := by
  have h0 : s.ctxWord 0 0 = 0 := by unfold State.ctxWord; rw [hr]; decide
  have h1 : s.ctxWord 0 1 = 1024#64 <<< 21 := by unfold State.ctxWord; rw [hr]; decide
  have h2 : s.ctxWord 0 2 = 0 := by unfold State.ctxWord; rw [hr]; decide
  have h3 : s.ctxWord 0 3 = 0 := by unfold State.ctxWord; rw [hr]; decide
  have w : s.inWindow 0 v = true := by
    unfold State.inWindow
    rw [h0, h1, show fieldOf 0 21 36 = 0 by decide, show fieldOf (1024#64 <<< 21) 21 36 = 1024 by decide]
    simp only [Bool.and_eq_true, decide_eq_true_eq]
    omega
  have d : s.windowDpa 0 v = v.toNat := by
    unfold State.windowDpa
    rw [h2]
    simp
  unfold State.translate
  rw [if_neg (by omega), if_pos w, d, if_pos (by unfold dpaTop; omega), h3]
  rfl

/-- What address 8 translates to. -/
abbrev xl8 : Xl := xlAt 8

theorem dev_xl8 (c : CoreTask) (q : SeqId) (need : Need) : ((dev q c).withCur c).translate 0 need 8 = .ok xl8 :=
  xl_of need (by unfold State.withCur; rw [State.putCt_r]; rfl) 8 (by decide)

theorem dev_xl0 (c : CoreTask) (q : SeqId) (need : Need) : ((dev q c).withCur c).translate 0 need 0 = .ok (xlAt 0) :=
  xl_of need (by unfold State.withCur; rw [State.putCt_r]; rfl) 0 (by decide)

theorem dev_xlHigh (c : CoreTask) (q : SeqId) (need : Need) :
    ((dev q c).withCur c).translate 0 need 0xFFFF000000000000 = .trap (pageTrap 1 0xFFFF000000000000) := by
  unfold State.translate
  rw [if_pos (by decide)]

theorem witness_GlobalLoads :
    (((dev .c ct0).withCur ct0).task? 0 = some (task0 ct0) ∧
      (dev .c ct0).Enters { perm := [.c], cons := 0, alloc := none, dst := gDst 1 } ct0 ∧ LoadSize.d.bytes ∣ (8 : Word).toNat ∧
      ((dev .c ct0).withCur ct0).translate 0 Need.read 8 = .ok xl8 ∧ ((dev .c ct0).withCur ct0).accBusy 0 ct0 8 xl8.f 8 = false ∧
      ((dev .c ct0).withCur ct0).atomAt 0 0 xl8.f 8 = false ∧ ct0.postedAt xl8.f 8 = false ∧
      (dev .c ct0).heldAt xl8.f = false ∧ ((dev .c ct0).withCur ct0).keyBad xl8.f xl8.key = false ∧
      ((dev .c ct0).withCur ct0).raceAt xl8.f 8 xl8.keep (agentId 0 0 0) ct0.seqC.stamp false false = none) ∧
    (dev .c ct0).Enters { perm := [.c], cons := 0, alloc := some 3, dst := gDst 1 } ct0 ∧ ¬LoadSize.d.bytes ∣ (4 : Word).toNat ∧
    (∃ tr, ((dev .c ct0).withCur ct0).translate 0 Need.read 0xFFFF000000000000 = .trap tr) ∧
    ([1, 0, 0, 0, 0, 0, 0, 0x80] : List Byte).length = LoadSize.d.bytes ∧ (7 : Nat) < 8 :=
  ⟨⟨rfl, dev_enters _ _ rfl, by decide, dev_xl8 .., by decide, by decide, by decide, by decide, by decide, by decide⟩,
    dev_enters _ _ rfl, by decide, ⟨_, dev_xlHigh ..⟩, by decide, by decide⟩

/-- A key that differs, a slice that is held, and an accumulate of the core-task at the address that is on its way. -/
theorem witness_GlobalLoads_key :
    ({ dev .c ct0 with m := { (dev .c ct0).m with keyTags := [(0, 5)] } } : State).keyBad xl8.f xl8.key = true ∧
    (∃ s : State, s.heldAt xl8.f = true) ∧
    ∃ (c : CoreTask) (s2 : State), ((dev .c c).withCur c).accBusy 0 c 8 xl8.f 8 = true ∧
      ((dev .c c).withCur c).deliverAll 0 0
        (c.slotsWhere (fun r => !r.flying && ((dev .c c).withCur c).slotMeets 0 r 8 xl8.f 8)) = .ok s2 :=
  ⟨by decide, ⟨{ State.reset with pw := { State.reset.pw with freeze := (List.range 64).map (fun n => (128 + n, 1)) } }, by decide⟩,
    { ct0 with flight := [{
        send := 0, elems := [(0, 8, 1)], keys := [(0, 0, true)], fmt := .f32, direct := false, rt := none, lane := false, slot := 0,
        rank := 0, ctx := 0, core := 0, va := 8, stamp := 0, waddr := 0, ready := false, mute := false }] }, _, by decide, rfl⟩

theorem witness_GlobalStoresArePosted :
    ((dev .c ct0).Enters (cOnly 0) ct0 ∧ ((dev .c ct0).withCur ct0).task? 0 = some (task0 ct0) ∧
      StoreSize.d.bytes ∣ (8 : Word).toNat ∧ ((dev .c ct0).withCur ct0).translate 0 Need.write 8 = .ok xl8 ∧
      ((dev .c ct0).withCur ct0).accBusy 0 ct0 8 xl8.f 8 = false ∧ ((dev .c ct0).withCur ct0).atomAt 0 0 xl8.f 8 = false ∧
      ct0.posted.length < 32 ∧ ct0.pendingLoadAt xl8.f 8 = false) ∧
    ¬StoreSize.d.bytes ∣ (4 : Word).toNat ∧
    ∃ tr, ((dev .c ct0).withCur ct0).translate 0 Need.write 0xFFFF000000000000 = .trap tr :=
  ⟨⟨dev_enters _ _ rfl, rfl, by decide, dev_xl8 .., by decide, by decide, by decide, by decide⟩, by decide, _, dev_xlHigh ..⟩

/-- The ends of the scratchpad and of natural alignment. -/
theorem witness_ScratchpadLoadsAndStores :
    (∃ c1, (dev .l ct0).Enters { perm := [.c, .l, .s], cons := 0, alloc := none, dst := gDst 1 } ct0 ∧
      LoadSize.d.bytes ∣ (0x17FFF8 : Word).toNat ∧ (0x17FFF8 : Word).toNat < 0x180000 ∧
      ct0.localRead (dev .l ct0).raceOn (agentId 0 0 1) 0 (granules 0x17FFF8 8) = .inr c1 ∧ Tab.wf 0 ct0.scratch = true) ∧
    (∃ c1, (dev .l ct0).Enters { perm := [.c, .l, .s], cons := 0 } ct0 ∧ (ct0.seq .l).pendingLocalAt 0x17FFF8 8 = false ∧
      ct0.localWrite (dev .l ct0).raceOn (agentId 0 0 1) 0 false (granules 0x17FFF8 8) = .inr c1) ∧
    LoadSize.d.bytes ∣ (0x180000 : Word).toNat ∧ 0x180000 ≤ (0x180000 : Word).toNat ∧
    ¬StoreSize.h.bytes ∣ (0x17FFFF : Word).toNat :=
  ⟨⟨_, dev_enters _ _ rfl, by decide, by decide, rfl, rfl⟩, ⟨_, dev_enters _ _ rfl, by decide, rfl⟩, by decide, by decide,
    by decide⟩

/-- `ct0` whose AG0 describes `rows` rows of one I8 element at the scratchpad's start, and AG8 the same. -/
def ctGen (rows : Word) : CoreTask :=
  { ct0 with ag := [(0, 6#64 <<< 42), (1, (1#64 <<< 16) ||| (1#64 <<< 8) ||| rows), (32, 6#64 <<< 42),
      (33, (1#64 <<< 16) ||| (1#64 <<< 8) ||| rows)],
             queues := [(8, [{ rows := 1, cols := 1, fmt := .i8, scales := none, bytes := [7] }])] }

theorem witness_GeneratorsBlocksAndPrefetch :
    (((dev .l ct0).canIssue (dev .l ct0).cur).isSome = true ∧ ownsAg .l 8 = false ∧
      (dev .l ct0).Enters { perm := [.l, .s], legal := ownsAg .l 7 && decide ((2 : Fin 4) ≠ 3), cons := 0 } ct0 ∧
      agReserved 0 0 &&& 0x0001FFFFFFFFFFFF = 0 ∧ (1 : Word) <<< 63 &&& agReserved 15 0 ≠ 0 ∧
      (dev .s ct0).Enters { perm := [.l, .s], legal := ownsAg .s 8 && decide ((0 : Fin 4) ≠ 3), cons := 0, dst := gDst 1 } ct0) ∧
    (∃ b c1, (dev .l (ctGen 1)).Enters { perm := [.l], legal := decide ((7 : Fin 16).val < 8), cons := 0 } (ctGen 1) ∧ (ctGen 1).agBlock 0 = some b ∧
      b.outside = false ∧ (ctGen 1).testPush ((dev .l (ctGen 1)).pool 0) .l (dev .l (ctGen 1)).fresh b.queue 1 = .room ∧
      (ctGen 1).localRead (dev .l (ctGen 1)).raceOn (agentId 0 0 1) 0 b.granules = .inr c1) ∧
    (ctGen 65).agBlock 0 = none ∧
    (∃ g b bs c1, (dev .s (ctGen 1)).Enters { perm := [.s], legal := decide (8 ≤ (8 : Fin 16).val), cons := 0 } (ctGen 1) ∧ (ctGen 1).agBlock 8 = some g ∧
      Tab.get [] (ctGen 1).queues (sqIndex (Fin.ofNat 4 g.queue)) = b :: bs ∧ b.rows = g.rows ∧ b.cols = g.cols ∧
      b.fmt = g.fmt ∧ b.scales.isSome = decide (g.sstride ≠ 0) ∧ g.outside = false ∧
      (ctGen 1).localWrite (dev .s (ctGen 1)).raceOn (agentId 0 0 3) 0 false g.granules = .inr c1) ∧
    (dev .c ct0).Enters (cOnly 0) ct0 :=
  ⟨⟨rfl, rfl, dev_enters _ _ rfl, by decide, by decide, dev_enters _ _ rfl⟩,
    ⟨_, _, enters_of _ (t := task0 _) rfl rfl rfl, rfl, rfl, rfl, rfl⟩, rfl,
    ⟨_, _, _, _, enters_of _ (t := task0 _) rfl rfl rfl, rfl, rfl, rfl, rfl, rfl, rfl, rfl, rfl⟩, dev_enters _ _ rfl⟩

/-- `ctGen` with the block at `ptr`, behind the scratchpad's end or not, or with a full load queue. -/
theorem witness_GeneratorsBlocksAndPrefetch_stops :
    (∃ b, ({ ctGen 1 with ag := Tab.set 0 (ctGen 1).ag 0 ((6#64 <<< 42) ||| (0x180000#64 <<< 21)) }).agBlock 0 = some b ∧
      b.outside = true) ∧
    (ctGen 1).testPush { core := 0, mins := [], caps := [(0, 1)] } .l 0 0 2 = .never ∧
    (∃ g, (ctGen 2).agBlock 8 = some g ∧ g.rows ≠ 1) :=
  ⟨⟨_, rfl, by decide⟩, by decide, _, rfl, by decide⟩

theorem witness_DeferredResultsLand :
    (∃ c, (dev .c c).task? 0 = some (task0 c) ∧ (task0 c).state = .running ∧ (dev .c c).ct? 0 0 = some c ∧
      find (c.seq .c).tags 2 = some { dest := .g 5, res := .value 9, landed := false }) ∧
    (∃ c c1 : CoreTask, find (c.seq .l).tags 1 = some { dest := .g 5, res := .ldl 8 .d 4 0, landed := false } ∧
      c.reported .l 4 = false ∧ c.localRead (dev .l c).raceOn (agentId 0 0 1) 0 (granules 8 8) = .inr c1) ∧
    (∃ c, find (c.seq .c).tags 1 =
        some { dest := .g 5, res := .ldg 8 .d 4 0 (some { f := xl8.f, key := 0, keep := true }), landed := false } ∧
      c.reported .c 4 = false ∧ (dev .c c).task? 0 = some (task0 c) ∧
      c.postedAt xl8.f 8 = false ∧ (dev .c c).heldAt xl8.f = false ∧ (dev .c c).keyBad xl8.f xl8.key = false ∧
      (dev .c c).raceAt xl8.f 8 xl8.keep (agentId 0 0 0) 0 false false = none) ∧
    ct0.seqX.tags = [] :=
  ⟨⟨ctTag false, rfl, rfl, rfl, rfl⟩,
    ⟨ct0.updSeq .l (fun q => { q with tags := [(1, { dest := .g 5, res := .ldl 8 .d 4 0, landed := false })] }), _,
      rfl, rfl, rfl⟩,
    ⟨ct0.updSeq .c (fun q => { q with tags := [(1, {
        dest := .g 5, res := .ldg 8 .d 4 0 (some { f := xl8.f, key := 0, keep := true }), landed := false })] }),
      rfl, rfl, rfl, by decide, by decide, by decide, by decide⟩, rfl⟩

/-! ### Tile words -/

/-- `ct0` at power level 4 with tiles 0 to 3 of one element each, in the format numbered `f`. -/
def ctTile (f : Word) : CoreTask :=
  let w : Word := 0xFF000101 ||| (f <<< 16)
  { ct0 with pwrlvl := 4, tsd := [(0, w), (1, w), (2, w), (3, w)] }

theorem ready_of {w : VWord} {p : VPlan} {b : BSrc} {sc : Option VSrc} {s : State} {c : CoreTask} {ta : Tile}
    {tb tc : Option Tile} {n m : Nat} {res : Fmt} (h0 : p.cls ≤ c.pwrlvl)
    (h1 : c.sources w b sc p.scaledA = (some ta, tb, tc, none))
    (h2 : ∀ base, c.resultOf w p (some ta) base = some (n, m, res, false))
    (h3 : c.vectorCheck (s.pool c.core) s.fresh w p b sc ⟨ta, tb.getD ta, tc.getD ta⟩ n m res false (c.dstSet w p) = none) :
    ∃ x, VReady w p b sc s c x :=
  ⟨⟨⟨ta, tb.getD ta, tc.getD ta⟩, n, m, res, false⟩, h0, _, _, _, h1, h2 _, rfl, rfl, rfl, h3⟩

/-- A tile word from tile 0 to tile 3. -/
def vw : VWord :=
  { cons := 0, alloc := none, dst := .tile 3, ring := false, a := .tile 0, strictA := false, rnd := .rne, sat := false }

theorem witness_FloatTileWords_enter (f : Word) : (dev .x (ctTile f)).Enters (useV vw) (ctTile f) :=
  enters_of _ (t := task0 _) rfl rfl rfl

theorem witness_FloatTileWords :
    (∃ x, VReady vw (floatPlan vw (fun x y _ => x.add .rne y)) (.src (.tile 1) false) none (dev .x (ctTile 0)) (ctTile 0) x) ∧
    (∃ x, VReady vw (floatPlan vw (fun x _ _ => x.abs)) .none none (dev .x (ctTile 0)) (ctTile 0) x) ∧
    (∃ x, VReady vw (floatPlan vw (fun x y _ => x.mul y)) (.scalar (scalarTile .f32 ((ctTile 0).seqX.rd 4))) none
      (dev .x (ctTile 0)) (ctTile 0) x) ∧
    (∃ x, VReady vw (fusedPlan vw 1 (fun x y z => x.add .rne (y.mul z))) (.src (.tile 1) false) (some (.tile 2))
      (dev .x (ctTile 0)) (ctTile 0) x) ∧
    ct0.pwrlvl < (floatPlan vw (fun x _ _ => x.abs)).cls :=
  ⟨ready_of (by decide) rfl (fun _ => rfl) (by decide),
    ready_of (by decide) rfl (fun _ => rfl) (by decide),
    ready_of (by decide) rfl (fun _ => rfl) (by decide),
    ready_of (by decide) rfl (fun _ => rfl) (by decide), by decide⟩

/-- `ctTile` with tile 3 (or tile `t`) in the format numbered `d`. -/
def ctTo (f d : Word) (t : Nat := 3) : CoreTask :=
  { ctTile f with tsd := Tab.set startTsd (ctTile f).tsd t (0xFF000101 ||| (d <<< 16)) }

/-- VSCALE takes its exponents from an integer tile. -/
theorem witness_FloatTileWords_scale :
    ∃ x, VReady vw (scalePlan vw) (.src (.tile 1) false) none (dev .x (ctTo 0 5 1)) (ctTo 0 5 1) x :=
  ready_of (by decide) rfl (fun _ => rfl) (by decide)

theorem witness_IntegerAndPatternTileWords :
    (∃ x, VReady vw (intPlan vw (fun x y _ => x + y)) (.src (.tile 1) false) none (dev .x (ctTile 5)) (ctTile 5) x) ∧
    (∃ x, VReady vw (intPlan vw (fun x lo hi => Min.min (Max.max x lo) hi)) (.src (.tile 1) false) (some (.tile 2))
      (dev .x (ctTile 5)) (ctTile 5) x) ∧
    (∃ x, VReady vw (intPlan vw (fun x y _ => x * y)) (.scalar (scalarTile .i32 ((ctTile 5).seqX.rd 4))) none
      (dev .x (ctTile 5)) (ctTile 5) x) ∧
    (∃ x, VReady vw (bitPlan (fun x y => x &&& y)) (.src (.tile 1) false) none (dev .x (ctTile 5)) (ctTile 5) x) ∧
    (∃ x, VReady vw (shiftPlan (fun _ x k => x / 2 ^ k)) (.src (.tile 1) false) none (dev .x (ctTile 5)) (ctTile 5) x) ∧
    (∃ x, VReady vw movPlan .none none (dev .x (ctTile 5)) (ctTile 5) x) ∧
    (∃ x, VReady vw (bcastPlan 0 0) .none none (dev .x (ctTile 5)) (ctTile 5) x) ∧
    (∃ x, VReady vw selPlan (.src (.tile 1) false) (some (.tile 2)) (dev .x (ctTile 5)) (ctTile 5) x) ∧
    (∃ x, VReady vw trnPlan .none none (dev .x (ctTile 5)) (ctTile 5) x) :=
  ⟨ready_of (by decide) rfl (fun _ => rfl) (by decide),
    ready_of (by decide) rfl (fun _ => rfl) (by decide),
    ready_of (by decide) rfl (fun _ => rfl) (by decide),
    ready_of (by decide) rfl (fun _ => rfl) (by decide),
    ready_of (by decide) rfl (fun _ => rfl) (by decide),
    ready_of (by decide) rfl (fun _ => rfl) (by decide),
    ready_of (by decide) rfl (fun _ => rfl) (by decide),
    ready_of (by decide) rfl (fun _ => rfl) (by decide),
    ready_of (by decide) rfl (fun _ => rfl) (by decide)⟩

/-- The comparisons of integers and of floats: their masks stand in I32. -/
theorem witness_IntegerAndPatternTileWords_compare :
    (∃ x, VReady vw (cmpPlan 1 Fmt.isInt .i32 (fun a b res rows cols =>
        zipRows (fun u y => maskOf res (vcondHolds .lt (some (compare u y)))) (a.ints rows cols) (b.ints rows cols)))
      (.src (.tile 1) false) none (dev .x (ctTile 5)) (ctTile 5) x) ∧
    ∃ x, VReady vw (cmpPlan 2 Fmt.isFloat .f32 (fun a b res rows cols =>
        zipRows (fun u y => maskOf res (vcondHolds .lt (u.cmp y))) (a.floats rows cols) (b.floats rows cols)))
      (.src (.tile 1) false) none (dev .x (ctTo 0 5)) (ctTo 0 5) x :=
  ⟨ready_of (by decide) rfl (fun _ => rfl) (by decide),
    ready_of (by decide) rfl (fun _ => rfl) (by decide)⟩

/-- The word `vw` to a store queue. -/
def vwQ : VWord := { vw with dst := .sq 0 }

theorem witness_ConversionsAndReductions :
    (∃ x, VReady vw (cvtPlan vw .f16) .none none (dev .x (ctTo 0 2)) (ctTo 0 2) x) ∧
    (∃ x, VReady vw (dqntPlan vw .q4) .none none (dev .x (ctTo 7 0)) (ctTo 7 0) x) ∧
    (∃ x, VReady vwQ (qntPlan vwQ .q4 false) .none none (dev .x (ctTile 0)) (ctTile 0) x) ∧
    (∃ x, VReady vw (specialPlan exp2Val) .none none (dev .x (ctTile 0)) (ctTile 0) x) ∧
    (∃ x, VReady vw (redPlan vw false (sumOps true)) .none none (dev .x (ctTile 0)) (ctTile 0) x) ∧
    (∃ x, VReady vw (redPlan vw true (maxOps false)) .none none (dev .x (ctTile 5)) (ctTile 5) x) ∧
    (∃ x, VReady vw (lutPlan vw false (Tab.get Codebook.zero (ctTo 9 1).books 0)) .none none (dev .x (ctTo 9 1)) (ctTo 9 1) x) :=
  ⟨ready_of (by decide) rfl (fun _ => rfl) (by decide),
    ready_of (by decide) rfl (fun _ => rfl) (by decide),
    ready_of (by decide) rfl (fun _ => rfl) (by decide),
    ready_of (by decide) rfl (fun _ => rfl) (by decide),
    ready_of (by decide) rfl (fun _ => rfl) (by decide),
    ready_of (by decide) rfl (fun _ => rfl) (by decide),
    ready_of (by decide) rfl (fun _ => rfl) (by decide)⟩

/-- Every number has a unit in the last place. -/
theorem exists_ulp (y : Rat) : ∃ u, IsUlp y u := by
  by_cases h : |y| < (2 : Rat) ^ (-125 : Int)
  · exact ⟨-149, by decide, by norm_num at h ⊢; exact h, .inl rfl⟩
  · obtain ⟨n, h1, h2⟩ := exists_mem_Ico_zpow (lt_of_lt_of_le (by positivity) (not_lt.mp h)) (by norm_num : (1 : Rat) < 2)
    have hn : -125 < n + 1 := (zpow_lt_zpow_iff_right₀ (by norm_num : (1 : Rat) < 2)).mp (lt_of_le_of_lt (not_lt.mp h) h2)
    refine ⟨n - 23, by omega, ?_, .inr ?_⟩
    · rw [show n - 23 + 24 = n + 1 by omega]; exact h2
    · rw [show n - 23 + 23 = n by omega]; exact h1

/-- Three is no power of two. -/
theorem three_pow (n : Int) : (3 : Rat) ≠ 2 ^ n := by
  intro h
  rcases lt_or_ge n 2 with h2 | h2
  · have := zpow_le_zpow_right₀ (by norm_num : (1 : Rat) ≤ 2) (show n ≤ 1 by omega)
    norm_num at this
    linarith
  · have := zpow_le_zpow_right₀ (by norm_num : (1 : Rat) ≤ 2) h2
    norm_num at this
    linarith

/-- Operands of the special functions in F32, at the ends of each clause's range. -/
theorem witness_ConversionsAndReductions_special :
    (∀ x : Rat, ∃ u, IsUlp x u) ∧
    (valOf .f32 0xC3170000 = .fin true 0x970000 (-16) ∧ (FVal.fin true 0x970000 (-16)).rat < -150) ∧
    (valOf .f32 0xC3160000 = .fin true 0x960000 (-16) ∧ -150 ≤ (FVal.fin true 0x960000 (-16)).rat ∧
      (FVal.fin true 0x960000 (-16)).rat < 128 ∧ ¬∃ n : Int, -149 ≤ n ∧ (FVal.fin true 0x960000 (-16)).rat = n) ∧
    (valOf .f32 0xC3150000 = .fin true 0x950000 (-16) ∧ (FVal.fin true 0x950000 (-16)).rat = (-149 : Int)) ∧
    (valOf .f32 0x42FE0000 = .fin false 0xFE0000 (-17) ∧ (FVal.fin false 0xFE0000 (-17)).rat = (127 : Int)) ∧
    (valOf .f32 0x43000000 = .fin false 0x800000 (-16) ∧ 128 ≤ (FVal.fin false 0x800000 (-16)).rat) ∧
    (valOf .f32 0x3F800000 = .fin false 0x800000 (-23) ∧ (FVal.fin false 0x800000 (-23)).rat = 2 ^ (0 : Int) ∧ (0 : Int) = 2 * 0) ∧
    (valOf .f32 0xBF800000 = .fin true 0x800000 (-23) ∧ (FVal.fin true 0x800000 (-23)).rat = -2 ^ (0 : Int)) ∧
    (valOf .f32 0x40400000 = .fin false 0xC00000 (-22) ∧ (¬∃ n : Int, (FVal.fin false 0xC00000 (-22)).rat = 2 ^ n) ∧
      (¬∃ n : Int, |(FVal.fin false 0xC00000 (-22)).rat| = 2 ^ n) ∧ 2 ^ (-128 : Int) < |(FVal.fin false 0xC00000 (-22)).rat| ∧
      |(FVal.fin false 0xC00000 (-22)).rat| < 10) ∧
    (valOf .f32 0x41200000 = .fin false 0xA00000 (-20) ∧ 10 ≤ |(FVal.fin false 0xA00000 (-20)).rat|) := by
  have h3 : (FVal.fin false 0xC00000 (-22)).rat = 3 := by norm_num [FVal.rat]
  refine ⟨exists_ulp, ⟨by decide, by norm_num [FVal.rat]⟩,
    ⟨by decide, by norm_num [FVal.rat], by norm_num [FVal.rat], ?_⟩, ⟨by decide, by norm_num [FVal.rat]⟩,
    ⟨by decide, by norm_num [FVal.rat]⟩, ⟨by decide, by norm_num [FVal.rat]⟩, ⟨by decide, by norm_num [FVal.rat], rfl⟩,
    ⟨by decide, by norm_num [FVal.rat]⟩, ⟨by decide, ?_, ?_, ?_, ?_⟩, ⟨by decide, by norm_num [FVal.rat]⟩⟩
  · rintro ⟨n, hn, h⟩
    have h150 : (FVal.fin true 0x960000 (-16)).rat = (-150 : Int) := by norm_num [FVal.rat]
    have := Int.cast_injective (h150.symm.trans h)
    omega
  · rintro ⟨n, h⟩
    exact three_pow n (h3 ▸ h)
  · rintro ⟨n, h⟩
    rw [h3, abs_of_pos (by norm_num)] at h
    exact three_pow n h
  · rw [h3]
    norm_num
  · rw [h3]
    norm_num

/-! ### Fills, matrix commands, copies -/

theorem witness_FillsCodebooksAndShapes :
    ((dev .x (ctTile 0)).Enters { perm := [.x], cons := 0 } (ctTile 0) ∧ 1 ≤ (ctTile 0).pwrlvl ∧
      (ctTile 0).second 3 = false ∧ (∀ t ∈ (ctTile 0).regSet 3 false, (ctTile 0).tileBusy t = false) ∧
      (ctTile 0).landedAll .x ((ctTile 0).tileTags ((ctTile 0).regSet 3 false)) = true ∧
      ((ctTile 0).shape 3).pair = false) ∧
    (∃ c, (dev .x c).Enters { perm := [.x], cons := 0 } c ∧ c.pwrlvl < 1) ∧
    (∃ c : CoreTask, 1 ≤ c.pwrlvl ∧ c.second 1 = true ∧ (c.shape 0).pair = true) ∧
    (dev .x ct0).Enters { perm := [.x], cons := 0, dst := gDst 3 } ct0 :=
  ⟨⟨enters_of _ (t := task0 _) rfl rfl rfl, by decide, by decide, by decide, by decide, by decide⟩,
    ⟨{ ct0 with pwrlvl := 0 }, enters_of _ (t := task0 _) rfl rfl rfl, by decide⟩,
    ⟨(ctTile 0).setTsd 0 0xFF100101, by decide, by decide, by decide⟩, dev_enters _ _ rfl⟩

/-- A codebook's source of sixteen BF16 elements. -/
theorem witness_FillsCodebooksAndShapes_cbld :
    ∃ c t, (dev .x c).Enters { perm := [.x], cons := 0 } c ∧ 1 ≤ c.pwrlvl ∧ c.source (.tile 0) false false [] = .tile t ∧
      c.secondSrc (.tile 0) = false ∧ t.scales = none ∧ t.fmt = .bf16 ∧ t.pair = false ∧ t.rows * t.cols = 16 :=
  ⟨{ ctTile 0 with tsd := [(0, 0xFF011001)] }, _, enters_of _ (t := task0 _) rfl rfl rfl, by decide, rfl, rfl, rfl, rfl, rfl,
    rfl⟩

theorem witness_FillsCodebooksAndShapes_tshape :
    ct0.tileBusy 0 = false ∧ shapeOf 0 0 = none ∧ shapeOf 0 0xFF004040 = none ∧ (shapeOf 0 0xFF000101).isSome = true ∧
      ct0.second 0 = false ∧ (0xFF000101 : Word).getLsbD 20 = false := by decide

theorem witness_ArithmeticIsExactBeforeRounding :
    valOf .e4m3 0x38 ≠ .nan ∧ (∀ s, valOf .e4m3 0x38 ≠ .inf s) ∧ valOf .e4m3 0xFE ≠ .nan ∧ (∀ s, valOf .e4m3 0xFE ≠ .inf s) := by
  refine ⟨by decide, fun s => by cases s <;> decide, by decide, fun s => by cases s <;> decide⟩

theorem witness_MatrixCommandsArePushed :
    (∃ s1 c1, (dev .c (ctTile 0)).Releases (cOnly 0) .core (ctTile 0) s1 c1 ∧ 2 ≤ (ctTile 0).pwrlvl ∧ c1.mxq.length < 16) ∧
    ((dev .c ct0).Enters (cOnly 0) ct0 ∧ ct0.pwrlvl < 2) ∧
    (∃ s1 c, (dev .c c).Releases (cOnly 0) .core c s1 c ∧ 2 ≤ c.pwrlvl ∧ 16 ≤ c.mxq.length) ∧
    (∃ p : MxWin, p.bytes .f32 ≤ 16384 ∧ p.bytes .f32 ≤ 8192) ∧ ∃ p : MxWin, 8192 < p.bytes .f32 ∧ p.t.toNat % 2 = 1 :=
  ⟨⟨_, _, ⟨enters_of _ (t := task0 _) rfl rfl rfl, rfl, rfl⟩, by decide, by decide⟩, ⟨dev_enters _ _ rfl, by decide⟩,
    ⟨_, { ctTile 0 with mxq := List.replicate 16 { i := .mxzero 0 0 0 false, waddr := 0, stamp := 0 } },
      ⟨enters_of _ (t := task0 _) rfl rfl rfl, rfl, rfl⟩, by decide, by decide⟩,
    ⟨{ wsem := 0, ssem := 0, acc := 0, t := 0, rows := 1, cols := 1 }, by decide, by decide⟩,
    { wsem := 0, ssem := 0, acc := 0, t := 1, rows := 64, cols := 64 }, by decide, by decide⟩

/-! ### Engines, semaphores, fences, atomics, accumulates -/

/-- A multiply of tile 0 by tile 1 in F32-class formats, BF16 here. -/
def mulOf (zero : Bool) : MxMul :=
  { wsem := 0, ssem := 0, pair := { bs := false, a := .bf16, b := .bf16 }, acc := 0, ta := 0, tb := 1, zero := zero,
    rsum := false, rep := 0, cb := 0, mdq := 0, spn := 0 }

/-- `ctTile` with command `i` at the head of its matrix queue. -/
def ctMx (f : Word) (i : Instr) : CoreTask := { ctTile f with mxq := [{ i := i, waddr := 0, stamp := 0 }] }

theorem mxHead_of (f : Word) (i : Instr) (h : (engineSems i).1 = 0) :
    (dev .c (ctMx f i)).MxHead 0 0 (ctMx f i) { i := i, waddr := 0, stamp := 0 } :=
  ⟨⟨task0 _, ⟨rfl, rfl, rfl, rfl⟩, rfl⟩, rfl, rfl, .inl h⟩

theorem witness_MatrixCommandsRun :
    ((dev .c (ctMx 1 (.mxmul (mulOf false)))).MxHead 0 0 (ctMx 1 (.mxmul (mulOf false))) ⟨.mxmul (mulOf false), 0, 0⟩ ∧
      (ctMx 1 (.mxmul (mulOf false))).mxBlock = none ∧
      (ctMx 1 (.mxmul (mulOf false))).mulOk (mulOf false) false = true ∧
      (ctMx 0 (.mxmul (mulOf false))).mulOk (mulOf false) false = false) ∧
    (∃ c, c.mxBlock = some 0 ∧ (dev .c c).MxHead 0 0 c ⟨.mxmuls (mulOf true), 0, 0⟩ ∧ Tab.get [] c.mdq 0 = []) ∧
    (∃ c e rest, c.mxBlock = some 0 ∧ (dev .c c).MxHead 0 0 c ⟨.mxmuls (mulOf true), 0, 0⟩ ∧
      Tab.get [] c.mdq 0 = e :: rest ∧ (c.shape 1).rows = 1 ∧ (maskBitsOf e 0).count true = (mulOf true).nsp) ∧
    (0 : Nat) = (mulOf true).rep.val ∧ (0 : Nat) < 4096 :=
  ⟨⟨mxHead_of _ _ rfl, rfl, by decide, by decide⟩,
    ⟨{ ctMx 1 (.mxmuls (mulOf true)) with mxBlock := some 0 }, rfl, ⟨⟨task0 _, ⟨rfl, rfl, rfl, by decide⟩, rfl⟩, rfl, rfl, .inl rfl⟩, rfl⟩,
    ⟨{ ctMx 1 (.mxmuls (mulOf true)) with mxBlock := some 0, mdq := [(0, [[1, 1, 1, 1, 1, 1, 1, 1]])] }, _, _, rfl,
      ⟨⟨task0 _, ⟨rfl, rfl, rfl, by decide⟩, rfl⟩, rfl, rfl, .inl rfl⟩, rfl, by decide, by decide⟩, rfl, by decide⟩

theorem witness_MatrixCommandsRun_tiles :
    ((dev .c (ctMx 0 (.mxwr 0 0 0 2))).MxHead 0 0 (ctMx 0 (.mxwr 0 0 0 2)) ⟨.mxwr 0 0 0 2, 0, 0⟩ ∧
      (ctMx 0 (.mxwr 0 0 0 2)).second 2 = false ∧ ((ctMx 0 (.mxwr 0 0 0 2)).shape 2).scale = none ∧
      ((ctMx 0 (.mxwr 0 0 0 2)).tile 2).fmt = .f32 ∧ ((ctMx 1 (.mxwr 0 0 0 2)).tile 2).fmt ≠ .f32) ∧
    (∃ p : MxWin, (dev .c (ctMx 0 (.mxrd p .bf16 .rne false))).MxHead 0 0 (ctMx 0 (.mxrd p .bf16 .rne false))
        ⟨.mxrd p .bf16 .rne false, 0, 0⟩ ∧ (ctMx 0 (.mxrd p .bf16 .rne false)).second 3 = false ∧
      Tab.wf 0 (ctMx 0 (.mxrd p .bf16 .rne false)).acc = true ∧ p.rows.toNat ≤ 64 ∧ p.cols.toNat ≤ 64) ∧
    (∃ p : MxWin, (dev .c (ctMx 0 (.mxepi p .s))).MxHead 0 0 (ctMx 0 (.mxepi p .s)) ⟨.mxepi p .s, 0, 0⟩ ∧
      p.cols.toNat ≤ ((ctMx 0 (.mxepi p .s)).tile 2).cols ∧ Epi.rows .s ≤ ((ctMx 0 (.mxepi p .s)).tile 2).rows) ∧
    (dev .c (ctMx 0 (.mxzero 0 0 3 true))).MxHead 0 0 (ctMx 0 (.mxzero 0 0 3 true)) ⟨.mxzero 0 0 3 true, 0, 0⟩ :=
  ⟨⟨mxHead_of _ _ rfl, rfl, rfl, rfl, by decide⟩, ⟨⟨0, 0, 0, 3, 64, 64⟩, mxHead_of _ _ rfl, by decide, rfl, by decide, by decide⟩,
    ⟨⟨0, 0, 0, 2, 1, 1⟩, mxHead_of _ _ rfl, by decide, by decide⟩, mxHead_of _ _ rfl⟩

theorem witness_BlocksAccumulateDotProducts :
    (Tab.wf 0 ct0.acc = true ∧ Tab.wf 0 ct0.rsum = true) ∧ ({ bs := false, a := .i8, b := .i8 } : MxPair).int = true ∧
    (∃ p : MxPair, p = { bs := false, a := .bf16, b := .bf16 } ∧ p.int = false ∧
      (List.replicate p.chunk FVal.nan).length = p.chunk) ∧
    ([FVal.nan, .inf true] : List FVal).length = ([true, false, true] : List Bool).count true :=
  ⟨by decide, by decide, ⟨_, rfl, rfl, rfl⟩, by decide⟩

/-- The operands of a copy: a1, a2 and a3 hold its destination, source and length. -/
def cp0 : CopyOp := { wsem := 0, ssem := 0, rd := 11, rs := 12, rl := 13, rg := 0, bar := none }

/-- `ctRegs` at power level 4: destination, source, length. -/
def ctCopy (d a n : Word) : CoreTask := { ctRegs .c [(11, d), (12, a), (13, n)] with pwrlvl := 4 }

theorem witness_CopiesAreCheckedAndPushed :
    (∃ s1 c1, (dev .c (ctCopy 0 8 64)).Enters (cOnly 0) (ctCopy 0 8 64) ∧
      ((ctCopy 0 8 64).capture (.cpg2l cp0 .d1) cp0 .d1).bad 0 1 4 = none ∧
      (dev .c (ctCopy 0 8 64)).Releases (cOnly 0) .core (ctCopy 0 8 64) s1 c1 ∧ c1.cpq.length + c1.copies.length < 32) ∧
    ((ctCopy 0 8 0).capture (.cpg2l cp0 .d1) cp0 .d1).bad 0 1 4 = some (trapOf .illegalField) ∧
    ((ctCopy 2 8 64).capture (.cpg2l cp0 .d1) cp0 .d1).bad 0 1 4 = some (trapOf .align) ∧
    ((ctCopy 0x180000 8 64).capture (.cpg2l cp0 .d1) cp0 .d1).bad 0 1 4 = some (trapOf .lsaRange) ∧
    ((ctCopy 0 8 64).capture (.cpg2l cp0 .d1) cp0 .d1).bad 0 1 0 = some (trapOf .currentOver) :=
  ⟨⟨_, _, enters_of _ (t := task0 _) rfl rfl rfl, by decide, ⟨enters_of _ (t := task0 _) rfl rfl rfl, rfl, rfl⟩, by decide⟩,
    by decide, by decide, by decide, by decide⟩

/-- `ctCopy` with a fill of `n` bytes at 64 in its copy queue, or running in progress register `r`. -/
def fillCmd (n : Word) : CopyCmd := { ((ctCopy 64 7 n).capture (.cpfillL cp0) cp0 .d1) with stamp := 1 }

theorem witness_CopiesRun :
    (∃ c, (dev .c c).CopyHead 0 0 (task0 c) c (fillCmd 8) ∧ (0 : Nat) < 8 ∧ find c.copies 0 = none ∧
      (∀ e ∈ c.copies, (dev .c c).copyAfter 0 (fillCmd 8) e.2.cmd 0 = false) ∧
      (dev .c c).copySends 0 0 0 c (fillCmd 8) = false ∧ c.metaWaits = false ∧ (dev .c c).copySlots 0 c (fillCmd 8) = [] ∧
      (fillCmd 8).global? = none) ∧
    (∃ c, (dev .c c).CopyRuns 0 0 0 (task0 c) c ⟨fillCmd 8, 0⟩ ∧ (∀ p m n, (fillCmd 8).i ≠ .cpmeta p m n) ∧
      (0 : Nat) < (fillCmd 8).len ∧ (8 : Nat) ≤ 256 ∧ (fillCmd 8).fill? = some 7) ∧
    (fillCmd 8).bar? = none ∧ (fillCmd 8).total ≤ 0 + 8 ∧ (0 : Nat) + 4 < (fillCmd 8).total ∧
    (engineSems (fillCmd 8).i).2 = 0 :=
  ⟨⟨{ ctCopy 64 7 8 with cpq := [fillCmd 8] }, ⟨⟨rfl, rfl, rfl, by decide⟩, rfl, rfl, rfl, .inl rfl⟩, by decide, rfl,
      by decide, rfl, rfl, rfl, rfl⟩,
    ⟨{ ctCopy 64 7 8 with copies := [(0, ⟨fillCmd 8, 0⟩)] }, ⟨⟨rfl, rfl, rfl, by decide⟩, rfl, rfl, rfl⟩,
      fun _ _ _ => nofun, by decide, by decide, rfl⟩, rfl, by decide, by decide, rfl⟩

/-- A copy of one entry of metadata, a piece of a copy, and eight copies that run. -/
theorem witness_CopiesRun_more :
    (∃ c c1 x, (dev .c c).CopyRuns 0 0 0 (task0 c) c x ∧ x.cmd.i = .cpmeta cp0 0 1 ∧ (Tab.get [] c.mdq 0).length < 64 ∧
      c.localRead (dev .c c).raceOn (agentId 0 0 5) c.cpStamp (granules 64 512) = .inr c1 ∧ x.cmd.src.toNat + x.done = 64) ∧
    (∃ c s1 s2 x bs, (dev .c c).CopyRuns 0 0 0 (task0 c) c x ∧ x.cmd.i = .cpfillL cp0 ∧
      (dev .c c).pieceSource 0 0 (task0 c) c x.cmd (x.cmd.segs 8 256 0) = (.ok s1, bs) ∧
      s1.pieceDest 0 0 (task0 c) c.cpStamp x.cmd (x.cmd.segs 8 256 0) bs = .ok s2) ∧
    ∃ c : CoreTask, ∀ r < 8, (find c.copies r).isSome :=
  ⟨⟨{ ctCopy 0 64 1 with copies := [(0, ⟨{ ((ctCopy 0 64 1).capture (.cpmeta cp0 0 1) cp0 .d1) with dst := 0, len := 512 }, 0⟩)] },
      _, _, ⟨⟨rfl, rfl, rfl, by decide⟩, rfl, rfl, rfl⟩, rfl, by decide, rfl, rfl⟩,
    ⟨{ ctCopy 64 7 8 with copies := [(0, ⟨fillCmd 8, 0⟩)] }, _, _, ⟨fillCmd 8, 0⟩, _,
      ⟨⟨rfl, rfl, rfl, by decide⟩, rfl, rfl, rfl⟩, rfl, rfl, rfl⟩,
    { ct0 with copies := (List.range 8).map (fun r => (r, ⟨fillCmd 8, 0⟩)) }, by decide⟩

/-- The command of a copy with its registers. -/
def cmdOf (i : Instr) (d a n : Word) : CopyCmd := (ctCopy d a n).capture i cp0 .d1

/-- Sources and destinations of pieces: scratchpads, a ring slot, memory; a barrier, SSEM, and both of their overflows. -/
theorem witness_CopiesRun_pieces :
    (∃ c1, (cmdOf (.cpl2l cp0 .d1 0) 64 0 8).fill? = none ∧ (cmdOf (.cpl2l cp0 .d1 0) 64 0 8).srcLocal = true ∧
      ct0.torn = [] ∧ Tab.wf 0 ct0.scratch = true ∧ ct0.localRead (dev .c ct0).raceOn (agentId 0 0 5) ct0.cpStamp
        (granulesOf (((cmdOf (.cpl2l cp0 .d1 0) 64 0 8).segs 8 256 0).map (fun g => (g.src, g.n)))) = .inr c1 ∧
      0 ∈ (cmdOf (.cpl2l cp0 .d1 0) 64 0 8).dstRanks 0) ∧
    (2 ^ 63 ≤ (cmdOf (.cpg2l cp0 .d1) 64 0x8000000000000000 8).src.toNat ∧
      (cmdOf (.cpg2l cp0 .d1) 64 0x8000000000000000 8).srcLocal = false ∧
      (cmdOf (.cpl2g cp0 .d1) 0x8000000000000000 64 8).dstRanks 0 = [] ∧
      2 ^ 63 ≤ (cmdOf (.cpl2g cp0 .d1) 0x8000000000000000 64 8).dst.toNat) ∧
    (∃ cr b', (dev .c ct0).ct? 0 0 = some cr ∧ (Tab.get Bar.zero ct0.bars 3).change (-8) (some 1) = some b') ∧
    ({ Bar.zero with count := -(2 ^ 48 - 1) } : Bar).change (-8) none = none ∧
    (engineSems (.cpl2g { cp0 with ssem := 5 } .d1)).2 = 5 ∧ (∃ c2, ct0.signal 5 1 0 (Config.sameCycle 0) = some c2) ∧
    ({ ct0 with sems := [(5, { n := 65535, st := 0 })] } : CoreTask).signal 5 1 0 (Config.sameCycle 0) = none ∧
    (∃ k : Task, k.faulted = true ∧ k.engineStops 0 0 4 = true) ∧ (task0 ct0).faulted = false ∧
    (∃ (s : State) (k : CopyCmd) (segs : List Seg) (bs : List Byte), s.pieceSource 0 0 (task0 ct0) ct0 k segs = (.held, bs)) ∧
    ∃ (s1 : State) (bs : List Byte) (segs : List Seg), (cmdOf (.cpg2l cp0 .d1) 64 0 8).src.toNat < 2 ^ 63 ∧
      segs = (cmdOf (.cpg2l cp0 .d1) 64 0 8).segs 8 256 0 ∧
      (dev .c ct0).pieceSource 0 0 (task0 ct0) ct0 (cmdOf (.cpg2l cp0 .d1) 64 0 8) segs = (.ok s1, bs) :=
  ⟨⟨_, rfl, rfl, rfl, rfl, rfl, by decide⟩, by decide, ⟨_, _, rfl, rfl⟩, by decide, rfl,
    ⟨_, (CoreTask.signal_eq ..).trans (if_neg (by decide))⟩, (CoreTask.signal_eq ..).trans (if_pos (by decide)),
    ⟨{ task0 { ct0 with notes := [⟨.trap, 0, false, 0, 0, 0, 0, 0, 0, 0, 0, 0, 0⟩] } with finished := [engineKey 0 4] }, rfl, by decide⟩, rfl,
    ⟨{ dev .c ct0 with pw := { State.reset.pw with freeze := (List.range 64).map (fun n => (128 + n, 1)) } },
      cmdOf (.cpg2l cp0 .d1) 64 0 8, (cmdOf (.cpg2l cp0 .d1) 64 0 8).segs 8 256 0, _, rfl⟩,
    _, _, _, by decide, rfl, rfl⟩

theorem witness_SemaphoresAndTransferBarriers :
    (∃ s1 c1 c2, (dev .l ct0).Releases (anySeq 0) .core ct0 s1 c1 ∧ (dev .l ct0).Enters (anySeq 0) ct0 ∧
      (c1.updSeq .l Seq.release).signal 255 65535 ((c1.seq .l).stamp + 1) (Config.sameCycle s1.tick) = some c2 ∧
      (255 : BitVec 8) ≠ 0 ∧ 1 ≤ 65535) ∧ ((dev .l ct0).canIssue (dev .l ct0).cur).isSome = true ∧
    (∃ c, (dev .l c).Releases (anySeq 0) .core c (dev .l c) c ∧
      (c.updSeq .l Seq.release).signal 3 1 ((c.seq .l).stamp + 1) (Config.sameCycle 0) = none ∧ (1 : Nat) ≤ (Tab.get Obj.zero c.sems 3).n ∧
      c.semWaits .l = false ∧ c.semWaiters 3 (fun m => (engineSems m.i).1) (fun m => (engineSems m.i).1) = []) ∧
    ((Tab.get Obj.zero ct0.sems 3).n < 1 ∧ ct0.semWaits .l = false ∧
      ct0.semWaiters 3 (fun m => (engineSems m.i).1) (fun m => (engineSems m.i).1) = []) ∧
    (∃ c : CoreTask, c.semServed .l = true) ∧ (∃ c : CoreTask, c.semWaits .l = true ∧ c.semServed .l = false) ∧
    (dev .c ct0).Enters { perm := [.c], cons := 0, dst := gDst 4 } ct0 := by
  refine ⟨⟨_, _, _, ⟨dev_enters _ _ rfl, rfl, rfl⟩, dev_enters _ _ rfl, (CoreTask.signal_eq ..).trans (if_neg (by decide)),
      by decide, by decide⟩, rfl,
    ⟨{ ct0 with sems := [(3, ⟨65535, 0⟩)] }, ⟨enters_of _ (t := task0 _) rfl rfl rfl, rfl, rfl⟩,
      (CoreTask.signal_eq ..).trans (if_pos (by decide)), by decide, by decide, by decide⟩, by decide,
    ⟨ct0.updSeq .l (fun q => q.await (.sem 3 1 true) 0 0), by decide⟩,
    ⟨ct0.updSeq .l (fun q => q.await (.sem 3 1 false) 0 0), by decide, by decide⟩, dev_enters _ _ rfl⟩

theorem witness_SemaphoresAndTransferBarriers_bars :
    (dev .c ct0).Enters (cOnly 0) ct0 ∧ (-(2 ^ 48 - 1) : Int) ≤ 2 ^ 48 - 1 ∧
    (Tab.get Bar.zero ct0.bars 5).count + (2 ^ 48 - 1) ≤ 2 ^ 48 - 1 ∧
    (∃ c : CoreTask, (2 ^ 48 - 1 : Int) < (Tab.get Bar.zero c.bars 5).count + 1) ∧
    (dev .l ct0).Enters (anySeq 0) ct0 ∧ (Tab.get Bar.zero ct0.bars 63).phase ≠ true ∧
    (Tab.get Bar.zero ct0.bars 63).phase = false ∧ (dev .x ct0).Enters (useD 0 7) ct0 :=
  ⟨dev_enters _ _ rfl, by decide, by decide, ⟨{ ct0 with bars := [(5, ⟨2 ^ 48 - 1, false, none, none⟩)] }, by decide⟩,
    dev_enters _ _ rfl, by decide, by decide, dev_enters _ _ rfl⟩

/-- A C-sequencer whose last atomic is in flight (`busy`), or has landed and read the stamp `y`. -/
def ctAtom (busy : Bool) (y : Option Stamp) : CoreTask :=
  ct0.updSeq .c (fun q => { q with lastAtom := some { ord := 0, busy := busy, y := y } })

theorem witness_GangBarrierAndFences :
    ((dev .c ct0).Enters (cOnly 0) ct0 ∧ ct0.gbarHere = false ∧ ct0.gbarReady = true ∧
      ∃ t, (((dev .c ct0).withCur ct0).gbarArrive 0 0).task? 0 = some t ∧
        ∀ e ∈ t.cts, e.2.gbarHere = true ∧ e.2.gbars = ct0.gbars) ∧
    (∃ (s : State) (t : Task), s.Enters (cOnly 0) ct0 ∧ ((s.withCur ct0).gbarArrive 0 0).task? 0 = some t ∧
      ∃ e ∈ t.cts, e.2.gbarHere = false ∨ e.2.gbars ≠ ct0.gbars) ∧
    (∃ c : CoreTask, c.gbarReady = false) ∧
    ((dev .c (ctAtom true none)).Enters (cOnly 0) (ctAtom true none) ∧ (ctAtom true none).seqC.lastAtom = some ⟨0, true, none⟩) ∧
    (ctAtom false (some 7)).seqC.lastAtom = some ⟨0, false, some 7⟩ ∧
    (∃ s1, (dev .c (ctAtom false (some 7))).Releases (cOnly 0) .chip (ctAtom false (some 7)) s1 (ctAtom false (some 7))) ∧
    ∀ l, ct0.seqC.lastAtom = some l → l.busy = false ∧ l.y = none :=
  ⟨⟨dev_enters _ _ rfl, rfl, by decide, _, rfl, by decide⟩,
    ⟨{ dev .c ct0 with tasks := [(0, { task0 ct0 with cts := [(0, ct0), (1, ct0)] })] }, _,
      enters_of _ (t := { task0 ct0 with cts := [(0, ct0), (1, ct0)] }) rfl rfl rfl, rfl, by decide⟩,
    ⟨{ ct0 with posted := [⟨0, ⟨false, 0⟩, 0, true, [1], 0, 0, .posted⟩] }, by decide⟩,
    ⟨enters_of _ (t := task0 _) rfl rfl rfl, rfl⟩, rfl, ⟨_, enters_of _ (t := task0 _) rfl rfl rfl, rfl, rfl⟩,
    fun l h => by cases h⟩

/-- An atomic of the test device's core-task on address `a`. -/
def atomReq (a : Nat) : AtomReq :=
  { slot := 0, rank := 0, ctx := 0, va := BitVec.ofNat 64 a, addr := a, key := 0, keep := true, dbl := true, op := some .add, v := 5,
    v2 := 0, tag := none, rel := false, acq := false, ord := 0, stamp := 0, waddr := 0 }

/-- The test device with `x` at the head of the queue of home slice `sl`. -/
def devSlice (sl : Nat) (x : SliceOp) : State :=
  { dev .c ct0 with m := { (dev .c ct0).m with slices := [(sl, { Slice.empty with queue := [x] })] } }

theorem witness_AtomicsRunAtTheirSlice :
    ((dev .c ct0).Enters { perm := [.c], cons := 0, alloc := some 2, dst := gDst 3 } ct0 ∧
      ((dev .c ct0).withCur ct0).task? 0 = some (task0 ct0) ∧ ct0.waitOf .c = none ∧ 8 ∣ (ct0.seqC.rd 10).toNat ∧
      ((dev .c ct0).withCur ct0).translate 0 Need.rmw 0 = .ok (xlAt 0) ∧ ((dev .c ct0).withCur ct0).accBusy 0 ct0 0 (xlAt 0).f 8 = false ∧
      ct0.postedAt (xlAt 0).f 8 = false ∧ ct0.pendingLoadAt (xlAt 0).f 8 = false ∧ ct0.again = [] ∧ ct0.seqC.relNext = none ∧
      (((dev .c ct0).withCur ct0).slice (homeSlice (xlAt 0).f)).queue.length < 64) ∧
    (∃ s2 c2, ((dev .c ct0).withCur ct0).testRelease (dev .c ct0).cur .chip = .ready s2 ∧ s2.ct? 0 0 = some c2 ∧
      (s2.slice (homeSlice (xlAt 0).f)).queue.length < 64) ∧
    (∃ (c : CoreTask) (s2 : State), ((dev .c c).withCur c).testRelease (dev .c c).cur .chip = .wait s2 ∧
      ((dev .c c).withCur c).accBusy 0 c 0 (xlAt 0).f 8 = false ∧ c.postedAt (xlAt 0).f 8 = false) ∧
    (∃ c : CoreTask, c.waitOf .c = some (.atom (some 9))) ∧ ¬8 ∣ ((ctRegs .c [(10, 4)]).seqC.rd 10).toNat ∧
    (((devSlice 0 (.atom (atomReq 0))).slice 0).held = [] ∧ ((devSlice 0 (.atom (atomReq 0))).slice 0).lane = [] ∧
      ((devSlice 0 (.atom (atomReq 0))).slice 0).queue = [.atom (atomReq 0)] ∧
      (devSlice 0 (.atom (atomReq 0))).sliceFrozen 0 = false ∧
      ((devSlice 0 (.atom (atomReq 0))).setSlice 0 Slice.empty).keyBad ⟨false, 0⟩ 0 = false ∧
      ((devSlice 0 (.atom (atomReq 0))).setSlice 0 Slice.empty).raceAt ⟨false, 0⟩ 8 true (agentId 0 0 0) 0 true true = none) ∧
    (∃ s : State, s.keyBad ⟨false, (atomReq 0).addr⟩ (atomReq 0).key = true) ∧
    (atomReq 0).tag = none ∧ ({ atomReq 0 with tag := some 2 } : AtomReq).tag.isSome = true ∧
    (atomReq 0).result 8 7 = some 12 ∧ ({ atomReq 0 with op := none, v := 5 } : AtomReq).result 8 7 = none :=
  ⟨⟨dev_enters _ _ rfl, rfl, rfl, by decide, dev_xl0 .., by decide, by decide, by decide, rfl, rfl, by decide⟩,
    ⟨_, _, rfl, rfl, by decide⟩,
    ⟨{ ct0 with posted := [⟨64, ⟨false, 64⟩, 0, true, [1], 0, 0, .posted⟩] }, _, rfl, by decide, by decide⟩,
    ⟨ct0.updSeq .c (fun q => q.await (.atom (some 9)) 0 0), rfl⟩, by decide, ⟨rfl, rfl, rfl, rfl, by decide, by decide⟩,
    ⟨{ State.reset with m := { State.reset.m with keyTags := [(0, 5)] } }, by decide⟩, rfl, rfl, by decide, by decide⟩

/-- `ct0` with a posted store of one byte to address 8 or to host address 8. -/
def ctPosted (host : Bool) : CoreTask := { ct0 with posted := [⟨8, ⟨host, 8⟩, 0, true, [1], 0, 0, .posted⟩] }

theorem witness_PostedStoresAreApplied :
    (∃ p, (dev .c (ctPosted false)).ct? 0 0 = some (ctPosted false) ∧ (dev .c (ctPosted false)).task? 0 = some (task0 (ctPosted false)) ∧
      (task0 (ctPosted false)).state = .running ∧ (ctPosted false).posted[0]? = some p ∧ p.stage = .posted ∧
      (dev .c (ctPosted false)).heldAt p.final = false ∧
      (∀ q ∈ (ctPosted false).posted.take 0, q.stage ≠ .anew ∧ q.final.host ≠ p.final.host) ∧
      (dev .c (ctPosted false)).keyBad p.final p.key = false ∧
      (dev .c (ctPosted false)).raceAt p.final 1 p.keep (agentId 0 0 0) p.stamp true false = none ∧ p.final.host = false ∧
      ({ dev .c (ctPosted false) with m := { State.reset.m with keyTags := [(0, 5)] } } : State).keyBad p.final p.key = true) ∧
    (∃ p, (ctPosted true).posted[0]? = some p ∧ p.final.host = true ∧ (dev .c ct0).hostOk p.final.a 1 = true) ∧
    ∃ p q, ({ ctPosted false with posted := (ctPosted false).posted ++ (ctPosted false).posted } : CoreTask).posted = [q, p] ∧
      rangesMeet q.final.a 1 p.final.a 1 = true :=
  ⟨⟨_, rfl, rfl, rfl, rfl, rfl, by decide, by decide, by decide, by decide, rfl, by decide⟩, ⟨_, rfl, rfl, by decide⟩, _, _, rfl, by decide⟩

/-- A store that is to be posted again, to a page that there is and to none. -/
theorem witness_PostedStoresAreApplied_anew :
    (∃ c p x, (dev .c c).ct? 0 0 = some c ∧ c.posted[0]? = some p ∧ p.stage = .anew ∧
      (dev .c c).translate 0 Need.write p.va = .ok x) ∧
    ∃ tr, (dev .c ct0).translate 0 Need.write 0xFFFF000000000000 = .trap tr :=
  ⟨⟨{ ct0 with posted := [⟨8, ⟨false, 8⟩, 0, true, [1], 0, 0, .anew⟩] }, _, _, rfl, rfl, rfl, xl_of Need.write rfl 8 (by decide)⟩,
    ⟨_, by unfold State.translate; rw [if_pos (by decide)]⟩⟩

/-- `ct0` with 4 in register a7, the stride. -/
def ctAcct : CoreTask := ctRegs .c [(17, 4)]

theorem witness_AccumulatesAreSent :
    (∃ es, (dev .c ctAcct).Enters (cOnly 0) ctAcct ∧ ((dev .c ctAcct).withCur ctAcct).task? 0 = some (task0 ctAcct) ∧
      acctOk 1 1 = true ∧ 4 ∣ (ctAcct.seqC.rd 10).toNat ∧ 4 ∣ (ctAcct.seqC.rd 17).toNat ∧
      4 * 1 ≤ (ctAcct.seqC.rd 17).toNat ∧ (ctAcct.seqC.rd 17).toNat ≤ 2 ^ 24 ∧
      Tab.get false ctAcct.accInt 0 = decide (AccFmt.f32 = .i32) ∧
      ((dev .c ctAcct).withCur ctAcct).target 0 0 1 1 4 = .ok es ∧ (∀ m ∈ ctAcct.mxq, namesAcc 0 m.i = false) ∧
      ctAcct.openSends < 16 ∧ ((dev .c ctAcct).withCur ctAcct).acctBlocked ctAcct
        ⟨0, 0, 1, 1, 4, .f32, true, none, none, 0, 0, false, 0⟩ es = false ∧ ctAcct.resid = [] ∧
      (∀ e ∈ es, e.2.f.host = false)) ∧
    acctOk 0 1 = false ∧ acctOk 64 64 = true ∧ acctOk 65 1 = false ∧
    (ct0.resid = [] ∧ ct0.sends = []) ∧ ¬4 ≤ (ct0.seqC.rd 17).toNat := by
  refine ⟨⟨[(0, xlAt 0)], enters_of _ (t := task0 _) rfl rfl rfl, rfl, by decide, by decide, by decide, by decide, by decide,
    by decide, ?_, by decide, by decide, by decide, rfl, by decide⟩, by decide, by decide, by decide, ⟨rfl, rfl⟩, by decide⟩
  rfl

/-- A piece of one element at address 0. -/
def piece0 (direct lane : Bool) : Piece :=
  { send := 0, elems := [(0, 0, 1)], keys := [(0, 0, true)], fmt := .f32, direct := direct, rt := none, lane := lane,
    slot := 0, rank := 0, ctx := 0, core := 0, va := 0, stamp := 0, waddr := 0, ready := false, mute := false }

/-- The test device with `c` in place of its core-task. -/
abbrev devC (c : CoreTask) : State := dev .c c

/-- A send that covers piece 0. -/
def send0 : AcctSend := ⟨0, 0, 1, 1, 4, .f32, false, none, none, 1, 1, false, 0⟩

/-- A residual of one element at address 0. -/
def resid0 (age : Nat) : Resid :=
  { va := 0, rows := 1, cols := 1, stride := 4, fmt := .f32, words := [], age := age, flying := false, due := false, held := true, last := 0,
    stamp := 0, waddr := 0 }

theorem witness_PiecesArriveAndAreAdded :
    (∃ c p, c = { ct0 with flight := [piece0 false false], sends := [send0] } ∧ (devC c).task? 0 = some (task0 c) ∧
      (devC c).ct? 0 0 = some c ∧ c.flight[0]? = some p ∧ (∀ x ∈ c.flight.take 0, x.slice = p.slice → x.lane ≠ p.lane) ∧
      p.lane = false ∧ (devC c).sliceFull p.slice p.core 0 = false ∧
      (devC c).sliceFrozen p.slice = false) ∧
    (∃ s : State, s.sliceFrozen 0 = true) ∧
    ((piece0 false true).lane = true ∧ ((devC ct0).slice 0).lane.length < 8) ∧
    (∃ s : State, s.sliceFull 0 0 0 = true ∧ (piece0 false false).direct = false ∧ (piece0 true false).direct = true) ∧
    (∃ s : State, 8 ≤ (s.slice 0).lane.length) ∧
    (((devSlice 0 (.piece (piece0 false false))).slice 0).queue = [.piece (piece0 false false)] ∧
      ((devSlice 0 (.piece (piece0 false false))).slice 0).lane = [] ∧ ((devSlice 0 (.piece (piece0 false false))).slice 0).held = [] ∧
      (devSlice 0 (.piece (piece0 false false))).sliceFrozen 0 = false ∧
      (piece0 false false).elems.Pairwise (fun e x => e.2.1 + 4 ≤ x.2.1 ∨ x.2.1 + 4 ≤ e.2.1) ∧
      ((devSlice 0 (.piece (piece0 false false))).setSlice 0 Slice.empty).pieceKeyBad (piece0 false false) = false ∧
      ((devSlice 0 (.piece (piece0 false false))).setSlice 0 Slice.empty).pieceRace (piece0 false false) = none) :=
  ⟨⟨_, _, rfl, rfl, rfl, rfl, by decide, rfl, by decide, by decide⟩, ⟨{ State.reset with pw := { State.reset.pw with freeze := [(128, 1)] } }, by decide⟩, ⟨rfl, by decide⟩,
    ⟨{ devC ct0 with m := { (devC ct0).m with
        slices := [(0, { Slice.empty with queue := List.replicate 49 (.piece (piece0 false false)) })] } }, by decide, rfl, rfl⟩,
    ⟨{ devC ct0 with m := { (devC ct0).m with slices := [(0, { Slice.empty with lane := List.replicate 8 (piece0 false true) })] } },
      by decide⟩, by decide, rfl, rfl, rfl, List.pairwise_singleton .., by decide, by decide⟩

theorem witness_PiecesArriveAndAreAdded_returns :
    (∃ c : CoreTask, c.returns[0]? = some (piece0 false false) ∧
      c.sends.find? (fun y => decide (y.id = (piece0 false false).send)) = some send0 ∧ c.slotOf send0 = none ∧
      c.freeSlot = some 0) ∧
    (∃ (c : CoreTask) (r : Resid), c.slotOf send0 = some 3 ∧ find c.resid (3 : Fin 8).val = some r) ∧
    (∃ c : CoreTask, c.slotOf send0 = none ∧ c.freeSlot = none) ∧
    (∃ c s1, (devC c).task? 0 = some (task0 c) ∧ find c.resid (2 : Fin 8).val = some (resid0 (65536 * 1000)) ∧
      (devC c).deliver 0 0 2 = .ok s1) ∧
    ((resid0 (65536 * 1000 - 1)).age < 65536 * 1000 ∧ (resid0 0).due = false ∧ { resid0 0 with due := true }.due = true) :=
  ⟨⟨{ ct0 with returns := [piece0 false false], sends := [send0] }, rfl, rfl, by decide, by decide⟩,
    ⟨{ ct0 with resid := [(3, resid0 0)] }, _, by decide, rfl⟩,
    ⟨{ ct0 with resid := (List.range 8).map (fun k => (k, { resid0 0 with va := 64 })) }, by decide, by decide⟩,
    ⟨{ ct0 with resid := [(2, resid0 (65536 * 1000))] }, _, rfl, rfl, rfl⟩, by decide, rfl, rfl⟩

/-- A pigeonhole of the test device's core-task. -/
def pigeon0 : Pigeon :=
  { id := 4, addr := 0, keep := true, mask := 0, cc := .eq, e := 0, slot := 0, rank := 0, tenant := 0, lost := false, deadline := some 100 }

theorem witness_WaitsOnAddressesAndFutures :
    ((dev .c ct0).Enters { perm := [.c], cons := 0, dst := gDst 3 } ct0 ∧ ct0.waitOf .c = none ∧ 8 ∣ (ct0.seqC.rd 10).toNat ∧
      ((dev .c ct0).withCur ct0).translate 0 Need.waita 0 = .ok (xlAt 0) ∧
      ((dev .c ct0).withCur ct0).accBusy 0 ct0 0 (xlAt 0).f 8 = false ∧ ct0.postedAt (xlAt 0).f 8 = false ∧
      ct0.pendingLoadAt (xlAt 0).f 8 = false ∧ ((dev .c ct0).withCur ct0).atomAt 0 0 (xlAt 0).f 8 = false ∧
      (dev .c ct0).heldAt (xlAt 0).f = false ∧ ((dev .c ct0).withCur ct0).keyBad (xlAt 0).f 0 = false ∧
      ((dev .c ct0).withCur ct0).raceAt (xlAt 0).f 8 true (agentId 0 0 0) 0 false true = none ∧
      condHolds .eq 0 0 = true ∧ condHolds .ne 0 0 = false ∧ ((dev .c ct0).withCur ct0).pigeonFull 0 0 = false) ∧
    (∃ c : CoreTask, c.waitOf .c = some (.waita 4 (some 1) none)) ∧
    (pigeon0.deadline = some 100 ∧ State.reset.dtime < 100 ∧ 100 ≤ ({ State.reset with dtime := 100 } : State).dtime ∧
      ∃ s : State, find s.m.slices 5 = some { Slice.empty with pigeons := [pigeon0] } ∧
        ∀ e ∈ s.m.slices, ∀ q ∈ e.2.pigeons, q.id = pigeon0.id → e.1 = 5 ∧ q = pigeon0) ∧
    ({ pigeon0 with deadline := none }.deadline = none ∧ ∀ e ∈ State.reset.m.slices, ∀ q ∈ e.2.pigeons, q.id ≠ 4) ∧
    (∃ (s : State) (c : CoreTask) (w : Wait), pigeon0 ∈ (s.slice 5).pigeons ∧
      (∀ q ∈ (s.slice 5).pigeons, q.id = pigeon0.id → q = pigeon0) ∧ pigeon0.lost = false ∧ pigeon0.addr < 7 + 1 ∧
      7 < pigeon0.addr + 8 ∧ condHolds pigeon0.cc (leWord (readN 0 s.m.dpa pigeon0.addr 8) &&& pigeon0.mask) pigeon0.e = true ∧
      s.ct? pigeon0.slot pigeon0.rank = some c ∧ c.seqC.wait = some w ∧ w.kind = .waita pigeon0.id none none) ∧
    (∃ c w, (devC c).ct? pigeon0.slot pigeon0.rank = some c ∧ c.seqC.wait = some w ∧ w.kind = .waita pigeon0.id none none) :=
  ⟨⟨dev_enters _ _ rfl, rfl, by decide, dev_xl0 .., by decide, by decide, by decide, by decide, by decide, by decide,
      by decide, by decide, by decide, by decide⟩,
    ⟨ct0.updSeq .c (fun q => q.await (.waita 4 (some 1) none) 0 0), rfl⟩,
    ⟨rfl, by decide, by decide, { State.reset with m := { State.reset.m with slices := [(5, { Slice.empty with pigeons := [pigeon0] })] } }, rfl, by decide⟩,
    ⟨rfl, by decide⟩,
    ⟨{ devC (ct0.updSeq .c (fun q => q.await (.waita 4 none none) 0 0)) with m := { State.reset.m with
        slices := [(5, { Slice.empty with pigeons := [pigeon0] })] } }, _, _, by decide, by decide, rfl, by decide, by decide, by decide,
      rfl, rfl, rfl⟩,
    ct0.updSeq .c (fun q => q.await (.waita 4 none none) 0 0), _, rfl, rfl, rfl⟩

/-- A page request of context 0. -/
def page0 : PageReq := { ctx := 0, page := 7, host := false, need := (true, false), sent := true, orphan := false }

/-- A future that has not been resolved, one that has been, and the quota of its waiters. -/
theorem witness_WaitsOnAddressesAndFutures_futures :
    ((dev .c ct0).Enters (cOnly 0) ct0 ∧ 16 ∣ (ct0.seqC.rd 10).toNat ∧
      ((dev .c ct0).withCur ct0).translate 0 Need.rmw 0 = .ok (xlAt 0) ∧ (xlAt 0).f.host = false ∧
      ((dev .c ct0).withCur ct0).accBusy 0 ct0 0 (xlAt 0).f 16 = false ∧ ct0.postedAt (xlAt 0).f 16 = false ∧
      ct0.pendingLoadAt (xlAt 0).f 16 = false ∧ ((dev .c ct0).withCur ct0).atomAt 0 0 (xlAt 0).f 16 = false ∧
      (dev .c ct0).heldAt (xlAt 0).f = false ∧ ((dev .c ct0).withCur ct0).keyBad (xlAt 0).f 0 = false ∧ futBad (((dev .c ct0).withCur ct0).futAt 0) = false ∧
      futState (((dev .c ct0).withCur ct0).futAt 0) ≠ 2 ∧ futWaiters (((dev .c ct0).withCur ct0).futAt 0) < 65535 ∧
      ¬16 ∣ ((ctRegs .c [(10, 8)]).seqC.rd 10).toNat) ∧
    (∃ s3, ((((dev .c ct0).withCur ct0).cache 0 0 (xlAt 0) 16).clearMiss 0 0 0 0 0).testRelease (dev .c ct0).cur .chip = .ready s3 ∧
      s3.ct? 0 0 = some ct0 ∧ futState (s3.futAt 0) ≠ 2 ∧ s3.raceAt (xlAt 0).f 16 true (agentId 0 0 0) 1 true true = none) ∧
    ((dev .c ct0).Enters { perm := [.c], cons := 0, dst := gDst 3 } ct0 ∧ ct0.waitOf .c = none ∧
      ((((dev .c ct0).withCur ct0).cache 0 0 (xlAt 0) 16).clearMiss 0 0 0 0 0).tenantFutures 0 <
        fieldOf (((((dev .c ct0).withCur ct0).cache 0 0 (xlAt 0) 16).clearMiss 0 0 0 0 0).tqWord 0 0) 15 14 ∧
      ((((dev .c ct0).withCur ct0).cache 0 0 (xlAt 0) 16).clearMiss 0 0 0 0 0).raceAt (xlAt 0).f 16 true (agentId 0 0 0) 0 true true =
        none ∧
      ((((dev .c ct0).withCur ct0).cache 0 0 (xlAt 0) 16).clearMiss 0 0 0 0 0).raceAt (xlAt 0).f 16 true (agentId 0 0 0) 0 false true =
        none) ∧
    (∃ s : State, futState (s.futAt 0) = 2 ∧ futBad (s.futAt 0) = false) ∧
    ∃ s : State, fieldOf (s.tqWord 0 0) 15 14 ≤ s.tenantFutures 0 :=
  ⟨⟨dev_enters _ _ rfl, by decide, dev_xl0 .., rfl, by decide, by decide, by decide, by decide, by decide, by decide, by decide,
      by decide, by decide, by decide⟩,
    ⟨_, rfl, rfl, by decide, by decide⟩, ⟨dev_enters _ _ rfl, rfl, by decide, by decide, by decide⟩,
    ⟨{ State.reset with m := { State.reset.m with dpa := [(0, 2)] } }, by decide, by decide⟩,
    { State.reset with r := { State.reset.r with tq := [(0, 0)] } }, by decide⟩

/-- A submission by a word of context 0. -/
def subAt : Submitter := { ctx := 0, priv := false, host := false, stream := none, job := some 0, multi := none }

/-- The state in which TSUBMIT's release point is tested. -/
def s0Of (c : CoreTask) : State := (((devC c).withCur c).noteVa 0 Need.waita 0 128).clearWord 0 0 0 0

theorem witness_TasksAreSubmittedAndAccepted :
    (∃ b0 s1 c1 bs n x, (dev .c ct0).Enters { perm := [.c], cons := 0, dst := gDst 3 } ct0 ∧ ct0.waitOf .c = none ∧
      64 ∣ (ct0.seqC.rd 10).toNat ∧ ((dev .c ct0).withCur ct0).readAs 0 Need.waita 0 128 = .ok b0 ∧
      (s0Of ct0).testRelease (dev .c ct0).cur .sys = .ready s1 ∧
      s1.ct? 0 0 = some c1 ∧ s1.readAs 0 Need.waita 0 128 = .ok bs ∧
      wordField (patchDesc (descWords bs) none none) 1 28 1 = 0 ∧
      s1.checkSub (patchDesc (descWords bs) none none) 0 subAt = .refuse n x ∧
      s1.quotaOk (s1.ctxTenant 0) (patchDesc (descWords bs) none none) 0 = true) ∧
    (¬64 ∣ ((ctRegs .c [(10, 8)]).seqC.rd 10).toNat ∧ ¬16 ∣ (8 : Word).toNat ∧ 16 ∣ (16 : Word).toNat) ∧
    (∃ c s1, (s0Of c).testRelease (devC c).cur .sys = .wait s1 ∧ c.waitOf .c = none) ∧
    (∃ (s : State) (tr : Trap), s.readAs 0 Need.waita 0xFFFF000000000000 128 = .trap tr) ∧
    (∃ c : CoreTask, c.waitOf .c = some (.remote 5 none)) ∧ (∃ c : CoreTask, c.waitOf .c = some (.remote 5 (some 7))) ∧
    ((0 : Nat) < 4096 ∧ State.reset.task? 0 = none ∧ ((dev .c ct0).task? 0).isSome = true ∧ (dev .c ct0).task? 1 = none ∧
      ∀ m < 1, ((dev .c ct0).task? m).isSome = true) :=
  ⟨⟨_, _, _, _, _, _, dev_enters _ _ rfl, rfl, by decide, rfl, rfl, rfl, rfl, rfl, rfl, by decide⟩, by decide,
    ⟨{ ct0 with posted := [⟨64, ⟨false, 64⟩, 0, true, [1], 0, 0, .posted⟩] }, _, rfl, rfl⟩,
    ⟨State.reset, _, by unfold State.readAs; rfl⟩,
    ⟨ct0.updSeq .c (fun q => q.await (.remote 5 none) 0 0), rfl⟩,
    ⟨ct0.updSeq .c (fun q => q.await (.remote 5 (some 7)) 0 0), rfl⟩, by decide, by decide, by decide, by decide,
    fun m h => by rw [show m = 0 by omega]; rfl⟩

/-- A descriptor of one rank and no stream, its image at 0x1000. -/
def td0 : List Word := [0x1000, 0x100000001, 0xFF00000000, 0, 0, 0, 0, 0, 0, 0, 0, 0, 0, 0, 0, 0]

/-- `td0` with word `i` as `v`. -/
def tdWith (i : Nat) (v : Word) : List Word := td0.set i v

/-- A core-task whose TSUBMIT holds the descriptor `td`. -/
def ctHolds (td : List Word) : CoreTask := ct0.updSeq .c (fun q => q.await (.submit td true) 0 0)

/-- The test device with that core-task; its context 0 pages too, with empty tables. -/
def devHolds (td : List Word) : State :=
  { devC (ctHolds td) with r := { State.reset.r with ctx := [(1, 1024#64 <<< 21), (3, 1)] } }

set_option maxRecDepth 20000 in
/-- A held descriptor whose image lies on a page that there is not, whose context has no page requests, and one that its
tenant's quota holds. -/
theorem witness_TasksAreSubmittedAndAccepted_held :
    (∃ n m t, (ctHolds (tdWith 0 0x8000000000)).waitOf .c = some (.submit (tdWith 0 0x8000000000) n) ∧
      wordField (tdWith 0 0x8000000000) 1 28 1 = 0 ∧
      ((devHolds (tdWith 0 0x8000000000)).withCur (ctHolds (tdWith 0 0x8000000000))).checkSub (tdWith 0 0x8000000000) 0 subAt = .miss m ∧
      ((devHolds (tdWith 0 0x8000000000)).withCur (ctHolds (tdWith 0 0x8000000000))).quotaOk 0 (tdWith 0 0x8000000000) 0 = true ∧
      ((devHolds (tdWith 0 0x8000000000)).withCur (ctHolds (tdWith 0 0x8000000000))).task? 0 = some t ∧
      ((devHolds (tdWith 0 0x8000000000)).withCur (ctHolds (tdWith 0 0x8000000000))).prqEnabled t.ctx = false) ∧
    ∃ s : State, s.quotaOk 0 td0 0 = false :=
  ⟨⟨_, _, _, rfl, by decide, rfl, by decide, rfl, by decide⟩,
    ⟨{ State.reset with r := { State.reset.r with tq := [(0, 0)] } }, by decide⟩⟩

/-- REMOTE descriptors: without a link; over one, with a field that is refused, without a table, and with one. -/
theorem witness_TasksAreSubmittedAndAccepted_remote :
    wordField (tdWith 1 0x110000001) 1 28 1 = 1 ∧ ¬(State.reset.r.featw0.getLsbD 4 = true ∧ State.reset.ports.peer = true) ∧
    ∃ s : State, (s.r.featw0.getLsbD 4 = true ∧ s.ports.peer = true) ∧
      tdOk (tdWith 1 0x110000000) = false ∧ tdOk (tdWith 1 0x110000001) = true ∧
      s.checkPgt (tdWith 1 0x110000001) 0 false = .refuse ∧ tdOk ((tdWith 1 0x110000001).set 4 0x40) = true ∧
      ∃ l, s.checkPgt ((tdWith 1 0x110000001).set 4 0x40) 0 false = .ok l :=
  ⟨by decide, by decide, { dev .c ct0 with
      r := { (dev .c ct0).r with featw0 := 0x10 }, ports := { State.reset.ports with peer := true },
      m := { (dev .c ct0).m with dpa := [(0x40, 1)] } },
    by decide, by decide, by decide, rfl, by decide, _, rfl⟩

/-! ### Streams and encoders -/
/-- The test device with that descriptor at address 0, and its image. -/
def devSub : State :=
  { dev .c ct0 with m := { (dev .c ct0).m with
      dpa := [(1, 0x10), (8, 1), (12, 1), (20, 0xFF), (0x1000, 0x56), (0x1001, 0x4F), (0x1002, 0x49), (0x1003, 0x4D), (0x1004, 1),
        (0x1008, 1)] } }

/-- The image at 0x1000. -/
theorem devSub_image : ∃ img, devSub.readImage 0 0x1000 = .ok img 1 [] := ⟨_, rfl⟩

set_option maxRecDepth 20000 in
theorem witness_TasksAreSubmittedAndAccepted_accepts :
    ∃ bs img xs, devSub.readAs 0 Need.waita 0 128 = .ok bs ∧ patchDesc (descWords bs) none none = td0 ∧
      wordField td0 1 28 1 = 0 ∧ devSub.checkSub td0 0 subAt = .ok img xs ∧
      devSub.quotaOk (devSub.ctxTenant 0) td0 (devSub.unresolved xs).length = true :=
  ⟨_, _, _, rfl, by decide, by decide, rfl, by decide⟩

/-- A stream with two ring slots and two pages, whose step 1 is open or not. -/
def stream0 (isOpen : Bool) : Stream :=
  { sd := List.replicate 16 0, part := 0, tenant := 0, ctx := 0, queue := 0, tag := 0, isOpen := isOpen, closed := 0,
    postmark := 1000, work := 10, done := 0, risk := false, ended := false, rung := 0, stepRung := 0, good := 0, events := 0,
    evs := [], slots := [⟨.free, none⟩, ⟨.published, some 3⟩], cl := 0, gt := 1, store := [],
    kv := [⟨true, true, 0⟩, ⟨false, false, 1⟩], kvSeq := 2 }

set_option maxRecDepth 20000 in
/-- The refusals, each with one field that draws it, at the ends of their ranges. -/
theorem witness_TasksAreSubmittedAndAccepted_refusals :
    (tdOk td0 = true ∧ tdOk (tdWith 1 0x100000000) = false ∧ tdOk (tdWith 1 0x100000010) = true ∧
      tdOk (tdWith 1 0x100000011) = false ∧ tdOk (tdWith 6 0x10) = true) ∧
    (devSub.awaited 0 [vaField td0 6, vaField td0 7] = .ok Image.none [] ∧
      ∃ (s : State) (x : Word), s.awaited 0 [vaField (tdWith 6 0x10) 6, 0] = .refuse 1 x) ∧
    ((∃ s : State, (match s.taskPart 0 with | some p => (s.partCores p).length | none => 0) < wordField td0 1 0 5) ∧
      wordField td0 1 0 5 ≤ (match devSub.taskPart 0 with | some p => (devSub.partCores p).length | none => 0)) ∧
    (devSub.readImage 0 (vaField (tdWith 0 0x2000) 0) = .bad ∧ (∃ img, devSub.readImage 0 (vaField td0 0) = .ok img 1 [])) ∧
    (wordField (tdWith 1 0x100000002) 1 0 5 ≠ 1 ∧ wordField td0 1 0 5 = 1) ∧
    (wordField td0 1 16 4 = devSub.ctxTenant 0 ∧ wordField (tdWith 1 0x100010001) 1 16 4 ≠ devSub.ctxTenant 0 ∧
      wordField (tdWith 1 0x100800001) 1 23 1 = 1 ∧ subAt.priv = false) ∧
    (tdStream td0 subAt = some none ∧ tdStream (tdWith 2 0x4000000000) subAt = none ∧
      tdStream (tdWith 2 0x3F00000005) subAt = some (some (63, 5)) ∧ devSub.stream? 63 = none) ∧
    (devSub.checkPgt td0 0 true = .ok 0 ∧ devSub.checkPgt (tdWith 1 0x110000001) 0 true = .refuse) := by
  refine ⟨by decide, ⟨rfl, { State.reset with r := { State.reset.r with ctx := [] } }, _, rfl⟩,
    ⟨⟨{ State.reset with r := { State.reset.r with partcfg := [(0, 0)] } }, by decide⟩, by decide⟩, ⟨rfl, devSub_image⟩,
    by decide, by decide, ⟨rfl, rfl, rfl, rfl⟩, rfl, rfl⟩

/-- A stream that a submission may name: of its partition, its step not closed; and one that it may not. -/
theorem witness_TasksAreSubmittedAndAccepted_stream :
    ∃ (s : State) (x : Stream), s.stream? 63 = some x ∧ s.taskPart 0 = some x.part ∧
      2 ^ 31 ≤ (x.closed - 5).toNat ∧ ¬2 ^ 31 ≤ (x.closed - 4).toNat :=
  ⟨{ devSub with streams := [(63, { stream0 true with closed := 4 })] }, _, rfl, rfl, by decide, by decide⟩

/-- Tasks 3, with a write of bytes 0 to 63, and 4, without a range, as candidates; a read of byte 63. -/
theorem witness_TasksAreSubmittedAndAccepted_ranges :
    ∃ s : State, s.predecessors [0, 0x100000, 0, 0, 0, 0, 0, 0, 63, 1] 0 none = [3] :=
  ⟨{ State.reset with tasks := [(3, { task0 ct0 with
        id := 3, td := [0, 0x100000, 0, 0, 0, 0, 0, 0, 0, 0x8000000000000040] }), (4, { task0 ct0 with id := 4 })] }, by decide⟩


/-- The task of the test device in stream 0, at step `b`. -/
def taskS (b : BitVec 32) (c : CoreTask) : Task := { task0 c with stream := some 0, step := b }

/-- The test device with stream 0. -/
def devStream (q : SeqId) (c : CoreTask) (b : BitVec 32) (st : Stream) : State :=
  { dev q c with tasks := [(0, taskS b c)], streams := [(0, st)] }

theorem inStream_of (q : SeqId) (c : CoreTask) (b : BitVec 32) (st : Stream) (u : WordUse) (ht : (c.seq q).tags = [])
    (hp : u.perm.contains q = true)
    (h : (devStream q c b st).canIssue (devStream q c b st).cur = some (taskS b c, c)) (hl : u.legal = true := by rfl) :
    (devStream q c b st).InStream u c (taskS b c) 0 st :=
  ⟨enters_of u (t := taskS b c) h ht hp hl, rfl, rfl, rfl⟩

theorem witness_StreamSteps :
    ((dev .c ct0).Enters (cOnly 0) ct0 ∧ ((dev .c ct0).withCur ct0).task? 0 = some (task0 ct0) ∧ (task0 ct0).stream = none) ∧
    ((devStream .c ct0 1 (stream0 true)).InStream { perm := [.c], cons := 0, dst := some (.g 3) } ct0 (taskS 1 ct0) 0 (stream0 true) ∧
      (stream0 true).isOpen = true ∧ (stream0 false).isOpen = false ∧ (taskS 1 ct0).step = (stream0 true).step ∧
      (stream0 true).openFor (taskS 1 ct0) = true ∧ (stream0 false).openFor (taskS 1 ct0) = false) ∧
    ((0xFFFFFFFF : Word).toNat < 2 ^ 32 ∧ 2 ^ 32 ≤ (0x100000000 : Word).toNat) ∧
    ((taskS 2 ct0).step ≠ (stream0 true).step ∧ stepLe 2 (stream0 true).closed = false ∧ stepLe 0 (stream0 true).closed = true) ∧
    ((devStream .c ct0 1 (stream0 true)).InStream (cOnly 0) ct0 (taskS 1 ct0) 0 (stream0 true) ∧ (stream0 true).ended = false ∧
      { stream0 true with ended := true }.openFor (taskS 1 ct0) = true) :=
  ⟨⟨dev_enters _ _ rfl, rfl, rfl⟩, ⟨inStream_of .c ct0 1 _ _ rfl rfl rfl, rfl, rfl, by decide, by decide, by decide⟩,
    by decide, by decide, inStream_of .c ct0 1 _ _ rfl rfl rfl, rfl, by decide⟩

theorem witness_FrameRingsAndKeyValueWindows :
    ((devStream .c ct0 1 (stream0 true)).InStream { perm := [.c], cons := 0, dst := gDst 3 } ct0 (taskS 1 ct0) 0 (stream0 true) ∧
      (stream0 true).slots[(stream0 true).cl % 2]? = some ⟨.free, none⟩ ∧
      (stream0 true).slots[(stream0 true).gt % 2]? = some ⟨.published, some 3⟩ ∧
      ((devStream .c ct0 1 (stream0 true)).withCur ct0).spinTurn ct0 (.put 0) = true ∧
      ((devStream .c ct0 1 (stream0 true)).withCur ct0).spinTurn ct0 (.get 0) = true) ∧
    (∃ st : Stream, st.slots[st.cl % st.slots.length]? = some ⟨.claimed, none⟩ ∧
      st.slots[st.gt % st.slots.length]? = some ⟨.claimed, none⟩) ∧
    (∃ c s1 c1 st, (devStream .c c 1 st).Releases (cOnly 0) .chip c s1 c1 ∧
      (devStream .c c 1 st).InStream (cOnly 0) c (taskS 1 c) 0 st ∧
      slotOfHandle 0 st (c.seqC.rd 10) = some 1 ∧ st.slots[1]? = some ⟨.taken, some 3⟩ ∧ slotOfHandle 0 st 0 = none) ∧
    ((0 : Nat) < 64 ∧ (stream0 true).slots.length ≤ 16) ∧
    ((stream0 true).kv[1]? = some ⟨false, false, 1⟩ ∧ ∀ i < 1, ∀ w, (stream0 true).kv[i]? = some w → w.valid = true) := by
  refine ⟨⟨inStream_of .c ct0 1 _ _ rfl rfl rfl, rfl, rfl, by decide, by decide⟩,
    ⟨{ stream0 true with slots := [⟨.claimed, none⟩, ⟨.claimed, none⟩] }, rfl, rfl⟩,
    ⟨ctRegs .c [(10, 0x8000800000000000)], _, _, { stream0 true with slots := [⟨.free, none⟩, ⟨.taken, some 3⟩] },
      ⟨enters_of _ (t := taskS 1 _) rfl rfl rfl, rfl, rfl⟩, inStream_of .c _ 1 _ _ rfl rfl rfl, by decide, rfl, by decide⟩,
    by decide, rfl, ?_⟩
  intro i hi w hw
  obtain rfl : i = 0 := by omega
  simp [stream0] at hw
  rw [← hw]

/-- Windows where every page is valid: one unpinned page, none, and a page to pin. -/
theorem witness_FrameRingsAndKeyValueWindows_kv :
    (∃ st : Stream, ∀ v ∈ st.kv, v.valid = true ∧ v.pinned = true) ∧
    (∃ st : Stream, st.kv[0]? = some ⟨true, false, 0⟩ ∧ (∀ w ∈ st.kv, w.valid = true) ∧
      ∀ i w, st.kv[i]? = some w → w.pinned = false → i ≠ 0 → 0 < w.seq) ∧
    ((stream0 true).kv[0]? = some ⟨true, true, 0⟩ ∧ (stream0 true).kvVa 0 = 0 ∧ ct0.seqC.rd 10 = 0) := by
  refine ⟨⟨{ stream0 true with kv := [⟨true, true, 0⟩] }, by decide⟩, ⟨{ stream0 true with kv := [⟨true, false, 0⟩] }, rfl, by decide, ?_⟩,
    rfl, by decide, by decide⟩
  intro i w h _ h0
  cases i with
  | zero => exact absurd rfl h0
  | succ i => simp at h

/-- The test device with an encode context of stream 0: depth 8, a frame of 64 × 64. -/
def devEnc (c : CoreTask) (x : EncCtx) : State := { devStream .x c 1 (stream0 true) with encs := [(3, x)] }

/-- An enabled context: WIDTH 64, HEIGHT 64, with its values in force. -/
def enc0 : EncCtx :=
  { EncCtx.zero with stream := some 0, ecfg := 1 ||| (64#64 <<< 44) ||| (64#64 <<< 32), ecfgF := 1 ||| (64#64 <<< 44) ||| (64#64 <<< 32) }

theorem witness_Encoders :
    (∃ s1 c1 tl, (devEnc (ctTo 6 0) enc0).encOf 0 = some (3, enc0) ∧
      (devEnc { ct0 with tsd := [(0, 0xFF064040)] } enc0).InStream { perm := [.x], cons := 0 } { ct0 with tsd := [(0, 0xFF064040)] }
        (taskS 1 { ct0 with tsd := [(0, 0xFF064040)] }) 0 (stream0 true) ∧
      ecfgEn enc0.ecfg = true ∧ (0 : Fin 8).val = 3 / 8 ∧
      (0 : Nat) < ceilDiv (planeSize enc0.ecfg 0).1 64 ∧ ceilDiv (planeSize enc0.ecfg 0).1 64 ≤ 1 ∧
      ({ ct0 with tsd := [(0, 0xFF064040)] } : CoreTask).source (.tile 0) false false [] = .tile tl ∧ tl.scales = none ∧ tl.rows = 64 ∧
      tl.cols = 64 ∧ tl.fmt = .i8 ∧ ecfgDeep enc0.ecfg = false ∧
      (Tab.get [] (devEnc { ct0 with tsd := [(0, 0xFF064040)] } enc0).letters 0).length < 8 ∧
      (devEnc { ct0 with tsd := [(0, 0xFF064040)] } enc0).Releases { perm := [.x], cons := 0 } .chip
        { ct0 with tsd := [(0, 0xFF064040)] } s1 c1) ∧
    (devStream .x ct0 1 (stream0 true)).encOf 0 = none ∧ ecfgEn EncCtx.zero.ecfg = false :=
  ⟨⟨_, _, _, rfl, ⟨enters_of _ (t := taskS 1 _) rfl rfl rfl, rfl, rfl, rfl⟩, by decide, by decide, by decide, by decide, rfl, rfl,
      rfl, rfl, rfl, by decide, by decide, ⟨enters_of _ (t := taskS 1 _) rfl rfl rfl, rfl, rfl⟩⟩, by decide, by decide⟩

/-- A letterbox block of the test context at (0, 0) of plane 0. -/
def block0 (fstart : Bool) : LetterBlock := ⟨3, 0, 0, 0, fstart, [], 0⟩

/-- The test device with that block at the head of letterbox 0. -/
def devBlock (x : EncCtx) : State := { devEnc ct0 x with letters := [(0, [block0 true])] }

/-- A frame with one block of a plane of 64 × 64, and no other plane. -/
def frame0 : Frame := ⟨[(0, [])], 0, enc0.ecfg⟩

theorem witness_Encoders_engine :
    (Tab.get [] (devBlock enc0).letters 0 = [block0 true] ∧ find (devBlock enc0).encs (8 * 0 + (block0 true).ectx) = some enc0 ∧
      enc0.lastTake = none ∧ (devBlock enc0).encGone enc0 = false ∧ (∀ y ∈ (devBlock enc0).encs, y.2.coded = none) ∧
      enc0.take (block0 true) (devBlock enc0).dtime ≠ none) ∧
    (∃ s : State, Tab.get [] s.letters 0 = [block0 true] ∧ find s.encs 3 = none) ∧
    (∃ x : EncCtx, x.lastTake = some 0 ∧ (0 : Nat) < 0 + fieldOf x.erateF 16 16) ∧
    (∃ y ∈ (devBlock { enc0 with coded := some [1] }).encs, y.1 / 8 = 0 ∧ y.2.coded ≠ none ∧
      (devBlock { enc0 with coded := some [1] }).encGone y.2 = false) ∧
    (∃ s : State, s.encGone enc0 = true) ∧ State.reset.nextEnc 0 = none ∧
    (devBlock enc0).plainWaits (.enc 3) 0 = none ∧ (∃ s : State, (s.plainWaits (.enc 3) 0).isSome = true) ∧
    (∃ (s : State) (x : EncCtx), s.nextEnc 0 = some (3, x) ∧ x.owed = true) ∧
    (∃ (s : State) (x : EncCtx), s.nextEnc 0 = some (3, x) ∧ x.owed = false ∧ x.coded = some [1]) ∧
    ∃ (s : State) (x : EncCtx) (f : Frame), s.nextEnc 0 = some (3, x) ∧ x.owed = false ∧ x.coded = none ∧ x.toCode = some f :=
  ⟨⟨rfl, rfl, rfl, by decide, by decide, by decide⟩, ⟨{ State.reset with letters := [(0, [block0 true])] }, rfl, rfl⟩,
    ⟨{ enc0 with lastTake := some 0, erateF := 0x10000 }, rfl, by decide⟩, by decide,
    ⟨{ devBlock enc0 with ports := { State.reset.ports with vf := [(1, { VfMig.idle with exported := true })] } }, by decide⟩, rfl,
    by decide, ⟨{ State.reset with m := { State.reset.m with misses := [((Plain.enc 3).key 7, 1)] },
                                   r := { State.reset.r with prq := [page0] } }, by decide⟩,
    ⟨devEnc ct0 { enc0 with owed := true }, _, rfl, rfl⟩, ⟨devEnc ct0 { enc0 with coded := some [1] }, _, rfl, rfl, rfl⟩,
    devEnc ct0 { enc0 with toCode := some ⟨[], 0, 0⟩ }, _, _, rfl, rfl, rfl, rfl⟩

/-- The cases of a block: EN clear, no frame, a new frame, one that another waits before, a block that does or does not
complete its frame. -/
theorem witness_Encoders_take :
    (EncCtx.zero.ecfgF.getLsbD 0 = false ∧ enc0.ecfgF.getLsbD 0 = true ∧ enc0.ecfg.getLsbD 0 = true ∧ enc0.cur = none ∧
      enc0.toCode = none) ∧
    (frame0.full = false ∧ ({ frame0 with blocks := [(0, []), (4096, []), (8192, [])] } : Frame).full = true) ∧
    (∃ x : EncCtx, x.cur = some frame0 ∧ x.toCode ≠ none) ∧ (∃ x : EncCtx, x.cur = some frame0 ∧ x.toCode = none) ∧
    (∃ f : Frame, f.full = true ∧ f.blocks = [(0, [])]) :=
  ⟨by decide, by decide, ⟨{ enc0 with cur := some frame0, toCode := some frame0 }, rfl, by decide⟩,
    ⟨{ enc0 with cur := some frame0 }, rfl, rfl⟩, ⟨⟨[(0, [])], 0, 1⟩, by decide, rfl⟩⟩

/-- An output buffer of 64 bytes at 0x1000: a record with and without room, one that wraps, its writes and those of EOWR. -/
def encOut (wr : Nat) : EncCtx := { enc0 with eobaseF := 0x1000, eolenF := 64, eowr := wr }

theorem witness_Encoders_records :
    (find (devEnc ct0 (encOut 0)).encs 3 = some (encOut 0) ∧ (encOut 0).eowr - (encOut 0).eord + 64 ≤ (encOut 0).eolenF.toNat ∧
      (encOut 0).eolenF.toNat < (encOut 1).eowr - (encOut 1).eord + 64) ∧
    (∃ s1, (devEnc ct0 (encOut 0)).writeOut 0 ((encOut 0).parts [1, 2, 3, 4]) = .ok s1) ∧
    (∃ x : EncCtx, (x.parts [1, 2, 3, 4]).length = 2) ∧
    (∃ s1, (devEnc ct0 (encOut 0)).writeVa 0 ((encOut 0).eobaseF + (encOut 0).eolenF) (leBytes 8 0) true = .ok s1) ∧
    (∃ (s : State) (va : Word) (pg : Nat) (h : Bool), s.writeVa 0 ((encOut 0).eobaseF + (encOut 0).eolenF) (leBytes 8 0) true = .miss va pg h) ∧
    ∃ x t, (devEnc ct0 x).writeVa 0 (x.eobaseF + x.eolenF) (leBytes 8 0) true = .trap t :=
  ⟨by decide, ⟨_, rfl⟩, ⟨{ encOut 62 with eord := 62 }, by decide⟩, ⟨_, rfl⟩,
    ⟨{ State.reset with r := { State.reset.r with ctx := [(3, 1)] } }, _, _, _, rfl⟩,
    { enc0 with eobaseF := 0xFFFF000000000000 }, _, rfl⟩

/-! ### Power, links, the service complex -/

theorem witness_PowerLevelsAndControlRegisters :
    ((dev .c ct0).Enters (cOnly 0) ct0 ∧ 7 < ((ctRegs .c [(10, 8)]).seqC.rd 10).toNat ∧
      ((ctRegs .c [(10, 7)]).seqC.rd 10).toNat ≤ 7 ∧ (1 : Nat) = ct0.pwrlvl ∧ ct0.pwrlvl < 4 ∧
      ((dev .c ct0).withCur ct0).pwrFirst ct0.core (ct0.pwrSince 0) = true ∧
      ((List.range 4).map (fun j => let o := ct0.core / 4 * 4 + j
        Max.max ((if o = ct0.core then 7 else ((dev .c ct0).withCur ct0).levelOn o) + 1) 2)).sum ≤ 24) ∧
    (∃ s : State, 24 < ((List.range 4).map (fun j => let o := ct0.core / 4 * 4 + j
        Max.max ((if o = ct0.core then 7 else s.levelOn o) + 1) 2)).sum) ∧
    (1 < (ctTile 0).pwrlvl ∧ (ctTile 0).engineAbove 1 = false) ∧
    (∃ c : CoreTask, 1 < c.pwrlvl ∧ c.engineAbove 1 = true) :=
  ⟨⟨dev_enters _ _ rfl, by decide, by decide, rfl, by decide, by decide, by decide⟩,
    ⟨{ dev .c ct0 with tasks := [(0, { task0 ct0 with
        cts := [(0, ct0), (1, { ct0 with core := 1, pwrlvl := 7 }), (2, { ct0 with core := 2, pwrlvl := 7 }),
          (3, { ct0 with core := 3, pwrlvl := 7 })] })] }, by decide⟩, ⟨by decide, by decide⟩,
    { ctTile 0 with mxq := [{ i := .mxzero 0 0 0 false, waddr := 0, stamp := 0 }] }, by decide, by decide⟩

theorem witness_PowerLevelsAndControlRegisters_csr :
    (csrKnown 8 = false ∧ csrKnown 7 = true ∧ csrKnown 0x204 = true ∧ csrKnown 0x205 = false ∧
      ((dev .c ct0).canIssue (dev .c ct0).cur).isSome = true ∧ (dev .c ct0).cur.q = .c) ∧
    ((dev .l ct0).Enters (useD 0 3) ct0 ∧ (dev .l ct0).task? 0 = some (task0 ct0) ∧ (dev .c ct0).Enters (cOnly 0) ct0 ∧
      ((dev .c ct0).withCur ct0).task? 0 = some (task0 ct0)) ∧
    (csrPrivileged 0x080 = true ∧ csrPrivileged 0x08B = true ∧ csrPrivileged 0x07F = false ∧ csrPrivileged 0x201 = false ∧
      (task0 ct0).privileged = false) ∧
    (∃ s2 c2, ((dev .c ct0).withCur ct0).csrWrite 0x042 5 (task0 ct0) ct0 = .ok s2 c2) ∧
    ∃ tr, ((dev .c ct0).withCur ct0).csrWrite 0x080 5 (task0 ct0) ct0 = .trap tr :=
  ⟨by decide, ⟨dev_enters _ _ rfl, rfl, dev_enters _ _ rfl, rfl⟩, by decide, ⟨_, _, rfl⟩, _, rfl⟩

/-- A task with a process-group table at 0x100 and FEATW0.PEER set: DLEN 64 in the word register. -/
def devLink : State :=
  let c := ctRegs .c [(10, 0), (11, 64#64 <<< 21), (12, 5)]
  { dev .c c with
    tasks := [(0, { task0 c with td := [0, 1, 0, 0, 0x100, 0, 0, 0, 0, 0, 0, 0, 0, 0, 0, 0] })],
    r := { (dev .c c).r with featw0 := 0x10 } }

theorem witness_PeerLinks :
    (∃ t c g s1 c1 c2, devLink.task? 0 = some t ∧ devLink.ct? 0 0 = some c ∧ devLink.Enters (cOnly 0) c ∧
      fieldOf (c.seqC.rd 11) 61 3 = 0 ∧ fieldOf (c.seqC.rd 11) 21 17 = 64 ∧ vaField t.td 4 ≠ 0 ∧
      (devLink.withCur c).readPgt t.ctx (vaField t.td 4) = .ok g ∧ fieldOf (c.seqC.rd 11) 57 4 ≤ g.size ∧
      4 ∣ (c.seqC.rd 10).toNat ∧ devLink.r.featw0.getLsbD 4 = true ∧ (c.seqC.rd 12).toNat ≤ devLink.dtime / 256 + 64 ∧
      devLink.Releases (cOnly 0) .sys c s1 c1 ∧
      (c1.updSeq .c Seq.release).localRead s1.raceOn (agentId 0 0 0) (c1.seqC.stamp + 1) (granules 0 64) = .inr c2) ∧
    (∃ g : Pgt, g.size < 15) ∧ ¬(4 ∣ (2 : Nat)) ∧ (0x180000 : Nat) < 0x17FFFC + 8 ∧ (0 : Nat) / 256 + 64 < 65 :=
  ⟨⟨_, _, _, _, _, _, rfl, rfl, enters_of _ (t := _) rfl rfl rfl, by decide, by decide, by decide, rfl, by decide, by decide, rfl,
      by decide, ⟨enters_of _ (t := _) rfl rfl rfl, rfl, rfl⟩, rfl⟩, ⟨⟨0, []⟩, by decide⟩, by decide, by decide, by decide⟩

/-- A transfer for tick 5, to the own rank, and a device where it stands at the peer port. -/
def transfer0 : Transfer := ⟨5, 0, 0, 0, 0, 0, none, 0, [1, 2, 3, 4]⟩

/-- The device where it stands at the peer port, which is up. -/
def devOut (x : Transfer) (now : Nat) : State :=
  { State.reset with ports := { State.reset.ports with out := [x], peer := true, host := true }, dtime := now }

theorem witness_PeerLinks_port :
    (State.reset.dtime < transfer0.tick * 256 ∧ Tab.get 0 State.reset.ports.admitted transfer0.tick + 4 ≤ 32768) ∧
    ((devOut transfer0 1280).ports.out = [transfer0] ∧ 256 * transfer0.tick ≤ (devOut transfer0 1280).dtime ∧
      fieldOf transfer0.word 57 4 = transfer0.pgrank ∧ (devOut transfer0 1279).dtime < 256 * transfer0.tick) ∧
    (devOut { transfer0 with pgrank := 1 } 1280).ports.peer = true ∧ fieldOf transfer0.word 57 4 ≠ 1 ∧
    (dev .c ct0).byId 0 = some (0, task0 ct0) :=
  ⟨by decide, by decide, rfl, by decide, rfl⟩

/-- The service core with x10 and x11. -/
def devSvc (a b : Word) : State :=
  { State.reset with
    service := { State.reset.service with cores := [(0, { RvCore.reset with x := [(10, a), (11, b)] })], lines := [(7, some 9)] },
    queues := [(143, { HostQueue.off with en := true, log2 := 4, tail := 1 })] }

theorem witness_ServiceWords :
    (143 < ((devSvc 144 0).svcCore.rd 10).toNat ∧ ((devSvc 143 0).svcCore.rd 10).toNat ≤ 143) ∧
    (((devSvc 143 0).queue 143).head ≠ ((devSvc 143 0).queue 143).tail ∧ ((devSvc 143 0).queue 143).halted = false ∧
      ((devSvc 143 0).queue 143).en = true ∧ ((devSvc 0 0).queue 0).en = false) ∧
    (64 < ((devSvc 0 4033).svcCore.rd 11).toNat % 64 + (((devSvc 0 4033).svcCore.rd 11).toNat / 64 % 64 + 1) ∧
      ((devSvc 0 4032).svcCore.rd 11).toNat % 64 + (((devSvc 0 4032).svcCore.rd 11).toNat / 64 % 64 + 1) ≤ 64) ∧
    (255 < ((devSvc 256 0).svcCore.rd 10).toNat ∧ ((devSvc 255 0).svcCore.rd 10).toNat ≤ 255 ∧
      Tab.get none (devSvc 255 0).service.lines 255 = none ∧ Tab.get none (devSvc 7 0).service.lines 7 = some 9) ∧
    (¬64 ∣ ((devSvc 8 0).svcCore.rd 10).toNat ∧ 64 ∣ ((devSvc 64 127).svcCore.rd 10).toNat ∧
      127 < ((devSvc 64 128).svcCore.rd 11).toNat ∧ ((devSvc 64 127).svcCore.rd 11).toNat ≤ 127) ∧
    ∃ s1 v, (devSvc 64 0).dispatch 64 0 = (s1, some v) := by
  refine ⟨by decide, by decide, by decide, by decide, by decide, _, _, rfl⟩

/-- The service core with a reservation of the granule at x10 = 64. -/
def devRes : State :=
  { State.reset with
    service := { State.reset.service with cores := [(0, { RvCore.reset with x := [(10, 64), (11, 7)], res := some 8 })] } }

theorem witness_ServiceWords_base :
    ((0x00000013 : BitVec 32) &&& 3 = 3 ∧ decodeRv 0x13 = some (.aluImm .add false 0 0 0) ∧ decodeRv 0x7F = none ∧
      (0x7F : BitVec 32) &&& 3 = 3) ∧
    ((0x4501 : BitVec 32) &&& 3 ≠ 3 ∧ (0x4501 : BitVec 32) &&& 0xFFFF = 0x4501 ∧
      decodeRvc 0x4501 = some (.aluImm .add false 10 0 0)) ∧
    (8 ∣ (devRes.svcCore.rd 10).toNat ∧ devRes.svcCore.res = some (devRes.svcCore.rd 10 >>> 3) ∧
      State.reset.svcCore.res ≠ some (State.reset.svcCore.rd 10 >>> 3) ∧ 8 ∣ (State.reset.svcCore.rd 10).toNat) := by
  decide

-- RISC-V: SC.D x12, x11, (x10) stores 7 and answers 0; C.ADDI4SPN x8, x2, 32; SRAIW; MULHSU; CSRRSI sets MIE.
theorem test_rv_sc :
    ((devRes.rvExec (.storeConditional 8 12 10 11) 4 0).svcRead 64 8,
      (devRes.rvExec (.storeConditional 8 12 10 11) 4 0).svcCore.res) = (7, none) := by decide

theorem test_rv_decode :
    decodeRvc 0x1000 = some (.aluImm .add false 8 2 32) ∧ decodeRv 0x4035551B = some (.aluImm .sra true 10 10 3) ∧
    decodeRv 0x02C5A533 = some (.alu .mulhsu false 10 11 12) ∧ decodeRvc 0x7139 = some (.aluImm .add false 2 2 (-64)) ∧
    rvAluWord .mulhsu false (-1) (-1) = -1 ∧ rvAluWord .div true (-7) 0 = -1 := by decide

theorem test_rv_csr :
    (State.reset.rvExec (.csr .set 0 (.imm 8) 0x300) 4 0).svcCore.mstatus = 0x200001808 := by decide

/-! ### The Sorting Office and faults -/

/-- The device with a task that is ready in slot 0, of one rank, in partition 0. -/
def readyTask : Task := { task0 ct0 with state := .ready, cts := [], td := [0, 1] }

/-- A device with that task. -/
def devReady : State :=
  { dev .c ct0 with tasks := [(0, readyTask)], ports := { State.reset.ports with host := true } }

theorem witness_GangsArePlacedAndStarted :
    (∃ slot t cs t', devReady.partFrozen 0 = false ∧ devReady.ports.host = true ∧
      devReady.nextPlaced 0 [] = some (slot, t, cs) ∧ devReady.prunePreloads.task? slot = some t') ∧
    (State.reset.ports.host = false ∧ State.reset.nextPlaced 0 [] = none ∧ State.reset.preempts 0 = none) ∧
    (∃ s : State, s.partFrozen 3 = true) ∧
    (∃ c w, (dev .l c).ct? 0 0 = some c ∧ (c.seq .l).wait = some w ∧ w.kind = .push 0 1 false ∧
      c.admits ((dev .l c).pool 0) .l w.ord 0 1 = true) ∧
    (∃ (s : State) (c : CoreTask), c.admits (s.pool 0) .l 0 0 1 = false) ∧
    (∃ (s : State) (t : Task) (since : Nat), s.headOf 0 t.prio = some 0 ∧ s.task? 0 = some t ∧ find t.headSince 0 = some since ∧ since + 50000 ≤ s.dtime) ∧
    (readyTask.saved = false ∧ ∀ d ∈ devReady.ports.held, d.1 ≠ readyTask.id) :=
  ⟨⟨_, _, _, _, by decide, rfl, rfl, rfl⟩, ⟨rfl, rfl, rfl⟩,
    ⟨{ State.reset with ports := { State.reset.ports with vf := [(4, { VfMig.idle with stage := .frozen })] } }, by decide⟩,
    ⟨ct0.updSeq .l (fun q => q.await (.push 0 1 false) 0 0), _, rfl, rfl, rfl, by decide⟩,
    ⟨{ State.reset with r := { State.reset.r with qcap := [(0, 0)] } }, ct0, by decide⟩,
    ⟨{ devReady with tasks := [(0, { readyTask with headSince := [(0, 0)] })], dtime := 50000 }, { readyTask with headSince := [(0, 0)] }, 0,
      rfl, rfl, rfl, by decide⟩, rfl, by decide⟩

/-- A task that runs on core 0 while another, of the same size, is next. -/
theorem witness_GangsArePlacedAndStarted_preload :
    ∃ (s : State) (t u : Task) (cs : List Nat) (i : Image) (g : Nat) (ms : List Nat), s.task? 0 = some t ∧ t.state = .running ∧
      s.preloadOn 0 = none ∧ s.nextPlaced t.part t.cores = some (1, u, cs) ∧ sameCores cs t.cores = true ∧ u.saved = false ∧
      u.preload = none ∧ s.readImage u.ctx u.imageVa = .ok i g ms :=
  ⟨{ devSub with
      ports := { devSub.ports with host := true }, tasks := [(0, task0 ct0), (1, { readyTask with td := td0 })],
      r := { devSub.r with partcfg := [(0, 1)] } }, _, _, _, _, _, _, rfl, rfl, rfl, rfl, by decide, rfl, rfl, devSub_image.choose_spec⟩

/-- A gang of priority 0 on every core that a ready task of priority 1 wants. -/
theorem witness_GangsArePlacedAndStarted_preempts :
    ∃ (s : State) (vs : List (Nat × Task)), s.preempts 0 = some vs :=
  ⟨{ dev .c ct0 with
      tasks := [(0, { task0 ct0 with cts := (List.range 4).map (fun r => (r, { ct0 with core := r })) }),
        (1, { readyTask with td := [0, 1 ||| (1#64 <<< 8)] })],
      r := { (dev .c ct0).r with partcfg := [(0, 1)] } }, _, rfl⟩

theorem witness_GangsParkAndReturn :
    (∃ c : CoreTask, (dev .c c).task? 0 = some (task0 c) ∧ (task0 c).state = .running ∧ c.expired 0 2000 ≠ []) ∧
    (ct0.expired 0 2000 = [] ∧ (task0 ct0).budget ≠ 0) ∧
    ({ task0 ct0 with state := .parked, conds := [] }.state = .parked ∧
      (∀ k ∈ ({ task0 ct0 with state := .parked, conds := [] } : Task).conds, State.reset.condMet (task0 ct0) k = true)) ∧
    ({ task0 ct0 with budget := 0 } : Task).budget = 0 ∧
    ∃ e ∈ (task0 { ct0 with notes := [⟨.trap, 0, false, 0, 0, 0, 0, 0, 0, 0, 0, 0, 0⟩] }).cts, e.2.notes ≠ [] := by
  refine ⟨⟨ct0.updSeq .c (fun q => q.await (.spin (.put 0)) 0 0), rfl, rfl, by decide⟩, ⟨by decide, by decide⟩,
    ⟨rfl, fun k h => by cases h⟩, rfl, by decide⟩

/-- The note of a TRAP of the C-sequencer. -/
def note0 : FaultNote := { code := .trap, kind := 0, waddr := 0, time := 0 }

/-- A job. -/
def job0 : Job :=
  { count := 1, queue := none, remote := none, tag := 0, ctx := 0, fq := 0, htask := false, written := 0, waiting := [] }

theorem witness_FaultsStopTheirGang :
    ∃ (s : State) (t : Task) (c : CoreTask), s.task? 0 = some t ∧ t.state = .running ∧ t.cts = [(0, c)] ∧ c.notes = [note0] ∧
      find s.jobs t.job = some job0 ∧ t.conds = [] ∧ c.posted = [] ∧ c.flight = [] ∧ c.returns = [] ∧ c.resid = [] ∧
      s.m.slices = [] ∧ (∀ q, (c.seq q).tags = []) ∧ (∀ e ∈ s.tasks, e.2.preload = none) ∧ note0.code ≠ .budgetOver ∧
      c.seqC.status = .faulted ∧ note0.kind = seqNum .c :=
  ⟨{ dev .c { ct0 with notes := [note0], seqC := { ct0.seqC with status := .faulted } } with jobs := [(0, job0)] }, _, _, rfl, rfl, rfl,
    rfl, rfl, rfl, rfl, rfl, rfl, rfl, rfl, fun q => by cases q <;> rfl, by decide, by decide, rfl, rfl⟩

theorem witness_FaultRecordsAndActions :
    (∃ (s s1 s2 : State) (j : Job) (r : WaitRec), find s.jobs 0 = some j ∧ j.waiting = [r] ∧ j.written < 64 ∧
      s.plainWaits (.job 0) j.ctx = none ∧ (s.ctxPart j.ctx).any s.partGone = false ∧
      s.writeVa j.ctx (j.fq + BitVec.ofNat 64 (64 + 64 * (j.written % 64))) (r.words.flatMap (fun w => leBytes 8 w.toNat)) false =
        .ok s1 ∧ s1.writeVa j.ctx j.fq (leBytes 8 (j.written + 1)) true = .ok s2 ∧ find s2.jobs 0 = some j) ∧
    (∃ s : State, s.readVa 0 (64 + 56) 8 = .ok (List.replicate 8 0) ∧ 64 ≤ ({ job0 with written := 64 } : Job).written) ∧
    ∃ (s : State) (t : Task) (w : ActionWord), s.task? 0 = some t ∧ ParkCond.action ∈ t.conds ∧
      s.m.actions.find? (fun w => decide (w.slot = 0)) = some w ∧ w.value = some (1, none) ∧ w.noResume = false :=
  ⟨⟨{ dev .c ct0 with jobs := [(0, { job0 with waiting := [⟨0, 0, true, [1, 2]⟩] })] }, _, _, _, _, rfl, rfl, by decide, rfl, by decide, rfl, rfl, rfl⟩,
    ⟨dev .c ct0, rfl, by decide⟩,
    { dev .c ct0 with
      tasks := [(0, { task0 ct0 with state := .parked, conds := [.action] })],
      m := { (dev .c ct0).m with actions := [⟨⟨false, 0⟩, 0, false, some (1, none)⟩] } }, _, _, rfl, by decide, rfl, rfl, rfl⟩

/-! ### Remote submissions, whose context the receiving host chooses -/

/-- `devSub` with the window in context `n`, which belongs to partition 0, and quota words; its ports are up. -/
def devRem (tq : Tab Word) (n : Nat) : State :=
  { devSub with
    ports := { devSub.ports with peer := true, host := true }
    r := { devSub.r with ctx := [(n * 8 + 1, 1024#64 <<< 21)], ctxp := [(n, 0x80)], tq := tq } }

/-- The submission of a remote task in context `n`. -/
def subRem (n : Nat) : Submitter := { ctx := n, priv := false, host := true, stream := none, job := none, multi := none }

theorem devRem_ctx (tq : Tab Word) (n w : Nat) : (devRem tq n).ctxWord n w = if w = 1 then 1024#64 <<< 21 else 0 := by
  unfold State.ctxWord
  simp only [devRem, Tab.get]
  by_cases h : w = 1
  · simp [h]
  · simp [h, Ne.symm h]

theorem devRem_xl (tq : Tab Word) (n : Nat) (need : Need) (v : Word) (h : v.toNat < 2 ^ 31) :
    (devRem tq n).translate n need v = devSub.translate 0 need v := by
  rw [xl_of (s := devSub) need rfl v h]
  unfold State.translate State.inWindow State.windowDpa
  rw [devRem_ctx tq n 0, devRem_ctx tq n 1, devRem_ctx tq n 2, devRem_ctx tq n 3]
  rw [if_neg (by omega), if_pos (by
    simp only [if_true, if_false, Nat.zero_ne_one, show fieldOf (0 : Word) 21 36 = 0 by decide,
      show fieldOf (1024#64 <<< 21) 21 36 = 1024 by decide, Bool.and_eq_true, decide_eq_true_eq]
    omega)]
  simp
  rw [if_pos (by unfold dpaTop; omega)]
  rfl

theorem devRem_m (tq : Tab Word) (n : Nat) : (devRem tq n).m = devSub.m := by simp only [devRem]

theorem devRem_service (tq : Tab Word) (n : Nat) : (devRem tq n).service = devSub.service := by simp only [devRem]

theorem devRem_tick (tq : Tab Word) (n : Nat) : (devRem tq n).tick = devSub.tick := by simp only [devRem]

theorem devRem_keyBad (tq : Tab Word) (n : Nat) : (devRem tq n).keyBad = devSub.keyBad := by
  unfold State.keyBad State.keyTag
  rw [devRem_m]

theorem devRem_readFinal (tq : Tab Word) (n : Nat) : (devRem tq n).readFinal = devSub.readFinal := by
  unfold State.readFinal State.hostOk
  rw [devRem_m, devRem_service, devRem_tick]

theorem devRem_parts (tq : Tab Word) (n : Nat) (ps : List (Nat × Nat)) (h : ∀ p ∈ ps, p.1 < 2 ^ 31) :
    (devRem tq n).vaParts n Need.read ps = devSub.vaParts 0 Need.read ps := by
  unfold State.vaParts
  refine List.foldr_ext _ _ _ fun p hp acc => ?_
  have h0 := h p hp
  simp only [devRem_xl tq n Need.read (BitVec.ofNat 64 p.1) (by rw [BitVec.toNat_ofNat]; omega), devRem_keyBad]

theorem devRem_read (tq : Tab Word) (n : Nat) (va : Word) (len : Nat) (h : ∀ p ∈ rangeParts va.toNat len, p.1 < 2 ^ 31) :
    (devRem tq n).readVa n va len = devSub.readVa 0 va len := by
  unfold State.readVa State.readAs
  rw [devRem_parts tq n _ h, devRem_readFinal]

theorem devSub_header : ∃ hd, devSub.readVa 0 0x1000 128 = .ok hd ∧ imageEnd hd = 128 := ⟨_, rfl, by decide⟩

set_option maxRecDepth 20000 in
theorem devSub_cores : 1 ≤ (devSub.partCores 0).length := by decide

theorem devRem_low (tq : Tab Word) (n : Nat) : (devRem tq n).readVa n 0x1000 128 = devSub.readVa 0 0x1000 128 :=
  devRem_read tq n 0x1000 128 (by decide)

theorem readImage_congr {s s' : State} {x y : Nat} {va : Word} {hd : List Byte} (h1 : s.readVa x va 128 = s'.readVa y va 128)
    (h2 : s'.readVa y va 128 = .ok hd) (h3 : s.readVa x va (imageEnd hd) = s'.readVa y va (imageEnd hd)) :
    s.readImage x va = s'.readImage y va := by
  unfold State.readImage
  rw [h1, h2]
  simp only [h3]

theorem devRem_image (tq : Tab Word) (n : Nat) : (devRem tq n).readImage n 0x1000 = devSub.readImage 0 0x1000 := by
  obtain ⟨hd, hr, he⟩ := devSub_header
  exact readImage_congr (devRem_low tq n) hr (by rw [he]; exact devRem_low tq n)

/-- A descriptor of one rank with its image at 0x1000, and nothing else. -/
structure PlainDesc (td : List Word) : Prop where
  ok : tdOk td = true
  image : vaField td 0 = 0x1000
  pgt : vaField td 4 = 0
  f1 : vaField td 6 = 0
  f2 : vaField td 7 = 0
  gang : wordField td 1 0 5 = 1
  tenant : wordField td 1 16 4 = 0
  priv : wordField td 1 23 1 = 0
  remote : wordField td 1 28 1 = 0
  ranges : tdRanges td = 0
  stream : wordField td 2 32 8 = 0xFF

theorem td0_plain : PlainDesc td0 := by constructor <;> decide

theorem checkSub_ok {s : State} {n : Nat} {img : Image} {td : List Word} (h : PlainDesc td) (ht : s.taskPart n = some 0)
    (hn : 1 ≤ (s.partCores 0).length) (hi : s.readImage n 0x1000 = .ok img 1 []) (hc : s.ctxTenant n = 0) :
    s.checkSub td 0 (subRem n) = .ok img [] := by
  unfold State.checkSub
  simp only [h.ok, h.f1, h.f2, h.image, h.gang, subRem, State.subParts, ht, State.awaited, hi, hc]
  simp [h.tenant, h.priv, h.ranges, tdStream, h.stream, State.streamOk, State.checkPgt, h.pgt, h.remote]
  exact List.ne_nil_of_length_pos hn

theorem devRem_accepts (tq : Tab Word) (n : Nat) : ∃ img, (devRem tq n).checkSub td0 0 (subRem n) = .ok img [] ∧
    (devRem tq n).ctxTenant n = 0 := by
  obtain ⟨img, hi⟩ := devSub_image
  have ht : (devRem tq n).taskPart n = some 0 := by
    unfold State.taskPart State.ctxPart
    split
    · rfl
    · simp [devRem, Tab.get, fieldOf]
  have hc : (devRem tq n).ctxTenant n = 0 := by
    unfold State.ctxTenant
    rw [devRem_ctx tq n 3]
    decide
  have hn : (devRem tq n).partCores 0 = devSub.partCores 0 := by
    simp only [State.partCores, State.partCfg, State.clusterOn, devRem]
  exact ⟨img, checkSub_ok td0_plain ht (by rw [hn]; exact devSub_cores) (by rw [devRem_image]; exact hi) hc, hc⟩

/-- The job of a remote task, whose submitter is at link 5. -/
def remJob : Job :=
  { count := 1, queue := none, remote := some (5, 4), tag := 0, ctx := 0, fq := 0, htask := false, written := 0, waiting := [] }

/-- A refused, an accepted and a held submission, and an answer that a word waits for. -/
theorem witness_PeerLinks_remote :
    ((devRem [] 0).ports.peer = true ∧ (devRem [] 0).ports.host = true ∧
      (devRem [] 0).plainWaits (.remote 5 0) (Config.remoteCtx 5 0 % 128) = none ∧
      (∃ v, (devRem [] 0).checkSub (descWords []) 0 (subRem (Config.remoteCtx 5 0 % 128)) = .refuse 1 v) ∧
      (5, 0) ∉ (devRem [] 0).ports.counted) ∧
    (∃ (s : State) (img : Image) (futs : List Xl) (desc : List Byte), s.ports.peer = true ∧ s.ports.host = true ∧ descWords desc = td0 ∧
      s.checkSub td0 0 (subRem (Config.remoteCtx 5 0 % 128)) = .ok img futs ∧
      s.quotaOk (s.ctxTenant (Config.remoteCtx 5 0 % 128)) td0 (s.unresolved futs).length = true) ∧
    (∃ (s : State) (img : Image) (futs : List Xl), s.checkSub td0 0 (subRem (Config.remoteCtx 5 0 % 128)) = .ok img futs ∧
      s.quotaOk (s.ctxTenant (Config.remoteCtx 5 0 % 128)) td0 (s.unresolved futs).length = false) ∧
    ∃ s : State, s.ports.peer = true ∧ find s.ports.reqs 4 = some (0, 0) ∧ find s.ports.reqs 5 = none ∧
      find s.jobs 0 = some remJob ∧ remJob.remote = some (5, 4) ∧ remJob.queue = none ∧ remJob.count = 1 := by
  refine ⟨⟨rfl, rfl, rfl, ⟨_, rfl⟩, by decide⟩, ?_, ?_, ?_⟩
  · obtain ⟨img, h1, h2⟩ := devRem_accepts State.reset.r.tq (Config.remoteCtx 5 0 % 128)
    exact ⟨_, img, [], td0.flatMap (fun w => leBytes 8 w.toNat), rfl, rfl, by decide, h1, by rw [h2]; decide⟩
  · obtain ⟨img, h1, h2⟩ := devRem_accepts [(1, 0)] (Config.remoteCtx 5 0 % 128)
    exact ⟨_, img, [], h1, by rw [h2]; decide⟩
  · exact ⟨{ devRem [] 0 with ports := { (devRem [] 0).ports with reqs := [(4, (0, 0))] }, jobs := [(0, remJob)] },
      rfl, rfl, rfl, rfl, rfl, rfl, rfl⟩

/-- A device whose context `n` pages with empty tables, with page requests when `v` is 5. -/
def devMiss (n : Nat) (v : Word) : State :=
  { State.reset with
    ports := { State.reset.ports with peer := true, host := true },
    r := { State.reset.r with ctx := [(n * 8 + 3, v)], featw0 := 8 } }

theorem devMiss_ctx (n : Nat) (v : Word) (w : Nat) : (devMiss n v).ctxWord n w = if w = 3 then v else 0 := by
  unfold State.ctxWord
  simp only [devMiss, Tab.get]
  by_cases h : w = 3
  · simp [h]
  · simp [h, Ne.symm h]

theorem devMiss_stage (n : Nat) (v : Word) (h : v = 1 ∨ v = 5) : (devMiss n v).stage1 n 0x8000000000 = .miss false := by
  have h8 : (devMiss n v).tableRead 0#6 8 = .entry 0 := by
    unfold State.tableRead
    rw [if_neg (by decide), show (devMiss n v).keyTag 8 = 0#6 from rfl, if_pos rfl, show (devMiss n v).m.dpa = [] from rfl]
    decide
  have hw : walk ((devMiss n v).tableRead 0#6) true 0x8000000000 (levels 18) 0 = .miss false := by simp [levels, walk, h8]
  have hc : (devMiss n v).m.first.walks ((devMiss n v).tableRead 0#6) true n 0x8000000000 (levels 18) = [] := rfl
  unfold State.stage1 State.read1 State.read2 State.root1
  simp only [devMiss_ctx]
  rcases h with rfl | rfl <;>
    simp [fieldOf] <;>
    erw [hc, hw] <;> rfl

theorem devMiss_miss (n : Nat) (v : Word) (h : v = 1 ∨ v = 5) :
    (devMiss n v).translate n Need.rmw 0x8000000000 = .miss 0x8000000 false := by
  unfold State.translate State.inWindow State.paged
  rw [show (0x8000000000 : Word).toNat = 0x8000000000 by decide, devMiss_stage n v h]
  simp only [devMiss_ctx]
  rcases h with rfl | rfl <;> simp [fieldOf]

theorem find_key {m num page k : Nat} (h : page < m) (req : Nat → Bool) (hr : req page = true) :
    ([(num * m + page, k)].find? (fun e => decide (e.1 / m = num) && req (e.1 % m))).isSome = true := by
  have h1 : (num * m + page) / m = num := by
    rw [Nat.mul_comm, Nat.mul_add_div (by omega), Nat.div_eq_of_lt h, Nat.add_zero]
  have h2 : (num * m + page) % m = page := by rw [Nat.mul_comm, Nat.mul_add_mod, Nat.mod_eq_of_lt h]
  simp [h1, h2, hr]

/-- An access outside the gangs that waits for the page of its one entry. -/
theorem plainWaits_of {s : State} {p : Machine.Plain} {ctx page k : Nat} (hp : page < 2 ^ 45) (hm : s.m.misses = [(p.key page, k)])
    (hr : s.requested ctx page = true) : (s.plainWaits p ctx).isSome = true := by
  unfold State.plainWaits
  rw [hm, Option.isSome_map]
  exact find_key hp (s.requested ctx) hr

theorem checkSub_miss {s : State} {td : List Word} {sub : Submitter} {pg : Nat} {h : Bool} (ho : tdOk td = true) (hn : vaField td 6 ≠ 0)
    (ht : s.translate sub.ctx Need.rmw (vaField td 6) = .miss pg h) :
    s.checkSub td 0 sub = .miss { code := 1, value := vaField td 6, need := Need.rmw, va := vaField td 6, page := pg, host := h } := by
  unfold State.checkSub
  simp only [ho, State.awaited, if_neg hn, ht, Bool.not_true, Bool.false_eq_true, if_false]

/-- A remote submission that misses its awaited future, with page requests and without; and one that waits. -/
theorem witness_PeerLinks_remoteMiss (n : Nat) :
    (∃ m x, (devMiss n 1).checkSub (tdWith 6 0x8000000000) 0 (subRem n) = .miss m ∧
      (devMiss n 1).subMiss (.remote 5 0) n m = .inl x) ∧
    (∃ m s1, (devMiss n 5).checkSub (tdWith 6 0x8000000000) 0 (subRem n) = .miss m ∧
      (devMiss n 5).subMiss (.remote 5 0) n m = .inr s1) ∧
    ∃ s : State, (s.plainWaits (.remote 5 0) n).isSome = true := by
  have hm (v : Word) (h : v = 1 ∨ v = 5) : (devMiss n v).checkSub (tdWith 6 0x8000000000) 0 (subRem n) = .miss
      { code := 1, value := 0x8000000000, need := Need.rmw, va := 0x8000000000, page := 0x8000000, host := false } := by
    have e : vaField (tdWith 6 0x8000000000) 6 = 0x8000000000 := by decide
    have := checkSub_miss (s := devMiss n v) (td := tdWith 6 0x8000000000) (sub := subRem n) (by decide) (by decide)
      (by rw [e]; exact devMiss_miss n v h)
    rwa [e] at this
  have hk (v : Word) (k : Nat) : ¬2 ≤ Tab.get 0 (devMiss n v).m.misses k := by
    rw [show Tab.get 0 (devMiss n v).m.misses k = 0 from rfl]
    decide
  have hs (v : Word) (k : Nat) : Tab.get false (devMiss n v).r.priStop k = false := rfl
  refine ⟨⟨_, (1, 0x8000000000), hm 1 (.inl rfl), ?_⟩,
    ⟨_, (devMiss n 5).plainWait (.remote 5 0) n 0x8000000 false Need.rmw, hm 5 (.inr rfl), ?_⟩,
    ⟨{ State.reset with m := { State.reset.m with misses := [((Plain.remote 5 0).key 7, 1)] },
                        r := { State.reset.r with prq := [{ page0 with ctx := n }] } },
      plainWaits_of (page := 7) (by decide) rfl (by simp [State.requested, page0])⟩⟩
  · simp only [State.subMiss, State.plainMiss, State.prqEnabled, devMiss_ctx, if_true]
    rw [if_neg (by simp)]
  · simp only [State.subMiss, State.plainMiss, State.prqEnabled, devMiss_ctx, if_true, hk, hs, if_false, Bool.false_eq_true]
    rw [if_pos (by simp [devMiss])]

/-- A packet for rank 0 of the test device's gang, with PRANK 0, from the device itself: to byte 64, counted at barrier 2,
signalling semaphore 3. -/
def packet0 (kind : Option AccFmt) : LinkPacket :=
  { sender := 0, senderBase := 0, kind := kind, word := 64 ||| (2#64 <<< 38) ||| (1#64 <<< 44) ||| (3#64 <<< 45), tick := 5,
    bytes := [1, 2, 3, 4], relayed := false }

/-- `devLink` with its peer port up. -/
def devPeer : State := { devLink with ports := { devLink.ports with peer := true } }

theorem witness_PeerLinks_deliveries :
    (∃ t c, devPeer.ports.peer = true ∧ devPeer.matching (packet0 none) = some (0, t, 0) ∧ devPeer.migrating t = none ∧
      devPeer.ports.marker = [] ∧ 0 < t.gang ∧ t.ct? 0 = some c ∧ devPeer.ct? 0 0 = some c ∧ Tab.wf 0 c.scratch = true ∧
      (∃ b, (Tab.get Bar.zero c.bars 2).change (-4) (some (devPeer.m.h + 2)) = some b) ∧
      ∃ c4, CoreTask.signal { c with lkStamp := c.lkStamp + 1 } 3 1 (c.lkStamp + 1) (Config.sameCycle 0) = some c4) ∧
    (∃ s : State, s.raceOn = false) ∧
    ((packet0 none).word.getLsbD 44 = true ∧ fieldOf (packet0 none).word 45 8 = 3 ∧ 4 ∣ (packet0 none).bytes.length ∧
      (transfer0.packet 0).word.getLsbD 44 = false ∧ fieldOf (transfer0.packet 0).word 45 8 = 0) ∧
    ({ Bar.zero with count := -(2 ^ 48 - 1) } : Bar).change (-4) none = none ∧
    State.reset.matching (packet0 none) = none ∧
    ∃ s : State, s.ports.peer = true ∧ s.ports.inside = [{ src := none, p := packet0 (some .bf16) }] :=
  ⟨⟨_, _, rfl, rfl, rfl, rfl, by decide, rfl, rfl, by decide, ⟨_, rfl⟩, _, (CoreTask.signal_eq ..).trans (if_neg (by decide))⟩,
    ⟨{ State.reset with r := { State.reset.r with featw0 := 0 } }, by decide⟩, by decide, by decide, rfl,
    { devPeer with ports := { devPeer.ports with inside := [{ src := none, p := packet0 (some .bf16) }] } }, rfl, rfl⟩

/-- DSPT: a descriptor beyond memory, one that is refused, one that is accepted with and without room, one that misses with
and without requests. -/
theorem witness_ServiceWords_dispatch :
    (dpaTop < dpaTop - 64 + 128 ∧ dpaTop - 128 + 128 ≤ dpaTop ∧ 64 ∣ dpaTop - 128) ∧
    (∃ v, State.reset.checkSub (descWords (State.reset.readFinal { host := false, a := 0 } 128)) 0
      { subRem 0 with priv := true } = .refuse 1 v) ∧
    (∃ m : SubMiss, ∃ x, State.reset.subMiss (.service 0) 0 m = .inl x) ∧
    (∃ (s : State) (m : SubMiss) (s1 : State), s.subMiss (.service 0) 0 m = .inr s1) ∧
    State.reset.plainWaits (.service 0) 0 = none ∧
    (∃ s : State, (s.plainWaits (.service 0) 0).isSome = true) ∧
    (∃ img, (devRem [] 0).checkSub td0 0 (subRem 0) = .ok img [] ∧ (devRem [(1, 0)] 0).checkSub td0 0 (subRem 0) = .ok img []) ∧
    State.reset.svcCore.held = false ∧ (∃ s : State, s.svcCore.held = true) :=
  ⟨by decide, ⟨_, rfl⟩, ⟨⟨3, 0, Need.read, 0, 0, false⟩, _, rfl⟩,
    ⟨{ State.reset with r := { State.reset.r with ctx := [(3, 4)], featw0 := 8 } }, ⟨3, 0, Need.read, 0, 0, false⟩, _, rfl⟩, rfl,
    ⟨{ State.reset with m := { State.reset.m with misses := [((Plain.service 0).key 7, 1)] },
                        r := { State.reset.r with prq := [page0] } }, by decide⟩,
    ⟨_, (devRem_accepts [] 0).choose_spec.1, (devRem_accepts [(1, 0)] 0).choose_spec.1⟩, rfl,
    { State.reset with service := { State.reset.service with cores := [(0, { RvCore.reset with held := true })] } }, rfl⟩

/-- The values of an action, and a quota of its context that is spent or not. -/
theorem witness_FaultRecordsAndActions_quota :
    (∃ s : State, s.frankLeft (task0 ct0).ctx = some 0) ∧ (∃ s : State, s.frankLeft (task0 ct0).ctx = some 1) ∧
    State.reset.frankLeft (task0 ct0).ctx = none ∧
    (∃ (s : State) (t : Task) (w : ActionWord), s.task? 0 = some t ∧ ParkCond.action ∈ t.conds ∧
      s.m.actions.find? (fun w => decide (w.slot = 0)) = some w ∧ w.value = some (2, some 7)) ∧
    ∃ (s : State) (t : Task) (w : ActionWord), s.task? 0 = some t ∧ ParkCond.action ∈ t.conds ∧
      s.m.actions.find? (fun w => decide (w.slot = 0)) = some w ∧ w.value = some (1, none) ∧ w.noResume = true :=
  ⟨⟨{ State.reset with pw := { State.reset.pw with frank := [(0, 0)] } }, by decide⟩,
    ⟨{ State.reset with pw := { State.reset.pw with frank := [(0, 1)] } }, by decide⟩, by decide,
    ⟨{ dev .c ct0 with
      tasks := [(0, { task0 ct0 with state := .parked, conds := [.action] })],
      m := { (dev .c ct0).m with actions := [⟨⟨false, 0⟩, 0, false, some (2, some 7)⟩] } }, _, _, rfl, by decide, rfl, rfl⟩,
    ⟨{ dev .c ct0 with
      tasks := [(0, { task0 ct0 with state := .parked, conds := [.action] })],
      m := { (dev .c ct0).m with actions := [⟨⟨false, 0⟩, 0, true, some (1, none)⟩] } }, _, _, rfl, by decide, rfl, rfl, rfl⟩⟩

/-! ### The governor, errors, pages, the host -/

/-- The reset device with island 3 as `i`. -/
def devIsland (i : Island) : State := { State.reset with pw := { State.reset.pw with islands := [(3, i)] } }

theorem witness_TheGovernorAndThermalLimits :
    (State.reset.dtime < State.reset.pw.lastTick + 10000 ∧ (∃ s : State, s.pw.lastTick + 10000 ≤ s.dtime) ∧
      (State.reset.gangsOn 31).isEmpty = true ∧ State.reset.EmptyGated) ∧
    (∃ i : Island, i.hot = false ∧ i.change = none ∧ 2 < i.point ∧ i.held = false ∧ 2 ≤ i.lowTicks ∧ opRatio 0 < opRatio i.point) ∧
    (∃ i : Island, i.hot = false ∧ i.change = none ∧ 2 < i.point ∧ i.lowTicks < 2 ∧ opRatio 2 < opRatio i.point) ∧
    (∃ i : Island, i.hot = false ∧ i.change = none ∧ 9 < i.point ∧ i.held = false ∧ opRatio 9 = opRatio i.point) ∧
    (State.reset.frankLeft 5 = none ∧ (∃ s : State, s.frankLeft 5 = some 0) ∧ ∃ s : State, s.frankLeft 5 = some 1) ∧
    (∃ s : State, (Tab.get Island.reset s.pw.islands 3).change = some (2, 200) ∧ s.dtime < 200) ∧
    (∃ s : State, (Tab.get Island.reset s.pw.islands 3).change = some (2, 200) ∧ 200 ≤ s.dtime) ∧
    State.reset.ports.host = false ∧ (∃ s : State, s.ports.host = true) ∧ (5 : Word) ≠ -1 :=
  ⟨⟨by decide, ⟨{ State.reset with dtime := 10000 }, by decide⟩, by decide, fun _ _ => ⟨rfl, rfl⟩⟩,
    ⟨{ Island.reset with point := 10, lowTicks := 2 }, by decide, rfl, by decide, rfl, by decide, by decide⟩,
    ⟨{ Island.reset with point := 10 }, by decide, rfl, by decide, by decide, by decide⟩,
    ⟨{ Island.reset with point := 10 }, by decide, rfl, by decide, rfl, by decide⟩,
    ⟨by decide, ⟨{ State.reset with pw := { State.reset.pw with frank := [(5, 0)] } }, by decide⟩,
      { State.reset with pw := { State.reset.pw with frank := [(5, 1)] } }, by decide⟩,
    ⟨devIsland { Island.reset with change := some (2, 200) }, rfl, by decide⟩,
    ⟨{ devIsland { Island.reset with change := some (2, 200) } with dtime := 200 }, rfl, by decide⟩, rfl,
    ⟨{ State.reset with ports := { State.reset.ports with host := true } }, rfl⟩, by decide⟩

/-- The thresholds in sixteenths of a degree, at their ends, and a persistent core-task. -/
theorem witness_TheGovernorAndThermalLimits_thermal :
    (95 * 16 ≤ (1520 : BitVec 16).toInt ∧ (1519 : BitVec 16).toInt < 95 * 16 ∧ 105 * 16 ≤ (1680 : BitVec 16).toInt ∧
      (1679 : BitVec 16).toInt < 105 * 16 ∧ 115 * 16 ≤ (1840 : BitVec 16).toInt) ∧
    Island.reset.therm.getLsbD 31 = false ∧ Island.reset.fired = false ∧
    (∃ i : Island, i.hot = false ∧ i.change = none ∧ i.point ≠ 0 ∧ i.therm.getLsbD 31 = false) ∧
    (∃ (s : State) (c : CoreTask), s.ct? 0 0 = some c ∧ s.r.featw0.getLsbD 7 = true ∧ (0, 0) ∈ s.persistentOn 0) ∧ State.reset.pw.derate ≤ 2 :=
  ⟨by decide, rfl, rfl, ⟨{ Island.reset with point := 2 }, by decide, rfl, by decide, rfl⟩,
    ⟨{ dev .c { ct0 with persistent := true } with r := { State.reset.r with featw0 := 0x80 } }, _, rfl, by decide, by decide⟩,
    by decide⟩

theorem witness_HardwareErrors :
    ((dev .c ct0).ct? 0 0 = some ct0 ∧ (dev .c ct0).m.slices = [] ∧ ct0.seqC.status = .running) ∧ (3 : Fin 6).val = seqNum .s ∧
    dpaTop - 1 < dpaTop ∧ ((dev .c (ctPosted false)).ct? 0 0 = some (ctPosted false) ∧ ∃ x, (ctPosted false).posted[0]? = some x) ∧
    (Packet.refusal 0).unissued = true ∧ (Packet.acceptance 0).unissued = true ∧ (Packet.wake 0 0).unissued = true ∧
    stale 0x50000000 0 = true ∧ stale 0x50000000 0x50000000 = false :=
  ⟨⟨rfl, rfl, rfl⟩, rfl, by decide, ⟨rfl, _, rfl⟩, rfl, rfl, rfl, by decide, by decide⟩

theorem witness_HardwareErrors_scrub :
    ∃ (s : State) (r : RaceRec), find s.m.races 1 = some r ∧ s.ct? 0 0 = some ct0 :=
  ⟨{ dev .c ct0 with m := { (dev .c ct0).m with races := [(1, ⟨[⟨0, 0, false, 1⟩], [], 0⟩)] } }, _, rfl, rfl⟩

/-- The condition of a gang that waits for it. -/
def cond0 : ParkCond := .page 0 7 false 0 0 0x7000 3

/-- The device, with its host port up. -/
def devPage : State :=
  { dev .c ct0 with
    tasks := [(0, { task0 ct0 with state := .parked, conds := [cond0] })], jobs := [(0, job0)],
    ports := { State.reset.ports with host := true },
    r := { (dev .c ct0).r with prq := [page0] } }

theorem witness_TranslationAndPageResponses_responses :
    (devPage.ports.host = true ∧ (devPage.r.prq.filter (·.sent))[0]? = some page0 ∧ page0.orphan = false ∧
      ({ page0 with orphan := true } : PageReq).orphan = true ∧ (∀ e ∈ devPage.streams, e.2.ctx = page0.ctx → e.2.evs = []) ∧
      devPage.presented 8 = true ∧ ∀ x ∈ devPage.r.prq, x.sent = true) ∧
    (∃ tk c, devPage.task? 0 = some tk ∧ tk.state = .parked ∧ (∀ k ∈ tk.conds, ParkCond.waitsFor page0 k = true) ∧
      tk.conds = [.page page0.ctx page0.page false 0 0 0x7000 3] ∧ tk.ct? 0 = some c ∧ find devPage.jobs tk.job = some job0) :=
  ⟨⟨rfl, rfl, rfl, rfl, by decide, by decide, by decide⟩, _, _, rfl, rfl, by decide, rfl, rfl, rfl⟩

theorem witness_TranslationAndPageResponses_requests :
    ((∃ x ∈ devPage.r.prq, x.ctx = 0 ∧ x.page = 7 ∧ x.orphan = false) ∧
      (∀ x ∈ devPage.r.prq, ¬(x.ctx = 0 ∧ x.page = 8 ∧ x.orphan = false)) ∧
      (∀ x ∈ devPage.r.prq, x.sent = true) ∧ (devPage.r.prq.filter (·.sent)).length < Nat.min 512 devPage.r.prqHist ∧
      Tab.get false devPage.r.priStop (devPage.ctxFunc 0) = false) ∧
    (∃ s : State, (∀ x ∈ s.r.prq, x.sent = true) ∧ Nat.min 512 s.r.prqHist ≤ (s.r.prq.filter (·.sent)).length) ∧
    (∃ s : State, Tab.get false s.r.priStop (s.ctxFunc 0) = true) ∧
    ((devPage.ctxWord 0 3).getLsbD 2 && devPage.r.featw0.getLsbD 3) = false ∧
    (∃ s : State, ((s.ctxWord 0 3).getLsbD 2 && s.r.featw0.getLsbD 3) = true) ∧ Tab.get 0 (task0 ct0).misses (missKey 0 0 0x7000 3) < 2 ∧
    (∃ t : Task, 2 ≤ Tab.get 0 t.misses (missKey 0 0 0x7000 3)) ∧
    Tab.get 0 State.reset.m.misses ((Plain.enc 3).key ((0x7000 : Word).toNat / 4096)) < 2 ∧
    ∃ s : State, 2 ≤ Tab.get 0 s.m.misses ((Plain.enc 3).key ((0x7000 : Word).toNat / 4096)) :=
  ⟨by decide, ⟨{ devPage with r := { devPage.r with prqHist := 1 } }, by decide, by decide⟩,
    ⟨{ devPage with r := { devPage.r with priStop := [(0, true)] } }, by decide⟩, by decide,
    ⟨{ State.reset with r := { State.reset.r with ctx := [(3, 4)], featw0 := 8 } }, by decide⟩, by decide,
    ⟨{ task0 ct0 with misses := [(missKey 0 0 0x7000 3, 2)] }, by decide⟩, by decide,
    { State.reset with m := { State.reset.m with misses := [((Plain.enc 3).key 7, 2)] } }, by decide⟩

/-- The test device whose context 0 pages in two stages: entry 0 of the table at 0 points to the table at 0x1000, whose entry
0 is a leaf for the low GiB, to be read, written and used atomically as the bits of `e` say; both stages use these tables. -/
def devWalk (e : Byte) : State :=
  { dev .c ct0 with
    m := { (dev .c ct0).m with dpa := [(0, 1), (1, 0x10), (0x1000, e)] }, r := { (dev .c ct0).r with ctx := [(3, 3)] } }

/-- The leaf of the walks. -/
def leaf0 (a : Bool) : Leaf :=
  { host := false, key := 0, addr := 0, size := 2 ^ 30, cp := 0, r := true, w := true, a := a }

/-- The same with second-stage tables of its own at 0x10000; the first stage's leaf lies 1 GiB on, where the second stage has
entry `b`. -/
def devTwo (b : Byte) : State :=
  { dev .c ct0 with
    m := { (dev .c ct0).m with
      dpa := [(0, 1), (1, 0x10), (0x1000, 0x1F), (0x1003, 0x40), (0x10000, 1), (0x10001, 0x10), (0x10002, 1), (0x11000, 0x1F)] ++
        (if b = 0 then [] else [(0x11008, b)]) },
    r := { (dev .c ct0).r with ctx := [(3, 3), (5, 0x10000)] } }

set_option maxRecDepth 20000 in
/-- Both stages give the leaf, with and without the permission for atomics; an address without entry misses. -/
theorem witness_TranslationAndPageResponses_walks :
    ((devWalk 0x1F).stage1 0 0x2000 = .leaf (leaf0 true) ∧ (devWalk 0x1F).stage2 0 0x2000 = .leaf (leaf0 true) ∧
      ((devWalk 0x1F).ctxWord 0 3).getLsbD 1 = true) ∧
    ((devWalk 0x0F).stage1 0 0x2000 = .leaf (leaf0 false) ∧ (devWalk 0x0F).stage2 0 0x2000 = .leaf (leaf0 false)) ∧
    (devWalk 0x1F).stage1 0 (2 ^ 39) = .miss false ∧ (devWalk 0x7F).stage1 0 0 = .trap .page 2 ∧
    ∀ b, b = 0 ∨ b = 0x7F → (devTwo b).stage1 0 0x2000 = .leaf { leaf0 true with addr := 2 ^ 30 } ∧
      (devTwo b).stage2 0 (2 ^ 30 + 0x2000) = if b = 0 then .miss false else .trap .page 2 := by
  refine ⟨by decide, by decide, by decide, by decide, ?_⟩
  rintro b (rfl | rfl) <;> decide

/-- A window and an address at each of its ends, a result outside memory, an address of 58 bits, and no paging. -/
theorem witness_TranslationAndPageResponses_window :
    (fieldOf ((dev .c ct0).ctxWord 0 0) 21 36 * 2 ^ 21 ≤ (0 : Word).toNat ∧
      ((2 ^ 31 - 1 : Nat) : Nat) < 0 + fieldOf ((dev .c ct0).ctxWord 0 1) 21 36 * 2 ^ 21 ∧
      ¬2 ^ 31 < 0 + fieldOf ((dev .c ct0).ctxWord 0 1) 21 36 * 2 ^ 21 ∧ ((dev .c ct0).ctxWord 0 3).getLsbD 0 = false) ∧
    (∃ s : State, dpaTop ≤ (0 + fieldOf (s.ctxWord 0 2) 21 43 * 2 ^ 21) % 2 ^ 64 ∧
      (0 : Nat) < fieldOf (s.ctxWord 0 1) 21 36 * 2 ^ 21) ∧
    2 ^ 57 ≤ (0x200000000000000 : Word).toNat :=
  ⟨by decide, ⟨{ State.reset with r := { State.reset.r with ctx := [(1, 1024#64 <<< 21), (2, 0x3000000000)] } }, by decide⟩, by decide⟩

/-- Entries of a table: absent, a pointer, a pointer with a bit that is reserved, a leaf, a leaf with one, and a group. -/
theorem witness_TranslationAndPageResponses_entries :
    ((0 : Word).getLsbD 0 = false ∧ (0x1001 : Word).getLsbD 0 = true ∧ (0x1001 : Word).getLsbD 1 = false ∧
      fieldOf 0x1001 52 12 = 0 ∧ fieldOf 0x1001 5 7 = 0 ∧ fieldOf 0x1021 5 7 ≠ 0 ∧ (0x1F : Word).getLsbD 1 = true) ∧
    fieldOf 0x80000000000001F 59 5 ≠ 0 ∧ (0x9F : Word).getLsbD 7 = true ∧
    ∃ group : List EntryRes, (∃ e0, group.head? = some (.entry e0) ∧ entryAddr e0 % 65536 = 0 ∧
      ∀ i < 16, group[i]? = some (.entry (e0 + BitVec.ofNat 64 (4096 * i)))) :=
  ⟨by decide, by decide, by decide, (List.range 16).map (fun i => .entry (0x1009F + BitVec.ofNat 64 (4096 * i))), _, rfl, by decide,
    by decide⟩

theorem witness_HostCommandsRunAndComplete :
    (Cmd.idle.busy = false ∧ ({ Cmd.idle with busy := true } : Cmd).busy = true) ∧
    ((State.reset.inv1 0).busy = false ∧ State.reset.r.kload.busy = false ∧ State.reset.r.frel.busy = false ∧
      State.reset.r.inv2.busy = false ∧ State.reset.inFlight (fun _ => true) = false) ∧
    (∃ s : State, (s.inv1 4).busy = true ∧ s.r.inv2.busy = true ∧ s.r.frel.busy = true ∧ s.r.kload.busy = true ∧
      s.inFlight (fun _ => true) = false ∧ s.strayPiece = false ∧ s.ports.host = true ∧ s.presented 8 = true) ∧
    (∃ s : State, s.strayPiece = true) ∧
    (∃ s : State, s.inFlight (fun _ => true) = true) ∧
    (∃ s : State, s.r.kload.busy = false ∧ s.r.kload.klid = 5 ∧ s.tagUsed 5 = false) ∧
    ∃ s : State, s.r.kload.busy = false ∧ s.r.kload.klid = 5 ∧ s.tagUsed 5 = true := by
  refine ⟨⟨rfl, rfl⟩, by decide, ⟨{ State.reset with
    ports := { State.reset.ports with host := true },
    r := { State.reset.r with
      inv1 := [(4, { Cmd.idle with busy := true })], inv2 := { Cmd.idle with busy := true }, frel := { Cmd.idle with busy := true },
      kload := { Cmd.idle with busy := true } } }, by decide⟩,
    ⟨{ State.reset with m := { State.reset.m with slices := [(0, { Slice.empty with queue := [.piece (piece0 false false)] })] } }, by decide⟩,
    ⟨dev .c (ctPosted false), by decide⟩,
    ⟨{ State.reset with r := { State.reset.r with kload := { Cmd.idle with k := 5 } } }, by decide⟩,
    ⟨{ State.reset with
      r := { State.reset.r with kload := { Cmd.idle with k := 5 } }, m := { State.reset.m with keyTags := [(0, 5)] } }, by decide⟩⟩

/-- A queue that may be enabled, a completion that may be written, and an entry that may be served. -/
def devQueue (h : HostQueue) : State :=
  { State.reset with
    ports := { State.reset.ports with host := true }, queues := [(2, h)], r := { State.reset.r with featFixed := true } }

/-- A completion. -/
def comp0 : Completion := { tag := 1, code := 0, kind := 0, value := 0 }

theorem witness_QueuesAndCompletions :
    ((devQueue HostQueue.off).ports.host = true ∧ (devQueue HostQueue.off).presented 8 = true) ∧
    ((devQueue HostQueue.off).queue 2).en = false ∧ (0x80000004 : Word).getLsbD 31 = true ∧
    (∃ h : HostQueue, ((devQueue h).queue 2).comps = [comp0] ∧ (devQueue h).ports.host = true ∧
      ((devQueue h).queue 2).cqtail + 1 ≠ ((devQueue h).queue 2).cqhead) ∧
    (∃ h : HostQueue, (h.cqtail + 1) % 2 ^ h.log2 = h.cqhead % 2 ^ h.log2 ∧ h.comps = [comp0]) ∧
    ((devQueue HostQueue.off).r.featFixed = true ∧ State.reset.r.featFixed = false) ∧
    (∃ h, (devQueue h).mayServe 2 = true) ∧ State.reset.mayServe 2 = false ∧
    (∃ e : List Word, entryField e 0 56 8 = 6 ∧ entryOk e false = true) ∧ entryField [0x0800000000000000] 0 56 8 = 8 ∧
    State.reset.multi = none :=
  ⟨by decide, rfl, by decide, ⟨{ HostQueue.off with log2 := 4, comps := [comp0] }, rfl, rfl, by decide⟩,
    ⟨{ HostQueue.off with log2 := 4, comps := [comp0], cqtail := 15 }, by decide, rfl⟩, ⟨rfl, rfl⟩,
    ⟨{ HostQueue.off with en := true, log2 := 4 }, by decide⟩, by decide,
    ⟨[0x0600000000000000, 0, 0, 0, 0, 0, 0, 0], by decide, by decide⟩, by decide, rfl⟩

/-- Rings inside a window of the host, and one of a size out of range; a ring slot inside the window. -/
theorem witness_QueuesAndCompletions_enable :
    ∃ s : State, s.queueOk 0 { HostQueue.off with log2 := 4 } = true ∧ s.queueOk 0 { HostQueue.off with log2 := 3 } = false ∧
      s.queueOk 0 { HostQueue.off with log2 := 12 } = true ∧ s.queueOk 0 { HostQueue.off with log2 := 13 } = false ∧
      s.hostOk 240 16 = true :=
  ⟨{ devQueue HostQueue.off with service := { State.reset.service with windows := [(0, 2 ^ 20)] } }, by decide⟩

/-- An entry that a queue holds, and a queue with nothing to read. -/
theorem witness_QueuesAndCompletions_serve :
    (∃ (s : State) (x : FetchedEntry), s.mayServe 2 = true ∧ (s.queue 2).cur = some x) ∧
    ((devQueue HostQueue.off).queue 2).cur = none ∧ ((devQueue HostQueue.off).queue 2).levels = [] ∧
    ((devQueue HostQueue.off).queue 2).head = ((devQueue HostQueue.off).queue 2).tail ∧
    (∃ (s : State) (n : Nat) (s1 : State), s.mayServe n = true ∧ s.serveQueue n = (s1, true)) ∧
    (∃ s : State, s.queueWaits 2 = true ∧ (s.queue 2).cur = some ⟨[0], [1], 0, 0, true⟩) ∧
    (⟨[0], [1], 0, 0, true⟩ : FetchedEntry).counted = true ∧ (⟨[0], [1], 0, 0, true⟩ : FetchedEntry).desc ≠ [] :=
  ⟨⟨devQueue { HostQueue.off with cur := some ⟨[0], [], 0, 0, false⟩ }, _, by decide, rfl⟩, rfl, rfl, rfl,
    ⟨devQueue { HostQueue.off with en := true, log2 := 4, tail := 1 }, 2, _, by decide, rfl⟩,
    ⟨{ devQueue { HostQueue.off with cur := some ⟨[0], [1], 0, 0, true⟩ } with
        m := { State.reset.m with misses := [((Plain.queue 2).key 7, 1)] }, r := { State.reset.r with prq := [page0] } }, by decide, rfl⟩,
    rfl, by decide⟩

set_option maxRecDepth 20000 in
/-- A MULTI-SUBMIT before and at its limit of 1 ms, one that can be placed and one that cannot. -/
theorem witness_QueuesAndCompletions_multi :
    (∃ (s : State) (m : Multi), s.multi = some m ∧ s.commitMulti m = none ∧ s.dtime < m.since + 1000000) ∧
    (∃ (s : State) (m : Multi) (r : State × Completion), s.multi = some m ∧ s.commitMulti m = some r ∧ s.dtime < m.since + 1000000) ∧
    ∃ (s : State) (m : Multi), s.multi = some m ∧ m.since + 1000000 ≤ s.dtime :=
  ⟨⟨{ State.reset with multi := some ⟨2, 0, 0, 0, false, [0x1000, 1], [], 0, false⟩ }, _, rfl, by decide, by decide⟩,
    ⟨{ devSub with
      multi := some ⟨2, 0, 0, 0, false, td0, [(0, 1)], 0, false⟩, r := { devSub.r with partcfg := [(0, 1)] } }, _, _, rfl, rfl, by decide⟩,
    { State.reset with multi := some ⟨2, 0, 0, 0, false, [0x1000, 1], [], 0, false⟩, dtime := 1000000 }, _, rfl, by decide⟩


/-- The reset device with its host port up. -/
def devHost : State := { State.reset with ports := { State.reset.ports with host := true } }

theorem witness_DeviceRegisters :
    (devHost.ports.host = true ∧ devHost.presented 8 = true) ∧
    (∃ r, State.reset.r.writeCtx 127 5 0 = some r) ∧ (∃ r, State.reset.r.writeShare 7 0x100 = some r) ∧
    State.reset.r.writeShare 7 0x101 = none ∧
    (∃ r, State.reset.r.writePartcfg State.reset.usedIslands 0 1 = some r) ∧ (∃ r, State.reset.r.writePmax 0 10 = some r) ∧
    State.reset.r.writePmax 0 11 = none ∧ (∃ r, State.reset.r.writeRscarve (!State.reset.streams.isEmpty) 4 = some r) ∧
    State.reset.r.writeRscarve false 5 = none ∧ devHost.r.featFixed = false ∧
    (∃ s : State, s.ports.host = true ∧ s.r.featFixed = true) ∧
    ((some 1 : Option (BitVec 32)) ≠ none ∨ (none : Option (BitVec 32)) ≠ none) ∧
    (∃ (s : State) (x : EncCtx), s.ports.host = true ∧ s.encReach 0 0 3 = some x ∧ x.eord ≤ (0 : Word).toNat ∧
      (0 : Word).toNat ≤ x.eowr ∧ x.eowr < 1) ∧
    ¬8 ∣ (0x13004 : BitVec 22).toNat ∧ (8 ∣ (0x13000 : BitVec 22).toNat ∧ 0x10000 ≤ (0x13000 : BitVec 22).toNat ∧ (1 : Fin 9) ≠ 0) ∧
    ∃ s : State, s.presented 1 = false :=
  ⟨by decide, ⟨_, rfl⟩, ⟨_, rfl⟩, by decide, ⟨_, rfl⟩, ⟨_, rfl⟩, by decide, ⟨_, rfl⟩, by decide, rfl,
    ⟨devQueue HostQueue.off, rfl, rfl⟩, by decide,
    ⟨{ devEnc ct0 enc0 with ports := { State.reset.ports with host := true } }, enc0, rfl, rfl, by decide, by decide, by decide⟩,
    by decide, by decide, { State.reset with r := { State.reset.r with bootstat := 0x100 } }, by decide⟩

/-- A window at the end of memory and one byte of 2 MiB beyond it; a context with and without a partition that holds it;
quota sums at their limits and beyond; islands of one partition, of two, and in use; memories that touch and that meet. -/
theorem witness_DeviceRegisters_rules :
    (windowIn [(1, 0x3000000000)] 0 (0, 0x3000000000) = true ∧ windowIn [(0, 1#64 <<< 21), (1, 0x3000000000)] 0 (0, 0x3000000000) = false) ∧
    (windowIn (Tab.set 0 State.reset.r.ctx 1 0x3000200000) 0 (0, 0x3000000000) = false) ∧
    (State.reset.r.writeCtxp false 0 0 = none ∧ State.reset.r.writeCtxp true 5 0 = none ∧
      ∃ r, State.reset.r.writeCtxp false 5 0x83 = some r) ∧
    ((∃ r, State.reset.r.writePartcfg [] 0 1 = some r) ∧ State.reset.r.writePartcfg [0] 7 1 = none) ∧
    ((∃ r, State.reset.r.writePmem 0 0x1800000000000 = some r) ∧ State.reset.r.writePmem 0 0x1800000000001 = none) ∧
    ∀ i ∈ State.reset.usedIslands, i < 32 :=
  ⟨by decide, by decide, ⟨by decide, by decide, _, rfl⟩, ⟨⟨_, rfl⟩, by decide⟩, ⟨⟨_, rfl⟩, by decide⟩, by decide⟩

/-- The reset device with VF 3 at a stage, and FEATW0.VFMIG. -/
def devVf (st : VfStage) : State :=
  { State.reset with
    r := { State.reset.r with featw0 := 0x40 },
    ports := { State.reset.ports with
      vf := [(3, { VfMig.idle with stage := st, confirmed := [8] })], host := true, peer := true } }

theorem witness_FunctionsMigrateAndPortsCarry :
    ((3 : Fin 9).val ≠ 0 ∧ ((devVf .idle).vfMig 2).stage = .idle ∧ (devVf .idle).r.featw0.getLsbD 6 = true ∧
      (devVf .idle).ports.host = true ∧ (devVf .idle).ports.peer = true ∧ (∀ e ∈ (devVf .idle).streams, e.2.part = 2 → e.2.evs = []) ∧
      (∀ e ∈ (devVf .idle).tasks, e.2.inPart 2 = false)) ∧
    (((devVf .frozen).vfMig 2).stage ≠ .idle ∧ ((devVf .frozen).vfMig 2).stage = .frozen) ∧
    (((devVf .imported).vfMig 2).stage = .imported ∧ 8 ∈ ((devVf .imported).vfMig 2).confirmed ∧
      7 ∉ ((devVf .imported).vfMig 2).confirmed) ∧
    (∃ (p : Fin 8) (t : Task), p.val = 2 ∧ 2 ∈ t.parts) ∧
    (∃ (s : State) (t : Task), s.task? 0 = some t ∧ t.inPart 2 = true ∧ t.state = .parked ∧ ∀ k ∈ t.conds, k = .freeze) ∧
    (∃ s : State, s.ports.peer = true) ∧ State.reset.ports.peer = false ∧
    (devHost.ports.host = true ∧ State.reset.ports.host = false) ∧ dpaTop - 4 + 4 ≤ dpaTop ∧ dpaTop < dpaTop - 3 + 4 :=
  ⟨⟨by decide, by decide, by decide, rfl, rfl, fun e h => (by cases h), fun e h => by cases h⟩, by decide, by decide,
    ⟨2, { task0 ct0 with part := 2 }, by decide, by decide⟩,
    ⟨{ dev .c ct0 with tasks := [(0, { task0 ct0 with part := 2, state := .parked, conds := [.freeze] })] }, _, rfl, by decide, rfl,
      by decide⟩, ⟨devPeer, rfl⟩, rfl, ⟨rfl, rfl⟩, by decide, by decide⟩

/-- A VF's state to move in: one parked gang. -/
def image1 : VfImage :=
  { State.reset.vfImage 3 with tasks := [(0, { task0 ct0 with part := 2, state := .parked, conds := [.freeze] })] }

theorem witness_FunctionsMigrateAndPortsCarry_images :
    (∃ (s : State) (x : VfImage), (s.vfMig 2).stage = .idle ∧ s.r.featw0.getLsbD 6 = true ∧ s.ports.host = true ∧
      s.vfFits 3 x = true ∧ (x.tasks.map (·.1)).Nodup ∧ ∃ u, (0, u) ∈ x.tasks) ∧
    (∃ link : Option (Nat × Nat), link = some (16, 128) ∧ ∀ x ∈ link, 1 ≤ x.1 ∧ x.1 ≤ 16 ∧ 1 ≤ x.2 ∧ x.2 ≤ 128) ∧
    (∃ link : Option (Nat × Nat), link = some (17, 1) ∧ ¬∀ x ∈ link, 1 ≤ x.1 ∧ x.1 ≤ 16 ∧ 1 ≤ x.2 ∧ x.2 ≤ 128) ∧
    ∃ s : State, s.partGone 2 = true :=
  ⟨⟨devVf .idle, image1, by decide, by decide, rfl, by decide, by decide, _, List.mem_singleton_self _⟩,
    ⟨_, rfl, by simp⟩, ⟨_, rfl, by simp⟩,
    { devVf .frozen with ports := { State.reset.ports with vf := [(3, { VfMig.idle with stage := .frozen, exported := true })] } }, by decide⟩

/-- An image that passes its checks in the service complex after reset, and one that fails each. -/
def image0 : BootImage := { makerOk := true, maker := State.reset.service.maker, ownerOk := true, owner := State.reset.service.owner,
                            version := State.reset.service.fused, wellFormed := true, hash := 1 }

theorem witness_ResetBootAndOwnership :
    imageCheck State.reset.service image0 = 0 ∧ imageCheck State.reset.service { image0 with makerOk := false } = 1 ∧
    imageCheck State.reset.service { image0 with ownerOk := false } = 2 ∧
    (∃ v : Service, v.fused = 1 ∧ imageCheck v { image0 with maker := v.maker, owner := v.owner, version := 0 } = 3) ∧
    imageCheck State.reset.service { image0 with wellFormed := false } = 4 ∧
    [image0, { image0 with wellFormed := false }].take 7 = [image0] ++ { image0 with wellFormed := false } :: [] ∧
    (∃ s : State, s.service.strap = true) ∧ State.reset.service.strap = false ∧
    fourInDay [0, 1, 2, 3] = true ∧ fourInDay [0, 1, 2] = false ∧ (0 : Nat) < dpaTop :=
  ⟨by decide, by decide, by decide, ⟨{ State.reset.service with fused := 1 }, rfl, by decide⟩, by decide, rfl,
    ⟨{ State.reset with service := { State.reset.service with strap := true } }, rfl⟩, rfl, by decide, by decide, by decide⟩

/-! ### Ill-formed terms, which the checks refuse (R83, R102) -/

theorem test_ill_formed_scalar :
    fieldOk 60 5 = false ∧ (Instr.bfx 0 1 2 0 0).wf = false ∧ (Instr.bfxS 0 1 2 63 2).wf = false ∧ (Instr.bfi 0 1 2 0 65).wf = false ∧
    (Instr.loopReg 0 1 0).wf = false ∧ (Instr.loopImm 0 5 0).wf = false ∧ (Instr.fork 0 .c 5).wf = false ∧
    (Instr.rdv 0 0).wf = false ∧ (Instr.tksig 0 .l (.imm 0)).wf = false ∧ (Instr.tkwait 0 .l (.imm 0)).wf = false ∧
    (Instr.agset 0 1 3 4).wf = false ∧ (Instr.agget 0 4 1 3).wf = false ∧ (Instr.sload 0 8).wf = false ∧
    (Instr.sstore 0 7).wf = false ∧ (Instr.semsigImm 0 0 1).wf = false ∧ (Instr.semwaitImm 0 1 0).wf = false ∧
    (Instr.semsigReg 0 0 1).wf = false ∧ (Instr.semwaitReg 0 0 1).wf = false ∧ (Instr.semget 0 1 0).wf = false ∧
    (Instr.acct 0 .f32 0 1 2 0 1).wf = false ∧ (Instr.acctD 0 .f32 0 1 2 1 65).wf = false := by decide

/-- A word to the ring alone with the second mark of a ring write, with a tag, with rounding where only `:sat` is used,
and sources B and C in the ring. -/
theorem test_ill_formed_vector :
    (Instr.vaddF { vw with dst := .ring, ring := true } (.tile 1) false).wf = false ∧
    (Instr.vaddF { vw with alloc := some 1 } (.tile 1) false).wf = false ∧
    (Instr.vexp2 { vw with alloc := some 1, ring := true }).wf = false ∧
    (Instr.vexp2 { vw with dst := .sq 0, alloc := some 1 }).wf = false ∧
    (Instr.vaddI { vw with rnd := .rtz } (.tile 1) false).wf = false ∧ (Instr.vand { vw with sat := true } (.tile 1) false).wf = false ∧
    (Instr.vaddF vw (.ring 0) false).wf = false ∧ (Instr.vfma vw 0 (.tile 1) false (.ring 0)).wf = false ∧
    (Instr.vclampF vw (.ring 1) false (.tile 2)).wf = false ∧ (Instr.vclampI vw (.tile 1) false (.ring 1)).wf = false ∧
    (Instr.vcmpF vw .lt (.ring 1) false).wf = false ∧ (Instr.vsel vw (.tile 1) false (.ring 1)).wf = false ∧
    (Instr.vfmaFs vw 0 3 (.ring 1)).wf = false ∧ (Instr.vmov { vw with sat := true }).wf = false ∧
    (Instr.vaddIs { vw with rnd := .rup } 3).wf = false ∧ (Instr.vabsI { vw with rnd := .rup }).wf = false := by decide

theorem test_ill_formed_convert :
    (Instr.vcvt vw .q4x).wf = false ∧ (Instr.vqnt vw .f16 false).wf = false ∧ (Instr.vqnt { vw with ring := true } .q4 false).wf = false ∧
    (Instr.vqnt { vw with dst := .ring } .q4 false).wf = false ∧ (Instr.vqnt { vw with dst := .sq 1 } .q4 true).wf = false ∧
    (Instr.vdqnt vw .f32).wf = false ∧ (Instr.vrsum { vw with sat := true } true).wf = false := by decide

theorem test_ill_formed_engines :
    (Instr.mxmul { mulOf true with pair := ⟨false, .f32, .f32⟩ }).wf = false ∧ (Instr.mxmul { mulOf true with ta := 48 }).wf = false ∧
    (Instr.mxmul { mulOf true with tb := 40, rep := 8 }).wf = false ∧ (Instr.mxmul { mulOf true with cb := 1 }).wf = false ∧
    (Instr.mxmul { mulOf true with mdq := 1 }).wf = false ∧ (Instr.mxmul { mulOf true with spn := 1 }).wf = false ∧
    (Instr.mxmuls { mulOf true with pair := ⟨false, .q4, .q4⟩ }).wf = false ∧ (Instr.mxwr 0 0 0 48).wf = false ∧
    (Instr.mxrd ⟨0, 0, 0, 0, 0, 1⟩ .f32 .rne false).wf = false ∧ (Instr.mxrd ⟨0, 0, 0, 0, 1, 65⟩ .f32 .rne false).wf = false ∧
    (Instr.mxrd ⟨0, 0, 0, 0, 1, 1⟩ .i8 .rne false).wf = false ∧ (Instr.mxrd ⟨0, 0, 0, 47, 64, 64⟩ .f32 .rne false).wf = false ∧
    (Instr.mxepi ⟨0, 0, 0, 48, 1, 1⟩ .s).wf = false ∧ (Instr.cpg2l { cp0 with rg := 3 } .d1).wf = false ∧
    (Instr.cpl2g { cp0 with rg := 0 } .d2).wf = false ∧ (Instr.cpl2l { cp0 with rg := 30 } .d3 0).wf = false ∧
    (Instr.cpbc cp0 0).wf = false ∧ (Instr.cpfillL { cp0 with rg := 1 }).wf = false ∧ (Instr.cpmeta cp0 0 1).wf = false ∧
    (Instr.cpmeta { cp0 with rd := 0, rl := 0 } 0 65).wf = false ∧ (Instr.eqpush 0 6 (.tile 0) false 0 0 0 false).wf = false ∧
    (Instr.eqpush 0 0 (.tile 0) false 3 0 0 false).wf = false ∧ (Instr.eqpush 0 0 (.ring 0) false 0 0 0 false).wf = false := by decide

/-! ### Single steps, with results worked out by hand from the rules -/

/-- Register `r` of the sequencer after a word that starts from the registers `g`. -/
def after (q : SeqId) (g : Tab Word) (i : Instr) (r : GReg) : Option Word :=
  match exec i (dev q (ctRegs q g)) with
  | .next t => (t.ct? 0 0).map (fun c => (c.seq q).rd r)
  | _ => none

theorem test_sums_wrap : after .c [(1, 0xFFFFFFFFFFFFFFFF), (2, 1)] (.addReg 0 3 1 2) 3 = some 0 ∧
    after .l [(1, 5)] (.sub 0 1 0 1) 1 = some 0xFFFFFFFFFFFFFFFB ∧
    after .c [(1, 0x8000000000000000), (2, 2)] (.mulh 0 3 1 2) 3 = some 0xFFFFFFFFFFFFFFFF ∧
    after .c [(1, 0x8000000000000000), (2, 2)] (.mulhU 0 3 1 2) 3 = some 1 := by decide

theorem test_g0_discards : after .c [(1, 7)] (.mov 0 0 1) 0 = some 0 := by decide

theorem test_shift_counts : after .c [(1, 3), (2, 65)] (.shlReg 0 3 1 2) 3 = some 6 ∧
    after .c [(1, 0x8000000000000000)] (.sarImm 0 3 1 63) 3 = some 0xFFFFFFFFFFFFFFFF := by decide

theorem test_division_by_zero : after .c [(1, 9)] (.divu 0 none 3 1 0) 3 = some 0xFFFFFFFFFFFFFFFF ∧
    after .c [(1, 9)] (.remu 0 none 3 1 0) 3 = some 9 := by decide

theorem test_fields : after .c [(1, 0xABCD)] (.bfxS 0 2 1 8 4) 2 = some 0xFFFFFFFFFFFFFFFB ∧
    after .c [(1, 0xABCD)] (.bfx 0 2 1 8 4) 2 = some 0xB ∧ after .c [(2, 0xFFFF)] (.bfi 0 2 0 4 8) 2 = some 0xF00F ∧
    after .c [] (.li 0 13 0x8000000000) 13 = some 0xFFFFFF8000000000 ∧ after .c [(2, 5)] (.lih 0 2 0x40) 2 = some 0x400000000005 ∧
    after .c [(1, 1)] (.clz 0 2 1) 2 = some 63 := by decide

/-- Rounding to BF16: 1 + 2^-8 is a tie and goes to even, and up under RUP; the largest F16 and what lies above it. -/
theorem test_rounding : roundTo .bf16 .rne false (valOf .f32 0x3F808000) = 0x3F80 ∧
    roundTo .bf16 .rup false (valOf .f32 0x3F808000) = 0x3F81 ∧ roundTo .f16 .rne false (valOf .f32 0x477FE000) = 0x7BFF ∧
    roundTo .f16 .rne false (valOf .f32 0x47800000) = 0x7C00 ∧ roundTo .f16 .rne true (valOf .f32 0x47800000) = 0x7BFF := by decide

/-! ### Words of the manual (R77, R102, R103 and the examples beside the instructions) -/

theorem test_words_0 :
    decodeBytes [0xA0, 0x86, 0x01, 0x00, 0x00, 0x4A, 0x4A, 0x00, 0x80, 0x00] = some (.addImm 0 10 10 100000) ∧
    decodeBytes [0x01, 0x00, 0x00, 0x00, 0x00, 0x49, 0x49, 0x00, 0x00, 0x07] = some (.xorImm 0 9 9 1) ∧
    decodeBytes [0x08, 0x01, 0x00, 0x00, 0x00, 0x41, 0x42, 0x00, 0x00, 0x12] = some (.bfxS 0 2 1 8 4) ∧
    decodeBytes [0x00, 0x00, 0x00, 0x00, 0x00, 0x46, 0x45, 0x00, 0x00, 0x13] = some (.clz 0 5 6) ∧
    decodeBytes [0x00, 0x00, 0x00, 0x00, 0x47, 0x46, 0x45, 0x00, 0x8B, 0x03] = some (.divu 0 (some 3) 5 6 7) ∧
    decodeBytes [0x00, 0x06, 0x00, 0x80, 0x00, 0x00, 0x4D, 0x00, 0x00, 0x10] = some (.li 0 13 0x80000600) ∧
    decodeBytes [0x40, 0x00, 0x00, 0x00, 0x00, 0x00, 0x42, 0x00, 0x80, 0x10] = some (.lih 0 2 0x40) ∧
    decodeBytes [0x00, 0x00, 0x47, 0x00, 0x46, 0x45, 0x45, 0x00, 0x80, 0x14] = some (.madd 0 5 5 6 7) ∧
    decodeBytes [0x03, 0x00, 0x00, 0x00, 0x00, 0x42, 0x42, 0x00, 0x00, 0x02] = some (.mulImm 0 2 2 3) ∧
    decodeBytes [0x00, 0x00, 0x00, 0x00, 0x47, 0x46, 0x45, 0x00, 0x0B, 0x04] = some (.remu 0 (some 3) 5 6 7) ∧
    decodeBytes [0x00, 0x00, 0x44, 0x00, 0x43, 0x42, 0x41, 0x00, 0x00, 0x11] = some (.sel 0 1 2 3 4) ∧
    decodeBytes [0x0C, 0x00, 0x00, 0x00, 0x00, 0x43, 0x43, 0x00, 0x00, 0x08] = some (.shlImm 0 3 3 12) := by
  decide

theorem test_words_1 :
    decodeBytes [0x05, 0x00, 0x00, 0x00, 0x00, 0x40, 0x43, 0x00, 0x00, 0x21] = some (.bcNe 0 3 0 5) ∧
    decodeBytes [0xFD, 0xFF, 0xFF, 0xFF, 0xFF, 0x42, 0x41, 0x00, 0x80, 0x21] = some (.bcLt 0 1 2 0xFFFFFFFFFD) ∧
    decodeBytes [0xEF, 0xFF, 0xFF, 0xFF, 0xFF, 0x4F, 0x44, 0x00, 0x80, 0x22] = some (.bcLtu 0 4 15 0xFFFFFFFFEF) ∧
    decodeBytes [0x14, 0x00, 0x00, 0x00, 0x00, 0x00, 0x00, 0x00, 0x80, 0x23] = some (.call 0 20) ∧
    decodeBytes [0x00, 0x00, 0x00, 0x00, 0x00, 0x00, 0x00, 0x00, 0x00, 0x24] = some (.ret 0) ∧
    decodeBytes [0x01, 0x00, 0x00, 0x00, 0x00, 0x43, 0x00, 0x00, 0x80, 0x24] = some (.jtbl 0 3 1) ∧
    decodeBytes [0x34, 0x12, 0x00, 0x00, 0x00, 0x00, 0x00, 0x00, 0x00, 0x25] = some (.lpad 0 0x1234) ∧
    decodeBytes [0x01, 0x00, 0x00, 0x00, 0x00, 0x43, 0x00, 0x00, 0x80, 0x25] = some (.loopReg 0 3 1) ∧
    decodeBytes [0x05, 0x00, 0x40, 0x06, 0x00, 0x00, 0x00, 0x00, 0x00, 0x26] = some (.loopImm 0 100 5) ∧
    decodeBytes [0x03, 0x00, 0x00, 0x80, 0x00, 0x00, 0x00, 0x00, 0x00, 0x26] = some (.loopImm 0 2048 3) ∧
    decodeBytes [0x00, 0x00, 0x00, 0x00, 0x00, 0x00, 0x00, 0x0A, 0x80, 0x26] = some (.nop 0x0A) ∧
    decodeBytes [0x20, 0x01, 0x00, 0x00, 0x02, 0x00, 0x00, 0x00, 0x00, 0x27] = some (.fork 0 .x 0x120) ∧
    decodeBytes [0x0F, 0x00, 0x00, 0x00, 0x00, 0x00, 0x00, 0x00, 0x80, 0x27] = some (.rdv 0 15) ∧
    decodeBytes [0x00, 0x00, 0x00, 0x00, 0x00, 0x00, 0x00, 0x00, 0x00, 0x28] = some (.exit 0) ∧
    decodeBytes [0x01, 0x02, 0x00, 0x00, 0x00, 0x00, 0x00, 0x00, 0x80, 0x28] = some (.tksig 0 .x (.imm 1)) ∧
    decodeBytes [0x01, 0x01, 0x00, 0x00, 0x00, 0x00, 0x00, 0x00, 0x00, 0x29] = some (.tkwait 0 .l (.imm 1)) ∧
    decodeBytes [0x00, 0x00, 0x00, 0x00, 0x00, 0x00, 0x00, 0x00, 0x80, 0x29] = some (.yield 0) ∧
    decodeBytes [0x00, 0x00, 0x00, 0x00, 0x00, 0x00, 0x00, 0x00, 0x00, 0x2A] = some (.grpend 0) ∧
    decodeBytes [0x42, 0x00, 0x00, 0x00, 0x00, 0x00, 0x00, 0x00, 0x80, 0x2A] = some (.trap 0 0x42) := by
  decide

theorem test_words_2 :
    decodeBytes [0x10, 0x00, 0x00, 0x00, 0x00, 0x41, 0x44, 0x00, 0x0A, 0x43] = some (.ldg 0 (some 2) .d 4 1 16) ∧
    decodeBytes [0x00, 0x00, 0x00, 0x00, 0x00, 0x47, 0x48, 0x00, 0x00, 0x48] = some (.ldl 0 none .wu 8 7 0) ∧
    decodeBytes [0xFF, 0xFF, 0xFF, 0xFF, 0xFF, 0x43, 0x42, 0x00, 0x80, 0x45] = some (.ldl 0 none .b 2 3 0xFFFFFFFFFF) ∧
    decodeBytes [0x00, 0x00, 0x00, 0x00, 0x00, 0x42, 0x43, 0x00, 0x00, 0x45] = some (.stg 0 .d 3 2 0) ∧
    decodeBytes [0xFC, 0xFF, 0xFF, 0xFF, 0xFF, 0x41, 0x46, 0x00, 0x80, 0x44] = some (.stg 0 .w 6 1 0xFFFFFFFFFC) ∧
    decodeBytes [0x08, 0x00, 0x00, 0x00, 0x00, 0x44, 0x45, 0x00, 0x00, 0x4A] = some (.stl 0 .w 5 4 8) ∧
    decodeBytes [0x01, 0x00, 0x00, 0x00, 0x00, 0x42, 0x00, 0x00, 0x00, 0x4B] = some (.agset 0 1 0 2) ∧
    decodeBytes [0x29, 0x00, 0x00, 0x00, 0x00, 0x00, 0x43, 0x00, 0x80, 0x4B] = some (.agget 0 3 9 2) ∧
    decodeBytes [0x02, 0x00, 0x00, 0x00, 0x00, 0x00, 0x00, 0x00, 0x00, 0x4C] = some (.sload 0 2) ∧
    decodeBytes [0x08, 0x00, 0x00, 0x00, 0x00, 0x00, 0x00, 0x00, 0x80, 0x4C] = some (.sstore 0 8) ∧
    decodeBytes [0x00, 0xF0, 0xFF, 0xFF, 0xFF, 0x00, 0x00, 0x00, 0x00, 0x4D] = some (.sadv 0 0 (.imm 0xFFFFFFF00)) ∧
    decodeBytes [0x00, 0x00, 0x00, 0x00, 0x42, 0x41, 0x00, 0x00, 0x80, 0x4D] = some (.prefH 0 1 2) := by
  decide

theorem test_words_3 :
    decodeBytes [0x00, 0x00, 0x00, 0x80, 0x41, 0x30, 0x00, 0x00, 0x00, 0x77] = some (.vmulFs { cons := 0, alloc := none, dst := .tile 0, ring := false, a := .lq 0, strictA := true, rnd := .rne, sat := false } 1) ∧
    decodeBytes [0x00, 0x00, 0x00, 0x80, 0x08, 0x05, 0x38, 0x00, 0x00, 0x62] = some (.vmulF { cons := 0, alloc := none, dst := .sq 0, ring := false, a := .tile 5, strictA := true, rnd := .rne, sat := false } (.tile 8) false) ∧
    decodeBytes [0x00, 0x00, 0x00, 0x82, 0x00, 0x31, 0x00, 0x00, 0x00, 0x74] = some (.vmov { cons := 0, alloc := none, dst := .ring, ring := false, a := .lq 1, strictA := true, rnd := .rne, sat := false }) ∧
    decodeBytes [0x00, 0x00, 0x01, 0xC0, 0x30, 0x00, 0x38, 0x02, 0x40, 0x6E] = some (.vfma { cons := 2, alloc := none, dst := .sq 0, ring := false, a := .ring 3, strictA := true, rnd := .rne, sat := false } 0 (.lq 0) true (.tile 1)) ∧
    decodeBytes [0x00, 0x00, 0x00, 0x80, 0x02, 0x01, 0x03, 0x00, 0x00, 0x60] = some (.vaddF { cons := 0, alloc := none, dst := .tile 3, ring := false, a := .tile 1, strictA := true, rnd := .rne, sat := false } (.tile 2) false) ∧
    decodeBytes [0x00, 0x00, 0x00, 0x80, 0x02, 0x01, 0x04, 0x00, 0x00, 0x69] = some (.vcmpF { cons := 0, alloc := none, dst := .tile 4, ring := false, a := .tile 1, strictA := true, rnd := .rne, sat := false } .lt (.tile 2) false) ∧
    decodeBytes [0x00, 0x00, 0x03, 0x80, 0x02, 0x01, 0x07, 0x00, 0x80, 0x70] = some (.vsel { cons := 0, alloc := none, dst := .tile 7, ring := false, a := .tile 1, strictA := true, rnd := .rne, sat := false } (.tile 2) false (.tile 3)) ∧
    decodeBytes [0x07, 0x03, 0x00, 0x80, 0x00, 0x00, 0x05, 0x00, 0x80, 0x74] = some (.vbcast { cons := 0, alloc := none, dst := .tile 5, ring := false, a := .tile 0, strictA := true, rnd := .rne, sat := false } 3 7) ∧
    decodeBytes [0x00, 0x00, 0x00, 0x00, 0x45, 0x00, 0x01, 0x00, 0x00, 0x75] = some (.vfill 0 1 false 5) ∧
    decodeBytes [0x01, 0x00, 0x30, 0x81, 0x02, 0x00, 0x06, 0x02, 0x10, 0x6E] = some (.vfma { cons := 2, alloc := none, dst := .tile 6, ring := true, a := .ring 0, strictA := true, rnd := .rne, sat := false } 1 (.tile 2) false (.lq 0)) := by
  decide

theorem test_words_4 :
    decodeBytes [0x00, 0x00, 0x00, 0x80, 0x00, 0x32, 0x01, 0x00, 0x09, 0x89] = some (.vrcp { cons := 0, alloc := some 1, dst := .tile 1, ring := false, a := .lq 2, strictA := true, rnd := .rne, sat := false }) ∧
    decodeBytes [0x00, 0x00, 0x00, 0x80, 0x00, 0x05, 0x05, 0x00, 0x00, 0x88] = some (.vexp2 { cons := 0, alloc := none, dst := .tile 5, ring := false, a := .tile 5, strictA := true, rnd := .rne, sat := false }) ∧
    decodeBytes [0x00, 0x00, 0x00, 0x80, 0x00, 0x00, 0x01, 0x00, 0x80, 0x8A] = some (.vrmax { cons := 0, alloc := none, dst := .tile 1, ring := false, a := .tile 0, strictA := true, rnd := .rne, sat := false } false) ∧
    decodeBytes [0x00, 0x00, 0x00, 0xA0, 0x00, 0x03, 0x08, 0x00, 0x80, 0x81] = some (.vcvt { cons := 0, alloc := none, dst := .tile 8, ring := false, a := .tile 3, strictA := true, rnd := .rne, sat := true } .e4m3) ∧
    decodeBytes [0x00, 0x00, 0x00, 0x80, 0x00, 0x04, 0x0A, 0x00, 0x00, 0x84] = some (.vqnt { cons := 0, alloc := none, dst := .tile 10, ring := false, a := .tile 4, strictA := true, rnd := .rne, sat := false } .q4 false) ∧
    decodeBytes [0x00, 0x00, 0x00, 0x80, 0x00, 0x05, 0x06, 0x00, 0x80, 0x8C] = some (.vrsum { cons := 0, alloc := none, dst := .tile 6, ring := false, a := .tile 5, strictA := true, rnd := .rne, sat := false } false) ∧
    decodeBytes [0x03, 0x00, 0x00, 0x80, 0x00, 0x02, 0x06, 0x00, 0x0C, 0x90] = some (.vlut { cons := 0, alloc := some 4, dst := .tile 6, ring := false, a := .tile 2, strictA := true, rnd := .rne, sat := false } false 3) ∧
    decodeBytes [0x02, 0x00, 0x00, 0x80, 0x00, 0x09, 0x00, 0x00, 0x00, 0x91] = some (.cbld 0 (.tile 9) true 2) ∧
    decodeBytes [0x00, 0x00, 0x00, 0x00, 0x00, 0x42, 0x04, 0x00, 0x80, 0x91] = some (.tshape 0 4 2) ∧
    decodeBytes [0x00, 0x00, 0x00, 0x80, 0x00, 0x04, 0x43, 0x00, 0x00, 0x92] = some (.tshget 0 3 4 true) := by
  decide

theorem test_words_5 :
    decodeBytes [0x00, 0x00, 0x00, 0x80, 0x01, 0x00, 0x00, 0x00, 0x00, 0xA3] = some (.mxmul { wsem := 0, ssem := 0, pair := ⟨false, .i8, .i8⟩, acc := 0, ta := 0, tb := 1, zero := true, rsum := false, rep := 0, cb := 0, mdq := 0, spn := 0 }) ∧
    decodeBytes [0x00, 0x00, 0x00, 0xC0, 0x05, 0x21, 0x03, 0x00, 0x80, 0xA3] = some (.mxmul { wsem := 0, ssem := 3, pair := ⟨false, .i8, .q4⟩, acc := 2, ta := 4, tb := 5, zero := true, rsum := true, rep := 0, cb := 0, mdq := 0, spn := 0 }) ∧
    decodeBytes [0x00, 0x00, 0x48, 0x0C, 0x10, 0x12, 0x00, 0x02, 0x00, 0xAD] = some (.mxmuls { wsem := 2, ssem := 0, pair := ⟨false, .e4m3, .e4m3⟩, acc := 1, ta := 8, tb := 16, zero := false, rsum := false, rep := 3, cb := 0, mdq := 1, spn := 1 }) ∧
    decodeBytes [0x00, 0x00, 0x00, 0x82, 0x80, 0x21, 0x00, 0x00, 0x80, 0xB3] = some (.mxepi { wsem := 0, ssem := 0, acc := 2, t := 6, rows := 1, cols := 2 } .szb) ∧
    decodeBytes [0x00, 0x00, 0x20, 0x40, 0x20, 0x33, 0x00, 0x00, 0x80, 0xB4] = some (.mxrd { wsem := 0, ssem := 0, acc := 3, t := 12, rows := 64, cols := 64 } .bf16 .rne true) ∧
    decodeBytes [0x00, 0x00, 0x00, 0x00, 0x00, 0x58, 0x00, 0x00, 0x00, 0xB2] = some (.mxzero 0 0 5 true) ∧
    decodeBytes [0x00, 0x00, 0x00, 0x00, 0x80, 0x11, 0x00, 0x00, 0x00, 0xB6] = some (.mxwr 0 0 1 6) ∧
    decodeBytes [0x00, 0x00, 0x20, 0x68, 0x0A, 0x19, 0x02, 0x00, 0x00, 0xB7] = some (.cpg2l { wsem := 0, ssem := 2, rd := 3, rs := 4, rl := 5, rg := 6, bar := some 1 } .d2) := by
  decide

theorem test_words_6 :
    decodeBytes [0x01, 0x00, 0x00, 0x00, 0x05, 0x00, 0x00, 0x00, 0x00, 0xC0] = some (.semsigImm 0 5 1) ∧
    decodeBytes [0x00, 0x00, 0x00, 0x00, 0x05, 0x43, 0x00, 0x00, 0x80, 0xC0] = some (.semsigReg 0 5 3) ∧
    decodeBytes [0x01, 0x00, 0x00, 0x00, 0x01, 0x00, 0x00, 0x00, 0x00, 0xC1] = some (.semwaitImm 0 1 1) ∧
    decodeBytes [0x00, 0x00, 0x00, 0x00, 0x09, 0x00, 0x42, 0x00, 0x00, 0xC2] = some (.semget 0 2 9) ∧
    decodeBytes [0x00, 0x20, 0x00, 0x00, 0x00, 0x00, 0x00, 0x00, 0x80, 0xC2] = some (.barexp 0 0 (.imm 8192)) ∧
    decodeBytes [0x00, 0x00, 0x00, 0x00, 0x00, 0x49, 0x00, 0x00, 0x00, 0xC3] = some (.barwait 0 0 (.reg 9)) ∧
    decodeBytes [0x01, 0x00, 0x00, 0x00, 0x0C, 0x00, 0x00, 0x00, 0x00, 0xC3] = some (.barwait 0 3 (.imm 1)) ∧
    decodeBytes [0x00, 0x00, 0x00, 0x00, 0x00, 0x00, 0x00, 0x00, 0x00, 0xC4] = some (.gbar 0) ∧
    decodeBytes [0x00, 0x00, 0x00, 0x04, 0x42, 0x41, 0x43, 0x00, 0x0A, 0xC5] = some (.atom 0 (some 2) .add true false true 3 1 2) ∧
    decodeBytes [0x00, 0x00, 0x43, 0x08, 0x42, 0x41, 0x44, 0x00, 0x00, 0xCC] = some (.atcas 0 none true true false 4 1 2 3) ∧
    decodeBytes [0x00, 0x10, 0x38, 0x00, 0x42, 0x41, 0x00, 0x00, 0x80, 0xCD] = some (.acct 0 .i32 3 1 2 64 64) ∧
    decodeBytes [0x00, 0x00, 0x00, 0x00, 0x00, 0x00, 0x00, 0x00, 0x80, 0xCF] = some (.flushresAll 0) ∧
    decodeBytes [0x00, 0x44, 0x43, 0x08, 0x42, 0x41, 0x49, 0x00, 0x80, 0xD0] = some (.waita 0 .ne true 9 1 2 3 4) ∧
    decodeBytes [0x00, 0x00, 0x00, 0x00, 0x00, 0x00, 0x00, 0x00, 0x00, 0xD6] = some (.fenceRel 0 .chip) ∧
    decodeBytes [0x00, 0x00, 0x00, 0x00, 0x00, 0x00, 0x00, 0x00, 0x80, 0xD3] = some (.fenceAcq 0 .gang) ∧
    decodeBytes [0x00, 0x00, 0x00, 0x00, 0x42, 0x41, 0x00, 0x00, 0x00, 0xD9] = some (.futres 0 1 2) ∧
    decodeBytes [0x00, 0x00, 0x00, 0x00, 0x00, 0x41, 0x44, 0x00, 0x80, 0xD9] = some (.futwait 0 4 1) := by
  decide

theorem test_words_7 :
    decodeBytes [0x00, 0x00, 0x00, 0x00, 0x42, 0x41, 0x45, 0x00, 0x80, 0xE0] = some (.tsubmitF 0 5 1 2) ∧
    decodeBytes [0x00, 0x00, 0x00, 0x00, 0x00, 0x41, 0x45, 0x00, 0x00, 0xE0] = some (.tsubmit 0 5 1) ∧
    decodeBytes [0x00, 0x00, 0x00, 0x00, 0x4B, 0x4A, 0x00, 0x00, 0x00, 0xE1] = some (.dlset 0 none 10 11) ∧
    decodeBytes [0x00, 0x00, 0x00, 0x00, 0x40, 0x4A, 0x4C, 0x00, 0x00, 0xE1] = some (.dlset 0 (some 12) 10 0) ∧
    decodeBytes [0x00, 0x00, 0x00, 0x00, 0x00, 0x00, 0x4B, 0x00, 0x80, 0xE1] = some (.dlchk 0 11) ∧
    decodeBytes [0x00, 0x00, 0x00, 0x00, 0x00, 0x00, 0x00, 0x00, 0x00, 0xE2] = some (.stepend 0) ∧
    decodeBytes [0x00, 0x00, 0x00, 0x00, 0x00, 0x00, 0x45, 0x00, 0x80, 0xE2] = some (.frput 0 5) ∧
    decodeBytes [0x00, 0x00, 0x00, 0x00, 0x00, 0x45, 0x00, 0x00, 0x00, 0xE3] = some (.frpub 0 5) ∧
    decodeBytes [0x00, 0x00, 0x00, 0x00, 0x00, 0x00, 0x45, 0x00, 0x80, 0xE3] = some (.frget 0 5) ∧
    decodeBytes [0x00, 0x00, 0x00, 0x00, 0x00, 0x45, 0x00, 0x00, 0x00, 0xE4] = some (.frrel 0 5) ∧
    decodeBytes [0x00, 0x00, 0x00, 0x00, 0x00, 0x00, 0x49, 0x00, 0x80, 0xE4] = some (.kvapp 0 9) ∧
    decodeBytes [0x00, 0x00, 0x00, 0x00, 0x00, 0x48, 0x00, 0x00, 0x00, 0xE5] = some (.kvpin 0 8) ∧
    decodeBytes [0x00, 0x00, 0x00, 0x00, 0x00, 0x48, 0x00, 0x00, 0x80, 0xE5] = some (.kvunpin 0 8) ∧
    decodeBytes [0x80, 0x10, 0x10, 0x80, 0x00, 0x04, 0x00, 0x00, 0x00, 0xE6] = some (.eqpush 0 0 (.tile 4) true 0 2 1 true) ∧
    decodeBytes [0x06, 0x00, 0x00, 0x00, 0x00, 0x00, 0x00, 0x00, 0x80, 0xE6] = some (.pwracqImm 0 6) ∧
    decodeBytes [0x00, 0x00, 0x00, 0x00, 0x00, 0x43, 0x00, 0x00, 0x00, 0xE7] = some (.pwracqReg 0 3) ∧
    decodeBytes [0x00, 0x00, 0x00, 0x00, 0x00, 0x00, 0x00, 0x00, 0x80, 0xE7] = some (.pwrrel 0) ∧
    decodeBytes [0x00, 0x00, 0x43, 0x00, 0x44, 0x42, 0x00, 0x00, 0x00, 0xE8] = some (.lksend 0 2 4 3) ∧
    decodeBytes [0x00, 0x00, 0x43, 0x00, 0x44, 0x42, 0x00, 0x00, 0x00, 0xE9] = some (.lkred 0 .bf16 2 4 3) ∧
    decodeBytes [0x01, 0x00, 0x00, 0x00, 0x00, 0x00, 0x43, 0x00, 0x00, 0xEA] = some (.csrr 0 3 1) ∧
    decodeBytes [0x02, 0x02, 0x00, 0x00, 0x00, 0x4D, 0x00, 0x00, 0x80, 0xEA] = some (.csrw 0 0x202 13) ∧
    decodeBytes [0x00, 0x00, 0x00, 0x00, 0x00, 0x00, 0x4A, 0x00, 0x00, 0xEC] = some (.time 0 10) := by
  decide

/-! ### The assembler (R20 to R46) -/

/-- The bytes of a text. -/
def textBytes (s : String) : List Byte := s.toList.map (fun c => BitVec.ofNat 8 c.toNat)

/-- An instruction on a sequencer's section, alone at word 0. -/
def asmOn (q : SeqId) (s : String) : Voas.Ev Word80 :=
  match Voas.items (textBytes (s ++ "\n")) with
  | [it] =>
    (match it.node with
      | .instr m as os =>
        Voas.assembleWord { sec := q, here := 0, look := fun _ _ => .error (.err .e08),
                            target := fun _ _ => .ok (q, 5), range := fun _ => (0, 8) } m as os
      | _ => .error .quiet)
  | _ => .error .quiet

-- The data block of the worked example of R43.
set_option maxRecDepth 100000 in
theorem test_voas_block :
    (Voas.analyse (textBytes (".equ BIG, 0x12_3456_789A_BCDE\n.data 0x2000\ntbl: .word -2, 0x10\n" ++
      ".half lo40(BIG) & 0xFFFF\n.bf16 1.0, -0.5\n.fp8e4 448.0, 0.1\n.q4 3, -1, 7\n.byte hi24(BIG) >> 8\n"))).2.blocks
    = [(0x2000, [0xFE, 0xFF, 0xFF, 0xFF, 0x10, 0x00, 0x00, 0x00, 0xDE, 0xBC, 0x80, 0x3F, 0x00, 0xBF, 0x7E, 0x1D, 0xF3,
        0x07, 0x12])] := by decide

-- Worked encodings of R93, as a number of the bytes listed there.
set_option maxRecDepth 100000 in
theorem test_voas_vector :
    asmOn .x "VADD.F T10, ring2, T9 :wait t1 :ring" = .ok 0x6020020A000981000000#80 := by decide

-- R30: `:alloc` with `:ring` draws E15; R28: `ring1` in position B draws E12.
set_option maxRecDepth 100000 in
theorem test_voas_e15 : asmOn .x "VEXP2 T1, T2 :alloc t1 :ring" = .error (.err .e15) := by decide

set_option maxRecDepth 100000 in
theorem test_voas_e12 : asmOn .x "VADD.F T1, T2, ring1" = .error (.err .e12) := by decide

-- R35: `.align` pads with NOP; a whole source without messages makes an image that the loader takes.
set_option maxRecDepth 100000 in
theorem test_voas_image :
    (Voas.assemble (textBytes ".task a, 1\n.ctl\nx: EXIT\n.align 2\n.entry x\n")).2.map
      (fun b => (b.length, b.drop 128 |>.take 20)) =
    some (128 + 20 + 16 + 2 + 2, [0, 0, 0, 0, 0, 0, 0, 0, 0, 0x28] ++ [0, 0, 0, 0, 0, 0, 0, 0, 0x80, 0x26]) := by decide
end Sys2Proof.Tests
end

section
/-! Sparse tables and memory: canonical tables with equal contents are equal, a written range reads back, and
little-endian bytes and numbers correspond. -/

namespace Sys2Proof

open Machine

variable {α : Type}

/-! ### Canonical tables are determined by their contents -/

theorem Tab.get_cons_ne (d : α) (t : Tab α) {k j : Nat} (v : α) (h : j ≠ k) : Tab.get d ((k, v) :: t) j = Tab.get d t j :=
  if_neg (Ne.symm h)

@[simp] theorem Tab.get_cons_self (d : α) (t : Tab α) (k : Nat) (v : α) : Tab.get d ((k, v) :: t) k = v := if_pos rfl

/-- A key below the first of a canonical table reads the default. -/
theorem Tab.get_cons_below [DecidableEq α] (d : α) {lo : Option Nat} {t : Tab α} {k j : Nat} {v : α}
    (h : Tab.wfFrom d lo ((k, v) :: t) = true) (hj : j < k) : Tab.get d ((k, v) :: t) j = d := by
  rw [Tab.wfFrom_cons] at h
  rw [Tab.get_cons_ne d t v (by omega)]
  exact Tab.get_of_below d k j t h.2.2 (by omega)

theorem Tab.eq_of_get_eq [DecidableEq α] (d : α) {lo : Option Nat} {t u : Tab α} (ht : Tab.wfFrom d lo t = true)
    (hu : Tab.wfFrom d lo u = true) (h : ∀ k, Tab.get d t k = Tab.get d u k) : t = u := by
  induction t generalizing lo u with
  | nil =>
    cases u with
    | nil => rfl
    | cons e u =>
      obtain ⟨k, v⟩ := e
      obtain ⟨-, hv, -⟩ := (Tab.wfFrom_cons d lo k v u).mp hu
      exact absurd (by simpa using (h k).symm) hv
  | cons e t ih =>
    obtain ⟨k, v⟩ := e
    obtain ⟨-, hv, ht'⟩ := (Tab.wfFrom_cons d lo k v t).mp ht
    cases u with
    | nil => exact absurd (by simpa using h k) hv
    | cons e' u =>
      obtain ⟨k', v'⟩ := e'
      obtain ⟨-, hv', hu'⟩ := (Tab.wfFrom_cons d lo k' v' u).mp hu
      obtain hlt | rfl | hgt := Nat.lt_trichotomy k k'
      · exact absurd (by simpa [Tab.get_cons_below d hu hlt] using h k) hv
      · have hvv : v = v' := by simpa using h k
        have htail : t = u := ih ht' hu' fun j => by
          by_cases hj : j ≤ k
          · rw [Tab.get_of_below d k j t ht' hj, Tab.get_of_below d k j u hu' hj]
          · simpa [Tab.get_cons_ne d _ _ (show j ≠ k by omega)] using h j
        rw [hvv, htail]
      · exact absurd (by simpa [Tab.get_cons_below d ht hgt] using (h k').symm) hv'

/-! ### A written range -/

theorem readN_splice [DecidableEq α] (d : α) (t : Tab α) (a : Nat) (vs : List α) :
    readN d (splice d t a vs) a vs.length = vs := by
  apply List.ext_getElem (by simp)
  intro i _ hi
  simp [readN, get_splice, hi]

theorem get_splice_getD [DecidableEq α] (d : α) (t : Tab α) (a : Nat) (vs : List α) (k : Nat) :
    Tab.get d (splice d t a vs) k = if a ≤ k ∧ k < a + vs.length then vs.getD (k - a) d else Tab.get d t k := by
  rw [get_splice]
  split
  · next h => rw [List.getD_eq_getElem _ _ (by omega)]
  · rfl

namespace Machine

/-! ### Bytes at a final address (R2, R167, R318) -/

theorem writeFinal_device (s : State) (a : Nat) (bs : List Byte) :
    s.writeFinal { host := false, a := a } bs = { s with m := { s.m with dpa := splice 0 s.m.dpa a bs } } := rfl

theorem writeFinal_host {s : State} {a : Nat} {bs : List Byte} (h : s.hostOk a bs.length = true) :
    s.writeFinal { host := true, a := a } bs = { s with m := { s.m with host := splice 0 s.m.host a bs } } := by
  simp [State.writeFinal, h]

/-- A host write outside every window is dropped (R318). -/
theorem writeFinal_dropped {s : State} {a : Nat} {bs : List Byte} (h : s.hostOk a bs.length = false) :
    (s.writeFinal { host := true, a := a } bs).m = s.m := by
  simp [State.writeFinal, h]

@[simp] theorem hostOk_writeFinal (s : State) (f : FAddr) (bs : List Byte) (a n : Nat) :
    (s.writeFinal f bs).hostOk a n = s.hostOk a n := by
  unfold State.writeFinal
  split
  · split <;> rfl
  · rfl

theorem readFinal_device (s : State) (a n : Nat) : s.readFinal { host := false, a := a } n = readN 0 s.m.dpa a n := rfl

theorem readFinal_host {s : State} {a n : Nat} (h : s.hostOk a n = true) :
    s.readFinal { host := true, a := a } n = readN 0 s.m.host a n := by
  simp [State.readFinal, h]

theorem readFinal_writeFinal (s : State) (f : FAddr) (bs : List Byte)
    (h : f.host = true → s.hostOk f.a bs.length = true) : (s.writeFinal f bs).readFinal f bs.length = bs := by
  obtain ⟨host, a⟩ := f
  cases host with
  | false => rw [writeFinal_device, readFinal_device, readN_splice]
  | true => rw [readFinal_host (by simpa using h rfl), writeFinal_host (h rfl), readN_splice]

/-- The memory that a final address lies in. -/
def State.memOf (s : State) (host : Bool) : Memory := if host then s.m.host else s.m.dpa

theorem get_writeFinal (s : State) (f : FAddr) (bs : List Byte) (h : f.host = true → s.hostOk f.a bs.length = true) (k : Nat) :
    Tab.get 0 ((s.writeFinal f bs).memOf f.host) k =
      if f.a ≤ k ∧ k < f.a + bs.length then bs.getD (k - f.a) 0 else Tab.get 0 (s.memOf f.host) k := by
  obtain ⟨host, a⟩ := f
  cases host with
  | false => exact get_splice_getD ..
  | true =>
    rw [writeFinal_host (h rfl)]
    exact get_splice_getD ..

theorem writeFinal_other (s : State) (f : FAddr) (bs : List Byte) :
    (s.writeFinal f bs).memOf (!f.host) = s.memOf (!f.host) := by
  obtain ⟨host, a⟩ := f
  cases host with
  | false => rfl
  | true =>
    unfold State.writeFinal
    split
    · split <;> rfl
    · contradiction

/-! ### Little-endian bytes (R2) -/

theorem leBytes_length (n v : Nat) : (leBytes n v).length = n := by
  induction n generalizing v with
  | zero => rfl
  | succ n ih => simp [leBytes, ih]

theorem leNat_leBytes (n v : Nat) : leNat (leBytes n v) = v % 256 ^ n := by
  induction n generalizing v with
  | zero => simp [leBytes, leNat, Nat.mod_one]
  | succ n ih =>
    rw [leBytes, leNat, ih, Nat.pow_succ', Nat.mod_mul]
    simp

theorem leNat_lt (bs : List Byte) : leNat bs < 256 ^ bs.length := by
  induction bs with
  | nil => simp [leNat]
  | cons b bs ih =>
    have hb : b.toNat < 256 := b.isLt
    rw [leNat, List.length_cons, Nat.pow_succ]
    omega

theorem leBytes_leNat (bs : List Byte) : leBytes bs.length (leNat bs) = bs := by
  induction bs with
  | nil => rfl
  | cons b bs ih =>
    have hb : b.toNat < 256 := b.isLt
    have hmod : (b.toNat + 256 * leNat bs) % 256 = b.toNat := by omega
    have hdiv : (b.toNat + 256 * leNat bs) / 256 = leNat bs := by omega
    rw [List.length_cons, leNat, leBytes, hmod, hdiv, ih, BitVec.ofNat_toNat, BitVec.setWidth_eq]

end Machine

end Sys2Proof

namespace Sys2Proof.Proofs

open Sys2Proof.Machine

/-- Settles O7: the laws of `splice` give the reads, those of canonical tables the rest. -/
theorem memoryReadsBack : Obligations.MemoryReadsBack := by
  unfold Obligations.MemoryReadsBack
  refine ⟨fun s f bs h => ⟨readFinal_writeFinal s f bs h, get_writeFinal s f bs h, fun hf => ?_, fun hf => ?_,
    writeFinal_memWf f bs⟩, fun s a bs h => writeFinal_dropped h, fun a b ha hb h => Tab.eq_of_get_eq 0 ha hb h,
    fun n v => ⟨leNat_leBytes n v, leBytes_length n v⟩, fun bs => ⟨leNat_lt bs, leBytes_leNat bs⟩⟩
  · simpa [State.memOf, hf] using writeFinal_other s f bs
  · simpa [State.memOf, hf] using writeFinal_other s f bs

end Sys2Proof.Proofs
end

section
/-! Every instruction answers a next state (R8, R83): a word because the four answers of its body all lead to one, a
step of the device or the host because each of its branches acts or leaves the device as it is (log 4). -/

namespace Sys2Proof.Machine

/-- The outcome is a next state. -/
def Answers (x : Host.Outcome State Fault Refusal) : Prop := ∃ t, x = .next t

theorem answers_ok (s : State) : Answers (ok s) := ⟨s, rfl⟩

theorem answers_idle (s : State) : Answers (idle s) := ⟨s, rfl⟩

theorem answers_ite {p : Prop} [Decidable p] {x y : Host.Outcome State Fault Refusal} (hx : Answers x) (hy : Answers y) :
    Answers (if p then x else y) := by
  split
  · exact hx
  · exact hy

/-! ### The shared forms of the words -/

theorem answers_runLocal (u : WordUse) (body : State → CoreTask → Res CoreTask) (s : State) : Answers (runLocal u body s) :=
  (runLocal_onlyCur u body s).imp fun _ h => h.1

theorem answers_runGlobal (u : WordUse) (body : State → CoreTask → Res State) (s : State) : Answers (runGlobal u body s) :=
  runGlobal_next u body s

theorem answers_alu (k d f s) : Answers (alu k d f s) := answers_runLocal ..
theorem answers_aluRmw (k d f s) : Answers (aluRmw k d f s) := answers_runLocal ..
theorem answers_aluTag (k t d f s) : Answers (aluTag k t d f s) := answers_runLocal ..
theorem answers_branchIf (cc k a b off s) : Answers (branchIf cc k a b off s) := answers_runLocal ..
theorem answers_loopWord (k n last s) : Answers (loopWord k n last s) := answers_runLocal ..
theorem answers_semWait (k sem field amt s) : Answers (semWait k sem field amt s) := answers_runLocal ..
theorem answers_runVector (w p b sc keep s) : Answers (runVector w p b sc keep s) := answers_runLocal ..
theorem answers_run2 (w p b st s) : Answers (run2 w p b st s) := answers_runVector ..
theorem answers_runScalar (w p f g sc s) : Answers (runScalar w p f g sc s) := answers_runLocal ..

theorem answers_prefWord (k a b s) : Answers (prefWord k a b s) := answers_runGlobal ..
theorem answers_mxPush (i cls bad s) : Answers (mxPush i cls bad s) := answers_runGlobal ..
theorem answers_cpPush (capture s) : Answers (cpPush capture s) := answers_runGlobal ..
theorem answers_semSignal (k sem field amt s) : Answers (semSignal k sem field amt s) := answers_runGlobal ..
theorem answers_atomWord (k w tag d a s) : Answers (atomWord k w tag d a s) := answers_runGlobal ..
theorem answers_acctWord (k direct f acc a g r c s) : Answers (acctWord k direct f acc a g r c s) := answers_runGlobal ..
theorem answers_flushWord (k slot send s) : Answers (flushWord k slot send s) := answers_runGlobal ..
theorem answers_submitWord (k d a f s) : Answers (submitWord k d a f s) := answers_runGlobal ..
theorem answers_streamWord (k d go s) : Answers (streamWord k d go s) := answers_runGlobal ..
theorem answers_frameRelease (k a old new s) : Answers (frameRelease k a old new s) := answers_streamWord ..
theorem answers_kvMark (k a pin s) : Answers (kvMark k a pin s) := answers_streamWord ..
theorem answers_linkWord (k kind gs gw gt s) : Answers (linkWord k kind gs gw gt s) := answers_runGlobal ..
theorem answers_csrWord (k n a f s) : Answers (csrWord k n a f s) := answers_runGlobal ..

/-! ### The shared forms of the steps -/

/-- An act of the host answers, whether it reaches its function or not (R19). -/
theorem answers_fromHost (s : State) (f : Nat) {x : Host.Outcome State Fault Refusal} (h : Answers x) :
    Answers (fromHost s f x) := answers_ite h (answers_idle s)

theorem answers_senseIf (f island reading s) : Answers (senseIf f island reading s) :=
  answers_ite (answers_ok _) (answers_idle s)

theorem answers_respond (idx start go s) : Answers (respond idx start go s) := by
  unfold respond
  split
  · exact answers_idle s
  · exact answers_fromHost s 0 (answers_ite (answers_ok _) (answers_ok _))

/-! ### Every instruction -/

theorem exec_answers (i : Instr) (s : State) : Answers (exec i s) := by
  unfold exec
  cases i with
  | addReg | addImm | sub | mulReg | mulImm | mulh | mulhU | andReg | andImm | orReg | orImm | xorReg | xorImm | shlReg
  | shlImm | shrReg | shrImm | sarReg | sarImm | sltReg | sltImm | sltuReg | sltuImm | seqReg | seqImm | min | minU | max
  | maxU | mov | li | sel | bfx | bfxS | clz | ctz | popc | madd => exact answers_alu ..
  | lih | bfi => exact answers_aluRmw ..
  | divu | remu => exact answers_aluTag ..
  | bcEq | bcNe | bcLt | bcGe | bcLtu | bcGeu => exact answers_branchIf ..
  | loopReg | loopImm => exact answers_loopWord ..
  | semwaitImm | semwaitReg => exact answers_semWait ..
  | vaddF | vaddI | vsubF | vsubI | vmulF | vmulI | vminF | vminI | vmaxF | vmaxI | vcmpF | vcmpI | vminnum | vmaxnum | vand
  | vor | vxor | vshl | vshr | vsar | vscale => exact answers_run2 ..
  | vabsF | vabsI | vnegF | vnegI | vclampF | vclampI | vfma | vfms | vfnma | vsel | vmov | vbcast | vrnd | vcvt | vqnt
  | vdqnt | vexp2 | vlog2 | vrcp | vrsq | vtanh | vrmax | vrmin | vrsum | vcsum | vcmax | vtrn =>
    exact answers_runVector ..
  | vaddFs | vsubFs | vmulFs | vminFs | vmaxFs | vfmaFs | vaddIs | vmulIs | vmaxIs | vminIs => exact answers_runScalar ..
  | b | call | ret | jtbl | lpad | nop | rdv | tkwait | trap | ldl | stl | agset | agget | sload | sstore | sadv | vfill
  | vlut | cbld | tshape | tshget | semget | barexp | barwait | bartest | csrr | time => exact answers_runLocal ..
  | prefH | prefL => exact answers_prefWord ..
  | mxmul | mxmuls | mxzero | mxwr | mxrd | mxepi => exact answers_mxPush ..
  | cpg2l | cpl2g | cpl2l | cpbc | cpfillL | cpfillG | cpmeta => exact answers_cpPush ..
  | semsigImm | semsigReg => exact answers_semSignal ..
  | atom | atcas => exact answers_atomWord ..
  | acct | acctD => exact answers_acctWord ..
  | flushresAll | flushresOne => exact answers_flushWord ..
  | tsubmit | tsubmitF => exact answers_submitWord ..
  | dlset | dlchk | stepend | frput | frget | kvapp => exact answers_streamWord ..
  | frpub | frrel => exact answers_frameRelease ..
  | kvpin | kvunpin => exact answers_kvMark ..
  | lksend | lkred => exact answers_linkWord ..
  | csrw | csrs | csrc => exact answers_csrWord ..
  | fork | exit | tksig | yield | grpend | ldg | stg | gbar | waita | fenceAcq | fenceRel | fenceAr | futres | futwait
  | eqpush | pwracqImm | pwracqReg | pwrrel => exact answers_runGlobal ..
  -- steps without a condition
  | returnToSender | currentClamp | modulePowerClamp | getVersion | getCapabilities | negotiateAlgorithms | getDigests
  | getCertificate | challenge | getMeasurements | signalLineRaise | scrubPass | deviceReset => exact answers_ok _
  -- acts of the host on a function
  | latePageResponse | sqdbWrite | sqdbReset | cqdbWrite | queueDisable | eordxWrite | ctxWrite | ctxpWrite | tqWrite
  | shareWrite | partcfgWrite | vpsmapWrite | pmaxWrite | pmemWrite | rscarveWrite | featacc0Write | featacc1Write
  | lateprqClear | deverrClear | priReenable | inv1Go | inv2Go | frelGo => exact answers_fromHost _ _ (answers_ok _)
  | pageResponseSuccess | pageResponseInvalid | pageResponseFailure => exact answers_respond ..
  -- steps that act where one condition holds
  | thermal95Crossing | thermalRearm | thermal105Crossing | thermalHoldRelease | sensor115Stop => exact answers_senseIf ..
  | acctPieceArrival | acctPieceApply | atsInvalidation | registerWrite | ownershipTransfer | recoveryCommand | commandFetch
  | governorTick | frameReleaseComplete | keyloadComplete | vfFreeze | endMarker | gddrDerateChange | fabricError | bfxt =>
    exact answers_ite ⟨_, rfl⟩ ⟨_, rfl⟩
  | queueEnable | keyloadGo => exact answers_ite (answers_idle s) (answers_fromHost _ _ (answers_ok _))
  -- steps that find what they act on: each branch acts or leaves the device as it is
  | mxmulExec | mxmulsExec | mxzeroExec | mxwrExec | mxrdExec | mxepiExec | copyStart | copyPiece | cpmetaEntry =>
    simp only [execMxmulExec, execMxmulsExec, execMxzeroExec, execMxwrExec, execMxrdExec, execMxepiExec,
      execCopyStart, execCopyPiece, execCpmetaEntry]
    repeat' split
    all_goals exact ⟨_, rfl⟩
  | tagResultLands | atomicAtSlice | storeApply | residualAgeDelivery | waitaTimeout =>
    simp only [execTagResultLands, execAtomicAtSlice, execStoreApply, execResidualAgeDelivery, execWaitaTimeout]
    repeat' split
    all_goals exact ⟨_, rfl⟩
  | queuePushAdmit | gangPlacement | headWaitExpiry | spinWindowExpiry | parkConditionMet | preemption | preload |
  budgetOver | faultStop | faultRecordWrite | handlerResume | handlerRerun | handlerKill =>
    simp only [execQueuePushAdmit, execGangPlacement, execHeadWaitExpiry, execSpinWindowExpiry,
      execParkConditionMet, execPreemption, execPreload, execBudgetOver, execFaultStop, execFaultRecordWrite,
      execHandlerResume, execHandlerRerun, execHandlerKill]
    repeat' split
    all_goals exact ⟨_, rfl⟩
  | energyOut | frankingQuotaAddition | opChangeComplete | eccCorrectable | eccUncorrectable | watchdogExpiry =>
    simp only [execEnergyOut, execFrankingQuotaAddition, execOpChangeComplete, execEccCorrectable,
      execEccUncorrectable, execWatchdogExpiry]
    repeat' split
    all_goals exact ⟨_, rfl⟩
  | linkTickDeparture | linkDelivery | remoteSubmitPacket | remoteAnswerPacket | letterboxTake | frameCoded |
  vfImportAck | pgtUpdateConfirm | portLinkTraining | inboundPcieWrite =>
    simp only [execLinkTickDeparture, execLinkDelivery, execRemoteSubmitPacket, execRemoteAnswerPacket,
      execLetterboxTake, execFrameCoded, execVfImportAck, execPgtUpdateConfirm, execPortLinkTraining,
      execInboundPcieWrite]
    repeat' split
    all_goals exact ⟨_, rfl⟩
  | multiSubmitRetry | multiSubmitTimeout | completionWrite | invalidationComplete | rfetch | sigw | dspt =>
    simp only [execMultiSubmitRetry, execMultiSubmitTimeout, execCompletionWrite, execInvalidationComplete,
      execRfetch, execSigw, execDspt]
    repeat' split
    all_goals exact ⟨_, rfl⟩

end Sys2Proof.Machine

namespace Sys2Proof.Proofs

open Sys2Proof.Machine

/-- Settles O9: constructor by constructor, each word through its shared form and each step branch by branch. -/
theorem everyInstructionAnswers : Obligations.EveryInstructionAnswers := exec_answers

end Sys2Proof.Proofs
end

section
/-! Power words and control registers (R118, R119, R265, R266, R338, R374): what a word's body answers in each case, and
how the word then leaves the device. -/

namespace Sys2Proof.Machine

/-! ### How a word leaves the device, answer by answer -/

theorem runLocal_done {u : WordUse} {body : State → CoreTask → Res CoreTask} {s : State} {c c' : CoreTask}
    {wr : Option (GReg × Word)} (h : s.Enters u c) (hb : body s c = .done c' wr) :
    runLocal u body s = .next (s.passed u c' wr) := by
  rw [runLocal_go h, hb]

section
variable {u : WordUse} {body : State → CoreTask → Res State} {s s' : State} {c : CoreTask}

theorem runGlobal_done {wr : Option (GReg × Word)} (h : s.Enters u c) (hb : body (s.withCur c) c = .done s' wr) :
    runGlobal u body s = .next (s'.goesOn s.cur u wr) := by
  rw [runGlobal_go h, hb]

/-- A word whose body leaves a core-task on a device at which the same sequencer issues completes there. -/
theorem runGlobal_doneCt {c' : CoreTask} (h : s.Enters u c) (hb : body (s.withCur c) c = doneCt s' c')
    (hc : s'.cur = s.cur) : runGlobal u body s = .next (s'.completes s.cur u c') := by
  rw [runGlobal_done h hb, hc]
  rfl

theorem runGlobal_wait {k : WaitKind} (h : s.Enters u c) (hb : body (s.withCur c) c = .wait s' k) :
    runGlobal u body s = .next (s.waitsIn s' k) := by
  rw [runGlobal_go h, hb]
  rfl

theorem runGlobal_trap {t : Trap} (h : s.Enters u c) (hb : body (s.withCur c) c = .trap t) :
    runGlobal u body s = .next (s.trapped c t) := by
  rw [runGlobal_go h, hb]

end

/-- A field that the sequencer may not name is found before any wait (R83 step 4). -/
theorem enter_illegal {u : WordUse} {s : State} (hi : (s.canIssue s.cur).isSome = true)
    (hp : u.perm.contains s.cur.q = true) (hl : u.legal = false) :
    enter u s = .stop (s.raise s.cur (trapOf .illegalField)) := by
  obtain ⟨⟨t, c⟩, hc⟩ := Option.isSome_iff_exists.mp hi
  rw [enter_eq, hc]
  simp [List.contains_iff_mem.mp hp, hl]

/-! ### A word that waits (R83) -/

@[simp] theorem Seq.await_pc (q : Seq) (k : WaitKind) (now ord : Nat) : (q.await k now ord).pc = q.pc := by
  unfold Seq.await
  split
  · split <;> rfl
  · rfl

@[simp] theorem Seq.await_loops (q : Seq) (k : WaitKind) (now ord : Nat) : (q.await k now ord).loops = q.loops := by
  unfold Seq.await
  split
  · split <;> rfl
  · rfl

theorem Seq.await_kind (q : Seq) (k : WaitKind) (now ord : Nat) : (q.await k now ord).wait.map (·.kind) = some k := by
  unfold Seq.await
  split
  · split <;> rfl
  · rfl

/-- The core-task of a word that waits without having changed the device. -/
theorem State.ct_waitsIn {u : WordUse} {s : State} {c : CoreTask} (h : s.Enters u c) (k : WaitKind) :
    (s.waitsIn (s.withCur c) k).ct? s.cur.slot s.cur.rank =
      some (c.updSeq s.cur.q (fun q => q.await k s.dtime s.fresh)) := by
  show ((s.withCur c).updCt s.cur.slot s.cur.rank _).ct? s.cur.slot s.cur.rank = _
  rw [State.ct_updCt, if_pos ⟨rfl, rfl⟩, State.ct_withCur h]
  rfl

theorem State.stays_waitsIn {u : WordUse} {s : State} {c : CoreTask} (h : s.Enters u c) (k : WaitKind) :
    (s.waitsIn (s.withCur c) k).Stays s.cur c :=
  ⟨_, State.ct_waitsIn h k, by simp, by simp⟩

/-! ### Power levels (R265, R266) -/

/-- The island has room for a core at a level: no earlier request waits and the four cores stay within 24 units. -/
def State.PwrRoom (s : State) (c : CoreTask) (level : Nat) : Prop :=
  s.pwrFirst c.core (c.pwrSince s.dtime) = true ∧ s.pwrSum c.core level ≤ 24

/-- Committing a word's tags moves no time, so its request still counts from when it began to wait. -/
theorem State.pwrRoom_withCur (s : State) (c : CoreTask) (level : Nat) : (s.withCur c).PwrRoom c level ↔
    (s.withCur c).pwrFirst c.core (c.pwrSince s.dtime) = true ∧ (s.withCur c).pwrSum c.core level ≤ 24 := by
  have ht : (s.withCur c).dtime = s.dtime := State.putCt_dtime ..
  rw [State.PwrRoom, ht]

theorem pwrSet_same (s : State) (c : CoreTask) : pwrSet c.pwrlvl s c = .done s none := by
  simp [pwrSet]

theorem pwrSet_raised {s : State} {c : CoreTask} {level : Nat} (h : c.pwrlvl < level) (hr : s.PwrRoom c level) :
    pwrSet level s c = doneCt s { c with pwrlvl := level } := by
  rw [pwrSet, if_neg (by omega), if_neg (by omega)]
  exact if_pos hr

theorem pwrSet_waits {s : State} {c : CoreTask} {level : Nat} (h : c.pwrlvl < level) (hr : ¬s.PwrRoom c level) :
    pwrSet level s c = .wait s (.pwr level) := by
  rw [pwrSet, if_neg (by omega), if_neg (by omega)]
  exact if_neg hr

theorem pwrSet_lowered {s : State} {c : CoreTask} {level : Nat} (h : level < c.pwrlvl) (he : c.engineAbove level = false) :
    pwrSet level s c = doneCt s { c with pwrlvl := level } := by
  simp [pwrSet, h, he]

theorem pwrSet_busy {s : State} {c : CoreTask} {level : Nat} (h : level < c.pwrlvl) (he : c.engineAbove level = true) :
    pwrSet level s c = .wait s .plain := by
  simp [pwrSet, h, he]

/-- `i` asks for level `n` on a core-task: PWRACQ in its two forms, and PWRREL for level 1. -/
def AsksLevel (i : Instr) (k : BitVec 8) (a : GReg) (l : Fin 8) (c : CoreTask) (n : Nat) : Prop :=
  (i = .pwracqImm k l ∧ n = l.val) ∨ (i = .pwracqReg k a ∧ n = (c.seqC.rd a).toNat ∧ n ≤ 7) ∨ (i = .pwrrel k ∧ n = 1)

/-- A word that asks for a level sets it. -/
theorem AsksLevel.body {i : Instr} {k : BitVec 8} {a : GReg} {l : Fin 8} {c : CoreTask} {n : Nat}
    (h : AsksLevel i k a l c n) (s : State) :
    ∃ body, exec i s = runGlobal (cOnly k) body s ∧ body (s.withCur c) c = pwrSet n (s.withCur c) c := by
  obtain ⟨rfl, rfl⟩ | ⟨rfl, rfl, h7⟩ | ⟨rfl, rfl⟩ := h
  · exact ⟨pwrSet l.val, rfl, rfl⟩
  · exact ⟨_, exec_pwracqReg .., if_neg (by omega)⟩
  · exact ⟨pwrSet 1, rfl, rfl⟩

/-- PWRACQ of a register above 7 faults. -/
theorem pwracqReg_illegal {k : BitVec 8} {a : GReg} {s : State} {c : CoreTask} (he : s.Enters (cOnly k) c)
    (h : 7 < (c.seqC.rd a).toNat) : exec (.pwracqReg k a) s = .next (s.trapped c (trapOf .illegalField)) := by
  rw [exec_pwracqReg, execPwracqReg]
  exact runGlobal_trap he (if_pos h)

section
variable {i : Instr} {k : BitVec 8} {a : GReg} {l : Fin 8} {s : State} {c : CoreTask} {n : Nat}

theorem AsksLevel.exec_done {s' : State} (h : AsksLevel i k a l c n) (he : s.Enters (cOnly k) c)
    (hb : pwrSet n (s.withCur c) c = .done s' none) : exec i s = .next (s'.goesOn s.cur (cOnly k) none) := by
  obtain ⟨body, hx, hbody⟩ := h.body s
  rw [hx, runGlobal_done he (hbody.trans hb)]

theorem AsksLevel.exec_set (h : AsksLevel i k a l c n) (he : s.Enters (cOnly k) c)
    (hb : pwrSet n (s.withCur c) c = doneCt (s.withCur c) { c with pwrlvl := n }) :
    exec i s = .next ((s.withCur c).completes s.cur (cOnly k) { c with pwrlvl := n }) := by
  obtain ⟨body, hx, hbody⟩ := h.body s
  rw [hx, runGlobal_doneCt he (hbody.trans hb) (State.withCur_cur s c)]

theorem AsksLevel.exec_wait {w : WaitKind} (h : AsksLevel i k a l c n) (he : s.Enters (cOnly k) c)
    (hb : pwrSet n (s.withCur c) c = .wait (s.withCur c) w) : exec i s = .next (s.waitsIn (s.withCur c) w) := by
  obtain ⟨body, hx, hbody⟩ := h.body s
  rw [hx, runGlobal_wait he (hbody.trans hb)]

end

/-- A word of the C-sequencer that waits leaves its core-task's level and program counter, and waits as `w` says. -/
theorem State.c_waitsIn {k : BitVec 8} {s : State} {c : CoreTask} (he : s.Enters (cOnly k) c) (w : WaitKind) :
    ∃ c', (s.waitsIn (s.withCur c) w).ct? s.cur.slot s.cur.rank = some c' ∧ c'.pwrlvl = c.pwrlvl ∧
      c'.seqC.pc = c.seqC.pc ∧ c'.waitOf .c = some w := by
  have hq : s.cur.q = .c := enter_c he rfl
  refine ⟨_, State.ct_waitsIn he w, ?_⟩
  rw [hq]
  exact ⟨rfl, Seq.await_pc .., Seq.await_kind ..⟩

/-! ### The numbers of the control registers (R338) -/

theorem csrKnown_iff (n : Nat) : csrKnown n = true ↔ n ≤ 7 ∨ (0x10 ≤ n ∧ n ≤ 0x13) ∨ (0x20 ≤ n ∧ n ≤ 0x28) ∨ n = 0x30 ∨
    (0x40 ≤ n ∧ n ≤ 0x43) ∨ n = 0x50 ∨ n = 0x60 ∨ n = 0x61 ∨ n = 0x70 ∨ n = 0x71 ∨ (0x80 ≤ n ∧ n ≤ 0x8B) ∨
    (0x90 ≤ n ∧ n ≤ 0x9B) ∨ (0x100 ≤ n ∧ n ≤ 0x106) ∨ (0x200 ≤ n ∧ n ≤ 0x204) := by
  simp only [csrKnown, List.contains_cons, List.contains_nil, List.any_cons, List.any_nil, Bool.or_eq_true, beq_iff_eq,
    Bool.and_eq_true, decide_eq_true_eq, Bool.or_false]
  omega

theorem csrPrivileged_iff (n : Nat) :
    csrPrivileged n = true ↔ (0x80 ≤ n ∧ n ≤ 0x8B) ∨ (0x90 ≤ n ∧ n ≤ 0x9B) ∨ n = 0x200 ∨ n = 0x202 := by
  simp only [csrPrivileged, Bool.or_eq_true, Bool.and_eq_true, decide_eq_true_eq]
  omega

/-! ### Reading a register (R118, R119) -/

theorem State.csr_jt (s : State) (t : Task) (rank : Nat) (c : CoreTask) {n : Nat} (h : n < 4) :
    s.csr (0x40 + n) t rank c = some (Tab.get 0 c.jt n) := by
  interval_cases n <;> rfl

theorem State.csr_qmin (s : State) (t : Task) (rank : Nat) (c : CoreTask) {n : Nat} (h : n < 12) :
    s.csr (0x80 + n) t rank c = some (BitVec.ofNat 64 (Tab.get 16 s.r.qmin (c.core * 16 + n))) := by
  interval_cases n <;> rfl

theorem State.csr_qcap (s : State) (t : Task) (rank : Nat) (c : CoreTask) {n : Nat} (h : n < 12) :
    s.csr (0x90 + n) t rank c = some (BitVec.ofNat 64 (Tab.get 128 s.r.qcap (c.core * 16 + n))) := by
  interval_cases n <;> rfl

/-- CSRR writes the value of a register that is laid down. -/
theorem exec_csrr_known {k : BitVec 8} {d : GReg} {n : BitVec 12} {s : State} {c : CoreTask} {t : Task}
    (hn : csrKnown n.toNat = true) (he : s.Enters (useD k d) c) (ht : s.task? s.cur.slot = some t) :
    ∃ v, s.csr n.toNat t s.cur.rank c = some v ∧
      exec (.csrr k d n) s = .next (s.passed (useD k d) c (some (d, v))) := by
  obtain ⟨v, hv⟩ := Option.isSome_iff_exists.mp (State.csr_known s n.toNat t s.cur.rank c hn)
  refine ⟨v, hv, ?_⟩
  rw [exec_csrr, execCsrr, hn]
  exact runLocal_done (u := useD k d) he (by simp only [ht, hv])

/-! ### Writing a register (R6, R338) -/

@[simp] theorem State.thermalMigrate_cur (s : State) (x : Nat × Nat) : (s.thermalMigrate x).cur = s.cur :=
  State.updCt_cur ..

theorem State.foldl_thermalMigrate_cur (l : List (Nat × Nat)) (s : State) :
    (l.foldl State.thermalMigrate s).cur = s.cur := by
  induction l generalizing s with
  | nil => rfl
  | cons x l ih => rw [List.foldl_cons, ih, State.thermalMigrate_cur]

@[simp] theorem State.thermal_cur (s : State) (n : Nat) (i : Island) : (s.thermal n i).cur = s.cur := by
  unfold State.thermal
  dsimp only
  split
  · rw [State.foldl_thermalMigrate_cur, State.updIsland_cur]
  · exact State.updIsland_cur ..

@[simp] theorem State.updEnc_cur (s : State) (key : Nat) (f : EncCtx → EncCtx) : (s.updEnc key f).cur = s.cur := by
  unfold State.updEnc
  split <;> rfl

/-- What a write of a register can give as its device: the agent that issues stays. -/
def CsrRes.KeepsCur (s : State) (r : CsrRes) : Prop := ∀ s' c', r = .ok s' c' → s'.cur = s.cur

theorem CsrRes.keepsCur_ok {s s' : State} (c : CoreTask) (h : s'.cur = s.cur) : (CsrRes.ok s' c).KeepsCur s :=
  fun _ _ e => by cases e; exact h

theorem CsrRes.keepsCur_trap (s : State) (t : Trap) : (CsrRes.trap t).KeepsCur s := fun _ _ e => by cases e

theorem csrPool_keepsCur (k : Pool) (c : CoreTask) (s : State) : (csrPool k c s).KeepsCur s := by
  unfold csrPool
  split
  · exact CsrRes.keepsCur_ok c rfl
  · exact CsrRes.keepsCur_trap s _

theorem csrEnc_keepsCur (n : Nat) (v : Word) (s : State) (t : Task) (c : CoreTask) : (csrEnc n v s t c).KeepsCur s := by
  unfold csrEnc
  split
  · exact CsrRes.keepsCur_trap s _
  · split
    · exact CsrRes.keepsCur_ok c (State.updEnc_cur ..)
    · exact CsrRes.keepsCur_trap s _

theorem csrWrite_keepsCur (s : State) (n : Nat) (v : Word) (t : Task) (c : CoreTask) :
    (s.csrWrite n v t c).KeepsCur s := by
  unfold State.csrWrite
  split
  · exact CsrRes.keepsCur_trap s _
  split
  · exact CsrRes.keepsCur_ok _ rfl
  split
  · exact csrPool_keepsCur _ c s
  split
  · exact csrPool_keepsCur _ c s
  split
  · exact csrEnc_keepsCur n v s t c
  split
  · exact CsrRes.keepsCur_ok _ rfl
  split
  · split
    · dsimp only
      split <;> exact CsrRes.keepsCur_ok _ (by simp)
    · exact CsrRes.keepsCur_trap s _
  · exact CsrRes.keepsCur_ok _ rfl

theorem csrWrite_jt (s : State) {n : Nat} (v : Word) (t : Task) (c : CoreTask) (h1 : 0x40 ≤ n) (h2 : n ≤ 0x43) :
    s.csrWrite n v t c = .ok s { c with jt := Tab.set 0 c.jt (n - 0x40) v } := by
  have hp : ¬csrPrivileged n = true := by
    rw [csrPrivileged_iff]
    omega
  rw [State.csrWrite, if_neg (fun h => hp h.1), if_pos ⟨h1, h2⟩]

/-- A register that is read only ignores a write (R6). -/
theorem csrWrite_readOnly (s : State) {n : Nat} (v : Word) (t : Task) (c : CoreTask)
    (h : n < 0x40 ∨ n = 0x50 ∨ (0x60 ≤ n ∧ n ≤ 0x71) ∨ n = 0x201 ∨ n = 0x203 ∨ n = 0x204) :
    s.csrWrite n v t c = .ok s c := by
  have hp : ¬csrPrivileged n = true := by
    rw [csrPrivileged_iff]
    omega
  rw [State.csrWrite, if_neg (fun h => hp h.1), if_neg (by omega), if_neg (by omega), if_neg (by omega), if_neg (by omega),
    if_neg (by omega), if_neg (by omega)]

theorem csrWrite_perm (s : State) {n : Nat} (v : Word) {t : Task} (c : CoreTask) (h : csrPrivileged n = true)
    (ht : t.privileged = false) : s.csrWrite n v t c = .trap (trapOf .perm) := by
  rw [State.csrWrite, if_pos ⟨h, by simp [ht]⟩]

/-- `i` writes a register with `f` of its old value and of a g register. -/
def WritesCsr (i : Instr) (k : BitVec 8) (n : BitVec 12) (a : GReg) (f : Word → Word → Word) : Prop :=
  (i = .csrw k n a ∧ f = fun _ v => v) ∨ (i = .csrs k n a ∧ f = fun old v => old ||| v) ∨
    (i = .csrc k n a ∧ f = fun old v => old &&& ~~~v)

theorem WritesCsr.exec_eq {i : Instr} {k : BitVec 8} {n : BitVec 12} {a : GReg} {f : Word → Word → Word}
    (h : WritesCsr i k n a f) (s : State) : exec i s = csrWord k n a f s := by
  obtain ⟨rfl, rfl⟩ | ⟨rfl, rfl⟩ | ⟨rfl, rfl⟩ := h <;> rfl

section
variable {k : BitVec 8} {n : BitVec 12} {a : GReg} {f : Word → Word → Word} {s : State} {c : CoreTask} {t : Task} {old : Word}

theorem csrWord_trap {tr : Trap} (hn : csrKnown n.toNat = true) (he : s.Enters (cOnly k) c)
    (ht : (s.withCur c).task? s.cur.slot = some t) (ho : (s.withCur c).csr n.toNat t s.cur.rank c = some old)
    (hw : (s.withCur c).csrWrite n.toNat (f old (c.seqC.rd a)) t c = .trap tr) :
    csrWord k n a f s = .next (s.trapped c tr) := by
  rw [csrWord, hn]
  exact runGlobal_trap (u := cOnly k) he (by simp only [State.withCur_cur, ht, ho, hw])

theorem csrWord_ok {s2 : State} {c2 : CoreTask} (hn : csrKnown n.toNat = true) (he : s.Enters (cOnly k) c)
    (ht : (s.withCur c).task? s.cur.slot = some t) (ho : (s.withCur c).csr n.toNat t s.cur.rank c = some old)
    (hw : (s.withCur c).csrWrite n.toNat (f old (c.seqC.rd a)) t c = .ok s2 c2) :
    csrWord k n a f s = .next (s2.completes s.cur (cOnly k) c2) := by
  have hc : s2.cur = s.cur := (csrWrite_keepsCur _ _ _ _ _ s2 c2 hw).trans (State.withCur_cur s c)
  rw [csrWord, hn]
  exact runGlobal_doneCt (u := cOnly k) he (by simp only [State.withCur_cur, ht, ho, hw]) hc

end

/-! ### A register that is not laid down (R83, R338) -/

theorem csrr_fieldFault {k : BitVec 8} {d : GReg} {n : BitVec 12} {s : State} (hi : (s.canIssue s.cur).isSome = true)
    (hn : csrKnown n.toNat = false) : FieldFault (.csrr k d n) s := by
  have hp : allSeqs.contains s.cur.q = true := by cases s.cur.q <;> rfl
  rw [FieldFault, exec_csrr, execCsrr, runLocal, enter_illegal hi hp hn]

theorem WritesCsr.fieldFault {i : Instr} {k : BitVec 8} {n : BitVec 12} {a : GReg} {f : Word → Word → Word} {s : State}
    (h : WritesCsr i k n a f) (hi : (s.canIssue s.cur).isSome = true) (hn : csrKnown n.toNat = false)
    (hq : s.cur.q = .c) : FieldFault i s := by
  have hp : [SeqId.c].contains s.cur.q = true := by rw [hq]; rfl
  rw [FieldFault, h.exec_eq, csrWord, runGlobal, enter_illegal hi hp hn]

/-- TIME writes DTIME (R374). -/
theorem exec_time_enters {k : BitVec 8} {d : GReg} {s : State} {c : CoreTask} (he : s.Enters (useD k d) c) :
    exec (.time k d) s = .next (s.passed (useD k d) c (some (d, BitVec.ofNat 64 s.dtime))) :=
  runLocal_done (body := fun s c => .done c (some (d, BitVec.ofNat 64 s.dtime))) he rfl

end Sys2Proof.Machine

namespace Sys2Proof.Proofs

open Sys2Proof.Machine

/-- Settles O46: `pwrSet` and `csrWrite` case by case, each answer read off by `runGlobal`. -/
theorem powerLevelsAndControlRegisters : Obligations.PowerLevelsAndControlRegisters := by
  unfold Obligations.PowerLevelsAndControlRegisters
  refine ⟨fun k a l i n s c he => ⟨pwracqReg_illegal he, fun h => ?_⟩,
    fun k d a n s hi hn => ⟨csrr_fieldFault hi hn, fun hq => ⟨?_, ?_, ?_⟩⟩, csrKnown_iff,
    fun k d a n s c t hn => ⟨exec_csrr_known hn, fun he ht i f h => ?_⟩, fun k d s c => exec_time_enters, fun s t rank c => ?_⟩
  · have ask : AsksLevel i k a l c n := h
    refine ⟨fun hs => ask.exec_done he (hs ▸ pwrSet_same ..), fun hl hr => ask.exec_set he (pwrSet_raised hl ((State.pwrRoom_withCur s c n).mpr hr)),
      fun hl hr => ?_, fun hl hb => ask.exec_set he (pwrSet_lowered hl hb),
      fun hl hb => ⟨_, ask.exec_wait he (pwrSet_busy hl hb), State.stays_waitsIn he _⟩⟩
    obtain ⟨c', hc'⟩ := State.c_waitsIn he (.pwr n)
    exact ⟨_, c', ask.exec_wait he (pwrSet_waits hl fun h => hr ((State.pwrRoom_withCur s c n).mp h)), hc'⟩
  · exact WritesCsr.fieldFault (.inl ⟨rfl, rfl⟩) hi hn hq
  · exact WritesCsr.fieldFault (.inr (.inl ⟨rfl, rfl⟩)) hi hn hq
  · exact WritesCsr.fieldFault (.inr (.inr ⟨rfl, rfl⟩)) hi hn hq
  · have hx : exec i s = csrWord k n a f s := WritesCsr.exec_eq h s
    obtain ⟨old, ho⟩ := Option.isSome_iff_exists.mp (State.csr_known (s.withCur c) n.toNat t s.cur.rank c hn)
    rw [hx]
    exact ⟨old, ho, fun h1 h2 => csrWord_ok hn he ht ho (csrWrite_jt _ _ t c h1 h2),
      fun h1 => csrWord_ok hn he ht ho (csrWrite_readOnly _ _ t c h1),
      fun h1 h2 => csrWord_trap hn he ht ho (csrWrite_perm _ _ c h1 h2),
      fun tr => csrWord_trap hn he ht ho, fun s2 c2 => csrWord_ok hn he ht ho⟩
  · exact ⟨rfl, rfl, rfl, congrArg some (BitVec.ofNat_toNat 64 t.id).symm, rfl, rfl, rfl, rfl,
      fun n => State.csr_jt s t rank c, fun n h => ⟨State.csr_qmin s t rank c h, State.csr_qcap s t rank c h⟩⟩

end Sys2Proof.Proofs
end

section
/-! The manual's own words (R2, R77, R78, R102). -/

namespace Sys2Proof.Proofs

/-- Settles O1: each word is a closed fact of the decoder. -/
theorem manualWordsDecode : Obligations.ManualWordsDecode := by
  unfold Obligations.ManualWordsDecode
  and_intros <;> decide

end Sys2Proof.Proofs
end

section
/-! Placement and start of gangs (R19, R53 to R55, R72, R73, R112, R195, R241): what the Sorting Office places next, what a
start leaves of the other tasks, and the core-task that it makes. -/

namespace Sys2Proof

open Machine

/-! ### Folds, sorted lists and mapped tables -/

/-- What no step of a fold changes, the fold does not change. -/
theorem foldl_keeps {α β γ : Type} (g : α → γ) {f : α → β → α} (hf : ∀ a b, g (f a b) = g a) (l : List β) (a : α) :
    g (l.foldl f a) = g a := by
  induction l generalizing a with
  | nil => rfl
  | cons b l ih => rw [List.foldl_cons, ih, hf]

theorem find_map {α β : Type} (f : Nat × α → Nat × β) (hf : ∀ e, (f e).1 = e.1) (t : Tab α) (k : Nat) :
    find (t.map f) k = (find t k).map (fun v => (f (k, v)).2) := by
  induction t with
  | nil => rfl
  | cons e t ih =>
    obtain ⟨j, v⟩ := e
    have hj : f (j, v) = (j, (f (j, v)).2) := Prod.ext (hf _) rfl
    rw [List.map_cons, hj, find, find]
    split
    · next h => subst h; rfl
    · exact ih

theorem mem_of_find {α : Type} {t : Tab α} {k : Nat} {v : α} (h : find t k = some v) : (k, v) ∈ t := by
  induction t with
  | nil => cases h
  | cons e t ih =>
    obtain ⟨j, w⟩ := e
    rw [find] at h
    split at h
    · next hj => cases h; exact hj ▸ List.mem_cons_self
    · exact List.mem_cons_of_mem _ (ih h)

namespace Machine

theorem mem_insertBy {α : Type} (le : α → α → Bool) (x y : α) (l : List α) : y ∈ insertBy le x l ↔ y = x ∨ y ∈ l := by
  induction l with
  | nil => simp [insertBy]
  | cons z l ih =>
    rw [insertBy]
    split
    · rw [List.mem_cons, ih, List.mem_cons]; tauto
    · rw [List.mem_cons]

theorem mem_sortBy {α : Type} (le : α → α → Bool) (y : α) (l : List α) : y ∈ sortBy le l ↔ y ∈ l := by
  have h : ∀ acc : List α, y ∈ l.foldl (fun acc x => insertBy le x acc) acc ↔ y ∈ acc ∨ y ∈ l := by
    induction l with
    | nil => simp
    | cons x l ih =>
      intro acc
      rw [List.foldl_cons, ih, mem_insertBy, List.mem_cons]
      tauto
  simpa [sortBy] using h []

/-! ### What is placed next (R53, R72, R73, R282) -/

theorem State.mem_readyList {s : State} {p : Nat} {e : Nat × Task} (h : e ∈ s.readyList p) :
    e ∈ s.tasks ∧ s.placeable e.2 = true ∧ e.2.inPart p = true := by
  simpa [State.readyList, mem_sortBy] using h

theorem State.canPlace_some {s : State} {slot : Nat} {t : Task} {extra cs : List Nat}
    (h : s.canPlace slot t extra = some cs) :
    (∀ n ∈ t.parts, s.heldBack n slot t = false) ∧ s.coresFor t extra = some cs ∧
      (t.saved = true ∨ cs.length ≤ s.framesFree) := by
  unfold State.canPlace at h
  split at h
  · cases h
  · next hb =>
    split at h
    · next cs' hc =>
      split at h
      · next hf =>
        cases h
        exact ⟨by simpa using hb, hc, hf.2⟩
      · cases h
    · cases h

theorem State.nextPlaced_some {s : State} {p slot : Nat} {extra cs : List Nat} {t : Task}
    (h : s.nextPlaced p extra = some (slot, t, cs)) :
    (slot, t) ∈ s.readyList p ∧ s.canPlace slot t extra = some cs := by
  obtain ⟨e, he, hm⟩ := List.exists_of_findSome?_eq_some h
  obtain ⟨cs', hc, heq⟩ := Option.map_eq_some_iff.mp hm
  cases heq
  exact ⟨he, hc⟩

theorem State.task_prunePreloads (s : State) (slot : Nat) : s.prunePreloads.task? slot =
    (s.task? slot).map (fun u => if s.preloadNext slot u = true then u else { u with preload := none }) := by
  refine (find_map _ (fun e => ?_) s.tasks slot).trans (congrArg (Option.map · _) (funext fun u => ?_))
  · dsimp only; split <;> rfl
  · dsimp only; split <;> rfl

/-- The victims that pre-emption names run at a lower level than a task that stands in the ready lists (R71). -/
theorem State.preempts_some {s : State} {p : Nat} {vs : List (Nat × Task)} (h : s.preempts p = some vs) :
    ∃ slot t, (slot, t) ∈ s.readyList p ∧ ∀ v ∈ vs, v.2.state = .running ∧ v.2.prio < t.prio := by
  obtain ⟨⟨slot, t⟩, he, hm⟩ := List.exists_of_findSome?_eq_some h
  refine ⟨slot, t, he, fun v hv => ?_⟩
  split at hm
  · cases hm
  · obtain ⟨n, -, rfl⟩ := List.mem_map.mp (List.mem_of_find?_eq_some hm)
    have hmem : v ∈ s.victims p t := List.mem_of_mem_take hv
    simp only [State.victims, mem_sortBy, List.mem_filter, Bool.and_eq_true, decide_eq_true_eq] at hmem
    exact ⟨hmem.2.1.1, hmem.2.2⟩

/-! ### The steps of the Sorting Office -/

section
variable {p : Fin 8} {s : State}

theorem exec_gangPlacement_frozen (h : s.partFrozen p.val = true) : exec (.gangPlacement p) s = .next s := by
  simp [exec_gangPlacement, execGangPlacement, h, idle]

theorem exec_gangPlacement_untrained (h : s.ports.host = false) : exec (.gangPlacement p) s = .next s := by
  simp [exec_gangPlacement, execGangPlacement, h, idle]

theorem exec_gangPlacement_none (h : s.nextPlaced p.val [] = none) : exec (.gangPlacement p) s = .next s := by
  simp [exec_gangPlacement, execGangPlacement, h, idle]

theorem exec_gangPlacement_next {slot : Nat} {t t' : Task} {cs : List Nat} (hf : s.partFrozen p.val = false)
    (hh : s.ports.host = true) (hn : s.nextPlaced p.val [] = some (slot, t, cs))
    (ht : s.prunePreloads.task? slot = some t') :
    exec (.gangPlacement p) s = .next (s.prunePreloads.place slot t' cs) := by
  simp [exec_gangPlacement, execGangPlacement, hf, hh, hn, ht, ok]

theorem exec_preemption_frozen (h : s.partFrozen p.val = true) : exec (.preemption p) s = .next s := by
  simp [exec_preemption, execPreemption, h, idle]

theorem exec_preemption_none (h : s.preempts p.val = none) : exec (.preemption p) s = .next s := by
  simp [exec_preemption, execPreemption, h, idle]

theorem exec_preemption_some {vs : List (Nat × Task)} (hf : s.partFrozen p.val = false) (h : s.preempts p.val = some vs) :
    exec (.preemption p) s = .next (vs.foldl (fun s e => s.stopGang e.1 [] true) s) := by
  simp [exec_preemption, execPreemption, hf, h, ok]

end

/-- A waiting push is admitted exactly when its queue has room for it (R112). -/
theorem exec_queuePushAdmit_waiting {slot rank : Nat} {q : SeqId} {s : State} {c : CoreTask} {w : Wait} {n k : Nat}
    (hc : s.ct? slot rank = some c) (hw : (c.seq q).wait = some w) (hk : w.kind = .push n k false) :
    exec (.queuePushAdmit slot rank q) s =
      if c.admits (s.pool c.core) q w.ord n k = true then .next (s.putCt slot rank
        (c.setSeq q { c.seq q with wait := some { w with kind := .push n k true } }))
      else .next s := by
  obtain ⟨kind, since, ord⟩ := w
  cases hk
  simp only [exec_queuePushAdmit, execQueuePushAdmit, hc, hw]
  rfl

/-- A head holds its level exactly once it has waited 50 µs (R73). -/
theorem exec_headWaitExpiry_head {p : Fin 8} {level : Fin 64} {s : State} {slot since : Nat} {t : Task}
    (hh : s.headOf p.val level.val = some slot) (ht : s.task? slot = some t) (hs : find t.headSince p.val = some since) :
    exec (.headWaitExpiry p level) s =
      if since + 50000 ≤ s.dtime then
        .next { s with blocked := Tab.put (p.val * 64 + level.val) (slot + 1) s.blocked }
      else .next s := by
  simp only [exec_headWaitExpiry, execHeadWaitExpiry, hh, ht, Option.bind_some, hs, Option.any_some, decide_eq_true_eq]
  rfl

theorem exec_preload_next {slot sl g : Nat} {s : State} {t u : Task} {cs ms : List Nat} {i : Image}
    (ht : s.task? slot = some t) (hr : t.state = .running) (hp : s.preloadOn slot = none)
    (hn : s.nextPlaced t.part t.cores = some (sl, u, cs)) (hc : sameCores cs t.cores = true) (hs : u.saved = false)
    (hu : u.preload = none) (hi : s.readImage u.ctx u.imageVa = .ok i g ms) :
    exec (.preload slot) s = .next ((s.noteImage u.ctx u.imageVa).setTask sl { u with
      preload := some { gang := slot, cores := cs, image := i } }) := by
  simp [exec_preload, execPreload, ht, hr, hp, hn, hc, hs, hu, hi, ok]

/-! ### A read of an image changes no task and no port (R183, R268, R318) -/

/-- The tasks, the ports and the agent that issues. -/
def State.work (s : State) : Tab Task × Ports × Agent := (s.tasks, s.ports, s.cur)

theorem State.logHost_work (s : State) (f : FAddr) (n : Nat) : (s.logHost f n).work = s.work := by
  unfold State.logHost
  split <;> rfl

theorem State.logTables_work (s : State) (ctx : Nat) (reads : List Nat) : (s.logTables ctx reads).work = s.work := by
  refine foldl_keeps State.work (fun t gpa => ?_) reads s
  split
  · exact State.logHost_work ..
  · rfl

theorem State.cacheXl_work (s : State) (ctx : Nat) (va : Word) (x : Xl) : (s.cacheXl ctx va x).work = s.work := by
  unfold State.cacheXl
  split
  · rfl
  · dsimp only
    split
    · exact State.logTables_work ..
    · rfl

theorem State.dropLines_work (s : State) (f : FAddr) (n : Nat) : (s.dropLines f n).work = s.work := by
  unfold State.dropLines
  dsimp only
  split <;> rfl

theorem State.noteLines_work (s : State) (ctx : Nat) (x : Xl) (n : Nat) : (s.noteLines ctx x n).work = s.work := by
  unfold State.noteLines
  dsimp only
  split
  · rfl
  · split
    · exact State.dropLines_work ..
    · rfl

theorem State.cache_work (s : State) (ctx : Nat) (va : Word) (x : Xl) (n : Nat) : (s.cache ctx va x n).work = s.work :=
  (State.noteLines_work ..).trans (State.cacheXl_work ..)

theorem State.noteVa_work (s : State) (ctx : Nat) (need : Need) (va : Word) (n : Nat) :
    (s.noteVa ctx need va n).work = s.work := by
  unfold State.noteVa
  split
  · refine foldl_keeps State.work (fun t e => ?_) _ s
    rw [State.logHost_work, State.cache_work]
  · rfl

theorem State.noteImage_work (s : State) (ctx : Nat) (va : Word) : (s.noteImage ctx va).work = s.work := by
  unfold State.noteImage
  split
  · split
    · rw [State.noteVa_work, State.noteVa_work]
    · exact State.noteVa_work ..
  · rfl

/-! ### The core-task of a start (R55, R104, R195) -/

/-- A core-task without what the blocks and tiles of an image fill. -/
def CoreTask.unloaded (c : CoreTask) : CoreTask := { c with tiles := [], tsd := [], scratch := [], bankMask := 0, torn := [] }

/-- The core-task of a start before its image is loaded. -/
def Task.emptyCt (t : Task) (i : Image) (core : Nat) (st : Stamp) : CoreTask :=
  { CoreTask.fresh core with
    seqC := { Seq.idle with stamp := st, status := .running, pc := i.entry, g := t.startRegs },
    seqL := { Seq.idle with stamp := st }, seqX := { Seq.idle with stamp := st }, seqS := { Seq.idle with stamp := st },
    mxStamp := st, cpStamp := st, lkStamp := st, floor := st }

/-- The blocks and tiles of an image fill the scratchpad and the tile registers alone. -/
theorem Task.startCt_unloaded (t : Task) (i : Image) (core : Nat) (st : Stamp) :
    (t.startCt i core st).unloaded = t.emptyCt i core st := by
  have hb := foldl_keeps CoreTask.unloaded (f := fun c b => c.writeLocal b.1 b.2) (fun _ _ => rfl) i.blocks
    (t.emptyCt i core st)
  have ht := foldl_keeps CoreTask.unloaded (f := fun c x => (c.setTsd x.1 x.2.1).writeTile x.1 x.2.2) (fun _ _ => rfl)
    i.tiles (i.blocks.foldl (fun c b => c.writeLocal b.1 b.2) (t.emptyCt i core st))
  exact ht.trans hb

/-- Bases, lengths and the process-group table stand in g1 to g9, and nothing elsewhere (R55). -/
theorem Task.get_startRegs (t : Task) (k : Nat) : Tab.get 0 t.startRegs k =
    if 1 ≤ k ∧ k ≤ 4 then ((t.range (k - 1)).map (·.1)).getD 0
    else if 5 ≤ k ∧ k ≤ 8 then ((t.range (k - 5)).map (·.2.1)).getD 0
    else if k = 9 then vaField t.td 4 else 0 := by
  by_cases hk : k ≤ 9
  · interval_cases k <;> simp [Task.startRegs, vaField, List.range_succ, Tab.get_set]
  · have h : ∀ j ≤ 9, k ≠ j := by omega
    have h4 : ¬k ≤ 4 := by omega
    have h8 : ¬k ≤ 8 := by omega
    simp [Task.startRegs, List.range_succ, Tab.get_set, h, h4, h8]

theorem Task.range_base (t : Task) (i : Nat) : ((t.range i).map (·.1)).getD 0 =
    if i < wordField t.td 1 20 3 then vaField t.td (8 + 2 * i) else 0 := by
  unfold Task.range
  split <;> rfl

theorem Task.range_len (t : Task) (i : Nat) : ((t.range i).map (·.2.1)).getD 0 =
    if i < wordField t.td 1 20 3 then (t.td.getD (9 + 2 * i) 0) &&& BitVec.ofNat 64 (2 ^ 40 - 1) else 0 := by
  unfold Task.range
  split <;> rfl

/-! ### What a start leaves (R54, R195, R350) -/

/-- A task with its moments as a head of a list. -/
def State.headMarked (s : State) (slot : Nat) (t : Task) : Task :=
  { t with headSince := t.headMarks slot s.dtime s.heads }

theorem State.task_markHeads (s : State) (slot : Nat) :
    s.markHeads.task? slot = (s.task? slot).map (s.headMarked slot) :=
  find_map (fun e => (e.1, s.headMarked e.1 e.2)) (fun _ => rfl) s.tasks slot

theorem State.turnAfter_work (s : State) (t : Task) : (s.turnAfter t).work = s.work := by
  unfold State.turnAfter
  split <;> rfl

/-- Without a delivery held for it, nothing is applied to a task that starts. -/
theorem State.applyHeld_none {s : State} {ps : Ports} {slot : Nat} {id : BitVec 32} (hs : s.ports = ps)
    (h : ∀ d ∈ ps.held, d.1 ≠ id) : s.applyHeld slot id = s := by
  subst hs
  have hk : s.ports.held.filter (fun d => decide (d.1 ≠ id)) = s.ports.held := List.filter_eq_self.mpr (by simpa using h)
  have hn : s.ports.held.filter (fun d => decide (d.1 = id)) = [] := List.filter_eq_nil_iff.mpr (by simpa using h)
  rw [State.applyHeld, hn, hk]
  rfl

/-- A task as it starts on cores, rank by rank. -/
def State.startedTask (s : State) (t : Task) (cs : List Nat) : Task :=
  { t with
    state := .running, image := s.loadedImage t cs, gbarSt := s.m.h + 1, started := s.fresh, headSince := [],
    preload := none, place := t.accepted,
    cts := (List.range cs.length).map (fun r => (r, t.startCt (s.loadedImage t cs) (cs.getD r 0) (s.m.h + 1))) }

/-- A start puts the task into its slot at the stamp H + 1; of the other tasks only the marks of heads change. -/
theorem State.place_start {s : State} {t : Task} (slot : Nat) (cs : List Nat) (hs : t.saved = false)
    (hh : ∀ d ∈ s.ports.held, d.1 ≠ t.id) :
    (s.place slot t cs).tasks = Tab.put slot (s.startedTask t cs) s.markHeads.tasks ∧
      (s.place slot t cs).m.h = s.m.h + 1 := by
  have hw (b : Tab Nat) : (State.noteImage { (s.markHeads.turnAfter t) with blocked := b } t.ctx t.imageVa).work =
      s.markHeads.work := (State.noteImage_work ..).trans (State.turnAfter_work s.markHeads t)
  have hplace : s.place slot t cs = _ := if_neg (by simp [hs])
  have hnone := hplace.trans (State.applyHeld_none (ps := s.ports) (by exact congrArg (·.2.1) (hw _)) hh)
  rw [hnone]
  exact ⟨congrArg (Tab.put slot (s.startedTask t cs)) (congrArg (·.1) (hw _)), rfl⟩

end Machine

end Sys2Proof

namespace Sys2Proof.Proofs

open Sys2Proof.Machine

/-- Settles O49: the search for the next task and for its victims inverted, and the start read off its put. -/
theorem gangsArePlacedAndStarted : Obligations.GangsArePlacedAndStarted := by
  unfold Obligations.GangsArePlacedAndStarted
  refine ⟨⟨fun p s => ⟨fun h => ⟨exec_gangPlacement_frozen h, exec_preemption_frozen h⟩, exec_gangPlacement_untrained,
      fun hf => ⟨exec_gangPlacement_none, fun slot t t' cs hh hn ht => ?_, fun slot u hu => ?_, exec_preemption_none,
        fun vs hv => ⟨exec_preemption_some hf hv, State.preempts_some hv⟩⟩⟩,
    fun slot rank q s c w n k hc hw hk => ?_, fun p level s slot since t hh ht hs => ?_,
    fun slot sl g s t u cs ms i => exec_preload_next⟩, fun t i core st => ?_, fun s slot t cs hs hh => ?_⟩
  · obtain ⟨hr, hc⟩ := State.nextPlaced_some hn
    obtain ⟨hb, hcs, hfr⟩ := State.canPlace_some hc
    exact ⟨exec_gangPlacement_next hf hh hn ht, hr, (State.mem_readyList hr).2.1, hcs, hb, hfr⟩
  · rw [State.task_prunePreloads, hu, Option.map_some]
  · rw [exec_queuePushAdmit_waiting hc hw hk]
    exact ⟨fun h => if_neg (by simp [h]), fun h => if_pos h⟩
  · rw [exec_headWaitExpiry_head hh ht hs]
    exact ⟨fun h => if_neg (by omega), fun h => if_pos h⟩
  · have h := t.startCt_unloaded i core st
    refine ⟨congrArg CoreTask.core h, congrArg (·.seqC.pc) h, congrArg (·.seqC.status) h, congrArg (·.seqC.stamp) h,
      congrArg CoreTask.seqL h, congrArg CoreTask.seqX h, congrArg CoreTask.seqS h, congrArg CoreTask.pwrlvl h,
      congrArg CoreTask.floor h, congrArg CoreTask.tokens h, congrArg CoreTask.sems h, congrArg CoreTask.acc h,
      congrArg CoreTask.queues h, fun r => ?_⟩
    have hg : (t.startCt i core st).seqC.g = t.startRegs := congrArg (·.seqC.g) h
    rw [Seq.rd, hg, Task.get_startRegs, Task.range_base, Task.range_len]
    by_cases hr : r = 0
    · subst hr
      rfl
    · rw [if_neg hr]
      simp only [decide_eq_true_eq]
      rfl
  · obtain ⟨htasks, hst⟩ := State.place_start slot cs hs hh
    refine ⟨s.startedTask t cs, ?_, rfl, rfl, rfl, hst, rfl, fun m hm => ?_⟩
    · rw [State.task?, htasks, find_put_self]
    · rw [State.task?, htasks, find_put_ne _ _ hm]
      exact (congrArg (Option.map _) (State.task_markHeads s m)).trans (by rw [Option.map_map]; rfl)

end Sys2Proof.Proofs
end

section
/-! The ports and the migration of a virtual function (R19, R191, R195, R196, R299, R313, R314): what a port that is down
lets through, what each stage of a migration leaves, and what the host's writes and the signal lines change. -/

namespace Sys2Proof

open Machine

/-! ### Folds and tables -/

/-- A fold whose every step leaves its argument alone leaves it alone. -/
theorem foldl_fixed {α β : Type} {f : α → β → α} (a : α) (l : List β) (h : ∀ b ∈ l, f a b = a) : l.foldl f a = a := by
  induction l with
  | nil => rfl
  | cons b l ih =>
    rw [List.foldl_cons, h b List.mem_cons_self]
    exact ih fun c hc => h c (List.mem_cons_of_mem _ hc)

theorem find_putAll_of_not_mem {α : Type} {new : Tab α} {k : Nat} (h : k ∉ new.map (·.1)) (old : Tab α) :
    find (Tab.putAll new old) k = find old k := by
  induction new generalizing old with
  | nil => rfl
  | cons e new ih =>
    rw [List.map_cons, List.mem_cons, not_or] at h
    exact (ih h.2 _).trans (find_put_ne _ _ h.1)

theorem find_putAll {α : Type} {new : Tab α} {k : Nat} {v : α} (hn : (new.map (·.1)).Nodup) (h : (k, v) ∈ new)
    (old : Tab α) : find (Tab.putAll new old) k = some v := by
  induction new generalizing old with
  | nil => cases h
  | cons e new ih =>
    rw [List.map_cons, List.nodup_cons] at hn
    rcases List.mem_cons.mp h with rfl | h
    · exact (find_putAll_of_not_mem hn.1 _).trans (find_put_self ..)
    · exact ih hn.2 h _

theorem get_filter_keep {α : Type} (d : α) {p : Nat × α → Bool} (t : Tab α) {k : Nat} (hp : ∀ v, p (k, v) = true) :
    Tab.get d (t.filter p) k = Tab.get d t k := by
  rw [Tab.get_eq_find, Tab.get_eq_find, find_filter_keep p t k hp]

/-- Cells written one by one leave what stands at no cell's key. -/
theorem get_foldl_splice {α : Type} [DecidableEq α] (d : α) (cells : List (Nat × α)) (t : Tab α) {k : Nat}
    (h : ∀ c ∈ cells, c.1 ≠ k) : Tab.get d (cells.foldl (fun m c => splice d m c.1 [c.2]) t) k = Tab.get d t k := by
  induction cells generalizing t with
  | nil => rfl
  | cons c cells ih =>
    have hc : ¬(c.1 ≤ k ∧ k < c.1 + [c.2].length) := by
      have := h c List.mem_cons_self
      simp only [List.length_cons, List.length_nil]
      omega
    rw [List.foldl_cons, ih _ fun e he => h e (List.mem_cons_of_mem _ he), get_splice_getD, if_neg hc]

/-! ### Acts of the host while its port is down (R19) -/

/-- The instruction is an act of the host that passes its port. -/
def Instr.ofHost : Instr → Bool
  | .pageResponseSuccess _ | .pageResponseInvalid _ _ | .pageResponseFailure _ | .latePageResponse | .priReenable _
  | .inv1Go _ | .inv2Go | .frelGo | .keyloadGo | .atsInvalidation _ _ | .sqdbWrite _ _ _ | .sqdbReset _ _ | .cqdbWrite _ _ _
  | .queueEnable _ _ _ | .queueDisable _ _ | .ctxWrite _ _ _ | .ctxpWrite _ _ | .tqWrite _ _ _ | .shareWrite _ _
  | .partcfgWrite _ _ | .vpsmapWrite _ _ | .pmaxWrite _ _ | .pmemWrite _ _ | .rscarveWrite _ | .featacc0Write _ _
  | .featacc1Write _ _ | .lateprqClear _ | .deverrClear _ | .eordxWrite _ _ _ _ | .registerWrite _ _ _ _ | .commandFetch
  | .completionWrite _ _ | .frankingQuotaAddition _ _ | .vfFreeze _ => true
  | .inboundPcieWrite _ toHost _ => !toHost
  | _ => false

namespace Machine

section
variable {s : State}

theorem respond_untrained (h : s.ports.host = false) (idx : Nat) (start : PageReq → State → State)
    (go : PageReq → List Nat → State → State) : respond idx start go s = .next s := by
  unfold respond
  split
  · rfl
  · exact fromHost_off s 0 _ (.inl h)

/-- While the host port is down no act of the host reaches the device (R19, log 33). -/
theorem exec_ofHost_untrained {i : Instr} (h : s.ports.host = false) (hi : i.ofHost = true) : exec i s = .next s := by
  unfold exec
  cases i with
  | latePageResponse | priReenable | inv1Go | inv2Go | frelGo | sqdbWrite | sqdbReset | cqdbWrite | queueDisable | ctxWrite
  | ctxpWrite | tqWrite | shareWrite | partcfgWrite | vpsmapWrite | pmaxWrite | pmemWrite | rscarveWrite | featacc0Write
  | featacc1Write | lateprqClear | deverrClear | eordxWrite => exact fromHost_off s _ _ (.inl h)
  | pageResponseSuccess | pageResponseInvalid | pageResponseFailure => exact respond_untrained h ..
  | queueEnable | keyloadGo => exact (ite_congr rfl (fun _ => rfl) fun _ => fromHost_off s _ _ (.inl h)).trans (ite_self _)
  | atsInvalidation => simp [execAtsInvalidation, h, idle]
  | registerWrite => simp [execRegisterWrite, h, idle]
  | commandFetch => simp [execCommandFetch, h, idle]
  | completionWrite =>
    unfold execCompletionWrite
    dsimp only
    split
    · rfl
    · simp [h, idle]
  | frankingQuotaAddition => exact if_pos (by simp [h])
  | vfFreeze => simp [execVfFreeze, h, idle]
  | inboundPcieWrite a toHost bs =>
    have ht : (!toHost) = true := hi
    simp only [Bool.not_eq_true'] at ht
    simp [execInboundPcieWrite, h, ht, idle]
  | _ => cases hi

end

/-! ### Training (R19, R299) -/

/-- The link that a port reports, when it has one, is one to which a port can train. -/
def LinkFits (link : Option (Nat × Nat)) : Prop := ∀ x ∈ link, 1 ≤ x.1 ∧ x.1 ≤ 16 ∧ 1 ≤ x.2 ∧ x.2 ≤ 128

theorem linkFits_iff (link : Option (Nat × Nat)) : link.any (fun x => !linkFits x) = false ↔ LinkFits link := by
  cases link <;> simp [LinkFits, linkFits, and_assoc]

/-- The links of the ports after a training of the port with key `k`. -/
def trainedLinks (k : Nat) (link : Option (Nat × Nat)) (t : Tab (Nat × Nat)) : Tab (Nat × Nat) :=
  match link with
  | some x => Tab.put k x t
  | none => Tab.del k t

theorem find_trainedLinks (k j : Nat) (link : Option (Nat × Nat)) (t : Tab (Nat × Nat)) :
    find (trainedLinks k link t) j = if j = k then link else find t j := by
  cases link with
  | none => exact find_del ..
  | some x => exact find_put ..

section
variable {link : Option (Nat × Nat)} {s : State}

theorem exec_portLinkTraining_misfit (h : ¬LinkFits link) (peer : Bool) : exec (.portLinkTraining peer link) s = .next s := by
  rw [← linkFits_iff, Bool.not_eq_false] at h
  simp [exec_portLinkTraining, execPortLinkTraining, h, idle]

theorem exec_portLinkTraining_peer (h : LinkFits link) : exec (.portLinkTraining true link) s =
    .next { s with ports := { s.ports with peer := link.isSome, link := trainedLinks 1 link s.ports.link } } := by
  rw [← linkFits_iff] at h
  simp only [exec_portLinkTraining, execPortLinkTraining, h]
  rfl

theorem exec_portLinkTraining_host (h : LinkFits link) : exec (.portLinkTraining false link) s =
    .next { s with ports := { s.ports with host := link.isSome, link := trainedLinks 0 link s.ports.link } } := by
  rw [← linkFits_iff] at h
  simp only [exec_portLinkTraining, execPortLinkTraining, h]
  rfl

end

/-! ### Writes that come in over PCIe (R191, R195, R196) -/

theorem exec_inboundPcieWrite_outside {a : Nat} {bs : List Byte} {s : State} (h : dpaTop < a + bs.length) :
    exec (.inboundPcieWrite a false bs) s = .next s := by
  simp [exec_inboundPcieWrite, execInboundPcieWrite, h, idle]

theorem exec_inboundPcieWrite_device {a : Nat} {bs : List Byte} {s : State} (hh : s.ports.host = true)
    (h : a + bs.length ≤ dpaTop) : exec (.inboundPcieWrite a false bs) s =
      .next (s.applyWrite { host := false, a := a } bs true none (some s.m.h)) := by
  simp [exec_inboundPcieWrite, execInboundPcieWrite, hh, Nat.not_lt.mpr h, ok]

/-- What an applied write leaves of device memory and of the host's. -/
theorem applyWrite_device (s : State) (a : Nat) (bs : List Byte) (keep : Bool) (by_ : Writer) (rel : Option Stamp) :
    (s.applyWrite { host := false, a := a } bs keep by_ rel).m.dpa = splice 0 s.m.dpa a bs ∧
      (s.applyWrite { host := false, a := a } bs keep by_ rel).m.host = s.m.host :=
  applyWrite_sameMem s { host := false, a := a } bs keep by_ rel

/-! ### The stages of a migration (R313) -/

theorem State.vfMig_updVf (s : State) (n p : Nat) (f : VfMig → VfMig) :
    (s.updVf n f).vfMig p = if p + 1 = n then f (s.vfMig p) else s.vfMig p := by
  refine (Tab.get_upd ..).trans ?_
  split
  · next h => rw [← h]; rfl
  · rfl

/-- The migration of VF `n` after a change of it. -/
theorem State.vfMig_updVf_self (s : State) {n : Nat} (hn : n ≠ 0) (f : VfMig → VfMig) :
    (s.updVf n f).vfMig (n - 1) = f (s.vfMig (n - 1)) := by
  rw [State.vfMig_updVf, if_pos (by omega)]

theorem State.partFrozen_iff (s : State) (p : Nat) : s.partFrozen p = true ↔ (s.vfMig p).stage ≠ .idle := by
  simp [State.partFrozen]

/-! #### Frozen (R313) -/

theorem State.mayServe_frozen {s : State} {n q : Nat} (hn : n ≠ 0) (hq : q < 16) (h : s.partFrozen (n - 1) = true) :
    s.mayServe (16 * n + q) = false := by
  have hlow : ¬16 * n + q < 16 := by omega
  have hpart : (16 * n + q) / 16 - 1 = n - 1 := by omega
  simp [State.mayServe, hlow, hpart, h]

theorem State.placeable_frozen {s : State} {p : Nat} {t : Task} (hp : p ∈ t.parts) (h : s.partFrozen p = true) :
    s.placeable t = false := by
  have hany : t.parts.any s.partFrozen = true := List.any_eq_true.mpr ⟨p, hp, h⟩
  simp [State.placeable, hany]

theorem exec_vfFreeze_idle {n : Fin 9} {s : State} (h : n.val = 0 ∨ s.r.featw0.getLsbD 6 = false ∨ s.ports.host = false ∨
    (s.vfMig (n.val - 1)).stage ≠ .idle) : exec (.vfFreeze n) s = .next s := by
  rw [exec_vfFreeze, execVfFreeze, if_pos (by simpa [State.vfmigOn] using h)]
  rfl

theorem exec_vfFreeze_freezes {n : Fin 9} {s : State} (hn : n.val ≠ 0) (hf : s.r.featw0.getLsbD 6 = true)
    (hh : s.ports.host = true) (hs : (s.vfMig (n.val - 1)).stage = .idle) :
    exec (.vfFreeze n) s = .next (((((s.updVf n.val (fun m => { m with stage := .frozen })).tasksIn (n.val - 1)).map
      (·.1)).foldl State.freezeGang (s.updVf n.val (fun m => { m with stage := .frozen }))).dropRequests (n.val - 1)) := by
  rw [exec_vfFreeze, execVfFreeze, if_neg (by simp [hn, State.vfmigOn, hf, hh, hs])]
  rfl

/-- Sending page requests marks them and makes none. -/
theorem State.sendRequests_prq {s : State} {q : PageReq} (h : q ∈ s.sendRequests.r.prq) :
    ∃ q' ∈ s.r.prq, q'.ctx = q.ctx := by
  obtain ⟨q', hq', rfl⟩ := List.mem_map.mp h
  exact ⟨q', hq', by split <;> rfl⟩

/-- The page requests of a partition's contexts end. -/
theorem State.dropRequests_prq {s : State} {part : Nat} {q : PageReq} (h : q ∈ (s.dropRequests part).r.prq) :
    s.ctxPart q.ctx ≠ some part := by
  obtain ⟨q', hq', hctx⟩ := State.sendRequests_prq h
  rw [← hctx]
  simpa using (List.mem_filter.mp hq').2

/-! #### Exported and released -/

/-- Memory and what the ports have sent, with the migrations that they know. -/
def State.outside (s : State) : Memory × Memory × List PeerPacket × Tab VfMig :=
  (s.m.dpa, s.m.host, s.ports.sent, s.ports.vf)

theorem State.dropExported_outside (s : State) (n : Nat) : (s.dropExported n).outside = s.outside := by
  unfold State.dropExported
  dsimp only
  refine (foldl_keeps State.outside (f := State.plainDone) (fun _ _ => by rfl) _ _).trans ?_
  exact foldl_keeps State.outside (fun _ _ => by rfl) _ s

/-- The release of an entry leaves memory and what has been sent; it drops the tasks only where it releases. -/
theorem State.releaseEntry_cases (s : State) {n : Nat} (hn : n ≠ 0) :
    s.releaseEntry n = s ∨
      ((s.releaseEntry n).m.dpa = s.m.dpa ∧ (s.releaseEntry n).m.host = s.m.host ∧
        (s.releaseEntry n).ports.sent = s.ports.sent ∧
        (s.releaseEntry n).vfMig (n - 1) = { s.vfMig (n - 1) with stage := .released }) := by
  unfold State.releaseEntry
  split
  · have h := (s.updVf n (fun m => { m with stage := .released })).dropExported_outside n
    refine .inr ⟨congrArg (·.1) h, congrArg (·.2.1) h, congrArg (·.2.2.1) h, ?_⟩
    have hvf : ((s.updVf n (fun m => { m with stage := .released })).dropExported n).vfMig (n - 1) =
        (s.updVf n (fun m => { m with stage := .released })).vfMig (n - 1) :=
      congrArg (fun x : Memory × Memory × List PeerPacket × Tab VfMig => Tab.get VfMig.idle x.2.2.2 (n - 1 + 1)) h
    rw [hvf, State.vfMig_updVf_self s hn]
  · exact .inl rfl

/-- Held deliveries that a trained port relays leave in their order. -/
theorem State.foldl_relay {s : State} (h : s.ports.peer = true) (n : Nat) (ds : List Inside) :
    ds.foldl (fun s d => s.relay n d) s = { s with ports := { s.ports with
      sent := s.ports.sent ++ ds.map (fun d => .relay n { d.p with relayed := true }) } } := by
  induction ds generalizing s with
  | nil => simp
  | cons d ds ih =>
    rw [List.foldl_cons, State.relay_trained h, ih (by exact h)]
    simp

theorem exec_vfImportAck_frozen {n : Fin 9} {s : State} (hn : n.val ≠ 0) (hf : s.r.featw0.getLsbD 6 = true)
    (hs : (s.vfMig (n.val - 1)).stage = .frozen) :
    exec (.vfImportAck n) s = .next ((s.relayHeld n.val).releaseEntry n.val) := by
  rw [exec_vfImportAck, execVfImportAck, if_neg (by simp [hn, State.vfmigOn, hf]), hs]
  rfl

theorem exec_vfImportAck_idle {n : Fin 9} {s : State} (hn : n.val ≠ 0) (hf : s.r.featw0.getLsbD 6 = true)
    (hs : (s.vfMig (n.val - 1)).stage = .idle) :
    exec (.vfImportAck n) s = .next ((s.awaitMarkers (n.val - 1)).thaw (n.val - 1)) := by
  rw [exec_vfImportAck, execVfImportAck, if_neg (by simp [hn, State.vfmigOn, hf]), hs]
  rfl

/-- What a relay of the held deliveries leaves (R313 step 3). -/
theorem State.relayHeld_trained {s : State} {n : Nat} (hn : n ≠ 0) (h : s.ports.peer = true) :
    (s.relayHeld n).m = s.m ∧ (s.relayHeld n).tasks = s.tasks ∧
      (s.relayHeld n).vfMig (n - 1) = { s.vfMig (n - 1) with stage := .imported, held := [] } ∧
      (s.relayHeld n).ports.sent = s.ports.sent ++
        (s.vfMig (n - 1)).held.map (fun d => .relay n { d.p with relayed := true }) := by
  unfold State.relayHeld
  dsimp only
  rw [State.foldl_relay (by exact h)]
  exact ⟨rfl, rfl, State.vfMig_updVf_self s hn (fun m => { m with stage := .imported, held := [] }), rfl⟩

theorem exec_pgtUpdateConfirm_untrained {n : Fin 9} {peer : Nat} {s : State} (h : s.ports.peer = false) :
    exec (.pgtUpdateConfirm n peer) s = .next s := by
  simp [exec_pgtUpdateConfirm, execPgtUpdateConfirm, h, idle]

theorem exec_pgtUpdateConfirm_again {n : Fin 9} {peer : Nat} {s : State} (h : peer ∈ (s.vfMig (n.val - 1)).confirmed) :
    exec (.pgtUpdateConfirm n peer) s = .next s := by
  simp [exec_pgtUpdateConfirm, execPgtUpdateConfirm, h, idle]

theorem exec_pgtUpdateConfirm_first {n : Fin 9} {peer : Nat} {s : State} (hn : n.val ≠ 0) (hp : s.ports.peer = true)
    (hs : (s.vfMig (n.val - 1)).stage = .imported) (h : peer ∉ (s.vfMig (n.val - 1)).confirmed) :
    exec (.pgtUpdateConfirm n peer) s = .next
      (((s.updVf n.val (fun m => { m with confirmed := m.confirmed ++ [peer] })).sendPeer (.endMarker n.val peer)).releaseEntry
        n.val) := by
  simp [exec_pgtUpdateConfirm, execPgtUpdateConfirm, hn, hp, hs, h, ok]

/-- A confirmation is noted and its marker sent (R313 step 4). -/
theorem State.confirm_sends {s : State} {n peer : Nat} (hn : n ≠ 0) (hp : s.ports.peer = true) :
    let u := (s.updVf n (fun m => { m with confirmed := m.confirmed ++ [peer] })).sendPeer (.endMarker n peer)
    u.ports.sent = s.ports.sent ++ [.endMarker n peer] ∧
      (u.vfMig (n - 1)).confirmed = (s.vfMig (n - 1)).confirmed ++ [peer] := by
  have hu : (s.updVf n (fun m => { m with confirmed := m.confirmed ++ [peer] })).sendPeer (.endMarker n peer) = _ :=
    if_pos hp
  rw [hu]
  exact ⟨rfl, congrArg VfMig.confirmed
    (State.vfMig_updVf_self s hn (fun m => { m with confirmed := m.confirmed ++ [peer] }))⟩

/-! #### At the destination -/

/-- Tasks, streams and device memory. -/
def State.stands (s : State) : Tab Task × Tab Stream × Memory := (s.tasks, s.streams, s.m.dpa)

theorem State.awaitMarkers_stands (s : State) (part : Nat) : (s.awaitMarkers part).stands = s.stands :=
  foldl_keeps State.stands (fun s peer => by dsimp only; split <;> rfl) _ s

/-- A gang is frozen no longer. -/
def State.thawGang (s : State) (slot : Nat) : State :=
  (s.dropCond slot (fun c => decide (c = .freeze))).wakeGang slot

theorem State.thawGang_keeps (s : State) (slot : Nat) :
    ((s.thawGang slot).streams, (s.thawGang slot).m.dpa) = (s.streams, s.m.dpa) := by
  simp [State.thawGang, State.wakeGang, State.dropCond]

/-- Where no event record of the partition waits, a thaw frees its gangs and does nothing else. -/
theorem State.thaw_eq (s : State) {part : Nat} (h : ∀ e ∈ s.streams, e.2.part = part → e.2.evs = []) :
    (s.thaw part).tasks = (((s.tasksIn part).map (·.1)).foldl State.thawGang s).tasks ∧ (s.thaw part).m.dpa = s.m.dpa := by
  have hk := foldl_keeps (fun s : State => (s.streams, s.m.dpa)) State.thawGang_keeps ((s.tasksIn part).map (·.1)) s
  have hstreams : (((s.tasksIn part).map (·.1)).foldl State.thawGang s).streams = s.streams := congrArg Prod.fst hk
  have hnone : s.thaw part = ((s.tasksIn part).map (·.1)).foldl State.thawGang s := by
    refine foldl_fixed _ _ fun e he => ?_
    obtain ⟨he, hp⟩ := List.mem_filter.mp he
    have hevs : e.2.evs = [] := h e (hstreams ▸ he) (of_decide_eq_true hp)
    rw [hevs]
    rfl
  rw [hnone]
  exact ⟨rfl, congrArg Prod.snd hk⟩

/-- A task that is frozen no longer; one whose conditions are all met is ready. -/
def Task.thawed (t : Task) : Task :=
  let u := { t with conds := t.conds.filter (fun c => !decide (c = .freeze)) }
  if u.state = .parked ∧ u.conds.isEmpty then
    { u with state := .ready, place := u.accepted, cts := u.cts.map (fun e => (e.1, e.2.reissue)) }
  else u

theorem State.task_updTask (s : State) (a b : Nat) (f : Task → Task) :
    (s.updTask a f).task? b = if b = a then (s.task? a).map f else s.task? b := by
  unfold State.updTask
  split
  · next t ht => rw [State.task_setTask, ht]; rfl
  · next ht =>
    split
    · next h => rw [h, ht]; rfl
    · rfl

theorem State.task_thawGang (s : State) (a b : Nat) :
    (s.thawGang a).task? b = if b = a then (s.task? a).map Task.thawed else s.task? b := by
  unfold State.thawGang State.wakeGang State.dropCond
  rw [State.task_updTask, State.task_updTask, State.task_updTask, if_pos rfl, Option.map_map]
  by_cases h : b = a
  · rw [if_pos h, if_pos h]
    rfl
  · rw [if_neg h, if_neg h, if_neg h]

theorem Task.thawed_ready {t : Task} (h : t.state = .ready) : t.thawed.state = .ready := by
  unfold Task.thawed
  dsimp only
  split <;> simp [h]

/-- A parked task that only the freeze has held is ready. -/
theorem Task.thawed_parked {t : Task} (h : t.state = .parked) (hc : ∀ k ∈ t.conds, k = .freeze) :
    t.thawed.state = .ready := by
  have hnone : (t.conds.filter (fun c => !decide (c = ParkCond.freeze))).isEmpty = true := by
    simpa [List.filter_eq_nil_iff] using hc
  unfold Task.thawed
  dsimp only
  rw [if_pos ⟨h, hnone⟩]

/-- Once a slot's task is ready, the gangs thawed after it leave it so. -/
theorem State.thawGangs_ready {s : State} {slot : Nat} (l : List Nat) (h : (s.task? slot).map (·.state) = some .ready) :
    ((l.foldl State.thawGang s).task? slot).map (·.state) = some .ready := by
  induction l generalizing s with
  | nil => exact h
  | cons a l ih =>
    refine ih ?_
    rw [State.task_thawGang]
    split
    · next e =>
      subst e
      obtain ⟨t, ht, hs⟩ := Option.map_eq_some_iff.mp h
      rw [ht, Option.map_some, Option.map_some, Task.thawed_ready hs]
    · exact h

theorem State.thawGangs_parked {s : State} {slot : Nat} {t : Task} {l : List Nat} (hl : slot ∈ l)
    (ht : s.task? slot = some t) (hs : t.state = .parked) (hc : ∀ k ∈ t.conds, k = .freeze) :
    ((l.foldl State.thawGang s).task? slot).map (·.state) = some .ready := by
  induction l generalizing s with
  | nil => cases hl
  | cons a l ih =>
    rw [List.foldl_cons]
    by_cases ha : slot = a
    · refine State.thawGangs_ready l ?_
      rw [State.task_thawGang, if_pos ha, ← ha, ht, Option.map_some, Option.map_some, Task.thawed_parked hs hc]
    · refine ih ((List.mem_cons.mp hl).resolve_left ha) ?_
      rw [State.task_thawGang, if_neg ha, ht]

/-- At the destination the gangs that only the freeze has held are ready (R313 step 4). -/
theorem State.thaw_ready {s : State} {part slot : Nat} {t : Task} (h : ∀ e ∈ s.streams, e.2.part = part → e.2.evs = [])
    (ht : s.task? slot = some t) (hp : t.inPart part = true) (hs : t.state = .parked) (hc : ∀ k ∈ t.conds, k = .freeze) :
    ((s.thaw part).task? slot).map (·.state) = some .ready := by
  have hmem : slot ∈ (s.tasksIn part).map (·.1) :=
    List.mem_map.mpr ⟨(slot, t), List.mem_filter.mpr ⟨mem_of_find ht, hp⟩, rfl⟩
  rw [State.task?, (s.thaw_eq h).1]
  exact State.thawGangs_parked hmem ht hs hc

/-! #### The exported state (R313 step 3, log 32) -/

theorem State.exportVf_frozen {s : State} {n : Nat} (hn : n ≠ 0) (hh : s.ports.host = true)
    (hs : (s.vfMig (n - 1)).stage = .frozen) : s.exportVf n =
      { s.updVf n (fun m => { m with exported := true }) with ports :=
        { (s.updVf n (fun m => { m with exported := true })).ports with
          images := Tab.put n (s.vfImage n) s.ports.images } } :=
  if_neg (by simp [hn, hh, hs])

/-- Frames that are released keep every byte outside them. -/
theorem State.get_releaseFrames (s : State) (f n : Nat) (key : BitVec 6) {b : Nat} (h : b < f * 4096 ∨ (f + n) * 4096 ≤ b) :
    Tab.get 0 (s.releaseFrames f n key).m.dpa b = Tab.get 0 s.m.dpa b := by
  refine (get_filter_keep 0 _ fun v => by simpa using h).trans ?_
  rw [(freePigeons_sameMem s (f * 4096) ((f + n) * 4096)).1]

/-- A VF's range is made of whole frames, and each cell of an image that fits lies in it. -/
theorem State.vfRange_frames (s : State) (n : Nat) : 4096 ∣ (s.vfRange n).1 ∧ 4096 ∣ (s.vfRange n).2 ∧
    (s.vfRange n).1 ≤ (s.vfRange n).2 := by
  simp only [State.vfRange, pmemRange]
  omega

theorem State.get_putVfMemory {s : State} {n : Nat} {x : VfImage}
    (hx : ∀ c ∈ x.mem, (s.vfRange n).1 ≤ c.1 ∧ c.1 < (s.vfRange n).2) {b : Nat}
    (hb : b < (s.vfRange n).1 ∨ (s.vfRange n).2 ≤ b) :
    Tab.get 0 (s.putVfMemory n x).m.dpa b = Tab.get 0 s.m.dpa b := by
  obtain ⟨hlo, hhi, hle⟩ := s.vfRange_frames n
  refine (get_foldl_splice 0 x.mem _ fun c hc => ?_).trans (State.get_releaseFrames s ((s.vfRange n).1 / 4096)
    (((s.vfRange n).2 - (s.vfRange n).1) / 4096) 0 ?_)
  · have := hx c hc
    omega
  · omega

theorem State.putVfMemory_host (s : State) (n : Nat) (x : VfImage) : (s.putVfMemory n x).m.host = s.m.host :=
  (freePigeons_sameMem s _ _).2

theorem State.putSlices_sameMem (s : State) (x : VfImage) : s.SameMem (s.putSlices x) := by
  unfold State.putSlices
  exact (foldl_sameMem _ (fun _ _ => ⟨by rfl, by rfl⟩) x.pigeons s).trans
    (foldl_sameMem _ (fun _ _ => ⟨by rfl, by rfl⟩) x.held _)

theorem Task.imported_frozen (t : Task) (fresh : Nat) : .freeze ∈ (t.imported fresh).conds := by
  by_cases h : ParkCond.freeze ∈ t.conds <;> simp [Task.imported, h]

theorem Task.imported_stopped (t : Task) (fresh : Nat) : (t.imported fresh).state ≠ .running := by
  by_cases h : t.state = .running <;> simp [Task.imported, h]

theorem State.importVf_puts {s : State} {n : Nat} {x : VfImage} (hn : n ≠ 0) (hh : s.ports.host = true)
    (hs : (s.vfMig (n - 1)).stage = .idle) (hf : s.r.featw0.getLsbD 6 = true) (hx : s.vfFits n x = true) :
    (s.importVf n x).tasks = Tab.putAll (x.tasks.map (fun e => (e.1, e.2.imported s.fresh)))
      ((s.putVfMemory n (x.shift (· + (s.vfRange n).1))).putSlices (x.shift (· + (s.vfRange n).1))).tasks ∧
    ((s.putVfMemory n (x.shift (· + (s.vfRange n).1))).SameMem (s.importVf n x)) := by
  have h : s.importVf n x = _ := if_neg (by simp [hn, hh, hs, State.vfmigOn, hf, hx])
  rw [h]
  exact ⟨rfl, State.putSlices_sameMem _ (x.shift (· + (s.vfRange n).1))⟩

theorem State.vfFits_mem {s : State} {n : Nat} {x : VfImage} (h : s.vfFits n x = true) :
    ∀ c ∈ (x.shift (· + (s.vfRange n).1)).mem, (s.vfRange n).1 ≤ c.1 ∧ c.1 < (s.vfRange n).2 := by
  intro c hc
  obtain ⟨e, he, rfl⟩ := List.mem_map.mp hc
  simp only [State.vfFits, Bool.and_eq_true, List.all_eq_true, decide_eq_true_eq] at h
  have := h.1.2 e he
  dsimp only
  omega

theorem exec_endMarker_eq (x : Marker) (s : State) : exec (.endMarker x) s =
    if x.vf.val = 0 ∨ ¬s.ports.peer = true then .next s
    else .next (((find s.ports.marker (markerKey (x.vf.val - 1) x.peer)).getD []).foldl (fun s d => s.receive true d)
      { s with ports := { s.ports with marker := Tab.del (markerKey (x.vf.val - 1) x.peer) s.ports.marker } }) := rfl

end Machine

end Sys2Proof

namespace Sys2Proof.Proofs

open Sys2Proof.Machine

/-- Settles O59: stage by stage of the migration, then each act at a port. -/
theorem functionsMigrateAndPortsCarry : Obligations.FunctionsMigrateAndPortsCarry := by
  unfold Obligations.FunctionsMigrateAndPortsCarry
  refine ⟨⟨fun n s => ⟨fun hn hs => ?_, exec_vfFreeze_idle, fun hn hf hh hs hnone => ?_, fun hn hf hs hp => ?_,
      fun peer => exec_pgtUpdateConfirm_untrained, fun peer hn hp hs => ⟨exec_pgtUpdateConfirm_again, fun hc => ?_⟩,
      fun hn hf hs hev => ?_⟩,
    fun n s hn hh => ⟨fun hs => ?_, fun x hs hf hx hnd => ?_⟩, fun n peer s => ⟨fun h => ?_, fun hn hp => ?_⟩⟩,
    fun link s => ⟨exec_portLinkTraining_misfit, fun h => ?_, fun h => ?_⟩,
    fun a bs s => ⟨exec_inboundPcieWrite_outside, fun hh h => ?_, ?_⟩,
    fun line v s => ?_, fun s f q p n w6 t9 w3 e c idx a code x al v off h l bs i hh hi =>
      exec_ofHost_untrained hh (List.all_eq_true.mp rfl i hi)⟩
  · have hz : s.partFrozen (n.val - 1) = true := (State.partFrozen_iff s _).mpr hs
    exact ⟨fun q => State.mayServe_frozen hn q.isLt hz, fun p hp => exec_gangPlacement_frozen (hp ▸ hz),
      fun t ht => State.placeable_frozen ht hz⟩
  · have hin : (s.updVf n.val (fun m => { m with stage := .frozen })).tasksIn (n.val - 1) = [] :=
      List.filter_eq_nil_iff.mpr fun e he => by simp [hnone e he]
    rw [exec_vfFreeze_freezes hn hf hh hs, hin]
    exact ⟨_, rfl, congrArg VfMig.stage (State.vfMig_updVf_self s hn (fun m => { m with stage := .frozen })), rfl,
      fun q hq => State.dropRequests_prq hq⟩
  · obtain ⟨hm, ht, hv, hsent⟩ := State.relayHeld_trained hn hp
    refine ⟨_, exec_vfImportAck_frozen hn hf hs, ?_⟩
    rcases State.releaseEntry_cases (s.relayHeld n.val) hn with h | ⟨hd, hhost, hse, hmig⟩
    · rw [h, hm, hv]
      exact ⟨rfl, rfl, .inl rfl, rfl, fun _ => ht, hsent⟩
    · rw [hmig, hd, hhost, hse, hm, hv]
      exact ⟨rfl, rfl, .inr rfl, rfl, fun h => (nomatch h), hsent⟩
  · obtain ⟨hsent, hconf⟩ := State.confirm_sends (peer := peer) hn hp
    refine ⟨_, exec_pgtUpdateConfirm_first hn hp hs hc, ?_⟩
    rcases State.releaseEntry_cases ((s.updVf n.val (fun m => { m with confirmed := m.confirmed ++ [peer] })).sendPeer
      (.endMarker n.val peer)) hn with h | ⟨-, -, hse, hmig⟩
    · rw [h]
      exact ⟨hsent, hconf⟩
    · rw [hse, hmig]
      exact ⟨hsent, hconf⟩
  · have hk := s.awaitMarkers_stands (n.val - 1)
    have htasks : (s.awaitMarkers (n.val - 1)).tasks = s.tasks := congrArg (·.1) hk
    have hev' : ∀ e ∈ (s.awaitMarkers (n.val - 1)).streams, e.2.part = n.val - 1 → e.2.evs = [] := by
      rw [show (s.awaitMarkers (n.val - 1)).streams = s.streams from congrArg (·.2.1) hk]
      exact hev
    refine ⟨_, exec_vfImportAck_idle hn hf hs, ((State.thaw_eq _ hev').2).trans (congrArg (·.2.2) hk),
      fun slot tk ht hp hpk hc => State.thaw_ready hev' ?_ hp hpk hc⟩
    rw [State.task?, htasks]
    exact ht
  · rw [State.exportVf_frozen hn hh hs]
    exact ⟨congrArg VfMig.exported (State.vfMig_updVf_self s hn (fun m => { m with exported := true })), find_put_self .., rfl, rfl⟩
  · obtain ⟨htasks, hmem⟩ := State.importVf_puts hn hh hs hf hx
    refine ⟨fun slot u hu => ⟨u.imported s.fresh, ?_, rfl, rfl, ?_, ?_⟩, fun b hb => ?_, ?_⟩
    · rw [State.task?, htasks]
      refine find_putAll ?_ (List.mem_map_of_mem (f := fun e => (e.1, e.2.imported s.fresh)) hu) _
      rw [List.map_map]
      exact hnd
    · exact u.imported_frozen s.fresh
    · exact u.imported_stopped s.fresh
    · rw [hmem.1]
      exact State.get_putVfMemory (State.vfFits_mem hx) hb
    · exact hmem.2.trans (State.putVfMemory_host ..)
  · rw [exec_endMarker_eq]
    exact if_pos (by simpa using h)
  · rw [exec_endMarker_eq]
    exact if_neg (by simp [hn, hp])
  · refine ⟨_, exec_portLinkTraining_peer h, rfl, ?_, ?_, rfl⟩
    · exact (find_trainedLinks ..).trans (if_pos rfl)
    · exact (find_trainedLinks ..).trans (if_neg (by decide))
  · refine ⟨_, exec_portLinkTraining_host h, rfl, ?_, ?_, rfl⟩
    · exact (find_trainedLinks ..).trans (if_pos rfl)
    · exact (find_trainedLinks ..).trans (if_neg (by decide))
  · obtain ⟨hd, hhost⟩ := applyWrite_device s a bs true none (some s.m.h)
    refine ⟨_, exec_inboundPcieWrite_device hh h, hhost, fun b => ?_⟩
    rw [hd, get_splice_getD]
  · exact ⟨_, rfl, rfl, fun b => get_splice_getD 0 s.m.host a bs b⟩
  · exact ⟨_, rfl, rfl, fun k => Tab.get_set none s.service.lines line.toNat k (some v)⟩

end Sys2Proof.Proofs
end

section
/-! Link words and link ticks (R348, R349, R312): what a link word checks in turn, what it hands to the peer port, and what
leaves the port when a tick begins. -/

namespace Sys2Proof.Machine

/-! ### The agent that issues stays (R193) -/

theorem State.notePgt_work (s : State) (ctx : Nat) (va : Word) : (s.notePgt ctx va).work = s.work := by
  unfold State.notePgt
  split
  · rfl
  · split
    · rw [State.noteVa_work, State.noteVa_work]
    · rfl

@[simp] theorem State.notePgt_cur (s : State) (ctx : Nat) (va : Word) : (s.notePgt ctx va).cur = s.cur :=
  congrArg (·.2.2) (s.notePgt_work ctx va)

@[simp] theorem State.clearWord_cur (s : State) (slot rank kind : Nat) (waddr : BitVec 32) :
    (s.clearWord slot rank kind waddr).cur = s.cur := by
  unfold State.clearWord
  split
  · dsimp only
    split <;> rfl
  · rfl

@[simp] theorem State.clearMiss_cur (s : State) (slot rank kind : Nat) (va : Word) (waddr : BitVec 32) :
    (s.clearMiss slot rank kind va waddr).cur = s.cur := by
  unfold State.clearMiss
  split
  · dsimp only
    split <;> rfl
  · rfl

theorem State.cacheTarget_cur (s : State) (slot rank ctx : Nat) (va : Word) (stride cols : Nat) (waddr : BitVec 32)
    (es : List (Nat × Xl)) : (s.cacheTarget slot rank ctx va stride cols waddr es).cur = s.cur :=
  foldl_keeps State.cur (fun s e => (State.clearMiss_cur ..).trans (congrArg (·.2.2) (s.cache_work ctx _ e.2 4))) es s

theorem State.deliver_cur {s s1 : State} {slot rank : Nat} {k : Fin 8} (h : s.deliver slot rank k = .ok s1) :
    s1.cur = s.cur := by
  unfold State.deliver at h
  split at h
  · split at h
    · cases h; rfl
    · split at h
      · cases h; rfl
      · split at h
        · cases h
        · cases h
        · cases h
          exact (State.putCt_cur ..).trans (State.cacheTarget_cur ..)
  · cases h; rfl

theorem State.deliverAll_cur {s s1 : State} {slot rank : Nat} {ks : List (Fin 8)}
    (h : s.deliverAll slot rank ks = .ok s1) : s1.cur = s.cur := by
  induction ks generalizing s with
  | nil => cases h; rfl
  | cons k ks ih =>
    rw [State.deliverAll] at h
    cases hd : s.deliver slot rank k with
    | ok s2 => rw [hd] at h; exact (ih h).trans (State.deliver_cur hd)
    | trap t => rw [hd] at h; cases h
    | miss va pg host => rw [hd] at h; cases h

/-- A release that is met leaves the agent that issues. -/
theorem State.testRelease_cur {s s1 : State} {a : Agent} {sc : Scope} (h : s.testRelease a sc = .ready s1) :
    s1.cur = s.cur := by
  unfold State.testRelease at h
  split at h
  · cases h; rfl
  · next c _ =>
    dsimp only at h
    split at h
    · cases h
    · cases h
    · next s2 hs =>
      have hcur : s2.cur = s.cur := by
        split at hs
        · exact State.deliverAll_cur hs
        · exact State.deliverAll_cur hs
        · cases hs; rfl
      split at h
      · cases h; exact hcur
      · split at h
        · cases h; exact hcur
        · cases h

theorem afterRelease_ready {sc : Scope} {s s1 : State} {c1 : CoreTask} {go : State → CoreTask → Res State}
    (h : s.testRelease s.cur sc = .ready s1) (hc : s1.ct? s.cur.slot s.cur.rank = some c1) :
    afterRelease sc s go = go s1 c1 := by
  simp only [afterRelease, h, hc]

/-! ### The checks of a link word, in turn (R348, R349) -/

section
variable {k : BitVec 8} {f : AccFmt} {gs gw gt : GReg} {i : Instr} {kind : Option AccFmt}

/-- Both link words are one word, with and without a reduction. -/
theorem exec_link (h : (i = .lksend k gs gw gt ∧ kind = none) ∨ (i = .lkred k f gs gw gt ∧ kind = some f)) (s : State) :
    exec i s = linkWord k kind gs gw gt s := by
  obtain ⟨rfl, rfl⟩ | ⟨rfl, rfl⟩ := h
  · rfl
  · rfl

end

/-- A link word keeps R348 and its task has a process-group table. -/
def LinkLegal (w : Word) (t : Task) : Prop :=
  fieldOf w 61 3 = 0 ∧ 4 ≤ fieldOf w 21 17 ∧ fieldOf w 21 17 ≤ 32768 ∧ 4 ∣ fieldOf w 21 17 ∧ vaField t.td 4 ≠ 0

theorem linkLegal_iff (w : Word) (t : Task) :
    (!linkWordOk w || decide (vaField t.td 4 = 0)) = false ↔ LinkLegal w t := by
  unfold LinkLegal linkWordOk linkLen
  simp only [Bool.or_eq_false_iff, Bool.not_eq_false', Bool.and_eq_true, decide_eq_true_eq, decide_eq_false_iff_not,
    Nat.dvd_iff_mod_eq_zero, and_assoc, ne_eq]

/-- A link word enters on a core-task of a task. -/
structure LinkEnters (s : State) (k : BitVec 8) (c : CoreTask) (t : Task) : Prop where
  enters : s.Enters (cOnly k) c
  task : (s.withCur c).task? s.cur.slot = some t

/-- It keeps R348 and reads the process-group table of its task. -/
structure LinkReads (s : State) (k : BitVec 8) (gw : GReg) (c : CoreTask) (t : Task) (g : Pgt) : Prop extends
    LinkEnters s k c t where
  legal : LinkLegal (c.seqC.rd gw) t
  table : (s.withCur c).readPgt t.ctx (vaField t.td 4) = .ok g

section
variable {k : BitVec 8} {kind : Option AccFmt} {gs gw gt : GReg} {s : State} {c : CoreTask} {t : Task} {g : Pgt}

theorem linkWord_illegal (h : LinkEnters s k c t) (hl : ¬LinkLegal (c.seqC.rd gw) t) :
    linkWord k kind gs gw gt s = .next (s.trapped c (trapOf .illegalField)) := by
  rw [← linkLegal_iff, Bool.not_eq_false] at hl
  rw [linkWord]
  exact runGlobal_trap h.enters (by simp only [State.withCur_cur, h.task, hl, if_true])

/-- What a link word on device `s` answers once it has read its table, check by check (R349). -/
def linkRest (kind : Option AccFmt) (src n : Nat) (w : Word) (waddr : BitVec 32) (t : Task) (g : Pgt) (s : State) : Res State :=
  if g.size < linkPrank w then .trap (trapOf .illegalField)
  else if src % 4 ≠ 0 ∨ linkDaddr w % 4 ≠ 0 then .trap (trapOf .align)
  else if scratchTop < src + linkLen w ∨ scratchTop < linkDaddr w + linkLen w then .trap (trapOf .lsaRange)
  else if !s.r.featw0.getLsbD 4 then .trap (trapOf .linkMiss)
  else if s.linkTick + 64 < n then .wait s .plain
  else linkSend kind src w n t.id t.pgrank g ((s.notePgt t.ctx (vaField t.td 4)).clearWord s.cur.slot s.cur.rank 0 waddr)

theorem LinkReads.body (h : LinkReads s k gw c t g) : ∃ body, linkWord k kind gs gw gt s = runGlobal (cOnly k) body s ∧
    body (s.withCur c) c = linkRest kind (c.seqC.rd gs).toNat (c.seqC.rd gt).toNat (c.seqC.rd gw) c.seqC.pc t g (s.withCur c) := by
  refine ⟨_, rfl, ?_⟩
  have hl := (linkLegal_iff ..).mpr h.legal
  have ht : (s.withCur c).task? (s.withCur c).cur.slot = some t := by rw [State.withCur_cur]; exact h.task
  simp only [ht, hl, Bool.false_eq_true, if_false, h.table]
  rfl

/-- A fault of a link word that has read its table. -/
theorem LinkReads.exec_trap {tr : Trap} (h : LinkReads s k gw c t g)
    (hb : linkRest kind (c.seqC.rd gs).toNat (c.seqC.rd gt).toNat (c.seqC.rd gw) c.seqC.pc t g (s.withCur c) = .trap tr) :
    linkWord k kind gs gw gt s = .next (s.trapped c tr) := by
  obtain ⟨body, hx, hbody⟩ := h.body (kind := kind) (gs := gs) (gt := gt)
  rw [hx, runGlobal_trap h.enters (hbody.trans hb)]

theorem LinkReads.exec_rank (h : LinkReads s k gw c t g) (hr : g.size < fieldOf (c.seqC.rd gw) 57 4) :
    linkWord k kind gs gw gt s = .next (s.trapped c (trapOf .illegalField)) := h.exec_trap (if_pos hr)

theorem LinkReads.exec_align (h : LinkReads s k gw c t g) (hr : fieldOf (c.seqC.rd gw) 57 4 ≤ g.size)
    (ha : ¬(4 ∣ (c.seqC.rd gs).toNat ∧ 4 ∣ fieldOf (c.seqC.rd gw) 0 21)) :
    linkWord k kind gs gw gt s = .next (s.trapped c (trapOf .align)) := by
  refine h.exec_trap ((if_neg (Nat.not_lt.mpr hr)).trans (if_pos ?_))
  unfold linkDaddr
  omega

/-- The word's own rank, alignment and both ranges are in order. -/
structure LinkFields (gs gw : GReg) (c : CoreTask) (g : Pgt) : Prop where
  rank : fieldOf (c.seqC.rd gw) 57 4 ≤ g.size
  src : 4 ∣ (c.seqC.rd gs).toNat
  dst : 4 ∣ fieldOf (c.seqC.rd gw) 0 21
  srcEnd : (c.seqC.rd gs).toNat + fieldOf (c.seqC.rd gw) 21 17 ≤ 0x180000
  dstEnd : fieldOf (c.seqC.rd gw) 0 21 + fieldOf (c.seqC.rd gw) 21 17 ≤ 0x180000

theorem LinkReads.exec_range (h : LinkReads s k gw c t g) (hr : fieldOf (c.seqC.rd gw) 57 4 ≤ g.size)
    (hs : 4 ∣ (c.seqC.rd gs).toNat) (hd : 4 ∣ fieldOf (c.seqC.rd gw) 0 21)
    (ha : 0x180000 < (c.seqC.rd gs).toNat + fieldOf (c.seqC.rd gw) 21 17 ∨
      0x180000 < fieldOf (c.seqC.rd gw) 0 21 + fieldOf (c.seqC.rd gw) 21 17) :
    linkWord k kind gs gw gt s = .next (s.trapped c (trapOf .lsaRange)) := by
  refine h.exec_trap ((if_neg (Nat.not_lt.mpr hr)).trans ((if_neg ?_).trans (if_pos ha)))
  unfold linkDaddr
  omega

/-- Past its fields a link word depends on FEATW0.LINK, on its tick and on its release. -/
theorem LinkFields.rest (h : LinkFields gs gw c g) (n : Nat) (waddr : BitVec 32) (s : State) :
    linkRest kind (c.seqC.rd gs).toNat n (c.seqC.rd gw) waddr t g s =
      if !s.r.featw0.getLsbD 4 then .trap (trapOf .linkMiss)
      else if s.linkTick + 64 < n then .wait s .plain
      else linkSend kind (c.seqC.rd gs).toNat (c.seqC.rd gw) n t.id t.pgrank g
        ((s.notePgt t.ctx (vaField t.td 4)).clearWord s.cur.slot s.cur.rank 0 waddr) := by
  obtain ⟨hr, hs, hd, hse, hde⟩ := h
  have ha : ¬((c.seqC.rd gs).toNat % 4 ≠ 0 ∨ linkDaddr (c.seqC.rd gw) % 4 ≠ 0) := by unfold linkDaddr; omega
  have hrange : ¬(scratchTop < (c.seqC.rd gs).toNat + linkLen (c.seqC.rd gw) ∨
      scratchTop < linkDaddr (c.seqC.rd gw) + linkLen (c.seqC.rd gw)) :=
    not_or.mpr ⟨Nat.not_lt.mpr hse, Nat.not_lt.mpr hde⟩
  have hrank : ¬g.size < linkPrank (c.seqC.rd gw) := Nat.not_lt.mpr hr
  rw [linkRest, if_neg hrank, if_neg ha, if_neg hrange]

theorem LinkReads.exec_off (h : LinkReads s k gw c t g) (hf : LinkFields gs gw c g) (hl : s.r.featw0.getLsbD 4 = false) :
    linkWord k kind gs gw gt s = .next (s.trapped c (trapOf .linkMiss)) := by
  refine h.exec_trap ((hf.rest ..).trans (if_pos ?_))
  rw [State.withCur, State.putCt_r, hl]
  rfl

theorem LinkReads.exec_early (h : LinkReads s k gw c t g) (hf : LinkFields gs gw c g) (hl : s.r.featw0.getLsbD 4 = true)
    (he : s.dtime / 256 + 64 < (c.seqC.rd gt).toNat) :
    linkWord k kind gs gw gt s = .next (s.waitsIn (s.withCur c) .plain) := by
  obtain ⟨body, hx, hbody⟩ := h.body (kind := kind) (gs := gs) (gt := gt)
  rw [hx]
  refine runGlobal_wait h.enters (hbody.trans ((hf.rest ..).trans ((if_neg ?_).trans (if_pos ?_))))
  · rw [State.withCur, State.putCt_r, hl]
    decide
  · rw [State.linkTick, State.withCur, State.putCt_dtime]
    exact he

/-- The device of a link word that has read its table. -/
def State.linkRead (s : State) (c : CoreTask) (t : Task) : State :=
  ((s.withCur c).notePgt t.ctx (vaField t.td 4)).clearWord s.cur.slot s.cur.rank 0 c.seqC.pc

@[simp] theorem State.linkRead_cur (s : State) (c : CoreTask) (t : Task) : (s.linkRead c t).cur = s.cur := by
  simp [State.linkRead]

/-- A link word whose release is met hands its bytes over, as its core sees them (R193, R201, R349). -/
theorem LinkReads.exec_sends {s1 : State} {c1 c2 : CoreTask} (h : LinkReads s k gw c t g) (hf : LinkFields gs gw c g)
    (hl : s.r.featw0.getLsbD 4 = true) (he : (c.seqC.rd gt).toNat ≤ s.dtime / 256 + 64)
    (hrel : (s.linkRead c t).testRelease s.cur .sys = .ready s1) (hc : s1.ct? s.cur.slot s.cur.rank = some c1)
    (hread : (c1.updSeq .c Seq.release).localRead s1.raceOn (agentId s.cur.slot s.cur.rank 0)
      (c1.updSeq .c Seq.release).seqC.stamp (granules (c.seqC.rd gs).toNat (fieldOf (c.seqC.rd gw) 21 17)) = .inr c2) :
    linkWord k kind gs gw gt s = .next (((s1.putCt s.cur.slot s.cur.rank c2).handOver s.cur.slot s.cur.rank {
      tick := (c.seqC.rd gt).toNat, id := t.id, rank := s.cur.rank, waddr := c1.seqC.pc, word := c.seqC.rd gw,
      link := g.links.getD (fieldOf (c.seqC.rd gw) 57 4) 0, kind := kind, pgrank := t.pgrank,
      bytes := c2.seen s1.tick c2.core c2.seqC.stamp (c.seqC.rd gs).toNat (fieldOf (c.seqC.rd gw) 21 17) }).goesOn
        s.cur (cOnly k) none) := by
  obtain ⟨body, hx, hbody⟩ := h.body (kind := kind) (gs := gs) (gt := gt)
  rw [hx]
  have hcur : s1.cur = s.cur := (State.testRelease_cur hrel).trans (State.linkRead_cur s c t)
  refine runGlobal_done h.enters (hbody.trans ((hf.rest ..).trans ((if_neg ?_).trans ((if_neg ?_).trans ?_))))
  · rw [State.withCur, State.putCt_r, hl]
    decide
  · rw [State.linkTick, State.withCur, State.putCt_dtime]
    exact Nat.not_lt.mpr he
  · rw [State.withCur_cur]
    refine (afterRelease_ready (s := s.linkRead c t) (by rw [State.linkRead_cur]; exact hrel)
      (by rw [State.linkRead_cur]; exact hc)).trans ?_
    rw [hcur]
    simp only [linkLen, linkPrank, hread]

end

/-! ### The hand-over (R349, log 26) -/

section
variable {s : State} {x : Transfer}

theorem State.handOver_admits (slot rank : Nat) (ht : s.dtime < x.tick * 256)
    (hn : Tab.get 0 s.ports.admitted x.tick + x.bytes.length ≤ 32768) : s.handOver slot rank x =
      if Config.clockError s.tick then s.raiseLink slot rank 0 (trapOf .linkMiss) x.waddr
      else { s with ports := { s.ports with
        admitted := Tab.set 0 s.ports.admitted x.tick (Tab.get 0 s.ports.admitted x.tick + x.bytes.length),
        out := s.ports.out ++ [x] } } := by
  simp [State.handOver, Nat.not_le.mpr ht, Nat.not_lt.mpr hn]

theorem State.handOver_misses (slot rank : Nat)
    (h : x.tick * 256 ≤ s.dtime ∨ 32768 < Tab.get 0 s.ports.admitted x.tick + x.bytes.length) :
    s.handOver slot rank x = s.raiseLink slot rank 0 (trapOf .linkMiss) x.waddr :=
  if_pos (h.imp_right .inl)

end

/-! ### The start of a link tick (R312) -/

theorem State.raiseLink_ports (s : State) (slot rank kind : Nat) (t : Trap) (waddr : BitVec 32) :
    (s.raiseLink slot rank kind t waddr).ports = s.ports := State.updCt_ports ..

theorem State.sendPeer_out (s : State) (x : PeerPacket) : (s.sendPeer x).ports.out = s.ports.out := by
  unfold State.sendPeer
  split <;> rfl

theorem State.tellSender_out (s : State) (d : Inside) (code : Code) : (s.tellSender d code).ports.out = s.ports.out := by
  unfold State.tellSender
  split
  · split
    · rw [State.raiseLink_ports]
    · rfl
  · exact State.sendPeer_out ..

theorem State.depart_out (s : State) (x : Transfer) : (s.depart x).ports.out = s.ports.out := by
  unfold State.depart
  dsimp only
  split
  · rfl
  · split
    · exact State.tellSender_out ..
    · exact State.sendPeer_out ..

theorem State.foldl_depart_out (xs : List Transfer) (s : State) : (xs.foldl State.depart s).ports.out = s.ports.out :=
  foldl_keeps (·.ports.out) State.depart_out xs s

/-- Transfers to other devices leave through a trained port in their order. -/
theorem State.foldl_depart_away {s : State} (hp : s.ports.peer = true) {xs : List Transfer}
    (h : ∀ y ∈ xs, fieldOf y.word 57 4 ≠ y.pgrank) : xs.foldl State.depart s = { s with ports := { s.ports with
      sent := s.ports.sent ++ xs.map (fun y => .data y.link (y.packet s.ports.base)) } } := by
  induction xs generalizing s with
  | nil => simp
  | cons y xs ih =>
    have hy : s.depart y = { s with ports := { s.ports with
        sent := s.ports.sent ++ [.data y.link (y.packet s.ports.base)] } } := by
      simp [State.depart, linkPrank, h y List.mem_cons_self, hp, State.sendPeer]
    rw [List.foldl_cons, hy, ih (by exact hp) fun z hz => h z (List.mem_cons_of_mem _ hz)]
    simp

/-- Transfers to the device's own rank turn round inside in their order. -/
theorem State.foldl_depart_home {s : State} {xs : List Transfer} (h : ∀ y ∈ xs, fieldOf y.word 57 4 = y.pgrank) :
    xs.foldl State.depart s = { s with ports := { s.ports with inside := s.ports.inside ++ xs.map (fun y =>
      { src := some (y.id, y.rank, y.waddr), p := y.packet s.ports.base }) } } := by
  induction xs generalizing s with
  | nil => simp
  | cons y xs ih =>
    have hy : s.depart y = { s with ports := { s.ports with inside := s.ports.inside ++
        [{ src := some (y.id, y.rank, y.waddr), p := y.packet s.ports.base }] } } :=
      if_pos (h y List.mem_cons_self)
    rw [List.foldl_cons, hy, ih fun z hz => h z (List.mem_cons_of_mem _ hz)]
    simp

/-- The least of equal ticks. -/
theorem head_sortBy_const {le : Nat → Nat → Bool} {n : Nat} {l : List Nat} (hl : l ≠ []) (h : ∀ m ∈ l, m = n) :
    (sortBy le l).head? = some n := by
  obtain ⟨m, hm⟩ := List.exists_mem_of_ne_nil l hl
  obtain ⟨y, ys, hs⟩ := List.exists_cons_of_ne_nil (List.ne_nil_of_mem ((mem_sortBy le m l).mpr hm))
  have hy : y ∈ l := (mem_sortBy le y l).mp (hs ▸ List.mem_cons_self)
  rw [hs, List.head?_cons, h y hy]

/-- The tick of transfers that are all admitted for it: before it begins nothing leaves, then all do. -/
theorem exec_linkTickDeparture_one {s : State} {x : Transfer} {xs : List Transfer} (ho : s.ports.out = x :: xs)
    (h : ∀ y ∈ xs, y.tick = x.tick) : exec .linkTickDeparture s =
      if s.dtime < 256 * x.tick then .next s
      else .next ((x :: xs).foldl State.depart { s with ports := { s.ports with
        out := [], admitted := Tab.set 0 s.ports.admitted x.tick 0 } }) := by
  have hall : ∀ y ∈ x :: xs, y.tick = x.tick := List.forall_mem_cons.mpr ⟨rfl, h⟩
  have hhead : (sortBy (fun a b => decide (a ≤ b)) ((x :: xs).map (·.tick))).head? = some x.tick :=
    head_sortBy_const (by simp) (List.forall_mem_map.mpr hall)
  have hmine : (x :: xs).filter (fun y => decide (y.tick = x.tick)) = x :: xs :=
    List.filter_eq_self.mpr fun y hy => by simp [hall y hy]
  have hrest : (x :: xs).filter (fun y => decide (y.tick ≠ x.tick)) = [] :=
    List.filter_eq_nil_iff.mpr fun y hy => by simp [hall y hy]
  simp only [exec_linkTickDeparture, execLinkTickDeparture, ho, hhead, hmine, hrest]
  rfl

end Sys2Proof.Machine
end

section
/-! Deliveries (R219, R350): the bytes that a delivery leaves, element by element, its barrier and its semaphore, and the
task that it reaches. -/

namespace Sys2Proof.Machine

/-! ### Element by element (R219) -/

/-- Two lists of bytes combined element by element; an element has `n` bytes. -/
def elementwise (n : Nat) (f : Nat → Nat → Nat) (old new : List Byte) : List Byte :=
  ((chunksOf n old.length old).zip (chunksOf n new.length new)).flatMap (fun p => leBytes n (f (leNat p.1) (leNat p.2)))

theorem chunksOf_cons {α : Type} {n k : Nat} {l : List α} (hl : l ≠ []) :
    chunksOf n (k + 1) l = l.take n :: chunksOf n k (l.drop n) := by
  cases l with
  | nil => exact absurd rfl hl
  | cons a l => rfl

/-- The `i`-th piece of a list. -/
theorem chunksOf_getElem? {α : Type} {n : Nat} (hn : 0 < n) {i k : Nat} {l : List α}
    (hi : n * i + n ≤ l.length) (hk : i < k) :
    (chunksOf n k l)[i]? = some ((l.drop (n * i)).take n) := by
  induction i generalizing k l with
  | zero =>
    obtain ⟨k, rfl⟩ := Nat.exists_eq_add_of_lt hk
    have hl : l ≠ [] := List.ne_nil_of_length_pos (by omega)
    rw [Nat.zero_add, chunksOf_cons hl]
    simp
  | succ i ih =>
    obtain ⟨k, rfl⟩ : ∃ m, k = m + 1 := ⟨k - 1, by omega⟩
    have hmul : n * (i + 1) = n + n * i := by ring
    have hl : l ≠ [] := List.ne_nil_of_length_pos (by omega)
    rw [chunksOf_cons hl, List.getElem?_cons_succ, ih (by rw [List.length_drop]; omega) (by omega), List.drop_drop, hmul]

/-- Pieces of one length, put together, are found again. -/
theorem chunk_flatMap {α β : Type} {n : Nat} {f : α → List β} (hf : ∀ a, (f a).length = n) {i : Nat} {l : List α} {a : α}
    (h : l[i]? = some a) : ((l.flatMap f).drop (n * i)).take n = f a := by
  induction i generalizing l with
  | zero =>
    cases l with
    | nil => cases h
    | cons b l =>
      cases h
      simp [hf]
  | succ i ih =>
    cases l with
    | nil => cases h
    | cons b l =>
      have hmul : n * (i + 1) = n + n * i := by ring
      rw [List.flatMap_cons, hmul, ← List.drop_drop, List.drop_left' (hf b)]
      exact ih h

theorem length_flatMap_const {α β : Type} {n : Nat} {f : α → List β} (hf : ∀ a, (f a).length = n) (l : List α) :
    (l.flatMap f).length = n * l.length := by
  simp [List.length_flatMap, hf, Nat.mul_comm]

theorem chunksOf_length {α : Type} {n : Nat} (hn : 0 < n) (m : Nat) {k : Nat} {l : List α}
    (hl : l.length = n * m) (hk : m ≤ k) :
    (chunksOf n k l).length = m := by
  induction m generalizing k l with
  | zero =>
    obtain rfl : l = [] := List.eq_nil_of_length_eq_zero (by simpa using hl)
    cases k <;> rfl
  | succ m ih =>
    obtain ⟨k, rfl⟩ : ∃ j, k = j + 1 := ⟨k - 1, by omega⟩
    have hmul : n * (m + 1) = n + n * m := by ring
    have hne : l ≠ [] := List.ne_nil_of_length_pos (by omega)
    rw [chunksOf_cons hne, List.length_cons, ih (by rw [List.length_drop]; omega) (by omega)]

theorem elementwise_length {n : Nat} (hn : 0 < n) (f : Nat → Nat → Nat) {old new : List Byte} (h : old.length = new.length)
    (hd : n ∣ new.length) : (elementwise n f old new).length = new.length := by
  obtain ⟨m, hm⟩ := hd
  have hle : m ≤ n * m := Nat.le_mul_of_pos_left m hn
  have ho := chunksOf_length hn m (h.trans hm) (k := old.length) (by omega)
  have hne := chunksOf_length hn m hm (k := new.length) (by omega)
  rw [elementwise, length_flatMap_const (fun _ => leBytes_length ..), List.length_zip, ho, hne, Nat.min_self, hm]

/-- The `i`-th element of the result is made of the `i`-th elements of both. -/
theorem elementwise_chunk {n : Nat} (hn : 0 < n) (f : Nat → Nat → Nat) {old new : List Byte} {i : Nat}
    (ho : n * i + n ≤ old.length) (h : n * i + n ≤ new.length) :
    ((elementwise n f old new).drop (n * i)).take n =
      leBytes n (f (leNat ((old.drop (n * i)).take n)) (leNat ((new.drop (n * i)).take n))) := by
  have hle : i ≤ n * i := Nat.le_mul_of_pos_left i hn
  refine chunk_flatMap (f := fun p => leBytes n (f (leNat p.1) (leNat p.2)))
    (a := ((old.drop (n * i)).take n, (new.drop (n * i)).take n)) (fun _ => leBytes_length ..)
    (List.getElem?_zip_eq_some.mpr ⟨?_, ?_⟩)
  · exact chunksOf_getElem? hn ho (by omega)
  · exact chunksOf_getElem? hn h (by omega)

/-! ### The bytes that a delivery leaves (R219, R350) -/

theorem LinkPacket.result_copy (old new : List Byte) : LinkPacket.result none old new = new := rfl

theorem LinkPacket.result_bf16 (old new : List Byte) : LinkPacket.result (some .bf16) old new =
    elementwise 2 (fun x y => roundTo .bf16 .rne false ((valOf .bf16 x).add .rne (valOf .bf16 y))) old new := rfl

theorem LinkPacket.result_word {f : AccFmt} (hf : f ≠ .bf16) (old new : List Byte) : LinkPacket.result (some f) old new =
    elementwise 4 (fun x y => (accAdd f (BitVec.ofNat 32 x) (BitVec.ofNat 32 y)).toNat) old new := by
  cases f with
  | bf16 => exact absurd rfl hf
  | f32 | i32 => rfl

theorem LinkPacket.result_length (kind : Option AccFmt) {old new : List Byte} (h : old.length = new.length)
    (hd : 4 ∣ new.length) :
    (LinkPacket.result kind old new).length = new.length := by
  cases kind with
  | none => rfl
  | some f =>
    by_cases hf : f = .bf16
    · rw [hf, LinkPacket.result_bf16]
      exact elementwise_length (by decide) _ h (Nat.dvd_trans (by decide) hd)
    · rw [LinkPacket.result_word hf]
      exact elementwise_length (by decide) _ h hd

/-! ### Reads of the scratchpad -/

theorem CoreTask.readLocal_length {c : CoreTask} (hw : Tab.wf 0 c.scratch = true) (a n : Nat) :
    (c.readLocal a n).length = n := by
  rw [CoreTask.readLocal, sliceN_eq_readN 0 _ _ _ hw, readN_length]

/-- A part of a read is a read. -/
theorem CoreTask.readLocal_part {c : CoreTask} (hw : Tab.wf 0 c.scratch = true) {a n i j : Nat} (h : i + j ≤ n) :
    ((c.readLocal a n).drop i).take j = c.readLocal (a + i) j := by
  simp only [CoreTask.readLocal, sliceN_eq_readN 0 _ _ _ hw]
  apply List.ext_getElem
  · simp; omega
  · intro k hk _
    simp [readN, Nat.add_assoc]

/-- A read inside a range that has been written gives what was written there. -/
theorem CoreTask.readLocal_writeLocal {c : CoreTask} (hw : Tab.wf 0 c.scratch = true) (a : Nat) {bs : List Byte} {i j : Nat}
    (h : i + j ≤ bs.length) : (c.writeLocal a bs).readLocal (a + i) j = (bs.drop i).take j := by
  rw [CoreTask.readLocal, sliceN_eq_readN 0 _ _ _ (writeLocal_wf a bs hw)]
  apply List.ext_getElem
  · simp; omega
  · intro k hk _
    have hk' : k < j := by simpa using hk
    have hin : a ≤ a + i + k ∧ a + i + k < a + bs.length := by omega
    have hoff : a + i + k - a = i + k := by omega
    have hget := get_writeLocal c a bs (a + i + k)
    rw [dif_pos hin] at hget
    simpa [readN, hoff] using hget

/-! ### A delivery at its core-task (R350) -/

/-- The data of a delivery are applied. -/
def CoreTask.takeData (c : CoreTask) (p : LinkPacket) : CoreTask :=
  c.writeLocal (fieldOf p.word 0 21) (LinkPacket.result p.kind (c.readLocal (fieldOf p.word 0 21) p.bytes.length) p.bytes)

section
variable {c : CoreTask} {p : LinkPacket} (hw : Tab.wf 0 c.scratch = true) (hd : 4 ∣ p.bytes.length)
include hw hd

theorem CoreTask.takeData_length :
    (LinkPacket.result p.kind (c.readLocal (fieldOf p.word 0 21) p.bytes.length) p.bytes).length = p.bytes.length :=
  LinkPacket.result_length p.kind (CoreTask.readLocal_length hw ..) hd

theorem CoreTask.takeData_outside {b : Nat} (h : b < fieldOf p.word 0 21 ∨ fieldOf p.word 0 21 + p.bytes.length ≤ b) :
    Tab.get 0 (c.takeData p).scratch b = Tab.get 0 c.scratch b := by
  have hl := CoreTask.takeData_length hw hd
  exact (get_writeLocal ..).trans (dif_neg (by omega))

omit hw hd in
theorem CoreTask.takeData_copy (hk : p.kind = none) {i : Nat} (hi : i < p.bytes.length) :
    Tab.get 0 (c.takeData p).scratch (fieldOf p.word 0 21 + i) = p.bytes.getD i 0 := by
  rw [CoreTask.takeData, hk, LinkPacket.result_copy, get_writeLocal, dif_pos (by omega),
    List.getD_eq_getElem _ _ hi]
  simp

theorem CoreTask.takeData_bf16 (hk : p.kind = some .bf16) {i : Nat} (hi : 2 * i + 2 ≤ p.bytes.length) :
    leNat ((c.takeData p).readLocal (fieldOf p.word 0 21 + 2 * i) 2) =
      roundTo .bf16 .rne false ((valOf .bf16 (leNat (c.readLocal (fieldOf p.word 0 21 + 2 * i) 2))).add .rne
        (valOf .bf16 (leNat ((p.bytes.drop (2 * i)).take 2)))) % 2 ^ 16 := by
  have hl := CoreTask.takeData_length hw hd
  rw [hk] at hl
  have ho := CoreTask.readLocal_length hw (fieldOf p.word 0 21) p.bytes.length
  rw [CoreTask.takeData, hk, CoreTask.readLocal_writeLocal hw _ (by omega), LinkPacket.result_bf16,
    elementwise_chunk (by decide) _ (by omega) hi, leNat_leBytes, CoreTask.readLocal_part hw hi]
  rfl

theorem CoreTask.takeData_word {f : AccFmt} (hk : p.kind = some f) (hf : f ≠ .bf16) {i : Nat}
    (hi : 4 * i + 4 ≤ p.bytes.length) : leNat ((c.takeData p).readLocal (fieldOf p.word 0 21 + 4 * i) 4) =
      (accAdd f (BitVec.ofNat 32 (leNat (c.readLocal (fieldOf p.word 0 21 + 4 * i) 4)))
        (BitVec.ofNat 32 (leNat ((p.bytes.drop (4 * i)).take 4)))).toNat := by
  have hl := CoreTask.takeData_length hw hd
  rw [hk] at hl
  have ho := CoreTask.readLocal_length hw (fieldOf p.word 0 21) p.bytes.length
  rw [CoreTask.takeData, hk, CoreTask.readLocal_writeLocal hw _ (by omega), LinkPacket.result_word hf,
    elementwise_chunk (by decide) _ (by omega) hi, leNat_leBytes, CoreTask.readLocal_part hw hi]
  exact Nat.mod_eq_of_lt (BitVec.isLt _)

end

/-- The barrier of a delivery takes the number of its bytes, or overflows. -/
def CoreTask.takeBar (c : CoreTask) (p : LinkPacket) : CoreTask × Option Code :=
  match linkBar p.word with
  | none => (c, none)
  | some n =>
    match ({ c with lkStamp := c.lkStamp + 1 } : CoreTask).changeBar n (-(p.bytes.length : Int)) (some (c.lkStamp + 1)) with
    | some c' => (c', none)
    | none => ({ c with lkStamp := c.lkStamp + 1 }, some .barOverflow)

/-- The semaphore of a delivery is signalled, or overflows. -/
def CoreTask.takeSem (c : CoreTask) (p : LinkPacket) (shared : Bool) : CoreTask × Option Code :=
  if fieldOf p.word 45 8 = 0 then (c, none)
  else match ({ c with lkStamp := c.lkStamp + 1 } : CoreTask).signal (fieldOf p.word 45 8) 1 (c.lkStamp + 1) shared with
    | some c' => (c', none)
    | none => ({ c with lkStamp := c.lkStamp + 1 }, some .semOverflow)

/-- What a change of the barriers and of the stamp of the link unit leaves. -/
def CoreTask.apartBars (c : CoreTask) : CoreTask := { c with bars := [], lkStamp := 0 }

section
variable (c : CoreTask) (p : LinkPacket)

theorem CoreTask.takeBar_apart : (c.takeBar p).1.apartBars = c.apartBars := by
  unfold CoreTask.takeBar CoreTask.changeBar
  split
  · rfl
  · split
    · next h =>
      obtain ⟨b, -, rfl⟩ := Option.map_eq_some_iff.mp h
      rfl
    · rfl

variable {c p}

theorem CoreTask.takeBar_off (h : p.word.getLsbD 44 = false) : c.takeBar p = (c, none) := by
  have hb : linkBar p.word = none := if_neg (by rw [h]; decide)
  rw [CoreTask.takeBar, hb]

theorem CoreTask.takeBar_on {b : Bar} (h : p.word.getLsbD 44 = true)
    (hb : (Tab.get Bar.zero c.bars (fieldOf p.word 38 6)).change (-(p.bytes.length : Int)) (some (c.lkStamp + 1)) = some b) :
    c.takeBar p = ({ c with lkStamp := c.lkStamp + 1, bars := Tab.set Bar.zero c.bars (fieldOf p.word 38 6) b }, none) := by
  simp only [CoreTask.takeBar, linkBar, h, if_true, CoreTask.changeBar, hb, Option.map_some]

theorem CoreTask.takeBar_overflow (h : p.word.getLsbD 44 = true)
    (hb : (Tab.get Bar.zero c.bars (fieldOf p.word 38 6)).change (-(p.bytes.length : Int)) (some (c.lkStamp + 1)) = none) :
    c.takeBar p = ({ c with lkStamp := c.lkStamp + 1 }, some .barOverflow) := by
  simp only [CoreTask.takeBar, linkBar, h, if_true, CoreTask.changeBar, hb, Option.map_none]

theorem CoreTask.takeSem_off (shared : Bool) (h : fieldOf p.word 45 8 = 0) : c.takeSem p shared = (c, none) := if_pos h

theorem CoreTask.takeSem_on {shared : Bool} {c' : CoreTask} (h : fieldOf p.word 45 8 ≠ 0)
    (hs : CoreTask.signal { c with lkStamp := c.lkStamp + 1 } (fieldOf p.word 45 8) 1 (c.lkStamp + 1) shared = some c') :
    c.takeSem p shared = (c', none) := by
  simp only [CoreTask.takeSem, h, if_false, hs]

end

/-- The core-task that a delivery finds at the stamp `st`, with the records of its write. -/
def CoreTask.linkStart (c : CoreTask) (rank slot : Nat) (st : Stamp) (p : LinkPacket) : CoreTask :=
  { c with
    lkStamp := st,
    scratchRaces := updRecs (granules (fieldOf p.word 0 21) p.bytes.length)
      (fun r b => r.afterWrite b (agentId slot rank 6) st p.kind.isSome) c.scratchRaces }

/-- Without race checks a delivery's data, barrier and semaphore are applied as one unit. -/
theorem State.applyPacket_eq {s : State} {slot rank : Nat} {c : CoreTask} {p : LinkPacket} (hc : s.ct? slot rank = some c)
    (hr : s.raceOn = false) : s.applyPacket slot rank p =
      let bar := ((c.linkStart rank slot (s.m.h + 1) p).takeData p).takeBar p
      let sem := bar.1.takeSem p (Config.sameCycle s.tick)
      (s.putCt slot rank sem.1, match bar.2 with | some e => some e | none => sem.2) := by
  simp only [State.applyPacket, hc, hr, CoreTask.localWrite, raceTrap_off]
  rfl

end Sys2Proof.Machine
end

section
/-! The link receive unit and the remote submissions (R219, R237, R350): the task that a delivery reaches, the fault that goes
to its sender, and the packets that answer a submission. -/

namespace Sys2Proof.Machine

/-! ### The core-task after a delivery (R350) -/

theorem State.ct_putCt_self {s : State} {slot rank : Nat} {c : CoreTask} (c' : CoreTask) (h : s.ct? slot rank = some c) :
    (s.putCt slot rank c').ct? slot rank = some c' := by
  obtain ⟨t, ht, -⟩ := Option.bind_eq_some_iff.mp h
  rw [State.ct_putCt, if_pos ⟨rfl, rfl⟩, ht]
  rfl

theorem State.sendPeer_ct (s : State) (x : PeerPacket) (slot rank : Nat) : (s.sendPeer x).ct? slot rank = s.ct? slot rank := by
  unfold State.ct? State.task?
  rw [State.sendPeer_tasks]

theorem State.sendPeer_trained {s : State} (h : s.ports.peer = true) (x : PeerPacket) :
    s.sendPeer x = { s with ports := { s.ports with sent := s.ports.sent ++ [x] } } := if_pos h

section
variable {s : State} {p : LinkPacket}

/-- A delivery from a peer that matches no task is dropped with LINK-MISS at its sender. -/
theorem exec_linkDelivery_dropped (hp : s.ports.peer = true) (h : s.matching p = none) :
    exec (.linkDelivery (.packet p)) s =
      .next { s with ports := { s.ports with sent := s.ports.sent ++ [.fault p .linkMiss] } } := by
  simp only [exec_linkDelivery, execLinkDelivery, hp, if_true, State.receive, h, State.dropDelivery, State.tellSender,
    State.sendPeer_trained hp]
  rfl

/-- The core-task of the delivery, once its data are applied. -/
def CoreTask.linkData (c : CoreTask) (rank slot : Nat) (st : Stamp) (p : LinkPacket) : CoreTask :=
  (c.linkStart rank slot st p).takeData p

/-- A delivery whose one task is here, and whose core-task runs, is applied to it. -/
theorem exec_linkDelivery_reaches {slot r : Nat} {t : Task} {c : CoreTask} (hp : s.ports.peer = true)
    (hm : s.matching p = some (slot, t, r)) (hv : s.migrating t = none) (hk : s.ports.marker = []) (hg : r < t.gang)
    (hc : t.ct? r = some c) :
    exec (.linkDelivery (.packet p)) s = .next (s.applyInside slot r { src := none, p := p }) := by
  have hfind : t.parts.find? (fun q => (find s.ports.marker (markerKey q p.senderBase)).isSome) = none := by
    rw [hk]
    exact List.find?_eq_none.mpr fun q _ => by simp [find]
  simp only [exec_linkDelivery, execLinkDelivery, hp, if_true, State.receive, hm, hv, hfind, State.reach, Nat.not_le.mpr hg,
    if_false, hc, Option.isSome_some]
  rfl

/-- What a delivery from a peer leaves: its core-task, and the packet of its fault. -/
theorem State.applyInside_peer {slot r : Nat} {c : CoreTask} (hp : s.ports.peer = true) (hc : s.ct? slot r = some c)
    (hr : s.raceOn = false) :
    let bar := (c.linkData r slot (s.m.h + 1) p).takeBar p
    let sem := bar.1.takeSem p (Config.sameCycle s.tick)
    let u := s.applyInside slot r { src := none, p := p }
    u.ct? slot r = some sem.1 ∧ (∀ e, bar.2 = some e → u.ports.sent = s.ports.sent ++ [.fault p e]) := by
  intro bar sem u
  have happ : s.applyPacket slot r p = (s.putCt slot r sem.1, match bar.2 with | some e => some e | none => sem.2) :=
    State.applyPacket_eq hc hr
  have hput : (s.putCt slot r sem.1).ct? slot r = some sem.1 := State.ct_putCt_self sem.1 hc
  have hsent (e : Code) : (s.putCt slot r sem.1).tellSender { src := none, p := p } e =
      (s.putCt slot r sem.1).sendPeer (.fault p e) := rfl
  cases hbar : bar.2 with
  | some e =>
    have hu : u = (s.putCt slot r sem.1).sendPeer (.fault p e) := by
      simp only [u, State.applyInside, happ, hbar, hsent]
    refine ⟨?_, ?_⟩
    · rw [hu, State.sendPeer_ct, hput]
    · rintro _ ⟨⟩
      rw [hu, State.sendPeer_trained (by rw [State.putCt_ports, hp]), State.putCt_ports]
  | none =>
    refine ⟨?_, nofun⟩
    cases hsem : sem.2 with
    | none =>
      have hu : u = s.putCt slot r sem.1 := by simp only [u, State.applyInside, happ, hbar, hsem]
      rw [hu, hput]
    | some e =>
      have hu : u = (s.putCt slot r sem.1).sendPeer (.fault p e) := by
        simp only [u, State.applyInside, happ, hbar, hsem, hsent]
      rw [hu, State.sendPeer_ct, hput]

end

theorem exec_linkDelivery_inside {s : State} {d : Inside} {ds : List Inside} (h : s.ports.inside = d :: ds) :
    exec (.linkDelivery .inside) s = .next ({ s with ports := { s.ports with inside := ds } }.receive false d) := by
  simp only [exec_linkDelivery, execLinkDelivery, h]
  rfl

theorem exec_linkDelivery_fault {s : State} {id : BitVec 32} {slot : Nat} {t : Task} (hp : s.ports.peer = true)
    (h : s.byId id = some (slot, t)) (rank : Nat) (w : BitVec 32) (f : LinkFault) :
    exec (.linkDelivery (.fault id rank w f)) s = .next (s.raiseLink slot rank 0 (trapOf (linkCode f)) w) := by
  simp only [exec_linkDelivery, execLinkDelivery, h, hp, if_true]
  rfl

/-! ### Its bytes, its barrier and its semaphore -/

/-- The barrier of a delivery changes at the second stamp after the device's (R202). -/
theorem CoreTask.linkData_change {c : CoreTask} {rank slot n : Nat} {h : Stamp} {p : LinkPacket} {d : Int} {b : Option Bar}
    (hb : (Tab.get Bar.zero c.bars n).change d (some (h + 2)) = b) :
    (Tab.get Bar.zero (c.linkData rank slot (h + 1) p).bars n).change d
      (some ((c.linkData rank slot (h + 1) p).lkStamp + 1)) = b := by
  have hst : (c.linkData rank slot (h + 1) p).lkStamp + 1 = h + 2 := BitVec.add_assoc h 1 1
  rw [hst]
  exact hb

section
variable (c : CoreTask) (p : LinkPacket)

theorem CoreTask.takeBar_scratch : (c.takeBar p).1.scratch = c.scratch :=
  (congrArg CoreTask.scratch (c.takeBar_apart p) :)

theorem CoreTask.takeBar_sems : (c.takeBar p).1.sems = c.sems :=
  (congrArg CoreTask.sems (c.takeBar_apart p) :)

theorem CoreTask.takeBar_readLocal (a n : Nat) : (c.takeBar p).1.readLocal a n = c.readLocal a n := by
  unfold CoreTask.readLocal
  rw [CoreTask.takeBar_scratch]

end

/-! ### Remote submissions (R237) -/

/-- The submitter of a remote submission has no privilege (log 25). -/
def remoteSub (ctx : Nat) : Submitter :=
  { ctx := ctx, priv := false, host := true, stream := none, job := none, multi := none }

/-- The job of a remote submission counts its task alone. -/
def remoteJob (base rank req ctx : Nat) : Job :=
  { count := 1, queue := none, remote := some (BitVec.ofNat 64 base, req), tag := 0, ctx := ctx,
    fq := Config.remoteFaultQueue base rank, htask := false, written := 0, waiting := [] }

/-- The answer to a remote submission leaves, and the packet counts no more at its quota. -/
def State.answersRemote (s : State) (base req : Nat) (a : RemoteAnswer) : State :=
  { s with ports := { s.ports with
    sent := s.ports.sent ++ [.answer (BitVec.ofNat 64 base) req a],
    counted := s.ports.counted.filter (fun x => decide (x ≠ (base, req))) } }

section
variable {s : State} {base rank req : Nat} {desc : List Byte} (hp : s.ports.peer = true) (hh : s.ports.host = true)
include hp hh

/-- A packet whose check answers is answered. -/
theorem exec_remoteSubmitPacket_answer {t : State} {a : RemoteAnswer}
    (h : s.takeRemote base rank (descWords desc) req = (t, some a)) :
    exec (.remoteSubmitPacket base rank desc req) s = .next (t.answersRemote base req a) := by
  simp only [exec_remoteSubmitPacket, execRemoteSubmitPacket, hp, hh, h]
  rfl

/-- A packet whose check does not answer waits. -/
theorem exec_remoteSubmitPacket_wait {t : State} (h : s.takeRemote base rank (descWords desc) req = (t, none)) :
    exec (.remoteSubmitPacket base rank desc req) s = .next t := by
  simp only [exec_remoteSubmitPacket, execRemoteSubmitPacket, hp, hh, h]
  rfl

end

section
variable {s : State} {base rank req : Nat} {td : List Word}

theorem State.takeRemote_waits (h : (s.plainWaits (.remote base req) (Config.remoteCtx base rank % 128)).isSome = true) :
    s.takeRemote base rank td req = (s, none) := if_pos h

variable {ctx : Nat} (hx : Config.remoteCtx base rank % 128 = ctx) (h : s.plainWaits (.remote base req) ctx = none)
include hx h

theorem State.takeRemote_refuse {n : Nat} {v : Word} (hc : s.checkSub td 0 (remoteSub ctx) = .refuse n v) :
    s.takeRemote base rank td req = ((s.plainDone (.remote base req)).noteSub td ctx, some (.refused n)) := by
  rw [remoteSub] at hc
  simp only [State.takeRemote, hx, h, hc, Option.isSome_none, Bool.false_eq_true, if_false]

theorem State.takeRemote_miss_refused {m : SubMiss} {n : Nat} {v : Word} (hc : s.checkSub td 0 (remoteSub ctx) = .miss m)
    (hm : s.subMiss (.remote base req) ctx m = .inl (n, v)) :
    s.takeRemote base rank td req = (s.plainDone (.remote base req), some (.refused n)) := by
  rw [remoteSub] at hc
  simp only [State.takeRemote, hx, h, hc, hm, Option.isSome_none, Bool.false_eq_true, if_false]

theorem State.takeRemote_miss_waits {m : SubMiss} {t : State} (hc : s.checkSub td 0 (remoteSub ctx) = .miss m)
    (hm : s.subMiss (.remote base req) ctx m = .inr t) : s.takeRemote base rank td req = (t, none) := by
  rw [remoteSub] at hc
  simp only [State.takeRemote, hx, h, hc, hm, Option.isSome_none, Bool.false_eq_true, if_false]

variable {img : Image} {futs : List Xl} (hc : s.checkSub td 0 (remoteSub ctx) = .ok img futs)
include hc

theorem State.takeRemote_quota (hq : s.quotaOk (s.ctxTenant ctx) td (s.unresolved futs).length = false) :
    s.takeRemote base rank td req = (if (base, req) ∈ s.ports.counted then s else { s with
      ports := { s.ports with counted := s.ports.counted ++ [(base, req)] } }.addThrot (s.ctxTenant ctx), none) := by
  rw [remoteSub] at hc
  simp only [State.takeRemote, hx, h, hc, hq, Option.isSome_none, Bool.false_eq_true, if_false, List.contains_iff_mem]
  split <;> rfl

theorem State.takeRemote_accepts (hq : s.quotaOk (s.ctxTenant ctx) td (s.unresolved futs).length = true) :
    let r := ((s.plainDone (.remote base req)).noteSub td ctx).accept td (remoteSub ctx) img futs
      (some (remoteJob base rank req ctx))
    s.takeRemote base rank td req = (r.1, some (.accepted r.2)) := by
  rw [remoteSub] at hc
  simp only [State.takeRemote, hx, h, hc, hq, Option.isSome_none, Bool.false_eq_true, if_false, if_true]
  rfl

end

/-! ### The answer at the sender and the job at the destination (R236, R237) -/

section
variable {s : State} {req job agent : Nat} (hp : s.ports.peer = true)
include hp

theorem exec_remoteAnswerPacket_none (h : find s.ports.reqs req = none) (a : RemoteAnswer) :
    exec (.remoteAnswerPacket req a) s = .next s := by
  simp only [exec_remoteAnswerPacket, execRemoteAnswerPacket, hp, if_true, h]
  rfl

theorem exec_remoteAnswerPacket_some (h : find s.ports.reqs req = some (job, agent)) (a : RemoteAnswer) :
    exec (.remoteAnswerPacket req a) s = .next (match a with
      | .refused n => (({ s with ports := { s.ports with reqs := Tab.del req s.ports.reqs } }).jobLess job false).answerTo
          agent req (-(BitVec.ofNat 64 n))
      | .accepted id => s.answerTo agent req (id.setWidth 64)
      | .retired => ({ s with ports := { s.ports with reqs := Tab.del req s.ports.reqs } }).jobLess job false) := by
  simp only [exec_remoteAnswerPacket, execRemoteAnswerPacket, hp, if_true, h]
  cases a with
  | refused n => rfl
  | accepted id => rfl
  | retired => rfl

end

theorem State.dropJob_ports (s : State) (j : Nat) : (s.dropJob j).ports = s.ports := by
  unfold State.dropJob
  split
  · split <;> rfl
  · rfl

theorem State.updJob_find {s : State} {j : Nat} {x : Job} (h : find s.jobs j = some x) (f : Job → Job) :
    s.updJob j f = { s with jobs := Tab.put j (f x) s.jobs } := by
  rw [State.updJob, h]

section
variable {s : State} {j req : Nat} {link : Word} {x : Job} (hj : find s.jobs j = some x) (hr : x.remote = some (link, req))
include hj hr

/-- The task of a remote submission ends: the packet of its retirement leaves. -/
theorem State.jobLess_own_ports (hq : x.queue = none) (hn : x.count = 1) (hp : s.ports.peer = true) :
    (s.jobLess j true).ports = { s.ports with sent := s.ports.sent ++ [.answer link req .retired] } := by
  simp only [State.jobLess, hj, hr, hq, hn, not_true_eq_false, and_false, if_false, if_true, State.dropJob_ports,
    State.updJob_find hj]
  rw [State.sendPeer_trained (by exact hp)]

/-- A task that such a task submits does not count in its job. -/
theorem State.jobLess_other_ports : (s.jobLess j false).ports = s.ports := by
  simp [State.jobLess, hj, hr, State.dropJob_ports]

theorem State.jobMore_find : find (s.jobMore j).jobs j = some x := by
  rw [State.jobMore, State.updJob_find hj]
  simp [hr]

end

end Sys2Proof.Machine

namespace Sys2Proof.Proofs
open Sys2Proof.Machine

/-- Settles O47. A link word passes its checks in turn; a tick lets its transfers out in a fold over them; a delivery
is its data, then its barrier, then its semaphore on one core-task; a remote submission is answered by its check. -/
theorem peerLinks : Obligations.PeerLinks := by
  unfold Obligations.PeerLinks
  refine ⟨⟨?_, ?_⟩, ⟨?_, ?_⟩, ?_, ?_, ?_⟩
  · intro k f gs gw gt i kind s s1 c c1 c2 t g he ht hi w src len da legal
    rw [exec_link hi]
    have henters : LinkEnters s k c t := ⟨he, ht⟩
    refine ⟨linkWord_illegal henters, fun hlegal hg => ?_⟩
    have hreads : LinkReads s k gw c t g := ⟨henters, hlegal, hg⟩
    refine ⟨hreads.exec_rank, fun hr => ⟨hreads.exec_align hr, fun hs hd => ⟨hreads.exec_range hr hs hd, ?_, ?_⟩⟩⟩
    · exact fun hse hde => hreads.exec_off ⟨hr, hs, hd, hse, hde⟩
    · exact fun hse hde hl => ⟨hreads.exec_early ⟨hr, hs, hd, hse, hde⟩ hl,
        hreads.exec_sends ⟨hr, hs, hd, hse, hde⟩ hl⟩
  · exact fun s slot rank x => ⟨State.handOver_admits slot rank, State.handOver_misses slot rank⟩
  · intro s x xs ho htick
    rw [exec_linkTickDeparture_one ho htick]
    refine ⟨fun hb => if_pos hb, fun hb => ⟨_, if_neg (Nat.not_lt.mpr hb), State.foldl_depart_out ..,
      fun hp haway => ?_, fun hhome => ?_⟩⟩
    · rw [State.foldl_depart_away (by exact hp) haway]
      exact ⟨rfl, rfl⟩
    · rw [State.foldl_depart_home hhome]
      exact ⟨rfl, rfl⟩
  · intro s p hp
    refine ⟨exec_linkDelivery_dropped hp, ?_, fun d ds => exec_linkDelivery_inside,
      fun id rank w f slot t hid => exec_linkDelivery_fault hp hid rank w f⟩
    intro slot t r c hm hv hk hg htc hc hrace hd hw a n new old bar after sem
    obtain ⟨hct, hsent⟩ := State.applyInside_peer hp hc hrace
    refine ⟨_, ((c.linkData r slot (s.m.h + 1) p).takeBar p).1, _, exec_linkDelivery_reaches hp hm hv hk hg htc, hct,
      CoreTask.takeBar_sems .., ?_, ?_, ?_, ?_, ?_, ?_, ?_, fun h0 => ?_, fun c4 h0 h => ?_⟩
    · intro b hb
      rw [CoreTask.takeBar_scratch]
      exact CoreTask.takeData_outside hw hd hb
    · intro hkind j hj
      rw [CoreTask.takeBar_scratch]
      exact CoreTask.takeData_copy hkind hj
    · intro hkind j hj
      rw [CoreTask.takeBar_readLocal]
      exact CoreTask.takeData_bf16 hw hd hkind hj
    · intro f hkind hf j hj
      rw [CoreTask.takeBar_readLocal]
      exact CoreTask.takeData_word hw hd hkind hf hj
    · intro hoff
      rw [CoreTask.takeBar_off hoff]
      rfl
    · intro b hon hb
      rw [CoreTask.takeBar_on hon (CoreTask.linkData_change hb)]
      rfl
    · intro hon hb
      have hover := CoreTask.takeBar_overflow (c := c.linkData r slot (s.m.h + 1) p) hon (CoreTask.linkData_change hb)
      refine ⟨?_, hsent _ (congrArg Prod.snd hover)⟩
      rw [hover]
      rfl
    · rw [CoreTask.takeSem_off _ h0]
    · rw [CoreTask.takeSem_on h0 h]
  · intro s base rank req desc hp hh ctx td who sub read answered
    refine ⟨fun hw => exec_remoteSubmitPacket_wait hp hh (State.takeRemote_waits hw), fun hw => ⟨?_, ?_, ?_, ?_, ?_⟩⟩
    · exact fun n v hc => exec_remoteSubmitPacket_answer hp hh (State.takeRemote_refuse rfl hw hc)
    · exact fun m code v hc hm => exec_remoteSubmitPacket_answer hp hh (State.takeRemote_miss_refused rfl hw hc hm)
    · exact fun m s1 hc hm => exec_remoteSubmitPacket_wait hp hh (State.takeRemote_miss_waits rfl hw hc hm)
    · exact fun img futs hc hq => exec_remoteSubmitPacket_wait hp hh (State.takeRemote_quota rfl hw hc hq)
    · exact fun img futs hc hq => exec_remoteSubmitPacket_answer hp hh (State.takeRemote_accepts rfl hw hc hq)
  · intro s req job agent hp
    refine ⟨exec_remoteAnswerPacket_none hp, fun h => ⟨fun n => ?_, fun id => ?_, ?_⟩⟩
    · exact exec_remoteAnswerPacket_some hp h (.refused n)
    · exact exec_remoteAnswerPacket_some hp h (.accepted id)
    · exact exec_remoteAnswerPacket_some hp h .retired
  · intro s j req link x hj hr hq hn hp
    exact ⟨State.jobLess_own_ports hj hr hq hn hp, State.jobLess_other_ports hj hr, State.jobMore_find hj hr⟩

end Sys2Proof.Proofs
end

section
/-! Parking and the return to READY (R51, R67, R69, R279): when a gang stops for its waits, its budget or its faults, and
when a parked one is ready again. -/

namespace Sys2Proof.Machine

/-- The waits past their spin window are those of SPIN and of a WAITA that nothing has woken (R67). -/
theorem CoreTask.mem_expired_spin (c : CoreTask) (rank now : Nat) (q : SeqId) :
    ParkCond.spin rank q ∈ c.expired rank now ↔
      ∃ w k, (c.seq q).wait = some w ∧ w.kind = .spin k ∧ w.since + spinWindow ≤ now := by
  unfold CoreTask.expired
  rw [List.mem_filterMap]
  constructor
  · rintro ⟨p, -, h⟩
    split at h
    · next k since ord hw =>
      split at h
      · next hle =>
        cases h
        exact ⟨_, k, hw, rfl, hle⟩
      · cases h
    · split at h <;> cases h
    · cases h
  · rintro ⟨⟨kind, since, ord⟩, k, hw, rfl, hle⟩
    refine ⟨q, by cases q <;> decide, ?_⟩
    rw [hw]
    exact if_pos hle

/-- A parked gang none of whose conditions stands any longer returns to READY (R69). -/
theorem State.wakeGang_ready {s : State} {slot : Nat} {t : Task} {f : ParkCond → Bool} (ht : s.task? slot = some t)
    (hp : t.state = .parked) (hf : ∀ k ∈ t.conds, f k = true) :
    (((s.dropCond slot f).wakeGang slot).task? slot).map (·.state) = some .ready := by
  have hc : t.conds.filter (fun c => !f c) = [] := List.filter_eq_nil_iff.mpr (by simpa using hf)
  simp [State.wakeGang, State.dropCond, State.task_updTask, ht, hp, hc]

section
variable {s : State} {slot : Nat} {t : Task} (ht : s.task? slot = some t)
include ht

theorem exec_spinWindowExpiry_task : exec (.spinWindowExpiry slot) s =
    let conds := t.cts.flatMap (fun e => e.2.expired e.1 s.dtime)
    if t.state = .running ∧ conds ≠ [] then .next (s.stopGang slot conds false) else .next s := by
  rw [exec_spinWindowExpiry, execSpinWindowExpiry, ht]
  rfl

theorem exec_parkConditionMet_task : exec (.parkConditionMet slot) s =
    if t.state = .parked then .next ((s.dropCond slot (s.condMet t)).wakeGang slot) else .next s := by
  rw [exec_parkConditionMet, execParkConditionMet, ht]
  rfl

theorem exec_budgetOver_task : exec (.budgetOver slot) s =
    if t.state = .running ∧ t.budget = 0 then .next ((s.noteGang slot .budgetOver).stopGang slot [] false)
    else .next s := by
  rw [exec_budgetOver, execBudgetOver, ht]
  rfl

theorem exec_faultStop_task : exec (.faultStop slot) s =
    if t.state = .running ∧ ∃ e ∈ t.cts, e.2.notes ≠ [] then .next (s.stopGang slot [] false) else .next s := by
  have hn : t.cts.any (fun e => !e.2.notes.isEmpty) = true ↔ ∃ e ∈ t.cts, e.2.notes ≠ [] := by
    simp [List.any_eq_true]
  simp only [exec_faultStop, execFaultStop, ht, hn]
  rfl

end

end Sys2Proof.Machine

namespace Sys2Proof.Proofs
open Sys2Proof.Machine

/-- Settles O50: each step acts where its one condition on the task holds, and the conditions of the waits are read off
the sequencers. -/
theorem gangsParkAndReturn : Obligations.GangsParkAndReturn := by
  unfold Obligations.GangsParkAndReturn
  refine ⟨fun slot s t ht => ?_, fun c rank now q => c.mem_expired_spin rank now q⟩
  rw [exec_spinWindowExpiry_task ht, exec_parkConditionMet_task ht, exec_budgetOver_task ht, exec_faultStop_task ht]
  refine ⟨fun h => if_neg ?_, fun hr hc => if_pos ⟨hr, hc⟩, fun h => if_neg h,
    fun hp => ⟨if_pos hp, State.wakeGang_ready ht hp⟩, fun h => if_neg ?_, fun hr hb => if_pos ⟨hr, hb⟩,
    fun h => if_neg ?_, fun hr hn => if_pos ⟨hr, hn⟩⟩
  · tauto
  · tauto
  · rintro ⟨hr, e, he, hn⟩
    exact h.elim (absurd hr) (fun hall => hn (hall e he))

end Sys2Proof.Proofs
end

section
/-! FORK, RDV and EXIT (R57 to R65): what each answers at its checks and its waits. -/

namespace Sys2Proof.Machine

theorem runLocal_trap {u : WordUse} {body : State → CoreTask → Res CoreTask} {s : State} {c : CoreTask} {t : Trap}
    (h : s.Enters u c) (hb : body s c = .trap t) : runLocal u body s = .next (s.trapped c t) := by
  rw [runLocal_go h, hb]

theorem runLocal_wait {u : WordUse} {body : State → CoreTask → Res CoreTask} {s : State} {c c' : CoreTask} {k : WaitKind}
    (h : s.Enters u c) (hb : body s c = .wait c' k) : runLocal u body s = .next (s.waitCt s.cur c' k) := by
  rw [runLocal_go h, hb]

theorem runGlobal_jump {u : WordUse} {body : State → CoreTask → Res State} {s s' : State} {c : CoreTask}
    (h : s.Enters u c) (hb : body (s.withCur c) c = .jump s') : runGlobal u body s = .next s' := by
  rw [runGlobal_go h, hb]

/-- A word runs alike under bodies that answer alike where it enters. -/
theorem runGlobal_congr {u : WordUse} {b b' : State → CoreTask → Res State} {s : State} {c : CoreTask}
    (h : s.Enters u c) (hb : b (s.withCur c) c = b' (s.withCur c) c) : runGlobal u b s = runGlobal u b' s := by
  rw [runGlobal_go h, runGlobal_go h, hb]

/-- The issuing task with its core-task replaced. -/
theorem State.task_withCur {s : State} {t : Task} (ht : s.task? s.cur.slot = some t) (c : CoreTask) :
    (s.withCur c).task? s.cur.slot = some (t.setCt s.cur.rank c) := by
  rw [State.withCur, State.task_putCt, if_pos rfl, ht]
  rfl

theorem afterRelease_wait {sc : Scope} {s s1 : State} {go : State → CoreTask → Res State}
    (h : s.testRelease s.cur sc = .wait s1) : afterRelease sc s go = .wait s1 .plain := by
  simp only [afterRelease, h]

/-! ### FORK (R58) -/

section
variable {k : BitVec 8} {seq : SeqId} {target : BitVec 32} {s : State} {c : CoreTask} {t : Task}
  (h : s.Enters (cOnly k) c) (ht : s.task? s.cur.slot = some t)
include h ht

theorem exec_fork_illegal (hbad : t.image.holds seq target.toNat = false ∨ (c.seq seq).status ≠ .idle) :
    exec (.fork k seq target) s = .next (s.trapped c (trapOf .illegalField)) := by
  have hb : (!t.image.holds seq target.toNat || decide ((c.seq seq).status ≠ .idle)) = true := by simpa using hbad
  rw [exec_fork, execFork]
  refine runGlobal_trap h ?_
  rw [State.withCur_cur, State.task_withCur ht]
  exact if_pos hb

/-- The core-task that FORK leaves: the C-sequencer has made a release, the started one acquires it (R58, R195). -/
def CoreTask.forked (c : CoreTask) (seq : SeqId) (target : BitVec 32) : CoreTask :=
  (c.updSeq .c Seq.release).updSeq seq
    (fun q => { q.acquire (c.updSeq .c Seq.release).seqC.stamp with status := .running, pc := target })

/-- Past its checks FORK is a release, and then the start of its sequencer. -/
theorem exec_fork_legal (hh : t.image.holds seq target.toNat = true) (hi : (c.seq seq).status = .idle) :
    exec (.fork k seq target) s = runGlobal (cOnly k) (fun s _ => afterRelease .core s (fun s c =>
      doneCt s (c.forked seq target))) s := by
  have hb : ¬(!t.image.holds seq target.toNat || decide ((c.seq seq).status ≠ .idle)) = true := by simp [hh, hi]
  rw [exec_fork, execFork]
  refine runGlobal_congr h ?_
  rw [State.withCur_cur, State.task_withCur ht]
  exact if_neg hb

end

/-- Seen from the sequencer that is started, which is not the C-sequencer. -/
theorem CoreTask.forked_eq (c : CoreTask) {seq : SeqId} (hs : seq ≠ .c) (target : BitVec 32) :
    c.forked seq target = ({ c with seqC := c.seqC.release }).setSeq seq
      { (c.seq seq).acquire (c.seqC.stamp + 1) with status := .running, pc := target } := by
  cases seq with
  | c => exact absurd rfl hs
  | l | x | s => rfl

/-! ### RDV (R60) -/

section
variable {k : BitVec 8} {mask : BitVec 4} {s : State} {c : CoreTask}

/-- RDV as its sequencer uses it: the mask names the sequencer itself (R60). -/
def useRdv (k : BitVec 8) (mask : BitVec 4) (q : SeqId) : WordUse := { anySeq k with legal := mask.getLsbD (seqNum q) }

theorem exec_rdv_noSelf (hm : mask.getLsbD (seqNum s.cur.q) = false) (hi : (s.canIssue s.cur).isSome = true) :
    FieldFault (.rdv k mask) s := by
  have he : enter (useRdv k mask s.cur.q) s = .stop (s.raise s.cur (trapOf .illegalField)) :=
    enter_illegal hi (by cases s.cur.q <;> rfl) hm
  rw [useRdv] at he
  rw [FieldFault, exec_rdv, execRdv, runLocal, he]

variable (h : s.Enters (useRdv k mask s.cur.q) c)
include h

theorem exec_rdv_illegal (hn : c.rdvMask s.cur.q = none) (hb : c.rdvBad s.cur.q mask = true) :
    exec (.rdv k mask) s = .next (s.trapped c (trapOf .illegalField)) := by
  rw [exec_rdv, execRdv]
  refine runLocal_trap h ?_
  simp [hn, hb]

variable (hok : (c.rdvMask s.cur.q).isSome = true ∨ c.rdvBad s.cur.q mask = false)
include hok

theorem exec_rdv_stores (hc : s.cur.q = .c) (hg : c.gbarReady = false) :
    exec (.rdv k mask) s = .next (s.waitCt s.cur c .plain) := by
  have hbad : ¬(!(c.rdvMask s.cur.q).isSome && c.rdvBad s.cur.q mask) = true := by
    rcases hok with hk | hk <;> simp [hk]
  rw [exec_rdv, execRdv]
  refine runLocal_wait h ?_
  dsimp only
  rw [if_neg hbad, if_pos ⟨hc, by simp [hg]⟩]

variable (hr : s.cur.q = .c → c.gbarReady = true)
include hr

theorem exec_rdv_waits (ho : ∃ q ∈ (maskSeqs mask).filter (· ≠ s.cur.q), c.rdvMask q ≠ some mask ∨ s.gangFaulted = true) :
    exec (.rdv k mask) s = .next (s.waitCt s.cur c (.rdv mask)) := by
  have hbad : ¬(!(c.rdvMask s.cur.q).isSome && c.rdvBad s.cur.q mask) = true := by
    rcases hok with hk | hk <;> simp [hk]
  have hall : ¬((maskSeqs mask).filter (· ≠ s.cur.q)).all
      (fun q => decide (c.rdvMask q = some mask) && !s.gangFaulted) = true := by
    obtain ⟨q, hq, hn⟩ := ho
    rw [List.all_eq_true]
    intro hall
    have := hall q hq
    rcases hn with hn | hn <;> simp [hn] at this
  rw [exec_rdv, execRdv]
  refine runLocal_wait h ?_
  dsimp only
  rw [if_neg hbad, if_neg (fun x => x.2 (hr x.1)), if_neg hall]

theorem exec_rdv_meets (ho : ∀ q ∈ (maskSeqs mask).filter (· ≠ s.cur.q), c.rdvMask q = some mask ∧ s.gangFaulted = false) :
    exec (.rdv k mask) s = .next (s.passed (useRdv k mask s.cur.q)
      (((maskSeqs mask).filter (· ≠ s.cur.q)).foldl (fun c q => c.updSeq q Seq.advance) (c.meet (maskSeqs mask))) none) := by
  have hbad : ¬(!(c.rdvMask s.cur.q).isSome && c.rdvBad s.cur.q mask) = true := by
    rcases hok with hk | hk <;> simp [hk]
  have hall : ((maskSeqs mask).filter (· ≠ s.cur.q)).all
      (fun q => decide (c.rdvMask q = some mask) && !s.gangFaulted) = true :=
    List.all_eq_true.mpr fun q hq => by simp [ho q hq]
  rw [exec_rdv, execRdv]
  refine runLocal_done h ?_
  dsimp only
  rw [if_neg hbad, if_neg (fun x => x.2 (hr x.1)), if_pos hall]

end

/-! ### EXIT (R61, R62) -/

section
variable {k : BitVec 8} {s s2 : State} {c c1 : CoreTask} (h : s.Enters (anySeq k) c)
include h

/-- EXIT waits while a result of its sequencer has not landed. -/
theorem exec_exit_tags (hs : c.settleAll s.cur.q ((c.seq s.cur.q).tags.map (·.1)) = (c1, false)) :
    exec (.exit k) s = .next (s.waitsIn ((s.withCur c).putCt s.cur.slot s.cur.rank c1) .plain) := by
  rw [exec_exit, execExit]
  refine runGlobal_wait h ?_
  dsimp only
  rw [State.withCur_cur]
  split
  · next hq =>
    rw [hq] at hs
    rw [exitC, show c.seqC = c.seq .c from rfl, hs, State.withCur_cur]
    rfl
  · rw [hs]
    rfl

variable (hs : c.settleAll s.cur.q ((c.seq s.cur.q).tags.map (·.1)) = (c1, true))
include hs

/-- L, X and S end once their results have landed. -/
theorem exec_exit_others (hq : s.cur.q ≠ .c) : exec (.exit k) s = .next ((s.withCur c).putCt s.cur.slot s.cur.rank
    (c1.setSeq s.cur.q { c1.seq s.cur.q with status := .exited, wait := none })) := by
  rw [exec_exit, execExit]
  refine runGlobal_jump h ?_
  dsimp only
  rw [State.withCur_cur]
  split
  · next hc => exact absurd hc hq
  · rw [hs]
    rfl

omit h in
/-- The C-sequencer's EXIT once its results have landed, its engines are idle and its writes are delivered. -/
theorem exitC_delivered (hq : s.cur.q = .c) (hd : c1.drained = true)
    (hr : (((s.withCur c).withCur c1).atStage .delivering).testRelease s.cur .sys = .ready s2) :
    exitC (s.withCur c) c =
      if c1.othersDone then
        match s2.successorCheck s.cur.slot s.cur.rank with
        | .ok => .jump (s2.retireCt s.cur.slot s.cur.rank)
        | .trap t => .trap t
        | .miss va pg h => missWord s2 Need.rmw va pg h
      else .wait (s2.atStage .waiting) .plain := by
  have hs' : c.settleAll .c (c.seqC.tags.map (·.1)) = (c1, true) := by rw [hq] at hs; exact hs
  have hcur : ((s.withCur c).putCt s.cur.slot s.cur.rank c1) = (s.withCur c).withCur c1 := by
    rw [State.withCur.eq_1 (s.withCur c), State.withCur_cur]
  rw [exitC, hs', State.withCur_cur]
  dsimp only
  rw [hcur, hr, hd]
  rfl

theorem exec_exit_waits (hq : s.cur.q = .c) (hd : c1.drained = true)
    (hr : (((s.withCur c).withCur c1).atStage .delivering).testRelease s.cur .sys = .ready s2)
    (ho : c1.othersDone = false) : exec (.exit k) s = .next (s.waitsIn (s2.atStage .waiting) .plain) := by
  rw [exec_exit, execExit]
  refine runGlobal_wait h ?_
  dsimp only
  rw [State.withCur_cur, hq]
  exact (exitC_delivered hs hq hd hr).trans (if_neg (by simp [ho]))

theorem exec_exit_retires (hq : s.cur.q = .c) (hd : c1.drained = true)
    (hr : (((s.withCur c).withCur c1).atStage .delivering).testRelease s.cur .sys = .ready s2)
    (ho : c1.othersDone = true) (hsucc : s2.successorCheck s.cur.slot s.cur.rank = .ok) :
    exec (.exit k) s = .next (s2.retireCt s.cur.slot s.cur.rank) := by
  rw [exec_exit, execExit]
  refine runGlobal_jump h ?_
  dsimp only
  rw [State.withCur_cur, hq]
  refine (exitC_delivered hs hq hd hr).trans ((if_pos ho).trans ?_)
  rw [hsucc]

end

end Sys2Proof.Machine

namespace Sys2Proof.Proofs
open Sys2Proof.Machine

/-- Settles O18: FORK is its checks, a release and the start; RDV and EXIT answer check by check. -/
theorem sequencersStartMeetAndEnd : Obligations.SequencersStartMeetAndEnd := by
  unfold Obligations.SequencersStartMeetAndEnd
  refine ⟨?_, fun k mask s => exec_rdv_noSelf, ?_, ?_⟩
  · intro k seq target s s1 c c1 t h ht
    refine ⟨exec_fork_illegal h ht, fun hh hi hne => ⟨fun hr => ?_, fun hr hc => ?_⟩⟩
    · rw [exec_fork_legal h ht hh hi]
      exact runGlobal_wait h (afterRelease_wait (by rw [State.withCur_cur]; exact hr))
    · rw [exec_fork_legal h ht hh hi, ← CoreTask.forked_eq c1 hne]
      have hcur : s1.cur = s.cur := (State.testRelease_cur hr).trans (State.withCur_cur ..)
      refine runGlobal_doneCt h ((afterRelease_ready ?_ ?_).trans rfl) hcur
      · rw [State.withCur_cur]; exact hr
      · rw [State.withCur_cur]; exact hc
  · exact fun k mask s c h => ⟨exec_rdv_illegal h, fun hok => ⟨exec_rdv_stores h hok,
      fun hr => ⟨exec_rdv_waits h hok hr, exec_rdv_meets h hok hr⟩⟩⟩
  · exact fun k s s2 c c1 h => ⟨exec_exit_tags h, fun hs => ⟨exec_exit_others h hs,
      fun hq hd hr => ⟨exec_exit_waits h hs hq hd hr, exec_exit_retires h hs hq hd hr⟩⟩⟩

end Sys2Proof.Proofs
end

section
/-! A step takes its turn (R73, R83, R173, R184, R196, R264, R279, R313, R314, log 1): the marks of the lists' heads as a
turn begins, the fetch of a sequencer and of a service core, and the turns that are no instruction. -/

namespace Sys2Proof.Machine

/-! ### The heads of the lists (R73) -/

theorem State.headOf_some {s : State} {p l slot : Nat} (h : s.headOf p l = some slot) :
    ∃ t, (slot, t) ∈ s.tasks ∧ s.placeable t = true ∧ t.prio = l := by
  obtain ⟨⟨sl, t⟩, he, rfl⟩ := Option.map_eq_some_iff.mp h
  obtain ⟨hm, hp, -⟩ := State.mem_readyList (List.mem_of_find?_eq_some he)
  exact ⟨t, hm, hp, by simpa using List.find?_some he⟩

theorem State.mem_heads (s : State) (p l slot : Nat) : (p, l, slot) ∈ s.heads ↔ p < 8 ∧ s.headOf p l = some slot := by
  simp only [State.heads, List.mem_flatMap, List.mem_range, List.mem_filterMap, Option.map_eq_some_iff, Prod.mk.injEq]
  constructor
  · rintro ⟨p', hp, l', -, sl, hh, rfl, rfl, rfl⟩
    exact ⟨hp, hh⟩
  · rintro ⟨hp, hh⟩
    obtain ⟨t, hm, hpl, rfl⟩ := State.headOf_some hh
    refine ⟨p, hp, t.prio, List.mem_eraseDups.mpr (List.mem_map.mpr ⟨(slot, t), ?_, rfl⟩), slot, hh, rfl, rfl, rfl⟩
    exact List.mem_filter.mpr ⟨hm, hpl⟩

/-- A table whose values are computed from the keys of a list. -/
theorem find_map_key {α β : Type} (l : List α) (key : α → Nat) (g : Nat → β) (k : Nat) (x : β) :
    find (l.map (fun a => (key a, g (key a)))) k = some x ↔ (∃ a ∈ l, key a = k) ∧ x = g k := by
  induction l with
  | nil => simp
  | cons a l ih =>
    rw [List.map_cons, find]
    split
    · next h => subst h; simp [eq_comm]
    · next h => rw [ih]; simp [h]

theorem Task.find_headMarks (t : Task) (slot now : Nat) (heads : List (Nat × Nat × Nat)) (p x : Nat) :
    find (t.headMarks slot now heads) p = some x ↔
      (∃ l, (p, l, slot) ∈ heads) ∧ x = (find t.headSince p).getD now := by
  refine (find_map_key _ Prod.fst (fun p => (find t.headSince p).getD now) p x).trans (and_congr_left fun _ => ?_)
  simp only [List.mem_filter, decide_eq_true_eq]
  constructor
  · rintro ⟨⟨p', l, sl⟩, ⟨hm, rfl⟩, rfl⟩
    exact ⟨l, hm⟩
  · rintro ⟨l, hm⟩
    exact ⟨(p, l, slot), ⟨hm, rfl⟩, rfl⟩

/-- A turn begins on the next entry of the agenda, at the next step number. -/
def State.turned (s : State) : State := { s with agenda := s.agenda.tail, tick := s.tick + 1 }

theorem State.begin_eq (s : State) : s.begin = s.turned.markHeads := rfl

theorem State.begin_headSince (s : State) {slot p x : Nat} {t t' : Task} (hp : p < 8) (ht : s.task? slot = some t)
    (ht' : s.begin.task? slot = some t') : find t'.headSince p = some x ↔
      (∃ level, s.turned.headOf p level = some slot) ∧ x = (find t.headSince p).getD s.dtime := by
  rw [State.begin_eq, State.task_markHeads, show s.turned.task? slot = some t from ht] at ht'
  cases ht'
  refine (Task.find_headMarks ..).trans (and_congr_left fun _ => ?_)
  simp [State.mem_heads, hp]

/-! ### A turn -/

theorem step_turn {s : State} {t : Turn} {rest : List Turn} (h : s.agenda = t :: rest) : step s = takeTurn t s.begin := by
  rw [step, State.nextTurn, h]

theorem step_idle {s : State} (h : s.agenda = []) : step s = step { s with agenda := [Config.schedule s.tick] } := by
  have hb : s.begin = State.begin { s with agenda := [Config.schedule s.tick] } := by
    rw [State.begin, State.begin, h]
    rfl
  rw [step, step, State.nextTurn, h, hb]
  rfl

/-! ### A sequencer's turn (R59, R77, R83, R279) -/

/-- The state in which a sequencer's word runs. -/
def State.issuing (s : State) (slot rank : Nat) (q : SeqId) : State :=
  { s.begin with cur := { slot := slot, rank := rank, q := q } }

section
variable {s : State} {slot rank : Nat} {q : SeqId} {rest : List Turn} (h : s.agenda = .issue slot rank q :: rest)
include h

theorem step_issue : step s = match takeIssue (s.issuing slot rank q) with
    | .next x => .next (State.lastWord s.begin { slot := slot, rank := rank, q := q } x)
    | o => o := step_turn h

theorem step_issue_none (hn : (s.issuing slot rank q).canIssue (s.issuing slot rank q).cur = none) :
    step s = .next (s.issuing slot rank q) := by
  have hl : s.begin.canIssue { slot := slot, rank := rank, q := q } = none := hn
  rw [step_issue h, takeIssue, State.seqFetch, hn]
  dsimp only
  rw [State.lastWord, hl]

variable {t : Task} {c : CoreTask} (hc : (s.issuing slot rank q).canIssue (s.issuing slot rank q).cur = some (t, c))
include hc

/-- What the sequencer finds, and that the word of a gang that has faulted is its last. -/
theorem step_issue_some {x : State} (hx : takeIssue (s.issuing slot rank q) = .next x) :
    step s = .next (if t.faulted then
      x.updTask slot (fun t => { t with finished := seqKey rank q :: t.finished }) else x) := by
  have hl : s.begin.canIssue { slot := slot, rank := rank, q := q } = some (t, c) := hc
  rw [step_issue h, hx]
  dsimp only
  rw [State.lastWord, hl]

end

/-- The fetch of a sequencer that may issue. -/
theorem State.seqFetch_some {s : State} {t : Task} {c : CoreTask} (hc : s.canIssue s.cur = some (t, c)) :
    s.seqFetch = if t.image.holds s.cur.q (c.seq s.cur.q).pc.toNat then
      checkWord (s.codeWord t (c.seq s.cur.q).pc.toNat) s.sparseOn s.cur.q else .fault (trapOf .illegalOpcode) := by
  rw [State.seqFetch, hc]

theorem takeIssue_fault {s : State} {t : Trap} (h : s.seqFetch = .fault t) : takeIssue s = .next (s.raise s.cur t) := by
  rw [takeIssue, h]

theorem takeIssue_word {s : State} {i : Instr} (h : s.seqFetch = .word i) : takeIssue s = exec i s := by
  rw [takeIssue, h]

/-- MXMULS has twelve opcodes, which FEATW0.SPARSE gates (R319). -/
def Gated (opc : BitVec 9) (sparse : Bool) : Prop := 0x158 ≤ opc.toNat ∧ opc.toNat ≤ 0x163 ∧ sparse = false

theorem gated_iff (opc : BitVec 9) (sparse : Bool) : (sparseOpcode opc && !sparse) = true ↔ Gated opc sparse := by
  have hn : mxsPairs.length = 12 := by decide
  simp only [sparseOpcode, Gated, hn, Bool.and_eq_true, decide_eq_true_eq, Bool.not_eq_true', and_assoc]
  exact and_congr_right fun _ => and_congr_left fun _ => by omega

section
variable {w : Word80} {sparse : Bool} {q : SeqId}

theorem checkWord_opcode (h : assigned (w.extractLsb' 71 9) = false ∨ Gated (w.extractLsb' 71 9) sparse) :
    checkWord w sparse q = .fault (trapOf .illegalOpcode) := by
  refine if_pos ?_
  rw [← gated_iff] at h
  rw [Bool.or_eq_true]
  exact h.imp_left fun h => by rw [Fields.unpack, bits, h]; rfl

variable (ha : assigned (w.extractLsb' 71 9) = true) (hg : ¬Gated (w.extractLsb' 71 9) sparse)
include ha hg

theorem checkWord_assigned : checkWord w sparse q =
    if !permitted (w.extractLsb' 71 9) q then .fault (trapOf .seqClass)
    else match decodeWord w with
      | some i => .word i
      | none => .fault (trapOf .illegalField) := by
  refine if_neg ?_
  rw [← gated_iff] at hg
  rw [Bool.or_eq_true, not_or]
  exact ⟨by rw [Fields.unpack, bits, ha]; decide, hg⟩

theorem checkWord_class (hp : permitted (w.extractLsb' 71 9) q = false) :
    checkWord w sparse q = .fault (trapOf .seqClass) := by
  rw [checkWord_assigned ha hg, hp]
  rfl

variable (hp : permitted (w.extractLsb' 71 9) q = true)
include hp

theorem checkWord_field (hd : decodeWord w = none) : checkWord w sparse q = .fault (trapOf .illegalField) := by
  rw [checkWord_assigned ha hg, hp, hd]
  rfl

theorem checkWord_word {i : Instr} (hd : decodeWord w = some i) : checkWord w sparse q = .word i := by
  rw [checkWord_assigned ha hg, hp, hd]
  rfl

end

/-! ### A service core's turn (R314, log 5) -/

/-- The low bits of a word as a number. -/
theorem mod_eq_and {n : Nat} (w : BitVec n) (k : Nat) : w.toNat % 2 ^ k = w.toNat &&& (2 ^ k - 1) :=
  (Nat.and_two_pow_sub_one_eq_mod _ _).symm

theorem leNat_half (h : BitVec 16) : leNat [h.extractLsb' 0 8, h.extractLsb' 8 8] = h.toNat := by
  have := h.isLt
  simp only [leNat, BitVec.extractLsb'_toNat, Nat.shiftRight_eq_div_pow]
  omega

theorem leNat_word (w : BitVec 32) :
    leNat [w.extractLsb' 0 8, w.extractLsb' 8 8, w.extractLsb' 16 8, w.extractLsb' 24 8] = w.toNat := by
  have := w.isLt
  simp only [leNat, BitVec.extractLsb'_toNat, Nat.shiftRight_eq_div_pow]
  omega

/-- Only a word of custom-0 is a Xumak word. -/
theorem decodeXumak_custom {w : BitVec 32} {i : Instr} (h : decodeXumak w = some i) : w &&& 0x7F = 0x0B := by
  have hb : bits w 0 7 = 0x0B := by
    simp only [decodeXumak, check] at h
    split at h
    · next hc => exact (by simpa using hc : _ ∧ _).1
    · cases h
  have hm : w.toNat % 2 ^ 7 = 0x0B := by
    have := congrArg BitVec.toNat hb
    simpa [bits] using this
  apply BitVec.eq_of_toNat_eq
  rw [BitVec.toNat_and]
  exact (mod_eq_and w 7).symm.trans hm

/-- What a whole word is to a service core. -/
def wordFetch (w : BitVec 32) : SvcFetch :=
  match decodeXumak w with
  | some i => .xumak i
  | none => if w &&& 0x7F = 0x0B then .illegal w else .base w

section
variable {s : State}

theorem State.svcFetch_unwritten (h : Tab.get none s.service.mem s.svcCore.pc.toNat = none) : s.svcFetch = .unwritten := by
  have h0 : Tab.get none s.service.mem (s.svcCore.pc + BitVec.ofNat 64 0).toNat = none := by simpa using h
  have hb : s.svcBytes s.svcCore.pc 2 = none := by
    simp only [State.svcBytes, List.range_succ, List.range_zero, List.nil_append, List.cons_append, List.mapM_cons, h0]
    rfl
  rw [State.svcFetch, hb]

theorem State.svcFetch_half {h : BitVec 16}
    (hm : ∀ k < 2, Tab.get none s.service.mem (s.svcCore.pc + BitVec.ofNat 64 k).toNat = some (h.extractLsb' (8 * k) 8))
    (hl : h &&& 3 ≠ 3) : s.svcFetch = .base (h.setWidth 32) := by
  have hb : s.svcBytes s.svcCore.pc 2 = some [h.extractLsb' 0 8, h.extractLsb' 8 8] := by
    have h0 := hm 0 (by omega)
    have h1 := hm 1 (by omega)
    simp only [State.svcBytes, List.range_succ, List.range_zero, List.nil_append, List.cons_append, List.mapM_cons,
      List.mapM_nil, h0, h1]
    rfl
  have hn : h.toNat % 4 ≠ 3 := fun hn => hl (BitVec.eq_of_toNat_eq (by
    rw [BitVec.toNat_and]
    exact (mod_eq_and h 2).symm.trans hn))
  rw [State.svcFetch, hb]
  dsimp only
  rw [leNat_half, if_pos hn, BitVec.ofNat_toNat]

theorem State.svcFetch_word {w : BitVec 32}
    (hm : ∀ k < 4, Tab.get none s.service.mem (s.svcCore.pc + BitVec.ofNat 64 k).toNat = some (w.extractLsb' (8 * k) 8))
    (hl : w &&& 3 = 3) : s.svcFetch = wordFetch w := by
  have h0 := hm 0 (by omega)
  have h1 := hm 1 (by omega)
  have h2 := hm 2 (by omega)
  have h3 := hm 3 (by omega)
  have hb : s.svcBytes s.svcCore.pc 2 = some [w.extractLsb' 0 8, w.extractLsb' 8 8] := by
    simp only [State.svcBytes, List.range_succ, List.range_zero, List.nil_append, List.cons_append, List.mapM_cons,
      List.mapM_nil, h0, h1]
    rfl
  have hb4 : s.svcBytes s.svcCore.pc 4 =
      some [w.extractLsb' 0 8, w.extractLsb' 8 8, w.extractLsb' 16 8, w.extractLsb' 24 8] := by
    simp only [State.svcBytes, List.range_succ, List.range_zero, List.nil_append, List.cons_append, List.mapM_cons,
      List.mapM_nil, h0, h1, h2, h3]
    rfl
  have hn : leNat [w.extractLsb' 0 8, w.extractLsb' 8 8] % 4 = 3 := by
    have := congrArg BitVec.toNat hl
    rw [BitVec.toNat_and] at this
    have hw : w.toNat % 4 = 3 := (mod_eq_and w 2).trans this
    simp only [leNat, BitVec.extractLsb'_toNat, Nat.shiftRight_eq_div_pow]
    omega
  rw [State.svcFetch, hb]
  dsimp only
  rw [if_neg (not_not.mpr hn), hb4]
  dsimp only
  rw [leNat_word, BitVec.ofNat_toNat, BitVec.setWidth_eq]
  rfl

end

/-- A word of custom-0 ends in 11. -/
theorem custom_low {w : BitVec 32} (h : w &&& 0x7F = 0x0B) : w &&& 3 = 3 := by
  have : w &&& 3 = (w &&& 0x7F) &&& 3 := by rw [BitVec.and_assoc]; rfl
  rw [this, h]
  rfl

/-! ### The other turns -/

/-- The line that makes room stands in the same slice; one held under STREAM leaves first (R173). -/
theorem State.evicted_cases (s : State) (line : Nat) :
    (s.evicted line ∈ s.m.stream ∧
      homeSlice { host := false, a := s.evicted line * 64 } = homeSlice { host := false, a := line * 64 }) ∨
    (s.evicted line = line ∧
      ∀ k ∈ s.m.stream, homeSlice { host := false, a := k * 64 } ≠ homeSlice { host := false, a := line * 64 }) := by
  have hmem (l : Nat) (h : l ∈ s.m.stream.filter (fun l => decide (homeSlice { host := false, a := l * 64 } =
      homeSlice { host := false, a := line * 64 }))) : l ∈ s.m.stream ∧
        homeSlice { host := false, a := l * 64 } = homeSlice { host := false, a := line * 64 } := by
    simpa using h
  unfold State.evicted
  dsimp only
  split
  · next hc => exact .inl (hmem line (List.contains_iff_mem.mp hc))
  · cases hf : s.m.stream.filter (fun l => decide (homeSlice { host := false, a := l * 64 } =
      homeSlice { host := false, a := line * 64 })) with
    | nil => exact .inr ⟨rfl, by simpa using hf⟩
    | cons l ls => exact .inl (hmem l (hf ▸ List.mem_cons_self))

/-- A fold that sets the records of granules sets those and no others. -/
theorem find_foldl_put {α β : Type} (g : Tab α → Nat × β → α) (gs : List (Nat × β)) (t : Tab α) (k : Nat) (P : α → Prop)
    (hP : ∀ t e, P (g t e)) :
    ((∃ e ∈ gs, e.1 = k) → ∃ r, find (gs.foldl (fun t e => Tab.put e.1 (g t e) t) t) k = some r ∧ P r) ∧
    ((∀ e ∈ gs, k ≠ e.1) → find (gs.foldl (fun t e => Tab.put e.1 (g t e) t) t) k = find t k) := by
  induction gs generalizing t with
  | nil => exact ⟨fun ⟨_, h, _⟩ => absurd h List.not_mem_nil, fun _ => rfl⟩
  | cons e gs ih =>
    rw [List.foldl_cons]
    obtain ⟨hin, hout⟩ := ih (Tab.put e.1 (g t e) t)
    refine ⟨fun h => ?_, fun h => ?_⟩
    · by_cases hk : ∃ e ∈ gs, e.1 = k
      · exact hin hk
      · obtain ⟨e', he', rfl⟩ := h
        rcases List.mem_cons.mp he' with rfl | hm
        · refine ⟨_, (hout fun a ha heq => hk ⟨a, ha, heq.symm⟩).trans (find_put_self ..), hP ..⟩
        · exact absurd ⟨e', hm, rfl⟩ hk
    · rw [hout fun a ha => h a (List.mem_cons_of_mem _ ha), find_put_ne _ _ (h e List.mem_cons_self)]

/-- A read by the host or a peer clears the records of its granules alone (R196). -/
theorem State.hostRead_clears (s : State) (dpa n : Nat) :
    (s.hostRead dpa n).m.dpa = s.m.dpa ∧ (s.hostRead dpa n).m.host = s.m.host ∧
    (s.ports.host = true ∨ s.ports.peer = true → dpa + n ≤ dpaTop → ∀ g ∈ granules dpa n, ∃ r,
      find (s.hostRead dpa n).m.races g.1 = some r ∧ r.w = [] ∧ r.r = []) ∧
    ∀ k, (∀ g ∈ granules dpa n, k ≠ g.1) → find (s.hostRead dpa n).m.races k = find s.m.races k := by
  have hput (k : Nat) := find_foldl_put (fun t (g : Nat × BitVec 64) =>
    { (find t g.1).getD { RaceRec.clear with y := s.m.h } with w := [], r := [] }) (granules dpa n) s.m.races k
    (fun r => r.w = [] ∧ r.r = []) (fun _ _ => ⟨rfl, rfl⟩)
  rw [State.hostRead]
  split
  · exact ⟨rfl, rfl, fun _ _ g hg => (hput g.1).1 ⟨g, hg, rfl⟩, fun k hk => (hput k).2 hk⟩
  · next hn => exact ⟨rfl, rfl, fun hp ht => absurd ⟨hp, ht⟩ hn, fun _ _ => rfl⟩

/-- A leaf that a cache gains is the one added. -/
theorem Cached.mem_add {c : Cached} {x : CachedLeaf} {tabs : List CachedTable} {e : CachedLeaf}
    (h : e ∈ (c.add x tabs).leaves) : e ∈ c.leaves ∨ e = x := by
  rw [Cached.add] at h
  dsimp only at h
  split at h
  · exact .inl h
  · simpa using h

/-- A walker keeps nothing but leaves that it finds, and the pointers to them (R183, R184). -/
theorem State.walkAhead_finds (s : State) (ctx a : Nat) (second : Bool) :
    s.walkAhead ctx a second = { s with m := { s.m with
      first := (s.walkAhead ctx a second).m.first, second := (s.walkAhead ctx a second).m.second } } ∧
    (second = true → (s.walkAhead ctx a second).m.first = s.m.first ∧
      ∀ e ∈ (s.walkAhead ctx a second).m.second.leaves, e ∈ s.m.second.leaves ∨
        walk (s.read2 ctx) true a (levels 13) (s.root2 ctx) = .leaf e.leaf) ∧
    (second = false → (s.walkAhead ctx a second).m.second = s.m.second ∧
      ∀ e ∈ (s.walkAhead ctx a second).m.first.leaves, e ∈ s.m.first.leaves ∨
        walk (s.read1 ctx) (!(s.ctxWord ctx 3).getLsbD 1) a (levels 18) (s.root1 ctx) = .leaf e.leaf) := by
  rw [State.walkAhead]
  dsimp only
  split
  · exact ⟨rfl, fun _ => ⟨rfl, fun _ => .inl⟩, fun _ => ⟨rfl, fun _ => .inl⟩⟩
  · cases second with
    | true =>
      rw [if_pos rfl]
      split
      · next l hl =>
        exact ⟨rfl, fun _ => ⟨rfl, fun e he => (Cached.mem_add he).imp_right (by rintro rfl; exact hl)⟩,
          fun h => absurd h (by decide)⟩
      · exact ⟨rfl, fun _ => ⟨rfl, fun _ => .inl⟩, fun _ => ⟨rfl, fun _ => .inl⟩⟩
    | false =>
      rw [if_neg Bool.false_ne_true]
      split
      · next l hl =>
        exact ⟨rfl, fun h => absurd h (by decide),
          fun _ => ⟨rfl, fun e he => (Cached.mem_add he).imp_right (by rintro rfl; exact hl)⟩⟩
      · exact ⟨rfl, fun _ => ⟨rfl, fun _ => .inl⟩, fun _ => ⟨rfl, fun _ => .inl⟩⟩

section
variable {s : State} {rest : List Turn}

/-- Without an instruction word an event is its instruction. -/
theorem step_event {i : Instr} (h : s.agenda = .event i :: rest) (hf : encodeFields i = none) (hx : encodeXumak i = none) :
    step s = exec i s.begin := by
  rw [step_turn h]
  exact if_pos (by simp [isEvent, hf, hx])

theorem step_noEvent {i : Instr} (h : s.agenda = .event i :: rest) (hw : encodeFields i ≠ none ∨ encodeXumak i ≠ none) :
    step s = .next s.begin := by
  rw [step_turn h]
  refine if_neg ?_
  simp only [isEvent, Bool.and_eq_true, Option.isNone_iff_eq_none, not_and_or]
  exact hw

theorem step_evict {line : Nat} (h : s.agenda = .evict line :: rest) : ∃ t l, step s = .next t ∧
    homeSlice { host := false, a := l * 64 } = homeSlice { host := false, a := line * 64 } ∧
    ((∃ k ∈ s.m.stream, homeSlice { host := false, a := k * 64 } = homeSlice { host := false, a := line * 64 }) →
      l ∈ s.m.stream) ∧
    ((∀ k ∈ s.m.stream, homeSlice { host := false, a := k * 64 } ≠ homeSlice { host := false, a := line * 64 }) →
      l = line) ∧
    find t.m.races l = none ∧ l ∉ t.m.stream ∧
    (∀ k, k ≠ l → find t.m.races k = find s.m.races k ∧ (k ∈ t.m.stream ↔ k ∈ s.m.stream)) ∧
    t.m.dpa = s.m.dpa := by
  refine ⟨s.begin.evictLine line, s.begin.evicted line, step_turn h, ?_, ?_, ?_, ?_, ?_, ?_, rfl⟩
  · rcases s.begin.evicted_cases line with ⟨-, hs⟩ | ⟨he, -⟩
    · exact hs
    · rw [he]
  · rintro ⟨k, hk, hs⟩
    rcases s.begin.evicted_cases line with ⟨hm, -⟩ | ⟨-, hn⟩
    · exact hm
    · exact absurd hs (hn k hk)
  · intro hn
    rcases s.begin.evicted_cases line with ⟨hm, hs⟩ | ⟨he, -⟩
    · exact absurd hs (hn _ hm)
    · exact he
  · exact (find_del ..).trans (if_pos rfl)
  · exact fun hm => by simpa using (List.mem_filter.mp hm).2
  · exact fun k hk => ⟨(find_del ..).trans (if_neg hk),
      fun hm => (List.mem_filter.mp hm).1, fun hm => List.mem_filter.mpr ⟨hm, by simpa using hk⟩⟩

theorem step_guestVps {p n : Fin 8} (h : s.agenda = .guestVps p n :: rest) : ∃ t, step s = .next t ∧
    ∀ k, Tab.get 7 t.r.vpsreq k = if k = p.val ∧ s.ports.host = true then n.val else Tab.get 7 s.r.vpsreq k := by
  refine ⟨_, step_turn h, fun k => ?_⟩
  cases hp : s.ports.host with
  | false =>
    rw [if_neg (show ¬s.begin.ports.host = true from by rw [show s.begin.ports.host = false from hp]; decide),
      if_neg (by simp)]
    rfl
  | true =>
    rw [if_pos (show s.begin.ports.host = true from hp)]
    simp only [and_true]
    exact Tab.get_set 7 s.r.vpsreq p.val k n.val

end

/-- The state in which a service core takes its turn. -/
def State.serving (s : State) (core : Fin 4) : State := { s.begin with svc := core }

section
variable {s : State} {core : Fin 4} {rest : List Turn} (h : s.agenda = .service core :: rest)
include h

theorem step_service_irq {n : Nat} (hi : (s.serving core).svcCore.interrupt = some n) :
    step s = .next (((s.serving core).updSvc (·.takeIrq n)).plainDone (.service core.val)) := by
  rw [step_turn h]
  show takeService (s.serving core) = _
  rw [takeService, hi]
  rfl

/-- Without an interrupt a service core takes what it fetches. -/
theorem step_service_fetch (hi : (s.serving core).svcCore.interrupt = none) :
    step s = match (s.serving core).svcFetch with
      | .xumak i => exec i (s.serving core)
      | .illegal w => .next ((s.serving core).svcTrap 2 (w.setWidth 64))
      | .base w => .next ((s.serving core).svcBase w)
      | .unwritten => .fault (.serviceFetch core.val (s.serving core).svcCore.pc) := by
  rw [step_turn h]
  show takeService (s.serving core) = _
  rw [takeService, hi]
  rfl

end

end Sys2Proof.Machine

namespace Sys2Proof.Proofs
open Sys2Proof.Machine

/-- Settles O5: turn by turn; a sequencer's and a service core's by what they fetch. -/
theorem aStepRunsItsTurn : Obligations.AStepRunsItsTurn := by
  unfold Obligations.AStepRunsItsTurn
  refine ⟨⟨fun s => ⟨rfl, fun slot => ?_, fun slot t t' ht ht' p hp x => s.begin_headSince hp ht ht'⟩, ?_, ?_⟩, ?_⟩
  · rw [State.begin_eq, State.task_markHeads, Option.map_map]
    rfl
  · intro s slot rank q rest h s1
    refine ⟨step_issue_none h, ?_⟩
    intro t c hc last pc w opc gated
    have hf := State.seqFetch_some hc
    have hfault {tr : Trap} (ht : s1.seqFetch = .fault tr) : step s = .next (last (s1.raise s1.cur tr)) :=
      step_issue_some h hc (takeIssue_fault ht)
    refine ⟨fun hh => hfault (hf.trans (if_neg (by rw [hh]; decide))), fun hh => ?_⟩
    have hw : s1.seqFetch = checkWord w s1.sparseOn q := hf.trans (if_pos hh)
    refine ⟨fun hb => hfault (hw.trans (checkWord_opcode hb)), fun ha hg =>
      ⟨fun hp => hfault (hw.trans (checkWord_class ha hg hp)),
        fun hp => ⟨fun hd => hfault (hw.trans (checkWord_field ha hg hp hd)), fun i hd => ?_⟩⟩⟩
    obtain ⟨x, hx⟩ := exec_answers i s1
    exact ⟨x, hx, step_issue_some h hc ((takeIssue_word (hw.trans (checkWord_word ha hg hp hd))).trans hx)⟩
  · intro s core rest h s1 pc
    refine ⟨fun n => step_service_irq h, fun hi => ?_⟩
    have hs := step_service_fetch h hi
    refine ⟨fun hm => ?_, fun hw hm hl => ?_, fun w hm => ⟨fun i hd => ?_, fun hc hd => ?_, fun hl hc => ?_⟩⟩
    · rw [hs, State.svcFetch_unwritten hm]
      rfl
    · rw [hs, State.svcFetch_half hm hl]
      rfl
    · rw [hs, State.svcFetch_word hm (custom_low (decodeXumak_custom hd)), wordFetch, hd]
      rfl
    · rw [hs, State.svcFetch_word hm (custom_low hc), wordFetch, hd]
      dsimp only
      rw [if_pos hc]
      rfl
    · have hd : decodeXumak w = none := Option.eq_none_iff_forall_ne_some.mpr fun i hd => hc (decodeXumak_custom hd)
      rw [hs, State.svcFetch_word hm hl, wordFetch, hd]
      dsimp only
      rw [if_neg hc]
      rfl
  · intro s rest s1
    refine ⟨fun i => step_event, fun i => step_noEvent, fun ns => step_turn, fun line => step_evict, fun dpa n h => ?_,
      fun core bits => step_turn, fun p n => step_guestVps, fun ctx a second h => ?_, fun n => step_turn,
      fun n x => step_turn, step_idle⟩
    · exact ⟨_, step_turn h, s1.hostRead_clears dpa n⟩
    · exact ⟨_, step_turn h, s1.walkAhead_finds ctx a second⟩

end Sys2Proof.Proofs
end

section
/-! The refusals of a submission in their order, its predecessors, and what acceptance makes (R229 to R234). -/

namespace Sys2Proof.Machine

/-! ### The refusals (R230) -/

/-- A refusal of the awaited futures is refusal 1. -/
theorem State.awaited_refuse {s : State} {ctx n : Nat} {v : Word} {vas : List Word}
    (h : s.awaited ctx vas = .refuse n v) : n = 1 := by
  induction vas with
  | nil => cases h
  | cons va vas ih =>
    rw [State.awaited] at h
    split at h
    · exact ih h
    · split at h
      · cases h
      · cases h; rfl
      · split at h
        · cases h; rfl
        · split at h
          · cases h
          · exact ih h

section
variable {s : State} {td : List Word} {va : Word} {sub : Submitter}

theorem State.checkSub_malformed (h : tdOk td = false) : s.checkSub td va sub = .refuse 1 va :=
  if_pos (by rw [h]; rfl)

variable (htd : tdOk td = true)
include htd

theorem State.checkSub_future {n : Nat} {v : Word} (hw : s.awaited sub.ctx [vaField td 6, vaField td 7] = .refuse n v) :
    s.checkSub td va sub = .refuse n v := by
  simp only [State.checkSub, htd, hw, Bool.not_true, Bool.false_eq_true, if_false]

/-- The cores of the partition in which a submission's task runs (R52). -/
def State.subCores (s : State) (ctx : Nat) : Nat :=
  match s.taskPart ctx with
  | some p => (s.partCores p).length
  | none => 0

omit htd in
theorem State.subCores_eq (hm : sub.multi = none) :
    ((s.subParts sub).map (fun p => (s.partCores p).length)).sum = s.subCores sub.ctx := by
  rw [State.subParts, hm, State.subCores]
  cases s.taskPart sub.ctx <;> simp

variable {im : Image} {xs : List Xl} (hw : s.awaited sub.ctx [vaField td 6, vaField td 7] = .ok im xs)
  (hm : sub.multi = none)
include hw hm

/-- The modes of a descriptor's ranges. -/
def tdModes (td : List Word) : List Nat := (List.range (wordField td 1 20 3)).map (fun i => wordField td (9 + 2 * i) 63 1)

/-- Past its descriptor and its futures, a submission of one partition is checked for its cores, its image, its tenant and
privilege, its stream and its process-group table, in this order. -/
theorem State.checkSub_rest : s.checkSub td va sub =
    if s.subCores sub.ctx < wordField td 1 0 5 then .refuse 2 va
    else match s.readImage sub.ctx (vaField td 0) with
      | .bad => .refuse 3 (vaField td 0)
      | .miss a pg h => .miss { code := 3, value := vaField td 0, need := Need.read, va := a, page := pg, host := h }
      | .ok img gang modes =>
        if gang ≠ wordField td 1 0 5 ∨ modes ≠ tdModes td then .refuse 3 (vaField td 0)
        else if wordField td 1 16 4 ≠ s.ctxTenant sub.ctx ∨ (wordField td 1 23 1 = 1 ∧ ¬sub.priv) then .refuse 4 va
        else if !s.streamOk (s.subParts sub) (tdStream td sub) then .refuse 5 va
        else match s.checkPgt td sub.ctx true with
          | .miss a pg h => .miss {
              code := 6, value := if vaField td 4 = 0 then va else vaField td 4, need := Need.read, va := a, page := pg,
              host := h }
          | .refuse => .refuse 6 (if vaField td 4 = 0 then va else vaField td 4)
          | .ok _ => .ok img xs := by
  rw [← State.subCores_eq hm]
  simp only [State.checkSub, htd, hw, hm, Bool.not_true, Bool.false_eq_true, if_false] <;> rfl

theorem State.checkSub_cores (hc : s.subCores sub.ctx < wordField td 1 0 5) : s.checkSub td va sub = .refuse 2 va := by
  rw [State.checkSub_rest htd hw hm, if_pos hc]

variable (hc : wordField td 1 0 5 ≤ s.subCores sub.ctx)
include hc

theorem State.checkSub_image (hi : s.readImage sub.ctx (vaField td 0) = .bad) :
    s.checkSub td va sub = .refuse 3 (vaField td 0) := by
  rw [State.checkSub_rest htd hw hm, if_neg (Nat.not_lt.mpr hc), hi]

variable {img : Image} {g : Nat} {ms : List Nat} (hi : s.readImage sub.ctx (vaField td 0) = .ok img g ms)
include hi

theorem State.checkSub_header (hg : g ≠ wordField td 1 0 5 ∨ ms ≠ tdModes td) :
    s.checkSub td va sub = .refuse 3 (vaField td 0) := by
  rw [State.checkSub_rest htd hw hm, if_neg (Nat.not_lt.mpr hc), hi]
  exact if_pos hg

variable (hg : g = wordField td 1 0 5) (hms : ms = tdModes td)
include hg hms

/-- A submission whose image agrees with its descriptor depends on its tenant, its stream and its table. -/
theorem State.checkSub_submitter : s.checkSub td va sub =
    if wordField td 1 16 4 ≠ s.ctxTenant sub.ctx ∨ (wordField td 1 23 1 = 1 ∧ ¬sub.priv) then .refuse 4 va
    else if !s.streamOk (s.subParts sub) (tdStream td sub) then .refuse 5 va
    else match s.checkPgt td sub.ctx true with
      | .miss a pg h => .miss {
          code := 6, value := if vaField td 4 = 0 then va else vaField td 4, need := Need.read, va := a, page := pg,
          host := h }
      | .refuse => .refuse 6 (if vaField td 4 = 0 then va else vaField td 4)
      | .ok _ => .ok img xs := by
  rw [State.checkSub_rest htd hw hm, if_neg (Nat.not_lt.mpr hc), hi]
  exact if_neg (not_or.mpr ⟨not_not.mpr hg, not_not.mpr hms⟩)

/-- The tenant is the context's, and privilege that the descriptor asks for is the submitter's (R230). -/
def State.TenantOk (s : State) (td : List Word) (sub : Submitter) : Prop :=
  wordField td 1 16 4 = s.ctxTenant sub.ctx ∧ (wordField td 1 23 1 = 1 → sub.priv = true)

/-- No stream, or one of the partition with a step that is not closed (R230). -/
def State.StreamOpen (s : State) (td : List Word) (sub : Submitter) : Prop :=
  tdStream td sub = some none ∨ ∃ n b x p, tdStream td sub = some (some (n, b)) ∧
    s.stream? n = some x ∧ s.taskPart sub.ctx = some p ∧ x.part = p ∧ 2 ^ 31 ≤ (x.closed - b).toNat

omit htd hw hc hi hg hms in
theorem State.streamOk_iff : s.streamOk (s.subParts sub) (tdStream td sub) = true ↔ s.StreamOpen td sub := by
  rw [State.StreamOpen, State.subParts, hm]
  dsimp only
  rcases hs : tdStream td sub with _ | _ | ⟨n, b⟩
  · simp [State.streamOk]
  · simp [State.streamOk]
  · rw [State.streamOk]
    cases hx : s.stream? n with
    | none => simp [hx]
    | some x =>
      cases hp : s.taskPart sub.ctx with
      | none => simp
      | some p => simpa [hx, stepLe] using fun _ => eq_comm

theorem State.checkSub_tenant (ht : ¬s.TenantOk td sub) : s.checkSub td va sub = .refuse 4 va := by
  rw [State.checkSub_submitter htd hw hm hc hi hg hms]
  refine if_pos ?_
  rw [State.TenantOk] at ht
  tauto

variable (ht : s.TenantOk td sub)
include ht

/-- A submission of its own tenant depends on its stream and its table. -/
theorem State.checkSub_stream_table : s.checkSub td va sub =
    if !s.streamOk (s.subParts sub) (tdStream td sub) then .refuse 5 va
    else match s.checkPgt td sub.ctx true with
      | .miss a pg h => .miss {
          code := 6, value := if vaField td 4 = 0 then va else vaField td 4, need := Need.read, va := a, page := pg,
          host := h }
      | .refuse => .refuse 6 (if vaField td 4 = 0 then va else vaField td 4)
      | .ok _ => .ok img xs := by
  rw [State.checkSub_submitter htd hw hm hc hi hg hms]
  refine if_neg ?_
  rw [State.TenantOk] at ht
  tauto

theorem State.checkSub_stream (hs : ¬s.StreamOpen td sub) : s.checkSub td va sub = .refuse 5 va := by
  rw [State.checkSub_stream_table htd hw hm hc hi hg hms ht]
  exact if_pos (by rw [← State.streamOk_iff hm, Bool.not_eq_true] at hs; rw [hs]; rfl)

variable (hs : s.StreamOpen td sub)
include hs

theorem State.checkSub_table (hp : s.checkPgt td sub.ctx true = .refuse) : ∃ v, s.checkSub td va sub = .refuse 6 v := by
  rw [State.checkSub_stream_table htd hw hm hc hi hg hms ht, (State.streamOk_iff hm).mpr hs, hp]
  exact ⟨_, rfl⟩

theorem State.checkSub_accepts {l : Word} (hp : s.checkPgt td sub.ctx true = .ok l) :
    s.checkSub td va sub = .ok img xs := by
  rw [State.checkSub_stream_table htd hw hm hc hi hg hms ht, (State.streamOk_iff hm).mpr hs, hp]
  rfl

end

/-! ### Predecessors (R232) -/

/-- Two ranges meet exactly where they share a byte. -/
theorem rangesMeet_iff (a n b m : Nat) :
    rangesMeet a n b m = true ↔ ∃ x, (a ≤ x ∧ x < a + n) ∧ b ≤ x ∧ x < b + m := by
  simp only [rangesMeet, Bool.and_eq_true, decide_eq_true_eq]
  constructor
  · rintro ⟨⟨⟨h1, h2⟩, h3⟩, h4⟩
    exact ⟨max a b, by omega, by omega⟩
  · rintro ⟨x, h1, h2⟩
    omega

theorem vaField_toNat (td : List Word) (w : Nat) : (vaField td w).toNat = (td.getD w 0).toNat % 2 ^ 57 := by
  rw [vaField, BitVec.toNat_and]
  exact Nat.and_two_pow_sub_one_eq_mod _ 57

/-- Byte `b` lies in range `i` of a descriptor. -/
def TdHolds (td : List Word) (i b : Nat) : Prop :=
  i < wordField td 1 20 3 ∧ (td.getD (8 + 2 * i) 0).toNat % 2 ^ 57 ≤ b ∧
    b < (td.getD (8 + 2 * i) 0).toNat % 2 ^ 57 + wordField td (9 + 2 * i) 0 40

/-- Range `i` of a descriptor is written. -/
def TdWrites (td : List Word) (i : Nat) : Prop := wordField td (9 + 2 * i) 63 1 = 1

theorem rangesConflict_iff (a b : List Word) : rangesConflict a b = true ↔
    ∃ i j x, TdHolds a i x ∧ TdHolds b j x ∧ (TdWrites a i ∨ TdWrites b j) := by
  simp only [rangesConflict, tdRangeList, tdRange, tdRanges, List.any_map, List.any_eq_true, List.mem_range,
    Function.comp_apply, Bool.and_eq_true, Bool.or_eq_true, decide_eq_true_eq, rangesMeet_iff, vaField_toNat, TdHolds,
    TdWrites]
  constructor
  · rintro ⟨i, hi, j, hj, hw, x, ha, hb⟩
    exact ⟨i, j, x, ⟨hi, ha⟩, ⟨hj, hb⟩, hw⟩
  · rintro ⟨i, j, x, ⟨hi, ha⟩, ⟨hj, hb⟩, hw⟩
    exact ⟨i, hi, j, hj, hw, x, ha, hb⟩

theorem Task.candidate_iff (u : Task) (ctx : Nat) (st : Option (Nat × BitVec 32)) : u.candidate ctx st = true ↔
    match st with
    | some (n, b) => u.stream = some n ∧ (b - u.step).toNat < 2 ^ 31
    | none => u.ctx = ctx ∧ u.stream = none := by
  rcases st with _ | ⟨n, b⟩ <;> simp [Task.candidate, stepLe]

theorem State.mem_predecessors (s : State) (td : List Word) (ctx p : Nat) (st : Option (Nat × BitVec 32)) :
    p ∈ s.predecessors td ctx st ↔ ∃ e ∈ s.tasks, p = e.2.id.toNat ∧ e.2.candidate ctx st = true ∧
      rangesConflict e.2.td td = true := by
  simp only [State.predecessors, List.mem_map, List.mem_filter, Bool.and_eq_true]
  constructor
  · rintro ⟨e, ⟨he, hc⟩, rfl⟩
    exact ⟨e, he, rfl, hc⟩
  · rintro ⟨e, he, rfl, hc⟩
    exact ⟨e, ⟨he, hc⟩, rfl⟩

/-! ### What a write that wakes waiters leaves of the tasks (R221, R239) -/

/-- From `s` to `t` no slot has changed its task, and a task without core-tasks has lost conditions at most. -/
structure State.Woken (s t : State) : Prop where
  gens : t.gens = s.gens
  ids : ∀ m, (t.task? m).map (·.id) = (s.task? m).map (·.id)
  idle : ∀ m u, s.task? m = some u → u.cts = [] → ∃ cs, t.task? m = some { u with conds := cs }

theorem State.Woken.of_tasks {s t : State} (hg : t.gens = s.gens) (ht : t.tasks = s.tasks) : s.Woken t where
  gens := hg
  ids m := by rw [State.task?, State.task?, ht]
  idle m u hu _ := ⟨u.conds, by rw [State.task?, ht]; exact hu⟩

theorem State.Woken.trans {s t u : State} (h : s.Woken t) (k : t.Woken u) : s.Woken u where
  gens := k.gens.trans h.gens
  ids m := (k.ids m).trans (h.ids m)
  idle m v hv hc := by
    obtain ⟨cs, hcs⟩ := h.idle m v hv hc
    exact k.idle m { v with conds := cs } hcs hc

theorem foldl_woken {β : Type} {f : State → β → State} (hf : ∀ (s : State) b, s.Woken (f s b)) (l : List β) (s : State) :
    s.Woken (l.foldl f s) := by
  induction l generalizing s with
  | nil => exact .of_tasks rfl rfl
  | cons b l ih => exact (hf s b).trans (ih _)

theorem State.updCt_woken (s : State) (slot rank : Nat) (f : CoreTask → CoreTask) : s.Woken (s.updCt slot rank f) where
  gens := State.updCt_gens ..
  ids m := by
    unfold State.updCt
    split
    · rw [State.task_putCt]
      split
      · next hm => rw [hm, Option.map_map]; rfl
      · rfl
    · rfl
  idle m u hu hc := by
    refine ⟨u.conds, ?_⟩
    unfold State.updCt
    split
    · next c hct =>
      rw [State.task_putCt]
      split
      · next hm =>
        subst hm
        rw [State.ct?, hu, Option.bind_some, Task.ct?, hc] at hct
        cases hct
      · exact hu
    · exact hu

theorem State.updTask_woken (s : State) (n : Nat) (f : Task → List ParkCond) :
    s.Woken (s.updTask n (fun t => { t with conds := f t })) where
  gens := State.updTask_gens ..
  ids m := by
    rw [State.task_updTask]
    split
    · next hm => rw [hm, Option.map_map]; rfl
    · rfl
  idle m u hu _ := by
    rw [State.task_updTask]
    split
    · next hm => rw [← hm, hu]; exact ⟨_, rfl⟩
    · exact ⟨u.conds, hu⟩

theorem State.wakeWaita_woken (s : State) (p : Pigeon) (v : Word) (y : Option Stamp) : s.Woken (s.wakeWaita p v y) :=
  (State.updCt_woken ..).trans (State.updTask_woken ..)

theorem State.testSlice_woken (s : State) (sl a n : Nat) : s.Woken (s.testSlice sl a n) := by
  unfold State.testSlice
  dsimp only
  split
  · exact .of_tasks rfl rfl
  · refine State.Woken.trans ?_ (foldl_woken (fun _ _ => State.wakeWaita_woken ..) _ _)
    exact .of_tasks rfl rfl

theorem State.noteWrite_woken (s : State) (f : FAddr) (n : Nat) (keep : Bool) (by_ : Writer) (rel : Option Stamp) :
    s.Woken (s.noteWrite f n keep by_ rel) := by
  unfold State.noteWrite
  split
  · exact .of_tasks rfl rfl
  · split
    · unfold State.dropLines
      dsimp only
      split <;> exact .of_tasks rfl rfl
    · rcases by_ with _ | w <;> rcases rel with _ | st <;> exact .of_tasks rfl rfl

theorem State.writeFinal_woken (s : State) (f : FAddr) (bs : List Byte) : s.Woken (s.writeFinal f bs) := by
  unfold State.writeFinal
  split
  · split <;> exact .of_tasks rfl rfl
  · exact .of_tasks rfl rfl

theorem State.applyWrite_woken (s : State) (f : FAddr) (bs : List Byte) (keep : Bool) (by_ : Writer) (rel : Option Stamp) :
    s.Woken (s.applyWrite f bs keep by_ rel) := by
  have ht (s : State) : s.Woken (s.testPigeons f bs.length) := by
    unfold State.testPigeons
    split
    · exact .of_tasks rfl rfl
    · exact foldl_woken (fun _ _ => State.testSlice_woken ..) _ _
  exact (((State.writeFinal_woken ..).trans (State.noteWrite_woken ..)).trans (ht _)).trans (.of_tasks rfl rfl)

theorem State.registerAt_woken (s : State) (f : FAddr) (keep : Bool) (by_ : Writer) (w : FutWaiter) :
    s.Woken (s.registerAt f keep by_ w) := (State.applyWrite_woken ..).trans (.of_tasks rfl rfl)

/-! ### Acceptance (R231, R234) -/

theorem State.freeTaskSlot_eq {s : State} {n : Nat} (hn : n < 4096) (hf : s.task? n = none)
    (hb : ∀ m < n, (s.task? m).isSome) : s.freeTaskSlot = n := by
  have : (List.range 4096).find? (fun n => (s.task? n).isNone) = some n :=
    List.find?_range_eq_some.mpr ⟨by rw [hf]; rfl, List.mem_range.mpr hn, fun m hm => by
      obtain ⟨t, ht⟩ := Option.isSome_iff_exists.mp (hb m hm)
      rw [ht]; rfl⟩
  rw [State.freeTaskSlot, this]
  rfl

/-- Acceptance puts a task without core-tasks into the lowest free slot, and then registers its awaited futures. -/
theorem State.accept_puts (s : State) (td : List Word) (sub : Submitter) (img : Image) (futs : List Xl) (job : Option Job) :
    ∃ (s1 : State) (t : Task), s1.Woken (s.accept td sub img futs job).1 ∧
      s1.tasks = Tab.put s.freeTaskSlot t s.tasks ∧
      s1.gens = Tab.set 0 s.gens s.freeTaskSlot (Tab.get 0 s.gens s.freeTaskSlot + 1) ∧
      (s.accept td sub img futs job).2 = Tab.get 0 s.gens s.freeTaskSlot ++ BitVec.ofNat 12 s.freeTaskSlot ∧
      t.id = (s.accept td sub img futs job).2 ∧ t.td = td ∧ t.ctx = sub.ctx ∧
      t.preds = s.predecessors td sub.ctx ((tdStream td sub).getD none) ∧
      t.counter = t.preds.length + (s.unresolved futs).length ∧
      t.state = (if t.counter = 0 then .ready else .submitted) ∧ t.cts = [] :=
  ⟨_, _, foldl_woken (fun _ _ => State.registerAt_woken ..) _ _, rfl, rfl, rfl, rfl, rfl, rfl, rfl, rfl, rfl, rfl⟩

/-- An identifier is its slot's generation over the slot's number (R231). -/
theorem taskId_toNat (g : BitVec 20) {n : Nat} (hn : n < 4096) : (g ++ BitVec.ofNat 12 n).toNat = g.toNat * 4096 + n := by
  rw [BitVec.toNat_append, BitVec.toNat_ofNat, Nat.mod_eq_of_lt hn, ← Nat.shiftLeft_add_eq_or_of_lt hn,
    Nat.shiftLeft_eq]

end Sys2Proof.Machine
end

section
/-! TSUBMIT (R229, R235, R237): what the word answers before it has its descriptor, and with it. -/

namespace Sys2Proof.Machine

/-! ### Up to the descriptor -/

/-- How a TSUBMIT is used. -/
def submitUse (k : BitVec 8) (d : GReg) : WordUse := { perm := [.c], cons := k, dst := gDst d }

/-- A TSUBMIT that has neither its descriptor nor a request at the peer. -/
def CoreTask.SubmitsAnew (c : CoreTask) : Prop :=
  (∀ r v, c.waitOf .c ≠ some (.remote r v)) ∧ ∀ td n, c.waitOf .c ≠ some (.submit td n)

/-- The descriptor's read counts as accesses, and its misses no longer count. -/
def State.submitted (s : State) (t : Task) (va : Word) (c : CoreTask) : State :=
  (s.noteVa t.ctx Need.waita va 128).clearWord s.cur.slot s.cur.rank 0 c.seqC.pc

/-- A TSUBMIT behind its release: it reads its descriptor and goes on with it. -/
def submitGo (va : Word) (fut : Option Word) (d : GReg) (t : Task) (s : State) (c : CoreTask) : Res State :=
  match s.readAs t.ctx Need.waita va 128 with
  | .trap tr => .trap tr
  | .miss a pg h => missWord s Need.waita a pg h
  | .ok bs => submitRead (patchDesc (descWords bs) fut (t.stream.map (fun n => (n, t.step)))) va d t s c

/-- A TSUBMIT with its operands in order: the descriptor's page, the release, the descriptor. -/
def submitDesc (va : Word) (fut : Option Word) (d : GReg) (t : Task) (s : State) (c : CoreTask) : Res State :=
  match s.readAs t.ctx Need.waita va 128 with
  | .trap tr => .trap tr
  | .miss a pg h => missWord s Need.waita a pg h
  | .ok _ => afterRelease .sys (s.submitted t va c) (submitGo va fut d t)

/-- A TSUBMIT without its descriptor. -/
def submitFirst (va : Word) (fut : Option Word) (d : GReg) (t : Task) (s : State) (c : CoreTask) : Res State :=
  if va.toNat % 64 ≠ 0 then .trap (trapAt .align va)
  else if fut.any (fun v => decide (v.toNat % 16 ≠ 0)) then .trap (trapAt .align (fut.getD 0))
  else submitDesc va fut d t s c

/-- TSUBMIT and TSUBMIT.F are one word; `fut` is the successor future of the second. -/
theorem exec_tsubmit_forms {k : BitVec 8} {d a f : GReg} {i : Instr} {fut : Option Word} {c : CoreTask}
    (h : (i = .tsubmit k d a ∧ fut = none) ∨ (i = .tsubmitF k d a f ∧ fut = some (c.seqC.rd f))) :
    ∃ fo : Option GReg, (∀ s, exec i s = submitWord k d a fo s) ∧ fo.map (fun g => c.seqC.rd g) = fut := by
  obtain ⟨rfl, rfl⟩ | ⟨rfl, rfl⟩ := h
  · exact ⟨none, fun _ => rfl, rfl⟩
  · exact ⟨some f, fun _ => rfl, rfl⟩

section
variable {k : BitVec 8} {d a : GReg} {fo : Option GReg} {s : State} {c : CoreTask} {t : Task}
  (h : s.Enters (submitUse k d) c)
include h

theorem submitWord_asked {r : Nat} (hw : c.waitOf .c = some (.remote r none)) :
    submitWord k d a fo s = .next (s.waitsIn (s.withCur c) (.remote r none)) :=
  runGlobal_wait h (by simp only [hw])

theorem submitWord_answered {r : Nat} {v : Word} (hw : c.waitOf .c = some (.remote r (some v))) :
    submitWord k d a fo s = .next ((s.withCur c).goesOn s.cur (submitUse k d) (some (d, v))) :=
  runGlobal_done h (by simp only [hw])

variable (ht : (s.withCur c).task? s.cur.slot = some t)
include ht

theorem submitWord_first (hf : c.SubmitsAnew) : submitWord k d a fo s =
    runGlobal (submitUse k d) (submitFirst (c.seqC.rd a) (fo.map (fun g => c.seqC.rd g)) d t) s := by
  refine runGlobal_congr h ?_
  have ht' : (s.withCur c).task? (s.withCur c).cur.slot = some t := by rw [State.withCur_cur]; exact ht
  dsimp only
  split
  · exact absurd ‹_› (hf.1 _ _)
  · exact absurd ‹_› (hf.1 _ _)
  · rw [ht']
    dsimp only
    split
    · exact absurd ‹_› (hf.2 _ _)
    · rfl

/-- A TSUBMIT that was held goes on with the descriptor that it has read. -/
theorem submitWord_held {td : List Word} {n : Bool} (hw : c.waitOf .c = some (.submit td n)) : submitWord k d a fo s =
    runGlobal (submitUse k d) (fun _ _ => submitRead td (c.seqC.rd a) d t (s.withCur c) c) s := by
  refine runGlobal_congr h ?_
  simp only [hw, State.withCur_cur, ht]

end

section
variable {va : Word} {fut : Option Word} {d : GReg} {t : Task} {s : State} {c : CoreTask}

theorem submitFirst_align (hva : ¬64 ∣ va.toNat) : submitFirst va fut d t s c = .trap (trapAt .align va) :=
  if_pos (by omega)

variable (hva : 64 ∣ va.toNat)
include hva

theorem submitFirst_future {v : Word} (hf : fut = some v) (hv : ¬16 ∣ v.toNat) :
    submitFirst va fut d t s c = .trap (trapAt .align v) := by
  subst hf
  have h1 : ¬va.toNat % 64 ≠ 0 := by omega
  have h2 : v.toNat % 16 ≠ 0 := by omega
  exact (if_neg h1).trans (if_pos (decide_eq_true h2))

theorem submitFirst_desc (hf : ∀ v, fut = some v → 16 ∣ v.toNat) :
    submitFirst va fut d t s c = submitDesc va fut d t s c := by
  have h1 : ¬va.toNat % 64 ≠ 0 := by omega
  have h2 : fut.any (fun v => decide (v.toNat % 16 ≠ 0)) = false := by
    rw [Option.any_eq_false]
    intro v hv
    have := hf v hv
    exact decide_eq_false (by omega)
  simp only [submitFirst, h1, h2, if_false, Bool.false_eq_true]

end

section
variable {va : Word} {fut : Option Word} {d : GReg} {t : Task} {s : State} {c : CoreTask} {b0 : List Byte}

@[simp] theorem State.submitted_cur : (s.submitted t va c).cur = s.cur :=
  (State.clearWord_cur ..).trans (congrArg (·.2.2) (s.noteVa_work ..))

theorem submitDesc_trap {tr : Trap} (hb : s.readAs t.ctx Need.waita va 128 = .trap tr) :
    submitDesc va fut d t s c = .trap tr := by
  rw [submitDesc, hb]

variable (hb : s.readAs t.ctx Need.waita va 128 = .ok b0) {s1 : State}
include hb

theorem submitDesc_wait (hr : (s.submitted t va c).testRelease s.cur .sys = .wait s1) :
    submitDesc va fut d t s c = .wait s1 .plain := by
  rw [submitDesc, hb]
  exact afterRelease_wait (by rw [State.submitted_cur]; exact hr)

/-- A TSUBMIT whose release is met goes on with the descriptor that it reads then. -/
theorem submitDesc_read {bs : List Byte} {c1 : CoreTask} (hr : (s.submitted t va c).testRelease s.cur .sys = .ready s1)
    (hc : s1.ct? s.cur.slot s.cur.rank = some c1) (hbs : s1.readAs t.ctx Need.waita va 128 = .ok bs) :
    submitDesc va fut d t s c =
      submitRead (patchDesc (descWords bs) fut (t.stream.map (fun n => (n, t.step)))) va d t s1 c1 := by
  rw [submitDesc, hb]
  refine (afterRelease_ready (by rw [State.submitted_cur]; exact hr) (by rw [State.submitted_cur]; exact hc)).trans ?_
  rw [submitGo, hbs]

end

/-! ### With the descriptor -/

/-- The submitter that a task is. -/
def Task.submitter (t : Task) : Submitter := {
  ctx := t.ctx, priv := t.privileged, host := false, stream := t.stream.map (fun n => (n, t.step)), job := some t.job,
  multi := none }

/-- The checks of a submission count as accesses of its context, and their misses no longer count. -/
def State.checkedSub (s : State) (td : List Word) (t : Task) (a : Agent) (pc : BitVec 32) : State :=
  (s.noteSub td t.ctx).clearWord a.slot a.rank 0 pc

section
variable {td : List Word} {va : Word} {d : GReg} {t : Task} {s : State} {c : CoreTask}

theorem submitRead_here (h : wordField td 1 28 1 = 0) :
    submitRead td va d t s c = submitHere td va d t t.submitter s (c.updSeq .c Seq.release) :=
  if_neg (by omega)

theorem submitRead_remote (h : wordField td 1 28 1 = 1) :
    submitRead td va d t s c = submitRemote td d t t.submitter s (c.updSeq .c Seq.release) :=
  if_pos h

theorem submitHere_refuse {n : Nat} {x : Word} (hck : s.checkSub td va t.submitter = .refuse n x)
    (hq : s.quotaOk (s.ctxTenant t.ctx) td 0 = true) : submitHere td va d t t.submitter s c =
      .done ((s.checkedSub td t s.cur c.seqC.pc).putCt s.cur.slot s.cur.rank c) (some (d, -(BitVec.ofNat 64 n))) := by
  have hq' : s.quotaOk (s.ctxTenant t.submitter.ctx) td 0 = true := hq
  simp only [submitHere, hck, hq', Bool.not_true, Bool.false_eq_true, if_false]
  rfl

theorem State.task_updCt_ctx {n : Nat} (ht : s.task? n = some t) (slot rank : Nat) (f : CoreTask → CoreTask) :
    ∃ u, (s.updCt slot rank f).task? n = some u ∧ u.ctx = t.ctx := by
  unfold State.updCt
  split
  · rw [State.task_putCt]
    split
    · next h => rw [← h, ht]; exact ⟨_, rfl, rfl⟩
    · exact ⟨t, ht, rfl⟩
  · exact ⟨t, ht, rfl⟩

/-- A context without page requests faults at a miss (R180). -/
theorem State.missPark_refused {slot rank kind page : Nat} {need : Need} {host : Bool} {w : BitVec 32}
    (ht : s.task? slot = some t) (hp : s.prqEnabled t.ctx = false) :
    s.missPark slot rank kind need va page host w = .inl (pageTrap 0 va) := by
  simp only [State.missPark, ht, State.missTrap, hp, Bool.false_eq_true, if_false]

/-- A miss for which no page can be asked is the refusal of what was to be read (R180, R230). -/
theorem missRefuse_refuses {m : SubMiss} {t1 : Task} (ht : s.task? s.cur.slot = some t1) (hp : s.prqEnabled t1.ctx = false) :
    missRefuse td s c d m = .done ((s.clearWord s.cur.slot s.cur.rank 0 c.seqC.pc).putCt s.cur.slot s.cur.rank c)
      (some (d, -(BitVec.ofNat 64 m.code))) := by
  let f : Seq → Seq := fun q => q.await (.submit td c.submitCounted) s.dtime s.fresh
  obtain ⟨t2, ht2, hctx⟩ : ∃ t2, (s.updSeq s.cur f).task? s.cur.slot = some t2 ∧ t2.ctx = t1.ctx :=
    State.task_updCt_ctx ht ..
  have hp2 : (s.updSeq s.cur f).prqEnabled t2.ctx = false := by
    rw [← hp, hctx]
    simp only [State.prqEnabled, State.ctxWord, State.updSeq_r]
  rw [missRefuse, State.missPark_refused ht2 hp2]
  exact if_neg (by rintro ⟨⟩)

theorem submitHere_miss {m : SubMiss} {t1 : Task} (hck : s.checkSub td va t.submitter = .miss m)
    (hq : s.quotaOk (s.ctxTenant t.ctx) td 0 = true) (ht : s.task? s.cur.slot = some t1)
    (hp : s.prqEnabled t1.ctx = false) : submitHere td va d t t.submitter s c =
      .done ((s.clearWord s.cur.slot s.cur.rank 0 c.seqC.pc).putCt s.cur.slot s.cur.rank c)
        (some (d, -(BitVec.ofNat 64 m.code))) := by
  have hq' : s.quotaOk (s.ctxTenant t.submitter.ctx) td 0 = true := hq
  simp only [submitHere, hck, hq', Bool.not_true, Bool.false_eq_true, if_false]
  exact missRefuse_refuses ht hp

section
variable {img : Image} {xs : List Xl} (hck : s.checkSub td va t.submitter = .ok img xs)
include hck

theorem submitHere_held (hq : s.quotaOk (s.ctxTenant t.ctx) td (s.unresolved xs).length = false) :
    submitHere td va d t t.submitter s c =
      .wait (if c.submitCounted then s else s.addThrot (s.ctxTenant t.ctx)) (.submit td true) := by
  have hq' : s.quotaOk (s.ctxTenant t.submitter.ctx) td (s.unresolved xs).length = false := hq
  simp only [submitHere, hck, hq', Bool.not_false, if_true]
  rfl

theorem submitHere_accepted (hq : s.quotaOk (s.ctxTenant t.ctx) td (s.unresolved xs).length = true) :
    submitHere td va d t t.submitter s c =
      let s3 := (((s.checkedSub td t s.cur c.seqC.pc).putCt s.cur.slot s.cur.rank c).jobMore t.job).accept td t.submitter img xs
        none
      .done s3.1 (some (d, s3.2.setWidth 64)) := by
  have hq' : s.quotaOk (s.ctxTenant t.submitter.ctx) td (s.unresolved xs).length = true := hq
  simp only [submitHere, hck, hq', Bool.not_true, Bool.false_eq_true, if_false]
  rfl

end

/-- A peer can be asked: the links are on and the peer port is trained (R19, R319). -/
def State.Linked (s : State) : Prop := s.r.featw0.getLsbD 4 = true ∧ s.ports.peer = true

theorem submitRemote_unlinked (h : ¬s.Linked) : submitRemote td d t t.submitter s c = .trap (trapOf .linkMiss) := by
  refine if_pos ?_
  rw [State.Linked] at h
  cases hf : s.r.featw0.getLsbD 4 <;> cases hp : s.ports.peer <;> simp_all

/-- A remote submission that a peer can be asked for: its fields, and then its table. -/
theorem submitRemote_linked (h : s.Linked) : submitRemote td d t t.submitter s c =
    if !tdOk td then .done (s.putCt s.cur.slot s.cur.rank c) (some (d, -1))
    else match s.checkPgt td t.ctx false with
      | .miss a pg h => missRefuse td s c d { code := 6, value := 0, need := Need.read, va := a, page := pg, host := h }
      | .refuse => .done (s.putCt s.cur.slot s.cur.rank c) (some (d, -6))
      | .ok link =>
        let s1 := (((s.notePgt t.ctx (vaField td 4)).clearWord s.cur.slot s.cur.rank 0 c.seqC.pc).putCt s.cur.slot s.cur.rank
          c).jobMore t.job
        .wait (State.sendPeer { s1 with ports := { s1.ports with
            nextReq := s.ports.nextReq + 1,
            reqs := Tab.put s.ports.nextReq (t.job, (agentId s.cur.slot s.cur.rank 0).toNat) s1.ports.reqs } }
          (.submit link s.ports.nextReq td)) (.remote s.ports.nextReq none) := by
  obtain ⟨hf, hp⟩ := h
  refine (if_neg ?_).trans rfl
  rw [hf, hp]
  exact Bool.false_ne_true

/-- A remote submission has left for the peer: its job has one more, and its request is noted. -/
def State.askedPeer (s : State) (td : List Word) (link : Word) (t : Task) (a : Agent) (c : CoreTask) : State :=
  let s2 := (((s.notePgt t.ctx (vaField td 4)).clearWord a.slot a.rank 0 c.seqC.pc).putCt a.slot a.rank c).jobMore t.job
  { s2 with ports := { s2.ports with
    nextReq := s.ports.nextReq + 1,
    reqs := Tab.put s.ports.nextReq (t.job, (agentId a.slot a.rank 0).toNat) s2.ports.reqs,
    sent := s2.ports.sent ++ [.submit link s.ports.nextReq td] } }

@[simp] theorem State.clearWord_ports (slot rank kind : Nat) (w : BitVec 32) :
    (s.clearWord slot rank kind w).ports = s.ports := by
  unfold State.clearWord
  split
  · dsimp only
    split <;> rfl
  · rfl

@[simp] theorem State.jobMore_ports (j : Nat) : (s.jobMore j).ports = s.ports := by
  unfold State.jobMore State.updJob
  split <;> rfl

@[simp] theorem State.notePgt_ports (ctx : Nat) : (s.notePgt ctx va).ports = s.ports :=
  congrArg (·.2.1) (s.notePgt_work ctx va)

theorem submitRemote_asks {link : Word} (h : s.Linked) (htd : tdOk td = true) (hg : s.checkPgt td t.ctx false = .ok link) :
    submitRemote td d t t.submitter s c = .wait (s.askedPeer td link t s.cur c) (.remote s.ports.nextReq none) := by
  rw [submitRemote_linked h, htd, hg]
  refine congrArg (Res.wait · _) (State.sendPeer_trained ?_ _)
  simp [h.2]

end

/-! ### A TSUBMIT of a core-task -/

/-- A TSUBMIT with the successor future `fo` enters on a core-task of a task. -/
structure Submits (s : State) (k : BitVec 8) (d : GReg) (c : CoreTask) (t : Task) : Prop where
  enters : s.Enters (submitUse k d) c
  task : (s.withCur c).task? s.cur.slot = some t

section
variable {s : State} {k : BitVec 8} {d a : GReg} {fo : Option GReg} {c : CoreTask} {t : Task} (h : Submits s k d c t)
include h

theorem Submits.desc (hf : c.SubmitsAnew) (hva : 64 ∣ (c.seqC.rd a).toNat)
    (hfut : ∀ v, fo.map (fun g => c.seqC.rd g) = some v → 16 ∣ v.toNat) : submitWord k d a fo s =
      runGlobal (submitUse k d) (submitDesc (c.seqC.rd a) (fo.map (fun g => c.seqC.rd g)) d t) s := by
  rw [submitWord_first h.enters h.task hf]
  exact runGlobal_congr h.enters (submitFirst_desc hva hfut)

end

/-- A TSUBMIT goes on with its descriptor `td` in `s1`, in which `c1` issues. -/
structure Submitting (i : Instr) (s : State) (k : BitVec 8) (d : GReg) (c : CoreTask) (t : Task) (va : Word) (td : List Word)
    (s1 : State) (c1 : CoreTask) : Prop where
  enters : s.Enters (submitUse k d) c
  run : exec i s = runGlobal (submitUse k d) (fun _ _ => submitRead td va d t s1 c1) s
  cur : s1.cur = s.cur

section
variable {i : Instr} {s : State} {k : BitVec 8} {d : GReg} {c : CoreTask} {t : Task} {va : Word} {td : List Word}
  {s1 : State} {c1 : CoreTask} (h : Submitting i s k d c t va td s1 c1)
include h

section
variable (h0 : wordField td 1 28 1 = 0)
include h0

theorem Submitting.refused {n : Nat} {x : Word} (hck : s1.checkSub td va t.submitter = .refuse n x)
    (hq : s1.quotaOk (s1.ctxTenant t.ctx) td 0 = true) : exec i s =
      .next (((s1.checkedSub td t s.cur c1.seqC.pc).putCt s.cur.slot s.cur.rank (c1.updSeq .c Seq.release)).goesOn s.cur
        (submitUse k d) (some (d, -(BitVec.ofNat 64 n)))) := by
  have hb := (submitRead_here h0 (c := c1) (d := d)).trans (submitHere_refuse hck hq)
  rw [h.cur] at hb
  exact h.run.trans (runGlobal_done h.enters hb)

theorem Submitting.unread {m : SubMiss} {t1 : Task} (hck : s1.checkSub td va t.submitter = .miss m)
    (hq : s1.quotaOk (s1.ctxTenant t.ctx) td 0 = true) (ht : s1.task? s.cur.slot = some t1)
    (hp : s1.prqEnabled t1.ctx = false) : exec i s =
      .next (((s1.clearWord s.cur.slot s.cur.rank 0 c1.seqC.pc).putCt s.cur.slot s.cur.rank
        (c1.updSeq .c Seq.release)).goesOn s.cur (submitUse k d) (some (d, -(BitVec.ofNat 64 m.code)))) := by
  have hb := (submitRead_here h0 (c := c1) (d := d)).trans (submitHere_miss hck hq (by rw [h.cur]; exact ht) hp)
  rw [h.cur] at hb
  exact h.run.trans (runGlobal_done h.enters hb)

variable {img : Image} {xs : List Xl} (hck : s1.checkSub td va t.submitter = .ok img xs)
include hck

theorem Submitting.held (hq : s1.quotaOk (s1.ctxTenant t.ctx) td (s1.unresolved xs).length = false) : exec i s =
    .next (s.waitsIn (if c1.submitCounted then s1 else s1.addThrot (s1.ctxTenant t.ctx)) (.submit td true)) :=
  h.run.trans (runGlobal_wait h.enters ((submitRead_here h0).trans (submitHere_held hck hq)))

theorem Submitting.accepted (hq : s1.quotaOk (s1.ctxTenant t.ctx) td (s1.unresolved xs).length = true) :
    let s3 := (((s1.checkedSub td t s.cur c1.seqC.pc).putCt s.cur.slot s.cur.rank (c1.updSeq .c Seq.release)).jobMore
      t.job).accept td t.submitter img xs none
    exec i s = .next (s3.1.goesOn s.cur (submitUse k d) (some (d, s3.2.setWidth 64))) := by
  have hb := (submitRead_here h0 (c := c1) (d := d)).trans (submitHere_accepted hck hq)
  rw [h.cur] at hb
  exact h.run.trans (runGlobal_done h.enters hb)

end

section
variable (h1 : wordField td 1 28 1 = 1)
include h1

theorem Submitting.unlinked (hl : ¬s1.Linked) : exec i s = .next (s.trapped c (trapOf .linkMiss)) :=
  h.run.trans (runGlobal_trap h.enters ((submitRead_remote h1).trans (submitRemote_unlinked hl)))

variable (hl : s1.Linked)
include hl

theorem Submitting.malformed (htd : tdOk td = false) : exec i s =
    .next ((s1.putCt s.cur.slot s.cur.rank (c1.updSeq .c Seq.release)).goesOn s.cur (submitUse k d) (some (d, -1))) := by
  have hb := (submitRead_remote h1 (va := va) (t := t) (c := c1) (d := d)).trans (submitRemote_linked hl)
  rw [htd, h.cur] at hb
  exact h.run.trans (runGlobal_done h.enters hb)

variable (htd : tdOk td = true)
include htd

theorem Submitting.tableless (hg : s1.checkPgt td t.ctx false = .refuse) : exec i s =
    .next ((s1.putCt s.cur.slot s.cur.rank (c1.updSeq .c Seq.release)).goesOn s.cur (submitUse k d) (some (d, -6))) := by
  have hb := (submitRead_remote h1 (va := va) (t := t) (c := c1) (d := d)).trans (submitRemote_linked hl)
  rw [htd, hg, h.cur] at hb
  exact h.run.trans (runGlobal_done h.enters hb)

theorem Submitting.asks {l : Word} (hg : s1.checkPgt td t.ctx false = .ok l) : exec i s =
    .next (s.waitsIn (s1.askedPeer td l t s.cur (c1.updSeq .c Seq.release)) (.remote s1.ports.nextReq none)) := by
  have hb := (submitRead_remote h1 (va := va) (c := c1) (d := d)).trans (submitRemote_asks hl htd hg)
  rw [h.cur] at hb
  exact h.run.trans (runGlobal_wait h.enters hb)

end
end

end Sys2Proof.Machine

namespace Sys2Proof.Proofs
open Sys2Proof.Machine

/-- Settles O42: a TSUBMIT by how it comes to its descriptor and then by the checks of `submitRead`, the refusals one after
another, an acceptance by the slot it fills, whose awaited futures leave its new task alone (`State.Woken`). -/
theorem tasksAreSubmittedAndAccepted : Obligations.TasksAreSubmittedAndAccepted := by
  unfold Obligations.TasksAreSubmittedAndAccepted
  refine ⟨?_, ?_, ?_, ?_⟩
  · intro k d a f i fut s c t b0 u h ht hi va s0 stream fresh first
    obtain ⟨fo, hx, rfl⟩ := exec_tsubmit_forms hi
    have hs : Submits s k d c t := ⟨h, ht⟩
    have h0 : s0 = (s.withCur c).submitted t va c := by rw [State.submitted, State.withCur_cur]
    have hfirst (hf : fresh) := (hx s).trans (submitWord_first h ht hf)
    have hdesc (hf : first) := (hx s).trans (hs.desc hf.1 hf.2.1 hf.2.2)
    have hcur : (s.withCur c).cur = s.cur := State.withCur_cur s c
    refine ⟨fun hf hva => (hfirst hf).trans (runGlobal_trap h (submitFirst_align hva)),
      fun v hf hva hv hn => (hfirst hf).trans (runGlobal_trap h (submitFirst_future hva hv hn)),
      fun tr hf hb => (hdesc hf).trans (runGlobal_trap h (submitDesc_trap hb)),
      fun s1 hf hb hr => (hdesc hf).trans (runGlobal_wait h (submitDesc_wait hb (by rw [hcur, ← h0]; exact hr))),
      fun r hw => (hx s).trans (submitWord_asked h hw), fun r v hw => (hx s).trans (submitWord_answered h hw),
      fun td s1 c1 hroute => ?_⟩
    have hg : Submitting i s k d c t va td s1 c1 := by
      obtain ⟨hf, hb, hr, hc, bs, hbs, rfl⟩ | ⟨⟨n, hw⟩, rfl, rfl⟩ := hroute
      · refine ⟨h, (hdesc hf).trans (runGlobal_congr h (submitDesc_read hb ?_ ?_ hbs)), ?_⟩
        · rw [hcur, ← h0]; exact hr
        · rw [hcur]; exact hc
        · rw [State.testRelease_cur hr, h0, State.submitted_cur, hcur]
      · exact ⟨h, (hx s).trans (submitWord_held h ht hw), hcur⟩
    exact ⟨fun h0 => ⟨fun n x => hg.refused h0, fun m t1 => hg.unread h0, fun img xs hck =>
        ⟨hg.held h0 hck, hg.accepted h0 hck⟩⟩,
      fun h1 => ⟨hg.unlinked h1, hg.malformed h1, hg.tableless h1, fun l hl htd => hg.asks h1 hl htd⟩⟩
  · intro s td va sub waited image cores modes gang
    refine ⟨State.checkSub_malformed, fun htd => ⟨fun n v hw => ?_, fun im xs hw hm => ⟨State.checkSub_cores htd hw hm,
      fun hc => ⟨State.checkSub_image htd hw hm hc, fun img g ms hi => ⟨State.checkSub_header htd hw hm hc hi,
        fun hg hms => ⟨State.checkSub_tenant htd hw hm hc hi hg hms, fun ht hs => ?_, fun ht hs => ⟨?_, fun l hl => ?_⟩⟩⟩⟩⟩⟩⟩
    · exact ⟨State.checkSub_future htd hw, State.awaited_refuse hw⟩
    · exact State.checkSub_stream htd hw hm hc hi hg hms ht hs
    · exact State.checkSub_table htd hw hm hc hi hg hms ht hs
    · exact State.checkSub_accepts htd hw hm hc hi hg hms ht hs hl
  · intro s td sub img futs job n hn hf hb r preds open_
    obtain ⟨s1, t, hw, htasks, hgens, hid, htid, htd, hctx, hpreds, hcount, hstate, hcts⟩ :=
      s.accept_puts td sub img futs job
    rw [State.freeTaskSlot_eq hn hf hb] at htasks hgens hid
    have hself : s1.task? n = some t := by rw [State.task?, htasks]; exact find_put_self ..
    obtain ⟨cs, hput⟩ := hw.idle n t hself hcts
    have hopen : t.counter = preds.length + open_.length := by rw [hcount, hpreds]; rfl
    refine ⟨?_, ⟨_, hput, htid, htd, hctx, hpreds, hopen, hstate.trans (by rw [hopen]), hcts⟩, ?_, fun m hm => ⟨?_, ?_⟩⟩
    · rw [show r.2 = _ from hid]
      exact taskId_toNat _ hn
    · rw [show r.1.gens = _ from hw.gens, hgens, Tab.get_set, if_pos rfl]
    · refine (hw.ids m).trans ?_
      rw [State.task?, htasks, find_put_ne _ _ hm]
      rfl
    · rw [show r.1.gens = _ from hw.gens, hgens, Tab.get_set, if_neg hm]
  · intro s td ctx p st start holds writes
    rw [State.mem_predecessors]
    refine exists_congr fun e => and_congr_right fun _ => and_congr_right fun _ => and_congr ?_ (rangesConflict_iff _ _)
    exact Task.candidate_iff ..

end Sys2Proof.Proofs
end

section
/-! What takes device time (log 2): no function of the model, but the turn of time itself. The layer goes through the model's
functions in its own order; a function that answers a state among other answers has its rule for that answer. -/

namespace Sys2Proof.Machine

@[simp] theorem foldl_dtime {β : Type} {f : State → β → State} (h : ∀ s b, (f s b).dtime = s.dtime) (l : List β)
    (s : State) : (l.foldl f s).dtime = s.dtime := foldl_keeps State.dtime h l s

/-- A step takes no device time. -/
structure KeepsTime (s : State) (x : Host.Outcome State Fault Refusal) : Prop where
  next : ∀ t, x = .next t → t.dtime = s.dtime

@[simp] theorem keepsTime_next {s t : State} : KeepsTime s (.next t) ↔ t.dtime = s.dtime :=
  ⟨fun h => h.next t rfl, fun h => ⟨by rintro _ ⟨⟩; exact h⟩⟩

@[simp] theorem keepsTime_ok {s t : State} : KeepsTime s (ok t) ↔ t.dtime = s.dtime := keepsTime_next

@[simp] theorem keepsTime_idle {s : State} : KeepsTime s (idle s) := keepsTime_next.mpr rfl

theorem fromHost_keepsTime {s : State} {f : Nat} {x : Host.Outcome State Fault Refusal} (h : KeepsTime s x) :
    KeepsTime s (fromHost s f x) := by
  unfold fromHost
  split
  · exact h
  · exact keepsTime_idle

@[simp] theorem nextOf_dtime {s : State} {x : Host.Outcome State Fault Refusal} (h : KeepsTime s x) :
    (nextOf s x).dtime = s.dtime := by
  unfold nextOf
  split
  · next t => exact h.next t rfl
  · rfl

/-! ### Ops -/

@[simp] theorem State.updCur_dtime (s : State) (f : CoreTask → CoreTask) :
    (s.updCur f).dtime = s.dtime := by simp [State.updCur]

@[simp] theorem State.raiseDeferred_dtime (s : State) (slot rank : Nat) (t : Trap) (waddr : BitVec 32) :
    (s.raiseDeferred slot rank t waddr).dtime = s.dtime := by simp [State.raiseDeferred]

@[simp] theorem State.engineRan_dtime (before : State) (slot rank unit : Nat) (s : State) :
    (State.engineRan before slot rank unit s).dtime = s.dtime := by
  unfold State.engineRan
  split <;> simp

@[simp] theorem State.lastWord_dtime (before : State) (a : Agent) (s : State) :
    (State.lastWord before a s).dtime = s.dtime := by
  unfold State.lastWord
  repeat' split
  all_goals simp

/-! ### Xlate -/

@[simp] theorem State.logHost_dtime (s : State) (f : FAddr) (n : Nat) : (s.logHost f n).dtime = s.dtime := by
  unfold State.logHost
  split <;> rfl

@[simp] theorem State.logTables_dtime (s : State) (ctx : Nat) (reads : List Nat) :
    (s.logTables ctx reads).dtime = s.dtime := by
  refine foldl_dtime (fun t gpa => ?_) reads s
  split <;> simp

@[simp] theorem State.cacheXl_dtime (s : State) (ctx : Nat) (va : Word) (x : Xl) :
    (s.cacheXl ctx va x).dtime = s.dtime := by
  unfold State.cacheXl
  repeat' split
  all_goals simp

@[simp] theorem State.walkAhead_dtime (s : State) (ctx a : Nat) (second : Bool) :
    (s.walkAhead ctx a second).dtime = s.dtime := by
  unfold State.walkAhead
  dsimp only
  repeat' split
  all_goals simp

@[simp] theorem State.dropLines_dtime (s : State) (f : FAddr) (n : Nat) : (s.dropLines f n).dtime = s.dtime := by
  unfold State.dropLines
  split <;> rfl

@[simp] theorem State.countLines_dtime (s : State) (ctx : Nat) (f : FAddr) (n : Nat) :
    (s.countLines ctx f n).dtime = s.dtime := rfl

@[simp] theorem State.noteLines_dtime (s : State) (ctx : Nat) (x : Xl) (n : Nat) :
    (s.noteLines ctx x n).dtime = s.dtime := by
  unfold State.noteLines
  repeat' split
  all_goals simp

@[simp] theorem State.cache_dtime (s : State) (ctx : Nat) (va : Word) (x : Xl) (n : Nat) :
    (s.cache ctx va x n).dtime = s.dtime := by simp [State.cache]

@[simp] theorem State.sendRequests_dtime (s : State) : s.sendRequests.dtime = s.dtime := rfl

@[simp] theorem State.requestPage_dtime (s : State) (ctx page : Nat) (host : Bool) (need : Need) :
    (s.requestPage ctx page host need).dtime = s.dtime := by
  unfold State.requestPage
  split <;> rfl

@[simp] theorem State.clearMiss_dtime (s : State) (slot rank kind : Nat) (va : Word) (waddr : BitVec 32) :
    (s.clearMiss slot rank kind va waddr).dtime = s.dtime := by
  unfold State.clearMiss
  dsimp only
  repeat' split
  all_goals simp

@[simp] theorem State.clearWord_dtime (s : State) (slot rank kind : Nat) (waddr : BitVec 32) :
    (s.clearWord slot rank kind waddr).dtime = s.dtime := by
  unfold State.clearWord
  dsimp only
  repeat' split
  all_goals simp

/-! ### Mem -/

@[simp] theorem State.writeFinal_dtime (s : State) (f : FAddr) (bs : List Byte) :
    (s.writeFinal f bs).dtime = s.dtime := by
  unfold State.writeFinal
  repeat' split
  all_goals simp

@[simp] theorem State.updRaces_dtime (s : State) (gs : List (Nat × BitVec 64)) (f : RaceRec → BitVec 64 → RaceRec) :
    (s.updRaces gs f).dtime = s.dtime := rfl

@[simp] theorem State.noteRead_dtime (s : State) (f : FAddr) (n : Nat) (keep : Bool) (a : AgentId) (st : Stamp) :
    (s.noteRead f n keep a st).dtime = s.dtime := by
  unfold State.noteRead
  repeat' split
  all_goals simp

@[simp] theorem State.noteWrite_dtime (s : State) (f : FAddr) (n : Nat) (keep : Bool) (by_ : Writer)
    (rel : Option Stamp) : (s.noteWrite f n keep by_ rel).dtime = s.dtime := by
  unfold State.noteWrite
  repeat' split
  all_goals simp

@[simp] theorem State.wakeWaita_dtime (s : State) (p : Pigeon) (status : Word) (y : Option Stamp) :
    (s.wakeWaita p status y).dtime = s.dtime := by simp [State.wakeWaita]

@[simp] theorem State.setSlice_dtime (s : State) (n : Nat) (v : Slice) : (s.setSlice n v).dtime = s.dtime := rfl

@[simp] theorem State.testSlice_dtime (s : State) (sl a n : Nat) : (s.testSlice sl a n).dtime = s.dtime := by
  unfold State.testSlice
  dsimp only
  split <;> simp

@[simp] theorem State.testPigeons_dtime (s : State) (f : FAddr) (n : Nat) : (s.testPigeons f n).dtime = s.dtime := by
  unfold State.testPigeons
  split <;> simp

@[simp] theorem State.watchActions_dtime (s : State) (f : FAddr) (n : Nat) (rel : Option Stamp) :
    (s.watchActions f n rel).dtime = s.dtime := rfl

@[simp] theorem State.applyWrite_dtime (s : State) (f : FAddr) (bs : List Byte) (keep : Bool) (by_ : Writer)
    (rel : Option Stamp) : (s.applyWrite f bs keep by_ rel).dtime = s.dtime := by simp [State.applyWrite]

theorem State.bindStore_dtime {s t : State} {slot rank idx : Nat} (h : s.bindStore slot rank idx = .done t) :
    t.dtime = s.dtime := by
  unfold State.bindStore at h
  repeat' split at h
  all_goals cases h <;> simp

@[simp] theorem State.storeApply_dtime (s : State) (slot rank idx : Nat) :
    (s.storeApply slot rank idx).dtime = s.dtime := by
  unfold State.storeApply
  dsimp only
  repeat' split
  all_goals simp

@[simp] theorem State.pieceArrive_dtime (s : State) (slot rank idx : Nat) :
    (s.pieceArrive slot rank idx).dtime = s.dtime := by
  unfold State.pieceArrive
  dsimp only
  repeat' split
  all_goals simp

@[simp] theorem State.returnToSender_dtime (s : State) (slot rank idx : Nat) :
    (s.returnToSender slot rank idx).dtime = s.dtime := by
  unfold State.returnToSender
  dsimp only
  repeat' split
  all_goals simp

@[simp] theorem State.addElems_dtime (s : State) (p : Piece) : (s.addElems p).dtime = s.dtime := by simp [State.addElems]

@[simp] theorem State.pieceFail_dtime (s : State) (sl : Nat) (p : Piece) (c : CoreTask) (t : Trap) :
    (s.pieceFail sl p c t).dtime = s.dtime := by
  unfold State.pieceFail
  split <;> simp

@[simp] theorem State.pieceApply_dtime (s : State) (sl : Nat) (p : Piece) : (s.pieceApply sl p).dtime = s.dtime := by
  unfold State.pieceApply
  dsimp only
  split <;> simp

@[simp] theorem State.sliceApply_dtime (s : State) (sl : Nat) : (s.sliceApply sl).dtime = s.dtime := by
  unfold State.sliceApply
  dsimp only
  repeat' split
  all_goals simp

@[simp] theorem State.cacheTarget_dtime (s : State) (slot rank ctx : Nat) (va : Word) (stride cols : Nat)
    (waddr : BitVec 32) (es : List (Nat × Xl)) :
    (s.cacheTarget slot rank ctx va stride cols waddr es).dtime = s.dtime := by simp [State.cacheTarget]

theorem State.deliver_dtime {s t : State} {slot rank : Nat} {k : Fin 8} (h : s.deliver slot rank k = .ok t) :
    t.dtime = s.dtime := by
  unfold State.deliver at h
  repeat' split at h
  all_goals cases h <;> simp

theorem State.deliverAll_dtime {s t : State} {slot rank : Nat} {ks : List (Fin 8)} (h : s.deliverAll slot rank ks = .ok t) :
    t.dtime = s.dtime := by
  induction ks generalizing s with
  | nil => cases h; rfl
  | cons k ks ih =>
    rw [State.deliverAll] at h
    split at h
    · next hd => exact (ih h).trans (State.deliver_dtime hd)
    · next hn => exact (hn t h).elim

/-- A release, met or not, takes no time. -/
theorem State.testRelease_dtime {s t : State} {a : Agent} {sc : Scope}
    (h : s.testRelease a sc = .ready t ∨ s.testRelease a sc = .wait t) : t.dtime = s.dtime := by
  unfold State.testRelease at h
  split at h
  · obtain h | h := h <;> cases h
    rfl
  · dsimp only at h
    split at h
    · obtain h | h := h <;> cases h
    · obtain h | h := h <;> cases h
    · next s2 hs =>
      have h2 : s2.dtime = s.dtime := by
        split at hs
        · exact State.deliverAll_dtime hs
        · exact State.deliverAll_dtime hs
        · cases hs; rfl
      repeat' split at h
      all_goals obtain h | h := h <;> cases h
      all_goals exact h2

/-! ### Flight -/

@[simp] theorem State.atomApply_dtime (s : State) (r : AtomReq) : (s.atomApply r).dtime = s.dtime := by
  unfold State.atomApply
  dsimp only
  repeat' split
  all_goals simp

@[simp] theorem State.sliceStep_dtime (s : State) (sl : Nat) : (s.sliceStep sl).dtime = s.dtime := by
  unfold State.sliceStep
  dsimp only
  repeat' split
  all_goals simp

theorem State.bindLoad_dtime {s u : State} {a : Agent} {c : CoreTask} {t : Nat} {r : TagRec} {va : Word} {sz : LoadSize}
    {w : BitVec 32} {st : Stamp} {b : Bound} (h : s.bindLoad a c t r va sz w st b = .done u) : u.dtime = s.dtime := by
  unfold State.bindLoad at h
  repeat' split at h
  all_goals cases h <;> simp

theorem State.resendAtom_dtime {s u : State} {a : Agent} {tk : Task} {c : CoreTask} {t : Nat}
    (h : s.resendAtom a tk c t = .done u) : u.dtime = s.dtime := by
  unfold State.resendAtom at h
  dsimp only at h
  repeat' split at h
  all_goals cases h <;> simp

theorem State.landTag_dtime {s u : State} {a : Agent} {t : Nat} (h : s.landTag a t = .done u) : u.dtime = s.dtime := by
  unfold State.landTag at h
  repeat' split at h
  any_goals (cases h <;> simp)
  · exact State.resendAtom_dtime h
  · exact State.bindLoad_dtime h
  · simpa using State.bindLoad_dtime h

@[simp] theorem State.drainStores_dtime (n idx slot rank : Nat) (s : State) :
    (State.drainStores n idx slot rank s).1.dtime = s.dtime := by
  induction n generalizing idx s with
  | zero => rfl
  | succ n ih =>
    rw [State.drainStores]
    split
    · rfl
    · split
      · rfl
      · cases hb : s.bindStore slot rank idx with
        | done t =>
          dsimp only
          split <;> simp [ih, State.bindStore_dtime hb]
        | miss va pg h w =>
          dsimp only
          split <;> simp [ih]

@[simp] theorem State.drainFlight_dtime (n slot rank : Nat) (s : State) :
    (State.drainFlight n slot rank s).dtime = s.dtime := by
  induction n generalizing s with
  | zero => rfl
  | succ n ih =>
    rw [State.drainFlight]
    split
    · rfl
    · split
      · rfl
      · simp [ih]
      · dsimp only
        rw [ih]
        repeat' split
        all_goals simp

@[simp] theorem State.drainSlices_dtime (f : Slice → Bool) (n : Nat) (s : State) :
    (State.drainSlices f n s).dtime = s.dtime := by
  induction n generalizing s with
  | zero => rfl
  | succ n ih =>
    rw [State.drainSlices]
    split <;> simp [ih]

@[simp] theorem State.saveSlots_dtime (slot rank : Nat) (ks : List (Fin 8)) (s : State) :
    (State.saveSlots slot rank ks s).1.dtime = s.dtime := by
  induction ks generalizing s with
  | nil => rfl
  | cons k ks ih =>
    refine (ih _).trans ?_
    split
    · next hd => exact State.deliver_dtime hd
    · simp
    · rfl

@[simp] theorem State.saveTags_dtime (a : Agent) (ts : List Nat) (s : State) :
    (State.saveTags a ts s).1.dtime = s.dtime := by
  induction ts generalizing s with
  | nil => rfl
  | cons t ts ih =>
    refine (ih _).trans ?_
    split
    · next hl => exact State.landTag_dtime hl
    · rfl
    · rfl

@[simp] theorem State.saveAllTags_dtime (slot rank : Nat) (qs : List SeqId) (s : State) :
    (State.saveAllTags slot rank qs s).1.dtime = s.dtime := by
  induction qs generalizing s with
  | nil => rfl
  | cons q qs ih => exact (ih _).trans (State.saveTags_dtime ..)

@[simp] theorem State.finishAtoms_dtime (s : State) (slot rank : Nat) : (s.finishAtoms slot rank).dtime = s.dtime :=
  State.drainSlices_dtime ..

@[simp] theorem State.finishLanes_dtime (s : State) (slot rank : Nat) : (s.finishLanes slot rank).dtime = s.dtime :=
  State.drainSlices_dtime ..

@[simp] theorem State.drainCt_dtime (s : State) (slot rank : Nat) (slots : Bool) :
    (s.drainCt slot rank slots).1.dtime = s.dtime := by
  unfold State.drainCt
  split
  · rfl
  · dsimp only
    rw [State.finishAtoms_dtime, State.saveAllTags_dtime, State.finishAtoms_dtime, State.finishLanes_dtime,
      State.drainFlight_dtime]
    split
    · split <;> simp
    · simp

@[simp] theorem State.noteVa_dtime (s : State) (ctx : Nat) (need : Need) (va : Word) (n : Nat) :
    (s.noteVa ctx need va n).dtime = s.dtime := by
  unfold State.noteVa
  split <;> simp

theorem State.writeVa_dtime {s t : State} {ctx : Nat} {va : Word} {bs : List Byte} {rel : Bool}
    (h : s.writeVa ctx va bs rel = .ok t) : t.dtime = s.dtime := by
  unfold State.writeVa at h
  split at h <;> cases h
  simp

/-! ### StreamBase -/

@[simp] theorem State.complete_dtime (s : State) (q : Nat) (c : Completion) : (s.complete q c).dtime = s.dtime := rfl

@[simp] theorem State.updStream_dtime (s : State) (n : Nat) (f : Stream → Stream) :
    (s.updStream n f).dtime = s.dtime := by
  unfold State.updStream
  split <;> rfl

@[simp] theorem State.plainWait_dtime (s : State) (p : Plain) (ctx page : Nat) (host : Bool) (need : Need) :
    (s.plainWait p ctx page host need).dtime = s.dtime := by simp [State.plainWait]

@[simp] theorem State.plainDone_dtime (s : State) (p : Plain) : (s.plainDone p).dtime = s.dtime := rfl

@[simp] theorem State.loseEvent_dtime (s : State) (n : Nat) (t : Trap) : (s.loseEvent n t).dtime = s.dtime := by
  unfold State.loseEvent
  split <;> simp

@[simp] theorem State.flushStream_dtime (k n : Nat) (s : State) : (State.flushStream k n s).dtime = s.dtime := by
  induction k generalizing s with
  | zero => rfl
  | succ k ih =>
    rw [State.flushStream]
    split
    · rfl
    · split
      · rfl
      · dsimp only
        split
        · rfl
        · split
          · simp [ih]
          · split <;> simp [ih]
          · next h1 =>
            split
            · simp [ih, State.writeVa_dtime h1]
            · split <;> simp [ih, State.writeVa_dtime h1]
            · next h2 => simp [ih, State.writeVa_dtime h1, State.writeVa_dtime h2]

@[simp] theorem State.eventsAnswered_dtime (s : State) (page : Nat) (refused : Bool) (waiting : List Nat) :
    (s.eventsAnswered page refused waiting).dtime = s.dtime := by
  refine foldl_dtime (fun s n => ?_) waiting s
  split
  · rfl
  · rw [State.flushStream_dtime]
    split <;> simp

@[simp] theorem State.streamEvent_dtime (s : State) (n kind old new source : Nat) (slack : Int) :
    (s.streamEvent n kind old new source slack).dtime = s.dtime := by
  unfold State.streamEvent
  split <;> simp

@[simp] theorem State.deadlineRisk_dtime (s : State) (n source : Nat) : (s.deadlineRisk n source).dtime = s.dtime := by
  unfold State.deadlineRisk
  repeat' split
  all_goals simp

@[simp] theorem State.checkpoint_dtime (s : State) (n source : Nat) : (s.checkpoint n source).dtime = s.dtime := by
  unfold State.checkpoint
  repeat' split
  all_goals simp

@[simp] theorem State.tryClose_dtime (s : State) (n : Nat) : (s.tryClose n).dtime = s.dtime := by
  unfold State.tryClose
  dsimp only
  repeat' split
  all_goals simp

/-! ### Deliver -/

@[simp] theorem State.raiseLink_dtime (s : State) (slot rank kind : Nat) (t : Trap) (waddr : BitVec 32) :
    (s.raiseLink slot rank kind t waddr).dtime = s.dtime := by simp [State.raiseLink]

@[simp] theorem State.applyPacket_dtime (s : State) (slot rank : Nat) (p : LinkPacket) :
    (s.applyPacket slot rank p).1.dtime = s.dtime := by
  unfold State.applyPacket
  split
  · rfl
  · dsimp only
    split <;> simp

@[simp] theorem State.sendPeer_dtime (s : State) (x : PeerPacket) : (s.sendPeer x).dtime = s.dtime := by
  unfold State.sendPeer
  split <;> rfl

@[simp] theorem State.tellSender_dtime (s : State) (d : Inside) (code : Code) :
    (s.tellSender d code).dtime = s.dtime := by
  unfold State.tellSender
  repeat' split
  all_goals simp

@[simp] theorem State.applyInside_dtime (s : State) (slot rank : Nat) (d : Inside) :
    (s.applyInside slot rank d).dtime = s.dtime := by
  have h := State.applyPacket_dtime s slot rank d.p
  unfold State.applyInside
  split
  · next he => rwa [he] at h
  · next he =>
    rw [he] at h
    simpa using h

/-! ### Gang -/

@[simp] theorem State.gateIslands_dtime (s : State) : s.gateIslands.dtime = s.dtime := rfl

@[simp] theorem State.noteImage_dtime (s : State) (ctx : Nat) (va : Word) : (s.noteImage ctx va).dtime = s.dtime := by
  unfold State.noteImage
  repeat' split
  all_goals simp

@[simp] theorem State.notePgt_dtime (s : State) (ctx : Nat) (va : Word) : (s.notePgt ctx va).dtime = s.dtime := by
  unfold State.notePgt
  repeat' split
  all_goals simp

@[simp] theorem State.applyHeld_dtime (s : State) (slot : Nat) (id : BitVec 32) :
    (s.applyHeld slot id).dtime = s.dtime := by simp [State.applyHeld]

@[simp] theorem State.turnAfter_dtime (s : State) (t : Task) : (s.turnAfter t).dtime = s.dtime := by
  unfold State.turnAfter
  split <;> rfl

@[simp] theorem State.markHeads_dtime (s : State) : s.markHeads.dtime = s.dtime := rfl

@[simp] theorem State.place_dtime (s : State) (slot : Nat) (t : Task) (cores : List Nat) :
    (s.place slot t cores).dtime = s.dtime := by
  unfold State.place
  split <;> simp

@[simp] theorem State.decrement_dtime (s : State) (slot : Nat) :
    (s.decrement slot).dtime = s.dtime := by simp [State.decrement]

@[simp] theorem State.dropCond_dtime (s : State) (slot : Nat) (f : ParkCond → Bool) :
    (s.dropCond slot f).dtime = s.dtime := by simp [State.dropCond]

@[simp] theorem State.registerAt_dtime (s : State) (f : FAddr) (keep : Bool) (by_ : Writer) (w : FutWaiter) :
    (s.registerAt f keep by_ w).dtime = s.dtime := by simp [State.registerAt]

@[simp] theorem State.resolveAt_dtime (s : State) (f : FAddr) (keep : Bool) (by_ : Writer) (v : Word) (rel : Stamp) :
    (s.resolveAt f keep by_ v rel).dtime = s.dtime := by
  refine (foldl_dtime (fun s e => ?_) _ _).trans (State.applyWrite_dtime ..)
  split <;> simp

@[simp] theorem State.freeFutures_dtime (s : State) (f : FutWaiter → Bool) :
    (s.freeFutures f).dtime = s.dtime := by simp [State.freeFutures]

@[simp] theorem State.updJob_dtime (s : State) (j : Nat) (f : Job → Job) : (s.updJob j f).dtime = s.dtime := by
  unfold State.updJob
  split <;> rfl

@[simp] theorem State.postRecord_dtime (s : State) (j : Nat) (r : WaitRec) :
    (s.postRecord j r).dtime = s.dtime := by simp [State.postRecord]

@[simp] theorem State.dropJob_dtime (s : State) (j : Nat) : (s.dropJob j).dtime = s.dtime := by
  unfold State.dropJob
  repeat' split
  all_goals simp

@[simp] theorem State.jobMore_dtime (s : State) (j : Nat) : (s.jobMore j).dtime = s.dtime := by simp [State.jobMore]

@[simp] theorem State.jobLess_dtime (s : State) (j : Nat) (own : Bool) : (s.jobLess j own).dtime = s.dtime := by
  unfold State.jobLess
  repeat' split
  all_goals simp

@[simp] theorem State.drainGang_dtime (slots : Bool) (slot : Nat) (rs : List Nat) (s : State) :
    (State.drainGang slots slot rs s).1.dtime = s.dtime := by
  induction rs generalizing s with
  | nil => rfl
  | cons r rs ih =>
    rw [State.drainGang]
    exact (ih _).trans (State.drainCt_dtime ..)

@[simp] theorem State.addMiss_dtime (s : State) (slot rank : Nat) (m : MissNote) :
    (s.addMiss slot rank m).dtime = s.dtime := by
  unfold State.addMiss
  dsimp only
  repeat' split
  all_goals simp

@[simp] theorem State.dropPreloads_dtime (s : State) (slot : Nat) : (s.dropPreloads slot).dtime = s.dtime := rfl

@[simp] theorem State.keepPreloads_dtime (s : State) (slot : Nat) : (s.keepPreloads slot).dtime = s.dtime := rfl

@[simp] theorem State.startPreloaded_dtime (s : State) (slot : Nat) : (s.startPreloaded slot).dtime = s.dtime := by
  unfold State.startPreloaded
  repeat' split
  all_goals simp

@[simp] theorem State.stopGang_dtime (s : State) (slot : Nat) (conds : List ParkCond) (preempt : Bool) :
    (s.stopGang slot conds preempt).dtime = s.dtime := by
  unfold State.stopGang
  split
  · rfl
  · dsimp only
    split
    · simp
    · repeat' split
      all_goals simp

theorem State.missPark_dtime {s t : State} {slot rank kind page : Nat} {need : Need} {va : Word} {host : Bool}
    {waddr : BitVec 32} (h : s.missPark slot rank kind need va page host waddr = .inr t) : t.dtime = s.dtime := by
  unfold State.missPark at h
  repeat' split at h
  all_goals cases h <;> simp

@[simp] theorem State.freeSlot_dtime (s : State) (slot : Nat) : (s.freeSlot slot).dtime = s.dtime := rfl

@[simp] theorem State.freeSliceEntries_dtime (s : State) (slot : Nat) : (s.freeSliceEntries slot).dtime = s.dtime := rfl

@[simp] theorem State.stepAfter_dtime (s : State) (t : Task) : (s.stepAfter t).dtime = s.dtime := by
  unfold State.stepAfter
  split <;> simp

@[simp] theorem State.releaseDependents_dtime (s : State) (id : Nat) :
    (s.releaseDependents id).dtime = s.dtime := by simp [State.releaseDependents]

@[simp] theorem State.discardGang_dtime (s : State) (slot : Nat) : (s.discardGang slot).dtime = s.dtime := by
  unfold State.discardGang
  split
  · rfl
  · dsimp only
    rw [State.freeFutures_dtime, State.freeSliceEntries_dtime, State.updTask_dtime]
    split
    · rfl
    · next t _ _ =>
      refine foldl_keeps (fun acc : State × List MissNote => acc.1.dtime) (fun acc e => ?_) t.cts (s, [])
      simp

@[simp] theorem State.dropHeld_dtime (s : State) (t : Task) : (s.dropHeld t).dtime = s.dtime := by
  unfold State.dropHeld
  split <;> simp

@[simp] theorem State.killTask_dtime (s : State) (slot : Nat) : (s.killTask slot).dtime = s.dtime := by
  unfold State.killTask
  split <;> simp

@[simp] theorem State.resolveSuccessor_dtime (s : State) (slot : Nat) (t : Task) :
    (s.resolveSuccessor slot t).dtime = s.dtime := by
  unfold State.resolveSuccessor
  dsimp only
  repeat' split
  all_goals simp

@[simp] theorem State.retire_dtime (s : State) (slot : Nat) : (s.retire slot).dtime = s.dtime := by
  unfold State.retire
  split <;> simp

@[simp] theorem State.failGbars_dtime (s : State) (slot rank : Nat) : (s.failGbars slot rank).dtime = s.dtime := by
  unfold State.failGbars
  split
  · refine foldl_dtime (fun s e => ?_) _ s
    split <;> simp
  · rfl

/-! ### Control -/

@[simp] theorem State.retireCt_dtime (s : State) (slot rank : Nat) : (s.retireCt slot rank).dtime = s.dtime := by
  unfold State.retireCt
  dsimp only
  repeat' split
  all_goals simp

@[simp] theorem State.atStage_dtime (s : State) (x : ExitStage) : (s.atStage x).dtime = s.dtime := by simp [State.atStage]

@[simp] theorem State.swapLogical_dtime (s : State) (a b : Nat) : (s.swapLogical a b).dtime = s.dtime := rfl

@[simp] theorem State.moveCt_dtime (s : State) (slot rank old new : Nat) :
    (s.moveCt slot rank old new).dtime = s.dtime := by simp [State.moveCt]

/-! ### Access -/

@[simp] theorem State.prefetch_dtime (s : State) (ctx : Nat) (a : Word) (len : Nat) :
    (s.prefetch ctx a len).dtime = s.dtime := by
  refine foldl_dtime (fun s p => ?_) _ s
  dsimp only
  repeat' split
  all_goals simp

/-! ### Matrix -/

@[simp] theorem State.mxFault_dtime (s : State) (slot rank : Nat) (c : CoreTask) (cmd : MxCmd) :
    (s.mxFault slot rank c cmd).dtime = s.dtime := by simp [State.mxFault]

@[simp] theorem State.mxDone_dtime (s : State) (slot rank : Nat) (c : CoreTask) (cmd : MxCmd) :
    (s.mxDone slot rank c cmd).dtime = s.dtime := by
  unfold State.mxDone
  dsimp only
  repeat' split
  all_goals simp

@[simp] theorem State.mulBlockStep_dtime (s : State) (slot rank : Nat) (c : CoreTask) (cmd : MxCmd) (p : MxMul)
    (sparse : Bool) (b : Nat) : (s.mulBlockStep slot rank c cmd p sparse b).dtime = s.dtime := by
  unfold State.mulBlockStep
  repeat' split
  all_goals simp

@[simp] theorem State.mulStep_dtime (s : State) (slot rank : Nat) (c : CoreTask) (cmd : MxCmd) (p : MxMul)
    (sparse : Bool) : (s.mulStep slot rank c cmd p sparse).dtime = s.dtime := by
  unfold State.mulStep
  repeat' split
  all_goals simp

/-! ### Copy -/

@[simp] theorem State.copyFault_dtime (s : State) (slot rank : Nat) (k : CopyCmd) (done : Nat) (t : Trap) :
    (s.copyFault slot rank k done t).dtime = s.dtime := by simp [State.copyFault]

@[simp] theorem State.copyMiss_dtime (s : State) (slot rank : Nat) (k : CopyCmd) (done : Nat) (need : Need) (va : Word)
    (page : Nat) (host : Bool) : (s.copyMiss slot rank k done need va page host).dtime = s.dtime := by
  unfold State.copyMiss
  split
  · simp
  · next h => exact State.missPark_dtime h

@[simp] theorem State.copyBegin_dtime (s : State) (slot rank : Nat) (t : Task) (c : CoreTask) (k : CopyCmd) :
    (s.copyBegin slot rank t c k).dtime = s.dtime := by
  unfold State.copyBegin
  split
  · rfl
  · split
    · rfl
    · split
      · repeat' split
        all_goals simp
      · split
        · next h => exact State.deliverAll_dtime h
        · simp
        · simp

@[simp] theorem State.partsDone_dtime (s : State) (slot rank ctx : Nat) (waddr : BitVec 32) (es : List (Xl × Nat × Nat)) :
    (s.partsDone slot rank ctx waddr es).dtime = s.dtime := by simp [State.partsDone]

theorem State.pieceSource_dtime {s u : State} {slot rank : Nat} {t : Task} {c : CoreTask} {k : CopyCmd} {segs : List Seg}
    {bs : List Byte} (h : s.pieceSource slot rank t c k segs = (.ok u, bs)) : u.dtime = s.dtime := by
  unfold State.pieceSource at h
  dsimp only at h
  repeat' split at h
  all_goals cases h <;> simp

@[simp] theorem State.writeParts_dtime (s : State) (a : AgentId) (st : Stamp) (es : List (Xl × Nat × Nat)) (bs : List Byte) :
    (s.writeParts a st es bs).dtime = s.dtime := by
  induction es generalizing s bs with
  | nil => rfl
  | cons e es ih => exact (ih ..).trans (State.applyWrite_dtime ..)

theorem State.pieceDest_dtime {s u : State} {slot rank : Nat} {t : Task} {st : Stamp} {k : CopyCmd} {segs : List Seg}
    {bs : List Byte} (h : s.pieceDest slot rank t st k segs bs = .ok u) : u.dtime = s.dtime := by
  unfold State.pieceDest at h
  dsimp only at h
  split at h
  · repeat' split at h
    all_goals cases h <;> simp
  · refine List.foldlRecOn (motive := fun acc : PieceRes => ∀ u, acc = .ok u → u.dtime = s.dtime) _ _ ?_
      (fun acc hacc r _ => ?_) u h
    · rintro _ ⟨⟩
      rfl
    · intro v hv
      split at hv
      · next t =>
        refine Eq.trans ?_ (hacc t rfl)
        repeat' split at hv
        all_goals cases hv <;> simp
      · exact hacc v hv

@[simp] theorem State.cpRelease_dtime (s : State) (slot rank : Nat) : (s.cpRelease slot rank).dtime = s.dtime := by
  unfold State.cpRelease
  split <;> simp

@[simp] theorem State.countBars_dtime (s : State) (slot rank n bar : Nat) (waddr : BitVec 32) (rs : List Nat) :
    (s.countBars slot rank n bar waddr rs).dtime = s.dtime := by
  induction rs generalizing s with
  | nil => rfl
  | cons r rs ih =>
    rw [State.countBars, ih]
    repeat' split
    all_goals simp

@[simp] theorem State.copyDone_dtime (s : State) (slot rank : Nat) (reg : Nat) (k : CopyCmd) :
    (s.copyDone slot rank reg k).dtime = s.dtime := by
  unfold State.copyDone
  dsimp only
  repeat' split
  all_goals simp

@[simp] theorem State.copyCount_dtime (s : State) (slot rank reg : Nat) (x : RunCopy) (n : Nat) :
    (s.copyCount slot rank reg x n).dtime = s.dtime := by
  unfold State.copyCount
  dsimp only
  split <;> split <;> simp

/-! ### Sync -/

@[simp] theorem State.gbarArrive_dtime (s : State) (slot rank : Nat) : (s.gbarArrive slot rank).dtime = s.dtime := by
  unfold State.gbarArrive
  dsimp only
  split <;> simp

@[simp] theorem State.gbarLeave_dtime (s : State) (slot : Nat) (t : Task) :
    (s.gbarLeave slot t).dtime = s.dtime := by simp [State.gbarLeave]

/-! ### Atomics -/

@[simp] theorem State.addThrot_dtime (s : State) (tenant : Nat) : (s.addThrot tenant).dtime = s.dtime := rfl

@[simp] theorem State.storeMiss_dtime (s : State) (slot rank idx : Nat) (va : Word) (page : Nat) (host : Bool)
    (w : BitVec 32) : (s.storeMiss slot rank idx va page host w).dtime = s.dtime := by
  unfold State.storeMiss
  split
  · next h => exact State.missPark_dtime h
  · simp

/-! ### Tasks -/

@[simp] theorem State.noteSub_dtime (s : State) (td : List Word) (ctx : Nat) : (s.noteSub td ctx).dtime = s.dtime := by
  unfold State.noteSub
  dsimp only
  rw [State.notePgt_dtime, State.noteImage_dtime]
  refine foldl_dtime (fun s va => ?_) _ s
  repeat' split
  all_goals simp

theorem State.subMiss_dtime {s t : State} {p : Plain} {ctx : Nat} {x : SubMiss} (h : s.subMiss p ctx x = .inr t) :
    t.dtime = s.dtime := by
  unfold State.subMiss at h
  split at h <;> cases h
  simp

@[simp] theorem State.accept_dtime (s : State) (td : List Word) (sub : Submitter) (img : Image) (futs : List Xl)
    (job : Option Job) : (s.accept td sub img futs job).1.dtime = s.dtime :=
  foldl_dtime (fun _ _ => State.registerAt_dtime ..) _ _

/-! ### Streams -/

@[simp] theorem State.updEnc_dtime (s : State) (key : Nat) (f : EncCtx → EncCtx) : (s.updEnc key f).dtime = s.dtime := by
  unfold State.updEnc
  split <;> rfl

theorem State.writeOut_dtime {s t : State} {ctx : Nat} {ps : List (Word × List Byte)} (h : s.writeOut ctx ps = .ok t) :
    t.dtime = s.dtime := by
  induction ps generalizing s with
  | nil => cases h; rfl
  | cons p ps ih =>
    rw [State.writeOut] at h
    split at h
    · next hw => exact (ih h).trans (State.writeVa_dtime hw)
    · next hn => exact (hn t h).elim

@[simp] theorem State.encFault_dtime (s : State) (key : Nat) (x : EncCtx) (t : Trap) :
    (s.encFault key x t).dtime = s.dtime := by simp [State.encFault]

@[simp] theorem State.dropEnc_dtime (s : State) (key : Nat) : (s.dropEnc key).dtime = s.dtime := by
  unfold State.dropEnc
  repeat' split
  all_goals simp

/-- An access of an encoder takes the time of the write that it is and of what follows. -/
theorem State.encAccess_dtime {s : State} {key : Nat} {x : EncCtx} {r : VaRes State} {go : State → State}
    (hr : ∀ t, r = .ok t → t.dtime = s.dtime) (hg : ∀ t, (go t).dtime = t.dtime) :
    (s.encAccess key x r go).dtime = s.dtime := by
  unfold State.encAccess
  split
  · next t => rw [hg]; simpa using hr t rfl
  · simp
  · split <;> simp

@[simp] theorem State.writeEowr_dtime (s : State) (key : Nat) : (s.writeEowr key).dtime = s.dtime := by
  unfold State.writeEowr
  split
  · rfl
  · exact State.encAccess_dtime (fun t h => State.writeVa_dtime h) (fun t => by simp)

@[simp] theorem State.writeRecord_dtime (s : State) (key : Nat) (x : EncCtx) (bs : List Byte) :
    (s.writeRecord key x bs).dtime = s.dtime := by
  unfold State.writeRecord
  split
  · rfl
  · exact State.encAccess_dtime (fun t h => State.writeOut_dtime h) (fun t => by simp)

/-! ### Links -/

@[simp] theorem State.handOver_dtime (s : State) (slot rank : Nat) (x : Transfer) :
    (s.handOver slot rank x).dtime = s.dtime := by
  unfold State.handOver
  dsimp only
  split <;> simp

@[simp] theorem State.depart_dtime (s : State) (x : Transfer) : (s.depart x).dtime = s.dtime := by
  unfold State.depart
  repeat' split
  all_goals simp

@[simp] theorem State.dropDelivery_dtime (s : State) (d : Inside) :
    (s.dropDelivery d).dtime = s.dtime := by simp [State.dropDelivery]

@[simp] theorem State.reach_dtime (s : State) (slot : Nat) (t : Task) (r : Nat) (d : Inside) :
    (s.reach slot t r d).dtime = s.dtime := by
  unfold State.reach
  repeat' split
  all_goals simp

@[simp] theorem State.relay_dtime (s : State) (n : Nat) (d : Inside) : (s.relay n d).dtime = s.dtime := by
  unfold State.relay
  split <;> simp

@[simp] theorem State.forward_dtime (s : State) (n : Nat) (stage : VfStage) (d : Inside) :
    (s.forward n stage d).dtime = s.dtime := by
  unfold State.forward
  split <;> simp

@[simp] theorem State.receive_dtime (s : State) (late : Bool) (d : Inside) : (s.receive late d).dtime = s.dtime := by
  unfold State.receive
  repeat' split
  all_goals simp

@[simp] theorem State.takeRemote_dtime (s : State) (srcBase srcRank : Nat) (td : List Word) (req : Nat) :
    (s.takeRemote srcBase srcRank td req).1.dtime = s.dtime := by
  unfold State.takeRemote
  dsimp only
  repeat' split
  all_goals simp
  next h => exact State.subMiss_dtime h

@[simp] theorem State.answerTo_dtime (s : State) (agent req : Nat) (v : Word) :
    (s.answerTo agent req v).dtime = s.dtime := by simp [State.answerTo]

/-! ### Csr -/

@[simp] theorem State.thermalMigrate_dtime (s : State) (x : Nat × Nat) :
    (s.thermalMigrate x).dtime = s.dtime := by simp [State.thermalMigrate]

@[simp] theorem State.thermal_dtime (s : State) (n : Nat) (i : Island) : (s.thermal n i).dtime = s.dtime := by
  unfold State.thermal
  dsimp only
  split <;> simp

@[simp] theorem State.setVps_dtime (s : State) (p n : Nat) : (s.setVps p n).dtime = s.dtime := rfl

theorem csrPool_dtime {s t : State} {k : Pool} {c c' : CoreTask} (h : csrPool k c s = .ok t c') : t.dtime = s.dtime := by
  unfold csrPool at h
  split at h <;> cases h
  rfl

theorem csrEnc_dtime {s u : State} {n : Nat} {v : Word} {t : Task} {c c' : CoreTask} (h : csrEnc n v s t c = .ok u c') :
    u.dtime = s.dtime := by
  unfold csrEnc at h
  repeat' split at h
  all_goals cases h <;> simp

theorem State.csrWrite_dtime {s u : State} {n : Nat} {v : Word} {t : Task} {c c' : CoreTask}
    (h : s.csrWrite n v t c = .ok u c') : u.dtime = s.dtime := by
  unfold State.csrWrite at h
  dsimp only at h
  repeat' split at h
  any_goals (cases h <;> simp)
  · exact csrPool_dtime h
  · exact csrPool_dtime h
  · exact csrEnc_dtime h

/-! ### Office -/

@[simp] theorem State.prunePreloads_dtime (s : State) : s.prunePreloads.dtime = s.dtime := rfl

@[simp] theorem State.releaseHeld_dtime (s : State) (slot : Nat) (stampOf : Nat → Option Stamp) :
    (s.releaseHeld slot stampOf).dtime = s.dtime := rfl

@[simp] theorem State.wakeGang_dtime (s : State) (slot : Nat) :
    (s.wakeGang slot).dtime = s.dtime := by simp [State.wakeGang]

@[simp] theorem State.noteGang_dtime (s : State) (slot : Nat) (code : Code) : (s.noteGang slot code).dtime = s.dtime := by
  unfold State.noteGang
  split <;> simp

/-! ### Faults -/

/-- An access to a fault queue takes no time, unless what follows it does. -/
theorem State.queueMiss_dtime {s t : State} {key ctx : Nat} {need : Need} {α β : Type} {r : VaRes α} {go : α → QueueRes β}
    (h : s.queueMiss key ctx need r go = .later t) : t.dtime = s.dtime ∨ ∃ x, r = .ok x ∧ go x = .later t := by
  unfold State.queueMiss at h
  split at h
  · next x => exact .inr ⟨x, rfl, h⟩
  · cases h
  · split at h <;> cases h
    exact .inl (State.plainWait_dtime ..)

@[simp] theorem State.watchFor_dtime (s : State) (j : Job) (r : WaitRec) : (s.watchFor j r).dtime = s.dtime := by
  unfold State.watchFor
  repeat' split
  all_goals simp

@[simp] theorem State.loseJob_dtime (s : State) (key : Nat) : (s.loseJob key).dtime = s.dtime := by simp [State.loseJob]

@[simp] theorem State.notePlace_dtime (s : State) (j : Job) : (s.notePlace j).dtime = s.dtime := by
  unfold State.notePlace
  split <;> simp

@[simp] theorem State.endWatch_dtime (s : State) (slot : Nat) : (s.endWatch slot).dtime = s.dtime := rfl

@[simp] theorem State.energyAgain_dtime (s : State) (slot : Nat) : (s.energyAgain slot).dtime = s.dtime := by
  unfold State.energyAgain
  dsimp only
  split <;> simp

@[simp] theorem State.acquireGang_dtime (s : State) (slot : Nat) (rel : Option Stamp) :
    (s.acquireGang slot rel).dtime = s.dtime := by
  unfold State.acquireGang
  split <;> rfl

/-! ### Governor -/

@[simp] theorem State.governIsland_dtime (s : State) (i : Nat) : (s.governIsland i).dtime = s.dtime := by
  unfold State.governIsland
  split <;> simp

@[simp] theorem State.recheck_dtime (s : State) (n : Nat) (st : Stream) : (s.recheck n st).dtime = s.dtime := by
  unfold State.recheck
  repeat' split
  all_goals simp

@[simp] theorem State.frankTick_dtime (s : State) : s.frankTick.dtime = s.dtime := by
  rw [State.frankTick]
  dsimp only
  exact foldl_dtime (f := fun t i => t.updIsland i (fun j => { j with energy := s.measured i })) (fun _ _ => rfl) _ s

@[simp] theorem State.sense_dtime (s : State) (island : Nat) (reading : BitVec 16) :
    (s.sense island reading).dtime = s.dtime := by simp [State.sense]

@[simp] theorem State.tellDerate_dtime (s : State) : s.tellDerate.dtime = s.dtime := rfl

/-! ### Errors -/

@[simp] theorem State.logService_dtime (s : State) : s.logService.dtime = s.dtime := rfl

@[simp] theorem State.countCluster_dtime (s : State) (core : Nat) : (s.countCluster core).dtime = s.dtime := rfl

@[simp] theorem State.countChannel_dtime (s : State) (dpa : Nat) : (s.countChannel dpa).dtime = s.dtime := rfl

@[simp] theorem State.freeze_dtime (s : State) (key : Nat) : (s.freeze key).dtime = s.dtime := rfl

@[simp] theorem State.raiseSeq_dtime (s : State) (a : Agent) (t : Trap) :
    (s.raiseSeq a t).dtime = s.dtime := by simp [State.raiseSeq]

@[simp] theorem State.raiseUnit_dtime (s : State) (slot rank kind : Nat) (t : Trap) :
    (s.raiseUnit slot rank kind t).dtime = s.dtime := by
  unfold State.raiseUnit
  dsimp only
  repeat' split
  all_goals simp

@[simp] theorem State.takeAtoms_dtime (s : State) (f : AtomReq → Bool) : (s.takeAtoms f).1.dtime = s.dtime := rfl

@[simp] theorem State.failWord_dtime (s : State) (slot rank : Nat) (t : Word → Trap) :
    (s.failWord slot rank t).dtime = s.dtime := by
  rw [State.failWord]
  simp

@[simp] theorem State.failTag_dtime (s : State) (slot rank : Nat) (c : CoreTask) (tag : Nat) (t : Word → Trap) :
    (s.failTag slot rank c tag t).dtime = s.dtime := by
  unfold State.failTag
  split
  · simp
  · refine (foldl_dtime (fun s r => ?_) _ _).trans (State.takeAtoms_dtime ..)
    simp
  · rfl

@[simp] theorem State.failQueued_dtime (s : State) (slice idx : Nat) (t : Word → Trap) :
    (s.failQueued slice idx t).dtime = s.dtime := by
  unfold State.failQueued
  dsimp only
  repeat' split
  all_goals simp

@[simp] theorem State.failFetch_dtime (s : State) (slot rank : Nat) (c : CoreTask) (q : SeqId) (t : Word → Trap) :
    (s.failFetch slot rank c q t).dtime = s.dtime := by
  unfold State.failFetch
  split <;> simp

@[simp] theorem State.failAccess_dtime (s : State) (slot rank : Nat) (p : Packet) (t : Word → Trap) :
    (s.failAccess slot rank p t).dtime = s.dtime := by
  unfold State.failAccess
  repeat' split
  all_goals simp

@[simp] theorem State.zeroLine_dtime (s : State) (dpa : Nat) :
    (s.zeroLine dpa).dtime = s.dtime := by simp [State.zeroLine]

@[simp] theorem State.losePacket_dtime (s : State) (slot rank : Nat) (p : Packet) :
    (s.losePacket slot rank p).dtime = s.dtime := by
  cases p <;> simp [State.losePacket]

/-! ### Paging -/

@[simp] theorem State.lateResponse_dtime (s : State) : s.lateResponse.dtime = s.dtime := rfl

@[simp] theorem State.answered_dtime (s : State) (q : PageReq) : (s.answered q).dtime = s.dtime := rfl

@[simp] theorem State.refuseGang_dtime (s : State) (slot : Nat) (q : PageReq) (code : BitVec 4) :
    (s.refuseGang slot q code).dtime = s.dtime := by
  unfold State.refuseGang
  repeat' split
  all_goals simp

@[simp] theorem State.refuseAll_dtime (s : State) (q : PageReq) (code : BitVec 4) (events : List Nat) :
    (s.refuseAll q code events).dtime = s.dtime := by simp [State.refuseAll]

@[simp] theorem State.vector0_dtime (s : State) (f : Nat) : (s.vector0 f).dtime = s.dtime := rfl

@[simp] theorem execInv1Go_keepsTime (f : Fin 9) (s : State) : KeepsTime s (execInv1Go f s) :=
  fromHost_keepsTime (keepsTime_ok.mpr rfl)

@[simp] theorem execInv2Go_keepsTime (s : State) : KeepsTime s (execInv2Go s) := fromHost_keepsTime (keepsTime_ok.mpr rfl)

@[simp] theorem State.dropSecond_dtime (s : State) (part : Nat) (r : InvRange) :
    (s.dropSecond part r).dtime = s.dtime := rfl

@[simp] theorem execFrelGo_keepsTime (s : State) : KeepsTime s (execFrelGo s) := fromHost_keepsTime (keepsTime_ok.mpr rfl)

@[simp] theorem State.freePigeons_dtime (s : State) (lo hi : Nat) :
    (s.freePigeons lo hi).dtime = s.dtime := by simp [State.freePigeons]

@[simp] theorem State.releaseFrames_dtime (s : State) (f n : Nat) (key : BitVec 6) :
    (s.releaseFrames f n key).dtime = s.dtime := by simp [State.releaseFrames]

@[simp] theorem execKeyloadGo_keepsTime (s : State) : KeepsTime s (execKeyloadGo s) := by
  unfold execKeyloadGo
  dsimp only
  split
  · exact keepsTime_idle
  · exact fromHost_keepsTime (keepsTime_ok.mpr rfl)

/-! ### FrontEnd -/

@[simp] theorem State.updQueue_dtime (s : State) (n : Nat) (g : HostQueue → HostQueue) :
    (s.updQueue n g).dtime = s.dtime := rfl

@[simp] theorem State.forgetBuffers_dtime (s : State) (n : Nat) : (s.forgetBuffers n).dtime = s.dtime := by
  unfold State.forgetBuffers
  split <;> rfl

@[simp] theorem State.resetQueue_dtime (s : State) (n : Nat) :
    (s.resetQueue n).dtime = s.dtime := by simp [State.resetQueue]

@[simp] theorem State.enableQueue_dtime (s : State) (f q : Nat) (v : Word) : (s.enableQueue f q v).dtime = s.dtime := by
  unfold State.enableQueue
  dsimp only
  split <;> simp

@[simp] theorem State.closeBuffers_dtime (s : State) (n : Nat) : (s.closeBuffers n).dtime = s.dtime := rfl

@[simp] theorem State.unbind_dtime (s : State) (i : Nat) : (s.unbind i).dtime = s.dtime := by
  unfold State.unbind
  split <;> simp

@[simp] theorem State.destroyStream_dtime (s : State) (i : Nat) :
    (s.destroyStream i).dtime = s.dtime := by simp [State.destroyStream]

@[simp] theorem State.cascade_dtime (k : Nat) (ids futs : List Nat) (s : State) :
    (State.cascade k ids futs s).1.dtime = s.dtime := by
  induction k generalizing ids futs s with
  | zero => rfl
  | succ k ih =>
    rw [State.cascade]
    split
    · rfl
    · exact (ih ..).trans (State.killTask_dtime ..)

@[simp] theorem State.hostKill_dtime (s : State) (slot : Nat) (t : Task) (cascade release : Bool) :
    (s.hostKill slot t cascade release).1.dtime = s.dtime := by
  unfold State.hostKill
  dsimp only
  repeat' split
  all_goals simp

@[simp] theorem State.holdEntry_dtime (s : State) (n : Nat) (x : FetchedEntry) (desc : List Word) (tenant : Option Nat) :
    (s.holdEntry n x desc tenant).dtime = s.dtime := by
  unfold State.holdEntry
  repeat' split
  all_goals simp

/-! ### HostRegs -/

@[simp] theorem State.dropWrite_dtime (s : State) : s.dropWrite.dtime = s.dtime := rfl

@[simp] theorem State.device_dtime (s : State) (off : Nat) (f : Regs → Option Regs) :
    (s.device off f).dtime = s.dtime := by
  unfold State.device
  split <;> rfl

@[simp] theorem State.writeEordx_dtime (s : State) (f e c : Nat) (v : Word) : (s.writeEordx f e c v).dtime = s.dtime := by
  unfold State.writeEordx
  repeat' split
  all_goals simp

@[simp] theorem State.writeQueue_dtime (s : State) (f q off : Nat) (v : Word) (high low : Option (BitVec 32)) :
    (s.writeQueue f q off v high low).dtime = s.dtime := by
  unfold State.writeQueue
  dsimp only
  repeat' split
  all_goals simp

@[simp] theorem State.writeFunction_dtime (s : State) (f : Fin 9) (off : Nat) (v : Word) (high low : Option (BitVec 32)) :
    (s.writeFunction f off v high low).dtime = s.dtime := by
  unfold State.writeFunction
  dsimp only
  repeat' split
  all_goals simp

@[simp] theorem State.writeTables_dtime (s : State) (off : Nat) (v : Word) : (s.writeTables off v).dtime = s.dtime := by
  unfold State.writeTables
  dsimp only
  repeat' split
  all_goals simp

@[simp] theorem State.writeSingles_dtime (s : State) (off : Nat) (v : Word) (high low : Option (BitVec 32)) :
    (s.writeSingles off v high low).dtime = s.dtime := by
  unfold State.writeSingles
  dsimp only
  repeat' split
  all_goals simp

@[simp] theorem State.regWrite_dtime (s : State) (f : Fin 9) (off : Nat) (high low : Option (BitVec 32)) :
    (s.regWrite f off high low).dtime = s.dtime := by
  unfold State.regWrite
  repeat' split
  all_goals simp

/-! ### Migrate -/

@[simp] theorem State.updVf_dtime (s : State) (n : Nat) (f : VfMig → VfMig) : (s.updVf n f).dtime = s.dtime := rfl

@[simp] theorem State.freezeGang_dtime (s : State) (slot : Nat) : (s.freezeGang slot).dtime = s.dtime := by
  unfold State.freezeGang
  repeat' split
  all_goals simp

@[simp] theorem State.dropRequests_dtime (s : State) (part : Nat) : (s.dropRequests part).dtime = s.dtime := rfl

@[simp] theorem State.exportVf_dtime (s : State) (n : Nat) : (s.exportVf n).dtime = s.dtime := by
  unfold State.exportVf
  split <;> rfl

@[simp] theorem State.putSlices_dtime (s : State) (x : VfImage) : (s.putSlices x).dtime = s.dtime :=
  (foldl_dtime (fun _ _ => State.setSlice_dtime ..) _ _).trans (foldl_dtime (fun _ _ => State.setSlice_dtime ..) _ _)

@[simp] theorem State.putVfMemory_dtime (s : State) (n : Nat) (x : VfImage) :
    (s.putVfMemory n x).dtime = s.dtime := by simp [State.putVfMemory]

@[simp] theorem State.importVf_dtime (s : State) (n : Nat) (image : VfImage) : (s.importVf n image).dtime = s.dtime := by
  unfold State.importVf
  split <;> simp

@[simp] theorem State.dropExported_dtime (s : State) (n : Nat) : (s.dropExported n).dtime = s.dtime := by
  refine (foldl_dtime (fun _ _ => State.plainDone_dtime ..) _ _).trans (foldl_dtime (fun _ _ => ?_) _ _)
  simp

@[simp] theorem State.releaseEntry_dtime (s : State) (n : Nat) : (s.releaseEntry n).dtime = s.dtime := by
  unfold State.releaseEntry
  split <;> simp

@[simp] theorem State.relayHeld_dtime (s : State) (n : Nat) : (s.relayHeld n).dtime = s.dtime := by simp [State.relayHeld]

@[simp] theorem State.awaitMarkers_dtime (s : State) (part : Nat) : (s.awaitMarkers part).dtime = s.dtime := by
  refine foldl_dtime (fun s peer => ?_) _ s
  split <;> rfl

@[simp] theorem State.thaw_dtime (s : State) (part : Nat) : (s.thaw part).dtime = s.dtime := by
  refine (foldl_dtime (fun _ _ => State.flushStream_dtime ..) _ _).trans (foldl_dtime (fun _ _ => ?_) _ s)
  simp

/-! ### Boot -/

@[simp] theorem State.spdmAnswer_dtime (s : State) : s.spdmAnswer.dtime = s.dtime := rfl

@[simp] theorem State.newOwner_dtime (s : State) (owner : BitVec 256) :
    (s.newOwner owner).dtime = s.dtime := by simp [State.newOwner]

@[simp] theorem State.hostWrites_dtime (s : State) (a : Nat) (bs : List Byte) (rel : Option Stamp) :
    (s.hostWrites a bs rel).dtime = s.dtime := rfl

/-! ### Xumak -/

@[simp] theorem State.updSvc_dtime (s : State) (f : RvCore → RvCore) : (s.updSvc f).dtime = s.dtime := rfl

@[simp] theorem State.svcTrap_dtime (s : State) (cause : Nat) (val : Word) : (s.svcTrap cause val).dtime = s.dtime := rfl

@[simp] theorem State.svcDone_dtime (s : State) (d : Fin 32) (v : Word) : (s.svcDone d v).dtime = s.dtime := rfl

@[simp] theorem State.holdDspt_dtime (s : State) (td : List Word) (counted : Bool) :
    (s.holdDspt td counted).dtime = s.dtime := rfl

@[simp] theorem State.begin_dtime (s : State) : s.begin.dtime = s.dtime := rfl

@[simp] theorem State.evictLine_dtime (s : State) (line : Nat) : (s.evictLine line).dtime = s.dtime := rfl

@[simp] theorem State.hostRead_dtime (s : State) (dpa n : Nat) : (s.hostRead dpa n).dtime = s.dtime := by
  unfold State.hostRead
  split <;> rfl

/-! ### Rv -/

@[simp] theorem State.svcWrite_dtime (s : State) (a : Word) (n v : Nat) : (s.svcWrite a n v).dtime = s.dtime := rfl

@[simp] theorem State.rvDone_dtime (s : State) (d : Fin 32) (v pc : Word) : (s.rvDone d v pc).dtime = s.dtime := rfl

@[simp] theorem State.rvCsrWord_dtime {s illegal : State} {op : RvCsrOp} {d : Fin 32} {src : RvCsrSrc} {n : Nat}
    {next : Word} (h : illegal.dtime = s.dtime) : (s.rvCsrWord op d src n illegal next).dtime = s.dtime := by
  unfold State.rvCsrWord
  dsimp only
  repeat' split
  all_goals simp [h]

@[simp] theorem State.rvAmoWord_dtime (s : State) (op : RvAmo) (size : Nat) (d : Fin 32) (a v next : Word) :
    (s.rvAmoWord op size d a v next).dtime = s.dtime := by
  unfold State.rvAmoWord
  split <;> rfl

@[simp] theorem State.rvExec_dtime (s : State) (i : RvInstr) (len : Nat) (w : Word) :
    (s.rvExec i len w).dtime = s.dtime := by
  cases i with
  | csr op d src n => exact State.rvCsrWord_dtime (State.svcTrap_dtime ..)
  | _ =>
    simp only [State.rvExec]
    repeat' split
    all_goals simp

@[simp] theorem State.svcBase_dtime (s : State) (w : BitVec 32) : (s.svcBase w).dtime = s.dtime := by
  unfold State.svcBase
  dsimp only
  split <;> simp

@[simp] theorem State.serviceIrq_dtime (s : State) (core : Fin 4) (bits : Word) :
    (s.serviceIrq core bits).dtime = s.dtime := rfl

theorem State.OnlyCur.dtime {s t : State} (h : s.OnlyCur t) : t.dtime = s.dtime := by
  rw [h.rest]

@[simp] theorem State.withCur_dtime (s : State) (c : CoreTask) : (s.withCur c).dtime = s.dtime := State.putCt_dtime ..

@[simp] theorem State.goesOn_dtime (s : State) (a : Agent) (u : WordUse) (wr : Option (GReg × Word)) :
    (s.goesOn a u wr).dtime = s.dtime := State.updCt_dtime ..

@[simp] theorem State.trapped_dtime (s : State) (c : CoreTask) (t : Trap) : (s.trapped c t).dtime = s.dtime := by
  simp [State.trapped]

/-! ### Words -/

/-- A word's answer leaves device time at `n`. -/
def Res.At (n : Nat) : Res State → Prop
  | .done s _ | .jump s | .wait s _ => s.dtime = n
  | .trap _ => True

@[simp] theorem Res.at_done {n : Nat} {s : State} {w : Option (GReg × Word)} : (Res.done s w).At n ↔ s.dtime = n := .rfl
@[simp] theorem Res.at_jump {n : Nat} {s : State} : (Res.jump s).At n ↔ s.dtime = n := .rfl
@[simp] theorem Res.at_wait {n : Nat} {s : State} {k : WaitKind} : (Res.wait s k).At n ↔ s.dtime = n := .rfl
@[simp] theorem Res.at_trap {n : Nat} {t : Trap} : (Res.trap t : Res State).At n := trivial

@[simp] theorem doneCt_at {n : Nat} {s : State} {c : CoreTask} : (doneCt s c).At n ↔ s.dtime = n := by simp [doneCt]

theorem runLocal_keepsTime (u : WordUse) (body : State → CoreTask → Res CoreTask) (s : State) :
    KeepsTime s (runLocal u body s) := by
  obtain ⟨t, ht, h⟩ := runLocal_onlyCur u body s
  rw [ht]
  exact keepsTime_next.mpr h.dtime

theorem runGlobal_keepsTime {u : WordUse} {body : State → CoreTask → Res State} {s : State}
    (h : ∀ s c, (body s c).At s.dtime) : KeepsTime s (runGlobal u body s) := by
  cases he : enter u s with
  | stop t =>
    have : runGlobal u body s = .next t := by rw [runGlobal, he]
    rw [this]
    exact keepsTime_next.mpr (enter_stop he).dtime
  | go c =>
    have hb := h (s.withCur c) c
    rw [runGlobal_go he]
    cases hr : body (s.withCur c) c with
    | trap t => simp
    | _ =>
      rw [hr] at hb
      simpa using hb

section
variable {n : Nat} {s : State} (hs : s.dtime = n)
include hs

@[simp] theorem missWord_at {need : Need} {va : Word} {page : Nat} {host : Bool} : (missWord s need va page host).At n := by
  unfold missWord
  dsimp only
  split
  · trivial
  · next h => exact (State.missPark_dtime h).trans hs

theorem afterRelease_at {sc : Scope} {go : State → CoreTask → Res State}
    (h : ∀ s c, s.dtime = n → (go s c).At n) : (afterRelease sc s go).At n := by
  unfold afterRelease
  split
  · trivial
  · exact missWord_at hs
  · next hr => exact (State.testRelease_dtime (.inr hr)).trans hs
  · next hr =>
    have hd := (State.testRelease_dtime (.inl hr)).trans hs
    split
    · exact h _ _ hd
    · exact hd

theorem afterResid_at {ctx k : Nat} {va : Word} {f : FAddr} {c : CoreTask} {go : State → CoreTask → Res State}
    (h : (go s c).At n) : (afterResid ctx va f k s c go).At n := by
  unfold afterResid
  split
  · exact h
  · split
    · trivial
    · exact missWord_at hs
    · next hd => exact (State.deliverAll_dtime hd).trans hs

theorem fenceAcquire_at {c : CoreTask} {go : State → CoreTask → Res State} (h : ∀ c, (go s c).At n) :
    (fenceAcquire s c go).At n := by
  unfold fenceAcquire
  split
  · exact hs
  · exact h _
  · exact h _

@[simp] theorem heldAtQuota_at {c : CoreTask} {tenant : Nat} : (heldAtQuota s c tenant).At n := by
  unfold heldAtQuota
  split <;> simp [hs]

@[simp] theorem ldgAt_at {t : Option Tag} {sz : LoadSize} {d : GReg} {va : Word} {ctx : Nat} {x : Xl} {c : CoreTask} :
    (ldgAt t sz d va ctx x s c).At n := by
  unfold ldgAt
  dsimp only
  repeat' split
  all_goals simp [hs]

@[simp] theorem stgAt_at {k : Nat} {bs : List Byte} {va : Word} {ctx : Nat} {x : Xl} {c : CoreTask} :
    (stgAt k bs va ctx x s c).At n := by
  unfold stgAt
  dsimp only
  split <;> simp [hs]

@[simp] theorem sendAtom_at {w : AtomWord} {rel : Bool} {va : Word} {ctx : Nat} {x : Xl} {c : CoreTask} :
    (sendAtom w rel va ctx x s c).At n := by
  unfold sendAtom
  dsimp only
  split
  · exact hs
  · split <;> simp [hs]

@[simp] theorem acctSend_at {acc ctx : Nat} {x : AcctSend} {es : List (Nat × Xl)} {c : CoreTask} :
    (acctSend acc ctx x es s c).At n := by
  simp [acctSend, hs]

@[simp] theorem waitaDone_at {acq : Bool} {d : GReg} {status : Word} {y : Option Stamp} {c : CoreTask} :
    (waitaDone acq d status y s c).At n := by
  simp [waitaDone, hs]

@[simp] theorem waitaAt_at {cc : Cond} {acq : Bool} {d : GReg} {va m e tmo : Word} {t : Task} {x : Xl} {c : CoreTask} :
    (waitaAt cc acq d va m e tmo t x s c).At n := by
  unfold waitaAt
  dsimp only
  repeat' split
  all_goals simp [hs]

theorem futWordOf_at {va : Word} {t : Task} {c : CoreTask} {go : Xl → State → CoreTask → Res State}
    (h : ∀ x s c, s.dtime = n → (go x s c).At n) : (futWordOf va t s c go).At n := by
  unfold futWordOf
  split
  · trivial
  · split
    · trivial
    · exact missWord_at hs
    · refine afterResid_at hs ?_
      repeat' split
      · exact hs
      · trivial
      · trivial
      · exact h _ _ _ (by simp [hs])

@[simp] theorem missRefuse_at {td : List Word} {c : CoreTask} {d : GReg} {m : SubMiss} : (missRefuse td s c d m).At n := by
  unfold missRefuse
  dsimp only
  split
  · split <;> simp [hs]
  · next h => exact (State.missPark_dtime h).trans (by simp [hs])

@[simp] theorem submitRemote_at {td : List Word} {d : GReg} {t : Task} {sub : Submitter} {c : CoreTask} :
    (submitRemote td d t sub s c).At n := by
  unfold submitRemote
  dsimp only
  repeat' split
  all_goals simp [hs]

@[simp] theorem submitHere_at {td : List Word} {va : Word} {d : GReg} {t : Task} {sub : Submitter} {c : CoreTask} :
    (submitHere td va d t sub s c).At n := by
  unfold submitHere
  dsimp only
  repeat' split
  all_goals simp [hs]

@[simp] theorem submitRead_at {td : List Word} {va : Word} {d : GReg} {t : Task} {c : CoreTask} :
    (submitRead td va d t s c).At n := by
  unfold submitRead
  dsimp only
  split <;> simp [hs]

@[simp] theorem dlsetDone_at {d : Option GReg} {k : Nat} : (dlsetDone d k s).At n := by
  unfold dlsetDone
  split <;> simp [hs]

@[simp] theorem eqpushBlock_at {q plane bx yb ectx : Nat} {fstart : Bool} {src : VSrc} {x : EncCtx} {tl : Tile}
    {c : CoreTask} : (eqpushBlock q plane bx yb fstart src x ectx tl s c).At n := by
  unfold eqpushBlock
  extract_lets want
  split
  · trivial
  · split
    · exact hs
    · exact afterRelease_at hs (fun t c ht => by simp [ht])

@[simp] theorem pwrSet_at {level : Nat} {c : CoreTask} : (pwrSet level s c).At n := by
  unfold pwrSet
  repeat' split
  all_goals simp [hs]

@[simp] theorem linkSend_at {kind : Option AccFmt} {src k pgrank : Nat} {w : Word} {id : BitVec 32} {g : Pgt} :
    (linkSend kind src w k id pgrank g s).At n := by
  refine afterRelease_at hs (fun t c ht => ?_)
  dsimp only
  split <;> simp [ht]

@[simp] theorem exitC_at {c : CoreTask} : (exitC s c).At n := by
  unfold exitC
  dsimp only
  split
  · simp [hs]
  · split
    · simp [hs]
    · split
      · trivial
      · exact missWord_at (by simp [hs])
      · next hr => exact (State.testRelease_dtime (.inr hr)).trans (by simp [hs])
      · next hr =>
        have h2 := State.testRelease_dtime (.inl hr)
        rw [State.atStage_dtime, State.putCt_dtime, hs] at h2
        repeat' split
        all_goals simp [h2]

@[simp] theorem grpendMove_at {t : Task} {c : CoreTask} : (grpendMove s t c).At n := by
  unfold grpendMove
  dsimp only
  repeat' split
  all_goals simp [hs]

end

section
variable (s : State)

theorem fork_keepsTime (k : BitVec 8) (seq : SeqId) (target : BitVec 32) : KeepsTime s (execFork k seq target s) := by
  refine runGlobal_keepsTime (fun s c => ?_)
  split
  · rfl
  · split
    · trivial
    · exact afterRelease_at rfl (fun t c ht => by simp [ht])

theorem exit_keepsTime (k : BitVec 8) : KeepsTime s (execExit k s) := by
  refine runGlobal_keepsTime (fun s c => ?_)
  split
  · simp
  · dsimp only
    split <;> simp

theorem tksig_keepsTime (k : BitVec 8) (seq : SeqId) (n : Operand 8) : KeepsTime s (execTksig k seq n s) := by
  refine runGlobal_keepsTime (fun s c => ?_)
  dsimp only
  split
  · trivial
  · refine afterRelease_at rfl (fun t c ht => ?_)
    split <;> simp [ht]

theorem yield_keepsTime (k : BitVec 8) : KeepsTime s (execYield k s) := by
  refine runGlobal_keepsTime (fun s c => ?_)
  dsimp only
  repeat' split
  all_goals simp

theorem grpend_keepsTime (k : BitVec 8) : KeepsTime s (execGrpend k s) := by
  refine runGlobal_keepsTime (fun s c => ?_)
  repeat' split
  all_goals simp

theorem ldg_keepsTime (k : BitVec 8) (t : Option Tag) (sz : LoadSize) (d a : GReg) (off : BitVec 40) :
    KeepsTime s (execLdg k t sz d a off s) := by
  refine runGlobal_keepsTime (fun s c => ?_)
  dsimp only
  repeat' split
  any_goals simp
  exact afterResid_at rfl (by simp)

theorem stg_keepsTime (k : BitVec 8) (sz : StoreSize) (v a : GReg) (off : BitVec 40) :
    KeepsTime s (execStg k sz v a off s) := by
  refine runGlobal_keepsTime (fun s c => ?_)
  dsimp only
  repeat' split
  any_goals simp
  exact afterResid_at rfl (by simp)

theorem gbar_keepsTime (k : BitVec 8) : KeepsTime s (execGbar k s) := by
  refine runGlobal_keepsTime (fun s c => ?_)
  dsimp only
  repeat' split
  all_goals simp

theorem waita_keepsTime (k : BitVec 8) (cc : Cond) (acq : Bool) (d a m v tmo : GReg) :
    KeepsTime s (execWaita k cc acq d a m v tmo s) := by
  refine runGlobal_keepsTime (fun s c => ?_)
  dsimp only
  repeat' split
  any_goals simp
  exact afterResid_at rfl (by simp)

theorem fenceAcq_keepsTime (k : BitVec 8) (sc : Scope) : KeepsTime s (execFenceAcq k sc s) :=
  runGlobal_keepsTime (fun _ _ => fenceAcquire_at rfl (fun _ => by simp))

theorem fenceRel_keepsTime (k : BitVec 8) (sc : Scope) : KeepsTime s (execFenceRel k sc s) :=
  runGlobal_keepsTime (fun _ _ => afterRelease_at rfl (fun t c ht => by simp [ht]))

theorem fenceAr_keepsTime (k : BitVec 8) (sc : Scope) : KeepsTime s (execFenceAr k sc s) :=
  runGlobal_keepsTime (fun _ _ => afterRelease_at rfl (fun t c ht => fenceAcquire_at ht (fun _ => by simp [ht])))

theorem futres_keepsTime (k : BitVec 8) (a v : GReg) : KeepsTime s (execFutres k a v s) := by
  refine runGlobal_keepsTime (fun s c => ?_)
  split
  · rfl
  · refine futWordOf_at rfl (fun x t c ht => afterRelease_at ht (fun t c ht => ?_))
    dsimp only
    repeat' split
    all_goals simp [ht]

theorem futwait_keepsTime (k : BitVec 8) (d a : GReg) : KeepsTime s (execFutwait k d a s) := by
  refine runGlobal_keepsTime (fun s c => ?_)
  split
  · rfl
  · refine futWordOf_at rfl (fun x t c ht => ?_)
    dsimp only
    repeat' split
    all_goals simp [ht]

theorem eqpush_keepsTime (k : BitVec 8) (q : Fin 8) (src : VSrc) (strictA : Bool) (plane : Fin 4) (bx yb : BitVec 6)
    (fstart : Bool) : KeepsTime s (execEqpush k q src strictA plane bx yb fstart s) := by
  refine runGlobal_keepsTime (fun s c => ?_)
  dsimp only
  repeat' split
  all_goals simp

theorem pwracqReg_keepsTime (k : BitVec 8) (a : GReg) : KeepsTime s (execPwracqReg k a s) := by
  refine runGlobal_keepsTime (fun s c => ?_)
  dsimp only
  split <;> simp

theorem pwrSet_keepsTime (k : BitVec 8) (level : Nat) : KeepsTime s (runGlobal (cOnly k) (pwrSet level) s) :=
  runGlobal_keepsTime (fun _ _ => pwrSet_at rfl)

theorem prefWord_keepsTime (k : BitVec 8) (a b : GReg) : KeepsTime s (prefWord k a b s) := by
  refine runGlobal_keepsTime (fun s c => ?_)
  split <;> simp

theorem mxPush_keepsTime (i : Instr) (cls : Nat) (bad : Option Trap) : KeepsTime s (mxPush i cls bad s) := by
  refine runGlobal_keepsTime (fun s c => ?_)
  split
  · trivial
  · split
    · trivial
    · refine afterRelease_at rfl (fun t c ht => ?_)
      split <;> simp [ht]

theorem cpPush_keepsTime (capture : CoreTask → CopyCmd) : KeepsTime s (cpPush capture s) := by
  refine runGlobal_keepsTime (fun s c => ?_)
  split
  · rfl
  · dsimp only
    split
    · trivial
    · refine afterRelease_at rfl (fun t c ht => ?_)
      split <;> simp [ht]

theorem semSignal_keepsTime (k sem : BitVec 8) (field : Bool) (amt : Seq → Nat) :
    KeepsTime s (semSignal k sem field amt s) := by
  refine runGlobal_keepsTime (fun s c => ?_)
  dsimp only
  split
  · trivial
  · refine afterRelease_at rfl (fun t c ht => ?_)
    split <;> simp [ht]

theorem atomWord_keepsTime (k : BitVec 8) (w : Seq → AtomWord) (tag : Option Tag) (d a : GReg) :
    KeepsTime s (atomWord k w tag d a s) := by
  refine runGlobal_keepsTime (fun s c => ?_)
  rcases c.waitOf .c with _ | x
  on_goal 2 => cases x
  case some.atom v => cases v <;> rfl
  all_goals
    dsimp only
    split
    · rfl
    · split
      · trivial
      · split
        · trivial
        · exact missWord_at rfl
        · refine afterResid_at rfl ?_
          split
          · rfl
          · split
            · exact afterRelease_at rfl (fun t c ht => sendAtom_at ht)
            · exact sendAtom_at rfl

theorem acctWord_keepsTime (k : BitVec 8) (direct : Bool) (f : AccFmt) (acc : Fin 16) (a g : GReg) (rows cols : BitVec 7) :
    KeepsTime s (acctWord k direct f acc a g rows cols s) := by
  refine runGlobal_keepsTime (fun s c => ?_)
  dsimp only
  repeat' split
  any_goals simp
  next h => exact State.deliverAll_dtime h

theorem flushWord_keepsTime (k : BitVec 8) (slot : Seq → Resid → Bool) (send : Seq → AcctSend → Bool) :
    KeepsTime s (flushWord k slot send s) := by
  refine runGlobal_keepsTime (fun s c => ?_)
  split
  · trivial
  · simp
  · next h =>
    have hd := State.deliverAll_dtime h
    repeat' split
    all_goals exact hd

theorem submitWord_keepsTime (k : BitVec 8) (d a : GReg) (f : Option GReg) : KeepsTime s (submitWord k d a f s) := by
  refine runGlobal_keepsTime (fun s c => ?_)
  dsimp only
  repeat' split
  any_goals simp
  refine afterRelease_at ?_ (fun t c ht => ?_)
  · rw [State.clearWord_dtime, State.noteVa_dtime]
  split
  · trivial
  · exact missWord_at ht
  · exact submitRead_at ht

theorem streamWord_keepsTime {k : BitVec 8} {d : Option GReg} {go : State → CoreTask → Task → Nat → Stream → Res State}
    (h : ∀ s c t n st, (go s c t n st).At s.dtime) : KeepsTime s (streamWord k d go s) := by
  refine runGlobal_keepsTime (fun s c => ?_)
  repeat' split
  · rfl
  · trivial
  · exact h ..

theorem dlset_keepsTime (k : BitVec 8) (d : Option GReg) (g w : GReg) : KeepsTime s (execDlset k d g w s) := by
  refine streamWord_keepsTime s (fun s c t n st => ?_)
  dsimp only
  repeat' split
  all_goals simp

theorem dlchk_keepsTime (k : BitVec 8) (d : GReg) : KeepsTime s (execDlchk k d s) := by
  refine streamWord_keepsTime s (fun s c t n st => ?_)
  split <;> simp

theorem stepend_keepsTime (k : BitVec 8) : KeepsTime s (execStepend k s) := by
  refine streamWord_keepsTime s (fun s c t n st => ?_)
  repeat' split
  all_goals simp

theorem frput_keepsTime (k : BitVec 8) (d : GReg) : KeepsTime s (execFrput k d s) := by
  refine streamWord_keepsTime s (fun s c t n st => ?_)
  dsimp only
  repeat' split
  all_goals simp

theorem frget_keepsTime (k : BitVec 8) (d : GReg) : KeepsTime s (execFrget k d s) := by
  refine streamWord_keepsTime s (fun s c t n st => ?_)
  dsimp only
  repeat' split
  all_goals simp

theorem kvapp_keepsTime (k : BitVec 8) (d : GReg) : KeepsTime s (execKvapp k d s) := by
  refine streamWord_keepsTime s (fun s c t n st => ?_)
  split <;> simp

theorem frameRelease_keepsTime (k : BitVec 8) (a : GReg) (old new : SlotState) :
    KeepsTime s (frameRelease k a old new s) := by
  refine streamWord_keepsTime s (fun s c t n st => ?_)
  repeat' split
  · trivial
  · trivial
  · exact afterRelease_at rfl (fun t c ht => by simp [ht])

theorem kvMark_keepsTime (k : BitVec 8) (a : GReg) (pin : Bool) : KeepsTime s (kvMark k a pin s) := by
  refine streamWord_keepsTime s (fun s c t n st => ?_)
  dsimp only
  split <;> simp

theorem linkWord_keepsTime (k : BitVec 8) (kind : Option AccFmt) (gs gw gt : GReg) :
    KeepsTime s (linkWord k kind gs gw gt s) := by
  refine runGlobal_keepsTime (fun s c => ?_)
  dsimp only
  repeat' split
  all_goals simp

theorem csrWord_keepsTime (k : BitVec 8) (csr : BitVec 12) (a : GReg) (f : Word → Word → Word) :
    KeepsTime s (csrWord k csr a f s) := by
  refine runGlobal_keepsTime (fun s c => ?_)
  repeat' split
  any_goals simp
  next h => exact State.csrWrite_dtime h

end

/-! ### The command queues -/

/-- The device that an entry leaves, served or not. -/
def Served.state : Served → State
  | .done s _ | .halt s _ | .wait s _ _ => s

@[simp] theorem served_state (s : State) (e : List Word) (code : Nat) (v : Word) : (served s e code v).state = s := rfl

theorem readDesc_dtime {s : State} {n : Nat} {x : FetchedEntry} {go : State → List Word → Served}
    (h : ∀ s td, (go s td).state.dtime = s.dtime) : (readDesc s n x go).state.dtime = s.dtime := by
  unfold readDesc
  split
  · exact h ..
  · split
    · simp
    · split
      · simp
      · exact State.plainWait_dtime ..
    · rw [h]; simp

theorem checked_dtime {s : State} {n : Nat} {x : FetchedEntry} {td : List Word} {sub : Submitter}
    {go : State → Image → List Xl → Served} (h : ∀ s img xs, (go s img xs).state.dtime = s.dtime) :
    (checked s n x td sub go).state.dtime = s.dtime := by
  unfold checked
  dsimp only
  split
  · simp
  · split
    · simp
    · next hm => exact State.subMiss_dtime hm
  · split
    · rw [h]; simp
    · rfl

theorem State.commitMulti_dtime {s t : State} {m : Multi} {c : Completion} (h : s.commitMulti m = some (t, c)) :
    t.dtime = s.dtime := by
  unfold State.commitMulti at h
  dsimp only at h
  repeat' split at h
  all_goals cases h <;> simp

theorem serveSubmit_dtime (s : State) (n : Nat) (x : FetchedEntry) : (serveSubmit s n x).state.dtime = s.dtime := by
  unfold serveSubmit
  split
  · rfl
  · refine readDesc_dtime fun s td => checked_dtime fun s img xs => ?_
    split
    next h => exact (congrArg (·.1.dtime) h).symm.trans (State.accept_dtime ..)

theorem serveMulti_dtime (s : State) (n : Nat) (x : FetchedEntry) : (serveMulti s n x).state.dtime = s.dtime := by
  unfold serveMulti
  dsimp only
  split
  · rfl
  · split
    · rfl
    · refine readDesc_dtime fun s td => ?_
      split
      · rfl
      · refine checked_dtime fun s img xs => ?_
        split
        · next h => exact State.commitMulti_dtime h
        · rfl

theorem serveCreate_dtime (s : State) (n : Nat) (x : FetchedEntry) : (serveCreate s n x).state.dtime = s.dtime := by
  unfold serveCreate
  dsimp only
  split
  · rfl
  · refine readDesc_dtime fun s td => ?_
    split
    · split <;> rfl
    · rfl

theorem serveDestroy_dtime (s : State) (n : Nat) (e : List Word) : (serveDestroy s n e).state.dtime = s.dtime := by
  unfold serveDestroy
  dsimp only
  repeat' split
  all_goals simp

theorem serveKill_dtime (s : State) (n : Nat) (e : List Word) : (serveKill s n e).state.dtime = s.dtime := by
  unfold serveKill
  dsimp only
  repeat' split
  all_goals simp

theorem serveIndirect_dtime (s : State) (n : Nat) (e : List Word) (va : Word) :
    (serveIndirect s n e va).state.dtime = s.dtime := by
  unfold serveIndirect
  dsimp only
  repeat' split
  · rfl
  · rfl
  · exact State.updQueue_dtime ..

theorem serve_dtime (s : State) (n : Nat) (x : FetchedEntry) : (serve s n x).state.dtime = s.dtime := by
  unfold serve
  dsimp only
  split
  · exact serveSubmit_dtime ..
  · exact serveIndirect_dtime ..
  · exact serveCreate_dtime ..
  · exact serveDestroy_dtime ..
  · exact serveMulti_dtime ..
  · split <;> rfl
  · exact serveKill_dtime ..
  · rfl

/-- Where a queue has an entry, waits for one or has lost one, device time is `n`. -/
def NextEntry.At (n : Nat) : NextEntry → Prop
  | .none => True
  | .entry s _ | .wait s | .lost s _ => s.dtime = n

theorem State.nextEntry_at (s : State) (n : Nat) : (s.nextEntry n).At s.dtime := by
  unfold State.nextEntry
  dsimp only
  repeat' split
  all_goals simp [NextEntry.At]

@[simp] theorem State.serveQueue_dtime (s : State) (n : Nat) : (s.serveQueue n).1.dtime = s.dtime := by
  have hn := s.nextEntry_at n
  unfold State.serveQueue
  split
  · rfl
  · next s1 h => rwa [h] at hn
  · next s1 c h =>
    rw [h] at hn
    simpa [NextEntry.At] using hn
  · next s1 x h =>
    rw [h] at hn
    have hv := serve_dtime (s1.updQueue n (fun h => { h with cur := none })) n x
    rw [State.updQueue_dtime, hn] at hv
    dsimp only
    split
    all_goals
      next hs =>
      rw [hs] at hv
      simpa [Served.state] using hv

@[simp] theorem State.serveFirst_dtime (ns : List Nat) (s : State) : (State.serveFirst ns s).dtime = s.dtime := by
  induction ns generalizing s with
  | nil => rfl
  | cons n ns ih =>
    have hq := s.serveQueue_dtime n
    rw [State.serveFirst]
    split
    · split
      · next h => rwa [h] at hq
      · next h =>
        rw [h] at hq
        exact (ih _).trans hq
    · exact ih _

@[simp] theorem State.dispatch_dtime (s : State) (dpa ctx : Nat) : (s.dispatch dpa ctx).1.dtime = s.dtime := by
  unfold State.dispatch
  extract_lets td sub who read
  have hr : read.dtime = s.dtime := by simp [read]
  repeat' split
  all_goals simp [hr]
  · next h => exact State.subMiss_dtime h
  · next h => exact ((congrArg (·.1.dtime) h).symm.trans (State.accept_dtime ..)).trans hr

/-! ### Fault records -/

theorem State.placeFree_dtime {s t : State} {key : Nat} {j : Job} (h : s.placeFree key j = .later t) :
    t.dtime = s.dtime := by
  unfold State.placeFree at h
  split at h
  · cases h
  · obtain h | ⟨x, -, h⟩ := State.queueMiss_dtime h
    · exact h
    · cases h

theorem State.queueMiss_ok {s : State} {key ctx : Nat} {need : Need} {α β : Type} {r : VaRes α} {go : α → QueueRes β} {y : β}
    (h : s.queueMiss key ctx need r go = .ok y) : ∃ x, r = .ok x ∧ go x = .ok y := by
  unfold State.queueMiss at h
  split at h
  · next x => exact ⟨x, rfl, h⟩
  · cases h
  · split at h <;> cases h

theorem State.putFaultRecord_dtime {s t : State} {key : Nat} {j : Job} {r : WaitRec} {rest : List WaitRec}
    (h : s.putFaultRecord key j r rest = .later t ∨ s.putFaultRecord key j r rest = .ok t) : t.dtime = s.dtime := by
  unfold State.putFaultRecord at h
  obtain h | h := h
  · obtain h | ⟨s1, h1, h⟩ := State.queueMiss_dtime h
    · exact h
    · obtain h | ⟨s2, -, h⟩ := State.queueMiss_dtime h
      · exact h
      · cases h
  · obtain ⟨s1, h1, h⟩ := State.queueMiss_ok h
    obtain ⟨s2, h2, h⟩ := State.queueMiss_ok h
    cases h
    have hl := (State.writeVa_dtime h2).trans (State.writeVa_dtime h1)
    repeat' split
    all_goals simp [hl]

/-! ### Steps of the device and acts of the host -/

theorem tagResultLands_keepsTime (slot rank : Nat) (seq : SeqId) (t : Tag) (s : State) :
    KeepsTime s (execTagResultLands slot rank seq t s) := by
  unfold execTagResultLands
  repeat' split
  any_goals simp
  · next h => exact State.landTag_dtime h
  · next h => exact State.missPark_dtime h

theorem storeApply_keepsTime (slot rank idx : Nat) (s : State) : KeepsTime s (execStoreApply slot rank idx s) := by
  unfold execStoreApply
  split
  · split
    · simp
    · split
      · next h =>
        have hd := State.bindStore_dtime h
        split <;> simp [hd]
      · simp
  · simp

theorem residualAgeDelivery_keepsTime (slot rank : Nat) (rt : Fin 8) (s : State) :
    KeepsTime s (execResidualAgeDelivery slot rank rt s) := by
  unfold execResidualAgeDelivery
  repeat' split
  any_goals simp
  · next h => exact State.deliver_dtime h
  · next h => exact State.missPark_dtime h

theorem State.mxReady_dtime {s t : State} {slot rank : Nat} {mine : Instr → Bool} (h : s.mxReady slot rank mine = .wait t) :
    t.dtime = s.dtime := by
  unfold State.mxReady at h
  dsimp only at h
  repeat' split at h
  all_goals cases h <;> simp

theorem mxmulExec_keepsTime (slot rank : Nat) (s : State) : KeepsTime s (execMxmulExec slot rank s) := by
  unfold execMxmulExec
  repeat' split
  any_goals simp
  next h => exact State.mxReady_dtime h

theorem mxmulsExec_keepsTime (slot rank : Nat) (s : State) : KeepsTime s (execMxmulsExec slot rank s) := by
  unfold execMxmulsExec
  repeat' split
  any_goals simp
  next h => exact State.mxReady_dtime h

theorem mxzeroExec_keepsTime (slot rank : Nat) (s : State) : KeepsTime s (execMxzeroExec slot rank s) := by
  unfold execMxzeroExec
  repeat' split
  any_goals simp
  next h => exact State.mxReady_dtime h

theorem mxwrExec_keepsTime (slot rank : Nat) (s : State) : KeepsTime s (execMxwrExec slot rank s) := by
  unfold execMxwrExec
  dsimp only
  repeat' split
  any_goals simp
  next h => exact State.mxReady_dtime h

theorem mxrdExec_keepsTime (slot rank : Nat) (s : State) : KeepsTime s (execMxrdExec slot rank s) := by
  unfold execMxrdExec
  dsimp only
  repeat' split
  any_goals simp
  next h => exact State.mxReady_dtime h

theorem mxepiExec_keepsTime (slot rank : Nat) (s : State) : KeepsTime s (execMxepiExec slot rank s) := by
  unfold execMxepiExec
  dsimp only
  repeat' split
  any_goals simp
  next h => exact State.mxReady_dtime h

theorem copyPiece_keepsTime (slot rank : Nat) (reg : Fin 8) (s : State) : KeepsTime s (execCopyPiece slot rank reg s) := by
  unfold execCopyPiece
  split
  · simp
  · split
    · simp
    · dsimp only
      split
      · simp
      · simp
      · simp
      · next h1 =>
        have hd := State.pieceSource_dtime h1
        split
        · simp
        · simp
        · simp
        · next h2 => simp [State.engineRan_dtime, (State.pieceDest_dtime h2).trans hd]

theorem remoteSubmitPacket_keepsTime (srcBase srcRank : Nat) (desc : List Byte) (req : Nat) (s : State) :
    KeepsTime s (execRemoteSubmitPacket srcBase srcRank desc req s) := by
  have hd := s.takeRemote_dtime srcBase srcRank (descWords desc) req
  unfold execRemoteSubmitPacket
  split
  · simp
  · split
    all_goals
      next h =>
      rw [h] at hd
      simpa using hd

theorem faultRecordWrite_keepsTime (job : Nat) (s : State) : KeepsTime s (execFaultRecordWrite job s) := by
  unfold execFaultRecordWrite
  repeat' split
  any_goals simp
  · next h => exact State.placeFree_dtime h
  · next h => exact (State.putFaultRecord_dtime (.inl h)).trans (State.notePlace_dtime ..)
  · next h => exact (State.putFaultRecord_dtime (.inr h)).trans (State.notePlace_dtime ..)

theorem dspt_keepsTime (d a b : Fin 32) (s : State) : KeepsTime s (execDspt d a b s) := by
  have hd := s.dispatch_dtime (s.svcCore.rd a).toNat (s.svcCore.rd b).toNat
  unfold execDspt
  dsimp only
  repeat' split
  any_goals simp
  all_goals
    next h =>
    rw [h] at hd
    exact hd

theorem respond_keepsTime {idx : Nat} {start : PageReq → State → State} {go : PageReq → List Nat → State → State}
    (hs : ∀ q s, (start q s).dtime = s.dtime) (hg : ∀ q l s, (go q l s).dtime = s.dtime) (s : State) :
    KeepsTime s (respond idx start go s) := by
  unfold respond
  split
  · simp
  · refine fromHost_keepsTime ?_
    split <;> simp [hs, hg]

theorem senseIf_keepsTime (f : Int → Bool) (island : Fin 32) (reading : BitVec 16) (s : State) :
    KeepsTime s (senseIf f island reading s) := by
  unfold senseIf
  split <;> simp

/-! ### The shared forms of the words that see their core-task alone -/

theorem alu_keepsTime (k d f s) : KeepsTime s (alu k d f s) := runLocal_keepsTime ..
theorem aluRmw_keepsTime (k d f s) : KeepsTime s (aluRmw k d f s) := runLocal_keepsTime ..
theorem aluTag_keepsTime (k t d f s) : KeepsTime s (aluTag k t d f s) := runLocal_keepsTime ..
theorem branchIf_keepsTime (cc k a b off s) : KeepsTime s (branchIf cc k a b off s) := runLocal_keepsTime ..
theorem loopWord_keepsTime (k n last s) : KeepsTime s (loopWord k n last s) := runLocal_keepsTime ..
theorem semWait_keepsTime (k sem field amt s) : KeepsTime s (semWait k sem field amt s) := runLocal_keepsTime ..
theorem runVector_keepsTime (w p b sc keep s) : KeepsTime s (runVector w p b sc keep s) := runLocal_keepsTime ..
theorem run2_keepsTime (w p b st s) : KeepsTime s (run2 w p b st s) := runVector_keepsTime ..
theorem runScalar_keepsTime (w p f g sc s) : KeepsTime s (runScalar w p f g sc s) := runLocal_keepsTime ..

theorem governorTick_keepsTime (s : State) : KeepsTime s (execGovernorTick s) := by
  unfold execGovernorTick
  split
  · exact keepsTime_idle
  · simp only [keepsTime_ok, State.frankTick_dtime]
    rw [foldl_dtime (fun t e => ?_), foldl_dtime State.governIsland_dtime]
    split <;> simp

theorem multiSubmitRetry_keepsTime (s : State) : KeepsTime s (execMultiSubmitRetry s) := by
  unfold execMultiSubmitRetry
  repeat' split
  any_goals simp
  next h => exact State.commitMulti_dtime h

/-! ### Every instruction -/

/-- No instruction takes device time. -/
theorem exec_keepsTime (i : Instr) (s : State) : KeepsTime s (exec i s) := by
  unfold exec
  cases i with
  | addReg | addImm | sub | mulReg | mulImm | mulh | mulhU | andReg | andImm | orReg | orImm | xorReg | xorImm | shlReg
  | shlImm | shrReg | shrImm | sarReg | sarImm | sltReg | sltImm | sltuReg | sltuImm | seqReg | seqImm | min | minU | max
  | maxU | mov | li | sel | bfx | bfxS | clz | ctz | popc | madd => exact alu_keepsTime ..
  | lih | bfi => exact aluRmw_keepsTime ..
  | divu | remu => exact aluTag_keepsTime ..
  | bcEq | bcNe | bcLt | bcGe | bcLtu | bcGeu => exact branchIf_keepsTime ..
  | loopReg | loopImm => exact loopWord_keepsTime ..
  | semwaitImm | semwaitReg => exact semWait_keepsTime ..
  | vaddF | vaddI | vsubF | vsubI | vmulF | vmulI | vminF | vminI | vmaxF | vmaxI | vcmpF | vcmpI | vminnum | vmaxnum | vand
  | vor | vxor | vshl | vshr | vsar | vscale => exact run2_keepsTime ..
  | vabsF | vabsI | vnegF | vnegI | vclampF | vclampI | vfma | vfms | vfnma | vsel | vmov | vbcast | vrnd | vcvt | vqnt
  | vdqnt | vexp2 | vlog2 | vrcp | vrsq | vtanh | vrmax | vrmin | vrsum | vcsum | vcmax | vtrn =>
    exact runVector_keepsTime ..
  | vaddFs | vsubFs | vmulFs | vminFs | vmaxFs | vfmaFs | vaddIs | vmulIs | vmaxIs | vminIs => exact runScalar_keepsTime ..
  | b | call | ret | jtbl | lpad | nop | rdv | tkwait | trap | ldl | stl | agset | agget | sload | sstore | sadv | vfill
  | vlut | cbld | tshape | tshget | semget | barexp | barwait | bartest | csrr | time => exact runLocal_keepsTime ..
  | prefH | prefL => exact prefWord_keepsTime ..
  | mxmul | mxmuls | mxzero | mxwr | mxrd | mxepi => exact mxPush_keepsTime ..
  | cpg2l | cpl2g | cpl2l | cpbc | cpfillL | cpfillG | cpmeta => exact cpPush_keepsTime ..
  | semsigImm | semsigReg => exact semSignal_keepsTime ..
  | atom | atcas => exact atomWord_keepsTime ..
  | acct | acctD => exact acctWord_keepsTime ..
  | flushresAll | flushresOne => exact flushWord_keepsTime ..
  | tsubmit | tsubmitF => exact submitWord_keepsTime ..
  | dlset => exact dlset_keepsTime ..
  | dlchk => exact dlchk_keepsTime ..
  | stepend => exact stepend_keepsTime ..
  | frput => exact frput_keepsTime ..
  | frget => exact frget_keepsTime ..
  | kvapp => exact kvapp_keepsTime ..
  | frpub | frrel => exact frameRelease_keepsTime ..
  | kvpin | kvunpin => exact kvMark_keepsTime ..
  | lksend | lkred => exact linkWord_keepsTime ..
  | csrw | csrs | csrc => exact csrWord_keepsTime ..
  | fork => exact fork_keepsTime ..
  | exit => exact exit_keepsTime ..
  | tksig => exact tksig_keepsTime ..
  | yield => exact yield_keepsTime ..
  | grpend => exact grpend_keepsTime ..
  | ldg => exact ldg_keepsTime ..
  | stg => exact stg_keepsTime ..
  | gbar => exact gbar_keepsTime ..
  | waita => exact waita_keepsTime ..
  | fenceAcq => exact fenceAcq_keepsTime ..
  | fenceRel => exact fenceRel_keepsTime ..
  | fenceAr => exact fenceAr_keepsTime ..
  | futres => exact futres_keepsTime ..
  | futwait => exact futwait_keepsTime ..
  | eqpush => exact eqpush_keepsTime ..
  | pwracqImm | pwrrel => exact pwrSet_keepsTime ..
  | pwracqReg => exact pwracqReg_keepsTime ..
  -- steps and acts without a condition
  | returnToSender => simp [execReturnToSender]
  | currentClamp => simp [execCurrentClamp]
  | modulePowerClamp => simp [execModulePowerClamp]
  | getVersion | getCapabilities | negotiateAlgorithms | getDigests | getCertificate | challenge | getMeasurements =>
    exact keepsTime_ok.mpr (State.spdmAnswer_dtime ..)
  | signalLineRaise | scrubPass | deviceReset => exact keepsTime_ok.mpr rfl
  -- acts of the host on a function
  | latePageResponse => exact fromHost_keepsTime (keepsTime_ok.mpr (by simp))
  | sqdbWrite => exact fromHost_keepsTime (keepsTime_ok.mpr (by simp))
  | sqdbReset | cqdbWrite | queueDisable | eordxWrite | ctxWrite | ctxpWrite | tqWrite
  | shareWrite | partcfgWrite | vpsmapWrite | pmaxWrite | pmemWrite | rscarveWrite | featacc0Write | featacc1Write
  | lateprqClear | deverrClear | priReenable  => exact fromHost_keepsTime (keepsTime_ok.mpr (by simp))
  | inv1Go => exact execInv1Go_keepsTime ..
  | inv2Go => exact execInv2Go_keepsTime ..
  | frelGo => exact execFrelGo_keepsTime ..
  | pageResponseSuccess => exact respond_keepsTime (fun _ _ => by simp) (fun _ _ _ => by simp) s
  | pageResponseInvalid => exact respond_keepsTime (fun _ _ => by simp) (fun _ _ _ => by simp) s
  | pageResponseFailure => exact respond_keepsTime (fun _ _ => by simp) (fun _ _ _ => by simp) s
  -- steps that act where one condition holds
  | thermal95Crossing | thermalRearm | thermal105Crossing | thermalHoldRelease | sensor115Stop => exact senseIf_keepsTime ..
  | keyloadGo => exact execKeyloadGo_keepsTime ..
  | queueEnable =>
    simp only [execQueueEnable]
    split
    · exact keepsTime_idle
    · exact fromHost_keepsTime (keepsTime_ok.mpr (by simp))
  | acctPieceArrival | acctPieceApply | atsInvalidation | registerWrite | ownershipTransfer | recoveryCommand | commandFetch
  | frameReleaseComplete | keyloadComplete | vfFreeze | endMarker | gddrDerateChange | fabricError | bfxt =>
    simp only [execAcctPieceArrival, execAcctPieceApply, execAtsInvalidation, execRegisterWrite, execOwnershipTransfer,
      execRecoveryCommand, execCommandFetch, execFrameReleaseComplete, execKeyloadComplete, execVfFreeze,
      execEndMarker, execGddrDerateChange, execFabricError, execBfxt]
    split <;> simp
  | governorTick => exact governorTick_keepsTime s
  | multiSubmitRetry => exact multiSubmitRetry_keepsTime s
  | mxmulExec => exact mxmulExec_keepsTime ..
  | mxmulsExec => exact mxmulsExec_keepsTime ..
  | mxzeroExec => exact mxzeroExec_keepsTime ..
  | mxwrExec => exact mxwrExec_keepsTime ..
  | mxrdExec => exact mxrdExec_keepsTime ..
  | mxepiExec => exact mxepiExec_keepsTime ..
  | copyPiece => exact copyPiece_keepsTime ..
  | tagResultLands => exact tagResultLands_keepsTime ..
  | storeApply => exact storeApply_keepsTime ..
  | residualAgeDelivery => exact residualAgeDelivery_keepsTime ..
  | remoteSubmitPacket => exact remoteSubmitPacket_keepsTime ..
  | faultRecordWrite => exact faultRecordWrite_keepsTime ..
  | dspt => exact dspt_keepsTime ..
  -- steps that find what they act on: each branch acts or leaves the device as it is
  | copyStart | cpmetaEntry | atomicAtSlice | waitaTimeout =>
    simp only [execCopyStart, execCpmetaEntry, execAtomicAtSlice, execWaitaTimeout]
    repeat' split
    all_goals simp
  | queuePushAdmit | gangPlacement | headWaitExpiry | spinWindowExpiry | parkConditionMet | preemption | preload |
  budgetOver | faultStop | handlerResume | handlerRerun | handlerKill =>
    simp only [execQueuePushAdmit, execGangPlacement, execHeadWaitExpiry, execSpinWindowExpiry,
      execParkConditionMet, execPreemption, execPreload, execBudgetOver, execFaultStop,
      execHandlerResume, execHandlerRerun, execHandlerKill]
    repeat' split
    all_goals simp
  | energyOut | frankingQuotaAddition | opChangeComplete | eccCorrectable | eccUncorrectable | watchdogExpiry =>
    simp only [execEnergyOut, execFrankingQuotaAddition, execOpChangeComplete, execEccCorrectable,
      execEccUncorrectable, execWatchdogExpiry]
    repeat' split
    all_goals simp
  | linkTickDeparture | linkDelivery | remoteAnswerPacket | letterboxTake | frameCoded |
  vfImportAck | pgtUpdateConfirm | portLinkTraining | inboundPcieWrite =>
    simp only [execLinkTickDeparture, execLinkDelivery, execRemoteAnswerPacket,
      execLetterboxTake, execFrameCoded, execVfImportAck, execPgtUpdateConfirm, execPortLinkTraining,
      execInboundPcieWrite]
    repeat' split
    all_goals simp
  | multiSubmitTimeout | completionWrite | invalidationComplete | rfetch | sigw =>
    simp only [execMultiSubmitTimeout, execCompletionWrite, execInvalidationComplete,
      execRfetch, execSigw]
    repeat' split
    all_goals simp

/-! ### Every turn but one of time -/

theorem takeIssue_keepsTime (s : State) : KeepsTime s (takeIssue s) := by
  unfold takeIssue
  split
  · simp
  · simp
  · exact exec_keepsTime ..

theorem takeService_keepsTime (s : State) : KeepsTime s (takeService s) := by
  unfold takeService
  split
  · simp
  · split
    · exact exec_keepsTime ..
    · simp
    · simp
    · exact ⟨by rintro _ ⟨⟩⟩

/-- A turn takes device time only when it is one of time. -/
theorem takeTurn_keepsTime {t : Turn} (h : ∀ ns, t ≠ .elapse ns) (s : State) : KeepsTime s (takeTurn t s) := by
  cases t with
  | elapse ns => exact absurd rfl (h ns)
  | issue slot rank q =>
    have hi := takeIssue_keepsTime { s with cur := { slot := slot, rank := rank, q := q } }
    rw [takeTurn]
    split
    · next t ht => simpa using hi.next t ht
    · next hn => exact ⟨fun t ht => (hn t ht).elim⟩
  | service c => exact ⟨fun t ht => (takeService_keepsTime { s with svc := c }).next t ht⟩
  | event i =>
    rw [takeTurn]
    split
    · exact exec_keepsTime ..
    · simp
  | guestVps p n =>
    rw [takeTurn]
    split <;> simp
  | _ => simp [takeTurn]

/-- Device time moves only in a turn of time. -/
theorem step_dtime {s t : State} (h : step s = .next t) (hd : t.dtime ≠ s.dtime) : ∃ ns, s.nextTurn = .elapse ns := by
  by_contra hn
  exact hd (((takeTurn_keepsTime (fun ns he => hn ⟨ns, he⟩) s.begin).next t h).trans (State.begin_dtime s))

/-! ### A turn of time (R51, R200, R262, R279, R310) -/

theorem foldl_min_le_start (l : List Nat) (n : Nat) : l.foldl Nat.min n ≤ n := by
  induction l generalizing n with
  | nil => exact Nat.le_refl n
  | cons m l ih => exact (ih _).trans (Nat.min_le_left ..)

theorem foldl_min_le_mem {l : List Nat} {m : Nat} (h : m ∈ l) (n : Nat) : l.foldl Nat.min n ≤ m := by
  induction l generalizing n with
  | nil => cases h
  | cons k l ih =>
    obtain rfl | h := List.mem_cons.mp h
    · exact (foldl_min_le_start l _).trans (Nat.min_le_right ..)
    · exact ih h _

/-- The device from which time passes: heads are marked, and preloads that do not stand are dropped. -/
def State.timed (s : State) : State := s.markHeads.prunePreloads

/-- The time that passes in a turn of `ns`. -/
def State.lapse (s : State) (ns : Nat) : Nat := s.timed.dueIn.foldl Nat.min ns

theorem State.elapse_dtime (s : State) (ns : Nat) : (s.elapse ns).dtime = s.dtime + s.lapse ns := rfl

theorem State.lapse_le (s : State) (ns : Nat) : s.lapse ns ≤ ns := foldl_min_le_start ..

/-- Time passes no due step. -/
theorem State.lapse_le_due {s : State} {n : Nat} (h : n ∈ s.timed.dueIn) (ns : Nat) : s.lapse ns ≤ n :=
  foldl_min_le_mem h ns

/-- Time stops at a moment at which something is due. -/
theorem State.elapse_le {s : State} {due : Nat} (h : untilDue s.dtime due ∈ s.timed.dueIn) (ns : Nat)
    (hd : s.dtime ≤ due) : (s.elapse ns).dtime ≤ due := by
  have := State.lapse_le_due h ns
  rw [State.elapse_dtime]
  unfold untilDue at this
  omega

section
variable (s : State)

theorem State.tick_due : untilDue s.dtime (s.pw.lastTick + tickInterval) ∈ s.timed.dueIn := List.mem_cons_self

theorem State.scrub_due : untilDue s.dtime (s.pw.lastScrub + scrubInterval) ∈ s.timed.dueIn :=
  List.mem_cons_of_mem _ List.mem_cons_self

variable {s}

theorem State.transfer_due {x : Transfer} (h : x ∈ s.ports.out) : untilDue s.dtime (256 * x.tick) ∈ s.timed.dueIn := by
  have : untilDue s.dtime (256 * x.tick) ∈ s.ports.out.map (fun x => untilDue s.dtime (256 * x.tick)) :=
    List.mem_map_of_mem h
  simp only [State.dueIn, List.mem_cons, List.mem_append]
  exact .inr (.inr (.inl (.inl (.inl this))))

theorem State.change_due {e : Nat × Island} {p due : Nat} (h : e ∈ s.pw.islands) (hc : e.2.change = some (p, due)) :
    untilDue s.dtime due ∈ s.timed.dueIn := by
  have : untilDue s.dtime due ∈ s.pw.islands.filterMap (fun e => e.2.change.map (fun c => untilDue s.dtime c.2)) :=
    List.mem_filterMap.mpr ⟨e, h, by rw [hc]; rfl⟩
  simp only [State.dueIn, List.mem_cons, List.mem_append]
  exact .inr (.inr (.inl (.inl (.inr this))))

theorem State.multi_due {mu : Multi} (h : s.multi = some mu) : untilDue s.dtime (mu.since + 1000000) ∈ s.timed.dueIn := by
  have : untilDue s.dtime (mu.since + 1000000) ∈ s.multi.toList.map (fun m => untilDue s.dtime (m.since + 1000000)) := by
    rw [h]
    exact List.mem_map_of_mem (List.mem_singleton.mpr rfl)
  simp only [State.dueIn, List.mem_cons, List.mem_append]
  exact .inr (.inr (.inr this))

/-- Marking heads and dropping preloads leaves a task's state, budget and core-tasks. -/
theorem State.task_timed {slot : Nat} {t : Task} (h : s.task? slot = some t) :
    ∃ u, s.timed.task? slot = some u ∧ u.state = t.state ∧ u.budget = t.budget ∧ u.cts = t.cts := by
  refine ⟨_, by rw [State.timed, State.task_prunePreloads, State.task_markHeads, h]; rfl, ?_⟩
  dsimp only
  split <;> exact ⟨rfl, rfl, rfl⟩

theorem State.task_elapse (slot ns : Nat) :
    (s.elapse ns).task? slot = (s.timed.task? slot).map (s.timed.taskAfter (s.lapse ns)) :=
  find_map (fun e => (e.1, s.timed.taskAfter (s.lapse ns) e.2)) (fun _ => rfl) s.timed.tasks slot

theorem State.budget_due {slot : Nat} {u : Task} (h : s.timed.task? slot = some u) (hr : u.state = .running)
    (hf : u.faulted = false) : u.budget ∈ s.timed.dueIn := by
  have : u.budget ∈
      (s.timed.tasks.filter (fun e => decide (e.2.state = .running) && !e.2.faulted)).map (fun e => e.2.budget) :=
    List.mem_map.mpr ⟨(slot, u), List.mem_filter.mpr ⟨mem_of_find h, by simp [hr, hf]⟩, rfl⟩
  simp only [State.dueIn, List.mem_cons, List.mem_append]
  exact .inr (.inr (.inl (.inr this)))

end

theorem State.taskAfter_state (s : State) (n : Nat) (t : Task) : (s.taskAfter n t).state = t.state := by
  unfold State.taskAfter
  split <;> rfl

theorem State.taskAfter_spends {s : State} {n : Nat} {t : Task} (hr : t.state = .running) (hf : t.faulted = false) :
    (s.taskAfter n t).budget = t.budget - n := by
  rw [State.taskAfter, if_pos hr, hf]
  rfl

theorem State.taskAfter_spares {s : State} {n : Nat} {t : Task} (h : t.state ≠ .running ∨ t.faulted = true) :
    (s.taskAfter n t).budget = t.budget := by
  unfold State.taskAfter
  split
  · next hr => rw [h.resolve_left (not_not.mpr hr)]; rfl
  · rfl

/-- The budget of a running task runs down by the time that passes, and no further than its end; that of a task that does
not run, or whose gang a fault stops, stays. -/
theorem State.elapse_budget {s : State} {slot : Nat} {t : Task} (h : s.task? slot = some t) (ns : Nat) :
    ∃ u, (s.elapse ns).task? slot = some u ∧ u.state = t.state ∧
      (t.state = .running → t.faulted = false → s.lapse ns ≤ t.budget ∧ u.budget = t.budget - s.lapse ns) ∧
      (t.state ≠ .running ∨ t.faulted = true → u.budget = t.budget) := by
  obtain ⟨v, hv, hs, hb, hc⟩ := State.task_timed h
  have hf : v.faulted = t.faulted := by rw [Task.faulted, Task.faulted, hc]
  refine ⟨_, by rw [State.task_elapse, hv]; rfl, (State.taskAfter_state ..).trans hs, fun hr hn => ?_, fun hn => ?_⟩
  · rw [← hs] at hr
    rw [← hf] at hn
    exact ⟨hb ▸ State.lapse_le_due (State.budget_due hv hr hn) ns, by rw [State.taskAfter_spends hr hn, hb]⟩
  · rw [← hs, ← hf] at hn
    rw [State.taskAfter_spares hn, hb]

end Sys2Proof.Machine

namespace Sys2Proof.Proofs
open Sys2Proof.Machine

/-- Settles O12: no instruction takes time (`exec_keepsTime`, function by function), nor does another turn than one of time
(`takeTurn_keepsTime`), which passes no moment of `State.dueIn`. -/
theorem timePasses : Obligations.TimePasses := by
  unfold Obligations.TimePasses
  refine ⟨fun i s => (exec_keepsTime i s).next, fun s t => step_dtime, ?_⟩
  intro ns s t
  have hd : t.dtime = s.dtime + s.lapse ns := s.elapse_dtime ns
  have hl := s.lapse_le ns
  refine ⟨by omega, by omega, State.elapse_le s.tick_due ns, State.elapse_le s.scrub_due ns,
    fun x hx => State.elapse_le (State.transfer_due hx) ns, fun e he p due hc => State.elapse_le (State.change_due he hc) ns,
    fun mu hm => State.elapse_le (State.multi_due hm) ns, fun slot tk h => ?_, rfl, rfl, rfl, rfl⟩
  rw [hd, Nat.add_sub_cancel_left]
  exact State.elapse_budget h ns

end Sys2Proof.Proofs

end

section
/-! Decoding inverts encoding (R78 to R102): every instruction by its own law of the coding, and a step that is no word
because it has no encoding. -/

namespace Sys2Proof.Laws.Coding

/-- Every instruction's encoding decodes to it. -/
theorem decodes (i : Instr) : Statement i := by
  cases i with
  | addReg => exact addReg .. | addImm => exact addImm .. | sub => exact sub .. | mulReg => exact mulReg ..
  | mulImm => exact mulImm .. | mulh => exact mulh .. | mulhU => exact mulhU .. | divu => exact divu ..
  | remu => exact remu .. | andReg => exact andReg .. | andImm => exact andImm .. | orReg => exact orReg ..
  | orImm => exact orImm .. | xorReg => exact xorReg .. | xorImm => exact xorImm .. | shlReg => exact shlReg ..
  | shlImm => exact shlImm .. | shrReg => exact shrReg .. | shrImm => exact shrImm .. | sarReg => exact sarReg ..
  | sarImm => exact sarImm .. | sltReg => exact sltReg .. | sltImm => exact sltImm .. | sltuReg => exact sltuReg ..
  | sltuImm => exact sltuImm .. | seqReg => exact seqReg .. | seqImm => exact seqImm .. | min => exact min ..
  | minU => exact minU .. | max => exact max .. | maxU => exact maxU .. | mov => exact mov .. | li => exact li ..
  | lih => exact lih .. | sel => exact sel .. | bfx => exact bfx .. | bfxS => exact bfxS .. | bfi => exact bfi ..
  | clz => exact clz .. | ctz => exact ctz .. | popc => exact popc .. | madd => exact madd .. | b => exact b ..
  | bcEq => exact bcEq .. | bcNe => exact bcNe .. | bcLt => exact bcLt .. | bcGe => exact bcGe ..
  | bcLtu => exact bcLtu .. | bcGeu => exact bcGeu .. | call => exact call .. | ret => exact ret ..
  | jtbl => exact jtbl .. | lpad => exact lpad .. | loopReg => exact loopReg .. | loopImm => exact loopImm ..
  | nop => exact nop .. | fork => exact fork .. | rdv => exact rdv .. | exit => exact exit ..
  | tksig => exact tksig .. | tkwait => exact tkwait .. | yield => exact yield .. | grpend => exact grpend ..
  | trap => exact trap .. | ldg => exact ldg .. | stg => exact stg .. | ldl => exact ldl .. | stl => exact stl ..
  | agset => exact agset .. | agget => exact agget .. | sload => exact sload .. | sstore => exact sstore ..
  | sadv => exact sadv .. | prefH => exact prefH .. | prefL => exact prefL .. | vaddF => exact vaddF ..
  | vaddI => exact vaddI .. | vsubF => exact vsubF .. | vsubI => exact vsubI .. | vmulF => exact vmulF ..
  | vmulI => exact vmulI .. | vminF => exact vminF .. | vminI => exact vminI .. | vmaxF => exact vmaxF ..
  | vmaxI => exact vmaxI .. | vabsF => exact vabsF .. | vabsI => exact vabsI .. | vnegF => exact vnegF ..
  | vnegI => exact vnegI .. | vclampF => exact vclampF .. | vclampI => exact vclampI .. | vcmpF => exact vcmpF ..
  | vcmpI => exact vcmpI .. | vfma => exact vfma .. | vfms => exact vfms .. | vfnma => exact vfnma ..
  | vminnum => exact vminnum .. | vmaxnum => exact vmaxnum .. | vsel => exact vsel .. | vand => exact vand ..
  | vor => exact vor .. | vxor => exact vxor .. | vshl => exact vshl .. | vshr => exact vshr ..
  | vsar => exact vsar .. | vmov => exact vmov .. | vbcast => exact vbcast .. | vfill => exact vfill ..
  | vscale => exact vscale .. | vrnd => exact vrnd .. | vaddFs => exact vaddFs .. | vsubFs => exact vsubFs ..
  | vmulFs => exact vmulFs .. | vminFs => exact vminFs .. | vmaxFs => exact vmaxFs .. | vfmaFs => exact vfmaFs ..
  | vaddIs => exact vaddIs .. | vmulIs => exact vmulIs .. | vmaxIs => exact vmaxIs .. | vminIs => exact vminIs ..
  | vcvt => exact vcvt .. | vqnt => exact vqnt .. | vdqnt => exact vdqnt .. | vexp2 => exact vexp2 ..
  | vlog2 => exact vlog2 .. | vrcp => exact vrcp .. | vrsq => exact vrsq .. | vtanh => exact vtanh ..
  | vrmax => exact vrmax .. | vrmin => exact vrmin .. | vrsum => exact vrsum .. | vcsum => exact vcsum ..
  | vcmax => exact vcmax .. | vtrn => exact vtrn .. | vlut => exact vlut .. | cbld => exact cbld ..
  | tshape => exact tshape .. | tshget => exact tshget .. | mxmul => exact mxmul .. | mxmuls => exact mxmuls ..
  | mxzero => exact mxzero .. | mxwr => exact mxwr .. | mxrd => exact mxrd .. | mxepi => exact mxepi ..
  | cpg2l => exact cpg2l .. | cpl2g => exact cpl2g .. | cpl2l => exact cpl2l .. | cpbc => exact cpbc ..
  | cpfillL => exact cpfillL .. | cpfillG => exact cpfillG .. | cpmeta => exact cpmeta ..
  | semsigImm => exact semsigImm .. | semsigReg => exact semsigReg .. | semwaitImm => exact semwaitImm ..
  | semwaitReg => exact semwaitReg .. | semget => exact semget .. | barexp => exact barexp ..
  | barwait => exact barwait .. | bartest => exact bartest .. | gbar => exact gbar .. | atom => exact atom ..
  | atcas => exact atcas .. | acct => exact acct .. | acctD => exact acctD .. | flushresAll => exact flushresAll ..
  | flushresOne => exact flushresOne .. | waita => exact waita .. | fenceAcq => exact fenceAcq ..
  | fenceRel => exact fenceRel .. | fenceAr => exact fenceAr .. | futres => exact futres ..
  | futwait => exact futwait .. | tsubmit => exact tsubmit .. | tsubmitF => exact tsubmitF ..
  | dlset => exact dlset .. | dlchk => exact dlchk .. | stepend => exact stepend .. | frput => exact frput ..
  | frpub => exact frpub .. | frget => exact frget .. | frrel => exact frrel .. | kvapp => exact kvapp ..
  | kvpin => exact kvpin .. | kvunpin => exact kvunpin .. | eqpush => exact eqpush ..
  | pwracqImm => exact pwracqImm .. | pwracqReg => exact pwracqReg .. | pwrrel => exact pwrrel ..
  | lksend => exact lksend .. | lkred => exact lkred .. | csrr => exact csrr .. | csrw => exact csrw ..
  | csrs => exact csrs .. | csrc => exact csrc .. | time => exact time .. | rfetch => exact rfetch ..
  | bfxt => exact bfxt .. | sigw => exact sigw .. | dspt => exact dspt ..
  | tagResultLands | mxmulExec | mxmulsExec | mxzeroExec | mxwrExec | mxrdExec | mxepiExec | copyStart | copyPiece |
  cpmetaEntry | atomicAtSlice | storeApply | acctPieceArrival | acctPieceApply | returnToSender |
  residualAgeDelivery | waitaTimeout | queuePushAdmit | gangPlacement | spinWindowExpiry | parkConditionMet |
  preemption | headWaitExpiry | preload | budgetOver | faultStop | faultRecordWrite | handlerResume | handlerRerun |
  handlerKill | governorTick | energyOut | opChangeComplete | thermal95Crossing | thermalRearm | thermal105Crossing
  | thermalHoldRelease | currentClamp | modulePowerClamp | sensor115Stop | gddrDerateChange | eccCorrectable |
  eccUncorrectable | fabricError | watchdogExpiry | scrubPass | pageResponseSuccess | pageResponseInvalid |
  pageResponseFailure | latePageResponse | atsInvalidation | linkTickDeparture | linkDelivery | remoteSubmitPacket |
  remoteAnswerPacket | letterboxTake | frameCoded | sqdbWrite | sqdbReset | cqdbWrite | queueEnable | queueDisable |
  commandFetch | multiSubmitRetry | multiSubmitTimeout | completionWrite | inv1Go | inv2Go | invalidationComplete |
  frelGo | frameReleaseComplete | keyloadGo | keyloadComplete | eordxWrite | ctxWrite | ctxpWrite | tqWrite |
  shareWrite | partcfgWrite | vpsmapWrite | pmaxWrite | pmemWrite | rscarveWrite | featacc0Write | featacc1Write |
  lateprqClear | deverrClear | registerWrite | vfFreeze | vfImportAck | pgtUpdateConfirm | endMarker | deviceReset |
  getVersion | getCapabilities | negotiateAlgorithms | getDigests | getCertificate | challenge | getMeasurements |
  ownershipTransfer | recoveryCommand | portLinkTraining | inboundPcieWrite | signalLineRaise |
  frankingQuotaAddition | priReenable => exact of_step rfl rfl

end Sys2Proof.Laws.Coding

namespace Sys2Proof.Proofs

/-- Settles O2: the word is the packed fields, whose unpacking gives them back. -/
theorem decodeInvertsEncode : Obligations.DecodeInvertsEncode := by
  intro i w hwf he
  obtain ⟨f, hf, rfl⟩ := Option.map_eq_some_iff.mp he
  rw [decodeWord, Laws.Fields_unpack_pack]
  exact (Laws.Coding.decodes i).1 f hwf hf

end Sys2Proof.Proofs
end

section
/-! Encoding inverts decoding (R83): what each form of the decoder answers carries every bit of the word, so that the
encoder writes the same word back. One lemma for a code, one for a form, and one for a class of the opcode grid. -/

namespace Sys2Proof.Laws

/-! ### Codes -/

@[simp] theorem check_eq_some {α : Type} {c : Bool} {x : Option α} {a : α} : check c x = some a ↔ c = true ∧ x = some a := by
  cases c <;> simp [check]

theorem bitCode_bitOf (b : BitVec 1) : bitCode (bitOf b) = b := by revert b; decide

theorem gCode_of_gOf {c : BitVec 8} {g : GReg} (h : gOf c = some g) : gCode g = c := by
  have all : ∀ c : BitVec 8, ∀ g ∈ gOf c, gCode g = c := by decide
  exact all c g h

theorem tCode_of_tOf {c : BitVec 8} {t : TReg} (h : tOf c = some t) : tCode t = c := by
  have all : ∀ c : BitVec 8, ∀ t ∈ tOf c, tCode t = c := by decide
  exact all c t h

theorem srcCode_of_srcOf {c : BitVec 8} {y : VSrc} (h : srcOf c = some y) : srcCode y = c ∧ pdCode y = 0 := by
  have all : ∀ c : BitVec 8, ∀ y ∈ srcOf c, srcCode y = c ∧ pdCode y = 0 := by decide
  exact all c y h

theorem codes_of_srcAOf {pd : BitVec 3} {c : BitVec 8} {y : VSrc} (h : srcAOf pd c = some y) :
    srcCode y = c ∧ pdCode y = pd := by
  unfold srcAOf at h
  split at h
  · next h0 => rw [h0]; exact srcCode_of_srcOf h
  · split at h
    · split at h
      · next hne hlt h0 =>
        cases h
        refine ⟨h0.symm, BitVec.eq_of_toNat_eq ?_⟩
        have := pd.isLt
        have : pd.toNat ≠ 0 := fun h => hne (BitVec.eq_of_toNat_eq h)
        simp only [pdCode, BitVec.toNat_ofNat]
        omega
      · cases h
    · cases h

theorem codes_of_dstOf {r : BitVec 2} {c : BitVec 8} {d : VDst} {ring : Bool} (h : dstOf r c = some (d, ring)) :
    dstCode d = c ∧ ringCode d ring = r := by
  have all : ∀ r : BitVec 2, ∀ c : BitVec 8, ∀ x ∈ dstOf r c, dstCode x.1 = c ∧ ringCode x.1 x.2 = r := by decide
  exact all r c (d, ring) h

theorem allocCode_of_allocOf {a : BitVec 4} {t : Option Tag} (h : allocOf a = some t) : allocCode t = a := by
  have all : ∀ a : BitVec 4, ∀ t ∈ allocOf a, allocCode t = a := by decide
  exact all a t h

theorem rndCode_of_rndOf {b : BitVec 3} {r : Rnd} (h : rndOf b = some r) : rndCode r = b := by
  have all : ∀ b : BitVec 3, ∀ r ∈ rndOf b, rndCode r = b := by decide
  exact all b r h

theorem seqCode_seqOf (b : BitVec 2) : seqCode (seqOf b) = b := by revert b; decide

theorem codes_of_operandOf {n : Nat} {c : BitVec 8} {imm : BitVec n} {o : Operand n} (h : operandOf c imm = some o) :
    o.code = c ∧ o.value = imm := by
  unfold operandOf at h
  split at h
  · next h0 => cases h; exact ⟨h0.symm, rfl⟩
  · simp only [check_eq_some, decide_eq_true_eq, Option.map_eq_some_iff] at h
    obtain ⟨h0, g, hg, rfl⟩ := h
    exact ⟨gCode_of_gOf hg, h0.symm⟩

theorem barCode_of_barOf {be : BitVec 1} {b : BitVec 6} {o : Option (Fin 64)} (h : barOf be b = some o) :
    barCode o = be ++ b := by
  unfold barOf at h
  split at h
  · next h1 => cases h; subst h1; rfl
  · next h1 =>
    simp only [check_eq_some, decide_eq_true_eq, Option.some.injEq] at h
    obtain ⟨rfl, rfl⟩ := h
    have : be = 0#1 := by revert h1; revert be; decide
    rw [this]
    rfl

/-! ### Adjacent fields join -/

theorem bits_append {w : Nat} (x : BitVec w) {a b m n : Nat} (h : a = b + n) : bits x a m ++ bits x b n = bits x b (m + n) :=
  BitVec.extractLsb'_append_extractLsb'_eq_extractLsb' h

section
variable {n1 n2 n3 n4 n5 n6 n7 n8 n9 n10 : Nat}

theorem join2 (x : BitVec (n2 + n1)) : bits x n1 n2 ++ bits x 0 n1 = x :=
  (bits_append x (Nat.zero_add n1).symm).trans BitVec.extractLsb'_eq_self

theorem join3 (x : BitVec (n3 + n2 + n1)) : bits x (n1 + n2) n3 ++ bits x n1 n2 ++ bits x 0 n1 = x := by
  rw [bits_append x rfl]
  exact join2 x

theorem join4 (x : BitVec (n4 + n3 + n2 + n1)) :
    bits x (n1 + n2 + n3) n4 ++ bits x (n1 + n2) n3 ++ bits x n1 n2 ++ bits x 0 n1 = x := by
  rw [bits_append x rfl]
  exact join3 x

theorem join5 (x : BitVec (n5 + n4 + n3 + n2 + n1)) :
    bits x (n1 + n2 + n3 + n4) n5 ++ bits x (n1 + n2 + n3) n4 ++ bits x (n1 + n2) n3 ++ bits x n1 n2 ++ bits x 0 n1 = x := by
  rw [bits_append x rfl]
  exact join4 x

theorem join6 (x : BitVec (n6 + n5 + n4 + n3 + n2 + n1)) :
    bits x (n1 + n2 + n3 + n4 + n5) n6 ++ bits x (n1 + n2 + n3 + n4) n5 ++ bits x (n1 + n2 + n3) n4 ++ bits x (n1 + n2) n3 ++
      bits x n1 n2 ++ bits x 0 n1 = x := by
  rw [bits_append x rfl]
  exact join5 x

theorem join7 (x : BitVec (n7 + n6 + n5 + n4 + n3 + n2 + n1)) :
    bits x (n1 + n2 + n3 + n4 + n5 + n6) n7 ++ bits x (n1 + n2 + n3 + n4 + n5) n6 ++ bits x (n1 + n2 + n3 + n4) n5 ++
      bits x (n1 + n2 + n3) n4 ++ bits x (n1 + n2) n3 ++ bits x n1 n2 ++ bits x 0 n1 = x := by
  rw [bits_append x rfl]
  exact join6 x

theorem join10 (x : BitVec (n10 + n9 + n8 + n7 + n6 + n5 + n4 + n3 + n2 + n1)) :
    bits x (n1 + n2 + n3 + n4 + n5 + n6 + n7 + n8 + n9) n10 ++ bits x (n1 + n2 + n3 + n4 + n5 + n6 + n7 + n8) n9 ++
      bits x (n1 + n2 + n3 + n4 + n5 + n6 + n7) n8 ++ bits x (n1 + n2 + n3 + n4 + n5 + n6) n7 ++
      bits x (n1 + n2 + n3 + n4 + n5) n6 ++ bits x (n1 + n2 + n3 + n4) n5 ++ bits x (n1 + n2 + n3) n4 ++ bits x (n1 + n2) n3 ++
      bits x n1 n2 ++ bits x 0 n1 = x := by
  rw [bits_append x rfl, bits_append x rfl, bits_append x rfl]
  exact join7 x

end

theorem pack_unpack (w : Word80) : (Fields.unpack w).pack = w :=
  join7 (n7 := 9) (n6 := 3) (n5 := 4) (n4 := 8) (n3 := 8) (n2 := 8) (n1 := 40) w

theorem vlow_pack_unpack (x : BitVec 40) : (VLow.unpack x).pack = x :=
  join6 (n6 := 8) (n5 := 1) (n4 := 1) (n3 := 4) (n2 := 2) (n1 := 24) x

end Sys2Proof.Laws
end

section
namespace Sys2Proof.Laws

/-! ### The forms of a word -/

/-- What `d` answers under opcode `opc` has the fields it was read from as its encoding. -/
def Reads (d : Fields → Option Instr) (opc : BitVec 9) : Prop :=
  ∀ (f : Fields) (i : Instr), f.opc = opc → d f = some i → encodeFields i = some f

theorem loB_join {lo : BitVec 40} (h : bits lo 0 32 = 0) : loB (bits lo 32 8) = lo := by
  rw [loB, ← h]
  exact join2 (n2 := 8) (n1 := 32) lo

theorem reads_r3 {mk : BitVec 8 → GReg → GReg → GReg → Instr} {opc : BitVec 9}
    (h : ∀ k d a b, encodeFields (mk k d a b) = some (encR3 opc k d a b)) : Reads (decR3 mk) opc := by
  rintro ⟨_, pd, al, k, dst, srca, lo⟩ i rfl hd
  simp only [decR3, check_eq_some, Bool.and_eq_true, decide_eq_true_eq, Option.bind_eq_bind,
    Option.bind_eq_some_iff, Option.pure_def, Option.some.injEq] at hd
  obtain ⟨⟨⟨rfl, rfl⟩, hz⟩, d, hd, a, ha, b, hb, rfl⟩ := hd
  rw [h, encR3, enc, gCode_of_gOf hd, gCode_of_gOf ha, gCode_of_gOf hb, loB_join hz]

theorem reads_r3t {mk : BitVec 8 → Option Tag → GReg → GReg → GReg → Instr} {opc : BitVec 9}
    (h : ∀ k t d a b, encodeFields (mk k t d a b) = some (enc opc (allocCode t) k (gCode d) (gCode a) (loB (gCode b)))) :
    Reads (decR3T mk) opc := by
  rintro ⟨_, pd, al, k, dst, srca, lo⟩ i rfl hd
  simp only [decR3T, check_eq_some, Bool.and_eq_true, decide_eq_true_eq, Option.bind_eq_bind,
    Option.bind_eq_some_iff, Option.pure_def, Option.some.injEq] at hd
  obtain ⟨⟨rfl, hz⟩, t, ht, d, hd, a, ha, b, hb, rfl⟩ := hd
  rw [h, enc, allocCode_of_allocOf ht, gCode_of_gOf hd, gCode_of_gOf ha, gCode_of_gOf hb, loB_join hz]

theorem reads_r2 {mk : BitVec 8 → GReg → GReg → Instr} {opc : BitVec 9}
    (h : ∀ k d a, encodeFields (mk k d a) = some (enc opc 0 k (gCode d) (gCode a) 0)) : Reads (decR2 mk) opc := by
  rintro ⟨_, pd, al, k, dst, srca, lo⟩ i rfl hd
  simp only [decR2, check_eq_some, Bool.and_eq_true, decide_eq_true_eq, Option.bind_eq_bind,
    Option.bind_eq_some_iff, Option.pure_def, Option.some.injEq] at hd
  obtain ⟨⟨⟨rfl, rfl⟩, rfl⟩, d, hd, a, ha, rfl⟩ := hd
  rw [h, enc, gCode_of_gOf hd, gCode_of_gOf ha]

/-- SRCB and SRCC with nothing beside them. -/
theorem loBc_join {lo : BitVec 40} (h1 : bits lo 24 8 = 0) (h2 : bits lo 0 16 = 0) :
    bits lo 32 8 ++ (0 : BitVec 8) ++ bits lo 16 8 ++ (0 : BitVec 16) = lo := by
  rw [← h1, ← h2]
  exact join4 (n4 := 8) (n3 := 8) (n2 := 8) (n1 := 16) lo

theorem reads_r4 {mk : BitVec 8 → GReg → GReg → GReg → GReg → Instr} {opc : BitVec 9}
    (h : ∀ k d a b c, encodeFields (mk k d a b c) = some (encR4 opc k d a b c)) : Reads (decR4 mk) opc := by
  rintro ⟨_, pd, al, k, dst, srca, lo⟩ i rfl hd
  simp only [decR4, check_eq_some, Bool.and_eq_true, decide_eq_true_eq, Option.bind_eq_bind,
    Option.bind_eq_some_iff, Option.pure_def, Option.some.injEq] at hd
  obtain ⟨⟨⟨⟨rfl, rfl⟩, h1⟩, h2⟩, d, hd, a, ha, b, hb, c, hc, rfl⟩ := hd
  rw [h, encR4, enc, gCode_of_gOf hd, gCode_of_gOf ha, gCode_of_gOf hb, gCode_of_gOf hc, loBc_join h1 h2]

theorem reads_imm {mk : BitVec 8 → GReg → GReg → BitVec 40 → Instr} {opc : BitVec 9}
    (h : ∀ k d a i, encodeFields (mk k d a i) = some (encI opc k d a i)) : Reads (decI mk) opc := by
  rintro ⟨_, pd, al, k, dst, srca, lo⟩ i rfl hd
  simp only [decI, check_eq_some, Bool.and_eq_true, decide_eq_true_eq, Option.bind_eq_bind,
    Option.bind_eq_some_iff, Option.pure_def, Option.some.injEq] at hd
  obtain ⟨⟨rfl, rfl⟩, d, hd, a, ha, rfl⟩ := hd
  rw [h, encI, enc, gCode_of_gOf hd, gCode_of_gOf ha]

theorem reads_shift {mk : BitVec 8 → GReg → GReg → BitVec 6 → Instr} {opc : BitVec 9}
    (h : ∀ k d a c, encodeFields (mk k d a c) = some (encI opc k d a ((0 : BitVec 34) ++ c))) : Reads (decSh mk) opc := by
  rintro ⟨_, pd, al, k, dst, srca, lo⟩ i rfl hd
  simp only [decSh, check_eq_some, Bool.and_eq_true, decide_eq_true_eq, Option.bind_eq_bind,
    Option.bind_eq_some_iff, Option.pure_def, Option.some.injEq] at hd
  obtain ⟨⟨⟨rfl, rfl⟩, hz⟩, d, hd, a, ha, rfl⟩ := hd
  have hlo : (0 : BitVec 34) ++ bits lo 0 6 = lo := by
    rw [← hz]
    exact join2 (n2 := 34) (n1 := 6) lo
  rw [h, encI, enc, gCode_of_gOf hd, gCode_of_gOf ha, hlo]

theorem reads_bf {mk : BitVec 8 → GReg → GReg → BitVec 6 → BitVec 7 → Instr} {opc : BitVec 9}
    (h : ∀ k d a l w, encodeFields (mk k d a l w) = some (encBf opc k d a l w)) : Reads (decBf mk) opc := by
  rintro ⟨_, pd, al, k, dst, srca, lo⟩ i rfl hd
  simp only [decBf, check_eq_some, Bool.and_eq_true, decide_eq_true_eq, Option.bind_eq_bind,
    Option.bind_eq_some_iff, Option.pure_def, Option.some.injEq] at hd
  obtain ⟨⟨⟨rfl, rfl⟩, hz⟩, d, hd, a, ha, rfl⟩ := hd
  have hlo : (0 : BitVec 27) ++ bits lo 6 7 ++ bits lo 0 6 = lo := by
    rw [← hz]
    exact join3 (n3 := 27) (n2 := 7) (n1 := 6) lo
  rw [h, encBf, enc, gCode_of_gOf hd, gCode_of_gOf ha, hlo]

theorem reads_k {mk : BitVec 8 → Instr} {opc : BitVec 9} (h : ∀ k, encodeFields (mk k) = some (encK opc k)) :
    Reads (decK mk) opc := by
  rintro ⟨_, pd, al, k, dst, srca, lo⟩ i rfl hd
  simp only [decK, check_eq_some, Bool.and_eq_true, decide_eq_true_eq,
    Option.some.injEq] at hd
  obtain ⟨⟨⟨⟨⟨rfl, rfl⟩, rfl⟩, rfl⟩, rfl⟩, rfl⟩ := hd
  exact h k

theorem reads_d {mk : BitVec 8 → GReg → Instr} {opc : BitVec 9}
    (h : ∀ k d, encodeFields (mk k d) = some (enc opc 0 k (gCode d) 0 0)) : Reads (decD mk) opc := by
  rintro ⟨_, pd, al, k, dst, srca, lo⟩ i rfl hd
  simp only [decD, check_eq_some, Bool.and_eq_true, decide_eq_true_eq, Option.bind_eq_bind,
    Option.bind_eq_some_iff, Option.pure_def, Option.some.injEq] at hd
  obtain ⟨⟨⟨⟨rfl, rfl⟩, rfl⟩, rfl⟩, d, hd, rfl⟩ := hd
  rw [h, enc, gCode_of_gOf hd]

theorem reads_a {mk : BitVec 8 → GReg → Instr} {opc : BitVec 9}
    (h : ∀ k a, encodeFields (mk k a) = some (enc opc 0 k 0 (gCode a) 0)) : Reads (decA mk) opc := by
  rintro ⟨_, pd, al, k, dst, srca, lo⟩ i rfl hd
  simp only [decA, check_eq_some, Bool.and_eq_true, decide_eq_true_eq, Option.bind_eq_bind,
    Option.bind_eq_some_iff, Option.pure_def, Option.some.injEq] at hd
  obtain ⟨⟨⟨⟨rfl, rfl⟩, rfl⟩, rfl⟩, a, ha, rfl⟩ := hd
  rw [h, enc, gCode_of_gOf ha]

theorem reads_ab {mk : BitVec 8 → GReg → GReg → Instr} {opc : BitVec 9}
    (h : ∀ k a b, encodeFields (mk k a b) = some (enc opc 0 k 0 (gCode a) (loB (gCode b)))) : Reads (decAB mk) opc := by
  rintro ⟨_, pd, al, k, dst, srca, lo⟩ i rfl hd
  simp only [decAB, check_eq_some, Bool.and_eq_true, decide_eq_true_eq, Option.bind_eq_bind,
    Option.bind_eq_some_iff, Option.pure_def, Option.some.injEq] at hd
  obtain ⟨⟨⟨⟨rfl, rfl⟩, rfl⟩, hz⟩, a, ha, b, hb, rfl⟩ := hd
  rw [h, enc, gCode_of_gOf ha, gCode_of_gOf hb, loB_join hz]

theorem reads_bc {mk : BitVec 8 → GReg → GReg → BitVec 40 → Instr} {opc : BitVec 9}
    (h : ∀ k a b o, encodeFields (mk k a b o) = some (encI opc k a b o)) : Reads (decBc mk) opc := reads_imm h

theorem reads_br {mk : BitVec 8 → BitVec 40 → Instr} {opc : BitVec 9}
    (h : ∀ k o, encodeFields (mk k o) = some (enc opc 0 k 0 0 o)) : Reads (decBr mk) opc := by
  rintro ⟨_, pd, al, k, dst, srca, lo⟩ i rfl hd
  simp only [decBr, check_eq_some, Bool.and_eq_true, decide_eq_true_eq,
    Option.some.injEq] at hd
  obtain ⟨⟨⟨⟨rfl, rfl⟩, rfl⟩, rfl⟩, rfl⟩ := hd
  exact h k lo

theorem reads_tk {mk : BitVec 8 → SeqId → Operand 8 → Instr} {opc : BitVec 9}
    (h : ∀ k q n, encodeFields (mk k q n) = some (encTk opc k q n)) : Reads (decTk mk) opc := by
  rintro ⟨_, pd, al, k, dst, srca, lo⟩ i rfl hd
  simp only [decTk, check_eq_some, Bool.and_eq_true, decide_eq_true_eq, Option.bind_eq_bind,
    Option.bind_eq_some_iff, Option.pure_def, Option.some.injEq] at hd
  obtain ⟨⟨⟨⟨rfl, rfl⟩, rfl⟩, hz⟩, n, hn, rfl⟩ := hd
  obtain ⟨hc, hv⟩ := codes_of_operandOf hn
  have hlo : (0 : BitVec 30) ++ bits lo 8 2 ++ bits lo 0 8 = lo := by
    rw [← hz]
    exact join3 (n3 := 30) (n2 := 2) (n1 := 8) lo
  rw [h, encTk, enc, hc, hv, seqCode_seqOf, hlo]

theorem reads_ld {mk : BitVec 8 → Option Tag → LoadSize → GReg → GReg → BitVec 40 → Instr} {sz : LoadSize} {opc : BitVec 9}
    (h : ∀ k t d a o, encodeFields (mk k t sz d a o) = some (enc opc (allocCode t) k (gCode d) (gCode a) o)) :
    Reads (decLd mk sz) opc := by
  rintro ⟨_, pd, al, k, dst, srca, lo⟩ i rfl hd
  simp only [decLd, check_eq_some, decide_eq_true_eq, Option.bind_eq_bind,
    Option.bind_eq_some_iff, Option.pure_def, Option.some.injEq] at hd
  obtain ⟨rfl, t, ht, d, hd, a, ha, rfl⟩ := hd
  rw [h, enc, allocCode_of_allocOf ht, gCode_of_gOf hd, gCode_of_gOf ha]

theorem reads_st {mk : BitVec 8 → StoreSize → GReg → GReg → BitVec 40 → Instr} {sz : StoreSize} {opc : BitVec 9}
    (h : ∀ k v a o, encodeFields (mk k sz v a o) = some (enc opc 0 k (gCode v) (gCode a) o)) : Reads (decSt mk sz) opc := by
  rintro ⟨_, pd, al, k, dst, srca, lo⟩ i rfl hd
  simp only [decSt, check_eq_some, Bool.and_eq_true, decide_eq_true_eq, Option.bind_eq_bind,
    Option.bind_eq_some_iff, Option.pure_def, Option.some.injEq] at hd
  obtain ⟨⟨rfl, rfl⟩, v, hv, a, ha, rfl⟩ := hd
  rw [h, enc, gCode_of_gOf hv, gCode_of_gOf ha]

theorem reads_ag {mk : BitVec 8 → Fin 16 → Instr} {opc : BitVec 9}
    (h : ∀ k g, encodeFields (mk k g) = some (enc opc 0 k 0 0 ((0 : BitVec 36) ++ (BitVec.ofFin g : BitVec 4)))) :
    Reads (decAg mk) opc := by
  rintro ⟨_, pd, al, k, dst, srca, lo⟩ i rfl hd
  simp only [decAg, check_eq_some, Bool.and_eq_true, decide_eq_true_eq,
    Option.some.injEq] at hd
  obtain ⟨⟨⟨⟨⟨rfl, rfl⟩, rfl⟩, rfl⟩, hz⟩, rfl⟩ := hd
  have hlo : (0 : BitVec 36) ++ bits lo 0 4 = lo := by
    rw [← hz]
    exact join2 (n2 := 36) (n1 := 4) lo
  rw [h, enc, BitVec.ofFin_toFin, hlo]

/-! ### Vector words -/

/-- The shared part of a vector word carries every field but those that its group reads. -/
theorem encV_of_decVWord {f : Fields} {x : VWord × VLow} (h : decVWord f = some x) (b : Bool)
    (hb : x.2.strictB = bitCode b) : encV f.opc x.1 x.2.srcb b x.2.imm = f := by
  obtain ⟨opc, pd, al, k, dst, srca, lo⟩ := f
  simp only [decVWord, Option.bind_eq_bind,
    Option.bind_eq_some_iff, Option.pure_def, Option.some.injEq] at h
  obtain ⟨⟨d, ring⟩, hd, t, ht, a, ha, r, hr, rfl⟩ := h
  obtain ⟨hdst, hring⟩ := codes_of_dstOf hd
  obtain ⟨hsrc, hpd⟩ := codes_of_srcAOf ha
  have hmod : bits (VLow.unpack lo).mod 3 1 ++ bits (VLow.unpack lo).mod 0 3 = (VLow.unpack lo).mod :=
    join2 (n2 := 1) (n1 := 3) _
  rw [encV]
  simp only [hdst, hring, hsrc, hpd, allocCode_of_allocOf ht, bitCode_bitOf, rndCode_of_rndOf hr, hmod, ← hb]
  exact congrArg (Fields.mk opc pd al k dst srca) (vlow_pack_unpack lo)

/-- The same when STRICT B is read from the word. -/
theorem encV_bitOf {f : Fields} {x : VWord × VLow} (h : decVWord f = some x) :
    encV f.opc x.1 x.2.srcb (bitOf x.2.strictB) x.2.imm = f :=
  encV_of_decVWord h _ (bitCode_bitOf _).symm

theorem reads_v1 {mk : VWord → Instr} {opc : BitVec 9} (h : ∀ w, encodeFields (mk w) = some (encV opc w 0 false 0)) :
    Reads (decV1 mk) opc := by
  rintro f i rfl hd
  simp only [decV1, check_eq_some, Bool.and_eq_true, decide_eq_true_eq, Option.bind_eq_bind,
    Option.bind_eq_some_iff, Option.some.injEq] at hd
  obtain ⟨x, hx, ⟨⟨hs, hb⟩, hi⟩, rfl⟩ := hd
  rw [h, ← hs, ← hi, encV_of_decVWord hx false hb]

theorem reads_v2 {mk : VWord → VSrc → Bool → Instr} {opc : BitVec 9}
    (h : ∀ w b st, encodeFields (mk w b st) = some (encV2 opc w b st)) : Reads (decV2 mk) opc := by
  rintro f i rfl hd
  simp only [decV2, check_eq_some, decide_eq_true_eq, Option.bind_eq_bind,
    Option.bind_eq_some_iff, Option.pure_def, Option.some.injEq] at hd
  obtain ⟨x, hx, hi, b, hb, rfl⟩ := hd
  rw [h, encV2, (srcCode_of_srcOf hb).1, ← hi, encV_bitOf hx]

/-- IMM24 of a word with SRCC and LF. -/
theorem immLf_join {imm : BitVec 24} (h : bits imm 2 14 = 0) : bits imm 16 8 ++ (0 : BitVec 14) ++ bits imm 0 2 = imm := by
  rw [← h]
  exact join3 (n3 := 8) (n2 := 14) (n1 := 2) imm

/-- IMM24 of a word with SRCC alone. -/
theorem immC_join {imm : BitVec 24} (h : bits imm 0 16 = 0) : bits imm 16 8 ++ (0 : BitVec 14) ++ (0 : BitVec 2) = imm := by
  have h0 : bits imm 16 8 ++ bits imm 0 16 = imm := join2 (n2 := 8) (n1 := 16) imm
  rw [h] at h0
  rw [BitVec.append_assoc]
  exact h0

theorem reads_vfma {mk : VWord → BitVec 2 → VSrc → Bool → VSrc → Instr} {opc : BitVec 9}
    (h : ∀ w lf b st c, encodeFields (mk w lf b st c) = some (encV3 opc w b st c lf)) : Reads (decVFma mk) opc := by
  rintro f i rfl hd
  simp only [decVFma, check_eq_some, decide_eq_true_eq, Option.bind_eq_bind,
    Option.bind_eq_some_iff, Option.pure_def, Option.some.injEq] at hd
  obtain ⟨x, hx, hz, b, hb, c, hc, rfl⟩ := hd
  rw [h, encV3, (srcCode_of_srcOf hb).1, (srcCode_of_srcOf hc).1, immLf_join hz, encV_bitOf hx]

theorem reads_v3 {mk : VWord → VSrc → Bool → VSrc → Instr} {opc : BitVec 9}
    (h : ∀ w b st c, encodeFields (mk w b st c) = some (encV3 opc w b st c 0)) : Reads (decV3 mk) opc := by
  rintro f i rfl hd
  simp only [decV3, check_eq_some, decide_eq_true_eq, Option.bind_eq_bind,
    Option.bind_eq_some_iff, Option.pure_def, Option.some.injEq] at hd
  obtain ⟨x, hx, hz, b, hb, c, hc, rfl⟩ := hd
  rw [h, encV3, (srcCode_of_srcOf hb).1, (srcCode_of_srcOf hc).1, immC_join hz, encV_bitOf hx]

theorem reads_vs {mk : VWord → GReg → Instr} {opc : BitVec 9} (h : ∀ w g, encodeFields (mk w g) = some (encVs opc w g)) :
    Reads (decVs mk) opc := by
  rintro f i rfl hd
  simp only [decVs, check_eq_some, Bool.and_eq_true, decide_eq_true_eq, Option.bind_eq_bind,
    Option.bind_eq_some_iff, Option.pure_def, Option.some.injEq] at hd
  obtain ⟨x, hx, ⟨hb, hi⟩, g, hg, rfl⟩ := hd
  rw [h, encVs, gCode_of_gOf hg, ← hi, encV_of_decVWord hx false hb]

theorem reads_vfmaFs : Reads decVFmaFs 0x0F1 := by
  rintro f i ho hd
  simp only [decVFmaFs, check_eq_some, Bool.and_eq_true, decide_eq_true_eq, Option.bind_eq_bind,
    Option.bind_eq_some_iff, Option.pure_def, Option.some.injEq] at hd
  obtain ⟨x, hx, ⟨hb, hz⟩, g, hg, c, hc, rfl⟩ := hd
  have he : encodeFields (.vfmaFs x.1 (bits x.2.imm 0 2) g c) =
    some (encV 0x0F1 x.1 (gCode g) false (srcCode c ++ (0 : BitVec 14) ++ bits x.2.imm 0 2)) := rfl
  rw [he, gCode_of_gOf hg, (srcCode_of_srcOf hc).1, immLf_join hz, ← ho, encV_of_decVWord hx false hb]

/-- IMM24 of VBCAST. -/
theorem immBcast_join {imm : BitVec 24} (h1 : bits imm 14 10 = 0) (h2 : bits imm 6 2 = 0) :
    (0 : BitVec 10) ++ bits imm 8 6 ++ (0 : BitVec 2) ++ bits imm 0 6 = imm := by
  rw [← h1, ← h2]
  exact join4 (n4 := 10) (n3 := 6) (n2 := 2) (n1 := 6) imm

theorem reads_vbcast : Reads decVBcast 0x0E9 := by
  rintro f i ho hd
  simp only [decVBcast, check_eq_some, Bool.and_eq_true, decide_eq_true_eq, Option.bind_eq_bind,
    Option.bind_eq_some_iff, Option.some.injEq] at hd
  obtain ⟨x, hx, ⟨⟨⟨hs, hb⟩, h1⟩, h2⟩, rfl⟩ := hd
  have he : encodeFields (.vbcast x.1 (bits x.2.imm 8 6) (bits x.2.imm 0 6)) =
    some (encV 0x0E9 x.1 0 false ((0 : BitVec 10) ++ bits x.2.imm 8 6 ++ (0 : BitVec 2) ++ bits x.2.imm 0 6)) := rfl
  rw [he, immBcast_join h1 h2, ← ho, ← hs, encV_of_decVWord hx false hb]

theorem reads_vqnt {fm : Fmt} {opc : BitVec 9} (h : ∀ w keep, encodeFields (.vqnt w fm keep) =
    some (encV opc w 0 false ((0 : BitVec 23) ++ bitCode keep))) : Reads (decVQnt fm) opc := by
  rintro f i rfl hd
  simp only [decVQnt, check_eq_some, Bool.and_eq_true, decide_eq_true_eq, Option.bind_eq_bind,
    Option.bind_eq_some_iff, Option.some.injEq] at hd
  obtain ⟨x, hx, ⟨⟨hs, hb⟩, hz⟩, rfl⟩ := hd
  have himm : (0 : BitVec 23) ++ bits x.2.imm 0 1 = x.2.imm := by
    rw [← hz]
    exact join2 (n2 := 23) (n1 := 1) x.2.imm
  rw [h, bitCode_bitOf, himm, ← hs, encV_of_decVWord hx false hb]

/-- IMM24 of a codebook number. -/
theorem immCb_join {imm : BitVec 24} (h : bits imm 3 21 = 0) :
    (0 : BitVec 21) ++ (BitVec.ofFin (bits imm 0 3).toFin : BitVec 3) = imm := by
  rw [BitVec.ofFin_toFin, ← h]
  exact join2 (n2 := 21) (n1 := 3) imm

theorem reads_vlut {f16 : Bool} {opc : BitVec 9} (h : ∀ w cb, encodeFields (.vlut w f16 cb) =
    some (encV opc w 0 false ((0 : BitVec 21) ++ (BitVec.ofFin cb : BitVec 3)))) : Reads (decVLut f16) opc := by
  rintro f i rfl hd
  simp only [decVLut, check_eq_some, Bool.and_eq_true, decide_eq_true_eq, Option.bind_eq_bind,
    Option.bind_eq_some_iff, Option.some.injEq] at hd
  obtain ⟨x, hx, ⟨⟨hs, hb⟩, hz⟩, rfl⟩ := hd
  rw [h, immCb_join hz, ← hs, encV_of_decVWord hx false hb]

/-- The V fields of bits 39:0 are packed back from their values. -/
theorem vlow_join {lo : BitVec 40} {sb : BitVec 8} {s t : BitVec 1} {m : BitVec 4} {r : BitVec 2} {imm : BitVec 24}
    (hsb : (VLow.unpack lo).srcb = sb) (hs : (VLow.unpack lo).strictA = s) (ht : (VLow.unpack lo).strictB = t)
    (hm : (VLow.unpack lo).mod = m) (hr : (VLow.unpack lo).ring = r) (hi : (VLow.unpack lo).imm = imm) :
    VLow.pack { srcb := sb, strictA := s, strictB := t, mod := m, ring := r, imm := imm } = lo := by
  subst hsb hs ht hm hr hi
  exact vlow_pack_unpack lo

/-- RING of a tile destination (R84). -/
theorem ring_of_bit {r : BitVec 2} (h : r = 0 ∨ r = 1) : r = if decide (r = 1) then 1 else 0 := by
  rcases h with h | h <;> rw [h] <;> rfl

theorem reads_vfill : Reads decVFill 0x0EA := by
  rintro ⟨_, pd, al, k, dst, srca, lo⟩ i rfl hd
  simp only [decVFill, Bool.or_eq_true, check_eq_some, Bool.and_eq_true, decide_eq_true_eq, Option.bind_eq_bind,
    Option.bind_eq_some_iff, Option.pure_def, Option.some.injEq] at hd
  obtain ⟨⟨⟨⟨⟨⟨⟨⟨rfl, rfl⟩, rfl⟩, h1⟩, h2⟩, h3⟩, hr⟩, h4⟩, t, ht, g, hg, rfl⟩ := hd
  have hlo := vlow_join (gCode_of_gOf hg).symm h1 h2 h3 (ring_of_bit hr) h4
  cases tCode_of_tOf ht
  exact congrArg (fun x => some (Fields.mk 0x0EA 0 0 k (tCode t) 0 x)) hlo

end Sys2Proof.Laws
end

section
namespace Sys2Proof.Laws

/-! ### Tile words of other shapes -/

theorem reads_cbld : Reads decCbld 0x122 := by
  rintro ⟨_, pd, al, k, dst, srca, lo⟩ i rfl hd
  simp only [decCbld, check_eq_some, Bool.and_eq_true, decide_eq_true_eq, Option.bind_eq_bind,
    Option.bind_eq_some_iff, Option.pure_def, Option.some.injEq] at hd
  obtain ⟨⟨⟨⟨⟨⟨⟨rfl, rfl⟩, h1⟩, h2⟩, h3⟩, h4⟩, h5⟩, a, ha, rfl⟩ := hd
  obtain ⟨hsrc, hpd⟩ := codes_of_srcAOf ha
  have hlo := vlow_join h1 (bitCode_bitOf _).symm h2 h3 h4 (immCb_join h5).symm
  cases hsrc
  cases hpd
  exact congrArg (fun x => some (Fields.mk 0x122 (pdCode a) 0 k 0 (srcCode a) x)) hlo

theorem reads_tshape : Reads decTshape 0x123 := by
  rintro ⟨_, pd, al, k, dst, srca, lo⟩ i rfl hd
  simp only [decTshape, check_eq_some, Bool.and_eq_true, decide_eq_true_eq, Option.bind_eq_bind,
    Option.bind_eq_some_iff, Option.pure_def, Option.some.injEq] at hd
  obtain ⟨⟨⟨rfl, rfl⟩, rfl⟩, d, hd, a, ha, rfl⟩ := hd
  cases tCode_of_tOf hd
  cases gCode_of_gOf ha
  rfl

theorem reads_tshget : Reads decTshget 0x124 := by
  rintro ⟨_, pd, al, k, dst, srca, lo⟩ i rfl hd
  simp only [decTshget, check_eq_some, Bool.and_eq_true, decide_eq_true_eq, Option.bind_eq_bind,
    Option.bind_eq_some_iff, Option.pure_def, Option.some.injEq] at hd
  obtain ⟨⟨⟨⟨rfl, rfl⟩, h1⟩, h2⟩, d, hd, t, ht, rfl⟩ := hd
  have hlo : (0 : BitVec 8) ++ bitCode (bitOf (bits lo 31 1)) ++ (0 : BitVec 31) = lo := by
    rw [bitCode_bitOf, ← h1, ← h2]
    exact join3 (n3 := 8) (n2 := 1) (n1 := 31) lo
  cases gCode_of_gOf hd
  cases tCode_of_tOf ht
  exact congrArg (fun x => some (enc 0x124 0 k (gCode d) (tCode t) x)) hlo

/-! ### Format E -/

theorem join2_at {w : Nat} (x : BitVec w) (b : Nat) {n1 n2 : Nat} :
    bits x (b + n1) n2 ++ bits x b n1 = bits x b (n2 + n1) :=
  bits_append x rfl

theorem join3_at {w : Nat} (x : BitVec w) (b : Nat) {n1 n2 n3 : Nat} :
    bits x (b + n1 + n2) n3 ++ bits x (b + n1) n2 ++ bits x b n1 = bits x b (n3 + n2 + n1) := by
  rw [bits_append x rfl]
  exact join2_at x b

/-- A format E word is its opcode, its two semaphores and its payload. -/
theorem encE_payload {f : Fields} (h : f.engine = true) : encE f.opc f.cons f.dst f.payload = f := by
  obtain ⟨opc, pd, al, k, dst, srca, lo⟩ := f
  simp only [Fields.engine, Bool.and_eq_true, decide_eq_true_eq] at h
  obtain ⟨rfl, rfl⟩ := h
  have hsrc : bits (srca ++ lo) 40 8 = srca := BitVec.extractLsb'_append_eq_left
  have hlo : bits (srca ++ lo) 0 40 = lo := BitVec.extractLsb'_append_eq_right
  rw [encE, Fields.payload, hsrc, hlo]

theorem reads_mx {mk : MxMul → Instr} {pair : MxPair} {opc : BitVec 9}
    (h : ∀ p : MxMul, p.pair = pair → encodeFields (mk p) = some (encMx opc p)) : Reads (decMx mk pair) opc := by
  rintro f i rfl hd
  simp only [decMx, check_eq_some, Bool.and_eq_true, decide_eq_true_eq,
    Option.some.injEq] at hd
  obtain ⟨⟨he, hz⟩, rfl⟩ := hd
  refine (h _ rfl).trans (congrArg some (Eq.trans ?_ (encE_payload he)))
  rw [encMx]
  simp only [BitVec.ofFin_toFin, bitCode_bitOf, ← hz]
  exact congrArg (encE f.opc f.cons f.dst) (join10 (n10 := 4) (n9 := 6) (n8 := 6) (n7 := 1) (n6 := 1) (n5 := 4) (n4 := 3)
    (n3 := 1) (n2 := 3) (n1 := 19) f.payload)

theorem reads_mxzero : Reads decMxzero 0x164 := by
  rintro f i ho hd
  simp only [decMxzero, check_eq_some, Bool.and_eq_true, decide_eq_true_eq,
    Option.some.injEq] at hd
  obtain ⟨⟨he, hz⟩, rfl⟩ := hd
  have hp : (BitVec.ofFin (bits f.payload 44 4).toFin : BitVec 4) ++ bitCode (bitOf (bits f.payload 43 1)) ++
      (0 : BitVec 43) = f.payload := by
    rw [BitVec.ofFin_toFin, bitCode_bitOf, ← hz]
    exact join3 (n3 := 4) (n2 := 1) (n1 := 43) f.payload
  refine (congrArg (fun x => some (encE 0x164 f.cons f.dst x)) hp).trans ?_
  rw [← ho, encE_payload he]

theorem reads_mxwr : Reads decMxwr 0x16C := by
  rintro f i ho hd
  simp only [decMxwr, check_eq_some, Bool.and_eq_true, decide_eq_true_eq,
    Option.some.injEq] at hd
  obtain ⟨⟨he, hz⟩, rfl⟩ := hd
  have hp : (BitVec.ofFin (bits f.payload 44 4).toFin : BitVec 4) ++ bits f.payload 38 6 ++ (0 : BitVec 38) = f.payload := by
    rw [BitVec.ofFin_toFin, ← hz]
    exact join3 (n3 := 4) (n2 := 6) (n1 := 38) f.payload
  refine (congrArg (fun x => some (encE 0x16C f.cons f.dst x)) hp).trans ?_
  rw [← ho, encE_payload he]

/-- MXRD and MXEPI write their window above the 24 low bits. -/
theorem encMxWin_mxWinOf {f : Fields} (he : f.engine = true) {low : BitVec 24} (hl : bits f.payload 0 24 = low) :
    encMxWin f.opc (mxWinOf f) low = f := by
  rw [encMxWin, mxWinOf, BitVec.ofFin_toFin, ← hl]
  exact (congrArg (encE f.opc f.cons f.dst) (join5 (n5 := 4) (n4 := 6) (n3 := 7) (n2 := 7) (n1 := 24) f.payload)).trans
    (encE_payload he)

/-- RM takes two of the three bits of a rounding mode. -/
theorem rndCode_low {b : BitVec 2} {r : Rnd} (h : rndOf ((0 : BitVec 1) ++ b) = some r) : bits (rndCode r) 0 2 = b := by
  rw [rndCode_of_rndOf h]
  exact BitVec.extractLsb'_append_eq_right

theorem reads_mxrd {fm : Fmt} {opc : BitVec 9} (h : ∀ p r s, encodeFields (.mxrd p fm r s) =
    some (encMxWin opc p (bits (rndCode r) 0 2 ++ bitCode s ++ (0 : BitVec 21)))) : Reads (decMxrd fm) opc := by
  rintro f i rfl hd
  simp only [decMxrd, check_eq_some, Bool.and_eq_true, decide_eq_true_eq, Option.bind_eq_bind,
    Option.bind_eq_some_iff, Option.pure_def, Option.some.injEq] at hd
  obtain ⟨⟨he, hz⟩, r, hr, rfl⟩ := hd
  have hlow : bits f.payload 0 24 = bits f.payload 22 2 ++ bits f.payload 21 1 ++ (0 : BitVec 21) := by
    rw [← hz]
    exact (join3_at (n3 := 2) (n2 := 1) (n1 := 21) f.payload 0).symm
  rw [h, rndCode_low hr, bitCode_bitOf, encMxWin_mxWinOf he hlow]

theorem reads_mxepi {v : Epi} {opc : BitVec 9} (h : ∀ p, encodeFields (.mxepi p v) = some (encMxWin opc p 0)) :
    Reads (decMxepi v) opc := by
  rintro f i rfl hd
  simp only [decMxepi, check_eq_some, Bool.and_eq_true, decide_eq_true_eq,
    Option.some.injEq] at hd
  obtain ⟨⟨he, hz⟩, rfl⟩ := hd
  rw [h, encMxWin_mxWinOf he hz]

/-- A copy writes its shared fields above the 21 low bits. -/
theorem encCp_of_copyOf {f : Fields} {c : CopyOp} (h : copyOf f = some c) {low : BitVec 21}
    (hl : bits f.payload 0 21 = low) : encCp f.opc c low = f := by
  simp only [copyOf, check_eq_some, Option.bind_eq_bind,
    Option.bind_eq_some_iff, Option.pure_def, Option.some.injEq] at h
  obtain ⟨he, b, hb, rfl⟩ := h
  simp only [encCp, BitVec.ofFin_toFin, barCode_of_barOf hb]
  refine Eq.trans ?_ (encE_payload he)
  have hbar : bits f.payload 27 1 ++ bits f.payload 21 6 = bits f.payload 21 7 := join2_at f.payload 21
  rw [← hl, hbar]
  exact congrArg (encE f.opc f.cons f.dst) (join6 (n6 := 5) (n5 := 5) (n4 := 5) (n3 := 5) (n2 := 7) (n1 := 21) f.payload)

theorem reads_cp {mk : CopyOp → Instr} {opc : BitVec 9} (h : ∀ p, encodeFields (mk p) = some (encCp opc p 0)) :
    Reads (decCp mk) opc := by
  rintro f i rfl hd
  simp only [decCp, check_eq_some, decide_eq_true_eq, Option.bind_eq_bind,
    Option.bind_eq_some_iff, Option.some.injEq] at hd
  obtain ⟨c, hc, hz, rfl⟩ := hd
  rw [h, encCp_of_copyOf hc hz]

theorem reads_cpl2l {n : Dims} {opc : BitVec 9} (h : ∀ p r, encodeFields (.cpl2l p n r) =
    some (encCp opc p ((BitVec.ofFin r : BitVec 4) ++ (0 : BitVec 17)))) : Reads (decCpl2l n) opc := by
  rintro f i rfl hd
  simp only [decCpl2l, check_eq_some, decide_eq_true_eq, Option.bind_eq_bind,
    Option.bind_eq_some_iff, Option.some.injEq] at hd
  obtain ⟨c, hc, hz, rfl⟩ := hd
  have hlow : bits f.payload 0 21 = bits f.payload 17 4 ++ (0 : BitVec 17) := by
    rw [← hz]
    exact (join2_at (n2 := 4) (n1 := 17) f.payload 0).symm
  rw [h, BitVec.ofFin_toFin, encCp_of_copyOf hc hlow]

theorem reads_cpbc : Reads decCpbc 0x177 := by
  rintro f i ho hd
  simp only [decCpbc, check_eq_some, Bool.and_eq_true, decide_eq_true_eq, Option.bind_eq_bind,
    Option.bind_eq_some_iff, Option.some.injEq] at hd
  obtain ⟨c, hc, ⟨h1, h2⟩, rfl⟩ := hd
  have hlow : bits f.payload 0 21 = (0 : BitVec 4) ++ bits f.payload 1 16 ++ (0 : BitVec 1) := by
    rw [← h1, ← h2]
    exact (join3_at (n3 := 4) (n2 := 16) (n1 := 1) f.payload 0).symm
  have he : encodeFields (.cpbc c (bits f.payload 1 16)) =
    some (encCp 0x177 c ((0 : BitVec 4) ++ bits f.payload 1 16 ++ (0 : BitVec 1))) := rfl
  rw [he, ← ho, encCp_of_copyOf hc hlow]

theorem reads_cpmeta : Reads decCpmeta 0x176 := by
  rintro f i ho hd
  simp only [decCpmeta, check_eq_some, decide_eq_true_eq, Option.bind_eq_bind,
    Option.bind_eq_some_iff, Option.some.injEq] at hd
  obtain ⟨c, hc, hz, rfl⟩ := hd
  have hlow : bits f.payload 0 21 = bits f.payload 20 1 ++ bits f.payload 13 7 ++ (0 : BitVec 13) := by
    rw [← hz]
    exact (join3_at (n3 := 1) (n2 := 7) (n1 := 13) f.payload 0).symm
  have he : encodeFields (.cpmeta c (bits f.payload 20 1).toFin (bits f.payload 13 7)) =
    some (encCp 0x176 c (bits f.payload 20 1 ++ bits f.payload 13 7 ++ (0 : BitVec 13))) := rfl
  rw [he, ← ho, encCp_of_copyOf hc hlow]

/-! ### Semaphores, barriers and memory words -/

theorem reads_semI {mk : BitVec 8 → BitVec 8 → BitVec 16 → Instr} {opc : BitVec 9}
    (h : ∀ k s n, encodeFields (mk k s n) = some (enc opc 0 k 0 0 (s ++ (0 : BitVec 16) ++ n))) : Reads (decSemI mk) opc := by
  rintro ⟨_, pd, al, k, dst, srca, lo⟩ i rfl hd
  simp only [decSemI, check_eq_some, Bool.and_eq_true, decide_eq_true_eq,
    Option.some.injEq] at hd
  obtain ⟨⟨⟨⟨⟨rfl, rfl⟩, rfl⟩, rfl⟩, hz⟩, rfl⟩ := hd
  have hlo : bits lo 32 8 ++ (0 : BitVec 16) ++ bits lo 0 16 = lo := by
    rw [← hz]
    exact join3 (n3 := 8) (n2 := 16) (n1 := 16) lo
  rw [h, enc, hlo]

theorem reads_semR {mk : BitVec 8 → BitVec 8 → GReg → Instr} {opc : BitVec 9}
    (h : ∀ k s a, encodeFields (mk k s a) = some (enc opc 0 k 0 (gCode a) (loB s))) : Reads (decSemR mk) opc := by
  rintro ⟨_, pd, al, k, dst, srca, lo⟩ i rfl hd
  simp only [decSemR, check_eq_some, Bool.and_eq_true, decide_eq_true_eq, Option.bind_eq_bind,
    Option.bind_eq_some_iff, Option.pure_def, Option.some.injEq] at hd
  obtain ⟨⟨⟨⟨rfl, rfl⟩, rfl⟩, hz⟩, a, ha, rfl⟩ := hd
  rw [h, enc, gCode_of_gOf ha, loB_join hz]

theorem reads_semget : Reads decSemget 0x184 := by
  rintro ⟨_, pd, al, k, dst, srca, lo⟩ i rfl hd
  simp only [decSemget, check_eq_some, Bool.and_eq_true, decide_eq_true_eq, Option.bind_eq_bind,
    Option.bind_eq_some_iff, Option.pure_def, Option.some.injEq] at hd
  obtain ⟨⟨⟨⟨rfl, rfl⟩, rfl⟩, hz⟩, d, hd, rfl⟩ := hd
  cases gCode_of_gOf hd
  exact congrArg (fun x => some (enc 0x184 0 k (gCode d) 0 x)) (loB_join hz)

theorem reads_barexp : Reads decBarexp 0x185 := by
  rintro ⟨_, pd, al, k, dst, srca, lo⟩ i rfl hd
  simp only [decBarexp, check_eq_some, Bool.and_eq_true, decide_eq_true_eq, Option.bind_eq_bind,
    Option.bind_eq_some_iff, Option.pure_def, Option.some.injEq] at hd
  obtain ⟨⟨⟨rfl, rfl⟩, rfl⟩, n, hn, rfl⟩ := hd
  obtain ⟨hc, hv⟩ := codes_of_operandOf hn
  have hlo : (BitVec.ofFin (bits lo 34 6).toFin : BitVec 6) ++ n.value = lo := by
    rw [BitVec.ofFin_toFin, hv]
    exact join2 (n2 := 6) (n1 := 34) lo
  cases hc
  exact congrArg (fun x => some (enc 0x185 0 k 0 n.code x)) hlo

/-- Bits 39:0 of BARWAIT and BARTEST. -/
theorem loBar_join {lo : BitVec 40} {p : Operand 1} (hz : bits lo 1 33 = 0) (hv : p.value = bits lo 0 1) :
    (BitVec.ofFin (bits lo 34 6).toFin : BitVec 6) ++ (0 : BitVec 33) ++ p.value = lo := by
  rw [BitVec.ofFin_toFin, hv, ← hz]
  exact join3 (n3 := 6) (n2 := 33) (n1 := 1) lo

theorem reads_barwait : Reads decBarwait 0x186 := by
  rintro ⟨_, pd, al, k, dst, srca, lo⟩ i rfl hd
  simp only [decBarwait, check_eq_some, Bool.and_eq_true, decide_eq_true_eq, Option.bind_eq_bind,
    Option.bind_eq_some_iff, Option.pure_def, Option.some.injEq] at hd
  obtain ⟨⟨⟨⟨rfl, rfl⟩, rfl⟩, hz⟩, p, hp, rfl⟩ := hd
  obtain ⟨hc, hv⟩ := codes_of_operandOf hp
  cases hc
  exact congrArg (fun x => some (enc 0x186 0 k 0 p.code x)) (loBar_join hz hv)

theorem reads_bartest : Reads decBartest 0x187 := by
  rintro ⟨_, pd, al, k, dst, srca, lo⟩ i rfl hd
  simp only [decBartest, check_eq_some, Bool.and_eq_true, decide_eq_true_eq, Option.bind_eq_bind,
    Option.bind_eq_some_iff, Option.pure_def, Option.some.injEq] at hd
  obtain ⟨⟨⟨rfl, rfl⟩, hz⟩, d, hd, p, hp, rfl⟩ := hd
  obtain ⟨hc, hv⟩ := codes_of_operandOf hp
  cases hc
  cases gCode_of_gOf hd
  exact congrArg (fun x => some (enc 0x187 0 k (gCode d) p.code x)) (loBar_join hz hv)

/-- MOD of a word with ACQ and REL (R206). -/
theorem mod_join {m : BitVec 4} (h : bits m 2 2 = 0) :
    m = (0 : BitVec 2) ++ bitCode (bitOf (bits m 1 1)) ++ bitCode (bitOf (bits m 0 1)) := by
  rw [bitCode_bitOf, bitCode_bitOf, ← h]
  exact (join3 (n3 := 2) (n2 := 1) (n1 := 1) m).symm

theorem reads_atom {o : AtomOp} {dbl : Bool} {opc : BitVec 9} (h : ∀ k t acq rel d a b,
    encodeFields (.atom k t o dbl acq rel d a b) = some (enc opc (allocCode t) k (gCode d) (gCode a) (VLow.pack
      { srcb := gCode b, strictA := 0, strictB := 0, mod := (0 : BitVec 2) ++ bitCode acq ++ bitCode rel, ring := 0,
        imm := 0 }))) : Reads (decAtom o dbl) opc := by
  rintro ⟨_, pd, al, k, dst, srca, lo⟩ i rfl hd
  simp only [decAtom, check_eq_some, Bool.and_eq_true, decide_eq_true_eq, Option.bind_eq_bind,
    Option.bind_eq_some_iff, Option.pure_def, Option.some.injEq] at hd
  obtain ⟨⟨⟨⟨⟨⟨rfl, h1⟩, h2⟩, h3⟩, h4⟩, h5⟩, t, ht, d, hd, a, ha, b, hb, rfl⟩ := hd
  rw [h, enc, allocCode_of_allocOf ht, gCode_of_gOf hd, gCode_of_gOf ha,
    vlow_join (gCode_of_gOf hb).symm h1 h2 (mod_join h3) h4 h5]

/-- IMM24 with SRCC in its upper byte. -/
theorem immSrcc_join {imm : BitVec 24} (h : bits imm 0 16 = 0) : imm = bits imm 16 8 ++ (0 : BitVec 16) := by
  rw [← h]
  exact (join2 (n2 := 8) (n1 := 16) imm).symm

theorem reads_atcas {dbl : Bool} {opc : BitVec 9} (h : ∀ k t acq rel d a b c,
    encodeFields (.atcas k t dbl acq rel d a b c) = some (enc opc (allocCode t) k (gCode d) (gCode a) (VLow.pack
      { srcb := gCode b, strictA := 0, strictB := 0, mod := (0 : BitVec 2) ++ bitCode acq ++ bitCode rel, ring := 0,
        imm := gCode c ++ (0 : BitVec 16) }))) : Reads (decAtcas dbl) opc := by
  rintro ⟨_, pd, al, k, dst, srca, lo⟩ i rfl hd
  simp only [decAtcas, check_eq_some, Bool.and_eq_true, decide_eq_true_eq, Option.bind_eq_bind,
    Option.bind_eq_some_iff, Option.pure_def, Option.some.injEq] at hd
  obtain ⟨⟨⟨⟨⟨⟨rfl, h1⟩, h2⟩, h3⟩, h4⟩, h5⟩, t, ht, d, hd, a, ha, b, hb, c, hc, rfl⟩ := hd
  rw [h, enc, allocCode_of_allocOf ht, gCode_of_gOf hd, gCode_of_gOf ha, gCode_of_gOf hc,
    vlow_join (gCode_of_gOf hb).symm h1 h2 (mod_join h3) h4 (immSrcc_join h5)]

/-- IMM24 of ACCT (R208). -/
theorem immAcct_join {imm : BitVec 24} (h : bits imm 0 6 = 0) : imm =
    (BitVec.ofFin (bits imm 20 4).toFin : BitVec 4) ++ bits imm 13 7 ++ bits imm 6 7 ++ (0 : BitVec 6) := by
  rw [BitVec.ofFin_toFin, ← h]
  exact (join4 (n4 := 4) (n3 := 7) (n2 := 7) (n1 := 6) imm).symm

theorem reads_acct {mk : BitVec 8 → AccFmt → Fin 16 → GReg → GReg → BitVec 7 → BitVec 7 → Instr} {fm : AccFmt}
    {opc : BitVec 9} (h : ∀ k acc a s r c, encodeFields (mk k fm acc a s r c) = some (enc opc 0 k 0 (gCode a) (VLow.pack
      { srcb := gCode s, strictA := 0, strictB := 0, mod := 0, ring := 0,
        imm := (BitVec.ofFin acc : BitVec 4) ++ r ++ c ++ (0 : BitVec 6) }))) : Reads (decAcct mk fm) opc := by
  rintro ⟨_, pd, al, k, dst, srca, lo⟩ i rfl hd
  simp only [decAcct, check_eq_some, Bool.and_eq_true, decide_eq_true_eq, Option.bind_eq_bind,
    Option.bind_eq_some_iff, Option.pure_def, Option.some.injEq] at hd
  obtain ⟨⟨⟨⟨⟨⟨⟨⟨rfl, rfl⟩, rfl⟩, h1⟩, h2⟩, h3⟩, h4⟩, h5⟩, a, ha, s, hs, rfl⟩ := hd
  rw [h, enc, gCode_of_gOf ha, vlow_join (gCode_of_gOf hs).symm h1 h2 h3 h4 (immAcct_join h5)]

theorem reads_flushres : Reads decFlushres 0x19F := by
  rintro ⟨_, pd, al, k, dst, srca, lo⟩ i rfl hd
  simp only [decFlushres, check_eq_some, Bool.and_eq_true, decide_eq_true_eq] at hd
  obtain ⟨⟨⟨⟨rfl, rfl⟩, rfl⟩, hz⟩, hd⟩ := hd
  have hlo : (0 : BitVec 39) ++ bits lo 0 1 = lo := by
    rw [← hz]
    exact join2 (n2 := 39) (n1 := 1) lo
  split at hd
  case isTrue h1 =>
    obtain ⟨a, ha, rfl⟩ := Option.map_eq_some_iff.mp hd
    rw [h1] at hlo
    cases gCode_of_gOf ha
    exact congrArg (fun x => some (enc 0x19F 0 k 0 (gCode a) x)) hlo
  case isFalse h1 =>
    simp only [check_eq_some, decide_eq_true_eq, Option.some.injEq] at hd
    obtain ⟨rfl, rfl⟩ := hd
    have h0 : bits lo 0 1 = 0 := by
      revert h1
      generalize bits lo 0 1 = b
      revert b
      decide
    rw [h0] at hlo
    exact congrArg (fun x => some (enc 0x19F 0 k 0 0 x)) hlo

theorem reads_waita {cc : Cond} {opc : BitVec 9} (h : ∀ k acq d a m v t,
    encodeFields (.waita k cc acq d a m v t) = some (enc opc 0 k (gCode d) (gCode a) (VLow.pack
      { srcb := gCode m, strictA := 0, strictB := 0, mod := (0 : BitVec 2) ++ bitCode acq ++ (0 : BitVec 1), ring := 0,
        imm := gCode v ++ gCode t ++ (0 : BitVec 8) }))) : Reads (decWaita cc) opc := by
  rintro ⟨_, pd, al, k, dst, srca, lo⟩ i rfl hd
  simp only [decWaita, check_eq_some, Bool.and_eq_true, decide_eq_true_eq, Option.bind_eq_bind,
    Option.bind_eq_some_iff, Option.pure_def, Option.some.injEq] at hd
  obtain ⟨⟨⟨⟨⟨⟨⟨⟨rfl, rfl⟩, h1⟩, h2⟩, h3⟩, h4⟩, h5⟩, h6⟩, d, hd, a, ha, m, hm, v, hv, t, ht, rfl⟩ := hd
  have hmod := mod_join h4
  rw [h3, bitCode_bitOf 0] at hmod
  have himm : (VLow.unpack lo).imm = bits (VLow.unpack lo).imm 16 8 ++ bits (VLow.unpack lo).imm 8 8 ++ (0 : BitVec 8) := by
    rw [← h6]
    exact (join3 (n3 := 8) (n2 := 8) (n1 := 8) _).symm
  rw [h, enc, gCode_of_gOf hd, gCode_of_gOf ha, gCode_of_gOf hv, gCode_of_gOf ht,
    vlow_join (gCode_of_gOf hm).symm h1 h2 hmod h5 himm]

/-! ### Device words -/

theorem reads_dlset : Reads decDlset 0x1C2 := by
  rintro ⟨_, pd, al, k, dst, srca, lo⟩ i rfl hd
  simp only [decDlset, check_eq_some, Bool.and_eq_true, decide_eq_true_eq] at hd
  obtain ⟨⟨⟨rfl, rfl⟩, hz⟩, hd⟩ := hd
  split at hd
  case isTrue h0 =>
    simp only [Option.bind_eq_bind, Option.bind_eq_some_iff, Option.pure_def, Option.some.injEq] at hd
    obtain ⟨d, rfl, t, ht, w, hw, rfl⟩ := hd
    cases gCode_of_gOf ht
    cases h0
    exact congrArg (fun x => some (enc 0x1C2 0 k 0 (gCode t) x)) ((congrArg loB (gCode_of_gOf hw)).trans (loB_join hz))
  case isFalse =>
    simp only [Option.bind_eq_bind, Option.bind_eq_some_iff, Option.pure_def, Option.some.injEq, Option.map_eq_some_iff] at hd
    obtain ⟨_, ⟨g, hg, rfl⟩, t, ht, w, hw, rfl⟩ := hd
    cases gCode_of_gOf ht
    cases gCode_of_gOf hg
    exact congrArg (fun x => some (enc 0x1C2 0 k (gCode g) (gCode t) x))
      ((congrArg loB (gCode_of_gOf hw)).trans (loB_join hz))

theorem reads_eqpush : Reads decEqpush 0x1CC := by
  rintro ⟨_, pd, al, k, dst, srca, lo⟩ i rfl hd
  simp only [decEqpush, check_eq_some, Bool.and_eq_true, decide_eq_true_eq, Option.bind_eq_bind,
    Option.bind_eq_some_iff, Option.pure_def, Option.some.injEq] at hd
  obtain ⟨⟨⟨⟨⟨⟨⟨⟨rfl, rfl⟩, rfl⟩, h1⟩, h2⟩, h3⟩, h4⟩, h5⟩, s, hs, rfl⟩ := hd
  have himm : (VLow.unpack lo).imm = (BitVec.ofFin (bits (VLow.unpack lo).imm 21 3).toFin : BitVec 3) ++
      bitCode (bitOf (bits (VLow.unpack lo).imm 20 1)) ++ (BitVec.ofFin (bits (VLow.unpack lo).imm 18 2).toFin : BitVec 2) ++
      bits (VLow.unpack lo).imm 12 6 ++ bits (VLow.unpack lo).imm 6 6 ++ (0 : BitVec 6) := by
    rw [BitVec.ofFin_toFin, BitVec.ofFin_toFin, bitCode_bitOf, ← h5]
    exact (join6 (n6 := 3) (n5 := 1) (n4 := 2) (n3 := 6) (n2 := 6) (n1 := 6) _).symm
  cases (srcCode_of_srcOf hs).1
  exact congrArg (fun x => some (enc 0x1CC 0 k 0 (srcCode s) x)) (vlow_join h1 (bitCode_bitOf _).symm h2 h3 h4 himm)

theorem reads_lk {mk : BitVec 8 → GReg → GReg → GReg → Instr} {opc : BitVec 9}
    (h : ∀ k s w t, encodeFields (mk k s w t) = some (enc opc 0 k 0 (gCode s)
      (gCode w ++ (0 : BitVec 8) ++ gCode t ++ (0 : BitVec 16)))) : Reads (decLk mk) opc := by
  rintro ⟨_, pd, al, k, dst, srca, lo⟩ i rfl hd
  simp only [decLk, check_eq_some, Bool.and_eq_true, decide_eq_true_eq, Option.bind_eq_bind,
    Option.bind_eq_some_iff, Option.pure_def, Option.some.injEq] at hd
  obtain ⟨⟨⟨⟨⟨rfl, rfl⟩, rfl⟩, h1⟩, h2⟩, s, hs, w, hw, t, ht, rfl⟩ := hd
  rw [h, enc, gCode_of_gOf hs, gCode_of_gOf hw, gCode_of_gOf ht, loBc_join h1 h2]

/-- Bits 39:0 of a word with a CSR number. -/
theorem loCsr_join {lo : BitVec 40} (h : bits lo 12 28 = 0) : (0 : BitVec 28) ++ bits lo 0 12 = lo := by
  rw [← h]
  exact join2 (n2 := 28) (n1 := 12) lo

theorem reads_csrr : Reads decCsrr 0x1D4 := by
  rintro ⟨_, pd, al, k, dst, srca, lo⟩ i rfl hd
  simp only [decCsrr, check_eq_some, Bool.and_eq_true, decide_eq_true_eq, Option.bind_eq_bind,
    Option.bind_eq_some_iff, Option.pure_def, Option.some.injEq] at hd
  obtain ⟨⟨⟨⟨rfl, rfl⟩, rfl⟩, hz⟩, d, hd, rfl⟩ := hd
  cases gCode_of_gOf hd
  exact congrArg (fun x => some (enc 0x1D4 0 k (gCode d) 0 x)) (loCsr_join hz)

theorem reads_csrw {mk : BitVec 8 → BitVec 12 → GReg → Instr} {opc : BitVec 9}
    (h : ∀ k c a, encodeFields (mk k c a) = some (enc opc 0 k 0 (gCode a) ((0 : BitVec 28) ++ c))) :
    Reads (decCsrw mk) opc := by
  rintro ⟨_, pd, al, k, dst, srca, lo⟩ i rfl hd
  simp only [decCsrw, check_eq_some, Bool.and_eq_true, decide_eq_true_eq, Option.bind_eq_bind,
    Option.bind_eq_some_iff, Option.pure_def, Option.some.injEq] at hd
  obtain ⟨⟨⟨⟨rfl, rfl⟩, rfl⟩, hz⟩, a, ha, rfl⟩ := hd
  rw [h, enc, gCode_of_gOf ha, loCsr_join hz]

end Sys2Proof.Laws
end

section
namespace Sys2Proof.Laws

/-! ### The opcode grid -/

/-- Every decoder of the list reads the word of its opcode, the first standing at `base`. -/
def ReadsFrom : Nat → List (Fields → Option Instr) → Prop
  | _, [] => True
  | base, d :: ds => Reads d (BitVec.ofNat 9 base) ∧ ReadsFrom (base + 1) ds

theorem ReadsFrom.append {ds es : List (Fields → Option Instr)} {base : Nat} (h : ReadsFrom base ds)
    (h' : ReadsFrom (base + ds.length) es) : ReadsFrom base (ds ++ es) := by
  induction ds generalizing base with
  | nil => exact h'
  | cons d ds ih =>
    refine ⟨h.1, ih h.2 ?_⟩
    rw [List.length_cons] at h'
    rwa [Nat.add_assoc, Nat.add_comm 1]

theorem ReadsFrom.get {ds : List (Fields → Option Instr)} {base n : Nat} {d : Fields → Option Instr}
    (h : ReadsFrom base ds) (hd : ds[n]? = some d) : Reads d (BitVec.ofNat 9 (base + n)) := by
  induction ds generalizing base n with
  | nil => cases hd
  | cons x xs ih =>
    cases n with
    | zero => cases hd; exact h.1
    | succ n =>
      rw [← Nat.succ_add_eq_add_succ]
      exact ih h.2 hd

/-! Words of one opcode whose decoder stands in its class's list. -/

theorem reads_li : Reads class0[32]! 0x020 := by
  rintro ⟨_, pd, al, k, dst, srca, lo⟩ i rfl hd
  change check _ _ = _ at hd
  simp only [check_eq_some, Bool.and_eq_true, decide_eq_true_eq, Option.bind_eq_bind,
    Option.bind_eq_some_iff, Option.pure_def, Option.some.injEq] at hd
  obtain ⟨⟨⟨rfl, rfl⟩, rfl⟩, d, hd, rfl⟩ := hd
  cases gCode_of_gOf hd
  rfl

theorem reads_lih : Reads class0[33]! 0x021 := by
  rintro ⟨_, pd, al, k, dst, srca, lo⟩ i rfl hd
  change check _ _ = _ at hd
  simp only [check_eq_some, Bool.and_eq_true, decide_eq_true_eq, Option.bind_eq_bind,
    Option.bind_eq_some_iff, Option.pure_def, Option.some.injEq] at hd
  obtain ⟨⟨⟨⟨rfl, rfl⟩, rfl⟩, hz⟩, d, hd, rfl⟩ := hd
  have hlo : (0 : BitVec 16) ++ bits lo 0 24 = lo := by
    rw [← hz]
    exact join2 (n2 := 16) (n1 := 24) lo
  cases gCode_of_gOf hd
  exact congrArg (fun x => some (enc 0x021 0 k (gCode d) 0 x)) hlo

theorem reads_jtbl : Reads class1[9]! 0x049 := by
  rintro ⟨_, pd, al, k, dst, srca, lo⟩ i rfl hd
  change check _ _ = _ at hd
  simp only [check_eq_some, Bool.and_eq_true, decide_eq_true_eq, Option.bind_eq_bind,
    Option.bind_eq_some_iff, Option.pure_def, Option.some.injEq] at hd
  obtain ⟨⟨⟨⟨rfl, rfl⟩, rfl⟩, hz⟩, a, ha, rfl⟩ := hd
  have hlo : (0 : BitVec 38) ++ (BitVec.ofFin (bits lo 0 2).toFin : BitVec 2) = lo := by
    rw [BitVec.ofFin_toFin, ← hz]
    exact join2 (n2 := 38) (n1 := 2) lo
  cases gCode_of_gOf ha
  exact congrArg (fun x => some (enc 0x049 0 k 0 (gCode a) x)) hlo

/-- Bits 39:0 of a word with a 16-bit code alone. -/
theorem loCode_join {lo : BitVec 40} (h : bits lo 16 24 = 0) : (0 : BitVec 24) ++ bits lo 0 16 = lo := by
  rw [← h]
  exact join2 (n2 := 24) (n1 := 16) lo

theorem reads_lpad : Reads class1[10]! 0x04A := by
  rintro ⟨_, pd, al, k, dst, srca, lo⟩ i rfl hd
  change check _ _ = _ at hd
  simp only [check_eq_some, Bool.and_eq_true, decide_eq_true_eq,
    Option.some.injEq] at hd
  obtain ⟨⟨⟨⟨⟨rfl, rfl⟩, rfl⟩, rfl⟩, hz⟩, rfl⟩ := hd
  exact congrArg (fun x => some (enc 0x04A 0 k 0 0 x)) (loCode_join hz)

theorem reads_loopReg : Reads class1[11]! 0x04B := by
  rintro ⟨_, pd, al, k, dst, srca, lo⟩ i rfl hd
  change check _ _ = _ at hd
  simp only [check_eq_some, Bool.and_eq_true, decide_eq_true_eq, Option.bind_eq_bind,
    Option.bind_eq_some_iff, Option.pure_def, Option.some.injEq] at hd
  obtain ⟨⟨⟨⟨rfl, rfl⟩, rfl⟩, hz⟩, a, ha, rfl⟩ := hd
  have hlo : (0 : BitVec 20) ++ bits lo 0 20 = lo := by
    rw [← hz]
    exact join2 (n2 := 20) (n1 := 20) lo
  cases gCode_of_gOf ha
  exact congrArg (fun x => some (enc 0x04B 0 k 0 (gCode a) x)) hlo

theorem reads_loopImm : Reads class1[12]! 0x04C := by
  rintro ⟨_, pd, al, k, dst, srca, lo⟩ i rfl hd
  change check _ _ = _ at hd
  simp only [check_eq_some, Bool.and_eq_true, decide_eq_true_eq,
    Option.some.injEq] at hd
  obtain ⟨⟨⟨⟨rfl, rfl⟩, rfl⟩, rfl⟩, rfl⟩ := hd
  exact congrArg (fun x => some (enc 0x04C 0 k 0 0 x)) (join2 (n2 := 20) (n1 := 20) lo)

theorem reads_fork : Reads class1[14]! 0x04E := by
  rintro ⟨_, pd, al, k, dst, srca, lo⟩ i rfl hd
  change check _ _ = _ at hd
  simp only [check_eq_some, Bool.and_eq_true, decide_eq_true_eq,
    Option.some.injEq] at hd
  obtain ⟨⟨⟨⟨⟨rfl, rfl⟩, rfl⟩, rfl⟩, hz⟩, rfl⟩ := hd
  have hlo : (0 : BitVec 6) ++ seqCode (seqOf (bits lo 32 2)) ++ bits lo 0 32 = lo := by
    rw [seqCode_seqOf, ← hz]
    exact join3 (n3 := 6) (n2 := 2) (n1 := 32) lo
  exact congrArg (fun x => some (enc 0x04E 0 k 0 0 x)) hlo

theorem reads_rdv : Reads class1[15]! 0x04F := by
  rintro ⟨_, pd, al, k, dst, srca, lo⟩ i rfl hd
  change check _ _ = _ at hd
  simp only [check_eq_some, Bool.and_eq_true, decide_eq_true_eq,
    Option.some.injEq] at hd
  obtain ⟨⟨⟨⟨⟨rfl, rfl⟩, rfl⟩, rfl⟩, hz⟩, rfl⟩ := hd
  have hlo : (0 : BitVec 36) ++ bits lo 0 4 = lo := by
    rw [← hz]
    exact join2 (n2 := 36) (n1 := 4) lo
  exact congrArg (fun x => some (enc 0x04F 0 k 0 0 x)) hlo

theorem reads_trap : Reads class1[21]! 0x055 := by
  rintro ⟨_, pd, al, k, dst, srca, lo⟩ i rfl hd
  change check _ _ = _ at hd
  simp only [check_eq_some, Bool.and_eq_true, decide_eq_true_eq,
    Option.some.injEq] at hd
  obtain ⟨⟨⟨⟨⟨rfl, rfl⟩, rfl⟩, rfl⟩, hz⟩, rfl⟩ := hd
  exact congrArg (fun x => some (enc 0x055 0 k 0 0 x)) (loCode_join hz)

/-- Bits 39:0 of AGSET and AGGET. -/
theorem loAg_join {lo : BitVec 40} (h : bits lo 6 34 = 0) : (0 : BitVec 34) ++
    (BitVec.ofFin (bits lo 4 2).toFin : BitVec 2) ++ (BitVec.ofFin (bits lo 0 4).toFin : BitVec 4) = lo := by
  rw [BitVec.ofFin_toFin, BitVec.ofFin_toFin, ← h]
  exact join3 (n3 := 34) (n2 := 2) (n1 := 4) lo

theorem reads_agset : Reads class2[22]! 0x096 := by
  rintro ⟨_, pd, al, k, dst, srca, lo⟩ i rfl hd
  change check _ _ = _ at hd
  simp only [check_eq_some, Bool.and_eq_true, decide_eq_true_eq, Option.bind_eq_bind,
    Option.bind_eq_some_iff, Option.pure_def, Option.some.injEq] at hd
  obtain ⟨⟨⟨⟨rfl, rfl⟩, rfl⟩, hz⟩, a, ha, rfl⟩ := hd
  cases gCode_of_gOf ha
  exact congrArg (fun x => some (enc 0x096 0 k 0 (gCode a) x)) (loAg_join hz)

theorem reads_agget : Reads class2[23]! 0x097 := by
  rintro ⟨_, pd, al, k, dst, srca, lo⟩ i rfl hd
  change check _ _ = _ at hd
  simp only [check_eq_some, Bool.and_eq_true, decide_eq_true_eq, Option.bind_eq_bind,
    Option.bind_eq_some_iff, Option.pure_def, Option.some.injEq] at hd
  obtain ⟨⟨⟨⟨rfl, rfl⟩, rfl⟩, hz⟩, d, hd, rfl⟩ := hd
  cases gCode_of_gOf hd
  exact congrArg (fun x => some (enc 0x097 0 k (gCode d) 0 x)) (loAg_join hz)

theorem reads_sadv : Reads class2[26]! 0x09A := by
  rintro ⟨_, pd, al, k, dst, srca, lo⟩ i rfl hd
  change check _ _ = _ at hd
  simp only [check_eq_some, Bool.and_eq_true, decide_eq_true_eq, Option.bind_eq_bind,
    Option.bind_eq_some_iff, Option.pure_def, Option.some.injEq] at hd
  obtain ⟨⟨⟨rfl, rfl⟩, rfl⟩, n, hn, rfl⟩ := hd
  obtain ⟨hc, hv⟩ := codes_of_operandOf hn
  have hlo : n.value ++ (BitVec.ofFin (bits lo 0 4).toFin : BitVec 4) = lo := by
    rw [BitVec.ofFin_toFin, hv]
    exact join2 (n2 := 36) (n1 := 4) lo
  cases hc
  exact congrArg (fun x => some (enc 0x09A 0 k 0 n.code x)) hlo

theorem reads_pwracqImm : Reads class7[13]! 0x1CD := by
  rintro ⟨_, pd, al, k, dst, srca, lo⟩ i rfl hd
  change check _ _ = _ at hd
  simp only [check_eq_some, Bool.and_eq_true, decide_eq_true_eq,
    Option.some.injEq] at hd
  obtain ⟨⟨⟨⟨⟨rfl, rfl⟩, rfl⟩, rfl⟩, hz⟩, rfl⟩ := hd
  have hlo : (0 : BitVec 37) ++ (BitVec.ofFin (bits lo 0 3).toFin : BitVec 3) = lo := by
    rw [BitVec.ofFin_toFin, ← hz]
    exact join2 (n2 := 37) (n1 := 3) lo
  exact congrArg (fun x => some (enc 0x1CD 0 k 0 0 x)) hlo

theorem reads_mxmul {pair : MxPair} : Reads (decMx .mxmul pair) (op 0x140 (pairIdx pair mxPairs)) :=
  reads_mx fun _ h => by rw [← h]; rfl

theorem reads_mxmuls {pair : MxPair} : Reads (decMx .mxmuls pair) (op 0x158 (pairIdx pair mxsPairs)) :=
  reads_mx fun _ h => by rw [← h]; rfl

theorem readsFrom_mxmul : ReadsFrom 0x140 (mxPairs.map (decMx .mxmul)) := by
  simp only [mxPairs, List.cons_append, List.nil_append, List.map_cons, List.map_nil, ReadsFrom]
  exact ⟨reads_mxmul, reads_mxmul, reads_mxmul, reads_mxmul, reads_mxmul, reads_mxmul, reads_mxmul, reads_mxmul,
    reads_mxmul, reads_mxmul, reads_mxmul, reads_mxmul, reads_mxmul, reads_mxmul, reads_mxmul, reads_mxmul,
    reads_mxmul, reads_mxmul, reads_mxmul, reads_mxmul, reads_mxmul, reads_mxmul, reads_mxmul, reads_mxmul, trivial⟩

theorem readsFrom_mxmuls : ReadsFrom 0x158 (mxsPairs.map (decMx .mxmuls)) := by
  simp only [mxsPairs, List.cons_append, List.nil_append, List.map_cons, List.map_nil, ReadsFrom]
  exact ⟨reads_mxmuls, reads_mxmuls, reads_mxmuls, reads_mxmuls, reads_mxmuls, reads_mxmuls, reads_mxmuls,
    reads_mxmuls, reads_mxmuls, reads_mxmuls, reads_mxmuls, reads_mxmuls, trivial⟩

theorem readsFrom_class0 : ReadsFrom 0x0 class0 := by
  simp only [class0, List.cons_append, List.nil_append, ReadsFrom]
  exact ⟨reads_r3 fun _ _ _ _ => rfl, reads_imm fun _ _ _ _ => rfl, reads_r3 fun _ _ _ _ => rfl,
    reads_r3 fun _ _ _ _ => rfl, reads_imm fun _ _ _ _ => rfl, reads_r3 fun _ _ _ _ => rfl,
    reads_r3 fun _ _ _ _ => rfl, reads_r3t fun _ _ _ _ _ => rfl, reads_r3t fun _ _ _ _ _ => rfl,
    reads_r3 fun _ _ _ _ => rfl, reads_imm fun _ _ _ _ => rfl, reads_r3 fun _ _ _ _ => rfl,
    reads_imm fun _ _ _ _ => rfl, reads_r3 fun _ _ _ _ => rfl, reads_imm fun _ _ _ _ => rfl,
    reads_r3 fun _ _ _ _ => rfl, reads_shift fun _ _ _ _ => rfl, reads_r3 fun _ _ _ _ => rfl,
    reads_shift fun _ _ _ _ => rfl, reads_r3 fun _ _ _ _ => rfl, reads_shift fun _ _ _ _ => rfl,
    reads_r3 fun _ _ _ _ => rfl, reads_imm fun _ _ _ _ => rfl, reads_r3 fun _ _ _ _ => rfl,
    reads_imm fun _ _ _ _ => rfl, reads_r3 fun _ _ _ _ => rfl, reads_imm fun _ _ _ _ => rfl,
    reads_r3 fun _ _ _ _ => rfl, reads_r3 fun _ _ _ _ => rfl, reads_r3 fun _ _ _ _ => rfl,
    reads_r3 fun _ _ _ _ => rfl, reads_r2 fun _ _ _ => rfl, reads_li, reads_lih, reads_r4 fun _ _ _ _ _ => rfl,
    reads_bf fun _ _ _ _ _ => rfl, reads_bf fun _ _ _ _ _ => rfl, reads_bf fun _ _ _ _ _ => rfl,
    reads_r2 fun _ _ _ => rfl, reads_r2 fun _ _ _ => rfl, reads_r2 fun _ _ _ => rfl, reads_r4 fun _ _ _ _ _ => rfl,
    trivial⟩

theorem readsFrom_class1 : ReadsFrom 0x40 class1 := by
  simp only [class1, ReadsFrom]
  exact ⟨reads_br fun _ _ => rfl, reads_bc fun _ _ _ _ => rfl, reads_bc fun _ _ _ _ => rfl, reads_bc fun _ _ _ _ => rfl,
    reads_bc fun _ _ _ _ => rfl, reads_bc fun _ _ _ _ => rfl, reads_bc fun _ _ _ _ => rfl, reads_br fun _ _ => rfl,
    reads_k fun _ => rfl, reads_jtbl, reads_lpad, reads_loopReg, reads_loopImm, reads_k fun _ => rfl, reads_fork,
    reads_rdv, reads_k fun _ => rfl, reads_tk fun _ _ _ => rfl, reads_tk fun _ _ _ => rfl, reads_k fun _ => rfl,
    reads_k fun _ => rfl, reads_trap, trivial⟩

theorem readsFrom_class2 : ReadsFrom 0x80 class2 := by
  simp only [class2, ReadsFrom]
  exact ⟨reads_ld fun _ _ _ _ _ => rfl, reads_ld fun _ _ _ _ _ => rfl, reads_ld fun _ _ _ _ _ => rfl,
    reads_ld fun _ _ _ _ _ => rfl, reads_ld fun _ _ _ _ _ => rfl, reads_ld fun _ _ _ _ _ => rfl,
    reads_ld fun _ _ _ _ _ => rfl, reads_st fun _ _ _ _ => rfl, reads_st fun _ _ _ _ => rfl,
    reads_st fun _ _ _ _ => rfl, reads_st fun _ _ _ _ => rfl, reads_ld fun _ _ _ _ _ => rfl,
    reads_ld fun _ _ _ _ _ => rfl, reads_ld fun _ _ _ _ _ => rfl, reads_ld fun _ _ _ _ _ => rfl,
    reads_ld fun _ _ _ _ _ => rfl, reads_ld fun _ _ _ _ _ => rfl, reads_ld fun _ _ _ _ _ => rfl,
    reads_st fun _ _ _ _ => rfl, reads_st fun _ _ _ _ => rfl, reads_st fun _ _ _ _ => rfl,
    reads_st fun _ _ _ _ => rfl, reads_agset, reads_agget, reads_ag fun _ _ => rfl, reads_ag fun _ _ => rfl,
    reads_sadv, reads_ab fun _ _ _ => rfl, reads_ab fun _ _ _ => rfl, trivial⟩

theorem readsFrom_class3 : ReadsFrom 0xc0 class3 := by
  simp only [class3, List.cons_append, List.nil_append, ReadsFrom]
  exact ⟨reads_v2 fun _ _ _ => rfl, reads_v2 fun _ _ _ => rfl, reads_v2 fun _ _ _ => rfl, reads_v2 fun _ _ _ => rfl,
    reads_v2 fun _ _ _ => rfl, reads_v2 fun _ _ _ => rfl, reads_v2 fun _ _ _ => rfl, reads_v2 fun _ _ _ => rfl,
    reads_v2 fun _ _ _ => rfl, reads_v2 fun _ _ _ => rfl, reads_v1 fun _ => rfl, reads_v1 fun _ => rfl,
    reads_v1 fun _ => rfl, reads_v1 fun _ => rfl, reads_v3 fun _ _ _ _ => rfl, reads_v3 fun _ _ _ _ => rfl,
    reads_v2 fun _ _ _ => rfl, reads_v2 fun _ _ _ => rfl, reads_v2 fun _ _ _ => rfl, reads_v2 fun _ _ _ => rfl,
    reads_v2 fun _ _ _ => rfl, reads_v2 fun _ _ _ => rfl, reads_v2 fun _ _ _ => rfl, reads_v2 fun _ _ _ => rfl,
    reads_v2 fun _ _ _ => rfl, reads_v2 fun _ _ _ => rfl, reads_v2 fun _ _ _ => rfl, reads_v2 fun _ _ _ => rfl,
    reads_vfma fun _ _ _ _ _ => rfl, reads_vfma fun _ _ _ _ _ => rfl, reads_vfma fun _ _ _ _ _ => rfl,
    reads_v2 fun _ _ _ => rfl, reads_v2 fun _ _ _ => rfl, reads_v3 fun _ _ _ _ => rfl, reads_v2 fun _ _ _ => rfl,
    reads_v2 fun _ _ _ => rfl, reads_v2 fun _ _ _ => rfl, reads_v2 fun _ _ _ => rfl, reads_v2 fun _ _ _ => rfl,
    reads_v2 fun _ _ _ => rfl, reads_v1 fun _ => rfl, reads_vbcast, reads_vfill, reads_v2 fun _ _ _ => rfl,
    reads_vs fun _ _ => rfl, reads_vs fun _ _ => rfl, reads_vs fun _ _ => rfl, reads_vs fun _ _ => rfl,
    reads_vs fun _ _ => rfl, reads_vfmaFs, reads_vs fun _ _ => rfl, reads_vs fun _ _ => rfl, reads_vs fun _ _ => rfl,
    reads_vs fun _ _ => rfl, reads_v1 fun _ => rfl, trivial⟩

theorem readsFrom_class4 : ReadsFrom 0x100 class4 := by
  simp only [class4, List.cons_append, List.nil_append, ReadsFrom]
  exact ⟨reads_v1 fun _ => rfl, reads_v1 fun _ => rfl, reads_v1 fun _ => rfl, reads_v1 fun _ => rfl,
    reads_v1 fun _ => rfl, reads_v1 fun _ => rfl, reads_v1 fun _ => rfl, reads_v1 fun _ => rfl,
    reads_vqnt fun _ _ => rfl, reads_vqnt fun _ _ => rfl, reads_vqnt fun _ _ => rfl, reads_vqnt fun _ _ => rfl,
    reads_v1 fun _ => rfl, reads_v1 fun _ => rfl, reads_v1 fun _ => rfl, reads_v1 fun _ => rfl,
    reads_v1 fun _ => rfl, reads_v1 fun _ => rfl, reads_v1 fun _ => rfl, reads_v1 fun _ => rfl,
    reads_v1 fun _ => rfl, reads_v1 fun _ => rfl, reads_v1 fun _ => rfl, reads_v1 fun _ => rfl,
    reads_v1 fun _ => rfl, reads_v1 fun _ => rfl, reads_v1 fun _ => rfl, reads_v1 fun _ => rfl,
    reads_v1 fun _ => rfl, reads_v1 fun _ => rfl, reads_v1 fun _ => rfl, reads_v1 fun _ => rfl,
    reads_vlut fun _ _ => rfl, reads_vlut fun _ _ => rfl, reads_cbld, reads_tshape, reads_tshget, trivial⟩

theorem readsFrom_class5 : ReadsFrom 0x140 class5 := by
  refine (readsFrom_mxmul.append readsFrom_mxmuls).append ?_
  simp only [ReadsFrom]
  exact ⟨reads_mxzero, reads_mxepi fun _ => rfl, reads_mxepi fun _ => rfl, reads_mxepi fun _ => rfl,
    reads_mxrd fun _ _ _ => rfl, reads_mxrd fun _ _ _ => rfl, reads_mxrd fun _ _ _ => rfl,
    reads_mxrd fun _ _ _ => rfl, reads_mxwr, reads_cp fun _ => rfl, reads_cp fun _ => rfl, reads_cp fun _ => rfl,
    reads_cp fun _ => rfl, reads_cp fun _ => rfl, reads_cp fun _ => rfl, reads_cpl2l fun _ _ => rfl,
    reads_cpl2l fun _ _ => rfl, reads_cpl2l fun _ _ => rfl, reads_cpmeta, reads_cpbc, reads_cp fun _ => rfl,
    reads_cp fun _ => rfl, trivial⟩

theorem readsFrom_class6 : ReadsFrom 0x180 class6 := by
  simp only [class6, List.cons_append, List.nil_append, ReadsFrom]
  exact ⟨reads_semI fun _ _ _ => rfl, reads_semR fun _ _ _ => rfl, reads_semI fun _ _ _ => rfl,
    reads_semR fun _ _ _ => rfl, reads_semget, reads_barexp, reads_barwait, reads_bartest, reads_k fun _ => rfl,
    reads_atom fun _ _ _ _ _ _ _ => rfl, reads_atom fun _ _ _ _ _ _ _ => rfl, reads_atom fun _ _ _ _ _ _ _ => rfl,
    reads_atom fun _ _ _ _ _ _ _ => rfl, reads_atom fun _ _ _ _ _ _ _ => rfl, reads_atom fun _ _ _ _ _ _ _ => rfl,
    reads_atom fun _ _ _ _ _ _ _ => rfl, reads_atom fun _ _ _ _ _ _ _ => rfl, reads_atom fun _ _ _ _ _ _ _ => rfl,
    reads_atom fun _ _ _ _ _ _ _ => rfl, reads_atom fun _ _ _ _ _ _ _ => rfl, reads_atom fun _ _ _ _ _ _ _ => rfl,
    reads_atom fun _ _ _ _ _ _ _ => rfl, reads_atom fun _ _ _ _ _ _ _ => rfl, reads_atcas fun _ _ _ _ _ _ _ _ => rfl,
    reads_atcas fun _ _ _ _ _ _ _ _ => rfl, reads_acct fun _ _ _ _ _ _ => rfl, reads_acct fun _ _ _ _ _ _ => rfl,
    reads_acct fun _ _ _ _ _ _ => rfl, reads_acct fun _ _ _ _ _ _ => rfl, reads_acct fun _ _ _ _ _ _ => rfl,
    reads_acct fun _ _ _ _ _ _ => rfl, reads_flushres, reads_waita fun _ _ _ _ _ _ _ => rfl,
    reads_waita fun _ _ _ _ _ _ _ => rfl, reads_waita fun _ _ _ _ _ _ _ => rfl, reads_waita fun _ _ _ _ _ _ _ => rfl,
    reads_waita fun _ _ _ _ _ _ _ => rfl, reads_waita fun _ _ _ _ _ _ _ => rfl, reads_k fun _ => rfl,
    reads_k fun _ => rfl, reads_k fun _ => rfl, reads_k fun _ => rfl, reads_k fun _ => rfl, reads_k fun _ => rfl,
    reads_k fun _ => rfl, reads_k fun _ => rfl, reads_k fun _ => rfl, reads_k fun _ => rfl, reads_k fun _ => rfl,
    reads_k fun _ => rfl, reads_ab fun _ _ _ => rfl, reads_r2 fun _ _ _ => rfl, trivial⟩

theorem readsFrom_class7 : ReadsFrom 0x1c0 class7 := by
  simp only [class7, ReadsFrom]
  exact ⟨reads_r2 fun _ _ _ => rfl, reads_r3 fun _ _ _ _ => rfl, reads_dlset, reads_d fun _ _ => rfl,
    reads_k fun _ => rfl, reads_d fun _ _ => rfl, reads_a fun _ _ => rfl, reads_d fun _ _ => rfl,
    reads_a fun _ _ => rfl, reads_d fun _ _ => rfl, reads_a fun _ _ => rfl, reads_a fun _ _ => rfl, reads_eqpush,
    reads_pwracqImm, reads_a fun _ _ => rfl, reads_k fun _ => rfl, reads_lk fun _ _ _ _ => rfl,
    reads_lk fun _ _ _ _ => rfl, reads_lk fun _ _ _ _ => rfl, reads_lk fun _ _ _ _ => rfl, reads_csrr,
    reads_csrw fun _ _ _ => rfl, reads_csrw fun _ _ _ => rfl, reads_csrw fun _ _ _ => rfl, reads_d fun _ _ => rfl,
    trivial⟩

/-- The decoders of a class read the words of the class's opcodes. -/
theorem readsFrom_opcodeClass (c : BitVec 3) : ReadsFrom (64 * c.toNat) (opcodeClass c) := by
  match c with
  | 0 => exact readsFrom_class0
  | 1 => exact readsFrom_class1
  | 2 => exact readsFrom_class2
  | 3 => exact readsFrom_class3
  | 4 => exact readsFrom_class4
  | 5 => exact readsFrom_class5
  | 6 => exact readsFrom_class6
  | 7 => exact readsFrom_class7

theorem reads_of_opcodeDecoder {opc : BitVec 9} {d : Fields → Option Instr} (h : opcodeDecoder opc = some d) :
    Reads d opc := by
  have hopc : BitVec.ofNat 9 (64 * (bits opc 6 3).toNat + (bits opc 0 6).toNat) = opc := by
    have hj : bits opc 6 3 ++ bits opc 0 6 = opc := join2 (n2 := 3) (n1 := 6) opc
    have := congrArg BitVec.toNat hj
    rw [BitVec.toNat_append, ← Nat.shiftLeft_add_eq_or_of_lt (bits opc 0 6).isLt, Nat.shiftLeft_eq, Nat.mul_comm] at this
    rw [← hj]
    exact BitVec.eq_of_toNat_eq (by rw [hj, ← this, BitVec.toNat_ofNat, this, Nat.mod_eq_of_lt opc.isLt])
  rw [← hopc]
  exact (readsFrom_opcodeClass _).get h

/-- R83: what fields decode to is well formed and writes the same fields. -/
theorem encodeFields_of_decodeFields {f : Fields} {i : Instr} (h : decodeFields f = some i) :
    i.wf = true ∧ encodeFields i = some f := by
  simp only [decodeFields, Option.bind_eq_bind, Option.bind_eq_some_iff, check_eq_some, Option.some.injEq] at h
  obtain ⟨d, hd, i', hi, hwf, rfl⟩ := h
  exact ⟨hwf, reads_of_opcodeDecoder hd f _ rfl hi⟩

/-- A Xumak word is its funct3 and its registers between the fixed fields (R314). -/
theorem xumakWord_fields {w : BitVec 32} (h1 : bits w 0 7 = 0x0B) (h2 : bits w 25 7 = 0) :
    xumakWord (bits w 12 3) (bits w 7 5).toFin (bits w 15 5).toFin (bits w 20 5).toFin = w := by
  rw [xumakWord, BitVec.ofFin_toFin, BitVec.ofFin_toFin, BitVec.ofFin_toFin, ← h1, ← h2]
  exact join6 (n6 := 7) (n5 := 5) (n4 := 5) (n3 := 3) (n2 := 5) (n1 := 7) w

theorem encodeXumak_of_decodeXumak {w : BitVec 32} {i : Instr} (h : decodeXumak w = some i) : encodeXumak i = some w := by
  simp only [decodeXumak, check_eq_some, Bool.and_eq_true, decide_eq_true_eq] at h
  obtain ⟨⟨h1, h2⟩, h⟩ := h
  rw [← xumakWord_fields h1 h2]
  revert h
  generalize bits w 12 3 = f3
  match f3 with
  | 0 | 1 | 2 | 3 => intro h; cases h; rfl
  | 4 | 5 | 6 | 7 => intro h; cases h

end Sys2Proof.Laws

namespace Sys2Proof.Proofs

/-- Settles O3: the opcode's decoder reads every bit of the word into the instruction's fields, which the encoder packs
again. -/
theorem everyWordHasOneMeaning : Obligations.EveryWordHasOneMeaning := by
  refine ⟨fun i w h => ?_, fun i w h => (Laws.Coding.decodes i).2 w h, fun _ _ => Laws.encodeXumak_of_decodeXumak⟩
  obtain ⟨hwf, he⟩ := Laws.encodeFields_of_decodeFields h
  exact ⟨hwf, by rw [encode, he, Option.map_some, Laws.pack_unpack]⟩

end Sys2Proof.Proofs
end

section
/-! The checks of a word and the sequencers that may run it (R83, R101, R102). -/

namespace Sys2Proof.Laws

/-- The upper three bits of an opcode number its class (R102). -/
theorem bits_class (opc : BitVec 9) : (bits opc 6 3).toNat = opc.toNat / 64 := by
  have := opc.isLt
  rw [bits, BitVec.extractLsb'_toNat, Nat.shiftRight_eq_div_pow]
  exact Nat.mod_eq_of_lt (by omega)

/-- The lower six bits of an opcode number it within its class (R102). -/
theorem bits_index (opc : BitVec 9) : (bits opc 0 6).toNat = opc.toNat % 64 := by
  rw [bits, BitVec.extractLsb'_toNat, Nat.shiftRight_zero]

/-- The words of each class (R102). -/
theorem opcodeClass_length (c : BitVec 3) :
    (opcodeClass c).length = [42, 22, 29, 55, 37, 58, 52, 25].getD c.toNat 0 := by
  match c with
  | 0 | 1 | 2 | 3 | 4 | 5 | 6 | 7 => rfl

theorem assigned_iff (opc : BitVec 9) :
    assigned opc = true ↔ opc.toNat % 64 < [42, 22, 29, 55, 37, 58, 52, 25].getD (opc.toNat / 64) 0 := by
  rw [assigned, opcodeDecoder, isSome_getElem?, opcodeClass_length, bits_class, bits_index]

section
variable {opc : BitVec 9} {q : SeqId}

theorem permitted_class0 (h : opc.toNat < 0x40) : permitted opc q = true := by
  have hc : opc.toNat / 64 = 0 := by omega
  simp only [permitted, bits_class, hc]

theorem permitted_class1 (hl : 0x40 ≤ opc.toNat) (hu : opc.toNat < 0x80) : permitted opc q = true ↔
    q = .c ∨ (opc.toNat ≠ 0x49 ∧ opc.toNat ≠ 0x4A ∧ opc.toNat ≠ 0x4E ∧ opc.toNat ≠ 0x53) := by
  have hc : opc.toNat / 64 = 1 := by omega
  simp only [permitted, bits_class, bits_index, hc]
  split
  case isTrue h => rw [decide_eq_true_iff]; exact ⟨.inl, fun hq => hq.resolve_right (by omega)⟩
  case isFalse h => exact iff_of_true rfl (.inr (by omega))

theorem permitted_global (h : 0x80 ≤ opc.toNat) (h' : opc.toNat ≤ 0x8A ∨ opc.toNat = 0x9B ∨ opc.toNat = 0x9C) :
    permitted opc q = true ↔ q = .c := by
  have hc : opc.toNat / 64 = 2 := by omega
  simp only [permitted, bits_class, bits_index, hc]
  rw [if_pos (by omega), decide_eq_true_iff]

theorem permitted_scratchpad (hl : 0x8B ≤ opc.toNat) (hu : opc.toNat ≤ 0x95) : permitted opc q = true ↔ q ≠ .x := by
  have hc : opc.toNat / 64 = 2 := by omega
  simp only [permitted, bits_class, bits_index, hc]
  rw [if_neg (by omega), if_pos (by omega), decide_eq_true_iff]

theorem permitted_generator (h : opc.toNat = 0x96 ∨ opc.toNat = 0x97 ∨ opc.toNat = 0x9A) :
    permitted opc q = true ↔ q = .l ∨ q = .s := by
  have hc : opc.toNat / 64 = 2 := by omega
  simp only [permitted, bits_class, bits_index, hc]
  rw [if_neg (by omega), if_neg (by omega), if_neg (by omega), if_neg (by omega), decide_eq_true_iff]

theorem permitted_sload (h : opc.toNat = 0x98) : permitted opc q = true ↔ q = .l := by
  have hc : opc.toNat / 64 = 2 := by omega
  simp only [permitted, bits_class, bits_index, hc]
  rw [if_neg (by omega), if_neg (by omega), if_pos (by omega), decide_eq_true_iff]

theorem permitted_sstore (h : opc.toNat = 0x99) : permitted opc q = true ↔ q = .s := by
  have hc : opc.toNat / 64 = 2 := by omega
  simp only [permitted, bits_class, bits_index, hc]
  rw [if_neg (by omega), if_neg (by omega), if_neg (by omega), if_pos (by omega), decide_eq_true_iff]

theorem permitted_vector (hl : 0xC0 ≤ opc.toNat) (hu : opc.toNat < 0x140) : permitted opc q = true ↔ q = .x := by
  have hc : opc.toNat / 64 = 3 ∨ opc.toNat / 64 = 4 := by omega
  rcases hc with hc | hc <;> simp only [permitted, bits_class, hc, decide_eq_true_iff]

theorem permitted_engine (hl : 0x140 ≤ opc.toNat) (hu : opc.toNat < 0x180) : permitted opc q = true ↔ q = .c := by
  have hc : opc.toNat / 64 = 5 := by omega
  simp only [permitted, bits_class, hc, decide_eq_true_iff]

theorem permitted_class6 (hl : 0x180 ≤ opc.toNat) (hu : opc.toNat < 0x1C0) : permitted opc q = true ↔
    q = .c ∨ opc.toNat ≤ 0x183 ∨ opc.toNat = 0x186 ∨ opc.toNat = 0x187 := by
  have hc : opc.toNat / 64 = 6 := by omega
  simp only [permitted, bits_class, bits_index, hc]
  split
  case isTrue h => exact iff_of_true rfl (.inr (by omega))
  case isFalse h => rw [decide_eq_true_iff]; exact ⟨.inl, fun hq => hq.resolve_right (by omega)⟩

theorem permitted_class7 (h : 0x1C0 ≤ opc.toNat) : permitted opc q = true ↔
    if opc.toNat = 0x1CC then q = .x else q = .c ∨ opc.toNat = 0x1D4 ∨ opc.toNat = 0x1D8 := by
  have hlt := opc.isLt
  have hc : opc.toNat / 64 = 7 := by omega
  simp only [permitted, bits_class, bits_index, hc]
  by_cases h12 : opc.toNat = 0x1CC
  case pos => rw [if_pos h12, if_pos (by omega), decide_eq_true_iff]
  case neg =>
    rw [if_neg h12, if_neg (by omega)]
    split
    case isTrue h => exact iff_of_true rfl (.inr (by omega))
    case isFalse h => rw [decide_eq_true_iff]; exact ⟨.inl, fun hq => hq.resolve_right (by omega)⟩

end

/-- A word of zeros has ADD's opcode and names no register as its destination. -/
theorem checkWord_zero (sparse : Bool) (q : SeqId) : Machine.checkWord 0 sparse q = .fault (Machine.trapOf .illegalField) := by
  have hd : decodeWord 0 = none := by decide
  have ha : assigned ((0 : Word80).extractLsb' 71 9) = true := by decide
  have hp : permitted ((0 : Word80).extractLsb' 71 9) q = true := permitted_class0 (by decide)
  exact Machine.checkWord_field ha (fun h => absurd h.1 (by decide)) hp hd

end Sys2Proof.Laws

namespace Sys2Proof.Proofs

open Machine Laws in
/-- Settles O4: an opcode is assigned when its class's list reaches its index; the checks and the table are read off class
by class. -/
theorem wordsAreCheckedForTheirSequencer : Obligations.WordsAreCheckedForTheirSequencer := by
  refine ⟨⟨assigned_iff, fun w sparse q => ⟨checkWord_opcode, checkWord_class, checkWord_field, fun i ha hg hp hd =>
    checkWord_word ha hg hp hd⟩, fun q sparse => checkWord_zero sparse q⟩, fun opc q _ => ?_⟩
  exact ⟨permitted_class0, permitted_class1, permitted_global, permitted_scratchpad, permitted_generator, permitted_sload,
    permitted_sstore, permitted_vector, permitted_engine, permitted_class6, permitted_class7⟩

end Sys2Proof.Proofs
end

section
/-! What a word does before its body: one of a sequencer that may not issue changes nothing, one that its sequencer may not
run raises SEQ-CLASS (R83, R101), and a word that sees its core-task alone changes nothing else (R104). Every word takes
one of two forms, so both are read off constructor by constructor. -/

namespace Sys2Proof.Machine

open Laws

/-- What `x` answers to a word of opcode `opc` obeys the checks before its body, and its frame where it is a local word. -/
structure Issued (opc : BitVec 9) (s : State) (x : Host.Outcome State Fault Refusal) : Prop where
  held : s.canIssue s.cur = none → x = .next s
  refused : ∀ t c, s.canIssue s.cur = some (t, c) → permitted opc s.cur.q = false → x = .next (s.raise s.cur (trapOf .seqClass))
  framed : localOpcode opc.toNat = true → ∃ t, x = .next t ∧ s.OnlyCur t

section
variable {opc : BitVec 9} {u : WordUse} {s : State}

theorem enter_held (h : s.canIssue s.cur = none) : enter u s = .stop s := by
  rw [enter_eq, h]

theorem enter_refused {t : Task} {c : CoreTask} (h : s.canIssue s.cur = some (t, c)) (hp : u.perm.contains s.cur.q = false) :
    enter u s = .stop (s.raise s.cur (trapOf .seqClass)) := by
  rw [enter_eq, h]
  exact if_pos (by rw [hp]; rfl)

theorem issued_local {body : State → CoreTask → Res CoreTask} (hp : ∀ q, permitted opc q = u.perm.contains q) :
    Issued opc s (runLocal u body s) where
  held h := by rw [runLocal, enter_held h]
  refused t c h hq := by rw [runLocal, enter_refused h ((hp _).symm.trans hq)]
  framed _ := runLocal_onlyCur u body s

theorem issued_global {body : State → CoreTask → Res State} (hp : ∀ q, permitted opc q = u.perm.contains q)
    (hl : localOpcode opc.toNat = false) : Issued opc s (runGlobal u body s) where
  held h := by rw [runGlobal, enter_held h]
  refused t c h hq := by rw [runGlobal, enter_refused h ((hp _).symm.trans hq)]
  framed h := by rw [hl] at h; cases h

end

/-- A matrix multiply's opcode is one of the engines'. -/
theorem op_pairIdx_range (p : MxPair) : 0x140 ≤ (op 0x140 (pairIdx p mxPairs)).toNat ∧
    (op 0x140 (pairIdx p mxPairs)).toNat < 0x180 ∧ 0x140 ≤ (op 0x158 (pairIdx p mxsPairs)).toNat ∧
    (op 0x158 (pairIdx p mxsPairs)).toNat < 0x180 := by
  have h : pairIdx p mxPairs ≤ 24 := List.findIdx_le_length
  have h' : pairIdx p mxsPairs ≤ 12 := List.findIdx_le_length
  simp only [op, BitVec.toNat_ofNat]
  omega

/-- The engines' opcodes belong to the C-sequencer, and their words are not local. -/
theorem issued_engine {opc : BitVec 9} {k : BitVec 8} {body : State → CoreTask → Res State} {s : State}
    (h : 0x140 ≤ opc.toNat) (h' : opc.toNat < 0x180) : Issued opc s (runGlobal (cOnly k) body s) := by
  refine issued_global (fun q => ?_) ?_
  · rw [Bool.eq_iff_iff, permitted_engine h h']
    exact List.mem_singleton.symm.trans List.contains_iff_mem.symm
  · simp only [localOpcode, Bool.or_eq_false_iff, Bool.and_eq_false_iff, decide_eq_false_iff_not]
    omega

/-- The tile words' opcodes belong to the X-sequencer. -/
theorem issued_vector {opc : BitVec 9} {w : VWord} {p : VPlan} {b : BSrc} {sc : Option VSrc} {keep : Bool} {s : State}
    (h : 0xC0 ≤ opc.toNat) (h' : opc.toNat < 0x140) : Issued opc s (runVector w p b sc keep s) := by
  unfold runVector
  refine issued_local fun q => ?_
  rw [Bool.eq_iff_iff, permitted_vector h h']
  exact List.mem_singleton.symm.trans List.contains_iff_mem.symm

theorem exec_issued {i : Instr} {opc : BitVec 9} (h : i.opc = some opc) (s : State) : Issued opc s (exec i s) := by
  unfold exec
  cases i with (cases h <;> dsimp only [enc, encR3, encI, encR4, encBf, encK, encTk, encV, encV2, encV3, encVs, encE, encMx,
    encMxWin, encCp])
  -- local words, each in the form that its instructions share
  | addReg | addImm | sub | mulReg | mulImm | mulh | mulhU | andReg | andImm | orReg | orImm | xorReg | xorImm | shlReg
  | shlImm | shrReg | shrImm | sarReg | sarImm | sltReg | sltImm | sltuReg | sltuImm | seqReg | seqImm | min | minU | max
  | maxU | mov | li | sel | bfx | bfxS | clz | ctz | popc | madd =>
    show Issued _ s (alu ..)
    exact issued_local fun q => by cases q <;> rfl
  | lih | bfi => show Issued _ s (aluRmw ..); exact issued_local fun q => by cases q <;> rfl
  | divu | remu => show Issued _ s (aluTag ..); exact issued_local fun q => by cases q <;> rfl
  | bcEq | bcNe | bcLt | bcGe | bcLtu | bcGeu =>
    show Issued _ s (branchIf ..)
    exact issued_local fun q => by cases q <;> rfl
  | loopReg | loopImm => show Issued _ s (loopWord ..); exact issued_local fun q => by cases q <;> rfl
  | semwaitImm | semwaitReg => show Issued _ s (semWait ..); exact issued_local fun q => by cases q <;> rfl
  | vaddF | vaddI | vsubF | vsubI | vmulF | vmulI | vminF | vminI | vmaxF | vmaxI | vminnum | vmaxnum | vand | vor | vxor
  | vshl | vshr | vsar | vscale =>
    show Issued _ s (run2 ..)
    exact issued_vector (by decide) (by decide)
  | vcmpF _ f | vcmpI _ f =>
    show Issued _ s (run2 ..)
    exact issued_vector (by cases f <;> decide) (by cases f <;> decide)
  | vabsF | vabsI | vnegF | vnegI | vclampF | vclampI | vfma | vfms | vfnma | vsel | vmov | vbcast | vrnd | vexp2 | vlog2
  | vrcp | vrsq | vtanh | vtrn =>
    exact issued_vector (by decide) (by decide)
  | vcvt _ f | vqnt _ f | vdqnt _ f | vrmax _ f | vrmin _ f | vrsum _ f | vcsum _ f | vcmax _ f =>
    exact issued_vector (by cases f <;> decide) (by cases f <;> decide)
  | vaddFs | vsubFs | vmulFs | vminFs | vmaxFs | vfmaFs | vaddIs | vmulIs | vmaxIs | vminIs =>
    show Issued _ s (runScalar ..)
    exact issued_local fun q => by cases q <;> rfl
  | b | call | ret | jtbl | lpad | nop | rdv | tkwait | trap | agset | agget | sload | sstore | sadv | vfill | cbld | tshape
  | tshget | semget | barexp | barwait | bartest | csrr | time =>
    exact issued_local fun q => by cases q <;> rfl
  | ldl _ _ f | stl _ f | vlut _ f => exact issued_local fun q => by cases f <;> cases q <;> rfl
  -- words that change the device
  | prefH | prefL => show Issued _ s (prefWord ..); exact issued_global (fun q => by cases q <;> rfl) rfl
  | mxzero | mxwr => show Issued _ s (mxPush ..); exact issued_engine (by decide) (by decide)
  | mxrd _ f | mxepi _ f =>
    show Issued _ s (mxPush ..)
    exact issued_engine (by cases f <;> decide) (by cases f <;> decide)
  | mxmul p =>
    show Issued _ s (mxPush ..)
    exact issued_engine (op_pairIdx_range p.pair).1 (op_pairIdx_range p.pair).2.1
  | mxmuls p =>
    show Issued _ s (mxPush ..)
    exact issued_engine (op_pairIdx_range p.pair).2.2.1 (op_pairIdx_range p.pair).2.2.2
  | cpbc | cpfillL | cpfillG | cpmeta => show Issued _ s (cpPush ..); exact issued_engine (by decide) (by decide)
  | cpg2l _ f | cpl2g _ f | cpl2l _ f =>
    show Issued _ s (cpPush ..)
    exact issued_engine (by cases f <;> decide) (by cases f <;> decide)
  | semsigImm | semsigReg =>
    show Issued _ s (semSignal ..)
    exact issued_global (fun q => by cases q <;> rfl) rfl
  | atom _ _ o dbl =>
    show Issued _ s (atomWord ..)
    exact issued_global (fun q => by cases o <;> cases dbl <;> cases q <;> rfl) (by cases o <;> cases dbl <;> rfl)
  | atcas _ _ dbl =>
    show Issued _ s (atomWord ..)
    exact issued_global (fun q => by cases dbl <;> cases q <;> rfl) (by cases dbl <;> rfl)
  | acct _ f | acctD _ f =>
    show Issued _ s (acctWord ..)
    exact issued_global (fun q => by cases f <;> cases q <;> rfl) (by cases f <;> rfl)
  | flushresAll | flushresOne =>
    show Issued _ s (flushWord ..)
    exact issued_global (fun q => by cases q <;> rfl) rfl
  | tsubmit | tsubmitF => show Issued _ s (submitWord ..); exact issued_global (fun q => by cases q <;> rfl) rfl
  | dlset | dlchk | stepend | frput | frget | kvapp =>
    show Issued _ s (streamWord ..)
    exact issued_global (fun q => by cases q <;> rfl) rfl
  | frpub | frrel =>
    show Issued _ s (frameRelease ..)
    unfold frameRelease
    exact issued_global (fun q => by cases q <;> rfl) rfl
  | kvpin | kvunpin =>
    show Issued _ s (kvMark ..)
    unfold kvMark
    exact issued_global (fun q => by cases q <;> rfl) rfl
  | lksend => show Issued _ s (linkWord ..); exact issued_global (fun q => by cases q <;> rfl) rfl
  | lkred _ f =>
    show Issued _ s (linkWord ..)
    exact issued_global (fun q => by cases f <;> cases q <;> rfl) (by cases f <;> rfl)
  | csrw | csrs | csrc => show Issued _ s (csrWord ..); exact issued_global (fun q => by cases q <;> rfl) rfl
  | fork | exit | tksig | yield | grpend | gbar | futres | futwait | eqpush | pwracqImm | pwracqReg | pwrrel =>
    exact issued_global (fun q => by cases q <;> rfl) rfl
  | ldg _ _ f | stg _ f | waita _ f | fenceAcq _ f | fenceRel _ f | fenceAr _ f =>
    exact issued_global (fun q => by cases f <;> cases q <;> rfl) (by cases f <;> rfl)

end Sys2Proof.Machine

namespace Sys2Proof.Machine

/-! ### Committing tags (R89, R90) -/

/-- Committing a tag frees it, and no other tag of its sequencer changes. -/
theorem CoreTask.tags_commit (c : CoreTask) (q : SeqId) (t : Nat) (r : TagRec) :
    ((c.commit q t r).seq q).tags = Tab.del t (c.seq q).tags := by
  unfold CoreTask.commit
  dsimp only
  split
  · rw [CoreTask.seq_updSeq, CoreTask.seq_updSeq, Seq.wr]
    split <;> rfl
  · show ((c.updSeq q _).seq q).tags = _
    rw [CoreTask.seq_updSeq]
  · rw [CoreTask.seq_updSeq]

section
variable (c : CoreTask) (q : SeqId)

/-- Settling a tag frees it when its result can be committed, and leaves every other tag. -/
theorem CoreTask.find_settle (t j : Nat) : find ((c.settle q t).1.seq q).tags j =
    if j = t ∧ (c.settle q t).2 = true then none else find (c.seq q).tags j := by
  unfold CoreTask.settle
  split
  · next h =>
    split
    · next hj => rw [hj.1, h]
    · rfl
  · next r h =>
    split
    · rw [CoreTask.tags_commit, find_del]
      simp only [and_true]
    · simp

/-- A tag that is free stays free. -/
theorem CoreTask.find_settleAll_none {j : Nat} (ts : List Nat) {c : CoreTask} (h : find (c.seq q).tags j = none) :
    find ((c.settleAll q ts).1.seq q).tags j = none := by
  induction ts generalizing c with
  | nil => exact h
  | cons t ts ih =>
    have hs := CoreTask.find_settle c q t j
    rw [h, ite_self] at hs
    exact ih hs

/-- Tags that could all be committed are free. -/
theorem CoreTask.find_settleAll_ok {j : Nat} {ts : List Nat} (hj : j ∈ ts) {c : CoreTask} (h : (c.settleAll q ts).2 = true) :
    find ((c.settleAll q ts).1.seq q).tags j = none := by
  induction ts generalizing c with
  | nil => cases hj
  | cons t ts ih =>
    have h' : (c.settle q t).2 = true ∧ ((c.settle q t).1.settleAll q ts).2 = true := Bool.and_eq_true_iff.mp h
    rcases List.mem_cons.mp hj with rfl | hj
    · have hs := CoreTask.find_settle c q j j
      rw [if_pos ⟨rfl, h'.1⟩] at hs
      exact CoreTask.find_settleAll_none q ts hs
    · exact ih hj h'.2

/-- One tag whose result has not landed keeps the list from being committed. -/
theorem CoreTask.settleAll_unlanded {j : Nat} {ts : List Nat} (hj : j ∈ ts) {c : CoreTask} {r : TagRec}
    (hr : find (c.seq q).tags j = some r) (hl : r.landed = false) : (c.settleAll q ts).2 = false := by
  have hc : ∀ c : CoreTask, find (c.seq q).tags j = some r → c.settle q j = (c, false) := fun c hr => by
    rw [CoreTask.settle, hr]
    exact if_neg (by rw [CoreTask.canCommit, hl]; exact Bool.false_ne_true)
  induction ts generalizing c with
  | nil => cases hj
  | cons t ts ih =>
    show ((c.settle q t).2 && ((c.settle q t).1.settleAll q ts).2) = false
    by_cases ht : j = t
    · rw [← ht, hc c hr, Bool.false_and]
    · rw [ih ((List.mem_cons.mp hj).resolve_left ht) (by rw [CoreTask.find_settle, if_neg fun h => ht h.1, hr]), Bool.and_false]

end

/-- The tags of CONS are the numbers of its set bits. -/
theorem mem_consTags {k : BitVec 8} {t : Nat} : t ∈ consTags k ↔ t < 8 ∧ k.getLsbD t = true := by
  rw [consTags, List.mem_filter, List.mem_range]

theorem consTags_single {k : Nat} (h : k < 8) : consTags (BitVec.ofNat 8 (2 ^ k)) = [k] := by
  interval_cases k <;> rfl

/-! ### Entry (R83, R89, R90) -/

section
variable {u : WordUse} {s : State} {t : Task} {c : CoreTask} (hc : s.canIssue s.cur = some (t, c)) (hq : s.cur.q ∈ u.perm)
include hc hq

/-- A word that may run waits for its tags, and enters once they are there. -/
theorem enter_checked (hl : u.legal = true) : enter u s =
    let r := c.settleAll s.cur.q u.firstTags
    if r.2 && r.1.landedAll s.cur.q (u.lateTags r.1 s.cur.q) then
      .go (if u.readsDst then (r.1.settleAll s.cur.q (u.lateTags r.1 s.cur.q)).1 else r.1)
    else .stop (s.waitCt s.cur r.1 .plain) := by
  rw [enter_eq, hc]
  simp only [List.contains_iff_mem.mpr hq, hl, Bool.not_true, Bool.false_eq_true, if_false]

theorem enter_unlanded (hl : u.legal = true) {k : Nat} {r : TagRec} (hk : k < 8) (hb : u.cons.getLsbD k = true)
    (hr : find (c.seq s.cur.q).tags k = some r) (hn : r.landed = false) :
    enter u s = .stop (s.waitCt s.cur (c.settleAll s.cur.q u.firstTags).1 .plain) := by
  have hj : k ∈ u.firstTags := List.mem_append_left _ (mem_consTags.mpr ⟨hk, hb⟩)
  rw [enter_checked hc hq hl]
  exact if_neg (by rw [CoreTask.settleAll_unlanded _ hj hr hn]; exact Bool.false_ne_true)

theorem enters_freed (hl : u.legal = true) {c' : CoreTask} (he : s.Enters u c') {k : Nat} (hk : k < 8)
    (hb : u.cons.getLsbD k = true) : find (c'.seq s.cur.q).tags k = none := by
  have hj : k ∈ u.firstTags := List.mem_append_left _ (mem_consTags.mpr ⟨hk, hb⟩)
  rw [State.Enters, enter_checked hc hq hl] at he
  dsimp only at he
  split at he
  case isFalse => cases he
  case isTrue hok =>
    have hf := CoreTask.find_settleAll_ok s.cur.q hj (Bool.and_eq_true_iff.mp hok).1
    rw [← Entry.go.inj he]
    split
    · exact CoreTask.find_settleAll_none s.cur.q _ hf
    · exact hf

/-- A word that names one landed tag and has no destination enters with that tag committed. -/
theorem enters_single (hl : u.legal = true) {k : Nat} {r : TagRec} (hk : k < 8) (hu : u.cons = BitVec.ofNat 8 (2 ^ k))
    (ha : u.alloc = none) (hd : u.dst = none) (hr : find (c.seq s.cur.q).tags k = some r) (hcan : c.canCommit r = true) :
    s.Enters u (c.commit s.cur.q k r) := by
  have hf : u.firstTags = [k] := by rw [WordUse.firstTags, hu, consTags_single hk, ha]; rfl
  have hs : c.settle s.cur.q k = (c.commit s.cur.q k r, true) := by
    rw [CoreTask.settle, hr]
    exact if_pos hcan
  have hlate : ∀ c : CoreTask, u.lateTags c s.cur.q = [] := fun c => by rw [WordUse.lateTags, hd]
  rw [State.Enters, enter_checked hc hq hl, hf]
  simp only [CoreTask.settleAll, hs, hlate, CoreTask.landedAll, List.all_nil, Bool.and_self, if_true, ite_self]

end

/-- What the commit of a register's value leaves: that register written, the tag freed, and all else as it was. -/
theorem CoreTask.commit_value (c : CoreTask) (q : SeqId) (k : Nat) {r : TagRec} {d : GReg} {v : Word} (hd : r.dest = .g d)
    (hr : r.res = .value v) :
    c.commit q k r = c.updSeq q (fun sq => ({ sq with tags := Tab.del k sq.tags }).wr d v) := by
  unfold CoreTask.commit
  rw [hd, hr]
  exact CoreTask.updSeq_updSeq ..

/-- A change of one sequencer is one of that sequencer alone. -/
theorem CoreTask.onlySeq_updSeq (c : CoreTask) (q : SeqId) (f : Seq → Seq) : c.OnlySeq (c.updSeq q f) q := by
  simp [CoreTask.OnlySeq, CoreTask.updSeq]

@[simp] theorem Seq.wr_pc (q : Seq) (d : GReg) (v : Word) : (q.wr d v).pc = q.pc := by
  unfold Seq.wr
  split <;> rfl

end Sys2Proof.Machine

namespace Sys2Proof.Proofs

open Sys2Proof.Machine

/-- Settles O8: every local word is a body that sees its core-task alone. -/
theorem localWordsChangeOnlyTheirCoreTask : Obligations.LocalWordsChangeOnlyTheirCoreTask :=
  fun _ _ s h hl => (exec_issued h s).framed hl

/-- Settles O6: the checks before a word's body word by word, and what the shared first half commits. -/
theorem wordsEnterAndCommitTags : Obligations.WordsEnterAndCommitTags := by
  refine ⟨fun i opc s h => ⟨(exec_issued h s).held, (exec_issued h s).refused⟩, fun u s t c hc hq =>
    ⟨enter_illegal (by rw [hc]; rfl) (List.contains_iff_mem.mpr hq), fun hl => ⟨fun k r hk hb hr hn =>
      ⟨_, enter_unlanded hc hq hl hk hb hr hn⟩, fun c' he k hk hb => enters_freed hc hq hl he hk hb,
      fun k r d v hk hu ha hdst hr hland hd hres => ?_⟩⟩⟩
  have hcan : c.canCommit r = true := by rw [CoreTask.canCommit, hland, hd]; rfl
  refine ⟨_, enters_single hc hq hl hk hu ha hdst hr hcan, ?_⟩
  rw [CoreTask.commit_value c s.cur.q k hd hres]
  refine ⟨CoreTask.onlySeq_updSeq .., fun j => ?_, fun x => ?_, ?_⟩
  · rw [← CoreTask.commit_value c s.cur.q k hd hres, CoreTask.tags_commit, find_del]
  · rw [CoreTask.seq_updSeq, Seq.rd_wr]
    rfl
  · rw [CoreTask.seq_updSeq, Seq.wr_pc]

end Sys2Proof.Proofs
end

section
/-! The values after reset and at the start of a core-task (R104, R185, R223, R261, R303, R319). -/

namespace Sys2Proof.Machine

/-- A slice of a table that lists nothing holds its default value everywhere. -/
theorem takeFrom_nil {α : Type} (d : α) (a n : Nat) : takeFrom d [] a n = List.replicate n d := by
  induction n generalizing a with
  | zero => rfl
  | succ n ih =>
    show d :: takeFrom d [] (a + 1) n = _
    rw [ih, List.replicate_succ]

/-- After reset partition 0 holds every island (R261). -/
theorem State.reset_partOf {core : Nat} (h : core < 128) : State.reset.partOf core = 0 := by
  have hc : (State.reset.partCfg 0).getLsbD (core / 4) = true := by
    show (0xFFFFFFFF#32).getLsbD (core / 4) = true
    rw [show 0xFFFFFFFF#32 = BitVec.allOnes 32 from rfl, BitVec.getLsbD_allOnes, decide_eq_true_eq]
    omega
  have hf : (List.range 8).find? (fun p => (State.reset.partCfg p).getLsbD (core / 4)) = some 0 := by
    rw [show List.range 8 = 0 :: (List.range 7).map (· + 1) from rfl, List.find?_cons, hc]
  rw [State.partOf, hf]
  rfl

/-- After reset every function's quotas keep the device's counts, and every function may hold an accumulate (R223). -/
theorem State.reset_quotas : ∀ n < 9, ∀ w < 3,
    tqSumsOk State.reset.r.tq w = true ∧ 1 ≤ fieldOf (Tab.get 0 State.reset.r.tq (4 * n + 1)) 0 5 := by
  decide

/-- A sequencer that has not started has every item of R104 at its start value. -/
theorem CoreTask.fresh_seq (core : Nat) (q : SeqId) : (CoreTask.fresh core).seq q = Seq.idle := by
  cases q <;> rfl

theorem Seq.idle_rd (r : GReg) : Seq.idle.rd r = 0 := ite_self _

end Sys2Proof.Machine

namespace Sys2Proof.Proofs

open Sys2Proof.Machine

/-- Settles O13: the values are read off the reset state and the fresh core-task. -/
theorem resetValues : Obligations.ResetValues := by
  refine ⟨⟨rfl, rfl⟩, fun _ => rfl, fun _ => rfl, rfl, rfl, rfl, fun _ => rfl, rfl, rfl, rfl, fun _ => ⟨rfl, rfl⟩,
    fun _ => State.reset_partOf, rfl, State.reset_quotas, fun core q => ?_⟩
  dsimp only
  rw [CoreTask.fresh_seq]
  exact ⟨Seq.idle_rd, rfl, rfl, rfl, fun _ _ => ⟨rfl, rfl⟩, fun a n => takeFrom_nil 0 a n, fun a n => takeFrom_nil 0 a n,
    fun _ => ⟨rfl, rfl, rfl⟩, fun _ => ⟨rfl, rfl, rfl, rfl⟩, rfl, rfl, rfl, rfl, rfl, rfl⟩

end Sys2Proof.Proofs
end

section
/-! Compares, bit fields, counts of bits and division (R329, R331, R340, R347, R353, R354, R358, R360, R363, R366): what
each value of a scalar word is as a number, and how a division leaves its tag (R89). -/

namespace Sys2Proof.Machine

/-! ### Comparisons and immediates (R347, R353, R366) -/

theorem boolWord_decide (p : Prop) [Decidable p] : boolWord (decide p) = if p then 1 else 0 := by
  unfold boolWord
  simp only [decide_eq_true_eq]

theorem sext40_toInt (i : BitVec 40) : (sext40 i).toInt = i.toInt := BitVec.toInt_signExtend_of_le (by decide)

theorem slt_word (a b : Word) : boolWord (a.slt b) = if a.toInt < b.toInt then 1 else 0 := boolWord_decide _

theorem ult_word (a b : Word) : boolWord (a.ult b) = if a.toNat < b.toNat then 1 else 0 := boolWord_decide _

theorem seq_word (a b : Word) : boolWord (a == b) = if a = b then 1 else 0 := boolWord_decide _

theorem min_word (a b : Word) : (if a.slt b then a else b) = BitVec.ofInt 64 (Min.min a.toInt b.toInt) := by
  simp only [BitVec.slt, decide_eq_true_eq]
  split
  · next h => rw [min_eq_left h.le, BitVec.ofInt_toInt]
  · next h => rw [min_eq_right (not_lt.mp h), BitVec.ofInt_toInt]

theorem max_word (a b : Word) : (if a.slt b then b else a) = BitVec.ofInt 64 (Max.max a.toInt b.toInt) := by
  simp only [BitVec.slt, decide_eq_true_eq]
  split
  · next h => rw [max_eq_right h.le, BitVec.ofInt_toInt]
  · next h => rw [max_eq_left (not_lt.mp h), BitVec.ofInt_toInt]

theorem minU_word (a b : Word) : (if a.ult b then a else b) = BitVec.ofNat 64 (Min.min a.toNat b.toNat) := by
  simp only [BitVec.ult, decide_eq_true_eq]
  split
  · next h => rw [min_eq_left h.le, BitVec.ofNat_toNat, BitVec.setWidth_eq]
  · next h => rw [min_eq_right (not_lt.mp h), BitVec.ofNat_toNat, BitVec.setWidth_eq]

theorem maxU_word (a b : Word) : (if a.ult b then b else a) = BitVec.ofNat 64 (Max.max a.toNat b.toNat) := by
  simp only [BitVec.ult, decide_eq_true_eq]
  split
  · next h => rw [max_eq_right h.le, BitVec.ofNat_toNat, BitVec.setWidth_eq]
  · next h => rw [max_eq_left (not_lt.mp h), BitVec.ofNat_toNat, BitVec.setWidth_eq]

theorem setHigh_eq (d : Word) (i : BitVec 24) :
    setHigh d i = BitVec.ofNat 64 (i.toNat * 2 ^ 40 + d.toNat % 2 ^ 40) := by
  apply BitVec.eq_of_toNat_eq
  have hi := i.isLt
  have hd := Nat.mod_lt d.toNat (Nat.two_pow_pos 40)
  rw [setHigh, BitVec.toNat_append, ← Nat.shiftLeft_add_eq_or_of_lt (BitVec.isLt _), Nat.shiftLeft_eq,
    BitVec.extractLsb'_toNat, Nat.shiftRight_zero, BitVec.toNat_ofNat]
  exact (Nat.mod_eq_of_lt (by omega)).symm

/-! ### Bit fields (R329) -/

/-- A field of `w` bits at the top of 64 is its signed value, `64 - w` places up. -/
theorem bmod_shifted {n w : Nat} (h1 : 1 ≤ w) (hw : w ≤ 64) :
    ((n * 2 ^ (64 - w) : Nat) : Int).bmod (2 ^ 64) = (n : Int).bmod (2 ^ w) * (2 ^ (64 - w) : Nat) := by
  obtain ⟨v, rfl⟩ : ∃ v, w = v + 1 := ⟨w - 1, by omega⟩
  have hW : (2 : Nat) ^ (v + 1) = 2 * 2 ^ v := Nat.pow_succ'
  have hK : (2 : Nat) ^ 64 = 2 ^ (v + 1) * 2 ^ (64 - (v + 1)) := by rw [← Nat.pow_add]; congr 1; omega
  generalize hKd : 2 ^ (64 - (v + 1)) = K at hK ⊢
  have hKpos : (0 : Int) < (K : Nat) := by rw [← hKd]; exact_mod_cast Nat.two_pow_pos _
  rw [hK, hW]
  generalize 2 ^ v = W
  obtain hpos | hpos := Nat.eq_zero_or_pos W
  · simp [hpos]
  have hm := (Int.bmod_eq_iff (a := n) (c := (n : Int).bmod (2 * W)) (by omega : 0 < 2 * W)).mp rfl
  obtain ⟨hlo, hhi, hdvd⟩ := hm
  generalize (n : Int).bmod (2 * W) = m at hlo hhi hdvd ⊢
  have hlo' : -(W : Int) ≤ m := by omega
  have hhi' : m + 1 ≤ (W : Int) := by omega
  have hKW : 2 * W * K = 2 * (W * K) := Nat.mul_assoc ..
  refine (Int.bmod_eq_iff (Nat.mul_pos (by omega) (by exact_mod_cast hKpos))).mpr ⟨?_, ?_, ?_⟩
  · have := mul_le_mul_of_nonneg_right hlo' hKpos.le
    rw [hKW]
    push_cast
    rw [neg_mul] at this
    omega
  · have := mul_le_mul_of_nonneg_right hhi' hKpos.le
    rw [hKW]
    push_cast
    rw [add_mul] at this
    omega
  · have := mul_dvd_mul hdvd (dvd_refl (K : Int))
    rw [sub_mul] at this
    exact_mod_cast this

section
variable {lsb : BitVec 6} {width : BitVec 7} (h : fieldOk lsb width = true)
include h

theorem fieldOk_range : 1 ≤ width.toNat ∧ width.toNat ≤ 64 ∧ lsb.toNat + width.toNat ≤ 64 := by
  simpa only [fieldOk, Bool.and_eq_true, decide_eq_true_eq, and_assoc] using h

theorem maskBits_toNat : (maskBits width).toNat = 2 ^ width.toNat - 1 := by
  have hw : 2 ^ width.toNat ≤ 2 ^ 64 := Nat.pow_le_pow_right (by decide) (fieldOk_range h).2.1
  rw [maskBits, BitVec.toNat_ofNat, Nat.mod_eq_of_lt (by omega)]

theorem extractBits_toNat (a : Word) : (extractBits a lsb width).toNat = a.toNat / 2 ^ lsb.toNat % 2 ^ width.toNat := by
  rw [extractBits, BitVec.toNat_and, maskBits_toNat h, Nat.and_two_pow_sub_one_eq_mod, BitVec.toNat_ushiftRight,
    Nat.shiftRight_eq_div_pow]

theorem extractBits_eq (a : Word) :
    extractBits a lsb width = BitVec.ofNat 64 (a.toNat / 2 ^ lsb.toNat % 2 ^ width.toNat) := by
  rw [← extractBits_toNat h, BitVec.ofNat_toNat, BitVec.setWidth_eq]

theorem extractSigned_eq (a : Word) : extractSigned a lsb width =
    BitVec.ofInt 64 (Int.bmod (a.toNat / 2 ^ lsb.toNat : Nat) (2 ^ width.toNat)) := by
  have hw := (fieldOk_range h).2.1
  have hpos : (0 : Int) < (2 ^ (64 - width.toNat) : Nat) := by exact_mod_cast Nat.two_pow_pos _
  rw [← BitVec.ofInt_toInt (x := extractSigned a lsb width)]
  congr 1
  rw [extractSigned, BitVec.toInt_sshiftRight, BitVec.toInt_shiftLeft, Int.shiftRight_eq_div_pow, Nat.shiftLeft_eq,
    bmod_shifted (fieldOk_range h).1 hw, Int.mul_ediv_cancel _ hpos.ne', extractBits_toNat h, Int.natCast_mod, Int.emod_bmod]

theorem maskBits_getLsbD (i : Nat) : (maskBits width).getLsbD i = decide (i < width.toNat) := by
  have := (fieldOk_range h).2.1
  rw [BitVec.getLsbD, maskBits_toNat h, Nat.testBit_two_pow_sub_one]

/-- BFI puts the field's bits in their place and keeps the others. -/
theorem insertBits_getLsbD (x y : Word) {i : Nat} (hi : i < 64) : (insertBits x y lsb width).getLsbD i =
    if lsb.toNat ≤ i ∧ i < lsb.toNat + width.toNat then y.getLsbD (i - lsb.toNat) else x.getLsbD i := by
  simp only [insertBits, BitVec.getLsbD_or, BitVec.getLsbD_and, BitVec.getLsbD_not, BitVec.getLsbD_shiftLeft,
    maskBits_getLsbD h, hi, decide_true, Bool.true_and]
  by_cases hl : i < lsb.toNat
  · rw [if_neg (by omega)]
    simp [hl]
  · by_cases hu : i - lsb.toNat < width.toNat
    · rw [if_pos (by omega)]
      simp [hl, hu]
    · rw [if_neg (by omega)]
      simp [hl, hu]

end

/-! ### Counts of bits (R331, R358) -/

/-- The run of consecutive numbers that satisfy `p` ends at the first that does not. -/
theorem takeWhile_range' (p : Nat → Bool) (a m : Nat) : ∃ n ≤ m, (List.range' a m).takeWhile p = List.range' a n ∧
    (∀ i, i < n → p (a + i) = true) ∧ (n < m → p (a + n) = false) := by
  induction m generalizing a with
  | zero => exact ⟨0, le_rfl, rfl, fun i hi => absurd hi (Nat.not_lt_zero i), fun h => absurd h (lt_irrefl 0)⟩
  | succ m ih =>
    rw [List.range'_succ, List.takeWhile_cons]
    cases hp : p a with
    | false => exact ⟨0, Nat.zero_le _, rfl, fun i hi => absurd hi (Nat.not_lt_zero i), fun _ => hp⟩
    | true =>
      obtain ⟨n, hn, he, hall, hend⟩ := ih (a + 1)
      refine ⟨n + 1, Nat.succ_le_succ hn, ?_, fun i hi => ?_, fun hlt => ?_⟩
      · rw [if_pos rfl, he, List.range'_succ]
      · cases i with
        | zero => exact hp
        | succ i =>
          have := hall i (Nat.lt_of_succ_lt_succ hi)
          rwa [show a + 1 + i = a + (i + 1) by omega] at this
      · have := hend (Nat.lt_of_succ_lt_succ hlt)
        rwa [show a + 1 + n = a + (n + 1) by omega] at this

/-- CTZ counts up to the lowest set bit. -/
theorem trailingZeros_spec {x : Word} (hx : x ≠ 0) : x.getLsbD (trailingZeros x).toNat = true ∧
    ∀ i, i < (trailingZeros x).toNat → x.getLsbD i = false := by
  obtain ⟨n, hn, he, hall, hend⟩ := takeWhile_range' (fun i => !x.getLsbD i) 0 64
  have hz : ∀ i, i < n → x.getLsbD i = false := fun i hi => by
    have := hall i hi
    rwa [Nat.zero_add, Bool.not_eq_true'] at this
  have ht : (trailingZeros x).toNat = n := by
    rw [trailingZeros, List.range_eq_range', he, List.length_range', BitVec.toNat_ofNat, Nat.mod_eq_of_lt (by omega)]
  have hlt : n < 64 := by
    by_contra hge
    refine hx (BitVec.eq_of_getLsbD_eq fun i hi => ?_)
    rw [hz i (by omega)]
    exact BitVec.getLsbD_zero.symm
  rw [ht]
  refine ⟨?_, hz⟩
  have := hend hlt
  rwa [Nat.zero_add, Bool.not_eq_false'] at this

/-- CLZ counts down to the highest set bit. -/
theorem leadingZeros_spec {x : Word} (hx : x ≠ 0) : x.getLsbD (63 - (leadingZeros x).toNat) = true ∧
    (∀ i, 63 - (leadingZeros x).toNat < i → x.getLsbD i = false) ∧ (leadingZeros x).toNat ≤ 63 := by
  have hx' : x.toNat ≠ 0 := fun h => hx (BitVec.eq_of_toNat_eq h)
  have hlog : Nat.log2 x.toNat < 64 := (Nat.log2_lt hx').mpr x.isLt
  have hl : (leadingZeros x).toNat = 63 - Nat.log2 x.toNat := by
    rw [leadingZeros, if_neg hx, BitVec.toNat_ofNat, Nat.mod_eq_of_lt (by omega)]
  have hpos : 63 - (63 - Nat.log2 x.toNat) = Nat.log2 x.toNat := by omega
  rw [hl, hpos]
  refine ⟨Nat.testBit_log2 hx', fun i hi => Nat.testBit_lt_two_pow ?_, by omega⟩
  exact Nat.lt_of_lt_of_le Nat.lt_log2_self (Nat.pow_le_pow_right (by decide) hi)

/-! ### Division (R340, R360) -/

theorem divWord_eq (a b : Word) :
    divWord a b = if b = 0 then BitVec.allOnes 64 else BitVec.ofNat 64 (a.toNat / b.toNat) := by
  unfold divWord
  split
  · rfl
  · exact BitVec.eq_of_toNat_eq (by
      rw [BitVec.toNat_udiv, BitVec.toNat_ofNat, Nat.mod_eq_of_lt (Nat.lt_of_le_of_lt (Nat.div_le_self _ _) a.isLt)])

theorem remWord_eq (a b : Word) : remWord a b = if b = 0 then a else BitVec.ofNat 64 (a.toNat % b.toNat) := by
  unfold remWord
  split
  · rfl
  · exact BitVec.eq_of_toNat_eq (by
      rw [BitVec.toNat_umod, BitVec.toNat_ofNat, Nat.mod_eq_of_lt (Nat.lt_of_le_of_lt (Nat.mod_le _ _) a.isLt)])

/-- A division without a tag writes its result at once. -/
theorem writes_aluTag (i : Instr) (k : BitVec 8) (d : GReg) (f : Seq → Word) (h : ∀ s, exec i s = aluTag k none d f s) :
    Writes i (useD k d) d f := fun s c he => by
  refine ⟨_, ?_, passed_wrote _ he rfl⟩
  rw [h]
  exact runLocal_go he

/-- A tag whose result has not landed is no tag that settling commits. -/
theorem CoreTask.find_settleAll_unlanded (q : SeqId) {j : Nat} (ts : List Nat) {c : CoreTask} {r : TagRec}
    (hr : find (c.seq q).tags j = some r) (hl : r.landed = false) :
    find ((c.settleAll q ts).1.seq q).tags j = some r := by
  induction ts generalizing c with
  | nil => exact hr
  | cons t ts ih =>
    have hs := CoreTask.find_settle c q t j
    rw [hr] at hs
    refine ih (hs.trans (if_neg fun h => ?_))
    have hc : c.canCommit r = false := by rw [CoreTask.canCommit, hl]; rfl
    rw [← h.1, CoreTask.settle, hr] at h
    simp only [hc, Bool.false_eq_true, if_false, and_false] at h

/-- The core-task that a division with a tag leaves: the tag pending with the result, the tags of `d` committed. -/
theorem aluTag_finish (c : CoreTask) (q : SeqId) (t : Tag) (d : GReg) (v : Word) :
    let r : TagRec := { dest := .g d, res := .value v, landed := false }
    let c' := (((c.settleAll q (c.tagsOf q (.g d))).1.allocTag q t r).finish q (gDst d) none).updSeq q Seq.advance
    c.OnlySeq c' q ∧ find (c'.seq q).tags t.val = some r ∧ (∀ x, x ≠ d → (c'.seq q).rd x = (c.seq q).rd x) ∧
      ((c'.seq q).loops, (c'.seq q).pc) = loopEnd (c.seq q).loops (c.seq q).pc := by
  intro r c'
  obtain ⟨g, tags, hs, hg, -⟩ := CoreTask.settle_dst c q d
  have ha : (c.settleAll q (c.tagsOf q (.g d))).1.allocTag q t r =
      c.updSeq q (fun sq => { sq with g := g, tags := Tab.put t.val r tags }) := by
    rw [hs, CoreTask.allocTag, CoreTask.updSeq_updSeq]
  obtain ⟨g', tags', hs', hg', -⟩ := CoreTask.settle_dst
    (c.updSeq q (fun sq => { sq with g := g, tags := Tab.put t.val r tags })) q d
  have hput : find ((c.updSeq q (fun sq => { sq with g := g, tags := Tab.put t.val r tags })).seq q).tags t.val = some r := by
    rw [CoreTask.seq_updSeq, find_put, if_pos rfl]
  have hfind := CoreTask.find_settleAll_unlanded q
    ((c.updSeq q (fun sq => { sq with g := g, tags := Tab.put t.val r tags })).tagsOf q (.g d)) hput rfl
  rw [hs', CoreTask.updSeq_updSeq, CoreTask.seq_updSeq] at hfind
  have hc' : c' = c.updSeq q (fun sq => ({ sq with g := g', tags := tags' }).advance) := by
    show (((c.settleAll q (c.tagsOf q (.g d))).1.allocTag q t r).finish q (gDst d) none).updSeq q Seq.advance = _
    rw [ha]
    show (CoreTask.settleAll _ q _).1.updSeq q Seq.advance = _
    rw [hs', CoreTask.updSeq_updSeq, CoreTask.updSeq_updSeq]
  rw [hc']
  refine ⟨CoreTask.onlySeq_updSeq .., ?_, fun x hx => ?_, ?_⟩
  · rw [CoreTask.seq_updSeq]
    exact hfind
  · rw [CoreTask.seq_updSeq, Seq.rd_eq, Seq.rd_eq]
    have := hg' x hx
    rw [CoreTask.seq_updSeq] at this
    exact this.trans (hg x hx)
  · rw [CoreTask.seq_updSeq]
    rfl

/-- A division with a tag leaves its result in the tag (R89). -/
theorem aluTag_tagged {k : BitVec 8} {t : Tag} {d : GReg} {f : Seq → Word} {s : State} {c : CoreTask}
    (he : s.Enters { perm := allSeqs, cons := k, alloc := some t, dst := gDst d } c) :
    ∃ t', aluTag k (some t) d f s = .next t' ∧ s.OnlyCur t' ∧
      ∃ c', t'.ct? s.cur.slot s.cur.rank = some c' ∧ c.OnlySeq c' s.cur.q ∧
        find (c'.seq s.cur.q).tags t.val = some { dest := .g d, res := .value (f (c.seq s.cur.q)), landed := false } ∧
        (∀ r, r ≠ d → (c'.seq s.cur.q).rd r = (c.seq s.cur.q).rd r) ∧
        ((c'.seq s.cur.q).loops, (c'.seq s.cur.q).pc) = loopEnd (c.seq s.cur.q).loops (c.seq s.cur.q).pc :=
  ⟨_, runLocal_done he rfl, State.onlyCur_putCt .., _, State.ct_withCur he _, aluTag_finish ..⟩

/-! ### BFI (R90, R329) -/

section
variable {s : State} {k : BitVec 8} {d : GReg} {tk : Task} {c0 c : CoreTask}

/-- A word that reads its destination enters with its CONS committed, and then the tags of its destination. -/
theorem useRmw_entered (hc : s.canIssue s.cur = some (tk, c0)) (he : s.Enters (useRmw k d) c) :
    c = ((c0.settleAll s.cur.q (consTags k)).1.settleAll s.cur.q
      ((c0.settleAll s.cur.q (consTags k)).1.tagsOf s.cur.q (.g d))).1 := by
  obtain ⟨t, c1, hc1, -, -, heq⟩ := enter_go he
  rw [hc] at hc1
  cases hc1
  have hf : (useRmw k d).firstTags = consTags k := List.append_nil _
  rw [hf] at heq
  exact heq

theorem sourceOf_eq (hc : s.canIssue s.cur = some (tk, c0)) (a : GReg) :
    s.sourceOf k a = ((c0.settleAll s.cur.q (consTags k)).1.seq s.cur.q).rd a := by
  obtain ⟨ht, hr, -⟩ := canIssue_some hc
  have hct : s.ct? s.cur.slot s.cur.rank = some c0 := by rw [State.ct?, ht]; exact hr
  rw [State.sourceOf, hct]

/-- Another register than the destination is read as it is where the word enters. -/
theorem sourceOf_ne (he : s.Enters (useRmw k d) c) {a : GReg} (ha : a ≠ d) : s.sourceOf k a = (c.seq s.cur.q).rd a := by
  obtain ⟨t, c1, hc, -⟩ := enter_go he
  obtain ⟨g, tags, hs, hg, -⟩ := CoreTask.settle_dst (c1.settleAll s.cur.q (consTags k)).1 s.cur.q d
  rw [sourceOf_eq hc, useRmw_entered hc he, hs, CoreTask.seq_updSeq, Seq.rd_eq, Seq.rd_eq]
  exact (hg a ha).symm

end

theorem bfi_wrote {s : State} {k : BitVec 8} {d a : GReg} {lsb : BitVec 6} {width : BitVec 7} {c : CoreTask}
    (he : s.Enters (useRmw k d) c) : ∃ t, exec (.bfi k d a lsb width) s = .next t ∧
      s.Wrote t c d (insertBits ((c.seq s.cur.q).rd d) (s.sourceOf k a) lsb width) :=
  ⟨_, runLocal_done (body := fun s' c => .done c (some (d, insertBits ((c.seq s'.cur.q).rd d) (s.sourceOf k a) lsb width)))
    he rfl, passed_wrote _ he rfl⟩

/-! ### The words, group by group -/

theorem compares_write (k : BitVec 8) (d a b : GReg) (imm : BitVec 40) :
    Writes (.sltReg k d a b) (useD k d) d (fun q => if (q.rd a).toInt < (q.rd b).toInt then 1 else 0) ∧
    Writes (.sltImm k d a imm) (useD k d) d (fun q => if (q.rd a).toInt < imm.toInt then 1 else 0) ∧
    Writes (.sltuReg k d a b) (useD k d) d (fun q => if (q.rd a).toNat < (q.rd b).toNat then 1 else 0) ∧
    Writes (.sltuImm k d a imm) (useD k d) d (fun q => if (q.rd a).toNat < (imm.signExtend 64).toNat then 1 else 0) ∧
    Writes (.seqReg k d a b) (useD k d) d (fun q => if q.rd a = q.rd b then 1 else 0) ∧
    Writes (.seqImm k d a imm) (useD k d) d (fun q => if q.rd a = imm.signExtend 64 then 1 else 0) :=
  ⟨(writes_alu _ k d _ (exec_sltReg k d a b)).congr fun _ => slt_word ..,
    (writes_alu _ k d _ (exec_sltImm k d a imm)).congr fun q => by rw [slt_word, sext40_toInt],
    (writes_alu _ k d _ (exec_sltuReg k d a b)).congr fun _ => ult_word ..,
    (writes_alu _ k d _ (exec_sltuImm k d a imm)).congr fun _ => ult_word ..,
    (writes_alu _ k d _ (exec_seqReg k d a b)).congr fun _ => seq_word ..,
    (writes_alu _ k d _ (exec_seqImm k d a imm)).congr fun _ => seq_word ..⟩

theorem selects_write (k : BitVec 8) (d a b c : GReg) :
    Writes (.min k d a b) (useD k d) d (fun q => BitVec.ofInt 64 (Min.min (q.rd a).toInt (q.rd b).toInt)) ∧
    Writes (.minU k d a b) (useD k d) d (fun q => BitVec.ofNat 64 (Min.min (q.rd a).toNat (q.rd b).toNat)) ∧
    Writes (.max k d a b) (useD k d) d (fun q => BitVec.ofInt 64 (Max.max (q.rd a).toInt (q.rd b).toInt)) ∧
    Writes (.maxU k d a b) (useD k d) d (fun q => BitVec.ofNat 64 (Max.max (q.rd a).toNat (q.rd b).toNat)) ∧
    Writes (.mov k d a) (useD k d) d (fun q => q.rd a) ∧
    Writes (.sel k d a b c) (useD k d) d (fun q => if q.rd c = 0 then q.rd b else q.rd a) :=
  ⟨(writes_alu _ k d _ (exec_min k d a b)).congr fun _ => min_word ..,
    (writes_alu _ k d _ (exec_minU k d a b)).congr fun _ => minU_word ..,
    (writes_alu _ k d _ (exec_max k d a b)).congr fun _ => max_word ..,
    (writes_alu _ k d _ (exec_maxU k d a b)).congr fun _ => maxU_word ..,
    writes_alu _ k d _ (exec_mov k d a), (writes_alu _ k d _ (exec_sel k d a b c)).congr fun _ => ite_not ..⟩

theorem fields_write (k : BitVec 8) (d a : GReg) {lsb : BitVec 6} {width : BitVec 7} (h : fieldOk lsb width = true) :
    Writes (.bfx k d a lsb width) (useD k d) d
      (fun q => BitVec.ofNat 64 ((q.rd a).toNat / 2 ^ lsb.toNat % 2 ^ width.toNat)) ∧
    Writes (.bfxS k d a lsb width) (useD k d) d
      (fun q => BitVec.ofInt 64 (Int.bmod ((q.rd a).toNat / 2 ^ lsb.toNat : Nat) (2 ^ width.toNat))) ∧
    (a ≠ d → Writes (.bfi k d a lsb width) (useRmw k d) d (fun q => insertBits (q.rd d) (q.rd a) lsb width)) :=
  ⟨(writes_alu _ k d _ (exec_bfx k d a lsb width)).congr fun _ => extractBits_eq h _,
    (writes_alu _ k d _ (exec_bfxS k d a lsb width)).congr fun _ => extractSigned_eq h _, fun ha s c he => by
      have hw := bfi_wrote (a := a) (lsb := lsb) (width := width) he
      rwa [sourceOf_ne he ha] at hw⟩

theorem counts_write (k : BitVec 8) (d a : GReg) :
    Writes (.clz k d a) (useD k d) d (fun q => leadingZeros (q.rd a)) ∧
    Writes (.ctz k d a) (useD k d) d (fun q => trailingZeros (q.rd a)) ∧
    Writes (.popc k d a) (useD k d) d
      (fun q => BitVec.ofNat 64 ((List.range 64).countP (fun i => (q.rd a).getLsbD i))) :=
  ⟨writes_alu _ k d _ (exec_clz k d a), writes_alu _ k d _ (exec_ctz k d a),
    (writes_alu _ k d _ (exec_popc k d a)).congr fun _ => by rw [popCount, List.countP_eq_length_filter]⟩

end Sys2Proof.Machine

namespace Sys2Proof.Proofs

open Sys2Proof.Machine

/-- Settles O15: each word through its shared form, each value through its number, a division's tag through
`aluTag_finish`. -/
theorem scalarComparesFieldsAndDivision : Obligations.ScalarComparesFieldsAndDivision := by
  refine ⟨fun k d a b c imm => ?_, ⟨fun k d a lsb width imm hi => ?_, fun x y lsb width i hi h => insertBits_getLsbD h x y hi,
    rfl, by decide, fun x hx => ?_⟩, fun k d a b => ⟨?_, ?_, fun tg s c he i v h => ?_⟩⟩
  · obtain ⟨h1, h2, h3, h4, h5, h6⟩ := compares_write k d a b imm
    exact ⟨h1, h2, h3, h4, h5, h6, selects_write k d a b c⟩
  · refine ⟨writes_alu _ k d _ (exec_li k d imm),
      (writes_aluRmw _ k d _ (exec_lih k d hi)).congr fun q => setHigh_eq .., fun h => ?_, counts_write k d a⟩
    obtain ⟨h1, h2, h3⟩ := fields_write k d a h
    refine ⟨h1, h2, h3, fun s tk c0 c hc he => ?_⟩
    rw [← sourceOf_eq hc]
    exact bfi_wrote he
  · obtain ⟨h1, h2, h3⟩ := leadingZeros_spec hx
    exact ⟨h1, h2, h3, trailingZeros_spec hx⟩
  · exact (writes_aluTag _ k d _ (exec_divu k none d a b)).congr fun q => divWord_eq ..
  · exact (writes_aluTag _ k d _ (exec_remu k none d a b)).congr fun q => remWord_eq ..
  · obtain ⟨rfl, rfl⟩ | ⟨rfl, rfl⟩ := h
    · exact aluTag_tagged (f := fun q => divWord (q.rd a) (q.rd b)) he
    · exact aluTag_tagged (f := fun q => remWord (q.rd a) (q.rd b)) he

end Sys2Proof.Proofs
end

section
/-! Branches, calls, returns and TRAP (R97 to R99, R377). -/

namespace Sys2Proof.Machine

/-- A branch goes OFF40 words from its own address, kept to the 32 bits of the program counter (R97, log 65). -/
theorem branchTarget_eq (pc : BitVec 32) (off : BitVec 40) : branchTarget pc off = BitVec.ofInt 32 (pc.toNat + off.toInt) := by
  have hoff : (off.signExtend 64).setWidth 32 = BitVec.ofInt 32 off.toInt := by
    apply BitVec.eq_of_toInt_eq
    rw [BitVec.toInt_setWidth, BitVec.toInt_ofInt, BitVec.signExtend, BitVec.toNat_ofInt]
    have h64 : (0 : Int) ≤ off.toInt % (2 ^ 64 : Nat) := Int.emod_nonneg _ (by decide)
    rw [Int.toNat_of_nonneg h64]
    rw [← Int.emod_bmod (off.toInt % _), Int.emod_emod_of_dvd _ (by decide), Int.emod_bmod]
  rw [branchTarget, hoff, BitVec.ofInt_add, BitVec.ofInt_natCast, BitVec.ofNat_toNat, BitVec.setWidth_eq]

theorem runLocal_jump {u : WordUse} {body : State → CoreTask → Res CoreTask} {s : State} {c c' : CoreTask}
    (h : s.Enters u c) (hb : body s c = .jump c') : runLocal u body s = .next (s.jumped c') := by
  rw [runLocal_go h, hb]

section
variable {k : BitVec 8} {a b : GReg} {off : BitVec 40} {s : State} {c : CoreTask} (he : s.Enters (anySeq k) c)

/-- The device after a taken branch. -/
def State.branched (s : State) (c : CoreTask) (off : BitVec 40) : State :=
  let q := c.seq s.cur.q
  let t := BitVec.ofInt 32 (q.pc.toNat + off.toInt)
  s.jumped (c.setSeq s.cur.q { q with pc := t, loops := popLoops t q.loops })

theorem branch_jump (s : State) (c : CoreTask) (off : BitVec 40) :
    s.jumped (c.updSeq s.cur.q (fun q => q.branch (branchTarget q.pc off))) = s.branched c off := by
  simp only [branchTarget_eq]
  rfl

include he

theorem exec_b_enters : exec (.b k off) s = .next (s.branched c off) := by
  rw [exec_b, execB, ← branch_jump]
  exact runLocal_jump he rfl

theorem branchIf_enters (cc : Cond) : branchIf cc k a b off s =
    .next (if condHolds cc ((c.seq s.cur.q).rd a) ((c.seq s.cur.q).rd b) then s.branched c off
      else s.passed (anySeq k) c none) := by
  unfold branchIf
  by_cases h : condHolds cc ((c.seq s.cur.q).rd a) ((c.seq s.cur.q).rd b) = true
  · rw [if_pos h, ← branch_jump]
    exact runLocal_jump he (if_pos h)
  · rw [if_neg h]
    exact runLocal_done he (if_neg h)

end

theorem condHolds_eq (a b : Word) : condHolds .eq a b = true ↔ a = b := beq_iff_eq

theorem condHolds_ne (a b : Word) : condHolds .ne a b = true ↔ ¬a = b := bne_iff_ne

theorem condHolds_lt (a b : Word) : condHolds .lt a b = true ↔ a.toInt < b.toInt := BitVec.slt_iff_toInt_lt

theorem condHolds_ge (a b : Word) : condHolds .ge a b = true ↔ b.toInt ≤ a.toInt := by
  rw [condHolds, Bool.not_eq_true', Bool.eq_false_iff, ne_eq, BitVec.slt_iff_toInt_lt, not_lt]

theorem condHolds_ltu (a b : Word) : condHolds .ltu a b = true ↔ a.toNat < b.toNat := BitVec.ult_iff_toNat_lt

theorem condHolds_geu (a b : Word) : condHolds .geu a b = true ↔ b.toNat ≤ a.toNat := by
  rw [condHolds, Bool.not_eq_true', Bool.eq_false_iff, ne_eq, BitVec.ult_iff_toNat_lt, not_lt]

/-! ### Calls and returns (R98) -/

section
variable {k : BitVec 8} {off : BitVec 40} {s : State} {c : CoreTask} (he : s.Enters (anySeq k) c)
include he

theorem exec_call_full (h : 16 ≤ (c.seq s.cur.q).rets.length) :
    exec (.call k off) s = .next (s.trapped c (trapOf .rstack)) := by
  rw [exec_call, execCall]
  exact runLocal_trap he (if_pos h)

theorem exec_call_room (h : (c.seq s.cur.q).rets.length < 16) : exec (.call k off) s = .next (s.jumped (c.setSeq s.cur.q
    { c.seq s.cur.q with rets := ((c.seq s.cur.q).pc + 1) :: (c.seq s.cur.q).rets,
                         pc := BitVec.ofInt 32 ((c.seq s.cur.q).pc.toNat + off.toInt) })) := by
  rw [exec_call, execCall, ← branchTarget_eq]
  exact runLocal_jump he (if_neg (Nat.not_le.mpr h))

theorem exec_ret_empty (h : (c.seq s.cur.q).rets = []) : exec (.ret k) s = .next (s.trapped c (trapOf .rstack)) := by
  rw [exec_ret, execRet, runLocal_go he]
  dsimp only
  rw [h]

theorem exec_ret_some {t : BitVec 32} {ts : List (BitVec 32)} (h : (c.seq s.cur.q).rets = t :: ts) :
    exec (.ret k) s = .next (s.jumped (c.setSeq s.cur.q { c.seq s.cur.q with rets := ts, pc := t })) := by
  rw [exec_ret, execRet, runLocal_go he]
  dsimp only
  rw [h]

end

/-! ### Taking a fault (R8, R377) -/

theorem exec_trap_enters {k : BitVec 8} {code : BitVec 16} {s : State} {c : CoreTask} (he : s.Enters (anySeq k) c) :
    exec (.trap k code) s = .next (s.trapped c (trapOf .trap)) := by
  rw [exec_trap, execTrap]
  exact runLocal_trap he rfl

/-- The core-task that a fault of its own word leaves. -/
def CoreTask.faultedAt (c : CoreTask) (a : Agent) (t : Trap) (now : Nat) : CoreTask :=
  { c.setSeq a.q { c.seq a.q with status := .faulted } with notes := c.notes ++ [t.note (seqNum a.q) (c.seq a.q).pc now] }

theorem State.ct_raise_cur {s : State} {c : CoreTask} (t : Trap) (h : s.ct? s.cur.slot s.cur.rank = some c) :
    (s.raise s.cur t).ct? s.cur.slot s.cur.rank = some (c.faultedAt s.cur t s.dtime) := by
  rw [State.ct_raise, if_pos ⟨rfl, rfl⟩, h]
  rfl

theorem CoreTask.faultedAt_seq (c : CoreTask) (a : Agent) (t : Trap) (now : Nat) :
    (c.faultedAt a t now).seq a.q = { c.seq a.q with status := .faulted } ∧
      { c.faultedAt a t now with notes := c.notes }.setSeq a.q (c.seq a.q) = c := by
  obtain ⟨slot, rank, q⟩ := a
  cases q <;> exact ⟨rfl, rfl⟩

end Sys2Proof.Machine

namespace Sys2Proof.Proofs

open Sys2Proof.Machine

/-- Settles O16: the target as a number, the six conditions as comparisons, and each answer of the words' bodies. -/
theorem branchesCallsAndTraps : Obligations.BranchesCallsAndTraps := by
  refine ⟨⟨fun k a b off s c he => ⟨exec_b_enters he, ?_⟩, fun t e es => ⟨fun h => by rw [popLoops, if_pos h], fun h => by rw [popLoops, if_neg (by omega)]⟩, fun _ => rfl⟩,
    fun k off s c he => ⟨exec_call_room he, exec_call_full he, exec_ret_empty he, fun t ts => exec_ret_some he⟩,
    fun k code s c he => exec_trap_enters he, fun s c t h => ?_⟩
  · simp only [exec_bcEq, exec_bcNe, exec_bcLt, exec_bcGe, exec_bcLtu, exec_bcGeu, execBcEq, execBcNe, execBcLt, execBcGe,
      execBcLtu, execBcGeu, branchIf_enters he, condHolds_eq, condHolds_ne, condHolds_lt, condHolds_ge, condHolds_ltu,
      condHolds_geu, ite_not]
    exact ⟨rfl, rfl, rfl, rfl, rfl, rfl⟩
  · obtain ⟨hseq, hback⟩ := CoreTask.faultedAt_seq c s.cur t s.dtime
    exact ⟨_, State.ct_raise_cur t h, State.onlyCur_raise s t, hseq, hback, _, rfl, rfl, rfl, rfl, rfl, rfl, rfl, rfl⟩

end Sys2Proof.Proofs
end

section
/-! Loops and jump tables (R79, R99, R100, R357). -/

namespace Sys2Proof.Machine

/-- Field `n` bits from `lo` of a word, as a number. -/
theorem fieldOf_eq (v : Word) (lo : Nat) {n : Nat} (hn : n ≤ 64) : fieldOf v lo n = v.toNat / 2 ^ lo % 2 ^ n := by
  have hp : 2 ^ n ≤ 2 ^ 64 := Nat.pow_le_pow_right (by decide) hn
  have hpos : 0 < 2 ^ n := Nat.two_pow_pos n
  rw [fieldOf, BitVec.toNat_and, BitVec.toNat_ofNat, Nat.mod_eq_of_lt (by omega), Nat.and_two_pow_sub_one_eq_mod,
    BitVec.toNat_ushiftRight, Nat.shiftRight_eq_div_pow]

/-! ### Going on behind a word (R99) -/

theorem Seq.advance_eq (q : Seq) {ls : List LoopEntry} {pc : BitVec 32} (h : loopEnd q.loops q.pc = (ls, pc)) :
    q.advance = { q with loops := ls, pc := pc, wait := none } := by
  unfold Seq.advance
  rw [h]

/-- A word without a destination that goes on leaves its core-task behind the word. -/
theorem passed_none {u : WordUse} (s : State) (c : CoreTask) (hd : u.dst = none) :
    s.passed u c none = s.withCur (c.updSeq s.cur.q Seq.advance) := by
  unfold State.passed CoreTask.finish
  rw [hd]

section
variable {q : Seq} {e : LoopEntry} {es : List LoopEntry}

theorem Seq.advance_outside (h : q.loops = []) : q.advance = { q with pc := q.pc + 1, wait := none } := by
  have he : loopEnd q.loops q.pc = (q.loops, q.pc + 1) := by rw [h]; rfl
  rw [Seq.advance_eq q he]

theorem Seq.advance_inside (h : q.loops = e :: es) (hn : q.pc ≠ e.last) :
    q.advance = { q with pc := q.pc + 1, wait := none } := by
  have he : loopEnd q.loops q.pc = (q.loops, q.pc + 1) := by rw [h]; exact loopEnd_inside e es q.pc hn
  rw [Seq.advance_eq q he]

theorem Seq.advance_again (h : q.loops = e :: es) (hl : q.pc = e.last) (hr : 1 < e.remaining) :
    q.advance = { q with pc := e.start, loops := { e with remaining := e.remaining - 1 } :: es, wait := none } :=
  Seq.advance_eq q (by rw [h, hl]; exact loopEnd_again e es hr)

theorem Seq.advance_leave (h : q.loops = e :: es) (hl : q.pc = e.last) (hr : e.remaining ≤ 1) :
    ({ q with loops := es }).advance = q.advance := by
  have he : loopEnd q.loops q.pc = loopEnd es q.pc := by
    rw [h, hl]
    exact loopEnd_leave e es (by omega)
  rw [Seq.advance_eq q (he.trans (Prod.eta _).symm), Seq.advance_eq { q with loops := es } (Prod.eta _).symm]

end

/-! ### LOOP (R99) -/

theorem loopBody_deep {q : Seq} (count : Nat) (last : BitVec 20) (h : 4 ≤ q.loops.length) : loopBody q count last = none :=
  if_pos h

theorem loopBody_opens {q : Seq} {count : Nat} (last : BitVec 20) (h : q.loops.length < 4) (hc : 0 < count) :
    loopBody q count last = some { q with
      pc := q.pc + 1
      loops := { start := q.pc + 1, last := q.pc + last.setWidth 32, remaining := count } :: q.loops } := by
  rw [loopBody, if_neg (by omega), if_neg (by omega)]

theorem loopBody_skips {q : Seq} (last : BitVec 20) (h : q.loops = []) :
    loopBody q 0 last = some { q with pc := q.pc + last.setWidth 32 + 1 } := by
  rw [loopBody, if_neg (by rw [h]; decide), if_pos rfl, h]

section
variable {k : BitVec 8} {count : Seq → Nat} {last : BitVec 20} {s : State} {c : CoreTask} (he : s.Enters (anySeq k) c)
include he

theorem loopWord_none (h : loopBody (c.seq s.cur.q) (count (c.seq s.cur.q)) last = none) :
    loopWord k count last s = .next (s.trapped c (trapOf .loopDepth)) := by
  unfold loopWord
  refine runLocal_trap he ?_
  dsimp only
  rw [h]

theorem loopWord_some {q' : Seq} (h : loopBody (c.seq s.cur.q) (count (c.seq s.cur.q)) last = some q') :
    loopWord k count last s = .next (s.jumped (c.setSeq s.cur.q q')) := by
  unfold loopWord
  refine runLocal_jump he ?_
  dsimp only
  rw [h]

/-- LOOP, whatever its count is read from. -/
theorem loopWord_enters :
    let q := c.seq s.cur.q
    (4 ≤ q.loops.length → loopWord k count last s = .next (s.trapped c (trapOf .loopDepth))) ∧
    (q.loops.length < 4 → 0 < count q → loopWord k count last s = .next (s.jumped (c.setSeq s.cur.q { q with
      pc := q.pc + 1,
      loops := { start := q.pc + 1, last := q.pc + last.setWidth 32, remaining := count q } :: q.loops }))) ∧
    (q.loops = [] → count q = 0 →
      loopWord k count last s = .next (s.jumped (c.setSeq s.cur.q { q with pc := q.pc + last.setWidth 32 + 1 }))) :=
  ⟨fun h => loopWord_none he (loopBody_deep _ last h), fun h hc => loopWord_some he (loopBody_opens last h hc),
    fun h hc => loopWord_some he (by rw [hc]; exact loopBody_skips last h)⟩

end

/-! ### JTBL (R100) -/

/-- The word is an LPAD with this label exactly when it decodes to one. -/
theorem isLpad_iff (w : Word80) (label : Nat) :
    isLpad w label = true ↔ ∃ k l, decodeWord w = some (.lpad k l) ∧ l.toNat = label := by
  unfold isLpad
  split
  · next k l h =>
    rw [decide_eq_true_eq]
    exact ⟨fun hl => ⟨k, l, h, hl⟩, fun ⟨k', l', h', hl⟩ => by rw [h] at h'; cases h'; exact hl⟩
  · next hn => exact ⟨fun h => absurd h Bool.false_ne_true, fun ⟨k, l, h, _⟩ => absurd h (hn k l)⟩

/-- What JTBL answers of its table register, its index and its task. -/
def jtblBody (s : State) (c : CoreTask) (t : Task) (jt : Word) (i : Nat) : Res CoreTask :=
  let place := jt.toNat % 2 ^ 32 + i
  let e := (s.codeWord t place).toNat
  if jt.toNat / 2 ^ 32 % 2 ^ 16 ≤ i then .trap (trapOf .jtblBound)
  else if t.image.holds .c place = false ∨ 2 ^ 32 ≤ e then .trap (trapOf .illegalField)
  else if t.image.holds .c e = false ∨ isLpad (s.codeWord t e) (jt.toNat / 2 ^ 48) = false then .trap (trapOf .lpadMismatch)
  else .jump (c.setSeq .c (c.seqC.branch (BitVec.ofNat 32 e)))

theorem exec_jtbl_enters {k : BitVec 8} {a : GReg} {n : Fin 4} {s : State} {c : CoreTask} {t : Task}
    (he : s.Enters (cOnly k) c) (ht : s.task? s.cur.slot = some t) : exec (.jtbl k a n) s =
      match jtblBody s c t (Tab.get 0 c.jt n.val) (c.seqC.rd a).toNat with
      | .done c' wr => .next (s.passed (cOnly k) c' wr)
      | .jump c' => .next (s.jumped c')
      | .wait c' k => .next (s.waitCt s.cur c' k)
      | .trap t => .next (s.trapped c t) := by
  have hdiv : ∀ e : Nat, e / 2 ^ 32 ≠ 0 ↔ 2 ^ 32 ≤ e := fun e => by omega
  have hlab : ∀ v : Word, v.toNat / 2 ^ 48 % 2 ^ 16 = v.toNat / 2 ^ 48 := fun v => Nat.mod_eq_of_lt (by omega)
  rw [exec_jtbl, execJtbl, runLocal_go he]
  simp only [ht, fieldOf_eq _ _ (show 16 ≤ 64 by decide), fieldOf_eq _ _ (show 32 ≤ 64 by decide), pow_zero, Nat.div_one,
    Bool.or_eq_true, Bool.not_eq_true', decide_eq_true_eq, hdiv, hlab] <;> rfl

end Sys2Proof.Machine

namespace Sys2Proof.Proofs

open Sys2Proof.Machine

/-- Settles O17: where a sequencer goes behind a word, what LOOP opens, and JTBL's checks in their order. -/
theorem loopsAndJumpTables : Obligations.LoopsAndJumpTables := by
  refine ⟨⟨fun k l s c => ⟨fun he => ?_, fun he => ?_⟩, fun u s c he hd => ?_⟩, fun k a n last s c he i count hi => ?_,
    fun k a n s c t he ht => ?_⟩
  · rw [exec_nop, execNop]
    exact runLocal_done he rfl
  · rw [exec_lpad, execLpad]
    exact runLocal_done he rfl
  · rw [passed_none s c hd]
    refine ⟨_, State.ct_withCur he _, State.onlyCur_putCt .., CoreTask.onlySeq_updSeq .., fun e es => ?_⟩
    rw [CoreTask.seq_updSeq]
    exact ⟨Seq.advance_outside, Seq.advance_inside, Seq.advance_again, Seq.advance_leave⟩
  · obtain ⟨rfl, rfl⟩ | ⟨rfl, rfl⟩ := hi
    · exact loopWord_enters (count := fun q => (q.rd a).toNat) he
    · exact loopWord_enters (count := fun _ => n.toNat) he
  · dsimp only
    rw [exec_jtbl_enters he ht]
    unfold jtblBody
    dsimp only
    refine ⟨fun hb => by rw [if_pos hb], fun hb h => by rw [if_neg (Nat.not_le.mpr hb), if_pos h], fun hb hp hlt h => ?_,
      fun k' l hb hp hlt hh hd hl => ?_⟩
    · have hno : ¬(t.image.holds .c _ = false ∨ 2 ^ 32 ≤ _) := not_or.mpr ⟨by rw [hp]; decide, Nat.not_le.mpr hlt⟩
      rw [if_neg (Nat.not_le.mpr hb), if_neg hno, if_pos]
      refine h.imp_right fun h => Bool.eq_false_iff.mpr fun hl => ?_
      obtain ⟨k', l, hd, hl⟩ := (isLpad_iff _ _).mp hl
      exact h k' l hd hl
    · have hno : ¬(t.image.holds .c _ = false ∨ 2 ^ 32 ≤ _) := not_or.mpr ⟨by rw [hp]; decide, Nat.not_le.mpr hlt⟩
      rw [if_neg (Nat.not_le.mpr hb), if_neg hno, if_neg]
      rw [hh, (isLpad_iff _ _).mpr ⟨k', l, hd, hl⟩]
      decide

end Sys2Proof.Proofs
end

section
/-! Tokens, group boundaries and YIELD (R114, R271, R343, R375, R376, R399). -/

namespace Sys2Proof.Machine

/-! ### Tokens (R375, R376) -/

/-- A token word as its sequencer uses it: it names another one (R375). -/
def useToken (k : BitVec 8) (seq q : SeqId) : WordUse := { anySeq k with legal := decide (q ≠ seq) }

theorem tokenOk_iff (n : Word) : tokenOk n = true ↔ 1 ≤ n.toNat ∧ n.toNat ≤ 255 := by
  rw [tokenOk, Bool.and_eq_true, decide_eq_true_eq, decide_eq_true_eq, Nat.one_le_iff_ne_zero]

theorem token_fieldFault {k : BitVec 8} {s : State} (n : Operand 8) (hi : (s.canIssue s.cur).isSome = true) :
    FieldFault (.tksig k s.cur.q n) s ∧ FieldFault (.tkwait k s.cur.q n) s := by
  have he : enter (useToken k s.cur.q s.cur.q) s = .stop (s.raise s.cur (trapOf .illegalField)) :=
    enter_illegal hi (by cases s.cur.q <;> rfl) (decide_eq_false (not_not.mpr rfl))
  rw [useToken] at he
  rw [FieldFault, FieldFault, exec_tksig, execTksig, exec_tkwait, execTkwait, runGlobal, runLocal, he]
  exact ⟨rfl, rfl⟩

section
variable {k : BitVec 8} {seq : SeqId} {n : Operand 8} {s s1 : State} {c c1 : CoreTask} (h : s.Enters (useToken k seq s.cur.q) c)
include h

theorem token_illegal (hv : (operandValue (c.seq s.cur.q) n).toNat = 0 ∨ 255 < (operandValue (c.seq s.cur.q) n).toNat) :
    exec (.tksig k seq n) s = .next (s.trapped c (trapOf .illegalField)) ∧
      exec (.tkwait k seq n) s = .next (s.trapped c (trapOf .illegalField)) := by
  have hbad : (!tokenOk (operandValue (c.seq s.cur.q) n)) = true := by
    rw [Bool.not_eq_true', Bool.eq_false_iff, ne_eq, tokenOk_iff]
    omega
  rw [exec_tksig, execTksig, exec_tkwait, execTkwait]
  refine ⟨runGlobal_trap h ?_, runLocal_trap h (if_pos hbad)⟩
  rw [State.withCur_cur]
  exact if_pos hbad

variable (h1 : 1 ≤ (operandValue (c.seq s.cur.q) n).toNat) (h2 : (operandValue (c.seq s.cur.q) n).toNat ≤ 255)
include h1 h2

/-- A legal TKSIG is a release, and then the signal. -/
theorem exec_tksig_legal : exec (.tksig k seq n) s = runGlobal (useToken k seq s.cur.q) (fun s' _ => afterRelease .core s'
    (fun s' c' =>
      let key := tokenKey s'.cur.q seq
      let o := c'.token key
      if 255 < o.n + (operandValue (c.seq s.cur.q) n).toNat then .wait s' .plain
      else doneCt s' ((c'.updSeq s'.cur.q Seq.release).setToken key
        { n := o.n + (operandValue (c.seq s.cur.q) n).toNat, st := stMax o.st ((c'.seq s'.cur.q).stamp + 1) }))) s := by
  have hok : ¬(!tokenOk (operandValue (c.seq s.cur.q) n)) = true := by
    rw [(tokenOk_iff _).mpr ⟨h1, h2⟩]
    decide
  rw [exec_tksig, execTksig]
  refine runGlobal_congr h ?_
  rw [State.withCur_cur]
  refine (if_neg hok).trans ?_
  congr 1
  funext s' c'
  simp only [CoreTask.seq_updSeq]
  rfl

theorem exec_tksig_waits (hr : (s.withCur c).testRelease s.cur .core = .wait s1) :
    exec (.tksig k seq n) s = .next (s.waitsIn s1 .plain) := by
  rw [exec_tksig_legal h h1 h2]
  exact runGlobal_wait h (afterRelease_wait (by rw [State.withCur_cur]; exact hr))

section
variable (hr : (s.withCur c).testRelease s.cur .core = .ready s1) (hc : s1.ct? s.cur.slot s.cur.rank = some c1)
include hr hc

theorem exec_tksig_full (hf : 255 < (c1.token (tokenKey s.cur.q seq)).n + (operandValue (c.seq s.cur.q) n).toNat) :
    exec (.tksig k seq n) s = .next (s.waitsIn s1 .plain) := by
  have hcur : s1.cur = s.cur := (State.testRelease_cur hr).trans (State.withCur_cur ..)
  rw [exec_tksig_legal h h1 h2]
  refine runGlobal_wait h ((afterRelease_ready (by rw [State.withCur_cur]; exact hr) (by rw [State.withCur_cur]; exact hc)).trans ?_)
  dsimp only
  rw [hcur, if_pos hf]

theorem exec_tksig_signals (hf : (c1.token (tokenKey s.cur.q seq)).n + (operandValue (c.seq s.cur.q) n).toNat ≤ 255) :
    exec (.tksig k seq n) s = .next ((s1.putCt s.cur.slot s.cur.rank ((c1.updSeq s.cur.q Seq.release).setToken
      (tokenKey s.cur.q seq) { n := (c1.token (tokenKey s.cur.q seq)).n + (operandValue (c.seq s.cur.q) n).toNat,
                               st := stMax (c1.token (tokenKey s.cur.q seq)).st ((c1.seq s.cur.q).stamp + 1) })).goesOn s.cur
        (useToken k seq s.cur.q) none) := by
  have hcur : s1.cur = s.cur := (State.testRelease_cur hr).trans (State.withCur_cur ..)
  rw [exec_tksig_legal h h1 h2]
  refine runGlobal_doneCt h ((afterRelease_ready (by rw [State.withCur_cur]; exact hr)
    (by rw [State.withCur_cur]; exact hc)).trans ?_) hcur
  dsimp only
  rw [hcur, if_neg (Nat.not_lt.mpr hf)]

end

/-- A legal TKWAIT takes its tokens as an acquire, or waits. -/
theorem exec_tkwait_legal :
    ((c.token (tokenKey seq s.cur.q)).n < (operandValue (c.seq s.cur.q) n).toNat →
      exec (.tkwait k seq n) s = .next (s.waitCt s.cur c .plain)) ∧
    ((operandValue (c.seq s.cur.q) n).toNat ≤ (c.token (tokenKey seq s.cur.q)).n →
      exec (.tkwait k seq n) s = .next (s.passed (useToken k seq s.cur.q)
        ((c.setToken (tokenKey seq s.cur.q) { c.token (tokenKey seq s.cur.q) with
          n := (c.token (tokenKey seq s.cur.q)).n - (operandValue (c.seq s.cur.q) n).toNat }).updSeq s.cur.q
            (·.acquire (c.token (tokenKey seq s.cur.q)).st)) none)) := by
  have hok : ¬(!tokenOk (operandValue (c.seq s.cur.q) n)) = true := by
    rw [(tokenOk_iff _).mpr ⟨h1, h2⟩]
    decide
  rw [exec_tkwait, execTkwait]
  exact ⟨fun hlt => runLocal_wait h ((if_neg hok).trans (if_pos hlt)),
    fun hle => runLocal_done h ((if_neg hok).trans (if_neg (Nat.not_lt.mpr hle)))⟩

end

/-! ### Group boundaries (R271, R343) -/

theorem State.withCur_withCur (s : State) (c c' : CoreTask) :
    (s.withCur c).withCur c' = (s.withCur c).putCt s.cur.slot s.cur.rank c' := by
  rw [State.withCur.eq_1 (s.withCur c), State.withCur_cur]

theorem CoreTask.boundary_iff (c : CoreTask) (q : SeqId) (faulted : Bool) : c.boundary q faulted = true ↔
    ∀ p, p ≠ q → (c.seq p).status = .idle ∨ (c.seq p).status = .exited ∨
      ((c.seq p).status = .running ∧ faulted = false ∧ (c.seq p).wait.map (·.kind) = some .grpend) := by
  have hmem : ∀ p : SeqId, p ∈ allSeqs := fun p => by cases p <;> decide
  simp only [CoreTask.boundary, List.all_eq_true, Bool.or_eq_true, Bool.and_eq_true, decide_eq_true_eq, Bool.not_eq_true',
    hmem, true_implies]
  refine forall_congr' fun p => ?_
  generalize (c.seq p).wait = w
  rcases w with - | ⟨k, -, -⟩
  · simp
    tauto
  · cases k <;> simp <;> tauto

section
variable {k : BitVec 8} {s : State} {c : CoreTask} {t : Task} (h : s.Enters (anySeq k) c)
include h

theorem exec_grpend_waits (hb : c.boundary s.cur.q (s.withCur c).gangFaulted = false) :
    exec (.grpend k) s = .next (s.waitsIn (s.withCur c) .grpend) := by
  rw [exec_grpend, execGrpend]
  refine runGlobal_wait h ?_
  rw [State.withCur_cur, hb]
  rfl

variable (ht : (s.withCur c).task? s.cur.slot = some t) (hb : c.boundary s.cur.q (s.withCur c).gangFaulted = true)
include ht hb

theorem exec_grpend_passes (hm : c.migPend = false) : exec (.grpend k) s =
    .next (((s.withCur c).withCur (c.passBoundary s.cur.q)).goesOn s.cur (anySeq k) none) := by
  rw [exec_grpend, execGrpend]
  refine runGlobal_done h ?_
  simp only [State.withCur_cur, hb, ht]
  refine (if_neg (by decide)).trans ((if_neg (by rw [hm]; decide)).trans ?_)
  rw [State.withCur_withCur, doneCt, State.withCur_cur]

/-- With a migration pending a boundary moves the core-task first. -/
theorem exec_grpend_moves (hm : c.migPend = true) : exec (.grpend k) s = runGlobal (anySeq k) (fun _ _ =>
    grpendMove ((s.withCur c).withCur { c with persistent := true }) t { c with persistent := true }) s := by
  rw [exec_grpend, execGrpend]
  refine runGlobal_congr h ?_
  simp only [State.withCur_cur, hb, ht]
  refine (if_neg (by decide)).trans ((if_pos hm).trans ?_)
  rw [State.withCur_withCur]

end

section
variable {s : State} {t : Task} {c : CoreTask}

theorem grpendMove_none (hc : s.coolCore t c.core = none) :
    grpendMove s t c = .done (s.withCur (c.passBoundary s.cur.q)) none := by
  rw [grpendMove, hc]
  rfl

theorem grpendMove_unfit {core : Nat} (hc : s.coolCore t c.core = some core) (hf : s.levelFits c.core core c.pwrlvl = false) :
    grpendMove s t c = .wait s .grpend := by
  rw [grpendMove, hc]
  dsimp only
  rw [hf]
  rfl

theorem grpendMove_moved {core : Nat} {s2 : State} {t2 : Task} {c2 c3 : CoreTask} (hc : s.coolCore t c.core = some core)
    (hf : s.levelFits c.core core c.pwrlvl = true) (hd : s.drainCt s.cur.slot s.cur.rank true = (s2, []))
    (ht : s2.task? s.cur.slot = some t2) (h2 : s2.ct? s.cur.slot s.cur.rank = some c2) (hn : c2.notes = [])
    (hq : t2.conds = []) (h3 : (s2.moveCt s.cur.slot s.cur.rank c.core core).ct? s.cur.slot s.cur.rank = some c3) :
    grpendMove s t c = .done ((s2.moveCt s.cur.slot s.cur.rank c.core core).putCt s.cur.slot s.cur.rank
      (c3.passBoundary s.cur.q)) none := by
  rw [grpendMove, hc]
  dsimp only
  rw [hf, hd]
  simp only [List.foldl_nil, ht, h2, hn, hq, h3]
  rfl

end

/-! ### YIELD (R399) -/

section
variable {k : BitVec 8} {s : State} {c : CoreTask} {t : Task} (h : s.Enters (cOnly k) c)
  (ht : (s.withCur c).task? s.cur.slot = some t)
include h ht

theorem exec_yield_goesOn (hy : t.faulted = true ∨ (s.withCur c).yieldsTo t = false) :
    exec (.yield k) s = .next ((s.withCur c).goesOn s.cur (cOnly k) none) := by
  have hno : ¬(!t.faulted && (s.withCur c).yieldsTo t) = true := by
    rcases hy with hy | hy <;> simp [hy]
  rw [exec_yield, execYield]
  refine runGlobal_done h ?_
  simp only [State.withCur_cur, ht]
  exact if_neg hno

theorem exec_yield_gives (hf : t.faulted = false) (hy : (s.withCur c).yieldsTo t = true) :
    exec (.yield k) s = .next ({ ((s.withCur c).withCur (c.updSeq .c Seq.advance)).updTask s.cur.slot
      (fun t => { t with place := s.fresh }) with fresh := s.fresh + 1 }.stopGang s.cur.slot [] true) := by
  have hyes : (!t.faulted && (s.withCur c).yieldsTo t) = true := by rw [hf, hy]; rfl
  have hfresh : (s.withCur c).fresh = s.fresh := State.putCt_fresh ..
  rw [exec_yield, execYield]
  refine runGlobal_jump h ?_
  simp only [State.withCur_cur, ht, hfresh]
  refine (if_pos hyes).trans ?_
  rw [State.withCur_withCur]

end

end Sys2Proof.Machine

namespace Sys2Proof.Proofs

open Sys2Proof.Machine

/-- Settles O19: each word's checks, its release and its waits, answer by answer. -/
theorem tokensAndBoundaries : Obligations.TokensAndBoundaries := by
  refine ⟨⟨fun k n s hi => token_fieldFault n hi, fun k seq n s s1 c c1 => ?_, CoreTask.token_setToken⟩, fun k s c t h ht => ?_,
    CoreTask.boundary_iff, fun k s c t h ht => ⟨exec_yield_goesOn h ht, exec_yield_gives h ht⟩⟩
  · intro u h v
    exact ⟨token_illegal h, fun h1 h2 => ⟨exec_tksig_waits h h1 h2, fun hr hc =>
      ⟨exec_tksig_full h h1 h2 hr hc, exec_tksig_signals h h1 h2 hr hc⟩, exec_tkwait_legal h h1 h2⟩⟩
  · intro held s1
    have hcur : s1.cur = s.cur := (State.withCur_cur ..).trans (State.withCur_cur ..)
    refine ⟨exec_grpend_waits h, fun hb => ⟨exec_grpend_passes h ht hb, fun hm hc => ?_, fun core hm hc => ⟨fun hf => ?_,
      fun s2 t2 c2 c3 hf hd ht2 h2 hn hq h3 => ?_⟩⟩⟩
    · rw [exec_grpend_moves h ht hb hm]
      have hmove := grpendMove_none (c := held) hc
      rw [hcur] at hmove
      exact runGlobal_done h hmove
    · rw [exec_grpend_moves h ht hb hm]
      exact runGlobal_wait h (grpendMove_unfit (c := held) hc hf)
    · rw [exec_grpend_moves h ht hb hm]
      rw [← hcur] at hd ht2 h2 h3
      have hmove := grpendMove_moved (c := held) hc hf hd ht2 h2 hn hq h3
      rw [hcur] at hmove
      exact runGlobal_done h hmove

end Sys2Proof.Proofs
end

section
/-! Semaphores and transfer barriers (R115, R116, R202, R326 to R328, R364, R365). -/

namespace Sys2Proof.Machine

/-! ### Fields and amounts (R364) -/

theorem amountOk_iff (n : Nat) : amountOk n = true ↔ 1 ≤ n ∧ n ≤ 65535 := by
  simp only [amountOk, Bool.and_eq_true, decide_eq_true_eq]

section
variable {k sem : BitVec 8} {field : Bool} {amt : Seq → Nat} {s : State}

/-- A semaphore word of a field that it may not name faults at decode. -/
theorem semWord_fieldFault (hi : (s.canIssue s.cur).isSome = true) (hf : (decide (sem ≠ 0) && field) = false) :
    semSignal k sem field amt s = .next (s.raise s.cur (trapOf .illegalField)) ∧
      semWait k sem field amt s = .next (s.raise s.cur (trapOf .illegalField)) := by
  have he : enter { anySeq k with legal := decide (sem ≠ 0) && field } s =
      .stop (s.raise s.cur (trapOf .illegalField)) := enter_illegal hi (by cases s.cur.q <;> rfl) hf
  rw [semSignal, semWait, runGlobal, runLocal, he]
  exact ⟨rfl, rfl⟩

theorem semget_fieldFault {d : GReg} (hi : (s.canIssue s.cur).isSome = true) (hq : s.cur.q = .c) :
    FieldFault (.semget k d 0) s := by
  have he : enter { perm := [.c], legal := decide ((0 : BitVec 8) ≠ 0), cons := k, dst := gDst d } s =
      .stop (s.raise s.cur (trapOf .illegalField)) := enter_illegal hi (by rw [hq]; rfl) rfl
  rw [FieldFault, exec_semget, execSemget, runLocal, he]

end

/-! ### The waiters of a semaphore (R115) -/

theorem sortBy_eq_nil {α : Type} {le : α → α → Bool} {l : List α} (h : sortBy le l = []) : l = [] := by
  rw [List.eq_nil_iff_forall_not_mem] at h ⊢
  exact fun x hx => h x ((mem_sortBy le x l).mpr hx)

theorem CoreTask.serveList_cons (c : CoreTask) (n ord who v : Nat) (ws : List (Nat × Nat × Nat)) :
    ((c.sem n).n < v → c.serveList n ((ord, who, v) :: ws) = c.serveList n ws) ∧
    (v ≤ (c.sem n).n → c.serveList n ((ord, who, v) :: ws) =
      (CoreTask.serve (c.setSem n { c.sem n with n := (c.sem n).n - v }) who (c.sem n).st).serveList n ws) :=
  ⟨fun h => if_neg (Nat.not_le.mpr h), fun h => if_pos h⟩

/-- How a sequencer stands in the list of the waiters of semaphore `n`. -/
def Seq.semEntry (sq : Seq) (q : SeqId) (n : Nat) : Option (Nat × Nat × Nat) :=
  match sq.wait with
  | some { kind := .sem m amt false, ord := o, .. } => if m = n then some (o, seqNum q, amt) else none
  | _ => none

/-- The engines in that list: the matrix queue and the copy queue. -/
def CoreTask.engineWaiters (c : CoreTask) (n : Nat) (wsem : MxCmd → Nat) (cwsem : CopyCmd → Nat) : List (Nat × Nat × Nat) :=
  (match c.mxHead, c.mxq with
    | .waiting o, cmd :: _ => if wsem cmd = n then [(o, 4, 1)] else []
    | _, _ => []) ++
  (match c.cpHead, c.cpq with
    | .waiting o, cmd :: _ => if cwsem cmd = n then [(o, 5, 1)] else []
    | _, _ => [])

theorem CoreTask.semWaiters_eq (c : CoreTask) (n : Nat) (wsem : MxCmd → Nat) (cwsem : CopyCmd → Nat) :
    c.semWaiters n wsem cwsem = sortBy (fun a b => decide (a.1 ≤ b.1))
      (allSeqs.filterMap (fun q => (c.seq q).semEntry q n) ++ c.engineWaiters n wsem cwsem) := by
  rw [CoreTask.engineWaiters, ← List.append_assoc]
  rfl

theorem CoreTask.engineWaiters_setSeq (c : CoreTask) (q : SeqId) (v : Seq) (n : Nat) (wsem : MxCmd → Nat)
    (cwsem : CopyCmd → Nat) : (c.setSeq q v).engineWaiters n wsem cwsem = c.engineWaiters n wsem cwsem := by
  cases q <;> rfl

theorem filterMap_allSeqs_one {α : Type} {f : SeqId → Option α} {q : SeqId} {a : α} (hq : f q = some a)
    (ho : ∀ p, p ≠ q → f p = none) : allSeqs.filterMap f = [a] := by
  cases q <;> simp [allSeqs, hq, ho]

/-- The one waiter of a semaphore at which nobody stood before sequencer `q` came. -/
theorem CoreTask.semWaiters_setSeq {c : CoreTask} {n : Nat} {wsem : MxCmd → Nat} {cwsem : CopyCmd → Nat} (q : SeqId)
    {sq : Seq} {since ord amt : Nat} (h : c.semWaiters n wsem cwsem = [])
    (hw : sq.wait = some ⟨.sem n amt false, since, ord⟩) :
    (c.setSeq q sq).semWaiters n wsem cwsem = [(ord, seqNum q, amt)] := by
  obtain ⟨hseqs, hengines⟩ := List.append_eq_nil_iff.mp (sortBy_eq_nil ((c.semWaiters_eq ..).symm.trans h))
  have hnone : ∀ p, (c.seq p).semEntry p n = none :=
    fun p => List.filterMap_eq_nil_iff.mp hseqs p (by cases p <;> decide)
  have hself : sq.semEntry q n = some (ord, seqNum q, amt) := by
    rw [Seq.semEntry, hw]
    exact if_pos rfl
  have hlist : allSeqs.filterMap (fun p => ((c.setSeq q sq).seq p).semEntry p n) = [(ord, seqNum q, amt)] :=
    filterMap_allSeqs_one (by rw [CoreTask.seq_setSeq, hself]) (fun p hp => by rw [CoreTask.seq_setSeq_ne _ _ hp, hnone])
  rw [CoreTask.semWaiters_eq, hlist, CoreTask.engineWaiters_setSeq, hengines]
  rfl

/-! ### A sequencer comes to a semaphore -/

/-- A sequencer that stood at no semaphore begins to wait. -/
theorem Seq.await_sem {sq : Seq} {n amt now ord : Nat} {served : Bool}
    (h : ∀ w, sq.wait = some w → w.kind.same (.sem n amt served) = false) :
    sq.await (.sem n amt served) now ord = { sq with wait := some ⟨.sem n amt served, now, ord⟩ } := by
  rw [Seq.await]
  cases hw : sq.wait with
  | none => rfl
  | some w =>
    dsimp only
    rw [if_neg (by rw [h w hw]; decide)]

theorem CoreTask.not_semWaits {c : CoreTask} {q : SeqId} (h : c.semWaits q = false) {n amt : Nat} {served : Bool} (w : Wait)
    (hw : (c.seq q).wait = some w) : w.kind.same (.sem n amt served) = false := by
  obtain ⟨kind, since, ord⟩ := w
  cases kind with
  | sem m a b => simp [CoreTask.semWaits, CoreTask.waitOf, hw] at h
  | _ => rfl

theorem Seq.await_await (sq : Seq) (n amt now ord now' ord' : Nat) (served : Bool) :
    (sq.await (.sem n amt served) now ord).await (.sem n amt served) now' ord' = sq.await (.sem n amt served) now ord := by
  obtain ⟨w, hw, hk⟩ := Option.map_eq_some_iff.mp (sq.await_kind (.sem n amt served) now ord)
  rw [Seq.await, hw]
  obtain ⟨kind, since, o⟩ := w
  obtain rfl : kind = .sem n amt served := hk
  refine (if_pos rfl).trans ?_
  rw [← hw]

/-- A sequencer that stands at semaphore `n` for `amt` is served there. -/
theorem CoreTask.serve_seq {c : CoreTask} {q : SeqId} {n amt since ord : Nat} {served : Bool} (st : Stamp)
    (hw : (c.seq q).wait = some ⟨.sem n amt served, since, ord⟩) : c.serve (seqNum q) st =
      c.updSeq q (fun sq => { sq.acquire st with wait := some ⟨.sem n amt true, since, ord⟩ }) := by
  have hq : allSeqs[seqNum q]? = some q := by cases q <;> rfl
  have hm : seqNum q ≠ 4 ∧ seqNum q ≠ 5 := by cases q <;> decide
  rw [CoreTask.serve, if_neg hm.1, if_neg hm.2, hq]
  dsimp only
  rw [CoreTask.updSeq, hw]
  rfl

theorem CoreTask.semWaits_of_served {c : CoreTask} {q : SeqId} (h : c.semServed q = true) : c.semWaits q = true := by
  rw [CoreTask.semServed] at h
  rw [CoreTask.semWaits]
  split at h
  · rfl
  · exact absurd h (by decide)

/-- What a sequencer waited for is gone when its word passes. -/
theorem State.passed_wait (s : State) (k : BitVec 8) (c : CoreTask) (f : Seq → Seq) (w : Option Wait) :
    s.passed (anySeq k) (c.updSeq s.cur.q (fun sq => { f sq with wait := w })) none =
      s.passed (anySeq k) (c.updSeq s.cur.q f) none := by
  simp only [State.passed, anySeq, CoreTask.finish, CoreTask.updSeq_updSeq]
  rfl

section
variable {c : CoreTask} {q : SeqId} {n amt now ord : Nat} (hw : c.semWaits q = false)
  (he : c.semWaiters n (fun m => (engineSems m.i).1) (fun m => (engineSems m.i).1) = [])
include hw he

/-- The core-task in which the sequencer has come to the semaphore, as its waiters are tested. -/
theorem CoreTask.serveSem_comes : (c.updSeq q (fun sq => sq.await (.sem n amt false) now ord)).serveSem n =
    { (c.updSeq q (fun sq => sq.await (.sem n amt false) now ord)).serveList n [(ord, seqNum q, amt)] with
      due := c.due.filter (· ≠ n) } := by
  have hwait := Seq.await_sem (now := now) (ord := ord) (CoreTask.not_semWaits hw (n := n) (amt := amt) (served := false))
  have hwaiters := CoreTask.semWaiters_setSeq q he (congrArg Seq.wait hwait)
  rw [CoreTask.serveSem, CoreTask.updSeq, hwaiters]
  cases q <;> rfl

theorem CoreTask.serveSem_short (hlt : (c.sem n).n < amt) :
    (c.updSeq q (fun sq => sq.await (.sem n amt false) now ord)).serveSem n =
      { c with due := c.due.filter (· ≠ n) }.updSeq q (fun sq => sq.await (.sem n amt false) now ord) := by
  have hsem : ∀ f, (c.updSeq q f).sem n = c.sem n := fun f => by cases q <;> rfl
  rw [CoreTask.serveSem_comes hw he, (CoreTask.serveList_cons ..).1 (by rw [hsem]; exact hlt)]
  cases q <;> rfl

theorem CoreTask.serveSem_enough (hle : amt ≤ (c.sem n).n) :
    (c.updSeq q (fun sq => sq.await (.sem n amt false) now ord)).serveSem n =
      ({ c with due := c.due.filter (· ≠ n) }.setSem n { c.sem n with n := (c.sem n).n - amt }).updSeq q
        (fun sq => { sq.acquire (c.sem n).st with wait := some ⟨.sem n amt true, now, ord⟩ }) := by
  have hsem : ∀ f, (c.updSeq q f).sem n = c.sem n := fun f => by cases q <;> rfl
  have hwait := Seq.await_sem (now := now) (ord := ord) (CoreTask.not_semWaits hw (n := n) (amt := amt) (served := false))
  have hcomes : c.updSeq q (fun sq => sq.await (.sem n amt false) now ord) =
      c.updSeq q (fun sq => { sq with wait := some ⟨.sem n amt false, now, ord⟩ }) := congrArg (c.setSeq q) hwait
  have hstands : (((c.updSeq q (fun sq => { sq with wait := some ⟨.sem n amt false, now, ord⟩ })).setSem n
      { c.sem n with n := (c.sem n).n - amt }).seq q).wait = some ⟨.sem n amt false, now, ord⟩ := by cases q <;> rfl
  rw [CoreTask.serveSem_comes hw he, (CoreTask.serveList_cons ..).2 (by rw [hsem]; exact hle), hsem, hcomes,
    CoreTask.serve_seq _ hstands]
  cases q <;> rfl

end

/-! ### Signals (R365) -/

/-- A signal of a semaphore is refused exactly above 65,535; else it is applied, and the waiters are tested, in this
cycle's last signal. -/
theorem CoreTask.signal_cases (c : CoreTask) (n v : Nat) (st : Stamp) (shared : Bool) :
    let o := c.sem n
    let c1 := c.setSem n { n := o.n + v, st := stMax o.st st }
    (c.signal n v st shared = none ↔ 65535 < o.n + v) ∧
    (o.n + v ≤ 65535 → c.signal n v st true = some { c1 with due := n :: c.due.filter (· ≠ n) } ∧
      c.signal n v st false = some { c1.serveList n
        (c.semWaiters n (fun m => (engineSems m.i).1) (fun m => (engineSems m.i).1)) with
          due := c.due.filter (· ≠ n) }) := by
  intro o c1
  refine ⟨?_, fun h => ⟨(if_neg (Nat.not_lt.mpr h)), (if_neg (Nat.not_lt.mpr h))⟩⟩
  rw [CoreTask.signal_eq]
  by_cases h : 65535 < (c.sem n).n + v
  · rw [if_pos h]
    exact iff_of_true rfl h
  · rw [if_neg h]
    exact iff_of_false (by simp) h

section
variable {k sem : BitVec 8} {field : Bool} {amt : Seq → Nat} {s s1 : State} {c c1 : CoreTask}
  (h : s.Enters (anySeq k) c) (hf : (decide (sem ≠ 0) && field) = true)
include h hf

/-- The use of a legal semaphore word is that of any sequencer's word. -/
theorem semWord_enters : s.Enters { anySeq k with legal := decide (sem ≠ 0) && field } c := by
  rw [hf]
  exact h

theorem semWord_illegal (hv : ¬(1 ≤ amt (c.seq s.cur.q) ∧ amt (c.seq s.cur.q) ≤ 65535)) :
    semSignal k sem field amt s = .next (s.trapped c (trapOf .illegalField)) ∧
      semWait k sem field amt s = .next (s.trapped c (trapOf .illegalField)) := by
  rw [← amountOk_iff] at hv
  refine ⟨runGlobal_trap (semWord_enters h hf) ?_, runLocal_trap (semWord_enters h hf) (if_pos hv)⟩
  rw [State.withCur_cur]
  exact if_pos hv

section
variable (hv : 1 ≤ amt (c.seq s.cur.q) ∧ amt (c.seq s.cur.q) ≤ 65535)
include hv

/-- SEMSIG of a legal amount is a release, and then the signal. -/
theorem semSignal_legal : semSignal k sem field amt s = runGlobal (anySeq k) (fun s' _ => afterRelease .core s'
    (fun s' c' => match (c'.updSeq s'.cur.q Seq.release).signal sem.toNat (amt (c.seq s.cur.q))
        ((c'.seq s'.cur.q).stamp + 1) (Config.sameCycle s'.tick) with
      | some c2 => doneCt s' c2
      | none => .trap (trapOf .semOverflow))) s := by
  have hok : ¬¬amountOk (amt (c.seq s.cur.q)) := not_not.mpr ((amountOk_iff _).mpr hv)
  rw [semSignal, hf]
  refine runGlobal_congr h ?_
  rw [State.withCur_cur]
  refine (if_neg hok).trans ?_
  simp only [CoreTask.seq_updSeq]
  rfl

theorem semSignal_waits (hr : (s.withCur c).testRelease s.cur .core = .wait s1) :
    semSignal k sem field amt s = .next (s.waitsIn s1 .plain) := by
  rw [semSignal_legal h hf hv]
  exact runGlobal_wait h (afterRelease_wait (by rw [State.withCur_cur]; exact hr))

section
variable (hr : (s.withCur c).testRelease s.cur .core = .ready s1) (hc : s1.ct? s.cur.slot s.cur.rank = some c1)
include hr hc

theorem semSignal_overflows (hs : (c1.updSeq s.cur.q Seq.release).signal sem.toNat (amt (c.seq s.cur.q))
    ((c1.seq s.cur.q).stamp + 1) (Config.sameCycle s1.tick) = none) :
    semSignal k sem field amt s = .next (s.trapped c (trapOf .semOverflow)) := by
  have hcur : s1.cur = s.cur := (State.testRelease_cur hr).trans (State.withCur_cur ..)
  rw [semSignal_legal h hf hv]
  refine runGlobal_trap h ((afterRelease_ready (by rw [State.withCur_cur]; exact hr)
    (by rw [State.withCur_cur]; exact hc)).trans ?_)
  rw [hcur, hs]

theorem semSignal_signals {c2 : CoreTask} (hs : (c1.updSeq s.cur.q Seq.release).signal sem.toNat (amt (c.seq s.cur.q))
    ((c1.seq s.cur.q).stamp + 1) (Config.sameCycle s1.tick) = some c2) :
    semSignal k sem field amt s = .next (s1.completes s.cur (anySeq k) c2) := by
  have hcur : s1.cur = s.cur := (State.testRelease_cur hr).trans (State.withCur_cur ..)
  rw [semSignal_legal h hf hv]
  refine runGlobal_doneCt h ((afterRelease_ready (by rw [State.withCur_cur]; exact hr)
    (by rw [State.withCur_cur]; exact hc)).trans ?_) hcur
  rw [hcur, hs]

end

/-! ### Waits (R365) -/

theorem semWait_served (hs : c.semServed s.cur.q = true) : semWait k sem field amt s = .next (s.passed (anySeq k) c none) := by
  have hok : ¬¬amountOk (amt (c.seq s.cur.q)) := not_not.mpr ((amountOk_iff _).mpr hv)
  exact runLocal_done (semWord_enters h hf) ((if_neg hok).trans (if_pos hs))

theorem semWait_stands (hw : c.semWaits s.cur.q = true) (hs : c.semServed s.cur.q = false) :
    semWait k sem field amt s = .next (s.waitCt s.cur c (.sem sem.toNat (amt (c.seq s.cur.q)) false)) := by
  have hok : ¬¬amountOk (amt (c.seq s.cur.q)) := not_not.mpr ((amountOk_iff _).mpr hv)
  exact runLocal_wait (semWord_enters h hf) ((if_neg hok).trans ((if_neg (by rw [hs]; decide)).trans (if_pos hw)))

/-- A sequencer that comes to the semaphore goes on when it is served, and else waits. -/
theorem semWait_comes {c1 : CoreTask} (hw : c.semWaits s.cur.q = false) (hc : (c.updSeq s.cur.q (fun sq =>
      sq.await (.sem sem.toNat (amt (c.seq s.cur.q)) false) s.dtime s.fresh)).serveSem sem.toNat = c1) :
    (c1.semServed s.cur.q = true → semWait k sem field amt s = .next (s.passed (anySeq k) c1 none)) ∧
    (c1.semServed s.cur.q = false →
      semWait k sem field amt s = .next (s.waitCt s.cur c1 (.sem sem.toNat (amt (c.seq s.cur.q)) false))) := by
  have hok : ¬¬amountOk (amt (c.seq s.cur.q)) := not_not.mpr ((amountOk_iff _).mpr hv)
  have hnot : ¬c.semWaits s.cur.q = true := by rw [hw]; decide
  have hne : ¬c.semServed s.cur.q = true := fun hs => hnot (CoreTask.semWaits_of_served hs)
  constructor <;> intro hs
  · refine runLocal_done (semWord_enters h hf) ((if_neg hok).trans ((if_neg hne).trans ((if_neg hnot).trans ?_)))
    dsimp only
    rw [hc, if_pos hs]
  · refine runLocal_wait (semWord_enters h hf) ((if_neg hok).trans ((if_neg hne).trans ((if_neg hnot).trans ?_)))
    dsimp only
    rw [hc, if_neg (by rw [hs]; decide)]

variable (hw : c.semWaits s.cur.q = false)
  (he : c.semWaiters sem.toNat (fun m => (engineSems m.i).1) (fun m => (engineSems m.i).1) = [])
include hw he

theorem semWait_short (hlt : (c.sem sem.toNat).n < amt (c.seq s.cur.q)) : semWait k sem field amt s =
    .next (s.waitCt s.cur { c with due := c.due.filter (· ≠ sem.toNat) }
      (.sem sem.toNat (amt (c.seq s.cur.q)) false)) := by
  have hns : (CoreTask.updSeq { c with due := c.due.filter (· ≠ sem.toNat) } s.cur.q (fun sq =>
      sq.await (.sem sem.toNat (amt (c.seq s.cur.q)) false) s.dtime s.fresh)).semServed s.cur.q = false := by
    rw [CoreTask.semServed, CoreTask.waitOf, CoreTask.seq_updSeq, Seq.await_kind]
  refine ((semWait_comes h hf hv hw (CoreTask.serveSem_short hw he hlt)).2 hns).trans ?_
  rw [State.waitCt, State.waitCt, CoreTask.updSeq_updSeq]
  simp only [Seq.await_await]

theorem semWait_enough (hle : amt (c.seq s.cur.q) ≤ (c.sem sem.toNat).n) : semWait k sem field amt s =
    .next (s.passed (anySeq k) (({ c with due := c.due.filter (· ≠ sem.toNat) }.setSem sem.toNat
        { c.sem sem.toNat with n := (c.sem sem.toNat).n - amt (c.seq s.cur.q) }).updSeq s.cur.q
          (·.acquire (c.sem sem.toNat).st)) none) := by
  refine ((semWait_comes h hf hv hw (CoreTask.serveSem_enough hw he hle)).1 ?_).trans ?_
  · rw [CoreTask.semServed, CoreTask.waitOf, CoreTask.seq_updSeq]
    rfl
  · rw [State.passed_wait]

end

end

/-! ### Transfer barriers (R116, R202, R326 to R328) -/

/-- A change of a barrier that no delivery brings (R116). -/
theorem Bar.change_unstamped {b : Bar} {v : Int} (h : ¬(b.count + v < -barLimit ∨ barLimit < b.count + v)) :
    b.change v none = some (if b.count ≠ 0 ∧ b.count + v = 0
      then { count := 0, phase := !b.phase, openSt := none, closedSt := b.openSt } else { b with count := b.count + v }) := by
  obtain ⟨count, phase, openSt, closedSt⟩ := b
  refine (if_neg h).trans ?_
  by_cases hz : count ≠ 0 ∧ count + v = 0
  · rw [if_pos hz, if_pos hz]
    cases openSt <;> rw [hz.2]
  · rw [if_neg hz, if_neg hz]
    cases openSt <;> rfl

section
variable {k : BitVec 8} {bar : Fin 64} {s : State} {c : CoreTask}

theorem execBarexp_cases {n : Operand 34} (h : s.Enters (cOnly k) c) :
    (barAmount c.seqC n < -barLimit ∨ barLimit < barAmount c.seqC n →
      exec (.barexp k bar n) s = .next (s.trapped c (trapOf .illegalField))) ∧
    (-barLimit ≤ barAmount c.seqC n → barAmount c.seqC n ≤ barLimit →
      ((Tab.get Bar.zero c.bars bar.val).change (barAmount c.seqC n) none = none →
        exec (.barexp k bar n) s = .next (s.trapped c (trapOf .barOverflow))) ∧
      ∀ b1, (Tab.get Bar.zero c.bars bar.val).change (barAmount c.seqC n) none = some b1 →
        exec (.barexp k bar n) s =
          .next (s.passed (cOnly k) { c with bars := Tab.set Bar.zero c.bars bar.val b1 } none)) := by
  rw [exec_barexp, execBarexp]
  refine ⟨fun hv => runLocal_trap h (if_pos hv), fun h1 h2 => ?_⟩
  have hv : ¬(barAmount c.seqC n < -barLimit ∨ barLimit < barAmount c.seqC n) := by omega
  refine ⟨fun hb => runLocal_trap h ((if_neg hv).trans ?_), fun b1 hb => runLocal_done h ((if_neg hv).trans ?_)⟩
  · rw [CoreTask.changeBar, hb]
    rfl
  · rw [CoreTask.changeBar, hb]
    rfl

theorem barPhase_imm {q : Seq} (v : BitVec 1) : barPhase q (.imm v) = v.getLsbD 0 := by
  rw [barPhase]
  decide +revert

/-- BARWAIT and BARTEST at a barrier. -/
theorem execBarwait_cases {p : Operand 1} (h : s.Enters (anySeq k) c) :
    ((Tab.get Bar.zero c.bars bar.val).phase ≠ barPhase (c.seq s.cur.q) p →
      exec (.barwait k bar p) s = .next (s.waitCt s.cur c .plain)) ∧
    ((Tab.get Bar.zero c.bars bar.val).phase = barPhase (c.seq s.cur.q) p →
      exec (.barwait k bar p) s = .next (s.passed (anySeq k) (c.acquireBar s.cur.q bar.val) none)) := by
  rw [exec_barwait, execBarwait]
  exact ⟨fun hp => runLocal_wait h (if_neg hp), fun hp => runLocal_done h (if_pos hp)⟩

theorem execBartest_cases {d : GReg} {p : Operand 1} (h : s.Enters (useD k d) c) :
    ((Tab.get Bar.zero c.bars bar.val).phase ≠ barPhase (c.seq s.cur.q) p →
      exec (.bartest k d bar p) s = .next (s.passed (useD k d) c (some (d, 0)))) ∧
    ((Tab.get Bar.zero c.bars bar.val).phase = barPhase (c.seq s.cur.q) p →
      exec (.bartest k d bar p) s = .next (s.passed (useD k d) (c.acquireBar s.cur.q bar.val) (some (d, 1)))) := by
  rw [exec_bartest, execBartest]
  exact ⟨fun hp => runLocal_done h (if_neg hp), fun hp => runLocal_done h (if_pos hp)⟩

end

end Sys2Proof.Machine

namespace Sys2Proof.Proofs

open Sys2Proof.Machine

/-- Settles O35: the semaphore words by how their waiters are listed and served, the barrier words by the change of a
barrier's count. -/
theorem semaphoresAndTransferBarriers : Obligations.SemaphoresAndTransferBarriers := by
  refine ⟨⟨fun k sem n a d s hi => ⟨fun hz => ?_, fun hz => ?_, ?_⟩, ?_, CoreTask.signal_cases,
    fun c n ord who v ws => ⟨rfl, c.serveList_cons n ord who v ws⟩, ?_⟩, ?_, ?_⟩
  · have hf : (decide (sem ≠ 0) && decide (n ≠ 0)) = false := by
      rw [Bool.and_eq_false_iff, decide_eq_false_iff_not, decide_eq_false_iff_not, not_not, not_not]
      exact hz
    rw [FieldFault, FieldFault, exec_semsigImm, execSemsigImm, exec_semwaitImm, execSemwaitImm]
    exact semWord_fieldFault hi hf
  · subst hz
    rw [FieldFault, FieldFault, exec_semsigReg, execSemsigReg, exec_semwaitReg, execSemwaitReg]
    exact semWord_fieldFault hi rfl
  · rintro rfl hq
    exact semget_fieldFault hi hq
  · intro k sem n a s s1 c c1 sig wt v h hz hwords
    obtain ⟨field, amt, hsig, hwt, hv, hf⟩ : ∃ field amt, exec sig s = semSignal k sem field amt s ∧
        exec wt s = semWait k sem field amt s ∧ v = amt (c.seq s.cur.q) ∧ (decide (sem ≠ 0) && field) = true := by
      have hsem := decide_eq_true hz
      rcases hwords with ⟨rfl, rfl, rfl, hn⟩ | ⟨rfl, rfl, rfl⟩
      · exact ⟨_, fun _ => n.toNat, rfl, rfl, rfl, by rw [hsem, decide_eq_true hn]; rfl⟩
      · exact ⟨true, fun q => (q.rd a).toNat, rfl, rfl, rfl, by rw [hsem]; rfl⟩
    rw [hsig, hwt, hv]
    exact ⟨semWord_illegal h hf, semSignal_waits h hf,
      fun hl hr => ⟨semSignal_overflows h hf hl hr.met hr.here, fun c2 => semSignal_signals h hf hl hr.met hr.here⟩,
      fun hl => ⟨semWait_served h hf hl, semWait_stands h hf hl,
        fun hw he => ⟨semWait_short h hf hl hw he, semWait_enough h hf hl hw he⟩⟩⟩
  · intro k d sem s c hz h
    have hu : s.Enters { perm := [.c], legal := decide (sem ≠ 0), cons := k, dst := gDst d } c := by
      rw [decide_eq_true hz]
      exact h
    rw [exec_semget, execSemget]
    exact ⟨_, runLocal_done hu rfl, passed_wrote _ hu rfl⟩
  · intro k bar n s c h v b lim
    have hv : barAmount c.seqC n = v := by cases n <;> rfl
    rw [← hv]
    obtain ⟨hfield, hcount⟩ := execBarexp_cases (bar := bar) (n := n) h
    exact ⟨hfield, fun h1 h2 ho => (hcount h1 h2).1 ((Bar.change_none ..).mpr ho),
      fun h1 h2 h3 h4 => (hcount h1 h2).2 _ (Bar.change_unstamped (not_or.mpr ⟨Int.not_lt.mpr h3, Int.not_lt.mpr h4⟩))⟩
  · intro k d bar p s c b asked got
    have hasked : barPhase (c.seq s.cur.q) p = asked := by
      cases p with
      | imm v => exact barPhase_imm v
      | reg g => rfl
    have hgot : c.acquireBar s.cur.q bar.val = got := rfl
    rw [← hasked, ← hgot]
    exact ⟨execBarwait_cases, execBartest_cases⟩

end Sys2Proof.Proofs
end

section
/-! The pushes of the matrix commands (R92, R94, R95, R147, R152, R356). -/

namespace Sys2Proof.Machine

/-! ### What a push does to its core-task (R92, R95) -/

/-- A count per key raised once for each member of a list. -/
theorem get_foldl_upd_succ (ts : List Nat) (p : Tab Nat) (t : Nat) :
    Tab.get 0 (ts.foldl (fun p t => Tab.upd 0 p t (· + 1)) p) t = Tab.get 0 p t + ts.count t := by
  induction ts generalizing p with
  | nil => rfl
  | cons x xs ih =>
    rw [List.foldl_cons, ih, Tab.get_upd, List.count_cons]
    by_cases h : t = x
    · subst h
      rw [if_pos rfl, beq_self_eq_true, if_pos rfl]
      omega
    · rw [if_neg h, beq_false_of_ne (Ne.symm h), if_neg (by decide)]
      rfl

/-- A mark per key set for each member of a list. -/
theorem get_foldl_set_true (ts : List Nat) (p : Tab Bool) (t : Nat) :
    Tab.get false (ts.foldl (fun m t => Tab.set false m t true) p) t = (Tab.get false p t || ts.contains t) := by
  induction ts generalizing p with
  | nil => simp
  | cons x xs ih =>
    rw [List.foldl_cons, ih, Tab.get_set, List.contains_cons]
    by_cases h : t = x
    · rw [if_pos h, h, beq_self_eq_true]
      simp
    · rw [if_neg h, beq_false_of_ne h, Bool.false_or]

/-- The command joins the end of the queue, as a release of the C-sequencer, with its marks; nothing else changes. -/
theorem CoreTask.pushMx_frame (c : CoreTask) (i : Instr) :
    (c.pushMx i).mxq = c.mxq ++ [{ i := i, waddr := c.seqC.pc, stamp := c.seqC.stamp + 1 }] ∧
    (c.pushMx i).seqC = { c.seqC with stamp := c.seqC.stamp + 1 } ∧
    (c.pushMx i).pend = (c.readTiles i).foldl (fun p t => Tab.upd 0 p t (· + 1)) c.pend ∧
    (c.pushMx i).empty = (c.emptyTiles i).foldl (fun m t => Tab.set false m t true) c.empty ∧
    { c.pushMx i with mxq := c.mxq, seqC := c.seqC, pend := c.pend, empty := c.empty } = c :=
  ⟨rfl, rfl, rfl, rfl, rfl⟩

/-! ### The push (R94, R95, R152) -/

theorem mxPush_refused {i : Instr} {cls : Nat} {t : Trap} {s : State} {c : CoreTask} (h : s.Enters (cOnly 0) c) :
    mxPush i cls (some t) s = .next (s.trapped c t) := runGlobal_trap h rfl

section
variable {i : Instr} {cls : Nat} {s s1 : State} {c c1 : CoreTask}

theorem mxPush_over (h : s.Enters (cOnly 0) c) (hc : c.pwrlvl < cls) :
    mxPush i cls none s = .next (s.trapped c (trapOf .currentOver)) := runGlobal_trap h (if_pos hc)

variable (hc : cls ≤ c.pwrlvl) (hr : s.Releases (cOnly 0) .core c s1 c1)
include hc hr

/-- A command of no too high class is pushed once its release is met. -/
theorem mxPush_released : (if c.pwrlvl < cls then Res.trap (trapOf .currentOver) else
    afterRelease .core (s.withCur c) (fun s c => if 16 ≤ c.mxq.length then .wait s .plain else doneCt s (c.pushMx i))) =
      if 16 ≤ c1.mxq.length then .wait s1 .plain else doneCt s1 (c1.pushMx i) := by
  rw [if_neg (Nat.not_lt.mpr hc)]
  exact afterRelease_ready (by rw [State.withCur_cur]; exact hr.met) (by rw [State.withCur_cur]; exact hr.here)

theorem mxPush_queues (hq : c1.mxq.length < 16) :
    mxPush i cls none s = .next (s1.completes s.cur (cOnly 0) (c1.pushMx i)) :=
  runGlobal_doneCt hr.enters ((mxPush_released hc hr).trans (if_neg (Nat.not_le.mpr hq)))
    ((State.testRelease_cur hr.met).trans (State.withCur_cur ..))

theorem mxPush_full (hq : 16 ≤ c1.mxq.length) : mxPush i cls none s = .next (s.waitsIn s1 .plain) :=
  runGlobal_wait hr.enters ((mxPush_released hc hr).trans (if_pos hq))

end

/-- Waiting leaves the matrix queue as it is. -/
theorem State.mxq_waitsIn {s s1 : State} {c1 : CoreTask} (k : WaitKind) (h : s1.ct? s.cur.slot s.cur.rank = some c1) :
    ((s.waitsIn s1 k).ct? s.cur.slot s.cur.rank).map (·.mxq) = some c1.mxq := by
  have hct : (s.waitsIn s1 k).ct? s.cur.slot s.cur.rank =
      some (c1.updSeq s.cur.q (fun q => q.await k s.dtime s.fresh)) := by
    show (s1.updCt s.cur.slot s.cur.rank _).ct? s.cur.slot s.cur.rank = _
    rw [State.ct_updCt, if_pos ⟨rfl, rfl⟩, h]
    rfl
  rw [hct]
  cases s.cur.q <;> rfl

/-- The matrix commands and their current classes (R143, R152), but for an MXRD of a size that is no tile's. -/
theorem exec_mxPush {i : Instr} {cls : Nat}
    (hi : (∃ p, (i = .mxmul p ∨ i = .mxmuls p) ∧ cls = p.pair.cls) ∨
      (cls = 2 ∧ ((∃ w x a z, i = .mxzero w x a z) ∨ (∃ w x a t, i = .mxwr w x a t) ∨ (∃ p v, i = .mxepi p v) ∨
        ∃ p f r z, i = .mxrd p f r z ∧ p.bytes f ≤ 16384 ∧ (p.bytes f ≤ 8192 ∨ p.t.toNat % 2 = 0)))) (s : State) :
    exec i s = mxPush i cls none s := by
  rcases hi with ⟨p, rfl | rfl, rfl⟩ | ⟨rfl, ⟨w, x, a, z, rfl⟩ | ⟨w, x, a, t, rfl⟩ | ⟨p, v, rfl⟩ | ⟨p, f, r, z, rfl, h1, h2⟩⟩
  case inr.inr.inr.inr =>
    have hfits : ¬(16384 < p.bytes f ∨ (8192 < p.bytes f ∧ p.t.toNat % 2 = 1)) := by omega
    rw [exec_mxrd, execMxrd, if_neg hfits]
  all_goals rfl

theorem exec_mxrd_shape {p : MxWin} {f : Fmt} {r : Rnd} {z : Bool} {s : State} {c : CoreTask} (h : s.Enters (cOnly 0) c)
    (hn : 16384 < p.bytes f ∨ (8192 < p.bytes f ∧ p.t.toNat % 2 = 1)) :
    exec (.mxrd p f r z) s = .next (s.trapped c (trapOf .shape)) := by
  rw [exec_mxrd, execMxrd, if_pos hn, mxPush_refused h]

end Sys2Proof.Machine

namespace Sys2Proof.Proofs

open Sys2Proof.Machine

/-- Settles O30: the push of each command is one word, with its class and its check. -/
theorem matrixCommandsArePushed : Obligations.MatrixCommandsArePushed := by
  refine ⟨fun i cls s s1 c c1 hi h => ?_, fun p f r z s c => exec_mxrd_shape, fun c i => ?_⟩
  · rw [exec_mxPush hi]
    exact ⟨mxPush_over h, fun hc hr => ⟨mxPush_queues hc hr, fun hq => ⟨_, mxPush_full hc hr hq, State.mxq_waitsIn .plain hr.here⟩⟩⟩
  · obtain ⟨hq, hs, hp, he, hrest⟩ := c.pushMx_frame i
    exact ⟨hq, hs, fun t => by rw [hp, get_foldl_upd_succ], fun t => by rw [he, get_foldl_set_true], hrest⟩

end Sys2Proof.Proofs
end

section
/-! The checks and the push of the copy commands (R94, R95, R332, R333, R335, R336). -/

namespace Sys2Proof.Machine

/-! ### The bytes of one side of a copy (R333) -/

/-- Element byte `b` of row `x` of plane `y` belongs to the copy. -/
def CopyCmd.Inside (k : CopyCmd) (x y b : Nat) : Prop := y < k.n2 ∧ x < k.n1 ∧ b < k.len

/-- Where that byte stands on a side. -/
def Rows.at (r : Rows) (x y b : Nat) : Nat := r.base + y * r.s2 + x * r.s1 + b

/-- The copy has a byte. -/
def CopyCmd.HasBytes (k : CopyCmd) : Prop := 0 < k.n2 ∧ 0 < k.n1 ∧ 0 < k.len

theorem CopyCmd.at_lt_span {k : CopyCmd} {x y b : Nat} (r : Rows) (h : k.Inside x y b) : r.at x y b < r.base + k.span r := by
  obtain ⟨hy, hx, hb⟩ := h
  have hplanes : y * r.s2 ≤ (k.n2 - 1) * r.s2 := Nat.mul_le_mul_right _ (by omega)
  have hrows : x * r.s1 ≤ (k.n1 - 1) * r.s1 := Nat.mul_le_mul_right _ (by omega)
  rw [Rows.at, CopyCmd.span]
  omega

/-- A side ends behind address `top` when one of its bytes stands at it or beyond. -/
theorem CopyCmd.lt_span_iff {k : CopyCmd} (hk : k.HasBytes) (r : Rows) (top : Nat) :
    top < r.base + k.span r ↔ ∃ x y b, k.Inside x y b ∧ top ≤ r.at x y b := by
  obtain ⟨hy, hx, hb⟩ := hk
  constructor
  · intro h
    refine ⟨k.n1 - 1, k.n2 - 1, k.len - 1, ⟨by omega, by omega, by omega⟩, ?_⟩
    rw [CopyCmd.span] at h
    rw [Rows.at]
    omega
  · rintro ⟨x, y, b, hin, hle⟩
    exact hle.trans_lt (k.at_lt_span r hin)

/-- The rows that `starts` lists cover exactly the bytes of the side. -/
theorem CopyCmd.mem_starts_iff {k : CopyCmd} (hk : k.HasBytes) (r : Rows) (z : Nat) :
    (∃ a ∈ k.starts r, a ≤ z ∧ z < a + k.len) ↔ ∃ x y b, k.Inside x y b ∧ r.at x y b = z := by
  obtain ⟨hpy, hpx, -⟩ := hk
  simp only [CopyCmd.starts, List.mem_flatMap, List.mem_map, List.mem_range, Rows.at, CopyCmd.Inside]
  constructor
  · rintro ⟨a, ⟨y, hy, x, hx, rfl⟩, h1, h2⟩
    refine ⟨x, y, z - (r.base + y * r.s2 + x * r.s1), ⟨?_, ?_, by omega⟩, by omega⟩
    · split at hy <;> omega
    · split at hx <;> omega
  · rintro ⟨x, y, b, ⟨hy, hx, hb⟩, rfl⟩
    refine ⟨r.base + y * r.s2 + x * r.s1, ⟨if r.s2 = 0 then 0 else y, ?_, if r.s1 = 0 then 0 else x, ?_, ?_⟩, by omega, by omega⟩
    · split <;> omega
    · split <;> omega
    · split <;> split <;> simp_all

theorem CopyCmd.selfOverlap_iff {k : CopyCmd} (hk : k.HasBytes) (own : Nat) : k.selfOverlap own = true ↔
    k.srcLocal = true ∧ own ∈ k.dstRanks own ∧ ∃ x y b x' y' b', k.Inside x y b ∧ k.Inside x' y' b' ∧
      k.srcRows.at x y b = k.dstRows.at x' y' b' := by
  have hmeet : ((k.starts k.srcRows).any fun a => (k.starts k.dstRows).any fun b => rangesMeet a k.len b k.len) = true ↔
      ∃ z, (∃ a ∈ k.starts k.srcRows, a ≤ z ∧ z < a + k.len) ∧ ∃ a ∈ k.starts k.dstRows, a ≤ z ∧ z < a + k.len := by
    simp only [List.any_eq_true, rangesMeet_iff]
    exact ⟨fun ⟨a, ha, b, hb, z, h1, h2⟩ => ⟨z, ⟨a, ha, h1⟩, b, hb, h2⟩,
      fun ⟨z, ⟨a, ha, h1⟩, b, hb, h2⟩ => ⟨a, ha, b, hb, z, h1, h2⟩⟩
  rw [CopyCmd.selfOverlap, Bool.and_eq_true, Bool.and_eq_true, List.contains_iff_mem, hmeet, and_assoc]
  simp only [CopyCmd.mem_starts_iff hk]
  refine and_congr_right fun _ => and_congr_right fun _ => ⟨?_, ?_⟩
  · rintro ⟨z, ⟨x, y, b, h1, rfl⟩, x', y', b', h2, hz⟩
    exact ⟨x, y, b, x', y', b', h1, h2, hz.symm⟩
  · rintro ⟨x, y, b, x', y', b', h1, h2, hz⟩
    exact ⟨_, ⟨x, y, b, h1, rfl⟩, x', y', b', h2, hz.symm⟩

/-- A side outside the ring has a byte of an address that is no canonical one (R166). -/
theorem CopyCmd.nonCanon_isSome {k : CopyCmd} (hk : k.HasBytes) (r : Rows) : (k.nonCanon r).isSome = true ↔
    ∃ x y b, k.Inside x y b ∧ r.base < 2 ^ 63 ∧ 2 ^ 57 ≤ r.at x y b := by
  have hbyte : (∃ x y b, k.Inside x y b ∧ r.base < 2 ^ 63 ∧ 2 ^ 57 ≤ r.at x y b) ↔
      r.base < 2 ^ 63 ∧ 2 ^ 57 < r.base + k.span r := by
    rw [CopyCmd.lt_span_iff hk]
    exact ⟨fun ⟨x, y, b, hin, h1, h2⟩ => ⟨h1, x, y, b, hin, h2⟩, fun ⟨h1, x, y, b, hin, h2⟩ => ⟨x, y, b, hin, h1, h2⟩⟩
  rw [hbyte, CopyCmd.nonCanon, isHandle]
  split
  next h => exact iff_of_false (by simp) (fun hc => by rw [decide_eq_true_eq] at h; omega)
  next h =>
    rw [decide_eq_true_eq] at h
    split
    next hc => exact iff_of_false (by simp) (by omega)
    next hc => exact iff_of_true rfl ⟨by omega, by omega⟩

theorem CopyCmd.nonCanon_le {k : CopyCmd} {r : Rows} {va : Word} (h : k.nonCanon r = some va) : 2 ^ 57 ≤ va.toNat := by
  rw [CopyCmd.nonCanon, isHandle] at h
  split at h
  · cases h
  next hh =>
    rw [decide_eq_true_eq] at hh
    split at h
    · cases h
    · cases h
      have hlt : r.base.max (2 ^ 57) < 2 ^ 64 := Nat.max_lt.mpr ⟨by omega, by decide⟩
      rw [BitVec.toNat_ofNat, Nat.mod_eq_of_lt hlt]
      exact Nat.le_max_right ..

/-! ### The checks of R333 -/

/-- The command is a CPMETA. -/
def CopyCmd.isMeta (k : CopyCmd) : Bool :=
  match k.i with
  | .cpmeta .. => true
  | _ => false

/-- Its sizes or its ranks are none of a copy. -/
def CopyCmd.Illegal (k : CopyCmd) (own size : Nat) : Prop := k.total = 0 ∨ 2 ^ 40 < k.total ∨ ¬k.ranksOk own size

/-- An address, length or stride is not aligned. -/
def CopyCmd.misaligned (k : CopyCmd) : Bool :=
  (k.isMeta && decide (k.src.toNat % 8 ≠ 0)) ||
    (!k.isMeta && (decide (k.dst.toNat % 4 ≠ 0) || (k.fill?.isNone && decide (k.src.toNat % 4 ≠ 0)) ||
      [k.len, k.ss1, k.ds1, k.ss2, k.ds2].any (fun x => decide (x % 4 ≠ 0))))

/-- A scratchpad side leaves the populated scratchpad. -/
def CopyCmd.beyond (k : CopyCmd) (own : Nat) : Bool :=
  (k.srcLocal && decide (scratchTop < k.srcRows.base + k.span k.srcRows)) ||
    (!(k.dstRanks own).isEmpty && decide (scratchTop < k.dstRows.base + k.span k.dstRows))

section
variable {k : CopyCmd} {own size lvl : Nat}

theorem CopyCmd.bad_illegal (h : k.Illegal own size) : k.bad own size lvl = some (trapOf .illegalField) := if_pos h

section
variable (h1 : ¬k.Illegal own size)
include h1

theorem CopyCmd.bad_align (h2 : k.misaligned = true) : k.bad own size lvl = some (trapOf .align) :=
  (if_neg h1).trans (if_pos h2)

section
variable (h2 : ¬k.misaligned = true)
include h2

theorem CopyCmd.bad_range (h3 : k.beyond own = true) : k.bad own size lvl = some (trapOf .lsaRange) :=
  (if_neg h1).trans ((if_neg h2).trans (if_pos h3))

section
variable (h3 : ¬k.beyond own = true)
include h3

theorem CopyCmd.bad_page {va : Word} (h4 : (k.global?.bind fun g => k.nonCanon g.1) = some va) :
    k.bad own size lvl = some (pageTrap 1 va) := by
  refine (if_neg h1).trans ((if_neg h2).trans ((if_neg h3).trans ?_))
  rw [h4]

/-- The last checks, of a copy whose addresses are canonical. -/
theorem CopyCmd.bad_canon (h4 : (k.global?.bind fun g => k.nonCanon g.1) = none) : k.bad own size lvl =
    if k.selfOverlap own then some (trapOf .overlap) else if lvl < 1 then some (trapOf .currentOver) else none := by
  refine (if_neg h1).trans ((if_neg h2).trans ((if_neg h3).trans ?_))
  rw [h4]

end

end

end

end

/-! ### The same checks in the words of R333 -/

/-- The copy words (R332 to R336). -/
def IsCopy (i : Instr) (p : CopyOp) (n : Dims) (rk : Fin 16) (mask : BitVec 16) (q : Fin 2) (count : BitVec 7) : Prop :=
  i = .cpg2l p n ∨ i = .cpl2g p n ∨ i = .cpl2l p n rk ∨ i = .cpbc p mask ∨ i = .cpfillL p ∨ i = .cpfillG p ∨
    i = .cpmeta p q count

/-- A mask names a rank outside a gang of `size` when it is no number below 2 to that size. -/
theorem mask_lt_iff (m : BitVec 16) (size : Nat) : m.toNat < 2 ^ size ↔ ∀ r, size ≤ r → m.getLsbD r = false :=
  ⟨fun h r hr => Nat.testBit_lt_two_pow (h.trans_le (Nat.pow_le_pow_right (by decide) hr)),
    fun h => Nat.lt_pow_two_of_testBit _ (fun r hr => h r hr)⟩

section
variable {k : CopyCmd} {p : CopyOp} {n : Dims} {rk : Fin 16} {mask : BitVec 16} {q : Fin 2} {count : BitVec 7}
  (hk : IsCopy k.i p n rk mask q count)
include hk

theorem CopyCmd.ranksOk_iff (own size : Nat) : k.ranksOk own size = true ↔
    ¬((k.i = .cpl2l p n rk ∧ size ≤ rk.val) ∨ (k.i = .cpbc p mask ∧ ∃ r, mask.getLsbD r = true ∧ (r = own ∨ size ≤ r))) := by
  rw [CopyCmd.ranksOk]
  rcases hk with hi | hi | hi | hi | hi | hi | hi <;> rw [hi]
  case inr.inr.inl => simp
  case inr.inr.inr.inl =>
    have hown : (¬∃ r, mask.getLsbD r = true ∧ (r = own ∨ size ≤ r)) ↔
        (∀ r, size ≤ r → mask.getLsbD r = false) ∧ mask.getLsbD own = false := by
      simp only [not_exists, not_and, not_or, Nat.not_le, ← Bool.not_eq_true]
      exact ⟨fun h => ⟨fun r hr hm => absurd (h r hm).2 (Nat.not_lt.mpr hr), fun hm => (h own hm).1 rfl⟩,
        fun ⟨h1, h2⟩ r hm => ⟨fun e => h2 (e ▸ hm), Nat.lt_of_not_le fun hr => h1 r hr hm⟩⟩
    simpa [mask_lt_iff] using hown.symm
  all_goals simp

theorem CopyCmd.illegal_iff (own size : Nat) : k.Illegal own size ↔ k.len = 0 ∨ k.n1 = 0 ∨ k.n2 = 0 ∨
    2 ^ 40 < k.len * k.n1 * k.n2 ∨ (k.i = .cpl2l p n rk ∧ size ≤ rk.val) ∨
      (k.i = .cpbc p mask ∧ ∃ r, mask.getLsbD r = true ∧ (r = own ∨ size ≤ r)) := by
  rw [CopyCmd.Illegal, CopyCmd.ranksOk_iff hk, not_not, CopyCmd.total, Nat.mul_eq_zero, Nat.mul_eq_zero, or_assoc, or_assoc]

theorem CopyCmd.isMeta_iff : k.isMeta = true ↔ k.i = .cpmeta p q count := by
  rw [CopyCmd.isMeta]
  rcases hk with hi | hi | hi | hi | hi | hi | hi <;> rw [hi] <;> simp

theorem CopyCmd.misaligned_iff : k.misaligned = true ↔ (k.i = .cpmeta p q count ∧ ¬8 ∣ k.src.toNat) ∨
    (¬k.i = .cpmeta p q count ∧ ¬(4 ∣ k.dst.toNat ∧ (k.fill? = none → 4 ∣ k.src.toNat) ∧
      4 ∣ k.len ∧ 4 ∣ k.ss1 ∧ 4 ∣ k.ds1 ∧ 4 ∣ k.ss2 ∧ 4 ∣ k.ds2)) := by
  rw [← CopyCmd.isMeta_iff hk]
  simp only [CopyCmd.misaligned, Nat.dvd_iff_mod_eq_zero, Bool.or_eq_true, Bool.and_eq_true, Bool.not_eq_true', decide_eq_true_eq,
    Option.isNone_iff_eq_none, List.any_cons, List.any_nil, Bool.not_eq_true, Bool.or_false]
  tauto

theorem CopyCmd.global_nonCanon (hb : k.HasBytes) : (k.global?.bind fun g => k.nonCanon g.1).isSome = true ↔
    ∃ x y b, k.Inside x y b ∧ ((k.i = .cpg2l p n ∧ k.src.toNat < 2 ^ 63 ∧ 2 ^ 57 ≤ k.srcRows.at x y b) ∨
      ((k.i = .cpl2g p n ∨ k.i = .cpfillG p) ∧ k.dst.toNat < 2 ^ 63 ∧ 2 ^ 57 ≤ k.dstRows.at x y b)) := by
  have hsrc := CopyCmd.nonCanon_isSome hb k.srcRows
  have hdst := CopyCmd.nonCanon_isSome hb k.dstRows
  rcases hk with hi | hi | hi | hi | hi | hi | hi <;> simp only [CopyCmd.global?, hi]
  case inl => simpa [CopyCmd.srcRows] using hsrc
  case inr.inl => simpa [CopyCmd.dstRows] using hdst
  case inr.inr.inr.inr.inr.inl => simpa [CopyCmd.dstRows] using hdst
  all_goals simp

end

theorem CopyCmd.beyond_iff {k : CopyCmd} (hb : k.HasBytes) (own : Nat) : k.beyond own = true ↔
    ∃ x y b, k.Inside x y b ∧ ((k.srcLocal = true ∧ 0x180000 ≤ k.srcRows.at x y b) ∨
      ((∃ r, r ∈ k.dstRanks own) ∧ 0x180000 ≤ k.dstRows.at x y b)) := by
  have hlist : (!(k.dstRanks own).isEmpty) = true ↔ ∃ r, r ∈ k.dstRanks own := by
    rw [Bool.not_eq_true', List.isEmpty_eq_false_iff_exists_mem]
  have htop : scratchTop = 0x180000 := rfl
  simp only [CopyCmd.beyond, Bool.or_eq_true, Bool.and_eq_true, decide_eq_true_eq, hlist, CopyCmd.lt_span_iff hb, htop]
  constructor
  · rintro (⟨h1, x, y, b, hin, hle⟩ | ⟨h1, x, y, b, hin, hle⟩)
    · exact ⟨x, y, b, hin, .inl ⟨h1, hle⟩⟩
    · exact ⟨x, y, b, hin, .inr ⟨h1, hle⟩⟩
  · rintro ⟨x, y, b, hin, ⟨h1, hle⟩ | ⟨h1, hle⟩⟩
    · exact .inl ⟨h1, x, y, b, hin, hle⟩
    · exact .inr ⟨h1, x, y, b, hin, hle⟩

/-! ### The push (R94, R95, R333) -/

section
variable {kk : CoreTask → CopyCmd} {s s1 : State} {c c1 : CoreTask} {t : Task} (h : s.Enters (cOnly 0) c)
  (ht : (s.withCur c).task? s.cur.slot = some t)
include h ht

theorem cpPush_trap {tr : Trap} (hb : (kk c).bad s.cur.rank t.cts.length c.pwrlvl = some tr) :
    cpPush kk s = .next (s.trapped c tr) := by
  refine runGlobal_trap h ?_
  rw [State.withCur_cur, ht]
  dsimp only
  rw [hb]

variable (hb : (kk c).bad s.cur.rank t.cts.length c.pwrlvl = none)
include hb

/-- A copy that passes its checks is a release, and joins its queue when it has room. -/
theorem cpPush_passes : cpPush kk s = runGlobal (cOnly 0) (fun s' _ => afterRelease .core s' (fun s c' =>
    if 32 ≤ c'.cpq.length + c'.copies.length then .wait s .plain else doneCt s (c'.pushCopy (kk c)))) s := by
  refine runGlobal_congr h ?_
  rw [State.withCur_cur, ht]
  dsimp only
  rw [hb]

theorem cpPush_waits (hr : (s.withCur c).testRelease s.cur .core = .wait s1) : cpPush kk s = .next (s.waitsIn s1 .plain) := by
  rw [cpPush_passes h ht hb]
  exact runGlobal_wait h (afterRelease_wait (by rw [State.withCur_cur]; exact hr))

variable (hr : s.Releases (cOnly 0) .core c s1 c1)
include hr

theorem cpPush_full (hq : 32 ≤ c1.cpq.length + c1.copies.length) : cpPush kk s = .next (s.waitsIn s1 .plain) := by
  rw [cpPush_passes h ht hb]
  exact runGlobal_wait h ((afterRelease_ready (by rw [State.withCur_cur]; exact hr.met)
    (by rw [State.withCur_cur]; exact hr.here)).trans (if_pos hq))

theorem cpPush_queues (hq : c1.cpq.length + c1.copies.length < 32) :
    cpPush kk s = .next (s1.completes s.cur (cOnly 0) (c1.pushCopy (kk c))) := by
  rw [cpPush_passes h ht hb]
  exact runGlobal_doneCt h ((afterRelease_ready (by rw [State.withCur_cur]; exact hr.met)
    (by rw [State.withCur_cur]; exact hr.here)).trans (if_neg (Nat.not_le.mpr hq)))
    ((State.testRelease_cur hr.met).trans (State.withCur_cur ..))

end

end Sys2Proof.Machine

namespace Sys2Proof.Proofs

open Sys2Proof.Machine

/-- Settles O33: each check of the push in the words of R333, for whichever copy word; then the push. -/
theorem copiesAreCheckedAndPushed : Obligations.CopiesAreCheckedAndPushed := by
  intro p n rk mask q count s s1 c c1 t i kk hi h ht
  obtain ⟨hexec, hki, hcopy⟩ : exec i s = cpPush kk s ∧ i = (kk c).i ∧ IsCopy (kk c).i p n rk mask q count := by
    rcases hi with ⟨rfl, rfl⟩ | ⟨rfl, rfl⟩ | ⟨rfl, rfl⟩ | ⟨rfl, rfl⟩ | ⟨rfl, rfl⟩ | ⟨rfl, rfl⟩ | ⟨rfl, rfl⟩ <;>
      exact ⟨rfl, rfl, by simp [IsCopy, CoreTask.capture]⟩
  rw [hexec]
  intro k own size isMeta inside src dst illegal misaligned beyond nonCanon overlap
  have hill : k.Illegal own size ↔ illegal := by
    rw [CopyCmd.illegal_iff hcopy, ← hki]
  have hmis : k.misaligned = true ↔ misaligned := by
    rw [CopyCmd.misaligned_iff hcopy, ← hki]
  have hbytes : ¬k.Illegal own size → k.HasBytes := fun hn => by
    obtain ⟨h1, h2, h3, -⟩ := not_or.mp (hill.not.mp hn) |>.imp_right (fun h => not_or.mp h |>.imp_right not_or.mp)
    exact ⟨Nat.pos_of_ne_zero h3, Nat.pos_of_ne_zero h2, Nat.pos_of_ne_zero h1⟩
  refine ⟨fun h1 => cpPush_trap h ht (CopyCmd.bad_illegal (hill.mpr h1)), ?_⟩
  by_cases h1 : illegal
  · simp [h1]
  have hk := hbytes (hill.not.mpr h1)
  have hbey : k.beyond own = true ↔ beyond := CopyCmd.beyond_iff hk own
  have hcan : (k.global?.bind fun g => k.nonCanon g.1).isSome = true ↔ nonCanon := by
    rw [CopyCmd.global_nonCanon hcopy hk, ← hki]
    rfl
  have hover : k.selfOverlap own = true ↔ overlap := CopyCmd.selfOverlap_iff hk own
  replace h1 := hill.not.mpr h1
  refine ⟨fun _ h2 => cpPush_trap h ht (CopyCmd.bad_align h1 (hmis.mpr h2)),
    fun _ h2 h3 => cpPush_trap h ht (CopyCmd.bad_range h1 (hmis.not.mpr h2) (hbey.mpr h3)), fun _ h2 h3 h4 => ?_,
    fun _ h2 h3 h4 h5 => ?_, fun _ h2 h3 h4 h5 => ?_⟩
  · obtain ⟨va, hva⟩ := Option.isSome_iff_exists.mp (hcan.mpr h4)
    obtain ⟨g, -, hg⟩ := Option.bind_eq_some_iff.mp hva
    exact ⟨va, CopyCmd.nonCanon_le hg, cpPush_trap h ht (CopyCmd.bad_page h1 (hmis.not.mpr h2) (hbey.not.mpr h3) hva)⟩
  all_goals
    have hnone : (k.global?.bind fun g => k.nonCanon g.1) = none := Option.not_isSome_iff_eq_none.mp (hcan.not.mpr h4)
    have hlast := fun lvl => CopyCmd.bad_canon (lvl := lvl) h1 (hmis.not.mpr h2) (hbey.not.mpr h3) hnone
  · exact cpPush_trap h ht ((hlast _).trans (if_pos (hover.mpr h5)))
  · have hlevel := fun lvl => (hlast lvl).trans (if_neg (hover.not.mpr h5))
    have hpass : 0 < c.pwrlvl → k.bad own size c.pwrlvl = none :=
      fun hp => (hlevel _).trans (if_neg (Nat.not_lt.mpr hp))
    exact ⟨fun hp => cpPush_trap h ht ((hlevel _).trans (if_pos (by omega))), fun hp hr => cpPush_waits h ht (hpass hp) hr,
      fun hp hr => ⟨cpPush_full h ht (hpass hp) hr, cpPush_queues h ht (hpass hp) hr⟩⟩

end Sys2Proof.Proofs
end

section
/-! Global loads (R190, R197, R288, R344, R345). -/

namespace Sys2Proof.Machine

/-! ### Values and bytes (R344) -/

theorem leNat'_eq (bs : List Byte) : LoadSize.extend.leNat' bs = leNat bs := by
  induction bs with
  | nil => rfl
  | cons b bs ih => rw [LoadSize.extend.leNat', leNat, ih]

theorem LoadSize.extend_eq (sz : LoadSize) (bs : List Byte) :
    sz.extend bs = if sz.signed then BitVec.ofInt 64 (Int.bmod (leNat bs) (2 ^ (8 * sz.bytes))) else
      BitVec.ofNat 64 (leNat bs) := by
  rw [LoadSize.extend, leNat'_eq, BitVec.toInt_ofNat']

theorem readFinal_getElem? (s : State) {a n i : Nat} (h : i < n) :
    (s.readFinal { host := false, a := a } n)[i]? = some (Tab.get 0 s.m.dpa (a + i)) := by
  rw [readFinal_device, readN, List.getElem?_map, List.getElem?_range h]
  rfl

/-! ### Races (R196, R197) -/

theorem Mark.not_against_iff (m : Mark) (b : BitVec 64) (a : AgentId) (st : Stamp) (atomic : Bool) :
    ¬m.against b a st atomic = true ↔
      m.bytes &&& b = 0 ∨ m.agent = a ∨ (atomic = true ∧ m.atomic = true) ∨ exceeds st m.stamp = true := by
  simp only [Mark.against, Bool.and_eq_true, decide_eq_true_eq, Bool.not_eq_true', Bool.and_eq_false_iff]
  cases atomic <;> cases m.atomic <;> cases exceeds st m.stamp <;> simp <;> tauto

theorem RaceRec.conflict_eq_none_iff (r : RaceRec) (b : BitVec 64) (a : AgentId) (st : Stamp) (writes atomic : Bool) :
    r.conflict b a st writes atomic = none ↔ ∀ m ∈ r.w ++ (if writes then r.r else []),
      m.bytes &&& b = 0 ∨ m.agent = a ∨ (atomic = true ∧ m.atomic = true) ∨ exceeds st m.stamp = true := by
  have hfind : r.conflict b a st writes atomic =
      ((r.w ++ (if writes then r.r else [])).find? (·.against b a st atomic)).map (fun m => (m.agent, m.stamp)) := by
    rw [RaceRec.conflict, List.find?_append]
    cases writes <;> rfl
  rw [hfind, Option.map_eq_none_iff, List.find?_eq_none]
  simp only [Mark.not_against_iff]

/-- A trap of the race check is RACE. -/
theorem raceTrap_code {on : Bool} {get : Nat → RaceRec} {gs : List (Nat × BitVec 64)} {a : AgentId} {st : Stamp}
    {writes atomic : Bool} {t : Trap} (h : raceTrap on get gs a st writes atomic = some t) : t.code = .race := by
  rw [raceTrap] at h
  split at h
  · refine List.foldlRecOn (motive := fun acc => ∀ t, acc = some t → t.code = .race) gs _ (fun _ hn => absurd hn (by simp)) ?_ t h
    intro acc hacc g _ u hu
    cases acc with
    | some v => exact hacc u hu
    | none =>
      obtain ⟨p, -, rfl⟩ := Option.map_eq_some_iff.mp hu
      rfl
  · cases h

theorem State.raceAt_code {s : State} {f : FAddr} {n : Nat} {keep : Bool} {a : AgentId} {st : Stamp} {writes atomic : Bool}
    {t : Trap} (h : s.raceAt f n keep a st writes atomic = some t) : t.code = .race := by
  rw [State.raceAt] at h
  split at h
  · cases h
  · exact raceTrap_code h

/-! ### What an access leaves alone -/

theorem State.cache_cur (s : State) (ctx : Nat) (va : Word) (x : Xl) (n : Nat) : (s.cache ctx va x n).cur = s.cur :=
  congrArg (·.2.2) (s.cache_work ctx va x n)

@[simp] theorem State.heldAt_withCur (s : State) (c : CoreTask) (f : FAddr) : (s.withCur c).heldAt f = s.heldAt f := by
  rw [State.heldAt, State.heldAt, State.sliceFrozen, State.sliceFrozen, State.withCur, State.putCt_pw]

/-- The address of a load: its register and its offset, sign-extended. -/
theorem effAddr_eq (q : Seq) (a : GReg) (off : BitVec 40) : effAddr q a off = q.rd a + BitVec.ofInt 64 off.toInt := rfl

/-! ### The load after its translation (R345) -/

section
variable {t : Option Tag} {sz : LoadSize} {d : GReg} {va : Word} {ctx : Nat} {x : Xl} {s : State} {c : CoreTask}
  (hat : s.atomAt s.cur.slot s.cur.rank x.f sz.bytes = false)
include hat

theorem ldgAt_tagged {tg : Tag} : ldgAt (some tg) sz d va ctx x s c =
    doneCt ((s.cache ctx va x sz.bytes).clearMiss s.cur.slot s.cur.rank 0 va c.seqC.pc)
      (c.deferLoad .c tg d (.ldg va sz c.seqC.pc c.seqC.stamp (some { f := x.f, key := x.key, keep := x.keep }))) :=
  if_neg (by rw [hat]; decide)

theorem ldgAt_held (hp : c.postedAt x.f sz.bytes = true ∨ s.heldAt x.f = true) :
    ldgAt none sz d va ctx x s c = .wait s .plain :=
  (if_neg (by rw [hat]; decide)).trans (if_pos ((Bool.or_eq_true ..).mpr hp))

variable (hp : c.postedAt x.f sz.bytes = false) (hh : s.heldAt x.f = false)
include hp hh

theorem ldgAt_keyBad (hk : s.keyBad x.f x.key = true) : ldgAt none sz d va ctx x s c = .trap (trapAt .keyMismatch va) :=
  (if_neg (by rw [hat]; decide)).trans ((if_neg (by rw [hp, hh]; decide)).trans (if_pos hk))

variable (hk : s.keyBad x.f x.key = false)
include hk

theorem ldgAt_race {tr : Trap} (hr : s.raceAt x.f sz.bytes x.keep (agentId s.cur.slot s.cur.rank 0) c.seqC.stamp false
    false = some tr) : ldgAt none sz d va ctx x s c = .trap tr := by
  refine (if_neg (by rw [hat]; decide)).trans ((if_neg (by rw [hp, hh]; decide)).trans ((if_neg (by rw [hk]; decide)).trans ?_))
  rw [hr]

theorem ldgAt_reads (hr : s.raceAt x.f sz.bytes x.keep (agentId s.cur.slot s.cur.rank 0) c.seqC.stamp false false = none) :
    ldgAt none sz d va ctx x s c = .done (((s.noteRead x.f sz.bytes x.keep (agentId s.cur.slot s.cur.rank 0)
      c.seqC.stamp).cache ctx va x sz.bytes).clearMiss s.cur.slot s.cur.rank 0 va c.seqC.pc)
        (some (d, sz.extend (s.readFinal x.f sz.bytes))) := by
  refine (if_neg (by rw [hat]; decide)).trans ((if_neg (by rw [hp, hh]; decide)).trans ((if_neg (by rw [hk]; decide)).trans ?_))
  rw [hr]

end

/-! ### The load, once it enters (R345) -/

section
variable {k : BitVec 8} {t : Option Tag} {sz : LoadSize} {d a : GReg} {off : BitVec 40} {s : State} {c : CoreTask} {tk : Task}
  {x : Xl} (h : s.Enters { perm := [.c], cons := k, alloc := t, dst := gDst d } c)
  (htk : (s.withCur c).task? s.cur.slot = some tk)
include h htk

/-- A load on a task checks its alignment and then translates its address. -/
theorem exec_ldg_checked : exec (.ldg k t sz d a off) s =
    runGlobal { perm := [.c], cons := k, alloc := t, dst := gDst d } (fun s c =>
      if (effAddr c.seqC a off).toNat % sz.bytes ≠ 0 then .trap (trapAt .align (effAddr c.seqC a off))
      else match s.translate tk.ctx Need.read (effAddr c.seqC a off) with
        | .trap tr => .trap tr
        | .miss pg h => missWord s Need.read (effAddr c.seqC a off) pg h
        | .ok x => afterResid tk.ctx (effAddr c.seqC a off) x.f sz.bytes s c (ldgAt t sz d (effAddr c.seqC a off) tk.ctx x)) s := by
  rw [exec_ldg, execLdg]
  refine runGlobal_congr h ?_
  simp only [State.withCur_cur, htk] <;> rfl

theorem exec_ldg_align (ha : ¬sz.bytes ∣ (effAddr c.seqC a off).toNat) :
    exec (.ldg k t sz d a off) s = .next (s.trapped c (trapAt .align (effAddr c.seqC a off))) := by
  rw [exec_ldg_checked h htk]
  exact runGlobal_trap h (if_pos fun he => ha (Nat.dvd_of_mod_eq_zero he))

section
variable (ha : sz.bytes ∣ (effAddr c.seqC a off).toNat)
include ha

theorem exec_ldg_untranslated {tr : Trap} (hx : (s.withCur c).translate tk.ctx Need.read (effAddr c.seqC a off) = .trap tr) :
    exec (.ldg k t sz d a off) s = .next (s.trapped c tr) := by
  rw [exec_ldg_checked h htk]
  refine runGlobal_trap h ((if_neg (not_not.mpr (Nat.mod_eq_zero_of_dvd ha))).trans ?_)
  rw [hx]

variable (hx : (s.withCur c).translate tk.ctx Need.read (effAddr c.seqC a off) = .ok x)
include hx

theorem exec_ldg_translated : exec (.ldg k t sz d a off) s =
    runGlobal { perm := [.c], cons := k, alloc := t, dst := gDst d } (fun s c =>
      afterResid tk.ctx (effAddr c.seqC a off) x.f sz.bytes s c (ldgAt t sz d (effAddr c.seqC a off) tk.ctx x)) s := by
  rw [exec_ldg_checked h htk]
  refine runGlobal_congr h ((if_neg (not_not.mpr (Nat.mod_eq_zero_of_dvd ha))).trans ?_)
  rw [hx]

theorem exec_ldg_delivers {s2 : State}
    (hb : (s.withCur c).accBusy tk.ctx c (effAddr c.seqC a off).toNat x.f sz.bytes = true)
    (hd : (s.withCur c).deliverAll s.cur.slot s.cur.rank (c.slotsWhere (fun r =>
      !r.flying && (s.withCur c).slotMeets tk.ctx r (effAddr c.seqC a off).toNat x.f sz.bytes)) = .ok s2) :
    exec (.ldg k t sz d a off) s = .next (s.waitsIn s2 .plain) := by
  rw [exec_ldg_translated h htk ha hx]
  refine runGlobal_wait h ?_
  rw [afterResid, hb, State.withCur_cur, hd]
  rfl

variable (hb : (s.withCur c).accBusy tk.ctx c (effAddr c.seqC a off).toNat x.f sz.bytes = false)
include hb

theorem exec_ldg_clear : exec (.ldg k t sz d a off) s =
    runGlobal { perm := [.c], cons := k, alloc := t, dst := gDst d } (ldgAt t sz d (effAddr c.seqC a off) tk.ctx x) s := by
  rw [exec_ldg_translated h htk ha hx]
  refine runGlobal_congr h ?_
  rw [afterResid, hb]
  rfl

theorem exec_ldg_behindAtom (hat : (s.withCur c).atomAt s.cur.slot s.cur.rank x.f sz.bytes = true) :
    exec (.ldg k t sz d a off) s = .next (s.waitsIn (s.withCur c) .plain) := by
  rw [exec_ldg_clear h htk ha hx hb]
  exact runGlobal_wait h (if_pos (by rw [State.withCur_cur]; exact hat))

end

end

end Sys2Proof.Machine

namespace Sys2Proof.Proofs

open Sys2Proof.Machine

/-- Settles O20: the checks of the load in turn, then its bytes and the race check. -/
theorem globalLoads : Obligations.GlobalLoads := by
  refine ⟨fun k t sz d a off s c tk x => ?_, fun sz bs _ => LoadSize.extend_eq sz bs, fun s a n i => readFinal_getElem? s,
    RaceRec.conflict_eq_none_iff⟩
  intro u h htk va s1 kept id
  have hva : effAddr c.seqC a off = va := effAddr_eq ..
  rw [← hva]
  have hcur : s1.cur = s.cur := State.withCur_cur ..
  refine ⟨exec_ldg_align h htk, fun tr ha => exec_ldg_untranslated h htk ha, fun ha hx =>
    ⟨fun s2 => exec_ldg_delivers h htk ha hx, fun hb => ⟨exec_ldg_behindAtom h htk ha hx hb, fun hat => ?_⟩⟩⟩
  rw [exec_ldg_clear h htk ha hx hb]
  refine ⟨?_, ?_⟩
  · rintro tg rfl
    exact runGlobal_doneCt h ((ldgAt_tagged (by rw [hcur]; exact hat)).trans (by rw [hcur]; rfl))
      ((State.clearMiss_cur ..).trans ((State.cache_cur ..).trans hcur))
  · rintro rfl
    rw [← hcur] at hat
    have hheld : s1.heldAt x.f = s.heldAt x.f := State.heldAt_withCur ..
    refine ⟨fun hp => runGlobal_wait h (ldgAt_held hat (by rw [hheld]; exact hp)), fun hp hh => ?_⟩
    rw [← hheld] at hh
    refine ⟨fun hk => runGlobal_trap h (ldgAt_keyBad hat hp hh hk), fun hk => ⟨fun tr hr => ?_, fun hr => ?_⟩⟩
    · exact ⟨State.raceAt_code hr, runGlobal_trap h (ldgAt_race hat hp hh hk (by rw [hcur]; exact hr))⟩
    · exact runGlobal_done h ((ldgAt_reads hat hp hh hk (by rw [hcur]; exact hr)).trans (by rw [hcur]))

end Sys2Proof.Proofs
end

section
/-! Deferred results land, and where a tile word's block goes (R84, R89, R107, R190, R288, R345, R346, R382, R389). -/

namespace Sys2Proof.Machine

/-! ### Landing (R89, R345, R346) -/

section
variable {a : Agent} {t : Nat} {s : State} {tk : Task} {c : CoreTask} {r : TagRec}

/-- A deferred load that is held back, by its core-task's posted stores or by its slice, does not land. -/
theorem bindLoad_held {va : Word} {sz : LoadSize} {w : BitVec 32} {st : Stamp} {b : Bound}
    (h : ¬(c.postedAt b.f sz.bytes = false ∧ s.heldAt b.f = false)) : s.bindLoad a c t r va sz w st b = .no := by
  refine if_pos ?_
  rw [Bool.or_eq_true]
  simpa only [not_and_or, Bool.not_eq_false] using h

section
variable {va : Word} {sz : LoadSize} {w : BitVec 32} {st : Stamp} {b : Bound}
  (h : c.postedAt b.f sz.bytes = false ∧ s.heldAt b.f = false)
include h

theorem bindLoad_keyBad (hk : s.keyBad b.f b.key = true) :
    s.bindLoad a c t r va sz w st b = .done (s.raiseLater a (trapAt .keyMismatch va) w) :=
  (if_neg (by rw [h.1, h.2]; decide)).trans (if_pos hk)

variable (hk : s.keyBad b.f b.key = false)
include hk

theorem bindLoad_race {tr : Trap} (hr : s.raceAt b.f sz.bytes b.keep (agentId a.slot a.rank 0) st false false = some tr) :
    s.bindLoad a c t r va sz w st b = .done (s.raiseLater a tr w) := by
  refine (if_neg (by rw [h.1, h.2]; decide)).trans ((if_neg (by rw [hk]; decide)).trans ?_)
  rw [hr]

theorem bindLoad_lands (hr : s.raceAt b.f sz.bytes b.keep (agentId a.slot a.rank 0) st false false = none) :
    s.bindLoad a c t r va sz w st b = .done ((s.noteRead b.f sz.bytes b.keep (agentId a.slot a.rank 0) st).putCt a.slot
      a.rank (c.land a.q t r (.value (sz.extend (s.readFinal b.f sz.bytes))))) := by
  refine (if_neg (by rw [h.1, h.2]; decide)).trans ((if_neg (by rw [hk]; decide)).trans ?_)
  rw [hr]

end

variable (ht : s.task? a.slot = some tk) (hc : s.ct? a.slot a.rank = some c) (hr : find (c.seq a.q).tags t = some r)
  (hl : r.landed = false)
include ht hc hr hl

theorem landTag_value {v : Word} (h : r.res = .value v) :
    s.landTag a t = .done (s.putCt a.slot a.rank (c.land a.q t r (.value v))) := by
  simp [State.landTag, ht, hc, hr, hl, h]

theorem landTag_tile {b : Block} (h : r.res = .tile b) :
    s.landTag a t = .done (s.putCt a.slot a.rank (c.land a.q t r (.tile b))) := by
  simp [State.landTag, ht, hc, hr, hl, h]

section
variable {ad : Nat} {sz : LoadSize} {w : BitVec 32} {st : Stamp} (h : r.res = .ldl ad sz w st) (hn : c.reported a.q w = false)
include h hn

theorem landTag_localTrap {tr : Trap}
    (hx : c.localRead s.raceOn (agentId a.slot a.rank (seqNum a.q)) st (granules ad sz.bytes) = .inl tr) :
    s.landTag a t = .done (s.raiseLater a tr w) := by
  simp [State.landTag, ht, hc, hr, hl, h, hn, hx]

theorem landTag_local {c1 : CoreTask}
    (hx : c.localRead s.raceOn (agentId a.slot a.rank (seqNum a.q)) st (granules ad sz.bytes) = .inr c1) :
    s.landTag a t = .done (s.putCt a.slot a.rank (c1.land a.q t r (.value (sz.extend (c1.readLocal ad sz.bytes))))) := by
  simp [State.landTag, ht, hc, hr, hl, h, hn, hx]

end

/-- A deferred load under a translation that it holds is bound where it lands. -/
theorem landTag_bound {va : Word} {sz : LoadSize} {w : BitVec 32} {st : Stamp} {b : Bound} (h : r.res = .ldg va sz w st (some b))
    (hn : c.reported a.q w = false) : s.landTag a t = s.bindLoad a c t r va sz w st b := by
  simp [State.landTag, ht, hc, hr, hl, h, hn]

end

section
variable {slot rank : Nat} {seq : SeqId} {tg : Tag} {s s' : State} {tk : Task} (ht : s.task? slot = some tk)
  (hrun : tk.state = .running)
include ht hrun

theorem exec_tagResultLands_done (h : s.landTag { slot := slot, rank := rank, q := seq } tg.val = .done s') :
    exec (.tagResultLands slot rank seq tg) s = .next s' := by
  rw [exec_tagResultLands, execTagResultLands, ht]
  refine (if_neg (not_not.mpr hrun)).trans ?_
  rw [h]
  rfl

theorem exec_tagResultLands_no (h : s.landTag { slot := slot, rank := rank, q := seq } tg.val = .no) :
    exec (.tagResultLands slot rank seq tg) s = .next s := by
  rw [exec_tagResultLands, execTagResultLands, ht]
  refine (if_neg (not_not.mpr hrun)).trans ?_
  rw [h]
  rfl

end

theorem CoreTask.land_value (c : CoreTask) (q : SeqId) (t : Nat) (r : TagRec) (v : Word) :
    ((c.land q t r (.value v)).seq q).g = (c.seq q).g ∧
      find ((c.land q t r (.value v)).seq q).tags t = some { r with res := .value v, landed := true } := by
  rw [CoreTask.land, CoreTask.seq_updSeq]
  refine ⟨rfl, ?_⟩
  rw [find_put, if_pos rfl]

/-! ### Where a tile word's block goes (R84, R107, R382, R389) -/

/-- The core-task with other tiles, other block queues, another ring and another X-sequencer. -/
def CoreTask.vectorPart (c : CoreTask) (tiles : Tab Byte) (queues : Tab (List Block)) (ring : List Block) (x : Seq) : CoreTask :=
  { c with tiles := tiles, queues := queues, ring := ring, seqX := x }

theorem CoreTask.commit_x (c : CoreTask) (t : Nat) (r : TagRec) :
    ∃ tiles x, c.commit .x t r = c.vectorPart tiles c.queues c.ring x := by
  rw [CoreTask.commit]
  split <;> exact ⟨_, _, rfl⟩

theorem CoreTask.settleAll_x (c : CoreTask) (ts : List Nat) :
    ∃ tiles x, (c.settleAll .x ts).1 = c.vectorPart tiles c.queues c.ring x := by
  induction ts generalizing c with
  | nil => exact ⟨_, _, rfl⟩
  | cons t ts ih =>
    obtain ⟨tiles, x, h⟩ : ∃ tiles x, (c.settle .x t).1 = c.vectorPart tiles c.queues c.ring x := by
      rw [CoreTask.settle]
      split
      · exact ⟨_, _, rfl⟩
      · split
        · exact c.commit_x t _
        · exact ⟨_, _, rfl⟩
    obtain ⟨tiles', x', h'⟩ := ih (c.settle .x t).1
    exact ⟨tiles', x', h'.trans (by rw [h]; rfl)⟩

theorem CoreTask.writeVector_x (c : CoreTask) (w : VWord) (p : VPlan) (ds : List Nat) (blk : Block) :
    ∃ tiles queues ring x, c.writeVector w p ds blk = c.vectorPart tiles queues ring x := by
  obtain ⟨tiles, x, h⟩ := c.settleAll_x (c.tileTags ds)
  rw [CoreTask.writeVector, h]
  dsimp only
  split
  · split
    · exact ⟨_, _, _, _, rfl⟩
    · split <;> split <;> exact ⟨_, _, _, _, rfl⟩
  · split <;> exact ⟨_, _, _, _, rfl⟩
  · exact ⟨_, _, _, _, rfl⟩

/-- Popping queues changes the queues alone. -/
theorem CoreTask.foldl_popBlock (qs : List Nat) (c : CoreTask) : ∃ queues,
    qs.foldl (fun c q => c.popBlock q) c = c.vectorPart c.tiles queues c.ring c.seqX := by
  induction qs generalizing c with
  | nil => exact ⟨_, rfl⟩
  | cons q qs ih =>
    obtain ⟨queues, h⟩ := ih (c.popBlock q)
    exact ⟨queues, h⟩

/-- With no busy tag a tile word commits none. -/
theorem CoreTask.settleAll_tileTags {c : CoreTask} (h : c.seqX.tags = []) (ds : List Nat) :
    (c.settleAll .x (c.tileTags ds)).1 = c := by
  have hnone : c.tileTags ds = [] := by
    rw [CoreTask.tileTags, CoreTask.seq, h]
    rfl
  rw [hnone]
  rfl

section
variable {c : CoreTask} {w : VWord} {p : VPlan} {ds : List Nat} {blk : Block} (h : c.seqX.tags = [])
include h

/-- Without a tag the block goes to its tile, and to the ring when the word asks for that. -/
theorem CoreTask.writeVector_tile {t : TReg} (hd : w.dst = .tile t) (ha : w.alloc = none) (hs : p.scaledDst = false) :
    c.writeVector w p ds blk = if w.ring then (c.writeTile t.val blk.bytes).ringPush { blk with scales := none }
      else c.writeTile t.val blk.bytes := by
  simp [CoreTask.writeVector, CoreTask.settleAll_tileTags h, hd, ha, hs]

/-- With a tag the block waits in it. -/
theorem CoreTask.writeVector_tag {t : TReg} {tg : Tag} (hd : w.dst = .tile t) (ha : w.alloc = some tg) :
    c.writeVector w p ds blk = c.allocTag .x tg { dest := .tile t, res := .tile blk, landed := false } := by
  simp [CoreTask.writeVector, CoreTask.settleAll_tileTags h, hd, ha]

theorem CoreTask.writeVector_queue {q : Fin 4} (hd : w.dst = .sq q) : c.writeVector w p ds blk =
    if w.ring then (c.pushBlock (sqIndex q) blk).ringPush { blk with scales := none } else c.pushBlock (sqIndex q) blk := by
  simp [CoreTask.writeVector, CoreTask.settleAll_tileTags h, hd]

/-- No register of the X-sequencer changes. -/
theorem CoreTask.writeVector_g : (c.writeVector w p ds blk).seqX.g = c.seqX.g := by
  rw [CoreTask.writeVector, CoreTask.settleAll_tileTags h]
  dsimp only
  split
  · split
    · rfl
    · split <;> split <;> rfl
  · split <;> rfl
  · rfl

theorem CoreTask.writeVector_ring (hd : w.dst = .ring) : c.writeVector w p ds blk = c.ringPush { blk with scales := none } := by
  simp [CoreTask.writeVector, CoreTask.settleAll_tileTags h, hd]

end

end Sys2Proof.Machine

namespace Sys2Proof.Proofs

open Sys2Proof.Machine

section
variable (w : VWord) (p : VPlan) (b : BSrc) (sc : Option VSrc) (c : CoreTask) (x : VFacts) (es : List (List Nat))
  (scs : Option (List Byte)) (err : Bool)

/-- A tile word pops its queues and notes its error, and then writes its block. -/
theorem afterVector_writes : ∃ c1 : CoreTask, c.afterVector w p b sc x es scs err = c1.writeVector w p (c.dstSet w p)
      { rows := x.rows, cols := x.cols, fmt := x.res, scales := scs, bytes := packTile x.res es } ∧
    c1.tiles = c.tiles ∧ c1.ring = c.ring ∧ c1.seqX = c.seqX ∧
    c1.queues = (((operandSrcs w b sc).flatMap (·.lq?)).foldl (fun c q => c.popBlock q) c).queues ∧
    c1 = { c.vectorPart c.tiles c1.queues c.ring c.seqX with fmtErr := c.fmtErr || err } := by
  obtain ⟨queues, hpop⟩ := CoreTask.foldl_popBlock ((operandSrcs w b sc).flatMap (·.lq?)) c
  refine ⟨_, rfl, ?_⟩
  rw [hpop]
  exact ⟨rfl, rfl, rfl, rfl, rfl⟩

/-- What a tile word leaves alone, whatever tags are busy. -/
theorem afterVector_frame : ∃ tiles queues ring seqX, c.afterVector w p b sc x es scs err =
    { c.vectorPart tiles queues ring seqX with fmtErr := c.fmtErr || err } := by
  obtain ⟨c1, h, -, -, -, -, h1⟩ := afterVector_writes w p b sc c x es scs err
  obtain ⟨tiles, queues, ring, seqX, hw⟩ := CoreTask.writeVector_x c1 w p (c.dstSet w p)
    { rows := x.rows, cols := x.cols, fmt := x.res, scales := scs, bytes := packTile x.res es }
  refine ⟨tiles, queues, ring, seqX, ?_⟩
  rw [h, hw, h1]
  rfl

end

/-- Settles O24: the landing of a tag by what stands in it; the block of a tile word by its destination. -/
theorem deferredResultsLand : Obligations.DeferredResultsLand := by
  refine ⟨?_, ?_⟩
  · intro slot rank seq tg s tk c r ht hrun hc hr hl ag
    have hdone : ∀ {s'}, s.landTag ag tg.val = .done s' → exec (.tagResultLands slot rank seq tg) s = .next s' :=
      exec_tagResultLands_done ht hrun
    refine ⟨fun v h => hdone (landTag_value ht hc hr hl h), fun b h => hdone (landTag_tile ht hc hr hl h),
      fun ad sz w st h hn => ⟨fun tr hx => hdone (landTag_localTrap ht hc hr hl h hn hx),
        fun c1 hx => hdone (landTag_local ht hc hr hl h hn hx)⟩,
      fun va sz w st b h hn => ?_, CoreTask.land_value c seq tg.val r⟩
    have hb := landTag_bound (a := ag) ht hc hr hl h hn
    exact ⟨fun hc => exec_tagResultLands_no ht hrun (hb.trans (bindLoad_held hc)),
      fun hc hk => hdone (hb.trans (bindLoad_keyBad hc hk)), fun tr hc hk hr => hdone (hb.trans (bindLoad_race hc hk hr)),
      fun hc hk hr => hdone (hb.trans (bindLoad_lands hc hk hr))⟩
  · intro w p b sc c x es scs err blk c'
    constructor
    · intro htags
      obtain ⟨c1, hw, htiles, hring, hx, hqueues, -⟩ := afterVector_writes w p b sc c x es scs err
      have hc : c' = c1.writeVector w p (c.dstSet w p) blk := hw
      rw [← hx] at htags
      rw [hc, ← htiles, ← hring, ← hx, ← hqueues]
      refine ⟨fun t hd ha hs => ?_, fun t tg hd ha => ?_, fun q hd => ?_, fun hd => ?_, CoreTask.writeVector_g htags⟩
      · rw [CoreTask.writeVector_tile htags hd ha hs]
        constructor
        · intro y
          rw [← get_splice]
          split <;> rfl
        · split <;> rfl
      · rw [CoreTask.writeVector_tag htags hd ha]
        exact ⟨rfl, rfl, (find_put ..).trans (if_pos rfl)⟩
      · rw [CoreTask.writeVector_queue htags hd]
        constructor
        · split <;> rfl
        · have hq : Tab.get [] (c1.pushBlock (sqIndex q) blk).queues (8 + q.val) =
              Tab.get [] c1.queues (8 + q.val) ++ [blk] := by
            rw [CoreTask.pushBlock, sqIndex]
            dsimp only
            rw [Tab.get_upd, if_pos rfl]
          split
          · exact hq
          · exact hq
      · rw [CoreTask.writeVector_ring htags hd]
        exact ⟨rfl, rfl, rfl⟩
    · obtain ⟨tiles, queues, ring, seqX, h⟩ := afterVector_frame w p b sc c x es scs err
      have hc : c' = _ := h
      rw [hc]
      exact ⟨rfl, rfl, rfl, rfl, rfl, rfl, rfl, rfl⟩

end Sys2Proof.Proofs
end

section
/-! Copies start: the head of the copy queue and its progress register (R95, R190, R204, R334). -/

namespace Sys2Proof.Machine

theorem CoreTask.freeCopy_eq_none {c : CoreTask} (h : ∀ r < 8, (find c.copies r).isSome) : c.freeCopy = none := by
  rw [CoreTask.freeCopy, List.find?_eq_none]
  intro r hr
  rw [List.mem_range] at hr
  obtain ⟨x, hx⟩ := Option.isSome_iff_exists.mp (h r hr)
  simp [hx]

/-- The lowest free progress register. -/
theorem CoreTask.freeCopy_eq_some {c : CoreTask} {reg : Nat} (hreg : reg < 8) (hf : find c.copies reg = none)
    (hl : ∀ r < reg, (find c.copies r).isSome) : c.freeCopy = some reg := by
  rw [CoreTask.freeCopy, List.find?_range_eq_some]
  refine ⟨by rw [hf]; rfl, List.mem_range.mpr hreg, fun r hr => ?_⟩
  obtain ⟨x, hx⟩ := Option.isSome_iff_exists.mp (hl r hr)
  simp [hx]

/-- A copy whose WSEM is met starts in a step of the engine. -/
theorem exec_copyStart_head {s : State} {slot rank : Nat} {t : Task} {c : CoreTask} {k : CopyCmd}
    (h : s.CopyHead slot rank t c k) : exec (.copyStart slot rank) s = .next (s.copyBegin slot rank t c k) := by
  obtain ⟨⟨ht, hrun, hc, hclk⟩, hfree, hgoes, hhead, hsem⟩ := h
  obtain ⟨ks, hq⟩ : ∃ ks, c.cpq = k :: ks := by
    cases hl : c.cpq with
    | nil => rw [hl] at hhead; cases hhead
    | cons k' ks => rw [hl] at hhead; cases hhead; exact ⟨ks, rfl⟩
  rw [exec_copyStart, execCopyStart, ht, hc]
  refine (if_pos ⟨hrun, hclk, hgoes, hfree⟩).trans ?_
  rw [hq]
  exact if_pos hsem

/-- What holds the head of the copy queue back (R190, R204, R336). -/
def State.CopyHeld (s : State) (slot rank : Nat) (t : Task) (c : CoreTask) (k : CopyCmd) : Prop :=
  (∃ e ∈ c.copies, s.copyAfter t.ctx k e.2.cmd rank = true) ∨ s.copySends slot rank t.ctx c k = true ∨ c.metaWaits = true

theorem State.copyHeld_iff (s : State) (slot rank : Nat) (t : Task) (c : CoreTask) (k : CopyCmd) :
    (c.copies.any (fun e => s.copyAfter t.ctx k e.2.cmd rank) || s.copySends slot rank t.ctx c k || c.metaWaits) = true ↔
      s.CopyHeld slot rank t c k := by
  rw [Bool.or_eq_true, Bool.or_eq_true, List.any_eq_true, or_assoc, State.CopyHeld]

section
variable {s : State} {slot rank reg : Nat} {t : Task} {c : CoreTask} {k : CopyCmd}

theorem copyBegin_full (h : ∀ r < 8, (find c.copies r).isSome) : s.copyBegin slot rank t c k = s := by
  rw [State.copyBegin, CoreTask.freeCopy_eq_none h]

variable (hreg : c.freeCopy = some reg)
include hreg

theorem copyBegin_held (hh : s.CopyHeld slot rank t c k) : s.copyBegin slot rank t c k = s := by
  rw [State.copyBegin, hreg]
  exact if_pos ((s.copyHeld_iff ..).mpr hh)

variable (hh : ¬s.CopyHeld slot rank t c k)
include hh

theorem copyBegin_delivers {s1 : State} (hne : s.copySlots t.ctx c k ≠ [])
    (hd : s.deliverAll slot rank (s.copySlots t.ctx c k) = .ok s1) : s.copyBegin slot rank t c k = s1 := by
  obtain ⟨x, xs, hl⟩ := List.exists_cons_of_ne_nil hne
  rw [hl] at hd
  rw [State.copyBegin, hreg]
  refine (if_neg ((s.copyHeld_iff ..).not.mpr hh)).trans ?_
  rw [hl]
  dsimp only
  rw [hd]

/-- With no residual to deliver the copy takes its register, or its handle is refused (R252). -/
theorem copyBegin_free (hs : s.copySlots t.ctx c k = []) : s.copyBegin slot rank t c k =
    if k.global?.any (fun g => isHandle g.1.base && !s.handleOk t k g.1 g.2) then s.copyFault slot rank k 0 (trapOf .perm)
    else s.putCt slot rank { c with
      cpq := c.cpq.drop 1, cpHead := .none, cpStamp := acqStamp c.cpStamp k.stamp,
      copies := Tab.put reg { cmd := k, done := 0 } c.copies } := by
  rw [State.copyBegin, hreg]
  refine (if_neg ((s.copyHeld_iff ..).not.mpr hh)).trans ?_
  rw [hs]
  cases k.global? <;> rfl

theorem copyBegin_starts (hs : s.copySlots t.ctx c k = [])
    (hok : ∀ r w, k.global? = some (r, w) → isHandle r.base = true → s.handleOk t k r w = true) :
    s.copyBegin slot rank t c k = s.putCt slot rank { c with
      cpq := c.cpq.drop 1, cpHead := .none, cpStamp := acqStamp c.cpStamp k.stamp,
      copies := Tab.put reg { cmd := k, done := 0 } c.copies } := by
  refine (copyBegin_free hreg hh hs).trans (if_neg ?_)
  cases hg : k.global? with
  | none => exact Bool.false_ne_true
  | some g =>
    rw [Option.any_some, Bool.and_eq_true, Bool.not_eq_true', not_and, Bool.not_eq_false]
    exact hok g.1 g.2 hg

theorem copyBegin_refused {r : Rows} {w : Bool} (hs : s.copySlots t.ctx c k = []) (hg : k.global? = some (r, w))
    (hi : isHandle r.base = true) (hok : s.handleOk t k r w = false) :
    s.copyBegin slot rank t c k = s.copyFault slot rank k 0 (trapOf .perm) := by
  refine (copyBegin_free hreg hh hs).trans (if_pos ?_)
  rw [hg, Option.any_some, hi, hok]
  rfl

end

end Sys2Proof.Machine
end

section
/-! The bytes of a piece: the runs that it is cut into, and their pages (R201, R334, R335). -/

namespace Sys2Proof.Machine

/-! ### The element order (R334) -/

/-- Where byte `i` of the element order stands on a side of a copy. -/
def CopyCmd.byteAt (k : CopyCmd) (r : Rows) (i : Nat) : Nat :=
  r.base + i / k.len / k.n1 * r.s2 + i / k.len % k.n1 * r.s1 + i % k.len

/-- Inside a row the bytes follow one another. -/
theorem CopyCmd.byteAt_add {k : CopyCmd} (r : Rows) {i j : Nat} (h : i % k.len + j < k.len) :
    k.byteAt r (i + j) = k.byteAt r i + j := by
  have hdiv : (i + j) / k.len = i / k.len := by
    have hj : j < k.len := by omega
    rw [Nat.add_div (by omega), Nat.div_eq_of_lt hj, Nat.mod_eq_of_lt hj, if_neg (by omega), Nat.add_zero]
  have hmod : (i + j) % k.len = i % k.len + j := by
    rw [Nat.add_mod, Nat.mod_eq_of_lt (show j < k.len by omega), Nat.mod_eq_of_lt h]
  rw [CopyCmd.byteAt, CopyCmd.byteAt, hdiv, hmod]
  omega

theorem CopyCmd.base_le_byteAt (k : CopyCmd) (r : Rows) (i : Nat) : r.base ≤ k.byteAt r i := by
  rw [CopyCmd.byteAt]
  omega

/-- A run of the order lies in one row, and its addresses are those of its first byte. -/
theorem CopyCmd.mem_segs {k : CopyCmd} (hk : 0 < k.len) {e f i : Nat} {g : Seg} (h : g ∈ k.segs e f i) :
    g.src = k.byteAt k.srcRows g.idx ∧ g.dst = k.byteAt k.dstRows g.idx ∧ g.idx % k.len + g.n ≤ k.len := by
  induction f generalizing i with
  | zero => cases h
  | succ f ih =>
    rw [CopyCmd.segs] at h
    split at h
    · cases h
    · rcases List.mem_cons.mp h with rfl | h
      · have hmod := Nat.mod_lt i hk
        refine ⟨rfl, rfl, ?_⟩
        show i % k.len + min (k.len - i % k.len) (e - i) ≤ k.len
        omega
      · exact ih h

/-- The runs list the indices of the piece in order. -/
theorem CopyCmd.segs_idx {k : CopyCmd} (hk : 0 < k.len) {e f i : Nat} (hf : e ≤ i + f) :
    (k.segs e f i).flatMap (fun g => List.range' g.idx g.n) = List.range' i (e - i) := by
  induction f generalizing i with
  | zero =>
    rw [show e - i = 0 by omega]
    rfl
  | succ f ih =>
    rw [CopyCmd.segs]
    split
    next h =>
      rw [show e - i = 0 by omega]
      rfl
    next h =>
      have hmod := Nat.mod_lt i hk
      have hmin : Nat.min (k.len - i % k.len) (e - i) = min (k.len - i % k.len) (e - i) := rfl
      rw [List.flatMap_cons, ih (by omega)]
      dsimp only
      rw [List.range'_append_1]
      congr 1
      omega

/-- What is read run by run is read byte by byte of the order. -/
theorem CopyCmd.flatMap_segs {α : Type} {k : CopyCmd} (hk : 0 < k.len) {i n f : Nat} (hf : n ≤ f) (F : Nat → α)
    {read : Seg → List α}
    (hread : ∀ g ∈ k.segs (i + n) f i, read g = (List.range g.n).map (fun j => F (g.idx + j))) :
    (k.segs (i + n) f i).flatMap read = (List.range n).map (fun j => F (i + j)) := by
  have hrun : ∀ m l, (List.range l).map (fun j => F (m + j)) = (List.range' m l).map F := fun m l => by
    rw [List.range'_eq_map_range, List.map_map]
    rfl
  rw [hrun, List.flatMap_congr (fun g hg => (hread g hg).trans (hrun _ _)), ← List.map_flatMap, CopyCmd.segs_idx hk (by omega),
    Nat.add_sub_cancel_left]

/-! ### The pages of a piece (R166, R174) -/

/-- The parts of a range cover its addresses in order. -/
theorem flatMap_pageParts {k a n : Nat} (h : n = 0 ∨ a % 4096 + n ≤ 4096 * k) :
    (pageParts k a n).flatMap (fun p => List.range' p.1 p.2) = List.range' a n := by
  induction k generalizing a n with
  | zero =>
    rw [show n = 0 by omega]
    rfl
  | succ k ih =>
    cases n with
    | zero => rfl
    | succ n =>
      show ((a, min (n + 1) (4096 - a % 4096)) :: pageParts k (a + min (n + 1) (4096 - a % 4096))
        (n + 1 - min (n + 1) (4096 - a % 4096))).flatMap (fun p => List.range' p.1 p.2) = _
      rw [List.flatMap_cons, ih (by omega), List.range'_append_1]
      congr 1
      omega

theorem flatMap_rangeParts (a n : Nat) : (rangeParts a n).flatMap (fun p => List.range' p.1 p.2) = List.range' a n :=
  flatMap_pageParts (.inr (by omega))

/-- Parts that translate are those that were asked for, each with its translation and its key. -/
theorem State.vaParts_ok {s : State} {ctx : Nat} {need : Need} {ps : List (Nat × Nat)} {es : List (Xl × Nat × Nat)}
    (h : s.vaParts ctx need ps = .ok es) : es.map (·.2) = ps ∧
      ∀ e ∈ es, s.translate ctx need (BitVec.ofNat 64 e.2.1) = .ok e.1 ∧ s.keyBad e.1.f e.1.key = false := by
  induction ps generalizing es with
  | nil =>
    cases h
    exact ⟨rfl, fun e he => nomatch he⟩
  | cons p ps ih =>
    rw [State.vaParts, List.foldr_cons, ← State.vaParts] at h
    dsimp only at h
    split at h
    · cases h
    · cases h
    next x hx =>
      split at h
      · cases h
      next hk =>
        split at h
        next es' hes =>
          cases h
          obtain ⟨hmap, hall⟩ := ih hes
          refine ⟨by rw [List.map_cons, hmap], fun e he => ?_⟩
          rcases List.mem_cons.mp he with rfl | he
          · exact ⟨hx, Bool.eq_false_iff.mpr hk⟩
          · exact hall e he
        next hn => exact absurd h (hn es)

/-- The addresses of the translated parts of a piece are those of its bytes, in order. -/
theorem CopyCmd.parts_addresses {k : CopyCmd} (hk : 0 < k.len) {i n : Nat} (hn : n ≤ 256) (r : Rows) {start : Seg → Nat}
    (hstart : ∀ g ∈ k.segs (i + n) 256 i, start g = k.byteAt r g.idx) {es : List (Xl × Nat × Nat)}
    (hes : es.map (·.2) = (k.segs (i + n) 256 i).flatMap (fun g => rangeParts (start g) g.n)) :
    es.flatMap (fun e => (List.range e.2.2).map (e.2.1 + ·)) = (List.range n).map (fun j => k.byteAt r (i + j)) := by
  have hparts : es.flatMap (fun e => (List.range e.2.2).map (e.2.1 + ·)) =
      (k.segs (i + n) 256 i).flatMap (fun g => List.range' (start g) g.n) := by
    calc es.flatMap (fun e => (List.range e.2.2).map (e.2.1 + ·))
        = (es.map (·.2)).flatMap (fun p => List.range' p.1 p.2) := by
          rw [List.flatMap_map]
          exact List.flatMap_congr fun e _ => (List.range'_eq_map_range ..).symm
      _ = _ := by
          rw [hes, List.flatMap_assoc]
          exact List.flatMap_congr fun g _ => flatMap_rangeParts ..
  rw [hparts]
  refine CopyCmd.flatMap_segs hk hn (k.byteAt r) fun g hg => ?_
  obtain ⟨-, -, hrow⟩ := CopyCmd.mem_segs hk hg
  rw [List.range'_eq_map_range, hstart g hg]
  refine List.map_congr_left fun j hj => ?_
  rw [CopyCmd.byteAt_add r (by have := List.mem_range.mp hj; omega)]

end Sys2Proof.Machine
end

section
/-! The sources and destinations of a piece (R201, R334, R335). -/

namespace Sys2Proof.Machine

/-! ### Reading a piece -/

theorem CoreTask.localRead_frame {c c1 : CoreTask} {on : Bool} {a : AgentId} {st : Stamp} {gs : List (Nat × BitVec 64)}
    (h : c.localRead on a st gs = .inr c1) : ∃ races, c1 = { c with scratchRaces := races } := by
  rw [CoreTask.localRead] at h
  split at h
  · cases h
  · cases h
    exact ⟨_, rfl⟩

/-- With no granule partly written by another core, what a core sees is what stands there. -/
theorem CoreTask.seen_eq {c : CoreTask} (ht : c.torn = []) (hw : Tab.wf 0 c.scratch = true) (tick core : Nat) (st : Stamp)
    (a n : Nat) : c.seen tick core st a n = (List.range n).map (fun i => Tab.get 0 c.scratch (a + i)) := by
  rw [CoreTask.seen, ht, CoreTask.readLocal, sliceN_eq_readN 0 _ _ _ hw]
  rfl

/-- What is read from global memory is read through the translations of its parts. -/
theorem pieceSource_parts {s s1 : State} {slot rank : Nat} {t : Task} {c : CoreTask} {k : CopyCmd} {segs : List Seg}
    {bs : List Byte} (hf : k.fill? = none) (hl : k.srcLocal = false) (hh : k.src.toNat < 2 ^ 63)
    (hp : s.pieceSource slot rank t c k segs = (.ok s1, bs)) : ∃ es,
      s.vaParts t.ctx Need.read (segs.flatMap (fun g => rangeParts g.src g.n)) = .ok es ∧
        bs = es.flatMap (fun e => s.readFinal e.1.f e.2.2) := by
  have hnot : ¬isHandle k.src.toNat = true := by
    rw [isHandle, decide_eq_true_eq]
    omega
  simp only [State.pieceSource, hf, hl, hnot, Bool.false_eq_true, if_false] at hp
  split at hp
  · cases hp
  · cases hp
  next es hes =>
    refine ⟨es, hes, ?_⟩
    split at hp
    · cases hp
    · split at hp
      · cases hp
      · cases hp
        rfl

section
variable {s : State} {slot rank i n : Nat} {t : Task} {c : CoreTask} {k : CopyCmd} (hk : 0 < k.len) (hn : n ≤ 256)
include hk hn

theorem pieceSource_fill {v : Word} (hf : k.fill? = some v) : s.pieceSource slot rank t c k (k.segs (i + n) 256 i) =
    (.ok s, (List.range n).map (fun j => BitVec.ofNat 8 (v.toNat / 256 ^ ((i + j) % 8)))) := by
  rw [State.pieceSource, hf]
  refine congrArg (Prod.mk _) (CopyCmd.flatMap_segs hk hn (fun x => BitVec.ofNat 8 (v.toNat / 256 ^ (x % 8))) fun g _ => ?_)
  refine List.map_congr_left fun j _ => ?_
  apply BitVec.eq_of_toNat_eq
  rw [BitVec.toNat_setWidth, BitVec.toNat_ushiftRight, BitVec.toNat_ofNat, Nat.shiftRight_eq_div_pow, pow_mul]
  rfl

section
variable (hf : k.fill? = none)
include hf

theorem pieceSource_local {c1 : CoreTask} (hl : k.srcLocal = true) (ht : c.torn = []) (hw : Tab.wf 0 c.scratch = true)
    (hr : c.localRead s.raceOn (agentId slot rank 5) c.cpStamp
      (granulesOf ((k.segs (i + n) 256 i).map (fun g => (g.src, g.n)))) = .inr c1) :
    s.pieceSource slot rank t c k (k.segs (i + n) 256 i) = (.ok (s.putCt slot rank c1),
      (List.range n).map (fun j => Tab.get 0 c.scratch (k.byteAt k.srcRows (i + j)))) := by
  rw [State.pieceSource, hf]
  refine (if_pos hl).trans ?_
  rw [hr]
  refine congrArg (Prod.mk _) (CopyCmd.flatMap_segs hk hn (fun x => Tab.get 0 c.scratch (k.byteAt k.srcRows x)) fun g hg => ?_)
  obtain ⟨hsrc, -, hrow⟩ := CopyCmd.mem_segs hk hg
  rw [CoreTask.seen_eq ht hw, hsrc]
  refine List.map_congr_left fun j hj => ?_
  rw [CopyCmd.byteAt_add _ (by have := List.mem_range.mp hj; omega)]

variable (hl : k.srcLocal = false)
include hl

theorem pieceSource_ring {st : Stream} (hh : 2 ^ 63 ≤ k.src.toNat) (hw : Tab.wf 0 st.store = true)
    (hst : s.stream? (handleStream k.src.toNat) = some st) :
    s.pieceSource slot rank t c k (k.segs (i + n) 256 i) = (.ok s, (List.range n).map (fun j => Tab.get 0 st.store
      (handleSlot k.src.toNat * 2 ^ 20 + handleOff k.src.toNat + (k.byteAt k.srcRows (i + j) - k.src.toNat)))) := by
  rw [State.pieceSource, hf]
  refine (if_neg (by rw [hl]; decide)).trans ((if_pos (decide_eq_true hh)).trans ?_)
  rw [hst]
  refine congrArg (Prod.mk _) (CopyCmd.flatMap_segs hk hn (fun x => Tab.get 0 st.store
    (handleSlot k.src.toNat * 2 ^ 20 + handleOff k.src.toNat + (k.byteAt k.srcRows x - k.src.toNat))) fun g hg => ?_)
  obtain ⟨hsrc, -, hrow⟩ := CopyCmd.mem_segs hk hg
  have hbase : k.src.toNat ≤ k.byteAt k.srcRows g.idx := k.base_le_byteAt k.srcRows g.idx
  rw [sliceN_eq_readN 0 _ _ _ hw, hsrc, readN]
  refine List.map_congr_left fun j hj => ?_
  rw [CopyCmd.byteAt_add _ (by have := List.mem_range.mp hj; omega), ringBase]
  have haddr : handleSlot k.src.toNat * 2 ^ 20 + handleOff k.src.toNat + (k.byteAt k.srcRows g.idx - k.src.toNat) + j =
      handleSlot k.src.toNat * 2 ^ 20 + handleOff k.src.toNat + (k.byteAt k.srcRows g.idx + j - k.src.toNat) := by
    generalize handleSlot k.src.toNat * 2 ^ 20 = b
    omega
  rw [haddr]

/-- A piece read from global memory: its parts translate, and its bytes are those at their final addresses. -/
theorem pieceSource_global {s1 : State} {bs : List Byte} (hh : k.src.toNat < 2 ^ 63)
    (hp : s.pieceSource slot rank t c k (k.segs (i + n) 256 i) = (.ok s1, bs)) : ∃ es : List (Xl × Nat × Nat),
      (∀ e ∈ es, s.translate t.ctx Need.read (BitVec.ofNat 64 e.2.1) = .ok e.1 ∧ s.keyBad e.1.f e.1.key = false) ∧
      es.flatMap (fun e => (List.range e.2.2).map (e.2.1 + ·)) = (List.range n).map (fun j => k.byteAt k.srcRows (i + j)) ∧
      bs = es.flatMap (fun e => s.readFinal e.1.f e.2.2) := by
  obtain ⟨es, hes, hbs⟩ := pieceSource_parts hf hl hh hp
  obtain ⟨hmap, hall⟩ := State.vaParts_ok hes
  exact ⟨es, hall, CopyCmd.parts_addresses hk hn k.srcRows (fun g hg => (CopyCmd.mem_segs hk hg).1) hmap, hbs⟩

end

end

end Sys2Proof.Machine
end

section
/-! The destinations of a piece (R201, R335): runs of bytes written in order. -/

namespace Sys2Proof.Machine

/-! ### Bytes written in order, the later one where two meet -/

/-- What stands at an address once bytes have been written at theirs, one after the other. -/
def overlay (a : Nat) : List (Nat × Byte) → Byte → Byte
  | [], v => v
  | p :: ps, v => overlay a ps (if p.1 = a then p.2 else v)

theorem overlay_append (a : Nat) (ps qs : List (Nat × Byte)) (v : Byte) :
    overlay a (ps ++ qs) v = overlay a qs (overlay a ps v) := by
  induction ps generalizing v with
  | nil => rfl
  | cons p ps ih => exact ih _

theorem overlay_none {a : Nat} {ps : List (Nat × Byte)} (h : ∀ p ∈ ps, p.1 ≠ a) (v : Byte) : overlay a ps v = v := by
  induction ps with
  | nil => rfl
  | cons p ps ih =>
    rw [overlay, if_neg (h p List.mem_cons_self)]
    exact ih fun q hq => h q (List.mem_cons_of_mem p hq)

/-- The last byte written at an address stands there. -/
theorem overlay_last {a j : Nat} {ps : List (Nat × Byte)} {b : Byte} (hj : ps[j]? = some (a, b))
    (hl : ∀ m p, j < m → ps[m]? = some p → p.1 ≠ a) (v : Byte) : overlay a ps v = b := by
  induction ps generalizing j v with
  | nil => cases hj
  | cons p ps ih =>
    rw [overlay]
    cases j with
    | zero =>
      cases hj
      rw [if_pos rfl]
      refine overlay_none (fun q hq => ?_) b
      obtain ⟨m, hm⟩ := List.mem_iff_getElem?.mp hq
      exact hl (m + 1) q (Nat.succ_pos m) hm
    | succ j => exact ih hj (fun m q hm hq => hl (m + 1) q (Nat.succ_lt_succ hm) hq) _

/-- The bytes `bs` at `n` addresses, in pairs. -/
theorem getElem?_zip_map {n m : Nat} {bs : List Byte} (hb : bs.length = n) (adr : Nat → Nat) (hm : m < n) :
    (((List.range n).map adr).zip bs)[m]? = some (adr m, bs.getD m 0) := by
  rw [List.getElem?_zip_eq_some, List.getElem?_map, List.getElem?_range hm, List.getD_eq_getElem?_getD,
    List.getElem?_eq_getElem (by omega)]
  exact ⟨rfl, rfl⟩

section
variable {n : Nat} {bs : List Byte} (adr : Nat → Nat)

theorem overlay_zip_last (hb : bs.length = n) {j : Nat} (hj : j < n) (hl : ∀ m, j < m → m < n → adr m ≠ adr j) (v : Byte) :
    overlay (adr j) (((List.range n).map adr).zip bs) v = bs.getD j 0 := by
  refine overlay_last (getElem?_zip_map hb adr hj) (fun m p hm hp => ?_) v
  have hmn : m < n := by
    have := (List.getElem?_eq_some_iff.mp hp).1
    rw [List.length_zip, List.length_map, List.length_range] at this
    omega
  rw [getElem?_zip_map hb adr hmn] at hp
  cases hp
  exact hl m hm hmn

theorem overlay_zip_none {a : Nat} (h : ∀ j < n, adr j ≠ a) (v : Byte) :
    overlay a (((List.range n).map adr).zip bs) v = v := by
  refine overlay_none (fun p hp => ?_) v
  obtain ⟨j, hj, he⟩ := List.mem_map.mp (List.of_mem_zip hp).1
  rw [← he]
  exact h j (List.mem_range.mp hj)

end

theorem get_splice_overlay (t : Memory) (b a : Nat) (vs : List Byte) :
    Tab.get 0 (splice 0 t b vs) a = overlay a (((List.range vs.length).map (b + ·)).zip vs) (Tab.get 0 t a) := by
  rw [get_splice_getD]
  split
  next h =>
    have hlast := overlay_zip_last (n := vs.length) (b + ·) rfl (j := a - b) (by omega) (fun m _ _ => by omega) (Tab.get 0 t a)
    rw [show b + (a - b) = a by omega] at hlast
    exact hlast.symm
  next h => exact (overlay_zip_none (b + ·) (fun j hj => by omega) _).symm

/-! ### Runs written in order -/

/-- A table in which runs of bytes are written, each at its place. -/
def spliceSegs (place : Seg → Nat) (t : Memory) : List Seg → List Byte → Memory
  | [], _ => t
  | g :: gs, bs => spliceSegs place (splice 0 t (place g) (bs.take g.n)) gs (bs.drop g.n)

theorem CoreTask.writeSegs_scratch (c : CoreTask) (gs : List Seg) (bs : List Byte) :
    (c.writeSegs gs bs).scratch = spliceSegs (·.dst) c.scratch gs bs := by
  induction gs generalizing c bs with
  | nil => rfl
  | cons g gs ih => exact ih ..

theorem ringSegs_eq (store : Memory) (base start : Nat) (gs : List Seg) (bs : List Byte) :
    ringSegs store base start gs bs = spliceSegs (fun g => base + (g.dst - start)) store gs bs := by
  induction gs generalizing store bs with
  | nil => rfl
  | cons g gs ih => exact ih ..

theorem get_spliceSegs (place : Seg → Nat) (t : Memory) (a : Nat) {gs : List Seg} {bs : List Byte}
    (h : (gs.flatMap (fun g => (List.range g.n).map (place g + ·))).length = bs.length) :
    Tab.get 0 (spliceSegs place t gs bs) a =
      overlay a ((gs.flatMap (fun g => (List.range g.n).map (place g + ·))).zip bs) (Tab.get 0 t a) := by
  induction gs generalizing t bs with
  | nil => rfl
  | cons g gs ih =>
    rw [List.flatMap_cons, List.length_append, List.length_map, List.length_range] at h
    have htake : (bs.take g.n).length = g.n := List.length_take_of_le (by omega)
    have hrest : (gs.flatMap (fun g => (List.range g.n).map (place g + ·))).length = (bs.drop g.n).length := by
      rw [List.length_drop]
      omega
    have hzip : ((g :: gs).flatMap (fun g => (List.range g.n).map (place g + ·))).zip bs =
        ((List.range g.n).map (place g + ·)).zip (bs.take g.n) ++
          (gs.flatMap (fun g => (List.range g.n).map (place g + ·))).zip (bs.drop g.n) := by
      rw [List.flatMap_cons, ← List.zip_append (by rw [htake, List.length_map, List.length_range]), List.take_append_drop]
    rw [hzip, overlay_append, spliceSegs, ih _ hrest, get_splice_overlay, htake]

/-- The runs of a piece, written at places that follow the order of its bytes. -/
theorem CopyCmd.get_spliceSegs {k : CopyCmd} (hk : 0 < k.len) {i n : Nat} (hn : n ≤ 256) {place : Seg → Nat} {adr : Nat → Nat}
    (hp : ∀ g ∈ k.segs (i + n) 256 i, ∀ j < g.n, place g + j = adr (g.idx + j)) {bs : List Byte} (hb : bs.length = n)
    (t : Memory) (a : Nat) : Tab.get 0 (spliceSegs place t (k.segs (i + n) 256 i) bs) a =
      overlay a (((List.range n).map (fun j => adr (i + j))).zip bs) (Tab.get 0 t a) := by
  have hadr : (k.segs (i + n) 256 i).flatMap (fun g => (List.range g.n).map (place g + ·)) =
      (List.range n).map (fun j => adr (i + j)) :=
    CopyCmd.flatMap_segs hk hn adr fun g hg => List.map_congr_left fun j hj => hp g hg j (List.mem_range.mp hj)
  rw [Machine.get_spliceSegs _ _ _ (by rw [hadr, List.length_map, List.length_range, hb]), hadr]

/-! ### A scratchpad destination -/

/-- A result of a piece handed on to its next rank. -/
def PieceRes.bind (p : PieceRes) (f : State → PieceRes) : PieceRes :=
  match p with
  | .ok s => f s
  | e => e

/-- The bytes of a piece in the scratchpad of rank `r`. -/
def State.destRank (s : State) (slot rank : Nat) (st : Stamp) (segs : List Seg) (bs : List Byte) (r : Nat) : PieceRes :=
  match s.ct? slot r with
  | none => .ok s
  | some c =>
    match c.localWrite s.raceOn (agentId slot rank 5) st false (granulesOf (segs.map (fun g => (g.dst, g.n)))) with
    | .inl tr => .trap tr
    | .inr c1 => .ok (s.putCt slot r ((c1.writeSegs segs bs).tear c1 (((s.ct? slot rank).map (·.core)).getD c1.core) st true
        ((granulesOf (segs.map (fun g => (g.dst, g.n)))).map (·.1))))

theorem pieceDest_ranks {s : State} {slot rank : Nat} {t : Task} {st : Stamp} {k : CopyCmd} {segs : List Seg}
    {bs : List Byte} (h : k.dstRanks rank ≠ []) : s.pieceDest slot rank t st k segs bs =
      (k.dstRanks rank).foldl (fun acc r => acc.bind (fun s => s.destRank slot rank st segs bs r)) (.ok s) := by
  obtain ⟨r, rs, hr⟩ := List.exists_cons_of_ne_nil h
  rw [State.pieceDest, hr]
  rfl

theorem CopyCmd.dstRanks_nodup (k : CopyCmd) (own : Nat) : (k.dstRanks own).Nodup := by
  rw [CopyCmd.dstRanks]
  split
  · exact List.nodup_singleton _
  · exact List.nodup_singleton _
  · exact List.nodup_singleton _
  · exact List.nodup_range.filter _
  · exact List.nodup_nil

section
variable {slot rank : Nat} {st : Stamp} {segs : List Seg} {bs : List Byte}

theorem destRank_ct {s s' : State} {r : Nat} (h : s.destRank slot rank st segs bs r = .ok s') :
    (∀ q, q ≠ r → s'.ct? slot q = s.ct? slot q) ∧
      ∀ c, s.ct? slot r = some c →
        ∃ c', s'.ct? slot r = some c' ∧ c'.scratch = spliceSegs (·.dst) c.scratch segs bs := by
  rw [State.destRank] at h
  split at h
  next hn =>
    cases h
    exact ⟨fun _ _ => rfl, fun c hc => absurd (hn.symm.trans hc) (by simp)⟩
  next c hc =>
    split at h
    · cases h
    next c1 hw =>
      cases h
      refine ⟨fun q hq => by rw [State.ct_putCt, if_neg (fun e => hq e.2)], fun c' hc' => ?_⟩
      obtain rfl : c = c' := Option.some_inj.mp (hc.symm.trans hc')
      refine ⟨_, State.ct_putCt_self _ hc, ?_⟩
      rw [CoreTask.localWrite] at hw
      split at hw
      · cases hw
      · cases hw
        exact CoreTask.writeSegs_scratch ..

theorem foldl_bind_ne_ok {α : Type} (f : α → State → PieceRes) (l : List α) {p : PieceRes} (hp : ∀ s, p ≠ .ok s) (s : State) :
    l.foldl (fun acc r => acc.bind (f r)) p ≠ .ok s := by
  induction l with
  | nil => exact hp s
  | cons a l ih =>
    have hb : p.bind (f a) = p := by
      cases p with
      | ok s' => exact absurd rfl (hp s')
      | held => rfl
      | trap t => rfl
      | miss need va page host => rfl
    rw [List.foldl_cons, hb]
    exact ih

/-- Each rank's scratchpad is written once; the others stay. -/
theorem foldl_destRank {rs : List Nat} (hnd : rs.Nodup) {s s2 : State}
    (h : rs.foldl (fun acc r => acc.bind (fun s => s.destRank slot rank st segs bs r)) (PieceRes.ok s) = .ok s2) :
    (∀ q, q ∉ rs → s2.ct? slot q = s.ct? slot q) ∧
      ∀ r ∈ rs, ∀ c, s.ct? slot r = some c →
        ∃ c', s2.ct? slot r = some c' ∧ c'.scratch = spliceSegs (·.dst) c.scratch segs bs := by
  induction rs generalizing s with
  | nil =>
    cases h
    exact ⟨fun _ _ => rfl, fun r hr => nomatch hr⟩
  | cons r rs ih =>
    rw [List.foldl_cons] at h
    obtain ⟨hr, hnd'⟩ := List.nodup_cons.mp hnd
    obtain ⟨s1, hs1⟩ : ∃ s1, s.destRank slot rank st segs bs r = .ok s1 := by
      cases hd : s.destRank slot rank st segs bs r with
      | ok s1 => exact ⟨s1, rfl⟩
      | _ => exact absurd h (foldl_bind_ne_ok (fun r s => s.destRank slot rank st segs bs r) rs
          (p := s.destRank slot rank st segs bs r) (by rw [hd]; simp) s2)
    have hb : PieceRes.bind (.ok s) (fun s => s.destRank slot rank st segs bs r) = .ok s1 := hs1
    rw [hb] at h
    obtain ⟨hother, hself⟩ := destRank_ct hs1
    obtain ⟨hrest, hranks⟩ := ih hnd' h
    refine ⟨fun q hq => ?_, fun q hq c hc => ?_⟩
    · rw [List.mem_cons, not_or] at hq
      rw [hrest q hq.2, hother q hq.1]
    · rcases List.mem_cons.mp hq with rfl | hq
      · obtain ⟨c', hc', hs⟩ := hself c hc
        exact ⟨c', (hrest _ hr).trans hc', hs⟩
      · exact hranks q hq c ((hother q (fun e => hr (e ▸ hq))).trans hc)

end

/-! ### The three kinds of destination -/

section
variable {s : State} {slot rank : Nat} {t : Task} {st : Stamp} {k : CopyCmd} {segs : List Seg} {bs : List Byte}
  (hl : k.dstRanks rank = [])
include hl

theorem pieceDest_store (hh : 2 ^ 63 ≤ k.dst.toNat) : s.pieceDest slot rank t st k segs bs =
    .ok (s.updStream (handleStream k.dst.toNat) (fun x => { x with
      store := ringSegs x.store (ringBase (handleSlot k.dst.toNat) + handleOff k.dst.toNat) k.dst.toNat segs bs })) := by
  rw [State.pieceDest, hl]
  exact if_pos (decide_eq_true hh)

/-- What is written to global memory is written through the translations of its parts. -/
theorem pieceDest_parts {s2 : State} (hh : k.dst.toNat < 2 ^ 63) (hd : s.pieceDest slot rank t st k segs bs = .ok s2) :
    ∃ es, s.vaParts t.ctx Need.write (segs.flatMap (fun g => rangeParts g.dst g.n)) = .ok es ∧
      s2 = (s.writeParts (agentId slot rank 5) st es bs).partsDone slot rank t.ctx k.waddr es := by
  have hnot : ¬isHandle k.dst.toNat = true := by
    rw [isHandle, decide_eq_true_eq]
    omega
  simp only [State.pieceDest, hl, hnot, Bool.false_eq_true, if_false] at hd
  split at hd
  · cases hd
  · cases hd
  next es hes =>
    refine ⟨es, hes, ?_⟩
    split at hd
    · cases hd
    · split at hd
      · cases hd
      · cases hd
        rfl

end

section
variable {s s2 : State} {slot rank i n : Nat} {t : Task} {st : Stamp} {k : CopyCmd} {bs : List Byte} (hk : 0 < k.len)
  (hn : n ≤ 256) (hd : s.pieceDest slot rank t st k (k.segs (i + n) 256 i) bs = .ok s2)
include hk hn hd

theorem pieceDest_local (hb : bs.length = n) {r : Nat} {c1 c2 : CoreTask} (hr : r ∈ k.dstRanks rank)
    (h1 : s.ct? slot r = some c1) (h2 : s2.ct? slot r = some c2) :
    (∀ j < n, (∀ m, j < m → m < n → k.byteAt k.dstRows (i + m) ≠ k.byteAt k.dstRows (i + j)) →
      Tab.get 0 c2.scratch (k.byteAt k.dstRows (i + j)) = bs.getD j 0) ∧
    ∀ a, (∀ j < n, k.byteAt k.dstRows (i + j) ≠ a) → Tab.get 0 c2.scratch a = Tab.get 0 c1.scratch a := by
  rw [pieceDest_ranks (List.ne_nil_of_mem hr)] at hd
  obtain ⟨c', hc', hs⟩ := (foldl_destRank (k.dstRanks_nodup rank) hd).2 r hr c1 h1
  obtain rfl : c' = c2 := Option.some_inj.mp (hc'.symm.trans h2)
  have hget : ∀ a, Tab.get 0 c'.scratch a =
      overlay a (((List.range n).map (fun j => k.byteAt k.dstRows (i + j))).zip bs) (Tab.get 0 c1.scratch a) := fun a => by
    rw [hs]
    refine CopyCmd.get_spliceSegs hk hn (adr := k.byteAt k.dstRows) (fun g hg j hj => ?_) hb _ a
    obtain ⟨-, hdst, hrow⟩ := CopyCmd.mem_segs hk hg
    rw [hdst, CopyCmd.byteAt_add _ (by omega)]
  exact ⟨fun j hj hl => (hget _).trans (overlay_zip_last (fun j => k.byteAt k.dstRows (i + j)) hb hj hl _),
    fun a ha => (hget a).trans (overlay_zip_none (fun j => k.byteAt k.dstRows (i + j)) ha _)⟩

section
variable (hl : k.dstRanks rank = [])
include hl

theorem pieceDest_ring (hb : bs.length = n) {x x2 : Stream} (hh : 2 ^ 63 ≤ k.dst.toNat)
    (h1 : s.stream? (handleStream k.dst.toNat) = some x) (h2 : s2.stream? (handleStream k.dst.toNat) = some x2) :
    s2 = { s with streams := s2.streams } ∧
      ∀ j < n, (∀ m, j < m → m < n → k.byteAt k.dstRows (i + m) ≠ k.byteAt k.dstRows (i + j)) → Tab.get 0 x2.store
        (handleSlot k.dst.toNat * 2 ^ 20 + handleOff k.dst.toNat + (k.byteAt k.dstRows (i + j) - k.dst.toNat)) = bs.getD j 0 := by
  rw [pieceDest_store hl hh, State.updStream, h1] at hd
  cases hd
  obtain rfl := Option.some_inj.mp ((find_put_self ..).symm.trans h2)
  refine ⟨rfl, fun j hj hlast => ?_⟩
  have hle : ∀ m, k.dst.toNat ≤ k.byteAt k.dstRows m := k.base_le_byteAt k.dstRows
  rw [ringSegs_eq]
  refine (CopyCmd.get_spliceSegs hk hn (adr := fun m => ringBase (handleSlot k.dst.toNat) + handleOff k.dst.toNat +
    (k.byteAt k.dstRows m - k.dst.toNat)) (fun g hg j hj => ?_) hb _ _).trans ?_
  · obtain ⟨-, hdst, hrow⟩ := CopyCmd.mem_segs hk hg
    rw [hdst, CopyCmd.byteAt_add _ (by omega)]
    have := hle g.idx
    omega
  · refine overlay_zip_last (fun m => ringBase (handleSlot k.dst.toNat) + handleOff k.dst.toNat +
      (k.byteAt k.dstRows (i + m) - k.dst.toNat)) hb hj (fun m h1 h2 he => hlast m h1 h2 ?_) _
    have hm := hle (i + m)
    have hj := hle (i + j)
    omega

theorem pieceDest_global (hh : k.dst.toNat < 2 ^ 63) : ∃ es : List (Xl × Nat × Nat),
    (∀ e ∈ es, s.translate t.ctx Need.write (BitVec.ofNat 64 e.2.1) = .ok e.1 ∧ s.keyBad e.1.f e.1.key = false) ∧
    es.flatMap (fun e => (List.range e.2.2).map (e.2.1 + ·)) = (List.range n).map (fun j => k.byteAt k.dstRows (i + j)) ∧
    s2 = (s.writeParts (agentId slot rank 5) st es bs).partsDone slot rank t.ctx k.waddr es := by
  obtain ⟨es, hes, hs⟩ := pieceDest_parts hl hh hd
  obtain ⟨hmap, hall⟩ := State.vaParts_ok hes
  exact ⟨es, hall, CopyCmd.parts_addresses hk hn k.dstRows (fun g hg => (CopyCmd.mem_segs hk hg).2.1) hmap, hs⟩

end

end

end Sys2Proof.Machine
end

section
/-! Delivered bytes are counted, and the steps of a running copy (R116, R201, R202, R279, R288, R334, R336). -/

namespace Sys2Proof.Machine

/-! ### A release of the copy engine (R201, R202) -/

theorem State.ct_updTask (s : State) (slot : Nat) (f : Task → Task) (r : Nat) :
    (s.updTask slot f).ct? slot r = (s.task? slot).bind (fun t => (f t).ct? r) := by
  rw [State.ct?, State.task_updTask, if_pos rfl, Option.bind_map]
  rfl

/-- A gang whose scratchpads hold the block writes of a core as complete. -/
def Task.untorn (t : Task) (core : Nat) (st : Stamp) : Task :=
  { t with cts := t.cts.map (fun e => (e.1, e.2.untear core st)) }

theorem Task.ct_untorn (t : Task) (core : Nat) (st : Stamp) (q : Nat) :
    (t.untorn core st).ct? q = (t.ct? q).map (·.untear core st) :=
  find_map (fun e : Nat × CoreTask => (e.1, e.2.untear core st)) (fun _ => rfl) t.cts q

theorem State.cpRelease_eq {s : State} {slot rank : Nat} {c : CoreTask} (hc : s.ct? slot rank = some c) :
    s.cpRelease slot rank = (s.updTask slot (·.untorn c.core (c.cpStamp + 1))).updCt slot rank
      (fun x => { x with cpStamp := c.cpStamp + 1 }) := by
  rw [State.cpRelease, hc]
  rfl

theorem State.ct_cpRelease {s : State} {slot rank r : Nat} {c x : CoreTask} (hc : s.ct? slot rank = some c)
    (hx : s.ct? slot r = some x) : (s.cpRelease slot rank).ct? slot r =
      some { x.untear c.core (c.cpStamp + 1) with cpStamp := if r = rank then c.cpStamp + 1 else x.cpStamp } := by
  have htorn : ∀ q, (s.updTask slot (·.untorn c.core (c.cpStamp + 1))).ct? slot q =
      (s.ct? slot q).map (·.untear c.core (c.cpStamp + 1)) := fun q => by
    rw [State.ct_updTask, State.ct?, Option.map_bind]
    exact congrArg _ (funext fun t => t.ct_untorn ..)
  rw [State.cpRelease_eq hc]
  rw [State.ct_updCt, htorn, htorn, hc, hx]
  by_cases hr : r = rank
  · subst hr
    obtain rfl := Option.some_inj.mp (hc.symm.trans hx)
    rw [if_pos ⟨rfl, rfl⟩, if_pos rfl]
    rfl
  · rw [if_neg (fun h => hr h.2), if_neg hr]
    rfl

/-! ### Counting (R116, R334) -/

section
variable {s : State} {slot rank n bar r : Nat} {w : BitVec 32} {rs : List Nat} {c cr : CoreTask}
  (hc : s.ct? slot rank = some c) (hr : (s.cpRelease slot rank).ct? slot r = some cr)
include hc hr

theorem countBars_changed {b : Bar}
    (hb : (Tab.get Bar.zero cr.bars bar).change (-(n : Int)) (some (c.cpStamp + 1)) = some b) :
    s.countBars slot rank n bar w (r :: rs) = ((s.cpRelease slot rank).putCt slot r
      { cr with bars := Tab.set Bar.zero cr.bars bar b }).countBars slot rank n bar w rs := by
  simp only [State.countBars, State.ct_cpRelease hc hc, hr, CoreTask.changeBar, if_pos, hb, Option.map_some]

theorem countBars_overflow
    (hb : (Tab.get Bar.zero cr.bars bar).change (-(n : Int)) (some (c.cpStamp + 1)) = none) :
    s.countBars slot rank n bar w (r :: rs) =
      ((s.cpRelease slot rank).raiseAtC slot rank (trapOf .barOverflow) w).countBars slot rank n bar w rs := by
  simp only [State.countBars, State.ct_cpRelease hc hc, hr, CoreTask.changeBar, if_pos, hb, Option.map_none]

end

theorem CopyCmd.barRanks_eq (k : CopyCmd) (own : Nat) : k.barRanks own = match k.i with
    | .cpl2l _ _ r => [r.val]
    | .cpbc _ m => (List.range 16).filter (fun r => m.getLsbD r)
    | _ => [own] := by
  rw [CopyCmd.barRanks, CopyCmd.dstRanks]
  split
  next h => rw [h]
  next h => rw [h]
  next h1 h2 => simp_all

section
variable {s s1 : State} {slot rank reg n : Nat} {x : RunCopy} {c : CoreTask}

/-- Once its bytes are counted a copy goes on or completes. -/
theorem copyCount_counted (hb : (x.cmd.bar? = none ∧ s1 = s) ∨
      ∃ b, x.cmd.bar? = some b ∧ s1 = s.countBars slot rank n b x.cmd.waddr (x.cmd.barRanks rank)) :
    s.copyCount slot rank reg x n = if x.done + n < x.cmd.total
      then s1.updCt slot rank (fun c => { c with copies := Tab.put reg { x with done := x.done + n } c.copies })
      else s1.copyDone slot rank reg x.cmd := by
  rw [State.copyCount]
  rcases hb with ⟨hb, rfl⟩ | ⟨b, hb, rfl⟩ <;> rw [hb]

theorem State.updCt_eq {s : State} {f : CoreTask → CoreTask} (h : s.ct? slot rank = some c) :
    s.updCt slot rank f = s.putCt slot rank (f c) := by
  rw [State.updCt, h]

variable (hc : s1.ct? slot rank = some c)
include hc

theorem copyDone_silent {k : CopyCmd} (hs : (engineSems k.i).2 = 0) :
    s1.copyDone slot rank reg k = s1.putCt slot rank { c with copies := Tab.del reg c.copies } := by
  rw [State.copyDone, State.updCt_eq hc]
  exact if_pos hs

variable {k : CopyCmd} (hs : (engineSems k.i).2 ≠ 0) {c1 : CoreTask}
  (h1 : ((s1.putCt slot rank { c with copies := Tab.del reg c.copies }).cpRelease slot rank).ct? slot rank = some c1)
include hs h1

theorem copyDone_signals {c2 : CoreTask}
    (h2 : c1.signal (engineSems k.i).2 1 c1.cpStamp (Config.sameCycle s1.tick) = some c2) : s1.copyDone slot rank reg k =
      ((s1.putCt slot rank { c with copies := Tab.del reg c.copies }).cpRelease slot rank).putCt slot rank c2 := by
  rw [State.copyDone, State.updCt_eq hc]
  refine (if_neg hs).trans ?_
  dsimp only
  rw [h1]
  dsimp only
  rw [h2]

theorem copyDone_overflow (h2 : c1.signal (engineSems k.i).2 1 c1.cpStamp (Config.sameCycle s1.tick) = none) :
    s1.copyDone slot rank reg k = ((s1.putCt slot rank { c with copies := Tab.del reg c.copies }).cpRelease slot rank).raiseAtC
      slot rank (trapOf .semOverflow) k.waddr := by
  rw [State.copyDone, State.updCt_eq hc]
  refine (if_neg hs).trans ?_
  dsimp only
  rw [h1]
  dsimp only
  rw [h2]

end

/-! ### The steps of a running copy (R279, R288, R334, R336) -/

/-- The next piece of a running copy, in the runs `segs` of `n` bytes. -/
def State.movePiece (s : State) (slot rank reg : Nat) (t : Task) (c : CoreTask) (x : RunCopy) (n : Nat) (segs : List Seg) :
    Host.Outcome State Fault Refusal :=
  match s.pieceSource slot rank t c x.cmd segs with
  | (.held, _) => idle s
  | (.trap tr, _) => ok (s.copyFault slot rank x.cmd x.done tr)
  | (.miss need va pg h, _) => ok (s.copyMiss slot rank x.cmd x.done need va pg h)
  | (.ok s1, bs) =>
    match s1.pieceDest slot rank t c.cpStamp x.cmd segs bs with
    | .held => idle s
    | .trap tr => ok (s.copyFault slot rank x.cmd x.done tr)
    | .miss need va pg h => ok (s.copyMiss slot rank x.cmd x.done need va pg h)
    | .ok s2 => ok (s.engineRan slot rank (5 + reg) (s2.copyCount slot rank reg x n))

section
variable {s : State} {slot rank reg n : Nat} {t : Task} {c : CoreTask} {x : RunCopy} {segs : List Seg} {bs : List Byte}

theorem movePiece_held (hs : s.pieceSource slot rank t c x.cmd segs = (.held, bs)) :
    s.movePiece slot rank reg t c x n segs = .next s := by
  rw [State.movePiece, hs]
  rfl

theorem movePiece_trap {tr : Trap} (hs : s.pieceSource slot rank t c x.cmd segs = (.trap tr, bs)) :
    s.movePiece slot rank reg t c x n segs = .next (s.copyFault slot rank x.cmd x.done tr) := by
  rw [State.movePiece, hs]
  rfl

variable {s1 : State} (hs : s.pieceSource slot rank t c x.cmd segs = (.ok s1, bs))
include hs

theorem movePiece_destHeld (hd : s1.pieceDest slot rank t c.cpStamp x.cmd segs bs = .held) :
    s.movePiece slot rank reg t c x n segs = .next s := by
  rw [State.movePiece, hs]
  dsimp only
  rw [hd]
  rfl

theorem movePiece_destTrap {tr : Trap} (hd : s1.pieceDest slot rank t c.cpStamp x.cmd segs bs = .trap tr) :
    s.movePiece slot rank reg t c x n segs = .next (s.copyFault slot rank x.cmd x.done tr) := by
  rw [State.movePiece, hs]
  dsimp only
  rw [hd]
  rfl

theorem movePiece_moved {s2 : State} (hd : s1.pieceDest slot rank t c.cpStamp x.cmd segs bs = .ok s2) :
    s.movePiece slot rank reg t c x n segs =
      .next (s.engineRan slot rank (5 + reg) (s2.copyCount slot rank reg x n)) := by
  rw [State.movePiece, hs]
  dsimp only
  rw [hd]
  rfl

end

section
variable {s : State} {slot rank : Nat} {reg : Fin 8} {t : Task} {c : CoreTask} {x : RunCopy}
  (h : s.CopyRuns slot rank reg.val t c x)
include h

theorem runningCopy_eq : s.runningCopy slot rank reg.val = some (t, c, x) := by
  obtain ⟨⟨ht, hrun, hc, hclk⟩, hfree, hgoes, hx⟩ := h
  rw [State.runningCopy, ht, hc]
  refine (if_pos ⟨hrun, hclk, hgoes, hfree⟩).trans ?_
  rw [hx]
  rfl

theorem exec_copyPiece_moves (hm : ∀ p m n, x.cmd.i ≠ .cpmeta p m n) : exec (.copyPiece slot rank reg) s =
    s.movePiece slot rank reg.val t c x (min 256 (x.cmd.total - x.done))
      (x.cmd.segs (x.done + min 256 (x.cmd.total - x.done)) 256 x.done) := by
  rw [exec_copyPiece, execCopyPiece, runningCopy_eq h]
  dsimp only
  split
  next hi => exact absurd hi (hm _ _ _)
  next => rfl

section
variable {p : CopyOp} {m : Fin 2} {n : BitVec 7} (hi : x.cmd.i = .cpmeta p m n)
include hi

theorem exec_cpmetaEntry_full (hq : 64 ≤ (Tab.get [] c.mdq m.val).length) : exec (.cpmetaEntry slot rank reg) s = .next s := by
  rw [exec_cpmetaEntry, execCpmetaEntry, runningCopy_eq h]
  dsimp only
  rw [hi]
  exact if_pos hq

variable (hq : (Tab.get [] c.mdq m.val).length < 64)
include hq

theorem exec_cpmetaEntry_trap {tr : Trap} (hr : c.localRead s.raceOn (agentId slot rank 5) c.cpStamp
      (granules (x.cmd.src.toNat + x.done) 512) = .inl tr) :
    exec (.cpmetaEntry slot rank reg) s = .next (s.copyFault slot rank x.cmd x.done tr) := by
  rw [exec_cpmetaEntry, execCpmetaEntry, runningCopy_eq h]
  dsimp only
  rw [hi]
  refine (if_neg (Nat.not_le.mpr hq)).trans ?_
  rw [hr]
  rfl

theorem exec_cpmetaEntry_moves {c1 : CoreTask} (hr : c.localRead s.raceOn (agentId slot rank 5) c.cpStamp
      (granules (x.cmd.src.toNat + x.done) 512) = .inr c1) :
    exec (.cpmetaEntry slot rank reg) s = .next (s.engineRan slot rank (5 + reg.val) ((s.putCt slot rank { c1 with
      mdq := Tab.put m.val (Tab.get [] c.mdq m.val ++ [c.seen s.tick c.core c.cpStamp (x.cmd.src.toNat + x.done) 512])
        c.mdq }).copyCount slot rank reg.val x 512)) := by
  rw [exec_cpmetaEntry, execCpmetaEntry, runningCopy_eq h]
  dsimp only
  rw [hi]
  refine (if_neg (Nat.not_le.mpr hq)).trans ?_
  rw [hr]
  obtain ⟨races, rfl⟩ := CoreTask.localRead_frame hr
  rfl

end

end

/-! ### The piece after a fault of the gang (R279) -/

theorem engineRan_free {s t : State} {slot rank unit : Nat} {k : Task} (hk : s.task? slot = some k)
    (hf : k.faulted = false) : s.engineRan slot rank unit t = t := by
  rw [State.engineRan, hk]
  exact if_neg (by rw [Option.any_some, hf]; decide)

theorem engineRan_stops {s t : State} {slot rank unit now : Nat} {k u : Task} (hk : s.task? slot = some k)
    (hf : k.faulted = true) (hu : (s.engineRan slot rank unit t).task? slot = some u) (huf : u.faulted = true) :
    u.engineStops now rank unit = true := by
  have hran : s.engineRan slot rank unit t =
      t.updTask slot (fun t => { t with finished := engineKey rank unit :: t.finished }) := by
    rw [State.engineRan, hk]
    exact if_pos hf
  rw [hran, State.task_updTask, if_pos rfl] at hu
  obtain ⟨v, -, rfl⟩ := Option.map_eq_some_iff.mp hu
  rw [Task.engineStops, huf]
  simp

end Sys2Proof.Machine

namespace Sys2Proof.Proofs

open Sys2Proof.Machine

/-- Settles O34: the start, the bytes of a piece, the counting, and the engine's steps. -/
theorem copiesRun : Obligations.CopiesRun := by
  refine ⟨?_, ?_, ?_, ?_⟩
  · intro s slot rank reg t c k h held
    rw [exec_copyStart_head h]
    refine ⟨fun hfull => congrArg _ (copyBegin_full hfull), fun hreg hf hl => ?_⟩
    have hfree := CoreTask.freeCopy_eq_some hreg hf hl
    exact ⟨fun hh => congrArg _ (copyBegin_held hfree hh),
      fun s1 hh hne hd => congrArg _ (copyBegin_delivers hfree hh hne hd),
      fun hh hs hok => congrArg _ (copyBegin_starts hfree hh hs hok),
      fun r w hh hs hg hi hok => congrArg _ (copyBegin_refused hfree hh hs hg hi hok)⟩
  · intro s slot rank done n t c k hk hn plane row src dst segs
    exact ⟨fun v hf => pieceSource_fill hk hn hf, fun hf hl ht hw c1 hr => pieceSource_local hk hn hf hl ht hw hr,
      fun st hf hl hh hw hst => pieceSource_ring hk hn hf hl hh hw hst,
      fun s1 bs hf hl hh hp => pieceSource_global hk hn hf hl hh hp,
      fun s2 bs r c1 c2 hb hr h1 hd h2 => pieceDest_local hk hn hd hb hr h1 h2,
      fun s2 bs st st2 hb hl hh h1 hd h2 => pieceDest_ring hk hn hd hl hb hh h1 h2,
      fun s2 bs hl hh hd => pieceDest_global hk hn hd hl hh⟩
  · refine ⟨fun _ _ _ _ _ _ => rfl, fun s slot rank r c x => State.ct_cpRelease, ?_, CopyCmd.barRanks_eq, ?_⟩
    · intro s slot rank n bar r w rs c cr hc s1 hr b
      exact ⟨fun b' hb => countBars_changed hc hr hb, countBars_overflow hc hr⟩
    intro s s1 slot rank reg n x c hb hc sem freed
    have hcount := copyCount_counted (reg := reg) hb
    have hdone : x.cmd.total ≤ x.done + n → s.copyCount slot rank reg x n = s1.copyDone slot rank reg x.cmd :=
      fun hle => hcount.trans (if_neg (Nat.not_lt.mpr hle))
    exact ⟨fun hlt => (hcount.trans (if_pos hlt)).trans (State.updCt_eq hc),
      fun hle hs => (hdone hle).trans (copyDone_silent hc hs),
      fun c1 h1 => ⟨fun c2 hle hs h2 => (hdone hle).trans (copyDone_signals hc hs h1 h2),
        fun hle hs h2 => (hdone hle).trans (copyDone_overflow hc hs h1 h2)⟩⟩
  · refine ⟨fun s slot rank reg t c x h hm => ?_, fun s slot rank reg t c c1 x p m n h hi => ?_,
      fun c tick core st a n ht hw => CoreTask.seen_eq ht hw tick core st a n,
      fun s t slot rank unit k hk => ⟨engineRan_free hk, fun hf u now hu huf => engineRan_stops hk hf hu huf⟩⟩
    · intro n segs
      rw [exec_copyPiece_moves h hm]
      exact ⟨fun bs hs => movePiece_held hs, fun tr bs hs => movePiece_trap hs, fun s1 bs hs =>
        ⟨movePiece_destHeld hs, fun tr hd => movePiece_destTrap hs hd, fun s2 hd => movePiece_moved hs hd⟩⟩
    · exact ⟨exec_cpmetaEntry_full h hi, fun tr hq hr => exec_cpmetaEntry_trap h hi hq hr,
        fun hq hr => exec_cpmetaEntry_moves h hi hq hr⟩

end Sys2Proof.Proofs
end

section
/-! Scratchpad loads and stores (R105, R344, R346, R371). -/

namespace Sys2Proof.Machine

/-! ### Bytes -/

@[simp] theorem CoreTask.updSeq_scratch (c : CoreTask) (q : SeqId) (f : Seq → Seq) :
    (c.updSeq q f).scratch = c.scratch := by
  cases q <;> rfl

theorem CoreTask.readLocal_eq {c : CoreTask} (hw : Tab.wf 0 c.scratch = true) (a n : Nat) :
    c.readLocal a n = (List.range n).map (fun i => Tab.get 0 c.scratch (a + i)) := sliceN_eq_readN 0 _ _ _ hw

theorem leBytes_getElem {n v i : Nat} (h : i < (leBytes n v).length) : (leBytes n v)[i] = BitVec.ofNat 8 (v / 256 ^ i) := by
  induction n generalizing v i with
  | zero => cases h
  | succ n ih =>
    cases i with
    | zero =>
      apply BitVec.eq_of_toNat_eq
      simp [leBytes]
    | succ i =>
      rw [Nat.pow_succ', ← Nat.div_div_eq_div_mul]
      exact ih (by simpa [leBytes] using h)

/-- The scratchpad after the low bytes of a register are stored. -/
theorem get_writeLocal_leBytes (c : CoreTask) (a n v b : Nat) : Tab.get 0 (c.writeLocal a (leBytes n v)).scratch b =
    if a ≤ b ∧ b < a + n then BitVec.ofNat 8 (v / 256 ^ (b - a)) else Tab.get 0 c.scratch b := by
  simp only [get_writeLocal, leBytes_length, leBytes_getElem, dite_eq_ite]

/-- A scratchpad write that passes the race check leaves all but the race records as it was. -/
theorem CoreTask.localWrite_frame {c c1 : CoreTask} {on : Bool} {a : AgentId} {st : Stamp} {atomic : Bool}
    {gs : List (Nat × BitVec 64)} (h : c.localWrite on a st atomic gs = .inr c1) :
    ∃ races, c1 = { c with scratchRaces := races } := ⟨_, (CoreTask.localWrite_inr h).2⟩

/-- A word without a destination that completes changes its own core-task alone, which goes on behind the word. -/
theorem passed_onlyCur {u : WordUse} {s : State} {c : CoreTask} (h : s.Enters u c) (hd : u.dst = none) (c' : CoreTask) :
    s.OnlyCur (s.passed u c' none) ∧
      (s.passed u c' none).ct? s.cur.slot s.cur.rank = some (c'.updSeq s.cur.q Seq.advance) := by
  rw [passed_none s c' hd]
  exact ⟨State.onlyCur_putCt .., State.ct_withCur h _⟩

/-! ### The checks of an address (R105, R346, R371) -/

section
variable {α : Type} {x y z : α} {a n : Nat}

theorem scratchCheck_align (ha : ¬n ∣ a) : (if a % n ≠ 0 then x else if scratchTop ≤ a then y else z) = x :=
  if_pos fun he => ha (Nat.dvd_of_mod_eq_zero he)

theorem scratchCheck_range (ha : n ∣ a) (hr : 0x180000 ≤ a) :
    (if a % n ≠ 0 then x else if scratchTop ≤ a then y else z) = y :=
  (if_neg (not_not.mpr (Nat.mod_eq_zero_of_dvd ha))).trans (if_pos hr)

theorem scratchCheck_ok (ha : n ∣ a) (hr : a < 0x180000) :
    (if a % n ≠ 0 then x else if scratchTop ≤ a then y else z) = z :=
  (if_neg (not_not.mpr (Nat.mod_eq_zero_of_dvd ha))).trans (if_neg (Nat.not_le.mpr hr))

end

/-! ### LDL, once it enters (R346) -/

section
variable {k : BitVec 8} {t : Option Tag} {sz : LoadSize} {d a : GReg} {off : BitVec 40} {s : State} {c c1 : CoreTask}
  (h : s.Enters { perm := [.c, .l, .s], cons := k, alloc := t, dst := gDst d } c)
include h

theorem exec_ldl_align (ha : ¬sz.bytes ∣ (effAddr (c.seq s.cur.q) a off).toNat) :
    exec (.ldl k t sz d a off) s = .next (s.trapped c (trapAt .align (effAddr (c.seq s.cur.q) a off))) := by
  rw [exec_ldl, execLdl]
  exact runLocal_trap h (scratchCheck_align ha)

variable (ha : sz.bytes ∣ (effAddr (c.seq s.cur.q) a off).toNat)
include ha

theorem exec_ldl_range (hr : 0x180000 ≤ (effAddr (c.seq s.cur.q) a off).toNat) :
    exec (.ldl k t sz d a off) s = .next (s.trapped c (trapAt .lsaRange (effAddr (c.seq s.cur.q) a off))) := by
  rw [exec_ldl, execLdl]
  exact runLocal_trap h (scratchCheck_range ha hr)

variable (hr : (effAddr (c.seq s.cur.q) a off).toNat < 0x180000)
include hr

theorem exec_ldl_tagged {tg : Tag} (ht : t = some tg) : exec (.ldl k t sz d a off) s =
    .next (s.passed { perm := [.c, .l, .s], cons := k, alloc := t, dst := gDst d }
      (c.deferLoad s.cur.q tg d (.ldl (effAddr (c.seq s.cur.q) a off).toNat sz (c.seq s.cur.q).pc (c.seq s.cur.q).stamp))
      none) := by
  subst ht
  rw [exec_ldl, execLdl]
  exact runLocal_done h (scratchCheck_ok ha hr)

variable (ht : t = none)
include ht

theorem exec_ldl_race {tr : Trap} (hl : c.localRead s.raceOn (agentId s.cur.slot s.cur.rank (seqNum s.cur.q))
      (c.seq s.cur.q).stamp (granules (effAddr (c.seq s.cur.q) a off).toNat sz.bytes) = .inl tr) :
    exec (.ldl k t sz d a off) s = .next (s.trapped c tr) := by
  subst ht
  rw [exec_ldl, execLdl]
  refine runLocal_trap h ((scratchCheck_ok ha hr).trans ?_)
  rw [hl]

theorem exec_ldl_reads (hl : c.localRead s.raceOn (agentId s.cur.slot s.cur.rank (seqNum s.cur.q))
      (c.seq s.cur.q).stamp (granules (effAddr (c.seq s.cur.q) a off).toNat sz.bytes) = .inr c1)
    (hw : Tab.wf 0 c.scratch = true) : exec (.ldl k t sz d a off) s =
      .next (s.passed { perm := [.c, .l, .s], cons := k, alloc := t, dst := gDst d } c1 (some (d, sz.extend
        ((List.range sz.bytes).map (fun i => Tab.get 0 c.scratch ((effAddr (c.seq s.cur.q) a off).toNat + i)))))) := by
  subst ht
  rw [exec_ldl, execLdl]
  refine runLocal_done h ((scratchCheck_ok ha hr).trans ?_)
  obtain ⟨races, rfl⟩ := CoreTask.localRead_frame hl
  rw [hl, ← CoreTask.readLocal_eq hw]
  rfl

end

/-! ### STL, once it enters (R371) -/

section
variable {k : BitVec 8} {sz : StoreSize} {v a : GReg} {off : BitVec 40} {s : State} {c c1 : CoreTask}
  (h : s.Enters { perm := [.c, .l, .s], cons := k } c)
include h

theorem exec_stl_align (ha : ¬sz.bytes ∣ (effAddr (c.seq s.cur.q) a off).toNat) :
    exec (.stl k sz v a off) s = .next (s.trapped c (trapAt .align (effAddr (c.seq s.cur.q) a off))) := by
  rw [exec_stl, execStl]
  exact runLocal_trap h (scratchCheck_align ha)

variable (ha : sz.bytes ∣ (effAddr (c.seq s.cur.q) a off).toNat)
include ha

theorem exec_stl_range (hr : 0x180000 ≤ (effAddr (c.seq s.cur.q) a off).toNat) :
    exec (.stl k sz v a off) s = .next (s.trapped c (trapAt .lsaRange (effAddr (c.seq s.cur.q) a off))) := by
  rw [exec_stl, execStl]
  exact runLocal_trap h (scratchCheck_range ha hr)

variable (hr : (effAddr (c.seq s.cur.q) a off).toNat < 0x180000)
include hr

theorem exec_stl_waits (hp : (c.seq s.cur.q).pendingLocalAt (effAddr (c.seq s.cur.q) a off).toNat sz.bytes = true) :
    exec (.stl k sz v a off) s = .next (s.waitCt s.cur c .plain) := by
  rw [exec_stl, execStl]
  exact runLocal_wait h ((scratchCheck_ok ha hr).trans (if_pos hp))

variable (hp : (c.seq s.cur.q).pendingLocalAt (effAddr (c.seq s.cur.q) a off).toNat sz.bytes = false)
include hp

theorem exec_stl_race {tr : Trap} (hl : c.localWrite s.raceOn (agentId s.cur.slot s.cur.rank (seqNum s.cur.q))
      (c.seq s.cur.q).stamp false (granules (effAddr (c.seq s.cur.q) a off).toNat sz.bytes) = .inl tr) :
    exec (.stl k sz v a off) s = .next (s.trapped c tr) := by
  rw [exec_stl, execStl]
  refine runLocal_trap h ((scratchCheck_ok ha hr).trans ((if_neg (ne_true_of_eq_false hp)).trans ?_))
  rw [hl]

theorem exec_stl_writes (hl : c.localWrite s.raceOn (agentId s.cur.slot s.cur.rank (seqNum s.cur.q))
      (c.seq s.cur.q).stamp false (granules (effAddr (c.seq s.cur.q) a off).toNat sz.bytes) = .inr c1) :
    exec (.stl k sz v a off) s = .next (s.passed { perm := [.c, .l, .s], cons := k }
      (c1.writeLocal (effAddr (c.seq s.cur.q) a off).toNat (leBytes sz.bytes ((c.seq s.cur.q).rd v).toNat)) none) := by
  rw [exec_stl, execStl]
  refine runLocal_done h ((scratchCheck_ok ha hr).trans ((if_neg (ne_true_of_eq_false hp)).trans ?_))
  rw [hl]

end

/-- A store to the scratchpad changes its bytes, what is kept beside them, and its sequencer alone. -/
theorem CoreTask.writeLocal_rest (c : CoreTask) (races : Tab RaceRec) (q : SeqId) (f : Seq → Seq) (a : Nat) (bs : List Byte) :
    { (({ c with scratchRaces := races } : CoreTask).writeLocal a bs).updSeq q f with
      scratch := c.scratch, bankMask := c.bankMask, torn := c.torn, scratchRaces := c.scratchRaces }.setSeq q (c.seq q) = c := by
  cases q <;> rfl

end Sys2Proof.Machine

namespace Sys2Proof.Proofs

open Sys2Proof.Machine

/-- Settles O22: the checks of the address, then the bytes read or written and what stays. -/
theorem scratchpadLoadsAndStores : Obligations.ScratchpadLoadsAndStores := by
  refine ⟨fun k t sz d a off s c c1 => ?_, fun k sz v a off s c c1 => ?_⟩
  · intro u h q ad id
    refine ⟨exec_ldl_align h, exec_ldl_range h, fun ha hr => ⟨fun tg => exec_ldl_tagged h ha hr,
      fun tr ht => exec_ldl_race h ha hr ht, fun ht hl hw => ⟨exec_ldl_reads h ha hr ht hl hw, ?_⟩⟩⟩
    obtain ⟨races, rfl⟩ := CoreTask.localRead_frame hl
    rfl
  · intro u h q ad id
    refine ⟨exec_stl_align h, exec_stl_range h, fun ha hr => ⟨exec_stl_waits h ha hr, fun hp =>
      ⟨fun tr => exec_stl_race h ha hr hp, fun hl => ?_⟩⟩⟩
    have hexec := exec_stl_writes (v := v) h ha hr hp hl
    obtain ⟨races, rfl⟩ := CoreTask.localWrite_frame hl
    obtain ⟨honly, hct⟩ := passed_onlyCur (u := u) h rfl
      (({ c with scratchRaces := races } : CoreTask).writeLocal ad.toNat (leBytes sz.bytes (q.rd v).toNat))
    refine ⟨_, _, hexec, honly, hct, fun b => ?_, CoreTask.seq_updSeq .., CoreTask.writeLocal_rest ..⟩
    rw [CoreTask.updSeq_scratch]
    exact get_writeLocal_leBytes ..

end Sys2Proof.Proofs
end

section
/-! Address generators and the blocks that they describe (R83, R110 to R112, R201, R324, R361, R367, R368). -/

namespace Sys2Proof.Machine

/-! ### The words of a generator (R110, R324) -/

theorem ownsAg_iff (q : SeqId) (n : Nat) : ownsAg q n = true ↔ (q = .l ∧ n < 8) ∨ (q = .s ∧ 8 ≤ n) := by
  cases q <;> simp [ownsAg]

theorem CoreTask.agWord_setAg (c : CoreTask) {ag w j x : Nat} (v : Word) (hw : w < 4) (hx : x < 4) :
    (c.setAg ag w v).agWord j x = if j = ag ∧ x = w then v else c.agWord j x := by
  have hkey : j * 4 + x = ag * 4 + w ↔ j = ag ∧ x = w := by omega
  rw [CoreTask.agWord, CoreTask.setAg, Tab.get_set, CoreTask.agWord]
  simp only [hkey]

/-- The bits of PTR replaced in a generator's first word. -/
theorem fieldOf_withPtr (w : Word) {p : Nat} (hp : p < 2 ^ 21) :
    fieldOf ((w &&& ~~~(0x3FFFFE00000 : Word)) ||| BitVec.ofNat 64 (p * 2 ^ 21)) 21 21 = p := by
  have hkept : (w &&& ~~~(0x3FFFFE00000 : Word)) >>> 21 &&& BitVec.ofNat 64 (2 ^ 21 - 1) = 0#64 := by
    have hmask : (~~~(0x3FFFFE00000 : Word)) >>> 21 &&& BitVec.ofNat 64 (2 ^ 21 - 1) = 0#64 := by decide
    rw [BitVec.ushiftRight_and_distrib, BitVec.and_assoc, hmask, BitVec.and_zero]
  have hnew : fieldOf (BitVec.ofNat 64 (p * 2 ^ 21)) 21 21 = p := by
    rw [fieldOf_eq _ _ (by decide), BitVec.toNat_ofNat]
    omega
  rw [fieldOf, BitVec.ushiftRight_or_distrib, BitVec.and_or_distrib_right, hkept, BitVec.zero_or]
  exact hnew

/-- PTR moves modulo 2^21 (R361). -/
theorem CoreTask.ptr_movePtr (c : CoreTask) (ag : Nat) (v : Int) :
    (fieldOf ((c.movePtr ag (BitVec.ofInt 64 v)).agWord ag 0) 21 21 : Int) =
      ((fieldOf (c.agWord ag 0) 21 21 : Int) + v) % 2 ^ 21 := by
  rw [CoreTask.movePtr, CoreTask.agWord_setAg _ _ (by decide) (by decide), if_pos ⟨rfl, rfl⟩,
    fieldOf_withPtr _ (Nat.mod_lt _ (by decide)), BitVec.toNat_ofInt]
  omega

/-- A generator's move depends on the generators alone. -/
theorem CoreTask.movePtr_ag {c c' : CoreTask} (h : c'.ag = c.ag) (ag : Nat) (d : Word) :
    (c'.movePtr ag d).ag = (c.movePtr ag d).ag := by
  simp only [CoreTask.movePtr, CoreTask.setAg, CoreTask.agWord, h]

/-- What a generator that passes the checks of R111 describes. -/
theorem CoreTask.agBlock_some {c : CoreTask} {ag : Nat} {b : AgBlock} (h : c.agBlock ag = some b) :
    b.adv = ((c.agWord ag 2).setWidth 22).signExtend 64 ∧ b.ptr = fieldOf (c.agWord ag 0) 21 21 ∧
      b.rb = (b.cols * b.fmt.nibbles + 1) / 2 := by
  rw [CoreTask.agBlock] at h
  split at h
  · cases h
  · split at h
    · cases h
    · cases h
      exact ⟨rfl, rfl, rfl⟩

/-! ### AGSET, AGGET and SADV (R83, R324, R361) -/

theorem agWords_fieldFault {k : BitVec 8} {ag : Fin 16} {w : Fin 4} {s : State} (a d : GReg)
    (hi : (s.canIssue s.cur).isSome = true) (hq : s.cur.q = .l ∨ s.cur.q = .s) (hf : ownsAg s.cur.q ag.val = false ∨ w = 3) :
    FieldFault (.agset k ag w a) s ∧ FieldFault (.agget k d ag w) s := by
  have hp : [SeqId.l, .s].contains s.cur.q = true := by rcases hq with hq | hq <;> rw [hq] <;> rfl
  have hl : (ownsAg s.cur.q ag.val && decide (w ≠ 3)) = false := by rcases hf with hf | hf <;> simp [hf]
  rw [FieldFault, FieldFault, exec_agset, execAgset, exec_agget, execAgget, runLocal, runLocal, enter_illegal hi hp hl,
    enter_illegal hi hp hl]
  exact ⟨rfl, rfl⟩

theorem sadv_fieldFault {k : BitVec 8} {ag : Fin 16} {s : State} (adv : Operand 36)
    (hi : (s.canIssue s.cur).isSome = true) (hq : s.cur.q = .l ∨ s.cur.q = .s) (hf : ownsAg s.cur.q ag.val = false) :
    FieldFault (.sadv k ag adv) s := by
  have hp : [SeqId.l, .s].contains s.cur.q = true := by rcases hq with hq | hq <;> rw [hq] <;> rfl
  rw [FieldFault, exec_sadv, execSadv, runLocal, enter_illegal hi hp hf]

theorem exec_agset_enters {k : BitVec 8} {ag : Fin 16} {w : Fin 4} {a : GReg} {s : State} {c : CoreTask}
    (h : s.Enters { perm := [.l, .s], legal := ownsAg s.cur.q ag.val && decide (w ≠ 3), cons := k } c) :
    ((c.seq s.cur.q).rd a &&& agReserved ag.val w.val ≠ 0 →
      exec (.agset k ag w a) s = .next (s.trapped c (trapOf .illegalField))) ∧
    ((c.seq s.cur.q).rd a &&& agReserved ag.val w.val = 0 → exec (.agset k ag w a) s = .next (s.passed
      { perm := [.l, .s], legal := ownsAg s.cur.q ag.val && decide (w ≠ 3), cons := k }
      (c.setAg ag.val w.val ((c.seq s.cur.q).rd a)) none)) := by
  rw [exec_agset, execAgset]
  exact ⟨fun hr => runLocal_trap h (if_pos hr), fun hr => runLocal_done h (if_neg (not_not.mpr hr))⟩

theorem exec_agget_enters {k : BitVec 8} {ag : Fin 16} {w : Fin 4} {d : GReg} {s : State} {c : CoreTask}
    (h : s.Enters { perm := [.l, .s], legal := ownsAg s.cur.q ag.val && decide (w ≠ 3), cons := k, dst := gDst d } c) :
    ∃ t, exec (.agget k d ag w) s = .next t ∧ s.Wrote t c d (c.agWord ag.val w.val) := by
  rw [exec_agget, execAgget]
  exact ⟨_, runLocal_done h rfl, passed_wrote _ h rfl⟩

/-- The number that SADV adds: its own field or its register, both signed. -/
def sadvBy (q : Seq) : Operand 36 → Int
  | .imm v => v.toInt
  | .reg g => (q.rd g).toInt

theorem exec_sadv_enters {k : BitVec 8} {ag : Fin 16} {adv : Operand 36} {s : State} {c : CoreTask}
    (h : s.Enters { perm := [.l, .s], legal := ownsAg s.cur.q ag.val, cons := k } c) :
    exec (.sadv k ag adv) s = .next (s.passed { perm := [.l, .s], legal := ownsAg s.cur.q ag.val, cons := k }
      (c.movePtr ag.val (BitVec.ofInt 64 (sadvBy (c.seq s.cur.q) adv))) none) := by
  rw [exec_sadv, execSadv, runLocal_done h rfl]
  cases adv with
  | imm v => rfl
  | reg g => rw [sadvBy, BitVec.ofInt_toInt]

/-! ### SLOAD (R111, R112, R367) -/

theorem sload_fieldFault {k : BitVec 8} {ag : Fin 16} {s : State} (hi : (s.canIssue s.cur).isSome = true)
    (hq : s.cur.q = .l) (hf : 8 ≤ ag.val) : FieldFault (.sload k ag) s := by
  have hp : [SeqId.l].contains s.cur.q = true := by rw [hq]; rfl
  rw [FieldFault, exec_sload, execSload, runLocal, enter_illegal hi hp (decide_eq_false (Nat.not_lt.mpr hf))]

/-- With no granule partly written, a load takes its rows and its scale bytes as they stand. -/
theorem CoreTask.loadBlock_whole {c : CoreTask} (ht : c.torn = []) (hw : Tab.wf 0 c.scratch = true) (tick : Nat) (b : AgBlock) :
    (c.loadBlock tick b).bytes = (List.range b.rows).flatMap (fun r =>
      (List.range b.rb).map (fun i => Tab.get 0 c.scratch (b.ptr + r * b.stride + i))) ∧
    (c.loadBlock tick b).scales = if b.sstride = 0 then none
      else some ((List.range b.rows).map (fun r => Tab.get 0 c.scratch (b.ptr + b.rb + r * b.sstride))) := by
  refine ⟨?_, ?_⟩
  · simp only [CoreTask.loadBlock, CoreTask.seen_eq ht hw]
  · simp only [CoreTask.loadBlock, CoreTask.seen_eq ht hw, List.range_one, List.map_cons, List.map_nil, Nat.add_zero,
      ← List.map_eq_flatMap]

section
variable {k : BitVec 8} {ag : Fin 16} {s : State} {c c1 : CoreTask} {b : AgBlock}
  (h : s.Enters { perm := [.l], legal := decide (ag.val < 8), cons := k } c)
include h

theorem exec_sload_shape (hb : c.agBlock ag.val = none) : exec (.sload k ag) s = .next (s.trapped c (trapOf .shape)) := by
  rw [exec_sload, execSload]
  refine runLocal_trap h ?_
  rw [hb]

variable (hb : c.agBlock ag.val = some b)
include hb

theorem exec_sload_range (ho : b.outside = true) : exec (.sload k ag) s = .next (s.trapped c (trapOf .lsaRange)) := by
  rw [exec_sload, execSload]
  refine runLocal_trap h ?_
  rw [hb]
  exact if_pos ho

variable (ho : b.outside = false)
include ho

theorem exec_sload_never (hp : c.testPush (s.pool c.core) .l s.fresh b.queue
      (ceilDiv (b.rows * b.rb + b.scaleBytes) 256) = .never) :
    exec (.sload k ag) s = .next (s.trapped c (trapOf .shape)) := by
  rw [exec_sload, execSload]
  refine runLocal_trap h ?_
  simp only [hb, ho, hp, Bool.false_eq_true, if_false]

theorem exec_sload_waits (hp : c.testPush (s.pool c.core) .l s.fresh b.queue
      (ceilDiv (b.rows * b.rb + b.scaleBytes) 256) = .wait) : exec (.sload k ag) s =
    .next (s.waitCt s.cur c (.push b.queue (ceilDiv (b.rows * b.rb + b.scaleBytes) 256) false)) := by
  rw [exec_sload, execSload]
  refine runLocal_wait h ?_
  simp only [hb, ho, hp, Bool.false_eq_true, if_false]

variable (hp : c.testPush (s.pool c.core) .l s.fresh b.queue (ceilDiv (b.rows * b.rb + b.scaleBytes) 256) = .room)
include hp

theorem exec_sload_race {tr : Trap}
    (hl : c.localRead s.raceOn (agentId s.cur.slot s.cur.rank 1) c.seqL.stamp b.granules = .inl tr) :
    exec (.sload k ag) s = .next (s.trapped c tr) := by
  rw [exec_sload, execSload]
  refine runLocal_trap h ?_
  simp only [hb, ho, hp, hl, Bool.false_eq_true, if_false]

theorem exec_sload_pushes
    (hl : c.localRead s.raceOn (agentId s.cur.slot s.cur.rank 1) c.seqL.stamp b.granules = .inr c1) :
    exec (.sload k ag) s = .next (s.passed { perm := [.l], legal := decide (ag.val < 8), cons := k }
      ((c1.pushBlock b.queue (c1.loadBlock s.tick b)).movePtr ag.val b.adv) none) := by
  rw [exec_sload, execSload]
  refine runLocal_done h ?_
  simp only [hb, ho, hp, hl, Bool.false_eq_true, if_false]

end

/-! ### The bytes of a stored block (R368) -/

/-- A byte of the scratchpad after one write. -/
def writtenOver (y : Nat) (old : Byte) (w : Nat × List Byte) : Byte :=
  if w.1 ≤ y ∧ y < w.1 + w.2.length then w.2.getD (y - w.1) 0 else old

/-- Runs of bytes written one after the other. -/
def CoreTask.writeRuns (c : CoreTask) (ws : List (Nat × List Byte)) : CoreTask :=
  ws.foldl (fun c w => c.writeLocal w.1 w.2) c

theorem CoreTask.get_writeRuns (y : Nat) (ws : List (Nat × List Byte)) (c : CoreTask) :
    Tab.get 0 (c.writeRuns ws).scratch y = ws.foldl (writtenOver y) (Tab.get 0 c.scratch y) := by
  induction ws generalizing c with
  | nil => rfl
  | cons w ws ih =>
    rw [List.foldl_cons, writtenOver, ← get_splice_getD]
    exact ih _

theorem CoreTask.writeRuns_frame (ws : List (Nat × List Byte)) (c : CoreTask) : ∃ scratch bankMask torn,
    c.writeRuns ws = { c with scratch := scratch, bankMask := bankMask, torn := torn } := by
  induction ws generalizing c with
  | nil => exact ⟨_, _, _, rfl⟩
  | cons w ws ih =>
    obtain ⟨scratch, bankMask, torn, he⟩ := ih (c.writeLocal w.1 w.2)
    exact ⟨scratch, bankMask, torn, he⟩

/-- The runs of a block: its rows, then its scale bytes. -/
def AgBlock.writes (g : AgBlock) (b : Block) : List (Nat × List Byte) :=
  (List.range g.rows).map (fun r => (g.ptr + r * g.stride, (b.bytes.drop (r * g.rb)).take g.rb)) ++
  (match b.scales with
    | none => []
    | some sc => (List.range g.rows).map (fun r => (g.ptr + g.rb + r * g.sstride, [sc.getD r 0])))

theorem CoreTask.storeBlock_eq (c : CoreTask) (g : AgBlock) (b : Block) : c.storeBlock g b = c.writeRuns (g.writes b) := by
  rw [CoreTask.writeRuns, AgBlock.writes, List.foldl_append, List.foldl_map]
  cases hs : b.scales with
  | none => simp only [CoreTask.storeBlock, hs, List.foldl_nil]
  | some sc => simp only [CoreTask.storeBlock, hs, List.foldl_map]

/-- Every run of a block that fits its generator lies in a range of the generator. -/
theorem AgBlock.mem_writes {g : AgBlock} {b : Block} (hs : b.scales.isSome = decide (g.sstride ≠ 0)) {w : Nat × List Byte}
    (hw : w ∈ g.writes b) : ∃ x ∈ g.ranges, x.1 = w.1 ∧ w.2.length ≤ x.2 := by
  rcases List.mem_append.mp hw with hw | hw
  · obtain ⟨r, hr, rfl⟩ := List.mem_map.mp hw
    exact ⟨_, List.mem_flatMap.mpr ⟨r, hr, List.mem_cons_self⟩, rfl, List.length_take_le ..⟩
  · cases hb : b.scales with
    | none =>
      rw [hb] at hw
      cases hw
    | some sc =>
      rw [hb] at hw hs
      obtain ⟨r, hr, rfl⟩ := List.mem_map.mp hw
      have hne : g.sstride ≠ 0 := of_decide_eq_true hs.symm
      refine ⟨(g.ptr + g.rb + r * g.sstride, 1), List.mem_flatMap.mpr ⟨r, hr, List.mem_cons_of_mem _ ?_⟩, rfl, Nat.le_refl 1⟩
      rw [if_neg hne]
      exact List.mem_singleton.mpr rfl

/-- A byte outside the generator's ranges keeps its value. -/
theorem AgBlock.writes_outside {g : AgBlock} {b : Block} (hs : b.scales.isSome = decide (g.sstride ≠ 0)) {y : Nat}
    (hy : ∀ x ∈ g.ranges, y < x.1 ∨ x.1 + x.2 ≤ y) (old : Byte) : (g.writes b).foldl (writtenOver y) old = old := by
  refine foldl_fixed old _ fun w hw => if_neg fun hin => ?_
  obtain ⟨x, hx, h1, h2⟩ := AgBlock.mem_writes hs hw
  have := hy x hx
  omega

/-! ### SSTORE (R111, R201, R368) -/

theorem sstore_fieldFault {k : BitVec 8} {ag : Fin 16} {s : State} (hi : (s.canIssue s.cur).isSome = true)
    (hq : s.cur.q = .s) (hf : ag.val < 8) : FieldFault (.sstore k ag) s := by
  have hp : [SeqId.s].contains s.cur.q = true := by rw [hq]; rfl
  rw [FieldFault, exec_sstore, execSstore, runLocal, enter_illegal hi hp (decide_eq_false (Nat.not_le.mpr hf))]

/-- The head of the queue has the shape and the scale bytes that the generator names (R368). -/
def AgBlock.Fits (g : AgBlock) (b : Block) : Prop :=
  b.rows = g.rows ∧ b.cols = g.cols ∧ b.fmt = g.fmt ∧ b.scales.isSome = decide (g.sstride ≠ 0)

theorem AgBlock.not_fits_iff (g : AgBlock) (b : Block) : ¬g.Fits b ↔
    (b.rows ≠ g.rows ∨ b.cols ≠ g.cols ∨ b.fmt ≠ g.fmt ∨ b.scales.isSome ≠ decide (g.sstride ≠ 0)) := by
  simp only [AgBlock.Fits, not_and_or, ne_eq]

/-- The core-task that an SSTORE leaves. -/
def CoreTask.stored (c : CoreTask) (ag : Nat) (g : AgBlock) (b : Block) : CoreTask :=
  ((((c.storeBlock g b).tear c c.core c.seqS.stamp false (g.granules.map (·.1)))).popBlock
    (sqIndex (Fin.ofNat 4 g.queue))).movePtr ag g.adv

section
variable {k : BitVec 8} {ag : Fin 16} {s : State} {c c1 : CoreTask} {g : AgBlock} {b : Block} {bs : List Block}
  (h : s.Enters { perm := [.s], legal := decide (8 ≤ ag.val), cons := k } c)
include h

theorem exec_sstore_shape (hg : c.agBlock ag.val = none) : exec (.sstore k ag) s = .next (s.trapped c (trapOf .shape)) := by
  rw [exec_sstore, execSstore]
  refine runLocal_trap h ?_
  rw [hg]

variable (hg : c.agBlock ag.val = some g)
include hg

theorem exec_sstore_empty (hq : Tab.get [] c.queues (sqIndex (Fin.ofNat 4 g.queue)) = []) :
    exec (.sstore k ag) s = .next (s.waitCt s.cur c .plain) := by
  rw [exec_sstore, execSstore]
  refine runLocal_wait h ?_
  rw [hg]
  dsimp only
  rw [hq]
  rfl

variable (hq : Tab.get [] c.queues (sqIndex (Fin.ofNat 4 g.queue)) = b :: bs)
include hq

/-- With a block at the head of its queue, a store runs as the part of its body behind both. -/
theorem exec_sstore_head : exec (.sstore k ag) s =
    runLocal { perm := [.s], legal := decide (8 ≤ ag.val), cons := k } (fun s c =>
      if b.rows ≠ g.rows ∨ b.cols ≠ g.cols ∨ b.fmt ≠ g.fmt ∨ b.scales.isSome ≠ decide (g.sstride ≠ 0) then
        .trap (trapOf .shape)
      else if g.outside then .trap (trapOf .lsaRange)
      else if g.ranges.any (fun x => c.seqS.pendingLocalAt x.1 x.2) then .wait c .plain
      else match c.localWrite s.raceOn (agentId s.cur.slot s.cur.rank 3) c.seqS.stamp false g.granules with
        | .inl tr => .trap tr
        | .inr c1 => .done (c1.stored ag.val g b) none) s := by
  rw [exec_sstore, execSstore, runLocal_go h, runLocal_go h, hg]
  dsimp only
  rw [hq]
  rfl

theorem exec_sstore_misfit (hf : ¬g.Fits b) : exec (.sstore k ag) s = .next (s.trapped c (trapOf .shape)) := by
  rw [exec_sstore_head h hg hq]
  exact runLocal_trap h (if_pos ((g.not_fits_iff b).mp hf))

variable (hf : g.Fits b)
include hf

theorem exec_sstore_range (ho : g.outside = true) : exec (.sstore k ag) s = .next (s.trapped c (trapOf .lsaRange)) := by
  rw [exec_sstore_head h hg hq]
  exact runLocal_trap h ((if_neg (mt (g.not_fits_iff b).mpr (not_not.mpr hf))).trans (if_pos ho))

variable (ho : g.outside = false)
include ho

theorem exec_sstore_waits (hp : ∃ x ∈ g.ranges, c.seqS.pendingLocalAt x.1 x.2 = true) :
    exec (.sstore k ag) s = .next (s.waitCt s.cur c .plain) := by
  rw [exec_sstore_head h hg hq]
  exact runLocal_wait h ((if_neg (mt (g.not_fits_iff b).mpr (not_not.mpr hf))).trans
    ((if_neg (ne_true_of_eq_false ho)).trans (if_pos (List.any_eq_true.mpr hp))))

variable (hp : ∀ x ∈ g.ranges, c.seqS.pendingLocalAt x.1 x.2 = false)
include hp

/-- A store that nothing holds back makes its race check and then writes. -/
theorem exec_sstore_checked : exec (.sstore k ag) s =
    runLocal { perm := [.s], legal := decide (8 ≤ ag.val), cons := k } (fun s c =>
      match c.localWrite s.raceOn (agentId s.cur.slot s.cur.rank 3) c.seqS.stamp false g.granules with
        | .inl tr => .trap tr
        | .inr c1 => .done (c1.stored ag.val g b) none) s := by
  have hnone : ¬g.ranges.any (fun x => c.seqS.pendingLocalAt x.1 x.2) = true := by
    rw [List.any_eq_true]
    rintro ⟨x, hx, ht⟩
    exact absurd ht (ne_true_of_eq_false (hp x hx))
  rw [exec_sstore_head h hg hq, runLocal_go h, runLocal_go h, if_neg (mt (g.not_fits_iff b).mpr (not_not.mpr hf)),
    if_neg (ne_true_of_eq_false ho), if_neg hnone]

theorem exec_sstore_race {tr : Trap}
    (hl : c.localWrite s.raceOn (agentId s.cur.slot s.cur.rank 3) c.seqS.stamp false g.granules = .inl tr) :
    exec (.sstore k ag) s = .next (s.trapped c tr) := by
  rw [exec_sstore_checked h hg hq hf ho hp]
  refine runLocal_trap h ?_
  rw [hl]

theorem exec_sstore_stores
    (hl : c.localWrite s.raceOn (agentId s.cur.slot s.cur.rank 3) c.seqS.stamp false g.granules = .inr c1) :
    exec (.sstore k ag) s = .next (s.passed { perm := [.s], legal := decide (8 ≤ ag.val), cons := k }
      (c1.stored ag.val g b) none) := by
  rw [exec_sstore_checked h hg hq hf ho hp]
  refine runLocal_done h ?_
  rw [hl]

end

/-! ### The core-task after an SSTORE -/

theorem CoreTask.localWrite_keeps {c c1 : CoreTask} {on : Bool} {a : AgentId} {st : Stamp} {atomic : Bool}
    {gs : List (Nat × BitVec 64)} (h : c.localWrite on a st atomic gs = .inr c1) :
    c1.scratch = c.scratch ∧ c1.queues = c.queues ∧ c1.ag = c.ag ∧ c1.seqS = c.seqS := by
  obtain ⟨races, rfl⟩ := CoreTask.localWrite_frame h
  exact ⟨rfl, rfl, rfl, rfl⟩

section
variable (c : CoreTask) (ag : Nat) (g : AgBlock) (b : Block)

/-- A store changes the scratchpad with what is kept beside it, the queue and the generators alone. -/
theorem CoreTask.stored_eq : ∃ bankMask torn, c.stored ag g b =
    { c with scratch := (c.writeRuns (g.writes b)).scratch, bankMask := bankMask, torn := torn,
             queues := Tab.upd [] c.queues (sqIndex (Fin.ofNat 4 g.queue)) (·.drop 1), ag := (c.movePtr ag g.adv).ag } := by
  obtain ⟨scratch, bankMask, torn, he⟩ := CoreTask.writeRuns_frame (g.writes b) c
  rw [CoreTask.stored, CoreTask.storeBlock_eq, he]
  exact ⟨_, _, rfl⟩

theorem CoreTask.get_stored (y : Nat) :
    Tab.get 0 (c.stored ag g b).scratch y = (g.writes b).foldl (writtenOver y) (Tab.get 0 c.scratch y) := by
  obtain ⟨bankMask, torn, he⟩ := c.stored_eq ag g b
  rw [he, ← CoreTask.get_writeRuns]

theorem CoreTask.stored_queues :
    (c.stored ag g b).queues = Tab.upd [] c.queues (sqIndex (Fin.ofNat 4 g.queue)) (·.drop 1) := by
  obtain ⟨bankMask, torn, he⟩ := c.stored_eq ag g b
  rw [he]

/-- The head of the queue is taken. -/
theorem CoreTask.get_stored_queue {b' : Block} {bs : List Block}
    (hq : Tab.get [] c.queues (sqIndex (Fin.ofNat 4 g.queue)) = b' :: bs) :
    Tab.get [] (c.stored ag g b).queues (sqIndex (Fin.ofNat 4 g.queue)) = bs := by
  rw [CoreTask.stored_queues, Tab.get_upd, if_pos rfl, hq]
  rfl

theorem CoreTask.stored_ag : (c.stored ag g b).ag = (c.movePtr ag g.adv).ag := by
  obtain ⟨bankMask, torn, he⟩ := c.stored_eq ag g b
  rw [he]

theorem CoreTask.stored_seqS : (c.stored ag g b).seqS = c.seqS := by
  obtain ⟨bankMask, torn, he⟩ := c.stored_eq ag g b
  rw [he]

end

end Sys2Proof.Machine
end

section
/-! Prefetches (R318, R359), and the words of class 2 that use an address generator. -/

namespace Sys2Proof.Machine

theorem State.putCt_rest (s : State) (slot rank : Nat) (c : CoreTask) : s.putCt slot rank c =
    { s with tasks := (s.putCt slot rank c).tasks, m := { s.m with h := (s.putCt slot rank c).m.h } } := by
  unfold State.putCt
  split <;> rfl

theorem State.updCt_rest (s : State) (slot rank : Nat) (f : CoreTask → CoreTask) : s.updCt slot rank f =
    { s with tasks := (s.updCt slot rank f).tasks, m := { s.m with h := (s.updCt slot rank f).m.h } } := by
  unfold State.updCt
  split
  · exact State.putCt_rest ..
  · rfl

/-! ### What a prefetch changes (R318, R359) -/

/-- `t` differs from `s` in the translations that are kept and in the count of dropped host accesses alone. -/
def State.OnlyKeeps (s t : State) : Prop :=
  t = { s with m := { s.m with first := t.m.first, second := t.m.second, hostX := t.m.hostX },
               service := { s.service with svcLog := t.service.svcLog } }

theorem State.OnlyKeeps.refl (s : State) : s.OnlyKeeps s := rfl

theorem State.OnlyKeeps.trans {s t u : State} (h : s.OnlyKeeps t) (k : t.OnlyKeeps u) : s.OnlyKeeps u := by
  rw [State.OnlyKeeps] at h k ⊢
  rw [k, h]

theorem State.foldl_onlyKeeps {β : Type} {f : State → β → State} (hf : ∀ (s : State) b, s.OnlyKeeps (f s b)) (l : List β)
    (s : State) : s.OnlyKeeps (l.foldl f s) := by
  induction l generalizing s with
  | nil => exact State.OnlyKeeps.refl s
  | cons b l ih => exact (hf s b).trans (ih _)

theorem State.logHost_onlyKeeps (s : State) (f : FAddr) (n : Nat) : s.OnlyKeeps (s.logHost f n) := by
  unfold State.logHost
  split <;> rfl

theorem State.logTables_onlyKeeps (s : State) (ctx : Nat) (reads : List Nat) : s.OnlyKeeps (s.logTables ctx reads) := by
  refine State.foldl_onlyKeeps (fun t gpa => ?_) reads s
  split
  · exact State.logHost_onlyKeeps ..
  · exact State.OnlyKeeps.refl _

theorem State.cacheXl_onlyKeeps (s : State) (ctx : Nat) (va : Word) (x : Xl) : s.OnlyKeeps (s.cacheXl ctx va x) := by
  unfold State.cacheXl
  split
  · exact State.OnlyKeeps.refl s
  · dsimp only
    split
    · exact State.OnlyKeeps.trans (by rfl) (State.logTables_onlyKeeps ..)
    · rfl

theorem State.prefetch_onlyKeeps (s : State) (ctx : Nat) (a : Word) (len : Nat) : s.OnlyKeeps (s.prefetch ctx a len) := by
  refine State.foldl_onlyKeeps (fun t p => ?_) _ s
  dsimp only
  split
  · exact State.OnlyKeeps.refl t
  · split
    · split
      · exact State.OnlyKeeps.refl t
      · exact State.cacheXl_onlyKeeps ..
    · exact State.OnlyKeeps.refl t

/-- A change of the translations that are kept is no change of a core-task. -/
theorem State.OnlyKeeps.ct {s t : State} (h : s.OnlyKeeps t) (slot rank : Nat) : t.ct? slot rank = s.ct? slot rank := by
  rw [h]
  rfl

/-! ### PREF, once it enters (R359) -/

theorem exec_pref {i : Instr} {k : BitVec 8} {a b : GReg} (hi : i = .prefH k a b ∨ i = .prefL k a b) (s : State) :
    exec i s = prefWord k a b s := by
  rcases hi with rfl | rfl <;> rfl

/-- A prefetch keeps translations on the device of its core-task, and goes on. -/
theorem exec_pref_enters {i : Instr} {k : BitVec 8} {a b : GReg} {s : State} {c : CoreTask} (h : s.Enters (cOnly k) c)
    (hi : i = .prefH k a b ∨ i = .prefL k a b) :
    ∃ s', (s.withCur c).OnlyKeeps s' ∧ exec i s = .next (s'.goesOn s.cur (cOnly k) none) := by
  obtain ⟨t, ht, -⟩ := enter_task h
  rw [exec_pref hi, prefWord]
  refine ⟨(s.withCur c).prefetch t.ctx (c.seqC.rd a) (Nat.min (c.seqC.rd b).toNat (2 ^ 21)), State.prefetch_onlyKeeps ..,
    runGlobal_done h ?_⟩
  rw [State.withCur_cur, State.task_withCur ht]
  rfl

section
variable {s s' : State} {c : CoreTask} {k : BitVec 8} (hs : (s.withCur c).OnlyKeeps s')
include hs

theorem ct_goesOn_kept (h : s.Enters (cOnly k) c) : (s'.goesOn s.cur (cOnly k) none).ct? s.cur.slot s.cur.rank =
    some { c with seqC := c.seqC.advance } := by
  have hq : s.cur.q = .c := enter_c h rfl
  rw [State.goesOn, State.ct_updCt, if_pos ⟨rfl, rfl⟩, hs.ct, State.ct_withCur h, hq]
  rfl

theorem ct_goesOn_kept_other {slot rank : Nat} (hn : ¬(slot = s.cur.slot ∧ rank = s.cur.rank)) :
    (s'.goesOn s.cur (cOnly k) none).ct? slot rank = s.ct? slot rank := by
  rw [State.goesOn, State.ct_updCt, if_neg hn, hs.ct, State.withCur, State.ct_putCt, if_neg hn]

theorem goesOn_kept_rest : let t := s'.goesOn s.cur (cOnly k) none
    t = { s with tasks := t.tasks, m := { s.m with h := t.m.h, first := t.m.first, second := t.m.second,
                                                   hostX := t.m.hostX },
                 service := { s.service with svcLog := t.service.svcLog } } := by
  intro t
  have hcur : s.withCur c = { s with tasks := (s.withCur c).tasks, m := { s.m with h := (s.withCur c).m.h } } :=
    State.putCt_rest ..
  have ht : t = { s' with tasks := t.tasks, m := { s'.m with h := t.m.h } } := State.updCt_rest ..
  rw [State.OnlyKeeps] at hs
  rw [ht, hs, hcur]

end

end Sys2Proof.Machine

namespace Sys2Proof.Proofs

open Sys2Proof.Machine

/-- Settles O23: the words of a generator, the block that each way of it moves, and the prefetches. -/
theorem generatorsBlocksAndPrefetch : Obligations.GeneratorsBlocksAndPrefetch := by
  refine ⟨⟨fun k ag w a d adv s hi hq => ⟨agWords_fieldFault a d hi hq, sadv_fieldFault adv hi hq⟩,
      fun q n _ => ownsAg_iff q n, fun k ag w a s c h => exec_agset_enters h, fun k ag w d s c h => exec_agget_enters h, ?_,
      fun c ag v _ => c.ptr_movePtr ag v, fun c ag w j x v _ hw _ hx => c.agWord_setAg v hw hx⟩,
    ⟨fun k ag s hi => ⟨sload_fieldFault hi, sstore_fieldFault hi⟩, ?_, ?_, ?_, fun c ag b => CoreTask.agBlock_some⟩, ?_⟩
  · intro k ag adv s c u h
    cases adv <;> exact exec_sadv_enters h
  · intro k ag s c c1 b u h n
    exact ⟨exec_sload_shape h, exec_sload_range h, fun hb ho => ⟨exec_sload_never h hb ho, exec_sload_waits h hb ho,
      fun hp => ⟨fun tr => exec_sload_race h hb ho hp, exec_sload_pushes h hb ho hp⟩⟩⟩
  · intro c tick b ht hw
    exact ⟨rfl, rfl, rfl, CoreTask.loadBlock_whole ht hw tick b⟩
  · intro k ag s c c1 g b bs u h qn
    refine ⟨exec_sstore_shape h, fun hg => ⟨exec_sstore_empty h hg, fun hq => ⟨exec_sstore_misfit h hg hq,
      exec_sstore_range h hg hq, exec_sstore_waits h hg hq, fun hf ho hp =>
        ⟨fun tr => exec_sstore_race h hg hq hf ho hp, fun hl => ?_⟩⟩⟩⟩
    have hexec := exec_sstore_stores h hg hq hf ho hp hl
    have hseq : s.cur.q = .s := List.mem_singleton.mp (List.contains_iff_mem.mp (enter_perm h))
    obtain ⟨honly, hct⟩ := passed_onlyCur (u := u) h rfl (c1.stored ag.val g b)
    rw [hseq] at hct
    obtain ⟨-, -, -, hscales⟩ := hf
    obtain ⟨hscr, hqueues, hags, hseqS⟩ := CoreTask.localWrite_keeps hl
    have hbytes : ∀ y, Tab.get 0 (c1.stored ag.val g b).scratch y =
        (g.writes b).foldl (writtenOver y) (Tab.get 0 c.scratch y) := fun y => by rw [CoreTask.get_stored, hscr]
    have hpop : Tab.get [] (c1.stored ag.val g b).queues qn = bs := CoreTask.get_stored_queue _ _ _ _ (by rw [hqueues, hq])
    have hgen : (c1.stored ag.val g b).ag = (c.movePtr ag.val g.adv).ag := by
      rw [CoreTask.stored_ag, CoreTask.movePtr_ag hags]
    have hgoes : (c1.stored ag.val g b).seqS = c.seqS := by rw [CoreTask.stored_seqS, hseqS]
    exact ⟨_, _, hexec, honly, hct, hpop, congrArg Seq.advance hgoes, hbytes,
      fun y hy => (hbytes y).trans (AgBlock.writes_outside hscales hy _), hgen⟩
  · intro k a b s c i h hi
    obtain ⟨s', hs, hexec⟩ := exec_pref_enters h hi
    exact ⟨_, _, hexec, ct_goesOn_kept hs h, rfl, goesOn_kept_rest hs, fun slot rank => ct_goesOn_kept_other hs⟩

end Sys2Proof.Proofs
end

section
/-! A tile word whose checks pass (R381), and the words of class 4 as plans (R391 to R397). -/

namespace Sys2Proof.Machine

/-- A tile word that nothing stands in the way of writes the block that its plan computes. -/
theorem vectorBody_done {w : VWord} {p : VPlan} {b : BSrc} {sc : Option VSrc} {keep : Bool} {s : State} {c : CoreTask}
    {x : VFacts} (h : VReady w p b sc s c x) {r : List (List Nat) × Option (List Byte) × Bool}
    (hrun : p.run x.src.a x.src.b x.src.c x.res x.rows x.cols (c.keptScales w keep x.rows) = r) :
    vectorBody w p b sc keep s c = .done (c.afterVector w p b sc x r.1 r.2.1 r.2.2) none := by
  obtain ⟨hcls, ta, tb, tc, hsrc, hres, ha, hb, hc, hchk⟩ := h
  have hx : (⟨x.src.a, x.src.b, x.src.c⟩ : VSources) = x.src := rfl
  rw [CoreTask.dstSet] at hchk
  rw [← hrun, vectorBody, if_neg (Nat.not_lt.mpr hcls), hsrc]
  dsimp only
  rw [hres]
  dsimp only
  rw [← ha, ← hb, ← hc, hx, hchk]
  rfl

/-- A word that runs its plan's body, and whose plan computes the elements `f`, is that tile word. -/
theorem runsPlanOf_of {i : Instr} {w : VWord} {sc : Option VSrc} {keep : Bool} {f : CoreTask → VFacts → List (List Nat)}
    {p : CoreTask → VPlan} {b : CoreTask → BSrc}
    (hexec : ∀ s, exec i s = runLocal (useV w) (fun s c => vectorBody w (p c) (b c) sc keep s c) s)
    (hrun : ∀ c x, ((p c).run x.src.a x.src.b x.src.c x.res x.rows x.cols (c.keptScales w keep x.rows)).1 = f c x) :
    RunsPlanOf i w p b sc keep f := by
  intro s c h
  refine ⟨fun hlow => ?_, fun x hx => ?_⟩
  · have htrap : vectorBody w (p c) (b c) sc keep s c = .trap (trapOf .currentOver) := if_pos hlow
    rw [hexec, runLocal_go h, htrap]
  · refine ⟨_, _, Prod.ext (hrun c x) rfl, ?_⟩
    rw [hexec, ← hrun c x]
    exact runLocal_done h (vectorBody_done hx rfl)

section
variable {o : RedOps} (w : VWord) (int : Bool) (a b c : Tile) (res : Fmt) (n m : Nat) (ks : List Byte)

/-- A reduction over rows answers a column (R397). -/
theorem redPlan_run_rows (h : o.byRow = true) : ((redPlan w int o).run a b c res n m ks).1 =
    if int then (a.ints a.rows a.cols).map (fun l => [intPattern res.bits false (reduceTree (redOpI o.g) o.idI l)])
    else a.values.1.map (fun l => [roundTo res w.rnd w.sat (reduceTree (redOp w.rnd (o.f w.rnd)) o.idF l)]) := by
  cases int <;> simp [redPlan, h]

/-- A reduction over columns answers a row. -/
theorem redPlan_run_columns (h : o.byRow = false) : ((redPlan w int o).run a b c res n m ks).1 =
    [if int then (columns 0 a.cols (a.ints a.rows a.cols)).map (fun l =>
        intPattern res.bits false (reduceTree (redOpI o.g) o.idI l))
      else (columns .nan a.cols a.values.1).map (fun l =>
        roundTo res w.rnd w.sat (reduceTree (redOp w.rnd (o.f w.rnd)) o.idF l))] := by
  cases int <;> simp [redPlan, h]

end

end Sys2Proof.Machine
end

section
/-! Exact values as rationals (R121 to R123): what the operations of the model compute on finite values. -/

namespace Sys2Proof.Machine

theorem FVal.rat_fin (s : Bool) (m : Nat) (e : Int) :
    (FVal.fin s m e).rat = (if s then -1 else 1) * (m : Rat) * (2 : Rat) ^ e := rfl

@[simp] theorem FVal.rat_false (m : Nat) (e : Int) : (FVal.fin false m e).rat = (m : Rat) * 2 ^ e := by
  simp [FVal.rat_fin]

@[simp] theorem FVal.rat_true (m : Nat) (e : Int) : (FVal.fin true m e).rat = -((m : Rat) * 2 ^ e) := by
  simp [FVal.rat_fin]

theorem FVal.abs_rat (s : Bool) (m : Nat) (e : Int) : |(FVal.fin s m e).rat| = (m : Rat) * 2 ^ e := by
  cases s <;> simp [abs_of_nonneg (show (0 : Rat) ≤ (m : Rat) * 2 ^ e by positivity)]

@[simp] theorem FVal.rat_abs (v : FVal) : v.abs.rat = |v.rat| := by
  cases v with
  | nan => exact abs_zero.symm
  | inf s => exact abs_zero.symm
  | fin s m e => rw [FVal.abs_rat, FVal.abs, FVal.rat_false]

@[simp] theorem FVal.rat_neg (v : FVal) : v.neg.rat = -v.rat := by
  cases v with
  | nan => exact neg_zero.symm
  | inf s => exact neg_zero.symm
  | fin s m e => cases s <;> simp [FVal.neg]

/-- A signed multiple of a power of two. -/
theorem FVal.rat_signed (v e : Int) : (FVal.fin (decide (v < 0)) v.natAbs e).rat = (v : Rat) * 2 ^ e := by
  have habs : ((v.natAbs : Int) : Rat) = |(v : Rat)| := by rw [Int.natCast_natAbs, Int.cast_abs]
  rw [Int.cast_natCast] at habs
  by_cases h : v < 0
  · have hv : (v : Rat) < 0 := by exact_mod_cast h
    rw [decide_eq_true h, FVal.rat_true, habs, abs_of_neg hv]
    ring
  · have hv : (0 : Rat) ≤ v := by exact_mod_cast not_lt.mp h
    rw [decide_eq_false h, FVal.rat_false, habs, abs_of_nonneg hv]

@[simp] theorem FVal.rat_ofInt (v : Int) : (FVal.ofInt v).rat = v := by
  rw [FVal.ofInt, FVal.rat_signed, zpow_zero, mul_one]

/-- Moving a power of two between a natural multiple and its exponent. -/
theorem pow_toNat_mul_zpow {e g : Int} (h : g ≤ e) : (2 : Rat) ^ (e - g).toNat * 2 ^ g = 2 ^ e := by
  rw [← zpow_natCast, Int.toNat_of_nonneg (by omega), ← zpow_add₀ two_ne_zero, sub_add_cancel]

/-- An aligned value is the same value. -/
theorem scaledInt_mul (s : Bool) (m : Nat) {e g : Int} (h : g ≤ e) :
    (scaledInt s m e g : Rat) * 2 ^ g = (FVal.fin s m e).rat := by
  have ha : ((m * 2 ^ (e - g).toNat : Nat) : Rat) * 2 ^ g = m * 2 ^ e := by
    push_cast
    rw [mul_assoc, pow_toNat_mul_zpow h]
  rw [scaledInt]
  cases s
  · rw [FVal.rat_false, ← ha]
    rfl
  · rw [FVal.rat_true, ← ha, ← neg_mul, ← Int.cast_natCast, ← Int.cast_neg]
    rfl

/-- The order of two aligned values is that of the values. -/
theorem scaledInt_lt {s t : Bool} {m n : Nat} {e f g : Int} (he : g ≤ e) (hf : g ≤ f) :
    scaledInt s m e g < scaledInt t n f g ↔ (FVal.fin s m e).rat < (FVal.fin t n f).rat := by
  rw [← scaledInt_mul s m he, ← scaledInt_mul t n hf, mul_lt_mul_iff_left₀ (by positivity), Int.cast_lt]

theorem FVal.cmp_lt {s t : Bool} {m n : Nat} {e f : Int} :
    (FVal.fin s m e).cmp (.fin t n f) = some .lt ↔ (FVal.fin s m e).rat < (FVal.fin t n f).rat := by
  rw [FVal.cmp, Option.some_inj, compare_lt_iff_lt]
  exact scaledInt_lt (min_le_left ..) (min_le_right ..)

/-- The comparison with an integer. -/
theorem FVal.cmp_ofInt_lt {s : Bool} {m : Nat} {e n : Int} :
    (FVal.fin s m e).cmp (.ofInt n) = some .lt ↔ (FVal.fin s m e).rat < n := by
  rw [← FVal.rat_ofInt n]
  exact FVal.cmp_lt

theorem FVal.cmp_ofInt_ge {s : Bool} {m : Nat} {e n : Int} :
    (FVal.fin s m e).cmp (.ofInt n) ≠ some .lt ↔ (n : Rat) ≤ (FVal.fin s m e).rat := by
  rw [Ne, FVal.cmp_ofInt_lt, not_lt]

/-- A sum of finite values is exact before its rounding (R122). -/
theorem FVal.rat_add (rm : Rnd) (s t : Bool) (m n : Nat) (e f : Int) :
    ((FVal.fin s m e).add rm (.fin t n f)).rat = (FVal.fin s m e).rat + (FVal.fin t n f).rat := by
  have hsum := congrArg₂ (· + ·) (scaledInt_mul s m (min_le_left e f)) (scaledInt_mul t n (min_le_right e f))
  rw [← hsum, FVal.add, ← add_mul, ← Int.cast_add]
  split
  · next h => rw [h, FVal.rat_fin]; simp
  · exact FVal.rat_signed ..

theorem FVal.add_fin (rm : Rnd) (s t : Bool) (m n : Nat) (e f : Int) :
    ∃ u k g, (FVal.fin s m e).add rm (.fin t n f) = .fin u k g := by
  rw [FVal.add]
  split <;> exact ⟨_, _, _, rfl⟩

theorem FVal.rat_mul (s t : Bool) (m n : Nat) (e f : Int) :
    ((FVal.fin s m e).mul (.fin t n f)).rat = (FVal.fin s m e).rat * (FVal.fin t n f).rat := by
  rw [FVal.mul]
  cases s <;> cases t <;> simp [zpow_add₀] <;> ring

end Sys2Proof.Machine
end

section
/-! Float patterns and roundings (R121, R125, R126): a pattern that stands for a number rounds to itself, and the F32
pattern of a number lies within half a unit in the last place of it. -/

namespace Sys2Proof.Machine

/-! ### The fields of a pattern (R121) -/

/-- The exponent field of a pattern. -/
def expField (eb mb x : Nat) : Nat := x / 2 ^ mb % 2 ^ eb

/-- A finite pattern is subnormal, with the exponent of the smallest binade, or normal with a leading one. -/
theorem decodeFloat_fin {f : Fmt} {eb mb x : Nat} {s : Bool} {m : Nat} {e : Int} (h : decodeFloat f eb mb x = .fin s m e) :
    s = decide (x / 2 ^ (mb + eb) % 2 = 1) ∧
    ((expField eb mb x = 0 ∧ m = x % 2 ^ mb ∧ e = 1 - biasOf eb - mb) ∨
      (expField eb mb x ≠ 0 ∧ m = 2 ^ mb + x % 2 ^ mb ∧ e = (expField eb mb x : Int) - biasOf eb - mb)) := by
  rw [decodeFloat, ← expField] at h
  split at h
  · contradiction
  split at h
  · split at h <;> contradiction
  split at h
  · next h0 =>
    obtain ⟨rfl, rfl, rfl⟩ := FVal.fin.inj h
    exact ⟨rfl, .inl ⟨h0, rfl, rfl⟩⟩
  · next h0 =>
    obtain ⟨rfl, rfl, rfl⟩ := FVal.fin.inj h
    exact ⟨rfl, .inr ⟨h0, rfl, rfl⟩⟩

theorem valOf_float {f : Fmt} {eb mb : Nat} (hf : f.float = some (eb, mb)) (x : Nat) :
    valOf f x = decodeFloat f eb mb x := by
  rw [valOf, hf]

/-- The significand and the exponent of a finite pattern. -/
theorem valOf_fin_bounds {f : Fmt} {eb mb x : Nat} {s : Bool} {m : Nat} {e : Int} (hf : f.float = some (eb, mb))
    (h : valOf f x = .fin s m e) : m < 2 ^ (mb + 1) ∧ 1 - biasOf eb - mb ≤ e ∧ (m < 2 ^ mb → e = 1 - biasOf eb - mb) ∧
      e ≤ 2 ^ eb - biasOf eb - mb := by
  rw [valOf_float hf] at h
  have ha : x % 2 ^ mb < 2 ^ mb := Nat.mod_lt _ (by positivity)
  have hE : (expField eb mb x : Int) < 2 ^ eb := by exact_mod_cast Nat.mod_lt (x / 2 ^ mb) (Nat.two_pow_pos eb)
  have hone : (1 : Int) ≤ 2 ^ eb := by exact_mod_cast Nat.one_le_two_pow
  rw [Nat.pow_succ]
  obtain ⟨-, ⟨-, hm, rfl⟩ | ⟨h0, hm, rfl⟩⟩ := decodeFloat_fin h <;> omega

/-- A pattern is its sign, its exponent field and its mantissa field. -/
theorem withSign_fields {f : Fmt} {eb mb x : Nat} (hb : f.bits = mb + eb + 1) (hx : x < 2 ^ f.bits) :
    withSign f (decide (x / 2 ^ (mb + eb) % 2 = 1)) (expField eb mb x * 2 ^ mb + x % 2 ^ mb) = x := by
  have hlow := Nat.div_add_mod x (2 ^ mb)
  have hmid := Nat.div_add_mod (x / 2 ^ mb) (2 ^ eb)
  rw [Nat.div_div_eq_div_mul, ← Nat.pow_add] at hmid
  have htop : x / 2 ^ (mb + eb) < 2 := by
    rw [Nat.div_lt_iff_lt_mul (by positivity), ← Nat.pow_succ', ← Nat.add_one, ← hb]
    exact hx
  have hsum : x = x / 2 ^ (mb + eb) * 2 ^ (mb + eb) + (expField eb mb x * 2 ^ mb + x % 2 ^ mb) := by
    rw [expField]
    calc x = 2 ^ mb * (2 ^ eb * (x / 2 ^ (mb + eb)) + x / 2 ^ mb % 2 ^ eb) + x % 2 ^ mb := by rw [hmid, hlow]
      _ = _ := by ring
  rw [withSign, hb, Nat.add_sub_cancel]
  obtain h0 | h1 := Nat.le_one_iff_eq_zero_or_eq_one.mp (Nat.lt_succ_iff.mp htop)
  · rw [h0] at hsum ⊢
    simpa using hsum.symm
  · rw [h1] at hsum ⊢
    simpa using hsum.symm

/-- The magnitude of a finite pattern is at most that of the largest. -/
theorem fields_le_largest {f : Fmt} {eb mb x : Nat} {s : Bool} {m : Nat} {e : Int} (hf : f.float = some (eb, mb))
    (h : valOf f x = .fin s m e) : f.bits = mb + eb + 1 ∧ expField eb mb x * 2 ^ mb + x % 2 ^ mb ≤ f.largest := by
  rw [valOf_float hf, decodeFloat, ← expField] at h
  have hE : expField eb mb x < 2 ^ eb := Nat.mod_lt _ (by positivity)
  have ha : x % 2 ^ mb < 2 ^ mb := Nat.mod_lt _ (by positivity)
  split at h
  · contradiction
  next hnan =>
    split at h
    · split at h <;> contradiction
    next hinf =>
      cases f <;> cases hf <;> refine ⟨rfl, ?_⟩ <;> simp [Fmt.largest] at * <;> omega

/-! ### Rounding (R125) -/

/-- A significand that fits at its own last place is exact. -/
theorem lastPlace_exact {eb mb m : Nat} {e : Int} (h0 : m ≠ 0) (hm : m < 2 ^ (mb + 1)) (he : 1 - biasOf eb - mb ≤ e)
    (hsub : m < 2 ^ mb → e = 1 - biasOf eb - mb) : lastPlace eb mb m e = e := by
  have hlog : Nat.log2 m < mb + 1 := (Nat.log2_lt h0).mpr hm
  rw [lastPlace]
  by_cases hs : m < 2 ^ mb
  · have := hsub hs
    omega
  · have : mb ≤ Nat.log2 m := (Nat.le_log2 h0).mpr (not_lt.mp hs)
    omega

theorem roundMag_exact {eb mb m : Nat} {e : Int} (rm : Rnd) (neg : Bool) (h : lastPlace eb mb m e = e) :
    roundMag rm neg eb mb m e = (m, e) := by
  simp [roundMag, h]

/-- A pattern of a float format that stands for a number rounds to itself in every rounding mode (R125). -/
theorem roundTo_valOf {f : Fmt} {eb mb x : Nat} {s : Bool} {m : Nat} {e : Int} (hf : f.float = some (eb, mb))
    (hx : x < 2 ^ f.bits) (h : valOf f x = .fin s m e) (rm : Rnd) (sat : Bool) : roundTo f rm sat (.fin s m e) = x := by
  obtain ⟨hbits, hle⟩ := fields_le_largest hf h
  obtain ⟨hm, he, hsub, -⟩ := valOf_fin_bounds hf h
  have ha : x % 2 ^ mb < 2 ^ mb := Nat.mod_lt _ (by positivity)
  rw [valOf_float hf] at h
  obtain ⟨rfl, hcase⟩ := decodeFloat_fin h
  have hback := withSign_fields hbits hx
  rw [roundTo, hf]
  dsimp only
  split
  · next h0 =>
    have hz : expField eb mb x * 2 ^ mb + x % 2 ^ mb = 0 := by
      have := Nat.two_pow_pos mb
      obtain ⟨hE, h1, -⟩ | ⟨-, h1, -⟩ := hcase
      · rw [hE]
        omega
      · omega
    rwa [hz] at hback
  · next h0 =>
    have hmag : magPattern eb mb (m, e) = expField eb mb x * 2 ^ mb + x % 2 ^ mb := by
      rw [magPattern]
      obtain ⟨hE, rfl, -⟩ | ⟨hE, h1, h2⟩ := hcase
      · rw [if_pos ha, hE]
        omega
      · have he' : (e + mb + biasOf eb).toNat = expField eb mb x := by omega
        rw [if_neg (by dsimp only; omega), if_pos hm, he', h1, Nat.add_sub_cancel_left]
    rw [roundMag_exact rm _ (lastPlace_exact h0 hm he hsub), hmag, if_neg (not_lt.mpr hle), hback]

end Sys2Proof.Machine

namespace Sys2Proof.Proofs

open Sys2Proof.Machine

/-- Settles O29: sums and products through the rational numbers that the values stand for, patterns through their fields. -/
theorem arithmeticIsExactBeforeRounding : Obligations.ArithmeticIsExactBeforeRounding := by
  refine ⟨fun rm s t m n e f => ⟨FVal.rat_add .., FVal.rat_mul .., FVal.rat_neg _, FVal.add_fin .., _, _, rfl⟩,
    fun rm s t m e => ⟨rfl, ?_, if_pos rfl, rfl⟩, fun v rm => ?_, ?_⟩
  · cases s <;> rfl
  · cases v <;> exact ⟨rfl, rfl, rfl, rfl⟩
  · intro rm sat x f hf hnan hinf
    have hbits : f.bits = 8 ∧ ∃ eb mb, f.float = some (eb, mb) := by
      simp only [List.mem_cons, List.not_mem_nil, or_false] at hf
      obtain rfl | rfl := hf <;> exact ⟨rfl, _, _, rfl⟩
    obtain ⟨hbits, eb, mb, hfl⟩ := hbits
    match h : valOf f x.val with
    | .nan => exact absurd h hnan
    | .inf s => exact absurd h (hinf s)
    | .fin s m e => exact roundTo_valOf hfl (by rw [hbits]; exact x.isLt) h rm sat

end Sys2Proof.Proofs
end

section
/-! The F32 number nearest to a value (R125): within half a unit in the last place, below the largest finite number. -/

namespace Sys2Proof.Machine

/-- The largest finite F32 number. -/
def maxF32 : Rat := (valOf .f32 Fmt.f32.largest).rat

theorem maxF32_eq : maxF32 = (2 ^ 24 - 1) * 2 ^ 104 := by
  have hval : valOf .f32 Fmt.f32.largest = .fin false (2 ^ 24 - 1) 104 := by decide
  rw [maxF32, hval, FVal.rat_false]
  norm_num

/-! ### Rounding a magnitude to nearest -/

/-- Rounding to nearest moves a magnitude by at most half a unit. -/
theorem roundShift_rne (neg : Bool) (m d : Nat) :
    2 * (roundShift .rne neg m d * 2 ^ d) ≤ 2 * m + 2 ^ d ∧ 2 * m ≤ 2 * (roundShift .rne neg m d * 2 ^ d) + 2 ^ d := by
  rw [roundShift]
  split
  · next hd =>
    have hm : m < 2 ^ (Nat.log2 m + 1) := Nat.lt_log2_self
    have hpow : 2 ^ (Nat.log2 m + 2) ≤ 2 ^ d := Nat.pow_le_pow_right two_pos hd
    rw [if_neg (by simp [roundsUp])]
    rw [Nat.pow_succ] at hpow
    omega
  · have hsplit := Nat.div_add_mod' m (2 ^ d)
    have hr : m % 2 ^ d < 2 ^ d := Nat.mod_lt _ (by positivity)
    rw [Nat.shiftRight_eq_div_pow]
    dsimp only
    generalize m / 2 ^ d = a at *
    generalize m % 2 ^ d = r at *
    split
    · next hup =>
      have hhalf : 2 ^ d ≤ 2 * r := by
        by_contra hlt
        have hcmp : compare (2 * r) (2 ^ d) = .lt := compare_lt_iff_lt.mpr (not_le.mp hlt)
        rw [hcmp] at hup
        simp [roundsUp] at hup
      constructor <;> linarith
    · next hup =>
      have hhalf : 2 * r ≤ 2 ^ d := by
        by_contra hgt
        have hcmp : compare (2 * r) (2 ^ d) = .gt := compare_gt_iff_gt.mpr (not_le.mp hgt)
        rw [hcmp] at hup
        refine hup ⟨?_, rfl⟩
        rintro h0
        rw [h0] at hgt
        simp at hgt
      constructor <;> linarith

/-- What rounding a magnitude to nearest answers: its last place, a significand of the format, and half a unit of error. -/
structure Nearest (mb : Nat) (emin : Int) (m : Nat) (e : Int) (n : Nat) (q : Int) : Prop where
  small : n ≤ 2 ^ (mb + 1)
  normal : 2 ^ mb ≤ n ∨ q = emin
  near : |(n : Rat) * 2 ^ q - m * 2 ^ e| ≤ 2 ^ q / 2

theorem log2_pow_le {m : Nat} (h : m ≠ 0) (e : Int) : (2 : Rat) ^ ((Nat.log2 m : Int) + e) ≤ m * 2 ^ e := by
  rw [zpow_add₀ two_ne_zero, zpow_natCast]
  exact mul_le_mul_of_nonneg_right (by exact_mod_cast Nat.log2_self_le h) (by positivity)

theorem lt_log2_pow (m : Nat) (e : Int) : (m : Rat) * 2 ^ e < 2 ^ ((Nat.log2 m : Int) + e + 1) := by
  rw [show (Nat.log2 m : Int) + e + 1 = ((Nat.log2 m + 1 : Nat) : Int) + e by push_cast; ring, zpow_add₀ two_ne_zero,
    zpow_natCast]
  exact mul_lt_mul_of_pos_right (by exact_mod_cast Nat.lt_log2_self) (by positivity)

section
variable {mb m : Nat} {e q emin : Int} (hlp : (Nat.log2 m : Int) + e - mb ≤ q)
include hlp

/-- A magnitude whose last place lies no lower than `q` is a multiple of it. -/
theorem nearest_of_le (h0 : m ≠ 0) (hq : q ≤ e) (hcase : (Nat.log2 m : Int) + e - mb = q ∨ q = emin) :
    Nearest mb emin m e (m * 2 ^ (e - q).toNat) q where
  small := calc
    m * 2 ^ (e - q).toNat ≤ 2 ^ (Nat.log2 m + 1) * 2 ^ (e - q).toNat := Nat.mul_le_mul_right _ Nat.lt_log2_self.le
    _ = 2 ^ (Nat.log2 m + 1 + (e - q).toNat) := (Nat.pow_add ..).symm
    _ ≤ 2 ^ (mb + 1) := Nat.pow_le_pow_right two_pos (by omega)
  normal := hcase.imp_left fun hc => calc
    2 ^ mb = 2 ^ (Nat.log2 m + (e - q).toNat) := congrArg _ (by omega)
    _ = 2 ^ Nat.log2 m * 2 ^ (e - q).toNat := Nat.pow_add ..
    _ ≤ _ := Nat.mul_le_mul_right _ (Nat.log2_self_le h0)
  near := by
    push_cast
    rw [mul_assoc, pow_toNat_mul_zpow hq, sub_self, abs_zero]
    positivity

/-- Rounding up carries a significand no further than to the next power of two. -/
theorem roundShift_rne_le (neg : Bool) {d : Nat} (hd : q = e + d) : roundShift .rne neg m d ≤ 2 ^ (mb + 1) := by
  by_contra hbig
  have hm : m < 2 ^ (Nat.log2 m + 1) := Nat.lt_log2_self
  have hpow : 2 ^ (Nat.log2 m + 1) ≤ 2 ^ (mb + 1) * 2 ^ d := by
    rw [← Nat.pow_add]
    exact Nat.pow_le_pow_right two_pos (by omega)
  have hmul := Nat.mul_le_mul_right (2 ^ d) (not_le.mp hbig)
  rw [Nat.succ_mul] at hmul
  have := (roundShift_rne neg m d).1
  have := Nat.two_pow_pos d
  omega

omit hlp in
/-- A normal magnitude keeps its leading bit. -/
theorem le_roundShift_rne (h0 : m ≠ 0) (neg : Bool) {d : Nat} (hd : q = e + d) (hc : (Nat.log2 m : Int) + e - mb = q) :
    2 ^ mb ≤ roundShift .rne neg m d := by
  by_contra hsmall
  have hm : 2 ^ Nat.log2 m ≤ m := Nat.log2_self_le h0
  have hpow : 2 ^ mb * 2 ^ d = 2 ^ Nat.log2 m := by
    rw [← Nat.pow_add]
    exact congrArg _ (by omega)
  have hmul := Nat.mul_le_mul_right (2 ^ d) (Nat.succ_le_of_lt (not_le.mp hsmall))
  rw [Nat.succ_mul] at hmul
  have := (roundShift_rne neg m d).2
  have := Nat.two_pow_pos d
  omega

/-- A magnitude below its last place is rounded to a multiple of it. -/
theorem nearest_roundShift (h0 : m ≠ 0) (neg : Bool) {d : Nat} (hd : q = e + d)
    (hcase : (Nat.log2 m : Int) + e - mb = q ∨ q = emin) : Nearest mb emin m e (roundShift .rne neg m d) q where
  small := roundShift_rne_le hlp neg hd
  normal := hcase.imp_left (le_roundShift_rne h0 neg hd)
  near := by
    obtain ⟨hup, hdown⟩ := roundShift_rne neg m d
    have hscale : (2 : Rat) ^ q = 2 ^ d * 2 ^ e := by rw [hd, zpow_add₀ two_ne_zero, zpow_natCast, mul_comm]
    have hupQ : 2 * ((roundShift .rne neg m d : Rat) * 2 ^ d) ≤ 2 * m + 2 ^ d := by exact_mod_cast hup
    have hdownQ : 2 * (m : Rat) ≤ 2 * ((roundShift .rne neg m d : Rat) * 2 ^ d) + 2 ^ d := by exact_mod_cast hdown
    have he : (0 : Rat) < 2 ^ e := by positivity
    rw [hscale, ← mul_assoc, ← sub_mul, abs_mul, abs_of_pos he, mul_div_right_comm]
    refine mul_le_mul_of_nonneg_right (abs_le.mpr ⟨?_, ?_⟩) he.le <;> linarith

end

/-- Rounding to nearest answers the nearest multiple of the last place (R125). -/
theorem roundMag_rne (neg : Bool) (eb mb : Nat) {m : Nat} (h0 : m ≠ 0) (e : Int) : ∃ n,
    roundMag .rne neg eb mb m e = (n, lastPlace eb mb m e) ∧
      Nearest mb (1 - biasOf eb - mb) m e n (lastPlace eb mb m e) := by
  have hlp : (Nat.log2 m : Int) + e - mb ≤ lastPlace eb mb m e := le_max_left ..
  have hcase : (Nat.log2 m : Int) + e - mb = lastPlace eb mb m e ∨ lastPlace eb mb m e = 1 - biasOf eb - mb := by
    rw [lastPlace]
    omega
  rw [roundMag]
  generalize lastPlace eb mb m e = q at *
  split
  · next hq => exact ⟨_, rfl, nearest_of_le hlp h0 hq hcase⟩
  · next hq => exact ⟨_, rfl, nearest_roundShift hlp h0 neg (by omega) hcase⟩

/-! ### The F32 pattern of a number -/

theorem lastPlace_f32 (m : Nat) (e : Int) : lastPlace 8 23 m e = Max.max ((Nat.log2 m : Int) + e - 23) (-149) := rfl

theorem valOf_f32_fields (s : Bool) {E a : Nat} (hE : E < 255) (ha : a < 2 ^ 23) :
    valOf .f32 (withSign .f32 s (E * 2 ^ 23 + a)) =
      if E = 0 then .fin s a (-149) else .fin s (2 ^ 23 + a) ((E : Int) - 150) := by
  have hsign : withSign .f32 s (E * 2 ^ 23 + a) = (if s then 2 ^ 31 else 0) + (E * 2 ^ 23 + a) := by
    cases s <;> simp [withSign, Fmt.bits, Fmt.nibbles]
  have hs : decide (((if s then 2 ^ 31 else 0) + (E * 2 ^ 23 + a)) / 2 ^ 31 % 2 = 1) = s := by
    cases s <;> simp <;> omega
  have hm : ((if s then 2 ^ 31 else 0) + (E * 2 ^ 23 + a)) % 2 ^ 23 = a := by cases s <;> simp <;> omega
  have hf : ((if s then 2 ^ 31 else 0) + (E * 2 ^ 23 + a)) / 2 ^ 23 % 2 ^ 8 = E := by cases s <;> simp <;> omega
  rw [hsign, valOf_float (f := .f32) rfl, decodeFloat, hs, hm, hf, if_neg (by simp), if_neg (by omega)]
  simp only [biasOf]
  norm_num
  split
  · rfl
  · congr 1
    omega

theorem rat_magPattern (s : Bool) {n : Nat} {q : Int} (hn : n ≤ 2 ^ 24) (hq : 2 ^ 23 ≤ n ∨ q = -149) (hlo : -149 ≤ q)
    (hhi : q ≤ 104) (hmax : n = 2 ^ 24 → q < 104) :
    magPattern 8 23 (n, q) ≤ Fmt.f32.largest ∧
      (valOf .f32 (withSign .f32 s (magPattern 8 23 (n, q)))).rat = (FVal.fin s n q).rat := by
  have hbias : biasOf 8 = 127 := rfl
  have hlarge : Fmt.f32.largest = 254 * 2 ^ 23 + (2 ^ 23 - 1) := rfl
  rw [magPattern, hbias, hlarge]
  dsimp only
  split
  · next hsub =>
    obtain rfl : q = -149 := by omega
    refine ⟨by omega, ?_⟩
    have := valOf_f32_fields s (E := 0) (by omega) hsub
    rw [zero_mul, zero_add, if_pos rfl] at this
    rw [this]
  split
  · next hsub hnorm =>
    have hE : (q + (23 : Nat) + 127).toNat = (q + 150).toNat := by omega
    refine ⟨by omega, ?_⟩
    have hfields := valOf_f32_fields s (E := (q + 150).toNat) (a := n - 2 ^ 23) (by omega) (by omega)
    rw [if_neg (by omega), show 2 ^ 23 + (n - 2 ^ 23) = n by omega, show (((q + 150).toNat : Int) - 150) = q by omega]
      at hfields
    rw [hE, hfields]
  · next hsub hbig =>
    obtain rfl : n = 2 ^ 24 := by omega
    have hE : (q + 1 + (23 : Nat) + 127).toNat = (q + 151).toNat := by omega
    refine ⟨by omega, ?_⟩
    have := valOf_f32_fields s (E := (q + 151).toNat) (a := 0) (by omega) (by omega)
    rw [add_zero, if_neg (by omega)] at this
    rw [hE, this, show (((q + 151).toNat : Int) - 150) = q + 1 by omega]
    have hpow : (2 : Rat) ^ (q + 1) = 2 ^ q * 2 := zpow_add_one₀ two_ne_zero q
    rw [FVal.rat_fin, FVal.rat_fin, hpow]
    push_cast
    ring

/-- The F32 number nearest to a number that is no larger than the largest. -/
theorem toF32_nearest (s : Bool) {m : Nat} (h0 : m ≠ 0) {e : Int} (hmax : (m : Rat) * 2 ^ e ≤ maxF32) : ∃ n : Nat,
    (valOf .f32 (toF32 (.fin s m e))).rat = (FVal.fin s n (lastPlace 8 23 m e)).rat ∧
    Nearest 23 (-149) m e n (lastPlace 8 23 m e) := by
  obtain ⟨n, hround, hnear⟩ := roundMag_rne s 8 23 h0 e
  refine ⟨n, ?_, hnear⟩
  have hlo : -149 ≤ lastPlace 8 23 m e := le_max_right ..
  have hlt : (m : Rat) * 2 ^ e < 2 ^ (128 : Int) := lt_of_le_of_lt hmax (by norm_num [maxF32_eq])
  have hexp : (Nat.log2 m : Int) + e < 128 :=
    (zpow_lt_zpow_iff_right₀ one_lt_two).mp (lt_of_le_of_lt (log2_pow_le h0 e) hlt)
  have hhi : lastPlace 8 23 m e ≤ 104 := by
    rw [lastPlace_f32]
    omega
  have htop : n = 2 ^ 24 → lastPlace 8 23 m e < 104 := by
    rintro rfl
    refine lt_of_le_of_ne hhi fun h104 => ?_
    have hbelow := (abs_le.mp hnear.near).2
    rw [h104] at hbelow
    norm_num [maxF32_eq] at hbelow hmax
    linarith
  obtain ⟨hle, hrat⟩ := rat_magPattern s hnear.small hnear.normal hlo hhi htop
  rw [← hrat, toF32, roundTo]
  simp only [Fmt.float]
  rw [if_neg h0, hround, if_neg (not_lt.mpr hle)]

/-- Its error is at most half a unit in the last place. -/
theorem toF32_error (s : Bool) {m : Nat} {e : Int} (hmax : (m : Rat) * 2 ^ e ≤ maxF32) :
    |(valOf .f32 (toF32 (.fin s m e))).rat - (FVal.fin s m e).rat| ≤ 2 ^ lastPlace 8 23 m e / 2 := by
  by_cases h0 : m = 0
  · have hzero : (valOf .f32 (toF32 (.fin s 0 e))).rat = (FVal.fin s 0 e).rat := by
      have := valOf_f32_fields s (E := 0) (a := 0) (by omega) (by omega)
      rw [zero_mul, zero_add, if_pos rfl] at this
      simp [toF32, roundTo, Fmt.float, this, FVal.rat_fin]
    rw [h0, hzero, sub_self, abs_zero]
    positivity
  · obtain ⟨n, hrat, hnear⟩ := toF32_nearest s h0 hmax
    rw [hrat]
    cases s
    · simpa using hnear.near
    · rw [FVal.rat_true, FVal.rat_true, neg_sub_neg, abs_sub_comm]
      exact hnear.near

end Sys2Proof.Machine
end

section
/-! Units in the last place of F32, and the results of the special functions within their bounds (R157, log 7). -/

namespace Sys2Proof.Machine

/-! ### Units in the last place -/

/-- A number has one unit in the last place. -/
theorem isUlp_unique {y : Rat} {u v : Int} (hu : IsUlp y u) (hv : IsUlp y v) : u = v := by
  obtain ⟨hu0, hu1, hu2⟩ := hu
  obtain ⟨hv0, hv1, hv2⟩ := hv
  have hlt : ∀ {a b : Int}, |y| < (2 : Rat) ^ (a + 24) → (2 : Rat) ^ (b + 23) ≤ |y| → b ≤ a := fun ha hb => by
    have := (zpow_lt_zpow_iff_right₀ (one_lt_two (α := Rat))).mp (lt_of_le_of_lt hb ha)
    omega
  apply le_antisymm
  · exact hu2.elim (fun h => h ▸ hv0) (hlt hv1)
  · exact hv2.elim (fun h => h ▸ hu0) (hlt hu1)

/-- The unit is that of the magnitude. -/
theorem isUlp_congr {y z : Rat} (h : |y| = |z|) {u : Int} : IsUlp y u ↔ IsUlp z u := by
  rw [IsUlp, IsUlp, h]

theorem isUlp_of_binade {y : Rat} {L : Int} (hlo : 2 ^ L ≤ |y|) (hhi : |y| < 2 ^ (L + 1)) :
    IsUlp y (Max.max (L - 23) (-149)) := by
  refine ⟨le_max_right .., lt_of_lt_of_le hhi (zpow_le_zpow_right₀ one_le_two (by omega)), ?_⟩
  obtain h | h := le_total (L - 23) (-149)
  · exact .inl (max_eq_right h)
  · rw [max_eq_left h, sub_add_cancel]
    exact .inr hlo

/-- The exponent of the last place is that of the unit in it; a zero needs an exponent among the subnormal ones. -/
theorem isUlp_lastPlace (s : Bool) {m : Nat} {e : Int} (h : m ≠ 0 ∨ e ≤ -126) :
    IsUlp (FVal.fin s m e).rat (lastPlace 8 23 m e) := by
  by_cases h0 : m = 0
  · have hlp : lastPlace 8 23 0 e = -149 := by
      rw [lastPlace_f32, Nat.log2_zero]
      omega
    rw [h0, hlp]
    exact ⟨le_rfl, by simp [FVal.rat_fin], .inl rfl⟩
  · have hbin : IsUlp (FVal.fin s m e).rat (Max.max ((Nat.log2 m : Int) + e - 23) (-149)) :=
      isUlp_of_binade (by rw [FVal.abs_rat]; exact log2_pow_le h0 e) (by rw [FVal.abs_rat]; exact lt_log2_pow m e)
    exact hbin

/-- A reciprocal lies between its truncation to `j` bits and the next multiple. -/
theorem quotient_bounds {m : Nat} (h0 : m ≠ 0) (j : Nat) (e : Int) :
    ((2 ^ j / m : Nat) : Rat) * 2 ^ (-e - j) ≤ 1 / ((m : Rat) * 2 ^ e) ∧
      1 / ((m : Rat) * 2 ^ e) < ((2 ^ j / m + 1 : Nat) : Rat) * 2 ^ (-e - j) := by
  have hm : (0 : Rat) < m := by exact_mod_cast Nat.pos_of_ne_zero h0
  have hlo : ((2 ^ j / m : Nat) : Rat) * m ≤ 2 ^ j := by exact_mod_cast Nat.div_mul_le_self (2 ^ j) m
  have hhi : (2 : Rat) ^ j < ((2 ^ j / m + 1 : Nat) : Rat) * m := by
    exact_mod_cast Nat.lt_mul_of_div_lt (Nat.lt_succ_self _) (Nat.pos_of_ne_zero h0)
  have hscale : (2 : Rat) ^ (-e - j) * 2 ^ e * 2 ^ j = 1 := by
    rw [← zpow_natCast, ← zpow_add₀ two_ne_zero, ← zpow_add₀ two_ne_zero, show -e - (j : Int) + e + j = 0 by ring, zpow_zero]
  rw [le_div_iff₀ (by positivity), div_lt_iff₀ (by positivity)]
  have hs : (0 : Rat) < 2 ^ (-e - j) * 2 ^ e := by positivity
  constructor
  · calc _ = ((2 ^ j / m : Nat) : Rat) * m * (2 ^ (-e - j) * 2 ^ e) := by ring
      _ ≤ 2 ^ j * (2 ^ (-e - j) * 2 ^ e) := mul_le_mul_of_nonneg_right hlo hs.le
      _ = 1 := by rw [mul_comm, hscale]
  · calc 1 = 2 ^ j * (2 ^ (-e - j) * 2 ^ e) := by rw [mul_comm, hscale]
      _ < ((2 ^ j / m + 1 : Nat) : Rat) * m * (2 ^ (-e - j) * 2 ^ e) := mul_lt_mul_of_pos_right hhi hs
      _ = _ := by ring

/-- The unit of a reciprocal is that of its truncation. -/
theorem isUlp_quotient {m : Nat} (h0 : m ≠ 0) {j : Nat} (hm : m ≤ 2 ^ j) (e : Int) :
    IsUlp (1 / ((m : Rat) * 2 ^ e)) (lastPlace 8 23 (2 ^ j / m) (-e - j)) := by
  obtain ⟨hlo, hhi⟩ := quotient_bounds h0 j e
  have hq : 2 ^ j / m ≠ 0 := (Nat.div_pos hm (Nat.pos_of_ne_zero h0)).ne'
  have hpos : (0 : Rat) ≤ 1 / ((m : Rat) * 2 ^ e) := by positivity
  have hnext : ((2 ^ j / m + 1 : Nat) : Rat) ≤ 2 ^ (Nat.log2 (2 ^ j / m) + 1) := by
    exact_mod_cast Nat.succ_le_of_lt Nat.lt_log2_self
  have hbin : IsUlp (1 / ((m : Rat) * 2 ^ e)) (Max.max ((Nat.log2 (2 ^ j / m) : Int) + (-e - j) - 23) (-149)) := by
    refine isUlp_of_binade ?_ ?_ <;> rw [abs_of_nonneg hpos]
    · exact (log2_pow_le hq _).trans hlo
    · refine hhi.trans_le ((mul_le_mul_of_nonneg_right hnext (by positivity)).trans_eq ?_)
      rw [← zpow_natCast, ← zpow_add₀ two_ne_zero]
      congr 1
      push_cast
      ring
  exact hbin

/-! ### Results within a bound -/

/-- A result that the model's test accepts lies within `k` units. -/
theorem nearUlp_within {k : Nat} {r : FVal} {s : Bool} {m : Nat} {e : Int} (h : nearUlp k r (.fin s m e) = true) :
    |r.rat - (FVal.fin s m e).rat| ≤ (k + 2 ^ (-60 : Int)) * 2 ^ lastPlace 8 23 m e := by
  cases r with
  | nan => contradiction
  | inf => contradiction
  | fin t n f =>
    have hd := of_decide_eq_true h
    generalize lastPlace 8 23 m e = u at *
    generalize hg : Min.min (Min.min f e) (u - 60) = g at hd
    rw [← scaledInt_mul t n (show g ≤ f by omega), ← scaledInt_mul s m (show g ≤ e by omega), ← sub_mul, abs_mul,
      abs_of_pos (show (0 : Rat) < 2 ^ g by positivity)]
    have hdQ : |(scaledInt t n f g : Rat) - scaledInt s m e g| ≤ k * 2 ^ (u - g).toNat + 2 ^ (u - 60 - g).toNat := by
      rw [← Int.cast_sub, ← Int.cast_abs, Int.abs_eq_natAbs]
      exact_mod_cast hd
    calc _ ≤ ((k : Rat) * 2 ^ (u - g).toNat + 2 ^ (u - 60 - g).toNat) * 2 ^ g :=
          mul_le_mul_of_nonneg_right hdQ (by positivity)
      _ = k * 2 ^ u + 2 ^ (u - 60) := by
          rw [add_mul, mul_assoc, pow_toNat_mul_zpow (by omega), pow_toNat_mul_zpow (by omega)]
      _ = _ := by rw [add_mul, ← zpow_add₀ two_ne_zero, neg_add_eq_sub]

/-- A special function's result lies within its bound of a value whose unit is `u`. -/
theorem boundedFree_within {k : Nat} (hk : 1 ≤ k) (r : FVal) {s : Bool} {m : Nat} {e : Int} (h0 : m ≠ 0 ∨ e ≤ -126)
    (hmax : (m : Rat) * 2 ^ e ≤ maxF32) {u : Int} (hu : IsUlp (FVal.fin s m e).rat u) :
    |(boundedFree k r (.fin s m e)).rat - (FVal.fin s m e).rat| ≤ (k + 2 ^ (-60 : Int)) * 2 ^ u := by
  rw [isUlp_unique hu (isUlp_lastPlace s h0), boundedFree]
  split
  · next h => exact nearUlp_within h
  · have hkQ : (1 : Rat) ≤ k := by exact_mod_cast hk
    refine (toF32_error s hmax).trans ?_
    rw [div_eq_inv_mul]
    exact mul_le_mul_of_nonneg_right (by norm_num; linarith) (by positivity)

end Sys2Proof.Machine
end

section
/-! The special functions (R157): the values at which they are exact, and the values that the model computes for the
bounds on the others, which are no larger than the largest finite F32 number. -/

namespace Sys2Proof.Machine

/-! ### Integers and powers of two -/

theorem FVal.rat_of_integer? {s : Bool} {m : Nat} {e n : Int} (h : (FVal.fin s m e).integer? = some n) :
    (FVal.fin s m e).rat = n := by
  rw [FVal.integer?] at h
  split at h
  · next he =>
    have hpow : (2 : Rat) ^ e.toNat = 2 ^ e := by rw [← zpow_natCast, Int.toNat_of_nonneg he]
    rw [← Option.some.inj h, FVal.rat_fin]
    cases s <;> simp [hpow]
  split at h
  · next he hm =>
    have hsplit : (m : Rat) = (m / 2 ^ (-e).toNat : Nat) * 2 ^ (-e).toNat := by
      exact_mod_cast (Nat.div_mul_cancel (Nat.dvd_of_mod_eq_zero hm)).symm
    have hone : (2 : Rat) ^ (-e).toNat * 2 ^ e = 1 := by
      rw [← zpow_natCast, Int.toNat_of_nonneg (by omega), ← zpow_add₀ two_ne_zero, neg_add_cancel, zpow_zero]
    generalize m / 2 ^ (-e).toNat = q at h hsplit
    rw [← Option.some.inj h, FVal.rat_fin, hsplit, mul_assoc, mul_assoc, hone]
    cases s <;> simp
  · contradiction

theorem FVal.integer?_of_rat {s : Bool} {m : Nat} {e n : Int} (h : (FVal.fin s m e).rat = n) :
    (FVal.fin s m e).integer? = some n := by
  suffices hsome : ∃ k, (FVal.fin s m e).integer? = some k by
    obtain ⟨k, hk⟩ := hsome
    rw [hk, Int.cast_injective ((FVal.rat_of_integer? hk).symm.trans h)]
  rw [FVal.integer?]
  split
  · exact ⟨_, rfl⟩
  · next he =>
    have habs : (m : Rat) * 2 ^ e = |(n : Rat)| := by rw [← h, FVal.abs_rat]
    have hdvd : m = n.natAbs * 2 ^ (-e).toNat := by
      have : (m : Rat) = (n.natAbs : Rat) * 2 ^ (-e).toNat := by
        rw [Nat.cast_natAbs, Int.cast_abs, ← habs, ← zpow_natCast, Int.toNat_of_nonneg (by omega), mul_assoc,
          ← zpow_add₀ two_ne_zero, add_neg_cancel, zpow_zero, mul_one]
      exact_mod_cast this
    rw [if_pos (hdvd ▸ Nat.mul_mod_left ..)]
    exact ⟨_, rfl⟩

theorem FVal.rat_of_power? {s t : Bool} {m : Nat} {e n : Int} (h : (FVal.fin s m e).power? = some (t, n)) :
    t = s ∧ |(FVal.fin s m e).rat| = 2 ^ n := by
  rw [FVal.power?] at h
  split at h
  · next hm =>
    obtain ⟨rfl, rfl⟩ := Prod.mk.inj (Option.some.inj h)
    refine ⟨rfl, ?_⟩
    rw [FVal.abs_rat, zpow_add₀ two_ne_zero, zpow_natCast]
    congr 1
    exact_mod_cast hm.2
  · contradiction

theorem FVal.power?_of_rat {s : Bool} {m : Nat} {e n : Int} (h : |(FVal.fin s m e).rat| = 2 ^ n) :
    (FVal.fin s m e).power? = some (s, n) := by
  rw [FVal.abs_rat] at h
  have h0 : m ≠ 0 := by
    rintro rfl
    have : (0 : Rat) < 2 ^ n := by positivity
    simp [← h] at this
  have hlo := (log2_pow_le h0 e).trans_eq h
  have hhi := h.symm.trans_lt (lt_log2_pow m e)
  obtain rfl : n = (Nat.log2 m : Int) + e := by
    have := (zpow_le_zpow_iff_right₀ (one_lt_two (α := Rat))).mp hlo
    have := (zpow_lt_zpow_iff_right₀ (one_lt_two (α := Rat))).mp hhi
    omega
  rw [zpow_add₀ two_ne_zero, zpow_natCast] at h
  have hm : m = 2 ^ Nat.log2 m := by exact_mod_cast mul_right_cancel₀ (by positivity) h
  rw [FVal.power?, if_pos ⟨h0, hm⟩]

/-! ### The series (log 7) -/

theorem expFix_mono {t t' : Nat} (h : t ≤ t') : expFix t ≤ expFix t' :=
  (List.foldl_rel (r := fun p q : Nat × Nat => p.1 ≤ q.1 ∧ p.2 ≤ q.2) ⟨le_rfl, le_rfl⟩ fun _ _ _ _ hpq =>
    ⟨Nat.add_le_add hpq.1 hpq.2, Nat.div_le_div_right (Nat.div_le_div_right (Nat.mul_le_mul hpq.2 h))⟩).1

theorem atanhFix_mono {z z' : Nat} (h : z ≤ z') : atanhFix z ≤ atanhFix z' :=
  (List.foldl_rel (r := fun p q : Nat × Nat => p.1 ≤ q.1 ∧ p.2 ≤ q.2) ⟨Nat.zero_le _, h⟩ fun _ _ _ _ hpq =>
    ⟨Nat.add_le_add hpq.1 (Nat.div_le_div_right hpq.2),
      Nat.div_le_div_right (Nat.mul_le_mul hpq.2 (Nat.mul_le_mul h h))⟩).1

theorem expFix_ne_zero (t : Nat) : expFix t ≠ 0 := by
  have hone : expFix 0 = 2 ^ 128 := by decide
  have := expFix_mono (Nat.zero_le t)
  omega

/-- 2^1 is the most that the fraction of an exponent gives. -/
theorem expFix_ln2Fix_le : expFix ln2Fix ≤ 2 ^ 129 := by decide

/-- The fraction of the F32 number below 128 leaves 2^x below the largest finite number. -/
theorem expFix_below_one_le : expFix ((2 ^ 128 - 2 ^ 111) * ln2Fix / 2 ^ 128) ≤ (2 ^ 24 - 1) * 2 ^ 105 := by decide

theorem ln2Fix_ge : 2 ^ 127 ≤ ln2Fix := by decide

theorem atanhFix_one_le : atanhFix (2 ^ 128) ≤ 2 ^ 130 := by decide

/-! ### VEXP2 -/

/-- A number below 128 of at most 24 bits is below 127, or far enough from 128. -/
theorem exp2_argument {s : Bool} {m : Nat} {e : Int} (hm : m < 2 ^ 24) (hlt : (FVal.fin s m e).rat < 128) {x : Int}
    (hx : x = if s then -(toFix m e : Int) else toFix m e) :
    x / 2 ^ 128 ≤ 126 ∨ x / 2 ^ 128 = 127 ∧ x % 2 ^ 128 ≤ 2 ^ 128 - 2 ^ 111 := by
  cases s with
  | true =>
    rw [if_pos rfl] at hx
    omega
  | false =>
    rw [if_neg (by decide), toFix] at hx
    split at hx
    · next he =>
      have hbound : m * 2 ^ (e + 128).toNat < 2 ^ 135 := by
        have h := mul_lt_mul_of_pos_right hlt (show (0 : Rat) < 2 ^ (128 : Int) by positivity)
        rw [FVal.rat_false, mul_assoc, ← zpow_add₀ two_ne_zero, ← Int.toNat_of_nonneg (show 0 ≤ e + 128 by omega),
          zpow_natCast] at h
        norm_num at h
        exact_mod_cast h
      by_cases hbits : (e + 128).toNat < 111
      · have hpow : 2 ^ (e + 128).toNat ≤ 2 ^ 110 := Nat.pow_le_pow_right two_pos (by omega)
        have hsmall : m * 2 ^ (e + 128).toNat ≤ (2 ^ 24 - 1) * 2 ^ 110 := Nat.mul_le_mul (by omega) hpow
        omega
      · obtain ⟨d, hd⟩ := Nat.exists_eq_add_of_le (not_lt.mp hbits)
        rw [hd, Nat.pow_add, Nat.mul_left_comm] at hx hbound
        omega
    · have := Nat.div_le_self m (2 ^ (-128 - e).toNat)
      omega

theorem exp2Near_le {s : Bool} {m : Nat} {e : Int} (hm : m < 2 ^ 24) (hlt : (FVal.fin s m e).rat < 128) :
    ∃ n k, exp2Near s m e = .fin false n k ∧ n ≠ 0 ∧ (n : Rat) * 2 ^ k ≤ maxF32 := by
  refine ⟨_, _, rfl, expFix_ne_zero _, ?_⟩
  generalize hx : (if s then -(toFix m e : Int) else toFix m e) = x
  have hfrac : (x % 2 ^ 128).toNat < 2 ^ 128 := by omega
  obtain hq | ⟨hq, hr⟩ := exp2_argument hm hlt hx.symm
  · have hf : (x % 2 ^ 128).toNat * ln2Fix / 2 ^ 128 ≤ ln2Fix :=
      Nat.div_le_of_le_mul (Nat.mul_le_mul_right _ hfrac.le)
    have hn : (expFix ((x % 2 ^ 128).toNat * ln2Fix / 2 ^ 128) : Rat) ≤ 2 ^ 129 := by
      exact_mod_cast (expFix_mono hf).trans expFix_ln2Fix_le
    have hp : (2 : Rat) ^ (x / 2 ^ 128 - 128) ≤ 2 ^ (-2 : Int) := zpow_le_zpow_right₀ one_le_two (by omega)
    exact (mul_le_mul hn hp (by positivity) (by positivity)).trans (by norm_num [maxF32_eq])
  · have hf : (x % 2 ^ 128).toNat * ln2Fix / 2 ^ 128 ≤ (2 ^ 128 - 2 ^ 111) * ln2Fix / 2 ^ 128 :=
      Nat.div_le_div_right (Nat.mul_le_mul_right _ (by omega))
    have hn : (expFix ((x % 2 ^ 128).toNat * ln2Fix / 2 ^ 128) : Rat) ≤ ((2 ^ 24 - 1) * 2 ^ 105 : Nat) := by
      exact_mod_cast (expFix_mono hf).trans expFix_below_one_le
    rw [hq]
    exact (mul_le_mul_of_nonneg_right hn (by positivity)).trans (by norm_num [maxF32_eq])

section
variable {s : Bool} {m : Nat} {e : Int}

theorem exp2Val_low (h : (FVal.fin s m e).rat < -150) : exp2Val (.fin s m e) = .fin false 0 0 :=
  if_pos (FVal.cmp_ofInt_lt.mpr (by exact_mod_cast h))

theorem exp2Val_high (h : 128 ≤ (FVal.fin s m e).rat) : exp2Val (.fin s m e) = .inf false := by
  have hlow : (FVal.fin s m e).cmp (.ofInt (-150)) ≠ some .lt := FVal.cmp_ofInt_ge.mpr (le_trans (by norm_num) h)
  have hhigh : (FVal.fin s m e).cmp (.ofInt 128) ≠ some .lt := FVal.cmp_ofInt_ge.mpr (by exact_mod_cast h)
  exact (if_neg hlow).trans (if_pos hhigh)

/-- Between them 2^x is exact at an integer from −149, and else a result bounded around the computed value. -/
theorem exp2Val_mid (hlo : -150 ≤ (FVal.fin s m e).rat) (hhi : (FVal.fin s m e).rat < 128) : exp2Val (.fin s m e) =
    match (FVal.fin s m e).integer? with
    | some n => if -149 ≤ n then .fin false 1 n else
        boundedFree (if (FVal.fin s m e).rat < -126 then 1 else 2) (freeOf Config.exp2 (.fin s m e)) (exp2Near s m e)
    | none =>
        boundedFree (if (FVal.fin s m e).rat < -126 then 1 else 2) (freeOf Config.exp2 (.fin s m e)) (exp2Near s m e) := by
  have hlow : (FVal.fin s m e).cmp (.ofInt (-150)) ≠ some .lt := FVal.cmp_ofInt_ge.mpr (by exact_mod_cast hlo)
  have hhigh : (FVal.fin s m e).cmp (.ofInt 128) = some .lt := FVal.cmp_ofInt_lt.mpr (by exact_mod_cast hhi)
  have hk : (if (FVal.fin s m e).cmp (.ofInt (-126)) = some .lt then 1 else 2) =
      if (FVal.fin s m e).rat < -126 then 1 else 2 := by
    refine if_congr (FVal.cmp_ofInt_lt.trans ?_) rfl rfl
    norm_num
  rw [← hk]
  refine (if_neg hlow).trans ((if_neg (not_not.mpr hhigh)).trans ?_)
  rfl

theorem exp2Val_integer {n : Int} (hlo : -149 ≤ n) (hhi : n ≤ 127) (h : (FVal.fin s m e).rat = n) :
    exp2Val (.fin s m e) = .fin false 1 n := by
  have hloQ : (-149 : Rat) ≤ n := by exact_mod_cast hlo
  have hhiQ : (n : Rat) ≤ 127 := by exact_mod_cast hhi
  rw [exp2Val_mid (by linarith) (by linarith), FVal.integer?_of_rat h]
  exact if_pos hlo

theorem exp2Val_within (hm : m < 2 ^ 24) (hint : ¬∃ n : Int, -149 ≤ n ∧ (FVal.fin s m e).rat = n)
    (hlo : -150 ≤ (FVal.fin s m e).rat) (hhi : (FVal.fin s m e).rat < 128) {u : Int} (hu : IsUlp (exp2Near s m e).rat u) :
    |(exp2Val (.fin s m e)).rat - (exp2Near s m e).rat| ≤
      ((if (FVal.fin s m e).rat < -126 then 1 else 2) + 2 ^ (-60 : Int)) * 2 ^ u := by
  have hval : exp2Val (.fin s m e) =
      boundedFree (if (FVal.fin s m e).rat < -126 then 1 else 2) (freeOf Config.exp2 (.fin s m e)) (exp2Near s m e) := by
    rw [exp2Val_mid hlo hhi]
    split
    · next n hn => exact if_neg fun hge => hint ⟨n, hge, FVal.rat_of_integer? hn⟩
    · rfl
  obtain ⟨n, k, hnear, h0, hmax⟩ := exp2Near_le hm hhi
  rw [hval]
  rw [hnear] at hu ⊢
  have := boundedFree_within (k := if (FVal.fin s m e).rat < -126 then 1 else 2) (by split <;> omega)
    (freeOf Config.exp2 (.fin s m e)) (.inl h0) hmax hu
  push_cast at this
  exact this

end

/-! ### VLOG2 -/

/-- log2 of the significand, with 128 bits behind the point. -/
theorem log2_fraction_le (m : Nat) :
    2 * atanhFix ((m - 2 ^ Nat.log2 m) * 2 ^ 128 / (m + 2 ^ Nat.log2 m)) * 2 ^ 128 / ln2Fix ≤ 2 ^ 132 := by
  have hz : (m - 2 ^ Nat.log2 m) * 2 ^ 128 / (m + 2 ^ Nat.log2 m) ≤ 2 ^ 128 :=
    Nat.div_le_of_le_mul (Nat.mul_le_mul_right _ ((Nat.sub_le ..).trans (Nat.le_add_right ..)))
  have ha := (atanhFix_mono hz).trans atanhFix_one_le
  exact Nat.div_le_of_le_mul (le_trans (by omega) (Nat.mul_le_mul_right _ ln2Fix_ge))

theorem log2Near_le {m : Nat} {e : Int} (hm : m < 2 ^ 24) (hlo : -149 ≤ e) (hhi : e ≤ 128) :
    ∃ s n, log2Near m e = .fin s n (-128) ∧ (n : Rat) * 2 ^ (-128 : Int) ≤ maxF32 := by
  have hlog : Nat.log2 m < 24 := by
    by_cases h0 : m = 0
    · rw [h0, Nat.log2_zero]
      decide
    · exact (Nat.log2_lt h0).mpr hm
  have hsum : ∀ b : Nat, b ≤ 2 ^ 132 → -2 ^ 140 ≤ ((Nat.log2 m : Int) + e) * 2 ^ 128 + b ∧
      ((Nat.log2 m : Int) + e) * 2 ^ 128 + b ≤ 2 ^ 140 := fun b hb => by omega
  obtain ⟨l, ⟨hneg, hpos⟩, heq⟩ : ∃ l : Int, (-2 ^ 140 ≤ l ∧ l ≤ 2 ^ 140) ∧
      log2Near m e = .fin (decide (l < 0)) l.natAbs (-128) := ⟨_, hsum _ (log2_fraction_le m), rfl⟩
  have hlQ : (l.natAbs : Rat) ≤ 2 ^ 140 := by exact_mod_cast (show l.natAbs ≤ 2 ^ 140 by omega)
  exact ⟨_, _, heq, (mul_le_mul_of_nonneg_right hlQ (by positivity)).trans (by norm_num [maxF32_eq])⟩

section
variable {s : Bool} {m : Nat} {e : Int}

theorem FVal.rat_pos_iff (h0 : m ≠ 0) : 0 < (FVal.fin s m e).rat ↔ s = false := by
  have hpos : (0 : Rat) < (m : Rat) * 2 ^ e := mul_pos (by exact_mod_cast Nat.pos_of_ne_zero h0) (by positivity)
  cases s
  · simpa using hpos
  · simpa using hpos.le

/-- A power of two has the sign + and is its own magnitude. -/
theorem FVal.power?_of_pos {n : Int} (h0 : m ≠ 0) (h : (FVal.fin s m e).rat = 2 ^ n) :
    s = false ∧ (FVal.fin s m e).power? = some (s, n) := by
  have hpos : (0 : Rat) < 2 ^ n := by positivity
  exact ⟨(FVal.rat_pos_iff h0).mp (h ▸ hpos), FVal.power?_of_rat (by rw [h, abs_of_pos hpos])⟩

theorem FVal.power?_eq_none (h : ¬∃ n : Int, |(FVal.fin s m e).rat| = 2 ^ n) : (FVal.fin s m e).power? = none := by
  cases hp : (FVal.fin s m e).power? with
  | none => rfl
  | some p => exact absurd ⟨p.2, (FVal.rat_of_power? hp).2⟩ h

theorem log2Val_negative (h0 : m ≠ 0) : log2Val (.fin true m e) = .nan := (if_neg h0).trans (if_pos rfl)

/-- A positive number has a logarithm. -/
theorem log2Val_positive (h0 : m ≠ 0) : log2Val (.fin false m e) = match (FVal.fin false m e).power? with
    | some (_, n) => FVal.ofInt n
    | none => boundedFree 2 (freeOf Config.log2 (.fin false m e)) (log2Near m e) :=
  (if_neg h0).trans (if_neg (by decide))

theorem log2Val_power {n : Int} (h0 : m ≠ 0) (h : (FVal.fin s m e).rat = 2 ^ n) : log2Val (.fin s m e) = .ofInt n := by
  obtain ⟨rfl, hp⟩ := FVal.power?_of_pos h0 h
  rw [log2Val_positive h0, hp]

theorem log2Val_within (h0 : m ≠ 0) (hm : m < 2 ^ 24) (hlo : -149 ≤ e) (hhi : e ≤ 128)
    (hpow : ¬∃ n : Int, (FVal.fin false m e).rat = 2 ^ n) {u : Int} (hu : IsUlp (log2Near m e).rat u) :
    |(log2Val (.fin false m e)).rat - (log2Near m e).rat| ≤ (2 + 2 ^ (-60 : Int)) * 2 ^ u := by
  have hnone := FVal.power?_eq_none (s := false) (m := m) (e := e) fun ⟨n, hn⟩ =>
    hpow ⟨n, by rwa [abs_of_pos ((FVal.rat_pos_iff h0).mpr rfl)] at hn⟩
  obtain ⟨s', n, hnear, hmax⟩ := log2Near_le hm hlo hhi
  rw [log2Val_positive h0, hnone]
  rw [hnear] at hu ⊢
  exact boundedFree_within one_le_two (freeOf Config.log2 (.fin false m e)) (.inr (by decide)) hmax hu

end

/-! ### VTANH -/

theorem tanhNear_le {s : Bool} {m : Nat} {e : Int} (h10 : |(FVal.fin s m e).rat| < 10) :
    ∃ n k, tanhNear s m e = .fin s n k ∧ k ≤ -126 ∧ (n : Rat) * 2 ^ k ≤ maxF32 := by
  rw [FVal.abs_rat] at h10
  rw [tanhNear]
  split
  · next hsmall =>
    refine ⟨_, _, rfl, by omega, ?_⟩
    have hn : m * (3 * 2 ^ (-2 * e).toNat - m * m) * 2 ^ 64 / 3 ≤ m * 2 ^ (-2 * e).toNat * 2 ^ 64 := by
      refine Nat.div_le_of_le_mul ?_
      calc _ ≤ m * (3 * 2 ^ (-2 * e).toNat) * 2 ^ 64 := by gcongr; exact Nat.sub_le ..
        _ = _ := by ring
    have hnQ : ((m * (3 * 2 ^ (-2 * e).toNat - m * m) * 2 ^ 64 / 3 : Nat) : Rat) ≤ m * 2 ^ (-2 * e).toNat * 2 ^ 64 := by
      exact_mod_cast hn
    have hscale : (2 : Rat) ^ (-2 * e).toNat * 2 ^ 64 * 2 ^ (3 * e - 64) = 2 ^ e := by
      rw [← zpow_natCast, Int.toNat_of_nonneg (by omega), ← zpow_natCast, ← zpow_add₀ two_ne_zero,
        ← zpow_add₀ two_ne_zero]
      congr 1
      push_cast
      ring
    calc _ ≤ ((m : Rat) * 2 ^ (-2 * e).toNat * 2 ^ 64) * 2 ^ (3 * e - 64) := mul_le_mul_of_nonneg_right hnQ (by positivity)
      _ = m * 2 ^ e := by rw [mul_assoc, mul_assoc, ← mul_assoc (2 ^ (-2 * e).toNat), hscale]
      _ ≤ maxF32 := h10.le.trans (by norm_num [maxF32_eq])
  · refine ⟨_, _, rfl, by decide, ?_⟩
    generalize expFix (toFix m (e + 1) % ln2Fix) * 2 ^ (toFix m (e + 1) / ln2Fix) = x
    have hn : (x - 2 ^ 128) * 2 ^ 128 / (x + 2 ^ 128) ≤ 2 ^ 128 :=
      Nat.div_le_of_le_mul (Nat.mul_le_mul_right _ (by omega))
    have hnQ : (((x - 2 ^ 128) * 2 ^ 128 / (x + 2 ^ 128) : Nat) : Rat) ≤ 2 ^ 128 := by exact_mod_cast hn
    exact (mul_le_mul_of_nonneg_right hnQ (by positivity)).trans (by norm_num [maxF32_eq])

section
variable {s : Bool} {m : Nat} {e : Int}

theorem FVal.cmp_abs_ten : (FVal.fin s m e).abs.cmp (.ofInt 10) = some .lt ↔ |(FVal.fin s m e).rat| < 10 := by
  rw [FVal.abs, FVal.cmp_ofInt_lt, FVal.rat_false, FVal.abs_rat]
  norm_num

variable (h0 : m ≠ 0)
include h0

theorem tanhVal_far (h : 10 ≤ |(FVal.fin s m e).rat|) : tanhVal (.fin s m e) = .fin s 1 0 :=
  (if_neg h0).trans (if_pos fun hc => absurd (FVal.cmp_abs_ten.mp hc) (not_lt.mpr h))

theorem tanhVal_within (h : |(FVal.fin s m e).rat| < 10) {u : Int} (hu : IsUlp (tanhNear s m e).rat u) :
    |(tanhVal (.fin s m e)).rat - (tanhNear s m e).rat| ≤ (3 + 2 ^ (-60 : Int)) * 2 ^ u := by
  have hval : tanhVal (.fin s m e) = boundedFree 3 (freeOf Config.tanh (.fin s m e)) (tanhNear s m e) :=
    (if_neg h0).trans (if_neg (not_not.mpr (FVal.cmp_abs_ten.mpr h)))
  obtain ⟨n, k, hnear, hk, hmax⟩ := tanhNear_le h
  rw [hval]
  rw [hnear] at hu ⊢
  exact boundedFree_within (by decide) (freeOf Config.tanh (.fin s m e)) (.inr hk) hmax hu

end

end Sys2Proof.Machine
end

section
/-! VRCP and VRSQ (R157): a result that the model's test accepts, and the number that stands in for a free result that it
does not, lie within one unit in the last place. -/

namespace Sys2Proof.Machine

/-! ### VRCP -/

/-- A reciprocal that the model's test accepts lies within one unit. -/
theorem withinUlp_within {r : FVal} {m : Nat} {e : Int} (h0 : m ≠ 0) (h : withinUlp r 1 m (-e) = true) :
    |r.rat - 1 / ((m : Rat) * 2 ^ e)| ≤ 2 ^ lastPlace 8 23 (2 ^ 64 / m) (-e - 64) := by
  match r with
  | .nan => contradiction
  | .inf _ => contradiction
  | .fin true _ _ => contradiction
  | .fin false n f =>
    have hd := of_decide_eq_true h
    rw [one_mul] at hd
    generalize lastPlace 8 23 (2 ^ 64 / m) (-e - 64) = u at *
    generalize hg : Min.min (Min.min f (-e)) u = g at hd
    have hm : (0 : Rat) < m := by exact_mod_cast Nat.pos_of_ne_zero h0
    have hdQ : |(n : Rat) * 2 ^ (f - g).toNat * m - 2 ^ (-e - g).toNat| ≤ 2 ^ (u - g).toNat * m := by
      have hcast : |((n * 2 ^ (f - g).toNat * m : Nat) : Int) - (1 * 2 ^ (-e - g).toNat : Nat)| ≤
          (2 ^ (u - g).toNat * m : Nat) := by
        rw [Int.abs_eq_natAbs]
        exact_mod_cast hd
      rw [one_mul] at hcast
      exact_mod_cast hcast
    have hr : (n : Rat) * 2 ^ f = n * 2 ^ (f - g).toNat * 2 ^ g := by rw [mul_assoc, pow_toNat_mul_zpow (by omega)]
    have hy : 1 / ((m : Rat) * 2 ^ e) * m = 2 ^ (-e - g).toNat * 2 ^ g := by
      rw [pow_toNat_mul_zpow (by omega), zpow_neg]
      field_simp
    refine le_of_mul_le_mul_right ?_ hm
    calc |(FVal.fin false n f).rat - 1 / ((m : Rat) * 2 ^ e)| * m
        = |((FVal.fin false n f).rat - 1 / ((m : Rat) * 2 ^ e)) * m| := by rw [abs_mul, abs_of_pos hm]
      _ = |((n : Rat) * 2 ^ (f - g).toNat * m - 2 ^ (-e - g).toNat) * 2 ^ g| := by
          rw [FVal.rat_false, sub_mul, hy, hr]
          congr 1
          ring
      _ = |(n : Rat) * 2 ^ (f - g).toNat * m - 2 ^ (-e - g).toNat| * 2 ^ g := by
          rw [abs_mul, abs_of_pos (show (0 : Rat) < 2 ^ g by positivity)]
      _ ≤ 2 ^ (u - g).toNat * m * 2 ^ g := mul_le_mul_of_nonneg_right hdQ (by positivity)
      _ = 2 ^ u * m := by rw [mul_right_comm, pow_toNat_mul_zpow (by omega)]

/-- The reciprocal of a number of 24 bits above 2^−128 is no larger than the largest finite number. -/
theorem reciprocal_le {m : Nat} {e : Int} (hm : m < 2 ^ 24) (hlo : (2 : Rat) ^ (-128 : Int) < m * 2 ^ e) :
    1 / ((m : Rat) * 2 ^ e) ≤ maxF32 := by
  have hpos : (0 : Rat) < m * 2 ^ e := lt_trans (by positivity) hlo
  rw [div_le_iff₀ hpos]
  suffices hgap : (2 : Rat) ^ (-128 : Int) + 2 ^ (-151 : Int) ≤ m * 2 ^ e by
    refine le_trans ?_ (mul_le_mul_of_nonneg_left hgap (by norm_num [maxF32_eq]))
    norm_num [maxF32_eq]
  have hm1 : (1 : Rat) ≤ m := by
    have : m ≠ 0 := by
      rintro rfl
      simp at hpos
    exact_mod_cast Nat.one_le_iff_ne_zero.mpr this
  by_cases he : -127 ≤ e
  · calc (2 : Rat) ^ (-128 : Int) + 2 ^ (-151 : Int) ≤ 2 ^ (-127 : Int) := by norm_num
      _ ≤ 2 ^ e := zpow_le_zpow_right₀ one_le_two he
      _ ≤ m * 2 ^ e := le_mul_of_one_le_left (by positivity) hm1
  · obtain ⟨d, hd⟩ : ∃ d : Nat, (-128 : Int) = d + e := ⟨(-128 - e).toNat, by omega⟩
    have hstep : 2 ^ d + 1 ≤ m := by
      rw [hd, zpow_add₀ two_ne_zero, zpow_natCast, mul_lt_mul_iff_left₀ (by positivity)] at hlo
      exact_mod_cast hlo
    have hd23 : d < 24 := (Nat.pow_lt_pow_iff_right one_lt_two).mp (by omega)
    have hstepQ : (2 : Rat) ^ d + 1 ≤ m := by exact_mod_cast hstep
    calc (2 : Rat) ^ (-128 : Int) + 2 ^ (-151 : Int) ≤ 2 ^ (-128 : Int) + 2 ^ e :=
          add_le_add_right (zpow_le_zpow_right₀ one_le_two (by omega)) _
      _ = (2 ^ d + 1) * 2 ^ e := by rw [hd, zpow_add₀ two_ne_zero, zpow_natCast]; ring
      _ ≤ m * 2 ^ e := mul_le_mul_of_nonneg_right hstepQ (by positivity)

/-- A number of more than 25 bits has its last bit below half a unit. -/
theorem last_bit_le {n : Nat} (hn : 2 ^ 25 ≤ n) (k : Int) : (2 : Rat) ^ k ≤ 2 ^ lastPlace 8 23 n k / 2 := by
  have hlog : 25 ≤ Nat.log2 n := (Nat.le_log2 (by omega)).mpr hn
  have hlp : k + 1 ≤ lastPlace 8 23 n k := by
    rw [lastPlace_f32]
    omega
  rw [le_div_iff₀ two_pos, ← zpow_add_one₀ two_ne_zero]
  exact zpow_le_zpow_right₀ one_le_two hlp

/-- The number that stands in for a free reciprocal outside its bound lies within one unit. -/
theorem nearestReciprocal_within {m : Nat} {e : Int} (h0 : m ≠ 0) (hm : m < 2 ^ 24)
    (hlo : (2 : Rat) ^ (-128 : Int) < m * 2 ^ e) :
    |(valOf .f32 (toF32 (.fin false (2 ^ 80 / m) (-e - 80)))).rat - 1 / ((m : Rat) * 2 ^ e)| ≤
      2 ^ lastPlace 8 23 (2 ^ 80 / m) (-e - 80) := by
  have hq : 2 ^ 56 ≤ 2 ^ 80 / m := (Nat.le_div_iff_mul_le (Nat.pos_of_ne_zero h0)).mpr (by omega)
  have htrunc := quotient_bounds h0 80 e
  generalize 2 ^ 80 / m = q at *
  obtain ⟨hbelow, habove⟩ := htrunc
  rw [Nat.cast_add_one, add_one_mul] at habove
  have hbit : (2 : Rat) ^ (-e - (80 : Nat)) ≤ 2 ^ lastPlace 8 23 q (-e - 80) / 2 := last_bit_le (by omega) _
  have hround := toF32_error false (hbelow.trans (reciprocal_le hm hlo))
  rw [FVal.rat_false] at hround
  obtain ⟨hr0, hr1⟩ := abs_le.mp hround
  simp only [Nat.cast_ofNat] at *
  exact abs_le.mpr ⟨by linarith, by linarith⟩

section
variable {s : Bool} {m : Nat} {e : Int} (h0 : m ≠ 0)
include h0

/-- 1/x of a power of two is exact. -/
theorem rcpVal_power {n : Int} (h : |(FVal.fin s m e).rat| = 2 ^ n) : rcpVal (.fin s m e) = .fin s 1 (-n) := by
  refine (if_neg h0).trans ?_
  rw [FVal.power?_of_rat h]

theorem rcpVal_negative_power {n : Int} (h : (FVal.fin s m e).rat = -2 ^ n) : rcpVal (.fin s m e) = .fin true 1 (-n) := by
  have hpos : (0 : Rat) < 2 ^ n := by positivity
  cases s with
  | true => exact rcpVal_power h0 (by rw [h, abs_neg, abs_of_pos hpos])
  | false =>
    have := (FVal.rat_pos_iff h0 (e := e)).mpr rfl
    linarith

/-- Else a magnitude within its bound, under the sign of x. -/
theorem rcpVal_not_power (h : ¬∃ n : Int, |(FVal.fin s m e).rat| = 2 ^ n) : rcpVal (.fin s m e) =
    let p := if withinUlp (freeOf Config.rcp (.fin s m e)).abs 1 m (-e) then (freeOf Config.rcp (.fin s m e)).abs
      else valOf .f32 (toF32 (.fin false (2 ^ 80 / m) (-e - 80)))
    if s then p.neg else p := by
  refine (if_neg h0).trans ?_
  rw [FVal.power?_eq_none h]

theorem rcpVal_within (hm : m < 2 ^ 24) (hpow : ¬∃ n : Int, |(FVal.fin s m e).rat| = 2 ^ n)
    (hlo : (2 : Rat) ^ (-128 : Int) < |(FVal.fin s m e).rat|) {u : Int} (hu : IsUlp (1 / (FVal.fin s m e).rat) u) :
    |(rcpVal (.fin s m e)).rat - 1 / (FVal.fin s m e).rat| ≤ 2 ^ u := by
  rw [FVal.abs_rat] at hlo
  have hu' : IsUlp (1 / ((m : Rat) * 2 ^ e)) u := by
    refine (isUlp_congr ?_).mp hu
    rw [abs_div, abs_div, FVal.abs_rat, abs_of_nonneg (show (0 : Rat) ≤ m * 2 ^ e by positivity)]
  have hmag : ∀ p : FVal, |p.rat - 1 / ((m : Rat) * 2 ^ e)| ≤ 2 ^ u →
      |(if s then p.neg else p).rat - 1 / (FVal.fin s m e).rat| ≤ 2 ^ u := fun p hp => by
    cases s
    · simpa using hp
    · rw [if_pos rfl, FVal.rat_neg, FVal.rat_true, one_div_neg_eq_neg_one_div, neg_sub_neg, abs_sub_comm]
      exact hp
  rw [rcpVal_not_power h0 hpow]
  refine hmag _ ?_
  split
  · next hw =>
    rw [isUlp_unique hu' (isUlp_quotient h0 (j := 64) (by omega) e)]
    exact withinUlp_within h0 hw
  · rw [isUlp_unique hu' (isUlp_quotient h0 (j := 80) (by omega) e)]
    exact nearestReciprocal_within h0 hm hlo

end

/-! ### VRSQ -/

/-- A value lies within one unit of its own last place of 1/√y, by their squares (log 7). -/
def FVal.RsqWithin (x : FVal) (y : Rat) : Prop :=
  0 < x.rat ∧ ∀ u, IsUlp x.rat u → (x.rat - 2 ^ u) ^ 2 * y ≤ 1 ∧ 1 ≤ (x.rat + 2 ^ u) ^ 2 * y

/-- What the model's test of a result `a × 2^b` says of it. -/
theorem rsqOk_bounds {a m : Nat} {b e : Int} (h : rsqOk (.fin false a b) m e = true) :
    ((2 : Rat) ^ lastPlace 8 23 a b ≤ a * 2 ^ b → (a * 2 ^ b - (2 : Rat) ^ lastPlace 8 23 a b) ^ 2 * (m * 2 ^ e) ≤ 1) ∧
      1 ≤ (a * 2 ^ b + (2 : Rat) ^ lastPlace 8 23 a b) ^ 2 * (m * 2 ^ e) := by
  rw [rsqOk] at h
  generalize lastPlace 8 23 a b = u at *
  generalize hg : Min.min b u = g at h
  have hr : (a : Rat) * 2 ^ b = (a * 2 ^ (b - g).toNat : Nat) * 2 ^ g := by
    push_cast
    rw [mul_assoc, pow_toNat_mul_zpow (by omega)]
  have hu : (2 : Rat) ^ u = (2 ^ (u - g).toNat : Nat) * 2 ^ g := by
    push_cast
    rw [pow_toNat_mul_zpow (by omega)]
  generalize a * 2 ^ (b - g).toNat = A at *
  generalize 2 ^ (u - g).toNat = W at *
  have hsquare : ∀ z : Rat, (z * 2 ^ g) ^ 2 * (m * 2 ^ e) = z * z * m * 2 ^ (2 * g + e) := fun z => by
    rw [zpow_add₀ two_ne_zero, two_mul, zpow_add₀ two_ne_zero]
    ring
  rw [hr, hu, ← sub_mul, ← add_mul, hsquare, hsquare, mul_le_mul_iff_left₀ (by positivity), Nat.cast_le]
  have hlo : W ≤ A → ((A : Rat) - W) = ((A - W : Nat) : Rat) := fun hle => (Nat.cast_sub hle).symm
  generalize 2 * g + e = t at *
  split at h
  · next ht =>
    obtain ⟨h1, h2⟩ := Bool.and_eq_true_iff.mp h
    have h1 := of_decide_eq_true h1
    have h2 := of_decide_eq_true h2
    obtain ⟨d, rfl⟩ := Int.eq_ofNat_of_zero_le ht
    rw [Int.toNat_natCast] at h1 h2
    rw [zpow_natCast]
    refine ⟨fun hle => ?_, by exact_mod_cast h2⟩
    rw [hlo hle]
    exact_mod_cast h1
  · next ht =>
    obtain ⟨h1, h2⟩ := Bool.and_eq_true_iff.mp h
    have h1 := of_decide_eq_true h1
    have h2 := of_decide_eq_true h2
    obtain ⟨d, hd⟩ : ∃ d : Nat, t = -d := ⟨(-t).toNat, by omega⟩
    rw [hd, neg_neg, Int.toNat_natCast] at h1 h2
    rw [hd, zpow_neg, zpow_natCast, ← div_eq_mul_inv, ← div_eq_mul_inv, div_le_one (by positivity),
      one_le_div (by positivity)]
    refine ⟨fun hle => ?_, by exact_mod_cast h2⟩
    rw [hlo hle]
    exact_mod_cast h1

/-- A unit in the last place is no larger than its number, from 2^−149 on. -/
theorem lastPlace_le {a : Nat} {b : Int} (h0 : a ≠ 0) (hb : -149 ≤ b) : (2 : Rat) ^ lastPlace 8 23 a b ≤ a * 2 ^ b := by
  refine le_trans (zpow_le_zpow_right₀ one_le_two ?_) (log2_pow_le h0 b)
  rw [lastPlace_f32]
  omega

/-- An F32 result that the model's test accepts. -/
theorem rsqOk_within {x m : Nat} {e : Int} (hm : m < 2 ^ 24) (hhi : e ≤ 128) (h : rsqOk (valOf .f32 x) m e = true) :
    (valOf .f32 x).RsqWithin (m * 2 ^ e) := by
  match hx : valOf .f32 x with
  | .nan => rw [hx] at h; contradiction
  | .inf _ => rw [hx] at h; contradiction
  | .fin true _ _ => rw [hx] at h; contradiction
  | .fin false a b =>
    rw [hx] at h
    obtain ⟨-, hb, hsub, -⟩ := valOf_fin_bounds rfl hx
    have hb : -149 ≤ b := hb
    obtain ⟨hlow, hhigh⟩ := rsqOk_bounds h
    have h0 : a ≠ 0 := by
      rintro rfl
      obtain rfl : b = -149 := hsub (by decide)
      have hlp : lastPlace 8 23 0 (-149) = -149 := by decide
      have hmQ : (m : Rat) ≤ 2 ^ 24 := by exact_mod_cast hm.le
      have he : (2 : Rat) ^ e ≤ 2 ^ (128 : Int) := zpow_le_zpow_right₀ one_le_two hhi
      have hv : (m : Rat) * 2 ^ e ≤ 2 ^ 24 * 2 ^ (128 : Int) := mul_le_mul hmQ he (by positivity) (by positivity)
      rw [hlp] at hhigh
      have := hhigh.trans (mul_le_mul_of_nonneg_left hv (by positivity))
      norm_num at this
    rw [FVal.RsqWithin, FVal.rat_false]
    refine ⟨mul_pos (by exact_mod_cast Nat.pos_of_ne_zero h0) (by positivity), fun u hu => ?_⟩
    rw [isUlp_unique hu (FVal.rat_false a b ▸ isUlp_lastPlace false (.inl h0))]
    exact ⟨hlow (lastPlace_le h0 hb), hhigh⟩

/-- The truncated root of 2^160 / m. -/
theorem sqrt_quotient_bounds {m : Nat} (h0 : m ≠ 0) (hm : m < 2 ^ 25) :
    Nat.sqrt (2 ^ 160 / m) ^ 2 * m ≤ 2 ^ 160 ∧ 2 ^ 160 < (Nat.sqrt (2 ^ 160 / m) + 1) ^ 2 * m ∧
      2 ^ 67 ≤ Nat.sqrt (2 ^ 160 / m) ∧ Nat.sqrt (2 ^ 160 / m) ≤ 2 ^ 80 := by
  have hpos := Nat.pos_of_ne_zero h0
  have hsq : Nat.sqrt (2 ^ 160 / m) ^ 2 * m ≤ 2 ^ 160 :=
    (Nat.mul_le_mul_right m (Nat.sqrt_le' _)).trans (Nat.div_mul_le_self _ m)
  have htop : Nat.sqrt (2 ^ 160 / m) ^ 2 ≤ (2 ^ 80) ^ 2 :=
    (Nat.le_mul_of_pos_right _ hpos).trans (hsq.trans (by norm_num))
  exact ⟨hsq, (Nat.div_lt_iff_lt_mul hpos).mp (Nat.lt_succ_sqrt' _),
    Nat.le_sqrt'.mpr ((Nat.le_div_iff_mul_le hpos).mpr (by omega)), (Nat.pow_le_pow_iff_left two_ne_zero).mp htop⟩

/-- Rounding a truncated root to F32 leaves it within one unit of the root. -/
theorem toF32_rsqWithin {n : Nat} {k : Int} {y : Rat} (hy : 0 ≤ y) (hbits : 2 ^ 67 ≤ n) (hk : -144 ≤ k)
    (hmax : (n : Rat) * 2 ^ k ≤ maxF32) (hbelow : ((n : Rat) * 2 ^ k) ^ 2 * y ≤ 1)
    (habove : 1 ≤ ((n : Rat) * 2 ^ k + 2 ^ k) ^ 2 * y) : (valOf .f32 (toF32 (.fin false n k))).RsqWithin y := by
  have hn : (2 : Rat) ^ 67 ≤ n := by exact_mod_cast hbits
  have hlarge : (2 : Rat) ^ (-77 : Int) ≤ n * 2 ^ k :=
    le_trans (by norm_num) (mul_le_mul hn (zpow_le_zpow_right₀ one_le_two hk) (by positivity) (by positivity))
  have hn0 : n ≠ 0 := by omega
  have hbit := last_bit_le (n := n) (by omega) k
  have hunit : (2 : Rat) ^ lastPlace 8 23 n k ≤ n * 2 ^ k := lastPlace_le hn0 (by omega)
  obtain ⟨r, hr, -, hnormal, hnear⟩ := toF32_nearest false hn0 hmax
  rw [FVal.RsqWithin, hr, FVal.rat_false]
  generalize lastPlace 8 23 n k = q at *
  obtain ⟨hnear0, hnear1⟩ := abs_le.mp hnear
  have hq : (0 : Rat) < 2 ^ q := by positivity
  have hpos : (0 : Rat) < r * 2 ^ q := by linarith
  refine ⟨hpos, fun u hu => ?_⟩
  obtain ⟨hu0, hu1, hu2⟩ := hu
  rw [abs_of_pos hpos] at hu1 hu2
  have hqu : (2 : Rat) ^ q ≤ 2 ^ u := by
    refine zpow_le_zpow_right₀ one_le_two (hnormal.elim (fun hr => ?_) (fun hq => hq ▸ hu0))
    have hrQ : (2 : Rat) ^ (q + (23 : Nat)) ≤ r * 2 ^ q := by
      rw [zpow_add₀ two_ne_zero, zpow_natCast, mul_comm]
      exact mul_le_mul_of_nonneg_right (by exact_mod_cast hr) (by positivity)
    have := (zpow_lt_zpow_iff_right₀ (one_lt_two (α := Rat))).mp (hrQ.trans_lt hu1)
    push_cast at this
    omega
  have hur : (2 : Rat) ^ u ≤ r * 2 ^ q := by
    obtain rfl | hu2 := hu2
    · norm_num at hlarge ⊢
      linarith
    · exact (zpow_le_zpow_right₀ one_le_two (by omega)).trans hu2
  constructor
  · refine le_trans (mul_le_mul_of_nonneg_right (pow_le_pow_left₀ ?_ ?_ 2) hy) hbelow <;> linarith
  · refine habove.trans (mul_le_mul_of_nonneg_right (pow_le_pow_left₀ ?_ ?_ 2) hy)
    · positivity
    · linarith

/-- The number that stands in for a free result outside its bound. -/
theorem nearestRsq_within {m : Nat} {h : Int} (h0 : m ≠ 0) (hm : m < 2 ^ 25) (hlo : -75 ≤ h) (hhi : h ≤ 64) :
    (valOf .f32 (toF32 (.fin false (Nat.sqrt (2 ^ 160 / m)) (-h - 80)))).RsqWithin (m * 2 ^ (2 * h)) := by
  obtain ⟨hsq0, hsq1, hbits, htop⟩ := sqrt_quotient_bounds h0 hm
  generalize Nat.sqrt (2 ^ 160 / m) = n at *
  have hscale : ∀ z : Rat, (z * 2 ^ (-h - 80)) ^ 2 * (m * 2 ^ (2 * h)) = z ^ 2 * m / 2 ^ 160 := fun z => by
    have hpow : ((2 : Rat) ^ (-h - 80)) ^ 2 * 2 ^ (2 * h) * 2 ^ 160 = 1 := by
      rw [← zpow_natCast, ← zpow_mul, ← zpow_natCast, ← zpow_add₀ two_ne_zero, ← zpow_add₀ two_ne_zero,
        show (-h - 80) * (2 : Nat) + 2 * h + (160 : Nat) = 0 by push_cast; ring, zpow_zero]
    rw [eq_div_iff (by positivity)]
    linear_combination z ^ 2 * m * hpow
  have hk : (2 : Rat) ^ (-h - 80) ≤ 2 ^ (-5 : Int) := zpow_le_zpow_right₀ one_le_two (by omega)
  have htopQ : (n : Rat) ≤ 2 ^ 80 := by exact_mod_cast htop
  refine toF32_rsqWithin (by positivity) hbits (by omega)
    ((mul_le_mul htopQ hk (by positivity) (by positivity)).trans (by norm_num [maxF32_eq])) ?_ ?_
  · rw [hscale, div_le_one (by positivity)]
    exact_mod_cast hsq0
  · rw [← add_one_mul, hscale, one_le_div (by positivity)]
    exact_mod_cast hsq1.le

section
variable {s : Bool} {m : Nat} {e : Int} (h0 : m ≠ 0)
include h0

theorem rsqVal_negative : rsqVal (.fin true m e) = .nan := (if_neg h0).trans (if_pos rfl)

/-- 1/√x is exact at a power of four. -/
theorem rsqVal_square {k : Int} (h : (FVal.fin s m e).rat = 2 ^ (2 * k)) : rsqVal (.fin s m e) = .fin false 1 (-k) := by
  obtain ⟨rfl, hp⟩ := FVal.power?_of_pos h0 h
  refine (if_neg h0).trans ((if_neg (by decide)).trans ?_)
  dsimp only
  rw [hp]
  dsimp only
  rw [if_pos (by omega)]
  congr 2
  omega

/-- Else it is the free result when the model's test accepts it, and else the nearest below. -/
theorem rsqVal_not_square (h : ¬∃ k : Int, (FVal.fin false m e).rat = 2 ^ (2 * k)) : rsqVal (.fin false m e) =
    if rsqOk (freeOf Config.rsq (.fin false m e)) m e then freeOf Config.rsq (.fin false m e)
    else valOf .f32 (toF32 (.fin false (Nat.sqrt (2 ^ 160 / if e % 2 ≠ 0 then 2 * m else m))
      (-((if e % 2 ≠ 0 then e - 1 else e) / 2) - 80))) := by
  refine (if_neg h0).trans ((if_neg (by decide)).trans ?_)
  simp only [decide_eq_true_eq]
  split
  · next t n hp =>
    refine if_neg fun hn => h ⟨n / 2, ?_⟩
    obtain ⟨-, habs⟩ := FVal.rat_of_power? hp
    rw [show 2 * (n / 2) = n by omega, ← habs, abs_of_pos ((FVal.rat_pos_iff h0).mpr rfl)]
  · rfl

theorem rsqVal_within (hm : m < 2 ^ 24) (hlo : -149 ≤ e) (hhi : e ≤ 128)
    (h : ¬∃ k : Int, (FVal.fin false m e).rat = 2 ^ (2 * k)) :
    (rsqVal (.fin false m e)).RsqWithin (FVal.fin false m e).rat := by
  rw [rsqVal_not_square h0 h, FVal.rat_false]
  split
  · next hok => exact rsqOk_within hm hhi hok
  by_cases hodd : e % 2 = 0
  · rw [if_neg (not_not.mpr hodd), if_neg (not_not.mpr hodd)]
    have := nearestRsq_within h0 (h := e / 2) (by omega) (by omega) (by omega)
    rwa [show 2 * (e / 2) = e by omega] at this
  · rw [if_pos hodd, if_pos hodd]
    have := nearestRsq_within (m := 2 * m) (h := (e - 1) / 2) (by omega) (by omega) (by omega) (by omega)
    rwa [show 2 * ((e - 1) / 2) = e - 1 by omega, Nat.cast_mul, mul_comm ((2 : Nat) : Rat), mul_assoc,
      show ((2 : Nat) : Rat) * 2 ^ (e - 1) = 2 ^ e by rw [Nat.cast_ofNat, mul_comm, ← zpow_add_one₀ two_ne_zero,
        sub_add_cancel]] at this

end

end Sys2Proof.Machine
end

section
/-! The special functions on the values of the float formats, and the words of class 4 (R157, R391 to R397). -/

namespace Sys2Proof.Machine

/-- A value of a float format has 24 bits and an exponent of F32 (R120, R121). -/
theorem valOf_fin_f32 {f : Fmt} (hf : f ∈ [Fmt.f32, .bf16, .f16, .e4m3, .e5m2]) {x : Nat} {s : Bool} {m : Nat} {e : Int}
    (h : valOf f x = .fin s m e) : m < 2 ^ 24 ∧ -149 ≤ e ∧ e ≤ 128 := by
  have hfmt : ∃ eb mb, f.float = some (eb, mb) ∧ mb + 1 ≤ 24 ∧ -149 ≤ 1 - biasOf eb - mb ∧
      2 ^ eb - biasOf eb - mb ≤ 128 := by
    simp only [List.mem_cons, List.not_mem_nil, or_false] at hf
    obtain rfl | rfl | rfl | rfl | rfl := hf <;> exact ⟨_, _, rfl, by decide, by decide, by decide⟩
  obtain ⟨eb, mb, hfl, hmb, hlo, hhi⟩ := hfmt
  obtain ⟨hm, he0, -, he1⟩ := valOf_fin_bounds hfl h
  exact ⟨hm.trans_le (Nat.pow_le_pow_right two_pos hmb), hlo.trans he0, he1.trans hhi⟩

end Sys2Proof.Machine

namespace Sys2Proof.Proofs

open Sys2Proof.Machine

/-- Settles O27: each word's plan computes the stated elements; a special function is exact where the model's guards say,
and else a free result that passes the model's test, or the nearest F32 number. -/
theorem conversionsAndReductions : Obligations.ConversionsAndReductions := by
  refine ⟨?_, ?_, rfl, rfl, rfl, rfl, rfl, rfl, fun s => ⟨rfl, rfl⟩, fun s e => ⟨rfl, rfl, rfl, rfl⟩, ?_⟩
  · intro w f keep int f16 cb one spec byRow byCol
    have hspec : ∀ {i : Instr} {op : FVal → FVal}, (∀ s, exec i s = runVector w (specialPlan op) .none none false s) →
        spec i op := fun hi => runsPlanOf_of hi fun _ _ => rfl
    have hrow : ∀ {i : Instr} {o : RedOps}, o.byRow = true →
        (∀ s, exec i s = runVector w (redPlan w int o) .none none false s) → byRow i o :=
      fun ho hi => runsPlanOf_of hi fun _ _ => redPlan_run_rows w int _ _ _ _ _ _ _ ho
    have hcol : ∀ {i : Instr} {o : RedOps}, o.byRow = false →
        (∀ s, exec i s = runVector w (redPlan w int o) .none none false s) → byCol i o :=
      fun ho hi => runsPlanOf_of hi fun _ _ => redPlan_run_columns w int _ _ _ _ _ _ _ ho
    exact ⟨runsPlanOf_of (exec_vcvt w f) fun _ _ => rfl, runsPlanOf_of (exec_vqnt w f keep) fun _ _ => rfl,
      runsPlanOf_of (exec_vdqnt w f) fun _ _ => rfl, hspec (exec_vexp2 w), hspec (exec_vlog2 w), hspec (exec_vrcp w),
      hspec (exec_vrsq w), hspec (exec_vtanh w), hrow rfl (exec_vrmax w int), hrow rfl (exec_vrmin w int),
      hrow rfl (exec_vrsum w int), hcol rfl (exec_vcsum w int), hcol rfl (exec_vcmax w int),
      runsPlanOf_of (exec_vlut w f16 cb) fun _ _ => rfl⟩
  · intro f hf
    simp only [List.mem_cons, List.not_mem_nil, or_false] at hf
    obtain rfl | rfl | rfl | rfl | rfl := hf <;> rfl
  · intro f hf x m s e v pow hv h0
    obtain ⟨hm, hlo, hhi⟩ := valOf_fin_f32 hf hv
    refine ⟨exp2Val_low, exp2Val_high, fun n => exp2Val_integer, exp2Val_within hm, ?_, fun n h => ?_,
      fun n => rcpVal_negative_power h0, ?_, fun hpow hbig u => rcpVal_within h0 hm hpow hbig, ?_, tanhVal_far h0,
      fun h u => tanhVal_within h0 h⟩
    · rintro rfl
      exact ⟨log2Val_negative h0, rsqVal_negative h0⟩
    · obtain ⟨rfl, -⟩ := FVal.power?_of_pos h0 h
      refine ⟨log2Val_power h0 h, rcpVal_power h0 ?_, fun k hk => rsqVal_square h0 (hk ▸ h)⟩
      rw [h, abs_of_pos (by positivity)]
    · rintro rfl hpow u
      exact log2Val_within h0 hm hlo hhi hpow
    · rintro rfl hsq
      exact rsqVal_within h0 hm hlo hhi hsq

end Sys2Proof.Proofs
end

section
/-! The matrix commands at the head of their queue (R139, R142, R145 to R149, R151). -/

namespace Sys2Proof.Machine

/-! ### The head of the matrix queue (R95, R139) -/

/-- A command whose WSEM is met is the one that an engine step of its kind runs. -/
theorem State.mxReady_head {s : State} {slot rank : Nat} {c : CoreTask} {cmd : MxCmd} (h : s.MxHead slot rank c cmd)
    {mine : Instr → Bool} (hm : mine cmd.i = true) : s.mxReady slot rank mine = .run c cmd := by
  obtain ⟨⟨t, ⟨ht, hrun, hc, hclk⟩, hfree⟩, hgoes, hhead, hsem⟩ := h
  obtain ⟨rest, hq⟩ := List.head?_eq_some_iff.mp hhead
  rw [State.mxReady, ht, hc]
  refine (if_pos ⟨hrun, hclk, hgoes, hfree⟩).trans ?_
  rw [hq]
  exact (if_neg (by rw [hm]; decide)).trans (if_pos hsem)

/-! ### A multiply (R142, R145, R149, R151) -/

section
variable {s : State} {slot rank b : Nat} {c c1 : CoreTask} {cmd : MxCmd} {p : MxMul} {sparse : Bool}

theorem exec_mulStep {i : Instr} (h : s.MxHead slot rank c cmd)
    (hi : (sparse = false ∧ cmd.i = .mxmul p ∧ i = .mxmulExec slot rank) ∨
      (sparse = true ∧ cmd.i = .mxmuls p ∧ i = .mxmulsExec slot rank)) :
    exec i s = .next (s.mulStep slot rank c cmd p sparse) := by
  obtain ⟨rfl, hp, rfl⟩ | ⟨rfl, hp, rfl⟩ := hi
  · rw [exec_mxmulExec, execMxmulExec, s.mxReady_head h (by rw [hp])]
    dsimp only
    rw [hp]
    rfl
  · rw [exec_mxmulsExec, execMxmulsExec, s.mxReady_head h (by rw [hp])]
    dsimp only
    rw [hp]
    rfl

theorem mulStep_refused (hb : c.mxBlock = none) (hok : c.mulOk p sparse = false) :
    s.mulStep slot rank c cmd p sparse = s.mxFault slot rank c cmd := by
  rw [State.mulStep, hb]
  exact if_neg (by rw [hok]; decide)

/-- The next block, at the multiply's start or later, on the core-task `c1` that has started. -/
theorem mulStep_block (hb : (c.mxBlock = none ∧ c.mulOk p sparse = true ∧ b = 0 ∧ c1 = c.mulBegin cmd p) ∨
      (c.mxBlock = some b ∧ c1 = c)) :
    s.mulStep slot rank c cmd p sparse = s.mulBlockStep slot rank c1 cmd p sparse b := by
  obtain ⟨hb, hok, rfl, rfl⟩ | ⟨hb, rfl⟩ := hb <;> rw [State.mulStep, hb]
  exact if_pos hok

/-- The start of a multiply leaves the metadata and the tile shapes. -/
theorem CoreTask.mulBegin_frame (c : CoreTask) (cmd : MxCmd) (p : MxMul) :
    (c.mulBegin cmd p).mdq = c.mdq ∧ ∀ t, (c.mulBegin cmd p).shape t = c.shape t := by
  rw [CoreTask.mulBegin]
  cases p.zero <;> exact ⟨rfl, fun _ => rfl⟩

/-- After block `b` the command completes with its last block, or stands at the next one. -/
def State.mulGoesOn (s : State) (slot rank : Nat) (cmd : MxCmd) (p : MxMul) (b : Nat) (c : CoreTask) : State :=
  if b = p.rep.val then s.mxDone slot rank c cmd
  else s.engineRan slot rank 4 (s.putCt slot rank { c with mxBlock := some (b + 1), mxHalted := false })

theorem mulBlockStep_dense :
    s.mulBlockStep slot rank c cmd p false b = s.mulGoesOn slot rank cmd p b (c.mulBlock p b none) := rfl

theorem mulBlockStep_waits (hq : Tab.get [] c.mdq p.mdq.val = []) :
    s.mulBlockStep slot rank c cmd p true b = s.putCt slot rank c := by
  rw [State.mulBlockStep, if_pos rfl, hq]

/-- Every row's mask of an entry marks as many positions as the command's sparsity asks for (R144, R145). -/
def MasksFit (p : MxMul) (rows : Nat) (e : List Byte) : Prop := ∀ r < rows, (maskBitsOf e r).count true = p.nsp

theorem masksFit_iff (p : MxMul) (rows : Nat) (e : List Byte) : MasksFit p rows e ↔
    (List.range rows).any (fun r => decide (((maskBitsOf e r).filter id).length ≠ p.nsp)) = false := by
  have hcount : ∀ r, ((maskBitsOf e r).filter id).length = (maskBitsOf e r).count true := fun r => by
    rw [List.count_eq_length_filter]
    exact congrArg (fun q => ((maskBitsOf e r).filter q).length) (funext fun b => (beq_true b).symm)
  simp only [MasksFit, hcount, List.any_eq_false, List.mem_range, decide_eq_true_eq, not_not]

variable {e : List Byte} {rest : List (List Byte)} (hq : Tab.get [] c.mdq p.mdq.val = e :: rest)
include hq

theorem mulBlockStep_misfit (hm : ¬MasksFit p (c.shape (p.tb.toNat + b)).rows e) :
    s.mulBlockStep slot rank c cmd p true b = s.mxFault slot rank c cmd := by
  rw [State.mulBlockStep, if_pos rfl, hq]
  exact if_pos (by rwa [masksFit_iff, Bool.not_eq_false] at hm)

theorem mulBlockStep_sparse (hm : MasksFit p (c.shape (p.tb.toNat + b)).rows e) :
    s.mulBlockStep slot rank c cmd p true b = s.mulGoesOn slot rank cmd p b
      ({ c with mdq := Tab.set [] c.mdq p.mdq.val rest }.mulBlock p b (some e)) := by
  rw [State.mulBlockStep, if_pos rfl, hq]
  exact if_neg (Bool.not_eq_true _ ▸ (masksFit_iff ..).mp hm)

end

/-! ### The words of an accumulator (R117, R140, R146) -/

/-- What a table reads as after `n` of its words, from word `a` on, have been cleared. -/
theorem get_cleared (t : Tab (BitVec 32)) (a n j : Nat) :
    Tab.get 0 (splice 0 t a (List.replicate n 0)) j = if a ≤ j ∧ j < a + n then 0 else Tab.get 0 t j := by
  rw [get_splice_getD, List.length_replicate]
  split
  · next hj => exact List.getD_replicate _ (by omega)
  · rfl

theorem exec_mxzeroExec_head {s : State} {slot rank : Nat} {c : CoreTask} {cmd : MxCmd} (h : s.MxHead slot rank c cmd)
    {w x : BitVec 8} {acc : Fin 16} {int : Bool} (hi : cmd.i = .mxzero w x acc int) :
    exec (.mxzeroExec slot rank) s = .next (s.mxDone slot rank ((c.mxStart cmd 0).zeroAcc acc.val int) cmd) := by
  rw [exec_mxzeroExec, execMxzeroExec, s.mxReady_head h (by rw [hi])]
  dsimp only
  rw [hi]
  rfl

/-- A row-major list cut into its `m` rows of `n` members. -/
theorem chunksOf_map_range {α : Type} {n : Nat} (hn : 0 < n) (m : Nat) (f : Nat → α) :
    chunksOf n m ((List.range (n * m)).map f) =
      (List.range m).map fun i => (List.range n).map fun j => f (n * i + j) := by
  apply List.ext_getElem?
  intro i
  by_cases hi : i < m
  · have hle : n * i + n ≤ n * m := Nat.mul_le_mul_left n hi
    rw [chunksOf_getElem? hn (by simpa using hle) hi, List.getElem?_map, List.getElem?_range hi, Option.map_some]
    refine congrArg some (List.ext_getElem (by simp; omega) fun j _ hj => ?_)
    simp
  · rw [List.getElem?_eq_none (by rw [chunksOf_length hn m (by simp) le_rfl]; omega),
      List.getElem?_eq_none (by simpa using hi)]

/-- The upper left corner of an accumulator, row by row. -/
theorem CoreTask.accWords_corner {c : CoreTask} (hw : Tab.wf 0 c.acc = true) (n : Nat) {rows cols : Nat} (hr : rows ≤ 64)
    (hc : cols ≤ 64) {α : Type} (f : BitVec 32 → α) :
    ((chunksOf 64 64 (c.accWords n)).take rows).map (fun r => (r.take cols).map f) =
      (List.range rows).map fun r => (List.range cols).map fun k => f (Tab.get 0 c.acc (n * 4096 + (r * 64 + k))) := by
  rw [CoreTask.accWords, sliceN_eq_readN 0 c.acc _ _ hw, readN, chunksOf_map_range (m := 64) (by decide)]
  simp [← List.map_take, List.take_range, Nat.min_eq_left hr, Nat.min_eq_left hc, Nat.mul_comm]

/-! ### Transfers and the epilogue (R131, R146, R147, R148) -/

theorem CoreTask.plainTile_iff (c : CoreTask) (t : Nat) :
    c.plainTile t = true ↔ c.second t = false ∧ (c.shape t).scale = none := by
  simp [CoreTask.plainTile]

section
variable {s : State} {slot rank : Nat} {c : CoreTask} {cmd : MxCmd} (h : s.MxHead slot rank c cmd)
include h

theorem exec_mxwrExec_head {w x : BitVec 8} {acc : Fin 16} {t : BitVec 6} (hi : cmd.i = .mxwr w x acc t) :
    let src := c.tile t.toNat
    exec (.mxwrExec slot rank) s = .next (
      if c.plainTile t.toNat && (src.fmt = .f32 || src.fmt = .i32) then
        s.mxDone slot rank { (c.mxStart cmd 0).updAcc acc.val src.rows src.cols
          (fun r k _ => BitVec.ofNat 32 ((src.elems.getD r []).getD k 0)) with
            accInt := Tab.set false c.accInt acc.val (decide (src.fmt = .i32)) } cmd
      else s.mxFault slot rank c cmd) := by
  rw [exec_mxwrExec, execMxwrExec, s.mxReady_head h (by rw [hi])]
  dsimp only
  rw [hi]
  exact (apply_ite ..).symm

theorem exec_mxrdExec_head {p : MxWin} {f : Fmt} {rm : Rnd} {sat : Bool} (hi : cmd.i = .mxrd p f rm sat) :
    exec (.mxrdExec slot rank) s = .next (
      if c.second p.t.toNat then s.mxFault slot rank c cmd
      else s.mxDone slot rank ((c.mxStart cmd 0).writeTile p.t.toNat (packTile f
        (((chunksOf 64 64 (c.accWords p.acc.val)).take p.rows.toNat).map (fun r =>
          (r.take p.cols.toNat).map (readOut (Tab.get false c.accInt p.acc.val) f rm sat))))) cmd) := by
  rw [exec_mxrdExec, execMxrdExec, s.mxReady_head h (by rw [hi])]
  dsimp only
  rw [hi]
  exact (apply_ite ..).symm

theorem exec_mxepiExec_head {p : MxWin} {v : Epi} (hi : cmd.i = .mxepi p v) :
    let te := c.tile p.t.toNat
    let c1 := (c.mxStart cmd 0).floatAcc p.acc.val
    let val (r k : Nat) : FVal := valOf .f32 ((te.elems.getD r []).getD k 0)
    exec (.mxepiExec slot rank) s = .next (
      if c.plainTile p.t.toNat && decide (te.fmt = .f32) && decide (p.cols.toNat ≤ te.cols) && decide (v.rows ≤ te.rows) then
        s.mxDone slot rank ((c1.updAcc p.acc.val p.rows.toNat p.cols.toNat (fun r k w =>
          BitVec.ofNat 32 (toF32 (epiWord v (valOf .f32 w.toNat) (valOf .f32 ((c1.rsWords p.acc.val).getD r 0).toNat)
            (val 0 k) (val 1 k) (val 2 k))))).dropPend [p.t.toNat]) cmd
      else s.mxFault slot rank c cmd) := by
  rw [exec_mxepiExec, execMxepiExec, s.mxReady_head h (by rw [hi])]
  dsimp only
  rw [hi]
  exact (apply_ite ..).symm

end

/-- An MXRD word is the conversion of the accumulator's word, or its bits where the format is the accumulator's own. -/
theorem readOut_eq (int : Bool) (f : Fmt) (rm : Rnd) (sat : Bool) (w : BitVec 32) : readOut int f rm sat w =
    if (int = true ∧ f = .i32) ∨ (int = false ∧ f = .f32) then w.toNat
    else roundTo f rm sat (valOf (if int then .i32 else .f32) w.toNat) :=
  if_congr (by simp) rfl rfl

end Sys2Proof.Machine

namespace Sys2Proof.Proofs

open Sys2Proof.Machine

/-- Settles O31: the next step of each command at the head of the queue. -/
theorem matrixCommandsRun : Obligations.MatrixCommandsRun := by
  refine ⟨fun s slot rank c cmd p sparse i h hi => ?_, fun s slot rank c cmd h => ⟨?_, ?_, ?_, ?_⟩⟩
  · rw [exec_mulStep h hi]
    refine ⟨fun hb hok => congrArg _ (mulStep_refused hb hok), fun b c1 hat => ?_⟩
    intro after
    -- The metadata and the shapes that the block meets are those before the start.
    obtain ⟨hmdq, hshape⟩ : c1.mdq = c.mdq ∧ ∀ t, c1.shape t = c.shape t := by
      obtain ⟨-, -, -, rfl⟩ | ⟨-, rfl⟩ := hat
      · exact c.mulBegin_frame cmd p
      · exact ⟨rfl, fun _ => rfl⟩
    rw [mulStep_block hat, ← hmdq, ← hshape]
    refine ⟨?_, ?_, ?_⟩
    · rintro rfl
      rw [mulBlockStep_dense]
      rfl
    · rintro rfl hq
      rw [mulBlockStep_waits hq]
    · rintro e rest rfl hq
      exact ⟨fun hm => congrArg _ (mulBlockStep_misfit hq hm), fun hm => congrArg _ (mulBlockStep_sparse hq hm)⟩
  · intro w x acc int hi
    exact ⟨exec_mxzeroExec_head h hi, fun j hj => (get_cleared ..).trans (if_pos (by omega)),
      fun j hj => (get_cleared ..).trans (if_pos (by omega)), fun j hj => (get_cleared ..).trans (if_neg (by omega)),
      fun j => Tab.get_set ..⟩
  · intro w x acc t hi src good
    have hgood : (c.plainTile t.toNat && (decide (src.fmt = .f32) || decide (src.fmt = .i32))) = true ↔ good := by
      simp only [Bool.and_eq_true, Bool.or_eq_true, decide_eq_true_eq, CoreTask.plainTile_iff, and_assoc, good]
    rw [exec_mxwrExec_head h hi]
    exact ⟨fun hg => congrArg _ (if_neg (mt hgood.mp hg)), fun hg => congrArg _ (if_pos (hgood.mpr hg))⟩
  · intro p f rm sat hi int word out
    rw [exec_mxrdExec_head h hi]
    refine ⟨fun h2 => congrArg _ (if_pos h2), fun h2 hw hr hc => ?_⟩
    rw [if_neg (by rw [h2]; decide), CoreTask.accWords_corner hw _ hr hc]
    simp only [readOut_eq]
    rfl
  · intro p v hi te good
    have hgood : (c.plainTile p.t.toNat && decide (te.fmt = .f32) && decide (p.cols.toNat ≤ te.cols) &&
        decide (v.rows ≤ te.rows)) = true ↔ good := by
      simp only [Bool.and_eq_true, decide_eq_true_eq, CoreTask.plainTile_iff, and_assoc, good]
    rw [exec_mxepiExec_head h hi]
    exact ⟨fun hg => congrArg _ (if_neg (mt hgood.mp hg)), fun hg => congrArg _ (if_pos (hgood.mpr hg))⟩

end Sys2Proof.Proofs
end

section
/-! A posted store at its home slice (R176, R183, R197, R281, R288, R370): what binds it anew, what keeps it back, and
that a write which wakes waiters leaves the posted stores of every core-task. -/

namespace Sys2Proof.Machine

/-! ### What an applied write leaves (R191, R221, R286) -/

/-- What lies outside memory and the service complex, and what no wake changes, an applied write leaves. -/
theorem State.applyWrite_keeps {γ : Type} (g : State → γ) (hm : ∀ (s : State) m, g { s with m := m } = g s)
    (hv : ∀ (s : State) v, g { s with service := v } = g s)
    (hw : ∀ (s : State) p v y, g (s.wakeWaita p v y) = g s) (s : State) (f : FAddr) (bs : List Byte) (keep : Bool)
    (by_ : Writer) (rel : Option Stamp) : g (s.applyWrite f bs keep by_ rel) = g s := by
  have hwrite : g (s.writeFinal f bs) = g s := by
    unfold State.writeFinal
    split
    · split
      · exact hm ..
      · exact hv ..
    · exact hm ..
  have hnote (s : State) : g (s.noteWrite f bs.length keep by_ rel) = g s := by
    unfold State.noteWrite
    split
    · rfl
    · split
      · unfold State.dropLines
        dsimp only
        split
        · rfl
        · exact hm ..
      · rcases by_ with _ | w <;> rcases rel with _ | st <;> exact hm s _
  have hslice (s : State) (sl : Nat) : g (s.testSlice sl f.a bs.length) = g s := by
    unfold State.testSlice
    dsimp only
    split
    · rfl
    · exact (foldl_keeps g (fun s p => hw s p _ _) _ _).trans (hm ..)
  have htest (s : State) : g (s.testPigeons f bs.length) = g s := by
    unfold State.testPigeons
    split
    · rfl
    · exact foldl_keeps g hslice _ s
  exact (hm ..).trans ((htest _).trans ((hnote _).trans hwrite))

section
variable {β : Type} {g : CoreTask → β}

/-- The part holds nothing of the C-sequencer's wait, which alone a wake changes. -/
def ApartFromWait (g : CoreTask → β) : Prop := ∀ c w, g { c with seqC := { c.seqC with wait := w } } = g c

theorem State.ct_updTask_of_cts (s : State) (slot : Nat) {f : Task → Task} (hf : ∀ t, (f t).cts = t.cts) (i j : Nat) :
    (s.updTask slot f).ct? i j = s.ct? i j := by
  rw [State.ct?, State.ct?, State.task_updTask]
  split
  · next h =>
    rw [← h, Option.bind_map]
    exact congrArg _ (funext fun t => congrArg (find · j) (hf t))
  · rfl

theorem State.ct_updCt_map (s : State) (slot rank : Nat) {f : CoreTask → CoreTask} (hf : ∀ c, g (f c) = g c) (i j : Nat) :
    ((s.updCt slot rank f).ct? i j).map g = (s.ct? i j).map g := by
  rw [State.ct_updCt]
  split
  · next h =>
    obtain ⟨rfl, rfl⟩ := h
    rw [Option.map_map]
    exact congrArg (Option.map · _) (funext hf)
  · rfl

theorem State.ct_wakeWaita (hg : ApartFromWait g) (s : State) (p : Pigeon) (v : Word) (y : Option Stamp)
    (slot rank : Nat) : ((s.wakeWaita p v y).ct? slot rank).map g = (s.ct? slot rank).map g := by
  unfold State.wakeWaita
  dsimp only
  rw [State.ct_updTask_of_cts (f := fun t => { t with conds := t.conds.filter (· ≠ .waita p.rank) }) _ _ fun _ => rfl]
  refine State.ct_updCt_map s p.slot p.rank (fun c => ?_) slot rank
  unfold CoreTask.updSeq CoreTask.setSeq CoreTask.seq
  dsimp only
  split
  · split
    · exact hg c _
    · rfl
  · rfl

theorem State.ct_applyWrite (hg : ApartFromWait g) (s : State) (f : FAddr) (bs : List Byte) (keep : Bool) (by_ : Writer)
    (rel : Option Stamp) (slot rank : Nat) :
    ((s.applyWrite f bs keep by_ rel).ct? slot rank).map g = (s.ct? slot rank).map g :=
  State.applyWrite_keeps (fun s => (s.ct? slot rank).map g) (fun _ _ => rfl) (fun _ _ => rfl)
    (fun s p v y => s.ct_wakeWaita hg p v y slot rank) s f bs keep by_ rel

end

/-! ### The bytes of an applied write -/

theorem State.putCt_hostOk (s : State) (slot rank : Nat) (c : CoreTask) (a n : Nat) :
    (s.putCt slot rank c).hostOk a n = s.hostOk a n := by
  unfold State.putCt
  split <;> rfl

theorem State.get_applyWrite_device (s : State) {f : FAddr} (hf : f.host = false) (bs : List Byte) (keep : Bool)
    (by_ : Writer) (rel : Option Stamp) : (s.applyWrite f bs keep by_ rel).m.host = s.m.host ∧
      ∀ b, Tab.get 0 (s.applyWrite f bs keep by_ rel).m.dpa b =
        if f.a ≤ b ∧ b < f.a + bs.length then bs.getD (b - f.a) 0 else Tab.get 0 s.m.dpa b := by
  obtain ⟨host, a⟩ := f
  obtain rfl : host = false := hf
  obtain ⟨hdpa, hhost⟩ := applyWrite_sameMem s ⟨false, a⟩ bs keep by_ rel
  rw [hdpa, hhost, writeFinal_device]
  exact ⟨rfl, get_splice_getD 0 s.m.dpa a bs⟩

theorem State.get_applyWrite_host (s : State) {f : FAddr} (hf : f.host = true) (bs : List Byte) (keep : Bool)
    (by_ : Writer) (rel : Option Stamp) : (s.applyWrite f bs keep by_ rel).m.dpa = s.m.dpa ∧
      (s.hostOk f.a bs.length = false → (s.applyWrite f bs keep by_ rel).m.host = s.m.host) ∧
      (s.hostOk f.a bs.length = true → ∀ b, Tab.get 0 (s.applyWrite f bs keep by_ rel).m.host b =
        if f.a ≤ b ∧ b < f.a + bs.length then bs.getD (b - f.a) 0 else Tab.get 0 s.m.host b) := by
  obtain ⟨host, a⟩ := f
  obtain rfl : host = true := hf
  obtain ⟨hdpa, hhost⟩ := applyWrite_sameMem s ⟨true, a⟩ bs keep by_ rel
  rw [hdpa, hhost]
  refine ⟨writeFinal_other s ⟨true, a⟩ bs, fun h => ?_, fun h => ?_⟩
  · rw [writeFinal_dropped h]
  · rw [writeFinal_host h]
    exact get_splice_getD 0 s.m.host a bs

/-! ### A task stays when a translation is kept or its misses are forgotten (R179, R183) -/

theorem State.cache_task (s : State) (ctx : Nat) (va : Word) (x : Xl) (n m : Nat) :
    (s.cache ctx va x n).task? m = s.task? m :=
  congrArg (fun (w : Tab Task × Ports × Agent) => find w.1 m) (s.cache_work ctx va x n)

theorem State.clearMiss_task {s : State} {slot : Nat} {t : Task} (rank kind : Nat) (va : Word) (waddr : BitVec 32)
    (h : s.task? slot = some t) : ∃ u, (s.clearMiss slot rank kind va waddr).task? slot = some u := by
  unfold State.clearMiss
  rw [h]
  dsimp only
  split
  · exact ⟨t, h⟩
  · exact ⟨_, (State.task_setTask ..).trans (if_pos rfl)⟩

/-! ### What keeps a store back (R190, R370) -/

theorem Posted.touches_false_iff (q p : Posted) : q.touches p.final p.bytes.length = false ↔
    q.stage ≠ .anew ∧
      (q.final.host ≠ p.final.host ∨ rangesMeet q.final.a q.bytes.length p.final.a p.bytes.length = false) := by
  simp only [Posted.touches, finalsMeet, Bool.or_eq_false_iff, Bool.and_eq_false_iff, decide_eq_false_iff_not, ne_eq]

/-- No earlier posted store of the core-task shares a byte with the one at `idx`. -/
def CoreTask.StoreFirst (c : CoreTask) (idx : Nat) (p : Posted) : Prop :=
  ∀ q ∈ c.posted.take idx, q.stage ≠ .anew ∧
    (q.final.host ≠ p.final.host ∨ rangesMeet q.final.a q.bytes.length p.final.a p.bytes.length = false)

theorem CoreTask.storeFirst_iff (c : CoreTask) (idx : Nat) (p : Posted) :
    c.StoreFirst idx p ↔ (c.posted.take idx).any (·.touches p.final p.bytes.length) = false := by
  simp only [List.any_eq_false, Bool.not_eq_true, Posted.touches_false_iff, CoreTask.StoreFirst]

section
variable {s : State} {slot rank idx : Nat} {tk : Task} {c : CoreTask} {p : Posted}

/-! ### The store at its slice (R370) -/

section
variable (hc : s.ct? slot rank = some c) (hp : c.posted[idx]? = some p)
include hc hp

theorem State.storeApply_waits (h : p.stage ≠ .posted ∨ ¬c.StoreFirst idx p) : s.storeApply slot rank idx = s := by
  rw [CoreTask.storeFirst_iff, Bool.not_eq_false] at h
  simp only [State.storeApply, hc, hp, if_pos h]

variable (hs : p.stage = .posted) (hf : c.StoreFirst idx p)
include hs hf

theorem State.storeApply_keyBad (hk : s.keyBad p.final p.key = true) : s.storeApply slot rank idx =
    (s.putCt slot rank { c with posted := c.posted.set idx { p with stage := .faulted } }).raiseDeferred slot rank
      (trapAt .keyMismatch p.va) p.waddr := by
  rw [CoreTask.storeFirst_iff] at hf
  simp [State.storeApply, hc, hp, hs, hf, hk, keyTrap]

theorem State.storeApply_race {t : Trap} (hk : s.keyBad p.final p.key = false)
    (hr : s.raceAt p.final p.bytes.length p.keep (agentId slot rank 0) p.stamp true false = some t) :
    s.storeApply slot rank idx =
      (s.putCt slot rank { c with posted := c.posted.set idx { p with stage := .faulted } }).raiseDeferred slot rank
        t p.waddr := by
  rw [CoreTask.storeFirst_iff] at hf
  simp [State.storeApply, hc, hp, hs, hf, hk, hr]

theorem State.storeApply_writes (hk : s.keyBad p.final p.key = false)
    (hr : s.raceAt p.final p.bytes.length p.keep (agentId slot rank 0) p.stamp true false = none) :
    s.storeApply slot rank idx = (s.putCt slot rank { c with posted := c.posted.eraseIdx idx }).applyWrite p.final p.bytes
      p.keep (some (agentId slot rank 0, p.stamp, false)) none := by
  rw [CoreTask.storeFirst_iff] at hf
  simp [State.storeApply, hc, hp, hs, hf, hk, hr]

end

/-! ### The step (R183, R281, R288) -/

section
variable (ht : s.task? slot = some tk) (hc : s.ct? slot rank = some c) (hp : c.posted[idx]? = some p)
include ht hc hp

theorem State.bindStore_bound (hs : p.stage ≠ .anew) : s.bindStore slot rank idx = .done s := by
  simp only [State.bindStore, ht, hc, hp, if_pos hs]

theorem State.bindStore_translated (hs : p.stage = .anew) {x : Xl} (hx : s.translate tk.ctx Need.write p.va = .ok x) :
    s.bindStore slot rank idx =
      .done (((s.cache tk.ctx p.va x p.bytes.length).clearMiss slot rank 0 p.va p.waddr).putCt slot rank { c with
        posted := c.posted.set idx { p with final := x.f, key := x.key, keep := x.keep, stage := .posted } }) := by
  simp only [State.bindStore, ht, hc, hp, if_neg (not_not.mpr hs), hx]

theorem State.bindStore_untranslated (hs : p.stage = .anew) {tr : Trap}
    (hx : s.translate tk.ctx Need.write p.va = .trap tr) : s.bindStore slot rank idx =
      .done ((s.putCt slot rank { c with posted := c.posted.set idx { p with stage := .faulted } }).raiseDeferred
        slot rank tr p.waddr) := by
  simp only [State.bindStore, ht, hc, hp, if_neg (not_not.mpr hs), hx]

end

variable (ht : s.task? slot = some tk) (hrun : tk.state = .running)
include ht hrun

/-- A store whose binding stands goes to its slice, unless the slice is held. -/
theorem exec_storeApply_done {s1 : State} {c1 : CoreTask} {p1 : Posted} (hb : s.bindStore slot rank idx = .done s1)
    (hc1 : s1.ct? slot rank = some c1) (hp1 : c1.posted[idx]? = some p1) : exec (.storeApply slot rank idx) s =
      .next (if s.heldAt p1.final then s1 else s1.storeApply slot rank idx) := by
  rw [exec_storeApply, execStoreApply, ht]
  simp only [hrun, ne_eq, not_true_eq_false, if_false, hb, hc1, Option.bind_some, hp1, Option.any_some]
  exact (apply_ite Host.Outcome.next ..).symm

variable (hc : s.ct? slot rank = some c) (hp : c.posted[idx]? = some p)
include hc hp

theorem exec_storeApply_bound (hs : p.stage ≠ .anew) : exec (.storeApply slot rank idx) s =
    .next (if s.heldAt p.final then s else s.storeApply slot rank idx) :=
  exec_storeApply_done ht hrun (State.bindStore_bound ht hc hp hs) hc hp

variable (hs : p.stage = .anew)
include hs

theorem exec_storeApply_translated {x : Xl} (hx : s.translate tk.ctx Need.write p.va = .ok x) :
    let again := ((s.cache tk.ctx p.va x p.bytes.length).clearMiss slot rank 0 p.va p.waddr).putCt slot rank
      { c with posted := c.posted.set idx { p with final := x.f, key := x.key, keep := x.keep, stage := .posted } }
    exec (.storeApply slot rank idx) s =
      .next (if s.heldAt x.f then again else again.storeApply slot rank idx) := by
  obtain ⟨u, hu⟩ := State.clearMiss_task (s := s.cache tk.ctx p.va x p.bytes.length) rank 0 p.va p.waddr
    ((State.cache_task ..).trans ht)
  obtain ⟨hlt, -⟩ := List.getElem?_eq_some_iff.mp hp
  exact exec_storeApply_done ht hrun (State.bindStore_translated ht hc hp hs hx)
    (by rw [State.ct_putCt, if_pos ⟨rfl, rfl⟩, hu]; rfl) (List.getElem?_set_self hlt)

/-- A store whose address no longer translates keeps its place and faults, and so does not go on. -/
theorem exec_storeApply_untranslated {tr : Trap} (hx : s.translate tk.ctx Need.write p.va = .trap tr) :
    exec (.storeApply slot rank idx) s = .next ((s.putCt slot rank
      { c with posted := c.posted.set idx { p with stage := .faulted } }).raiseDeferred slot rank tr p.waddr) := by
  obtain ⟨hlt, -⟩ := List.getElem?_eq_some_iff.mp hp
  have hp1 : (c.posted.set idx { p with stage := .faulted })[idx]? = some { p with stage := .faulted } :=
    List.getElem?_set_self hlt
  obtain ⟨c1, hc1, hposted⟩ : ∃ c1, ((s.putCt slot rank { c with posted := c.posted.set idx { p with stage := .faulted } }
      ).raiseDeferred slot rank tr p.waddr).ct? slot rank = some c1 ∧
        c1.posted = c.posted.set idx { p with stage := .faulted } := by
    rw [State.raiseDeferred, State.raiseLater, State.ct_updCt, if_pos ⟨rfl, rfl⟩, State.ct_putCt, if_pos ⟨rfl, rfl⟩, ht]
    exact ⟨_, rfl, rfl⟩
  rw [← hposted] at hp1
  rw [exec_storeApply_done ht hrun (State.bindStore_untranslated ht hc hp hs hx) hc1 hp1,
    State.storeApply_waits hc1 hp1 (.inl (by simp)), ite_self]

end

end Sys2Proof.Machine

namespace Sys2Proof.Proofs

open Sys2Proof.Machine

/-- Settles O38: the store's binding by its stage, then the checks at its slice in turn. -/
theorem postedStoresAreApplied : Obligations.PostedStoresAreApplied := by
  intro s slot rank idx tk c p ht hrun hc hp
  refine ⟨fun h => ?_, fun x hs hx => exec_storeApply_translated ht hrun hc hp hs hx,
    fun tr hs hx => exec_storeApply_untranslated ht hrun hc hp hs hx, fun hs hfirst hfree => ?_⟩
  · obtain hs | ⟨hs, hw⟩ := h
    · rw [exec_storeApply_bound ht hrun hc hp (by simp [hs]), State.storeApply_waits hc hp (.inl (by simp [hs])), ite_self]
    · rw [exec_storeApply_bound ht hrun hc hp (by simp [hs])]
      obtain hnot | hheld := hw
      · rw [State.storeApply_waits hc hp (.inr hnot), ite_self]
      · rw [if_pos hheld]
  · have hgo := exec_storeApply_bound ht hrun hc hp (by simp [hs])
    rw [if_neg (by simp [hfree])] at hgo
    rw [hgo]
    refine ⟨fun hk => congrArg _ (State.storeApply_keyBad hc hp hs hfirst hk),
      fun t hk hr => congrArg _ (State.storeApply_race hc hp hs hfirst hk hr), fun hk hr => ?_⟩
    refine ⟨_, congrArg _ (State.storeApply_writes hc hp hs hfirst hk hr), ?_, fun hf => ?_, fun hf => ?_⟩
    · have hpost := State.ct_applyWrite (g := CoreTask.posted) (fun _ _ => rfl)
        (s.putCt slot rank { c with posted := c.posted.eraseIdx idx }) p.final p.bytes p.keep
        (some (agentId slot rank 0, p.stamp, false)) none slot rank
      rw [State.ct_putCt, if_pos ⟨rfl, rfl⟩, ht] at hpost
      exact Option.map_eq_some_iff.mp hpost
    · have hw := State.get_applyWrite_device (s.putCt slot rank { c with posted := c.posted.eraseIdx idx }) hf p.bytes
        p.keep (some (agentId slot rank 0, p.stamp, false)) none
      rwa [State.putCt_m_host, State.putCt_m_dpa] at hw
    · have hw := State.get_applyWrite_host (s.putCt slot rank { c with posted := c.posted.eraseIdx idx }) hf p.bytes
        p.keep (some (agentId slot rank 0, p.stamp, false)) none
      rwa [State.putCt_m_host, State.putCt_m_dpa, State.putCt_hostOk] at hw

end Sys2Proof.Proofs
end

section
/-! Commands of the host (R175, R177, R183, R184, R304): how a GO register starts, what an invalidation leaves cached, what
a release of frames leaves of memory and its tags, and what each completion tells the host. -/

namespace Sys2Proof.Machine

/-! ### GO registers (R304) -/

section
variable {c : Cmd} {bad : Bool}

theorem Cmd.go_busy (hb : c.busy = true) (bad : Bool) : c.go bad = c := if_pos hb

theorem Cmd.go_refused (hb : c.busy = false) (hbad : bad = true) : c.go bad = { c with done := false, refused := true } :=
  (if_neg (by rw [hb]; decide)).trans (if_pos hbad)

theorem Cmd.go_starts (hb : c.busy = false) (hbad : bad = false) :
    c.go bad = { c with busy := true, done := false, refused := false, run := [c.a, c.c, c.k] } :=
  (if_neg (by rw [hb]; decide)).trans (if_neg (by rw [hbad]; decide))

end

/-- A range names nothing when it has no page and does not mean every entry. -/
theorem Cmd.range_empty (c : Cmd) (width : Nat) :
    (decide ((c.range width).count = 0) && !(c.range width).all) =
      decide (fieldOf c.c 8 32 = 0 ∧ c.c.getLsbD 63 = false) := by
  rw [Bool.decide_and, Bool.decide_eq_false]
  rfl

section
variable {s : State} (hp : s.ports.host = true)
include hp

theorem exec_inv1Go_presented {f : Fin 9} (hf : s.presented f.val = true) : exec (.inv1Go f) s =
    .next { s with r := { s.r with inv1 := Tab.set Cmd.idle s.r.inv1 f.val ((s.inv1 f.val).go
      (!s.ctxOf f.val (s.inv1 f.val).ctx ||
        decide (fieldOf (s.inv1 f.val).c 8 32 = 0 ∧ (s.inv1 f.val).c.getLsbD 63 = false))) } } := by
  rw [← Cmd.range_empty _ 57]
  exact fromHost_on s _ _ hp hf

theorem exec_inv2Go_up : exec .inv2Go s = .next { s with r := { s.r with
    inv2 := s.r.inv2.go (decide (fieldOf s.r.inv2.c 8 32 = 0 ∧ s.r.inv2.c.getLsbD 63 = false)) } } := by
  rw [← Cmd.range_empty _ 52]
  exact fromHost_on s 0 _ hp s.presented_zero

theorem exec_frelGo_up : exec .frelGo s = .next { s with r := { s.r with
    frel := s.r.frel.go (decide (s.r.frel.frames.2 = 0) ||
      decide (dpaTop < (s.r.frel.frames.1 + s.r.frel.frames.2) * 4096)) } } :=
  fromHost_on s 0 _ hp s.presented_zero

/-- KEYLOAD's GO takes KLDATA with it, refused or not. -/
theorem exec_keyloadGo_free (hb : s.r.kload.busy = false) :
    let k := s.r.kload.go (decide (s.r.kload.klid = 0) || s.tagUsed s.r.kload.klid)
    exec .keyloadGo s = .next { s with r := { s.r with
      kload := { k with run := k.run ++ (List.range 8).map (fun i => Tab.get 0 s.r.kldata i) }, kldata := [] } } :=
  (if_neg (by rw [hb]; decide)).trans (fromHost_on s 0 _ hp s.presented_zero)

end

/-! ### Invalidations (R183) -/

theorem Cached.mem_drop_leaves (c : Cached) (owner : Nat → Bool) (r : InvRange) (e : CachedLeaf) :
    e ∈ (c.drop owner r).leaves ↔ e ∈ c.leaves ∧ ¬(owner e.owner = true ∧ r.hits e.page e.leaf = true) := by
  rw [Cached.drop, List.mem_filter, Bool.not_eq_true', ← Bool.not_eq_true, Bool.and_eq_true]

theorem Cached.mem_drop_tables (c : Cached) (owner : Nat → Bool) (r : InvRange) (e : CachedTable) :
    e ∈ (c.drop owner r).tables ↔ e ∈ c.tables ∧ ¬(owner e.owner = true ∧ r.hitsTable e.shift e.above = true) := by
  rw [Cached.drop, List.mem_filter, Bool.not_eq_true', ← Bool.not_eq_true, Bool.and_eq_true]

theorem InvRange.any_names (r : InvRange) (via : List Nat) :
    via.any r.names = true ↔ ∃ p ∈ via, r.all = true ∨ (r.first ≤ p ∧ p < r.first + r.count) := by
  simp only [List.any_eq_true, InvRange.names, Bool.or_eq_true, Bool.and_eq_true, decide_eq_true_eq]

theorem Cached.mem_dropVia_leaves (c : Cached) (owner : Nat → Bool) (r : InvRange) (e : CachedLeaf) :
    e ∈ (c.dropVia owner r).leaves ↔ e ∈ c.leaves ∧
      ¬(owner e.owner = true ∧ ∃ p ∈ e.via, r.all = true ∨ (r.first ≤ p ∧ p < r.first + r.count)) := by
  rw [Cached.dropVia, List.mem_filter, Bool.not_eq_true', ← Bool.not_eq_true, Bool.and_eq_true, InvRange.any_names]

theorem Cached.mem_dropVia_tables (c : Cached) (owner : Nat → Bool) (r : InvRange) (e : CachedTable) :
    e ∈ (c.dropVia owner r).tables ↔ e ∈ c.tables ∧
      ¬(owner e.owner = true ∧ ∃ p ∈ e.via, r.all = true ∨ (r.first ≤ p ∧ p < r.first + r.count)) := by
  rw [Cached.dropVia, List.mem_filter, Bool.not_eq_true', ← Bool.not_eq_true, Bool.and_eq_true, InvRange.any_names]

/-- The contexts whose first-stage entries may derive from a partition's guest pages. -/
theorem State.viaOwner_iff (s : State) (part n : Nat) :
    (decide (s.ctxPart n = some part) || (decide (n ≠ 0) && (s.ctxPart n).isNone)) = true ↔
      s.ctxPart n = some part ∨ (n ≠ 0 ∧ s.ctxPart n = none) := by
  simp only [Bool.or_eq_true, Bool.and_eq_true, decide_eq_true_eq, Option.isNone_iff_eq_none]

theorem exec_invalidationComplete_first {f : Fin 9} {s : State} (hb : (s.inv1 f.val).busy = true)
    (hi : s.inFlight (fun n => decide (n = (s.inv1 f.val).running.ctx)) = false) :
    let c := s.inv1 f.val
    let first := s.m.first.drop (fun n => decide (n = c.running.ctx)) (c.running.range 57)
    exec (.invalidationComplete false f) s = .next (({ s with
      r := { s.r with inv1 := Tab.set Cmd.idle s.r.inv1 f.val c.finish },
      m := { s.m with first := first } } : State).vector0 f.val) :=
  if_neg (by rw [hb, hi]; decide)

theorem exec_invalidationComplete_second {f : Fin 9} {s : State} (hb : s.r.inv2.busy = true)
    (hi : s.inFlight (fun n => decide (s.ctxPart n = some (fieldOf s.r.inv2.running.c 0 3))) = false)
    (hstray : s.strayPiece = false) :
    let dropped := s.dropSecond (fieldOf s.r.inv2.running.c 0 3) (s.r.inv2.running.range 52)
    exec (.invalidationComplete true f) s =
      .next (({ dropped with r := { s.r with inv2 := s.r.inv2.finish } } : State).vector0 0) :=
  if_neg (by rw [hb, hi, hstray]; decide)

/-! ### A release of frames (R177) -/

theorem get_filter_drop {α : Type} (d : α) {p : Nat × α → Bool} (t : Tab α) {k : Nat} (hp : ∀ v, p (k, v) = false) :
    Tab.get d (t.filter p) k = d := by
  rw [Tab.get_eq_find, find_filter_drop p t k hp]
  rfl

/-- What neither a wake nor a slice holds stays when pigeonholes are freed. -/
theorem State.freePigeons_keeps {γ : Type} (g : State → γ) (hw : ∀ s p v y, g (State.wakeWaita s p v y) = g s)
    (hs : ∀ s n v, g (State.setSlice s n v) = g s) (s : State) (lo hi : Nat) : g (s.freePigeons lo hi) = g s :=
  foldl_keeps g (fun s sl => (foldl_keeps g (fun s p => hw s p _ _) _ _).trans (hs s sl _)) _ s

theorem State.releaseFrames_irqs (s : State) (f n : Nat) (key : BitVec 6) : (s.releaseFrames f n key).irqs = s.irqs :=
  State.freePigeons_keeps (·.irqs) (fun s p v y => by simp [State.wakeWaita]) (fun _ _ _ => rfl) s _ _

theorem State.releaseFrames_host (s : State) (f n : Nat) (key : BitVec 6) : (s.releaseFrames f n key).m.host = s.m.host :=
  (freePigeons_sameMem s (f * 4096) ((f + n) * 4096)).2

/-- Every byte of the frames reads 0, and every other one is as before. -/
theorem State.get_releaseFrames_dpa (s : State) (f n : Nat) (key : BitVec 6) (b : Nat) :
    Tab.get 0 (s.releaseFrames f n key).m.dpa b =
      if f ≤ b / 4096 ∧ b / 4096 < f + n then 0 else Tab.get 0 s.m.dpa b := by
  split
  · next h =>
    refine get_filter_drop 0 _ fun v => ?_
    simp only [Bool.or_eq_false_iff, decide_eq_false_iff_not]
    omega
  · exact s.get_releaseFrames f n key (by omega)

/-- Every frame carries the key, and the tags of the others are as before. -/
theorem State.get_releaseFrames_keyTags (s : State) (f n : Nat) (key : BitVec 6) (k : Nat) :
    Tab.get 0 (s.releaseFrames f n key).m.keyTags k =
      if f ≤ k ∧ k < f + n then key else Tab.get 0 s.m.keyTags k := by
  have hfree : (s.freePigeons (f * 4096) ((f + n) * 4096)).m.keyTags = s.m.keyTags :=
    State.freePigeons_keeps (·.m.keyTags) (fun s p v y => by simp [State.wakeWaita]) (fun _ _ _ => rfl) s _ _
  simp only [State.releaseFrames, hfree]
  split
  · next hk =>
    subst hk
    split
    · next h =>
      refine get_filter_drop 0 _ fun v => ?_
      simp only [Bool.or_eq_false_iff, decide_eq_false_iff_not]
      omega
    · next h =>
      refine get_filter_keep 0 _ fun v => ?_
      simp only [Bool.or_eq_true, decide_eq_true_eq]
      omega
  · rw [get_splice_getD, List.length_replicate]
    refine if_ctx_congr Iff.rfl (fun h => ?_) fun _ => rfl
    rw [List.getD_eq_getElem _ _ (by rw [List.length_replicate]; omega), List.getElem_replicate]

end Sys2Proof.Machine

namespace Sys2Proof.Proofs

open Sys2Proof.Machine

/-- Settles O56: each GO by its register, each completion by what its filter keeps. -/
theorem hostCommandsRunAndComplete : Obligations.HostCommandsRunAndComplete := by
  refine ⟨fun c bad => ⟨fun hb => Cmd.go_busy hb bad, Cmd.go_refused, Cmd.go_starts, rfl, rfl⟩, fun f s hp => ?_,
    fun f s => ?_, fun base count s => ?_, fun s => ?_, fun s => ?_⟩
  · refine ⟨exec_inv1Go_presented hp, exec_inv2Go_up hp, exec_frelGo_up hp, fun hb => if_pos hb, fun hb =>
      ⟨_, exec_keyloadGo_free hp hb, fun hbad => ?_, fun hid huse => ?_⟩⟩
    · rw [Cmd.go_refused hb (by simpa using hbad)]
      exact ⟨hb, rfl⟩
    · rw [Cmd.go_starts hb (by rw [huse, decide_eq_false hid]; rfl)]
      exact ⟨rfl, rfl, rfl, rfl⟩
  · refine ⟨fun h => if_pos (by simpa using h), fun hb hi => ⟨_, exec_invalidationComplete_first hb hi, ?_, ?_, rfl, rfl,
      fun e => ?_, fun e => ?_, rfl⟩, fun h => if_pos (by simpa [or_assoc] using h), fun hb hi hstray =>
      ⟨_, exec_invalidationComplete_second hb hi hstray, rfl, rfl, fun e => ?_, fun e => ?_, fun e => ?_, fun e => ?_⟩⟩
    · exact congrArg Cmd.busy (Tab.get_set_self Cmd.idle s.r.inv1 f.val (s.inv1 f.val).finish)
    · exact congrArg Cmd.done (Tab.get_set_self Cmd.idle s.r.inv1 f.val (s.inv1 f.val).finish)
    · exact (Cached.mem_drop_leaves ..).trans (by rw [decide_eq_true_eq])
    · exact (Cached.mem_drop_tables ..).trans (by rw [decide_eq_true_eq])
    · exact (Cached.mem_dropVia_leaves ..).trans (by rw [State.viaOwner_iff])
    · exact (Cached.mem_dropVia_tables ..).trans (by rw [State.viaOwner_iff])
    · exact (Cached.mem_drop_leaves ..).trans (by rw [decide_eq_true_eq])
    · exact (Cached.mem_drop_tables ..).trans (by rw [decide_eq_true_eq])
  · refine ⟨fun h => if_pos (by simpa using h), fun hi hp => ⟨_, if_neg (by rw [hi, hp]; decide), rfl, fun p => ?_⟩⟩
    simp only [List.mem_filter, Bool.not_eq_true', Bool.and_eq_false_iff, decide_eq_false_iff_not, not_and_or]
  · refine ⟨fun hb => if_pos (by rw [hb]; rfl), fun hb => ⟨_, if_neg (by rw [hb]; decide), rfl, rfl, ?_,
      (freePigeons_sameMem s _ _).2, State.get_releaseFrames_dpa s _ _ _, State.get_releaseFrames_keyTags s _ _ _⟩⟩
    exact congrArg (· ++ _) (s.releaseFrames_irqs _ _ (BitVec.ofNat 6 (fieldOf s.r.frel.running.k 0 6)))
  · exact ⟨fun hb => if_pos (by rw [hb]; rfl), fun hb => ⟨_, if_neg (by rw [hb]; decide), rfl, rfl, rfl,
      fun k => Tab.get_set ..⟩⟩

end Sys2Proof.Proofs
end

section
/-! Device reset, boot and ownership (R175, R177, R186, R292, R315, R316, R317): the chain of images up to the first that
fails, the fields of BOOTSTAT, the units that a reset disables, and what a change of ownership leaves. -/

namespace Sys2Proof.Machine

/-! ### The checks of an image (R315) -/

section
variable {x : BootImage} {v : Service}

theorem imageCheck_maker (h : ¬(x.makerOk = true ∧ x.maker = v.maker)) : imageCheck v x = 1 :=
  if_pos (by rwa [Bool.not_eq_true', ← Bool.not_eq_true, ne_eq, ← not_and_or])

variable (hm : x.makerOk = true ∧ x.maker = v.maker)
include hm

theorem imageCheck_signed : imageCheck v x = if ¬(x.ownerOk = true ∧ x.owner = v.owner) then 2
    else if x.version < v.fused then 3 else if x.wellFormed then 0 else 4 := by
  obtain ⟨hok, hkey⟩ := hm
  cases ho : x.ownerOk <;> cases hw : x.wellFormed <;> simp [imageCheck, hok, hkey, ho, hw]

theorem imageCheck_owner (h : ¬(x.ownerOk = true ∧ x.owner = v.owner)) : imageCheck v x = 2 := by
  rw [imageCheck_signed hm, if_pos h]

variable (ho : x.ownerOk = true ∧ x.owner = v.owner)
include ho

theorem imageCheck_old (h : x.version < v.fused) : imageCheck v x = 3 := by
  rw [imageCheck_signed hm, if_neg (not_not.mpr ho), if_pos h]

theorem imageCheck_form (h : v.fused ≤ x.version) : imageCheck v x = if x.wellFormed then 0 else 4 := by
  rw [imageCheck_signed hm, if_neg (not_not.mpr ho), if_neg (by omega)]

end

theorem imageCheck_le (v : Service) (x : BootImage) : imageCheck v x ≤ 4 := by
  unfold imageCheck
  repeat' split
  all_goals omega

/-! ### The chain of images (R315, R316) -/

/-- The images that pass are run and logged before the rest of the chain. -/
theorem bootChain_append (v : Service) {pre : List BootImage} (h : ∀ y ∈ pre, imageCheck v y = 0) (rest : List BootImage)
    (n : Nat) : bootChain v n (pre ++ rest) =
      ((bootChain v (n + pre.length) rest).1, (bootChain v (n + pre.length) rest).2.1,
        pre.map (·.hash) ++ (bootChain v (n + pre.length) rest).2.2) := by
  induction pre generalizing n with
  | nil => rfl
  | cons x pre ih =>
    rw [List.cons_append, bootChain, if_pos (h x List.mem_cons_self), ih fun y hy => h y (List.mem_cons_of_mem x hy)]
    rw [List.length_cons, Nat.add_right_comm, Nat.add_assoc n]
    rfl

theorem bootChain_passes {v : Service} {images : List BootImage} (h : ∀ y ∈ images, imageCheck v y = 0) :
    bootChain v 0 images = (images.length, 0, images.map (·.hash)) := by
  have happ := bootChain_append v h [] 0
  rwa [List.append_nil, Nat.zero_add, bootChain, List.append_nil] at happ

theorem bootChain_fails {v : Service} {pre post : List BootImage} {x : BootImage} (h : ∀ y ∈ pre, imageCheck v y = 0)
    (hx : imageCheck v x ≠ 0) :
    bootChain v 0 (pre ++ x :: post) = (pre.length, imageCheck v x, pre.map (·.hash)) := by
  rw [bootChain_append v h, bootChain, if_neg hx, Nat.zero_add, List.append_nil]

/-! ### BOOTSTAT (R315) -/

theorem bootStat_toNat (stage check fused : Nat) : (bootStat stage check fused).toNat =
    stage % 16 + (if check = 0 then 0 else 2 ^ 8) + check % 16 * 2 ^ 12 + fused % 64 * 2 ^ 16 := by
  rw [bootStat, BitVec.toNat_ofNat, Nat.mod_eq_of_lt]
  split <;> omega

theorem bootStat_stage {stage : Nat} (h : stage < 16) (check fused : Nat) :
    fieldOf (bootStat stage check fused) 0 4 = stage := by
  rw [fieldOf_eq _ _ (by decide), bootStat_toNat]
  split <;> omega

theorem bootStat_check (stage : Nat) {check : Nat} (h : check < 16) (fused : Nat) :
    fieldOf (bootStat stage check fused) 12 4 = check := by
  rw [fieldOf_eq _ _ (by decide), bootStat_toNat]
  split <;> omega

theorem bootStat_fused (stage check fused : Nat) : fieldOf (bootStat stage check fused) 16 6 = fused % 64 := by
  rw [fieldOf_eq _ _ (by decide), bootStat_toNat]
  split <;> omega

theorem bootStat_failed (stage check fused : Nat) : (bootStat stage check fused).getLsbD 8 = decide (check ≠ 0) := by
  rw [BitVec.getLsbD, bootStat_toNat, Nat.testBit_eq_decide_div_mod_eq]
  refine decide_eq_decide.mpr ?_
  split <;> omega

/-! ### Units that a reset disables (R186, R292) -/

theorem getLsbD_foldl_or {n j : Nat} (hj : j < n) (P : Nat → Bool) (l : List Nat) (old : BitVec n) :
    (l.foldl (fun m i => if P i then m ||| BitVec.ofNat n (2 ^ i) else m) old).getLsbD j =
      (old.getLsbD j || (decide (j ∈ l) && P j)) := by
  induction l generalizing old with
  | nil => simp
  | cons i l ih =>
    have hbit : (BitVec.ofNat n (2 ^ i)).getLsbD j = decide (i = j) := by
      rw [BitVec.getLsbD_ofNat, Nat.testBit_two_pow, decide_eq_true hj, Bool.true_and]
    rw [List.foldl_cons, ih]
    by_cases hij : i = j
    · subst hij
      cases hP : P i
      · simp only [Bool.false_eq_true, if_false, Bool.and_false]
      · simp only [if_true, BitVec.getLsbD_or, hbit, decide_true, Bool.or_true, Bool.true_or, List.mem_cons, true_or,
          Bool.true_and]
    · have hmem : decide (j ∈ i :: l) = decide (j ∈ l) := by simp [Ne.symm hij]
      rw [hmem]
      split
      · rw [BitVec.getLsbD_or, hbit, decide_eq_false hij, Bool.or_false]
      · rfl

theorem getLsbD_disabled {n i : Nat} (hi : i < n) (old : BitVec n) (errs : Tab (List Nat)) :
    (disabled n old errs).getLsbD i = (old.getLsbD i || fourInDay (Tab.get [] errs i)) := by
  rw [disabled, getLsbD_foldl_or hi (fun i => fourInDay (Tab.get [] errs i)), decide_eq_true (List.mem_range.mpr hi),
    Bool.true_and]

theorem State.mem_derates {s : State} {p : Nat} (hp : p < 8) (hs : Tab.get 0 s.r.share p ≠ 0) (df : Nat) :
    .derate p df ((Tab.get 0 s.r.share p).toNat * df) ∈ s.derates df :=
  List.mem_filterMap.mpr ⟨p, List.mem_range.mpr hp, if_neg hs⟩

/-! ### Ownership (R177, R317) -/

theorem State.releaseFrames_service (s : State) (f n : Nat) (key : BitVec 6) :
    (s.releaseFrames f n key).service = s.service :=
  State.freePigeons_keeps (·.service) (fun s p v y => by simp [State.wakeWaita]) (fun _ _ _ => rfl) s _ _

theorem State.get_newOwner_keys (s : State) (owner : BitVec 256) (k : Nat) : Tab.get [] (s.newOwner owner).service.keys k =
    if k = 0 then Tab.get [] s.service.keys 0 else [] := by
  rw [State.newOwner, Tab.get_set, State.releaseFrames_service]
  rfl

theorem State.get_newOwner_dpa (s : State) (owner : BitVec 256) {b : Nat} (hb : b < dpaTop) :
    Tab.get 0 (s.newOwner owner).m.dpa b = 0 :=
  (s.get_releaseFrames_dpa 0 (dpaTop / 4096) 0 b).trans (if_pos ⟨Nat.zero_le _, by unfold dpaTop at *; omega⟩)

theorem State.get_newOwner_keyTags (s : State) (owner : BitVec 256) {k : Nat} (hk : k < dpaTop / 4096) :
    Tab.get 0 (s.newOwner owner).m.keyTags k = 0 :=
  (s.get_releaseFrames_keyTags 0 (dpaTop / 4096) 0 k).trans (if_pos ⟨Nat.zero_le _, by omega⟩)

/-- A change of ownership runs when the current owner signs it, or the maker with the strap held. -/
theorem exec_changesOwner {signer owner : BitVec 256} {i : Instr} {s : State}
    (h : (i = .ownershipTransfer ⟨true, signer⟩ owner ∧ signer = s.service.owner) ∨
      (i = .recoveryCommand ⟨true, signer⟩ owner ∧ signer = s.service.maker ∧ s.service.strap = true)) :
    exec i s = .next (s.newOwner owner) := by
  obtain ⟨rfl, hs⟩ | ⟨rfl, hs, hstrap⟩ := h
  · exact if_pos ⟨rfl, hs⟩
  · exact if_pos ⟨rfl, hs, hstrap⟩

theorem exec_ownershipTransfer_unsigned {signed : Bool} {signer : BitVec 256} (owner : BitVec 256) {s : State}
    (h : signed = false ∨ signer ≠ s.service.owner) : exec (.ownershipTransfer ⟨signed, signer⟩ owner) s = .next s := by
  refine if_neg fun ⟨hsig, hown⟩ => ?_
  obtain h | h := h
  · exact absurd hsig (by simp [h])
  · exact h hown

theorem exec_recoveryCommand_unsigned {signed : Bool} {signer : BitVec 256} (owner : BitVec 256) {s : State}
    (h : signed = false ∨ signer ≠ s.service.maker ∨ s.service.strap = false) :
    exec (.recoveryCommand ⟨signed, signer⟩ owner) s = .next s := by
  refine if_neg fun ⟨hsig, hmaker, hstrap⟩ => ?_
  obtain h | h | h := h
  · exact absurd hsig (by simp [h])
  · exact h hmaker
  · exact absurd hstrap (by simp [h])

end Sys2Proof.Machine

namespace Sys2Proof.Proofs

open Sys2Proof.Machine

/-- Settles O60: the reset state but for its named fields, the chain of images cut at the first that fails, and a change of
ownership as a release of every frame. -/
theorem resetBootAndOwnership : Obligations.ResetBootAndOwnership := by
  refine ⟨fun images strap cl ch s => ⟨_, rfl, rfl, rfl, rfl, rfl, rfl, rfl, rfl, rfl, rfl, rfl, fun k => ?_, rfl, rfl, rfl,
    fun i hi => ?_, fun i hi => ?_, fun h => if_pos h, fun h p hp hs => ?_, fun pre post x hi hpre hx => ?_, fun h => ?_,
    bootStat_fused ..⟩, fun x v => ⟨imageCheck_maker, imageCheck_owner, imageCheck_old, imageCheck_form⟩, fun i s h => ?_,
    fun signer owner i s h => ⟨_, exec_changesOwner h, rfl, (freePigeons_sameMem s _ _).2, fun b => s.get_newOwner_dpa owner,
      fun k => s.get_newOwner_keyTags owner, ?_, fun k hk => ?_⟩,
    fun signed signer owner s => ⟨exec_ownershipTransfer_unsigned owner, exec_recoveryCommand_unsigned owner⟩⟩
  · exact if_congr eq_comm rfl rfl
  · exact (getLsbD_disabled hi ..).trans (by rw [BitVec.getLsbD_or])
  · exact (getLsbD_disabled hi ..).trans (by rw [BitVec.getLsbD_or])
  · exact (if_neg h).symm ▸ State.mem_derates hp hs 256
  · have hlen : pre.length < 16 := by
      have h7 := congrArg List.length hi
      simp only [List.length_take, List.length_append, List.length_cons] at h7
      omega
    have hcheck := imageCheck_le s.service x
    rw [hi, bootChain_fails hpre hx]
    exact ⟨bootStat_stage hlen _ _, (bootStat_failed ..).trans (decide_eq_true hx), bootStat_check pre.length (show imageCheck s.service x < 16 by omega) _, rfl⟩
  · rw [bootChain_passes h]
    refine ⟨bootStat_stage ?_ _ _, bootStat_failed .., bootStat_check _ (show 0 < 16 by decide) _, rfl⟩
    rw [List.length_take]
    omega
  · obtain rfl | rfl | rfl | rfl | rfl | rfl | rfl := h <;> rfl
  · exact (s.get_newOwner_keys owner 0).trans (if_pos rfl)
  · exact (s.get_newOwner_keys owner k).trans (if_neg (by omega))

end Sys2Proof.Proofs
end

section
/-! Device registers (R168, R169, R185, R223, R261, R264, R301, R303, R305, R319): the one form of the writes that a rule can
refuse, the rule of each, and the registers that REGISTER_WRITE reaches. -/

namespace Sys2Proof.Machine

/-! ### Fields and bits of a masked word -/

/-- A mask that covers a field leaves it. -/
theorem fieldOf_and (v mask : Word) (lo n : Nat)
    (h : mask >>> lo &&& BitVec.ofNat 64 (2 ^ n - 1) = BitVec.ofNat 64 (2 ^ n - 1)) :
    fieldOf (v &&& mask) lo n = fieldOf v lo n := by
  rw [fieldOf, fieldOf, BitVec.ushiftRight_and_distrib, BitVec.and_assoc, h]

theorem fieldOf_lt (v : Word) (lo : Nat) {n : Nat} (hn : n ≤ 64) : fieldOf v lo n < 2 ^ n := by
  rw [fieldOf_eq v lo hn]
  exact Nat.mod_lt _ (Nat.two_pow_pos n)

theorem Word.and_low32_eq_zero_iff (x y : Word) : x &&& y &&& 0xFFFFFFFF = 0 ↔
    ∀ b < 32, ¬(x.getLsbD b = true ∧ y.getLsbD b = true) := by
  have hmask : ∀ b < 64, (0xFFFFFFFF : Word).getLsbD b = decide (b < 32) := by decide
  constructor
  · intro h b hb ⟨hx, hy⟩
    have hbit := congrArg (BitVec.getLsbD · b) h
    simp only [BitVec.getLsbD_and, hx, hy, hmask b (by omega), decide_eq_true hb] at hbit
    simp at hbit
  · intro h
    refine BitVec.eq_of_getLsbD_eq fun b hb => ?_
    rw [BitVec.getLsbD_and, hmask b hb, BitVec.getLsbD_and]
    by_cases hlow : b < 32
    · have hxy := h b hlow
      rw [← Bool.and_eq_true, Bool.not_eq_true] at hxy
      rw [hxy, Bool.false_and]
      exact BitVec.getLsbD_zero.symm
    · rw [decide_eq_false hlow, Bool.and_false]
      exact BitVec.getLsbD_zero.symm

/-! ### A write that its register may refuse (R303) -/

section
variable {s : State} (hp : s.ports.host = true)
include hp

/-- A write of a device register takes effect when its rule accepts the value, and otherwise changes DEVERR alone. -/
theorem exec_device_cases {i : Instr} {off : Nat} {f : Regs → Option Regs}
    (hi : exec i s = fromHost s 0 (ok (s.device off f))) (hoff : off < 2 ^ 24) :
    (f s.r = none → exec i s = .next { s with r := { s.r with deverr := BitVec.ofNat 64 (2 ^ 63 + off) } }) ∧
    (∀ r, f s.r = some r → exec i s = .next { s with r := r }) := by
  rw [hi, fromHost_on s 0 _ hp s.presented_zero, State.device]
  constructor
  · intro h
    rw [h]
    dsimp only
    rw [State.refuseWrite, Nat.mod_eq_of_lt hoff]
    rfl
  · intro r h
    rw [h]
    rfl

/-- The host's write of features, counters and DEVERR changes the registers alone. -/
theorem fromHost_regs (r : Regs) : fromHost s 0 (ok { s with r := r }) = .next { s with r := r } :=
  fromHost_on s 0 _ hp s.presented_zero

end

/-! ### Shares and points (R185, R261, R264) -/

section
variable (r : Regs) (p : Nat) (v : Word)

theorem Regs.writeShare_accepts : (r.writeShare p v).isSome = true ↔
    ((List.range 8).map (fun i => (Tab.get 0 (Tab.set 0 r.share p (v &&& 0x1FF)) i).toNat)).sum ≤ 256 :=
  Option.isSome_ite'.trans Nat.not_lt

theorem Regs.writePmax_accepts : (r.writePmax p v).isSome = true ↔
    fieldOf v 0 4 ≤ 10 ∧ ∀ n < 8, fieldOf (Tab.get 0 r.vpsmap p) (8 * n + 4) 4 ≤ fieldOf v 0 4 := by
  refine Option.isSome_ite.trans (and_congr_right fun _ => ?_)
  simp only [vpsPairs, List.all_map, List.all_eq_true, List.mem_range, Function.comp_apply, decide_eq_true_eq]

theorem Regs.writeVpsmap_accepts : (r.writeVpsmap p v).isSome = true ↔
    ∀ n < 8, fieldOf v (8 * n) 4 ≤ fieldOf v (8 * n + 4) 4 ∧ fieldOf v (8 * n + 4) 4 ≤ Tab.get 0 r.pmax p := by
  refine Option.isSome_ite.trans ?_
  simp only [vpsPairs, List.all_map, List.all_eq_true, List.mem_range, Function.comp_apply, Bool.and_eq_true,
    decide_eq_true_eq]

theorem Regs.writeRscarve_accepts (b : Bool) : (r.writeRscarve b v).isSome = true ↔ fieldOf v 0 3 < 5 ∧ b = false := by
  refine Option.isSome_ite'.trans ?_
  rw [not_or, Nat.not_le, Bool.not_eq_true]

end

/-! ### Context blocks (R168, R169, R181) -/

/-- A window ends where its base, moved by HWO modulo 2^64, ends. -/
theorem windowIn_iff (ctx : Tab Word) (n lo hi : Nat) :
    let base := fieldOf (Tab.get 0 ctx (n * 8)) 21 36 * 2 ^ 21
    let len := fieldOf (Tab.get 0 ctx (n * 8 + 1)) 21 36 * 2 ^ 21
    let d := (base + (Tab.get 0 ctx (n * 8 + 2)).toNat) % 2 ^ 64
    windowIn ctx n (lo, hi) = true ↔ len = 0 ∨ (lo ≤ d ∧ d + len ≤ hi) := by
  intro base len d
  have hbase : base < 2 ^ 64 := by
    have := fieldOf_lt (Tab.get 0 ctx (n * 8)) 21 (n := 36) (by decide)
    omega
  have hd : (BitVec.ofNat 64 base + Tab.get 0 ctx (n * 8 + 2)).toNat = d := by
    rw [BitVec.toNat_add, BitVec.toNat_ofNat, Nat.mod_eq_of_lt hbase]
  simp only [windowIn, Bool.or_eq_true, Bool.and_eq_true, decide_eq_true_eq, ← hd]
  rfl

/-- A write of a context block is refused when it would leave the window outside its range; CTX3 keeps bit 2 while pasids
are off. -/
theorem Regs.writeCtx_eq (r : Regs) (n w : Nat) (v : Word) :
    let new : Word := if w = 3 ∧ r.featw0.getLsbD 3 = false
      then ((v &&& ctxMask 3) &&& ~~~4#64) ||| (Tab.get 0 r.ctx (n * 8 + w) &&& 4#64) else v &&& ctxMask w
    r.writeCtx n w v = if w ≤ 3 ∧ ¬windowIn (Tab.set 0 r.ctx (n * 8 + w) new) n (r.ctxRange n) = true then none
      else some { r with ctx := Tab.set 0 r.ctx (n * 8 + w) new } := by
  intro new
  have hnew : (if w = 3 ∧ ¬r.featw0.getLsbD 3 = true
      then ((v &&& ctxMask w) &&& ~~~(4 : Word)) ||| (Tab.get 0 r.ctx (n * 8 + w) &&& 4) else v &&& ctxMask w) = new :=
    if_ctx_congr (by rw [Bool.not_eq_true]) (fun h => by rw [h.1]; rfl) fun _ => rfl
  simp only [Regs.writeCtx, hnew]

/-- A write of CTXP is refused for context 0, for one in use, and for a partition whose memory does not hold the window. -/
theorem Regs.writeCtxp_eq (r : Regs) (busy : Bool) (n : Nat) (v : Word) :
    let old := Tab.get 0 r.ctxp n
    let r0 := if old.getLsbD 7 = true ∧ v &&& 0x87 ≠ old then r.orphans n else r
    r.writeCtxp busy n v =
      if n = 0 ∨ busy = true ∨ (v.getLsbD 7 = true ∧
        windowIn r.ctx n (pmemRange (Tab.get 0 r.pmem (fieldOf (v &&& 0x87) 0 3))) = false) then none
      else some { r0 with ctxp := Tab.set 0 r.ctxp n (v &&& 0x87) } := by
  intro old r0
  have hpmem : r0.pmem = r.pmem := by
    unfold r0
    split <;> rfl
  have hbit : (v &&& 0x87).getLsbD 7 = v.getLsbD 7 := by
    rw [BitVec.getLsbD_and]
    exact Bool.and_true _
  have hrange (hn : n ≠ 0) (hv : v.getLsbD 7 = true) :
      ({ r0 with ctxp := Tab.set 0 r.ctxp n (v &&& 0x87) } : Regs).ctxRange n =
        pmemRange (Tab.get 0 r.pmem (fieldOf (v &&& 0x87) 0 3)) := by
    rw [Regs.ctxRange]
    dsimp only
    rw [Tab.get_set_self, hbit, if_pos ⟨hn, hv⟩, hpmem]
  refine if_congr ?_ rfl rfl
  by_cases hn : n = 0
  · exact iff_of_true (.inl hn) (.inl hn)
  · refine or_congr_right (or_congr_right (and_congr_right fun hv => ?_))
    rw [Bool.not_eq_true]
    exact Eq.congr_left (congrArg (windowIn r.ctx n) (hrange hn hv))

theorem exec_ctxpWrite_device (n : Fin 128) (v : Word) (s : State) : exec (.ctxpWrite n v) s =
    fromHost s 0 (ok (s.device (0x10030 + 0x40 * n.val) fun r =>
      r.writeCtxp (s.tasks.any (fun e => decide (e.2.ctx = n.val))) n.val v)) := by
  have hoff : ctxOffset n.val 6 = 0x10030 + 0x40 * n.val := by
    unfold ctxOffset
    omega
  rw [exec_ctxpWrite, execCtxpWrite, hoff]
  rfl

theorem Regs.mem_orphans {r : Regs} {n : Nat} {q : PageReq} : q ∈ (r.orphans n).prq ↔
    ∃ p ∈ r.prq, (p.ctx ≠ n ∨ p.sent = true) ∧ (if p.ctx = n then { p with orphan := true } else p) = q := by
  simp only [Regs.orphans, List.mem_map, List.mem_filter, Bool.or_eq_true, decide_eq_true_eq, and_assoc]

/-- What a destroyed context leaves behind has been sent, and its answer will be late. -/
theorem Regs.orphans_own {r : Regs} {n : Nat} {q : PageReq} (h : q ∈ (r.orphans n).prq) (hq : q.ctx = n) :
    q.sent = true ∧ q.orphan = true := by
  obtain ⟨p, -, hp, rfl⟩ := Regs.mem_orphans.mp h
  by_cases hc : p.ctx = n
  · rw [if_pos hc]
    exact ⟨hp.resolve_left (not_not.mpr hc), rfl⟩
  · rw [if_neg hc] at hq
    exact absurd hq hc

theorem Regs.orphans_other {r : Regs} {n : Nat} {q : PageReq} (hq : q.ctx ≠ n) : q ∈ (r.orphans n).prq ↔ q ∈ r.prq := by
  rw [Regs.mem_orphans]
  constructor
  · rintro ⟨p, hmem, -, rfl⟩
    by_cases hc : p.ctx = n
    · rw [if_pos hc] at hq
      exact absurd hc hq
    · rwa [if_neg hc]
  · exact fun h => ⟨q, h, .inl hq, if_neg hq⟩

/-! ### Quotas (R223) -/

/-- The mask of a quota word covers its quotas. -/
theorem tqMask_covers : ∀ w < 3, ∀ f ∈ tqFields w,
    tqMask w >>> f.1 &&& BitVec.ofNat 64 (2 ^ f.2.1 - 1) = BitVec.ofNat 64 (2 ^ f.2.1 - 1) := by decide

/-- The sums over the nine blocks, with the new word in its block. -/
theorem tqSumsOk_set (tq : Tab Word) (n : Nat) {w : Nat} (hw : w < 3) (v : Word) :
    tqSumsOk (Tab.set 0 tq (n * 4 + w) (v &&& tqMask w)) w = true ↔ ∀ f ∈ tqFields w, ((List.range 9).map (fun m =>
      fieldOf (if m = n then v else Tab.get 0 tq (m * 4 + w)) f.1 f.2.1)).sum ≤ f.2.2 := by
  simp only [tqSumsOk, List.all_eq_true, decide_eq_true_eq]
  refine forall₂_congr fun f hf => ?_
  refine iff_of_eq (congrArg (fun l : List Nat => l.sum ≤ f.2.2) (List.map_congr_left fun m _ => ?_))
  rw [Tab.get_set]
  by_cases hm : m = n
  · rw [if_pos (by omega), if_pos hm, fieldOf_and v _ _ _ (tqMask_covers w hw f hf)]
  · rw [if_neg (by omega), if_neg hm]

section
variable (r : Regs) (n : Nat) (v : Word)

theorem Regs.writeTq_accepts (w : Nat) : (r.writeTq n w v).isSome = true ↔
    tqSumsOk (Tab.set 0 r.tq (n * 4 + w) (v &&& tqMask w)) w = true ∧
      (w = 1 → 1 ≤ fieldOf v 0 5 ∧ fieldOf v 0 5 ≤ 16) := by
  refine Option.isSome_ite'.trans ?_
  rw [not_or, Bool.not_eq_true', Bool.not_eq_false, not_and, not_or, Nat.not_lt, Nat.not_lt]

theorem Regs.writeTq_value {w : Nat} {r' : Regs} (h : r.writeTq n w v = some r') :
    r' = { r with tq := Tab.set 0 r.tq (n * 4 + w) (v &&& tqMask w) } :=
  (Option.some.inj (Option.ite_none_left_eq_some.mp h).2).symm

end

/-! ### Partitions (R303) -/

/-- No island of the new set is another partition's, and none that holds a core-task moves. -/
def Regs.PartcfgGood (r : Regs) (used : List Nat) (p : Nat) (v : Word) : Prop :=
  (∀ i < 8, i ≠ p → ∀ b < 32, ¬((Tab.get 0 r.partcfg i).getLsbD b = true ∧ v.getLsbD b = true)) ∧
    ∀ i ∈ used, (Tab.get 0 r.partcfg p).getLsbD i = v.getLsbD i

theorem Regs.writePartcfg_cases (r : Regs) {used : List Nat} (p : Nat) (v : Word) (hu : ∀ i ∈ used, i < 32) :
    (¬r.PartcfgGood used p v → r.writePartcfg used p v = none) ∧
    (r.PartcfgGood used p v →
      r.writePartcfg used p v = some { r with partcfg := Tab.set 0 r.partcfg p (v &&& 0x1FFFFFFFF) }) := by
  have hbit : ∀ b < 32, (v &&& 0x1FFFFFFFF).getLsbD b = v.getLsbD b := fun b hb => by
    have hmask : ∀ b < 32, (0x1FFFFFFFF : Word).getLsbD b = true := by decide
    rw [BitVec.getLsbD_and, hmask b hb, Bool.and_true]
  have hothers : ((List.range 8).any (fun i => decide (i ≠ p) &&
        decide ((Tab.get 0 r.partcfg i &&& (v &&& 0x1FFFFFFFF) &&& 0xFFFFFFFF) ≠ 0))) = false ↔
      ∀ i < 8, i ≠ p → ∀ b < 32, ¬((Tab.get 0 r.partcfg i).getLsbD b = true ∧ v.getLsbD b = true) := by
    simp only [List.any_eq_false, List.mem_range, Bool.and_eq_true, decide_eq_true_eq, not_and, not_not,
      Word.and_low32_eq_zero_iff]
    refine forall₄_congr fun i _ _ b => forall_congr' fun hb => ?_
    rw [hbit b hb]
  have hmoved : (used.any (fun i => (Tab.get 0 r.partcfg p ^^^ (v &&& 0x1FFFFFFFF)).getLsbD i)) = false ↔
      ∀ i ∈ used, (Tab.get 0 r.partcfg p).getLsbD i = v.getLsbD i := by
    rw [List.any_eq_false]
    refine forall₂_congr fun i hi => ?_
    rw [BitVec.getLsbD_xor, hbit i (hu i hi), Bool.not_eq_true, bne_eq_false_iff_eq]
  rw [Regs.PartcfgGood, ← hothers, ← hmoved, ← Bool.or_eq_false_iff, Bool.not_eq_false]
  exact ⟨fun h => if_pos h, fun h => if_neg (by rw [h]; decide)⟩

/-- Two ranges of whole blocks meet when each begins below the end of the other and neither is empty. -/
theorem Regs.writePmem_cases (r : Regs) (p : Nat) (v : Word) :
    let lo (x : Word) : Nat := fieldOf x 0 17 * 2 ^ 21
    let hi (x : Word) : Nat := (fieldOf x 0 17 + fieldOf x 32 17) * 2 ^ 21
    let good := hi v ≤ 0x3000000000 ∧
      (∀ i < 8, i ≠ p → let o := Tab.get 0 r.pmem i
        hi v ≤ lo o ∨ hi o ≤ lo v ∨ lo v = hi v ∨ lo o = hi o) ∧
      ∀ n < 128, n ≠ 0 → (Tab.get 0 r.ctxp n).getLsbD 7 = true → fieldOf (Tab.get 0 r.ctxp n) 0 3 = p →
        windowIn r.ctx n (lo v, hi v) = true
    (¬good → r.writePmem p v = none) ∧
    (good → r.writePmem p v = some { r with pmem := Tab.set 0 r.pmem p (v &&& 0x0001FFFF0001FFFF) }) := by
  intro lo hi good
  have hme : pmemRange (v &&& 0x0001FFFF0001FFFF) = (lo v, hi v) := by
    rw [pmemRange, fieldOf_and v _ 0 17 (by decide), fieldOf_and v _ 32 17 (by decide)]
  have hmeets : ((List.range 8).any (fun i => decide (i ≠ p) && decide (lo v < hi (Tab.get 0 r.pmem i)) &&
        decide (lo (Tab.get 0 r.pmem i) < hi v) && decide (lo v < hi v) &&
        decide (lo (Tab.get 0 r.pmem i) < hi (Tab.get 0 r.pmem i)))) = true ↔
      ¬∀ i < 8, i ≠ p → let o := Tab.get 0 r.pmem i
        hi v ≤ lo o ∨ hi o ≤ lo v ∨ lo v = hi v ∨ lo o = hi o := by
    have hle : ∀ x, lo x ≤ hi x := fun x => Nat.mul_le_mul_right _ (Nat.le_add_right ..)
    rw [← Bool.not_eq_false, not_iff_not, List.any_eq_false]
    simp only [List.mem_range, Bool.and_eq_true, decide_eq_true_eq]
    refine forall₂_congr fun i _ => ?_
    have hv := hle v
    have ho := hle (Tab.get 0 r.pmem i)
    omega
  have hctxs : ((r.ctxsOf p).all (fun n => windowIn r.ctx n (lo v, hi v))) = true ↔
      ∀ n < 128, n ≠ 0 → (Tab.get 0 r.ctxp n).getLsbD 7 = true → fieldOf (Tab.get 0 r.ctxp n) 0 3 = p →
        windowIn r.ctx n (lo v, hi v) = true := by
    simp only [Regs.ctxsOf, List.all_eq_true, List.mem_filter, List.mem_range, Bool.and_eq_true, decide_eq_true_eq, and_imp]
  have hrefused : (dpaTop < hi v ∨ _ ∨ ¬_) ↔ ¬good :=
    (or_congr Nat.not_le.symm (or_congr hmeets (not_congr hctxs))).trans (by rw [← not_and_or, ← not_and_or]; exact Iff.rfl)
  have heq : r.writePmem p v = if ¬good then none
      else some { r with pmem := Tab.set 0 r.pmem p (v &&& 0x0001FFFF0001FFFF) } := by
    rw [← if_congr hrefused rfl rfl]
    simp only [Regs.writePmem, hme]
    rfl
  exact ⟨fun h => heq.trans (if_pos h), fun h => heq.trans (if_neg (not_not.mpr h))⟩

/-! ### Features, counters, DEVERR (R301, R303, R319) -/

section
variable (r : Regs) (high low : Option (BitVec 32))

theorem Regs.writeFeat0_fixed (h : r.featFixed = true) : r.writeFeat0 high low = r := if_pos (.inl h)

theorem Regs.writeFeat1_fixed (h : r.featFixed = true) : r.writeFeat1 high low = r := if_pos h

/-- The first write of FEATACC0 takes a half that it does not reach as 0. -/
theorem Regs.writeFeat0_first (h : r.featFixed = false) (hv : high ≠ none ∨ low ≠ none) : r.writeFeat0 high low =
    { r with featw0 := ((high.getD 0) ++ (low.getD 0) : Word) &&& Config.featOff0, featFixed := true } := by
  refine if_neg ?_
  rw [h, not_or, not_and_or]
  exact ⟨by decide, hv⟩

theorem Regs.writeFeat1_open (h : r.featFixed = false) :
    r.writeFeat1 high low = { r with featacc1 := merge r.featacc1 high low &&& Config.featOff1 } :=
  if_neg (by rw [h]; decide)

theorem Regs.writeLateprq_eq (v : Word) : r.writeLateprq v = { r with lateprq := if v = 0 then 0 else r.lateprq } := by
  unfold Regs.writeLateprq
  split <;> rfl

theorem Regs.writeDeverr_eq (v : Word) : r.writeDeverr v = { r with deverr := (r.writeDeverr v).deverr } := by
  unfold Regs.writeDeverr
  split <;> rfl

/-- VALID is cleared by a 1, and every other bit of DEVERR stays (log 41). -/
theorem Regs.getLsbD_writeDeverr (v : Word) {b : Nat} (hb : b < 64) : (r.writeDeverr v).deverr.getLsbD b =
    (r.deverr.getLsbD b && !(decide (b = 63) && v.getLsbD 63)) := by
  have hmask : ∀ b < 64, (~~~(BitVec.ofNat 64 (2 ^ 63))).getLsbD b = !decide (b = 63) := by decide
  unfold Regs.writeDeverr
  split
  · next hv => rw [hv, Bool.and_true, BitVec.getLsbD_and, hmask b hb]
  · next hv => rw [Bool.eq_false_iff.mpr hv, Bool.and_false, Bool.not_false, Bool.and_true]

end

/-! ### Encode contexts (R305) -/

section
variable {f : Fin 9} {e : Fin 6} {c : Fin 8} {s : State} {x : EncCtx} (hp : s.ports.host = true)
  (hf : s.presented f.val = true) (hx : s.encReach f.val e.val c.val = some x)
include hp hf hx

theorem exec_eordxWrite_reached (v : Word) : exec (.eordxWrite f e c v) s =
    .next (if x.eord ≤ v.toNat ∧ v.toNat ≤ x.eowr then s.updEnc (encKey e.val c.val) (fun y => { y with eord := v.toNat })
      else s) := by
  rw [exec_eordxWrite, execEordxWrite, fromHost_on s _ _ hp hf, State.writeEordx, hx]
  rfl

theorem exec_eordxWrite_ahead {v : Word} (h1 : x.eord ≤ v.toNat) (h2 : v.toNat ≤ x.eowr) :
    ∃ t, exec (.eordxWrite f e c v) s = .next t ∧ (find t.encs (8 * e.val + c.val)).map (·.eord) = some v.toNat := by
  obtain ⟨y, hy⟩ : ∃ y, find s.encs (encKey e.val c.val) = some y := by
    unfold State.encReach at hx
    cases hfind : find s.encs (encKey e.val c.val) with
    | none => rw [hfind] at hx; cases hx
    | some y => exact ⟨y, rfl⟩
  refine ⟨_, (exec_eordxWrite_reached hp hf hx v).trans (congrArg _ (if_pos ⟨h1, h2⟩)), ?_⟩
  rw [State.updEnc, hy]
  exact congrArg (Option.map _) (find_put_self ..)

theorem exec_eordxWrite_outside {v : Word} (h : v.toNat < x.eord ∨ x.eowr < v.toNat) :
    exec (.eordxWrite f e c v) s = .next s :=
  (exec_eordxWrite_reached hp hf hx v).trans (congrArg _ (if_neg (by omega)))

end

/-! ### REGISTER_WRITE (R301) -/

section
variable {s : State} (hp : s.ports.host = true)
include hp

theorem exec_registerWrite_up (f : Fin 9) (off : BitVec 22) {h l : Option (BitVec 32)} (hv : h ≠ none ∨ l ≠ none) :
    exec (.registerWrite f off h l) s = .next (s.regWrite f off.toNat h l) := by
  refine if_neg ?_
  rw [not_or, not_not, not_and_or]
  exact ⟨hv, hp⟩

theorem exec_registerWrite_drops {f : Fin 9} {off : BitVec 22} {h l : Option (BitVec 32)} (hv : h ≠ none ∨ l ≠ none)
    (hd : ¬8 ∣ off.toNat ∨ (0x10000 ≤ off.toNat ∧ f ≠ 0) ∨ s.presented f.val = false) :
    exec (.registerWrite f off h l) s = .next { s with aer := s.aer + 1 } := by
  rw [exec_registerWrite_up hp f off hv]
  refine congrArg _ (if_pos ?_)
  rwa [Nat.dvd_iff_mod_eq_zero, ← Bool.not_eq_true', ne_eq, ← Fin.val_eq_zero_iff] at hd

/-- A write that the physical function makes at the offset of a register. -/
theorem exec_registerWrite_pf {off : BitVec 22} {n : Nat} (hn : off.toNat = n) (h8 : n % 8 = 0) {h l : Option (BitVec 32)}
    (hv : h ≠ none ∨ l ≠ none) : exec (.registerWrite 0 off h l) s = .next (
      if n < 0x10000 then s.writeFunction 0 n (merge (s.regRead 0 n) h l) h l
      else if n < 0x131C0 then s.writeTables n (merge (s.regRead 0 n) h l)
      else s.writeSingles n (merge (s.regRead 0 n) h l) h l) := by
  rw [exec_registerWrite_up hp 0 off hv, hn]
  exact congrArg _ (if_neg (by simp [h8]))

theorem exec_registerWrite_share (p : Fin 8) (hi lo : BitVec 32) :
    exec (.registerWrite 0 (BitVec.ofNat 22 (0x13000 + 8 * p.val)) (some hi) (some lo)) s =
      exec (.shareWrite p (hi ++ lo)) s := by
  have hoff : (BitVec.ofNat 22 (0x13000 + 8 * p.val)).toNat = 0x13000 + 8 * p.val := by
    rw [BitVec.toNat_ofNat, Nat.mod_eq_of_lt (by omega)]
  have hidx : (0x13000 + 8 * p.val - 0x13000) / 8 = p.val := by omega
  rw [exec_registerWrite_pf hp hoff (by omega) (.inl (by simp)), if_neg (by omega), if_pos (by omega), State.writeTables,
    if_neg (by omega), if_neg (by omega), if_neg (by omega), if_pos (by omega), hidx]
  exact (fromHost_on s 0 _ hp s.presented_zero).symm

theorem exec_registerWrite_feat0 (hi lo : BitVec 32) :
    exec (.registerWrite 0 0x13310 (some hi) (some lo)) s = exec (.featacc0Write (some hi) (some lo)) s := by
  rw [exec_registerWrite_pf hp (n := 0x13310) rfl (by decide) (.inl (by simp)), if_neg (by decide), if_neg (by decide)]
  exact (fromHost_on s 0 _ hp s.presented_zero).symm

theorem exec_registerWrite_cqdb (q : Fin 16) (lo : BitVec 32) :
    exec (.registerWrite 0 (BitVec.ofNat 22 (0x128 + 0x40 * q.val)) none (some lo)) s =
      exec (.cqdbWrite 0 q (lo.setWidth 12)) s := by
  have hoff : (BitVec.ofNat 22 (0x128 + 0x40 * q.val)).toNat = 0x128 + 0x40 * q.val := by
    rw [BitVec.toNat_ofNat, Nat.mod_eq_of_lt (by omega)]
  have hreg : (0x128 + 0x40 * q.val - 0x100) % 0x40 = 0x28 := by omega
  have hidx : (0x128 + 0x40 * q.val - 0x100) / 0x40 = q.val := by omega
  rw [exec_registerWrite_pf hp hoff (by omega) (.inr (by simp)), if_pos (by omega), State.writeFunction]
  dsimp only
  rw [if_neg (by omega), if_pos (by omega), hreg, if_pos (by decide), hidx, exec_cqdbWrite, execCqdbWrite,
    fromHost_on s _ _ hp rfl, BitVec.toNat_setWidth]
  rfl

end

end Sys2Proof.Machine

namespace Sys2Proof.Proofs

open Sys2Proof.Machine

/-- Settles O58: the writes that a rule can refuse have one form, and each rule is read off its register. -/
theorem deviceRegisters : Obligations.DeviceRegisters := by
  refine ⟨⟨fun s v i off f hp h => ?_, fun r p v => ⟨r.writeShare_accepts p v, fun r' h => ?_, r.writePmax_accepts p v,
      r.writeVpsmap_accepts p v, r.writeRscarve_accepts v⟩, fun h l v s hp => ⟨fun hfix => ⟨?_, ?_⟩, fun hfix hv => ?_,
      fun hfix => ⟨_, fromHost_regs hp _, ?_, ?_⟩, ?_, _, fromHost_regs hp _, ?_, fun b hb => ?_⟩,
      fun f e c v s x hp hf hx => ⟨exec_eordxWrite_ahead hp hf hx, exec_eordxWrite_outside hp hf hx⟩,
      fun f off h l s hp hv => ⟨exec_registerWrite_drops hp hv, rfl, fun hi lo =>
        ⟨fun p => exec_registerWrite_share hp p hi lo, exec_registerWrite_feat0 hp hi lo,
          fun q => exec_registerWrite_cqdb hp q lo⟩⟩⟩,
    windowIn_iff, fun r n w v hw => ?_, fun r busy n v => ?_, fun r n v => ?_,
    fun r used p v => r.writePartcfg_cases p v, Regs.writePmem_cases⟩
  · have hform : exec i s = fromHost s 0 (ok (s.device off f)) ∧ off < 2 ^ 24 := by
      obtain ⟨n, w, rfl, rfl, rfl⟩ | ⟨n, rfl, rfl, rfl⟩ | ⟨n, w, rfl, rfl, rfl⟩ | ⟨p, rfl, rfl, rfl⟩ | ⟨p, rfl, rfl, rfl⟩ |
        ⟨p, rfl, rfl, rfl⟩ | ⟨p, rfl, rfl, rfl⟩ | ⟨p, rfl, rfl, rfl⟩ | ⟨rfl, rfl, rfl⟩ := h
      · exact ⟨rfl, by omega⟩
      · exact ⟨exec_ctxpWrite_device n v s, by omega⟩
      all_goals exact ⟨rfl, by omega⟩
    exact exec_device_cases hp hform.1 hform.2
  · obtain ⟨-, hr⟩ := Option.ite_none_left_eq_some.mp h
    rw [← Option.some.inj hr]
    exact Tab.get_set_self ..
  · exact (fromHost_regs hp _).trans (by rw [Regs.writeFeat0_fixed _ _ _ hfix])
  · exact (fromHost_regs hp _).trans (by rw [Regs.writeFeat1_fixed _ _ _ hfix])
  · exact (fromHost_regs hp _).trans (by rw [Regs.writeFeat0_first _ _ _ hfix hv])
  · rw [Regs.writeFeat1_open _ _ _ hfix]
    rfl
  · rw [Regs.writeFeat1_open _ _ _ hfix]
  · exact (fromHost_regs hp _).trans (by rw [Regs.writeLateprq_eq])
  · rw [Regs.writeDeverr_eq]
  · exact Regs.getLsbD_writeDeverr _ _ hb
  · intro p old kept new m range
    have heq : r.writeCtx n w v = if w ≤ 3 ∧ ¬windowIn (Tab.set 0 r.ctx (n * 8 + w) new) n range = true then none
      else some { r with ctx := Tab.set 0 r.ctx (n * 8 + w) new } := r.writeCtx_eq n w v
    refine ⟨fun h3 hin => heq.trans (if_pos ⟨h3, by rw [hin]; decide⟩), fun h => heq.trans (if_neg ?_)⟩
    rintro ⟨h3, hin⟩
    exact h.elim (by omega) hin
  · exact ⟨fun h => (r.writeCtxp_eq busy n v).trans (if_pos h), fun h => (r.writeCtxp_eq busy n v).trans (if_neg h), rfl,
      fun q => Regs.orphans_own, fun q => Regs.orphans_other⟩
  · refine ⟨?_, ?_, (r.writeTq_accepts n.val v 2).mpr ⟨rfl, fun h => absurd h (by decide)⟩,
      fun w hw r' h => r.writeTq_value n.val v h⟩
    · rw [Regs.writeTq_accepts, tqSumsOk_set _ _ (by decide)]
      simp [tqFields]
    · rw [Regs.writeTq_accepts, tqSumsOk_set _ _ (by decide)]
      simp [tqFields, and_assoc]

end Sys2Proof.Proofs
end

section
/-! Errors in the hardware and scrubbing (R187, R200, R288, R289, R290, R292): the freeze of a unit, the unit that an error
stops, the access that it fails, the line that it zeroes, and what a scrub pass leaves. -/

namespace Sys2Proof.Machine

/-! ### Freezes (R288) -/

/-- A freeze adds 64 cycles to its unit's own. -/
theorem State.freeze_cases (s : State) (key : Nat) :
    Tab.get 0 (s.freeze key).logService.pw.freeze key = Tab.get 0 s.pw.freeze key + 64 * 1000 ∧
      (∀ k, k ≠ key → Tab.get 0 (s.freeze key).logService.pw.freeze k = Tab.get 0 s.pw.freeze k) ∧
      (s.freeze key).logService = { s with
        pw := { s.pw with freeze := (s.freeze key).logService.pw.freeze }
        service := { s.service with svcLog := s.service.svcLog + 1 } } :=
  ⟨(Tab.get_upd 0 s.pw.freeze key key (· + freezeCycles)).trans (if_pos rfl),
    fun k hk => (Tab.get_upd 0 s.pw.freeze key k (· + freezeCycles)).trans (if_neg hk), rfl⟩

theorem exec_eccCorrectable_core {slot rank : Nat} {s : State} {c : CoreTask} (hc : s.ct? slot rank = some c) (kind : Nat) :
    exec (.eccCorrectable (.core slot rank kind)) s = .next (s.freeze c.core).logService := by
  rw [exec_eccCorrectable, execEccCorrectable, hc]
  rfl

/-! ### A unit that stops (R289, R290) -/

/-- The core-task once its sequencer `q` has met a fault of the hardware at its word; one that does not run stays as it is
(log 43). -/
def CoreTask.hardFault (c : CoreTask) (q : SeqId) (t : Trap) (now : Nat) : CoreTask :=
  { c.setSeq q { c.seq q with status := if (c.seq q).status = .running then .faulted else (c.seq q).status } with
    notes := c.notes ++ [t.note (seqNum q) (c.seq q).pc now] }

/-- The word of the C-sequencer has no atomic of its own on its way. -/
def State.wordWithdrawn (s : State) (slot rank : Nat) : State :=
  (s.takeAtoms (fun r => decide (r.slot = slot ∧ r.rank = rank) && r.tag.isNone)).1.updSeq
    { slot := slot, rank := rank, q := .c } (fun q => { q with acqBusy := false })

section
variable {s : State} {slot rank : Nat} {c : CoreTask} (hc : s.ct? slot rank = some c)
include hc

theorem State.raiseSeq_eq (q : SeqId) (t : Trap) : s.raiseSeq { slot := slot, rank := rank, q := q } t =
    s.putCt slot rank (c.hardFault q t s.dtime) := by
  rw [State.raiseSeq, State.updCt, hc]
  rfl

/-- The kinds 0 to 3 of a unit are the sequencers. -/
theorem State.raiseUnit_seq (q : SeqId) (t : Trap) :
    s.raiseUnit slot rank (seqNum q) t = s.putCt slot rank (c.hardFault q t s.dtime) := by
  rw [← State.raiseSeq_eq hc, State.raiseUnit, hc]
  cases q <;> rfl

/-- An error in a core's memory, or a watchdog, stops its unit and counts for the cluster. -/
theorem exec_stopsUnit {q : SeqId} {k : Fin 6} (hk : k.val = seqNum q) {i : Instr} {code : Code} {cause : BitVec 2}
    (h : (i = .eccUncorrectable (.core slot rank (seqNum q)) ∧ code = .eccUncorrectable ∧ cause = 0) ∨
      (i = .watchdogExpiry slot rank k ∧ code = .fabricError ∧ cause = 1)) :
    ∃ t, exec i s = .next t ∧
      t.ct? slot rank = some (c.hardFault q { code := code, cause := cause, addr := 0 } s.dtime) ∧
      Tab.get [] t.pw.clusterErr (c.core / 4) = Tab.get [] s.pw.clusterErr (c.core / 4) ++ [s.dtime] := by
  have hcount (t : Trap) : Tab.get [] ((s.putCt slot rank (c.hardFault q t s.dtime)).countCluster c.core).pw.clusterErr
      (c.core / 4) = Tab.get [] s.pw.clusterErr (c.core / 4) ++ [s.dtime] := by
    rw [State.countCluster]
    dsimp only
    rw [Tab.get_upd, if_pos rfl, State.putCt_pw, State.putCt_dtime]
  obtain ⟨rfl, rfl, rfl⟩ | ⟨rfl, rfl, rfl⟩ := h
  · rw [exec_eccUncorrectable, execEccUncorrectable, hc]
    dsimp only
    rw [State.raiseUnit_seq hc]
    exact ⟨_, rfl, State.ct_putCt_self _ hc, hcount _⟩
  · rw [exec_watchdogExpiry, execWatchdogExpiry, hc, hk]
    dsimp only
    rw [State.raiseUnit_seq hc]
    exact ⟨_, rfl, State.ct_putCt_self _ hc, hcount _⟩

/-! ### The access that an error fails (R176, R281, R289, R290) -/

/-- The C-sequencer's word fails at its address, and an atomic that it has sent is no longer awaited. -/
theorem State.failWord_eq (t : Word → Trap) : s.failWord slot rank t = (s.wordWithdrawn slot rank).putCt slot rank
    ({ c with seqC := { c.seqC with acqBusy := false } }.hardFault .c (t (s.currentVa slot rank)) s.dtime) := by
  have hc1 : (s.wordWithdrawn slot rank).ct? slot rank = some { c with seqC := { c.seqC with acqBusy := false } } := by
    rw [State.wordWithdrawn, State.updSeq, State.ct_updCt, if_pos ⟨rfl, rfl⟩]
    exact congrArg (Option.map _) hc
  refine (State.raiseUnit_seq hc1 .c _).trans ?_
  rw [State.wordWithdrawn, State.updSeq_dtime]
  rfl

theorem State.failWord_ct (t : Word → Trap) : (s.failWord slot rank t).ct? slot rank =
    some ({ c with seqC := { c.seqC with acqBusy := false } }.hardFault .c (t (s.currentVa slot rank)) s.dtime) := by
  have hc1 : (s.wordWithdrawn slot rank).ct? slot rank = some { c with seqC := { c.seqC with acqBusy := false } } := by
    rw [State.wordWithdrawn, State.updSeq, State.ct_updCt, if_pos ⟨rfl, rfl⟩]
    exact congrArg (Option.map _) hc
  rw [State.failWord_eq hc]
  exact State.ct_putCt_self _ hc1

theorem State.failWord_dpa (t : Word → Trap) : (s.failWord slot rank t).m.dpa = s.m.dpa := by
  rw [State.failWord_eq hc, State.putCt_m_dpa, State.wordWithdrawn, State.updSeq_m_dpa]
  rfl

theorem exec_fabricError_word : exec (.fabricError slot rank .word) s =
    .next (s.failWord slot rank (hardTrap .fabricError 0)) := by
  rw [exec_fabricError, execFabricError, if_neg (by decide)]
  simp only [State.failAccess, hc]
  rfl

theorem exec_fabricError_store {idx : Nat} {x : Posted} (hx : c.posted[idx]? = some x) :
    exec (.fabricError slot rank (.store idx)) s = .next ((s.putCt slot rank
      { c with posted := c.posted.set idx { x with stage := .faulted } }).raiseDeferred slot rank
        { code := .fabricError, cause := 0, addr := x.va } x.waddr) := by
  rw [exec_fabricError, execFabricError, if_neg (by simp [Packet.unissued])]
  simp only [State.failAccess, hc, hx]
  rfl

/-- An error in the fetch of a running sequencer's word is that sequencer's. -/
theorem exec_fabricError_fetch {q : SeqId} (hq : (c.seq q).status = .running) :
    exec (.fabricError slot rank (.fetch q)) s = .next (s.putCt slot rank (c.hardFault q
      { code := .fabricError, cause := 0, addr := s.fetchVa slot (c.seq q) } s.dtime)) := by
  rw [exec_fabricError, execFabricError, if_neg (by simp [Packet.unissued])]
  simp only [State.failAccess, hc]
  rw [State.failFetch, if_pos hq, State.raiseSeq_eq hc]
  rfl

end

/-! ### A line that is zeroed (R289) -/

/-- The line's bytes read 0, and every other byte is as before. -/
theorem State.get_zeroLine (s : State) (dpa : Nat) : (s.zeroLine dpa).m.host = s.m.host ∧
    ∀ b, Tab.get 0 (s.zeroLine dpa).m.dpa b = if b / 64 = dpa / 64 then 0 else Tab.get 0 s.m.dpa b := by
  obtain ⟨hhost, hdpa⟩ := s.get_applyWrite_device (f := { host := false, a := dpa / 64 * 64 }) rfl (List.replicate 64 0)
    true none none
  refine ⟨hhost, fun b => (hdpa b).trans (if_ctx_congr ?_ (fun h => ?_) fun _ => rfl)⟩
  · rw [List.length_replicate]
    dsimp only
    omega
  · rw [List.getD_eq_getElem?_getD, List.getElem?_replicate]
    split <;> rfl

theorem State.zeroLine_irqs (s : State) (dpa : Nat) : (s.zeroLine dpa).irqs = s.irqs :=
  State.applyWrite_keeps (·.irqs) (fun _ _ => rfl) (fun _ _ => rfl) (fun s p v y => by simp [State.wakeWaita]) ..

theorem State.zeroLine_pw (s : State) (dpa : Nat) : (s.zeroLine dpa).pw = s.pw :=
  State.applyWrite_keeps (·.pw) (fun _ _ => rfl) (fun _ _ => rfl) (fun s p v y => by simp [State.wakeWaita]) ..

/-- An error at a line that no access reads zeroes it and tells the physical function. -/
theorem exec_eccUncorrectable_line {dpa : Nat} (hd : dpa < dpaTop) (gddr : Bool) (s : State) :
    ∃ t, exec (.eccUncorrectable (.line dpa gddr)) s = .next t ∧
      (gddr = false → t.pw.channelErr = s.pw.channelErr) ∧
      t.irqs = s.irqs ++ [.lineLost (dpa / 64 * 64)] ∧ t.m.host = s.m.host ∧
      ∀ b, Tab.get 0 t.m.dpa b = if b / 64 = dpa / 64 then 0 else Tab.get 0 s.m.dpa b := by
  refine ⟨_, if_neg (Nat.not_le.mpr hd), ?_⟩
  obtain ⟨hhost, hdpa⟩ := s.get_zeroLine dpa
  cases gddr with
  | false =>
    exact ⟨fun _ => congrArg (·.channelErr) (s.zeroLine_pw dpa), congrArg (· ++ _) (s.zeroLine_irqs dpa), hhost, hdpa⟩
  | true => exact ⟨fun h => (by cases h), congrArg (· ++ _) (s.zeroLine_irqs dpa), hhost, hdpa⟩

/-- What a zeroed line leaves of the core-task whose word has met it. -/
theorem State.ct_zeroLine {s : State} {slot rank : Nat} {c : CoreTask} (hc : s.ct? slot rank = some c) (dpa : Nat) :
    ∃ c', (s.zeroLine dpa).ct? slot rank = some c' ∧ c'.seqC.status = c.seqC.status ∧ c'.seqC.pc = c.seqC.pc ∧
      c'.notes = c.notes := by
  have hkept := s.ct_applyWrite (g := fun c => (c.seqC.status, c.seqC.pc, c.notes)) (fun _ _ => rfl)
    { host := false, a := dpa / 64 * 64 } (List.replicate 64 0) true none none slot rank
  rw [hc] at hkept
  obtain ⟨c', hc', heq⟩ := Option.map_eq_some_iff.mp hkept
  simp only [Prod.mk.injEq] at heq
  exact ⟨c', hc', heq⟩

/-- A read that meets an error faults its word, and the line is zeroed; an error in the GDDR 7 counts for its channel. -/
theorem exec_lineRead_word {slot rank dpa : Nat} {s : State} {c : CoreTask} (hc : s.ct? slot rank = some c)
    (hd : dpa < dpaTop) (gddr : Bool) :
    let zeroed := (s.failWord slot rank (hardTrap .eccUncorrectable (if gddr then 2 else 1))).zeroLine dpa
    exec (.eccUncorrectable (.lineRead dpa slot rank .word gddr)) s =
      .next (if gddr then zeroed.countChannel dpa else zeroed) := by
  have hgo : ¬(dpaTop ≤ dpa ∨ (s.ct? slot rank).isNone = true) := by
    rw [hc]
    exact fun h => h.elim (Nat.not_le.mpr hd) Bool.false_ne_true
  refine (if_neg hgo).trans ?_
  simp only [State.failAccess, hc]
  rfl

/-- An error that meets the access of a C-sequencer's word faults the word, and zeroes the line that a read met. -/
theorem exec_failsWord {slot rank dpa : Nat} {gddr : Bool} {s : State} {c : CoreTask} {i : Instr} {code : Code}
    {cause : BitVec 2} (hc : s.ct? slot rank = some c) (hd : dpa < dpaTop)
    (h : (i = .fabricError slot rank .word ∧ code = .fabricError ∧ cause = 0) ∨
      (i = .eccUncorrectable (.lineRead dpa slot rank .word gddr) ∧ code = .eccUncorrectable ∧
        cause = if gddr then 2 else 1)) :
    let tr : Trap := { code := code, cause := cause, addr := s.currentVa slot rank }
    ∃ t c', exec i s = .next t ∧ t.ct? slot rank = some c' ∧ (c.seqC.status = .running → c'.seqC.status = .faulted) ∧
      c'.seqC.pc = c.seqC.pc ∧ c'.notes = c.notes ++ [tr.note 0 c.seqC.pc s.dtime] ∧
      ∀ b, Tab.get 0 t.m.dpa b =
        if i ≠ .fabricError slot rank .word ∧ b / 64 = dpa / 64 then 0 else Tab.get 0 s.m.dpa b := by
  obtain ⟨rfl, rfl, rfl⟩ | ⟨rfl, rfl, rfl⟩ := h
  · refine ⟨_, _, exec_fabricError_word hc, State.failWord_ct hc _, fun hr => if_pos hr, rfl, rfl, fun b => ?_⟩
    rw [State.failWord_dpa hc, if_neg fun h => h.1 rfl]
  · obtain ⟨c', hc', hstatus, hpc, hnotes⟩ := State.ct_zeroLine
      (State.failWord_ct hc (hardTrap .eccUncorrectable (if gddr then 2 else 1))) dpa
    have hdpa := (State.get_zeroLine (s.failWord slot rank (hardTrap .eccUncorrectable (if gddr then 2 else 1))) dpa).2
    rw [State.failWord_dpa hc] at hdpa
    refine ⟨_, c', exec_lineRead_word hc hd gddr, ?_, fun hr => hstatus.trans (if_pos hr), hpc, hnotes, fun b => ?_⟩
    · cases gddr <;> exact hc'
    · have hi : Instr.eccUncorrectable (.lineRead dpa slot rank .word gddr) ≠ .fabricError slot rank .word := by simp
      simp only [hi, ne_eq, not_false_eq_true, true_and]
      cases gddr <;> exact hdpa b

/-! ### Packets that no access sent (R290, log 43) -/

theorem exec_fabricError_unissued {p : Packet} (h : p.unissued = true) (slot rank : Nat) (s : State) :
    exec (.fabricError slot rank p) s =
      .next { s.losePacket slot rank p with irqs := (s.losePacket slot rank p).irqs ++ [.packetLost] } :=
  if_pos h

theorem State.losePacket_keeps {γ : Type} (g : State → γ)
    (hm : ∀ (s : State) v f, g { s with m := { s.m with slices := v, futures := f } } = g s)
    (hc : ∀ (s : State) slot rank f, g (s.updCt slot rank f) = g s) (s : State) (slot rank : Nat) (p : Packet) :
    g (s.losePacket slot rank p) = g s := by
  cases p with
  | wake | futureWake => exact hm ..
  | acceptance | refusal => exact hc ..
  | _ => rfl

/-- What the loss of such a packet does to the core-task that it names. -/
theorem State.ct_losePacket {s : State} {slot rank : Nat} {c : CoreTask} {p : Packet} (hp : p.unissued = true)
    (hc : s.ct? slot rank = some c) : ∃ c', (s.losePacket slot rank p).ct? slot rank = some c' ∧
      (∀ n, p = .refusal n → c' = { c with returns := c.returns.eraseIdx n }) ∧
      (∀ n, p = .acceptance n → c' = { c with flight := c.flight.modify n (fun x => { x with mute := true }) }) ∧
      ∀ sl n, p = .wake sl n → c' = c ∧ ((s.losePacket slot rank p).slice sl).pigeons =
        (s.slice sl).pigeons.modify n (fun x => { x with lost := true }) := by
  have hupd (f : CoreTask → CoreTask) : (s.updCt slot rank f).ct? slot rank = some (f c) := by
    rw [State.ct_updCt, if_pos ⟨rfl, rfl⟩, hc]
    rfl
  cases p with
  | wake sl n =>
    refine ⟨c, hc, nofun, nofun, fun _ _ h => ?_⟩
    cases h
    exact ⟨rfl, congrArg Slice.pigeons (Tab.get_set_self _ s.m.slices sl _)⟩
  | futureWake n => exact ⟨c, hc, nofun, nofun, nofun⟩
  | acceptance n => exact ⟨_, hupd _, nofun, fun _ h => by cases h; rfl, nofun⟩
  | refusal n => exact ⟨_, hupd _, fun _ h => by cases h; rfl, nofun, nofun⟩
  | _ => cases hp

/-! ### A scrub pass (R200) -/

theorem stale_iff (h x : Stamp) : stale h x = true ↔ 2 ^ 30 < (h - x).toNat ∧ (h - x).toNat < 2 ^ 31 := by
  rw [stale, Bool.and_eq_true, decide_eq_true_eq, decide_eq_true_eq]

theorem find_map_snd {α β : Type} (f : α → β) (t : Tab α) (k : Nat) :
    find (t.map (fun e => (e.1, f e.2))) k = (find t k).map f :=
  find_map (fun e => (e.1, f e.2)) (fun _ => rfl) t k

theorem RaceRec.mem_scrub_w (h : Stamp) (r : RaceRec) (x : Mark) :
    x ∈ (r.scrub h).w ↔ x ∈ r.w ∧ stale h x.stamp = false := by
  rw [RaceRec.scrub, List.mem_filter, Bool.not_eq_true']

theorem RaceRec.mem_scrub_r (h : Stamp) (r : RaceRec) (x : Mark) :
    x ∈ (r.scrub h).r ↔ x ∈ r.r ∧ stale h x.stamp = false := by
  rw [RaceRec.scrub, List.mem_filter, Bool.not_eq_true']

theorem find_scrubRaces (h : Stamp) (t : Tab RaceRec) (g : Nat) : find (scrubRaces h t) g = (find t g).map (·.scrub h) :=
  find_map_snd (RaceRec.scrub h) t g

/-- A semaphore that no release has written takes its stamp from the core-task's floor, which is lifted with the rest. -/
theorem CoreTask.sem_scrub (c : CoreTask) (h : Stamp) (n : Nat) : (c.scrub h).sem n = (c.sem n).scrub h := by
  have hfind : find (c.scrub h).sems n = (find c.sems n).map (·.scrub h) := find_map_snd (Obj.scrub h) c.sems n
  rw [CoreTask.sem, CoreTask.sem, hfind]
  cases find c.sems n <;> rfl

theorem CoreTask.seq_scrub (c : CoreTask) (h : Stamp) (q : SeqId) : (c.scrub h).seq q = (c.seq q).scrub h := by
  cases q <;> rfl

/-- The task after a scrub pass. -/
def Task.scrub (h : Stamp) (t : Task) : Task :=
  { t with gbarSt := lift h t.gbarSt, cts := t.cts.map (fun c => (c.1, c.2.scrub h)) }

theorem Task.ct_scrub (h : Stamp) (t : Task) (rank : Nat) : (t.scrub h).ct? rank = (t.ct? rank).map (·.scrub h) :=
  find_map_snd (CoreTask.scrub h) t.cts rank

theorem exec_scrubPass_ct {s t : State} (ht : exec .scrubPass s = .next t) (slot rank : Nat) :
    t.ct? slot rank = (s.ct? slot rank).map (·.scrub s.m.h) := by
  cases ht
  have htask : find (s.tasks.map (fun e => (e.1, e.2.scrub s.m.h))) slot = (find s.tasks slot).map (·.scrub s.m.h) :=
    find_map_snd (Task.scrub s.m.h) s.tasks slot
  refine (congrArg (·.bind (·.ct? rank)) htask).trans ?_
  rw [State.ct?, State.task?]
  cases find s.tasks slot with
  | none => rfl
  | some tk => exact tk.ct_scrub s.m.h rank

end Sys2Proof.Machine

namespace Sys2Proof.Proofs

open Sys2Proof.Machine

/-- Settles O54: each error by the unit, the access or the line that it meets; a scrub pass record by record and stamp by
stamp. -/
theorem hardwareErrors : Obligations.HardwareErrors := by
  refine ⟨⟨fun slot rank kind n s c hc site key h => ?_, fun slot rank q k s c i code cause hc hk h => exec_stopsUnit hc hk h,
      fun slot rank dpa gddr s c i code cause hc _ hd h => exec_failsWord hc hd h,
      fun slot rank idx s c x hc hx => exec_fabricError_store hc hx, fun slot rank p s hp => ?_,
      fun slot rank q s c hc hq => ?_, fun dpa gddr s hd => exec_eccUncorrectable_line hd gddr s⟩,
    fun s => ⟨_, rfl, rfl, rfl, rfl, rfl, fun g r hr => ⟨r.scrub s.m.h, ?_, rfl, r.mem_scrub_w s.m.h, r.mem_scrub_r s.m.h⟩,
      fun slot rank c hc => ⟨c.scrub s.m.h, ?_, fun n => ?_, fun q => ?_⟩, stale_iff⟩⟩
  · obtain ⟨rfl, rfl⟩ | ⟨rfl, rfl⟩ := h
    · exact ⟨_, exec_eccCorrectable_core hc kind, s.freeze_cases c.core⟩
    · exact ⟨_, rfl, s.freeze_cases (128 + n.val)⟩
  · refine ⟨_, exec_fabricError_unissued hp slot rank s, congrArg (· ++ _) (s.losePacket_keeps (·.irqs) (fun _ _ _ => rfl) (fun s slot rank f => by simp) slot rank p),
      s.losePacket_keeps (·.m.dpa) (fun _ _ _ => rfl) (fun s slot rank f => by simp) slot rank p,
      s.losePacket_keeps (·.m.host) (fun _ _ _ => rfl) (fun s slot rank f => by simp) slot rank p,
      fun c hc => State.ct_losePacket hp hc⟩
  · rw [exec_fabricError_fetch hc hq, CoreTask.hardFault, if_pos hq]
  · exact (find_scrubRaces s.m.h s.m.races g).trans (by rw [hr]; rfl)
  · exact (exec_scrubPass_ct rfl slot rank).trans (by rw [hc]; rfl)
  · rw [CoreTask.sem_scrub]
    exact ⟨rfl, rfl⟩
  · rw [CoreTask.seq_scrub]
    exact ⟨rfl, rfl, rfl⟩

end Sys2Proof.Proofs
end

section
/-! Translation and page requests (R166, R169 to R174, R178 to R181, R205): what the heap window, a walk, a leaf and the two
stages give; the request of a miss, and what each answer of the host does to the gangs that wait. -/

namespace Sys2Proof.Machine

/-! ### The heap window (R166, R169) -/

theorem Word.toNat_and_high (w : Word) :
    (w &&& BitVec.ofNat 64 (2 ^ 64 - 2 ^ 21)).toNat = fieldOf w 21 43 * 2 ^ 21 := by
  have hmask : ∀ i < 64, (BitVec.ofNat 64 (2 ^ 64 - 2 ^ 21)).getLsbD i = decide (21 ≤ i) := by decide
  have hshift : w &&& BitVec.ofNat 64 (2 ^ 64 - 2 ^ 21) = w >>> 21 <<< 21 := by
    refine BitVec.eq_of_getLsbD_eq fun i hi => ?_
    rw [BitVec.getLsbD_and, hmask i hi, BitVec.getLsbD_shiftLeft, BitVec.getLsbD_ushiftRight]
    by_cases h : 21 ≤ i
    · simp [h, hi, Nat.not_lt.mpr h]
    · simp [h, Nat.not_le.mp h]
  rw [hshift, fieldOf_eq w 21 (by decide), BitVec.toNat_shiftLeft, BitVec.toNat_ushiftRight, Nat.shiftLeft_eq,
    Nat.shiftRight_eq_div_pow]
  have := w.isLt
  omega

section
variable (s : State) (ctx : Nat) (need : Need) (va : Word)

theorem State.inWindow_iff : s.inWindow ctx va = true ↔ fieldOf (s.ctxWord ctx 0) 21 36 * 2 ^ 21 ≤ va.toNat ∧
    va.toNat < fieldOf (s.ctxWord ctx 0) 21 36 * 2 ^ 21 + fieldOf (s.ctxWord ctx 1) 21 36 * 2 ^ 21 := by
  rw [State.inWindow, Bool.and_eq_true, decide_eq_true_eq, decide_eq_true_eq, Nat.add_mul]

theorem State.windowDpa_eq :
    s.windowDpa ctx va = (va.toNat + fieldOf (s.ctxWord ctx 2) 21 43 * 2 ^ 21) % 2 ^ 64 := by
  rw [State.windowDpa, BitVec.toNat_add, Word.toNat_and_high]

/-- The checks of a VA in their order: its form, the heap window, the paging of its context. -/
theorem State.translate_cases :
    (2 ^ 57 ≤ va.toNat → s.translate ctx need va = .trap (pageTrap 1 va)) ∧
    (va.toNat < 2 ^ 57 → s.inWindow ctx va = true → s.translate ctx need va =
      if s.windowDpa ctx va < dpaTop then
        .ok { f := { host := false, a := s.windowDpa ctx va }, key := BitVec.ofNat 6 (fieldOf (s.ctxWord ctx 3) 8 6),
              keep := true, page := 2 ^ 21 }
      else .trap (pageTrap 0 va)) ∧
    (va.toNat < 2 ^ 57 → ¬s.inWindow ctx va = true → s.translate ctx need va =
      if (s.ctxWord ctx 3).getLsbD 0 then s.paged ctx need va else .trap (pageTrap 0 va)) :=
  ⟨fun h => if_pos h, fun h hw => (if_neg (Nat.not_le.mpr h)).trans (if_pos hw),
    fun h hw => (if_neg (Nat.not_le.mpr h)).trans (if_neg hw)⟩

end

/-! ### Walks and leaves (R170 to R172) -/

theorem walk_entry {read : Nat → EntryRes} {last : Bool} {a shift width size tab : Nat} {rest : List (Nat × Nat × Nat)}
    {e : Word} (he : read (tab + a / 2 ^ shift % 2 ^ width * 8) = .entry e) :
    walk read last a ((shift, width, size) :: rest) tab =
      if e.getLsbD 0 = false then .miss false
      else if e.getLsbD 1 then leafOf e last size (if e.getLsbD 7 then
        (List.range 16).map (fun i => read (tab + (a / 2 ^ shift % 2 ^ width / 16 * 16 + i) * 8)) else [])
      else if fieldOf e 52 12 ≠ 0 ∨ fieldOf e 5 7 ≠ 0 ∨ rest = [] then .trap .page 2
      else walk read last a rest (entryAddr e) := by
  simp only [walk, he]

theorem groupOk_iff (group : List EntryRes) : groupOk group = true ↔
    ∃ e0, group.head? = some (.entry e0) ∧ entryAddr e0 % 65536 = 0 ∧
      ∀ i < 16, group[i]? = some (.entry (e0 + BitVec.ofNat 64 (4096 * i))) := by
  rcases group with _ | ⟨_ | _ | _, es⟩ <;> simp [groupOk, Nat.mul_comm]

/-- Where a leaf's page begins, and its size. -/
def leafBase (e : Word) : Nat := if e.getLsbD 7 then entryAddr e / 65536 * 65536 else entryAddr e

theorem leafOf_eq (e : Word) (last : Bool) (size : Nat) (group : List EntryRes) : leafOf e last size group =
    if fieldOf e 59 5 ≠ 0 ∨ fieldOf e 8 4 ≠ 0 ∨ fieldOf e 5 2 = 3 ∨ (e.getLsbD 7 = true ∧ size ≠ 4096) ∨
      (e.getLsbD 58 = true ∧ last = false) ∨ size = 0 ∨ entryAddr e % size ≠ 0 ∨
      (e.getLsbD 7 = true ∧ ¬groupOk group = true) ∨
      (last = true ∧ e.getLsbD 58 = false ∧ dpaTop < leafBase e + if e.getLsbD 7 then 65536 else size)
    then .trap .page 2
    else .leaf { host := e.getLsbD 58, key := BitVec.ofNat 6 (fieldOf e 52 6), addr := leafBase e,
                 size := if e.getLsbD 7 then 65536 else size, cp := fieldOf e 5 2,
                 r := e.getLsbD 2, w := e.getLsbD 3, a := e.getLsbD 4 } := by
  rw [leafOf]
  refine if_ctx_congr ?_ (fun _ => rfl) fun _ => rfl
  simp only [Bool.or_eq_true, Bool.and_eq_true, decide_eq_true_eq, Bool.not_eq_true', Bool.not_eq_true, or_assoc,
    and_assoc, leafBase]

/-! ### Both stages (R173, R174, R178, R205) -/

section
variable {s : State} {ctx : Nat} {va : Word} (need : Need)

/-- The access lacks a permission that its page would have to give, or is an atomic one of a host page. -/
def Need.lacks (n : Need) (l : Leaf) : Prop :=
  (n.atomic = true ∧ l.host = true) ∨ (n.r = true ∧ l.r = false) ∨ (n.w = true ∧ l.w = false) ∨ (n.a = true ∧ l.a = false)

theorem State.useLeaf_cases (s : State) (va : Word) (l : Leaf) (x : Xl) :
    (need.lacks l → s.useLeaf need va l x = .trap (trapAt .perm va)) ∧
    (¬need.lacks l → s.useLeaf need va l x =
      if l.host = true ∧ s.hostPresent x.f.a = false then .miss (va.toNat / 4096) true else .ok x) := by
  unfold State.useLeaf
  simp only [Need.lacks, Bool.not_eq_true]
  constructor
  · intro h
    split
    · rfl
    · next ha => exact if_pos (h.resolve_left fun h => ha h.symm)
  · intro h
    rw [if_neg fun ha => h (.inl ha.symm), if_neg fun hp => h (.inr hp)]

theorem State.paged_miss {h : Bool} (h1 : s.stage1 ctx va.toNat = .miss h) :
    s.paged ctx need va = .miss (va.toNat / 4096) h := by
  rw [State.paged, h1]

theorem State.paged_trap {c : Code} {k : BitVec 2} (h1 : s.stage1 ctx va.toNat = .trap c k) :
    s.paged ctx need va = .trap { code := c, cause := k, addr := va } := by
  rw [State.paged, h1]

variable {l1 : Leaf} (h1 : s.stage1 ctx va.toNat = .leaf l1) (h2 : (s.ctxWord ctx 3).getLsbD 1 = true)
include h1 h2

theorem State.paged_miss2 {h : Bool} (hs : s.stage2 ctx (l1.addr + va.toNat % l1.size) = .miss h) :
    s.paged ctx need va = .miss (va.toNat / 4096) h := by
  simp only [State.paged, h1, h2, hs, if_true]

theorem State.paged_trap2 {c : Code} {k : BitVec 2} (hs : s.stage2 ctx (l1.addr + va.toNat % l1.size) = .trap c k) :
    s.paged ctx need va = .trap { code := c, cause := k, addr := va } := by
  simp only [State.paged, h1, h2, hs, if_true]

/-- The effective page of two stages. -/
theorem State.paged_leaf2 {l2 : Leaf} (hs : s.stage2 ctx (l1.addr + va.toNat % l1.size) = .leaf l2) :
    ∃ x, x.f = { host := l2.host, a := l2.addr + (l1.addr + va.toNat % l1.size) % l2.size } ∧ x.key = l2.key ∧
      x.cp = Nat.max l1.cp l2.cp ∧ x.page = Nat.min l1.size l2.size ∧ s.paged ctx need va = s.useLeaf need va
        { l2 with r := l1.r && l2.r, w := l1.w && l2.w, a := l1.a && l2.a, cp := Nat.max l1.cp l2.cp } x :=
  ⟨{ f := { host := l2.host, a := l2.addr + (l1.addr + va.toNat % l1.size) % l2.size }, key := l2.key,
     keep := decide (Nat.max l1.cp l2.cp ≠ 2) && !l2.host, page := Nat.min l1.size l2.size, first := some l1,
     second := some ((l1.addr + va.toNat % l1.size) / 4096, l2) },
    rfl, rfl, rfl, rfl, by simp only [State.paged, h1, h2, hs, if_true]⟩

end

/-! ### Page requests (R179) -/

theorem State.requested_iff (s : State) (ctx page : Nat) : s.requested ctx page = true ↔
    ∃ x ∈ s.r.prq, x.ctx = ctx ∧ x.page = page ∧ x.orphan = false := by
  simp [State.requested, and_assoc]

/-- The requests that may be sent. -/
def State.sendable (s : State) : List PageReq :=
  (s.r.prq.filter (fun q => !q.sent && !Tab.get false s.r.priStop (s.ctxFunc q.ctx))).take
    (Nat.min 512 s.r.prqHist - (s.r.prq.filter (·.sent)).length)

theorem State.mem_sendable {s : State} {q : PageReq} (h : q ∈ s.sendable) :
    q ∈ s.r.prq ∧ q.sent = false ∧ Tab.get false s.r.priStop (s.ctxFunc q.ctx) = false := by
  simpa using List.mem_filter.mp (List.mem_of_mem_take h)

theorem State.sendRequests_eq (s : State) : s.sendRequests = { s with
    r := { s.r with prq := s.r.prq.map (fun q => if s.sendable.contains q then { q with sent := true } else q) },
    irqs := s.irqs ++ s.sendable.map (fun q => .pageRequest q.ctx q.page q.need.1 q.need.2) } := rfl

/-- A request after the sending is one from before it, or one that is now sent. -/
theorem State.mem_sendRequests {s : State} {x : PageReq} (h : x ∈ s.sendRequests.r.prq) :
    x ∈ s.r.prq ∨ ∃ y ∈ s.sendable, x = { y with sent := true } := by
  obtain ⟨y, hy, rfl⟩ := List.mem_map.mp h
  split
  · next hc => exact .inr ⟨y, List.contains_iff_mem.mp hc, rfl⟩
  · exact .inl hy

theorem State.sendRequests_none {s : State} (h : s.sendable = []) : s.sendRequests = s := by
  rw [State.sendRequests_eq, h]
  simp

theorem State.sendable_of_sent {s : State} (h : ∀ x ∈ s.r.prq, x.sent = true) : s.sendable = [] :=
  List.eq_nil_iff_forall_not_mem.mpr fun q hq => by
    obtain ⟨hmem, hsent, -⟩ := State.mem_sendable hq
    rw [h q hmem] at hsent
    cases hsent

section
variable {s : State} {ctx page : Nat} {host : Bool} {need : Need}

/-- The request that a miss makes, before it is sent. -/
def newRequest (ctx page : Nat) (host : Bool) (need : Need) : PageReq :=
  { ctx := ctx, page := page, host := host, need := (need.r, need.w), sent := false, orphan := false }

/-- With every other request sent, the new one is the only one that may be sent. -/
theorem State.sendable_newRequest (hall : ∀ x ∈ s.r.prq, x.sent = true) :
    State.sendable { s with r := { s.r with prq := s.r.prq ++ [newRequest ctx page host need] } } =
      if (s.r.prq.filter (·.sent)).length < Nat.min 512 s.r.prqHist ∧
        Tab.get false s.r.priStop (s.ctxFunc ctx) = false then [newRequest ctx page host need] else [] := by
  have hnew : (s.r.prq ++ [newRequest ctx page host need]).filter (·.sent) = s.r.prq.filter (·.sent) := by
    rw [List.filter_append]
    exact List.append_nil _
  have hwait : (s.r.prq ++ [newRequest ctx page host need]).filter
      (fun q => !q.sent && !Tab.get false s.r.priStop (s.ctxFunc q.ctx)) =
        if Tab.get false s.r.priStop (s.ctxFunc ctx) = false then [newRequest ctx page host need] else [] := by
    rw [List.filter_append, List.filter_eq_nil_iff.mpr fun x hx => by simp [hall x hx]]
    cases hstop : Tab.get false s.r.priStop (s.ctxFunc ctx) <;> simp [newRequest, hstop]
  refine (congrArg₂ List.take (congrArg (Nat.min 512 s.r.prqHist - ·.length) hnew) hwait).trans ?_
  by_cases hstop : Tab.get false s.r.priStop (s.ctxFunc ctx) = false
  · rw [if_pos hstop]
    split
    · next h => exact List.take_of_length_le (Nat.sub_pos_of_lt h.1)
    · next h => rw [Nat.sub_eq_zero_of_le (Nat.not_lt.mp fun hlt => h ⟨hlt, hstop⟩), List.take_zero]
  · rw [if_neg hstop, if_neg fun h => hstop h.2, List.take_nil]

theorem State.requestPage_outstanding (h : ∃ x ∈ s.r.prq, x.ctx = ctx ∧ x.page = page ∧ x.orphan = false) :
    s.requestPage ctx page host need = s :=
  if_pos ((s.requested_iff ctx page).mpr h)

variable (hnew : ∀ x ∈ s.r.prq, ¬(x.ctx = ctx ∧ x.page = page ∧ x.orphan = false))
include hnew

theorem State.requestPage_new : s.requestPage ctx page host need =
    State.sendRequests { s with r := { s.r with prq := s.r.prq ++ [newRequest ctx page host need] } } :=
  if_neg fun h => by
    obtain ⟨x, hx, heq⟩ := (s.requested_iff ctx page).mp h
    exact hnew x hx heq

variable (hall : ∀ x ∈ s.r.prq, x.sent = true)
include hall

theorem State.requestPage_sends (hroom : (s.r.prq.filter (·.sent)).length < Nat.min 512 s.r.prqHist)
    (hstop : Tab.get false s.r.priStop (s.ctxFunc ctx) = false) : s.requestPage ctx page host need = { s with
      r := { s.r with prq := s.r.prq ++ [{ newRequest ctx page host need with sent := true }] },
      irqs := s.irqs ++ [.pageRequest ctx page need.r need.w] } := by
  rw [State.requestPage_new hnew, State.sendRequests_eq, State.sendable_newRequest hall, if_pos ⟨hroom, hstop⟩]
  have hold : s.r.prq.map (fun q => if [newRequest ctx page host need].contains q then { q with sent := true } else q) =
      s.r.prq := (List.map_congr_left fun x hx => by
    have hne : x ≠ newRequest ctx page host need := fun h => by
      have := hall x hx
      rw [h] at this
      cases this
    simp [hne]).trans (List.map_id _)
  dsimp only
  rw [List.map_append, hold]
  simp [newRequest]

theorem State.requestPage_waits (h : Nat.min 512 s.r.prqHist ≤ (s.r.prq.filter (·.sent)).length ∨
    Tab.get false s.r.priStop (s.ctxFunc ctx) = true) : s.requestPage ctx page host need =
      { s with r := { s.r with prq := s.r.prq ++ [newRequest ctx page host need] } } := by
  rw [State.requestPage_new hnew]
  refine State.sendRequests_none ((State.sendable_newRequest hall).trans (if_neg fun ⟨hlt, hs⟩ => ?_))
  rcases h with h | h
  · omega
  · rw [h] at hs
    cases hs

end

/-! ### What a miss gives (R179, R180) -/

theorem State.missTrap_eq {s : State} {slot : Nat} {t : Task} (ht : s.task? slot = some t) (rank kind ctx : Nat) (va : Word)
    (waddr : BitVec 32) : s.missTrap slot rank kind ctx va waddr =
      if s.prqEnabled ctx then
        if Tab.get false s.r.priStop (s.ctxFunc ctx) then some (trapAt .pageRefused va)
        else if 2 ≤ Tab.get 0 t.misses (missKey rank kind va waddr) then some (pageTrap 0 va) else none
      else some (pageTrap 0 va) := by
  rw [State.missTrap, ht]

/-- The three answers of such a choice. -/
theorem missAnswer_cases {on stop : Bool} {n : Nat} {res : Option Trap} {va : Word}
    (h : res = if on then if stop then some (trapAt .pageRefused va) else if 2 ≤ n then some (pageTrap 0 va) else none
      else some (pageTrap 0 va)) :
    (on = false ∨ (stop = false ∧ 2 ≤ n) → res = some (pageTrap 0 va)) ∧
    (on = true → stop = true → res = some (trapAt .pageRefused va)) ∧
    (on = true → stop = false → n < 2 → res = none) := by
  subst h
  refine ⟨?_, fun ho hs => by rw [if_pos ho, if_pos hs], fun ho hs hn => ?_⟩
  · rintro (rfl | ⟨rfl, hn⟩)
    · rfl
    · cases on
      · rfl
      · exact if_pos hn
  · subst ho hs
    exact if_neg (Nat.not_le.mpr hn)

/-! ### Answers of the host (R180, R181) -/

section
variable {s : State} {idx : Nat} {q : PageReq} (hh : s.ports.host = true)
  (hq : (s.r.prq.filter (·.sent))[idx]? = some q)
include hh hq

theorem respond_eq (start : PageReq → State → State) (go : PageReq → List Nat → State → State) :
    respond idx start go s = .next (if q.orphan then (s.answered q).lateResponse
      else go q (s.eventsWaiting q.ctx q.page) ((start q s).answered q)) := by
  have hout : s.outstanding idx = some q := hq
  rw [respond, hout]
  dsimp only
  rw [fromHost_on _ _ _ hh s.presented_zero]
  split <;> rfl

/-- An answer to a request whose context has been destroyed since is late, whatever it says. -/
theorem exec_pageResponse_late (ho : q.orphan = true) (code : BitVec 4) :
    exec (.pageResponseSuccess idx) s = .next (s.answered q).lateResponse ∧
      exec (.pageResponseInvalid idx code) s = .next (s.answered q).lateResponse ∧
      exec (.pageResponseFailure idx) s = .next (s.answered q).lateResponse := by
  rw [exec_pageResponseSuccess, execPageResponseSuccess, exec_pageResponseInvalid, execPageResponseInvalid,
    exec_pageResponseFailure, execPageResponseFailure, respond_eq hh hq, respond_eq hh hq, respond_eq hh hq, if_pos ho,
    if_pos ho, if_pos ho]
  exact ⟨rfl, rfl, rfl⟩

/-- What a refusal does while its context lives; a failure stops the function's requests first. -/
theorem exec_pageResponse_refused (ho : q.orphan = false) (code : BitVec 4) :
    exec (.pageResponseInvalid idx code) s =
        .next ((s.answered q).refuseAll q code (s.eventsWaiting q.ctx q.page)) ∧
      exec (.pageResponseFailure idx) s = .next ((State.answered { s with
        r := { s.r with priStop := Tab.set false s.r.priStop (s.ctxFunc q.ctx) true } } q).refuseAll q 0xF
          (s.eventsWaiting q.ctx q.page)) := by
  rw [exec_pageResponseInvalid, execPageResponseInvalid, exec_pageResponseFailure, execPageResponseFailure,
    respond_eq hh hq, respond_eq hh hq, ho]
  exact ⟨rfl, rfl⟩

end

/-- A function whose requests have been stopped sends none that waits. -/
theorem State.answered_stopped {s : State} {q x : PageReq} (hx : x ∈ (State.answered { s with
    r := { s.r with priStop := Tab.set false s.r.priStop (s.ctxFunc q.ctx) true } } q).r.prq)
    (hf : s.ctxFunc x.ctx = s.ctxFunc q.ctx) : x ∈ s.r.prq := by
  obtain hx | ⟨y, hy, rfl⟩ := State.mem_sendRequests hx
  · exact List.mem_of_mem_erase hx
  · obtain ⟨-, -, hoff⟩ := State.mem_sendable hy
    have hon : Tab.get false (Tab.set false s.r.priStop (s.ctxFunc q.ctx) true) (s.ctxFunc y.ctx) = true := by
      rw [show s.ctxFunc y.ctx = s.ctxFunc q.ctx from hf, Tab.get_set_self]
    exact Bool.noConfusion (hon.symm.trans hoff)

/-! ### Success: the gangs walk again -/

/-- A gang no longer waits for a request. -/
def State.walkAgain (q : PageReq) (s : State) (slot : Nat) : State :=
  (s.dropCond slot (ParkCond.waitsFor q)).wakeGang slot

/-- Every gang that waits for a request walks again. -/
def State.walkAll (s : State) (q : PageReq) : State := (s.tasks.map (·.1)).foldl (State.walkAgain q) s

theorem State.walkAgain_dpa (q : PageReq) (s : State) (slot : Nat) : (s.walkAgain q slot).m.dpa = s.m.dpa := by
  simp [State.walkAgain, State.wakeGang, State.dropCond]

theorem State.task_walkAgain_ne (q : PageReq) (s : State) {k slot : Nat} (h : slot ≠ k) :
    (s.walkAgain q k).task? slot = s.task? slot := by
  rw [State.walkAgain, State.wakeGang, State.task_updTask, if_neg h, State.dropCond, State.task_updTask, if_neg h]

theorem State.walkAgain_ready {q : PageReq} {s : State} {slot : Nat} (h : (s.task? slot).map (·.state) = some .ready)
    (k : Nat) : ((s.walkAgain q k).task? slot).map (·.state) = some .ready := by
  by_cases hk : slot = k
  · subst hk
    obtain ⟨t, ht, hr⟩ := Option.map_eq_some_iff.mp h
    simp [State.walkAgain, State.wakeGang, State.dropCond, State.task_updTask, ht, hr]
  · rwa [State.task_walkAgain_ne q s hk]

theorem State.foldl_walkAgain_stays {q : PageReq} {slot : Nat} (l : List Nat) {s : State}
    (h : (s.task? slot).map (·.state) = some .ready) :
    ((l.foldl (State.walkAgain q) s).task? slot).map (·.state) = some .ready := by
  induction l generalizing s with
  | nil => exact h
  | cons k l ih => exact ih (State.walkAgain_ready h k)

theorem State.foldl_walkAgain_ready {q : PageReq} {slot : Nat} {t : Task} (hp : t.state = .parked)
    (hc : ∀ k ∈ t.conds, ParkCond.waitsFor q k = true) {l : List Nat} {s : State} (ht : s.task? slot = some t)
    (hmem : slot ∈ l) : ((l.foldl (State.walkAgain q) s).task? slot).map (·.state) = some .ready := by
  induction l generalizing s with
  | nil => cases hmem
  | cons k l ih =>
    by_cases hk : slot = k
    · subst hk
      exact State.foldl_walkAgain_stays l (State.wakeGang_ready ht hp hc)
    · exact ih ((State.task_walkAgain_ne q s hk).trans ht) ((List.mem_cons.mp hmem).resolve_left hk)

/-- A gang that waits for nothing else returns to READY. -/
theorem State.walkAll_ready {s : State} {q : PageReq} {slot : Nat} {t : Task} (ht : s.task? slot = some t)
    (hp : t.state = .parked) (hc : ∀ k ∈ t.conds, ParkCond.waitsFor q k = true) :
    ((s.walkAll q).task? slot).map (·.state) = some .ready :=
  State.foldl_walkAgain_ready hp hc ht (List.mem_map.mpr ⟨(slot, t), mem_of_find ht, rfl⟩)

theorem State.eventsWaiting_none {s : State} {ctx : Nat} (h : ∀ e ∈ s.streams, e.2.ctx = ctx → e.2.evs = []) (page : Nat) :
    s.eventsWaiting ctx page = [] := by
  refine List.map_eq_nil_iff.mpr (List.filter_eq_nil_iff.mpr fun e he hw => ?_)
  simp only [Bool.and_eq_true, decide_eq_true_eq, and_assoc] at hw
  obtain ⟨hctx, hevs, -⟩ := hw
  rw [h e he hctx] at hevs
  cases hevs

theorem exec_pageResponseSuccess_live {s : State} {idx : Nat} {q : PageReq} (hh : s.ports.host = true)
    (hq : (s.r.prq.filter (·.sent))[idx]? = some q) (ho : q.orphan = false) : exec (.pageResponseSuccess idx) s =
      .next (((s.answered q).walkAll q).eventsAnswered q.page false (s.eventsWaiting q.ctx q.page)) := by
  rw [exec_pageResponseSuccess, execPageResponseSuccess, respond_eq hh hq, ho]
  rfl

/-! ### Refusal: one record a core-task -/

/-- The record of PAGE-REFUSED that a gang's one waiting access gives. -/
def pageRefusedNote (c : CoreTask) (code : BitVec 4) (kind : Nat) (va : Word) (waddr : BitVec 32) (now : Nat) : FaultNote :=
  { code := .pageRefused, kind := kind, waddr := waddr, addr := va, opc := if kind = 5 then c.copyOpc waddr else 0,
    detail := code.setWidth 48, time := now }

theorem firstPerRank_single {rank : Nat} (h : rank < 16) (n : FaultNote) : firstPerRank [(rank, n)] = [(rank, n)] := by
  have hall : ∀ r < 16, (List.range 16).filterMap (fun k => if r = k then some (r, n) else none) = [(r, n)] := by
    intro r hr
    interval_cases r <;> rfl
  refine (congrArg (List.filterMap · (List.range 16)) (funext fun k => ?_)).trans (hall rank h)
  by_cases hk : rank = k <;> simp [hk]

/-- A gang that waits for one page alone: its core-task's record, unless it has one of this stop, and the action of its
handler as its only condition. -/
theorem State.refuseGang_single {s : State} {slot rank kind : Nat} {t : Task} {c : CoreTask} {q : PageReq} {host : Bool}
    {va : Word} {waddr : BitVec 32} (code : BitVec 4) (ht : s.task? slot = some t) (hr : rank < 16)
    (hk : t.conds = [.page q.ctx q.page host rank kind va waddr]) (hc : t.ct? rank = some c) :
    ∃ cts, s.refuseGang slot q code = (if c.recorded then [] else
      [{ slot := slot, id := t.id, primary := true,
         words := faultWords t.id rank true (pageRefusedNote c code kind va waddr s.dtime) : WaitRec }]).foldl
        (fun s r => s.postRecord t.job r) (s.setTask slot { t with conds := [.action], cts := cts }) := by
  have hnotes : firstPerRank ((t.conds.filter (ParkCond.waitsFor q)).filterMap (refusedNote t code s.dtime)) =
      if c.recorded then [] else [(rank, pageRefusedNote c code kind va waddr s.dtime)] := by
    have hwaits : t.conds.filter (ParkCond.waitsFor q) = t.conds := by simp [hk, ParkCond.waitsFor]
    rw [hwaits, hk, List.filterMap_cons, refusedNote, hc]
    dsimp only
    cases c.recorded
    · exact firstPerRank_single hr _
    · rfl
  unfold State.refuseGang
  rw [ht]
  dsimp only
  rw [if_neg (by simp [hk, ParkCond.waitsFor]), hnotes]
  cases c.recorded <;> exact ⟨_, by simp [hk, ParkCond.waitsFor]; rfl⟩

/-- What such a refusal leaves of the gang, and what it adds to its job. -/
theorem State.refuseGang_leaves {s : State} {slot rank kind : Nat} {t : Task} {c : CoreTask} {q : PageReq} {host : Bool}
    {va : Word} {waddr : BitVec 32} {j : Job} (code : BitVec 4) (ht : s.task? slot = some t) (hr : rank < 16)
    (hk : t.conds = [.page q.ctx q.page host rank kind va waddr]) (hc : t.ct? rank = some c)
    (hj : find s.jobs t.job = some j) :
    ∃ t', (s.refuseGang slot q code).task? slot = some t' ∧ t'.conds = [.action] ∧ t'.state = t.state ∧
      find (s.refuseGang slot q code).jobs t.job = some { j with
        waiting := j.waiting ++ (if c.recorded then []
          else [{ slot := slot, id := t.id, primary := true,
                  words := faultWords t.id rank true (pageRefusedNote c code kind va waddr s.dtime) }]) } := by
  obtain ⟨cts, heq⟩ := State.refuseGang_single code ht hr hk hc
  have htask : (s.setTask slot { t with conds := [.action], cts := cts }).task? slot =
      some { t with conds := [.action], cts := cts } := (State.task_setTask ..).trans (if_pos rfl)
  have hjob : find (s.setTask slot { t with conds := [.action], cts := cts }).jobs t.job = some j := hj
  rw [heq]
  refine ⟨{ t with conds := [.action], cts := cts }, ?_, rfl, rfl, ?_⟩
  · cases c.recorded with
    | true => exact htask
    | false => exact (congrArg (State.task? · slot) (State.updJob_find hjob _)).trans htask
  · cases c.recorded with
    | true => simpa using hjob
    | false => exact (congrArg (find ·.jobs t.job) (State.updJob_find hjob _)).trans (find_put_self ..)

/-! ### The host's other messages (R180, R181) -/

theorem exec_latePageResponse_on {s : State} (hh : s.ports.host = true) :
    exec .latePageResponse s = .next s.lateResponse := by
  rw [exec_latePageResponse, execLatePageResponse, fromHost_on _ _ _ hh s.presented_zero]
  rfl

/-- A function's requests are enabled again, with an allocation. -/
def State.granted (s : State) (x : PriGrant) : State :=
  { s with r := { s.r with priStop := Tab.set false s.r.priStop x.vf.val false, prqHist := x.alloc.toNat } }

theorem State.granted_irqs (s : State) (x : PriGrant) (hall : ∀ x ∈ s.r.prq, x.sent = true) :
    (s.granted x).sendRequests.irqs = s.irqs := by
  rw [State.sendRequests_none (s := s.granted x) (State.sendable_of_sent hall)]
  rfl

theorem exec_priReenable_on {s : State} (hh : s.ports.host = true) (x : PriGrant) :
    exec (.priReenable x) s = .next (s.granted x).sendRequests := by
  rw [exec_priReenable, execPriReenable, fromHost_on _ _ _ hh s.presented_zero]
  rfl

end Sys2Proof.Machine

namespace Sys2Proof.Proofs

open Sys2Proof.Machine

/-- Settles O55: the rules of the window, of a walk, of a leaf and of two stages; the request and the trap of a miss; each
answer of the host by what it does to the requests and to the gangs that wait. -/
theorem translationAndPageResponses : Obligations.TranslationAndPageResponses := by
  refine ⟨⟨fun s ctx need va => ?_, fun read last a shift width size tab rest e he => ?_,
      fun e last size group => ?_, fun s ctx need va l1 l2 h1 h2 => ?_, fun s ctx need va c k => ?_⟩,
    ⟨fun s ctx page host need => ?_, fun s slot rank kind ctx va waddr t ht => ?_, fun s who ctx va => ?_⟩,
    fun idx code s q hh hq => ?_, fun s slot rank kind t c q host va waddr code j ht hr hk hc hj =>
      State.refuseGang_leaves code ht hr hk hc hj,
    fun s f n hh => ⟨exec_latePageResponse_on hh, fun _ => ?_⟩⟩
  · obtain ⟨hform, hwindow, hrest⟩ := s.translate_cases ctx need va
    rw [State.inWindow_iff, State.windowDpa_eq] at hwindow
    rw [State.inWindow_iff] at hrest
    refine ⟨hform, fun hva hin hd => ⟨_, (hwindow hva hin).trans (if_pos hd), rfl, ?_, rfl⟩,
      fun hva hin hd => (hwindow hva hin).trans (if_neg (Nat.not_lt.mpr hd)),
      fun hva hin hoff => (hrest hva hin).trans (if_neg (by rw [hoff]; decide))⟩
    exact (BitVec.toNat_ofNat ..).trans (Nat.mod_eq_of_lt (fieldOf_lt _ 8 (by decide)))
  · dsimp only
    rw [walk_entry he]
    refine ⟨fun h0 => if_pos h0, fun h0 h1 => ⟨fun hbad => ?_, fun hz hz' hn => ?_⟩, fun h0 h1 => ?_⟩
    · rw [if_neg (ne_false_of_eq_true h0), if_neg (ne_true_of_eq_false h1), if_pos hbad]
    · rw [if_neg (ne_false_of_eq_true h0), if_neg (ne_true_of_eq_false h1),
        if_neg fun h => h.elim (· hz) (·.elim (· hz') hn)]
    · rw [if_neg (ne_false_of_eq_true h0), if_pos h1]
  · have heq := leafOf_eq e last size group
    simp only [groupOk_iff] at heq
    exact ⟨fun h => heq.trans (if_pos h), fun h => heq.trans (if_neg h)⟩
  · intro a1 hs a2 lacks
    obtain ⟨x, hf, hkey, hcp, hpage, heq⟩ := State.paged_leaf2 need h1 h2 hs
    obtain ⟨hlacks, hgives⟩ := State.useLeaf_cases need s va
      { l2 with r := l1.r && l2.r, w := l1.w && l2.w, a := l1.a && l2.a, cp := Nat.max l1.cp l2.cp } x
    rw [hf] at hgives
    exact ⟨fun h => heq.trans (hlacks h), fun h => ⟨x, hf, hkey, hcp, hpage, heq.trans (hgives h)⟩⟩
  · exact ⟨fun h h1 => State.paged_miss need h1, fun h1 => State.paged_trap need h1, fun l1 h1 h2 =>
      ⟨fun h hs => State.paged_miss2 need h1 h2 hs, fun hs => State.paged_trap2 need h1 h2 hs⟩⟩
  · exact ⟨State.requestPage_outstanding, fun hnew hall =>
      ⟨State.requestPage_sends hnew hall, State.requestPage_waits hnew hall⟩⟩
  · exact missAnswer_cases (State.missTrap_eq ht rank kind ctx va waddr)
  · exact missAnswer_cases rfl
  · refine ⟨fun ho => exec_pageResponse_late hh hq ho code, fun ho =>
        ⟨⟨_, exec_pageResponseSuccess_live hh hq ho, fun hnone => ?_⟩, exec_pageResponse_refused hh hq ho code⟩,
      fun x hx _ hf => State.answered_stopped hx hf⟩
    rw [State.eventsWaiting_none hnone]
    exact ⟨foldl_keeps (fun s : State => s.m.dpa) (State.walkAgain_dpa q) _ _,
      fun slot tk ht hp hc => State.walkAll_ready ht hp hc⟩
  · refine ⟨_, exec_priReenable_on hh _, Tab.get_set_self false s.r.priStop f.val false, rfl, rfl, s.granted_irqs _⟩

end Sys2Proof.Proofs
end
